-- ==== Sys2Proof/Word.lean ====
section
/-! DEFINITION. The word types of the Fareus K4 and the plainest arithmetic on them (00_scope.md R7, R10).
Multi-byte values and in-memory records are little-endian naturals: a record of n bytes is the natural below 2^(8n)
whose byte at the lowest address is its bits 7:0 (R7). -/

namespace Sys2Proof

/-- One byte of memory. -/
abbrev Byte := BitVec 8
/-- One 32-bit register or instruction word (01_thread.md R18, 03_encoding.md R59). -/
abbrev Word := BitVec 32
/-- One 64-bit pair, low word in the lower register (01_thread.md R21). -/
abbrev DWord := BitVec 64
/-- A program counter: segment in bits 15:10 and word in bits 9:0 (01_thread.md R13). -/
abbrev Pc := BitVec 16

end Sys2Proof
end

