-- ==== Sys2Proof/Config.lean ====
section
/-! DEFINITION. What one implementation fixes, and the free values of the model: values the spec leaves open, which no
proof can see. A statement that mentions one holds for every value of it. -/

namespace Sys2Proof

/-- The group width of the K4 (01_thread.md R15, R27: sr.lanes reads 32). -/
def Config.lanes : Nat := 32
/-- Compute dies of a package (00_scope.md R1). -/
def Config.dies : Nat := 4
/-- Cores of a die (00_scope.md R1). -/
def Config.coresPerDie : Nat := 32
/-- Party slots of a core (10_core.md R231). -/
def Config.slotsPerCore : Nat := 16
/-- Stacks of a package (19_package_memory.md R377). -/
def Config.stackCount : Nat := 12

/-- Free value: the core clocks that pass at the step numbered by the argument (assumption 2, DESIGN CHOICE). -/
opaque Config.clkAdvance : Nat → Nat
/-- Free value: the reference ticks that pass at the step numbered by the argument (assumption 2, DESIGN CHOICE). -/
opaque Config.refAdvance : Nat → Nat
/-- Free value: the fixed mapping of SFN codes 1 and 3 to 7 on the inputs whose result 05_float.md R114 and R115
bound but do not state (assumption 5, DESIGN CHOICE). -/
opaque Config.sfnValue : Nat → Word → Word
/-- Free value: a byte of accumulator memory after a die reset, 12_tile_engine.md R292 (assumption 13, DESIGN CHOICE): the die reset's
number, the core and the offset. -/
opaque Config.accAfterReset : Nat → Nat → Nat → Byte
/-- Free value: the hops of the die network from a core of a die to a stack's memory port, 14_cluster.md R313 (assumption
30, DESIGN CHOICE): the core in the package and the stack. -/
opaque Config.hops : Nat → Nat → Nat
/-- Free value: the order and association in which an all-reduce outside deterministic mode combines its ranks,
28_fabric.md R484 (assumption 14, DESIGN CHOICE): the operation's number, the element and a count of combinations give which two of the
values still to combine meet next. -/
opaque Config.collKey : Nat → Nat → Nat → Nat
/-- Free value: how many elements a shadow reference has checked when it is cut off, 12_tile_engine.md R293 (assumption 15, DESIGN CHOICE):
the step's number. -/
opaque Config.shadowChecked : Nat → Nat
/-- Free value: how many chunks of an element of C an MMA or PLANE has accumulated while it runs, 12_tile_engine.md R290 (assumption
41, DESIGN CHOICE): the step's number and the element. -/
opaque Config.tileProgress : Nat → Nat → Nat
/-- Free value: what a 32-byte sector reads as under another key or tweak than its contents were encrypted under,
19_package_memory.md R390 (assumption 11, DEDUCED): key, BVER, buffer and unit of the one cipher and of the other, none of them
for no encryption, and the text. -/
opaque Config.cipherText : List Nat → List Nat → Nat → BitVec 256
/-- Free value: the signature of an attestation report by the device identity key, 27_bringup_power.md R464
(assumption 12, DESIGN CHOICE). -/
opaque Config.attestSignature : Nat → Nat

end Sys2Proof
end

