-- ==== Sys2Proof/Syntax.lean ====
section
/-! DEFINITION. The instruction set of the Fareus K4 as syntax: one constructor per row of spec/opcode_table.json.
The 178 encoded rows carry the raw fields of their 32-bit word (03_encoding.md R60, R61), so that a reserved field is a
trap of the instruction (R75, R78) and no decoding failure. The 122 rows without an encoding are events: what an engine,
a port, the directory, firmware or an outside agent does in one step (95_what_each_step_holds.md); their arguments name
the operation, slot, line or page concerned. The last 56 rows, acts of firmware, of management and of agents outside the
package, carry no argument of their own: they read the request in front of them, which State holds (Machine/State.lean,
Input). -/

namespace Sys2Proof

/-- A page of a buffer: owner context, buffer index and page index (19_package_memory.md R379, R384). -/
structure PageKey where
  ctx : Nat
  buf : Nat
  page : Nat
  deriving DecidableEq, Repr

/-- What a peer package answers to an access of this package (28_fabric.md R470, R472). -/
inductive PeerReply where
  /-- The access was performed, and a read or a value-returning atomic returns this value. -/
  | done (value : Nat)
  /-- The peer refuses the access: PEER_RIGHTS. -/
  | refused
  /-- The home package's translation faults with this cause code. -/
  | fault (cause : Nat)
  deriving DecidableEq, Repr

/-- A peer package's access to memory that this package homes (28_fabric.md R470). -/
structure PeerReq where
  pkg : Nat
  ctx : Nat
  buf : Nat
  offset : Nat
  /-- bytes -/
  size : Nat
  /-- 0 read, 1 write, 2 atomic, 3 atomic that returns a value, 4 clean, 5 discard, 6 write back and discard,
  7 arrivals at .pd barrier offset of pod group buf, data of them, 8 threads that leave the group, 9 arrivals withdrawn,
  10 update of a transaction barrier by code arrivals and data bytes (signed, 64 bits), 11 TBINIT of data, 12 a teardown's
  break of a transaction barrier, 13 update of an arrival word by data -/
  op : Nat
  /-- the atomic code of 07_memory_access.md R168 -/
  code : Nat
  /-- data written, or the atomic's operand (for CAS the compare value) -/
  data : Nat
  /-- CAS: the new value -/
  data2 : Nat
  deriving DecidableEq, Repr

/-- What one rank on another package brings to a collective (28_fabric.md R482 to R484). -/
structure CollPeer where
  rank : Nat
  kind : Nat
  op : Nat
  ty : Nat
  count : Nat
  /-- ALLREDUCE: the input's bytes; HALO: zero -/
  data : Nat
  /-- HALO: (peer rank, slot, length, 1 where it sends plus 2 where it receives) of each segment -/
  segs : List (Nat × Nat × Nat × Nat)
  deriving DecidableEq, Repr

/-- A unit whose errors are counted (25_resilience.md R442, R447). -/
inductive ErrUnit where
  /-- an entry of a directory slice, 0 to 11 -/
  | dirEntry (slice entry : Nat)
  /-- a bank row: stack, pseudo-channel, bank, row -/
  | row (stack pc bank row : Nat)
  /-- a lane by channel number: UALink 768 to 839, Ethernet 840 to 847, die-to-datum link 1,052 to 1,055 -/
  | lane (channel : Nat)
  /-- a register-file slot -/
  | regSlot (slot : Nat)
  /-- a word of a core's scratchpad or L1 -/
  | sramWord (core word : Nat)
  /-- a word of a core's instruction memory -/
  | imemWord (core word : Nat)
  /-- a word of a core's accumulator memory -/
  | accWord (core word : Nat)
  /-- an entry of a core's layout-record cache -/
  | layEntry (core handle : Nat)
  /-- an L2 line of a die -/
  | l2Line (die line : Nat)
  deriving DecidableEq, Repr

/-- A firmware component (27_bringup_power.md R462). -/
inductive Component where
  | monument
  | bind (die : Nat)
  | port (stack : Nat)
  /-- link 0 to 17 a UALink port, 18 the Ethernet port -/
  | link (port : Nat)
  deriving DecidableEq, Repr

/-- A temperature's source (27_bringup_power.md R468). -/
inductive TempSource where
  | die (die : Nat)
  | stack (stack : Nat)
  /-- the inlet of the liquid loop (R467) -/
  | inlet
  deriving DecidableEq, Repr

/-- A firmware component's image as it is verified (27_bringup_power.md R461). -/
structure Image where
  version : Nat
  digest : Nat
  /-- the digest of the signing key -/
  key : Nat
  /-- the digest of the root that certifies the key, if one does -/
  certifiedBy : Option Nat
  /-- the signature verifies under the key -/
  signed : Bool
  deriving DecidableEq, Repr

/-- What the boot ROM finds at power-on (27_bringup_power.md R460, R461). -/
structure BootInputs where
  rootDigest : Nat
  identity : Nat
  /-- anti-rollback counters in component order: monument, bind, port, link -/
  rollback : List Nat
  /-- the first of steps 1, 2, 3, 4 and 6 that fails for another reason than an image -/
  failsAt : Option Nat
  /-- the dies that fail step 5 -/
  dieFails : List Nat
  /-- the key slots loaded at step 4, each with its key -/
  keys : List (Nat × Nat)
  /-- the power and cooling tables loaded at step 4 -/
  tables : Nat
  /-- the images in component order -/
  images : List Image
  /-- the package's index in its pod, 0 for a package of no pod (28_fabric.md R469) -/
  pkg : Nat
  /-- where Raleb keeps the package error log's control block, a PPA, and log2 of its records -/
  logAddr : Nat
  logN : Nat
  /-- the frames Raleb keeps free, by stack (19_package_memory.md R382) -/
  pools : List (Nat × List Nat)
  /-- the slots that a fuse disabled at test (10_core.md R237) -/
  fused : List Nat
  deriving DecidableEq, Repr

/-- A management register field that Raleb sets and reports, or a slot's control word (10_core.md R235). -/
inductive MgmtReg where
  | holdLimit
  | age
  | reservation
  | quiesceDeadline
  | peerTimeout
  | escalatedHold
  /-- threshold T of a unit kind: 0 bank row, 1 lane, 2 register-file slot, 3 SRAM or instruction word -/
  | threshold (kind : Nat)
  /-- window W of a unit kind in ticks -/
  | window (kind : Nat)
  | keySlot (slot : Nat)
  | saveAddr (slot : Nat)
  | slotControl (slot : Nat)
  | slotStatus (slot : Nat)
  | errorRegs (core : Nat)
  deriving DecidableEq, Repr

/-- A connection's kind (28_fabric.md R474). -/
inductive ConnKind where
  | roceRc
  | uetRod
  | uetRud
  deriving DecidableEq, Repr

/-- What a management request asks of a buffer table (19_package_memory.md R379, R394). -/
inductive TableRequest where
  /-- write the 64-byte entry -/
  | entry
  /-- install a versioned buffer whose OPEN is the argument -/
  | versioned (opn : Nat)
  /-- write one page-table word at a PPA: the entry argument is the 8-byte value -/
  | pageWord (ppa : Nat)
  deriving DecidableEq, Repr

/-- The instruction set: one constructor per row of spec/opcode_table.json, the encoded rows first in its order. -/
inductive Instr where
  /-- IADD (R88): Adds two 32-bit registers, wrapping modulo 2^32. -/
  | iadd (d a b : BitVec 8)
  /-- ISUB (R88): Subtracts two 32-bit registers, wrapping modulo 2^32. -/
  | isub (d a b : BitVec 8)
  /-- IADD64 (R88): Adds two 64-bit register pairs, wrapping modulo 2^64. -/
  | iadd64 (d a b : BitVec 8)
  /-- ISUB64 (R88): Subtracts two 64-bit register pairs, wrapping modulo 2^64. -/
  | isub64 (d a b : BitVec 8)
  /-- IMUL (R88): Writes the low 32 bits of the product of two registers. -/
  | imul (d a b : BitVec 8)
  /-- IMULHI (R88): Writes the high 32 bits of the signed product. -/
  | imulhi (d a b : BitVec 8)
  /-- NMULHI (R88): Writes the high 32 bits of the unsigned product. -/
  | nmulhi (d a b : BitVec 8)
  /-- IMAD (R88): Writes the low 32 bits of A times B plus C. -/
  | imad (d a b : BitVec 8)
  /-- NMAD64 (R88): Writes the 64-bit unsigned product of A and B plus the pair C. -/
  | nmad64 (d a b : BitVec 8)
  /-- NDIV (R89): Writes the truncated unsigned quotient, all ones for a zero divisor. -/
  | ndiv (d a b : BitVec 8)
  /-- NREM (R89): Writes the unsigned remainder, the dividend for a zero divisor. -/
  | nrem (d a b : BitVec 8)
  /-- IMIN (R88): Writes the signed minimum of two registers. -/
  | imin (d a b : BitVec 8)
  /-- IMAX (R88): Writes the signed maximum of two registers. -/
  | imax (d a b : BitVec 8)
  /-- NMIN (R88): Writes the unsigned minimum of two registers. -/
  | nmin (d a b : BitVec 8)
  /-- NMAX (R88): Writes the unsigned maximum of two registers. -/
  | nmax (d a b : BitVec 8)
  /-- IADDS (R88): Writes the signed sum of two registers, saturated to 32 bits. -/
  | iadds (d a b : BitVec 8)
  /-- AND (R90): Writes the bitwise AND of two registers. -/
  | and (d a b : BitVec 8)
  /-- OR (R90): Writes the bitwise OR of two registers. -/
  | or (d a b : BitVec 8)
  /-- XOR (R90): Writes the bitwise XOR of two registers. -/
  | xor (d a b : BitVec 8)
  /-- ANDN (R90): Writes A AND NOT B. -/
  | andn (d a b : BitVec 8)
  /-- SHL (R90): Shifts A left by B, giving zero for counts of 32 or more. -/
  | shl (d a b : BitVec 8)
  /-- SHR (R90): Shifts A right logically by B. -/
  | shr (d a b : BitVec 8)
  /-- SRA (R90): Shifts A right arithmetically by B. -/
  | sra (d a b : BitVec 8)
  /-- ROTL (R90): Rotates A left by B[4:0]. -/
  | rotl (d a b : BitVec 8)
  /-- FUNSH (R91): Shifts the 64-bit concatenation B:A right by C[5:0] and keeps the low word. -/
  | funsh (d a b : BitVec 8)
  /-- POPC (R92): Writes the number of 1 bits of A. -/
  | popc (d a b : BitVec 8)
  /-- CLZ (R92): Writes the number of leading zero bits of A. -/
  | clz (d a b : BitVec 8)
  /-- BREV (R92): Writes A with its bits reversed. -/
  | brev (d a b : BitVec 8)
  /-- BFX (R94): Extracts a bit field of A under the control word in B. -/
  | bfx (d a b : BitVec 8)
  /-- BFI (R94): Inserts the low bits of B into A under the control word in C. -/
  | bfi (d a b : BitVec 8)
  /-- BDEP (R95): Deposits the low bits of the pair A at the positions set in mask B. -/
  | bdep (d a b : BitVec 8)
  /-- BEXT (R95): Gathers the bits of the pair A at the positions set in mask B. -/
  | bext (d a b : BitVec 8)
  /-- BPERM (R96): Permutes the bits of the pair A by 64 six-bit indices held in 12 w registers. -/
  | bperm (d a b : BitVec 8)
  /-- BMM8 (R97): Multiplies two 8x8 bit matrices over GF(2). -/
  | bmm8 (d a b : BitVec 8)
  /-- IEQ (R98): Writes 1 if A equals B, else 0. -/
  | ieq (d a b : BitVec 8)
  /-- INE (R98): Writes 1 if A differs from B, else 0. -/
  | ine (d a b : BitVec 8)
  /-- ILT (R98): Writes 1 if A is signed-less than B. -/
  | ilt (d a b : BitVec 8)
  /-- ILE (R98): Writes 1 if A is signed-less than or equal to B. -/
  | ile (d a b : BitVec 8)
  /-- NLT (R98): Writes 1 if A is unsigned-less than B. -/
  | nlt (d a b : BitVec 8)
  /-- NLE (R98): Writes 1 if A is unsigned-less than or equal to B. -/
  | nle (d a b : BitVec 8)
  /-- SEL (R98): Writes A when C is nonzero, else B. -/
  | sel (d a b : BitVec 8)
  /-- LI (R99): Writes the sign-extended 16-bit immediate. -/
  | li (d : BitVec 8) (imm : BitVec 16)
  /-- LIH (R99): Replaces the high half of D with the 16-bit immediate. -/
  | lih (d : BitVec 8) (imm : BitVec 16)
  /-- RNDC (R101): Writes the counter-based random value rndc(key A, counter B). -/
  | rndc (d a b : BitVec 8)
  /-- FADD (R110): Adds two binary32 values with one rounding. -/
  | fadd (d a b : BitVec 8)
  /-- FSUB (R110): Subtracts two binary32 values with one rounding. -/
  | fsub (d a b : BitVec 8)
  /-- FMUL (R110): Multiplies two binary32 values with one rounding. -/
  | fmul (d a b : BitVec 8)
  /-- FFMA (R110): Computes binary32 A times B plus C with one rounding. -/
  | ffma (d a b : BitVec 8)
  /-- FMIN (R116): Returns the smaller binary32 operand under the NaN rules. -/
  | fmin (d a b : BitVec 8)
  /-- FMAX (R116): Returns the larger binary32 operand under the NaN rules. -/
  | fmax (d a b : BitVec 8)
  /-- FEQ (R117): Compares two binary32 values for equality. -/
  | feq (d a b : BitVec 8)
  /-- FLT (R117): Compares binary32 A less than B. -/
  | flt (d a b : BitVec 8)
  /-- FLE (R117): Compares binary32 A less than or equal to B. -/
  | fle (d a b : BitVec 8)
  /-- FUNO (R117): Writes 1 if either binary32 operand is a NaN. -/
  | funo (d a b : BitVec 8)
  /-- DADD (R110): Adds two binary64 pairs with one rounding. -/
  | dadd (d a b : BitVec 8)
  /-- DSUB (R110): Subtracts two binary64 pairs with one rounding. -/
  | dsub (d a b : BitVec 8)
  /-- DMUL (R110): Multiplies two binary64 pairs with one rounding. -/
  | dmul (d a b : BitVec 8)
  /-- DFMA (R110): Computes binary64 A times B plus C with one rounding. -/
  | dfma (d a b : BitVec 8)
  /-- DMIN (R116): Returns the smaller binary64 operand. -/
  | dmin (d a b : BitVec 8)
  /-- DMAX (R116): Returns the larger binary64 operand. -/
  | dmax (d a b : BitVec 8)
  /-- DEQ (R117): Compares two binary64 pairs for equality into one register. -/
  | deq (d a b : BitVec 8)
  /-- DLT (R117): Compares binary64 A less than B. -/
  | dlt (d a b : BitVec 8)
  /-- DLE (R117): Compares binary64 A less than or equal to B. -/
  | dle (d a b : BitVec 8)
  /-- DUNO (R117): Writes 1 if either binary64 operand is a NaN. -/
  | duno (d a b : BitVec 8)
  /-- PFMAH (R112): Performs two packed binary16 fused multiply-adds. -/
  | pfmah (d a b : BitVec 8)
  /-- PFMAB (R112): Performs two packed BF16 fused multiply-adds. -/
  | pfmab (d a b : BitVec 8)
  /-- SFN (R114): Applies the binary32 special function that the B code selects. -/
  | sfn (d a b : BitVec 8)
  /-- FDIV (R113): Divides two binary32 values, correctly rounded. -/
  | fdiv (d a b : BitVec 8)
  /-- DDIV (R113): Divides two binary64 values, correctly rounded. -/
  | ddiv (d a b : BitVec 8)
  /-- DSQRT (R113): Takes the correctly rounded binary64 square root. -/
  | dsqrt (d a b : BitVec 8)
  /-- CVT (R122): Converts between the float and integer formats named by the DST and SRC codes. -/
  | cvt (d a b : BitVec 8)
  /-- CVTS (R124): Encodes or decodes one element of a format slot. -/
  | cvts (d a b : BitVec 8)
  /-- FCLASS (R119): Writes class masks of A as binary32 and as binary64. -/
  | fclass (d a b : BitVec 8)
  /-- FSCALE (R118): Computes binary32 A times 2 to the signed B. -/
  | fscale (d a b : BitVec 8)
  /-- DSCALE (R118): Computes binary64 A times 2 to the signed B. -/
  | dscale (d a b : BitVec 8)
  /-- FRND (R120): Rounds binary32 A to an integral value by the mode. -/
  | frnd (d a b : BitVec 8)
  /-- BNZ (R131): Branches within the segment when the condition register is nonzero. -/
  | bnz (d : BitVec 8) (imm : BitVec 16)
  /-- BZ (R131): Branches within the segment when the condition register is zero. -/
  | bz (d : BitVec 8) (imm : BitVec 16)
  /-- JMPF (R132): Jumps to a PC in any landed segment. -/
  | jmpf (d a b : BitVec 8)
  /-- CALLF (R132): Jumps to a PC in any landed segment and writes the link. -/
  | callf (d a b : BitVec 8)
  /-- RET (R132): Returns to the PC held in a register, as JMPF. -/
  | ret (d a b : BitVec 8)
  /-- WAITN (R137): Holds the thread until its outstanding-operation counters reach their thresholds. -/
  | waitn (d : BitVec 8) (imm : BitVec 16)
  /-- WAITC (R141): Reads a condition block and waits, any-of or all-of, with a timeout. -/
  | waitc (d a b : BitVec 8)
  /-- XLN (R146): Copies a value from a source thread of the participation set once all have arrived. -/
  | xln (d a b : BitVec 8)
  /-- XRED (R147): Reduces A over the participation set in a fixed tree. -/
  | xred (d a b : BitVec 8)
  /-- ELECT (R149): Chooses the lowest-indexed thread of the participation set. -/
  | elect (d a b : BitVec 8)
  /-- VOTE (R148): Evaluates ballot, any, all, count or eq of A over the participation set. -/
  | vote (d a b : BitVec 8)
  /-- BAR (R151): Arrives at a barrier and holds until its phase advances. -/
  | bar (d a b : BitVec 8)
  /-- BARA (R151): Arrives at a barrier, writes its phase and continues. -/
  | bara (d a b : BitVec 8)
  /-- EXIT (R153): Ends each enabled thread and removes it from participation sets and barriers. -/
  | exit (d a b : BitVec 8)
  /-- LDB (R164): Issues a 1-byte load, zero-extended. -/
  | ldb (d a b : BitVec 8)
  /-- LDH (R164): Issues a 2-byte load, zero-extended. -/
  | ldh (d a b : BitVec 8)
  /-- LDW (R164): Issues a 4-byte load. -/
  | ldw (d a b : BitVec 8)
  /-- LDD (R164): Issues an 8-byte load into a pair. -/
  | ldd (d a b : BitVec 8)
  /-- LDQ (R164): Issues a 16-byte load into a quad. -/
  | ldq (d a b : BitVec 8)
  /-- STB (R164): Issues a 1-byte store. -/
  | stb (d a b : BitVec 8)
  /-- STH (R164): Issues a 2-byte store. -/
  | sth (d a b : BitVec 8)
  /-- STW (R164): Issues a 4-byte store. -/
  | stw (d a b : BitVec 8)
  /-- STD (R164): Issues an 8-byte store, optionally a bound release. -/
  | std (d a b : BitVec 8)
  /-- STQ (R164): Issues a 16-byte store. -/
  | stq (d a b : BitVec 8)
  /-- LDV (R400): Issues a versioned load of the plat sr.ver minus k. -/
  | ldv (d a b : BitVec 8)
  /-- ATOM (R169): Issues an atomic read-modify-write that returns no value. -/
  | atom (d a b : BitVec 8)
  /-- ATOMR (R169): Issues an atomic read-modify-write that returns the old value. -/
  | atomr (d a b : BitVec 8)
  /-- FENCE (R171): Places an acquire, release or both ordering point at its scope. -/
  | fence (d a b : BitVec 8)
  /-- CLNR (R173): Cleans every cached line of a range to DRAM. -/
  | clnr (d a b : BitVec 8)
  /-- INVR (R173): Invalidates every cached line of a range, discarding or writing back. -/
  | invr (d a b : BitVec 8)
  /-- CPYT (R267): Issues a tile copy between a tensor and scratchpad. -/
  | cpyt (d a b : BitVec 8)
  /-- CPYL (R265): Issues a linear copy of a byte range. -/
  | cpyl (d a b : BitVec 8)
  /-- CPYM (R307): Issues a multicast copy to several ranks or cluster blocks. -/
  | cpym (d a b : BitVec 8)
  /-- ARRV (R255): Updates an arrival word or a transaction barrier. -/
  | arrv (d a b : BitVec 8)
  /-- MMA (R282): Issues a tile multiply-accumulate command to the tile engine. -/
  | mma (d a b : BitVec 8)
  /-- MDRN (R287): Issues a drain of an accumulator tile to scratchpad or memory. -/
  | mdrn (d a b : BitVec 8)
  /-- LRLD (R260): Installs a dynamic layout record from memory. -/
  | lrld (d a b : BitVec 8)
  /-- CFETCH (R134): Queues a fetch or drop of a code segment. -/
  | cfetch (d a b : BitVec 8)
  /-- CUTSEL (R363): Issues a cut-selection command for one view. -/
  | cutsel (d a b : BitVec 8)
  /-- RAST (R365): Issues a raster command over cut-list entries. -/
  | rast (d a b : BitVec 8)
  /-- RAYQ (R368): Issues a ray query over cut-list entries. -/
  | rayq (d a b : BitVec 8)
  /-- BKQ (R411): Checks and sends a bank command block to a memory port. -/
  | bkq (d a b : BitVec 8)
  /-- GATH (R176): Issues a gather of indexed elements into scratchpad. -/
  | gath (d a b : BitVec 8)
  /-- COLL (R481): Issues a halo or all-reduce collective command. -/
  | coll (d a b : BitVec 8)
  /-- TRAP (R225): Raises software trap 0x30 + n after completing. -/
  | trap (d a b : BitVec 8)
  /-- SRD (R154): Reads a status register into D. -/
  | srd (d a b : BitVec 8)
  /-- SWR (R227): Writes a status register. -/
  | swr (d a b : BitVec 8)
  /-- TRET (R228): Leaves handler mode and resumes at sr.tpc. -/
  | tret (d a b : BitVec 8)
  /-- NOP (R155): Changes nothing but the PC. -/
  | nop (d a b : BitVec 8)
  /-- BKPT (R226): Raises BREAK precisely at its own PC. -/
  | bkpt (d a b : BitVec 8)
  /-- LDVQ (R400): Issues a 16-byte versioned load. -/
  | ldvq (d a b : BitVec 8)
  /-- UADD (R104): Uniform 32-bit add. -/
  | uadd (d a b : BitVec 8)
  /-- USUB (R104): Uniform 32-bit subtract. -/
  | usub (d a b : BitVec 8)
  /-- UADD64 (R104): Uniform 64-bit add on w pairs. -/
  | uadd64 (d a b : BitVec 8)
  /-- UMUL (R104): Uniform low 32-bit multiply. -/
  | umul (d a b : BitVec 8)
  /-- UMAD (R104): Uniform multiply-add into D. -/
  | umad (d a b : BitVec 8)
  /-- UAND (R104): Uniform bitwise AND. -/
  | uand (d a b : BitVec 8)
  /-- UOR (R104): Uniform bitwise OR. -/
  | uor (d a b : BitVec 8)
  /-- UXOR (R104): Uniform bitwise XOR. -/
  | uxor (d a b : BitVec 8)
  /-- USHL (R104): Uniform left shift. -/
  | ushl (d a b : BitVec 8)
  /-- USHR (R104): Uniform logical right shift. -/
  | ushr (d a b : BitVec 8)
  /-- USRA (R104): Uniform arithmetic right shift. -/
  | usra (d a b : BitVec 8)
  /-- UPOPC (R104): Uniform population count. -/
  | upopc (d a b : BitVec 8)
  /-- UCLZ (R104): Uniform count of leading zeros. -/
  | uclz (d a b : BitVec 8)
  /-- UEQ (R104): Uniform equality compare. -/
  | ueq (d a b : BitVec 8)
  /-- UNE (R104): Uniform inequality compare. -/
  | une (d a b : BitVec 8)
  /-- ULT (R104): Uniform signed less-than compare. -/
  | ult (d a b : BitVec 8)
  /-- ULE (R104): Uniform signed less-or-equal compare. -/
  | ule (d a b : BitVec 8)
  /-- UNLT (R104): Uniform unsigned less-than compare. -/
  | unlt (d a b : BitVec 8)
  /-- UNLE (R104): Uniform unsigned less-or-equal compare. -/
  | unle (d a b : BitVec 8)
  /-- USEL (R104): Uniform select on D as condition. -/
  | usel (d a b : BitVec 8)
  /-- ULI (R104): Uniform load of a sign-extended immediate. -/
  | uli (d : BitVec 8) (imm : BitVec 16)
  /-- ULIH (R104): Uniform replacement of the high half by an immediate. -/
  | ulih (d : BitVec 8) (imm : BitVec 16)
  /-- UMIN (R104): Uniform signed minimum. -/
  | umin (d a b : BitVec 8)
  /-- UMAX (R104): Uniform signed maximum. -/
  | umax (d a b : BitVec 8)
  /-- UBNZ (R131): Uniform branch on a nonzero w condition, moving the issuing group. -/
  | ubnz (d : BitVec 8) (imm : BitVec 16)
  /-- UBZ (R131): Uniform branch on a zero w condition, moving the issuing group. -/
  | ubz (d : BitVec 8) (imm : BitVec 16)
  /-- UJMPF (R133): Uniform fenced jump for the issuing group. -/
  | ujmpf (d a b : BitVec 8)
  /-- UCALLF (R133): Uniform fenced call writing a w link. -/
  | ucallf (d a b : BitVec 8)
  /-- URET (R133): Uniform return to a w target. -/
  | uret (d a b : BitVec 8)
  /-- USRD (R154): Uniform read of a party-wide status register into w. -/
  | usrd (d a b : BitVec 8)
  /-- ULDW (R179): Uniform 4-byte relaxed load into w. -/
  | uldw (d a b : BitVec 8)
  /-- ULDD (R179): Uniform 8-byte relaxed load into a w pair. -/
  | uldd (d a b : BitVec 8)
  /-- ULDQ (R179): Uniform 16-byte relaxed load into a w quad. -/
  | uldq (d a b : BitVec 8)
  /-- USTW (R179): Uniform 4-byte relaxed store. -/
  | ustw (d a b : BitVec 8)
  /-- USTD (R179): Uniform 8-byte relaxed store. -/
  | ustd (d a b : BitVec 8)
  /-- UATOMR (R179): Uniform value-returning atomic. -/
  | uatomr (d a b : BitVec 8)
  /-- ULDV (R400): Uniform versioned load for the issuing group. -/
  | uldv (d a b : BitVec 8)
  /-- UPREF (R180): Prefetches a line into the L2 and optionally the L1, never faulting. -/
  | upref (d a b : BitVec 8)
  /-- RBIND (R201): Binds a region to a sync object in the launch's binding table. -/
  | rbind (d a b : BitVec 8)
  /-- RUNBIND (R202): Frees a binding-table entry by handle. -/
  | runbind (d a b : BitVec 8)
  /-- CRDECL (R326): Declares a commutative range in the launch's range table. -/
  | crdecl (d a b : BitVec 8)
  /-- CREND (R330): Combines and ends a commutative range. -/
  | crend (d a b : BitVec 8)
  /-- VPOST (R401): Publishes the open version of a versioned buffer. -/
  | vpost (d a b : BitVec 8)
  /-- VOPEN (R402): Takes or releases a hold on a plat. -/
  | vopen (d a b : BitVec 8)
  /-- MIGR (R313): Moves the party to another core of its block. -/
  | migr (d a b : BitVec 8)
  /-- LAUNCH (R344): Appends a launch record to a device launch queue. -/
  | launch (d a b : BitVec 8)
  /-- TBINIT (R256): Initialises a transaction barrier and optionally registers it. -/
  | tbinit (d a b : BitVec 8)
  /-- ABINIT (R256): Initialises an arrival word's target and count. -/
  | abinit (d a b : BitVec 8)
  /-- UTRAP (R225): Uniform software trap for every thread of the group. -/
  | utrap (d a b : BitVec 8)
  /-- UNOP (R155): Uniform no-operation. -/
  | unop (d a b : BitVec 8)
  /-- PLANE (R285): Issues a plane-array nested-integer multiply command. -/
  | plane (d a b : BitVec 8)
  /-- ACCESS_TRANSLATE (R386): An issued access reaches translation and is performed, faulted or held. -/
  | accessTranslate (op : Nat) (reply : Option PeerReply)
  /-- COW_COMPLETE (R398): The copy-on-write finishes, the leaf entry is updated and held accesses replay. -/
  | cowComplete (page : PageKey)
  /-- HISTORY_FRAME_FREE (R397): The snapshot engine frees a history frame no kept plat uses. -/
  | historyFrameFree (page : PageKey) (slot : Nat)
  /-- HOLD_LIMIT_EXPIRY (R387): A held access passes the hold limit and takes MIGR_STUCK. -/
  | holdLimitExpiry (op : Nat)
  /-- PAGE_WALK_COMPLETE (R323): A page walk ends and serves or faults every access that joined it. -/
  | pageWalkComplete (die : Nat) (page : PageKey)
  /-- LOAD_COMPLETE (R164): A load's data returns, its register is written and its counter falls. -/
  | loadComplete (op : Nat)
  /-- STORE_ACK (R31): A store or ATOM is acknowledged at its home and retires from st. -/
  | storeAck (op : Nat)
  /-- COMMAND_RETIRE (R31): A completed operation leaves its counter class once older ones have retired. -/
  | commandRetire (op : Nat)
  /-- DELIVER_PENDING_CAUSE (R216): At an instruction boundary a pending deferred or asynchronous cause is delivered. -/
  | deliverPendingCause (slot tid : Nat)
  /-- PARTY_FROZEN (R222): After the party drains it is frozen and a record is posted to the fault ring. -/
  | partyFrozen (slot : Nat)
  /-- WAITC_READ_RETURN (R141): A repeated WAITC condition read returns and may latch its condition. -/
  | waitcReadReturn (slot tid cond : Nat) (reply : Option PeerReply)
  /-- WAITC_TIMEOUT (R141): A WAITC's timeout expires and it completes with the time-out bit. -/
  | waitcTimeout (slot tid : Nat)
  /-- SEGMENT_LANDED (R135): A segment image read completes and the segment becomes LANDED. -/
  | segmentLanded (core lid seg : Nat)
  /-- SEGMENT_FETCH_FAULT (R136): A segment image read faults and the segment becomes FAILED. -/
  | segmentFetchFault (core lid seg : Nat)
  /-- SEGMENT_DROP_COMPLETE (R135): No thread has its PC in a DROPPING segment and it becomes ABSENT. -/
  | segmentDropComplete (core lid seg : Nat)
  /-- DISPATCH_START (R341): Once resident segments land the start state is set and threads start. -/
  | dispatchStart (slot : Nat)
  /-- RESTORE_START (R244): Once required segments land, cancelled copies are reissued and threads start. -/
  | restoreStart (slot : Nat)
  /-- SAVE_BEGIN (R238): With PREQ set and no thread in handler mode, the save stops every thread. -/
  | saveBegin (slot : Nat)
  /-- SAVE_DRAINED (R238): The save's drain of ld, st, bk, gx, tile, COLL and LRLD work ends. -/
  | saveDrained (slot : Nat)
  /-- SAVE_DEADLINE_EXPIRY (R238): The copy deadline expires and outstanding copies are cancelled. -/
  | saveDeadlineExpiry (slot : Nat)
  /-- SAVE_COMPLETE (R238): The context image and stores are acknowledged and the slot becomes FREE. -/
  | saveComplete (slot : Nat)
  /-- PARTY_SLOT_FREE (R153): All threads have exited and drained, and the slot is freed. -/
  | partySlotFree (slot : Nat)
  /-- COPY_START (R270): The copy engine starts a queued copy command. -/
  | copyStart (op : Nat)
  /-- COPY_WRITE_PACKET (R305): A copy write packet reaches its target and is accepted or dropped by generation. -/
  | copyWritePacket (op packet : Nat)
  /-- COPY_DONE (R270): A copy's writes are done and its signal is updated as a release. -/
  | copyDone (op : Nat)
  /-- COPY_FAULT (R270): A copy meets a fault or padding fault and stops writing. -/
  | copyFault (op : Nat)
  /-- RING_POST (R272): A completion record is posted once the ring has room. -/
  | ringPost (op : Nat)
  /-- LRLD_READ_DONE (R260): An LRLD record read completes and is validated and installed. -/
  | lrldReadDone (op : Nat)
  /-- GATHER_DONE (R176): A gather finishes its element writes and updates its arrival word. -/
  | gatherDone (op : Nat)
  /-- GATHER_FAULT (R178): A gather stops on a source fault. -/
  | gatherFault (op : Nat)
  /-- TILE_ACCEPT (R276): The tile engine accepts a command once its queue and charge allow. -/
  | tileAccept (op : Nat)
  /-- TILE_START (R291): A queued tile command reaches the head and runs. -/
  | tileStart (op : Nat)
  /-- TILE_RUN_DONE (R291): A tile command's writes and merge finish and its signal is updated. -/
  | tileRunDone (op : Nat)
  /-- TILE_FAULT (R291): A tile command faults on a destination, AMAX, signal or ring write. -/
  | tileFault (op : Nat)
  /-- SHADOW_REFERENCE_DONE (R294): A shadow recompute finishes and posts its telemetry record. -/
  | shadowReferenceDone (op : Nat)
  /-- GEOMETRY_START (R363): A cut-selection, raster or ray engine starts a queued command. -/
  | geometryStart (op : Nat)
  /-- CUTSEL_DONE (R363): A cut selection writes its requests, entries, header and signal. -/
  | cutselDone (op : Nat)
  /-- RAST_DONE (R366): A raster command finishes its pixel updates and signal. -/
  | rastDone (op : Nat)
  /-- RAYQ_DONE (R368): A ray query writes its hit record. -/
  | rayqDone (op : Nat)
  /-- GEOMETRY_FAULT (R370): A geometry command faults and stops writing. -/
  | geometryFault (op : Nat)
  /-- BANK_BLOCK_ARRIVE (R416): A bank command block arrives at its memory port. -/
  | bankBlockArrive (op : Nat)
  /-- BANK_BLOCK_START (R416): A block starts once earlier blocks of its pseudo-channel are done. -/
  | bankBlockStart (op : Nat)
  /-- ALL_BANK_ADMIT (R414): A waiting all-bank entry is admitted when the limit allows. -/
  | allBankAdmit (op : Nat)
  /-- BK_MODE (R412): Enters or leaves all-bank mode. -/
  | bkMode (op : Nat)
  /-- BK_BCAST (R412): Broadcasts one bank's column into an operand register of every bank. -/
  | bkBcast (op : Nat)
  /-- BK_LDV (R412): Loads a column into a bank operand register. -/
  | bkLdv (op : Nat)
  /-- BK_MAC (R412): Accumulates the 16-lane dot product of a column and an operand register. -/
  | bkMac (op : Nat)
  /-- BK_EADD (R412): Adds a column's 16 lanes element-wise into 16 accumulators. -/
  | bkEadd (op : Nat)
  /-- BK_STA (R412): Stores eight accumulators into a column. -/
  | bkSta (op : Nat)
  /-- BK_CLR (R412): Clears selected accumulators and operand registers. -/
  | bkClr (op : Nat)
  /-- BK_SYNC (R412): Joins the block's commands without changing state. -/
  | bkSync (op : Nat)
  /-- BANK_BLOCK_DONE (R416): A block's last command executes, all-bank mode ends and held accesses proceed. -/
  | bankBlockDone (op : Nat)
  /-- ACTIVATE_ADMIT (R391): A waiting row activate is admitted by the activation regulator. -/
  | activateAdmit (stack : Nat)
  /-- COLL_MATCHED (R486): Every rank has issued the (GID, TAG) and the collective moves data. -/
  | collMatched (op : Nat) (peers : List CollPeer)
  /-- HALO_RECEIVE (R483): A halo segment's bytes land at the receiving rank. -/
  | haloReceive (op segment data : Nat)
  /-- COLL_DONE (R486): A collective's writes and acknowledgements finish and it signals. -/
  | collDone (op : Nat)
  /-- COLL_TIMEOUT (R486): A collective's TMO expires and it faults. -/
  | collTimeout (op : Nat)
  /-- COLL_FAULT (R486): A collective faults on a local memory fault or an unreachable peer. -/
  | collFault (op : Nat)
  /-- SNOOP_FOR_READ (R319): A die's L2 serves a directory snoop for a read. -/
  | snoopForRead (die line : Nat)
  /-- SNOOP_FOR_OWNERSHIP (R319): A die's L2 serves a directory snoop for ownership. -/
  | snoopForOwnership (die line : Nat)
  /-- L2_EVICTION (R319): An L2 evicts a line, writing back or notifying the directory. -/
  | l2Eviction (die line : Nat)
  /-- DIRECTORY_BACK_INVALIDATE (R318): A directory slice back-invalidates its oldest tracked line. -/
  | directoryBackInvalidate (line : Nat)
  /-- INVALIDATION_APPLY (R321): A die applies an invalidation from the directory in arrival order. -/
  | invalidationApply (die : Nat)
  /-- FORWARDED_ATOMIC (R320): An atomic forwarded to the owning die's atomic unit is performed there. -/
  | forwardedAtomic (op : Nat)
  /-- X_PREFIX (R65): A lane word with opcode 0x7F at the PC forms one instruction with the word after it, or traps PFX_POS. -/
  | xPrefix (fields : BitVec 24)
  /-- UNASSIGNED_UNIFORM_OPCODE (R76): A uniform word with an unassigned opcode (0xB3 to 0xFF) traps OPC_RSVD for every thread of the group. -/
  | unassignedUniformOpcode (word : Word)
  /-- SLOT_PRE (R236): The PRE bit of a slot control word requests pre-emption. -/
  | slotPre
  /-- SLOT_HALT (R450): The HALT bit delivers HALT to every thread of the party. -/
  | slotHalt
  /-- SLOT_KILL (R236): The KILL bit delivers KILL and escalates the party. -/
  | slotKill
  /-- SLOT_RELEASE (R236): The RELEASE bit frees a FROZEN slot. -/
  | slotRelease
  /-- REGISTER_WRITE (R8): A write to a management register field that has no behaviour of its own. -/
  | registerWrite
  /-- BIND_DISPATCH (R341): A bind record of KIND 1 moves a FREE slot to LOADING. -/
  | bindDispatch
  /-- BIND_RESTORE (R243): A bind record of KIND 2 checks a context image for restore. -/
  | bindRestore
  /-- COMBINE_LINE (R329): A home combiner collects partials for a line and applies them in fixed order. -/
  | combineLine
  /-- MIGRATION_BEGIN (R388): Raleb marks a page migrating and completes its shootdown. -/
  | migrationBegin
  /-- MIGRATION_DRAINED (R388): Counted operations on the page reach the old home, and lines are written back and invalidated. -/
  | migrationDrained
  /-- MIGRATION_COPY_DONE (R388): The page copy finishes, the entry is rewritten and held accesses replay. -/
  | migrationCopyDone
  /-- PEER_ACCESS (R470): A peer package checks, translates and performs an access from another package. -/
  | peerAccess
  /-- PEER_TIMEOUT (R472): No path answers a peer access within the timeout and it takes PEER_FAIL. -/
  | peerTimeout
  /-- LAUNCH_RECORD_VALIDATE (R335): The home bind core validates a launch record at the head of its queue. -/
  | launchRecordValidate
  /-- DEPENDENCE_READ (R336): The bind core reads a dependence word and may find it holds. -/
  | dependenceRead
  /-- SCHEDULER_PASS (R339): Raleb's policy runs when room frees or a launch becomes eligible. -/
  | schedulerPass
  /-- RESERVATION_INTERVAL_EXPIRY (R339): A top-priority cluster that failed to fit for the interval takes a die reservation. -/
  | reservationIntervalExpiry
  /-- ESCALATED_HOLD_EXPIRY (R345): The hold time after a failed dispatch expires and RELEASE is written. -/
  | escalatedHoldExpiry
  /-- LAUNCH_TEARDOWN (R346): After every block has ended, ranges end, barriers are marked and tables discarded. -/
  | launchTeardown
  /-- POD_GROUP_FORM (R473): Every member package has placed its launch and the pod launch group forms. -/
  | podGroupForm
  /-- CLOSURE_MERGE (R432): At a closure point a DET block merges its buffered operations in logical order. -/
  | closureMerge
  /-- CLUSTER_RETIRE (R434): A DET cluster's block views are applied to memory in traverse order. -/
  | clusterRetire
  /-- WRITE_BUFFER_FULL (R435): A DET block fills its write-buffer slot and the launch is killed. -/
  | writeBufferFull
  /-- BLOCK_MOVE (R311): The bind core moves a saved block to another group of cores on its die. -/
  | blockMove
  /-- CORRECTED_ERROR (R442): A corrected error counts as one event against its unit. -/
  | correctedError
  /-- UNCORRECTABLE_ERROR (R445): An uncorrectable error reaches its consumer as a fault. -/
  | uncorrectableError
  /-- LANE_RETRAIN_DONE (R444): A retrained lane returns to service. -/
  | laneRetrainDone
  /-- ERROR_LOG_MOVE (R448): The monument core moves a staged entry to the package error log. -/
  | errorLogMove
  /-- PAGE_QUARANTINE (R446): Raleb writes STATE 3 for a damaged page and completes the shootdown. -/
  | pageQuarantine
  /-- PAGE_RESTORE (R446): A management request zeroes lost lines and moves the page to a good frame. -/
  | pageRestore
  /-- DIE_RESET_REQUEST (R451): A die reset begins: placement stops and every occupied slot is pre-empted. -/
  | dieResetRequest
  /-- CLUSTER_SAVE (R452): A cluster whose parties are saved has its portions and barriers saved. -/
  | clusterSave
  /-- CLUSTER_RESTORE (R452): A saved cluster is placed whole, its state copied and its parties restored. -/
  | clusterRestore
  /-- QUIESCE_DEADLINE_EXPIRY (R451): QDL expires, link fencing is forced and unsaved parties are lost. -/
  | quiesceDeadlineExpiry
  /-- DIE_RESET_COMPLETE (R451): The die resets, powers up empty and reloads its bind-core component. -/
  | dieResetComplete
  /-- DIE_POWER_GATE (R454): An idle die writes back its lines and is power-gated. -/
  | diePowerGate
  /-- DIE_POWER_UP (R454): Raleb restores power to a gated die, which joins through new fills. -/
  | diePowerUp
  /-- POWER_ON (R460): The monument core runs the boot ROM steps at power-on. -/
  | powerOn
  /-- FIRMWARE_UPDATE (R463): A staged firmware image is verified and its component restarts. -/
  | firmwareUpdate
  /-- FIRMWARE_HOLD_TIMEOUT (R463): Operations held by a restart for over 10 ms take HW_LINK. -/
  | firmwareHoldTimeout
  /-- ATTESTATION_REQUEST (R464): The monument core returns a signed attestation report for a nonce. -/
  | attestationRequest
  /-- POWER_MANAGER_REVISION (R465): Every 100 us the power manager revises clocks, windows and the all-bank limit. -/
  | powerManagerRevision
  /-- TEMPERATURE_REPORT (R468): A die or stack temperature report triggers throttling responses. -/
  | temperatureReport
  /-- FLOW_LOW_TIMEOUT (R468): Coolant flow below 3.0 L/min for 1 s sets the budget to 1,600 W. -/
  | flowLowTimeout
  /-- HOST_RDMA_WRITE (R476): A host RDMA WRITE message is checked and written as a release at .sy. -/
  | hostRdmaWrite
  /-- HOST_RDMA_WRITE_IMM (R476): A host RDMA WRITE with immediate is checked and written as a release. -/
  | hostRdmaWriteImm
  /-- HOST_RDMA_READ (R477): A host RDMA READ is performed in order as an acquire at .sy. -/
  | hostRdmaRead
  /-- HOST_ATOMIC_CAS (R475): A host 8-byte compare-and-swap is performed at the location's single point. -/
  | hostAtomicCas
  /-- HOST_ATOMIC_FETCH_ADD (R475): A host 8-byte fetch-and-add is performed at the location's single point. -/
  | hostAtomicFetchAdd
  /-- LAUNCH_PACKET (R478): A launch packet is placed in its queue or answered with a NACK. -/
  | launchPacket
  /-- MANAGEMENT_KILL_LAUNCH (R347): A management command kills a launch and delivers KILL to its parties. -/
  | managementKillLaunch
  /-- BUFFER_TABLE_ENTRY_WRITE (R379): On a management request Raleb validates and writes a buffer-table or page-table entry, including a versioned-buffer install, and completes its shootdown. -/
  | bufferTableEntryWrite
  /-- LAUNCH_QUEUE_CREATE (R332): Raleb creates a launch queue for one owner context with a home die. -/
  | launchQueueCreate
  /-- CONNECTION_SETUP (R474): Raleb sets up an Ethernet RoCEv2 or UET connection for one owner context. -/
  | connectionSetup
  /-- LINK_PARTNER_FALLBACK (R474): The Ethernet port falls back to a lower rate and width when the link partner asks for it. -/
  | linkPartnerFallback
  /-- PACKAGE_RESET (R453): The whole package is reset, as when a fault needs the datum die reset or a firmware unit stays down. -/
  | packageReset
  deriving DecidableEq, Repr

end Sys2Proof
end

