-- ==== Sys2Proof/Machine/State.lean ====
section
/-! DEFINITION. The state of the package: everything the spec gives the machine, as plain data (INVENTORY.md, State).
Records that live in memory or that an instruction captures are little-endian naturals (Word.lean). Tables keyed by a
number are association lists in which an absent key reads as the default entry. -/

namespace Sys2Proof.Machine

/-! ## Stops -/

/-- Faults: what stops the machine. Every fault of the Fareus K4 is a state of the machine (a trap, a report, a status),
so only the package's own stops are here. -/
inductive Fault where
  /-- raised by every step once the package has tripped (27_bringup_power.md R468: the part stops at once): safe -/
  | tripped
  deriving DecidableEq, Repr

/-- Refusals. -/
inductive Refusal where
  /-- an arm of exec that has no meaning yet; safe -/
  | notModelled (mnemonic : String)
  /-- an instruction word outside an issue group: exec is called on a state whose issue is empty; safe -/
  | noIssue
  /-- an event that cannot occur in this state, by its mnemonic: the agenda names an agent that has nothing to do
  (assumption 10, DESIGN CHOICE); safe -/
  | notEnabled (mnemonic : String)
  deriving DecidableEq, Repr

/-! ## Registers, threads and parties -/

/-- A register operand after decoding its selector (01_thread.md R18, R19). -/
inductive Reg where
  | v (n : Nat)
  | o (n : Nat)
  | lat
  | z
  | tid
  | w (n : Nat)
  | h (n : Nat)
  | g (n : Nat)
  /-- a uniform special, by its selector less 0xA0: 1 to 7 -/
  | special (n : Nat)
  deriving DecidableEq, Repr

/-- The counter classes (01_thread.md R30). -/
inductive Cls where
  | ld | st | cp | tl | bk | gx | cf
  deriving DecidableEq, Repr

/-- The outstanding-operation counters of a thread, 0 to 63 each (01_thread.md R30, R31). -/
structure Counters where
  ld : Nat := 0
  st : Nat := 0
  cp : Nat := 0
  tl : Nat := 0
  bk : Nat := 0
  gx : Nat := 0
  cf : Nat := 0
  deriving DecidableEq, Repr

/-- One condition of a WAITC (06_control_wait_crosslane.md R139): its fields as captured. -/
structure Cond where
  kind : Nat
  op : Nat
  wide : Bool
  scope : Nat
  acq : Bool
  idx : Nat
  addr : Nat
  value : Nat
  mask : Nat
  /-- a read of this condition has been held on a migrating page since this reference time (R493) -/
  heldSince : Option Nat := none
  /-- the condition has been evaluated at least once (R141: TIME 0 evaluates every condition once) -/
  seen : Bool := false
  deriving DecidableEq, Repr

/-- Why a thread stands at an instruction that has not completed for it. -/
inductive Hold where
  /-- waiting in BAR for the phase to differ (R151): scope code, index, phase arrived in, next PC -/
  | bar (scope idx phase : Nat) (npc : Pc)
  /-- held at a cross-lane instruction (R144): the mask value its group read -/
  | xl (mask : Nat)
  /-- a WAITC under way (R141): destination, conditions, all-of, deadline on sr.ref, latched set, next PC -/
  | waitc (d : Reg) (conds : List Cond) (all : Bool) (deadline : Option Nat) (latched : Nat) (npc : Pc)
  /-- the read that the instruction makes at its issue is not answered: held on a migrating page since a reference time
  (R387, R493), none while an earlier access of the thread comes first; issued is the time of its first issue (R141). The
  instruction has not executed and issues again -/
  | read (since : Option Nat) (issued : Nat)
  deriving DecidableEq, Repr

/-- A deferred cause that is pending (09_traps.md R217). -/
structure Pend where
  cls : Cls
  cause : Nat
  taddr : Nat
  tinfo : Nat
  /-- the operation that failed -/
  op : Nat := 0
  deriving DecidableEq, Repr

/-- A thread (01_thread.md R13, R18, R27). -/
structure Thread where
  pc : Pc
  v : List Word
  o : List Word
  lat : Word
  /-- the extension word of lat (R25) -/
  latx : Word
  h : List Word
  /-- the draw index of the stochastic-rounding stream (04_integer_bit.md R102) -/
  draw : DWord
  fpcsr : Word
  ver : Word
  cause : Word
  tpc : Word
  taddr : DWord
  tinfo : Word
  /-- handler mode (09_traps.md R220) -/
  handler : Bool
  /-- the failed operation whose cause the handler takes, if it is a deferred one (19 R389) -/
  serving : Option Nat := none
  exited : Bool
  cnt : Counters
  hold : Option Hold
  /-- the barriers whose phase has not moved since this thread's last arrival: scope, index, phase (06 R151) -/
  arrivals : List (Nat × Nat × Nat)
  /-- a BAR whose wait a delivery or a save ended, its arrival kept (06 R152, 09 R216): PC, scope, index, phase -/
  barKept : Option (Pc × Nat × Nat × Nat)
  /-- pending deferred causes, oldest first (09 R217) -/
  pend : List Pend
  /-- pending asynchronous causes (09 R216): HALT, CTX_LOST -/
  async : List Nat
  /-- operations that a release fence has put before every later write of the thread (08 R191) -/
  fence : List Nat
  /-- the step at which the thread last issued (10 R233) -/
  lastIssue : Nat
  deriving DecidableEq, Repr

/-- A barrier: phase and arrival count (06 R150, R151; 14 R308). The member count is that of the instance: a party's
threads that have not exited, or what State.members gives. -/
structure Bar where
  phase : Nat
  arrived : Nat
  deriving DecidableEq, Repr

/-- The escalation of a party (09 R222, 16 R345): cause, fault address, and the thread and PC its record names. -/
structure Esc where
  cause : Nat
  faddr : Nat
  pc : Nat
  tid : Nat
  deriving DecidableEq, Repr

/-- A party (01 R14). -/
structure Party where
  lid : Nat
  /-- block linear index (04 R102) -/
  blin : Nat
  x : Word
  y : Word
  z : Word
  /-- core rank in the block -/
  rank : Nat
  /-- party index in the block -/
  pidx : Nat
  /-- declared v count -/
  nv : Nat
  w : List Word
  g : List Word
  bars : List Bar
  threads : List Thread
  /-- the escalation under way, which the core settles and freezes -/
  esc : Option Esc
  /-- the party-wide issue number of its next copy (10 R242) -/
  copySeq : Nat := 0
  deriving DecidableEq, Repr

/-! ## Slots -/

/-- The states of a party slot (10 R234). -/
inductive SlotSt where
  | free | loading | run | saving | restoring | frozen | disabled
  deriving DecidableEq, Repr

/-- A bind record as the model keeps it (16 R340). -/
structure Bind where
  lid : Nat
  /-- the 32-byte record -/
  record : Nat
  deriving DecidableEq, Repr

/-- A copy command as a context image keeps it (10 R242). -/
structure SavedCopy where
  tid : Nat
  cpc : Pc
  seq : Nat
  pfx : Word
  ins : Word
  /-- the captured descriptor -/
  desc : Nat
  deriving DecidableEq, Repr

/-- A MIGR under way (14 R313): its group, destination register, target rank and reserved slot. -/
structure Migr where
  tids : List Nat
  d : Reg
  rank : Nat
  slot : Nat
  npc : Pc
  deriving DecidableEq, Repr

/-- A party slot (10 R234, R235). -/
structure Slot where
  st : SlotSt
  preq : Bool
  /-- DEADLINE, units of 1,024 ticks -/
  deadline : Nat
  heldPre : Bool
  heldHalt : Bool
  heldKill : Bool
  saveAddr : Nat
  bind : Option Bind
  /-- the step of R238 that a save has reached, 0 when none -/
  saveStep : Nat
  /-- sr.ref at the acceptance of PRE -/
  saveFrom : Nat
  /-- the copies a save has cancelled, in issue order -/
  cancelled : List SavedCopy
  /-- an access of a save or of a restore to its image is held: its address, and since when (19 R387) -/
  imageHold : Option (Nat × Nat) := none
  /-- the repair threshold is reached: DISABLED when next FREE (10 R237) -/
  repair : Bool
  /-- reserved by a MIGR (14 R313) -/
  reserved : Bool
  migr : Option Migr
  party : Option Party
  deriving DecidableEq, Repr

/-! ## Operations in flight -/

/-- A write packet of an engine (14 R305): up to 128 bytes to a scratchpad or to a buffer, written in one step. -/
structure Packet where
  /-- index of the target portion -/
  tgt : Nat
  /-- the target core of a scratchpad write, none for a global address -/
  core : Option Nat
  /-- offset in the core's scratchpad, or global address; length in bytes; data -/
  parts : List (Nat × Nat × Nat)
  /-- the portion base and the allocation generation the packet carries (11 R271) -/
  gen : Option (Nat × Nat)
  /-- 0 not yet written, 1 written, 2 dropped -/
  fate : Nat
  deriving DecidableEq, Repr

/-- Where a report's ring is: its control block's address, or the word of a launch queue that holds it (16 R332, R347). -/
inductive RingAt where
  | block (ea : Nat)
  | named (ea : Nat)
  deriving DecidableEq, Repr

/-- A target portion of a copy: core, base and the generation that the issuer's maps hold for it (11 R271, 14 R307). -/
structure Target where
  core : Nat
  base : Nat
  gen : Nat
  deriving DecidableEq, Repr

/-- What an operation does. -/
inductive OpKind where
  /-- LDB to LDQ, ULDW to ULDQ, LDV, LDVQ, ULDV: version p for a versioned load -/
  | load (ea size : Nat) (dst : Reg) (attr scope : Nat) (acq uni : Bool) (version : Option Nat)
  /-- STB to STQ, USTW, USTD; rel 0 relaxed, 2 release, 4 bound release (03 R70) -/
  | store (ea size data attr scope rel : Nat) (uni : Bool)
  /-- ATOM, ATOMR, UATOMR: the code of 07 R168, operand x, CAS new value y -/
  | atom (ea code x y : Nat) (dst : Option Reg) (attr scope rm : Nat) (uni : Bool)
  /-- CLNR (mode 0), INVR (1), INVR.wb (2) -/
  | clean (ea len mode : Nat)
  | arrv (tb : Bool) (ea arrivals bytes scope : Nat) (rel : Bool)
  | abinit (ea target : Nat)
  /-- down: where the address is written before it completes, if the launch registers it here (16 R334) -/
  | tbinit (ea exp : Nat) (reg : Bool) (down : Option Nat)
  | launch (queue record : Nat)
  | cfetch (seg : Nat) (drop : Bool)
  /-- GATH: descriptor, arrival offset -/
  | gather (desc : Nat) (arrival : Option Nat)
  /-- CPYT, CPYL, CPYM: opcode, captured descriptor, prefix and word, issue sequence number, and the layout record and target
  portions as they stood at issue (11 R260, R271) -/
  | copy (opc desc : Nat) (pfx ins : Word) (seq : Nat) (lay : Nat) (tgts : List Target)
  | lrld (handle ea : Nat)
  /-- COLL: descriptor, group record, segment table, sr.ref at issue -/
  | coll (desc group segs start : Nat)
  /-- MMA, MDRN, PLANE: opcode, block, block address, plane override -/
  | tile (opc blk ea ovr : Nat)
  /-- CUTSEL, RAST, RAYQ: opcode, descriptor, and RAST's layout record as it stood at issue (11 R260) -/
  | geom (opc desc lay : Nat)
  /-- BKQ: block with header -/
  | bank (blk ea : Nat)
  /-- a record on its way to a ring: owner context, where the ring is, TAG, BYTES (11 R272), and where a launch came by
  packet its connection and the CTX and QUEUE word of its residency report (28 R479) -/
  | report (ctx : Nat) (ring : RingAt) (tag bytes : Nat) (via : Option (Nat × Nat))
  deriving DecidableEq, Repr

/-- How far an operation is. -/
inductive Phase where
  | issued
  /-- joined the walk of a page (15 R323); since when it had been held before (19 R387) -/
  | walking (page : PageKey) (since : Option Nat)
  /-- held on a migrating or copied page since this reference time (19 R387) -/
  | held (since : Nat)
  /-- sent to a peer package since this reference time (28 R470, R472) -/
  | peer (since : Nat)
  /-- an atomic forwarded to the owning die (15 R320) -/
  | forwarded (die ppa : Nat)
  /-- performed; a load carries its value -/
  | performed (value : Nat)
  /-- queued in an engine, in acceptance order -/
  | queued
  /-- at work in its engine -/
  | running
  /-- a memory failure met by its engine, not yet settled: cause, address, reason -/
  | failing (cause addr reason : Nat)
  /-- a record is to be posted: status, cause, fault address -/
  | post (status cause faddr : Nat)
  /-- complete, waiting to retire from its class -/
  | done
  /-- failed, waiting to retire with its deferred cause: cause, sr.taddr, sr.tinfo -/
  | failed (cause taddr tinfo : Nat)
  deriving DecidableEq, Repr

/-- What an engine has worked out for a command under way. -/
structure Work where
  /-- the threads of the issuing group, which wait behind a tile command that stalls (12 R276) -/
  group : List Nat := []
  packets : List Packet := []
  /-- bytes accepted so far -/
  moved : Nat := 0
  /-- targets that dropped a packet (11 R271) -/
  dropped : List Nat := []
  /-- results computed at the start: accumulator elements, cut entries, fragments -/
  vals : List Nat := []
  /-- second list of results -/
  aux : List Nat := []
  /-- next command of a bank block, next record of a cut, next segment -/
  next : Nat := 0
  /-- a count the command reports -/
  count : Nat := 0
  /-- address of the access that is held -/
  addr : Nat := 0
  /-- element whose access is held -/
  elem : Nat := 0
  /-- sr.ref when a collective began to move data -/
  begun : Nat := 0
  flag : Bool := false
  /-- largest deviation a shadow reference has checked (12 R293) -/
  dev : Nat := 0
  /-- cause and address to report once the record of R272 is written -/
  fail : Option (Nat × Nat × Nat) := none
  /-- the count that its record, or its next request, has in its ring (11 R272) -/
  reserved : Option Nat := none
  /-- an access of the command has been held on a migrating or copied page since this reference time (R387) -/
  since : Option Nat := none
  /-- that access is a write -/
  wr : Bool := false
  deriving DecidableEq, Repr

/-- An operation in flight (01 R31). -/
structure Op where
  id : Nat
  /-- the issuing party's slot -/
  slot : Nat
  lid : Nat
  /-- threads that counted it -/
  tids : List Nat
  /-- threads in whose counter it still is -/
  live : List Nat
  cls : Option Cls
  /-- PC of its instruction -/
  pc : Pc
  kind : OpKind
  phase : Phase
  /-- operations that must be performed before it (07 R166, 08 R191, R204) -/
  after : List Nat
  /-- the ordered atomic that it must follow, which has faulted: held until TRET from that fault's handler (19 R389) -/
  untilTret : Option Nat
  /-- issued in handler mode: never held for a TRET (19 R389) -/
  handler : Bool := false
  work : Work
  deriving DecidableEq, Repr

/-! ## Cores and dies -/

/-- The states of a segment (06 R129, R135) with what they carry. -/
inductive SegSt where
  | absent
  | fetching
  | landed
  | failed (addr : Nat)
  | dropping
  deriving DecidableEq, Repr

/-- A launch's segment on a core: state, the landed image as (word index, word) pairs, zero words unlisted. -/
structure Seg where
  st : SegSt
  image : List (Nat × Word)
  /-- a read of the image has been held on a migrating page, or unanswered, since this reference time (06 R136, 19 R387) -/
  since : Option Nat := none
  deriving DecidableEq, Repr

/-- A portion of scratchpad (11 R245, R271): base and size in bytes, owning block (lid, block index). -/
structure Portion where
  base : Nat
  size : Nat
  lid : Nat
  blin : Nat
  deriving DecidableEq, Repr

/-- An entry of a partial store (15 R328): element address, size, partial value. The list is in use order, oldest first. -/
structure Partial where
  ppa : Nat
  /-- its global address -/
  ea : Nat
  size : Nat
  code : Nat
  value : Nat
  lid : Nat
  /-- the die that declared the range: its combiner is the element's home combiner -/
  die : Nat
  deriving DecidableEq, Repr

/-- An L1 line: 128 bytes, and whether it is marked first for replacement (15 R317, 07 R163). -/
structure L1Line where
  data : Nat
  first : Bool := false
  deriving DecidableEq, Repr

/-- A shadow reference under way (12 R293): its command, the command's party and TAG, its count, and the deviation of each
element. -/
structure Shadow where
  op : Nat
  lid : Nat
  blin : Nat
  pidx : Nat
  tag : Nat
  count : Nat
  devs : List Nat
  deriving DecidableEq, Repr

/-- A core (10 R231, 11 R245, 12 R274, 15 R317, 25 R449). -/
structure Core where
  /-- scratchpad bytes by offset in the region; an unlisted byte reads 0 (assumption 3, DESIGN CHOICE) -/
  scr : List Host.Cell
  /-- accumulator memory; an unlisted byte reads 0 (assumption 3, DESIGN CHOICE) -/
  acc : List Host.Cell
  /-- size of the scratchpad region (11 R245, 16 R338) -/
  region : Nat
  portions : List Portion
  /-- allocation generation of the portion at each 64 KiB base (11 R271) -/
  gens : List (Nat × Nat)
  /-- L1 lines by physical line number, oldest first -/
  l1 : List (Nat × L1Line)
  /-- segments by (launch, segment) -/
  segs : List ((Nat × Nat) × Seg)
  /-- the launch table (16 R340): index 0 to 15 and launch -/
  table : List (Nat × Nat)
  parts : List Partial
  /-- commands of the tile engine in acceptance order, by operation -/
  tileQ : List Nat
  /-- charged clocks of the commands held, in the same order (12 R276) -/
  tileT : List Nat
  /-- shadow counts by launch (12 R293) -/
  shadow : List (Nat × Nat)
  /-- shadow references under way -/
  shadows : List Shadow
  latew : Nat
  regfce : Nat
  sramce : Nat
  imemce : Nat
  /-- disabled at its die's next reset (25 R442) -/
  disable : Bool
  disabled : Bool
  deriving DecidableEq, Repr

/-- The MOESI states (15 R319); an absent line is I. -/
inductive Moesi where
  | m | o | e | s
  deriving DecidableEq, Repr

/-- An L2 line: state, 4 sector valid bits, 128 bytes (15 R316), and its mark for replacement (07 R163): 0 none, 1 first,
2 last. -/
structure L2Line where
  st : Moesi
  sect : Nat
  data : Nat
  mark : Nat := 0
  deriving DecidableEq, Repr

/-- What the cipher of an encrypted buffer works with at one 32-byte sector (19 R390): the key, and the tweak's parts. -/
structure Cipher where
  key : Nat
  bver : Nat
  buf : Nat
  /-- bits [43:5] of the buffer offset -/
  unit : Nat
  deriving DecidableEq, Repr

/-- A sector of DRAM that a memory port has encrypted (19 R390): the text it encrypts and under what, and what now stands
for it in the model's DRAM, as the cipher of the last access reads it. No cipher: as it is. -/
structure Seal where
  base : Option Cipher
  text : Nat
  now : Option Cipher
  shown : Nat
  deriving DecidableEq, Repr

/-- How the granules of a frame lie in its stack (19 R382): over some pseudo-channels, or by the bank formula; a frame that
is not listed is spread over all 64. -/
inductive Spread where
  | pcs (base log : Nat)
  | banks
  deriving DecidableEq, Repr

/-- The condition of a die (15 R322, 27 R460). -/
inductive DieCond where
  | gated | running | quiescing | fenced
  deriving DecidableEq, Repr

/-- A compute die. -/
structure Die where
  cond : DieCond
  /-- core clocks since die reset (01 R27) -/
  clk : Nat
  /-- core clock in units of 0.1 GHz (27 R465) -/
  freq : Nat
  /-- invalidations queued towards the die, oldest first (15 R321) -/
  invs : List Nat
  /-- second-level TLB: page and leaf entry (15 R323) -/
  tlb : List (PageKey × Nat)
  walks : List PageKey
  /-- the launch that holds the reservation (16 R339) -/
  reserve : Option Nat
  /-- queue last served at each priority level, absent: none -/
  served : List (Nat × Nat)
  /-- a die reset under way: the step of 25 R451 and its deadline on sr.ref -/
  reset : Option (Nat × Nat)
  /-- no new placement (25 R451 step 1) -/
  stopped : Bool
  deriving DecidableEq, Repr

/-! ## Launches -/

/-- An entry of the binding table (08 R198). -/
structure Binding where
  base : Nat := 0
  len : Nat := 0
  obj : Nat := 0
  live : Bool := false
  gen : Nat := 0
  deriving DecidableEq, Repr

/-- An entry of the range table (15 R326). -/
structure Range where
  base : Nat := 0
  len : Nat := 0
  op : Nat := 0
  ty : Nat := 0
  die : Nat := 0
  live : Bool := false
  gen : Nat := 0
  deriving DecidableEq, Repr

/-- A launch queue (16 R332): TAIL, HEAD, DEV, PMAX, N and RPT stand in its control block in memory. -/
structure Queue where
  ctx : Nat
  die : Nat
  /-- global address of the control block in the owner context -/
  base : Nat
  deriving DecidableEq, Repr

/-- A buffered operation of a deterministic launch (24 R428, R431): key, target and effect. -/
structure WbOp where
  pidx : Nat
  tid : Nat
  seq : Nat
  /-- global or window address -/
  ea : Nat
  size : Nat
  /-- none for a store -/
  code : Option Nat
  x : Nat
  y : Nat
  /-- reservation ATOMR: the operation that waits for its result (24 R439) -/
  resv : Option Nat
  /-- the barriers at which its thread had arrived and whose phase had not moved (24 R430): scope, index, phase -/
  past : List (Nat × Nat × Nat)
  deriving DecidableEq, Repr

/-- A saved party: its index, the address of its context image, and how many of its threads have not exited. -/
structure SavedParty where
  pidx : Nat
  addr : Nat
  live : Nat
  /-- its core rank in the block (14 R308) -/
  rank : Nat
  /-- its threads that have exited -/
  gone : List Nat := []
  /-- arrivals in phases that stand (06 R151): thread, scope, index, phase (assumption 82, DESIGN CHOICE) -/
  marks : List (Nat × Nat × Nat × Nat) := []
  /-- TAG of its record if it is lost: its lowest thread that has not exited, and that thread's PC (16 R345) -/
  tag : Nat
  deriving DecidableEq, Repr

/-- A block of a launch (14 R301, R302, R304). -/
structure Block where
  lid : Nat
  blin : Nat
  x : Nat
  y : Nat
  z : Nat
  /-- cluster linear index and cluster rank (14 R306) -/
  clin : Nat
  clrank : Nat
  /-- first core, numbered in the package -/
  core : Nat
  /-- the block map: generation and portion base of each rank (14 R304) -/
  map : List (Nat × Nat)
  /-- its first core and its block map as the cluster map of the other blocks' cores holds them: as they were at placement
  (14 R307) -/
  mapped : Nat × List (Nat × Nat)
  /-- parties whose slot has been freed -/
  freed : Nat
  /-- parties dispatched to their slots -/
  bound : List Nat
  ended : Bool
  /-- saved for a die reset: the address of its block save area (25 R452) -/
  saved : Option Nat
  /-- its saved parties -/
  images : List SavedParty
  /-- write buffer of the current epoch (24 R431) -/
  wbuf : List WbOp
  /-- the block view: the operations of earlier epochs in the order of their merges, an atomic as a store of the value that it
  left (24 R432) -/
  view : List WbOp
  /-- the same operations as they were issued, for the cluster's retirement (24 R434) -/
  log : List WbOp := []
  /-- closure points whose merge is still to come (24 R432): scope, index, phase, and the number of the step -/
  merges : List (Nat × Nat × Nat × Nat)
  /-- running use of each reservation word (24 R439) -/
  uses : List Nat
  deriving DecidableEq, Repr

/-- A launch that has been accepted (16 R334 to R347). -/
structure Launch where
  lid : Nat
  ctx : Nat
  queue : Nat
  die : Nat
  /-- the 256-byte record -/
  record : Nat
  args : List Word
  /-- the control blocks of the fault ring, rings 1 to 3 and the telemetry ring, 0 for none (R334) -/
  rings : List Nat
  /-- layout records by handle, none where no record is installed (11 R257) -/
  layouts : List (Option Nat)
  /-- dependences observed to hold (16 R336) -/
  held : List Bool
  eligible : Bool
  /-- sr.ref when it became eligible -/
  since : Nat
  /-- sr.ref of the last cluster placed on each die -/
  placedAt : List (Nat × Nat)
  /-- a failed placement attempt at effective priority 7 on each die: since (16 R339) -/
  failing : List (Nat × Nat)
  /-- clusters not yet placed, in hand-out order -/
  pending : List Nat
  /-- first bind record written -/
  started : Bool
  placed : Bool
  ended : Nat
  firstCause : Option Nat
  killed : Bool
  done : Bool
  binds : List Binding
  ranges : List Range
  /-- registered transaction barriers, oldest first (11 R253) -/
  tbars : List Nat
  /-- pod launch group formed (28 R473): packages and their threads -/
  group : Option (List (Nat × Nat))
  /-- the connection or path a launch packet came by (28 R479) -/
  via : Option Nat
  /-- deterministic descriptor, V0 of each reservation word, clusters retired in traverse order (24 R434 to R437) -/
  det : Nat
  v0 : List Nat
  /-- counts of each reservation word's table, by block linear index; empty where one count serves every block -/
  counts : List (List Nat)
  /-- a block has filled its write buffer: what has not retired is discarded (24 R435) -/
  aborted : Bool
  retired : List Nat
  deriving DecidableEq, Repr

/-! ## Package memory -/

/-- A versioned buffer (20 R394): holds are (version, count), owners the launches that hold, oldest first (R402). -/
structure Snap where
  ctx : Nat
  buf : Nat
  opn : Nat
  pub : Nat
  base : Nat
  holds : List (Nat × Nat)
  owners : List (Nat × Nat)
  deriving DecidableEq, Repr

/-- A migration under way (19 R388): page, its entry before step 1, new home and frame, step. -/
structure Migration where
  page : PageKey
  old : Nat
  home : Nat
  frame : Nat
  step : Nat
  deriving DecidableEq, Repr

/-- A bank unit (21 R404). -/
structure BankUnit where
  bv0 : Nat := 0
  bv1 : Nat := 0
  ba : List Word := List.replicate 32 0#32
  /-- commands delivered to the bank and not yet executed there, oldest first (21 R404) -/
  queue : List Nat := []
  /-- the open row of the bank (21 R418) -/
  row : Option Nat := none
  deriving DecidableEq, Repr

/-- A pseudo-channel's port (21 R405, R413 to R416). -/
structure Port where
  /-- blocks that have arrived and not finished, oldest first, by operation -/
  blocks : List Nat := []
  allBank : Bool := false
  /-- owner context of the previous block -/
  lastCtx : Option Nat := none
  deriving DecidableEq, Repr

/-- A stack's activation regulator and state (19 R391, 27 R468). -/
structure Stack where
  actmax : Nat := 65535
  twin : Nat := 64
  /-- row activates waiting at the ports: pseudo-channel, bank, row -/
  waiting : List (Nat × Nat × Nat) := []
  /-- reference times of the activates admitted in the window -/
  admitted : List Nat := []
  /-- rows redirected to spares: (pseudo-channel, bank, row) -/
  spared : List (Nat × Nat × Nat) := []
  /-- failing rows that no spare was left for: (pseudo-channel, bank, row) -/
  worn : List (Nat × Nat × Nat) := []
  deriving DecidableEq, Repr

/-! ## Service and fabric -/

/-- An error report (25 R448). -/
structure Report where
  seq : Nat
  time : Nat
  addr : Nat
  ch : Nat
  kind : Nat
  code : Nat
  adrk : Nat
  unit : Nat
  /-- it found the queue full: it keeps its place among those of its tick -/
  lost : Bool := false
  /-- it was staged before the last power-on, whose sr.ref starts at 0 anew (27 R460, R468) -/
  early : Bool := false
  deriving DecidableEq, Repr

/-- A link lane (25 R444), by channel number. -/
structure Lane where
  retraining : Bool := false
  disabled : Bool := false
  /-- reference times of its retrains -/
  retrains : List Nat := []
  deriving DecidableEq, Repr

/-- A firmware component's run state (27 R462, R463). -/
structure Firm where
  version : Nat := 0
  digest : Nat := 0
  running : Bool := false
  /-- out of service, restarting or down, since this reference time -/
  restart : Option Nat := none
  /-- its restart has failed its start check -/
  down : Bool := false
  deriving DecidableEq, Repr

/-- A connection of the Ethernet port (28 R474). -/
structure Conn where
  ctx : Nat
  kind : ConnKind
  deriving DecidableEq, Repr

/-- A message of the host that the port performs (28 R474, R475). -/
inductive HostMsg where
  /-- a write; with the immediate that its completion carries -/
  | write (key va len data : Nat) (imm : Option Nat)
  | read (key va len : Nat)
  | cas (key va compare swap : Nat)
  | add (key va addend : Nat)
  deriving DecidableEq, Repr

/-- A message of a connection that waits: on a held page since a reference time, for a port or a walk, or behind an earlier
one of its connection (28 R476, R477; 19 R387). -/
structure HeldMsg where
  conn : Nat
  msg : HostMsg
  since : Option Nat
  deriving DecidableEq, Repr

/-- A message that the part sends (28 R474 to R480, 27 R464): kind, destination, contents. -/
structure Message where
  /-- 0 completion of an RDMA message, 1 its remote-access error, 2 read data, 3 atomic's old value, 4 residency report
  or NACK, 5 attestation report, 6 answer to a peer, 7 access to a peer, 8 boot or firmware status, 9 misaligned atomic
  error, 10 pod notice, 11 a collective's messages, 12 management answer, 13 arrival at a pod barrier, 14 threads that leave a pod
  group -/
  kind : Nat
  dest : Nat
  body : Nat
  deriving DecidableEq, Repr

/-- What an uncorrectable error reaches (25 R445): nothing yet, the reads of the next step, an engine's command at work, or
the threads of a group at their instruction. -/
inductive Consumer where
  | nothing
  | next
  | op (id : Nat)
  | group (slot : Nat) (tids : List Nat)
  deriving DecidableEq, Repr

/-- The request in front of an agent that takes no argument in Syntax: firmware, management and the outside world. -/
inductive Input where
  | none
  /-- what peer packages answer to the accesses of this step, by global address (28 R470, R472) -/
  | replies (l : List (Nat × PeerReply))
  | slotPre (slot deadline addr : Nat)
  | slotHalt (slot : Nat)
  | slotKill (slot : Nat)
  | slotRelease (slot : Nat)
  | registerWrite (reg : MgmtReg) (value : Nat)
  | bindDispatch (slot lid record : Nat)
  | bindRestore (slot lid record : Nat) (replies : List (Nat × PeerReply))
  | combineLine (lid entry line : Nat)
  /-- the directory slice whose oldest invalidation arrives (15 R321) -/
  | invalidationFrom (slice : Nat)
  | migrationBegin (page : PageKey) (home frame : Nat)
  | migrationDrained (page : PageKey)
  | migrationCopyDone (page : PageKey)
  | peerAccess (req : PeerReq)
  | peerTimeout (op : Nat)
  | launchRecordValidate (queue : Nat) (replies : List (Nat × PeerReply))
  | dependenceRead (lid dep : Nat) (replies : List (Nat × PeerReply))
  | schedulerPass (die : Nat) (replies : List (Nat × PeerReply))
  | reservationIntervalExpiry (die lid : Nat)
  | escalatedHoldExpiry (slot : Nat)
  | launchTeardown (lid : Nat) (replies : List (Nat × PeerReply))
  | podGroupForm (lid : Nat) (members : List (Nat × Nat))
  | closureMerge (lid blin : Nat) (replies : List (Nat × PeerReply))
  | clusterRetire (lid : Nat)
  | writeBufferFull (lid blin : Nat)
  | blockMove (lid blin core : Nat)
  /-- spare: a spare is left for the word (25 R442) -/
  | correctedError (unit : ErrUnit) (addr : Nat) (spare : Bool)
  | uncorrectableError (unit : ErrUnit) (addr : Nat) (spare : Bool) (who : Consumer)
  | laneRetrainDone (lane : Nat)
  | pageQuarantine (page : PageKey)
  | pageRestore (page : PageKey) (home frame : Nat)
  | dieResetRequest (die : Nat) (images : List (Nat × Nat))
  /-- area: the save area that Raleb takes from the launch's owner context (25 R452) -/
  | clusterSave (lid cluster area : Nat)
  | clusterRestore (lid cluster die : Nat)
  | quiesceDeadlineExpiry (die : Nat)
  | dieResetComplete (die : Nat)
  | diePowerGate (die : Nat)
  | diePowerUp (die : Nat)
  | powerOn (boot : BootInputs)
  | firmwareUpdate (component : Component) (image : Image) (starts : Bool)
  | firmwareHoldTimeout (component : Component) (ops : List Nat)
  | attestationRequest (nonce : Nat)
  | powerManagerRevision (clocks : List Nat) (windows : List (Nat × Nat))
  | temperatureReport (source : TempSource) (celsius : Nat)
  | hostRdmaWrite (conn key va len data : Nat)
  | hostRdmaWriteImm (conn key va len data immediate : Nat)
  | hostRdmaRead (conn key va len : Nat)
  | hostAtomicCas (conn key va compare swap : Nat)
  | hostAtomicFetchAdd (conn key va addend : Nat)
  /-- segments of a collective command that ranks on other packages acknowledge as landed (28 R483) -/
  | collAcks (segments : List Nat)
  /-- a package says that the command of a rank there is lost (28 R486) -/
  | collLost (rank : Nat)
  /-- a message that waits is tried again, by its place among those that wait -/
  | hostRetry (place : Nat)
  | launchPacket (conn header record : Nat)
  | managementKillLaunch (lid : Nat)
  | bufferTableEntryWrite (ctx index entry : Nat) (request : TableRequest)
  | launchQueueCreate (queue ctx die base control : Nat)
  | connectionSetup (conn ctx : Nat) (kind : ConnKind)
  | linkPartnerFallback (lanes : Nat)
  deriving DecidableEq, Repr

/-- The issue group whose instruction exec runs (01 R15, R17). -/
structure Issue where
  slot : Nat
  /-- PC of the instruction: the prefix's PC for a pair (03 R65) -/
  pc : Pc
  tids : List Nat
  handler : Bool
  /-- the latched prefix word (03 R64) -/
  pfx : Option Word
  deriving DecidableEq, Repr

/-- Which agent moves next (assumption 1, DESIGN CHOICE). -/
inductive Pick where
  /-- an event, with the request in front of its agent -/
  | event (i : Instr) (input : Input)
  /-- the issue of one group: slot, PC, mode, threads -/
  | issue (slot : Nat) (pc : Pc) (handler : Bool) (tids : List Nat) (input : Input)
  deriving DecidableEq, Repr

/-- The package. -/
structure State where
  /-- the model's own: which agent moves next (assumption 1, DESIGN CHOICE) -/
  agenda : List Pick
  /-- the request in front of the agent that moves -/
  input : Input
  /-- the group whose instruction executes -/
  issue : Option Issue
  /-- the model's own: numbers steps, operations and free values (assumption 2, DESIGN CHOICE) -/
  seq : Nat
  /-- reference ticks since package boot (01 R27) -/
  ref : Nat
  /-- package index in the pod (28 R469) -/
  pkg : Nat
  tripped : Bool
  slots : List (Nat × Slot)
  cores : List (Nat × Core)
  dies : List (Nat × Die)
  ops : List Op
  /-- barriers at .co and wider: (level, launch, a, b, index) (14 R308) -/
  bars : List ((Nat × Nat × Nat × Nat × Nat) × Bar)
  /-- threads that have joined and left each barrier instance (14 R308, R309, R314): (level, launch, a, b) -/
  members : List ((Nat × Nat × Nat × Nat) × Nat × Nat)
  dram : List Host.Cell
  /-- L2 lines: (die, physical line), oldest first -/
  l2 : List ((Nat × Nat) × L2Line)
  /-- the directory's entries: the lines that L2s hold, oldest first (15 R318) -/
  tracked : List Nat
  /-- the lines that a directory slice has room for: the spec gives no number (15 R318; assumption 83, DESIGN CHOICE) -/
  dirRoom : Nat
  /-- how the granules of a frame, (stack, 64 KiB frame), lie in its stack (19 R382; assumption 7, DESIGN CHOICE) -/
  spread : List ((Nat × Nat) × Spread)
  /-- lines marked LOST in the directory (15 R322) -/
  lost : List Nat
  /-- lines that cannot be read: an uncorrectable error of HBM, or of the L2 line that held them M or O (25 R446) -/
  damaged : List Nat
  /-- buffer tables: (context, index) to the 64-byte entry (19 R379) -/
  bufs : List ((Nat × Nat) × Nat)
  /-- loaded key slots, each with its key (19 R390) -/
  keys : List (Nat × Nat)
  /-- encrypted sectors of DRAM by number (19 R390; assumption 11, DEDUCED) -/
  seals : List (Nat × Seal)
  snaps : List Snap
  migrations : List Migration
  /-- leaf entries of quarantined pages as they were (25 R446) -/
  quars : List (PageKey × Nat)
  /-- copy-on-write copies under way (20 R398) -/
  cows : List PageKey
  /-- free frames by stack (20 R397, R398) -/
  pools : List (Nat × List Nat)
  banks : List ((Nat × Nat × Nat) × BankUnit)
  ports : List ((Nat × Nat) × Port)
  stackTab : List (Nat × Stack)
  allBankLimit : Nat
  queues : List (Nat × Queue)
  /-- connections by which launch packets placed records that are not yet taken: (queue, count) (28 R478, R479) -/
  packets : List ((Nat × Nat) × Nat)
  /-- a bind core's access for a launch has been held on a migrating page since: LID, reference time (19 R387) -/
  waits : List (Nat × Nat)
  launches : List Launch
  blocks : List Block
  /-- settings Raleb reports and sets: ticks -/
  holdLimit : Nat
  age : Nat
  resInterval : Nat
  qdl : Nat
  peerTimeout : Nat
  escHold : Nat
  thresholds : List Nat
  windows : List Nat
  /-- recent event times of each unit (25 R442) -/
  events : List (ErrUnit × List Nat)
  lanes : List (Nat × Lane)
  /-- lanes in use by the Ethernet port (28 R474) -/
  ethWidth : Nat
  staging : List Report
  /-- actions of this tick that the next tick reports (25 R448; assumption 33, DEDUCED) -/
  due : List Report
  /-- the unit whose data the reads of this step cannot have, and that of the next step (25 R445; assumption 102, DESIGN CHOICE) -/
  armed : Option ErrUnit
  arming : Option ErrUnit
  reportSeq : Nat
  /-- the package error log's control block (a PPA) and log2 of its records -/
  logAddr : Nat
  logN : Nat
  rootDigest : Nat
  identity : Nat
  rollback : List Nat
  bootStatus : Nat
  booted : Bool
  firmware : List (Component × Firm)
  /-- power budget in watts (27 R465, R467, R468) -/
  budget : Nat
  /-- the coolant's flow has fallen below 3.0 L/min for 1 s since power-on (27 R468) -/
  flowLow : Bool
  /-- the power and cooling tables (27 R460) -/
  coolTables : Nat
  conns : List (Nat × Conn)
  outbox : List Message
  /-- accesses sent to peers by agents that wait for the answer where they stand (28 R470; assumption 45, DESIGN CHOICE) -/
  asking : List Message
  /-- messages of the host that wait, in arrival order (28 R476, R477; assumption 107, DEDUCED) -/
  hostHeld : List HeldMsg
  /-- escalated slots whose hold time runs: (slot, since) (16 R345) -/
  escHolds : List (Nat × Nat)
  deriving DecidableEq, Repr

/-! ## Reset -/

/-- A slot that holds nothing. -/
def Slot.init : Slot :=
  { st := .free, preq := false, deadline := 0, heldPre := false, heldHalt := false, heldKill := false, saveAddr := 0,
    bind := none, saveStep := 0, saveFrom := 0, cancelled := [], repair := false, reserved := false, migr := none,
    party := none }

/-- A core after its die's reset, and at power-on. -/
def Core.init : Core :=
  { scr := [], acc := [], region := 0, portions := [], gens := [], l1 := [], segs := [], table := [], parts := [],
    tileQ := [], tileT := [], shadow := [], shadows := [], latew := 0, regfce := 0, sramce := 0, imemce := 0,
    disable := false, disabled := false }

/-- A die without power. -/
def Die.init : Die :=
  { cond := .gated, clk := 0, freq := 36, invs := [], tlb := [], walks := [], reserve := none, served := [],
    reset := none, stopped := false }

/-- A barrier nobody has named yet. -/
def Bar.init : Bar := { phase := 0, arrived := 0 }

/-- The package at power-on: only the monument island is powered (27 R460), no launch, no table, memory with nothing
listed. The values the spec states no reset for are named in assumption 4, DESIGN CHOICE. -/
def State.reset : State :=
  { agenda := [], input := .none, issue := none, seq := 0, ref := 0, pkg := 0, tripped := false, slots := [],
    cores := [], dies := [], ops := [], bars := [], members := [], dram := [], l2 := [],
    tracked := [], dirRoom := 2 ^ 21, spread := [], lost := [], damaged := [], bufs := [], keys := [], seals := [],
    snaps := [], migrations := [], quars := [], cows := [], pools := [], banks := [], ports := [], stackTab := [],
    allBankLimit := 192, queues := [], packets := [], waits := [], launches := [], blocks := [], holdLimit := 200000,
    age := 200000, resInterval := 2000000, qdl := 50000, peerTimeout := 1000000, escHold := 0,
    thresholds := [4, 16, 2, 2], windows := [60000000000, 1000000, 10000000000, 10000000000], events := [],
    lanes := [], ethWidth := 8, staging := [], due := [], armed := none, arming := none, reportSeq := 0, logAddr := 0, logN := 4, rootDigest := 0,
    identity := 0, rollback := [], bootStatus := 0, booted := false, firmware := [], budget := 3200, flowLow := false, coolTables := 0, conns := [], outbox := [], asking := [], hostHeld := [], escHolds := [] }

end Sys2Proof.Machine
end

