-- ==== Sys2Proof/Machine/Util.lean ====
section
/-! DEFINITION. Plain operations on the state's data: record fields, tables keyed by a number, and the updates of one
slot, core, die, party, thread or operation. Every later file reads and writes the state through these. -/

namespace Sys2Proof.Machine

/-- len bits of a record from bit lo up. -/
def fld (r lo len : Nat) : Nat := r / 2 ^ lo % 2 ^ len

/-- Bit i of a natural. -/
def bitOf (r i : Nat) : Bool := r / 2 ^ i % 2 == 1

/-- Sign extension from n bits to an integer (00_scope.md R10). -/
def sint (x n : Nat) : Int := if x % 2 ^ n < 2 ^ (n - 1) then (x % 2 ^ n : Nat) else (x % 2 ^ n : Nat) - (2 ^ n : Nat)

/-- The low n bits of an integer. -/
def wrap (x : Int) (n : Nat) : Nat := (x % (2 ^ n : Nat)).toNat

/-- Clamp (00_scope.md R10 sat). -/
def satInt (x lo hi : Int) : Int := if x < lo then lo else if hi < x then hi else x

/-- r with len bits from lo replaced by x. -/
def setFld (r lo len x : Nat) : Nat := r - fld r lo len * 2 ^ lo + x % 2 ^ len * 2 ^ lo

/-- The least k with 2^k at least x. -/
def ceilLog2 (x : Nat) : Nat := if x ≤ 1 then 0 else Nat.log2 (x - 1) + 1

/-- Round up to a multiple. -/
def roundUp (x m : Nat) : Nat := (x + m - 1) / m * m

/-- A list from an index on, by f of index and element. -/
def mapI {α β : Type} (f : Nat → α → β) : Nat → List α → List β
  | _, [] => []
  | i, a :: l => f i a :: mapI f (i + 1) l

/-- A table with entry e set, grown to its place. -/
def setAt {α : Type} (d : α) (l : List α) (e : Nat) (x : α) : List α :=
  if e < l.length then l.set e x else l ++ List.replicate (e - l.length) d ++ [x]

/-- 0, 1, …, n - 1. -/
def upTo (n : Nat) : List Nat := List.range n

/-! ## Tables -/

section Tables
variable {κ α : Type} [DecidableEq κ]

/-- The entry of a key, if listed. -/
def aget? (k : κ) : List (κ × α) → Option α
  | [] => none
  | (j, a) :: m => if j = k then some a else aget? k m

/-- The entry of a key, or the default. -/
def aget (d : α) (k : κ) (m : List (κ × α)) : α := (aget? k m).getD d

/-- The table with the entry of a key set. -/
def aset (k : κ) (a : α) : List (κ × α) → List (κ × α)
  | [] => [(k, a)]
  | (j, b) :: m => if j = k then (k, a) :: m else (j, b) :: aset k a m

/-- The table without a key. -/
def adel (k : κ) (m : List (κ × α)) : List (κ × α) := m.filter fun e => e.1 ≠ k

end Tables

/-! ## Slots, cores, dies -/

def State.slot (s : State) (k : Nat) : Slot := aget Slot.init k s.slots
def State.core (s : State) (k : Nat) : Core := aget Core.init k s.cores
def State.die (s : State) (k : Nat) : Die := aget Die.init k s.dies
def State.setSlot (s : State) (k : Nat) (x : Slot) : State := { s with slots := aset k x s.slots }
def State.setCore (s : State) (k : Nat) (x : Core) : State := { s with cores := aset k x s.cores }
def State.setDie (s : State) (k : Nat) (x : Die) : State := { s with dies := aset k x s.dies }
def State.party? (s : State) (k : Nat) : Option Party := (s.slot k).party
def State.setParty (s : State) (k : Nat) (p : Party) : State := s.setSlot k { s.slot k with party := some p }
def State.stack (s : State) (k : Nat) : Stack := aget {} k s.stackTab
def State.setStack (s : State) (k : Nat) (x : Stack) : State := { s with stackTab := aset k x s.stackTab }
def State.port (s : State) (k : Nat × Nat) : Port := aget {} k s.ports
def State.setPort (s : State) (k : Nat × Nat) (x : Port) : State := { s with ports := aset k x s.ports }
def State.bank (s : State) (k : Nat × Nat × Nat) : BankUnit := aget {} k s.banks
def State.setBank (s : State) (k : Nat × Nat × Nat) (x : BankUnit) : State := { s with banks := aset k x s.banks }

/-- The core of a slot (10_core.md R231: 16 slots a core). -/
def coreOf (slot : Nat) : Nat := slot / 16
/-- The die of a core (00_scope.md R1: 32 cores a die). -/
def dieOf (core : Nat) : Nat := core / 32
/-- The slots of a core. -/
def slotsOf (core : Nat) : List Nat := (upTo 16).map (core * 16 + ·)

/-! ## Launches and blocks -/

def State.launch? (s : State) (lid : Nat) : Option Launch := s.launches.find? fun l => l.lid == lid
def State.setLaunch (s : State) (l : Launch) : State :=
  { s with launches := s.launches.map fun m => if m.lid == l.lid then l else m }
def State.block? (s : State) (lid blin : Nat) : Option Block :=
  s.blocks.find? fun b => b.lid == lid && b.blin == blin
def State.setBlock (s : State) (b : Block) : State :=
  { s with blocks := s.blocks.map fun c => if c.lid == b.lid && c.blin == b.blin then b else c }

/-! ## Operations -/

def State.op? (s : State) (id : Nat) : Option Op := s.ops.find? fun o => o.id == id
def State.setOp (s : State) (o : Op) : State := { s with ops := s.ops.map fun p => if p.id == o.id then o else p }
def State.setPhase (s : State) (o : Op) (p : Phase) : State := s.setOp { o with phase := p }
def State.delOp (s : State) (id : Nat) : State := { s with ops := s.ops.filter fun o => o.id ≠ id }
def State.send (s : State) (kind dest body : Nat) : State :=
  { s with outbox := s.outbox ++ [{ kind := kind, dest := dest, body := body }] }

/-! ## Threads -/

/-- A thread that nothing has started. -/
def Thread.zero : Thread :=
  { pc := 0, v := [], o := List.replicate 4 0#32, lat := 0, latx := 0, h := List.replicate 8 0#32, draw := 0,
    fpcsr := 0, ver := 0, cause := 0, tpc := 0, taddr := 0, tinfo := 0, handler := false, exited := false, cnt := {},
    hold := none, arrivals := [], barKept := none, pend := [], async := [], fence := [], lastIssue := 0 }

def Party.thread (p : Party) (t : Nat) : Thread := p.threads.getD t Thread.zero
def Party.setThread (p : Party) (t : Nat) (x : Thread) : Party := { p with threads := p.threads.set t x }
/-- The party with every thread of a list changed by f. -/
def Party.mapThreads (p : Party) (tids : List Nat) (f : Nat → Thread → Thread) : Party :=
  { p with threads := mapI (fun i x => if tids.contains i then f i x else x) 0 p.threads }

def Counters.get (c : Counters) : Cls → Nat
  | .ld => c.ld | .st => c.st | .cp => c.cp | .tl => c.tl | .bk => c.bk | .gx => c.gx | .cf => c.cf
def Counters.set (c : Counters) (k : Cls) (n : Nat) : Counters :=
  match k with
  | .ld => { c with ld := n } | .st => { c with st := n } | .cp => { c with cp := n } | .tl => { c with tl := n }
  | .bk => { c with bk := n } | .gx => { c with gx := n } | .cf => { c with cf := n }
/-- The classes in the order of 01_thread.md R30. -/
def Cls.all : List Cls := [.ld, .st, .cp, .tl, .bk, .gx, .cf]

/-! ## Launch records (16_launch_scheduling.md R334) -/

def Launch.f (l : Launch) (byte lo len : Nat) : Nat := fld l.record (8 * byte + lo) len
def Launch.prio (l : Launch) : Nat := l.f 0 25 3
def Launch.isDet (l : Launch) : Bool := l.f 0 24 1 == 1
def Launch.coRes (l : Launch) : Bool := l.f 0 23 1 == 1
def Launch.xmc (l : Launch) : Bool := l.f 0 22 1 == 1
def Launch.nvt (l : Launch) : Bool := l.f 0 21 1 == 1
def Launch.ndep (l : Launch) : Nat := l.f 0 18 3
def Launch.shadowN (l : Launch) : Nat := l.f 0 14 4
def Launch.cscope (l : Launch) : Nat := l.f 0 10 4
def Launch.entry (l : Launch) : Nat := l.f 4 16 16
def Launch.handler (l : Launch) : Nat := l.f 4 0 16
def Launch.nv (l : Launch) : Nat := 8 * l.f 8 24 5
def Launch.segBud (l : Launch) : Nat := l.f 8 16 7
def Launch.ppb (l : Launch) : Nat := l.f 8 8 8
/-- Cores of a block. -/
def Launch.cores (l : Launch) : Nat := 2 ^ l.f 8 0 2
def Launch.lcx (l : Launch) : Nat := l.f 12 24 3
def Launch.lcy (l : Launch) : Nat := l.f 12 20 3
def Launch.lcz (l : Launch) : Nat := l.f 12 16 3
def Launch.accKb (l : Launch) : Nat := l.f 12 0 9
def Launch.gx (l : Launch) : Nat := l.f 16 0 32
def Launch.gy (l : Launch) : Nat := l.f 20 0 32
def Launch.gz (l : Launch) : Nat := l.f 24 0 32
def Launch.nstat (l : Launch) : Nat := l.f 28 16 12
def Launch.ndyn (l : Launch) : Nat := l.f 28 0 12
/-- Format slot k of the launch (02_number_formats.md R56). -/
def Launch.fmtSlot (l : Launch) (k : Nat) : Nat := l.f (32 + 4 * k) 0 32
def Launch.code (l : Launch) : Nat := l.f 64 0 64
def Launch.segMap (l : Launch) : Nat := l.f 72 0 64
def Launch.resMap (l : Launch) : Nat := l.f 80 0 64
def Launch.argAddr (l : Launch) : Nat := l.f 88 0 64
def Launch.layT (l : Launch) : Nat := l.f 96 0 64
def Launch.ringT (l : Launch) : Nat := l.f 104 0 64
def Launch.seed (l : Launch) : Nat := l.f 112 0 64
def Launch.ver0 (l : Launch) : Nat := l.f 120 0 24
def Launch.pgrp (l : Launch) : Nat := l.f 124 16 16
def Launch.pgn (l : Launch) : Nat := l.f 124 0 11
def Launch.csig (l : Launch) : Nat := l.f 192 0 64
def Launch.cval (l : Launch) : Nat := l.f 200 0 64
def Launch.tdown (l : Launch) : Nat := l.f 208 0 64
def Launch.dieMask (l : Launch) : Nat := l.f 216 0 4
/-- The dies a launch may use (R334: 0 means all four). -/
def Launch.dieOk (l : Launch) (d : Nat) : Bool := l.dieMask == 0 || bitOf l.dieMask d
def Launch.nblocks (l : Launch) : Nat := l.gx * l.gy * l.gz
/-- Blocks of a cluster (14_cluster.md R306). -/
def Launch.clSize (l : Launch) : Nat := 2 ^ (l.lcx + l.lcy + l.lcz)
def Launch.nclusters (l : Launch) : Nat := l.nblocks / l.clSize

/-- The scratchpad allocations of a record: (size, span code); the list ends at the first zero word (R334). -/
def allocsFrom (record : Nat) : Nat → Nat → List (Nat × Nat)
  | 0, _ => []
  | n + 1, i =>
    let w := fld record (8 * (224 + 4 * i)) 32
    if w == 0 then [] else (fld w 0 20, fld w 20 3) :: allocsFrom record n (i + 1)
def Launch.allocs (l : Launch) : List (Nat × Nat) := allocsFrom l.record 8 0

/-- End offset of allocations placed at the next multiple of 512 each (11_scratchpad_copies.md R246). -/
def allocEnd (as : List (Nat × Nat)) : Nat := as.foldl (fun e a => roundUp e 512 + a.1) 0
/-- The end of the last allocation: what a lane access may reach (R246). -/
def Launch.scratchEnd (l : Launch) : Nat := allocEnd l.allocs
/-- A portion's size (R245). -/
def Launch.portionSize (l : Launch) : Nat := roundUp l.scratchEnd 65536

end Sys2Proof.Machine
end

