-- ==== Sys2Proof/Machine/Mem.lean ====
section
/-! DEFINITION. Memories: the canonical byte lists, the DRAM of the stacks, each die's L2 under the directory, each
core's L1, scratchpad and accumulator memory (15_die_memory.md R316 to R322, 19_package_memory.md R377, R378,
11_scratchpad_copies.md R245, 12_tile_engine.md R275). -/

namespace Sys2Proof.Machine

/-! ## Byte lists -/

/-- What a byte that nothing has written reads as (assumption 3, DESIGN CHOICE). -/
def unlisted : Byte := 0#8

/-- One byte. -/
def Memory.get : List Host.Cell → Nat → Byte
  | [], _ => unlisted
  | (j, x) :: m, a => if j = a then x else Memory.get m a

/-- One byte written: the canonical form is kept. -/
def Memory.put : List Host.Cell → Nat → Byte → List Host.Cell
  | [], a, b => if b = unlisted then [] else [(a, b)]
  | (j, x) :: m, a, b =>
    if a < j then (if b = unlisted then (j, x) :: m else (a, b) :: (j, x) :: m)
    else if a = j then (if b = unlisted then m else (a, b) :: m)
    else (j, x) :: Memory.put m a b

/-- n bytes from a up, little-endian (00_scope.md R7). -/
def Memory.read (m : List Host.Cell) : Nat → Nat → Nat
  | _, 0 => 0
  | a, n + 1 => (Memory.get m a).toNat + 256 * Memory.read m (a + 1) n

/-- n bytes written from a up. -/
def Memory.write (m : List Host.Cell) : Nat → Nat → Nat → List Host.Cell
  | _, 0, _ => m
  | a, n + 1, x => Memory.write (Memory.put m a (BitVec.ofNat 8 x)) (a + 1) n (x / 256)

/-- Every address of a list above a bound, rising, and no entry that an unlisted address reads as. -/
def Memory.wfFrom : Option Nat → List Host.Cell → Bool
  | _, [] => true
  | lo, (j, x) :: m => (match lo with | none => true | some l => l < j) && x != unlisted && Memory.wfFrom (some j) m

/-- The canonical form: addresses strictly rising, no entry equal to what an unlisted address reads as. -/
def Memory.wf (m : List Host.Cell) : Bool := Memory.wfFrom none m

/-! ## Scratchpad and accumulator memory -/

def scrRead (s : State) (core off n : Nat) : Nat := Memory.read (s.core core).scr off n
def scrWrite (s : State) (core off n x : Nat) : State :=
  s.setCore core { s.core core with scr := Memory.write (s.core core).scr off n x }
def accRead (s : State) (core off n : Nat) : Nat := Memory.read (s.core core).acc off n
def accWrite (s : State) (core off n x : Nat) : State :=
  s.setCore core { s.core core with acc := Memory.write (s.core core).acc off n x }

/-! ## Memory ports (19 R377, R382, R383) -/

def ppaStack (ppa : Nat) : Nat := ppa / 2 ^ 36
/-- The pseudo-channel of a PPA, as the model numbers places: 256-byte granules of a frame over the pseudo-channels of its
spread (R382), a bank location as bankOff numbers it (assumption 7, DESIGN CHOICE). -/
def State.ppaPc (s : State) (ppa : Nat) : Nat × Nat :=
  let off := ppa % 2 ^ 36
  (ppaStack ppa,
    match aget? (ppaStack ppa, off / 2 ^ 16) s.spread with
    | some (.pcs base log) => base + off / 256 % 2 ^ log
    | some .banks => off / (768 * 2 ^ 20)
    | none => off / 256 % 64)
/-- A firmware component is out of service: it restarts, or is down (27 R462, R463). -/
def State.out (s : State) (c : Component) : Bool := (aget? c s.firmware).any fun f => f.restart.isSome
/-- The pseudo-channel of a PPA is in all-bank mode, or its port's component restarts, which holds as all-bank mode does
(27 R462) (assumption 47, DEDUCED). -/
def inAllBank (s : State) (ppa : Nat) : Bool := (s.port (s.ppaPc ppa)).allBank || s.out (.port (ppaStack ppa))

/-! ## Lines -/

/-- The line of a physical address (15 R316: 128 bytes). -/
def lineOf (ppa : Nat) : Nat := ppa / 128
/-- The line's bytes in DRAM. -/
def dramLine (s : State) (line : Nat) : Nat := Memory.read s.dram (line * 128) 128
/-- Sector k (32 bytes) of a line's data. -/
def sectorOf (data k : Nat) : Nat := fld data (256 * k) 256
/-- The sectors that n bytes at a byte offset of a line touch, as a mask. -/
def sectorMask (off n : Nat) : Nat :=
  (upTo 4).foldl (fun m k => if off < 32 * k + 32 && 32 * k < off + n then m + 2 ^ k else m) 0

def State.l2? (s : State) (die line : Nat) : Option L2Line := aget? (die, line) s.l2

/-- The dies of the package. -/
def allDies : List Nat := [0, 1, 2, 3]

/-- The directory counts a die as a holder: it holds the line and no invalidation of it is queued (15 R318, R321). -/
def holds (s : State) (line die : Nat) : Bool :=
  (s.l2? die line).isSome && !(s.die die).invs.contains line
/-- A die holds the line: the directory has an entry for it. -/
def held (s : State) (line : Nat) : Bool := allDies.any (holds s line)

/-- The directory tracks a line: a line that none held is the youngest (15 R318). -/
def State.track (s : State) (line : Nat) : State :=
  { s with
    tracked := if s.tracked.contains line && held s line then s.tracked else s.tracked.filter (· ≠ line) ++ [line] }

/-- An L2's entry of a line that the directory tracks. -/
def State.putL2 (s : State) (die line : Nat) (x : L2Line) : State := { s with l2 := aset (die, line) x s.l2 }
def State.setL2 (s : State) (die line : Nat) (x : L2Line) : State := (s.track line).putL2 die line x
def State.delL2 (s : State) (die line : Nat) : State := { s with l2 := adel (die, line) s.l2 }

/-- The directory slice beside a line's home stack (15 R318). -/
def dirSlice (line : Nat) : Nat := line / 2 ^ 29
/-- The lines that a directory slice tracks, oldest first. -/
def sliceLines (s : State) (slice : Nat) : List Nat := s.tracked.filter fun l => dirSlice l == slice && held s l
/-- The directory slice of a line has room for it. -/
def dirHasRoom (s : State) (line : Nat) : Bool := held s line || (sliceLines s (dirSlice line)).length < s.dirRoom

/-- The state in which a die holds a line, for the directory. -/
def heldAs (s : State) (line die : Nat) : Option Moesi := if holds s line die then (s.l2? die line).map (·.st) else none

/-- The die that holds a line modified or owned (15 R318). -/
def ownerOf (s : State) (line : Nat) : Option Nat :=
  allDies.find? fun d => heldAs s line d == some .m || heldAs s line d == some .o

/-- A sector's coherent value: the owner's if its copy of the sector is valid, else DRAM's. -/
def coherentSector (s : State) (line k : Nat) : Nat :=
  match (ownerOf s line).bind fun d => s.l2? d line with
  | some l => if bitOf l.sect k then sectorOf l.data k else sectorOf (dramLine s line) k
  | none => sectorOf (dramLine s line) k

/-- A line's coherent value. -/
def coherentLine (s : State) (line : Nat) : Nat :=
  (upTo 4).foldl (fun x k => x + coherentSector s line k * 2 ^ (256 * k)) 0

/-- n bytes of the coherent value, inside one line. -/
def coherentRead (s : State) (ppa n : Nat) : Nat := fld (coherentLine s (lineOf ppa)) (8 * (ppa % 128)) (8 * n)

/-- One byte of the coherent value: what an access through a fresh copy reads. -/
def coherentByte (s : State) (ppa : Nat) : Nat := coherentRead s ppa 1

/-- Valid sectors of a line written to DRAM (15 R316: a write-back moves only the sectors it needs). -/
def writeBack (s : State) (die line : Nat) : State :=
  match s.l2? die line with
  | none => s
  | some l =>
    let put := fun m k =>
      if bitOf l.sect k then Memory.write m (line * 128 + 32 * k) 32 (sectorOf l.data k) else m
    { s with dram := (upTo 4).foldl put s.dram }

/-- A copy's response to a snoop for a read (15 R319): M and O supply and end O, E ends S. -/
def snoopRead (s : State) (die line : Nat) : State :=
  match s.l2? die line with
  | some l =>
    match l.st with
    | .m => s.setL2 die line { l with st := .o }
    | .e => s.setL2 die line { l with st := .s }
    | .o | .s => s
  | none => s

/-- A queued invalidation of a line is forgotten once the die's copy is fresh. -/
def dropInv (s : State) (die line : Nat) : State :=
  s.setDie die { s.die die with invs := (s.die die).invs.filter (· ≠ line) }

/-! ## Replacement (15 R316, 07 R163) -/

/-- A copy holds data that memory lacks. -/
def Moesi.dirty : Moesi → Bool
  | .m | .o => true
  | .e | .s => false

/-- The L2 slice of a line: 16 slices (15 R316); the hash is the model's (assumption 84, DESIGN CHOICE). -/
def l2Slice (line : Nat) : Nat := line % 16
/-- The lines that a die holds in a slice, oldest first, with their entries. -/
def l2SliceOf (s : State) (die line : Nat) : List (Nat × L2Line) :=
  (s.l2.filter fun e => e.1.1 == die && l2Slice e.1.2 == l2Slice line).map fun e => (e.1.2, e.2)
/-- A slice of 4 MiB holds 32,768 lines (15 R316): the line is in it, or it has room. -/
def l2HasRoom (s : State) (die line : Nat) : Bool := (s.l2? die line).isSome || (l2SliceOf s die line).length < 2 ^ 15
/-- How soon a mark is replaced: first, then none, then last (07 R163). -/
def markRank (mark : Nat) : Nat := if mark == 1 then 0 else if mark == 2 then 2 else 1
/-- No line of the slice is to be replaced before this one by its mark. -/
def l2Prefers (s : State) (die line : Nat) : Bool :=
  match s.l2? die line with
  | some l => (l2SliceOf s die line).all fun e => markRank l.mark ≤ markRank e.2.mark
  | none => false
/-- A dirty copy's data can reach its bank: the port is not in all-bank mode (21 R413). -/
def canWriteBack (s : State) (line : Nat) (st : Option Moesi) : Bool :=
  match st with
  | some x => !(x.dirty && inAllBank s (128 * line))
  | none => true
/-- The line that a full slice replaces, of those whose data can leave: by mark, then the oldest. -/
def l2Victim (s : State) (die line : Nat) : Option Nat :=
  let c := (l2SliceOf s die line).filter fun e => canWriteBack s e.1 (heldAs s e.1 die)
  ((c.find? fun e => e.2.mark == 1).orElse fun _ => (c.find? fun e => e.2.mark != 2).orElse fun _ => c.head?).map (·.1)
/-- A line leaves an L2 (15 R319): M and O write back. -/
def l2Evict (s : State) (die line : Nat) : State :=
  match heldAs s line die with
  | some x => (if x.dirty then writeBack s die line else s).delL2 die line
  | none => s.delL2 die line
/-- A full slice makes room for a line. -/
def l2Make (s : State) (die line : Nat) : State :=
  if l2HasRoom s die line then s
  else match l2Victim s die line with
    | some v => l2Evict s die v
    | none => s
/-- A line's mark set by an access's L2P policy (07 R163). -/
def l2Mark (s : State) (die line attr : Nat) : State :=
  match s.l2? die line with
  | some l => if fld attr 6 2 == 0 then s else s.setL2 die line { l with mark := fld attr 6 2 }
  | none => s

/-- The sectors of mask filled from the coherent value. -/
def fillSectors (s : State) (line : Nat) (old mask : Nat) : Nat :=
  (upTo 4).foldl (fun x k => if bitOf mask k then setFld x (256 * k) 256 (coherentSector s line k) else x) old

/-- A fill of a line that a die does not hold (15 R319, row I). -/
def l2Fill (s : State) (die line mask : Nat) : State :=
  let s := l2Make s die line
  let data := fillSectors s line 0 mask
  let others := allDies.filter fun d => d ≠ die && holds s line d
  let s := others.foldl (fun s d => snoopRead s d line) s
  let s := dropInv s die line
  s.setL2 die line { st := if others.isEmpty then .e else .s, sect := mask, data := data }

/-- A die's local read brings the sectors it needs (15 R319, R316). A copy whose invalidation is queued is none to the
directory: a sector that it lacks fills the line anew. -/
def l2Fetch (s : State) (die line mask : Nat) : State :=
  match s.l2? die line with
  | some l =>
    if Nat.land mask l.sect == mask then s
    else if holds s line die then
      let miss := mask - Nat.land mask l.sect
      s.setL2 die line { l with sect := l.sect + miss, data := fillSectors s line l.data miss }
    else l2Fill (dropInv (s.delL2 die line) die line) die line mask
  | none => l2Fill s die line mask

/-- The sectors that a die's copy or its owner's holds valid. -/
def validSectors (s : State) (die line : Nat) : Nat :=
  let own := if holds s line die then ((s.l2? die line).map (·.sect)).getD 0 else 0
  Nat.lor own ((((ownerOf s line).bind fun d => s.l2? d line).map (·.sect)).getD 0)

/-- A read through a die's L2: the value and the state after its fill. -/
def l2Read (s : State) (die ppa n : Nat) : Nat × State :=
  let line := lineOf ppa
  let s := l2Fetch s die line (sectorMask (ppa % 128) n)
  (match s.l2? die line with
   | some l => fld l.data (8 * (ppa % 128)) (8 * n)
   | none => 0, s)

/-- Ownership (15 R319, R321): the other owner supplies its data and drops its copy, every other holder gets an
invalidation, and the die holds the line in M: the sectors of mask, and those that it or the owner held (15 R316). A line
handed from die to die stays tracked throughout (R318). -/
def l2Own (s : State) (die line mask : Nat) : State :=
  let s := (l2Make s die line).track line
  let sect := Nat.lor mask (validSectors s die line)
  let data := fillSectors s line 0 sect
  let mark := ((s.l2? die line).map (·.mark)).getD 0
  let s := allDies.foldl (fun s d =>
    if d = die then s
    else match heldAs s line d with
      | some .m | some .o | some .e => s.delL2 d line
      | some .s => s.setDie d { s.die d with invs := (s.die d).invs ++ [line] }
      | none => s) s
  (dropInv s die line).putL2 die line { st := .m, sect := sect, data := data, mark := mark }

/-- A write through a die's L2. -/
def l2Write (s : State) (die ppa n x : Nat) : State :=
  let line := lineOf ppa
  let s := l2Own s die line (sectorMask (ppa % 128) n)
  match s.l2? die line with
  | some l => s.setL2 die line { l with data := setFld l.data (8 * (ppa % 128)) (8 * n) x }
  | none => s

/-- A read by an agent that stands in no die, served through the directory (assumption 8, DESIGN CHOICE). -/
def dirRead (s : State) (ppa n : Nat) : Nat × State :=
  let line := lineOf ppa
  (coherentRead s ppa n, allDies.foldl (fun s d => if holds s line d then snoopRead s d line else s) s)

/-- A die has power and is not fenced: its L2 serves accesses, and the directory snoops it (15 R322). -/
def dieUp (s : State) (die : Nat) : Bool :=
  match (s.die die).cond with
  | .running | .quiescing => true
  | .gated | .fenced => false

/-- A write by an agent that stands in no die: the owner writes back, every copy is dropped or gets an invalidation,
and DRAM takes the bytes (assumption 8, DESIGN CHOICE). -/
def dirWrite (s : State) (ppa n x : Nat) : State :=
  let line := lineOf ppa
  let s := allDies.foldl (fun s d =>
    match heldAs s line d with
    | some .m | some .o => (writeBack s d line).delL2 d line
    | some .e => s.delL2 d line
    | some .s => s.setDie d { s.die d with invs := (s.die d).invs ++ [line] }
    | none => s) s
  { s with dram := Memory.write s.dram ppa n x }

/-- A line's copies are written back (15 R319 eviction of M and O) and kept or dropped. -/
def flushLine (s : State) (line : Nat) (keep : Bool) : State :=
  allDies.foldl (fun s d =>
    match s.l2? d line with
    | none => s
    | some l =>
      let s := if holds s line d && (l.st == .m || l.st == .o) then writeBack s d line else s
      if keep then s.setL2 d line { l with st := match l.st with | .m => .e | .o => .s | .e => .e | .s => .s }
      else dropInv (s.delL2 d line) d line) s

/-- Every copy of a line is dropped without a write (07 R173, INVR). -/
def discardLine (s : State) (line : Nat) : State :=
  allDies.foldl (fun s d => dropInv (s.delL2 d line) d line) s

/-- Every invalidation queued towards a die is applied (15 R321). -/
def applyInvs (s : State) (die : Nat) : State :=
  let s := (s.die die).invs.foldl (fun s line => s.delL2 die line) s
  s.setDie die { s.die die with invs := [] }

/-! ## L1 (15 R317) -/

def l1Drop (s : State) (core : Nat) : State := s.setCore core { s.core core with l1 := [] }
def l1DropLine (s : State) (core line : Nat) : State :=
  s.setCore core { s.core core with l1 := adel line (s.core core).l1 }
/-- The lines of an L1: what the scratchpad region leaves of 1 MiB (00 R1). -/
def l1Lines (c : Core) : Nat := (2 ^ 20 - c.region) / 128
/-- An L1's lines with room for one more: the first line marked for replacement, else the oldest, leaves a full L1. -/
def l1Room (c : Core) (lines : List (Nat × L1Line)) : List (Nat × L1Line) :=
  if lines.length < l1Lines c then lines
  else match lines.find? fun e => e.2.first with
    | some e => adel e.1 lines
    | none => lines.tail
/-- A line enters or refreshes its entry of an L1; L1P 2 marks it first for replacement (07 R163). -/
def l1Put (s : State) (core line data attr : Nat) : State :=
  let c := s.core core
  let first := fld attr 4 2 == 2
  s.setCore core { c with
    l1 := if (aget? line c.l1).isSome then aset line { data := data, first := first } c.l1
      else l1Room c c.l1 ++ [(line, { data := data, first := first })] }
/-- A store has written through: the issuing core's L1 copy takes the 16-byte units it touches, so that no later access reads
one half of another agent's 16-byte write (08 R186, R187). -/
def l1Update (s : State) (core ppa n : Nat) : State :=
  match aget? (lineOf ppa) (s.core core).l1 with
  | some d =>
    let lo := ppa % 128 / 16 * 16
    let len := roundUp (ppa % 128 + n) 16 - lo
    let now := coherentRead s (lineOf ppa * 128 + lo) len
    s.setCore core { s.core core with
      l1 := aset (lineOf ppa) { d with data := setFld d.data (8 * lo) (8 * len) now } (s.core core).l1 }
  | none => s
/-- A core's L1 copy of a line marked first for replacement by an access's L1P policy (07 R163). -/
def l1Mark (s : State) (core line attr : Nat) : State :=
  match aget? line (s.core core).l1 with
  | some d =>
    if fld attr 4 2 == 2 then s.setCore core { s.core core with l1 := aset line { d with first := true } (s.core core).l1 }
    else s
  | none => s

/-- The invalidations of one line queued towards a die are applied: a read that bypasses stale copies (assumption 9, DESIGN CHOICE). -/
def freshen (s : State) (die line : Nat) : State :=
  if (s.die die).invs.contains line then dropInv (s.delL2 die line) die line else s

/-- A lane or uniform load of n bytes at a physical address (15 R317, 07 R163): at .co or narrower the L1 may serve it,
WT reads at the owner or home, every other read is served by the die's L2; the policies mark the lines (07 R163). -/
def loadThrough (s : State) (core ppa n scope attr : Nat) : Nat × State :=
  let die := dieOf core
  let line := lineOf ppa
  let wt := bitOf attr 8
  let l1p := fld attr 4 2
  match aget? line (s.core core).l1 with
  | some d =>
    if !wt && 1 ≤ scope && scope ≤ 3 then (fld d.data (8 * (ppa % 128)) (8 * n), l1Mark s core line attr)
    else
      let s := if wt then freshen s die line else s
      let s := l2Fetch s die line 15
      let full := (l2Read s die (line * 128) 128).1
      (fld full (8 * (ppa % 128)) (8 * n), l1Put (l2Mark s die line attr) core line full attr)
  | none =>
    let s := if wt then freshen s die line else s
    if wt || l1p == 1 then
      let (x, s) := l2Read s die ppa n
      (x, l2Mark s die line attr)
    else
      let s := l2Fetch s die line 15
      let full := (l2Read s die (line * 128) 128).1
      (fld full (8 * (ppa % 128)) (8 * n), l1Put (l2Mark s die line attr) core line full attr)

/-- A store of n bytes by a core: write-through to its die's L2. -/
def storeThrough (s : State) (core ppa n x : Nat) : State :=
  l1Update (l2Write s (dieOf core) ppa n x) core ppa n

/-! ## Encrypted sectors (19 R390; assumption 11, DEDUCED) -/

/-- The parts of a cipher. -/
def Cipher.parts : Option Cipher → List Nat
  | none => []
  | some c => [c.key, c.bver, c.buf, c.unit]
/-- A sector's text under a cipher: its own gives the text back, any other a free value. -/
def Seal.under (z : Seal) (c : Option Cipher) : Nat :=
  if c = z.base then z.text else (Config.cipherText (Cipher.parts z.base) (Cipher.parts c) z.text).toNat
/-- How the model's DRAM shows a sector now. -/
def State.shownAs (s : State) (sector : Nat) : Option Cipher := (aget? sector s.seals).bind (·.now)
/-- What a sector of DRAM encrypts: what was written last, under the cipher it was written under. -/
def State.sealAt (s : State) (sector : Nat) : Seal :=
  let cur := Memory.read s.dram (32 * sector) 32
  match aget? sector s.seals with
  | some z => if z.shown == cur then z else { base := z.now, text := cur, now := z.now, shown := cur }
  | none => { base := none, text := cur, now := none, shown := cur }
/-- The bits of a sector as DRAM holds them. -/
def State.rawSector (s : State) (sector : Nat) : Nat := (s.sealAt sector).under none
/-- A sector shown as a cipher reads it. -/
def State.reseal (s : State) (sector : Nat) (c : Option Cipher) : State :=
  let z := s.sealAt sector
  let x := z.under c
  { s with
    dram := Memory.write s.dram (32 * sector) 32 x
    seals := if c.isNone && z.base.isNone then adel sector s.seals else aset sector { z with now := c, shown := x } s.seals }
/-- Every copy of a line is written back and goes. -/
def dropCopies (s : State) (line : Nat) : State := (upTo 128).foldl (fun s c => l1DropLine s c line) (flushLine s line false)
/-- A line reached under a cipher, which gives that of each of its four sectors: copies made under another go first. -/
def State.unsealLine (s : State) (line : Nat) (c : Nat → Option Cipher) : State :=
  if (upTo 4).all fun k => s.shownAs (4 * line + k) == c k then s
  else (upTo 4).foldl (fun s k => s.reseal (4 * line + k) (c k)) (dropCopies s line)

end Sys2Proof.Machine
end

