-- ==== Sys2Proof/Machine/Log.lean ====
section
/-! DEFINITION. The error log's staging queue (25_resilience.md R447, R448): channels, reports, and what a full queue drops. -/

namespace Sys2Proof.Machine

/-! ## Channels (R447) -/

def portChannel (stack pc : Nat) : Nat := 64 * stack + pc
def coreChannel (core : Nat) : Nat := 848 + core
/-- The channel of the L2 slice of a line (assumption 84, DESIGN CHOICE). -/
def sliceChannel (die line : Nat) : Nat := 976 + 16 * die + l2Slice line
def dirChannel (slice : Nat) : Nat := 1040 + slice
def dieChannel (die : Nat) : Nat := 1052 + die

/-! ## Staging (R448) -/

/-- A report joins those of its tick in ascending channel. -/
def insertReport (r : Report) : List Report → List Report
  | [] => [r]
  | q :: qs => if r.ch < q.ch then r :: q :: qs else q :: insertReport r qs

/-- Reports numbered from a sequence number on. -/
def numberFrom : Nat → List Report → List Report
  | _, [] => []
  | n, r :: rs => { r with seq := n } :: numberFrom (n + 1) rs

/-- Reports of one tick in their order, n of which the queue has room for; one that found it full stays lost. -/
def fitReports : Nat → List Report → List Report
  | _, [] => []
  | n, r :: rs => if r.lost || n == 0 then { r with lost := true } :: fitReports n rs else r :: fitReports (n - 1) rs

/-- Reports that found the queue full. -/
def lostCount (l : List Report) : Nat := (l.filter (·.lost)).length

/-- DROPPED, the word at bytes 24 to 31 of the log's control block, rises by n. -/
def dropReports (s : State) (n : Nat) : State :=
  if n == 0 then s else dirWrite s (s.logAddr + 24) 8 (coherentRead s (s.logAddr + 24) 8 + n)

/-- A report of an earlier tick. -/
def Report.earlier (r : Report) (s : State) : Bool := r.early || r.time != s.ref

/-- A report enters the queue of 16 in this tick: each report of the tick takes its number in ascending channel, and those
that find the queue full are dropped, their numbers with them (assumption 33, DEDUCED). -/
def stageReport (s : State) (r : Report) : State :=
  let old := s.staging.filter fun q => q.earlier s && !q.lost
  let tick := s.staging.filter fun q => !q.earlier s
  let first := match tick with | q :: _ => q.seq | [] => s.reportSeq
  let now := fitReports (16 - old.length) (numberFrom first (insertReport { r with time := s.ref } tick))
  let s := { s with staging := old ++ now, reportSeq := s.reportSeq + 1 }
  if s.booted then dropReports s (lostCount now - lostCount tick) else s

/-- The report of an event: kind, code, address kind and address, and the unit within the channel. -/
def mkReport (ch kind code adrk addr unit : Nat) : Report :=
  { seq := 0, time := 0, addr := addr, ch := ch, kind := kind, code := code, adrk := adrk, unit := unit }
/-- An event reported in this tick. -/
def reportEvent (s : State) (ch kind code adrk addr unit : Nat) : State := stageReport s (mkReport ch kind code adrk addr unit)
/-- An action on an event of this tick, reported in the next (assumption 33, DEDUCED). -/
def reportAction (s : State) (ch code adrk addr unit : Nat) : State :=
  { s with due := s.due ++ [mkReport ch 3 code adrk addr unit] }
/-- A new tick reports the actions of the one before. -/
def stageDue (s : State) : State := s.due.foldl stageReport { s with due := [] }

/-- A log record of 32 bytes. -/
def logRecord (r : Report) : Nat :=
  r.seq % 2 ^ 64 + 2 ^ 64 * (r.time % 2 ^ 64) + 2 ^ 128 * (r.addr % 2 ^ 64) + 2 ^ 192 * (r.ch % 2 ^ 16) +
    2 ^ 208 * (r.kind % 2 ^ 8) + 2 ^ 216 * (r.code % 2 ^ 8) + 2 ^ 224 * (r.unit % 2 ^ 30) + 2 ^ 254 * (r.adrk % 4)

end Sys2Proof.Machine
end

