-- ==== Sys2Proof/Machine/Descr.lean ====
section
/-! DEFINITION. Addresses (07_memory_access.md R157, R158), the fields of a copy's descriptor (11_scratchpad_copies.md R263 to R265),
and what a copy captures at its issue: its layout record and its target portions (R260, R271, 14_cluster.md R307). -/

namespace Sys2Proof.Machine

/-! ## Addresses (R157, R158) -/

def eaIdx (ea : Nat) : Nat := ea / 2 ^ 44
def eaOff (ea : Nat) : Nat := ea % 2 ^ 44
/-- An address a number of bytes further, the carry kept inside the offset part (R158). -/
def eaAdd (ea : Nat) (n : Int) : Nat := eaIdx ea * 2 ^ 44 + wrap ((eaOff ea : Int) + n) 44
def isAcc (ea : Nat) : Bool := eaIdx ea == 0xFFFFE
def isScr (ea : Nat) : Bool := eaIdx ea == 0xFFFFF
def isWin (ea : Nat) : Bool := isAcc ea || isScr ea
/-- Rank and offset of a scratchpad window address. -/
def scrRank (ea : Nat) : Nat := fld ea 32 3
def scrOff (ea : Nat) : Nat := fld ea 0 20
/-- The scratchpad window address of a rank and offset. -/
def scrEa (rank off : Nat) : Nat := 0xFFFFF * 2 ^ 44 + rank * 2 ^ 32 + off

/-- A signed field. -/
def sfld (r lo n : Nat) : Int := sint (fld r lo n) n


/-! ## The descriptor (R263 to R265) -/

/-- CTL. -/
def cpCtl (d : Nat) : Nat := fld d (8 * 46) 16
def cpLinBit (d : Nat) : Bool := bitOf (cpCtl d) 8
def cpRing (d : Nat) : Nat := fld (cpCtl d) 6 2
def cpScope (d : Nat) : Nat := fld (cpCtl d) 2 4
/-- SIG names a transaction barrier. -/
def cpTb (d : Nat) : Bool := bitOf (cpCtl d) 1
/-- A tile store. -/
def cpStore (d : Nat) : Bool := bitOf (cpCtl d) 0
def cpSig (d : Nat) : Nat := fld d 64 64
def cpMcast (d : Nat) : Nat := fld d (8 * 45) 8
def cpGbase (d : Nat) : Nat := fld d 0 64
def cpSrank (d : Nat) : Nat := fld d (8 * 16 + 20) 3
def cpSoff (d : Nat) : Nat := fld d (8 * 16) 20
def cpHandle (d : Nat) : Nat := fld d (8 * 20) 32
def cpCoord (d : Nat) : List Int :=
  [sfld d (8 * 24) 32, sfld d (8 * 28) 32, sfld d (8 * 32) 32, sfld d (8 * 36) 16, sfld d (8 * 38) 16]
/-- Box extent of dimension k, less 1. -/
def cpBoxk (d k : Nat) : Nat := fld d (8 * (40 + k)) 8
def cpSrc (d : Nat) : Nat := fld d 0 64
def cpDst (d : Nat) : Nat := fld d 128 64
def cpLen (d : Nat) : Nat := fld d (8 * 24) 32

/-- Opcode of CPYM. -/
def opCpym : Nat := 0x6C
/-- A linear command. -/
def cpLinear (opc d : Nat) : Bool := opc == 0x6B || (opc == opCpym && cpLinBit d)

/-- A command that writes scratchpad portions. -/
def cpWritesScr (opc d : Nat) : Bool := if cpLinear opc d then isScr (cpDst d) else !cpStore d

/-- The record that a handle names in a launch, if one is installed (R257) (assumption 17, DESIGN CHOICE). -/
def Launch.layout (l : Launch) (h : Nat) : Option Nat := if 4096 ≤ h then none else (l.layouts.getD h none)

/-! ## Targets (R307, R271) -/

/-- The blocks of a cluster of a launch. -/
def clusterBlocks (s : State) (lid clin : Nat) : List Block := s.blocks.filter fun b => b.lid == lid && b.clin == clin

/-- The portion of a block's rank, by its block map. -/
def targetOf (b : Block) (r : Nat) : Target :=
  let m := b.map.getD r (0, 0)
  { core := b.core + r, base := m.2, gen := m.1 }

/-- A block of the issuing block's cluster as the issuing core's maps hold it: its own by the block map, another by the cluster map
(14 R307). -/
def mappedBlock (b c : Block) : Block := if c.blin == b.blin then c else { c with core := c.mapped.1, map := c.mapped.2 }
/-- The target portions of a command of a block that writes scratchpad. -/
def cpTargets (s : State) (l : Launch) (b : Block) (opc d : Nat) : List Target :=
  if !cpWritesScr opc d then []
  else if opc == opCpym then
    (if l.xmc then clusterBlocks s b.lid b.clin else [b]).flatMap fun c =>
      ((upTo 8).filter (bitOf (cpMcast d))).map (targetOf (mappedBlock b c))
  else [targetOf b (if cpLinear opc d then scrRank (cpDst d) else cpSrank d)]

/-- A copy command of a party, with what it captures at its issue. -/
def copyKind (s : State) (lid blin opc d : Nat) (pfx ins : Word) (seq : Nat) : OpKind :=
  match s.launch? lid, s.block? lid blin with
  | some l, some b =>
    .copy opc d pfx ins seq (if cpLinear opc d then 0 else (l.layout (cpHandle d)).getD 0) (cpTargets s l b opc d)
  | _, _ => .copy opc d pfx ins seq 0 []

end Sys2Proof.Machine
end

