-- ==== Sys2Proof/WellFormed.lean ====
section
/-! DEFINITION. Well-formed instructions: unused fields zero (03_encoding.md R75), code fields at listed values, and the
arguments of events inside the machine. An ill-formed encoded instruction is still an instruction: it traps when it
executes (R78). An ill-formed event names a unit the machine does not have. -/

namespace Sys2Proof

/-- The CVT codes that 05_float.md R122 accepts: destination format in bits 7:4, source in bits 3:0. -/
def cvtCodeOk (b : BitVec 8) : Bool :=
  let d := b.toNat / 16
  let s := b.toNat % 16
  (d ≤ 5 && s ≤ 5 && (d != s || d ≤ 3)) || (8 ≤ d && d ≤ 11 && s ≤ 3) || (d ≤ 3 && 8 ≤ s && s ≤ 11)

/-- The CVTS codes of 05_float.md R123: an encode reads no plane count. -/
def cvtsCodeOk (b : BitVec 8) : Bool := b.toNat ≥ 128 || b.toNat / 8 % 8 == 0

/-- The atomic codes of 07_memory_access.md R168, R169. -/
def atomCodeOk (b : BitVec 8) : Bool :=
  let ty := b.toNat / 16
  let op := b.toNat % 16
  ty ≤ 5 && (op ≤ 2 || (3 ≤ op && op ≤ 7 && (ty == 0 || ty == 2)) ||
    (op == 8 && (ty == 1 || ty == 3 || ty == 4 || ty == 5)) || (op == 9 && ty == 0))

/-- The status numbers of 01_thread.md R27. -/
def statusNumbers : List Nat :=
  [0x00, 0x01, 0x02, 0x03, 0x04, 0x05, 0x06, 0x08, 0x09, 0x0A, 0x10, 0x11, 0x18, 0x19, 0x1A, 0x1B]

/-- A page key names a buffer of the table (07_memory_access.md R157). -/
def PageKey.wf (k : PageKey) : Bool := k.ctx < 2 ^ 16 && 1 ≤ k.buf && k.buf ≤ 0xFFFFD && k.page < 2 ^ 28

/-- Units of 25_resilience.md R447. -/
def ErrUnit.wf : ErrUnit → Bool
  | .row s p b r => s < 12 && p < 64 && b < 16 && r < 49152
  | .lane c => (768 ≤ c && c ≤ 847) || (1052 ≤ c && c ≤ 1055)
  | .regSlot s => s < 2048
  | .sramWord c _ => c < 128
  | .imemWord c _ => c < 128
  | .accWord c _ => c < 128
  | .layEntry c h => c < 128 && h < 4096
  | .l2Line d l => d < 4 && l < 2 ^ 33
  | .dirEntry s e => s < 12 && e < 2 ^ 33

/-- Components of 27_bringup_power.md R462. -/
def Component.wf : Component → Bool
  | .monument => true
  | .bind d => d < 4
  | .port s => s < 12
  | .link p => p < 19

/-- Temperature sources of 27_bringup_power.md R468. -/
def TempSource.wf : TempSource → Bool
  | .die d => d < 4
  | .stack s => s < 12
  | .inlet => true

/-- Management registers. -/
def MgmtReg.wf : MgmtReg → Bool
  | .threshold k => k < 4
  | .window k => k < 4
  | .keySlot k => 1 ≤ k && k < 256
  | .saveAddr s => s < 2048
  | .slotControl s => s < 2048
  | .slotStatus s => s < 2048
  | .errorRegs c => c < 128
  | .holdLimit | .age | .reservation | .quiesceDeadline | .peerTimeout | .escalatedHold => true

/-- Well-formedness. -/
def Instr.wf : Instr → Bool
  | .iadd _ _ _ => true
  | .isub _ _ _ => true
  | .iadd64 _ _ _ => true
  | .isub64 _ _ _ => true
  | .imul _ _ _ => true
  | .imulhi _ _ _ => true
  | .nmulhi _ _ _ => true
  | .imad _ _ _ => true
  | .nmad64 _ _ _ => true
  | .ndiv _ _ _ => true
  | .nrem _ _ _ => true
  | .imin _ _ _ => true
  | .imax _ _ _ => true
  | .nmin _ _ _ => true
  | .nmax _ _ _ => true
  | .iadds _ _ _ => true
  | .and _ _ _ => true
  | .or _ _ _ => true
  | .xor _ _ _ => true
  | .andn _ _ _ => true
  | .shl _ _ _ => true
  | .shr _ _ _ => true
  | .sra _ _ _ => true
  | .rotl _ _ _ => true
  | .funsh _ _ _ => true
  | .popc _ _ b => b == 0
  | .clz _ _ b => b == 0
  | .brev _ _ b => b == 0
  | .bfx _ _ _ => true
  | .bfi _ _ _ => true
  | .bdep _ _ _ => true
  | .bext _ _ _ => true
  | .bperm _ _ _ => true
  | .bmm8 _ _ _ => true
  | .ieq _ _ _ => true
  | .ine _ _ _ => true
  | .ilt _ _ _ => true
  | .ile _ _ _ => true
  | .nlt _ _ _ => true
  | .nle _ _ _ => true
  | .sel _ _ _ => true
  | .li _ _ => true
  | .lih _ _ => true
  | .rndc _ _ _ => true
  | .fadd _ _ _ => true
  | .fsub _ _ _ => true
  | .fmul _ _ _ => true
  | .ffma _ _ _ => true
  | .fmin _ _ _ => true
  | .fmax _ _ _ => true
  | .feq _ _ _ => true
  | .flt _ _ _ => true
  | .fle _ _ _ => true
  | .funo _ _ _ => true
  | .dadd _ _ _ => true
  | .dsub _ _ _ => true
  | .dmul _ _ _ => true
  | .dfma _ _ _ => true
  | .dmin _ _ _ => true
  | .dmax _ _ _ => true
  | .deq _ _ _ => true
  | .dlt _ _ _ => true
  | .dle _ _ _ => true
  | .duno _ _ _ => true
  | .pfmah _ _ _ => true
  | .pfmab _ _ _ => true
  | .sfn _ _ b => b.toNat < 8
  | .fdiv _ _ _ => true
  | .ddiv _ _ _ => true
  | .dsqrt _ _ b => b == 0
  | .cvt _ _ b => cvtCodeOk b
  | .cvts _ _ b => cvtsCodeOk b
  | .fclass _ _ b => b == 0
  | .fscale _ _ _ => true
  | .dscale _ _ _ => true
  | .frnd _ _ b => b == 0
  | .bnz _ _ => true
  | .bz _ _ => true
  | .jmpf d _ b => d == 0 && b == 0
  | .callf _ _ b => b == 0
  | .ret d _ b => d == 0 && b == 0
  | .waitn _ _ => true
  | .waitc _ _ _ => true
  | .xln _ _ _ => true
  | .xred _ _ b => b == 0
  | .elect _ a b => a == 0 && b == 0
  | .vote _ _ b => b.toNat < 5
  | .bar d a b => d == 0 && a == 0 && b.toNat < 16
  | .bara _ a b => a == 0 && b.toNat < 16
  | .exit d a b => d == 0 && a == 0 && b == 0
  | .ldb _ _ _ => true
  | .ldh _ _ _ => true
  | .ldw _ _ _ => true
  | .ldd _ _ _ => true
  | .ldq _ _ _ => true
  | .stb _ _ _ => true
  | .sth _ _ _ => true
  | .stw _ _ _ => true
  | .std _ _ _ => true
  | .stq _ _ _ => true
  | .ldv _ _ b => b.toNat % 8 < 4
  | .atom _ _ b => atomCodeOk b
  | .atomr _ _ b => atomCodeOk b
  | .fence d a b => d == 0 && a == 0 && b == 0
  | .clnr _ _ b => b == 0
  | .invr _ _ b => b.toNat < 2
  | .cpyt d _ _ => d == 0
  | .cpyl d _ _ => d == 0
  | .cpym d _ _ => d == 0
  | .arrv _ _ b => (b.toNat == 0 || b.toNat == 1 || b.toNat == 3)
  | .mma d _ _ => d == 0
  | .mdrn d _ _ => d == 0
  | .lrld _ _ b => b == 0
  | .cfetch d _ b => d == 0 && b.toNat < 2
  | .cutsel d _ _ => d == 0
  | .rast d _ _ => d == 0
  | .rayq d _ _ => d == 0
  | .bkq d _ _ => d == 0
  | .gath _ _ _ => true
  | .coll d _ _ => d == 0
  | .trap d _ b => d == 0 && b.toNat < 16
  | .srd _ a b => a == 0 && statusNumbers.contains b.toNat
  | .swr d _ b => d == 0 && statusNumbers.contains b.toNat
  | .tret d a b => d == 0 && a == 0 && b == 0
  | .nop d a b => d == 0 && a == 0 && b == 0
  | .bkpt d a _ => d == 0 && a == 0
  | .ldvq _ _ b => b.toNat % 8 == 0
  | .uadd _ _ _ => true
  | .usub _ _ _ => true
  | .uadd64 _ _ _ => true
  | .umul _ _ _ => true
  | .umad _ _ _ => true
  | .uand _ _ _ => true
  | .uor _ _ _ => true
  | .uxor _ _ _ => true
  | .ushl _ _ _ => true
  | .ushr _ _ _ => true
  | .usra _ _ _ => true
  | .upopc _ _ b => b == 0
  | .uclz _ _ b => b == 0
  | .ueq _ _ _ => true
  | .une _ _ _ => true
  | .ult _ _ _ => true
  | .ule _ _ _ => true
  | .unlt _ _ _ => true
  | .unle _ _ _ => true
  | .usel _ _ _ => true
  | .uli _ _ => true
  | .ulih _ _ => true
  | .umin _ _ _ => true
  | .umax _ _ _ => true
  | .ubnz _ _ => true
  | .ubz _ _ => true
  | .ujmpf d _ b => d == 0 && b == 0
  | .ucallf _ _ b => b == 0
  | .uret d _ b => d == 0 && b == 0
  | .usrd _ a b => a == 0 && statusNumbers.contains b.toNat
  | .uldw _ _ _ => true
  | .uldd _ _ _ => true
  | .uldq _ _ _ => true
  | .ustw _ _ _ => true
  | .ustd _ _ _ => true
  | .uatomr _ _ b => atomCodeOk b
  | .uldv _ _ b => (2 ≤ b.toNat % 8 && b.toNat % 8 ≤ 4)
  | .upref d _ _ => d.toNat < 2
  | .rbind _ _ _ => true
  | .runbind d _ b => d == 0 && b == 0
  | .crdecl _ _ _ => true
  | .crend d _ b => d == 0 && b == 0
  | .vpost _ _ _ => true
  | .vopen _ _ _ => true
  | .migr _ _ _ => true
  | .launch _ _ _ => true
  | .tbinit d _ _ => d == 0
  | .abinit d _ _ => d == 0
  | .utrap d _ b => d == 0 && b.toNat < 16
  | .unop d a b => d == 0 && a == 0 && b == 0
  | .plane d _ _ => d == 0
  | .accessTranslate _ _ => true
  | .cowComplete p => p.wf
  | .historyFrameFree p s => p.wf && s < 15
  | .holdLimitExpiry _ => true
  | .pageWalkComplete d p => d < 4 && p.wf
  | .loadComplete _ => true
  | .storeAck _ => true
  | .commandRetire _ => true
  | .deliverPendingCause s t => s < 2048 && t < 64
  | .partyFrozen s => s < 2048
  | .waitcReadReturn s t c _ => s < 2048 && t < 64 && c < 4
  | .waitcTimeout s t => s < 2048 && t < 64
  | .segmentLanded c _ g => c < 128 && g < 64
  | .segmentFetchFault c _ g => c < 128 && g < 64
  | .segmentDropComplete c _ g => c < 128 && g < 64
  | .slotPre => true
  | .slotHalt => true
  | .slotKill => true
  | .slotRelease => true
  | .registerWrite => true
  | .bindDispatch => true
  | .bindRestore => true
  | .dispatchStart s => s < 2048
  | .restoreStart s => s < 2048
  | .saveBegin s => s < 2048
  | .saveDrained s => s < 2048
  | .saveDeadlineExpiry s => s < 2048
  | .saveComplete s => s < 2048
  | .partySlotFree s => s < 2048
  | .copyStart _ => true
  | .copyWritePacket _ _ => true
  | .copyDone _ => true
  | .copyFault _ => true
  | .ringPost _ => true
  | .lrldReadDone _ => true
  | .gatherDone _ => true
  | .gatherFault _ => true
  | .tileAccept _ => true
  | .tileStart _ => true
  | .tileRunDone _ => true
  | .tileFault _ => true
  | .shadowReferenceDone _ => true
  | .geometryStart _ => true
  | .cutselDone _ => true
  | .rastDone _ => true
  | .rayqDone _ => true
  | .geometryFault _ => true
  | .bankBlockArrive _ => true
  | .bankBlockStart _ => true
  | .allBankAdmit _ => true
  | .bkMode _ => true
  | .bkBcast _ => true
  | .bkLdv _ => true
  | .bkMac _ => true
  | .bkEadd _ => true
  | .bkSta _ => true
  | .bkClr _ => true
  | .bkSync _ => true
  | .bankBlockDone _ => true
  | .activateAdmit s => s < 12
  | .collMatched _ _ => true
  | .haloReceive _ _ _ => true
  | .collDone _ => true
  | .collTimeout _ => true
  | .collFault _ => true
  | .snoopForRead d l => d < 4 && l < 2 ^ 33
  | .snoopForOwnership d l => d < 4 && l < 2 ^ 33
  | .l2Eviction d l => d < 4 && l < 2 ^ 33
  | .directoryBackInvalidate l => l < 2 ^ 33
  | .invalidationApply d => d < 4
  | .forwardedAtomic _ => true
  | .combineLine => true
  | .migrationBegin => true
  | .migrationDrained => true
  | .migrationCopyDone => true
  | .peerAccess => true
  | .peerTimeout => true
  | .launchRecordValidate => true
  | .dependenceRead => true
  | .schedulerPass => true
  | .reservationIntervalExpiry => true
  | .escalatedHoldExpiry => true
  | .launchTeardown => true
  | .podGroupForm => true
  | .closureMerge => true
  | .clusterRetire => true
  | .writeBufferFull => true
  | .blockMove => true
  | .correctedError => true
  | .uncorrectableError => true
  | .laneRetrainDone => true
  | .errorLogMove => true
  | .pageQuarantine => true
  | .pageRestore => true
  | .dieResetRequest => true
  | .clusterSave => true
  | .clusterRestore => true
  | .quiesceDeadlineExpiry => true
  | .dieResetComplete => true
  | .diePowerGate => true
  | .diePowerUp => true
  | .powerOn => true
  | .firmwareUpdate => true
  | .firmwareHoldTimeout => true
  | .attestationRequest => true
  | .powerManagerRevision => true
  | .temperatureReport => true
  | .flowLowTimeout => true
  | .hostRdmaWrite => true
  | .hostRdmaWriteImm => true
  | .hostRdmaRead => true
  | .hostAtomicCas => true
  | .hostAtomicFetchAdd => true
  | .launchPacket => true
  | .managementKillLaunch => true
  | .xPrefix f => f.toNat % 4 == 0
  | .unassignedUniformOpcode w => 0xB3 ≤ w.toNat / 2 ^ 24
  | .bufferTableEntryWrite => true
  | .launchQueueCreate => true
  | .connectionSetup => true
  | .linkPartnerFallback => true
  | .packageReset => true

end Sys2Proof
end

