-- ==== Sys2Proof/Decode.lean ====
section
/-! DEFINITION. The decoder and the encoder (03_encoding.md R59 to R61, R72, R76). Every 32-bit word is an instruction:
every lane opcode is assigned (R72) and an unassigned uniform opcode is an instruction that traps OPC_RSVD (R76), so the
decoder refuses by name only a truncated word. The encoder is written from the same tables. -/

namespace Sys2Proof

/-- A word from its opcode byte and three field bytes (R60: bits 31:24, 23:16, 15:8, 7:0). -/
def packWord (op d a b : BitVec 8) : Word := op ++ d ++ a ++ b

/-- imm16 is bits 15:0 (R60, immediate layout). -/
def immOf (a b : BitVec 8) : BitVec 16 := a ++ b

/-- The instructions of opcode bytes 0 to 31 (R72, R76). -/
def opRow0 : List (BitVec 8 → BitVec 8 → BitVec 8 → Instr) :=
  [.iadd, .isub, .iadd64, .isub64, .imul, .imulhi, .nmulhi, .imad] ++
  [.nmad64, .ndiv, .nrem, .imin, .imax, .nmin, .nmax, .iadds] ++
  [.and, .or, .xor, .andn, .shl, .shr, .sra, .rotl] ++
  [.funsh, .popc, .clz, .brev, .bfx, .bfi, .bdep, .bext]

/-- The instructions of opcode bytes 32 to 63 (R72, R76). -/
def opRow1 : List (BitVec 8 → BitVec 8 → BitVec 8 → Instr) :=
  [.bperm, .bmm8, .ieq, .ine, .ilt, .ile, .nlt, .nle] ++
  [.sel, fun d a b => .li d (immOf a b), fun d a b => .lih d (immOf a b), .rndc, .fadd, .fsub, .fmul, .ffma] ++
  [.fmin, .fmax, .feq, .flt, .fle, .funo, .dadd, .dsub] ++
  [.dmul, .dfma, .dmin, .dmax, .deq, .dlt, .dle, .duno]

/-- The instructions of opcode bytes 64 to 95 (R72, R76). -/
def opRow2 : List (BitVec 8 → BitVec 8 → BitVec 8 → Instr) :=
  [.pfmah, .pfmab, .sfn, .fdiv, .ddiv, .dsqrt, .cvt, .cvts] ++
  [.fclass, .fscale, .dscale, .frnd, fun d a b => .bnz d (immOf a b), fun d a b => .bz d (immOf a b), .jmpf, .callf] ++
  [.ret, fun d a b => .waitn d (immOf a b), .waitc, .xln, .xred, .elect, .vote, .bar] ++
  [.bara, .exit, .ldb, .ldh, .ldw, .ldd, .ldq, .stb]

/-- The instructions of opcode bytes 96 to 127 (R72, R76). -/
def opRow3 : List (BitVec 8 → BitVec 8 → BitVec 8 → Instr) :=
  [.sth, .stw, .std, .stq, .ldv, .atom, .atomr, .fence] ++
  [.clnr, .invr, .cpyt, .cpyl, .cpym, .arrv, .mma, .mdrn] ++
  [.lrld, .cfetch, .cutsel, .rast, .rayq, .bkq, .gath, .coll] ++
  [.trap, .srd, .swr, .tret, .nop, .bkpt, .ldvq, fun d a b => .xPrefix (d ++ a ++ b)]

/-- The instructions of opcode bytes 128 to 159 (R72, R76). -/
def opRow4 : List (BitVec 8 → BitVec 8 → BitVec 8 → Instr) :=
  [.uadd, .usub, .uadd64, .umul, .umad, .uand, .uor, .uxor] ++
  [.ushl, .ushr, .usra, .upopc, .uclz, .ueq, .une, .ult] ++
  [.ule, .unlt, .unle, .usel, fun d a b => .uli d (immOf a b), fun d a b => .ulih d (immOf a b), .umin, .umax] ++
  [fun d a b => .ubnz d (immOf a b), fun d a b => .ubz d (immOf a b), .ujmpf, .ucallf, .uret, .usrd, .uldw, .uldd]

/-- The instructions of opcode bytes 160 to 191 (R72, R76). -/
def opRow5 : List (BitVec 8 → BitVec 8 → BitVec 8 → Instr) :=
  [.uldq, .ustw, .ustd, .uatomr, .uldv, .upref, .rbind, .runbind] ++
  [.crdecl, .crend, .vpost, .vopen, .migr, .launch, .tbinit, .abinit] ++
  [.utrap, .unop, .plane]

/-- The instructions of opcode bytes 192 to 223 (R72, R76). -/
def opRow6 : List (BitVec 8 → BitVec 8 → BitVec 8 → Instr) :=
  []

/-- The instructions of opcode bytes 224 to 255 (R72, R76). -/
def opRow7 : List (BitVec 8 → BitVec 8 → BitVec 8 → Instr) :=
  []

/-- The instruction of an opcode byte and its fields. -/
def ofFields (op d a b : BitVec 8) : Instr :=
  let rows :=
    if op.toNat < 128 then
      if op.toNat < 64 then (if op.toNat < 32 then opRow0 else opRow1)
      else (if op.toNat < 96 then opRow2 else opRow3)
    else
      if op.toNat < 192 then (if op.toNat < 160 then opRow4 else opRow5)
      else (if op.toNat < 224 then opRow6 else opRow7)
  match rows[op.toNat % 32]? with
  | some f => f d a b
  | none => .unassignedUniformOpcode (packWord op d a b)

/-- The instruction that a 32-bit word is (R59: bits 31:24 the set and opcode). -/
def decodeWord (w : Word) : Instr :=
  ofFields (w.extractLsb' 24 8) (w.extractLsb' 16 8) (w.extractLsb' 8 8) (w.extractLsb' 0 8)

/-- Why bytes are not an instruction. -/
inductive DecodeError where
  /-- fewer than the four bytes of a word (R59) -/
  | truncated
  deriving DecidableEq, Repr

/-- The instruction at the head of a byte string, least significant byte first (R7, R59), and the rest. -/
def decode : List Byte → Except DecodeError (Instr × List Byte)
  | b0 :: b1 :: b2 :: b3 :: rest => .ok (decodeWord (b3 ++ b2 ++ b1 ++ b0), rest)
  | [] | [_] | [_, _] | [_, _, _] => .error .truncated

/-- The opcode byte and fields of an encoded instruction; an event has no encoding. -/
def fieldsOf : Instr → Option (BitVec 8 × BitVec 8 × BitVec 8 × BitVec 8)
  | .iadd d a b => some (0x00#8, d, a, b)
  | .isub d a b => some (0x01#8, d, a, b)
  | .iadd64 d a b => some (0x02#8, d, a, b)
  | .isub64 d a b => some (0x03#8, d, a, b)
  | .imul d a b => some (0x04#8, d, a, b)
  | .imulhi d a b => some (0x05#8, d, a, b)
  | .nmulhi d a b => some (0x06#8, d, a, b)
  | .imad d a b => some (0x07#8, d, a, b)
  | .nmad64 d a b => some (0x08#8, d, a, b)
  | .ndiv d a b => some (0x09#8, d, a, b)
  | .nrem d a b => some (0x0A#8, d, a, b)
  | .imin d a b => some (0x0B#8, d, a, b)
  | .imax d a b => some (0x0C#8, d, a, b)
  | .nmin d a b => some (0x0D#8, d, a, b)
  | .nmax d a b => some (0x0E#8, d, a, b)
  | .iadds d a b => some (0x0F#8, d, a, b)
  | .and d a b => some (0x10#8, d, a, b)
  | .or d a b => some (0x11#8, d, a, b)
  | .xor d a b => some (0x12#8, d, a, b)
  | .andn d a b => some (0x13#8, d, a, b)
  | .shl d a b => some (0x14#8, d, a, b)
  | .shr d a b => some (0x15#8, d, a, b)
  | .sra d a b => some (0x16#8, d, a, b)
  | .rotl d a b => some (0x17#8, d, a, b)
  | .funsh d a b => some (0x18#8, d, a, b)
  | .popc d a b => some (0x19#8, d, a, b)
  | .clz d a b => some (0x1A#8, d, a, b)
  | .brev d a b => some (0x1B#8, d, a, b)
  | .bfx d a b => some (0x1C#8, d, a, b)
  | .bfi d a b => some (0x1D#8, d, a, b)
  | .bdep d a b => some (0x1E#8, d, a, b)
  | .bext d a b => some (0x1F#8, d, a, b)
  | .bperm d a b => some (0x20#8, d, a, b)
  | .bmm8 d a b => some (0x21#8, d, a, b)
  | .ieq d a b => some (0x22#8, d, a, b)
  | .ine d a b => some (0x23#8, d, a, b)
  | .ilt d a b => some (0x24#8, d, a, b)
  | .ile d a b => some (0x25#8, d, a, b)
  | .nlt d a b => some (0x26#8, d, a, b)
  | .nle d a b => some (0x27#8, d, a, b)
  | .sel d a b => some (0x28#8, d, a, b)
  | .li d i => some (0x29#8, d, i.extractLsb' 8 8, i.extractLsb' 0 8)
  | .lih d i => some (0x2A#8, d, i.extractLsb' 8 8, i.extractLsb' 0 8)
  | .rndc d a b => some (0x2B#8, d, a, b)
  | .fadd d a b => some (0x2C#8, d, a, b)
  | .fsub d a b => some (0x2D#8, d, a, b)
  | .fmul d a b => some (0x2E#8, d, a, b)
  | .ffma d a b => some (0x2F#8, d, a, b)
  | .fmin d a b => some (0x30#8, d, a, b)
  | .fmax d a b => some (0x31#8, d, a, b)
  | .feq d a b => some (0x32#8, d, a, b)
  | .flt d a b => some (0x33#8, d, a, b)
  | .fle d a b => some (0x34#8, d, a, b)
  | .funo d a b => some (0x35#8, d, a, b)
  | .dadd d a b => some (0x36#8, d, a, b)
  | .dsub d a b => some (0x37#8, d, a, b)
  | .dmul d a b => some (0x38#8, d, a, b)
  | .dfma d a b => some (0x39#8, d, a, b)
  | .dmin d a b => some (0x3A#8, d, a, b)
  | .dmax d a b => some (0x3B#8, d, a, b)
  | .deq d a b => some (0x3C#8, d, a, b)
  | .dlt d a b => some (0x3D#8, d, a, b)
  | .dle d a b => some (0x3E#8, d, a, b)
  | .duno d a b => some (0x3F#8, d, a, b)
  | .pfmah d a b => some (0x40#8, d, a, b)
  | .pfmab d a b => some (0x41#8, d, a, b)
  | .sfn d a b => some (0x42#8, d, a, b)
  | .fdiv d a b => some (0x43#8, d, a, b)
  | .ddiv d a b => some (0x44#8, d, a, b)
  | .dsqrt d a b => some (0x45#8, d, a, b)
  | .cvt d a b => some (0x46#8, d, a, b)
  | .cvts d a b => some (0x47#8, d, a, b)
  | .fclass d a b => some (0x48#8, d, a, b)
  | .fscale d a b => some (0x49#8, d, a, b)
  | .dscale d a b => some (0x4A#8, d, a, b)
  | .frnd d a b => some (0x4B#8, d, a, b)
  | .bnz d i => some (0x4C#8, d, i.extractLsb' 8 8, i.extractLsb' 0 8)
  | .bz d i => some (0x4D#8, d, i.extractLsb' 8 8, i.extractLsb' 0 8)
  | .jmpf d a b => some (0x4E#8, d, a, b)
  | .callf d a b => some (0x4F#8, d, a, b)
  | .ret d a b => some (0x50#8, d, a, b)
  | .waitn d i => some (0x51#8, d, i.extractLsb' 8 8, i.extractLsb' 0 8)
  | .waitc d a b => some (0x52#8, d, a, b)
  | .xln d a b => some (0x53#8, d, a, b)
  | .xred d a b => some (0x54#8, d, a, b)
  | .elect d a b => some (0x55#8, d, a, b)
  | .vote d a b => some (0x56#8, d, a, b)
  | .bar d a b => some (0x57#8, d, a, b)
  | .bara d a b => some (0x58#8, d, a, b)
  | .exit d a b => some (0x59#8, d, a, b)
  | .ldb d a b => some (0x5A#8, d, a, b)
  | .ldh d a b => some (0x5B#8, d, a, b)
  | .ldw d a b => some (0x5C#8, d, a, b)
  | .ldd d a b => some (0x5D#8, d, a, b)
  | .ldq d a b => some (0x5E#8, d, a, b)
  | .stb d a b => some (0x5F#8, d, a, b)
  | .sth d a b => some (0x60#8, d, a, b)
  | .stw d a b => some (0x61#8, d, a, b)
  | .std d a b => some (0x62#8, d, a, b)
  | .stq d a b => some (0x63#8, d, a, b)
  | .ldv d a b => some (0x64#8, d, a, b)
  | .atom d a b => some (0x65#8, d, a, b)
  | .atomr d a b => some (0x66#8, d, a, b)
  | .fence d a b => some (0x67#8, d, a, b)
  | .clnr d a b => some (0x68#8, d, a, b)
  | .invr d a b => some (0x69#8, d, a, b)
  | .cpyt d a b => some (0x6A#8, d, a, b)
  | .cpyl d a b => some (0x6B#8, d, a, b)
  | .cpym d a b => some (0x6C#8, d, a, b)
  | .arrv d a b => some (0x6D#8, d, a, b)
  | .mma d a b => some (0x6E#8, d, a, b)
  | .mdrn d a b => some (0x6F#8, d, a, b)
  | .lrld d a b => some (0x70#8, d, a, b)
  | .cfetch d a b => some (0x71#8, d, a, b)
  | .cutsel d a b => some (0x72#8, d, a, b)
  | .rast d a b => some (0x73#8, d, a, b)
  | .rayq d a b => some (0x74#8, d, a, b)
  | .bkq d a b => some (0x75#8, d, a, b)
  | .gath d a b => some (0x76#8, d, a, b)
  | .coll d a b => some (0x77#8, d, a, b)
  | .trap d a b => some (0x78#8, d, a, b)
  | .srd d a b => some (0x79#8, d, a, b)
  | .swr d a b => some (0x7A#8, d, a, b)
  | .tret d a b => some (0x7B#8, d, a, b)
  | .nop d a b => some (0x7C#8, d, a, b)
  | .bkpt d a b => some (0x7D#8, d, a, b)
  | .ldvq d a b => some (0x7E#8, d, a, b)
  | .uadd d a b => some (0x80#8, d, a, b)
  | .usub d a b => some (0x81#8, d, a, b)
  | .uadd64 d a b => some (0x82#8, d, a, b)
  | .umul d a b => some (0x83#8, d, a, b)
  | .umad d a b => some (0x84#8, d, a, b)
  | .uand d a b => some (0x85#8, d, a, b)
  | .uor d a b => some (0x86#8, d, a, b)
  | .uxor d a b => some (0x87#8, d, a, b)
  | .ushl d a b => some (0x88#8, d, a, b)
  | .ushr d a b => some (0x89#8, d, a, b)
  | .usra d a b => some (0x8A#8, d, a, b)
  | .upopc d a b => some (0x8B#8, d, a, b)
  | .uclz d a b => some (0x8C#8, d, a, b)
  | .ueq d a b => some (0x8D#8, d, a, b)
  | .une d a b => some (0x8E#8, d, a, b)
  | .ult d a b => some (0x8F#8, d, a, b)
  | .ule d a b => some (0x90#8, d, a, b)
  | .unlt d a b => some (0x91#8, d, a, b)
  | .unle d a b => some (0x92#8, d, a, b)
  | .usel d a b => some (0x93#8, d, a, b)
  | .uli d i => some (0x94#8, d, i.extractLsb' 8 8, i.extractLsb' 0 8)
  | .ulih d i => some (0x95#8, d, i.extractLsb' 8 8, i.extractLsb' 0 8)
  | .umin d a b => some (0x96#8, d, a, b)
  | .umax d a b => some (0x97#8, d, a, b)
  | .ubnz d i => some (0x98#8, d, i.extractLsb' 8 8, i.extractLsb' 0 8)
  | .ubz d i => some (0x99#8, d, i.extractLsb' 8 8, i.extractLsb' 0 8)
  | .ujmpf d a b => some (0x9A#8, d, a, b)
  | .ucallf d a b => some (0x9B#8, d, a, b)
  | .uret d a b => some (0x9C#8, d, a, b)
  | .usrd d a b => some (0x9D#8, d, a, b)
  | .uldw d a b => some (0x9E#8, d, a, b)
  | .uldd d a b => some (0x9F#8, d, a, b)
  | .uldq d a b => some (0xA0#8, d, a, b)
  | .ustw d a b => some (0xA1#8, d, a, b)
  | .ustd d a b => some (0xA2#8, d, a, b)
  | .uatomr d a b => some (0xA3#8, d, a, b)
  | .uldv d a b => some (0xA4#8, d, a, b)
  | .upref d a b => some (0xA5#8, d, a, b)
  | .rbind d a b => some (0xA6#8, d, a, b)
  | .runbind d a b => some (0xA7#8, d, a, b)
  | .crdecl d a b => some (0xA8#8, d, a, b)
  | .crend d a b => some (0xA9#8, d, a, b)
  | .vpost d a b => some (0xAA#8, d, a, b)
  | .vopen d a b => some (0xAB#8, d, a, b)
  | .migr d a b => some (0xAC#8, d, a, b)
  | .launch d a b => some (0xAD#8, d, a, b)
  | .tbinit d a b => some (0xAE#8, d, a, b)
  | .abinit d a b => some (0xAF#8, d, a, b)
  | .utrap d a b => some (0xB0#8, d, a, b)
  | .unop d a b => some (0xB1#8, d, a, b)
  | .plane d a b => some (0xB2#8, d, a, b)
  | .xPrefix f => some (0x7F#8, f.extractLsb' 16 8, f.extractLsb' 8 8, f.extractLsb' 0 8)
  | .unassignedUniformOpcode w => some (w.extractLsb' 24 8, w.extractLsb' 16 8, w.extractLsb' 8 8, w.extractLsb' 0 8)
  | .accessTranslate _ _ => none
  | .cowComplete _ => none
  | .historyFrameFree _ _ => none
  | .holdLimitExpiry _ => none
  | .pageWalkComplete _ _ => none
  | .loadComplete _ => none
  | .storeAck _ => none
  | .commandRetire _ => none
  | .deliverPendingCause _ _ => none
  | .partyFrozen _ => none
  | .waitcReadReturn _ _ _ _ => none
  | .waitcTimeout _ _ => none
  | .segmentLanded _ _ _ => none
  | .segmentFetchFault _ _ _ => none
  | .segmentDropComplete _ _ _ => none
  | .dispatchStart _ => none
  | .restoreStart _ => none
  | .saveBegin _ => none
  | .saveDrained _ => none
  | .saveDeadlineExpiry _ => none
  | .saveComplete _ => none
  | .partySlotFree _ => none
  | .copyStart _ => none
  | .copyWritePacket _ _ => none
  | .copyDone _ => none
  | .copyFault _ => none
  | .ringPost _ => none
  | .lrldReadDone _ => none
  | .gatherDone _ => none
  | .gatherFault _ => none
  | .tileAccept _ => none
  | .tileStart _ => none
  | .tileRunDone _ => none
  | .tileFault _ => none
  | .shadowReferenceDone _ => none
  | .geometryStart _ => none
  | .cutselDone _ => none
  | .rastDone _ => none
  | .rayqDone _ => none
  | .geometryFault _ => none
  | .bankBlockArrive _ => none
  | .bankBlockStart _ => none
  | .allBankAdmit _ => none
  | .bkMode _ => none
  | .bkBcast _ => none
  | .bkLdv _ => none
  | .bkMac _ => none
  | .bkEadd _ => none
  | .bkSta _ => none
  | .bkClr _ => none
  | .bkSync _ => none
  | .bankBlockDone _ => none
  | .activateAdmit _ => none
  | .collMatched _ _ => none
  | .haloReceive _ _ _ => none
  | .collDone _ => none
  | .collTimeout _ => none
  | .collFault _ => none
  | .snoopForRead _ _ => none
  | .snoopForOwnership _ _ => none
  | .l2Eviction _ _ => none
  | .directoryBackInvalidate _ => none
  | .invalidationApply _ => none
  | .forwardedAtomic _ => none
  | .slotPre => none
  | .slotHalt => none
  | .slotKill => none
  | .slotRelease => none
  | .registerWrite => none
  | .bindDispatch => none
  | .bindRestore => none
  | .combineLine => none
  | .migrationBegin => none
  | .migrationDrained => none
  | .migrationCopyDone => none
  | .peerAccess => none
  | .peerTimeout => none
  | .launchRecordValidate => none
  | .dependenceRead => none
  | .schedulerPass => none
  | .reservationIntervalExpiry => none
  | .escalatedHoldExpiry => none
  | .launchTeardown => none
  | .podGroupForm => none
  | .closureMerge => none
  | .clusterRetire => none
  | .writeBufferFull => none
  | .blockMove => none
  | .correctedError => none
  | .uncorrectableError => none
  | .laneRetrainDone => none
  | .errorLogMove => none
  | .pageQuarantine => none
  | .pageRestore => none
  | .dieResetRequest => none
  | .clusterSave => none
  | .clusterRestore => none
  | .quiesceDeadlineExpiry => none
  | .dieResetComplete => none
  | .diePowerGate => none
  | .diePowerUp => none
  | .powerOn => none
  | .firmwareUpdate => none
  | .firmwareHoldTimeout => none
  | .attestationRequest => none
  | .powerManagerRevision => none
  | .temperatureReport => none
  | .flowLowTimeout => none
  | .hostRdmaWrite => none
  | .hostRdmaWriteImm => none
  | .hostRdmaRead => none
  | .hostAtomicCas => none
  | .hostAtomicFetchAdd => none
  | .launchPacket => none
  | .managementKillLaunch => none
  | .bufferTableEntryWrite => none
  | .launchQueueCreate => none
  | .connectionSetup => none
  | .linkPartnerFallback => none
  | .packageReset => none

/-- The word of an encoded instruction; none for an event. -/
def encode (i : Instr) : Option Word := (fieldsOf i).map fun (op, d, a, b) => packWord op d a b

/-- The bytes of a word as instruction memory stores them (R59). -/
def wordBytes (w : Word) : List Byte :=
  [w.extractLsb' 0 8, w.extractLsb' 8 8, w.extractLsb' 16 8, w.extractLsb' 24 8]

/-- The instruction the decoder reads from an instruction whose bits are w, the first word lowest, zero above nbits. -/
def decodeTableWord (nbits w : Nat) : Option Instr :=
  match decode (wordBytes (BitVec.ofNat 32 (w % 2 ^ nbits))) with
  | .ok (i, _) => some i
  | .error _ => none

end Sys2Proof
end

