-- ==== Sys2Proof/Machine/Causes.lean ====
section
/-! DEFINITION. The cause codes of 09_traps.md R229, each under its mnemonic. Reserved codes are never raised. -/

namespace Sys2Proof.Machine

/-- HALT (0x00). -/
def Cause.halt : Nat := 0x00
def Cause.opcRsvd : Nat := 0x01
def Cause.fldRsvd : Nat := 0x02
def Cause.pfxPos : Nat := 0x03
def Cause.pfxField : Nat := 0x04
def Cause.rmRsvd : Nat := 0x05
def Cause.codeRsvd : Nat := 0x06
def Cause.selRsvd : Nat := 0x07
def Cause.regAlign : Nat := 0x08
def Cause.regUndecl : Nat := 0x09
def Cause.regRdonly : Nat := 0x0A
def Cause.wregLane : Nat := 0x0B
def Cause.hregMode : Nat := 0x0C
def Cause.srNum : Nat := 0x0D
def Cause.srAccess : Nat := 0x0E
def Cause.opndKind : Nat := 0x0F
def Cause.flowEnd : Nat := 0x10
def Cause.brSeg : Nat := 0x11
def Cause.segAbsent : Nat := 0x12
def Cause.segFailed : Nat := 0x13
def Cause.segRange : Nat := 0x14
def Cause.segFull : Nat := 0x15
def Cause.waitcBad : Nat := 0x16
def Cause.xlMask : Nat := 0x17
def Cause.xlDiverge : Nat := 0x18
def Cause.brk : Nat := 0x19
def Cause.tretMode : Nat := 0x1A
def Cause.fpInvalid : Nat := 0x20
def Cause.fmtEmpty : Nat := 0x21
def Cause.slotKind : Nat := 0x22
def Cause.swt0 : Nat := 0x30
def Cause.addrNull : Nat := 0x40
def Cause.bufInvalid : Nat := 0x41
def Cause.bufBounds : Nat := 0x42
def Cause.bufRights : Nat := 0x43
def Cause.memAlign : Nat := 0x44
def Cause.winRank : Nat := 0x45
def Cause.winBounds : Nat := 0x46
def Cause.winKind : Nat := 0x47
def Cause.pageInvalid : Nat := 0x48
def Cause.pageQuar : Nat := 0x49
def Cause.migrStuck : Nat := 0x4A
def Cause.verReclaimed : Nat := 0x4B
def Cause.verWindow : Nat := 0x4C
def Cause.verKind : Nat := 0x4D
def Cause.cohLost : Nat := 0x4E
def Cause.memUncorr : Nat := 0x4F
def Cause.keyFail : Nat := 0x50
def Cause.peerFail : Nat := 0x51
def Cause.peerRights : Nat := 0x52
def Cause.crKind : Nat := 0x53
def Cause.cpyBad : Nat := 0x80
def Cause.cpyElem : Nat := 0x81
def Cause.tileBad : Nat := 0x82
def Cause.tileElem : Nat := 0x83
def Cause.bankBad : Nat := 0x84
def Cause.bankElem : Nat := 0x85
def Cause.collBad : Nat := 0x86
def Cause.collElem : Nat := 0x87
def Cause.gathBad : Nat := 0x88
def Cause.gathElem : Nat := 0x89
def Cause.cutBad : Nat := 0x8A
def Cause.cutElem : Nat := 0x8B
def Cause.rastBad : Nat := 0x8C
def Cause.rastElem : Nat := 0x8D
def Cause.rayBad : Nat := 0x8E
def Cause.rayElem : Nat := 0x8F
def Cause.barRearrive : Nat := 0x90
def Cause.tbarBroken : Nat := 0x91
def Cause.bindFull : Nat := 0x92
def Cause.bindBad : Nat := 0x93
def Cause.barNone : Nat := 0x94
def Cause.launchBad : Nat := 0x95
def Cause.launchFull : Nat := 0x96
def Cause.migrBad : Nat := 0x97
def Cause.crBad : Nat := 0x98
def Cause.vpostBad : Nat := 0x99
def Cause.hwRegf : Nat := 0xA0
def Cause.hwSram : Nat := 0xA1
def Cause.hwAcc : Nat := 0xA2
def Cause.hwImem : Nat := 0xA3
def Cause.hwLayc : Nat := 0xA4
def Cause.hwLink : Nat := 0xA5
def Cause.kill : Nat := 0xB0
def Cause.ctxLost : Nat := 0xB1

end Sys2Proof.Machine
end

