-- ==== Sys2Proof/Machine/Operands.lean ====
section
/-! DEFINITION. Operand forms: the prefix (03_encoding.md R64 to R71), what each instruction takes in its fields (R73, R77
and the forms table of each chapter), selectors (01_thread.md R18, R19), the encoding checks in the order of R78, and the
reads and writes of registers. -/

namespace Sys2Proof.Machine

/-! ## The prefix -/

/-- The fields of an X prefix (R64). -/
structure Pfx where
  c : Nat
  m : Nat
  me : Bool
  z : Bool
  rm : Nat
  hd : Bool
  ha : Bool
  hb : Bool
  lo : Nat
  deriving DecidableEq, Repr

/-- The fields of a prefix word (assumption 61, DEDUCED). -/
def Pfx.of (w : Word) : Pfx :=
  let n := w.toNat
  { c := fld n 15 9, m := fld n 10 5, me := bitOf n 9, z := bitOf n 8, rm := fld n 5 3, hd := bitOf n 4,
    ha := bitOf n 3, hb := bitOf n 2, lo := fld n 0 2 }

/-! ## Forms -/

/-- How many registers an operand occupies (01 R21). -/
inductive Width where
  | one | pair | quad
  deriving DecidableEq, Repr

def Width.regs : Width → Nat
  | .one => 1 | .pair => 2 | .quad => 4

/-- What a field of an instruction holds. -/
inductive Role where
  /-- must be zero (R75) -/
  | zero
  /-- a code, an offset or an immediate -/
  | code
  /-- a register read -/
  | src (w : Width)
  /-- a register written -/
  | dst (w : Width)
  /-- a register read and written -/
  | both (w : Width)
  /-- the element side of CVTS, written or read (05 R124): its alignment is the slot's own check (05 R125) -/
  | elem (write : Bool) (w : Width)
  /-- the first of BPERM's twelve w registers (04 R96) -/
  | wlist
  deriving DecidableEq, Repr

/-- What the prefix's C field holds. -/
inductive CForm where
  | none
  | reg (w : Width)
  /-- the memory attribute (R71): scopes accepted, L1 and L2 policies accepted, WT accepted -/
  | attr (scopes : List Nat) (pol wt : Bool)
  | waitn | xln | xred | bar
  deriving DecidableEq, Repr

/-- What the RM field holds. -/
inductive RmForm where
  | none
  | round
  | order (accepted : List Nat)
  deriving DecidableEq, Repr

/-- A form: fields, prefix fields accepted, and whether D is group-result (01 R22). -/
structure Form where
  d : Role
  a : Role
  b : Role
  c : CForm := .none
  rm : RmForm := .none
  /-- ME and M accepted -/
  me : Bool := true
  /-- Z accepted -/
  z : Bool := false
  group : Bool := false
  uni : Bool := false
  deriving DecidableEq, Repr

/-- A three-operand form that accepts a mask with Z. -/
def formZ (d a b : Role) : Form := { d := d, a := a, b := b, z := true }
/-- The same with rounding. -/
def formR (d a b : Role) : Form := { d := d, a := a, b := b, z := true, rm := .round }
/-- A uniform form: no prefix (R61). -/
def formU (d a b : Role) : Form := { d := d, a := a, b := b, me := false, uni := true }
/-- Scopes 0 to 8, policies and WT (07 R162, R163). -/
def attrFull : CForm := .attr [1, 2, 3, 4, 5, 6, 7, 8] true true

/-- The width of a CVT format number (05 R121). -/
def cvtWidth (k : Nat) : Width := if k == 0 || k == 10 || k == 11 then .pair else .one
/-- A 64-bit atomic type (07 R168). -/
def ty64 (ty : Nat) : Bool := ty == 2 || ty == 3 || ty == 5
/-- The width of an atomic's D operand: CAS takes twice the operand width (07 R168). -/
def atomWidth (code : Nat) : Width :=
  if code % 16 == 7 then (if ty64 (code / 16 % 8) then .quad else .pair)
  else if ty64 (code / 16 % 8) then .pair else .one
/-- The width of a status register (01 R27). -/
def srWidth (n : Nat) : Width := if n == 0x08 || n == 0x09 || n == 0x0A || n == 0x1A then .pair else .one
/-- The width of a versioned load's data (20 R399). -/
def ldvWidth (code : Nat) : Width := if code % 8 == 4 then .quad else if code % 8 == 3 then .pair else .one

/-- A format slot's element width in registers, as CVTS places it (05 R124): a binary64 element occupies a pair. -/
def slotElemWidth (slot : Nat) : Width := if slot % 256 == 1 then .pair else .one

/-- The form of an encoded instruction (R73, R77). The prefix and the launch's format slots decide the width of a few
operands. -/
def formOf (slots : Nat → Nat) (p : Pfx) : Instr → Form
  | .iadd .. | .isub .. | .imul .. | .imulhi .. | .nmulhi .. | .ndiv .. | .nrem .. | .imin .. | .imax .. | .nmin ..
  | .nmax .. | .iadds .. | .and .. | .or .. | .xor .. | .andn .. | .shl .. | .shr .. | .sra .. | .rotl .. | .bfx ..
  | .ieq .. | .ine .. | .ilt .. | .ile .. | .nlt .. | .nle .. => formZ (.dst .one) (.src .one) (.src .one)
  | .iadd64 .. | .isub64 .. | .bdep .. | .bext .. | .bmm8 .. | .rndc .. => formZ (.dst .pair) (.src .pair) (.src .pair)
  | .bperm .. => formZ (.dst .pair) (.src .pair) .wlist
  | .imad .. | .funsh .. | .bfi .. | .sel .. => { formZ (.dst .one) (.src .one) (.src .one) with c := .reg .one }
  | .nmad64 .. => { formZ (.dst .pair) (.src .one) (.src .one) with c := .reg .pair }
  | .popc .. | .clz .. | .brev .. => formZ (.dst .one) (.src .one) .zero
  | .li .. => formZ (.dst .one) .code .code
  | .lih .. => formZ (.both .one) .code .code
  | .fadd .. | .fsub .. | .fmul .. | .fdiv .. | .fscale .. => formR (.dst .one) (.src .one) (.src .one)
  | .dadd .. | .dsub .. | .dmul .. | .ddiv .. => formR (.dst .pair) (.src .pair) (.src .pair)
  | .dscale .. => formR (.dst .pair) (.src .pair) (.src .one)
  | .ffma .. | .pfmah .. | .pfmab .. => { formR (.dst .one) (.src .one) (.src .one) with c := .reg .one }
  | .dfma .. => { formR (.dst .pair) (.src .pair) (.src .pair) with c := .reg .pair }
  | .fmin .. | .fmax .. | .feq .. | .flt .. | .fle .. | .funo .. => formZ (.dst .one) (.src .one) (.src .one)
  | .dmin .. | .dmax .. => formZ (.dst .pair) (.src .pair) (.src .pair)
  | .deq .. | .dlt .. | .dle .. | .duno .. => formZ (.dst .one) (.src .pair) (.src .pair)
  | .sfn .. => formZ (.dst .one) (.src .one) .code
  | .dsqrt .. => formR (.dst .pair) (.src .pair) .zero
  | .frnd .. => formR (.dst .one) (.src .one) .zero
  | .cvt _ _ b => formR (.dst (cvtWidth (b.toNat / 16))) (.src (cvtWidth (b.toNat % 16))) .code
  | .cvts _ _ b =>
    let wide := if bitOf b.toNat 6 then Width.pair else .one
    let elem := slotElemWidth (slots (b.toNat % 8))
    if bitOf b.toNat 7 then formR (.dst wide) (.elem false elem) .code else formR (.elem true elem) (.src wide) .code
  | .fclass .. => formZ (.dst .one) (.src .one) .zero
  | .bnz .. | .bz .. => { d := .src .one, a := .code, b := .code }
  | .jmpf .. | .ret .. => { d := .zero, a := .src .one, b := .zero }
  | .callf .. => { d := .dst .one, a := .src .one, b := .zero }
  | .waitn .. => { d := .code, a := .code, b := .code, c := .waitn }
  | .waitc .. => { d := .dst .one, a := .src .pair, b := .src .one }
  | .xln .. =>
    let w := if bitOf p.c 6 then Width.pair else .one
    { d := .dst w, a := .src w, b := if p.c % 8 == 0 then .src .one else .zero, c := .xln }
  | .xred .. =>
    let w := if p.c % 16 == 8 || (12 ≤ p.c % 16 && p.c % 16 ≤ 14) then Width.pair else .one
    { d := .dst w, a := .src w, b := .zero, c := .xred }
  | .elect .. => { d := .dst .one, a := .zero, b := .zero, group := true }
  | .vote _ _ b => { d := .dst (if b == 0 then .pair else .one), a := .src .one, b := .code, group := true }
  | .bar .. => { d := .zero, a := .zero, b := .code, c := .bar }
  | .bara .. => { d := .dst .one, a := .zero, b := .code, c := .bar }
  | .exit .. | .nop .. => { d := .zero, a := .zero, b := .zero }
  | .cfetch .. => { d := .zero, a := .src .one, b := .code }
  | .srd _ _ b => formZ (.dst (srWidth b.toNat)) .zero .code
  | .swr _ _ b => { d := .zero, a := .src (srWidth b.toNat), b := .code }
  | .tret .. => { d := .zero, a := .zero, b := .zero, me := false }
  | .trap .. => { d := .zero, a := .src .one, b := .code }
  | .bkpt .. => { d := .zero, a := .zero, b := .code }
  | .ldb .. | .ldh .. | .ldw .. =>
    { formZ (.dst .one) (.src .pair) .code with c := attrFull, rm := .order [0, 1] }
  | .ldd .. => { formZ (.dst .pair) (.src .pair) .code with c := attrFull, rm := .order [0, 1] }
  | .ldq .. => { formZ (.dst .quad) (.src .pair) .code with c := attrFull, rm := .order [0, 1] }
  | .stb .. | .sth .. | .stw .. => { d := .src .one, a := .src .pair, b := .code, c := attrFull, rm := .order [0, 2] }
  | .std .. => { d := .src .pair, a := .src .pair, b := .code, c := attrFull, rm := .order [0, 2, 4] }
  | .stq .. => { d := .src .quad, a := .src .pair, b := .code, c := attrFull, rm := .order [0, 2] }
  | .ldv _ _ b =>
    { formZ (.dst (ldvWidth b.toNat)) (.src .pair) .code with c := .attr [] true false, rm := .order [0] }
  | .ldvq .. => { formZ (.dst .quad) (.src .pair) .code with c := .attr [] true false, rm := .order [0] }
  | .atom _ _ b =>
    { d := .src (atomWidth b.toNat), a := .src .pair, b := .code, c := attrFull,
      rm := .order (if ty64 (b.toNat / 16 % 8) then [0, 2, 4] else [0, 2]) }
  | .atomr _ _ b =>
    { formZ (.both (atomWidth b.toNat)) (.src .pair) .code with c := attrFull, rm := .order [0, 1, 2, 3] }
  | .fence .. =>
    { d := .zero, a := .zero, b := .zero, c := .attr [1, 2, 3, 4, 5, 6, 7, 8, 9] false false,
      rm := .order (if p.c % 16 == 9 then [2, 3] else [1, 2, 3]) }
  | .clnr .. | .invr .. =>
    { d := .src .one, a := .src .pair, b := .code, c := .attr [] false false, rm := .order [0] }
  | .gath .. => { d := .src .one, a := .src .pair, b := .code, c := .attr [3, 4, 5] false false, rm := .order [0] }
  | .arrv _ _ b =>
    { d := .src .one, a := .src .pair, b := .code,
      c := .attr (if bitOf b.toNat 0 then [3, 4, 5, 6, 7, 8] else [3, 4, 5]) false false, rm := .order [0, 2] }
  | .cpyt .. | .cpyl .. | .cpym .. | .mma .. | .mdrn .. | .cutsel .. | .rast .. | .rayq .. | .bkq .. | .coll .. =>
    { d := .zero, a := .src .pair, b := .code }
  | .lrld .. => { d := .src .one, a := .src .pair, b := .zero }
  | .uadd .. | .usub .. | .umul .. | .uand .. | .uor .. | .uxor .. | .ushl .. | .ushr .. | .usra .. | .ueq .. | .une ..
  | .ult .. | .ule .. | .unlt .. | .unle .. | .umin .. | .umax .. => formU (.dst .one) (.src .one) (.src .one)
  | .uadd64 .. => formU (.dst .pair) (.src .pair) (.src .pair)
  | .umad .. | .usel .. => formU (.both .one) (.src .one) (.src .one)
  | .upopc .. | .uclz .. => formU (.dst .one) (.src .one) .zero
  | .uli .. => formU (.dst .one) .code .code
  | .ulih .. => formU (.both .one) .code .code
  | .ubnz .. | .ubz .. => formU (.src .one) .code .code
  | .ujmpf .. | .uret .. => formU .zero (.src .one) .zero
  | .ucallf .. => formU (.dst .one) (.src .one) .zero
  | .usrd _ _ b => formU (.dst (srWidth b.toNat)) .zero .code
  | .uldw .. => formU (.dst .one) (.src .pair) .code
  | .uldd .. => formU (.dst .pair) (.src .pair) .code
  | .uldq .. => formU (.dst .quad) (.src .pair) .code
  | .ustw .. => formU (.src .one) (.src .pair) .code
  | .ustd .. => formU (.src .pair) (.src .pair) .code
  | .uatomr _ _ b => formU (.both (atomWidth b.toNat)) (.src .pair) .code
  | .uldv _ _ b => formU (.dst (ldvWidth b.toNat)) (.src .pair) .code
  | .upref .. => formU .code (.src .pair) .code
  | .rbind .. => formU (.both .one) (.src .pair) (.src .pair)
  | .runbind .. | .crend .. => formU .zero (.src .one) .zero
  | .crdecl .. => formU (.both .one) (.src .pair) (.src .one)
  | .vpost .. | .vopen .. | .migr .. | .launch .. => formU (.dst .one) (.src .pair) (.src .one)
  | .tbinit .. | .abinit .. | .plane .. => formU .zero (.src .pair) (.src .one)
  | .utrap .. => formU .zero (.src .one) .code
  | .unop .. => formU .zero .zero .zero
  | _ => formU .code .code .code

/-- What a code field admits (R75 and the chapters): true when the code is reserved. -/
def codeRsvd (p : Pfx) : Instr → Bool
  | .sfn _ _ b => 8 ≤ b.toNat
  | .cvt _ _ b => !cvtCodeOk b
  | .cvts _ _ b => !cvtsCodeOk b
  | .vote _ _ b => 5 ≤ b.toNat
  | .bar _ _ b | .bara _ _ b => 16 ≤ b.toNat
  | .cfetch _ _ b => 2 ≤ b.toNat
  | .atom _ _ b | .atomr _ _ b | .uatomr _ _ b => !atomCodeOk b
  | .clnr _ _ b => b != 0
  | .invr _ _ b => 2 ≤ b.toNat
  | .arrv _ _ b => !(b == 0 || b == 1 || b == 3)
  | .trap _ _ b | .utrap _ _ b => 16 ≤ b.toNat
  | .ldv _ _ b => 4 ≤ b.toNat % 8
  | .uldv _ _ b => !(2 ≤ b.toNat % 8 && b.toNat % 8 ≤ 4)
  | .xln .. => 4 ≤ p.c % 8 || (p.c % 8 == 0 && fld p.c 3 3 != 0)
  | .xred .. => p.c % 16 == 15 || fld p.c 4 3 == 7
  | _ => false

/-! ## Selectors -/

/-- A lane selector of 9 bits (01 R18, 03 R62); none where it is reserved. -/
def laneReg (sel : Nat) : Option Reg :=
  if sel < 0xC0 then some (.v sel)
  else if sel < 0xC4 then some (.o (sel - 0xC0))
  else if sel = 0xC4 then some .lat
  else if sel = 0xC5 then some .z
  else if sel = 0xC6 then some .tid
  else if sel = 0xC7 then none
  else if sel < 0x100 then some (.w (sel - 0xC8))
  else if sel < 0x1A0 then some (.w (sel - 0x100))
  else if sel < 0x1A8 then some (.h (sel - 0x1A0))
  else if sel < 0x1AC then some (.g (sel - 0x1A8))
  else none

/-- A uniform selector of 8 bits (01 R18, R19); none where it is reserved. -/
def uniReg (sel : Nat) : Option Reg :=
  if sel < 0xA0 then some (.w sel)
  else if sel = 0xA0 then some .z
  else if sel < 0xA8 then some (.special (sel - 0xA0))
  else if sel < 0xAC then some (.g (sel - 0xA8))
  else none

/-- The operand width of a role that names a register. -/
def Role.width? : Role → Option Width
  | .src w | .dst w | .both w | .elem _ w => some w
  | .wlist => some .one
  | .zero | .code => none
def Role.writes : Role → Bool
  | .dst _ | .both _ | .elem true _ => true
  | _ => false
def Role.reads : Role → Bool
  | .src _ | .both _ | .elem false _ => true
  | _ => false
def Role.isZero : Role → Bool
  | .zero => true
  | _ => false

/-- The register of a field that names one. -/
def fieldReg (f : Form) (r : Role) (h : Bool) (x : BitVec 8) : Option Reg :=
  match r.width? with
  | none => some .z
  | some _ => if f.uni then uniReg x.toNat else laneReg (x.toNat + if h then 256 else 0)

/-- A role whose operand R78 checks as one register: a list's first register, and the element side of CVTS. -/
def Role.single : Role → Bool
  | .wlist | .elem .. => true
  | _ => false

/-- Misalignment of an operand (01 R21, R25; 04 R105). -/
def misaligned (w : Width) : Reg → Bool
  | .v n | .w n | .h n | .g n => n % w.regs != 0
  | .o n => n % w.regs != 0
  | .lat => w == .quad
  | .z => false
  | .tid | .special _ => w != .one

/-- A register that begins a pair FCLASS reads as binary64 (05 R119). -/
def Reg.startsPair : Reg → Bool
  | .v n | .w n | .o n => n % 2 == 0
  | .z | .lat => true
  | .tid | .h _ | .g _ | .special _ => false

/-- An instruction that takes no uniform special as A or B, one register or two (08 R199, 15 R325, 16 R343, 20 R399). -/
def noSpecial : Instr → Bool
  | .rbind .. | .crdecl .. | .crend .. | .launch .. | .vpost .. | .vopen .. => true
  | _ => false
def Reg.isSpecial : Reg → Bool
  | .special _ => true
  | _ => false

/-- A v operand at or above the declared count (01 R20). -/
def undeclared (nv : Nat) (w : Width) : Reg → Bool
  | .v n => nv < n + w.regs
  | _ => false

def Reg.isHandler : Reg → Bool
  | .h _ | .g _ => true
  | _ => false
def Reg.isW : Reg → Bool
  | .w _ => true
  | _ => false
def Reg.isReadOnly : Reg → Bool
  | .lat | .tid | .special _ => true
  | _ => false

/-- The prefix an instruction has without one (R67). -/
def defaultPfx (c : CForm) : Pfx :=
  { c := match c with | .reg _ => 0x0C5 | .waitn => 15 | _ => 0, m := 0, me := false, z := false, rm := 0, hd := false,
    ha := false, hb := false, lo := 0 }

/-- Check 4 of R78: a prefix field the form does not accept, or a defined value it does not take (R66, R495). -/
def pfxFieldBad (f : Form) (p : Pfx) : Bool :=
  let scope := p.c % 16
  (match f.c with
    | .none => p.c != 0
    | .reg _ => false
    | .attr scopes pol wt =>
      (1 ≤ scope && scope ≤ 9 && !scopes.contains scope) || (!pol && p.c / 16 != 0) || (!wt && bitOf p.c 8)
    | .waitn => p.c / 16 != 0
    | .xln | .xred => false
    | .bar => p.c / 16 != 0 || scope == 1 || scope == 8 || scope == 9) ||
  (match f.rm with
    | .none => p.rm != 0
    | .round => false
    | .order ok => p.rm ≤ 4 && !ok.contains p.rm) ||
  (!f.me && (p.me || p.m != 0 || p.z)) || (!f.z && p.z) || (!p.me && (p.m != 0 || p.z)) ||
  (p.hd && (f.d.width?).isNone) || (p.ha && (f.a.width?).isNone) || (p.hb && (f.b.width?).isNone)

/-- Check 6 of R78 on the C field: a reserved value in a subfield the form accepts (R71, R495). -/
def attrRsvd (f : Form) (p : Pfx) : Bool :=
  match f.c with
  | .attr _ pol _ => 10 ≤ p.c % 16 || (pol && (fld p.c 4 2 == 3 || fld p.c 6 2 == 3))
  | .bar => 10 ≤ p.c % 16
  | _ => false

/-- The operand registers of an instruction in the order D, A, B, C with the role of each; none is a reserved
selector. -/
def operandRegs (f : Form) (p : Pfx) (d a b : BitVec 8) : List (Role × Option Reg) :=
  [(f.d, fieldReg f f.d p.hd d), (f.a, fieldReg f f.a p.ha a), (f.b, fieldReg f f.b p.hb b),
   (match f.c with
    | .reg w => (.src w, laneReg p.c)
    | _ => (.code, some .z))]

/-- Checks 3 to 12 of R78 in order: the first that holds. -/
def encCheck (f : Form) (p : Pfx) (i : Instr) (d a b : BitVec 8) (nv : Nat) (handler : Bool) : Option Nat :=
  let rs := operandRegs f p d a b
  let any (t : Role → Width → Reg → Bool) : Bool :=
    rs.any fun (r, x) => match r.width?, x with
      | some w, some x => t r w x
      | _, _ => false
  let rsvdC := match f.c with | .xln | .xred => 128 ≤ p.c | _ => false
  let code := match i with | .upref x _ _ => 2 ≤ x.toNat | .ldvq _ _ x => x.toNat % 8 != 0 | _ => false
  if p.lo != 0 || rsvdC || (f.d.isZero && d != 0) || (f.a.isZero && a != 0) || (f.b.isZero && b != 0) || code then
    some Cause.fldRsvd
  else if pfxFieldBad f p then some Cause.pfxField
  else if (match f.rm with | .none => false | .round => p.rm == 7 | .order _ => 5 ≤ p.rm) then some Cause.rmRsvd
  else if codeRsvd p i || attrRsvd f p then some Cause.codeRsvd
  else if rs.any fun (_, x) => x.isNone then some Cause.selRsvd
  else if any fun _ _ x => x.isHandler && !handler then some Cause.hregMode
  else if any fun r w x => (!r.single && misaligned w x) || (noSpecial i && x.isSpecial && r.reads && !r.writes) then
    some Cause.regAlign
  else if any fun r w x => undeclared nv (if r.single then .one else w) x then some Cause.regUndecl
  else if any fun r _ x => r.writes && x.isW && !f.uni && !f.group then some Cause.wregLane
  else if any fun r _ x => r.writes && x.isReadOnly then some Cause.regRdonly
  else none

/-! ## Reading and writing registers -/

/-- What a thread's operands are read from: the party, the thread and the group (01 R19). -/
structure View where
  party : Party
  thread : Thread
  tid : Nat
  tids : List Nat
  /-- sr.ref, for the special 0xA7 -/
  ref : Nat

/-- The mask of a list of threads. -/
def tidMask (l : List Nat) : Nat := l.foldl (fun m t => Nat.lor m (2 ^ t)) 0

/-- A uniform special (01 R19). -/
def special (v : View) : Nat → Nat
  | 1 => v.party.pidx
  | 2 => Config.lanes
  | 3 => v.tids.length
  | 4 => tidMask v.tids % 2 ^ 32
  | 5 => tidMask v.tids / 2 ^ 32
  | 6 => v.party.rank
  | _ => v.ref % 2 ^ 32

/-- One 32-bit word of an operand (01 R18). -/
def readWord (v : View) : Reg → Nat
  | .v n => (v.thread.v.getD n 0#32).toNat
  | .o n => (v.thread.o.getD n 0#32).toNat
  | .lat => v.thread.lat.toNat
  | .z => 0
  | .tid => v.tid % 2 ^ 32
  | .w n => (v.party.w.getD n 0#32).toNat
  | .h n => (v.thread.h.getD n 0#32).toNat
  | .g n => (v.party.g.getD n 0#32).toNat
  | .special n => special v n % 2 ^ 32

/-- The register k places above a register. -/
def Reg.up (k : Nat) : Reg → Reg
  | .v n => .v (n + k)
  | .o n => .o (n + k)
  | .w n => .w (n + k)
  | .h n => .h (n + k)
  | .g n => .g (n + k)
  | r => r

/-- An operand of a width, low word in the lower register (01 R21, R25). -/
def readReg (v : View) (w : Width) (r : Reg) : Nat :=
  match r, w with
  | .lat, .pair => v.thread.lat.toNat + 2 ^ 32 * v.thread.latx.toNat
  | r, .one => readWord v r
  | r, .pair => readWord v r + 2 ^ 32 * readWord v (r.up 1)
  | r, .quad => readWord v r + 2 ^ 32 * readWord v (r.up 1) + 2 ^ 64 * readWord v (r.up 2) + 2 ^ 96 * readWord v (r.up 3)

/-- k registers of a file from n up, written with the words of x. -/
def setRegs (file : List Word) (n : Nat) : Nat → Nat → List Word
  | 0, _ => file
  | k + 1, x => setRegs (file.set n (BitVec.ofNat 32 x)) (n + 1) k (x / 2 ^ 32)

/-- A result written to a thread's own register; writes to z are discarded (01 R18, R21). -/
def Thread.write (t : Thread) (r : Reg) (w : Width) (x : Nat) : Thread :=
  match r with
  | .v n => { t with v := setRegs t.v n w.regs x }
  | .o n => { t with o := setRegs t.o n w.regs x }
  | .h n => { t with h := setRegs t.h n w.regs x }
  | .lat | .z | .tid | .w _ | .g _ | .special _ => t

/-- A result written to a party's register. -/
def Party.write (p : Party) (r : Reg) (w : Width) (x : Nat) : Party :=
  match r with
  | .w n => { p with w := setRegs p.w n w.regs x }
  | .g n => { p with g := setRegs p.g n w.regs x }
  | .v _ | .o _ | .lat | .z | .tid | .h _ | .special _ => p

/-- A register of the party takes a value, if there is one. -/
def Party.offer (p : Party) (r : Reg) (w : Width) : Option Nat → Party
  | some x => p.write r w x
  | none => p

/-- The results that threads of a group give a register of g, the only register of the party that a lane instruction writes
for each thread (R18, 09 R221): in ascending thread order, so that the highest one's stays (assumption 77, DESIGN CHOICE). -/
def Party.takeG (p : Party) (r : Reg) (w : Width) (tids : List Nat) (val : Nat → Option Nat) : Party :=
  match r with
  | .g _ => tids.foldl (fun p k => p.offer r w (val k)) p
  | .v _ | .o _ | .lat | .z | .tid | .w _ | .h _ | .special _ => p

/-- lat after an A-pipe or D-pipe result (01 R25): a 64-bit result sets both words, a 32-bit one clears the extension. -/
def Thread.setLat (t : Thread) (w : Width) (x : Nat) : Thread :=
  { t with lat := BitVec.ofNat 32 x, latx := if w == .one then 0 else BitVec.ofNat 32 (x / 2 ^ 32) }

/-- The mask pair w(2M):w(2M+1) (03 R68). -/
def maskPair (p : Party) (m : Nat) : Nat :=
  (p.w.getD (2 * m) 0#32).toNat + 2 ^ 32 * (p.w.getD (2 * m + 1) 0#32).toNat

/-- Thread t is enabled (03 R68). -/
def enabledBy (party : Party) (p : Pfx) (t : Nat) : Bool := !p.me || bitOf (maskPair party p.m) t

end Sys2Proof.Machine
end

