-- ==== Sys2Proof/Machine/Ops.lean ====
section
/-! DEFINITION. The named operations that meanings share: instruction fetch, the context of an issuing group, taking an
exception and returning from one (09_traps.md R220, R222, R228), advancing past an instruction (06 R130), running an
instruction for each thread of a group or once for the group (03 R59, R68; 01 R17), and issuing, completing and retiring
operations (01 R31, 09 R217). -/

namespace Sys2Proof.Machine

/-! ## Outcomes of events -/

/-- An event happens only where it can (assumption 10, DESIGN CHOICE). -/
def whenEnabled (name : String) (g : Bool) (t : State) : Host.Outcome State Fault Refusal :=
  if g then .next t else .refused (.notEnabled name)

/-! ## Instruction fetch (06 R129, R130) -/

/-- A launch's segment on a core. -/
def segAt (s : State) (core lid seg : Nat) : Seg := aget { st := .absent, image := [] } (lid, seg) (s.core core).segs
def setSeg (s : State) (core lid seg : Nat) (x : Seg) : State :=
  s.setCore core { s.core core with segs := aset (lid, seg) x (s.core core).segs }
/-- Segment number and word of a PC (01 R13). -/
def segOf (pc : Pc) : Nat := pc.toNat / 1024
def wordOf (pc : Pc) : Nat := pc.toNat % 1024
/-- An instruction is fetched only from a LANDED or DROPPING segment (06 R130). -/
def SegSt.fetchable : SegSt → Bool
  | .landed | .dropping => true
  | .absent | .fetching | .failed _ => false
/-- The word at a PC of a launch on a core; words of the image that are not listed are zero (03 R85). -/
def fetchWord (s : State) (core lid : Nat) (pc : Pc) : Option Word :=
  let g := segAt s core lid (segOf pc)
  if g.st.fetchable then some (aget 0#32 (wordOf pc) g.image) else none

/-! ## The context of an issuing group -/

/-- What an instruction's meaning works with. -/
structure Cx where
  slot : Nat
  issue : Issue
  party : Party
  launch : Launch
  form : Form
  p : Pfx
  i : Instr
  d : BitVec 8
  a : BitVec 8
  b : BitVec 8
  /-- the next sequential PC (03 R65) -/
  npc : Pc
  /-- the instruction's last word is word 1023 of its segment (06 R130) -/
  atEnd : Bool
  deriving DecidableEq, Repr

/-- The context of the issuing group for an instruction. -/
def cx? (s : State) (i : Instr) : Option Cx :=
  match s.issue with
  | none => none
  | some g =>
    match s.party? g.slot with
    | none => none
    | some party =>
      match s.launch? party.lid, fieldsOf i with
      | some l, some (_, d, a, b) =>
        let p0 := match g.pfx with | some w => Pfx.of w | none => defaultPfx .none
        let f0 := formOf l.fmtSlot p0 i
        let p := match g.pfx with | some _ => p0 | none => defaultPfx f0.c
        let f := formOf l.fmtSlot p i
        let n := if g.pfx.isSome then 2 else 1
        some { slot := g.slot, issue := g, party := party, launch := l, form := f, p := p, i := i, d := d, a := a,
               b := b, npc := g.pc + BitVec.ofNat 16 n, atEnd := wordOf g.pc + n == 1024 }
      | _, _ => none

def Cx.core (cx : Cx) : Nat := coreOf cx.slot
def Cx.die (cx : Cx) : Nat := dieOf (coreOf cx.slot)
def Cx.tids (cx : Cx) : List Nat := cx.issue.tids
def Cx.pc (cx : Cx) : Pc := cx.issue.pc
/-- The handler entry of the launch, 0 for none (09 R219). -/
def Cx.hpc (cx : Cx) : Pc := BitVec.ofNat 16 cx.launch.handler
def Cx.dreg (cx : Cx) : Reg := (fieldReg cx.form cx.form.d cx.p.hd cx.d).getD .z
def Cx.areg (cx : Cx) : Reg := (fieldReg cx.form cx.form.a cx.p.ha cx.a).getD .z
def Cx.breg (cx : Cx) : Reg := (fieldReg cx.form cx.form.b cx.p.hb cx.b).getD .z
def Cx.creg (cx : Cx) : Reg := match cx.form.c with | .reg _ => (laneReg cx.p.c).getD .z | _ => .z
def Cx.dwidth (cx : Cx) : Width := cx.form.d.width?.getD .one
/-- The signed imm8 offset of the memory layout (03 R60). -/
def Cx.off (cx : Cx) : Int := cx.b.toInt
/-- imm16 of the immediate layout. -/
def Cx.imm (cx : Cx) : BitVec 16 := immOf cx.a cx.b
def Cx.enabled (cx : Cx) (t : Nat) : Bool := enabledBy cx.party cx.p t
/-- The enabled threads of the group, ascending. -/
def Cx.active (cx : Cx) : List Nat := cx.tids.filter cx.enabled
/-- The group's context once its threads have given D, a register of g, their values. -/
def Cx.withG (cx : Cx) (w : Width) (val : Nat → Option Nat) : Cx :=
  { cx with party := cx.party.takeG cx.dreg w cx.tids val }
def Cx.view (cx : Cx) (ref : Nat) (tid : Nat) : View :=
  { party := cx.party, thread := cx.party.thread tid, tid := tid, tids := cx.tids, ref := ref }
def Cx.block (cx : Cx) (s : State) : Option Block := s.block? cx.party.lid cx.party.blin

/-- The values of an instruction's operands for one thread. -/
structure Opnds where
  d : Nat
  a : Nat
  b : Nat
  c : Nat

def Cx.opnds (cx : Cx) (v : View) : Opnds :=
  { d := if cx.form.d.reads then readReg v cx.dwidth cx.dreg else 0
    a := if cx.form.a.reads then readReg v (cx.form.a.width?.getD .one) cx.areg else 0
    b := if cx.form.b.reads then readReg v (cx.form.b.width?.getD .one) cx.breg else 0
    c := match cx.form.c with | .reg w => readReg v w cx.creg | _ => 0 }

/-! ## Taking an exception and returning from one -/

/-- What a cause carries (09 R215, R220). -/
structure Trap where
  cause : Nat
  taddr : Nat := 0
  tinfo : Nat := 0
  deriving DecidableEq, Repr

/-- A wait in BAR that ends before its phase keeps its arrival (06 R152, 09 R216). -/
def Thread.dropHold (t : Thread) : Thread :=
  match t.hold with
  | some (.bar scope idx phase _) => { t with hold := none, barKept := some (t.pc, scope, idx, phase) }
  | some (.xl _) | some (.waitc ..) | some (.read ..) | none => { t with hold := none }

/-- Handler entry (09 R220): the trap state is recorded, the mode becomes handler and the PC the handler entry. No v, o,
w or lat register and no counter changes. -/
def Thread.enter (t : Thread) (hpc tpc : Pc) (tr : Trap) : Thread :=
  { t.dropHold with
    cause := BitVec.ofNat 32 tr.cause
    tpc := tpc.zeroExtend 32
    taddr := BitVec.ofNat 64 tr.taddr
    tinfo := BitVec.ofNat 32 tr.tinfo
    handler := true
    serving := none
    pc := hpc }

/-- A cause delivered to a thread: handler entry in normal mode (09 R220); in handler mode, or for a launch without a
handler, the party escalates (09 R222) and the thread keeps its trap state. -/
def deliver (hpc tpc : Pc) (tid : Nat) (tr : Trap) (t : Thread) : Thread × Option Esc :=
  if t.handler || hpc == 0 then
    (t, some { cause := tr.cause, faddr := tr.taddr, pc := t.pc.toNat, tid := tid })
  else (t.enter hpc tpc tr, none)

/-- Return from a handler (09 R228): normal mode at the PC that sr.tpc names; no other register changes. A BAR that the
delivery interrupted keeps its arrival only for a return to it (09 R216). -/
def Thread.leave (t : Thread) : Thread :=
  { t with handler := false, pc := t.tpc.truncate 16, barKept := t.barKept.filter fun k => k.1 == t.tpc.truncate 16 }

/-- A party escalates: every thread stops, the first escalation stands (09 R222). -/
def Party.escalate (p : Party) (e : Esc) : Party :=
  match p.esc with
  | some _ => p
  | none => { p with esc := some e }

/-- The party after the escalations of a step. -/
def Party.escalateAll (p : Party) (es : List Esc) : Party :=
  match es with
  | [] => p
  | e :: _ => p.escalate e

/-! ## Waits that end by themselves -/

/-- A thread that can take a pending cause: in normal mode, not exited (09 R216). -/
def Thread.deliverable (t : Thread) : Bool :=
  !t.handler && !t.exited && (!t.pend.isEmpty || !t.async.isEmpty)

/-- A waiting thread's slot runs. -/
def slotRuns (s : State) (slot : Nat) : Bool := (s.slot slot).st == .run

/-- A party whose threads may move: its slot runs and it does not escalate. -/
def slotLive (s : State) (slot : Nat) : Bool :=
  slotRuns s slot && match s.party? slot with | some p => p.esc.isNone | none => false

/-- The waits of a slot's threads may end: the party runs, does not escalate and does not migrate (09 R222, 14 R313). -/
def waitsGo (s : State) (slot : Nat) : Bool := slotLive s slot && (s.slot slot).migr.isNone

/-! ## Advancing -/

/-- A thread whose instruction has completed goes to the next PC; past word 1023 it takes FLOW_END, precise and completed
(06 R130). -/
def Cx.advance (cx : Cx) (tid : Nat) (t : Thread) : Thread × Option Esc :=
  if cx.atEnd then deliver cx.hpc cx.pc tid { cause := Cause.flowEnd, tinfo := 1 } t
  else ({ t with pc := cx.npc, hold := none }, none)

/-- A precise cause for one thread: sr.tpc is the instruction's PC (09 R215). -/
def Cx.raise (cx : Cx) (tid : Nat) (tr : Trap) (t : Thread) : Thread × Option Esc := deliver cx.hpc cx.pc tid tr t

/-- A thread that transfers control. -/
def Thread.jump (t : Thread) (pc : Pc) : Thread := { t with pc := pc, hold := none }

/-! ## Running an instruction for each thread of a group -/

/-- Every thread of the group by g, the others unchanged, and the escalations of the step in ascending thread order. -/
def groupResult (party : Party) (tids : List Nat) (g : Nat → Thread → Thread × Option Esc) : Party :=
  let rs : List (Thread × Option Esc) := mapI (fun k t => if tids.contains k then g k t else (t, none)) 0 party.threads
  Party.escalateAll { party with threads := rs.map (fun r => r.1) } (rs.filterMap (fun r => r.2))

/-- The state after every thread of the group has done g. -/
def Cx.mapGroup (cx : Cx) (s : State) (g : Nat → Thread → Thread × Option Esc) : State :=
  s.setParty cx.slot (groupResult cx.party cx.tids g)

/-- A cause for every thread of the group, masked or not (03 R79; 01 R17). -/
def Cx.trapAll (cx : Cx) (s : State) (tr : Trap) : State := cx.mapGroup s fun k t => cx.raise k tr t

/-- A deterministic launch reads no reference time (24 R440): the special 0xA7 as an operand. -/
def Cx.detReflo (cx : Cx) : Bool := cx.launch.isDet && (cx.dreg == .special 7 || cx.areg == .special 7 || cx.breg == .special 7)

/-- An instruction word: the group's context, the checks of R78, then the body. -/
def runWord (s : State) (i : Instr) (body : Cx → State → State) : Host.Outcome State Fault Refusal :=
  match cx? s i with
  | none => .refused .noIssue
  | some cx =>
    match encCheck cx.form cx.p i cx.d cx.a cx.b cx.party.nv cx.issue.handler with
    | some cause => .next (cx.trapAll s { cause := cause })
    | none => if cx.detReflo then .next (cx.trapAll s { cause := Cause.srAccess }) else .next (body cx s)

/-- What an instruction of registers gives a thread. -/
inductive LaneRes where
  /-- a result for D, the flags it raises (sr.fpcsr bits 4:0) and the draws it consumed -/
  | val (x flags draws : Nat)
  /-- a precise trap, the flags set before the handler runs (02 R48) and the draws consumed (09 R215) -/
  | trap (tr : Trap) (flags draws : Nat)

/-- The flags ORed into sr.fpcsr (02 R47). -/
def Thread.orFlags (t : Thread) (flags : Nat) : Thread :=
  { t with fpcsr := t.fpcsr ||| BitVec.ofNat 32 (flags % 32) }

/-- The thread after an instruction of registers (03 R68, 01 R25, R26): lats says whether the pipe writes lat. A thread masked
off in zero mode writes zero at D's width even where an enabled thread would trap (assumption 87, DESIGN CHOICE). -/
def Cx.aluThread (cx : Cx) (lats : Bool) (op : View → Opnds → LaneRes) (ref : Nat) (tid : Nat) (t : Thread) :
    Thread × Option Esc :=
  if cx.enabled tid then
    match op (cx.view ref tid) (cx.opnds (cx.view ref tid)) with
    | .val x flags draws =>
      let t := t.write cx.dreg cx.dwidth x
      let t := if lats then t.setLat cx.dwidth x else t
      let t := { t.orFlags flags with draw := t.draw + BitVec.ofNat 64 draws }
      cx.advance tid t
    | .trap tr flags draws =>
      cx.raise tid tr { t.orFlags flags with draw := t.draw + BitVec.ofNat 64 draws }
  else if cx.p.z then
    let t := t.write cx.dreg cx.dwidth 0
    cx.advance tid (if lats then t.setLat cx.dwidth 0 else t)
  else cx.advance tid t

/-- What a thread's instruction of registers gives D: its result, or zero for a masked thread in zero mode. -/
def Cx.aluGives (cx : Cx) (op : View → Opnds → LaneRes) (ref tid : Nat) : Option Nat :=
  if cx.enabled tid then
    match op (cx.view ref tid) (cx.opnds (cx.view ref tid)) with
    | .val x _ _ => some x
    | .trap .. => none
  else if cx.p.z then some 0 else none

/-- A lane instruction that computes on registers. -/
def runAlu (s : State) (i : Instr) (lats : Bool) (op : Cx → View → Opnds → LaneRes) : Host.Outcome State Fault Refusal :=
  runWord s i fun cx s =>
    (cx.withG cx.dwidth (cx.aluGives (op cx) s.ref)).mapGroup s (cx.aluThread lats (op cx) s.ref)

/-- An integer or bit instruction: a value and nothing else (04 R86). -/
def runInt (s : State) (i : Instr) (lats : Bool) (f : Opnds → Nat) : Host.Outcome State Fault Refusal :=
  runAlu s i lats fun _ _ o => .val (f o) 0 0

/-- A uniform instruction that computes on registers: once for the group (01 R17, 04 R104). -/
def runUni (s : State) (i : Instr) (f : Opnds → Nat) : Host.Outcome State Fault Refusal :=
  runWord s i fun cx s =>
    let x := f (cx.opnds (cx.view s.ref (cx.tids.headD 0)))
    let cx := { cx with party := cx.party.write cx.dreg cx.dwidth x }
    cx.mapGroup s cx.advance

/-- One thread's result for a register of g. -/
def State.putG (s : State) (slot tid : Nat) (d : Reg) (w : Width) (x : Nat) : State :=
  match d, s.party? slot with
  | .g _, some p => s.setParty slot (p.takeG d w [tid] fun _ => some x)
  | _, _ => s
/-- One thread's result for D, where D is a register of g. -/
def Cx.putG (cx : Cx) (s : State) (tid : Nat) (w : Width) (x : Nat) : State := s.putG cx.slot tid cx.dreg w x

/-- One thread's part of an instruction whose threads act in ascending order on shared state: g is given the state with
this thread as it stands, and its operands as they stood at issue. -/
def Cx.each (cx : Cx) (s : State) (g : State → Nat → View → Thread → State × (Thread × Option Esc)) : State :=
  cx.tids.foldl (fun s tid =>
    match s.party? cx.slot with
    | none => s
    | some party =>
      let t := party.thread tid
      let (s, t, e) := g s tid { party := { party with g := cx.party.g }, thread := t, tid := tid, tids := cx.tids, ref := s.ref } t
      match s.party? cx.slot with
      | none => s
      | some party => s.setParty cx.slot ((party.setThread tid t).escalateAll e.toList)) s

/-! ## Operations in flight -/

/-- A counter raised for a thread (01 R31). -/
def Thread.count (t : Thread) (c : Cls) : Thread := { t with cnt := t.cnt.set c (t.cnt.get c + 1) }
def Thread.uncount (t : Thread) (c : Cls) : Thread := { t with cnt := t.cnt.set c (t.cnt.get c - 1) }

/-- A new operation at the end of the list, in issue order. -/
def State.addOp (s : State) (slot lid : Nat) (tids : List Nat) (cls : Option Cls) (pc : Pc) (kind : OpKind)
    (after : List Nat) : State :=
  { s with
    seq := s.seq + 1
    ops := s.ops ++ [{ id := s.seq, slot := slot, lid := lid, tids := tids, live := tids, cls := cls, pc := pc,
                       kind := kind, phase := .issued, after := after, untilTret := none, work := {} }] }

/-- The operation has had its memory effect, or will have none. -/
def Phase.settled : Phase → Bool
  | .performed _ | .done | .failed .. | .post .. => true
  | .issued | .walking .. | .held _ | .peer _ | .forwarded .. | .queued | .running | .failing .. => false

def Phase.isFailed : Phase → Bool
  | .failed .. => true
  | _ => false

/-- Unsettled operations that one thread issued. -/
def openOps (s : State) (slot tid : Nat) : List Op :=
  s.ops.filter fun o => o.slot == slot && o.tids.contains tid && !o.phase.settled

/-- An operation waits for TRET from the handler of a faulted atomic (19 R389): not in a party that escalates, and not when no
thread of it is left to return. -/
def Op.waitsTret (o : Op) (s : State) : Bool :=
  o.untilTret.isSome &&
  match s.party? o.slot with
  | some p => p.esc.isNone && o.tids.any fun t => !(p.thread t).exited
  | none => false

/-- An operation may be performed: everything that must come before it is settled. -/
def Op.ready (o : Op) (s : State) : Bool :=
  !o.waitsTret s && o.after.all fun id => match s.op? id with | none => true | some p => p.phase.settled

/-- Operations of a class that a thread issued before one (01 R31). -/
def olderThan (s : State) (o : Op) (tid : Nat) : List Op :=
  (s.ops.takeWhile fun p => p.id ≠ o.id).filter fun p => p.slot == o.slot && p.cls == o.cls && p.live.contains tid

/-- A thread can retire an operation: it is the oldest of its class, and for a failed one no deferred cause of the class
is pending (01 R31, 09 R217); a party that escalates delivers none. -/
def canRetire (s : State) (o : Op) (tid : Nat) : Bool :=
  (olderThan s o tid).isEmpty &&
  match o.phase, s.party? o.slot, o.cls with
  | .failed .., some p, some c => p.esc.isSome || !(p.thread tid).pend.any fun x => x.cls == c
  | .failed .., _, _ => true
  | .done, _, _ => true
  | _, _, _ => false

/-- HALT reaches every thread as an asynchronous cause (25 R450). -/
def haltParty (s : State) (slot : Nat) : State :=
  match s.party? slot with
  | none => s
  | some p =>
    s.setParty slot { p with threads := p.threads.map fun t =>
      if t.exited || t.async.contains Cause.halt then t else { t with async := t.async ++ [Cause.halt] } }

/-- The opcode of a copy from its instruction word. -/
def insOpcode (ins : Word) : Nat := fld ins.toNat 24 7

/-- Insertion of a copy in ascending SEQ. -/
def insertCopy (c : SavedCopy) : List SavedCopy → List SavedCopy
  | [] => [c]
  | d :: ds => if c.seq ≤ d.seq then c :: d :: ds else d :: insertCopy c ds

/-- Cancelled copies are issued again in ascending SEQ, each counted in its thread (10 R244 step 2). -/
def reissueCopies (s : State) (slot lid : Nat) (copies : List SavedCopy) : State :=
  let blin := match s.party? slot with | some p => p.blin | none => 0
  (copies.foldl (fun l c => insertCopy c l) []).foldl (fun s c =>
    let s := match s.party? slot with
      | some p => s.setParty slot (p.setThread c.tid ((p.thread c.tid).count .cp))
      | none => s
    s.addOp slot lid [c.tid] (some .cp) c.cpc (copyKind s lid blin (insOpcode c.ins) c.desc c.pfx c.ins c.seq) []) s

/-- A save is abandoned (10 R240): the slot runs again with PREQ set, a thread that waited stands at its instruction, the
copies that the save has cancelled are issued again (assumption 89, DESIGN CHOICE), and a HALT that it held is delivered and
reported (25 R447; assumption 95, DESIGN CHOICE). -/
def abandonSave (s : State) (slot : Nat) : State :=
  let k := s.slot slot
  match k.st, k.party with
  | .saving, some p =>
    let t := s.setSlot slot { k with st := .run, preq := true, saveStep := 0, cancelled := [], imageHold := none,
                                     heldHalt := false,
                                     party := some { p with threads := p.threads.map Thread.dropHold } }
    let t := if p.esc.isSome then t else reissueCopies t slot p.lid k.cancelled
    if k.heldHalt then reportAction (haltParty t slot) (coreChannel (coreOf slot)) 0 0 0 (slot % 16) else t
  | _, _ => s

/-- One thread's counter falls, and a failed operation's cause becomes pending (01 R31, 09 R217). -/
def retireThread (s : State) (o : Op) (tid : Nat) : State :=
  match s.party? o.slot, o.cls with
  | some p, some c =>
    let t := (p.thread tid).uncount c
    match o.phase with
    | .failed cause taddr tinfo =>
      let t := { t with pend := t.pend ++ [{ cls := c, cause := cause, taddr := taddr, tinfo := tinfo, op := o.id }] }
      abandonSave (s.setParty o.slot (p.setThread tid t)) o.slot
    | _ => s.setParty o.slot (p.setThread tid t)
  | _, _ => s

/-- An operation leaves its class in every thread that can retire it, and the list once no thread counts it. -/
def retire (s : State) (id : Nat) : State :=
  match s.op? id with
  | none => s
  | some o =>
    let go := if o.cls.isNone then o.live else o.live.filter (canRetire s o)
    let s := go.foldl (fun s tid => retireThread s o tid) s
    let live := o.live.filter fun t => !go.contains t
    if live.isEmpty && (o.phase == .done || (match o.phase with | .failed .. => true | _ => false)) then s.delOp id
    else s.setOp { o with live := live }

/-- sr.tinfo of a memory cause (07 R181): log2 of the size rounded up (7 for 128 bytes or more), write, atomic, uniform (assumption 53, DEDUCED). -/
def memInfo (size : Nat) (write atomic uni : Bool) : Nat :=
  min 7 (ceilLog2 size) + (if write then 8 else 0) + (if atomic then 16 else 0) + (if uni then 32 else 0)

/-- sr.tinfo of a deferred cause: the operation's PC in bits 31:16 (09 R215). -/
def Op.info (o : Op) (x : Nat) : Nat := o.pc.toNat * 65536 + x % 65536

end Sys2Proof.Machine
end

