-- ==== Sys2Proof/Machine/Flags.lean ====
section
/-! DEFINITION. Number formats, rounding and flags (02_number_formats.md R36 to R58). Values are exact: an integer times a
power of two, or a quotient of naturals; one function rounds, for every format, mode and overflow policy. -/

namespace Sys2Proof.Machine

/-! ## Formats (R36, R37) -/

/-- What the all-ones exponent means (R36). -/
inductive Ones where
  | ieee | e4m3 | normal
  deriving DecidableEq, Repr

/-- A floating-point format: exponent bits, fraction bits, bias. -/
structure Fmt where
  e : Nat
  f : Nat
  bias : Nat
  ones : Ones
  deriving DecidableEq, Repr

def Fmt.f64 : Fmt := { e := 11, f := 52, bias := 1023, ones := .ieee }
def Fmt.f32 : Fmt := { e := 8, f := 23, bias := 127, ones := .ieee }
def Fmt.f16 : Fmt := { e := 5, f := 10, bias := 15, ones := .ieee }
def Fmt.bf16 : Fmt := { e := 8, f := 7, bias := 127, ones := .ieee }
def Fmt.e5m2 : Fmt := { e := 5, f := 2, bias := 15, ones := .ieee }
def Fmt.e4m3 : Fmt := { e := 4, f := 3, bias := 7, ones := .e4m3 }
def Fmt.e3m2 : Fmt := { e := 3, f := 2, bias := 3, ones := .normal }
def Fmt.e2m3 : Fmt := { e := 2, f := 3, bias := 1, ones := .normal }
def Fmt.e2m1 : Fmt := { e := 2, f := 1, bias := 1, ones := .normal }

def Fmt.bits (m : Fmt) : Nat := 1 + m.e + m.f
/-- The magnitude of the largest finite value (R37). -/
def Fmt.maxMag (m : Fmt) : Nat :=
  match m.ones with
  | .ieee => (2 ^ m.e - 1) * 2 ^ m.f - 1
  | .e4m3 => 2 ^ (m.e + m.f) - 2
  | .normal => 2 ^ (m.e + m.f) - 1
/-- The magnitude of infinity. -/
def Fmt.infMag (m : Fmt) : Nat := (2 ^ m.e - 1) * 2 ^ m.f
/-- The canonical NaN (R37). -/
def Fmt.nan (m : Fmt) : Nat :=
  match m.ones with
  | .ieee => m.infMag + 2 ^ (m.f - 1)
  | .e4m3 => 2 ^ (m.e + m.f) - 1
  | .normal => 0
def Fmt.signed (m : Fmt) (neg : Bool) (mag : Nat) : Nat := mag + if neg then 2 ^ (m.e + m.f) else 0
/-- The exponent of the least place of a subnormal. -/
def Fmt.qmin (m : Fmt) : Int := 1 - (m.bias : Int) - (m.f : Int)

/-- The value of an encoding: NaN (signalling or not), infinity, or an exact m times 2^ex with its sign. -/
inductive Val where
  | nan (sig : Bool)
  | inf (neg : Bool)
  | fin (neg : Bool) (m : Nat) (ex : Int)
  deriving DecidableEq, Repr

/-- The value of an encoding (R36, R38). -/
def Fmt.decode (m : Fmt) (x : Nat) : Val :=
  let neg := bitOf x (m.e + m.f)
  let ef := fld x m.f m.e
  let fr := fld x 0 m.f
  let mag := fld x 0 (m.e + m.f)
  match m.ones with
  | .ieee =>
    if ef == 2 ^ m.e - 1 then (if fr == 0 then .inf neg else .nan (!bitOf x (m.f - 1)))
    else if ef == 0 then .fin neg fr m.qmin else .fin neg (fr + 2 ^ m.f) (m.qmin + (ef - 1 : Nat))
  | .e4m3 =>
    if mag == 2 ^ (m.e + m.f) - 1 then .nan false
    else if ef == 0 then .fin neg fr m.qmin else .fin neg (fr + 2 ^ m.f) (m.qmin + (ef - 1 : Nat))
  | .normal => if ef == 0 then .fin neg fr m.qmin else .fin neg (fr + 2 ^ m.f) (m.qmin + (ef - 1 : Nat))

def Val.isNan : Val → Bool
  | .nan _ => true
  | .inf _ | .fin .. => false
def Val.isSig : Val → Bool
  | .nan s => s
  | .inf _ | .fin .. => false
def Val.isZero : Val → Bool
  | .fin _ m _ => m == 0
  | .nan _ | .inf _ => false
def Val.isNeg : Val → Bool
  | .fin n _ _ | .inf n => n
  | .nan _ => false
def Val.isInf : Val → Bool
  | .inf _ => true
  | .nan _ | .fin .. => false

/-- A subnormal encoding of a format. -/
def Fmt.subnormal (m : Fmt) (x : Nat) : Bool := fld x m.f m.e == 0 && fld x 0 m.f != 0
/-- A subnormal input of a flushed format is read as a zero of its sign (R40). -/
def Fmt.flushIn (m : Fmt) (fz : Bool) (x : Nat) : Nat :=
  if fz && m.subnormal x then m.signed (bitOf x (m.e + m.f)) 0 else x

/-! ## Flags (01 R29) -/

def Flag.nv : Nat := 16
def Flag.dz : Nat := 8
def Flag.of : Nat := 4
def Flag.uf : Nat := 2
def Flag.nx : Nat := 1

/-! ## Rounding (R41 to R45) -/

/-- Overflow policies (R45). -/
inductive Pol where
  | nonsat | satfinite
  deriving DecidableEq, Repr

/-- Whether a remainder rem / den above n rounds up, by mode (R42, R43). -/
def roundsUp (rm draw : Nat) (neg : Bool) (n rem den : Nat) : Bool :=
  match rm with
  | 1 => den < 2 * rem || (den == 2 * rem && n % 2 == 1)
  | 2 => false
  | 3 => rem != 0 && !neg
  | 4 => rem != 0 && neg
  | 5 => den ≤ 2 * rem
  | _ => draw < rem * 2 ^ 32 / den

/-- num / den in units of 2^q, as a quotient and remainder over a divisor. -/
def scaleQ (num den : Nat) (q : Int) : Nat × Nat × Nat :=
  let d := if 0 ≤ q then den * 2 ^ q.toNat else den
  let n := if 0 ≤ q then num else num * 2 ^ (-q).toNat
  (n / d, n % d, d)

/-- floor(log2(num / den)) of a positive quotient. -/
def floorLog (num den : Nat) : Int :=
  let g : Int := (Nat.log2 num : Int) - (Nat.log2 den : Int)
  let (n, _, _) := scaleQ num den g
  if n == 0 then g - 1 else g

/-- The result of an overflow by policy and mode (R45). -/
def overflow (m : Fmt) (pol : Pol) (rm : Nat) (neg : Bool) : Nat × Nat :=
  match pol, m.ones with
  | .satfinite, _ => (m.signed neg m.maxMag, Flag.of + Flag.nx)
  | .nonsat, .e4m3 => (m.nan, Flag.nv)
  | .nonsat, .normal => (m.signed neg m.maxMag, Flag.of + Flag.nx)
  | .nonsat, .ieee =>
    let inf := match rm with | 2 => false | 3 => !neg | 4 => neg | _ => true
    (m.signed neg (if inf then m.infMag else m.maxMag), Flag.of + Flag.nx)

/-- A positive quotient with a sign, rounded once to a format: encoding and flags (R41 to R45). -/
def roundMag (m : Fmt) (pol : Pol) (rm draw : Nat) (flush neg : Bool) (num den : Nat) : Nat × Nat :=
  let e := floorLog num den
  let q := max (e - m.f) m.qmin
  let (n, rem, d) := scaleQ num den q
  let n' := if roundsUp rm draw neg n rem d then n + 1 else n
  let mag := (q - m.qmin).toNat * 2 ^ m.f + n'
  let inexact := rem != 0
  let (u, urem, ud) := scaleQ num den (e - m.f)
  let u' := if roundsUp rm draw neg u urem ud then u + 1 else u
  let tiny := e < 1 - m.bias && !(e == -(m.bias : Int) && u' == 2 ^ (m.f + 1))
  if m.maxMag < mag then overflow m pol rm neg
  else if flush && tiny then (m.signed neg 0, Flag.uf + Flag.nx)
  else
    (m.signed neg mag, (if inexact then Flag.nx else 0) + (if tiny && inexact then Flag.uf else 0))

/-- An exact value m times 2^ex as a quotient. -/
def quot (m : Nat) (ex : Int) : Nat × Nat := if 0 ≤ ex then (m * 2 ^ ex.toNat, 1) else (m, 2 ^ (-ex).toNat)

/-- An exact finite value rounded; a zero keeps its sign (R39). -/
def roundFin (m : Fmt) (pol : Pol) (rm draw : Nat) (flush neg : Bool) (k : Nat) (ex : Int) : Nat × Nat :=
  if k = 0 then (m.signed neg 0, 0)
  else let (num, den) := quot k ex; roundMag m pol rm draw flush neg num den

/-- A quotient rounded to an integer by mode: the magnitude, and whether it was inexact. -/
def roundInt (rm draw : Nat) (neg : Bool) (num den : Nat) : Nat × Bool :=
  let n := num / den
  let rem := num % den
  (if roundsUp rm draw neg n rem den then n + 1 else n, rem != 0)

/-! ## Exact arithmetic -/

/-- A signed integer times a power of two. -/
structure Ex where
  m : Int
  ex : Int
  deriving DecidableEq, Repr

def Ex.ofFin (neg : Bool) (m : Nat) (ex : Int) : Ex := { m := if neg then -(m : Int) else m, ex := ex }
def Ex.mul (a b : Ex) : Ex := { m := a.m * b.m, ex := a.ex + b.ex }
def Ex.add (a b : Ex) : Ex :=
  let e := min a.ex b.ex
  { m := a.m * 2 ^ (a.ex - e).toNat + b.m * 2 ^ (b.ex - e).toNat, ex := e }
def Ex.neg (a : Ex) : Ex := { a with m := -a.m }
/-- a < b exactly. -/
def Ex.lt (a b : Ex) : Bool := (a.add b.neg).m < 0
def Val.ex : Val → Ex
  | .fin n m e => .ofFin n m e
  | .inf _ | .nan _ => { m := 0, ex := 0 }

/-- The sign of an exact zero sum of two zeros or of opposite values: -0 under RD, +0 otherwise, and the common sign of
two zeros (R39). -/
def zeroSign (rm : Nat) (aNeg bNeg : Bool) : Bool := if aNeg == bNeg then aNeg else rm == 4

/-- A sum or a fused multiply-add rounded once (05 R110, R111): the product's value and sign, and the addend. -/
def addVals (m : Fmt) (pol : Pol) (rm draw : Nat) (flush : Bool) (x y : Val) : Nat × Nat :=
  match x, y with
  | .nan s, v => (m.nan, if s || v.isSig then Flag.nv else 0)
  | _, .nan s => (m.nan, if s then Flag.nv else 0)
  | .inf a, .inf b => if a == b then (m.signed a m.infMag, 0) else (m.nan, Flag.nv)
  | .inf a, .fin .. => (m.signed a m.infMag, 0)
  | .fin .., .inf b => (m.signed b m.infMag, 0)
  | .fin na ma ea, .fin nb mb eb =>
    let r := (Ex.ofFin na ma ea).add (.ofFin nb mb eb)
    if r.m == 0 then (m.signed (zeroSign rm na nb) 0, 0)
    else roundFin m pol rm draw flush (r.m < 0) r.m.natAbs r.ex

/-- An exact product of two values; NaN where 0 meets infinity, signalling where NV is due (05 R111). -/
def mulVals (x y : Val) : Val :=
  match x, y with
  | .nan a, v => .nan (a || v.isSig)
  | _, .nan b => .nan b
  | .inf a, v => if v.isZero then .nan true else .inf (a != v.isNeg)
  | u, .inf b => if u.isZero then .nan true else .inf (u.isNeg != b)
  | .fin a ma ea, .fin b mb eb => .fin (a != b) (ma * mb) (ea + eb)

/-- A product rounded. -/
def roundVal (m : Fmt) (pol : Pol) (rm draw : Nat) (flush : Bool) : Val → Nat × Nat
  | .nan s => (m.nan, if s then Flag.nv else 0)
  | .inf n => (m.signed n m.infMag, 0)
  | .fin n k ex => roundFin m pol rm draw flush n k ex

/-- Multiply-add rounded once: 0 times infinity raises NV whatever the addend, and a signalling operand does (05 R111). -/
def fmaVals (m : Fmt) (pol : Pol) (rm draw : Nat) (flush : Bool) (x y z : Val) : Nat × Nat :=
  addVals m pol rm draw flush (mulVals x y) z

/-- A value times 2^e. -/
def Val.mulPow (v : Val) (e : Int) : Val :=
  match v with
  | .fin neg m ex => .fin neg m (ex + e)
  | .inf _ | .nan _ => v

def Val.negate : Val → Val
  | .nan s => .nan s
  | .inf n => .inf !n
  | .fin n m e => .fin (!n) m e

/-- A quotient rounded once (05 R113). -/
def divVals (m : Fmt) (rm draw : Nat) (flush : Bool) (x y : Val) : Nat × Nat :=
  match x, y with
  | .nan s, v => (m.nan, if s || v.isSig then Flag.nv else 0)
  | _, .nan s => (m.nan, if s then Flag.nv else 0)
  | .inf _, .inf _ => (m.nan, Flag.nv)
  | .inf a, .fin b _ _ => (m.signed (a != b) m.infMag, 0)
  | .fin a _ _, .inf b => (m.signed (a != b) 0, 0)
  | .fin a ma ea, .fin b mb eb =>
    if mb == 0 then (if ma == 0 then (m.nan, Flag.nv) else (m.signed (a != b) m.infMag, Flag.dz))
    else if ma == 0 then (m.signed (a != b) 0, 0)
    else
      let e := ea - eb
      roundMag m .nonsat rm draw flush (a != b) (if 0 ≤ e then ma * 2 ^ e.toNat else ma)
        (if 0 ≤ e then mb else mb * 2 ^ (-e).toNat)

/-- Integer square root, one result bit per unit of fuel from bit k down. -/
def isqrtFrom (n : Nat) : Nat → Nat → Nat
  | 0, r => r
  | k + 1, r => let t := r + 2 ^ k; isqrtFrom n k (if t * t ≤ n then t else r)
def isqrt (n : Nat) : Nat := isqrtFrom n (Nat.log2 n / 2 + 1) 0

/-- The square root of a positive m times 2^ex as a quotient exact enough to round: 128 or more bits of the root and a
sticky bit below them. -/
def sqrtQuot (m : Nat) (ex : Int) : Nat × Nat :=
  let k : Nat := 256 + (if ex % 2 == 0 then 0 else 1)
  let n := m * 2 ^ k
  let r := isqrt n
  let e := (ex - k) / 2
  quot (2 * r + if r * r == n then 0 else 1) (e - 1)

/-- A square root rounded once (05 R113, R115). -/
def sqrtVal (m : Fmt) (rm draw : Nat) (flush : Bool) : Val → Nat × Nat
  | .nan s => (m.nan, if s then Flag.nv else 0)
  | .inf n => if n then (m.nan, Flag.nv) else (m.infMag, 0)
  | .fin n k ex =>
    if k == 0 then (m.signed n 0, 0)
    else if n then (m.nan, Flag.nv)
    else let (num, den) := sqrtQuot k ex; roundMag m .nonsat rm draw flush false num den

/-- a < b for two values that are no NaN, -0 equal to +0. -/
def Val.lt (x y : Val) : Bool :=
  match x, y with
  | .inf a, .inf b => a && !b
  | .inf a, _ => a
  | _, .inf b => !b
  | x, y => x.ex.lt y.ex

/-- Minimum or maximum (05 R116): the operand chosen, or the canonical NaN, and NV for a signalling operand. -/
def minMax (m : Fmt) (wantMax : Bool) (x y : Nat) : Nat × Nat :=
  let a := m.decode x
  let b := m.decode y
  let fl := if a.isSig || b.isSig then Flag.nv else 0
  if a.isNan then (if b.isNan then m.nan else y, fl)
  else if b.isNan then (x, fl)
  else
    let less := a.lt b || (!b.lt a && a.isNeg && !b.isNeg)
    (if less != wantMax then x else if (b.lt a || (!a.lt b && b.isNeg && !a.isNeg)) != wantMax then y else x, fl)

/-- Rounding to an integral value of the same format (05 R120). -/
def roundIntegral (m : Fmt) (rm draw : Nat) (x : Nat) : Nat × Nat :=
  match m.decode x with
  | .nan s => (m.nan, if s then Flag.nv else 0)
  | .inf _ => (x, 0)
  | .fin n k ex =>
    if 0 ≤ ex || k == 0 then (x, 0)
    else
      let (num, den) := quot k ex
      let (i, _) := roundInt rm draw n num den
      ((roundFin m .nonsat 2 0 false n i 0).1, 0)

/-- A value as an integer of n bits (R46): the wrapped result and the flags. -/
def toIntN (rm draw n : Nat) (signed : Bool) : Val → Nat × Nat
  | .nan _ => (0, Flag.nv)
  | .inf neg =>
    (if neg then (if signed then 2 ^ (n - 1) else 0) else (if signed then 2 ^ (n - 1) - 1 else 2 ^ n - 1), Flag.nv)
  | .fin neg k ex =>
    let (num, den) := quot k ex
    let (i, inx) := roundInt rm draw neg num den
    let v : Int := if neg then -(i : Int) else i
    let lo : Int := if signed then -(2 ^ (n - 1) : Nat) else 0
    let hi : Int := if signed then (2 ^ (n - 1) : Nat) - 1 else (2 ^ n : Nat) - 1
    if v < lo then (wrap lo n, Flag.nv) else if hi < v then (wrap hi n, Flag.nv)
    else (wrap v n, if inx then Flag.nx else 0)

/-! ## sr.fpcsr fields (01 R29) -/

def fzBf (fp : Nat) : Bool := bitOf fp 10
def fz16 (fp : Nat) : Bool := bitOf fp 9
def fz32 (fp : Nat) : Bool := bitOf fp 8
def nvtOf (fp : Nat) : Bool := bitOf fp 11
/-- The rounding mode of an instruction: its own, or RND (R42). -/
def modeOf (rm fp : Nat) : Nat := if rm == 0 then fld fp 5 3 else rm
/-- Whether a format is flushed under sr.fpcsr (R40). -/
def flushes (fp : Nat) (m : Fmt) : Bool :=
  if m == .f32 then fz32 fp else if m == .f16 then fz16 fp else if m == .bf16 then fzBf fp else false

/-! ## RNDC (04 R100, R102) -/

def rotl64 (x n : Nat) : Nat := (x * 2 ^ (n % 64) % 2 ^ 64) + x % 2 ^ 64 / 2 ^ (64 - n % 64)

/-- One round of the generator. -/
def rndcRound (key v i : Nat) : Nat :=
  let v := (v + rotl64 key (11 * i % 64) + (i + 1) * 0xA5C396E14F2B8D37) % 2 ^ 64
  let v := Nat.xor v (v / 2 ^ 29)
  let v := v * 0xE7D13B59C26A0F93 % 2 ^ 64
  Nat.xor v (v / 2 ^ 32)

/-- rndc(K, n) (R100). -/
def rndc (key n : Nat) : Nat := (upTo 10).foldl (rndcRound key) (n % 2 ^ 64)

/-- The key of a thread's stochastic-rounding stream (R102). -/
def streamKey (seed blin pidx tid : Nat) : Nat := rndc seed (((blin * 128 + pidx) * 64 + tid) % 2 ^ 64)

/-- The k-th next draw of a thread (R102). -/
def drawOf (seed : Nat) (v : View) (k : Nat) : Nat :=
  rndc (streamKey seed v.party.blin v.party.pidx v.tid) ((v.thread.draw.toNat + k) % 2 ^ 64) % 2 ^ 32

/-! ## Element formats of slots (R56, R57) -/

def slotEfmt (w : Nat) : Nat := fld w 0 8
def slotMx (w : Nat) : Bool := fld w 8 4 == 1 && fld w 12 3 == 1
def slotPlanes (w : Nat) : Nat := fld w 15 4
def slotSgn (w : Nat) : Bool := bitOf w 19
def slotSat (w : Nat) : Nat := fld w 20 2
/-- The float format of an element code (R57), none for integers. -/
def efmtFloat (e : Nat) : Option Fmt :=
  match e with
  | 1 => some .f64 | 2 => some .f32 | 3 => some .f16 | 4 => some .bf16 | 5 => some .e4m3 | 6 => some .e5m2
  | 7 => some .e3m2 | 8 => some .e2m3 | 9 => some .e2m1 | _ => none
/-- Element bits. -/
def efmtBits (e planes : Nat) : Nat :=
  match e with
  | 1 => 64 | 2 | 12 => 32 | 3 | 4 | 11 => 16 | 5 | 6 | 10 => 8 | 7 | 8 => 6 | 9 => 4 | _ => planes
/-- emax of a microscaling element (R49). -/
def mxEmax (e : Nat) : Int :=
  match e with
  | 5 => 8 | 6 => 15 | 7 => 4 | 8 => 2 | 9 => 2 | _ => 0

/-- A slot word passes validation (R57, R58). -/
def slotOk (w : Nat) : Bool :=
  let e := slotEfmt w
  let sf := fld w 8 4
  let blk := fld w 12 3
  let pl := slotPlanes w
  let sgn := slotSgn w
  let sat := slotSat w
  let plain := sf == 0 && blk == 0
  let mx := sf == 1 && blk == 1
  w == 0 || (fld w 22 10 == 0 &&
    match e with
    | 1 => plain && sat == 1 && !sgn && pl == 0
    | 2 | 3 | 4 => plain && sat ≤ 1 && !sgn && pl == 0
    | 5 | 6 => ((plain && sat ≤ 1) || (mx && sat == 0)) && !sgn && pl == 0
    | 7 | 8 | 9 => mx && sat == 0 && !sgn && pl == 0
    | 10 => ((plain && (sat == 0 || sat == 2)) || (mx && sat == 0 && sgn)) && pl == 0
    | 11 | 12 => plain && (sat == 0 || sat == 2) && pl == 0
    | 13 => plain && (sat == 0 || sat == 2) && 2 ≤ pl && pl ≤ 8
    | _ => false)

end Sys2Proof.Machine
end

