-- ==== Sys2Proof/Machine/Integer.lean ====
section
/-! DEFINITION. Integer and bit instructions (04_integer_bit.md R86 to R106): the value each form computes, as a function
of its operands, and the lane and uniform instructions over those values. -/

namespace Sys2Proof.Machine

/-! ## Values (R88 to R101) -/

/-- The low 32 bits. -/
def lo32 (x : Nat) : Nat := x % 2 ^ 32
/-- The low 64 bits. -/
def lo64 (x : Nat) : Nat := x % 2 ^ 64
/-- A 32-bit operand as signed. -/
def s32 (x : Nat) : Int := sint x 32
/-- A truth value as a compare writes it (R98). -/
def bit (b : Bool) : Nat := if b then 1 else 0

def iaddVal (o : Opnds) : Nat := lo32 (o.a + o.b)
def isubVal (o : Opnds) : Nat := wrap ((o.a : Int) - o.b) 32
def iadd64Val (o : Opnds) : Nat := lo64 (o.a + o.b)
def isub64Val (o : Opnds) : Nat := wrap ((o.a : Int) - o.b) 64
def imulVal (o : Opnds) : Nat := lo32 (o.a * o.b)
def imulhiVal (o : Opnds) : Nat := wrap (s32 o.a * s32 o.b) 64 / 2 ^ 32
def nmulhiVal (o : Opnds) : Nat := lo32 (o.a * o.b / 2 ^ 32)
def imadVal (o : Opnds) : Nat := lo32 (o.a * o.b + o.c)
def umadVal (o : Opnds) : Nat := lo32 (o.a * o.b + o.d)
def nmad64Val (o : Opnds) : Nat := lo64 (o.a * o.b + o.c)
/-- R89: a zero divisor gives all ones. -/
def ndivVal (o : Opnds) : Nat := if o.b == 0 then 0xFFFFFFFF else o.a / o.b
/-- R89: a zero divisor gives the dividend. -/
def nremVal (o : Opnds) : Nat := if o.b == 0 then o.a else o.a % o.b
def iminVal (o : Opnds) : Nat := if s32 o.a ≤ s32 o.b then o.a else o.b
def imaxVal (o : Opnds) : Nat := if s32 o.b ≤ s32 o.a then o.a else o.b
def nminVal (o : Opnds) : Nat := if o.a ≤ o.b then o.a else o.b
def nmaxVal (o : Opnds) : Nat := if o.b ≤ o.a then o.a else o.b
def iaddsVal (o : Opnds) : Nat := wrap (satInt (s32 o.a + s32 o.b) (-2 ^ 31) (2 ^ 31 - 1)) 32
def andVal (o : Opnds) : Nat := Nat.land o.a o.b
def orVal (o : Opnds) : Nat := Nat.lor o.a o.b
def xorVal (o : Opnds) : Nat := Nat.xor o.a o.b
def andnVal (o : Opnds) : Nat := Nat.land o.a (2 ^ 32 - 1 - lo32 o.b)
/-- R90: the count of a shift is the whole of B. -/
def shlVal (o : Opnds) : Nat := if 32 ≤ o.b then 0 else lo32 (o.a * 2 ^ o.b)
def shrVal (o : Opnds) : Nat := if 32 ≤ o.b then 0 else o.a / 2 ^ o.b
/-- R90: a floor shift. -/
def sraVal (o : Opnds) : Nat := if 32 ≤ o.b then (if bitOf o.a 31 then 0xFFFFFFFF else 0) else wrap (s32 o.a / 2 ^ o.b) 32
def rotlVal (o : Opnds) : Nat := let n := o.b % 32; lo32 (o.a * 2 ^ n) + o.a / 2 ^ (32 - n)
/-- R91: bits of B:A from C[5:0] up. -/
def funshVal (o : Opnds) : Nat := lo32 ((o.b * 2 ^ 32 + o.a) / 2 ^ (o.c % 64))
/-- The number of 1 bits among the low n. -/
def popBits (x : Nat) : Nat → Nat
  | 0 => 0
  | n + 1 => popBits x n + if bitOf x n then 1 else 0
def popcVal (o : Opnds) : Nat := popBits o.a 32
/-- The number of 0 bits above the highest 1 among the low n bits. -/
def clzBits (x : Nat) : Nat → Nat
  | 0 => 0
  | n + 1 => if bitOf x n then 0 else 1 + clzBits x n
def clzVal (o : Opnds) : Nat := clzBits o.a 32
/-- Bits i of a result given by f, for i below n. -/
def ofBits (f : Nat → Bool) : Nat → Nat
  | 0 => 0
  | n + 1 => ofBits f n + if f n then 2 ^ n else 0
def brevVal (o : Opnds) : Nat := ofBits (fun i => bitOf o.a (31 - i)) 32
/-- The effective length of a field control (R94). -/
def fieldLen (ctl : Nat) : Nat := if 32 ≤ fld ctl 0 8 then 0 else min (fld ctl 8 8) (32 - fld ctl 0 8)
def bfxVal (o : Opnds) : Nat :=
  let n := fieldLen o.b
  let f := fld o.a (fld o.b 0 8) n
  if n == 0 then 0 else if bitOf o.b 16 then wrap (sint f n) 32 else f
def bfiVal (o : Opnds) : Nat :=
  let n := fieldLen o.c
  if n == 0 then o.a else setFld o.a (fld o.c 0 8) n o.b
/-- R95 from bit i up, k bits of the packed side used. -/
def bdepFrom (a m : Nat) : Nat → Nat → Nat → Nat
  | 0, _, _ => 0
  | n + 1, i, k =>
    if bitOf m i then (if bitOf a k then 2 ^ i else 0) + bdepFrom a m n (i + 1) (k + 1) else bdepFrom a m n (i + 1) k
def bextFrom (a m : Nat) : Nat → Nat → Nat → Nat
  | 0, _, _ => 0
  | n + 1, i, k =>
    if bitOf m i then (if bitOf a i then 2 ^ k else 0) + bextFrom a m n (i + 1) (k + 1) else bextFrom a m n (i + 1) k
def bdepVal (o : Opnds) : Nat := bdepFrom o.a o.b 64 0 0
def bextVal (o : Opnds) : Nat := bextFrom o.a o.b 64 0 0
/-- R96: ctl holds the 64 six-bit indices. -/
def bpermBits (a ctl : Nat) : Nat := ofBits (fun i => bitOf a (fld ctl (6 * i) 6)) 64
/-- R97: row i of A selects rows of B. -/
def bmm8Val (o : Opnds) : Nat :=
  ofBits (fun n => (upTo 8).foldl (fun r k => r != (bitOf o.a (8 * (n / 8) + k) && bitOf o.b (8 * k + n % 8))) false) 64
def ieqVal (o : Opnds) : Nat := bit (o.a == o.b)
def ineVal (o : Opnds) : Nat := bit (o.a != o.b)
def iltVal (o : Opnds) : Nat := bit (s32 o.a < s32 o.b)
def ileVal (o : Opnds) : Nat := bit (s32 o.a ≤ s32 o.b)
def nltVal (o : Opnds) : Nat := bit (o.a < o.b)
def nleVal (o : Opnds) : Nat := bit (o.a ≤ o.b)
def selVal (o : Opnds) : Nat := if o.c != 0 then o.a else o.b
def uselVal (o : Opnds) : Nat := if o.d != 0 then o.a else o.b
/-- R99. -/
def liVal (imm : BitVec 16) : Nat := wrap imm.toInt 32
def lihVal (imm : BitVec 16) (o : Opnds) : Nat := imm.toNat * 2 ^ 16 + o.d % 2 ^ 16
def rndcVal (o : Opnds) : Nat := rndc o.a o.b

/-! ## Lane instructions (R87): true marks the A pipe, which writes lat -/

/-- IADD (R88). -/
def execIadd (d a b : BitVec 8) (s : State) : Host.Outcome State Fault Refusal :=
  runInt s (.iadd d a b) true iaddVal
/-- ISUB (R88). -/
def execIsub (d a b : BitVec 8) (s : State) : Host.Outcome State Fault Refusal :=
  runInt s (.isub d a b) true isubVal
/-- IADD64 (R88). -/
def execIadd64 (d a b : BitVec 8) (s : State) : Host.Outcome State Fault Refusal :=
  runInt s (.iadd64 d a b) true iadd64Val
/-- ISUB64 (R88). -/
def execIsub64 (d a b : BitVec 8) (s : State) : Host.Outcome State Fault Refusal :=
  runInt s (.isub64 d a b) true isub64Val
/-- IMUL (R88). -/
def execImul (d a b : BitVec 8) (s : State) : Host.Outcome State Fault Refusal :=
  runInt s (.imul d a b) true imulVal
/-- IMULHI (R88). -/
def execImulhi (d a b : BitVec 8) (s : State) : Host.Outcome State Fault Refusal :=
  runInt s (.imulhi d a b) true imulhiVal
/-- NMULHI (R88). -/
def execNmulhi (d a b : BitVec 8) (s : State) : Host.Outcome State Fault Refusal :=
  runInt s (.nmulhi d a b) true nmulhiVal
/-- IMAD (R88). -/
def execImad (d a b : BitVec 8) (s : State) : Host.Outcome State Fault Refusal :=
  runInt s (.imad d a b) true imadVal
/-- NMAD64 (R88). -/
def execNmad64 (d a b : BitVec 8) (s : State) : Host.Outcome State Fault Refusal :=
  runInt s (.nmad64 d a b) true nmad64Val
/-- NDIV (R89). -/
def execNdiv (d a b : BitVec 8) (s : State) : Host.Outcome State Fault Refusal :=
  runInt s (.ndiv d a b) false ndivVal
/-- NREM (R89). -/
def execNrem (d a b : BitVec 8) (s : State) : Host.Outcome State Fault Refusal :=
  runInt s (.nrem d a b) false nremVal
/-- IMIN (R88). -/
def execImin (d a b : BitVec 8) (s : State) : Host.Outcome State Fault Refusal :=
  runInt s (.imin d a b) true iminVal
/-- IMAX (R88). -/
def execImax (d a b : BitVec 8) (s : State) : Host.Outcome State Fault Refusal :=
  runInt s (.imax d a b) true imaxVal
/-- NMIN (R88). -/
def execNmin (d a b : BitVec 8) (s : State) : Host.Outcome State Fault Refusal :=
  runInt s (.nmin d a b) true nminVal
/-- NMAX (R88). -/
def execNmax (d a b : BitVec 8) (s : State) : Host.Outcome State Fault Refusal :=
  runInt s (.nmax d a b) true nmaxVal
/-- IADDS (R88). -/
def execIadds (d a b : BitVec 8) (s : State) : Host.Outcome State Fault Refusal :=
  runInt s (.iadds d a b) true iaddsVal
/-- AND (R90). -/
def execAnd (d a b : BitVec 8) (s : State) : Host.Outcome State Fault Refusal :=
  runInt s (.and d a b) true andVal
/-- OR (R90). -/
def execOr (d a b : BitVec 8) (s : State) : Host.Outcome State Fault Refusal :=
  runInt s (.or d a b) true orVal
/-- XOR (R90). -/
def execXor (d a b : BitVec 8) (s : State) : Host.Outcome State Fault Refusal :=
  runInt s (.xor d a b) true xorVal
/-- ANDN (R90). -/
def execAndn (d a b : BitVec 8) (s : State) : Host.Outcome State Fault Refusal :=
  runInt s (.andn d a b) true andnVal
/-- SHL (R90). -/
def execShl (d a b : BitVec 8) (s : State) : Host.Outcome State Fault Refusal :=
  runInt s (.shl d a b) true shlVal
/-- SHR (R90). -/
def execShr (d a b : BitVec 8) (s : State) : Host.Outcome State Fault Refusal :=
  runInt s (.shr d a b) true shrVal
/-- SRA (R90). -/
def execSra (d a b : BitVec 8) (s : State) : Host.Outcome State Fault Refusal :=
  runInt s (.sra d a b) true sraVal
/-- ROTL (R90). -/
def execRotl (d a b : BitVec 8) (s : State) : Host.Outcome State Fault Refusal :=
  runInt s (.rotl d a b) true rotlVal
/-- FUNSH (R91). -/
def execFunsh (d a b : BitVec 8) (s : State) : Host.Outcome State Fault Refusal :=
  runInt s (.funsh d a b) true funshVal
/-- POPC (R92). -/
def execPopc (d a b : BitVec 8) (s : State) : Host.Outcome State Fault Refusal :=
  runInt s (.popc d a b) true popcVal
/-- CLZ (R92). -/
def execClz (d a b : BitVec 8) (s : State) : Host.Outcome State Fault Refusal :=
  runInt s (.clz d a b) true clzVal
/-- BREV (R92). -/
def execBrev (d a b : BitVec 8) (s : State) : Host.Outcome State Fault Refusal :=
  runInt s (.brev d a b) true brevVal
/-- BFX (R94). -/
def execBfx (d a b : BitVec 8) (s : State) : Host.Outcome State Fault Refusal :=
  runInt s (.bfx d a b) true bfxVal
/-- BFI (R94). -/
def execBfi (d a b : BitVec 8) (s : State) : Host.Outcome State Fault Refusal :=
  runInt s (.bfi d a b) true bfiVal
/-- BDEP (R95). -/
def execBdep (d a b : BitVec 8) (s : State) : Host.Outcome State Fault Refusal :=
  runInt s (.bdep d a b) true bdepVal
/-- BEXT (R95). -/
def execBext (d a b : BitVec 8) (s : State) : Host.Outcome State Fault Refusal :=
  runInt s (.bext d a b) true bextVal
/-- BMM8 (R97). -/
def execBmm8 (d a b : BitVec 8) (s : State) : Host.Outcome State Fault Refusal :=
  runInt s (.bmm8 d a b) false bmm8Val
/-- IEQ (R98). -/
def execIeq (d a b : BitVec 8) (s : State) : Host.Outcome State Fault Refusal :=
  runInt s (.ieq d a b) true ieqVal
/-- INE (R98). -/
def execIne (d a b : BitVec 8) (s : State) : Host.Outcome State Fault Refusal :=
  runInt s (.ine d a b) true ineVal
/-- ILT (R98). -/
def execIlt (d a b : BitVec 8) (s : State) : Host.Outcome State Fault Refusal :=
  runInt s (.ilt d a b) true iltVal
/-- ILE (R98). -/
def execIle (d a b : BitVec 8) (s : State) : Host.Outcome State Fault Refusal :=
  runInt s (.ile d a b) true ileVal
/-- NLT (R98). -/
def execNlt (d a b : BitVec 8) (s : State) : Host.Outcome State Fault Refusal :=
  runInt s (.nlt d a b) true nltVal
/-- NLE (R98). -/
def execNle (d a b : BitVec 8) (s : State) : Host.Outcome State Fault Refusal :=
  runInt s (.nle d a b) true nleVal
/-- SEL (R98). -/
def execSel (d a b : BitVec 8) (s : State) : Host.Outcome State Fault Refusal :=
  runInt s (.sel d a b) true selVal
/-- RNDC (R101). -/
def execRndc (d a b : BitVec 8) (s : State) : Host.Outcome State Fault Refusal :=
  runInt s (.rndc d a b) false rndcVal
/-- LI (R99). -/
def execLi (d : BitVec 8) (imm : BitVec 16) (s : State) : Host.Outcome State Fault Refusal :=
  runInt s (.li d imm) true fun _ => liVal imm
/-- LIH (R99). -/
def execLih (d : BitVec 8) (imm : BitVec 16) (s : State) : Host.Outcome State Fault Refusal :=
  runInt s (.lih d imm) true (lihVal imm)

/-- BPERM's check of its B operand (R96): a cause for every thread of the group, with the operand's index. -/
def bpermCheck (r : Reg) : Option Trap :=
  match r with
  | .w n => if 148 < n then some { cause := Cause.opndKind, tinfo := 2 }
            else if n % 4 != 0 then some { cause := Cause.regAlign } else none
  | .v _ | .o _ | .lat | .z | .tid | .h _ | .g _ | .special _ => some { cause := Cause.opndKind, tinfo := 2 }
/-- The 384 bits of the twelve w registers from one up. -/
def bpermCtl (v : View) (r : Reg) : Nat :=
  (upTo 12).foldl (fun x k => x + 2 ^ (32 * k) * readWord v (r.up k)) 0
/-- BPERM (R96). -/
def execBperm (d a b : BitVec 8) (s : State) : Host.Outcome State Fault Refusal :=
  runWord s (.bperm d a b) fun cx s =>
    match bpermCheck cx.breg with
    | some tr => cx.trapAll s tr
    | none =>
      let op := fun v (o : Opnds) => LaneRes.val (bpermBits o.a (bpermCtl v cx.breg)) 0 0
      (cx.withG cx.dwidth (cx.aluGives op s.ref)).mapGroup s (cx.aluThread false op s.ref)

/-! ## Uniform instructions (R104) -/

/-- UADD (R104). -/
def execUadd (d a b : BitVec 8) (s : State) : Host.Outcome State Fault Refusal :=
  runUni s (.uadd d a b) iaddVal
/-- USUB (R104). -/
def execUsub (d a b : BitVec 8) (s : State) : Host.Outcome State Fault Refusal :=
  runUni s (.usub d a b) isubVal
/-- UADD64 (R104). -/
def execUadd64 (d a b : BitVec 8) (s : State) : Host.Outcome State Fault Refusal :=
  runUni s (.uadd64 d a b) iadd64Val
/-- UMUL (R104). -/
def execUmul (d a b : BitVec 8) (s : State) : Host.Outcome State Fault Refusal :=
  runUni s (.umul d a b) imulVal
/-- UMAD (R104). -/
def execUmad (d a b : BitVec 8) (s : State) : Host.Outcome State Fault Refusal :=
  runUni s (.umad d a b) umadVal
/-- UAND (R104). -/
def execUand (d a b : BitVec 8) (s : State) : Host.Outcome State Fault Refusal :=
  runUni s (.uand d a b) andVal
/-- UOR (R104). -/
def execUor (d a b : BitVec 8) (s : State) : Host.Outcome State Fault Refusal :=
  runUni s (.uor d a b) orVal
/-- UXOR (R104). -/
def execUxor (d a b : BitVec 8) (s : State) : Host.Outcome State Fault Refusal :=
  runUni s (.uxor d a b) xorVal
/-- USHL (R104). -/
def execUshl (d a b : BitVec 8) (s : State) : Host.Outcome State Fault Refusal :=
  runUni s (.ushl d a b) shlVal
/-- USHR (R104). -/
def execUshr (d a b : BitVec 8) (s : State) : Host.Outcome State Fault Refusal :=
  runUni s (.ushr d a b) shrVal
/-- USRA (R104). -/
def execUsra (d a b : BitVec 8) (s : State) : Host.Outcome State Fault Refusal :=
  runUni s (.usra d a b) sraVal
/-- UPOPC (R104). -/
def execUpopc (d a b : BitVec 8) (s : State) : Host.Outcome State Fault Refusal :=
  runUni s (.upopc d a b) popcVal
/-- UCLZ (R104). -/
def execUclz (d a b : BitVec 8) (s : State) : Host.Outcome State Fault Refusal :=
  runUni s (.uclz d a b) clzVal
/-- UEQ (R104). -/
def execUeq (d a b : BitVec 8) (s : State) : Host.Outcome State Fault Refusal :=
  runUni s (.ueq d a b) ieqVal
/-- UNE (R104). -/
def execUne (d a b : BitVec 8) (s : State) : Host.Outcome State Fault Refusal :=
  runUni s (.une d a b) ineVal
/-- ULT (R104). -/
def execUlt (d a b : BitVec 8) (s : State) : Host.Outcome State Fault Refusal :=
  runUni s (.ult d a b) iltVal
/-- ULE (R104). -/
def execUle (d a b : BitVec 8) (s : State) : Host.Outcome State Fault Refusal :=
  runUni s (.ule d a b) ileVal
/-- UNLT (R104). -/
def execUnlt (d a b : BitVec 8) (s : State) : Host.Outcome State Fault Refusal :=
  runUni s (.unlt d a b) nltVal
/-- UNLE (R104). -/
def execUnle (d a b : BitVec 8) (s : State) : Host.Outcome State Fault Refusal :=
  runUni s (.unle d a b) nleVal
/-- USEL (R104). -/
def execUsel (d a b : BitVec 8) (s : State) : Host.Outcome State Fault Refusal :=
  runUni s (.usel d a b) uselVal
/-- UMIN (R104). -/
def execUmin (d a b : BitVec 8) (s : State) : Host.Outcome State Fault Refusal :=
  runUni s (.umin d a b) iminVal
/-- UMAX (R104). -/
def execUmax (d a b : BitVec 8) (s : State) : Host.Outcome State Fault Refusal :=
  runUni s (.umax d a b) imaxVal
/-- ULI (R104). -/
def execUli (d : BitVec 8) (imm : BitVec 16) (s : State) : Host.Outcome State Fault Refusal :=
  runUni s (.uli d imm) fun _ => liVal imm
/-- ULIH (R104). -/
def execUlih (d : BitVec 8) (imm : BitVec 16) (s : State) : Host.Outcome State Fault Refusal :=
  runUni s (.ulih d imm) (lihVal imm)

end Sys2Proof.Machine
end

