-- ==== Sys2Proof/Machine/Special.lean ====
section
/-! DEFINITION. The accuracy that 05_float.md R114 asks of SFN codes 1 and 3 to 7: for a finite input, two exact bounds between
which the function's value lies, found by integer arithmetic, and how far from that value a result may be. -/

namespace Sys2Proof.Machine

/-- A function's value lies between two exact numbers, and a result within tol of it. -/
structure Near where
  lo : Ex
  hi : Ex
  tol : Ex

/-- An exact power of two. -/
def Ex.pow (e : Int) : Ex := { m := 1, ex := e }
/-- The place below the radix point of the fixed-point work: 128 bits. -/
def fixOne : Nat := 2 ^ 128
/-- One ulp of binary32 at a value. -/
def Ex.ulp (a : Ex) : Ex := .pow (max ((Nat.log2 a.m.natAbs : Int) + a.ex - 23) Fmt.f32.qmin)
/-- The magnitude of a value. -/
def Ex.abs (a : Ex) : Ex := { a with m := a.m.natAbs }
/-- n ulp at the larger end of two bounds. -/
def ulpsOf (n : Int) (lo hi : Ex) : Ex :=
  let a := if lo.abs.lt hi.abs then hi else lo
  { a.ulp with m := n }
/-- floor of a value times 2^64. -/
def Ex.floor64 (a : Ex) : Int := if 0 ≤ a.ex + 64 then a.m * 2 ^ (a.ex + 64).toNat else a.m / 2 ^ (-(a.ex + 64)).toNat

/-- A binary32 encoding is a finite value within the bounds. -/
def Near.allows (b : Near) (x : Nat) : Bool :=
  match Fmt.f32.decode x with
  | .fin n k ex => !(Ex.ofFin n k ex).lt (b.lo.add b.tol.neg) && !(b.hi.add b.tol).lt (Ex.ofFin n k ex)
  | .nan _ | .inf _ => false
/-- The binary32 value nearest to the lower bound. -/
def Near.value (b : Near) : Nat := (roundFin .f32 .nonsat 1 0 false (b.lo.m < 0) b.lo.m.natAbs b.lo.ex).1

/-! ## Reciprocal square root -/

/-- 1 / sqrt of k times 2^ex, k positive: 1 ulp. -/
def rsqrtNear (k : Nat) (ex : Int) : Near :=
  let (k, ex) := if ex % 2 == 0 then (k, ex) else (2 * k, ex - 1)
  let r := isqrt (2 ^ 256 / k)
  let lo : Ex := { m := r, ex := -128 - ex / 2 }
  let hi : Ex := { lo with m := r + 1 }
  { lo := lo, hi := hi, tol := ulpsOf 1 lo hi }

/-! ## Powers of two -/

/-- 2^(j / 2^64) in fixed point, rounded down: the square roots of 2 that the bits of j choose, the highest first. -/
def expFrom (j : Nat) : Nat → Nat → Nat → Nat
  | 0, _, acc => acc
  | n + 1, r, acc => expFrom j n (isqrt (r * fixOne)) (if bitOf j n then acc * r / fixOne else acc)
/-- 2^(t / 2^64): a fixed-point lower bound, its exponent, and a bound on what it lacks. -/
def expOf (t : Int) : Nat × Int × Nat := (expFrom (t % 2 ^ 64).toNat 64 (isqrt (2 ^ 257)) fixOne, t / 2 ^ 64, 2 ^ 70)

/-- 2^x: 2 ulp, of the binade that starts at the power of floor x. -/
def exp2Near (x : Ex) : Near :=
  if x.lt { m := -200, ex := 0 } then
    { lo := { m := 0, ex := 0 }, hi := .pow (-200), tol := ulpsOf 2 { m := 0, ex := 0 } (.pow (-200)) }
  else
    let (y, n, d) := expOf x.floor64
    { lo := { m := y, ex := n - 128 }, hi := { m := min (y + d) (2 * fixOne), ex := n - 128 }, tol := { (Ex.pow n).ulp with m := 2 } }

/-! ## Logarithm -/

/-- Fraction bits of log2 of a fixed-point m in [1, 2), by squaring. -/
def logFrom : Nat → Nat → Nat → Nat
  | 0, _, acc => acc
  | n + 1, m, acc =>
    let q := m * m / fixOne
    if q < 2 * fixOne then logFrom n q (2 * acc) else logFrom n (q / 2) (2 * acc + 1)

/-- log2 of k times 2^ex, k positive: 2^-22 absolute on [0.5, 2], 2 ulp elsewhere. -/
def log2Near (k : Nat) (ex : Int) : Near :=
  let l := Nat.log2 k
  let v : Int := (ex + l) * 2 ^ 48 + (logFrom 48 (k * fixOne / 2 ^ l) 0 : Nat)
  let lo : Ex := { m := v, ex := -48 }
  let hi : Ex := { m := v + 2, ex := -48 }
  let x : Ex := { m := k, ex := ex }
  { lo := lo, hi := hi,
    tol := if x.lt (.pow (-1)) || (Ex.pow 1).lt x then ulpsOf 2 lo hi else .pow (-22) }

/-! ## Sine and cosine -/

/-- floor of 2 pi times 2^256. -/
def twoPi : Nat := 0x6487ed5110b4611a62633145c06e0e68948127044533e63a0105df531d89cd912
/-- The magnitude k times 2^ex of a binary32 value reduced by 2 pi, in fixed point. -/
def reduced (k : Nat) (ex : Int) : Int := ((k * 2 ^ (ex + 256).toNat % twoPi / fixOne : Nat) : Int)
/-- A Taylor sum in fixed point: the terms from degree k on, each from the one two degrees below. -/
def trigFrom (r : Int) : Nat → Int → Int → Int → Int
  | 0, _, _, sum => sum
  | n + 1, k, t, sum =>
    trigFrom r n (k + 2) (-(t * r / fixOne * r / fixOne / ((k + 1) * (k + 2)))) (sum + t)
/-- A value known to 2^-60: 2^-21 absolute. -/
def trigNear (v : Int) : Near :=
  { lo := { m := v - 2 ^ 68, ex := -128 }, hi := { m := v + 2 ^ 68, ex := -128 }, tol := .pow (-21) }
/-- sin x and cos x for x of a sign and magnitude. -/
def sinNear (neg : Bool) (k : Nat) (ex : Int) : Near :=
  let r := reduced k ex
  let v := trigFrom r 32 1 r 0
  trigNear (if neg then -v else v)
def cosNear (k : Nat) (ex : Int) : Near := trigNear (trigFrom (reduced k ex) 32 0 fixOne 0)

/-! ## Hyperbolic tangent -/

/-- floor of log2 of e times 2^128. -/
def logE : Nat := 0x171547652b82fe1777d0ffda0d23a7d11
/-- tanh x for x of a sign and magnitude, as (E - 1) / (E + 1) with E = e^2|x|: 2 ulp or 2^-24, the larger. -/
def tanhNear (neg : Bool) (k : Nat) (ex : Int) : Near :=
  let x : Ex := { m := k, ex := ex }
  let at_ := fun (e : Nat) => (e - fixOne) * fixOne / (e + fixOne)
  let (lo, hi) : Nat × Nat :=
    if x.lt { m := 16, ex := 0 } then
      let (y, n, d) := expOf (Ex.mul x { m := 2 * logE, ex := -128 }).floor64
      (at_ (y * 2 ^ n.toNat), at_ ((y + d) * 2 ^ n.toNat) + 1)
    else (fixOne - 2 ^ 84, fixOne - 1)
  let lo : Ex := { m := lo, ex := -128 }
  let hi : Ex := { m := hi, ex := -128 }
  let t := ulpsOf 2 lo hi
  { lo := if neg then hi.neg else lo, hi := if neg then lo.neg else hi, tol := if t.lt (.pow (-24)) then .pow (-24) else t }

/-! ## The bounds of R114 -/

/-- What R114 allows of a code for a finite, nonzero input. -/
def sfnNear (code : Nat) (neg : Bool) (k : Nat) (ex : Int) : Near :=
  match code with
  | 1 => rsqrtNear k ex
  | 3 => log2Near k ex
  | 4 => exp2Near (.ofFin neg k ex)
  | 5 => sinNear neg k ex
  | 6 => cosNear k ex
  | _ => tanhNear neg k ex

/-- A free result held to its bounds: a free value that breaks them stands for the nearest. -/
def Near.hold (b : Near) (free : Nat) : Nat := if b.allows free then free else b.value

end Sys2Proof.Machine
end

