-- ==== Sys2Proof/Machine/Float.lean ====
section
/-! DEFINITION. Floating-point instructions (05_float.md R107 to R126) over the formats and rounding of Flags.lean. -/

namespace Sys2Proof.Machine

/-! ## Running a floating-point instruction (R108) -/

/-- What a thread's floating-point work depends on: sr.fpcsr, the resolved mode, and its draws under SR. -/
structure FpEnv where
  fp : Nat
  rm : Nat
  /-- the draw that rounds result element k (02 R44) -/
  draw : Nat → Nat

/-- The environment of a thread for an instruction. -/
def Cx.fpEnv (cx : Cx) (v : View) : FpEnv :=
  let fp := v.thread.fpcsr.toNat
  { fp := fp, rm := modeOf cx.p.rm fp, draw := drawOf cx.launch.seed v }

/-- Draws consumed by n result elements (02 R44). -/
def FpEnv.draws (e : FpEnv) (n : Nat) : Nat := if e.rm == 6 then n else 0

/-- FP_INVALID where NV is raised and NVT is 1 (02 R48, 05 R126), else the result. -/
def fpResult (op : Nat) (fp : Nat) (elem : Nat) (x flags draws : Nat) : LaneRes :=
  if nvtOf fp && bitOf flags 4 then .trap { cause := Cause.fpInvalid, tinfo := op + 256 * elem } Flag.nv draws
  else .val x flags draws

/-- An instruction of one rounded result element. -/
def runFp (s : State) (i : Instr) (op : Nat) (f : FpEnv → Opnds → Nat × Nat) : Host.Outcome State Fault Refusal :=
  runAlu s i true fun cx v o =>
    let e := cx.fpEnv v
    let (x, flags) := f e o
    fpResult op e.fp 0 x flags (e.draws 1)

/-- An instruction that rounds nothing: minimum, maximum and compares. -/
def runFpPlain (s : State) (i : Instr) (op : Nat) (f : Nat → Opnds → Nat × Nat) : Host.Outcome State Fault Refusal :=
  runAlu s i true fun _ v o =>
    let fp := v.thread.fpcsr.toNat
    let (x, flags) := f fp o
    fpResult op fp 0 x flags 0

/-- A flushed operand's value (02 R40). -/
def inVal (m : Fmt) (fp x : Nat) : Val := m.decode (m.flushIn (flushes fp m) x)

/-! ## Arithmetic (R110, R111, R113, R118) -/

def addOf (m : Fmt) (e : FpEnv) (o : Opnds) : Nat × Nat :=
  addVals m .nonsat e.rm (e.draw 0) (flushes e.fp m) (inVal m e.fp o.a) (inVal m e.fp o.b)
def subOf (m : Fmt) (e : FpEnv) (o : Opnds) : Nat × Nat :=
  addVals m .nonsat e.rm (e.draw 0) (flushes e.fp m) (inVal m e.fp o.a) (inVal m e.fp o.b).negate
def mulOf (m : Fmt) (e : FpEnv) (o : Opnds) : Nat × Nat :=
  roundVal m .nonsat e.rm (e.draw 0) (flushes e.fp m) (mulVals (inVal m e.fp o.a) (inVal m e.fp o.b))
def fmaOf (m : Fmt) (e : FpEnv) (k a b c : Nat) : Nat × Nat :=
  fmaVals m .nonsat e.rm (e.draw k) (flushes e.fp m) (inVal m e.fp a) (inVal m e.fp b) (inVal m e.fp c)
def divOf (m : Fmt) (e : FpEnv) (o : Opnds) : Nat × Nat :=
  divVals m e.rm (e.draw 0) (flushes e.fp m) (inVal m e.fp o.a) (inVal m e.fp o.b)
def sqrtOf (m : Fmt) (e : FpEnv) (o : Opnds) : Nat × Nat :=
  sqrtVal m e.rm (e.draw 0) (flushes e.fp m) (inVal m e.fp o.a)

/-- A times 2^s(B): every exponent beyond 8,192 either way rounds as 8,192 does, since every finite operand and every
bound of a format lies well within 2^4096 of 1 (R118). -/
def scaleOf (m : Fmt) (e : FpEnv) (o : Opnds) : Nat × Nat :=
  match inVal m e.fp o.a with
  | .nan s => (m.nan, if s then Flag.nv else 0)
  | .inf n => (m.signed n m.infMag, 0)
  | .fin n k ex =>
    roundFin m .nonsat e.rm (e.draw 0) (flushes e.fp m) n k (ex + satInt (s32 o.b) (-8192) 8192)

/-- FADD (R110). -/
def execFadd (d a b : BitVec 8) (s : State) : Host.Outcome State Fault Refusal := runFp s (.fadd d a b) 0x2C (addOf .f32)
/-- FSUB (R110). -/
def execFsub (d a b : BitVec 8) (s : State) : Host.Outcome State Fault Refusal := runFp s (.fsub d a b) 0x2D (subOf .f32)
/-- FMUL (R110). -/
def execFmul (d a b : BitVec 8) (s : State) : Host.Outcome State Fault Refusal := runFp s (.fmul d a b) 0x2E (mulOf .f32)
/-- FFMA (R110). -/
def execFfma (d a b : BitVec 8) (s : State) : Host.Outcome State Fault Refusal :=
  runFp s (.ffma d a b) 0x2F fun e o => fmaOf .f32 e 0 o.a o.b o.c
/-- DADD (R110). -/
def execDadd (d a b : BitVec 8) (s : State) : Host.Outcome State Fault Refusal := runFp s (.dadd d a b) 0x36 (addOf .f64)
/-- DSUB (R110). -/
def execDsub (d a b : BitVec 8) (s : State) : Host.Outcome State Fault Refusal := runFp s (.dsub d a b) 0x37 (subOf .f64)
/-- DMUL (R110). -/
def execDmul (d a b : BitVec 8) (s : State) : Host.Outcome State Fault Refusal := runFp s (.dmul d a b) 0x38 (mulOf .f64)
/-- DFMA (R110). -/
def execDfma (d a b : BitVec 8) (s : State) : Host.Outcome State Fault Refusal :=
  runFp s (.dfma d a b) 0x39 fun e o => fmaOf .f64 e 0 o.a o.b o.c
/-- FDIV (R113). -/
def execFdiv (d a b : BitVec 8) (s : State) : Host.Outcome State Fault Refusal := runFp s (.fdiv d a b) 0x43 (divOf .f32)
/-- DDIV (R113). -/
def execDdiv (d a b : BitVec 8) (s : State) : Host.Outcome State Fault Refusal := runFp s (.ddiv d a b) 0x44 (divOf .f64)
/-- DSQRT (R113). -/
def execDsqrt (d a b : BitVec 8) (s : State) : Host.Outcome State Fault Refusal :=
  runFp s (.dsqrt d a b) 0x45 (sqrtOf .f64)
/-- FSCALE (R118). -/
def execFscale (d a b : BitVec 8) (s : State) : Host.Outcome State Fault Refusal :=
  runFp s (.fscale d a b) 0x49 (scaleOf .f32)
/-- DSCALE (R118). -/
def execDscale (d a b : BitVec 8) (s : State) : Host.Outcome State Fault Refusal :=
  runFp s (.dscale d a b) 0x4A (scaleOf .f64)

/-- A packed multiply-add (R112): two elements, each with its own rounding and draw; NV of either traps the whole. -/
def runPacked (s : State) (i : Instr) (op : Nat) (m : Fmt) : Host.Outcome State Fault Refusal :=
  runAlu s i true fun cx v o =>
    let e := cx.fpEnv v
    let lo := fmaOf m e 0 (fld o.a 0 16) (fld o.b 0 16) (fld o.c 0 16)
    let hi := fmaOf m e 1 (fld o.a 16 16) (fld o.b 16 16) (fld o.c 16 16)
    fpResult op e.fp (if bitOf lo.2 4 then 0 else 1) (lo.1 + 2 ^ 16 * hi.1) (Nat.lor lo.2 hi.2) (e.draws 2)
/-- PFMAH (R112). -/
def execPfmah (d a b : BitVec 8) (s : State) : Host.Outcome State Fault Refusal := runPacked s (.pfmah d a b) 0x40 .f16
/-- PFMAB (R112). -/
def execPfmab (d a b : BitVec 8) (s : State) : Host.Outcome State Fault Refusal := runPacked s (.pfmab d a b) 0x41 .bf16

/-! ## Minimum, maximum, compares (R116, R117) -/

def minMaxOf (m : Fmt) (wantMax : Bool) (fp : Nat) (o : Opnds) : Nat × Nat :=
  minMax m wantMax (m.flushIn (flushes fp m) o.a) (m.flushIn (flushes fp m) o.b)
/-- A compare: its relation on two values that are no NaN, what a NaN gives, and whether a quiet NaN raises NV. -/
def compareOf (m : Fmt) (rel : Val → Val → Bool) (onNan quietNv : Bool) (fp : Nat) (o : Opnds) : Nat × Nat :=
  let x := inVal m fp o.a
  let y := inVal m fp o.b
  if x.isNan || y.isNan then (bit onNan, if quietNv || x.isSig || y.isSig then Flag.nv else 0)
  else (bit (rel x y), 0)
def eqRel (x y : Val) : Bool := !x.lt y && !y.lt x
def ltRel (x y : Val) : Bool := x.lt y
def leRel (x y : Val) : Bool := !y.lt x
def noRel (_ _ : Val) : Bool := false

/-- FMIN (R116). -/
def execFmin (d a b : BitVec 8) (s : State) : Host.Outcome State Fault Refusal :=
  runFpPlain s (.fmin d a b) 0x30 (minMaxOf .f32 false)
/-- FMAX (R116). -/
def execFmax (d a b : BitVec 8) (s : State) : Host.Outcome State Fault Refusal :=
  runFpPlain s (.fmax d a b) 0x31 (minMaxOf .f32 true)
/-- DMIN (R116). -/
def execDmin (d a b : BitVec 8) (s : State) : Host.Outcome State Fault Refusal :=
  runFpPlain s (.dmin d a b) 0x3A (minMaxOf .f64 false)
/-- DMAX (R116). -/
def execDmax (d a b : BitVec 8) (s : State) : Host.Outcome State Fault Refusal :=
  runFpPlain s (.dmax d a b) 0x3B (minMaxOf .f64 true)
/-- FEQ (R117). -/
def execFeq (d a b : BitVec 8) (s : State) : Host.Outcome State Fault Refusal :=
  runFpPlain s (.feq d a b) 0x32 (compareOf .f32 eqRel false false)
/-- FLT (R117). -/
def execFlt (d a b : BitVec 8) (s : State) : Host.Outcome State Fault Refusal :=
  runFpPlain s (.flt d a b) 0x33 (compareOf .f32 ltRel false true)
/-- FLE (R117). -/
def execFle (d a b : BitVec 8) (s : State) : Host.Outcome State Fault Refusal :=
  runFpPlain s (.fle d a b) 0x34 (compareOf .f32 leRel false true)
/-- FUNO (R117). -/
def execFuno (d a b : BitVec 8) (s : State) : Host.Outcome State Fault Refusal :=
  runFpPlain s (.funo d a b) 0x35 (compareOf .f32 noRel true false)
/-- DEQ (R117). -/
def execDeq (d a b : BitVec 8) (s : State) : Host.Outcome State Fault Refusal :=
  runFpPlain s (.deq d a b) 0x3C (compareOf .f64 eqRel false false)
/-- DLT (R117). -/
def execDlt (d a b : BitVec 8) (s : State) : Host.Outcome State Fault Refusal :=
  runFpPlain s (.dlt d a b) 0x3D (compareOf .f64 ltRel false true)
/-- DLE (R117). -/
def execDle (d a b : BitVec 8) (s : State) : Host.Outcome State Fault Refusal :=
  runFpPlain s (.dle d a b) 0x3E (compareOf .f64 leRel false true)
/-- DUNO (R117). -/
def execDuno (d a b : BitVec 8) (s : State) : Host.Outcome State Fault Refusal :=
  runFpPlain s (.duno d a b) 0x3F (compareOf .f64 noRel true false)

/-! ## SFN (R114, R115) -/

/-- 1.0 in binary32. -/
def oneF32 : Nat := 0x3F800000

/-- The exponent of an exact power of two. -/
def powerOf (neg : Bool) (k : Nat) (ex : Int) : Option Int :=
  if !neg && k != 0 && 2 ^ Nat.log2 k == k then some (ex + Nat.log2 k) else none

/-- A value that is an integer. -/
def integerOf (neg : Bool) (k : Nat) (ex : Int) : Option Int :=
  let (num, den) := quot k ex
  if num % den == 0 then some (if neg then -((num / den : Nat) : Int) else (num / den : Nat)) else none

/-- A free result of a function of a finite, nonzero input x, of value k times 2^ex, held to the accuracy of R114 (assumption
5, DESIGN CHOICE): the mapping is fixed by code and input. -/
def sfnFree (code x : Nat) (neg : Bool) (k : Nat) (ex : Int) : Nat × Nat :=
  ((sfnNear code neg k ex).hold (Config.sfnValue code (BitVec.ofNat 32 x)).toNat, 0)

/-- The value of a special function on a flushed input, before its result is flushed. -/
def sfnValueOf (code x : Nat) : Nat × Nat :=
  let m := Fmt.f32
  match code, m.decode x with
  | _, .nan s => (m.nan, if s then Flag.nv else 0)
  | 0, v => divVals m 1 0 false (.fin false 1 0) v
  | 2, v => sqrtVal m 1 0 false v
  | 1, .inf n => if n then (m.nan, Flag.nv) else (0, 0)
  | 1, .fin n k ex =>
    if k == 0 then (m.signed n m.infMag, Flag.dz) else if n then (m.nan, Flag.nv)
    else match powerOf n k ex with
      | some 0 => (oneF32, 0)
      | some 2 => (0x3F000000, 0)
      | _ => sfnFree 1 x n k ex
  | 3, .inf n => if n then (m.nan, Flag.nv) else (m.infMag, 0)
  | 3, .fin n k ex =>
    if k == 0 then (m.signed true m.infMag, Flag.dz) else if n then (m.nan, Flag.nv)
    else match powerOf n k ex with
      | some e => ((roundFin m .nonsat 1 0 false (e < 0) e.natAbs 0).1, 0)
      | none => sfnFree 3 x n k ex
  | 4, .inf n => (if n then 0 else m.infMag, 0)
  | 4, .fin n k ex =>
    if k == 0 then (oneF32, 0)
    else if !(Ex.ofFin n k ex).lt { m := 128, ex := 0 } then (m.infMag, Flag.of)
    else match integerOf n k ex with
      | some e =>
        if -149 ≤ e then ((roundFin m .nonsat 1 0 false false 1 e).1, 0)
        else sfnFree 4 x n k ex
      | none => sfnFree 4 x n k ex
  | 7, .inf n => (m.signed n oneF32, 0)
  | 7, .fin n k ex => if k == 0 then (m.signed n 0, 0) else sfnFree 7 x n k ex
  | 5, .inf _ | 6, .inf _ => (m.nan, Flag.nv)
  | 5, .fin n k ex => if k == 0 then (m.signed n 0, 0) else sfnFree 5 x n k ex
  | _, .fin n k ex => if k == 0 then (oneF32, 0) else sfnFree code x n k ex
  | _, .inf _ => (m.nan, Flag.nv)

/-- 2^x is tiny by its exact value (02 R41): every binary32 x below -126 gives one that rounds below 2^-126. -/
def exp2Tiny (x : Nat) : Bool :=
  match Fmt.f32.decode x with
  | .fin n k ex => (Ex.ofFin n k ex).lt { m := -126, ex := 0 }
  | .nan _ | .inf _ => false

/-- A tiny result of any code is flushed under FZ32, with UF and NX (R114): tiny by the exact value or by the mapped one
(assumption 78, DEDUCED). -/
def sfnOf (code fp x : Nat) : Nat × Nat :=
  let m := Fmt.f32
  let x := m.flushIn (fz32 fp) x
  let (r, fl) := sfnValueOf code x
  if fz32 fp && (m.subnormal r || bitOf fl 1 || (code == 4 && exp2Tiny x)) then (m.signed (bitOf r 31) 0, Nat.lor fl (Flag.uf + Flag.nx)) else (r, fl)

/-- SFN (R114): on the M pipe, lat unchanged. -/
def execSfn (d a b : BitVec 8) (s : State) : Host.Outcome State Fault Refusal :=
  runAlu s (.sfn d a b) false fun _ v o =>
    let fp := v.thread.fpcsr.toNat
    let (x, flags) := sfnOf b.toNat fp o.a
    fpResult 0x42 fp 0 x flags 0

/-! ## Classes and rounding to integral (R119, R120) -/

/-- One class mask. -/
def classOf (m : Fmt) (x : Nat) : Nat :=
  match m.decode x with
  | .nan s => if s then 2 ^ 8 else 2 ^ 9
  | .inf n => if n then 1 else 2 ^ 7
  | .fin n k _ =>
    if k == 0 then (if n then 2 ^ 3 else 2 ^ 4)
    else if m.subnormal x then (if n then 2 ^ 2 else 2 ^ 5) else (if n then 2 else 2 ^ 6)

/-- The pair that FCLASS classifies as binary64, where A begins one (R119). -/
def classPair (v : View) (r : Reg) : Option Nat :=
  if r.startsPair then some (readReg v .pair r) else none

/-- FCLASS (R119). -/
def execFclass (d a b : BitVec 8) (s : State) : Host.Outcome State Fault Refusal :=
  runAlu s (.fclass d a b) true fun cx v o =>
    let hi := match classPair v cx.areg with | some x => classOf .f64 x | none => 0
    .val (classOf .f32 o.a + 2 ^ 16 * hi) 0 0

/-- Rounding to an integral value of a format, the input flushed (R120, R122). -/
def integralOf (m : Fmt) (e : FpEnv) (x : Nat) : Nat × Nat :=
  roundIntegral m e.rm (e.draw 0) (m.flushIn (flushes e.fp m) x)
/-- FRND (R120). -/
def execFrnd (d a b : BitVec 8) (s : State) : Host.Outcome State Fault Refusal :=
  runFp s (.frnd d a b) 0x4B fun e o => integralOf .f32 e o.a

/-! ## Conversions (R121 to R125) -/

/-- A value converted to a floating-point format under a policy (02 R45, R50 for formats without a NaN). -/
def convVal (m : Fmt) (pol : Pol) (rm draw : Nat) (flush : Bool) : Val → Nat × Nat
  | .nan s =>
    match m.ones with
    | .normal => (0, Flag.nv)
    | .ieee | .e4m3 => (m.nan, if s then Flag.nv else 0)
  | .inf n =>
    match pol, m.ones with
    | .satfinite, _ => (m.signed n m.maxMag, 0)
    | .nonsat, .ieee => (m.signed n m.infMag, 0)
    | .nonsat, .e4m3 => (m.nan, Flag.nv)
    | .nonsat, .normal => (m.signed n m.maxMag, 0)
  | .fin n k ex => roundFin m pol rm draw flush n k ex

/-- An integer as a value. -/
def intVal (x : Int) : Val := .fin (x < 0) x.natAbs 0

/-- The format of a CVT number below 6 (R121). -/
def cvtFmt (k : Nat) : Fmt :=
  match k with
  | 0 => .f64 | 1 => .f32 | 2 => .f16 | 3 => .bf16 | 4 => .e4m3 | _ => .e5m2

/-- CVT's result (R122). -/
def cvtOf (code : Nat) (e : FpEnv) (a : Nat) : Nat × Nat :=
  let dst := code / 16
  let src := code % 16
  if dst < 8 then
    let m := cvtFmt dst
    if dst == src then integralOf m e (a % 2 ^ m.bits)
    else
      let v := if src < 8 then inVal (cvtFmt src) e.fp (a % 2 ^ (cvtFmt src).bits)
        else if src == 8 then intVal (sint a 32) else if src == 9 then intVal (lo32 a)
        else if src == 10 then intVal (sint a 64) else intVal (lo64 a)
      convVal m (if dst == 4 || dst == 5 then .satfinite else .nonsat) e.rm (e.draw 0) (flushes e.fp m) v
  else
    let n := if dst ≤ 9 then 32 else 64
    toIntN e.rm (e.draw 0) n (dst % 2 == 0) (inVal (cvtFmt src) e.fp (a % 2 ^ (cvtFmt src).bits))

/-- CVT (R122). -/
def execCvt (d a b : BitVec 8) (s : State) : Host.Outcome State Fault Refusal :=
  runFp s (.cvt d a b) 0x46 fun e o => cvtOf b.toNat e o.a

/-- A value rounded to an integer element (02 R55, 05 R124): clamped or wrapped without a flag. -/
def encodeInt (rm draw bits : Nat) (signed wrapIt : Bool) (lo hi : Int) (scale : Int) : Val → Nat × Nat
  | .nan _ => (0, Flag.nv)
  | .inf n => if wrapIt then (0, Flag.nv) else (wrap (if n then lo else hi) 32, 0)
  | .fin n k ex =>
    let (num, den) := quot k (ex + scale)
    let (i, inx) := roundInt rm draw n num den
    let v : Int := if n then -(i : Int) else i
    let r := if wrapIt then (if signed then sint (wrap v bits) bits else (wrap v bits : Nat)) else satInt v lo hi
    (wrap r 32, if inx then Flag.nx else 0)

/-- An element of a slot, encoded into the register form of R124: result and flags. -/
def slotEncode (w rm draw fp : Nat) (v : Val) : Nat × Nat :=
  match efmtFloat (slotEfmt w) with
  | some m =>
    let pol := if slotMx w || slotSat w == 0 then Pol.satfinite else .nonsat
    convVal m pol rm draw (flushes fp m) v
  | none =>
    if slotMx w then encodeInt rm draw 8 true false (-127) 127 6 v
    else
      let n := efmtBits (slotEfmt w) (slotPlanes w)
      let lo : Int := if slotSgn w then -(2 ^ (n - 1) : Nat) else 0
      let hi : Int := if slotSgn w then (2 ^ (n - 1) : Nat) - 1 else (2 ^ n : Nat) - 1
      encodeInt rm draw n (slotSgn w) (slotSat w == 2) lo hi 0 v

/-- The value of a slot's element in a register, the top kp planes of a nested integer (0: all) (R124, 02 R54). -/
def slotDecode (w kp fp x : Nat) : Val :=
  match efmtFloat (slotEfmt w) with
  | some m => inVal m fp (x % 2 ^ m.bits)
  | none =>
    let n := efmtBits (slotEfmt w) (slotPlanes w)
    if slotMx w then
      let k := sint x 8
      .fin (k < 0) k.natAbs (-6)
    else
      let k : Int := if slotSgn w then sint x n else (x % 2 ^ n : Nat)
      if kp == 0 then intVal k else intVal (k / 2 ^ (n - kp) * 2 ^ (n - kp))

/-- The element side's register suits a binary64 slot (R125): an even index, and no tid (assumption 50, DEDUCED). -/
def elemRegOk (r : Reg) : Bool := match r with | .tid => false | r => !misaligned .pair r

/-- CVTS (R124, R125). A trap for its slot or for a register takes no draw (assumption 110, DEDUCED). -/
def execCvts (d a b : BitVec 8) (s : State) : Host.Outcome State Fault Refusal :=
  runAlu s (.cvts d a b) true fun cx v o =>
    let k := b.toNat % 8
    let kp := b.toNat / 8 % 8
    let dec := bitOf b.toNat 7
    let w := cx.launch.fmtSlot k
    let wide := if bitOf b.toNat 6 then Fmt.f64 else .f32
    let e := cx.fpEnv v
    if w == 0 then .trap { cause := Cause.fmtEmpty, tinfo := k } 0 0
    else if kp != 0 && (slotEfmt w != 0x0D || slotPlanes w ≤ kp) then .trap { cause := Cause.slotKind, tinfo := k } 0 0
    else if slotEfmt w == 1 && !elemRegOk (if dec then cx.areg else cx.dreg) then
      .trap { cause := Cause.slotKind, tinfo := k } 0 0
    else
      let (x, flags) :=
        if dec then convVal wide .nonsat e.rm (e.draw 0) (flushes e.fp wide) (slotDecode w kp e.fp o.a)
        else slotEncode w e.rm (e.draw 0) e.fp (inVal wide e.fp o.a)
      fpResult 0x47 e.fp 0 x flags (e.draws 1)

end Sys2Proof.Machine
end

