-- ==== Sys2Proof/Machine/Atomics.lean ====
section
/-! DEFINITION. The atomic operations (07_memory_access.md R168, R169) as functions of the old value and the operands. -/

namespace Sys2Proof.Machine

/-- Bytes of an atomic by its code (R168). -/
def atomSize (code : Nat) : Nat := if ty64 (code / 16) then 8 else 4
/-- The floating-point format of an atomic type. -/
def atomFmt (ty : Nat) : Fmt := if ty == 5 then .f64 else .f32
/-- A signed integer type. -/
def atomSigned (ty : Nat) : Bool := ty == 1 || ty == 3

/-- The new value n from the old value m and the operands (R169): x the operand, for CAS the compare value; y the new
value of CAS. Floats round once under RNE, keep subnormals and ignore every FZ bit. -/
def atomNew (code m x y : Nat) : Nat :=
  let ty := code / 16
  let bits := 8 * atomSize code
  let f := atomFmt ty
  match code % 16 with
  | 0 => if ty ≤ 3 then (m + x) % 2 ^ bits else (addVals f .nonsat 1 0 false (f.decode m) (f.decode x)).1
  | 1 =>
    if ty ≤ 3 then (if (if atomSigned ty then sint x bits < sint m bits else x < m) then x else m)
    else (minMax f false m x).1
  | 2 =>
    if ty ≤ 3 then (if (if atomSigned ty then sint m bits < sint x bits else m < x) then x else m)
    else (minMax f true m x).1
  | 3 => Nat.land m x
  | 4 => Nat.lor m x
  | 5 => Nat.xor m x
  | 6 => x
  | 7 => if m == x then y else m
  | 8 =>
    if ty ≤ 3 then (if (sint m bits).natAbs < (sint x bits).natAbs then x else m)
    else if (f.decode x).isNan then m
    else if (f.decode m).isNan then x
    else if m % 2 ^ (bits - 1) < x % 2 ^ (bits - 1) then x else m
  | _ => if x ≤ m then 0 else m + 1

/-- The operands of an atomic from its D operand (R168, R169). -/
def atomOperands (code d : Nat) : Nat × Nat :=
  let bits := 8 * atomSize code
  (d % 2 ^ bits, d / 2 ^ bits % 2 ^ bits)

end Sys2Proof.Machine
end

