-- ==== Sys2Proof/Machine/Translate.lean ====
section
/-! DEFINITION. Addresses: the checks of 07_memory_access.md R159, buffer-table entries and page tables
(19_package_memory.md R379 to R386), the place of an access, and reads and writes that an instruction or an engine makes
as part of one step, with the block view of a deterministic launch (24_determinism.md R433) and the combining of
commutative ranges (15_die_memory.md R329). -/

namespace Sys2Proof.Machine

/-! ## Buffer-table entries (R379) -/

def bufPeer (e : Nat) : Bool := bitOf e 30
def bufIlv (e : Nat) : Nat := fld e 26 2
def bufHR (e : Nat) : Bool := bitOf e 19
def bufHW (e : Nat) : Bool := bitOf e 20
def bufHA (e : Nat) : Bool := bitOf e 21
def bufR (e : Nat) : Bool := bitOf e 16
def bufW (e : Nat) : Bool := bitOf e 17
def bufA (e : Nat) : Bool := bitOf e 18
def bufCtx (e : Nat) : Nat := fld e 0 16
def bufDepth (e : Nat) : Nat := fld e 40 4
def bufKey (e : Nat) : Nat := fld e 32 8
def bufLen (e : Nat) : Nat := fld e 64 44
def bufRoot (e : Nat) : Nat := fld e 128 40
def bufStack (e : Nat) : Nat := fld e 224 4
def bufPcBase (e : Nat) : Nat := fld e 228 6
def bufPcLog (e : Nat) : Nat := fld e 234 3
def bufBkLog (e : Nat) : Nat := fld e 240 3
def bufCsh (e : Nat) : Nat := fld e 243 5
def bufRBase (e : Nat) : Nat := fld e 256 16
def bufPkg (e : Nat) : Nat := fld e 320 10
def bufRidx (e : Nat) : Nat := fld e 330 20
/-- log2 of the page size. -/
def bufPage (e : Nat) : Nat := if fld e 28 2 == 1 then 21 else 16

/-- The valid entry of a buffer index, owned by a context. -/
def bufOf (s : State) (ctx idx : Nat) : Option Nat :=
  match aget? (ctx, idx) s.bufs with
  | some e => if bitOf e 31 && bufCtx e == ctx then some e else none
  | none => none

/-! ## Checks (R159) -/

/-- What an access needs. -/
structure Need where
  size : Nat
  align : Nat := 1
  r : Bool := false
  w : Bool := false
  a : Bool := false
  /-- allowed in the scratchpad window, in the accumulator window, in a buffer -/
  scr : Bool := true
  acc : Bool := true
  buf : Bool := true

/-- Orders 1 to 8 of R159 for an address, a launch's context, its core count and its allocation end (assumption 51, DEDUCED). -/
def checkEa (s : State) (l : Launch) (n : Need) (ea : Nat) : Option Nat :=
  let off := eaOff ea
  let entry := bufOf s l.ctx (eaIdx ea)
  if eaIdx ea == 0 then some Cause.addrNull
  else if !isWin ea && entry.isNone then some Cause.bufInvalid
  else if isAcc ea && 2 ^ 18 ≤ off then some Cause.winRank
  else if isScr ea && (fld off 35 9 != 0 || fld off 20 12 != 0 || l.cores ≤ scrRank ea) then some Cause.winRank
  else if (isAcc ea && !n.acc) || (isScr ea && !n.scr) || (!isWin ea && !n.buf) then some Cause.winKind
  else if ea % n.align != 0 then some Cause.memAlign
  else if isScr ea && l.scratchEnd < scrOff ea + n.size then some Cause.winBounds
  else if isAcc ea && 2 ^ 18 < off + n.size then some Cause.winBounds
  else match entry with
    | none => none
    | some e =>
      if isWin ea then none
      else if bufLen e < off + n.size then some Cause.bufBounds
      else if (n.r && !bufR e) || (n.w && !bufW e) || (n.a && !bufA e) then some Cause.bufRights
      else none

/-! ## Page tables (R384 to R386) -/

/-- The page of an offset. -/
def pageKey (ctx idx e x : Nat) : PageKey := { ctx := ctx, buf := idx, page := x / 2 ^ bufPage e }
/-- The first offset of a page. -/
def pageBase (e page : Nat) : Nat := page * 2 ^ bufPage e

/-- The PPA of the leaf entry of an offset; none where a pointer entry has V = 0. A pointer is followed as it stands (assumption
117, DESIGN CHOICE). -/
def leafAddr (s : State) (e x : Nat) : Option Nat :=
  let r := coherentRead s (bufRoot e + 8 * (x / 2 ^ 34)) 8
  if !bitOf r 63 then none
  else
    let d := coherentRead s (fld r 0 40 + 8 * (x / 2 ^ 25 % 512)) 8
    if !bitOf d 63 then none
    else some (fld d 0 40 + 8 * (if bufPage e == 21 then x / 2 ^ 21 % 16 else x / 2 ^ 16 % 512))

/-- The physical addresses that a walk reads, as far as pointers lead (R384). -/
def walkAddrs (s : State) (e x : Nat) : List Nat :=
  let a := bufRoot e + 8 * (x / 2 ^ 34)
  let r := coherentRead s a 8
  if !bitOf r 63 then [a]
  else
    let b := fld r 0 40 + 8 * (x / 2 ^ 25 % 512)
    match leafAddr s e x with
    | none => [a, b]
    | some c => [a, b, c]

/-- The leaf entry that a walk finds (R323: read coherently). -/
def walk (s : State) (e x : Nat) : Option Nat := (leafAddr s e x).map fun a => coherentRead s a 8

def leafVer (l : Nat) : Nat := fld l 40 24
def leafState (l : Nat) : Nat := fld l 38 2
def leafV (l : Nat) : Bool := bitOf l 37
def leafHome (l : Nat) : Nat := fld l 32 4
def leafFrame (l : Nat) : Nat := fld l 12 20
/-- A leaf entry. -/
def mkLeaf (ver state home frame : Nat) : Nat :=
  ver % 2 ^ 24 * 2 ^ 40 + state % 4 * 2 ^ 38 + 2 ^ 37 + home % 16 * 2 ^ 32 + frame % 2 ^ 20 * 2 ^ 12

/-- Bytes of a stack: 48 GiB (R377). -/
def stackBytes : Nat := 48 * 2 ^ 30

/-- A PPA in a stack. -/
def ppaOf (stack off : Nat) : Nat := stack * 2 ^ 36 + off
/-- The place of a bank location in its stack, as the model numbers it (assumption 7, DESIGN CHOICE). -/
def bankOff (pc bank row col byte : Nat) : Nat :=
  pc * (768 * 2 ^ 20) + bank * (48 * 2 ^ 20) + row * 1024 + col * 32 + byte

/-- The place of an offset of a bank-mapped buffer (R383): pseudo-channel, bank, row, column, byte. -/
def bankPlace (e x : Nat) : Nat × Nat × Nat × Nat × Nat :=
  let n := bufPcLog e + bufBkLog e
  let u := x / 2 ^ bufCsh e
  let k := u % 2 ^ n
  let y := u / 2 ^ n * 2 ^ bufCsh e + x % 2 ^ bufCsh e
  (bufPcBase e + k / 2 ^ bufBkLog e, k % 2 ^ bufBkLog e, bufRBase e + y / 1024, y / 32 % 32, y % 32)

/-- The PPA of an offset under a valid leaf entry (R382, R383). -/
def leafPpa (e leaf x : Nat) : Nat :=
  if bufIlv e == 2 then
    let (pc, bank, row, col, byte) := bankPlace e x
    ppaOf (bufStack e) (bankOff pc bank row col byte)
  else ppaOf (leafHome leaf) (leafFrame leaf * 2 ^ 16 + x % 2 ^ bufPage e)

/-- Order 1 of R386. -/
def leafBad (e leaf : Nat) : Bool :=
  !leafV leaf || 12 ≤ leafHome leaf || (bufIlv e != 0 && leafHome leaf != bufStack e) ||
  (bufIlv e != 2 &&
    (stackBytes < leafFrame leaf * 2 ^ 16 + 2 ^ bufPage e || (bufPage e == 21 && leafFrame leaf % 32 != 0)))

/-- Where an access goes. -/
inductive Place where
  | scr (core off : Nat)
  | acc (core off : Nat)
  | mem (ppa : Nat)
  | peer (pkg ridx off : Nat)
  deriving DecidableEq, Repr

/-- What translation answers. -/
inductive Loc where
  | at (p : Place)
  /-- held on a page that is migrating (R387) -/
  | held
  /-- held for a copy of its page (20 R398) -/
  | cow (k : PageKey)
  /-- held at a memory port in all-bank mode (08 R207, 21 R413) -/
  | busy
  | fault (cause : Nat)
  deriving DecidableEq, Repr

/-- The bind core of a die works: the die has power and is not fenced, and its component is not restarting (25 R451, R454,
27 R462). -/
def bindUp (s : State) (die : Nat) : Bool := dieUp s die && !s.out (.bind die)
/-- How an access uses its line. -/
inductive Use where
  /-- a read that a copy whose invalidation is queued may serve -/
  | stale
  /-- a read that only a copy that the directory counts may serve -/
  | read
  /-- a read at the owner or the home (07 R163, WT) -/
  | owner
  | write
  /-- performed by the directory: no copy of a die serves it (07 R173) -/
  | home
  deriving DecidableEq, Repr
/-- A die's copy of a line serves an access with nothing from DRAM: for a write, ownership aside. -/
def ownServes (s : State) (die line : Nat) (u : Use) : Bool :=
  (s.l2? die line).any fun l => l.sect == 15 &&
    match u with
    | .stale => true
    | .read | .write => holds s line die
    | .owner => heldAs s line die == some .m || heldAs s line die == some .o
    | .home => false
/-- The same with no word to the directory: a line in S or O needs ownership for a write (15 R319). -/
def copyAlone (s : State) (die line : Nat) (u : Use) : Bool :=
  ownServes s die line u && (u != .write || heldAs s line die == some .m || heldAs s line die == some .e)
/-- The die that owns a line supplies all of it (15 R319). -/
def ownerServes (s : State) (line : Nat) : Bool := (ownerOf s line).any fun d => (s.l2? d line).any fun l => l.sect == 15
/-- A line's DRAM is reached through a port in all-bank mode, and no L2 serves the access (21 R413). -/
def portBusy (s : State) (die ppa : Nat) (u : Use) : Bool :=
  inAllBank s ppa && !(ownServes s die (lineOf ppa) u || (u != .home && ownerServes s (lineOf ppa)))
/-- A die that does not hold a line has no room to take it: its L2 slice is full of lines whose ports are closed, or the
directory slice must drop a line first (15 R316, R318). -/
def fillBusy (s : State) (die line : Nat) : Bool :=
  dieUp s die && (s.l2? die line).isNone &&
  (!dirHasRoom s line || (!l2HasRoom s die line && (l2Victim s die line).isNone))

/-- A page walk is held at a port in all-bank mode (21 R413), or for room. -/
def walkBusy (s : State) (die e x : Nat) : Bool :=
  (walkAddrs s e x).any fun a => portBusy s die a .read || fillBusy s die (lineOf a)

/-- A die number that names no die: an agent with no L2 and no link (assumption 8, DESIGN CHOICE). -/
def noDie : Nat := 4
/-- A write of the leaf entry of an offset is held, or the walk to it, at a port in all-bank mode (21 R413). -/
def leafHeld (s : State) (e x : Nat) : Bool := walkBusy s noDie e x || (leafAddr s e x).any (inAllBank s)

/-- A line that cannot be read (15 R322, 25 R446). -/
def lineFault (s : State) (line : Nat) : Option Nat :=
  if s.lost.contains line then some Cause.cohLost
  else if s.damaged.contains line then some Cause.memUncorr
  else none

/-- A die's link to the datum die is down (25 R444): its one lane in this model is disabled (assumption 36, DESIGN CHOICE). -/
def linkDown (s : State) (die : Nat) : Bool := (aget {} (1052 + die) s.lanes).disabled
/-- No path carries an access of a die to a line: its own link is down, or that of a die which a snoop must reach (25 R444). -/
def pathDown (s : State) (die line : Nat) : Bool :=
  linkDown s die || allDies.any fun d => d != die && linkDown s d &&
    (match heldAs s line d with | some .m | some .o | some .e => true | some .s | none => false)

/-- A page-table line that a walk of a die reads cannot be read (15 R322, 25 R444, R446). -/
def walkFault (s : State) (die e x : Nat) : Option Nat :=
  (walkAddrs s e x).findSome? fun a =>
    (lineFault s (lineOf a)).orElse fun _ =>
      if pathDown s die (lineOf a) && !copyAlone s die (lineOf a) .read then some Cause.hwLink else none

/-- Where an access of a die to a line goes: lost or damaged lines fault, no path carries an access of a die whose link is
down unless its L2 serves it alone (25 R444), and a port in all-bank mode or a lack of room holds it. -/
def lineLoc (s : State) (die ppa : Nat) (u : Use) : Loc :=
  match lineFault s (lineOf ppa) with
  | some c => .fault c
  | none =>
    if s.armed == some (.l2Line die (lineOf ppa)) then .fault Cause.memUncorr
    else if pathDown s die (lineOf ppa) && !copyAlone s die (lineOf ppa) u then .fault Cause.hwLink
    else if portBusy s die ppa u || fillBusy s die (lineOf ppa) then .busy
    else .at (.mem ppa)

/-- How the page of an offset lies in its stack (R382). -/
def pageSpread (e : Nat) : Option Spread :=
  if bufIlv e == 2 then some .banks
  else if bufIlv e == 1 then some (.pcs (bufPcBase e) (bufPcLog e))
  else none
/-- The spread of the frame that an access uses is known to its ports. -/
def State.noteSpread (s : State) (e ppa : Nat) : State :=
  let k := (ppaStack ppa, ppa % 2 ^ 36 / 2 ^ 16)
  if aget? k s.spread == pageSpread e then s
  else { s with spread := match pageSpread e with | some p => aset k p s.spread | none => adel k s.spread }

/-- The cipher under which an offset of a buffer is accessed (19 R390). Bank-mapped buffers are plaintext (R380). -/
def bufCipher (s : State) (idx e x : Nat) : Option Cipher :=
  if bufKey e = 0 || bufIlv e == 2 then none
  else some { key := aget 0 (bufKey e) s.keys, bver := fld e 192 32, buf := idx, unit := x / 32 }
/-- A place that an access of a buffer's offset uses: the spread of its frame, and its line under the buffer's cipher. -/
def State.noteUse (s : State) (idx e x ppa : Nat) : State :=
  (s.noteSpread e ppa).unsealLine (lineOf ppa) fun k => bufCipher s idx e (x / 128 * 128 + 32 * k)
/-- The key slot of an encrypted buffer is not loaded (19 R390). -/
def keyMissing (s : State) (e : Nat) : Bool := bufKey e != 0 && (aget? (bufKey e) s.keys).isNone

/-- Orders 1 to 6 of R386 on a leaf entry, then the state of the line. -/
def checkLeaf (s : State) (die : Nat) (k : PageKey) (e x : Nat) (leaf : Option Nat) (write : Bool) (u : Use) : Loc :=
  match leaf with
  | none => .fault Cause.pageInvalid
  | some l =>
    if leafBad e l then .fault Cause.pageInvalid
    else if leafState l == 3 then .fault Cause.pageQuar
    else if leafState l == 2 then .held
    else if keyMissing s e then .fault Cause.keyFail
    else if leafState l == 1 && write then .cow k
    else lineLoc (s.noteUse k.buf e x (leafPpa e l x)) die (leafPpa e l x) u

/-! ## The translation service (15 R323) -/

/-- What the translation service answers for a page before the leaf entry is checked. -/
inductive Walked where
  | leaf (l : Option Nat)
  /-- the walk is under way, every unit works, or a port holds the walk -/
  | busy
  | fault (cause : Nat)

/-- A die's translation of a page: from its TLB, else by a walk (R323). -/
def findLeaf (s : State) (die : Nat) (k : PageKey) (e x : Nat) : Walked :=
  match aget? k (s.die die).tlb with
  | some l => .leaf (some l)
  | none =>
    if (s.die die).walks.contains k || 64 ≤ (s.die die).walks.length || walkBusy s die e x then .busy
    else match walkFault s die e x with
      | some c => .fault c
      | none => .leaf (walk s e x)

/-- A leaf entry enters a die's TLB of 8,192 entries (R323). -/
def enterTlb (s : State) (die : Nat) (k : PageKey) (leaf : Nat) : State :=
  let d := s.die die
  let tlb := if 8192 ≤ d.tlb.length then d.tlb.tail else d.tlb
  s.setDie die { d with tlb := aset k leaf tlb }

/-- A walk has read the page table through the die's L2 (R323), and its leaf entry enters the TLB unless it faults. -/
def walkDone (s : State) (die : Nat) (k : PageKey) (e x : Nat) : State :=
  let t := (walkAddrs s e x).foldl (fun s a => if dieUp s die then l2Fetch s die (lineOf a) (sectorMask (a % 128) 8) else s) s
  match walk s e x with
  | some l => if leafBad e l || !dieUp s die then t else enterTlb t die k l
  | none => t

/-- What the translation of an access leaves: the walk it made, and the use of the place. -/
def State.translated (s : State) (die : Nat) (k : PageKey) (e x : Nat) : State :=
  let s := if (aget? k (s.die die).tlb).isSome then s else walkDone s die k e x
  match aget? k (s.die die).tlb with
  | some l => s.noteUse k.buf e x (leafPpa e l x)
  | none => s

/-- Core and offset of a scratchpad window address for a block, through its map (14 R304). -/
def scrPlace (b : Block) (ea : Nat) : Place :=
  let r := scrRank ea
  .scr (b.core + r) ((b.map.getD r (0, 0)).2 + scrOff ea)

/-! ## Agents that access memory as part of a step -/

/-- Who accesses: the core it stands on, its launch and block, and the thread whose view it reads (24 R433). -/
structure Ag where
  core : Nat
  lid : Nat
  ctx : Nat
  blin : Nat
  pidx : Nat := 0
  tid : Nat := 0
  /-- operations of the thread numbered below this are its earlier ones -/
  seq : Nat := 0
  deriving DecidableEq, Repr

def Ag.die (g : Ag) : Nat := dieOf g.core

/-- The outcome of R386 for an access of a die. -/
def pageLoc (s : State) (die : Nat) (k : PageKey) (e x : Nat) (write : Bool) (u : Use) : Loc :=
  match findLeaf s die k e x with
  | .busy => .busy
  | .fault c => .fault c
  | .leaf l => checkLeaf s die k e x l write u

/-- A read of a core's own memory whose words cannot be read in this step (25 R445). -/
def structLoc (s : State) (p : Place) (write : Bool) : Loc :=
  match p with
  | .scr c off => if !write && s.armed == some (.sramWord c (off / 32)) then .fault Cause.hwSram else .at p
  | .acc c off => if !write && s.armed == some (.accWord c (off / 32)) then .fault Cause.hwAcc else .at p
  | .mem _ | .peer .. => .at p

/-- The place of an address for an agent (assumption 48, DEDUCED). -/
def locate (s : State) (g : Ag) (ea : Nat) (write : Bool) : Loc :=
  if isScr ea then
    match s.block? g.lid g.blin with
    | some b => structLoc s (scrPlace b ea) write
    | none => .fault Cause.winRank
  else if isAcc ea then structLoc s (.acc g.core (fld ea 0 18)) write
  else match bufOf s g.ctx (eaIdx ea) with
    | none => .fault Cause.bufInvalid
    | some e =>
      if bufPeer e then .at (.peer (bufPkg e) (bufRidx e) (eaOff ea))
      else pageLoc s g.die (pageKey g.ctx (eaIdx ea) e (eaOff ea)) e (eaOff ea) write (if write then .write else .read)

/-- What the translation of an agent's address leaves. -/
def State.reach (s : State) (g : Ag) (ea : Nat) : State :=
  match bufOf s g.ctx (eaIdx ea) with
  | some e =>
    if isWin ea || bufPeer e then s else s.translated g.die (pageKey g.ctx (eaIdx ea) e (eaOff ea)) e (eaOff ea)
  | none => s

/-- A copy-on-write copy of a page begins unless one runs (20 R398). -/
def startCow (s : State) (k : PageKey) : State := if s.cows.contains k then s else { s with cows := k :: s.cows }

/-! ## Commutative ranges (15 R326 to R329) -/

/-- Two byte ranges overlap. -/
def overlap (a n b m : Nat) : Bool := a < b + m && b < a + n && n != 0 && m != 0

/-- The live range of a launch that n bytes at an address touch. -/
def Launch.rangeAt (l : Launch) (ea n : Nat) : Option Range :=
  l.ranges.find? fun r => r.live && overlap r.base r.len ea n

/-- No die and no core keeps an older copy of a line. -/
def freshenAll (s : State) (line : Nat) : State :=
  let t := allDies.foldl (fun s d => freshen s d line) s
  (upTo 128).foldl (fun s c => if (aget? line (s.core c).l1).isSome then l1DropLine s c line else s) t
/-- A partial applied to its element: a write in the declaring die's L2 (R328, R329), whose invalidations are applied at once
(assumption 104, DESIGN CHOICE). -/
def applyPartial (s : State) (p : Partial) : State :=
  let new := atomNew p.code (coherentRead s p.ppa p.size) p.value 0
  freshenAll (if dieUp s p.die then l2Write s p.die p.ppa p.size new else dirWrite s p.ppa p.size new) (lineOf p.ppa)

/-- A physical address lies in the frame of a page's leaf entry. -/
def inFrame (e leaf ppa : Nat) : Bool :=
  ppaStack ppa == leafHome leaf && leafFrame leaf * 2 ^ 16 ≤ ppa % 2 ^ 36 &&
  ppa % 2 ^ 36 < leafFrame leaf * 2 ^ 16 + 2 ^ bufPage e
/-- A frame whose bytes are being copied for a migration (19 R388 step 4). -/
def copying (s : State) (ppa : Nat) : Bool :=
  s.migrations.any fun m => m.step == 2 && (bufOf s m.page.ctx m.page.buf).any fun e => inFrame e m.old ppa
/-- A partial that cannot be applied now: its bank is behind a closed port, or its frame is being copied (21 R413, 19
R388). -/
def partialBusy (s : State) (p : Partial) : Bool :=
  portBusy s p.die p.ppa .write || fillBusy s p.die (lineOf p.ppa) || copying s p.ppa
/-- A partial of a line and launch that cannot be applied now. -/
def combineBusy (s : State) (lid line : Nat) : Bool :=
  (upTo 128).any fun c => (s.core c).parts.any fun p => p.lid == lid && lineOf p.ppa == line && partialBusy s p

/-- The partials of one line and launch, in ascending core (R329), applied and cleared. -/
def combine (s : State) (lid line : Nat) : State :=
  let mine := fun (p : Partial) => p.lid == lid && lineOf p.ppa == line
  let cores := (upTo 128).filter fun c => (s.core c).parts.any mine
  let ps := cores.flatMap fun c => (s.core c).parts.filter mine
  let s := ps.foldl applyPartial s
  cores.foldl (fun s c => s.setCore c { s.core c with parts := (s.core c).parts.filter fun p => !mine p }) s

/-! ## The view of a deterministic launch (24 R432, R433) -/

/-- Byte i of a value. -/
def byteAt (x i : Nat) : Nat := fld x (8 * i) 8

/-- A buffered operation applied to the bytes from lo up, n of them. -/
def applyWb (lo n : Nat) (x : Nat) (o : WbOp) : Nat :=
  match o.code with
  | none =>
    (upTo o.size).foldl (fun x i =>
      if lo ≤ o.ea + i && o.ea + i < lo + n then setFld x (8 * (o.ea + i - lo)) 8 (byteAt o.x i) else x) x
  | some c =>
    if lo ≤ o.ea && o.ea + o.size ≤ lo + n then
      let sh := 8 * (o.ea - lo)
      setFld x sh (8 * o.size) (atomNew c (fld x sh (8 * o.size)) o.x o.y)
    else x

/-- The operations that an agent sees over memory: its block's view, then its own of the epoch (assumption 56, DEDUCED). -/
def viewOps (b : Block) (g : Ag) : List WbOp :=
  (b.view ++ b.wbuf.filter fun o => o.pidx == g.pidx && o.tid == g.tid && o.seq < g.seq).filter
    fun o => o.resv.isNone

/-! ## Reads and writes -/

/-- What an access of several bytes gives. -/
inductive Got where
  | ok (x : Nat) (s : State)
  /-- held on a migrating or copied page, or not answered by a peer, at an address: limits run (19 R387, 28 R472) -/
  | hold (ea : Nat) (s : State)
  /-- waiting for a port, a walk or room: no limit runs -/
  | busy (s : State)
  | fault (cause ea : Nat) (s : State)
  deriving DecidableEq, Repr

/-- n bytes at a place, inside one line, for an agent that bypasses the L1. -/
def readPlace (s : State) (g : Ag) (p : Place) (n : Nat) : Nat × State :=
  match p with
  | .scr c off => (scrRead s c off n, s)
  | .acc c off => (accRead s c off n, s)
  | .mem ppa =>
    let s := l1DropLine (combine s g.lid (lineOf ppa)) g.core (lineOf ppa)
    if dieUp s g.die then l2Read (freshen s g.die (lineOf ppa)) g.die ppa n else dirRead s ppa n
  | .peer .. => (0, s)

/-- n bytes written at a place, inside one line. -/
def writePlace (s : State) (g : Ag) (p : Place) (n x : Nat) : State :=
  match p with
  | .scr c off => scrWrite s c off n x
  | .acc c off => accWrite s c off n x
  | .mem ppa => if dieUp s g.die then storeThrough s g.core ppa n x else dirWrite s ppa n x
  | .peer .. => s

/-- What a peer answers to an access of this step (assumption 45, DESIGN CHOICE). -/
def peerAnswer (s : State) (ea : Nat) : Option PeerReply :=
  match s.input with
  | .replies l | .launchRecordValidate _ l | .dependenceRead _ _ l | .launchTeardown _ l | .bindRestore _ _ _ l | .schedulerPass _ l | .closureMerge _ _ l =>
    aget? ea l
  | _ => none

/-- The lanes of a UALink port that carry flits (25 R444, 28 R469): those neither retraining nor disabled. -/
def portLanes (s : State) (k : Nat) : Nat :=
  ((upTo 4).filter fun i => let x := aget {} (768 + 4 * k + i) s.lanes; !x.retraining && !x.disabled).length
/-- The width of a UALink port: 4, 2 or 1, the largest that its lanes carry; 0 with none (28 R469, 25 R444). -/
def portWidth (s : State) (k : Nat) : Nat := if 4 ≤ portLanes s k then 4 else if 2 ≤ portLanes s k then 2 else portLanes s k
/-- A UALink port whose lanes are all disabled is down (25 R444). -/
def portDown (s : State) (k : Nat) : Bool := (upTo 4).all fun i => (aget {} (768 + 4 * k + i) s.lanes).disabled
/-- Every one of the 18 UALink ports is down: no path carries peer traffic (25 R444). -/
def peerDown (s : State) : Bool := (upTo 18).all (portDown s)
/-- Peer traffic waits: no port carries any, but some is not down (25 R444, 27 R462). -/
def peerHeld (s : State) : Bool :=
  !peerDown s && (upTo 18).all fun k => portWidth s k == 0 || s.out (.link k)
/-- A component has been out for more than 10 ms (27 R463). -/
def outLong (s : State) (c : Component) : Bool :=
  match (aget {} c s.firmware).restart with
  | some t => t + 10000000 < s.ref
  | none => false
/-- Every port that is not down has been out for more than 10 ms (27 R463). -/
def peerLong (s : State) : Bool := peerHeld s && (upTo 18).all fun k => portDown s k || outLong s (.link k)
/-- The failure of a peer access that no path can carry (25 R444). -/
def peerPath (s : State) (die : Nat) : Option Nat :=
  if linkDown s die then some Cause.hwLink else if peerDown s then some Cause.peerFail else none
/-- A memory cause that a peer's translation and memory can meet (28 R470, 19 R386, 09 R229). -/
def peerCause (c : Nat) : Bool :=
  c == Cause.pageInvalid || c == Cause.pageQuar || c == Cause.migrStuck || c == Cause.keyFail || c == Cause.cohLost ||
  c == Cause.memUncorr

/-- What an access asks of a peer: the operation, its code and its data, as a request has them. -/
structure PeerAct where
  op : Nat := 0
  code : Nat := 0
  data : Nat := 0
  data2 : Nat := 0
  deriving DecidableEq, Repr

/-- The request of n bytes at an offset: entry RIDX of the same owner context at the peer (28 R470). -/
def peerReq (s : State) (ctx ridx off n : Nat) (a : PeerAct) : PeerReq :=
  { pkg := s.pkg, ctx := ctx, buf := ridx, offset := off, size := n, op := a.op, code := a.code, data := a.data, data2 := a.data2 }
/-- The body of an access sent to a peer: its request, field by field (assumption 18, DESIGN CHOICE). -/
def peerWord (r : PeerReq) : Nat :=
  r.pkg % 2 ^ 16 + 2 ^ 16 * (r.ctx % 2 ^ 16) + 2 ^ 32 * (r.buf % 2 ^ 20) + 2 ^ 52 * (r.offset % 2 ^ 44) + 2 ^ 96 * (r.size % 2 ^ 32) +
  2 ^ 128 * (r.op % 2 ^ 8) + 2 ^ 136 * (r.code % 2 ^ 24) + 2 ^ 160 * (r.data % 2 ^ 256) + 2 ^ 416 * r.data2

/-- An access of this step at a peer package (28 R470): it is sent once, and performed there, refused or faulted; it waits
while no answer has come, and unsent while no port carries it. -/
def peerGot (s : State) (g : Ag) (pkg ridx ea n : Nat) (a : PeerAct) : Got :=
  let m : Message := { kind := 7, dest := pkg, body := peerWord (peerReq s g.ctx ridx (eaOff ea) n a) }
  match peerPath s g.die with
  | some c => .fault c ea s
  | none =>
    if peerLong s then .fault Cause.hwLink ea s
    else if peerHeld s then .busy s
    else
      let answered := if s.asking.contains m then { s with asking := s.asking.erase m } else s.send 7 pkg m.body
      let waiting := if s.asking.contains m then s else { s.send 7 pkg m.body with asking := s.asking ++ [m] }
      match peerAnswer s ea with
      | some (.done v) => .ok (v % 2 ^ (8 * n)) answered
      | some .refused => .fault Cause.peerRights ea answered
      | some (.fault c) => if peerCause c then .fault c ea answered else .hold ea waiting
      | none => .hold ea waiting

/-- What a step that is held keeps of the run it gave up: the copies it began, and the accesses it sent to peers, which it does
not send again. -/
def State.keepHold (s t : State) : State :=
  let sent := (t.outbox.drop s.outbox.length).filter fun m => m.kind == 7
  { s with cows := t.cows, outbox := s.outbox ++ sent, asking := s.asking ++ sent }
/-- A run that is held has begun a copy or sent an access. -/
def newHold (s t : State) : Bool := t.cows != s.cows || t.outbox.length != s.outbox.length
/-- An event whose run is held happens only for what the run began. -/
def heldNext (name : String) (s : State) (go : Bool) (t : State) : Host.Outcome State Fault Refusal :=
  whenEnabled name (go && newHold s t) (s.keepHold t)
/-- An access that is given up, at an offset of a context, awaits no answer. -/
def State.forgetAsked (s : State) (ctx ea : Nat) : State :=
  { s with asking := s.asking.filter fun m => !(fld m.body 16 16 == ctx && fld m.body 52 44 == eaOff ea) }

/-- Only a component's own restart is left in a state: what it alone holds. -/
def onlyOut (s : State) (c : Component) : State :=
  { s with firmware := s.firmware.filter (fun f => f.1 == c), ports := [] }
/-- A port component that has been out for more than 10 ms holds an access (27 R463). -/
def portLong (s : State) (loc : State → Loc) : Bool :=
  (upTo 12).any fun k => outLong s (.port k) && loc (onlyOut s (.port k)) == .busy
/-- An access waits at its port; past the limit of a port's restart it is lost (27 R463). -/
def busyGot (s : State) (ea : Nat) (loc : State → Loc) : Got := if portLong s loc then .fault Cause.hwLink ea s else .busy s

/-- The block whose view an agent reads at an address: a deterministic launch's, at any address but one of accumulator
memory (24 R433). -/
def viewBlock (s : State) (g : Ag) (ea : Nat) : Option Block :=
  match s.launch? g.lid, s.block? g.lid g.blin with
  | some l, some b => if l.isDet && !isAcc ea then some b else none
  | _, _ => none
/-- n bytes at an address from the aligned 8-byte words around them, as the view shows them (24 R433). -/
def viewOf (b : Block) (g : Ag) (ea n x : Nat) : Nat :=
  let d := ea % 8
  fld ((viewOps b g).foldl (applyWb (ea - d) (roundUp (d + n) 8)) x) (8 * d) (8 * n)

/-- n bytes of one sector at an address as an agent sees them: memory, then the operations of its view. -/
def readLine (s : State) (g : Ag) (ea n : Nat) : Got :=
  let view := viewBlock s g ea
  let d := if view.isSome then ea % 8 else 0
  let m := if view.isSome then roundUp (d + n) 8 else n
  let len := ((bufOf s g.ctx (eaIdx ea)).map bufLen).getD 0
  let seen := fun x => match view with | some b => viewOf b g ea n x | none => x
  match locate s g ea false with
  | .fault c => .fault c ea s
  | .held | .cow _ => .hold ea s
  | .busy => busyGot s ea fun s => locate s g ea false
  | .at (.peer pkg ridx off) =>
    match peerGot s g pkg ridx (ea - d) (if view.isSome then min m (len - (off - d)) else n) {} with
    | .ok x s => .ok (seen x) s
    | r => r
  | .at (.mem ppa) =>
    if combineBusy s g.lid (lineOf ppa) then .busy s
    else
      let (x, s) := readPlace (s.reach g ea) g (.mem (ppa - d)) m
      .ok (seen x) s
  | .at (.scr c off) => .ok (seen (scrRead s c (off - d) m)) s
  | .at (.acc c off) => .ok (seen (accRead s c (off - d) m)) s

/-- n bytes at an address as an agent sees them, sector by sector: consecutive sectors of a bank-mapped buffer may lie in
different banks (R383). -/
def readEaFrom (g : Ag) : Nat → State → Nat → Nat → Got
  | 0, s, _, _ => .ok 0 s
  | f + 1, s, ea, n =>
    let c := min n (32 - ea % 32)
    match readLine s g ea c with
    | .ok x s =>
      if n ≤ c then .ok x s
      else match readEaFrom g f s (ea + c) (n - c) with
        | .ok y s => .ok (x + 2 ^ (8 * c) * y) s
        | r => r
    | r => r
def readEa (s : State) (g : Ag) (ea n : Nat) : Got := if n = 0 then .ok 0 s else readEaFrom g (n / 32 + 2) s ea n

/-- n bytes written at an address by an engine, sector by sector; a live range of the launch takes CR_KIND (15 R327). -/
def writeEaFrom (g : Ag) : Nat → State → Nat → Nat → Nat → Got
  | 0, s, _, _, _ => .ok 0 s
  | f + 1, s, ea, n, x =>
    let c := min n (32 - ea % 32)
    if !isWin ea && ((s.launch? g.lid).bind fun l => l.rangeAt ea c).isSome then .fault Cause.crKind ea s
    else match locate s g ea true with
      | .fault e => .fault e ea s
      | .held => .hold ea s
      | .busy => busyGot s ea fun s => locate s g ea true
      | .cow k => .hold ea (startCow s k)
      | .at (.peer pkg ridx _) =>
        match peerGot s g pkg ridx ea c { op := 1, data := x % 2 ^ (8 * c) } with
        | .ok _ s => if n ≤ c then .ok 0 s else writeEaFrom g f s (ea + c) (n - c) (x / 2 ^ (8 * c))
        | r => r
      | .at p =>
        let s := writePlace (s.reach g ea) g p c x
        if n ≤ c then .ok 0 s else writeEaFrom g f s (ea + c) (n - c) (x / 2 ^ (8 * c))
def writeEa (s : State) (g : Ag) (ea n x : Nat) : Got :=
  if n = 0 then .ok 0 s else writeEaFrom g (n / 32 + 2) s ea n x

/-- The agent of a context's thread. -/
def Cx.ag (cx : Cx) (s : State) (tid : Nat) : Ag :=
  { core := cx.core, lid := cx.party.lid, ctx := cx.launch.ctx, blin := cx.party.blin, pidx := cx.party.pidx,
    tid := tid, seq := s.seq }

/-- The agent of an operation: its issuing thread, at its place in program order. -/
def opAg (s : State) (o : Op) : Ag :=
  let (blin, pidx) := match s.party? o.slot with | some p => (p.blin, p.pidx) | none => (0, 0)
  { core := coreOf o.slot, lid := o.lid, ctx := match s.launch? o.lid with | some l => l.ctx | none => 0, blin := blin,
    pidx := pidx, tid := o.tids.headD 0, seq := o.id }

/-- Bytes at an address without the block view: an agent that is no thread of a launch. -/
def plainAg (core ctx : Nat) : Ag := { core := core, lid := 2 ^ 64, ctx := ctx, blin := 2 ^ 64 }

/-- An agent of a context that stands in no die: a die number past the last has no L2. -/
def outAg (ctx : Nat) : Ag := plainAg 128 ctx

/-- The bind core of a die works on core 0 of it, for its reads and writes (assumption 8, DESIGN CHOICE). -/
def bindCore (die : Nat) : Nat := 32 * die

end Sys2Proof.Machine
end

