-- ==== Sys2Proof/Machine/Access.lean ====
section
/-! DEFINITION. Issuing memory accesses (07_memory_access.md R160 to R174, R179, R180; 20_versioned_memory.md R399, R400):
what an access needs, what it must follow, and how a lane or uniform instruction issues it. -/

namespace Sys2Proof.Machine

/-! ## Order among a thread's operations (07 R166, 08 R187, R190, R191) -/

/-- The bytes of an access. -/
def OpKind.bytes : OpKind → Option (Nat × Nat)
  | .load ea n .. | .store ea n .. | .clean ea n _ => some (ea, n)
  | .atom ea code .. => some (ea, atomSize code)
  | .arrv _ ea .. | .abinit ea _ | .tbinit ea .. => some (ea, 16)
  | .launch .. | .cfetch .. | .gather .. | .copy .. | .lrld .. | .coll .. | .tile .. | .geom .. | .bank .. | .report .. => none

/-- An operation is one of the thread's own accesses. -/
def OpKind.isAccess (k : OpKind) : Bool := k.bytes.isSome
/-- An access that writes. -/
def OpKind.writes : OpKind → Bool
  | .store .. | .atom .. | .clean .. | .arrv .. | .abinit .. | .tbinit .. => true
  | .load .. | .launch .. | .cfetch .. | .gather .. | .copy .. | .lrld .. | .coll .. | .tile .. | .geom .. | .bank ..
  | .report .. => false

/-- Two accesses share an aligned 8-byte location (R187). -/
def sameLocation (a n b m : Nat) : Bool := overlap (a / 8) (roundUp (a % 8 + n) 8 / 8) (b / 8) (roundUp (b % 8 + m) 8 / 8)

/-- An operation shares a location with an access. -/
def Op.touches (o : Op) (ea n : Nat) : Bool :=
  match o.kind.bytes with
  | some (b, m) => sameLocation ea n b m
  | none => false

/-- Unsettled accesses of any of some threads; in handler mode, not those that wait for TRET (19 R389). -/
def openAccesses (s : State) (slot : Nat) (tids : List Nat) (handler : Bool) : List Op :=
  s.ops.filter fun o =>
    o.slot == slot && o.kind.isAccess && !o.phase.settled && o.phase != .queued && (o.tids.any tids.contains) && !(handler && o.untilTret.isSome)

/-- The bound regions of a bound release: the live entries of its sync object (08 R203). -/
def Launch.boundRegions (l : Launch) (ea : Nat) : List Binding := l.binds.filter fun b => b.live && b.obj == ea

/-- A write of the thread that a bound release publishes (08 R194). -/
def inRegions (bs : List Binding) (o : Op) : Bool :=
  match o.kind.bytes with
  | some (ea, n) => bs.any fun b => overlap b.base b.len ea n
  | none => false

/-- The release side of an access: 0 none, 1 full, 2 bound. -/
def OpKind.release : OpKind → Nat
  | .store _ _ _ _ _ rel _ => if rel == 2 then 1 else if rel == 4 then 2 else 0
  | .atom _ _ _ _ _ _ _ rm _ => if rm == 2 || rm == 3 then 1 else if rm == 4 then 2 else 0
  | .arrv _ _ _ _ _ rel => if rel then 1 else 0
  | _ => 0

/-- A write that reads its location too. -/
def OpKind.readsToo : OpKind → Bool
  | .atom .. | .arrv .. => true
  | _ => false

/-- An earlier operation of a thread whose update to a live range an access must follow: an update another one's acceptance
(15 R328), a load its line's (R329). -/
def rangeBefore (l : Launch) (ea n : Nat) (k : OpKind) (o : Op) : Bool :=
  match o.kind, o.kind.bytes with
  | .atom .., some (a, m) =>
    (l.rangeAt ea n).isSome && (l.rangeAt a m).isSome && (k.writes || overlap (ea / 128) ((ea % 128 + n + 127) / 128) (a / 128) 1)
  | _, _ => false

/-- The operations before the threads' last release fence; in handler mode not those that wait for TRET (19 R389). -/
def fencedOps (s : State) (handler : Bool) (fence : List Nat) : List Nat :=
  fence.filter fun i => !(handler && s.ops.any fun o => o.id == i && o.untilTret.isSome)

/-- The operations that a new access of some threads must follow: same-location accesses of these threads, and of the
lower threads of its own instruction (those numbered from seq0 up), and updates of a live range that it would overtake; for a
release every earlier access, whatever its scope (assumption 85, DESIGN CHOICE), for a bound release those that read and those
that it publishes; for a write the accesses before the threads' last release fence. -/
def afterOps (s : State) (l : Launch) (slot : Nat) (tids : List Nat) (handler : Bool) (seq0 : Nat) (fence : List Nat)
    (k : OpKind) : List Nat :=
  match k.bytes with
  | none => []
  | some (ea, n) =>
    let mine := openAccesses s slot tids handler
    let same := mine.filter fun o => o.touches ea n || rangeBefore l ea n k o
    let group := s.ops.filter fun o =>
      o.slot == slot && seq0 ≤ o.id && (o.touches ea n || rangeBefore l ea n k o) && (o.kind.writes || k.writes)
    let rel :=
      match k.release with
      | 1 => mine
      | 2 => mine.filter fun o => !o.kind.writes || o.kind.readsToo || inRegions (l.boundRegions ea) o
      | _ => []
    ((same ++ group ++ rel).map (·.id) ++ (if k.writes then fencedOps s handler fence else [])).eraseDups

/-- A failed ordered atomic of a thread that has not retired, before a new access that R191 orders after it: a release, or a
write behind a release fence that the atomic preceded; it waits for TRET (19 R389). -/
def failedOrdered (s : State) (slot : Nat) (tids : List Nat) (fence : List Nat) (k : OpKind) : Option Op :=
  s.ops.find? fun o =>
    o.slot == slot && o.tids.any tids.contains && (k.release != 0 || (k.writes && fence.contains o.id)) &&
    (match o.kind, o.phase with
     | .atom _ _ _ _ _ _ _ rm _, .failed .. => rm != 0
     | _, _ => false)

/-- An access issued: the operation joins the list, in order. -/
def State.issueAccess (s : State) (cx : Cx) (tids : List Nat) (cls : Cls) (seq0 : Nat) (k : OpKind) : State :=
  let fence := tids.flatMap fun t => (cx.party.thread t).fence
  let after := afterOps s cx.launch cx.slot tids cx.issue.handler seq0 fence k
  let wait := if cx.issue.handler then none else (failedOrdered s cx.slot tids fence k).map (·.id)
  let s := s.addOp cx.slot cx.party.lid tids (some cls) cx.pc k after
  { s with ops := s.ops.map fun o => if o.id + 1 == s.seq then { o with untilTret := wait, handler := cx.issue.handler } else o }

/-! ## Checks beyond R159 -/

/-- The reservation word of a deterministic launch that n bytes at an address touch: its index (24 R436). -/
def resvAt (l : Launch) (ea n : Nat) : Option Nat :=
  if !l.isDet then none
  else
    (upTo (fld l.det 96 2)).find? fun r =>
      overlap (fld l.det (128 + 256 * r) 64) (if bitOf l.det (288 + 256 * r) then 8 else 4) ea n

/-- The reservation word of a deterministic launch at an address (24 R438). -/
def resvNamed (l : Launch) (ea : Nat) : Option Nat :=
  if !l.isDet then none else (upTo (fld l.det 96 2)).find? fun r => fld l.det (128 + 256 * r) 64 == ea

/-- What a deterministic launch refuses (24 R438). -/
def detCheck (l : Launch) (k : OpKind) : Option Nat :=
  if !l.isDet then none
  else
    match k with
    | .load ea n .. | .store ea n .. => if (resvAt l ea n).isSome then some Cause.winKind else none
    | .atom ea code _ _ dst _ _ rm uni =>
      if uni then some Cause.winKind
      else if dst.isNone then (if (resvAt l ea (atomSize code)).isSome then some Cause.winKind else none)
      else match resvNamed l ea with
        | none => some Cause.winKind
        | some r =>
          let w64 := bitOf l.det (288 + 256 * r)
          if code % 16 == 0 && (code / 16 == (if w64 then 2 else 0) || code / 16 == (if w64 then 3 else 1)) && rm == 0
          then none else some Cause.codeRsvd
    | _ => none

/-- An access that a live range of the launch does not accept (15 R327). -/
def rangeBad (l : Launch) (k : OpKind) : Bool :=
  let hit := fun ea n => (l.rangeAt ea n).isSome
  match k with
  | .store ea n .. => hit ea n
  | .clean ea n _ => hit ea n
  | .arrv _ ea .. | .tbinit ea .. => hit ea 16
  | .atom ea code _ _ dst _ _ rm _ =>
    match l.rangeAt ea (atomSize code) with
    | none => false
    | some r => !(dst.isNone && rm == 0 && code == r.ty * 16 + r.op)
  | _ => false

/-- The cause of an access at issue: R159, then a deterministic launch's, then a range's. -/
def accessCause (s : State) (l : Launch) (need : Need) (ea : Nat) (k : OpKind) : Option Nat :=
  match checkEa s l need ea with
  | some c => some c
  | none => match detCheck l k with
    | some c => some c
    | none => if !isWin ea && rangeBad l k then some Cause.crKind else none

/-- The trap of a refused access: a memory cause names the address (07 R181); an execution cause names none (09 R223). -/
def accessTrap (c ea size : Nat) (write atomic uni : Bool) : Trap :=
  if c == Cause.codeRsvd then { cause := c } else { cause := c, taddr := ea, tinfo := memInfo size write atomic uni }

/-! ## Issue by lane and uniform instructions -/

/-- An access that an instruction makes for a thread: needs, address, operation and class. -/
structure Req where
  need : Need
  ea : Nat
  kind : OpKind
  cls : Cls
  /-- the address at which the check reports, and the sizes for sr.tinfo -/
  write : Bool := false
  atomic : Bool := false

/-- Buffered operations of a deterministic launch (24 R431): stores, and ATOM, to a buffer or the scratchpad window. -/
def buffered (k : OpKind) : Bool :=
  match k with
  | .store ea .. => !isAcc ea
  | .atom _ _ _ _ dst _ _ _ _ => dst.isNone
  | _ => false

/-- The entry of a buffered operation in its block's write buffer (24 R431). -/
def wbOf (s : State) (cx : Cx) (tid : Nat) (k : OpKind) : Option WbOp :=
  match k with
  | .store ea n data .. =>
    some { pidx := cx.party.pidx, tid := tid, seq := s.seq, ea := ea, size := n, code := none, x := data, y := 0,
           resv := none, past := (cx.party.thread tid).arrivals }
  | .atom ea code x y dst _ _ _ _ =>
    some { pidx := cx.party.pidx, tid := tid, seq := s.seq, ea := ea, size := atomSize code, code := some code, x := x,
           y := y, resv := if dst.isSome then some s.seq else none, past := (cx.party.thread tid).arrivals }
  | _ => none

/-- A deterministic launch enters a store or an atomic in the write buffer; a buffered one completes there, a
reservation ATOMR waits for the closure point (24 R431, R439). -/
def State.enterBuffer (s : State) (cx : Cx) (tid : Nat) (cls : Cls) (k : OpKind) : State :=
  match wbOf s cx tid k, cx.block s with
  | some w, some b =>
    let s := s.setBlock { b with wbuf := b.wbuf ++ [w] }
    let id := s.seq
    let s := s.addOp cx.slot cx.party.lid [tid] (some cls) cx.pc k []
    { s with ops := s.ops.map fun o => if o.id == id then { o with phase := if buffered k then .done else .queued } else o }
  | _, _ => s

/-- One thread's access: the checks, then the issue, its counter raised. -/
def Cx.issueOne (cx : Cx) (s : State) (seq0 tid : Nat) (t : Thread) (r : Req) : State × (Thread × Option Esc) :=
  match accessCause s cx.launch r.need r.ea r.kind with
  | some c => (s, cx.raise tid (accessTrap c r.ea r.need.size r.write r.atomic false) t)
  | none =>
    let s := if cx.launch.isDet && (buffered r.kind || (match r.kind with | .atom .. => true | _ => false))
      then s.enterBuffer cx tid r.cls r.kind
      else s.issueAccess cx [tid] r.cls seq0 r.kind
    (s, cx.advance tid (t.count r.cls))

/-- A lane memory instruction: each enabled thread's access in ascending order (R164); a masked thread in zero mode gets
zero in its destination, of the width given (R161). -/
def runMem (s : State) (i : Instr) (zw : Width) (req : Cx → View → Opnds → Req) : Host.Outcome State Fault Refusal :=
  runWord s i fun cx s =>
    let seq0 := s.seq
    cx.each s fun s tid v t =>
      if cx.enabled tid then cx.issueOne s seq0 tid t (req cx v (cx.opnds v))
      else (if cx.p.z then cx.putG s tid zw 0 else s, cx.advance tid (if cx.p.z then t.write cx.dreg zw 0 else t))

/-- A uniform memory instruction: one access for the group, counted in each of its threads (R179, 01 R31). -/
def runUniMem (s : State) (i : Instr) (req : Cx → View → Opnds → Req) : Host.Outcome State Fault Refusal :=
  runWord s i fun cx s =>
    let v := cx.view s.ref (cx.tids.headD 0)
    let r := req cx v (cx.opnds v)
    match accessCause s cx.launch r.need r.ea r.kind with
    | some c => cx.trapAll s (accessTrap c r.ea r.need.size r.write r.atomic true)
    | none =>
      let s :=
        if cx.launch.isDet && buffered r.kind then s.enterBuffer cx (cx.tids.headD 0) r.cls r.kind
        else s.issueAccess cx cx.tids r.cls s.seq r.kind
      let s := if cx.launch.isDet && buffered r.kind then
          { s with ops := s.ops.map fun o =>
              if o.id + 1 == s.seq then { o with tids := cx.tids, live := cx.tids } else o }
        else s
      cx.mapGroup s fun k t => cx.advance k (t.count r.cls)

/-! ## The accesses -/

/-- The scope of an access, the default where the field is 0 (R162). -/
def scopeOr (dflt c : Nat) : Nat := if c % 16 == 0 then dflt else c % 16

/-- The address of an access with an offset in units of its size (R158). -/
def Cx.ea (cx : Cx) (base unit : Nat) : Nat := eaAdd base (cx.off * unit)

/-- A lane load of n bytes. -/
def loadReq (n : Nat) (cx : Cx) (_ : View) (o : Opnds) : Req :=
  let ea := cx.ea o.a n
  { need := { size := n, align := n, r := true }, ea := ea, cls := .ld,
    kind := .load ea n cx.dreg cx.p.c (scopeOr 6 cx.p.c) (cx.p.rm == 1) false none }
/-- A lane store of n bytes. -/
def storeReq (n : Nat) (cx : Cx) (_ : View) (o : Opnds) : Req :=
  let ea := cx.ea o.a n
  { need := { size := n, align := n, w := true }, ea := ea, cls := .st, write := true,
    kind := .store ea n (o.d % 2 ^ (8 * n)) cx.p.c (scopeOr 6 cx.p.c) cx.p.rm false }
/-- ATOM, ATOMR and UATOMR. -/
def atomReq (code : Nat) (ret uni : Bool) (cx : Cx) (_ : View) (o : Opnds) : Req :=
  let (x, y) := atomOperands code o.d
  let n := atomSize code
  { need := { size := n, align := n, r := ret, a := true, acc := false }, ea := o.a, cls := if ret then .ld else .st,
    atomic := true,
    kind := .atom o.a code x y (if ret then some cx.dreg else none) cx.p.c (scopeOr 6 cx.p.c) cx.p.rm uni }

/-- LDB (R164). -/
def execLdb (d a b : BitVec 8) (s : State) : Host.Outcome State Fault Refusal := runMem s (.ldb d a b) .one (loadReq 1)
/-- LDH (R164). -/
def execLdh (d a b : BitVec 8) (s : State) : Host.Outcome State Fault Refusal := runMem s (.ldh d a b) .one (loadReq 2)
/-- LDW (R164). -/
def execLdw (d a b : BitVec 8) (s : State) : Host.Outcome State Fault Refusal := runMem s (.ldw d a b) .one (loadReq 4)
/-- LDD (R164). -/
def execLdd (d a b : BitVec 8) (s : State) : Host.Outcome State Fault Refusal := runMem s (.ldd d a b) .pair (loadReq 8)
/-- LDQ (R164). -/
def execLdq (d a b : BitVec 8) (s : State) : Host.Outcome State Fault Refusal := runMem s (.ldq d a b) .quad (loadReq 16)
/-- STB (R164). -/
def execStb (d a b : BitVec 8) (s : State) : Host.Outcome State Fault Refusal := runMem s (.stb d a b) .one (storeReq 1)
/-- STH (R164). -/
def execSth (d a b : BitVec 8) (s : State) : Host.Outcome State Fault Refusal := runMem s (.sth d a b) .one (storeReq 2)
/-- STW (R164). -/
def execStw (d a b : BitVec 8) (s : State) : Host.Outcome State Fault Refusal := runMem s (.stw d a b) .one (storeReq 4)
/-- STD (R164). -/
def execStd (d a b : BitVec 8) (s : State) : Host.Outcome State Fault Refusal := runMem s (.std d a b) .one (storeReq 8)
/-- STQ (R164). -/
def execStq (d a b : BitVec 8) (s : State) : Host.Outcome State Fault Refusal := runMem s (.stq d a b) .one (storeReq 16)
/-- The register that receives m. -/
def atomWide (code : Nat) : Width := if ty64 (code / 16) then .pair else .one
/-- ATOM (R169). -/
def execAtom (d a b : BitVec 8) (s : State) : Host.Outcome State Fault Refusal :=
  runMem s (.atom d a b) .one (atomReq b.toNat false false)
/-- ATOMR (R169, R161). -/
def execAtomr (d a b : BitVec 8) (s : State) : Host.Outcome State Fault Refusal :=
  runMem s (.atomr d a b) (atomWide b.toNat) (atomReq b.toNat true false)

/-- A uniform load of n bytes (R179). -/
def uloadReq (n : Nat) (cx : Cx) (_ : View) (o : Opnds) : Req :=
  let ea := cx.ea o.a n
  { need := { size := n, align := n, r := true }, ea := ea, cls := .ld, kind := .load ea n cx.dreg 0 6 false true none }
/-- A uniform store of n bytes (R179). -/
def ustoreReq (n : Nat) (cx : Cx) (_ : View) (o : Opnds) : Req :=
  let ea := cx.ea o.a n
  { need := { size := n, align := n, w := true }, ea := ea, cls := .st, write := true,
    kind := .store ea n (o.d % 2 ^ (8 * n)) 0 6 0 true }
/-- ULDW (R179). -/
def execUldw (d a b : BitVec 8) (s : State) : Host.Outcome State Fault Refusal := runUniMem s (.uldw d a b) (uloadReq 4)
/-- ULDD (R179). -/
def execUldd (d a b : BitVec 8) (s : State) : Host.Outcome State Fault Refusal := runUniMem s (.uldd d a b) (uloadReq 8)
/-- ULDQ (R179). -/
def execUldq (d a b : BitVec 8) (s : State) : Host.Outcome State Fault Refusal := runUniMem s (.uldq d a b) (uloadReq 16)
/-- USTW (R179). -/
def execUstw (d a b : BitVec 8) (s : State) : Host.Outcome State Fault Refusal := runUniMem s (.ustw d a b) (ustoreReq 4)
/-- USTD (R179). -/
def execUstd (d a b : BitVec 8) (s : State) : Host.Outcome State Fault Refusal := runUniMem s (.ustd d a b) (ustoreReq 8)
/-- UATOMR (R179). -/
def execUatomr (d a b : BitVec 8) (s : State) : Host.Outcome State Fault Refusal :=
  runUniMem s (.uatomr d a b) (atomReq b.toNat true true)

/-! ## Versioned loads (20 R399, R400) -/

/-- VER_KIND for an address that passed R159: a buffer that is not versioned, or is a peer's. -/
def verKind (s : State) (l : Launch) (ea : Nat) : Bool :=
  match bufOf s l.ctx (eaIdx ea) with
  | some e => bufDepth e == 0 || bufPeer e
  | none => true

/-- A versioned load of n bytes of the plat that sr.ver less k names. -/
def verReq (n k ver : Nat) (uni : Bool) (cx : Cx) (ea : Nat) : Req :=
  { need := { size := n, align := n, r := true, scr := false, acc := false }, ea := ea, cls := .ld,
    kind := .load ea n cx.dreg (if uni then 0 else cx.p.c) 6 false uni (some (wrap ((ver % 2 ^ 24 : Nat) - (k : Int)) 24)) }

/-- LDV and LDVQ. -/
def runVer (s : State) (i : Instr) (n k : Nat) : Host.Outcome State Fault Refusal :=
  runWord s i fun cx s =>
    let seq0 := s.seq
    cx.each s fun s tid v t =>
      if cx.enabled tid then
        let r := verReq n k v.thread.ver.toNat false cx (cx.opnds v).a
        match checkEa s cx.launch r.need r.ea with
        | some c => (s, cx.raise tid { cause := c, taddr := r.ea, tinfo := memInfo n false false false } t)
        | none =>
          if verKind s cx.launch r.ea then
            (s, cx.raise tid { cause := Cause.verKind, taddr := r.ea, tinfo := memInfo n false false false } t)
          else cx.issueOne s seq0 tid t r
      else (if cx.p.z then cx.putG s tid cx.dwidth 0 else s, cx.advance tid (if cx.p.z then t.write cx.dreg cx.dwidth 0 else t))

/-- LDV (R400). -/
def execLdv (d a b : BitVec 8) (s : State) : Host.Outcome State Fault Refusal :=
  runVer s (.ldv d a b) (2 ^ (b.toNat % 8)) (b.toNat / 8)
/-- LDVQ (R400). -/
def execLdvq (d a b : BitVec 8) (s : State) : Host.Outcome State Fault Refusal := runVer s (.ldvq d a b) 16 (b.toNat / 8)
/-- ULDV (R400): once for the group, with the sr.ver of its lowest thread. -/
def execUldv (d a b : BitVec 8) (s : State) : Host.Outcome State Fault Refusal :=
  runWord s (.uldv d a b) fun cx s =>
    let n := 2 ^ (b.toNat % 8)
    let v := cx.view s.ref (cx.tids.headD 0)
    let r := verReq n (b.toNat / 8) v.thread.ver.toNat true cx (cx.opnds v).a
    match checkEa s cx.launch r.need r.ea with
    | some c => cx.trapAll s { cause := c, taddr := r.ea, tinfo := memInfo n false false true }
    | none =>
      if verKind s cx.launch r.ea then
        cx.trapAll s { cause := Cause.verKind, taddr := r.ea, tinfo := memInfo n false false true }
      else match accessCause s cx.launch r.need r.ea r.kind with
        | some c => cx.trapAll s { cause := c, taddr := r.ea, tinfo := memInfo n false false true }
        | none =>
          cx.mapGroup (s.issueAccess cx cx.tids .ld s.seq r.kind) fun k t => cx.advance k (t.count .ld)

/-! ## Fences, cleaning, prefetch (R171 to R174, R180) -/

/-- What an acquire at a scope does before the thread's later reads (15 R317, R321): at .pk or wider the queued
invalidations of the die are applied, at .qd or wider the core's L1 lines go. -/
def acquire (s : State) (core scope : Nat) : State :=
  let s := if 6 ≤ scope then applyInvs s (dieOf core) else s
  if 4 ≤ scope then l1Drop s core else s

/-- What a fence waits for: at .bk the bank commands of the thread (R172), as an acquire its earlier reads (08 R190). -/
def fenceWaits (s : State) (cx : Cx) (tid : Nat) (t : Thread) : Bool :=
  let acq := cx.p.rm == 1 || cx.p.rm == 3
  (cx.p.c % 16 == 9 && t.cnt.bk != 0) ||
  (acq && (openAccesses s cx.slot [tid] cx.issue.handler).any fun o =>
    match o.kind with | .load .. => true | k => k.readsToo)

/-- FENCE (R171, 08 R190, R191): an acquire fence acts at its scope, a release fence puts the thread's open accesses
before every later write. A thread whose fence waits stays. -/
def execFence (d a b : BitVec 8) (s : State) : Host.Outcome State Fault Refusal :=
  runWord s (.fence d a b) fun cx s =>
    let scope := if cx.p.c % 16 == 9 then 6 else scopeOr 6 cx.p.c
    let acq := cx.p.rm == 1 || cx.p.rm == 3
    let rel := cx.p.rm == 2 || cx.p.rm == 3
    let acts := cx.active.any fun k => !fenceWaits s cx k (cx.party.thread k)
    let u := if acq && acts then acquire s cx.core scope else s
    cx.mapGroup u fun k t =>
      if !cx.enabled k then cx.advance k t
      else if fenceWaits s cx k t then (t, none)
      else if rel then cx.advance k { t with fence := (openAccesses s cx.slot [k] cx.issue.handler).map (·.id) }
      else cx.advance k t

/-- CLNR and INVR (R173): the checks on the first and last byte, then one operation over the range. Where the check of the
last byte fails, sr.taddr is the last byte's address (assumption 86, DESIGN CHOICE). -/
def runClean (s : State) (i : Instr) (mode : Nat) (write : Bool) : Host.Outcome State Fault Refusal :=
  runWord s i fun cx s =>
    let seq0 := s.seq
    cx.each s fun s tid v t =>
      if cx.enabled tid then
        let o := cx.opnds v
        let need : Need := { size := 1, r := !write, w := write, scr := false, acc := false }
        let r : Req := { need := need, ea := o.a, cls := .st, write := write, kind := .clean o.a o.d mode }
        let last := eaAdd o.a ((o.d : Int) - 1)
        match (checkEa s cx.launch need o.a).orElse fun _ => if o.d == 0 then none else checkEa s cx.launch need last with
        | some c => (s, cx.raise tid { cause := c, taddr := if (checkEa s cx.launch need o.a).isSome then o.a else last,
                                       tinfo := memInfo 1 write false false } t)
        | none => cx.issueOne s seq0 tid t r
      else (s, cx.advance tid t)
/-- CLNR (R173). -/
def execClnr (d a b : BitVec 8) (s : State) : Host.Outcome State Fault Refusal := runClean s (.clnr d a b) 0 false
/-- INVR (R173). -/
def execInvr (d a b : BitVec 8) (s : State) : Host.Outcome State Fault Refusal :=
  runClean s (.invr d a b) (1 + b.toNat) true

/-- UPREF (R180): the line comes into the die's L2, and into the core's L1 for code 1; an address that fails is
dropped. -/
def execUpref (d a b : BitVec 8) (s : State) : Host.Outcome State Fault Refusal :=
  runWord s (.upref d a b) fun cx s =>
    let ea := cx.ea (cx.opnds (cx.view s.ref (cx.tids.headD 0))).a 128
    let s :=
      if isWin ea || (checkEa s cx.launch { size := 1, r := true } ea).isSome then s
      else match locate s (cx.ag s 0) ea false with
        | .at (.mem ppa) =>
          let s := l2Fetch (s.reach (cx.ag s 0) ea) cx.die (lineOf ppa) 15
          if d == 1 && (aget? (lineOf ppa) (s.core cx.core).l1).isNone then
            l1Put s cx.core (lineOf ppa) (l2Read s cx.die (lineOf ppa * 128) 128).1 0
          else s
        | .at _ | .held | .cow _ | .busy | .fault _ => s
    cx.mapGroup s cx.advance

/-! ## ARRV, ABINIT, TBINIT (11 R254 to R256) -/

/-- ARRV (11 R255): code bit 0 the kind, bit 1 no arrival. -/
def execArrv (d a b : BitVec 8) (s : State) : Host.Outcome State Fault Refusal :=
  runMem s (.arrv d a b) .one fun cx _ o =>
    let tb := bitOf b.toNat 0
    { need := { size := 16, align := 16, a := true, acc := false, scr := !tb, buf := tb }, ea := o.a, cls := .st,
      atomic := true,
      kind := .arrv tb o.a (if tb && !bitOf b.toNat 1 then 1 else 0) o.d (scopeOr (if tb then 6 else 3) cx.p.c)
        (cx.p.rm == 2) }
/-- ABINIT (11 R256). -/
def execAbinit (d a b : BitVec 8) (s : State) : Host.Outcome State Fault Refusal :=
  runUniMem s (.abinit d a b) fun _ _ o =>
    { need := { size := 16, align := 16, w := true, acc := false, buf := false }, ea := o.a, cls := .st, write := true,
      kind := .abinit o.a o.b }
/-- Where the i-th distinct address that a launch registers is written: TDOWN + 8 i (R253, 16 R334). -/
def Launch.downAt (l : Launch) : Option Nat :=
  if l.tdown == 0 then none else some (eaAdd l.tdown (8 * l.tbars.length : Nat))

/-- TBINIT (11 R256, R253): EXP 0, reserved bits or a full registration list trap CPY_BAD 9. -/
def execTbinit (d a b : BitVec 8) (s : State) : Host.Outcome State Fault Refusal :=
  runWord s (.tbinit d a b) fun cx s =>
    let o := cx.opnds (cx.view s.ref (cx.tids.headD 0))
    let need : Need := { size := 16, align := 16, w := true, scr := false, acc := false }
    let k := OpKind.tbinit o.a (fld o.b 0 24) (bitOf o.b 24) none
    match accessCause s cx.launch need o.a k with
    | some c => cx.trapAll s { cause := c, taddr := o.a, tinfo := memInfo 16 true false true }
    | none =>
      if fld o.b 0 24 == 0 || fld o.b 25 7 != 0 ||
          (bitOf o.b 24 && !cx.launch.tbars.contains o.a && 256 ≤ cx.launch.tbars.length) then
        cx.trapAll s { cause := Cause.cpyBad, tinfo := 9 }
      else
        let l := cx.launch
        let new := bitOf o.b 24 && !l.tbars.contains o.a
        let s := if new then s.setLaunch { l with tbars := l.tbars ++ [o.a] } else s
        let k := OpKind.tbinit o.a (fld o.b 0 24) (bitOf o.b 24) (if new then l.downAt else none)
        cx.mapGroup (s.issueAccess cx cx.tids .st s.seq k) fun i t => cx.advance i (t.count .st)

end Sys2Proof.Machine
end

