-- ==== Sys2Proof/Machine/Perform.lean ====
section
/-! DEFINITION. Performing an issued access (19_package_memory.md R386, 15_die_memory.md R320, R323, R328,
20_versioned_memory.md R400, 28_fabric.md R470 to R472), its completion and its retirement (01_thread.md R31), and the
updates of arrival words and transaction barriers (11_scratchpad_copies.md R250, R252, R256). -/

namespace Sys2Proof.Machine

/-! ## Arrival words and transaction barriers -/

/-- aw_update (11 R250) on the 16 bytes of an arrival word. -/
def awUpdate (w n : Nat) : Nat :=
  let target := fld w 0 32
  let s := fld w 32 32 + n
  if target == 0 then setFld w 32 32 s
  else if s < target then setFld w 32 32 s
  else
    let k := s / target
    let c := s - k * target
    let w := setFld (setFld w 64 32 (fld w 64 32 + k)) 32 32 c
    if 1 < k || c != 0 then setFld w 96 1 1 else w

/-- tb_update (11 R252) on the 16 bytes of a transaction barrier. -/
def tbUpdate (w a : Nat) (n : Int) : Nat :=
  let x := fld w 88 24 + a
  let p := sint (fld w 0 56) 56 + n
  if bitOf w 112 then w
  else if fld w 64 24 < x || p < -(2 ^ 55 : Nat) || (2 ^ 55 : Nat) - 1 < p then setFld w 113 1 1
  else
    let w := setFld (setFld w 88 24 x) 0 56 (wrap p 56)
    if x == fld w 64 24 && p == 0 then setFld (setFld w 56 8 (fld w 56 8 + 1)) 88 24 0 else w

/-- ABINIT's write (11 R256): TARGET, COUNT, OVER and the reserved bits; GEN keeps its value. -/
def abWord (w target : Nat) : Nat := target % 2 ^ 32 + fld w 64 32 * 2 ^ 64
/-- TBINIT's write (11 R256): PHASE keeps its value. -/
def tbWord (w exp : Nat) (reg : Bool) : Nat :=
  fld w 56 8 * 2 ^ 56 + exp % 2 ^ 24 * 2 ^ 64 + if reg then 2 ^ 114 else 0

/-- BROKEN set in a barrier with arrivals or bytes pending (11 R253). -/
def breakBarrier (w : Nat) : Nat := if fld w 88 24 != 0 || fld w 0 56 != 0 then setFld w 112 1 1 else w

/-! ## The single point of a location (07 R170, 15 R320) -/

/-- A read-modify-write of n bytes at the die that owns the line, else at the requester's: old value and state. -/
def singlePoint (s : State) (core ppa n : Nat) (f : Nat → Nat) : Nat × State :=
  let die := dieOf core
  let line := lineOf ppa
  let old := coherentRead s ppa n
  match ownerOf s line with
  | some d =>
    if d = die then (old, storeThrough s core ppa n (f old))
    else (old, l1DropLine (freshen (l2Write s d ppa n (f old)) die line) core line)
  | none => (old, if dieUp s die then storeThrough s core ppa n (f old) else dirWrite s ppa n (f old))

/-- The same at any place. -/
def rmwPlace (s : State) (g : Ag) (p : Place) (n : Nat) (f : Nat → Nat) : Nat × State :=
  match p with
  | .scr c off => let old := scrRead s c off n; (old, scrWrite s c off n (f old))
  | .acc c off => let old := accRead s c off n; (old, accWrite s c off n (f old))
  | .mem ppa => singlePoint s g.core ppa n f
  | .peer .. => (0, s)

/-- The new value of a read-modify-write: an atomic's, or an update's of a transaction barrier or an arrival word. -/
def PeerAct.update (a : PeerAct) (m : Nat) : Nat :=
  match a.op with
  | 10 => tbUpdate m a.code (sint a.data 64)
  | 11 => tbWord m (fld a.data 0 24) (bitOf a.data 24)
  | 12 => breakBarrier m
  | 13 => awUpdate m a.data
  | _ => atomNew a.code m a.data a.data2
/-- An engine's update of a transaction barrier by minus a count, or of an arrival word by it (11 R250, R252, R268). -/
def PeerAct.signal (tb : Bool) (n : Nat) : PeerAct :=
  if tb then { op := 10, data := wrap (-(n : Int)) 64 } else { op := 13, data := n }
/-- An engine's read-modify-write of n bytes at an address: the old value (assumption 49, DEDUCED). -/
def rmwEa (s : State) (g : Ag) (ea n : Nat) (a : PeerAct) : Got :=
  let f := a.update
  if !isWin ea && ((s.launch? g.lid).bind fun l => l.rangeAt ea n).isSome then .fault Cause.crKind ea s
  else match locate s g ea true with
  | .fault c => .fault c ea s
  | .held => .hold ea s
  | .busy => busyGot s ea fun s => locate s g ea true
  | .cow k => .hold ea (startCow s k)
  | .at (.peer pkg ridx _) => peerGot s g pkg ridx ea n a
  | .at p =>
    match structLoc s p false with
    | .fault c => .fault c ea s
    | _ => let (old, s) := rmwPlace (s.reach g ea) g p n f; .ok old s

/-! ## Settling an operation -/

/-- What sr.tinfo says of an access (07 R181). -/
def OpKind.info : OpKind → Nat
  | .load _ n _ _ _ _ uni _ => memInfo n false false uni
  | .store _ n _ _ _ _ uni => memInfo n true false uni
  | .atom _ code _ _ _ _ _ _ uni => memInfo (atomSize code) false true uni
  | .clean _ _ mode => memInfo 1 (mode != 0) false false
  | .arrv .. => memInfo 16 false true false
  | .abinit .. | .tbinit .. => memInfo 16 true false true
  | _ => 0

/-- An ordered atomic (19 R389). -/
def OpKind.orderedAtomic : OpKind → Bool
  | .atom _ _ _ _ _ _ _ rm _ => rm != 0
  | _ => false

/-- An access fails with a deferred cause; operations ordered after a failed ordered atomic wait for TRET (19 R389). -/
def failWith (s : State) (o : Op) (cause taddr tinfo : Nat) : State :=
  let s := s.setPhase o (.failed cause taddr tinfo)
  if o.kind.orderedAtomic then
    { s with ops := s.ops.map fun p => if p.after.contains o.id && !p.phase.settled && !p.handler then { p with untilTret := some o.id } else p }
  else s
def failOp (s : State) (o : Op) (cause ea : Nat) : State := failWith s o cause ea (o.info o.kind.info)

/-- When an operation that is held was first held. -/
def Op.heldSince (s : State) (o : Op) : Nat :=
  match o.phase with
  | .held t | .walking _ (some t) => t
  | _ => s.ref
/-- Since when an operation that joins a walk has been held. -/
def Op.heldAt (o : Op) : Option Nat :=
  match o.phase with
  | .held t | .walking _ (some t) => some t
  | _ => none
/-- An operation that waits for a port, for room or for a walk keeps the time since which it has been held. -/
def State.waitPhase (s : State) (o : Op) : State := s.setPhase o (match o.heldAt with | some t => .held t | none => .issued)

/-! ## Partial stores (15 R328) -/

/-- A core accepts an update to an element of a live range: into its entry, or into a new one, the least recently used
evicted from a full store of 512. -/
def acceptPartial (s : State) (core : Nat) (p : Partial) : State :=
  let parts := (s.core core).parts
  match parts.find? fun q => q.ppa == p.ppa && q.lid == p.lid with
  | some q =>
    let rest := parts.filter fun r => !(r.ppa == p.ppa && r.lid == p.lid)
    s.setCore core { s.core core with parts := rest ++ [{ q with value := atomNew p.code q.value p.value 0 }] }
  | none =>
    match parts with
    | q :: rest =>
      if 512 ≤ parts.length then
        let s := applyPartial s q
        s.setCore core { s.core core with parts := rest ++ [p] }
      else s.setCore core { s.core core with parts := parts ++ [p] }
    | [] => s.setCore core { s.core core with parts := [p] }

/-! ## Performing at a place -/

/-- An acquire applies queued invalidations before it reads (15 R321) and drops the L1 before later reads (R317). -/
def beforeRead (s : State) (core scope : Nat) (acq : Bool) : State :=
  if acq && 6 ≤ scope then applyInvs s (dieOf core) else s
def afterRead (s : State) (core scope : Nat) (acq : Bool) : State := if acq && 4 ≤ scope then l1Drop s core else s

/-- An acquiring atomic (RM acq or ar). -/
def rmAcq (rm : Nat) : Bool := rm == 1 || rm == 3

/-- The policy field of an access (07 R163). -/
def OpKind.attr : OpKind → Nat
  | .load _ _ _ attr .. | .store _ _ _ attr .. | .atom _ _ _ _ _ attr .. => attr
  | _ => 0
/-- How an access uses its line. -/
def Op.use (o : Op) (s : State) : Use :=
  match o.kind with
  | .load ea _ _ attr scope acq _ _ =>
    if bitOf attr 8 then .owner
    else if (acq && 6 ≤ scope) || ((s.launch? o.lid).any fun l => l.isDet && !isAcc ea) then .read else .stale
  | .clean .. => .home
  | k => if k.writes then .write else .stale
/-- The cache policies of an access that reads no L1 mark the lines it finds (07 R163). -/
def State.policies (s : State) (g : Ag) (p : Place) (attr : Nat) : State :=
  match p with
  | .mem ppa => l1Mark (l2Mark s g.die (lineOf ppa) attr) g.core (lineOf ppa) attr
  | .scr .. | .acc .. | .peer .. => s

/-- An access whose combine, or whose eviction from a full partial store, cannot be made now. -/
def Op.combineWaits (o : Op) (s : State) (g : Ag) (p : Place) : Bool :=
  match o.kind, p with
  | .load .., .mem ppa => combineBusy s o.lid (lineOf ppa)
  | .atom .., .mem _ => 512 ≤ (s.core g.core).parts.length && (s.core g.core).parts.head?.any (partialBusy s)
  | _, _ => false

/-- A store, which reads nothing. -/
def OpKind.stores : OpKind → Bool
  | .store .. => true
  | _ => false

/-- The L1 line that would serve a load stands in words that cannot be read in this step (25 R445): those of the SRAM above the
scratchpad region. -/
def l1Bad (s : State) (core line scope attr : Nat) : Bool :=
  (aget? line (s.core core).l1).isSome && !bitOf attr 8 && 1 ≤ scope && scope ≤ 3 &&
  match s.armed with
  | some (.sramWord c w) => c == core && (s.core core).region ≤ 32 * w
  | _ => false

/-- An access performed at its place: a load's or an atomic's value, a write's effect. -/
def performAt (s : State) (o : Op) (g : Ag) (p : Place) : State :=
  match o.kind with
  | .load ea n _ attr scope acq _ _ =>
    let s := beforeRead s g.core scope acq
    let det := match s.launch? o.lid with | some l => l.isDet && !isAcc ea | none => false
    let bad := match p with | .mem ppa => !det && l1Bad s g.core (lineOf ppa) scope attr | _ => false
    if bad then failOp s o Cause.hwSram ea
    else if det then
      match readEa s g ea n with
      | .ok x s => ((afterRead s g.core scope acq).policies g p attr).setPhase o (.performed x)
      | .hold _ s => s.setPhase o (.held (o.heldSince s))
      | .busy s => s.waitPhase o
      | .fault c a s => failOp s o c a
    else
      let (x, s) := match p with
        | .scr c off => (scrRead s c off n, s)
        | .acc c off => (accRead s c off n, s)
        | .mem ppa => loadThrough (combine s o.lid (lineOf ppa)) g.core ppa n scope attr
        | .peer .. => (0, s)
      (afterRead s g.core scope acq).setPhase o (.performed x)
  | .store _ n data attr .. => ((writePlace s g p n data).policies g p attr).setPhase o (.performed 0)
  | .atom ea code x y dst attr scope rm _ =>
    let n := atomSize code
    let range := (s.launch? o.lid).bind fun l => l.rangeAt ea n
    let range := range.filter fun r => dst.isNone && rm == 0 && code == r.ty * 16 + r.op
    match p, range with
    | .mem ppa, some r =>
      ((acceptPartial s g.core { ppa := ppa, ea := ea, size := n, code := code, value := x, lid := o.lid, die := r.die }).policies
        g p attr).setPhase o (.performed 0)
    | .mem ppa, none =>
      let s := beforeRead s g.core scope (rmAcq rm)
      match ownerOf s (lineOf ppa) with
      | some d =>
        if d = g.die then
          let (old, s) := singlePoint s g.core ppa n fun m => atomNew code m x y
          (afterRead (s.policies g p attr) g.core scope (rmAcq rm)).setPhase o (.performed old)
        else s.setPhase o (.forwarded d ppa)
      | none =>
        let (old, s) := singlePoint s g.core ppa n fun m => atomNew code m x y
        (afterRead (s.policies g p attr) g.core scope (rmAcq rm)).setPhase o (.performed old)
    | p, _ =>
      let (old, s) := rmwPlace (beforeRead s g.core scope (rmAcq rm)) g p n fun m => atomNew code m x y
      (afterRead s g.core scope (rmAcq rm)).setPhase o (.performed old)
  | .arrv tb _ a n _ _ =>
    (rmwPlace s g p 16 fun w => if tb then tbUpdate w a n else awUpdate w n).2.setPhase o (.performed 0)
  | .abinit _ t => (rmwPlace s g p 16 fun w => abWord w t).2.setPhase o (.performed 0)
  | .tbinit _ e r _ => (rmwPlace s g p 16 fun w => tbWord w e r).2.setPhase o (.performed 0)
  | _ => s

/-- What translation answered, for an operation. -/
def settleLoc (s : State) (o : Op) (g : Ag) (ea : Nat) (l : Loc) : State :=
  match l with
  | .at p => if o.combineWaits s g p then s.waitPhase o else performAt s o g p
  | .held => s.setPhase o (.held (o.heldSince s))
  | .cow k => (startCow s k).setPhase o (.held (o.heldSince s))
  | .busy => s.waitPhase o
  | .fault c => failOp s o c ea

/-! ## Cleaning (07 R173, R174) -/

/-- The physical lines that n bytes of a buffer's 128-byte lines occupy, from an offset up; a fault or a hold of any page
ends the operation. -/
def cleanGranules (s : State) (g : Ag) (idx e : Nat) (write : Bool) : Nat → Nat → List Nat → Except Loc (List Nat)
  | 0, _, acc => .ok acc
  | f + 1, x, acc =>
    match pageLoc s g.die (pageKey g.ctx idx e x) e x write .home with
    | .at (.mem ppa) =>
      cleanGranules s g idx e write f (x + 32) (if acc.contains (lineOf ppa) then acc else acc ++ [lineOf ppa])
    | l => .error l

/-- One line cleaned (mode 0), discarded (1), or written back and invalidated (2). -/
def cleanLine (s : State) (core mode line : Nat) : State :=
  match mode with
  | 0 => flushLine s line true
  | 1 => l1DropLine (discardLine s line) core line
  | _ => l1DropLine (flushLine s line false) core line

/-- CLNR, INVR. INVR with B = 0 is a write of the bytes that DRAM holds (08 R185, 19 R386). -/
def performClean (s : State) (o : Op) (g : Ag) (e ea len mode : Nat) : State :=
  if len = 0 then s.setPhase o (.performed 0)
  else
    let lo := eaOff ea / 128 * 128
    let hi := roundUp (eaOff ea + len) 128
    let pages := (upTo ((hi - 1) / 2 ^ bufPage e - lo / 2 ^ bufPage e + 1)).map fun i => lo + i * 2 ^ bufPage e
    let walked := fun s => pages.foldl (fun s x => s.translated g.die (pageKey g.ctx (eaIdx ea) e (min x (hi - 1))) e (min x (hi - 1))) s
    match cleanGranules s g (eaIdx ea) e (mode == 1) ((hi - lo) / 32) lo [] with
    | .ok lines =>
      (lines.foldl (fun s l => cleanLine (s.noteSpread e (128 * l)) g.core mode l) (walked s)).setPhase o (.performed 0)
    | .error l => settleLoc s o g ea (match l with | .at _ => .fault Cause.pageInvalid | l => l)

/-! ## Versioned loads (20 R393 to R400) -/

/-- a is at or before b (R393). -/
def verLe (a b : Nat) : Bool := wrap ((b : Int) - a) 24 < 2 ^ 23

/-- The snapshot engine's record of a buffer. -/
def State.snap? (s : State) (ctx buf : Nat) : Option Snap := s.snaps.find? fun v => v.ctx == ctx && v.buf == buf
def State.setSnap (s : State) (v : Snap) : State :=
  { s with snaps := s.snaps.map fun u => if u.ctx == v.ctx && u.buf == v.buf then v else u }

/-- A plat is kept (R395). -/
def Snap.kept (v : Snap) (depth p : Nat) : Bool :=
  verLe v.base p && (wrap ((v.pub : Int) - p) 24 < depth || 0 < aget 0 p v.holds)

/-- The PPA of history slot i of the page of an offset (R394, R396): the table follows the leaf table (assumption 52, DEDUCED). -/
def histAddr (s : State) (e x i : Nat) : Option Nat :=
  let idx := if bufPage e == 21 then x / 2 ^ 21 % 16 else x / 2 ^ 16 % 512
  let size := if bufPage e == 21 then 128 else 4096
  (leafAddr s e x).map fun a => a - 8 * idx + size + 128 * idx + 8 * i
def histEntry (s : State) (e x i : Nat) : Nat :=
  match histAddr s e x i with
  | some a => coherentRead s a 8
  | none => 0
/-- The history entries in use of the page of an offset, with their slots. -/
def history (s : State) (e x : Nat) : List (Nat × Nat) :=
  ((upTo 15).map fun i => (i, histEntry s e x i)).filter fun h => leafV h.2

/-- The frame's entry whose VER is the latest at or before p: the live one or one of history (R396). -/
def platEntry (s : State) (e x leaf p : Nat) : Option Nat :=
  (leaf :: (history s e x).map (·.2)).foldl (fun best h =>
    if verLe (leafVer h) p then
      match best with
      | some b => if verLe (leafVer b) (leafVer h) then some h else some b
      | none => some h
    else best) none

/-- Where a read of version p at offset x of a buffer goes (R400). -/
def verLoc (s : State) (die ctx idx e x p : Nat) : Loc :=
  match findLeaf s die (pageKey ctx idx e x) e x, s.snap? ctx idx with
  | .busy, _ => .busy
  | .fault c, _ => .fault c
  | .leaf (some leaf), some v =>
    if leafBad e leaf then .fault Cause.pageInvalid
    else if leafState leaf == 3 then .fault Cause.pageQuar
    else if 2 ^ 23 ≤ wrap ((v.pub : Int) - p) 24 then .fault Cause.verWindow
    else if !v.kept (bufDepth e) p then .fault Cause.verReclaimed
    else if leafState leaf == 2 then .held
    else if keyMissing s e then .fault Cause.keyFail
    else match (histAddr s e x 0).bind fun a => lineFault s (lineOf a) with
      | some c => .fault c
      | none =>
        if (histAddr s e x 0).any fun a => portBusy s die a .read then .busy
        else match platEntry s e x leaf p with
          | none => .fault Cause.verReclaimed
          | some h => lineLoc (s.noteUse idx e x (leafPpa e h x)) die (leafPpa e h x) .read
  | .leaf _, _ => .fault Cause.pageInvalid

/-- The place that an access of a buffer reaches at an address is noted (19 R382, R390). -/
def State.noted (s : State) (e ea : Nat) (p : Place) : State :=
  match p with
  | .mem ppa => s.noteUse (eaIdx ea) e (eaOff ea) ppa
  | .scr .. | .acc .. | .peer .. => s

/-- A versioned load translated (R400): VER_WINDOW and VER_RECLAIMED carry the version. -/
def performVer (s : State) (o : Op) (g : Ag) (e ea n p : Nat) : State :=
  match verLoc s g.die g.ctx (eaIdx ea) e (eaOff ea) p with
  | .at q =>
    if o.combineWaits s g q then s.waitPhase o
    else let (y, s) := readPlace ((s.reach g ea).noted e ea q) g q n; (s.policies g q o.kind.attr).setPhase o (.performed y)
  | .held | .cow _ => s.setPhase o (.held (o.heldSince s))
  | .busy => s.waitPhase o
  | .fault c => if c == Cause.verWindow || c == Cause.verReclaimed then failWith s o c ea p else failOp s o c ea

/-- n bytes of version p that an engine reads from a versioned buffer, sector by sector (17 R361). -/
def readVerFrom (g : Ag) (p : Nat) : Nat → State → Nat → Nat → Got
  | 0, s, _, _ => .ok 0 s
  | f + 1, s, ea, n =>
    let c := min n (32 - ea % 32)
    match bufOf s g.ctx (eaIdx ea) with
    | none => .fault Cause.bufInvalid ea s
    | some e =>
      match verLoc s g.die g.ctx (eaIdx ea) e (eaOff ea) p with
      | .fault cause => .fault cause ea s
      | .held | .cow _ => .hold ea s
      | .busy => busyGot s ea fun s => verLoc s g.die g.ctx (eaIdx ea) e (eaOff ea) p
      | .at q =>
        let (x, s) := readPlace ((s.reach g ea).noted e ea q) g q c
        if n ≤ c then .ok x s
        else match readVerFrom g p f s (ea + c) (n - c) with
          | .ok y s => .ok (x + 2 ^ (8 * c) * y) s
          | r => r
def readVer (s : State) (g : Ag) (ea n p : Nat) : Got := if n = 0 then .ok 0 s else readVerFrom g p (n / 32 + 2) s ea n

/-! ## ACCESS_TRANSLATE (19 R386) -/

/-- An access performed at a peer package: an acquire acts here as any other (08 R211), and a deterministic launch reads it
through its block's view (24 R433). -/
def donePeer (s : State) (o : Op) (v : Nat) : State :=
  let g := opAg s o
  match o.kind with
  | .load ea n _ _ scope acq _ _ =>
    let x := match viewBlock s g ea with | some b => viewOf b g ea n v | none => v
    let x := x % 2 ^ (8 * n)
    (afterRead (beforeRead s g.core scope acq) g.core scope acq).setPhase o (.performed x)
  | .atom _ _ _ _ _ _ scope rm _ =>
    (afterRead (beforeRead s g.core scope (rmAcq rm)) g.core scope (rmAcq rm)).setPhase o (.performed v)
  | _ => s.setPhase o (.performed v)

/-- What an access asks of a peer, with its data. -/
def OpKind.peerAct : OpKind → PeerAct
  | .store _ n x .. => { op := 1, data := x % 2 ^ (8 * n) }
  | .atom _ code x y dst _ _ _ _ => { op := if dst.isSome then 3 else 2, code := code, data := x, data2 := y }
  | .clean _ _ mode => { op := 4 + mode }
  | .arrv _ _ a n _ _ => { op := 10, code := a, data := wrap n 64 }
  | .tbinit _ e r _ => { op := 11, data := e % 2 ^ 24 + if r then 2 ^ 24 else 0 }
  | _ => {}
/-- The offset and length of the bytes that an access asks a peer for: a deterministic launch reads whole 8-byte words of the
buffer, which its view overlays (24 R433). -/
def peerSpan (s : State) (o : Op) (e ea n : Nat) : Nat × Nat :=
  let off := eaOff ea
  match o.kind, viewBlock s (opAg s o) ea with
  | .load .., some _ => (off - off % 8, min (roundUp (off % 8 + n) 8) (bufLen e - (off - off % 8)))
  | _, _ => (off, n)

/-- A peer's answer, or the wait for it (28 R470, R472; 25 R444): the access is sent once, with the entry as it stood (19
R381), and unsent while no port carries it (27 R462). -/
def settlePeer (s : State) (o : Op) (ea n : Nat) (e : Option Nat) (reply : Option PeerReply) : State :=
  let wait := match o.phase, e with
    | .peer _, _ | _, none => s
    | _, some e =>
      let (off, m) := peerSpan s o e ea n
      (s.send 7 (bufPkg e) (peerWord (peerReq s (opAg s o).ctx (bufRidx e) off m o.kind.peerAct))).setPhase o (.peer s.ref)
  match peerPath s (opAg s o).die with
  | some c => failOp s o c ea
  | none =>
    if peerHeld s then s
    else match reply with
    | some (.done v) => donePeer s o v
    | some .refused => failOp s o Cause.peerRights ea
    | some (.fault c) => if peerCause c then failOp s o c ea else wait
    | none => wait

/-- An access reaches translation: performed, faulted, held, joined to a walk, or sent to a peer. -/
def translateAccess (s : State) (o : Op) (reply : Option PeerReply) : State :=
  let g := opAg s o
  match o.kind.bytes, o.phase with
  | none, _ => s
  | some (ea, n), .peer _ => settlePeer s o ea n none reply
  | some (ea, n), _ =>
    if isWin ea then settleLoc s o g ea (locate s g ea o.kind.stores)
    else
      let idx := eaIdx ea
      match bufOf s g.ctx idx with
      | none => failOp s o Cause.bufInvalid ea
      | some e =>
        if bufPeer e then
          (match o.kind with
           | .clean _ 0 _ => s.setPhase o (.performed 0)
           | _ => settlePeer s o ea n (some e) reply)
        else
          let k := pageKey g.ctx idx e (eaOff ea)
          match o.kind with
          | .clean _ len mode => performClean s o g e ea len mode
          | .load _ _ _ _ _ _ _ (some p) => performVer s o g e ea n p
          | _ =>
            let die := s.die g.die
            match aget? k die.tlb with
            | some leaf =>
              settleLoc (s.noteUse idx e (eaOff ea) (leafPpa e leaf (eaOff ea))) o g ea
                (checkLeaf s g.die k e (eaOff ea) (some leaf) o.kind.writes (o.use s))
            | none =>
              if die.walks.contains k then s.setPhase o (.walking k o.heldAt)
              else if 64 ≤ die.walks.length then s
              else (s.setDie g.die { die with walks := die.walks ++ [k] }).setPhase o (.walking k o.heldAt)

/-- A TBINIT writes the address that it registers into the launch's teardown area first (11 R253, 16 R334); a write that
faults is lost, and it asks no right and no length of the buffer (assumption 21, DEDUCED). -/
def translateOp (s : State) (o : Op) (reply : Option PeerReply) : State :=
  match o.kind, s.launch? o.lid with
  | .tbinit ea e r (some down), some l =>
    let o1 := { o with kind := .tbinit ea e r none }
    match writeEa s (plainAg (bindCore l.die) l.ctx) down 8 ea with
    | .ok _ s | .fault _ _ s => translateAccess (s.setOp o1) o1 reply
    | .hold _ s => s.setPhase o (.held (o.heldSince s))
    | .busy s => s
  | _, _ => translateAccess s o reply

/-- An operation can reach translation. -/
def Op.translatable (o : Op) (s : State) : Bool :=
  o.kind.isAccess && o.ready s &&
  match o.phase with
  | .issued | .held _ | .peer _ => true
  | _ => false

/-- ACCESS_TRANSLATE (19 R386). -/
def execAccessTranslate (op : Nat) (reply : Option PeerReply) (s : State) : Host.Outcome State Fault Refusal :=
  match s.op? op with
  | some o => whenEnabled "ACCESS_TRANSLATE" (o.translatable s) (translateOp s o reply)
  | none => .refused (.notEnabled "ACCESS_TRANSLATE")

/-- The page that an operation's address lies on. -/
def opPage (s : State) (o : Op) : Option PageKey :=
  let g := opAg s o
  (o.kind.bytes).bind fun r => (bufOf s g.ctx (eaIdx r.1)).map fun e => pageKey g.ctx (eaIdx r.1) e (eaOff r.1)

/-- Accesses held on a page are translated again, in issue order (19 R387, R388, 20 R398). -/
def replayHeld (s : State) (page : PageKey) : State :=
  let ids := (s.ops.filter fun o => (match o.phase with | .held _ => true | _ => false) && opPage s o == some page).map
    (·.id)
  ids.foldl (fun s id => match s.op? id with | some o => if o.ready s then translateOp s o none else s | none => s) s

/-- A page's translation is dropped from every die (R381, R388: shootdown). -/
def shootdown (s : State) (page : PageKey) : State :=
  allDies.foldl (fun s d => s.setDie d { s.die d with tlb := adel page (s.die d).tlb }) s

/-- An access joined the walk of a page on a die. -/
def Op.joins (o : Op) (die : Nat) (page : PageKey) : Bool :=
  match o.phase with
  | .walking k _ => k == page && dieOf (coreOf o.slot) == die
  | _ => false

/-- An access that joined a walk, once the walk has ended: served, or given the walk's fault. One whose buffer entry has gone
or has other pages now is translated anew (19 R381). -/
def settleWalk (s : State) (die : Nat) (page : PageKey) (walked : Walked) (o : Op) : State :=
  let ea := (o.kind.bytes.map (·.1)).getD 0
  match bufOf s page.ctx page.buf with
  | none => failOp s o Cause.bufInvalid ea
  | some e =>
    if opPage s o != some page then s.waitPhase o
    else match walked with
      | .fault c => failOp s o c ea
      | .leaf l =>
        settleLoc (match l with | some x => if leafBad e x then s else s.noteUse page.buf e (eaOff ea) (leafPpa e x (eaOff ea)) | none => s) o (opAg s o) ea
          (checkLeaf s die page e (eaOff ea) l o.kind.writes (o.use s))
      | .busy => s

/-- PAGE_WALK_COMPLETE (15 R323): the walk's leaf enters the die's TLB of 8,192 entries and every access that joined is
served, or takes the walk's fault. -/
def execPageWalkComplete (die : Nat) (page : PageKey) (s : State) : Host.Outcome State Fault Refusal :=
  let joined := (s.ops.filter fun o => o.joins die page).map (·.id)
  let d := s.die die
  let s1 := s.setDie die { d with walks := d.walks.filter (· ≠ page) }
  let (walked, s1) := match bufOf s page.ctx page.buf with
    | none => (Walked.leaf none, s1)
    | some e =>
      let x := pageBase e page.page
      match walkFault s die e x with
      | some c => (.fault c, s1)
      | none => (.leaf (walk s e x), walkDone s1 die page e x)
  let t := joined.foldl (fun s id => match s.op? id with
    | some o => settleWalk s die page walked o
    | none => s) s1
  let held := match bufOf s page.ctx page.buf with
    | some e => walkBusy s die e (pageBase e page.page)
    | none => false
  whenEnabled "PAGE_WALK_COMPLETE" (d.walks.contains page && !held) t

/-- FORWARDED_ATOMIC (15 R320, 07 R170): performed at the owning die's atomic unit; an acquire applies what is queued for
its die before it reads (R321). -/
def execForwardedAtomic (op : Nat) (s : State) : Host.Outcome State Fault Refusal :=
  match s.op? op with
  | some o =>
    match o.phase, o.kind with
    | .forwarded d ppa, .atom ea code x y _ attr scope rm _ =>
      let g := opAg s o
      let line := lineOf ppa
      match (lineFault s line).orElse fun _ => if linkDown s g.die || linkDown s d then some Cause.hwLink else none with
      | some c => .next (failOp s o c ea)
      | none =>
        let s := beforeRead s g.core scope (rmAcq rm)
        let n := atomSize code
        let old := coherentRead s ppa n
        let new := atomNew code old x y
        let owned := heldAs s line d == some .m || heldAs s line d == some .o
        let t := if owned then l2Mark (l1DropLine (freshen (l2Write s d ppa n new) g.die line) g.core line) d line attr
          else ((singlePoint s g.core ppa n fun _ => new).2).policies g (.mem ppa) attr
        let unit := if owned then d else g.die
        whenEnabled "FORWARDED_ATOMIC" (!portBusy s unit ppa .write && !fillBusy s unit line)
          ((afterRead t g.core scope (rmAcq rm)).setPhase o (.performed old))
    | _, _ => .refused (.notEnabled "FORWARDED_ATOMIC")
  | none => .refused (.notEnabled "FORWARDED_ATOMIC")

/-! ## Limits on waiting (19 R387, 28 R472) -/

/-- Longer than a limit. -/
def pastLimit (s : State) (since limit : Nat) : Bool := since + limit < s.ref

/-- An address lies in a peer package's buffer. -/
def isPeerEa (s : State) (ctx ea : Nat) : Bool :=
  match bufOf s ctx (eaIdx ea) with
  | some e => bufPeer e && !isWin ea
  | none => false

/-- An address whose page holds the access of an engine's command now (19 R387, 20 R398). -/
def heldNow (s : State) (o : Op) (ea : Nat) : Bool :=
  match locate s (opAg s o) ea o.work.wr with
  | .held | .cow _ => true
  | .at _ | .busy | .fault _ => false
/-- An access that is held is so still when it is translated now (19 R387). -/
def stillHeld (s : State) (o : Op) : Bool :=
  match (translateOp s o none).op? o.id with
  | some p => match p.phase with | .held _ => true | _ => false
  | none => false

/-- How long an operation that is held may wait: the hold limit, or the peer timeout where it waits for a peer to take the
address that a TBINIT registers. -/
def Op.downLimit (o : Op) (s : State) : Nat :=
  match o.kind with
  | .tbinit _ _ _ (some down) => if isPeerEa s (opAg s o).ctx down then s.peerTimeout else s.holdLimit
  | _ => s.holdLimit

/-- The reason that an engine's failure by a limit has in sr.tinfo: 2 where a tile command waits at its signal (12 R296), 4
where a cut selection waits at its streaming ring (17 R371). -/
def Op.heldReason (o : Op) : Nat :=
  match o.kind with
  | .tile .. => if o.work.elem == 2 then 2 else 1
  | .geom .. => if o.work.elem == 4 then 4 else 1
  | _ => 1

/-- HOLD_LIMIT_EXPIRY (19 R387): MIGR_STUCK, and the access is not performed. -/
def execHoldLimitExpiry (op : Nat) (s : State) : Host.Outcome State Fault Refusal :=
  match s.op? op with
  | some o =>
    let ea := (o.kind.bytes.map (·.1)).getD o.work.addr
    match o.phase, o.work.since with
    | .held t, _ =>
      whenEnabled "HOLD_LIMIT_EXPIRY" (pastLimit s t (o.downLimit s) && stillHeld s o) (match o.kind with
        | .tbinit ea e r (some _) => s.setOp { o with kind := .tbinit ea e r none, phase := .issued }
        | _ => failOp s o Cause.migrStuck ea)
    | _, some t =>
      whenEnabled "HOLD_LIMIT_EXPIRY"
        (pastLimit s t s.holdLimit && !o.phase.settled && heldNow s o o.work.addr)
        (s.setOp { o with phase := .failing Cause.migrStuck o.work.addr o.heldReason, work := { o.work with since := none } })
    | _, none => .refused (.notEnabled "HOLD_LIMIT_EXPIRY")
  | none => .refused (.notEnabled "HOLD_LIMIT_EXPIRY")

/-- PEER_TIMEOUT (28 R472): no path answers in time; PEER_FAIL. -/
def execPeerTimeout (s : State) : Host.Outcome State Fault Refusal :=
  match s.input with
  | .peerTimeout op =>
    match s.op? op with
    | some o =>
      let ea := (o.kind.bytes.map (·.1)).getD o.work.addr
      match o.phase, o.work.since with
      | .peer t, _ => whenEnabled "PEER_TIMEOUT" (pastLimit s t s.peerTimeout && !peerHeld s) (failOp s o Cause.peerFail ea)
      | _, some t =>
        whenEnabled "PEER_TIMEOUT"
          (pastLimit s t s.peerTimeout && !peerHeld s && !o.phase.settled && isPeerEa s (opAg s o).ctx o.work.addr)
          ((s.forgetAsked (opAg s o).ctx o.work.addr).setOp { o with phase := .failing Cause.peerFail o.work.addr o.heldReason, work := { o.work with since := none } })
      | _, none => .refused (.notEnabled "PEER_TIMEOUT")
    | none => .refused (.notEnabled "PEER_TIMEOUT")
  | _ => .refused (.notEnabled "PEER_TIMEOUT")

/-! ## Completion (07 R164, 01 R31) -/

/-- The register that a load or a value-returning atomic writes, and its width. -/
def OpKind.result : OpKind → Option (Reg × Width)
  | .load _ n dst .. => some (dst, if n ≤ 4 then .one else if n == 8 then .pair else .quad)
  | .atom _ code _ _ dst _ _ _ _ => dst.map fun r => (r, atomWide code)
  | _ => none

/-- A value written to the registers of an operation's threads; an exited thread's is discarded (06 R153). -/
def writeResult (s : State) (o : Op) (r : Reg) (w : Width) (x : Nat) : State :=
  match s.party? o.slot with
  | none => s
  | some p =>
    let p := if o.tids.all fun t => (p.thread t).exited then p else p.write r w x
    s.setParty o.slot (p.mapThreads o.tids fun _ t => if t.exited then t else t.write r w x)

/-- LOAD_COMPLETE (R164, 01 R31). -/
def execLoadComplete (op : Nat) (s : State) : Host.Outcome State Fault Refusal :=
  match s.op? op with
  | some o =>
    match o.phase, o.kind.result with
    | .performed x, some (r, w) => .next (retire ((writeResult s o r w x).setPhase o .done) op)
    | _, _ => .refused (.notEnabled "LOAD_COMPLETE")
  | none => .refused (.notEnabled "LOAD_COMPLETE")

/-- STORE_ACK (01 R31): acknowledged at its home. -/
def execStoreAck (op : Nat) (s : State) : Host.Outcome State Fault Refusal :=
  match s.op? op with
  | some o =>
    match o.phase, o.kind.result with
    | .performed _, none => .next (retire (s.setPhase o .done) op)
    | _, _ => .refused (.notEnabled "STORE_ACK")
  | none => .refused (.notEnabled "STORE_ACK")

/-- A complete or failed operation that some thread can retire. -/
def retirable (s : State) (o : Op) : Bool :=
  (o.phase == .done || (match o.phase with | .failed .. => true | _ => false)) &&
  (o.cls.isNone || o.live.isEmpty || o.live.any (canRetire s o))

/-- COMMAND_RETIRE (01 R31, 09 R217). -/
def execCommandRetire (op : Nat) (s : State) : Host.Outcome State Fault Refusal :=
  match s.op? op with
  | some o => whenEnabled "COMMAND_RETIRE" (retirable s o) (retire s op)
  | none => .refused (.notEnabled "COMMAND_RETIRE")

end Sys2Proof.Machine
end

