-- ==== Sys2Proof/Machine/Barriers.lean ====
section
/-! DEFINITION. Barriers (06_control_wait_crosslane.md R150 to R152, 14_cluster.md R308, R309): instances, members, arrival,
phase changes, and the threads that leave. -/

namespace Sys2Proof.Machine

/-! ## Names -/

/-- A barrier that a thread names: a party barrier by index, or a wider one by level, launch or context, instance and
index. -/
inductive BarLoc where
  | party (idx : Nat)
  | wide (key : Nat × Nat × Nat × Nat × Nat)
  deriving DecidableEq, Repr

/-- An instance: level, launch or context, two numbers. -/
abbrev BarInst := Nat × Nat × Nat × Nat

/-- The scope code of a barrier, party written 2 (R150). -/
def barScope (c : Nat) : Nat := if c == 0 then 2 else c

/-- The instance of a scope and index for a party on a slot (R308), cores and quads numbered within the block; none where
the barrier does not exist. -/
def barInst (s : State) (slot : Nat) (p : Party) (scope idx : Nat) : Option BarInst :=
  match s.launch? p.lid, s.block? p.lid p.blin with
  | some l, some b =>
    match scope with
    | 3 => some (3, p.lid, p.blin, coreOf slot - b.core)
    | 4 => some (4, p.lid, p.blin, (coreOf slot - b.core) / 4)
    | 5 => if idx < 8 then some (5, p.lid, p.blin, 0) else some (5, p.lid, b.clin, 1)
    | 6 => if l.coRes && idx < 4 then some (6, p.lid, 0, 0) else none
    | 7 => if l.group.isSome && idx < 4 then some (7, l.ctx, l.pgrp, 0) else none
    | _ => none
  | _, _ => none

/-- The barrier that a scope code and an index name. -/
def barLoc (s : State) (slot : Nat) (p : Party) (c idx : Nat) : Option BarLoc :=
  if barScope c == 2 then some (.party idx)
  else (barInst s slot p (barScope c) idx).map fun (x, l, a, b) => .wide (x, l, a, b, idx)

/-- The instances that a party's threads belong to at .co and wider. -/
def instancesOf (s : State) (slot : Nat) (p : Party) : List BarInst :=
  [(3, 0), (4, 0), (5, 0), (5, 8), (6, 0), (7, 0)].filterMap fun (c, i) => barInst s slot p c i

/-! ## Members -/

/-- The launch of a pod group on this package. -/
def podLaunch (s : State) (ctx pgrp : Nat) : Option Launch :=
  s.launches.find? fun l => l.ctx == ctx && l.pgrp == pgrp && l.group.isSome

/-- The members of an instance counted from the block shapes (R308). -/
def startMembers (s : State) (i : BarInst) : Nat :=
  let (level, id, a, b) := i
  if level == 7 then
    match podLaunch s id a with
    | some l => (l.group.getD []).foldl (fun n g => n + g.2) 0
    | none => 0
  else match s.launch? id with
    | none => 0
    | some l =>
      let perCore := 64 * (l.ppb / l.cores)
      match level with
      | 3 => perCore
      | 4 => perCore * min l.cores 4
      | 5 => if b == 0 then 64 * l.ppb else 64 * l.ppb * l.clSize
      | _ => 64 * l.ppb * l.nblocks

/-- The member count of an instance (R308, R309). -/
def memberCount (s : State) (i : BarInst) : Nat :=
  let (joined, left) := aget (0, 0) i s.members
  startMembers s i + joined - left

def barAt (s : State) (k : Nat × Nat × Nat × Nat × Nat) : Bar := aget Bar.init k s.bars
def setBar (s : State) (k : Nat × Nat × Nat × Nat × Nat) (b : Bar) : State := { s with bars := aset k b s.bars }
def keyInst (k : Nat × Nat × Nat × Nat × Nat) : BarInst := (k.1, k.2.1, k.2.2.1, k.2.2.2.1)
def keyIdx (k : Nat × Nat × Nat × Nat × Nat) : Nat := k.2.2.2.2

/-- Threads of a party that have not exited. -/
def Party.running (p : Party) : Nat := (p.threads.filter fun t => !t.exited).length
def Party.bar (p : Party) (i : Nat) : Bar := p.bars.getD i Bar.init

/-! ## Leaving a barrier -/

/-- A thread that waited goes on to the next PC; past word 1023 it takes FLOW_END (06 R130). -/
def Thread.pass (t : Thread) (hpc : Pc) (tid : Nat) (npc : Pc) : Thread × Option Esc :=
  if wordOf npc == 0 then deliver hpc t.pc tid { cause := Cause.flowEnd, tinfo := 1 } { t with hold := none }
  else ({ t with pc := npc, hold := none }, none)

/-- The handler entry of a launch. -/
def hpcOf (s : State) (lid : Nat) : Pc := match s.launch? lid with | some l => BitVec.ofNat 16 l.handler | none => 0

/-- Threads of a running slot leave the barrier (scope, idx) if they wait for the phase; a leaving thread acquires at the
barrier's scope (R152). A thread with a cause to take takes it first and stays at its BAR (09 R216). -/
def leaveBar (s : State) (slot scope idx phase : Nat) : State :=
  match s.party? slot with
  | none => s
  | some p =>
    let waits := fun (t : Thread) => match t.hold with
      | some (.bar c i ph _) => c == scope && i == idx && ph == phase && !t.deliverable
      | _ => false
    if !p.threads.any waits || !waitsGo s slot then s
    else
      let hpc := hpcOf s p.lid
      let rs := mapI (fun k t =>
        match t.hold with
        | some (.bar _ _ _ npc) => if waits t then Thread.pass t hpc k npc else (t, none)
        | _ => (t, none)) 0 p.threads
      let p := Party.escalateAll { p with threads := rs.map (·.1) } (rs.filterMap (·.2))
      acquire (s.setParty slot p) (coreOf slot) scope

/-- The marks of threads that had arrived at a barrier are gone once its phase has moved (R151). -/
def Party.clearArrivals (p : Party) (scope idx : Nat) : Party :=
  { p with threads := p.threads.map fun t =>
      { t with arrivals := t.arrivals.filter fun a => !(a.1 == scope && a.2.1 == idx) } }

/-- A closure point of a deterministic launch's block (24 R430). -/
def isClosure (l : Launch) (scope : Nat) : Bool :=
  l.isDet && ((scope == 3 && l.cores == 1) || (scope == 4 && (l.cores == 2 || l.cores == 4)) || scope == 5 || scope == 6)

/-- The instance that every thread of a block belongs to at a closure barrier (24 R430). -/
def closureInst (l : Launch) (b : Block) (scope idx : Nat) : BarInst :=
  match scope with
  | 3 | 4 => (scope, l.lid, b.blin, 0)
  | 5 => if idx < 8 then (5, l.lid, b.blin, 0) else (5, l.lid, b.clin, 1)
  | _ => (scope, l.lid, 0, 0)

/-- A phase change is a closure point of every block whose threads are all in the barrier's instance, saved ones too: their
merges are to come (24 R430, R432). -/
def queueMerges (s : State) (l : Launch) (k : Nat × Nat × Nat × Nat × Nat) (phase : Nat) : State :=
  let m := (k.1, keyIdx k, phase, s.seq)
  { s with blocks := s.blocks.map fun b =>
      if b.lid == l.lid && !b.ended && closureInst l b k.1 (keyIdx k) == keyInst k && !b.merges.contains m then
        { b with merges := b.merges ++ [m] }
      else b }

/-- A party barrier's phase advances. -/
def partyBarNext (s : State) (slot idx : Nat) : State :=
  match s.party? slot with
  | none => s
  | some p =>
    let b := p.bar idx
    let p := { p with bars := p.bars.set idx { phase := (b.phase + 1) % 256, arrived := 0 } }
    leaveBar (s.setParty slot (p.clearArrivals 2 idx)) slot 2 idx b.phase

/-- A wider barrier's phase advances: every waiting thread of the instance leaves; at a closure point of a deterministic
launch the merge comes first (24 R432). -/
def wideBarNext (s : State) (k : Nat × Nat × Nat × Nat × Nat) : State :=
  let b := barAt s k
  let scope := k.1
  let idx := keyIdx k
  let s := setBar s k { phase := (b.phase + 1) % 256, arrived := 0 }
  let closing := (s.launch? k.2.1).filter fun l => isClosure l scope
  let s := match closing with | some l => queueMerges s l k b.phase | none => s
  let slots := (s.slots.filter fun e =>
    match e.2.party with
    | some p => barInst s e.1 p scope idx == some (keyInst k)
    | none => false).map (·.1)
  slots.foldl (fun s slot =>
    match s.party? slot with
    | none => s
    | some p =>
      let s := s.setParty slot (p.clearArrivals scope idx)
      if closing.isSome then s else leaveBar s slot scope idx b.phase) s

/-- A barrier's phase advances if its arrivals match its members (R151); with no arrival it never advances (assumption 88,
DESIGN CHOICE). -/
def checkBar (s : State) (slot : Nat) (l : BarLoc) : State :=
  match l with
  | .party idx =>
    match s.party? slot with
    | some p => if (p.bar idx).arrived != 0 && (p.bar idx).arrived == p.running then partyBarNext s slot idx else s
    | none => s
  | .wide k => if (barAt s k).arrived != 0 && (barAt s k).arrived == memberCount s (keyInst k) then wideBarNext s k else s

/-- Every barrier of an instance is examined. -/
def checkInst (s : State) (i : BarInst) : State :=
  ((s.bars.map (·.1)).filter fun k => keyInst k == i).foldl (fun s k => checkBar s 0 (.wide k)) s

/-- n threads leave an instance (R309). -/
def leaveInst (s : State) (i : BarInst) (n : Nat) : State :=
  let (j, l) := aget (0, 0) i s.members
  let s := { s with members := aset i (j, l + n) s.members }
  checkInst (if i.1 == 7 then s.send 14 i.2.2.1 n else s) i
/-- n threads join an instance (14 R314). -/
def joinInst (s : State) (i : BarInst) (n : Nat) : State :=
  let (j, l) := aget (0, 0) i s.members
  { s with members := aset i (j + n, l) s.members }

/-! ## Arriving -/

/-- The phase of a barrier. -/
def barPhase (s : State) (slot : Nat) (l : BarLoc) : Nat :=
  match l with
  | .party idx => match s.party? slot with | some p => (p.bar idx).phase | none => 0
  | .wide k => (barAt s k).phase

/-- A merge of the block is still to come at the barrier whose phase has moved (24 R432). -/
def mergePending (s : State) (p : Party) (scope idx phase : Nat) : Bool :=
  match s.block? p.lid p.blin with
  | some b => b.merges.any fun m => m.1 == scope && m.2.1 == idx && m.2.2.1 == phase
  | none => false

/-- The arrival count of a barrier changed by d. -/
def addArrival (s : State) (slot : Nat) (l : BarLoc) (d : Int) : State :=
  let up := fun (b : Bar) => { b with arrived := ((b.arrived : Int) + d).toNat }
  match l with
  | .party idx =>
    match s.party? slot with
    | some p => s.setParty slot { p with bars := p.bars.set idx (up (p.bar idx)) }
    | none => s
  | .wide k => setBar s k (up (barAt s k))

/-- An arrival at a barrier of a pod group is told to its other packages (28 R473) (assumption 59, DESIGN CHOICE). -/
def tellPod (s : State) (l : BarLoc) : State :=
  match l with
  | .wide k => if k.1 == 7 then s.send 13 k.2.2.1 (keyIdx k) else s
  | .party _ => s

/-! ## Leaving every barrier -/

/-- An arrival is withdrawn; at a barrier of a pod group its other packages are told (28 R473). -/
def withdraw (s : State) (slot : Nat) (l : BarLoc) : State :=
  let s := addArrival s slot l (-1)
  match l with
  | .wide k => if k.1 == 7 then s.send 13 k.2.2.1 (keyIdx k + 16) else s
  | .party _ => s

/-- A thread that has arrived takes its arrivals with it (R151). -/
def dropArrivals (s : State) (slot : Nat) (p : Party) (t : Thread) (wideOnly : Bool) : State :=
  t.arrivals.foldl (fun s a =>
    match barLoc s slot p a.1 a.2.1 with
    | some (.party i) => if wideOnly then s else withdraw s slot (.party i)
    | some (.wide k) => withdraw s slot (.wide k)
    | none => s) s

/-- A thread leaves every barrier at .co and wider (R309). -/
def leaveWide (s : State) (slot tid : Nat) : State :=
  match s.party? slot with
  | none => s
  | some p =>
    let t := p.thread tid
    let s := dropArrivals s slot p t true
    let s := match s.party? slot with
      | some p => s.setParty slot (p.setThread tid { t with arrivals := t.arrivals.filter fun a => a.1 == 2 })
      | none => s
    (instancesOf s slot p).foldl (fun s i => leaveInst s i 1) s

/-- EXIT of one thread (R153, R151): it leaves every barrier, and the barriers are examined. -/
def exitThread (s : State) (slot tid : Nat) : State :=
  match s.party? slot with
  | none => s
  | some p =>
    let t := p.thread tid
    let s := dropArrivals s slot p t false
    let s := match s.party? slot with
      | some p => s.setParty slot (p.setThread tid { t with exited := true, hold := none, arrivals := [], barKept := none })
      | none => s
    let s := (upTo 16).foldl (fun s i => checkBar s slot (.party i)) s
    (instancesOf s slot p).foldl (fun s i => leaveInst s i 1) s

/-! ## BAR and BARA (R151, R152) -/

/-- The accesses that an arrival, a release at the barrier's scope, must follow are settled. -/
def released (s : State) (slot tid : Nat) (handler : Bool) : Bool := (openAccesses s slot [tid] handler).isEmpty

/-- One thread's BAR: while an earlier access is open it stays; a kept arrival goes on waiting; else it arrives. -/
def barOne (cx : Cx) (s : State) (tid : Nat) (t : Thread) (c idx : Nat) (d : Option Reg) : State × (Thread × Option Esc) :=
  let scope := barScope c
  match barLoc s cx.slot cx.party c idx with
  | none => (s, cx.raise tid { cause := Cause.barNone, tinfo := idx + 16 * c } t)
  | some l =>
    let p := barPhase s cx.slot l
    match (if d.isSome || t.handler then none else t.barKept.bind fun k => if k.1 == cx.pc && k.2.1 == scope && k.2.2.1 == idx then some k.2.2.2 else none) with
    | some kept =>
      if p != kept && !mergePending s cx.party scope idx kept then
        (acquire s cx.core scope, cx.advance tid { t with barKept := none })
      else (s, ({ t with hold := some (.bar scope idx kept cx.npc), barKept := none }, none))
    | none =>
      if t.arrivals.any fun a => a.1 == scope && a.2.1 == idx then
        (s, cx.raise tid { cause := Cause.barRearrive, tinfo := idx + 16 * c } t)
      else if !released s cx.slot tid cx.issue.handler then (s, (t, none))
      else
        let t1 := { t with arrivals := t.arrivals ++ [(scope, idx, p)] }
        let s := match s.party? cx.slot with | some q => s.setParty cx.slot (q.setThread tid t1) | none => s
        let s := checkBar (tellPod (addArrival s cx.slot l 1) l) cx.slot l
        let moved := barPhase s cx.slot l != p
        let t2 := if moved then t else t1
        match d with
        | some r => (cx.putG s tid .one p, cx.advance tid (t2.write r .one p))
        | none =>
          if moved && !mergePending s cx.party scope idx p then (acquire s cx.core scope, cx.advance tid t2)
          else (s, ({ t2 with hold := some (.bar scope idx p cx.npc) }, none))

/-- BAR (R151). -/
def execBar (d a b : BitVec 8) (s : State) : Host.Outcome State Fault Refusal :=
  runWord s (.bar d a b) fun cx s =>
    cx.each s fun s tid _ t =>
      if cx.enabled tid then barOne cx s tid t (cx.p.c % 16) b.toNat none else (s, cx.advance tid t)
/-- BARA (R151): D receives the phase arrived in. -/
def execBara (d a b : BitVec 8) (s : State) : Host.Outcome State Fault Refusal :=
  runWord s (.bara d a b) fun cx s =>
    cx.each s fun s tid _ t =>
      if cx.enabled tid then barOne cx s tid t (cx.p.c % 16) b.toNat (some cx.dreg) else (s, cx.advance tid t)

end Sys2Proof.Machine
end

