-- ==== Sys2Proof/Machine/Crosslane.lean ====
section
/-! DEFINITION. Cross-lane work (06_control_wait_crosslane.md R144 to R149): holds, the execution of XLN, XRED, ELECT and
VOTE for a participation set, holds that can never complete, and EXIT (R153). -/

namespace Sys2Proof.Machine

/-! ## The instruction at a PC -/

/-- A word that no prefix may stand before: a uniform word or another prefix (03 R65). -/
def barsPrefix (w : Word) : Bool := bitOf w.toNat 31 || fld w.toNat 24 8 == 0x7F

/-- The instruction at a PC: the prefix word, if the word there is one (03 R65), and the instruction; a prefix that cannot
stand there is an instruction of its own. -/
def fetchInstr (s : State) (core lid : Nat) (pc : Pc) : Option (Option Word × Instr) :=
  match fetchWord s core lid pc with
  | none => none
  | some w =>
    match decodeWord w with
    | .xPrefix f =>
      if wordOf pc == 1023 then some (none, .xPrefix f)
      else match fetchWord s core lid (pc + 1) with
        | some w1 => if barsPrefix w1 then some (none, .xPrefix f) else some (some w, decodeWord w1)
        | none => none
    | i => some (none, i)

/-- The context in which some threads of a party execute the instruction at a PC. -/
def cxAt (s : State) (slot : Nat) (pc : Pc) (tids : List Nat) : Option Cx :=
  match s.party? slot with
  | none => none
  | some p =>
    match fetchInstr s (coreOf slot) p.lid pc with
    | none => none
    | some (pfx, i) =>
      cx? { s with issue := some { slot := slot, pc := pc, tids := tids, handler := false, pfx := pfx } } i

/-! ## Values (R146 to R149) -/

/-- The source thread of XLN (R146). -/
def xlnSource (mode k b t : Nat) : Nat :=
  let w := min Config.lanes 64
  let o := w / 2 ^ k
  let s : Int := match mode with
    | 0 => (b % 64 : Nat)
    | 1 => (t : Int) - o
    | 2 => (t : Int) + o
    | _ => (Nat.xor t o : Nat)
  if mode != 0 && (s < 0 || 63 < s || s.toNat / w != t / w) then t else s.toNat

/-- Two values combined, with the flags raised (R147). -/
def xredCombine (op x y : Nat) : Nat × Nat :=
  let o : Opnds := { d := 0, a := x, b := y, c := 0 }
  match op with
  | 0 => (iaddVal o, 0)
  | 1 => (iminVal o, 0)
  | 2 => (imaxVal o, 0)
  | 3 => (nminVal o, 0)
  | 4 => (nmaxVal o, 0)
  | 5 => (andVal o, 0)
  | 6 => (orVal o, 0)
  | 7 => (xorVal o, 0)
  | 8 => (iadd64Val o, 0)
  | 9 => addVals .f32 .nonsat 1 0 false (Fmt.f32.decode x) (Fmt.f32.decode y)
  | 10 => minMax .f32 false x y
  | 11 => minMax .f32 true x y
  | 12 => addVals .f64 .nonsat 1 0 false (Fmt.f64.decode x) (Fmt.f64.decode y)
  | 13 => minMax .f64 false x y
  | _ => minMax .f64 true x y

/-- The tree of R147 over 2^k threads from lo: a value, absent where no thread takes part, and the flags. -/
def xredNode (op : Nat) (val : Nat → Option Nat) : Nat → Nat → Option Nat × Nat
  | 0, lo => (val lo, 0)
  | k + 1, lo =>
    let l := xredNode op val k lo
    let r := xredNode op val k (lo + 2 ^ k)
    match l.1, r.1 with
    | none, x => (x, r.2)
    | x, none => (x, l.2)
    | some x, some y => let c := xredCombine op x y; (some c.1, Nat.lor c.2 (Nat.lor l.2 r.2))

/-- What the instruction writes to thread t's D, and the flags of the instruction; val gives A of a thread of P. An ELECT
whose D is one register of the party writes the chosen thread's index (assumption 111, DESIGN CHOICE). -/
def xlValue (cx : Cx) (ps : List Nat) (val : Nat → Option Nat) (b t : Nat) : Nat :=
  match cx.i with
  | .xln .. =>
    let src := xlnSource (cx.p.c % 8) (fld cx.p.c 3 3) b t
    ((val src).orElse fun _ => val t).getD 0
  | .xred .. =>
    let n := 6 - fld cx.p.c 4 3
    ((xredNode (cx.p.c % 16) val n (t / 2 ^ n * 2 ^ n)).1).getD 0
  | .vote _ _ kind =>
    let yes := ps.filter fun t => (val t).getD 0 != 0
    match kind.toNat with
    | 0 => tidMask yes
    | 1 => bit (!yes.isEmpty)
    | 2 => bit (yes.length == ps.length)
    | 3 => yes.length
    | _ => bit (ps.all fun t => val t == val (ps.headD 0))
  | _ =>
    match cx.dreg with
    | .v _ | .o _ => bit (t == ps.headD 0)
    | _ => ps.headD 0

/-- The flags of every combine in every span (R147). -/
def xlFlags (cx : Cx) (val : Nat → Option Nat) : Nat :=
  match cx.i with
  | .xred .. =>
    let n := 6 - fld cx.p.c 4 3
    (upTo (64 / 2 ^ n)).foldl (fun f k => Nat.lor f (xredNode (cx.p.c % 16) val n (k * 2 ^ n)).2) 0
  | _ => 0

/-- The instruction executes for every thread of P in one step (R144). -/
def xlExecute (s : State) (slot : Nat) (pc : Pc) (ps : List Nat) : State :=
  match cxAt s slot pc ps with
  | none => s
  | some cx =>
    let party := cx.party
    let opnds := fun t => cx.opnds (cx.view s.ref t)
    let val := fun t => if ps.contains t then some (opnds t).a else none
    let flags := xlFlags cx val
    if cx.launch.nvt && bitOf flags 4 then
      cx.mapGroup s fun t th =>
        cx.raise t { cause := Cause.fpInvalid, tinfo := 0x54 } (Thread.orFlags { th with hold := none } Flag.nv)
    else
      let party := if cx.dreg.isW then party.write cx.dreg cx.dwidth (xlValue cx ps val 0 (ps.headD 0)) else party
      let gives := fun t => xlValue cx ps val (opnds t).b t
      ({ cx with party := party }.withG cx.dwidth fun t => some (gives t)).mapGroup s fun t th =>
        cx.advance t ((th.write cx.dreg cx.dwidth (gives t)).orFlags flags)

/-! ## Holds (R145) -/

/-- The threads held at a PC, with the mask their group read. -/
def heldAt (p : Party) (pc : Pc) : List (Nat × Nat) :=
  (upTo 64).filterMap fun t =>
    match (p.thread t).hold with
    | some (.xl m) => if (p.thread t).pc == pc then some (t, m) else none
    | _ => none
/-- The PCs at which threads are held, in ascending thread order. -/
def holdPcs (p : Party) : List Pc :=
  ((upTo 64).filterMap fun t =>
    match (p.thread t).hold with
    | some (.xl _) => some (p.thread t).pc
    | _ => none).eraseDups
/-- The participation set of the hold at a PC (R144). -/
def holdSet (p : Party) (pc : Pc) : List Nat :=
  match heldAt p pc with
  | [] => []
  | (_, m) :: _ => (upTo 64).filter fun t => bitOf m t && !(p.thread t).exited

/-- Every thread of P is held, and none has a cause to take first (09 R216). -/
def holdFull (p : Party) (pc : Pc) : Bool :=
  (holdSet p pc).all fun t => ((heldAt p pc).map (·.1)).contains t && !(p.thread t).deliverable

/-- Holds that can complete, given those found so far: every thread of P that is missing is held nowhere, has a cause to
take, or is held at one of them. -/
def canComplete (p : Party) (live : List Pc) (pc : Pc) : Bool :=
  (holdSet p pc).all fun t =>
    match (p.thread t).hold with
    | some (.xl _) => (p.thread t).pc == pc || live.contains (p.thread t).pc || (p.thread t).deliverable
    | _ => true
/-- The holds that can complete, by growth from none. -/
def liveHolds (p : Party) (pcs : List Pc) : Nat → List Pc → List Pc
  | 0, live => live
  | n + 1, live => liveHolds p pcs n (pcs.filter fun pc => live.contains pc || canComplete p live pc)

/-- After an arrival or an exit: full holds execute, and the threads of holds that can never complete trap XL_DIVERGE (assumption 55, DEDUCED). -/
def xlSettle (s : State) (slot : Nat) : State :=
  match s.party? slot with
  | none => s
  | some p =>
    if !waitsGo s slot then s else
    let s := ((holdPcs p).filter (holdFull p)).foldl (fun s pc => xlExecute s slot pc (holdSet p pc)) s
    match s.party? slot with
    | none => s
    | some p =>
      let pcs := holdPcs p
      let live := liveHolds p pcs pcs.length []
      let hpc := hpcOf s p.lid
      let dead := fun (t : Thread) =>
        (match t.hold with | some (.xl _) => true | _ => false) && !live.contains t.pc && !t.deliverable
      if !p.threads.any dead then s
      else
        let rs := mapI (fun k t =>
          if dead t then deliver hpc t.pc k { cause := Cause.xlDiverge, tinfo := t.pc.toNat } { t with hold := none }
          else (t, none)) 0 p.threads
        s.setParty slot (Party.escalateAll { p with threads := rs.map (·.1) } (rs.filterMap (·.2)))

/-- A cross-lane instruction reached by a group: its enabled threads are held, or trap XL_MASK where the mask differs from
the one the threads already held read (R144, R145). -/
def runXl (s : State) (i : Instr) : Host.Outcome State Fault Refusal :=
  runWord s i fun cx s =>
    let mask := if cx.p.me then maskPair cx.party cx.p.m else 2 ^ 64 - 1
    let clash := (heldAt cx.party cx.pc).any fun h => h.2 != mask
    let s := cx.mapGroup s fun t th =>
      if !cx.enabled t then cx.advance t th
      else if clash then cx.raise t { cause := Cause.xlMask, tinfo := cx.pc.toNat } th
      else ({ th with hold := some (.xl mask) }, none)
    xlSettle s cx.slot

/-- XLN (R146). -/
def execXln (d a b : BitVec 8) (s : State) : Host.Outcome State Fault Refusal := runXl s (.xln d a b)
/-- XRED (R147). -/
def execXred (d a b : BitVec 8) (s : State) : Host.Outcome State Fault Refusal := runXl s (.xred d a b)
/-- ELECT (R149). -/
def execElect (d a b : BitVec 8) (s : State) : Host.Outcome State Fault Refusal := runXl s (.elect d a b)
/-- VOTE (R148). -/
def execVote (d a b : BitVec 8) (s : State) : Host.Outcome State Fault Refusal := runXl s (.vote d a b)

/-- EXIT (R153). -/
def execExit (d a b : BitVec 8) (s : State) : Host.Outcome State Fault Refusal :=
  runWord s (.exit d a b) fun cx s =>
    let s := cx.mapGroup s fun t th => if cx.enabled t then (th, none) else cx.advance t th
    xlSettle (cx.active.foldl (fun s t => exitThread s cx.slot t) s) cx.slot

end Sys2Proof.Machine
end

