-- ==== Sys2Proof/Machine/Control.lean ====
section
/-! DEFINITION. Control, waits and code overlays (06_control_wait_crosslane.md R129 to R143, R154, R155, R493, R496):
branches, fenced jumps, CFETCH and the states of segments, WAITN, WAITC, status reads and no-ops. -/

namespace Sys2Proof.Machine

/-! ## Branches (R131) -/

/-- What a branch does to a thread, given its condition. -/
def Cx.branch (cx : Cx) (taken : Bool) (imm : BitVec 16) (tid : Nat) (t : Thread) : Thread × Option Esc :=
  if segOf imm != segOf cx.pc then cx.raise tid { cause := Cause.brSeg, tinfo := segOf imm } t
  else if taken then (t.jump imm, none)
  else cx.advance tid t

/-- BNZ and BZ. -/
def runBranch (s : State) (i : Instr) (onNonzero : Bool) (imm : BitVec 16) : Host.Outcome State Fault Refusal :=
  runWord s i fun cx s => cx.mapGroup s fun tid t =>
    if cx.enabled tid then
      cx.branch (((cx.opnds (cx.view s.ref tid)).d != 0) == onNonzero) imm tid t
    else cx.advance tid t
/-- UBNZ and UBZ: once for the group (R131, 01 R17). -/
def runUBranch (s : State) (i : Instr) (onNonzero : Bool) (imm : BitVec 16) : Host.Outcome State Fault Refusal :=
  runWord s i fun cx s =>
    let taken := ((cx.opnds (cx.view s.ref (cx.tids.headD 0))).d != 0) == onNonzero
    cx.mapGroup s (cx.branch taken imm)

/-- BNZ (R131). -/
def execBnz (d : BitVec 8) (imm : BitVec 16) (s : State) : Host.Outcome State Fault Refusal :=
  runBranch s (.bnz d imm) true imm
/-- BZ (R131). -/
def execBz (d : BitVec 8) (imm : BitVec 16) (s : State) : Host.Outcome State Fault Refusal :=
  runBranch s (.bz d imm) false imm
/-- UBNZ (R131). -/
def execUbnz (d : BitVec 8) (imm : BitVec 16) (s : State) : Host.Outcome State Fault Refusal :=
  runUBranch s (.ubnz d imm) true imm
/-- UBZ (R131). -/
def execUbz (d : BitVec 8) (imm : BitVec 16) (s : State) : Host.Outcome State Fault Refusal :=
  runUBranch s (.ubz d imm) false imm

/-! ## Fenced jumps (R132, R133) -/

/-- The segment check of a jump, a call or a return: none when the segment may be entered. -/
def segCheck (s : State) (core : Nat) (l : Launch) (seg : Nat) : Option Trap :=
  if !bitOf l.segMap seg then some { cause := Cause.segRange, tinfo := seg }
  else match (segAt s core l.lid seg).st with
    | .failed a => some { cause := Cause.segFailed, taddr := a, tinfo := seg }
    | .landed | .dropping => none
    | .absent | .fetching => some { cause := Cause.segAbsent, tinfo := seg }

/-- JMPF, CALLF and RET. -/
def runJump (s : State) (i : Instr) : Host.Outcome State Fault Refusal :=
  runWord s i fun cx s =>
    let target := fun tid => BitVec.ofNat 16 (cx.opnds (cx.view s.ref tid)).a
    let stops := fun tid => segCheck s cx.core cx.launch (segOf (target tid))
    (cx.withG .one fun tid => if cx.enabled tid && (stops tid).isNone then some cx.npc.toNat else none).mapGroup s
      fun tid t =>
        if cx.enabled tid then
          match stops tid with
          | some tr => cx.raise tid tr t
          | none => ((t.write cx.dreg .one cx.npc.toNat).jump (target tid), none)
        else cx.advance tid t
/-- UJMPF, UCALLF and URET. -/
def runUJump (s : State) (i : Instr) : Host.Outcome State Fault Refusal :=
  runWord s i fun cx s =>
    let target := BitVec.ofNat 16 (cx.opnds (cx.view s.ref (cx.tids.headD 0))).a
    match segCheck s cx.core cx.launch (segOf target) with
    | some tr => cx.trapAll s tr
    | none =>
      let cx := { cx with party := cx.party.write cx.dreg .one cx.npc.toNat }
      cx.mapGroup s fun _ t => (t.jump target, none)

/-- JMPF (R132). -/
def execJmpf (d a b : BitVec 8) (s : State) : Host.Outcome State Fault Refusal := runJump s (.jmpf d a b)
/-- CALLF (R132). -/
def execCallf (d a b : BitVec 8) (s : State) : Host.Outcome State Fault Refusal := runJump s (.callf d a b)
/-- RET (R132). -/
def execRet (d a b : BitVec 8) (s : State) : Host.Outcome State Fault Refusal := runJump s (.ret d a b)
/-- UJMPF (R133). -/
def execUjmpf (d a b : BitVec 8) (s : State) : Host.Outcome State Fault Refusal := runUJump s (.ujmpf d a b)
/-- UCALLF (R133). -/
def execUcallf (d a b : BitVec 8) (s : State) : Host.Outcome State Fault Refusal := runUJump s (.ucallf d a b)
/-- URET (R133). -/
def execUret (d a b : BitVec 8) (s : State) : Host.Outcome State Fault Refusal := runUJump s (.uret d a b)

/-! ## Segments (R134 to R136) -/

/-- CFETCH operations on a segment of a launch on a core that have not completed, in issue order. -/
def segOps (s : State) (core lid seg : Nat) : List Op :=
  s.ops.filter fun o =>
    coreOf o.slot == core && o.lid == lid && !o.phase.settled &&
    (match o.kind with | .cfetch g _ => g == seg | _ => false)

def OpKind.isDrop : OpKind → Bool
  | .cfetch _ drop => drop
  | _ => false

/-- An operation completes and retires if it can. -/
def completeOp (s : State) (id : Nat) : State :=
  match s.op? id with
  | some o => retire (s.setPhase o .done) id
  | none => s

/-- The segment's state set, its image kept. -/
def setSegSt (s : State) (core lid seg : Nat) (st : SegSt) : State :=
  setSeg s core lid seg { segAt s core lid seg with st := st }

/-- The handler's segment is never dropped (09 R219). -/
def handlerSeg (s : State) (lid seg : Nat) : Bool :=
  match s.launch? lid with
  | some l => l.handler != 0 && segOf (BitVec.ofNat 16 l.handler) == seg
  | none => false

/-- One CFETCH operation takes effect on its segment (R135). -/
def segApply (s : State) (core lid seg id : Nat) (drop : Bool) : State :=
  match (segAt s core lid seg).st with
  | .absent => if drop then completeOp s id else setSegSt s core lid seg .fetching
  | .fetching => s
  | .landed =>
    if !drop then completeOp s id
    else if handlerSeg s lid seg then completeOp s id
    else setSegSt s core lid seg .dropping
  | .dropping =>
    if drop then s
    else
      let s := (segOps s core lid seg).foldl (fun s o => if o.id < id || o.id == id then completeOp s o.id else s) s
      setSegSt s core lid seg .landed
  | .failed _ =>
    if drop then completeOp (setSeg s core lid seg { st := .absent, image := [] }) id
    else setSegSt s core lid seg .fetching

/-- An image read has ended: the fetches that joined it complete, and what waited behind takes effect in issue order. -/
def segEnd (s : State) (core lid seg : Nat) : State :=
  let ops := segOps s core lid seg
  let joined := ops.takeWhile fun o => !o.kind.isDrop
  let rest := ops.dropWhile fun o => !o.kind.isDrop
  let s := joined.foldl (fun s o => completeOp s o.id) s
  rest.foldl (fun s o => segApply s core lid seg o.id o.kind.isDrop) s

/-- Segments of a launch that fill its budget on a core (R134). -/
def segUse (s : State) (core lid : Nat) : Nat :=
  ((upTo 64).filter fun g =>
    match (segAt s core lid g).st with
    | .landed | .fetching | .dropping => true
    | .absent | .failed _ => false).length

/-- CFETCH (R134). -/
def execCfetch (d a b : BitVec 8) (s : State) : Host.Outcome State Fault Refusal :=
  runWord s (.cfetch d a b) fun cx s =>
    cx.each s fun s tid v t =>
      if cx.enabled tid then
        let x := (cx.opnds v).a
        let drop := b == 1
        let fresh := match (segAt s cx.core cx.party.lid x).st with | .absent | .failed _ => true | _ => false
        if 64 ≤ x || !bitOf cx.launch.segMap x then
          (s, cx.raise tid { cause := Cause.segRange, tinfo := x % 64 } t)
        else if !drop && fresh && cx.launch.segBud ≤ segUse s cx.core cx.party.lid then
          (s, cx.raise tid { cause := Cause.segFull, tinfo := x } t)
        else
          let t := t.count .cf
          let s := match s.party? cx.slot with | some p => s.setParty cx.slot (p.setThread tid t) | none => s
          let id := s.seq
          let s := s.addOp cx.slot cx.party.lid [tid] (some .cf) cx.pc (.cfetch x drop) []
          let s := segApply s cx.core cx.party.lid x id drop
          let t := match s.party? cx.slot with | some p => p.thread tid | none => t
          (s, cx.advance tid t)
      else (s, cx.advance tid t)

/-- The agent that reads images and records for a launch on a core: no block's view (24 R433) is its own. -/
def coreAg (l : Launch) (core : Nat) : Ag := { core := core, lid := l.lid, ctx := l.ctx, blin := 2 ^ 64 }

/-- n bytes of a buffer of a launch's context, checked as a read: the read of a core or a bind core (R136, 16 R335). -/
def readBuf (s : State) (l : Launch) (g : Ag) (ea n : Nat) : Got :=
  match checkEa s l { size := n, r := true, scr := false, acc := false } ea with
  | some c => .fault c ea s
  | none => readEa s g ea n

/-- The words of an image of 4,096 bytes that are not zero. -/
def imageWords (x : Nat) : List (Nat × Word) :=
  (upTo 1024).filterMap fun i => let w := fld x (32 * i) 32; if w == 0 then none else some (i, BitVec.ofNat 32 w)

/-- The image address of a segment (16 R334). -/
def imageEa (l : Launch) (seg : Nat) : Nat := eaAdd l.code (4096 * seg : Nat)

/-- How long a core's or a bind core's access to an address waits: the peer timeout, or the hold limit (19 R387, 28 R472). -/
def waitLimit (s : State) (ctx ea : Nat) : Nat := if isPeerEa s ctx ea then s.peerTimeout else s.holdLimit

/-- The image read of a segment that is fetched ends, its outcome the segment's state and image. -/
def segRead (s : State) (core lid seg : Nat) (st : SegSt) (image : List (Nat × Word)) : State :=
  segEnd (setSeg s core lid seg { st := st, image := image }) core lid seg

/-- SEGMENT_LANDED (R135, R136); a read that is held leaves the segment FETCHING, and its wait begins (19 R387). -/
def execSegmentLanded (core lid seg : Nat) (s : State) : Host.Outcome State Fault Refusal :=
  match s.launch? lid with
  | none => .refused (.notEnabled "SEGMENT_LANDED")
  | some l =>
    let g := segAt s core lid seg
    match readBuf s l (coreAg l core) (imageEa l seg) 4096 with
    | .ok x t => whenEnabled "SEGMENT_LANDED" (g.st == .fetching) (segRead t core lid seg .landed (imageWords x))
    | .hold _ t =>
      whenEnabled "SEGMENT_LANDED" (g.st == .fetching && g.since.isNone) (setSeg t core lid seg { g with since := some s.ref })
    | .busy _ | .fault .. => .refused (.notEnabled "SEGMENT_LANDED")

/-- SEGMENT_FETCH_FAULT (R136): the segment is FAILED with the faulting address, or with the address whose read has been
held or unanswered for too long (19 R387, 28 R472). -/
def execSegmentFetchFault (core lid seg : Nat) (s : State) : Host.Outcome State Fault Refusal :=
  match s.launch? lid with
  | none => .refused (.notEnabled "SEGMENT_FETCH_FAULT")
  | some l =>
    let g := segAt s core lid seg
    match readBuf s l (coreAg l core) (imageEa l seg) 4096 with
    | .fault _ ea t => whenEnabled "SEGMENT_FETCH_FAULT" (g.st == .fetching) (segRead t core lid seg (.failed ea) [])
    | .hold ea t =>
      whenEnabled "SEGMENT_FETCH_FAULT" (g.st == .fetching && g.since.any fun x => pastLimit s x (waitLimit s l.ctx ea))
        (segRead t core lid seg (.failed ea) [])
    | .ok .. | .busy _ => .refused (.notEnabled "SEGMENT_FETCH_FAULT")

/-- No thread of the launch on the core has its PC in the segment (R135). -/
def segEmpty (s : State) (core lid seg : Nat) : Bool :=
  (slotsOf core).all fun k =>
    match s.party? k with
    | some p => p.lid != lid || p.threads.all fun t => t.exited || segOf t.pc != seg
    | none => true

/-- SEGMENT_DROP_COMPLETE (R135). -/
def execSegmentDropComplete (core lid seg : Nat) (s : State) : Host.Outcome State Fault Refusal :=
  whenEnabled "SEGMENT_DROP_COMPLETE" ((segAt s core lid seg).st == .dropping && segEmpty s core lid seg)
    ((segOps s core lid seg).foldl (fun s o => completeOp s o.id)
      (setSeg s core lid seg { st := .absent, image := [] }))

/-! ## WAITN (R137, 01 R32) -/

/-- Every class whose threshold is not 15 is at or below it; the thresholds in the order of R30, 4 bits each. -/
def thresholdsHold (c : Counters) (v : Nat) : Bool :=
  (mapI (fun i k => (i, k)) 0 Cls.all).all fun (i, k) => fld v (4 * i) 4 == 15 || c.get k ≤ fld v (4 * i) 4

/-- The thresholds of a WAITN: imm16, the D byte and the C field (03 R74). -/
def waitnThresholds (d : BitVec 8) (imm : BitVec 16) (c : Nat) : Nat := imm.toNat + 2 ^ 16 * d.toNat + 2 ^ 24 * (c % 16)

/-- WAITN (R137): a thread whose counters are above a threshold stays. -/
def execWaitn (d : BitVec 8) (imm : BitVec 16) (s : State) : Host.Outcome State Fault Refusal :=
  runWord s (.waitn d imm) fun cx s => cx.mapGroup s fun tid t =>
    if cx.enabled tid && !thresholdsHold t.cnt (waitnThresholds d imm cx.p.c) then (t, none) else cx.advance tid t

/-! ## WAITC (R138 to R143, R493, R496) -/

/-- Entry i of a condition block (R139). -/
def condOf (blk i : Nat) : Cond :=
  let f := fun lo n => fld blk (256 * i + lo) n
  { kind := f 28 4, op := f 24 4, wide := bitOf blk (256 * i + 20), scope := f 16 4, acq := bitOf blk (256 * i + 15),
    idx := f 0 4, addr := f 64 64, value := f 128 64, mask := f 192 64 }

/-- A reserved KIND, OP or W, a nonzero unused field, or a SCOPE that R142 does not accept. -/
def condBad (blk i : Nat) : Bool :=
  let c := condOf blk i
  let f := fun lo n => fld blk (256 * i + lo) n
  let zeroRest := f 4 11 != 0 || f 32 32 != 0 || 5 ≤ c.kind || f 21 3 != 0
  let memScope := c.scope == 1 || c.scope == 2 || c.scope == 9
  zeroRest ||
  match c.kind with
  | 0 => 7 ≤ c.op || c.idx != 0 || (!c.wide && (2 ^ 32 ≤ c.value || 2 ^ 32 ≤ c.mask)) || memScope
  | 1 => c.op != 0 || c.wide || c.acq || c.addr != 0 || 256 ≤ c.value || c.mask != 0 || c.scope == 1 || c.scope == 8 ||
      c.scope == 9
  | 2 => c.op != 0 || c.wide || c.acq || c.addr != 0 || 2 ^ 28 ≤ c.value || c.mask != 0 || c.scope != 0 || c.idx != 0
  | 3 => c.op != 0 || c.wide || c.acq || c.addr != 0 || 64 ≤ c.value || c.mask != 0 || c.scope != 0 || c.idx != 0
  | _ => c.op != 0 || c.wide || 256 ≤ c.value || c.mask != 0 || c.idx != 0 || memScope

/-- The width of a condition's read. -/
def Cond.size (c : Cond) : Nat := if c.kind == 4 then 16 else if c.wide then 8 else 4

/-- The checks of one entry (R496 step 3). BAR_NONE of an entry names its IDX and SCOPE (assumption 112, DESIGN CHOICE). -/
def entryCheck (s : State) (cx : Cx) (blk i : Nat) : Option Trap :=
  let c := condOf blk i
  if 10 ≤ c.scope then some { cause := Cause.codeRsvd, tinfo := i }
  else if condBad blk i then some { cause := Cause.waitcBad, tinfo := i }
  else if c.kind == 0 || c.kind == 4 then
    (checkEa s cx.launch { size := c.size, align := c.size, r := true } c.addr).map fun x =>
      { cause := x, taddr := c.addr, tinfo := memInfo c.size false false false }
  else if c.kind == 1 && (barLoc s cx.slot cx.party c.scope c.idx).isNone then
    some { cause := Cause.barNone, tinfo := c.idx + 16 * c.scope }
  else none

/-- The comparison of a MEM condition (R140). -/
def memTest (op w m v : Nat) : Bool :=
  match op with
  | 0 => m == v
  | 1 => m != v
  | 2 => m < v
  | 3 => v ≤ m
  | 4 => sint m w < sint v w
  | 5 => sint v w ≤ sint m w
  | _ => wrap ((m : Int) - v) w < 2 ^ (w - 1)

/-- What evaluating a condition once gives. -/
inductive CondRes where
  | yes (s : State)
  | no (s : State)
  /-- an earlier access of the thread to the location comes first, or a port or a walk: nothing has been read -/
  | unread (s : State)
  /-- the read is held or unanswered -/
  | hold (s : State)
  | trap (tr : Trap) (s : State)

/-- One evaluation of a condition of a thread (R140, R142, R493). -/
def evalCond (s : State) (g : Ag) (slot : Nat) (p : Party) (t : Thread) (c : Cond) : CondRes :=
  match c.kind with
  | 1 =>
    match barLoc s slot p c.scope c.idx with
    | none => .no s
    | some l =>
      let old := c.value % 256
      if barPhase s slot l != old && !mergePending s p (barScope c.scope) c.idx old then
        .yes (acquire s g.core (barScope c.scope))
      else .no s
  | 2 => if thresholdsHold t.cnt c.value then .yes s else .no s
  | 3 =>
    match (segAt s g.core p.lid (c.value % 64)).st with
    | .landed | .failed _ => .yes s
    | .absent | .fetching | .dropping => .no s
  | k =>
    let n := c.size
    if (openAccesses s slot [g.tid] t.handler).any fun o => o.touches c.addr n then .unread s
    else
      let scope := scopeOr 8 c.scope
      match readEa (beforeRead s g.core scope c.acq) g c.addr n with
      | .fault cause _ s => .trap { cause := cause, taddr := c.addr, tinfo := memInfo n false false false } s
      | .busy s => .unread s
      | .hold _ s =>
        match c.heldSince with
        | none => .hold s
        | some since =>
          if isPeerEa s g.ctx c.addr then
            if pastLimit s since s.peerTimeout then
              .trap { cause := Cause.peerFail, taddr := c.addr, tinfo := memInfo n false false false } s
            else .hold s
          else if pastLimit s since s.holdLimit then
            .trap { cause := Cause.migrStuck, taddr := c.addr, tinfo := memInfo n false false false } s
          else .hold s
      | .ok x s =>
        if k == 4 then
          if bitOf x 112 then .trap { cause := Cause.tbarBroken, taddr := c.addr } s
          else if fld x 56 8 != c.value % 256 then .yes (afterRead s g.core scope c.acq)
          else .no s
        else if memTest c.op (if c.wide then 64 else 32) (Nat.land x c.mask) c.value then
          .yes (afterRead s g.core scope c.acq)
        else .no s

/-- Every condition that has not latched evaluated once, in index order: latched set and conditions, or the cause that
ends the WAITC. After the first latch of an any-of only a condition that must be evaluated still is (R141: TIME 0). -/
def evalConds (g : Ag) (slot : Nat) (p : Party) (t : Thread) (all : Bool) :
    Nat → State → List Cond → Nat → Except (Trap × State) (State × List Cond × Nat)
  | _, s, [], latched => .ok (s, [], latched)
  | i, s, c :: cs, latched =>
    if bitOf latched i || (latched != 0 && !all && c.seen) then
      match evalConds g slot p t all (i + 1) s cs latched with
      | .ok (s, cs, l) => .ok (s, c :: cs, l)
      | .error e => .error e
    else
      match evalCond s g slot p t c with
      | .trap tr s => .error (tr, s)
      | .yes s =>
        match evalConds g slot p t all (i + 1) s cs (latched + 2 ^ i) with
        | .ok (s, cs, l) => .ok (s, { c with seen := true, heldSince := none } :: cs, l)
        | .error e => .error e
      | .no s =>
        match evalConds g slot p t all (i + 1) s cs latched with
        | .ok (s, cs, l) => .ok (s, { c with seen := true, heldSince := none } :: cs, l)
        | .error e => .error e
      | .unread s =>
        match evalConds g slot p t all (i + 1) s cs latched with
        | .ok (s, cs, l) => .ok (s, c :: cs, l)
        | .error e => .error e
      | .hold s =>
        match evalConds g slot p t all (i + 1) s cs latched with
        | .ok (s, cs, l) => .ok (s, { c with heldSince := some (c.heldSince.getD s.ref) } :: cs, l)
        | .error e => .error e

/-- The WAITC is complete (R141) (assumption 60, DEDUCED). -/
def waitDone (n latched : Nat) (all : Bool) : Bool := if all then latched == 2 ^ n - 1 else latched != 0
/-- A condition that need not be evaluated before the WAITC completes: it has been, or its read is held (R493). -/
def Cond.tried (c : Cond) : Bool := c.seen || c.heldSince.isSome

/-- The ticks of a header's TIME and UNIT (R138). -/
def headerTicks (h : Nat) : Nat := fld h 8 24 * 2 ^ (10 * fld h 6 2)

/-- A WAITC completes for a thread: D takes the latched set and the time-out bit (R141). -/
def waitEnd (s : State) (slot : Nat) (hpc : Pc) (tid : Nat) (t : Thread) (d : Reg) (x : Nat) (npc : Pc) :
    State × (Thread × Option Esc) :=
  (s.putG slot tid d .one x, Thread.pass (t.write d .one x) hpc tid npc)

/-- A deadline on sr.ref has passed. -/
def timeUp (s : State) : Option Nat → Bool
  | some dl => dl ≤ s.ref
  | none => false

/-- A thread that starts or goes on with a WAITC after an evaluation. -/
def waitStep (s : State) (slot : Nat) (hpc : Pc) (tid : Nat) (t : Thread) (d : Reg) (conds : List Cond) (all : Bool)
    (deadline : Option Nat) (latched : Nat) (npc : Pc) : State × (Thread × Option Esc) :=
  if waitDone conds.length latched all && conds.all (·.tried) then waitEnd s slot hpc tid t d latched npc
  else if timeUp s deadline && conds.all (·.seen) then waitEnd s slot hpc tid t d (latched + 256) npc
  else (s, ({ t with hold := some (.waitc d conds all deadline latched npc) }, none))

/-- When a WAITC that has not read its block yet was first issued (R141). -/
def Thread.issuedAt (t : Thread) (ref : Nat) : Nat := match t.hold with | some (.read _ at_) => at_ | _ => ref
/-- Since when a read that an instruction makes at its issue has been held. -/
def Thread.readSince (t : Thread) : Option Nat := match t.hold with | some (.read since _) => since | _ => none

/-- A WAITC whose block is not read yet stays, or runs out of time. -/
def waitBlock (s : State) (slot : Nat) (hpc : Pc) (tid : Nat) (t : Thread) (d : Reg) (since deadline : Option Nat)
    (npc : Pc) : State × (Thread × Option Esc) :=
  if timeUp s deadline then waitEnd s slot hpc tid { t with hold := none } d 256 npc
  else (s, ({ t with hold := some (.read since (t.issuedAt s.ref)) }, none))

/-- The start of a WAITC for one thread (R496), with its first evaluation. -/
def waitcOne (cx : Cx) (s : State) (tid : Nat) (v : View) (t : Thread) : State × (Thread × Option Esc) :=
  let o := cx.opnds v
  let n := o.b % 4 + 1
  let ea := o.a
  let info := memInfo (32 * n) false false false
  let fail := fun s (tr : Trap) => (s, cx.raise tid tr t)
  if fld o.b 2 3 != 0 || (fld o.b 6 2 == 3 && fld o.b 8 24 != 0) then
    fail s { cause := Cause.waitcBad, tinfo := 4 }
  else if cx.launch.isDet && fld o.b 6 2 != 3 then fail s { cause := Cause.waitcBad, tinfo := 4 }
  else if ea % 32 != 0 then fail s { cause := Cause.memAlign, taddr := ea, tinfo := info }
  else if isAcc ea then fail s { cause := Cause.winKind, taddr := ea, tinfo := info }
  else match checkEa s cx.launch { size := 32 * n, r := true } ea with
    | some c => fail s { cause := c, taddr := ea, tinfo := info }
    | none =>
      let timed := fld o.b 6 2 != 3
      let now := timed && fld o.b 8 24 == 0
      let dl := if timed then some (t.issuedAt s.ref + headerTicks o.b) else none
      let stay := fun s since => waitBlock s cx.slot cx.hpc tid t cx.dreg since (if now then none else dl) cx.npc
      if (openAccesses s cx.slot [tid] cx.issue.handler).any fun o => o.touches ea (32 * n) then stay s none
      else
        let g := cx.ag s tid
        match readEa s g ea (32 * n) with
        | .fault c _ s => fail s { cause := c, taddr := ea, tinfo := info }
        | .busy s => stay s none
        | .hold _ s =>
          let since := t.readSince.getD s.ref
          let peer := isPeerEa s g.ctx ea
          if pastLimit s since (if peer then s.peerTimeout else s.holdLimit) then
            fail s { cause := if peer then Cause.peerFail else Cause.migrStuck, taddr := ea, tinfo := info }
          else stay s (some since)
        | .ok blk s =>
          match (upTo n).findSome? (entryCheck s cx blk) with
          | some tr => fail s tr
          | none =>
            let conds := (upTo n).map fun i => { condOf blk i with seen := !now }
            let all := bitOf o.b 5
            match evalConds g cx.slot cx.party t all 0 s conds 0 with
            | .error (tr, s) => fail s tr
            | .ok (s, conds, latched) =>
              waitStep s cx.slot cx.hpc tid { t with hold := none } cx.dreg conds all dl latched cx.npc

/-- WAITC (R141). -/
def execWaitc (d a b : BitVec 8) (s : State) : Host.Outcome State Fault Refusal :=
  runWord s (.waitc d a b) fun cx s =>
    cx.each s fun s tid v t => if cx.enabled tid then waitcOne cx s tid v t else (s, cx.advance tid t)

/-- The agent of a thread of a party on a slot. -/
def threadAg (s : State) (slot : Nat) (p : Party) (tid : Nat) : Ag :=
  { core := coreOf slot, lid := p.lid, ctx := match s.launch? p.lid with | some l => l.ctx | none => 0, blin := p.blin,
    pidx := p.pidx, tid := tid, seq := s.seq }

/-- A condition is evaluated: it has not latched, and at TIME 0 it has not been evaluated before (R141). -/
def Cond.wanted (c : Cond) (conds : List Cond) : Bool := !c.seen || conds.all (·.seen)

/-- WAITC_READ_RETURN (R141, R493): one repeated evaluation of one condition. -/
def execWaitcReadReturn (slot tid cond : Nat) (reply : Option PeerReply) (s : State) :
    Host.Outcome State Fault Refusal :=
  match s.party? slot with
  | none => .refused (.notEnabled "WAITC_READ_RETURN")
  | some p =>
    let t := p.thread tid
    match t.hold with
    | some (.waitc d conds all dl latched npc) =>
      match conds[cond]? with
      | none => .refused (.notEnabled "WAITC_READ_RETURN")
      | some c =>
        let s0 := match reply with | some r => { s with input := .replies [(c.addr, r)] } | none => s
        let hpc := hpcOf s p.lid
        let put := fun (s : State) (r : Thread × Option Esc) =>
          match s.party? slot with
          | some p => s.setParty slot ((p.setThread tid r.1).escalateAll r.2.toList)
          | none => s
        let next := fun (s : State) (c : Cond) latched =>
          let r := waitStep s slot hpc tid { t with hold := none } d (conds.set cond c) all dl latched npc
          put r.1 r.2
        let u :=
          match evalCond s0 (threadAg s slot p tid) slot p t c with
          | .trap tr s => put s (deliver hpc t.pc tid tr { t with hold := none })
          | .yes s => next s { c with seen := true, heldSince := none } (latched + 2 ^ cond)
          | .no s => next s { c with seen := true, heldSince := none } latched
          | .unread s => next s c latched
          | .hold s => next s { c with heldSince := some (c.heldSince.getD s.ref) } latched
        whenEnabled "WAITC_READ_RETURN" (!bitOf latched cond && c.wanted conds && waitsGo s slot && !t.deliverable)
          { u with input := s.input }
    | _ => .refused (.notEnabled "WAITC_READ_RETURN")

/-- WAITC_TIMEOUT (R141): the WAITC completes with the time-out bit. -/
def execWaitcTimeout (slot tid : Nat) (s : State) : Host.Outcome State Fault Refusal :=
  match s.party? slot with
  | none => .refused (.notEnabled "WAITC_TIMEOUT")
  | some p =>
    let t := p.thread tid
    match t.hold with
    | some (.waitc d conds _ dl latched npc) =>
      let r := waitEnd s slot (hpcOf s p.lid) tid t d (latched + 256) npc
      whenEnabled "WAITC_TIMEOUT" (timeUp s dl && conds.all (·.seen) && waitsGo s slot && !t.deliverable)
        (match r.1.party? slot with
         | some p => r.1.setParty slot ((p.setThread tid r.2.1).escalateAll r.2.2.toList)
         | none => s)
    | _ => .refused (.notEnabled "WAITC_TIMEOUT")

/-! ## Status reads and no-ops (R154, R155, 01 R27, R28) -/

/-- sr.cnt (R154). -/
def cntWord (c : Counters) : Nat :=
  c.ld + 2 ^ 6 * c.st + 2 ^ 12 * c.cp + 2 ^ 18 * c.tl + 2 ^ 24 * c.bk + 2 ^ 30 * c.gx + 2 ^ 36 * c.cf
/-- The field-wise maximum of two counters. -/
def maxCounters (a b : Counters) : Counters :=
  { ld := max a.ld b.ld, st := max a.st b.st, cp := max a.cp b.cp, tl := max a.tl b.tl, bk := max a.bk b.bk,
    gx := max a.gx b.gx, cf := max a.cf b.cf }

/-- A status register of a thread (01 R27); none for an unlisted number. -/
def srRead (s : State) (cx : Cx) (tid : Nat) (t : Thread) (n : Nat) : Option Nat :=
  match n with
  | 0x00 => some Config.lanes
  | 0x01 => some tid
  | 0x02 => some cx.party.pidx
  | 0x03 => some (cx.core % 32)
  | 0x04 => some (cx.core % 32 / 4)
  | 0x05 => some cx.die
  | 0x06 => some s.pkg
  | 0x08 => some (cntWord t.cnt)
  | 0x09 => some ((s.die cx.die).clk % 2 ^ 64)
  | 0x0A => some (s.ref % 2 ^ 64)
  | 0x10 => some (t.fpcsr.toNat % 2 ^ 12)
  | 0x11 => some (t.ver.toNat % 2 ^ 24)
  | 0x18 => some (t.cause.toNat % 256)
  | 0x19 => some (t.tpc.toNat % 2 ^ 16)
  | 0x1A => some t.taddr.toNat
  | 0x1B => some t.tinfo.toNat
  | _ => none

/-- sr.clk and sr.ref are closed to a deterministic launch (24 R440). -/
def detSr (cx : Cx) (n : Nat) : Bool := cx.launch.isDet && (n == 0x09 || n == 0x0A)

/-- What an SRD gives a thread's D (R154). -/
def Cx.srdGives (cx : Cx) (s : State) (n tid : Nat) : Option Nat :=
  if cx.enabled tid then (if detSr cx n then none else srRead s cx tid (cx.party.thread tid) n)
  else if cx.p.z then some 0 else none

/-- SRD (R154). -/
def execSrd (d a b : BitVec 8) (s : State) : Host.Outcome State Fault Refusal :=
  runWord s (.srd d a b) fun cx s => (cx.withG cx.dwidth (cx.srdGives s b.toNat)).mapGroup s fun tid t =>
    if cx.enabled tid then
      match srRead s cx tid t b.toNat with
      | none => cx.raise tid { cause := Cause.srNum } t
      | some x =>
        if detSr cx b.toNat then cx.raise tid { cause := Cause.srAccess } t
        else cx.advance tid (t.write cx.dreg cx.dwidth x)
    else cx.advance tid (if cx.p.z then t.write cx.dreg cx.dwidth 0 else t)

/-- USRD (R154, 01 R28); a number that R27 does not list traps SR_NUM (assumption 79, DEDUCED). -/
def execUsrd (d a b : BitVec 8) (s : State) : Host.Outcome State Fault Refusal :=
  runWord s (.usrd d a b) fun cx s =>
    let n := b.toNat
    let tid := cx.tids.headD 0
    match srRead s cx tid (cx.party.thread tid) n with
    | none => cx.trapAll s { cause := Cause.srNum }
    | some x =>
      if n == 0x01 || 0x10 ≤ n || detSr cx n then cx.trapAll s { cause := Cause.srAccess }
      else
        let x := if n == 0x08 then cntWord (cx.tids.foldl (fun c k => maxCounters c (cx.party.thread k).cnt) {}) else x
        let cx := { cx with party := cx.party.write cx.dreg cx.dwidth x }
        cx.mapGroup s cx.advance

/-- NOP (R155). -/
def execNop (d a b : BitVec 8) (s : State) : Host.Outcome State Fault Refusal :=
  runWord s (.nop d a b) fun cx s => cx.mapGroup s cx.advance
/-- UNOP (R155). -/
def execUnop (d a b : BitVec 8) (s : State) : Host.Outcome State Fault Refusal :=
  runWord s (.unop d a b) fun cx s => cx.mapGroup s cx.advance

end Sys2Proof.Machine
end

