-- ==== Sys2Proof/Machine/Rings.lean ====
section
/-! DEFINITION. Completion rings, the fault ring and report rings (11_scratchpad_copies.md R272, 16_launch_scheduling.md R345
to R347), and RING_POST. -/

namespace Sys2Proof.Machine

/-! ## One record -/

/-- A record of 32 bytes (R272). -/
def ringRecord (faddr bytes tag seq status cause : Nat) : Nat :=
  faddr % 2 ^ 64 + 2 ^ 64 * (bytes % 2 ^ 64) + 2 ^ 128 * (tag % 2 ^ 32) + 2 ^ 160 * (seq % 2 ^ 32) +
    2 ^ 192 * (status % 2 ^ 16) + 2 ^ 208 * (cause % 2 ^ 8)

/-- TAG: the command's PC and thread (R272). -/
def ringTag (pc tid : Nat) : Nat := pc % 2 ^ 16 * 2 ^ 16 + tid % 64

/-- A count reserved in a ring by an atomic increment of TAIL; it waits while the ring is full. -/
def reserveSlot (s : State) (g : Ag) (ring : Nat) : Got :=
  match readEa s g ring 20 with
  | .ok cb s =>
    if wrap ((fld cb 0 64 : Int) - fld cb 64 64) 64 == 2 ^ fld cb 128 32 then .busy s
    else rmwEa s g ring 8 { op := 3, code := 2 * 16, data := 1 }
  | r => r

/-- Pieces written in order: address, length, data. -/
def writePieces (g : Ag) : List (Nat × Nat × Nat) → State → Got
  | [], s => .ok 0 s
  | (ea, n, x) :: ps, s =>
    match writeEa s g ea n x with
    | .ok _ s => writePieces g ps s
    | r => r

/-- The record of a reserved count written, SEQ last. -/
def writeRecord (s : State) (g : Ag) (ring c record : Nat) : Got :=
  match readEa s g (eaAdd ring 16) 4 with
  | .ok n s =>
    let a := eaAdd ring (64 + 32 * (c % 2 ^ n) : Nat)
    match writePieces g [(a, 20, record % 2 ^ 160), (eaAdd a 24, 8, record / 2 ^ 192), (eaAdd a 20, 4, fld record 160 32)] s with
    | .ok _ s => .ok c s
    | r => r
  | r => r

/-- A record posted at a control block, for which a count may be reserved already: the count that is reserved now, and the
count of the record written; a fault of any access is the ring's. -/
def postFrom (s : State) (g : Ag) (ring : Nat) (reserved : Option Nat) (faddr bytes tag status cause : Nat) : Option Nat × Got :=
  match (match reserved with | some c => Got.ok c s | none => reserveSlot s g ring) with
  | .ok c s => (some c, writeRecord s g ring c (ringRecord faddr bytes tag c status cause))
  | r => (none, r)

/-- What a post that waits keeps of the attempt: all of it once a count is reserved. -/
def postKept (s t : State) (reserved : Option Nat) : State := if reserved.isSome then t else s.keepHold t

/-- A ring has no room for another record (R272). -/
def ringFull (s : State) (g : Ag) (ring : Nat) : Bool :=
  match readEa s g ring 20 with
  | .ok cb _ => wrap ((fld cb 0 64 : Int) - fld cb 64 64) 64 == 2 ^ fld cb 128 32
  | .hold .. | .busy _ | .fault .. => false

/-- A record stands in the phase post until its ring has room. -/
def Phase.posting : Phase → Bool
  | .post .. => true
  | _ => false

/-- The control block of a report's ring, 0 for none. -/
def ringBlock (s : State) (g : Ag) : RingAt → Got
  | .block ea => .ok ea s
  | .named ea => readEa s g ea 8

/-- A report posted to its ring. -/
def postReport (s : State) (g : Ag) (at_ : RingAt) (reserved : Option Nat) (faddr bytes tag status cause : Nat) : Option Nat × Got :=
  match ringBlock s g at_ with
  | .ok ring s => postFrom s g ring reserved faddr bytes tag status cause
  | r => (reserved, r)

/-- A posted report still waits for a ring. -/
def postWaiting (s : State) (ctx : Nat) (ring : RingAt) : Bool :=
  s.ops.any fun o => match o.kind with | .report c r .. => c == ctx && r == ring && o.phase.posting | _ => false

/-- A residency report (28 R479): KIND, the word of CTX and QUEUE, RSEQ, NST and the record. -/
def residency (kind word rseq nst record : Nat) : Nat :=
  kind % 2 ^ 8 * 2 ^ 24 + 1 + 2 ^ 32 * (word % 2 ^ 32) + 2 ^ 64 * (rseq % 2 ^ 64) + 2 ^ 128 * (nst % 2 ^ 8) +
    2 ^ 256 * (record % 2 ^ 256)

/-- The ring record is written: for a launch that came by packet its residency report goes out (28 R479). -/
def sendReport (s : State) (via : Option (Nat × Nat)) (count record : Nat) : State :=
  match via with
  | some (conn, word) => s.send 4 conn (residency 0 word count 0 record)
  | none => s

/-- A record joins the operations, to be posted later. -/
def postLater (s : State) (core ctx : Nat) (ring : RingAt) (reserved : Option Nat) (faddr bytes tag status cause : Nat)
    (via : Option (Nat × Nat)) : State :=
  { s with
    seq := s.seq + 1
    ops := s.ops ++ [{ id := s.seq, slot := 16 * core, lid := 2 ^ 64, tids := [], live := [], cls := none, pc := 0,
                       kind := .report ctx ring tag bytes via, phase := .post status cause faddr, after := [],
                       untilTret := none, work := { reserved := reserved } }] }

/-- A report posted to a ring of a context: at once where the ring has room and nothing waits before it, else in order
once it has (RING_POST). A fault loses the record (assumption 58, DEDUCED). -/
def post (s : State) (core ctx : Nat) (ring : RingAt) (faddr bytes tag status cause : Nat) (via : Option (Nat × Nat)) :
    State :=
  if ring == .block 0 then s
  else if postWaiting s ctx ring then postLater s core ctx ring none faddr bytes tag status cause via
  else match postReport s (plainAg core ctx) ring none faddr bytes tag status cause with
    | (_, .ok c s) => sendReport s via c (ringRecord faddr bytes tag c status cause)
    | (c, .hold _ t) | (c, .busy t) => postLater (postKept s t c) core ctx ring c faddr bytes tag status cause via
    | (_, .fault _ _ t) => t

/-! ## The launch's rings -/

/-- Ring k of a launch: 0 the fault ring, 1 to 3, 4 the telemetry ring. -/
def Launch.ring (l : Launch) (k : Nat) : Nat := l.rings.getD k 0

/-- An engine waits to post another command's record to a ring with no room, and with it every other command of the engine
(R272); ringNo gives the ring number of a command of that engine (assumption 99, DEDUCED). -/
def engineStalled (s : State) (id : Nat) (ringNo : Op → Option Nat) : Bool :=
  s.ops.any fun p =>
    p.id != id && p.phase.posting && p.work.reserved.isNone &&
    match ringNo p, s.launch? p.lid with
    | some k, some l => ringFull s (opAg s p) (l.ring k)
    | _, _ => false

/-- A record on a launch's ring. -/
def postRing (s : State) (core lid k faddr bytes tag status cause : Nat) : State :=
  match s.launch? lid with
  | some l => post s core l.ctx (.block (l.ring k)) faddr bytes tag status cause none
  | none => s

/-- A report of R347 to the launch's queue, and over the fabric for a launch that came by packet (28 R479). -/
def reportLaunch (s : State) (l : Launch) (status cause : Nat) : State :=
  match aget? l.queue s.queues with
  | some q =>
    post s 128 q.ctx (.named (eaAdd q.base 24)) l.lid s.ref l.ended status cause
      (l.via.map fun c => (c, q.ctx * 2 ^ 16 + l.queue))
  | none => s

end Sys2Proof.Machine
end

