-- ==== Sys2Proof/Machine/Traps.lean ====
section
/-! DEFINITION. Trap instructions, delivery of pending causes, and escalation (09_traps.md R216 to R228). -/

namespace Sys2Proof.Machine

/-! ## TRAP, UTRAP, BKPT (R225, R226) -/

/-- A software trap: precise and completed, with sr.tpc the next PC. -/
def Cx.softTrap (cx : Cx) (n detail tid : Nat) (t : Thread) : Thread × Option Esc :=
  deliver cx.hpc cx.npc tid { cause := Cause.swt0 + n, tinfo := detail } t

/-- TRAP (R225). -/
def execTrap (d a b : BitVec 8) (s : State) : Host.Outcome State Fault Refusal :=
  runWord s (.trap d a b) fun cx s => cx.mapGroup s fun tid t =>
    if cx.enabled tid then cx.softTrap b.toNat (cx.opnds (cx.view s.ref tid)).a tid t else cx.advance tid t
/-- UTRAP (R225). -/
def execUtrap (d a b : BitVec 8) (s : State) : Host.Outcome State Fault Refusal :=
  runWord s (.utrap d a b) fun cx s =>
    let x := (cx.opnds (cx.view s.ref (cx.tids.headD 0))).a
    cx.mapGroup s (cx.softTrap b.toNat x)
/-- BKPT (R226). -/
def execBkpt (d a b : BitVec 8) (s : State) : Host.Outcome State Fault Refusal :=
  runWord s (.bkpt d a b) fun cx s => cx.mapGroup s fun tid t =>
    if cx.enabled tid then cx.raise tid { cause := Cause.brk, tinfo := b.toNat } t else cx.advance tid t

/-! ## SWR (R227, R223, 01 R28, R29) -/

/-- sr.fpcsr after a write: RND and the FZ bits take it, the flags clear where it holds 1, NVT and the rest stay. -/
def fpcsrWrite (old x : Nat) : Nat :=
  fld old 11 1 * 2 ^ 11 + fld x 5 6 * 2 ^ 5 + (fld old 0 5 - Nat.land (fld old 0 5) (fld x 0 5))

/-- A status register written by a thread; a cause where the number is unlisted or the write is forbidden. -/
def srWrite (t : Thread) (n x : Nat) : Except Nat Thread :=
  match n with
  | 0x10 =>
    if fld x 5 3 == 0 || fld x 5 3 == 7 then .error Cause.srAccess
    else .ok { t with fpcsr := BitVec.ofNat 32 (fpcsrWrite t.fpcsr.toNat x) }
  | 0x11 => .ok { t with ver := BitVec.ofNat 32 (x % 2 ^ 24) }
  | 0x18 =>
    if !t.handler || 0xC0 ≤ x % 256 then .error Cause.srAccess else .ok { t with cause := BitVec.ofNat 32 (x % 256) }
  | 0x19 => if !t.handler then .error Cause.srAccess else .ok { t with tpc := BitVec.ofNat 32 (x % 2 ^ 16) }
  | 0x1A => if !t.handler then .error Cause.srAccess else .ok { t with taddr := BitVec.ofNat 64 x }
  | 0x1B => if !t.handler then .error Cause.srAccess else .ok { t with tinfo := BitVec.ofNat 32 x }
  | 0x00 | 0x01 | 0x02 | 0x03 | 0x04 | 0x05 | 0x06 | 0x08 | 0x09 | 0x0A => .error Cause.srAccess
  | _ => .error Cause.srNum

/-- SWR (R227). -/
def execSwr (d a b : BitVec 8) (s : State) : Host.Outcome State Fault Refusal :=
  runWord s (.swr d a b) fun cx s => cx.mapGroup s fun tid t =>
    if cx.enabled tid then
      match srWrite t b.toNat (cx.opnds (cx.view s.ref tid)).a with
      | .ok t => cx.advance tid t
      | .error c => cx.raise tid { cause := c } t
    else cx.advance tid t

/-! ## TRET (R228) -/

/-- One thread's return: a segment that cannot be entered escalates. -/
def Cx.tretOne (cx : Cx) (s : State) (tid : Nat) (t : Thread) : Thread × Option Esc :=
  if !t.handler then cx.raise tid { cause := Cause.tretMode } t
  else match segCheck s cx.core cx.launch (t.tpc.toNat % 2 ^ 16 / 1024) with
    | some tr => (t, some { cause := tr.cause, faddr := tr.taddr, pc := t.pc.toNat, tid := tid })
    | none => (t.leave, none)

/-- The failed operations whose handlers a group's TRET leaves (19 R389). -/
def Cx.tretServed (cx : Cx) (s : State) : List Nat :=
  cx.tids.filterMap fun k =>
    let t := cx.party.thread k
    if t.handler && (segCheck s cx.core cx.launch (t.tpc.toNat % 2 ^ 16 / 1024)).isNone then t.serving else none

/-- TRET (R228); operations that waited for it may be performed (19 R389). -/
def execTret (d a b : BitVec 8) (s : State) : Host.Outcome State Fault Refusal :=
  runWord s (.tret d a b) fun cx s =>
    let served := cx.tretServed s
    let s := cx.mapGroup s (cx.tretOne s)
    { s with ops := s.ops.map fun o =>
        if o.slot == cx.slot && o.untilTret.any served.contains then { o with untilTret := none } else o }

/-! ## Delivery at a boundary (R216) -/

/-- The oldest deferred cause, else an asynchronous one, reaches a thread (assumption 75, DESIGN CHOICE). -/
def deliverPending (hpc : Pc) (tid : Nat) (t : Thread) : Thread × Option Esc :=
  match t.pend, t.async with
  | p :: rest, _ =>
    let r := deliver hpc t.pc tid { cause := p.cause, taddr := p.taddr, tinfo := p.tinfo } { t with pend := rest }
    (if r.2.isNone then { r.1 with serving := some p.op } else r.1, r.2)
  | [], c :: rest => deliver hpc t.pc tid { cause := c } { t with async := rest }
  | [], [] => (t, none)

/-- Failed operations of a thread that could not retire before its cause was delivered retire now (R217). -/
def retireFailed (s : State) (slot tid : Nat) : State :=
  let ids := (s.ops.filter fun o => o.slot == slot && o.live.contains tid && canRetire s o tid).map (·.id)
  ids.foldl retire s

/-- DELIVER_PENDING_CAUSE (R216, R217). -/
def execDeliverPendingCause (slot tid : Nat) (s : State) : Host.Outcome State Fault Refusal :=
  match s.party? slot with
  | none => .refused (.notEnabled "DELIVER_PENDING_CAUSE")
  | some p =>
    let t := p.thread tid
    let r := deliverPending (hpcOf s p.lid) tid t
    whenEnabled "DELIVER_PENDING_CAUSE" (waitsGo s slot && t.deliverable)
      (retireFailed (s.setParty slot ((p.setThread tid r.1).escalateAll r.2.toList)) slot tid)

/-! ## Escalation (R222) -/

/-- The party of a slot escalates with a cause of no single thread: the record names the lowest thread that has not exited
(16 R345). -/
def killParty (s : State) (slot cause faddr : Nat) : State :=
  match s.party? slot with
  | none => s
  | some p =>
    let tid := ((upTo 64).find? fun t => !(p.thread t).exited).getD 0
    abandonSave (s.setParty slot (p.escalate { cause := cause, faddr := faddr, pc := (p.thread tid).pc.toNat, tid := tid })) slot

/-- An operation of a class that an escalation or a save waits for: loads, stores, bank, gather and geometry commands, tile
commands, LRLD, collectives (R222, 10 R238). -/
def Op.drains (o : Op) : Bool :=
  match o.kind with
  | .copy .. | .cfetch .. | .report .. => false
  | _ => true

/-- A reservation ATOMR of a deterministic launch: it completes at its block's closure point (24 R439), for which nothing
that ends the party waits (assumption 23, DEDUCED). -/
def Op.reserving (o : Op) : Bool :=
  o.phase == .queued && match o.kind with | .atom .. => true | _ => false

/-- A copy command. -/
def OpKind.isCopy : OpKind → Bool
  | .copy .. => true
  | _ => false

/-- Operations of the party on a slot: those whose records are not of another agent. -/
def slotOps (s : State) (slot : Nat) : List Op :=
  s.ops.filter fun o => o.slot == slot && (match o.kind with | .report .. => false | _ => true)

/-- Copies of a party are cancelled: no signal, no record, and no counter holds them (10 R239). -/
def cancelCopies (s : State) (slot : Nat) (which : Op → Bool) : State :=
  let gone := (slotOps s slot).filter fun o => o.kind.isCopy && which o
  let s := { s with ops := s.ops.filter fun o => !gone.any fun g => g.id == o.id }
  match s.party? slot with
  | some p =>
    s.setParty slot (gone.foldl (fun p o => p.mapThreads o.live fun _ t => t.uncount .cp) p)
  | none => s

/-- A copy that has not reached its signal (11 R270). -/
def Op.unsignalled (o : Op) : Bool :=
  match o.phase with
  | .issued | .running => true
  | _ => false

/-- What remains of a party that leaves its slot: its operations belong to the launch on the core and count for no thread
(R222: CFETCH). -/
def orphanOps (s : State) (slot : Nat) : State :=
  { s with ops := s.ops.filterMap fun o =>
      if o.slot == slot then
        if o.phase == .done && (match o.kind with | .report .. => false | _ => true) then none
        else some { o with live := [], tids := [] }
      else some o }

/-- A MIGR under way on a slot ends: its reserved slot is free (14 R313), or DISABLED for a repair (10 R237). -/
def dropMigr (s : State) (slot : Nat) : State :=
  match (s.slot slot).migr with
  | none => s
  | some m =>
    let k := s.slot m.slot
    let s := s.setSlot m.slot { k with reserved := false, repair := false, st := if k.repair then .disabled else k.st }
    let s := if k.repair then reportAction s (coreChannel (coreOf m.slot)) 4 0 0 (m.slot % 16) else s
    s.setSlot slot { s.slot slot with migr := none }

/-- The party of a slot becomes frozen: it leaves its wider barriers, its launch notes the cause, and the fault ring gets
its record (R222, 14 R309, 16 R345). -/
def freeze (s : State) (slot : Nat) (p : Party) (e : Esc) : State :=
  let s := (upTo 64).foldl (fun s t => if (p.thread t).exited then s else leaveWide s slot t) s
  let s := dropMigr s slot
  let s := s.setSlot slot { s.slot slot with st := .frozen, preq := false, saveStep := 0, imageHold := none }
  let s := match s.launch? p.lid with
    | some l => s.setLaunch { l with firstCause := l.firstCause.orElse fun _ => some e.cause }
    | none => s
  let s := postRing s (coreOf slot) p.lid 0 e.faddr 0 (ringTag e.pc e.tid) 3 e.cause
  { s with escHolds := s.escHolds ++ [(slot, s.ref)] }

/-- PARTY_FROZEN (R222). -/
def execPartyFrozen (slot : Nat) (s : State) : Host.Outcome State Fault Refusal :=
  match s.party? slot with
  | none => .refused (.notEnabled "PARTY_FROZEN")
  | some p =>
    match p.esc with
    | none => .refused (.notEnabled "PARTY_FROZEN")
    | some e =>
      let st := (s.slot slot).st
      let posting := fun (o : Op) => o.kind.isCopy && !o.unsignalled && o.phase != .done && !o.phase.isFailed
      let drained := !(slotOps s slot).any fun o => (o.drains && !o.reserving) || posting o
      whenEnabled "PARTY_FROZEN" ((st == .run || st == .restoring || st == .loading) && drained)
        (orphanOps (freeze (cancelCopies s slot fun _ => true) slot p e) slot)

end Sys2Proof.Machine
end

