-- ==== Sys2Proof/Machine/Blocks.lean ====
section
/-! DEFINITION. Resident blocks (14_cluster.md R302, R304, R305, R309; 16_launch_scheduling.md R340): the end of a block,
and the slot that a party leaves. -/

namespace Sys2Proof.Machine

/-! ## Portions and generations (R304, R305) -/

/-- The allocation generation at a portion base of a core. -/
def genAt (s : State) (core base : Nat) : Nat := aget 0 base (s.core core).gens
/-- A portion's generation advances. -/
def bumpGen (s : State) (core base : Nat) : State :=
  s.setCore core { s.core core with gens := aset base ((genAt s core base + 1) % 2 ^ 16) (s.core core).gens }

/-- The portions of a block are freed: their generations advance. -/
def freePortions (s : State) (b : Block) : State :=
  (mapI (fun r e => (r, e)) 0 b.map).foldl (fun s (r, e) =>
    let core := b.core + r
    let c := s.core core
    if c.portions.any fun q => q.lid == b.lid && q.blin == b.blin then
      bumpGen (s.setCore core { c with portions := c.portions.filter fun q => !(q.lid == b.lid && q.blin == b.blin) }) core
        e.2
    else s) s

/-! ## The end of a block (R302, R309) -/

/-- The barriers of an instance set are discarded. -/
def dropBars (s : State) (gone : BarInst → Bool) : State :=
  { s with bars := s.bars.filter (fun e => !gone (keyInst e.1)), members := s.members.filter fun e => !gone e.1 }

/-- Every block of a cluster has ended. -/
def clusterEnded (s : State) (lid clin : Nat) : Bool :=
  !(clusterBlocks s lid clin).isEmpty && (clusterBlocks s lid clin).all (·.ended)

/-- A block ends: its portions are freed, its barriers go, and its end is a closure point of a deterministic launch
(24 R430). -/
def endBlock (s : State) (lid blin : Nat) : State :=
  match s.block? lid blin, s.launch? lid with
  | some b, some l =>
    let s := freePortions s b
    let merges := if l.isDet then b.merges ++ [(0, 0, 0, s.seq)] else b.merges
    let s := s.setBlock { b with ended := true, merges := merges }
    let s := s.setLaunch { l with ended := l.ended + 1 }
    let s := dropBars s fun i => i.2.1 == lid && ((i.1 == 3 || i.1 == 4 || (i.1 == 5 && i.2.2.2 == 0)) && i.2.2.1 == blin)
    if clusterEnded s lid b.clin then dropBars s fun i => i.1 == 5 && i.2.1 == lid && i.2.2.1 == b.clin && i.2.2.2 == 1
    else s
  | _, _ => s

/-! ## Shadow references (12 R293) -/

/-- A reference of a party's commands. -/
def Shadow.isOf (x : Shadow) (p : Party) : Bool := x.lid == p.lid && x.blin == p.blin && x.pidx == p.pidx

/-- A reference leaves its core and posts the largest deviation among the elements it has checked (12 R294): STATUS 4 where it
has checked all, 6 where it is cut off. -/
def endShadow (s : State) (core : Nat) (x : Shadow) (cut : Bool) : State :=
  let dev := (if cut then x.devs.take (Config.shadowChecked s.seq) else x.devs).foldl max 0
  let s := s.setCore core { s.core core with shadows := (s.core core).shadows.filter fun y => y.op ≠ x.op }
  postRing s core x.lid 4 dev x.count x.tag (if cut then 6 else 4) 0

/-- The references of a party that still run on its core are cut off: how many elements they have checked, timing decides
(12 R292, R293; assumption 15, DESIGN CHOICE). -/
def cutShadows (s : State) (slot : Nat) (which : Shadow → Bool) : State :=
  match s.party? slot with
  | none => s
  | some p =>
    ((s.core (coreOf slot)).shadows.filter fun x => x.isOf p && which x).foldl
      (fun s x => endShadow s (coreOf slot) x true) s

/-! ## Leaving a slot (10 R236, R237) -/

/-- A launch that no slot of a core names leaves the core's launch table; its segments and their budget there are free once
no block of it stands there either (16 R338, R340). -/
def leaveCore (s : State) (core lid : Nat) : State :=
  let named := (slotsOf core).any fun k => (s.slot k).bind.any fun b => b.lid == lid
  let held := s.blocks.any fun b => b.lid == lid && !b.ended && b.saved.isNone && b.core ≤ core && core < b.core + b.map.length
  let c := s.core core
  if named then s
  else s.setCore core { c with table := c.table.filter fun e => e.2 ≠ lid,
                               segs := if held then c.segs else c.segs.filter fun e => e.1.1 ≠ lid }

/-- The slot holds nothing; a repair threshold reached while it was occupied takes effect now (R237). -/
def clearSlot (s : State) (slot : Nat) : State :=
  let k := s.slot slot
  let s := orphanOps s slot
  let s := s.setSlot slot
    { Slot.init with st := if k.repair then .disabled else .free, deadline := k.deadline, saveAddr := k.saveAddr }
  let s := if k.repair then reportEvent s (coreChannel (coreOf slot)) 3 4 0 0 (slot % 16) else s
  match k.bind with
  | some b => leaveCore s (coreOf slot) b.lid
  | none => s

/-- The party of a slot has ended: the slot is freed, and with its last party the block ends (06 R153, 14 R302). -/
def freeSlot (s : State) (slot : Nat) : State :=
  match s.party? slot with
  | none => clearSlot s slot
  | some p =>
    let s := clearSlot s slot
    let s := { s with escHolds := s.escHolds.filter fun e => e.1 ≠ slot }
    match s.block? p.lid p.blin, s.launch? p.lid with
    | some b, some l =>
      let s := s.setBlock { b with freed := b.freed + 1 }
      if b.freed + 1 == l.ppb then (upTo b.map.length).foldl (fun s r => leaveCore s (b.core + r) p.lid) (endBlock s p.lid p.blin)
      else s
    | _, _ => s

/-- PARTY_SLOT_FREE (06 R153). -/
def execPartySlotFree (slot : Nat) (s : State) : Host.Outcome State Fault Refusal :=
  match s.party? slot with
  | none => .refused (.notEnabled "PARTY_SLOT_FREE")
  | some p =>
    let busy := (slotOps s slot).any fun o => !o.tids.isEmpty && !o.reserving
    whenEnabled "PARTY_SLOT_FREE" (slotLive s slot && p.threads.all (fun t => t.exited) && !busy) (freeSlot s slot)

end Sys2Proof.Machine
end

