-- ==== Sys2Proof/Machine/Issue.lean ====
section
/-! DEFINITION. What engine commands share at their issue: the read of a record (07_memory_access.md R494, 06 R493), the
operation and what it follows (08 R204), and the progress of an operation that works in the background. -/

namespace Sys2Proof.Machine

/-! ## Records read at issue -/

/-- What a record read at issue gives. -/
inductive RecRes where
  | ok (x : Nat)
  /-- the thread stands where it was; it issues again -/
  | wait (t : Thread)
  | trap (tr : Trap)

/-- What an access made at issue leaves: its value, its trap with an address and sr.tinfo, or the thread that waits, past its
limit a trap (19 R387, 28 R472). -/
def Cx.settle (cx : Cx) (t : Thread) (ea info : Nat) (got : Got) : State × RecRes :=
  match got with
  | .ok x s => (s, .ok x)
  | .fault c _ s => (s, .trap { cause := c, taddr := ea, tinfo := info })
  | .busy s => (s, .wait { t with hold := some (.read t.readSince (t.issuedAt s.ref)) })
  | .hold _ s =>
    let since := t.readSince.getD s.ref
    let peer := isPeerEa s cx.launch.ctx ea
    if pastLimit s since (if peer then s.peerTimeout else s.holdLimit) then
      (s, .trap { cause := if peer then Cause.peerFail else Cause.migrStuck, taddr := ea, tinfo := info })
    else (s, .wait { t with hold := some (.read (some since) (t.issuedAt s.ref)) })

/-- A record of n bytes that has passed R159, read for some threads: their earlier accesses to it come first (08 R187); a
read held past its limit traps precisely (06 R493). -/
def Cx.readRecord (cx : Cx) (s : State) (tids : List Nat) (tid : Nat) (t : Thread) (ea n : Nat) (uni : Bool) :
    State × RecRes :=
  let info := memInfo n false false uni
  if (openAccesses s cx.slot tids cx.issue.handler).any fun o => o.touches ea n then (s, .wait t)
  else
    cx.settle t ea info (readEa s (cx.ag s tid) ea n)

/-- Every thread of the group stands at its instruction, its read held as one thread's is. -/
def Cx.holdGroup (cx : Cx) (s : State) (t : Thread) : State := cx.mapGroup s fun _ u => ({ u with hold := t.hold }, none)

/-! ## Issuing an engine command -/

/-- The accesses of some threads whose writes, made or observed, an engine command's reads must see (R204). -/
def earlierAccesses (s : State) (slot : Nat) (tids : List Nat) (handler : Bool) : List Nat :=
  (openAccesses s slot tids handler).map (·.id)

/-- An engine command of some threads joins the operations. -/
def Cx.engineOp (cx : Cx) (s : State) (tids : List Nat) (cls : Cls) (k : OpKind) : State :=
  let t := s.addOp cx.slot cx.party.lid tids (some cls) cx.pc k (earlierAccesses s cx.slot tids cx.issue.handler)
  { t with ops := t.ops.map fun o => if o.id == s.seq then { o with work := { o.work with group := cx.tids } } else o }

/-- What a lane engine command does for one thread at its issue. -/
inductive EngRes where
  | go (k : OpKind)
  | wait (t : Thread)
  | trap (tr : Trap)

/-- Each enabled thread in ascending order checks and issues one operation of a class (assumption 44, DESIGN CHOICE). -/
def Cx.engineEach (cx : Cx) (s : State) (cls : Cls) (f : Cx → State → Nat → View → Thread → Opnds → State × EngRes) : State :=
  cx.each s fun s tid v t =>
    if cx.enabled tid then
      match f cx s tid v t (cx.opnds v) with
      | (s, .trap tr) => (s, cx.raise tid tr t)
      | (s, .wait t) => (s, (t, none))
      | (s, .go k) => (cx.engineOp s [tid] cls k, cx.advance tid (t.count cls))
    else (s, cx.advance tid t)
/-- A lane engine command. -/
def runEngine (s : State) (i : Instr) (cls : Cls) (f : Cx → State → Nat → View → Thread → Opnds → State × EngRes) :
    Host.Outcome State Fault Refusal :=
  runWord s i fun cx s => cx.engineEach s cls f

/-- A record's check of R159 and its read, for one thread. -/
def Cx.record (cx : Cx) (s : State) (tid : Nat) (t : Thread) (ea n align : Nat) : State × RecRes :=
  match checkEa s cx.launch { size := n, align := align, r := true, acc := false } ea with
  | some c => (s, .trap { cause := c, taddr := ea, tinfo := memInfo n false false false })
  | none => cx.readRecord s [tid] tid t ea n false

/-- An address in a buffer or in the scratchpad window. -/
def isBuf (ea : Nat) : Bool := !isWin ea

/-! ## Accesses of an engine -/

/-- n bytes that an engine reads for a launch, checked under R159. -/
def engRead (s : State) (l : Launch) (g : Ag) (ea n : Nat) : Got :=
  match checkEa s l { size := n, r := true } ea with
  | some c => .fault c ea s
  | none => readEa s g ea n
/-- n bytes that an engine writes for a launch, checked under R159. -/
def engWrite (s : State) (l : Launch) (g : Ag) (ea n x : Nat) : Got :=
  match checkEa s l { size := n, w := true } ea with
  | some c => .fault c ea s
  | none => writeEa s g ea n x

/-! ## Progress in the background -/

/-- The operation has met a hold of its access i at an address: that access's wait begins, unless it has (19 R387, 28
R470). -/
def noteHold (s : State) (id ea i : Nat) : State :=
  match s.op? id with
  | none => s
  | some o =>
    let wr := locate s (opAg s o) ea false != .held
    if o.work.since.isSome && o.work.addr == ea && o.work.elem == i then s.setOp { o with work := { o.work with wr := o.work.wr || wr } }
    else s.setOp { o with work := { o.work with since := some s.ref, wr := wr, addr := ea, elem := i } }

/-- An access of the operation has gone through. -/
def Work.clear (w : Work) : Work := { w with since := none }

/-- An engine operation fails with its _ELEM cause (09 R230). -/
def elemFail (s : State) (o : Op) (cause addr info : Nat) : State := failWith s o cause addr (o.info info)

/-- The cause and sr.tinfo of an engine's failure: an error of the core's own structures, or a lost link, is raised itself
(25 R445, 12 R291, 27 R463), a memory cause as the _ELEM cause. -/
def engineCause (elem cause info : Nat) : Nat × Nat :=
  if Cause.hwRegf ≤ cause && cause ≤ Cause.hwLink then (cause, 0) else (elem, info)

/-- An operation at a phase. -/
def opIn (s : State) (id : Nat) (f : Op → Bool) : Bool := match s.op? id with | some o => f o | none => false

/-- A failing operation. -/
def Phase.isFailing : Phase → Bool
  | .failing .. => true
  | _ => false

end Sys2Proof.Machine
end

