-- ==== Sys2Proof/Machine/Layout.lean ====
section
/-! DEFINITION. Layout records (11_scratchpad_copies.md R257 to R260), LRLD, and the boxes of a tensor (R264, R267). -/

namespace Sys2Proof.Machine

/-! ## Records (R258) -/

def layNdim (r : Nat) : Nat := fld r 8 3
def layPad (r : Nat) : Nat := fld r 32 2
def laySrel (r : Nat) : Bool := bitOf r 34
def layPadv (r : Nat) : Nat := fld r 64 64
/-- The field of extent k. -/
def layExtField (r k : Nat) : Nat := fld r (8 * (16 + 4 * k)) 32
/-- Extent of dimension k: 1 from NDIM on. -/
def layExt (r k : Nat) : Nat := if k < layNdim r then layExtField r k else 1
/-- Byte stride of dimension k, from 1 on. -/
def layStr (r k : Nat) : Int := sfld r (8 * (32 + 8 * k)) 64
def layPstr (r : Nat) : Nat := fld r (8 * 72) 64
def layScale (r : Nat) : Nat := fld r (8 * 80) 64

/-- The element format of a tensor: element bits, microscaling blocks, nested-integer planes. -/
structure LayF where
  bits : Nat
  mx : Bool
  ni : Bool
  deriving DecidableEq, Repr

/-- The format word of a record: its slot's, or an unscaled one of its EFMT. -/
def layWord (slots : Nat → Nat) (r : Nat) : Nat := if bitOf r 15 then slots (fld r 12 3) else fld r 0 8
/-- The format of a record. -/
def layFmt (slots : Nat → Nat) (r : Nat) : LayF :=
  let w := layWord slots r
  { bits := efmtBits (slotEfmt w) (slotPlanes w), mx := slotMx w, ni := slotEfmt w == 0x0D }

/-- Elements of a unit, which moves as a whole: a microscaling block, a byte of each plane, or one element. -/
def LayF.elems (f : LayF) : Nat := if f.mx then 32 else if f.ni then 8 else 1
/-- Bytes of a unit's data in one place: a block's, a plane's byte, or an element's. -/
def LayF.bytes (f : LayF) : Nat := if f.ni then 1 else f.elems * f.bits / 8
/-- Planes of a unit. -/
def LayF.planes (f : LayF) : Nat := if f.ni then f.bits else 1
/-- Bytes of a unit in all, with its scale. -/
def LayF.total (f : LayF) : Nat := f.planes * f.bytes + if f.mx then 1 else 0

/-- A record is valid (R258, R259; assumption 97, DEDUCED). -/
def layOk (slots : Nat → Nat) (r : Nat) : Bool :=
  let w := layWord slots r
  let f := layFmt slots r
  let e := fld r 0 8
  let n := (upTo 5).foldl (fun n k => n * layExt r k) 1
  let unit := f.bytes
  let strs := [layStr r 1, layStr r 2, layStr r 3, layStr r 4]
  fld r 16 16 == 0 && !bitOf r 11 && fld r 35 29 == 0 && fld r (8 * 36) 32 == 0 && fld r (8 * 88) 320 == 0 &&
  (if bitOf r 15 then w != 0 && e == 0 else (1 ≤ e && e ≤ 6) || (10 ≤ e && e ≤ 12)) &&
  1 ≤ layNdim r && layNdim r ≤ 5 && layPad r != 3 &&
  (upTo 5).all (fun k => if k < layNdim r then 1 ≤ layExtField r k else layExtField r k == 1 && layStr r k == 0) &&
  strs.all (fun x => -(2 ^ 43 : Nat) ≤ x && x < (2 ^ 43 : Nat) && (unit == 0 || x % unit == 0)) &&
  (if f.mx then layExt r 0 % 32 == 0 && layScale r != 0 else layScale r == 0 && !laySrel r) &&
  (if f.ni then
      strs.all (· == 0) && layExt r 0 % 8 == 0 && layPstr r % 32 == 0 && roundUp n 8 / 8 ≤ layPstr r
    else layPstr r == 0) &&
  layPadv r < 2 ^ f.bits

/-! ## Boxes (R264, R267) -/

/-- A box of a tensor: its record and format, tensor base, origin and extents. -/
structure Box where
  lay : Nat
  fmt : LayF
  base : Nat
  coord : List Int
  ext : List Nat

/-- Units along dimension 0, and in all. -/
def Box.row (b : Box) : Nat := b.ext.getD 0 1 / b.fmt.elems
def Box.units (b : Box) : Nat := b.row * b.ext.getD 1 1 * b.ext.getD 2 1 * b.ext.getD 3 1 * b.ext.getD 4 1
/-- Bytes that the box's plane takes in scratchpad, plane by plane (R267). -/
def Box.planeStep (b : Box) : Nat := roundUp b.units 32
/-- Bytes between the first and the last byte of the box in scratchpad. -/
def Box.size (b : Box) : Nat := if b.fmt.ni then (b.fmt.planes - 1) * b.planeStep + b.units else b.units * b.fmt.total
/-- Bytes that the box's units hold. -/
def Box.bytes (b : Box) : Nat := b.units * b.fmt.total

/-- The coordinates of the first element of unit q, in the order of R267. -/
def Box.at (b : Box) (q : Nat) : List Int :=
  let e := fun k => b.ext.getD k 1
  let r := q / b.row
  let i := [q % b.row * b.fmt.elems, r % e 1, r / e 1 % e 2, r / e 1 / e 2 % e 3, r / e 1 / e 2 / e 3]
  mapI (fun k (x : Nat) => b.coord.getD k 0 + x) 0 i

/-- A coordinate list lies in the tensor. -/
def Box.inb (b : Box) (c : List Int) : Bool :=
  (upTo 5).all fun k => 0 ≤ c.getD k 0 && c.getD k 0 < layExt b.lay k

/-- The linear index of an element (R259). -/
def linOf (r : Nat) (c : List Int) : Int :=
  c.getD 1 0 + layExt r 1 * (c.getD 2 0 + layExt r 2 * (c.getD 3 0 + layExt r 3 * c.getD 4 0))

/-- The byte offset of a unit's data from the tensor base. -/
def Box.disp (b : Box) (c : List Int) : Int :=
  let s := layStr b.lay 1 * c.getD 1 0 + layStr b.lay 2 * c.getD 2 0 + layStr b.lay 3 * c.getD 3 0 + layStr b.lay 4 * c.getD 4 0
  if b.fmt.ni then (c.getD 0 0 + layExt b.lay 0 * linOf b.lay c) / 8
  else c.getD 0 0 * b.fmt.bits / 8 + s

/-- The base of the scale array. -/
def Box.scaleBase (b : Box) : Nat := if laySrel b.lay then eaAdd b.base (layScale b.lay) else layScale b.lay

/-- The pieces of a unit: place in the box, global address, length. -/
def Box.pieces (b : Box) (q : Nat) : List (Nat × Nat × Nat) :=
  let c := b.at q
  if b.fmt.ni then
    (upTo b.fmt.planes).map fun p => (p * b.planeStep + q, eaAdd b.base (p * layPstr b.lay + b.disp c), 1)
  else
    let n := b.fmt.bytes
    (q * n, eaAdd b.base (b.disp c), n) ::
      if b.fmt.mx then
        [(b.units * n + q, eaAdd b.scaleBase (c.getD 0 0 / 32 + (layExt b.lay 0 / 32 : Nat) * linOf b.lay c), 1)]
      else []

/-- What a unit out of bounds loads as, piece by piece (R267): pad elements, and the scale of one. -/
def Box.pads (b : Box) : List Nat :=
  let v := if layPad b.lay == 1 then layPadv b.lay else 0
  if b.fmt.ni then (upTo b.fmt.planes).map fun p => if bitOf v (b.fmt.bits - 1 - p) then 255 else 0
  else if b.fmt.mx then [(upTo 32).foldl (fun x i => x + v * 2 ^ (b.fmt.bits * i)) 0, 0x7F]
  else [v]

/-- Pieces read one by one. -/
def readPieces (l : Launch) (g : Ag) : List (Nat × Nat × Nat) → State → Except Got (List Nat × State)
  | [], s => .ok ([], s)
  | (_, ea, n) :: ps, s =>
    match engRead s l g ea n with
    | .ok x s =>
      match readPieces l g ps s with
      | .ok (xs, s) => .ok (x :: xs, s)
      | .error e => .error e
    | r => .error r

/-- What loading a box gives: for each unit its pieces of the box with their data. -/
inductive BoxRes where
  | ok (units : List (List (Nat × Nat × Nat))) (s : State)
  | hold (ea : Nat) (s : State)
  | busy (s : State)
  | fault (cause ea : Nat) (s : State)
  /-- a PAD 2 element out of bounds -/
  | outside (ea : Nat) (s : State)

/-- Units from q on, n of them, loaded. -/
def Box.load (b : Box) (l : Launch) (g : Ag) : Nat → Nat → State → BoxRes
  | 0, _, s => .ok [] s
  | n + 1, q, s =>
    let ps := b.pieces q
    let rest := fun (xs : List Nat) (s : State) =>
      match b.load l g n (q + 1) s with
      | .ok us s => .ok ((ps.zip xs).map (fun z => (z.1.1, z.1.2.2, z.2)) :: us) s
      | r => r
    if b.inb (b.at q) then
      match readPieces l g ps s with
      | .ok (xs, s) => rest xs s
      | .error (.fault c ea s) => .fault c ea s
      | .error (.hold ea s) => .hold ea s
      | .error (.busy s) | .error (.ok _ s) => .busy s
    else if layPad b.lay == 2 then .outside ((ps.headD (0, 0, 0)).2.1) s
    else rest b.pads s

/-! ## LRLD (R260) -/

/-- LRLD (R260): the handle of a dynamic entry, then the checks of a 128-byte read. -/
def execLrld (d a b : BitVec 8) (s : State) : Host.Outcome State Fault Refusal :=
  runEngine s (.lrld d a b) .cp fun cx s _ _ _ o =>
    let l := cx.launch
    if o.d < l.nstat || l.nstat + l.ndyn ≤ o.d then (s, .trap { cause := Cause.cpyBad, tinfo := 6 })
    else match checkEa s l { size := 128, align := 128, r := true, acc := false } o.a with
      | some c => (s, .trap { cause := c, taddr := o.a, tinfo := memInfo 128 false false false })
      | none => (s, .go (.lrld o.d o.a))

/-- LRLD_READ_DONE (R260, R273): a valid record replaces its entry, another fails with reason 3, a fault with reason 1. -/
def execLrldReadDone (op : Nat) (s : State) : Host.Outcome State Fault Refusal :=
  match s.op? op with
  | none => .refused (.notEnabled "LRLD_READ_DONE")
  | some o =>
    match o.kind, s.launch? o.lid with
    | .lrld h ea, some l =>
      match o.phase with
      | .failing c addr _ =>
        let f := engineCause Cause.cpyElem c (c * 256 + 1)
        .next (retire (elemFail s o f.1 addr f.2) op)
      | .issued =>
        whenEnabled "LRLD_READ_DONE" (o.ready s)
          (match readEa s (opAg s o) ea 128 with
           | .hold a t => noteHold (s.keepHold t) op a 0
           | .busy _ => s
           | .fault c a t =>
             let f := engineCause Cause.cpyElem c (c * 256 + 1)
             retire (elemFail t o f.1 a f.2) op
           | .ok r t =>
             if layOk l.fmtSlot r then completeOp (t.setLaunch { l with layouts := setAt none l.layouts h (some r) }) op
             else retire (elemFail t o Cause.cpyElem ea 3) op)
      | _ => .refused (.notEnabled "LRLD_READ_DONE")
    | _, _ => .refused (.notEnabled "LRLD_READ_DONE")

end Sys2Proof.Machine
end

