-- ==== Sys2Proof/Machine/Copies.lean ====
section
/-! DEFINITION. The copy engine: CPYT, CPYL and CPYM (11_scratchpad_copies.md R262 to R271, 14_cluster.md R305, R307) and its
events. -/

namespace Sys2Proof.Machine

/-- The box of a tile command. -/
def cpBox (l : Launch) (d lay : Nat) : Box :=
  { lay := lay, fmt := layFmt l.fmtSlot lay, base := cpGbase d, coord := cpCoord d,
    ext := (upTo 5).map fun k => cpBoxk d k + 1 }

/-- A window address with its rank bits cleared. -/
def clearRank (ea : Nat) : Nat := setFld ea 32 3 0

/-! ## Issue checks (R266) -/

/-- The scopes that a signal accepts (R254, R263). -/
def sigScopeOk (tb : Bool) (c : Nat) : Bool := c == 0 || (3 ≤ c && c ≤ if tb then 8 else 5)
/-- A signal of the right kind, aligned, or none. -/
def sigKindOk (tb : Bool) (sig : Nat) : Bool :=
  sig == 0 || (sig % 16 == 0 && if tb then !isWin sig && eaIdx sig != 0 else isScr sig)

/-- A range of a copy checked under R159. -/
def cpRange (s : State) (l : Launch) (ea n : Nat) (write : Bool) (need : Need) : Option Trap :=
  (checkEa s l { need with size := n, r := !write, w := write } ea).map fun c =>
    { cause := c, taddr := ea, tinfo := memInfo n write false false }

/-- The check of an arrival word's place. -/
def cpSigCheck (s : State) (l : Launch) (opc d : Nat) : Option Trap :=
  if cpSig d == 0 || cpTb d then none
  else
    let ea := if cpWritesScr opc d then clearRank (cpSig d) else cpSig d
    (checkEa s l { size := 16, align := 16, w := true, acc := false, buf := false } ea).map fun c =>
      { cause := c, taddr := cpSig d, tinfo := memInfo 16 true true false }

/-- Orders 2 to 5 of a tile command: reserved fields, the handle, the box. -/
def cpTileBad (l : Launch) (d : Nat) : Option Nat :=
  match l.layout (cpHandle d) with
  | none => some 3
  | some lay =>
    let f := layFmt l.fmtSlot lay
    let c := cpCoord d
    if (upTo 5).any fun k => layNdim lay ≤ k && (c.getD k 0 != 0 || cpBoxk d k != 0) then some 2
    else if c.getD 0 0 % f.elems != 0 || (cpBoxk d 0 + 1) % f.elems != 0 then some 2
    else none

/-- Orders 2 to 8 (R266): the reason of CPY_BAD (assumption 66, DEDUCED). -/
def cpBad (l : Launch) (opc d : Nat) : Option Nat :=
  let lin := cpLinear opc d
  let rsvd := fld (cpCtl d) 9 7 != 0 || (cpLinBit d && opc != opCpym) ||
    (if lin then cpStore d || fld d (8 * 28) (8 * 17) != 0 else fld d (8 * 16 + 23) 9 != 0)
  if rsvd then some 1
  else match (if lin then none else cpTileBad l d) with
    | some r => some r
    | none =>
      if (opc == opCpym) != (cpMcast d != 0) || 2 ^ l.cores ≤ cpMcast d then some 7
      else if cpRing d != 0 && l.rings.getD (cpRing d) 0 == 0 then some 8
      else if !sigKindOk (cpTb d) (cpSig d) || !sigScopeOk (cpTb d) (cpScope d) then some 12
      else if lin && (cpSrc d % 4 != 0 || cpDst d % 4 != 0 || cpLen d % 4 != 0) then some 11
      else none

/-- Order 9 of a tile command. A failure of GBASE reports a size of 1 byte (assumption 114, DESIGN CHOICE). -/
def cpTileRanges (s : State) (l : Launch) (opc d : Nat) : Option Trap :=
  match l.layout (cpHandle d) with
  | none => none
  | some lay =>
    let b := cpBox l d lay
    let st := cpStore d
    let rank := if opc == opCpym && !st then 0 else cpSrank d
    let align := if b.fmt.mx || b.fmt.ni then 1 else b.fmt.bytes
    let g := cpGbase d
    let gtrap := fun c => some ({ cause := c, taddr := g, tinfo := memInfo 1 st false false } : Trap)
    match cpRange s l (scrEa rank (cpSoff d)) b.size (!st) { size := 0, align := align, acc := false, buf := false } with
    | some t => some t
    | none => match cpSigCheck s l opc d with
      | some t => some t
      | none =>
        if eaIdx g == 0 then gtrap Cause.addrNull
        else if isWin g then gtrap Cause.winKind
        else match bufOf s l.ctx (eaIdx g) with
          | none => gtrap Cause.bufInvalid
          | some e => if !(if st then bufW e else bufR e) then gtrap Cause.bufRights else none

/-- Order 9 of a linear command: windows, the signal, then buffers. -/
def cpLinRanges (s : State) (l : Launch) (opc d : Nat) : Option Trap :=
  let dst := if opc == opCpym && isScr (cpDst d) then clearRank (cpDst d) else cpDst d
  let need : Need := { size := 0, acc := opc != opCpym, buf := opc != opCpym }
  let chk := fun (win : Bool) => [
    if isWin dst == win then (cpRange s l dst (cpLen d) true need).map fun t => { t with taddr := cpDst d } else none,
    if isWin (cpSrc d) == win then cpRange s l (cpSrc d) (cpLen d) false { size := 0 } else none]
  ((chk true ++ [cpSigCheck s l opc d] ++ (chk false).reverse).findSome? id)

/-- CPYT, CPYL, CPYM at issue (R262, R266): the descriptor is captured. -/
def runCopy (s : State) (i : Instr) (opc : Nat) : Host.Outcome State Fault Refusal :=
  runEngine s i .cp fun cx s tid _ t o =>
    let l := cx.launch
    match cx.record s tid t (cx.ea o.a 16) 48 16 with
    | (s, .trap tr) => (s, .trap tr)
    | (s, .wait t) => (s, .wait t)
    | (s, .ok d) =>
      match cpBad l opc d with
      | some r => (s, .trap { cause := Cause.cpyBad, tinfo := r })
      | none =>
        match (if cpLinear opc d then cpLinRanges s l opc d else cpTileRanges s l opc d) with
        | some tr => (s, .trap tr)
        | none =>
          match s.party? cx.slot with
          | none => (s, .wait t)
          | some p =>
            let ins : Word := BitVec.ofNat 32 (opc * 2 ^ 24 + cx.d.toNat * 2 ^ 16 + cx.a.toNat * 2 ^ 8 + cx.b.toNat)
            (s.setParty cx.slot { p with copySeq := (p.copySeq + 1) % 2 ^ 32 },
              .go (copyKind s l.lid p.blin opc d (cx.issue.pfx.getD 0#32) ins p.copySeq))

/-- CPYT (R267). -/
def execCpyt (d a b : BitVec 8) (s : State) : Host.Outcome State Fault Refusal := runCopy s (.cpyt d a b) 0x6A
/-- CPYL (R265). -/
def execCpyl (d a b : BitVec 8) (s : State) : Host.Outcome State Fault Refusal := runCopy s (.cpyl d a b) 0x6B
/-- CPYM (R307). -/
def execCpym (d a b : BitVec 8) (s : State) : Host.Outcome State Fault Refusal := runCopy s (.cpym d a b) 0x6C

/-! ## Targets (R307, R271) -/

/-- The offset at which a command writes in each portion. -/
def cpOff (opc d : Nat) : Nat := if cpLinear opc d then scrOff (cpDst d) else cpSoff d

/-! ## Packets -/

/-- Units in groups of n, from the first on. -/
def groupsOf {α : Type} (n : Nat) : Nat → List α → List (List α)
  | 0, _ => []
  | f + 1, l => if l.isEmpty then [] else l.take n :: groupsOf n f (l.drop n)

/-- The data of n bytes cut at 128-byte boundaries of its destination: place, length, data. -/
def cutAt (addr : Nat) : Nat → Nat → Nat → List (Nat × Nat × Nat)
  | 0, _, _ => []
  | f + 1, n, x =>
    if n = 0 then []
    else
      let c := min n (128 - addr % 128)
      (addr, c, x % 2 ^ (8 * c)) :: cutAt (addr + c) f (n - c) (x / 2 ^ (8 * c))

/-- Packets for every target portion: the parts are offsets in the box or range. -/
def toTargets (ts : List Target) (off : Nat) (groups : List (List (Nat × Nat × Nat))) : List Packet :=
  (mapI (fun i t => (i, t)) 0 ts).flatMap fun (i, t) =>
    groups.map fun g =>
      { tgt := i, core := some t.core, parts := g.map (fun p => (t.base + off + p.1, p.2)), gen := some (t.base, t.gen), fate := 0 }

/-- Packets to global addresses. -/
def toGlobal (groups : List (List (Nat × Nat × Nat))) : List Packet :=
  groups.map fun g => { tgt := 0, core := none, parts := g, gen := none, fate := 0 }

/-- What a copy's reads give at its start. -/
inductive CpStart where
  | ok (ps : List Packet) (s : State)
  | hold (ea : Nat) (s : State)
  | busy
  | fail (cause ea reason : Nat) (s : State)

/-- Units that a packet of up to 128 bytes holds (assumption 67, DESIGN CHOICE). -/
def perPacket (f : LayF) : Nat := max 1 (128 / f.total)

/-- A tile load's packets. -/
def cpLoad (s : State) (o : Op) (l : Launch) (opc d lay : Nat) (ts : List Target) : CpStart :=
  let b := cpBox l d lay
  match b.load l (opAg s o) b.units 0 s with
  | .ok us s => .ok (toTargets ts (cpOff opc d) ((groupsOf (perPacket b.fmt) us.length us).map List.flatten)) s
  | .hold ea s => .hold ea s
  | .busy _ => .busy
  | .fault c ea s => .fail c ea 1 s
  | .outside ea s => .fail 0 ea 2 s

/-- The pieces of units with their data, read from scratchpad at an address; or what stops a read (25 R445). -/
def gatherPieces (s : State) (g : Ag) (src : Nat) (us : List (List (Nat × Nat × Nat))) :
    Except CpStart (List (List (Nat × Nat × Nat))) :=
  us.mapM fun u => u.mapM fun (x, ea, n) =>
    match readEa s g (eaAdd src x) n with
    | .ok v _ => .ok (ea, n, v)
    | .fault c a _ => .error (.fail c a 1 s)
    | .hold a t => .error (.hold a t)
    | .busy _ => .error .busy

/-- A tile store's packets: in-bounds units, read from scratchpad. -/
def cpGather (s : State) (o : Op) (l : Launch) (d lay : Nat) : CpStart :=
  let b := cpBox l d lay
  let src := scrEa (cpSrank d) (cpSoff d)
  let qs := (upTo b.units).filter fun q => b.inb (b.at q)
  match gatherPieces s (opAg s o) src (qs.map b.pieces) with
  | .ok us => .ok (toGlobal ((groupsOf (perPacket b.fmt) us.length us).map List.flatten)) s
  | .error r => r

/-- A linear copy's packets. -/
def cpLine (s : State) (o : Op) (l : Launch) (opc d : Nat) (ts : List Target) : CpStart :=
  let n := cpLen d
  match (if n = 0 then .ok 0 s else engRead s l (opAg s o) (cpSrc d) n) with
  | .hold ea s => .hold ea s
  | .busy _ => .busy
  | .fault c ea s => .fail c ea 1 s
  | .ok x s =>
    if cpWritesScr opc d then
      let off := cpOff opc d
      let parts := cutAt off (n / 4 + 1) n x
      .ok (toTargets ts 0 (parts.map fun p => [p])) s
    else .ok (toGlobal ((cutAt (cpDst d) (n / 4 + 1) n x).map fun p => [(eaAdd (cpDst d) (p.1 - cpDst d : Nat), p.2)])) s

/-- A copy's reads. -/
def cpStart (s : State) (o : Op) (l : Launch) (opc d lay : Nat) (ts : List Target) : CpStart :=
  if cpLinear opc d then cpLine s o l opc d ts
  else if cpStore d then cpGather s o l d lay
  else cpLoad s o l opc d lay ts

/-- The copy engine of the operation's core waits for a ring with no room (R272). -/
def copyStalled (s : State) (o : Op) : Bool :=
  engineStalled s o.id fun p =>
    match p.kind with
    | .copy _ d .. => if coreOf p.slot == coreOf o.slot then some (cpRing d) else none
    | _ => none

/-! ## Events (R270) -/

/-- COPY_START (R270): the engine takes the command and reads its source (assumption 42, DESIGN CHOICE). -/
def execCopyStart (op : Nat) (s : State) : Host.Outcome State Fault Refusal :=
  match s.op? op with
  | none => .refused (.notEnabled "COPY_START")
  | some o =>
    match o.kind, s.launch? o.lid with
    | .copy opc d _ _ _ lay ts, some l =>
      let go := o.phase == .issued && o.ready s && (s.party? o.slot).isSome && !copyStalled s o
      match cpStart s o l opc d lay ts with
      | .ok ps t => whenEnabled "COPY_START" go (t.setOp { o with phase := .running, work := { o.work.clear with packets := ps } })
      | .hold ea t => whenEnabled "COPY_START" go (noteHold (s.keepHold t) op ea 0)
      | .busy => .refused (.notEnabled "COPY_START")
      | .fail c ea r t => whenEnabled "COPY_START" go (t.setOp { o with phase := .failing c ea r, work := o.work.clear })
    | _, _ => .refused (.notEnabled "COPY_START")

/-- A packet's target still has the generation that the packet carries (R271). -/
def packetLive (s : State) (p : Packet) : Bool :=
  match p.core, p.gen with
  | some c, some (base, gen) => genAt s c base == gen
  | _, _ => true

/-- A late write (R271): the target's counter of 32 bits rises. -/
def lateWrite (s : State) (core : Nat) : State :=
  s.setCore core { s.core core with latew := min ((s.core core).latew + 1) (2 ^ 32 - 1) }

/-- The parts of a packet written, one by one: a caller keeps all of them or none (02 R52). -/
def writeParts (l : Launch) (g : Ag) (core : Option Nat) : List (Nat × Nat × Nat) → State → Got
  | [], s => .ok 0 s
  | (a, n, x) :: ps, s =>
    match core with
    | some c => writeParts l g core ps (scrWrite s c a n x)
    | none =>
      match engWrite s l g a n x with
      | .ok _ s => writeParts l g core ps s
      | r => r

/-- Bytes of a packet. -/
def Packet.bytes (p : Packet) : Nat := p.parts.foldl (fun n q => n + q.2.1) 0

/-- Data at an address, cut at 128-byte boundaries. -/
def rowUnits (ea n x : Nat) : List (List (Nat × Nat × Nat)) :=
  (cutAt ea (n / 16 + 2) n x).map fun p => [(eaAdd ea (p.1 - ea : Nat), p.2)]

/-- Units written in order, each whole or not at all: what stands of them, the bytes written, and what stopped them. -/
def writeUnits (l : Launch) (g : Ag) : List Packet → State → List Packet × Nat × Got
  | [], s => ([], 0, .ok 0 s)
  | p :: ps, s =>
    if p.fate != 0 then
      let r := writeUnits l g ps s
      (p :: r.1, r.2)
    else match writeParts l g none p.parts s with
      | .ok _ t =>
        let r := writeUnits l g ps t
        ({ p with fate := 1 } :: r.1, p.bytes + r.2.1, r.2.2)
      | .hold ea t => (p :: ps, 0, .hold ea (s.keepHold t))
      | .busy _ => (p :: ps, 0, .busy s)
      | .fault c ea _ => (p :: ps, 0, .fault c ea s)

/-- The work after packet k has met its fate. -/
def Work.fated (w : Work) (k fate : Nat) (p : Packet) : Work :=
  { w.clear with packets := w.packets.set k { p with fate := fate }
                 moved := if fate == 1 then w.moved + p.bytes else w.moved
                 dropped := if fate == 2 && !w.dropped.contains p.tgt then w.dropped ++ [p.tgt] else w.dropped }

/-- COPY_WRITE_PACKET (R305, R271): a packet that faults or is held has written nothing (02 R52). -/
def execCopyWritePacket (op packet : Nat) (s : State) : Host.Outcome State Fault Refusal :=
  match s.op? op with
  | none => .refused (.notEnabled "COPY_WRITE_PACKET")
  | some o =>
    match o.kind, s.launch? o.lid, o.work.packets[packet]? with
    | .copy .., some l, some p =>
      let go := o.phase == .running && p.fate == 0 && !copyStalled s o
      if !packetLive s p then
        whenEnabled "COPY_WRITE_PACKET" go ((lateWrite s (p.core.getD 0)).setOp { o with work := o.work.fated packet 2 p })
      else match writeParts l (opAg s o) p.core p.parts s with
        | .ok _ t => whenEnabled "COPY_WRITE_PACKET" go (t.setOp { o with work := o.work.fated packet 1 p })
        | .hold ea t => whenEnabled "COPY_WRITE_PACKET" go (noteHold (s.keepHold t) op ea 0)
        | .busy _ => .refused (.notEnabled "COPY_WRITE_PACKET")
        | .fault c ea _ =>
          whenEnabled "COPY_WRITE_PACKET" go (s.setOp { o with phase := .failing c ea 1, work := o.work.clear })
    | _, _, _ => .refused (.notEnabled "COPY_WRITE_PACKET")

/-- The arrival words of target portions updated (R263, R268, R305): state, and the indices of updates dropped. -/
def signalTargets (s : State) (w : Work) (off : Nat) (ts : List (Nat × Target)) : State × List Nat :=
  ts.foldl (fun (s, gone) (i, t) =>
    if w.dropped.contains i then (s, gone)
    else if genAt s t.core t.base != t.gen then (s, gone ++ [i])
    else
      let n := (w.packets.filter fun p => p.tgt == i && p.fate == 1).foldl (fun n p => n + p.bytes) 0
      let a := t.base + off
      (scrWrite s t.core a 16 (awUpdate (scrRead s t.core a 16) n), gone)) (s, [])

/-- One update of a signal with a whole count: minus the count for a transaction barrier (R268), for which the update itself asks
no right (assumption 66, DESIGN CHOICE). -/
def signalOne (s : State) (l : Launch) (g : Ag) (tb : Bool) (sig n : Nat) : Got :=
  if sig == 0 then .ok 0 s
  else match checkEa s l { size := 16, align := 16, acc := false, scr := !tb, buf := tb } sig with
    | some c => .fault c sig s
    | none => rmwEa s g sig 16 (.signal tb n)

/-- An operation of an engine has signalled: it posts its record, or completes. -/
def toPost (s : State) (o : Op) (ring status cause faddr : Nat) : State :=
  if ring == 0 then
    match o.work.fail with
    | some (c, a, i) => retire (elemFail s o c a i) o.id
    | none => retire (s.setPhase o .done) o.id
  else s.setPhase o (.post status cause faddr)

/-- The signal of a copy whose writes are done: the work, with every drop, and what the update gives. -/
def cpSignal (s : State) (o : Op) (l : Launch) (opc d : Nat) (ts : List Target) : Work × Got :=
  if cpSig d != 0 && !cpTb d && cpWritesScr opc d then
    let (s, gone) := signalTargets s o.work (scrOff (cpSig d)) (mapI (fun i t => (i, t)) 0 ts)
    ({ o.work with dropped := o.work.dropped ++ gone }, .ok 0 s)
  else (o.work, signalOne s l (opAg s o) (cpTb d) (cpSig d) o.work.moved)

/-- COPY_DONE (R270): every write is done, and the signal is updated as a release. -/
def execCopyDone (op : Nat) (s : State) : Host.Outcome State Fault Refusal :=
  match s.op? op with
  | none => .refused (.notEnabled "COPY_DONE")
  | some o =>
    match o.kind, s.launch? o.lid with
    | .copy opc d _ _ _ _ ts, some l =>
      let go := o.phase == .running && (o.work.packets.all fun p => p.fate != 0) && !copyStalled s o
      match cpSignal s o l opc d ts with
      | (w, .ok _ t) =>
        let o := { o with work := w.clear }
        whenEnabled "COPY_DONE" go (toPost (t.setOp o) o (cpRing d) (if w.dropped.isEmpty then 0 else 2) 0 0)
      | (_, .hold ea t) => whenEnabled "COPY_DONE" go (noteHold (s.keepHold t) op ea 0)
      | (_, .busy _) => .refused (.notEnabled "COPY_DONE")
      | (_, .fault c ea t) => whenEnabled "COPY_DONE" go (t.setOp { o with phase := .failing c ea 1, work := o.work.clear })
    | _, _ => .refused (.notEnabled "COPY_DONE")

/-- COPY_FAULT (R270): writes have stopped; the record says FAULT, and CPY_ELEM is deferred. -/
def execCopyFault (op : Nat) (s : State) : Host.Outcome State Fault Refusal :=
  match s.op? op with
  | none => .refused (.notEnabled "COPY_FAULT")
  | some o =>
    match o.kind, o.phase with
    | .copy _ d .., .failing c ea r =>
      let f := engineCause Cause.cpyElem c (c * 256 + r)
      let o := { o with work := { o.work.clear with fail := some (f.1, ea, f.2) } }
      whenEnabled "COPY_FAULT" (!copyStalled s o) (toPost (s.setOp o) o (cpRing d) 1 f.1 ea)
    | _, _ => .refused (.notEnabled "COPY_FAULT")

end Sys2Proof.Machine
end

