-- ==== Sys2Proof/Machine/Tile.lean ====
section
/-! DEFINITION. The tile engine: MMA, MDRN and PLANE, accumulation, the drain, shadow recompute and the engine's events
(12_tile_engine.md). -/

namespace Sys2Proof.Machine

/-! ## Parameter blocks (R279, R286) -/

def tbKind (b : Nat) : Nat := fld b 30 2
def tbSlotA (b : Nat) : Nat := fld b 23 3
def tbSlotB (b : Nat) : Nat := fld b 20 3
def tbAcc (b : Nat) : Nat := fld b 18 2
def tbZa (b : Nat) : Bool := bitOf b 17
def tbBt (b : Nat) : Bool := bitOf b 16
def tbPscl (b : Nat) : Bool := bitOf b 15
def tbM (b : Nat) : Nat := fld b 32 16
def tbN (b : Nat) : Nat := fld b 48 16
def tbK (b : Nat) : Nat := fld b 64 32
def tbAoff (b : Nat) : Nat := fld b 128 20
def tbBoff (b : Nat) : Nat := fld b 160 20
def tbCoff (b : Nat) : Nat := fld b 192 18
def tbSig (b : Nat) : Nat := fld b 256 64
def tbSctl (b : Nat) : Nat := fld b 320 8
def tbRing (b : Nat) : Nat := fld (tbSctl b) 6 2
def tbScope (b : Nat) : Nat := fld (tbSctl b) 2 4
def tbSigTb (b : Nat) : Bool := bitOf (tbSctl b) 1

def drSlot (b : Nat) : Nat := fld b 27 3
def drConv (b : Nat) : Bool := bitOf b 26
def drRm (b : Nat) : Nat := fld b 23 3
def drClr (b : Nat) : Bool := bitOf b 22
def drAcc (b : Nat) : Nat := fld b 20 2
def drCoff (b : Nat) : Nat := fld b 64 18
def drDst (b : Nat) : Nat := fld b 128 64
def drStr (b : Nat) : Nat := fld b 192 32
def drAmax (b : Nat) : Nat := fld b 384 64
def drSeed (b : Nat) : Nat := fld b 448 64

/-- Opcodes of the three commands. -/
def opMma : Nat := 0x6E
def opMdrn : Nat := 0x6F
def opPlane : Nat := 0xB2

/-- Bytes of an accumulator element by ACC. -/
def accSize (acc : Nat) : Nat := if acc == 0 then 8 else 4

/-- Planes of A and of B that PLANE reads (R285): the override's, else the block's, else the slot's. -/
def planesA (b ovr ba : Nat) : Nat := if fld ovr 0 4 != 0 then fld ovr 0 4 else if fld b 0 4 != 0 then fld b 0 4 else ba
def planesB (b ovr bb : Nat) : Nat := if fld ovr 4 4 != 0 then fld ovr 4 4 else if fld b 4 4 != 0 then fld b 4 4 else bb

/-! ## Classes (R280) -/

/-- A class of the multiply. -/
inductive TileClass where
  | fp64 | fp32 | half | byte | mx8 | mxNarrow | plane
  deriving DecidableEq, Repr

/-- KS, chunk, log2 of the largest M·N·K, and MACs a clock; the last two of a plane command before its plane counts. -/
def TileClass.shape : TileClass → Nat × Nat × Nat × Nat
  | .fp64 => (4, 4, 20, 1024)
  | .fp32 => (4, 4, 21, 2048)
  | .half => (16, 16, 23, 8192)
  | .byte => (16, 16, 24, 16384)
  | .mx8 => (32, 16, 24, 16384)
  | .mxNarrow => (32, 16, 25, 32768)
  | .plane => (32, 32, 30, 2 ^ 20)
def TileClass.ks (c : TileClass) : Nat := c.shape.1
def TileClass.chunk (c : TileClass) : Nat := c.shape.2.1
/-- ACC suits the class. -/
def TileClass.accOk (c : TileClass) (acc : Nat) : Bool :=
  match c with
  | .fp64 => acc == 0
  | .plane => acc == 2 || acc == 3
  | .fp32 | .half | .byte | .mx8 | .mxNarrow => acc == 1
/-- A class whose commands shadow recompute counts (R293). -/
def TileClass.shadowed : TileClass → Bool
  | .half | .byte | .mx8 | .mxNarrow => true
  | .fp64 | .fp32 | .plane => false

/-- The class of a slot pair. -/
def tileClass (opc wa wb : Nat) : Option TileClass :=
  let a := slotEfmt wa
  let b := slotEfmt wb
  let e8 := fun e => e == 5 || e == 6
  let wide := fun e => e == 5 || e == 6 || e == 10
  let narrow := fun e => e == 7 || e == 8 || e == 9
  if wa == 0 || wb == 0 then none
  else if opc == opPlane then (if a == 0x0D && b == 0x0D then some .plane else none)
  else if slotMx wa && slotMx wb then
    (if wide a || wide b then some .mx8 else if narrow a && narrow b then some .mxNarrow else none)
  else if slotMx wa || slotMx wb then none
  else if a == 1 && b == 1 then some .fp64
  else if a == 2 && b == 2 then some .fp32
  else if (a == 3 && b == 3) || (a == 4 && b == 4) then some .half
  else if e8 a && e8 b then some .byte
  else none

/-- The weight that plane counts put on a command's products. -/
def planeWork (c : TileClass) (b ovr wa wb : Nat) : Nat :=
  if c == .plane then planesA b ovr (slotPlanes wa) * planesB b ovr (slotPlanes wb) else 1

/-! ## Operands (R281) -/

/-- Bytes between planes of n elements. -/
def planeStride (n : Nat) : Nat := roundUp (roundUp n 8 / 8) 32
/-- Bytes of a packed or dense operand of n elements of a slot, k planes of a nested integer (assumption 43, DEDUCED). -/
def operSize (w n k : Nat) : Nat :=
  if slotEfmt w == 0x0D then (k - 1) * planeStride n + n / 8
  else n * efmtBits (slotEfmt w) 0 / 8 + if slotMx w then n / 32 else 0

/-- Element x of a float operand of n elements. -/
def operVal (w data n x : Nat) : Val :=
  let bits := efmtBits (slotEfmt w) 0
  let v := slotDecode w 0 0 (fld data (bits * x) bits)
  if slotMx w then
    let sc := fld data (n * bits + 8 * (x / 32)) 8
    if sc == 255 then .nan false else v.mulPow (sc - 127 : Int)
  else v

/-- Element x of the top k planes of a nested-integer operand of n elements (02 R54). -/
def operInt (w data n k x : Nat) : Int :=
  let u := (upTo k).foldl (fun u p => 2 * u + fld data (8 * p * planeStride n + x) 1) 0
  if slotSgn w then sint u k else u

/-! ## Accumulation (R282 to R285) -/

/-- One chunk: the exact sum of the accumulator and the products, rounded once to nearest even (R282, R284). -/
def floatChunk (m : Fmt) (c : Nat) (ps : List Val) : Nat :=
  let all := m.decode c :: ps
  let up := all.any fun v => v.isInf && !v.isNeg
  let down := all.any fun v => v.isInf && v.isNeg
  if all.any Val.isNan || (up && down) then m.nan
  else if up || down then m.signed down m.infMag
  else
    let x := all.foldl (fun (x : Ex) v => x.add v.ex) { m := 0, ex := 0 }
    if x.m == 0 then m.signed (all.all fun v => v.isZero && v.isNeg) 0
    else (roundFin m .nonsat 1 0 false (x.m < 0) x.m.natAbs x.ex).1

/-- An output element of MMA: chunks of ascending k. -/
def dotFloat (m : Fmt) (chunk k : Nat) (f : Nat → Val) (c : Nat) : Nat :=
  (upTo (k / chunk)).foldl (fun c q => floatChunk m c ((upTo chunk).map fun t => f (chunk * q + t))) c

/-- An output element of PLANE (R285). -/
def dotInt (wrapIt : Bool) (k : Nat) (f : Nat → Int) (c : Nat) : Nat :=
  wrap ((upTo (k / 32)).foldl (fun c q =>
    let x := (upTo 32).foldl (fun x t => x + f (32 * q + t)) c
    if wrapIt then sint (wrap x 32) 32 else satInt x (-2 ^ 31) (2 ^ 31 - 1)) (sint c 32)) 32

/-- The read of scratchpad bytes of a rank, or of accumulator memory of a core, that this step cannot make (25 R445): its cause and
its address. -/
def tileUnread (s : State) (o : Op) (rank off n : Nat) : Option (Nat × Nat) :=
  match readEa s (opAg s o) (scrEa rank off) n with
  | .fault c ea _ => some (c, ea)
  | .ok .. | .hold .. | .busy _ => none
def accUnread (s : State) (core off n : Nat) : Option (Nat × Nat) :=
  match s.armed with
  | some (.accWord c w) => if c == core && off / 32 ≤ w && 32 * w < off + n then some (Cause.hwAcc, 0) else none
  | _ => none

/-- The rank's scratchpad bytes as an operation's thread sees them. -/
def tileBytes (s : State) (o : Op) (rank off n : Nat) : Nat :=
  match readEa s (opAg s o) (scrEa rank off) n with
  | .ok x _ => x
  | .hold .. | .busy _ | .fault .. => 0

/-- The accumulator element at an index of a tile. -/
def accElem (s : State) (core off size x : Nat) : Nat := accRead s core (off + size * x) size

/-- A multiply with its operands read. -/
structure Mul where
  cls : TileClass
  wa : Nat
  wb : Nat
  adata : Nat
  bdata : Nat
  ka : Nat
  kb : Nat

/-- The operands of a multiply block. -/
def mulOf? (s : State) (o : Op) (l : Launch) (opc b ovr : Nat) : Option Mul :=
  let wa := l.fmtSlot (tbSlotA b)
  let wb := l.fmtSlot (tbSlotB b)
  match tileClass opc wa wb, s.party? o.slot with
  | some c, some p =>
    let ka := planesA b ovr (slotPlanes wa)
    let kb := planesB b ovr (slotPlanes wb)
    some { cls := c, wa := wa, wb := wb, ka := ka, kb := kb,
           adata := tileBytes s o p.rank (tbAoff b) (operSize wa (tbM b * tbK b) ka),
           bdata := tileBytes s o p.rank (tbBoff b) (operSize wb (tbK b * tbN b) kb) }
  | _, _ => none

/-- What a command's own reads meet at its start: an operand of a multiply, an initial accumulator, a drain's source. -/
def tileFailure (s : State) (o : Op) (l : Launch) (opc b ovr : Nat) : Option (Nat × Nat) :=
  let core := coreOf o.slot
  if opc == opMdrn then accUnread s core (drCoff b) (tbM b * tbN b * accSize (drAcc b))
  else
    let wa := l.fmtSlot (tbSlotA b)
    let wb := l.fmtSlot (tbSlotB b)
    let rank := ((s.party? o.slot).map Party.rank).getD 0
    (tileUnread s o rank (tbAoff b) (operSize wa (tbM b * tbK b) (planesA b ovr (slotPlanes wa)))).orElse fun _ =>
      (tileUnread s o rank (tbBoff b) (operSize wb (tbK b * tbN b) (planesB b ovr (slotPlanes wb)))).orElse fun _ =>
        if tbZa b then none else accUnread s core (tbCoff b) (tbM b * tbN b * accSize (tbAcc b))

/-- The linear index of B(k, j). -/
def bIndex (b k j : Nat) : Nat := if tbBt b then k + tbK b * j else j + tbN b * k
/-- The exact product A(i, k)·B(k, j) of a float class. -/
def Mul.prod (m : Mul) (b i j k : Nat) : Val :=
  mulVals (operVal m.wa m.adata (tbM b * tbK b) (k + tbK b * i)) (operVal m.wb m.bdata (tbK b * tbN b) (bIndex b k j))
/-- The product of the planes, with the implied scales under PSCL. -/
def Mul.iprod (m : Mul) (b i j k : Nat) : Int :=
  let sh := if tbPscl b then (slotPlanes m.wa - m.ka) + (slotPlanes m.wb - m.kb) else 0
  operInt m.wa m.adata (tbM b * tbK b) m.ka (k + tbK b * i) *
    operInt m.wb m.bdata (tbK b * tbN b) m.kb (bIndex b k j) * 2 ^ sh

/-- The initial accumulator of element x of C. -/
def mulInit (s : State) (core b x : Nat) : Nat := if tbZa b then 0 else accElem s core (tbCoff b) (accSize (tbAcc b)) x
/-- Element x of C after the first k products, k a chunk boundary. -/
def Mul.elem (m : Mul) (s : State) (core b x k : Nat) : Nat :=
  let i := x / tbN b
  let j := x % tbN b
  let c := mulInit s core b x
  match m.cls with
  | .plane => dotInt (tbAcc b == 2) k (m.iprod b i j) c
  | .fp64 => dotFloat .f64 4 k (m.prod b i j) c
  | cls => dotFloat .f32 cls.chunk k (m.prod b i j) c
/-- Every element of C, row by row. -/
def Mul.result (m : Mul) (s : State) (core b : Nat) : List Nat :=
  (upTo (tbM b * tbN b)).map fun x => m.elem s core b x (tbK b)
/-- What each element of C reads as while the command runs (R290): its value before the command or at a chunk boundary, which one is
the free value Config.tileProgress (assumption 41, DESIGN CHOICE). -/
def Mul.partialResult (m : Mul) (s : State) (core b : Nat) : List Nat :=
  (upTo (tbM b * tbN b)).map fun x =>
    let q := Config.tileProgress s.seq x % (tbK b / m.cls.chunk + 1)
    if q == 0 then accElem s core (tbCoff b) (accSize (tbAcc b)) x else m.elem s core b x (q * m.cls.chunk)

/-! ## Shadow recompute (R293) -/

/-- A deviation as binary64 bits. -/
def devOf (e s : Nat) : Nat :=
  let u := Fmt.f32.decode e
  let v := Fmt.f32.decode s
  if e == s || (u.isNan && v.isNan) then 0
  else match u, v with
    | .fin a m x, .fin b n y =>
      let d := (Ex.ofFin a m x).add (Ex.ofFin b n y).neg
      (roundFin .f64 .nonsat 3 0 false false d.m.natAbs d.ex).1
    | _, _ => Fmt.f64.infMag
/-- The deviation of each element of C from the sequential reference. -/
def Mul.devs (m : Mul) (s : State) (core b : Nat) (es : List Nat) : List Nat :=
  mapI (fun x e =>
    let p := m.prod b (x / tbN b) (x % tbN b)
    devOf e ((upTo (tbK b)).foldl (fun c k => (addVals .f32 .nonsat 1 0 false (p k) (Fmt.f32.decode c)).1) (mulInit s core b x)))
    0 es

/-! ## The drain (R286 to R288) -/

/-- An accumulator element as a value. -/
def accVal (acc x : Nat) : Val :=
  match acc with
  | 0 => Fmt.f64.decode x
  | 1 => Fmt.f32.decode x
  | _ => intVal (sint x 32)

/-- The rounded-up magnitude of a source element as binary32, 0 for a NaN (R288). -/
def magUp (v : Val) : Nat :=
  match v with
  | .nan _ => 0
  | .inf _ => Fmt.f32.infMag
  | .fin _ m ex => (roundFin .f32 .nonsat 3 0 false false m ex).1
def amaxOf (vs : List Val) : Nat := vs.foldl (fun m v => max m (magUp v)) 0

/-- Elements of equal width packed from the lowest address. -/
def packBits (bits : Nat) : List Nat → Nat
  | [] => 0
  | x :: xs => x % 2 ^ bits + 2 ^ bits * packBits bits xs

/-- The exponent of the largest magnitude of a block, none where every element is zero. -/
def blockExp (vs : List Val) : Option Int :=
  vs.foldl (fun best v =>
    match v with
    | .fin _ m ex =>
      if m == 0 then best
      else
        let (n, d) := quot m ex
        let e := floorLog n d
        (match best with | some b => some (max b e) | none => some e)
    | _ => best) none

/-- A microscaling block encoded (02 R50): element codes and scale. Each value comes with its draw. -/
def mxEncode (w rm : Nat) (vs : List (Val × Nat)) : List Nat × Nat :=
  if vs.any fun v => v.1.isNan || v.1.isInf then (vs.map fun _ => 0, 255)
  else
    let e := match blockExp (vs.map (·.1)) with
      | none => (-127 : Int)
      | some x => satInt (x - mxEmax (slotEfmt w)) (-127) 127
    (vs.map fun v => (slotEncode w rm v.2 0 (v.1.mulPow (-e))).1 % 2 ^ efmtBits (slotEfmt w) 0, (e + 127).toNat)

/-- The draw of element x of a drain under RM 6 (R287). -/
def drainDraw (b x : Nat) : Nat := if drRm b == 6 then rndc (drSeed b) x % 2 ^ 32 else 0

/-- The destination word of a drain: 0 where it writes the accumulator format. -/
def drainWord (l : Launch) (b : Nat) : Nat := if drConv b then l.fmtSlot (drSlot b) else 0
/-- Bits of a destination element. -/
def drainBits (w b : Nat) : Nat := if drConv b then efmtBits (slotEfmt w) (slotPlanes w) else 8 * accSize (drAcc b)
/-- A destination of packed blocks or planes. -/
def drainPacked (w b : Nat) : Bool := drConv b && (slotMx w || slotEfmt w == 0x0D)

/-- The word that an element is converted by: a float source never wraps into a plain integer, it takes the nearest end of the
range (02 R46), while a nested integer follows its slot's policy (02 R55; an infinity under WRAP gives 0, assumption 92,
DESIGN CHOICE). -/
def drainSlot (w b : Nat) : Nat :=
  if drAcc b ≤ 1 && 0x0A ≤ slotEfmt w && slotEfmt w ≤ 0x0C then setFld w 20 2 0 else w

/-- A converted element. -/
def drainElem (w b x raw : Nat) : Nat :=
  if drConv b then (slotEncode (drainSlot w b) (drRm b) (drainDraw b x) 0 (accVal (drAcc b) raw)).1 % 2 ^ drainBits w b else raw

/-- The blocks of 32 of a list. -/
def blocks32 (xs : List Nat) : List (List Nat) := groupsOf 32 xs.length xs

/-- The writes of a drain, unit by unit: address, length and data of each part. A unit holds no part of an element, and each
MX block stands in one with its scale (R287, 02 R52). -/
def drainUnits (w b : Nat) (raws : List Nat) : List (List (Nat × Nat × Nat)) :=
  let n := tbN b
  let dst := drDst b
  let bits := drainBits w b
  if drConv b && slotMx w then
    let vs := mapI (fun x r => (accVal (drAcc b) r, drainDraw b x)) 0 raws
    mapI (fun q blk =>
      let e := mxEncode w (drRm b) blk
      [(eaAdd dst (q * (4 * bits) : Nat), 4 * bits, packBits bits e.1),
       (eaAdd dst (raws.length * bits / 8 + q : Nat), 1, e.2)]) 0 (groupsOf 32 vs.length vs)
  else if drConv b && slotEfmt w == 0x0D then
    mapI (fun q ys =>
      (upTo bits).map fun p =>
        (eaAdd dst (p * planeStride raws.length + 32 * q : Nat), ys.length / 8, packBits 1 (ys.map fun y => fld y (bits - 1 - p) 1)))
      0 (groupsOf 256 raws.length (mapI (drainElem w b) 0 raws))
  else
    (mapI (fun i row => rowUnits (eaAdd dst (i * drStr b : Nat)) (n * bits / 8)
        (packBits bits (mapI (fun j r => drainElem w b (j + n * i) r) 0 row)))
      0 (groupsOf n raws.length raws)).flatten

/-- Bytes from the first to the last that a drain may write. -/
def drainSize (w b : Nat) : Nat :=
  let n := tbM b * tbN b
  if drConv b && slotMx w then n * drainBits w b / 8 + n / 32
  else if drainPacked w b then (drainBits w b - 1) * planeStride n + n / 8
  else (tbM b - 1) * drStr b + tbN b * (drainBits w b / 8)

/-! ## Issue checks (R295) -/

/-- A tile shape. -/
def shapeOk (x : Nat) : Bool := x % 16 == 0 && 16 ≤ x && x ≤ 256

/-- Reserved fields, KIND and the override word (order 2). -/
def tileRsvd (opc b ovr : Nat) : Bool :=
  fld (fld b 320 16) 8 8 != 0 || bitOf b 320 || fld ovr 8 24 != 0 || fld b 96 32 != 0 ||
  if opc == opMdrn then
    tbKind b != 1 || fld b 0 20 != 0 || fld b (64 + 18) 14 != 0 || fld b 224 32 != 0 || fld b (8 * 42) 48 != 0
  else
    tbKind b != 0 || fld b 26 4 != 0 || fld b 8 7 != 0 || fld b (128 + 20) 12 != 0 || fld b (160 + 20) 12 != 0 ||
      fld b (192 + 18) 14 != 0 || fld b 224 32 != 0 || fld b (8 * 42) (8 * 22) != 0

/-- SIG, SCOPE or RING is wrong (order 8). -/
def tileSigBad (l : Launch) (b : Nat) : Bool :=
  !sigKindOk (tbSigTb b) (tbSig b) || !sigScopeOk (tbSigTb b) (tbScope b) ||
  (tbRing b != 0 && l.rings.getD (tbRing b) 0 == 0)

/-- Orders 3 to 8 of a multiply: the reason of TILE_BAD. -/
def mulBad (l : Launch) (opc b ovr : Nat) : Option Nat :=
  let wa := l.fmtSlot (tbSlotA b)
  let wb := l.fmtSlot (tbSlotB b)
  let (m, n, k) := (tbM b, tbN b, tbK b)
  let ka := planesA b ovr (slotPlanes wa)
  let kb := planesB b ovr (slotPlanes wb)
  match tileClass opc wa wb with
  | none => some 2
  | some c =>
    if !shapeOk m || !shapeOk n || k % c.ks != 0 || k < c.ks || 4096 < k || 2 ^ c.shape.2.2.1 < m * n * k * planeWork c b ovr wa wb then
      some 3
    else if !c.accOk (tbAcc b) || (!tbBt b && (slotMx wa || c == .plane)) then some 4
    else if (opc == opMma && (fld b 0 8 != 0 || tbPscl b)) || (c == .plane && (slotPlanes wa < ka || slotPlanes wb < kb)) then
      some 6
    else if tbAoff b % 128 != 0 || tbBoff b % 128 != 0 || tbCoff b % 64 != 0 ||
        l.scratchEnd < tbAoff b + operSize wa (m * k) ka || l.scratchEnd < tbBoff b + operSize wb (k * n) kb ||
        2 ^ 18 < tbCoff b + m * n * accSize (tbAcc b) then some 5
    else if tileSigBad l b then some 7
    else none

/-- Orders 4 to 9 of a drain. -/
def drainBad (l : Launch) (b : Nat) : Option Nat :=
  let w := drainWord l b
  let (m, n) := (tbM b, tbN b)
  let esz := drainBits w b / 8
  if !shapeOk m || !shapeOk n then some 3
  else if drCoff b % 64 != 0 || 2 ^ 18 < drCoff b + m * n * accSize (drAcc b) then some 5
  else if tileSigBad l b then some 7
  else if drRm b == 0 || drRm b == 7 || (!drConv b && (drRm b != 1 || drSlot b != 0)) || (drConv b && w == 0) ||
      isAcc (drDst b) || (drAmax b != 0 && isAcc (drAmax b)) || drAcc b == 3 then some 8
  else if drainPacked w b then
    (if drStr b != 0 || drDst b % 32 != 0 || (slotMx w && n % 32 != 0) then some 8 else none)
  else if drStr b % esz != 0 || drStr b < n * esz || drDst b % esz != 0 then some 8
  else none

/-- Order 10 of a drain. -/
def drainRanges (s : State) (l : Launch) (b : Nat) : Option Trap :=
  let trap := fun ea n (c : Nat) => ({ cause := c, taddr := ea, tinfo := memInfo n true false false } : Trap)
  match checkEa s l { size := drainSize (drainWord l b) b, w := true, acc := false } (drDst b) with
  | some c => some (trap (drDst b) (drainSize (drainWord l b) b) c)
  | none =>
    if drAmax b == 0 then none
    else (checkEa s l { size := 4, align := 4, w := true, acc := false } (drAmax b)).map (trap (drAmax b) 4)

/-- Orders 2 to 10 of a block. -/
def tileCheck (s : State) (l : Launch) (opc b ea ovr : Nat) : Option Trap :=
  let bad := fun r => ({ cause := Cause.tileBad, taddr := ea, tinfo := r } : Trap)
  if tileRsvd opc b ovr then some (bad 1)
  else if opc == opMdrn then
    match drainBad l b with
    | some r => some (bad r)
    | none => drainRanges s l b
  else (mulBad l opc b ovr).map bad

/-- MMA and MDRN at issue: one command for each enabled thread (R278). -/
def runTile (s : State) (i : Instr) (opc : Nat) : Host.Outcome State Fault Refusal :=
  runEngine s i .tl fun cx s tid _ t o =>
    let ea := cx.ea o.a 64
    match cx.record s tid t ea 64 64 with
    | (s, .trap tr) => (s, .trap tr)
    | (s, .wait t) => (s, .wait t)
    | (s, .ok b) =>
      match tileCheck s cx.launch opc b ea 0 with
      | some tr => (s, .trap tr)
      | none => (s, .go (.tile opc b ea 0))

/-- MMA (R277, R278). -/
def execMma (d a b : BitVec 8) (s : State) : Host.Outcome State Fault Refusal := runTile s (.mma d a b) opMma
/-- MDRN (R277, R278). -/
def execMdrn (d a b : BitVec 8) (s : State) : Host.Outcome State Fault Refusal := runTile s (.mdrn d a b) opMdrn

/-- PLANE (R277, R278): one command for the group, counted in tl of each of its threads. -/
def execPlane (d a b : BitVec 8) (s : State) : Host.Outcome State Fault Refusal :=
  runWord s (.plane d a b) fun cx s =>
    let o := cx.opnds (cx.view s.ref (cx.tids.headD 0))
    let tid := cx.tids.headD 0
    match checkEa s cx.launch { size := 64, align := 64, r := true, acc := false } o.a with
    | some c => cx.trapAll s { cause := c, taddr := o.a, tinfo := memInfo 64 false false true }
    | none =>
      match cx.readRecord s cx.tids tid (cx.party.thread tid) o.a 64 true with
      | (s, .trap tr) => cx.trapAll s tr
      | (s, .wait t) => cx.holdGroup s t
      | (s, .ok blk) =>
        match tileCheck s cx.launch opPlane blk o.a o.b with
        | some tr => cx.trapAll s tr
        | none => cx.mapGroup (cx.engineOp s cx.tids .tl (.tile opPlane blk o.a o.b)) fun k t => cx.advance k (t.count .tl)

/-! ## The engine's queue (R276) -/

/-- The charged time of a command in core clocks. -/
def tileCharge (l : Launch) (opc b ovr : Nat) : Nat :=
  let up := fun x y => (x + y - 1) / y
  if opc == opMdrn then up (tbM b * tbN b) 64 + 24
  else
    let wa := l.fmtSlot (tbSlotA b)
    let wb := l.fmtSlot (tbSlotB b)
    match tileClass opc wa wb with
    | some c => up (tbM b * tbN b * tbK b * planeWork c b ovr wa wb) c.shape.2.2.2 + 24
    | none => 24

/-- Two commands of one issuing group: issued in one step, so numbered without a gap. -/
def sameIssue (s : State) (p o : Op) : Bool :=
  p.slot == o.slot && p.pc == o.pc && (upTo (o.id - p.id)).all fun i => (s.op? (p.id + i)).isSome

/-- No earlier command of the thread or of its issuing group still waits to be accepted. -/
def tileTurn (s : State) (o : Op) : Bool :=
  (s.ops.takeWhile fun p => p.id ≠ o.id).all fun p =>
    !(p.slot == o.slot && (match p.kind with | .tile .. => true | _ => false) && p.phase == .issued &&
      (p.tids.any o.tids.contains || sameIssue s p o))

/-- The count of a shadowed command accepted for a launch on a core, 0 where the command is not recomputed (R293). -/
def shadowCount (s : State) (core : Nat) (l : Launch) (opc b : Nat) : Nat × Nat :=
  let n := aget 0 l.lid (s.core core).shadow
  match tileClass opc (l.fmtSlot (tbSlotA b)) (l.fmtSlot (tbSlotB b)) with
  | some c =>
    if l.shadowN == 0 || opc == opMdrn || !c.shadowed then (n, 0)
    else (n + 1, if (n + 1) % 2 ^ l.shadowN == 0 then n + 1 else 0)
  | none => (n, 0)

/-- TILE_ACCEPT (R276, R293). -/
def execTileAccept (op : Nat) (s : State) : Host.Outcome State Fault Refusal :=
  match s.op? op with
  | none => .refused (.notEnabled "TILE_ACCEPT")
  | some o =>
    match o.kind, s.launch? o.lid with
    | .tile opc b _ ovr, some l =>
      let core := coreOf o.slot
      let c := s.core core
      let t := tileCharge l opc b ovr
      let (n, mine) := shadowCount s core l opc b
      let c' := { c with tileQ := c.tileQ ++ [op], tileT := c.tileT ++ [t],
                         shadow := if n == 0 then c.shadow else aset l.lid n c.shadow }
      whenEnabled "TILE_ACCEPT"
        (o.phase == .issued && tileTurn s o && c.tileQ.length < 4 && c.tileT.foldl (· + ·) t ≤ 4096)
        ((s.setCore core c').setOp { o with phase := .queued, work := { o.work with count := mine } })
    | _, _ => .refused (.notEnabled "TILE_ACCEPT")

/-! ## Running (R291, R292) -/

/-- The TAG of an operation's record. -/
def Op.tag (o : Op) : Nat := ringTag o.pc.toNat (o.tids.headD 0)

/-- A command leaves the engine's queue: its accumulator and scratchpad work is done or has stopped. -/
def leaveTile (s : State) (core op : Nat) : State :=
  let c := s.core core
  if c.tileQ.head? == some op then s.setCore core { c with tileQ := c.tileQ.tail, tileT := c.tileT.tail } else s

/-- A multiply runs: C stands in part, its result in the operation, and a shadowed one's reference is under way. -/
def runMul (s : State) (o : Op) (l : Launch) (opc b ovr : Nat) : State :=
  let core := coreOf o.slot
  match mulOf? s o l opc b ovr with
  | none => s
  | some m =>
    let es := m.result s core b
    let size := accSize (tbAcc b)
    let n := tbM b * tbN b * size
    let devs := if o.work.count == 0 then [] else m.devs s core b es
    let s1 := accWrite s core (tbCoff b) n (packBits (8 * size) (m.partialResult s core b))
    let s1 :=
      if o.work.count == 0 then s1
      else
        let p := (s.party? o.slot).map fun p => (p.blin, p.pidx)
        s1.setCore core { s1.core core with
          shadows := (s1.core core).shadows ++
            [{ op := o.id, lid := l.lid, blin := (p.getD (0, 0)).1, pidx := (p.getD (0, 0)).2, tag := o.tag,
               count := o.work.count, devs := devs }] }
    s1.setOp { o with phase := .running, work := { o.work with moved := n, vals := es } }

/-- A multiply's result stands in C, and the engine goes on to the next command (R276, R291). -/
def finishMul (s : State) (o : Op) (b : Nat) : State :=
  let core := coreOf o.slot
  if o.work.vals.isEmpty then s
  else
    let size := accSize (tbAcc b)
    leaveTile (accWrite s core (tbCoff b) (tbM b * tbN b * size) (packBits (8 * size) o.work.vals)) core o.id

/-- Every part of some units written where nothing can hold or fault it: in scratchpad. -/
def writeScratch (s : State) (l : Launch) (g : Ag) (ps : List (Nat × Nat × Nat)) : State :=
  match writeParts l g none ps s with
  | .ok _ s => s
  | .hold .. | .busy _ | .fault .. => s

/-- A drain reads its source, clears it under CLR and leaves the queue: a destination in scratchpad is written at once (R276,
R292), the writes to a buffer stand in the operation. -/
def runDrain (s : State) (o : Op) (l : Launch) (b : Nat) : State :=
  let core := coreOf o.slot
  let size := accSize (drAcc b)
  let n := tbM b * tbN b
  let raws := (upTo n).map (accElem s core (drCoff b) size)
  let units := drainUnits (drainWord l b) b raws
  let s1 := if drClr b then accWrite s core (drCoff b) (n * size) 0 else s
  let here := isScr (drDst b)
  let s1 := if here then writeScratch s1 l (opAg s o) units.flatten else s1
  (leaveTile s1 core o.id).setOp { o with
    phase := .running
    work := { o.work with
      packets := if here then [] else toGlobal units
      moved := if here then units.flatten.foldl (fun k p => k + p.2.1) 0 else 0
      vals := [amaxOf (raws.map (accVal (drAcc b)))] } }

/-- The tile engine of the operation's core waits for a ring with no room (11 R272). -/
def tileStalled (s : State) (o : Op) : Bool :=
  engineStalled s o.id fun p =>
    match p.kind with
    | .tile _ b .. => if coreOf p.slot == coreOf o.slot then some (tbRing b) else none
    | _ => none

/-- TILE_START (R291): the head of the engine's order does its accumulator and scratchpad reads (assumption 42, DESIGN CHOICE). -/
def execTileStart (op : Nat) (s : State) : Host.Outcome State Fault Refusal :=
  match s.op? op with
  | none => .refused (.notEnabled "TILE_START")
  | some o =>
    match o.kind, s.launch? o.lid with
    | .tile opc b _ ovr, some l =>
      whenEnabled "TILE_START" (o.phase == .queued && (s.core (coreOf o.slot)).tileQ.head? == some op && o.ready s && !tileStalled s o)
        (match tileFailure s o l opc b ovr with
         | some (c, ea) => s.setOp { o with phase := .failing c ea 1, work := o.work.clear }
         | none => if opc == opMdrn then runDrain s o l b else runMul s o l opc b ovr)
    | _, _ => .refused (.notEnabled "TILE_START")

/-- The AMAX merge of a drain, made once (R288). -/
def tileMerge (s : State) (g : Ag) (l : Launch) (o : Op) (opc b : Nat) : Got :=
  if opc != opMdrn || drAmax b == 0 || o.work.flag then .ok 0 s
  else match checkEa s l { size := 4, align := 4, w := true, acc := false } (drAmax b) with
    | some c => .fault c (drAmax b) s
    | none => rmwEa s g (drAmax b) 4 { op := 2, code := 4 * 16 + 8, data := o.work.vals.headD 0 }

/-- The signal's address: an arrival word of a drain that writes scratchpad lies in the portion that it writes (R289, 11 R263). -/
def tileSigEa (opc b : Nat) : Nat :=
  if opc == opMdrn && !tbSigTb b && tbSig b != 0 && isScr (drDst b) then scrEa (scrRank (drDst b)) (scrOff (tbSig b)) else tbSig b

/-- What the last part of a tile command gives: the operation as far as it has gone, what stopped it, and the reason of
TILE_ELEM that a fault there has (R296): 1 the destination or AMAX, 2 the signal. -/
def tileEnd (s : State) (o : Op) (l : Launch) (opc b : Nat) : Op × Nat × Got :=
  let g := opAg s o
  let (ps, n, got) := writeUnits l g o.work.packets s
  let o := { o with work := { o.work with packets := ps, moved := o.work.moved + n } }
  match got with
  | .ok _ s =>
    match tileMerge s g l o opc b with
    | .ok _ s =>
      let o := { o with work := { o.work with flag := true } }
      (o, 2, signalOne s l g (tbSigTb b) (tileSigEa opc b) o.work.moved)
    | r => (o, 1, r)
  | r => (o, 1, r)

/-- A save or a MIGR of the issuing party waits on the command (R293). -/
def shadowCutNow (s : State) (o : Op) : Bool := (s.slot o.slot).st == .saving || (s.slot o.slot).migr.isSome

/-- The reference of a completing command is cut off where a save or a MIGR waits for the command. -/
def cutShadow (s : State) (o : Op) : State := if shadowCutNow s o then cutShadows s o.slot fun x => x.op == o.id else s

/-- TILE_RUN_DONE (R291): every C element written, or a drain's writes and merge acknowledged, and the signal updated as a
release. -/
def execTileRunDone (op : Nat) (s : State) : Host.Outcome State Fault Refusal :=
  match s.op? op with
  | none => .refused (.notEnabled "TILE_RUN_DONE")
  | some o =>
    match o.kind, s.launch? o.lid with
    | .tile opc b _ _, some l =>
      let go := o.phase == .running && !tileStalled s o
      let w := o.work
      let (s, o) :=
        if opc == opMdrn then (s, o)
        else
          let o' := { o with work := { o.work with vals := [] } }
          ((finishMul s o b).setOp o', o')
      match tileEnd s o l opc b with
      | (o, _, .ok _ t) =>
        let o' := { o with work := o.work.clear }
        whenEnabled "TILE_RUN_DONE" go (toPost (cutShadow (t.setOp o') o') o' (tbRing b) 0 0 0)
      | (o, r, .hold ea t) => whenEnabled "TILE_RUN_DONE" go (noteHold (t.setOp o) op ea r)
      | (o, _, .busy t) => whenEnabled "TILE_RUN_DONE" (go && o.work != w) (t.setOp o)
      | (o, r, .fault c ea t) => whenEnabled "TILE_RUN_DONE" go (t.setOp { o with phase := .failing c ea r, work := o.work.clear })
    | _, _ => .refused (.notEnabled "TILE_RUN_DONE")

/-- TILE_FAULT (R291, R296): the record says FAULT, and TILE_ELEM, or the cause of an accumulator error, is deferred. -/
def execTileFault (op : Nat) (s : State) : Host.Outcome State Fault Refusal :=
  match s.op? op with
  | none => .refused (.notEnabled "TILE_FAULT")
  | some o =>
    match o.kind, o.phase with
    | .tile _ b _ _, .failing c ea r =>
      let go := !tileStalled s o
      let (cause, info) := engineCause Cause.tileElem c (c * 256 + r)
      let s := leaveTile s (coreOf o.slot) op
      let o := { o with work := { o.work.clear with fail := some (cause, ea, info) } }
      whenEnabled "TILE_FAULT" go (toPost (cutShadow (s.setOp o) o) o (tbRing b) 1 cause ea)
    | _, _ => .refused (.notEnabled "TILE_FAULT")

/-- SHADOW_REFERENCE_DONE (R293, R294). -/
def execShadowReferenceDone (op : Nat) (s : State) : Host.Outcome State Fault Refusal :=
  match (upTo 128).findSome? fun c => ((s.core c).shadows.find? fun x => x.op == op).map fun x => (c, x) with
  | some (core, x) => .next (endShadow s core x false)
  | none => .refused (.notEnabled "SHADOW_REFERENCE_DONE")

end Sys2Proof.Machine
end

