-- ==== Sys2Proof/Machine/Bank.lean ====
section
/-! DEFINITION. Bank arithmetic: BKQ, the bank units' commands, all-bank mode and the ports (21_bank_arithmetic.md), and the
activation regulator (19_package_memory.md R391). -/

namespace Sys2Proof.Machine

/-! ## Command blocks (R408, R409) -/

def bkBuf (b : Nat) : Nat := fld b 0 64
/-- Commands of the block. -/
def bkN (b : Nat) : Nat := fld b (64 + 8) 8 + 1
def bkPci (b : Nat) : Nat := fld b 64 6
/-- Command i. -/
def bkCmd (b i : Nat) : Nat := fld b (128 * (i + 1)) 128
def bcOp (c : Nat) : Nat := fld c 28 4
def bcAll (c : Nat) : Bool := bitOf c 27
def bcBank (c : Nat) : Nat := fld c 23 4
def bcFmt (c : Nat) : Nat := fld c 22 1
def bcAcc (c : Nat) : Nat := fld c 17 5
def bcOpr (c : Nat) : Nat := fld c 16 1
def bcRow (c : Nat) : Nat := fld c 0 16
def bcCol (c : Nat) : Nat := fld c 32 5
def bcEnter (c : Nat) : Bool := bitOf c (32 + 8)
def bcBvclr (c : Nat) : Nat := fld c (32 + 9) 2
def bcAclr (c : Nat) : Nat := fld c 64 32

/-- The command reads or writes a column. -/
def bcColumn (c : Nat) : Bool := 1 ≤ bcOp c && bcOp c ≤ 5

/-- The buffer offset of a command location (R406). -/
def bankOffset (e pci bank row col : Nat) : Nat :=
  let n := bufPcLog e + bufBkLog e
  let k := pci * 2 ^ bufBkLog e + bank
  let y := row * 1024 + col * 32
  y / 2 ^ bufCsh e * 2 ^ (n + bufCsh e) + k * 2 ^ bufCsh e + y % 2 ^ bufCsh e

/-- The banks at which a command acts. -/
def bcBanks (e c : Nat) : List Nat := if bcAll c then upTo (2 ^ bufBkLog e) else [bcBank c]

/-! ## Issue checks (R411) -/

/-- A reserved OP or bit, or a field that R410 marks unused (order 6). -/
def bcRsvd (c : Nat) : Bool :=
  let op := bcOp c
  let bank := fld c 23 4 != 0
  let fmt := bcFmt c != 0
  let acc := bcAcc c != 0
  let opr := bcOpr c != 0
  let loc := bcRow c != 0 || bcCol c != 0
  let enter := bcEnter c
  let clr := bcBvclr c != 0 || bcAclr c != 0
  8 ≤ op || fld c 96 32 != 0 || fld c (32 + 11) 21 != 0 || fld c (32 + 5) 3 != 0 || (bcAll c && bank) ||
  match op with
  | 0 => bank || fmt || acc || opr || loc || clr
  | 1 | 2 => fmt || acc || enter || clr
  | 3 => enter || clr
  | 4 => opr || enter || clr
  | 5 => fmt || opr || enter || clr
  | 6 => fmt || acc || opr || loc || enter
  | _ => bank || fmt || acc || opr || loc || enter || clr

/-- The offset at fault of a command whose bank or column is out of range (order 7). -/
def bcRange (e pci c : Nat) : Option Nat :=
  let x := fun b => bankOffset e pci b (bcRow c) (bcCol c)
  if 1 ≤ bcOp c && bcOp c ≤ 6 && !bcAll c && 2 ^ bufBkLog e ≤ bcBank c then some (x (bcBank c))
  else if bcColumn c then ((bcBanks e c).find? fun b => bufLen e < x b + 32).map x
  else none

/-- ACC and ALL of a command suit its OP, and it stands where the span rule allows (order 8): inside says whether a span is
open before it. -/
def bcPlaceBad (inside : Bool) (c : Nat) : Bool :=
  match bcOp c with
  | 0 => bcAll c || bcEnter c == inside
  | 1 => bcAll c || !inside
  | 4 => bcAcc c % 16 != 0 || (bcAll c && !inside)
  | 5 => bcAcc c % 8 != 0 || (bcAll c && !inside)
  | 7 => bcAll c
  | _ => bcAll c && !inside
/-- The first command, from i on, that breaks order 8. -/
def spanBad : Bool → Nat → List Nat → Option Nat
  | _, _, [] => none
  | inside, i, c :: cs =>
    if bcPlaceBad inside c then some i else spanBad (if bcOp c == 0 then bcEnter c else inside) (i + 1) cs

/-- The commands of a block (assumption 70, DEDUCED). -/
def bkCmds (b : Nat) : List Nat := (upTo (bkN b)).map (bkCmd b)

/-- Orders 2 to 4, on the header. -/
def bkHeadBad (s : State) (l : Launch) (b ea : Nat) : Option Trap :=
  let bad := fun r => some ({ cause := Cause.bankBad, taddr := ea, tinfo := r } : Trap)
  let buf := bkBuf b
  let r159 := fun c => some ({ cause := c, taddr := buf, tinfo := memInfo 32 false false false } : Trap)
  if fld b (64 + 6) 2 != 0 || fld b (64 + 16) 48 != 0 then bad 1
  else if eaIdx buf == 0 then r159 Cause.addrNull
  else if isWin buf then bad 3
  else match bufOf s l.ctx (eaIdx buf) with
    | none => r159 Cause.bufInvalid
    | some e =>
      if bufIlv e != 2 || bufPeer e || eaOff buf != 0 then bad 3
      else if 2 ^ bufPcLog e ≤ bkPci b then bad 4
      else none

/-- Orders 6 to 9, on the commands. -/
def bkBodyBad (e b ea : Nat) : Option Trap :=
  let cs := bkCmds b
  let i6 := cs.findIdx? bcRsvd
  let i7 := cs.findIdx? fun c => (bcRange e (bkPci b) c).isSome
  match i6, i7, spanBad false 0 cs with
  | some i, _, _ => some { cause := Cause.bankBad, taddr := ea, tinfo := 5 + 256 * i }
  | none, some i, _ =>
    some { cause := Cause.bankBad, taddr := eaAdd (bkBuf b) ((bcRange e (bkPci b) (cs.getD i 0)).getD 0 : Nat), tinfo := 7 + 256 * i }
  | none, none, some i => some { cause := Cause.bankBad, tinfo := 8 + 256 * i }
  | none, none, none =>
    (cs.find? fun c => (1 ≤ bcOp c && bcOp c ≤ 4 && !bufR e) || (bcOp c == 5 && !bufW e)).map fun c =>
      { cause := Cause.bufRights, taddr := bkBuf b, tinfo := memInfo 32 (bcOp c == 5) false false }

/-- BKQ (R407, R408, R411). -/
def execBkq (d a b : BitVec 8) (s : State) : Host.Outcome State Fault Refusal :=
  runEngine s (.bkq d a b) .bk fun cx s tid _ t o =>
    let ea := cx.ea o.a 16
    match cx.record s tid t ea 16 16 with
    | (s, .trap tr) => (s, .trap tr)
    | (s, .wait t) => (s, .wait t)
    | (s, .ok h) =>
      match bkHeadBad s cx.launch h ea with
      | some tr => (s, .trap tr)
      | none =>
        match cx.record s tid t (eaAdd ea 16) (16 * bkN h) 16 with
        | (s, .trap tr) => (s, .trap tr)
        | (s, .wait t) => (s, .wait t)
        | (s, .ok body) =>
          let blk := h + 2 ^ 128 * body
          match bufOf s cx.launch.ctx (eaIdx (bkBuf h)) with
          | none => (s, .trap { cause := Cause.bufInvalid, taddr := bkBuf h, tinfo := memInfo 32 false false false })
          | some e =>
            match bkBodyBad e blk ea with
            | some tr => (s, .trap tr)
            | none => (s, .go (.bank blk ea))

/-! ## Ports (R415, R416) -/

/-- What an arrived block carries: owner context, stack, pseudo-channel. -/
def Op.bankAt (o : Op) : Nat × Nat × Nat := (o.work.vals.getD 0 0, o.work.vals.getD 1 0, o.work.vals.getD 2 0)
/-- The port of an arrived block. -/
def Op.portKey (o : Op) : Nat × Nat := (o.bankAt.2.1, o.bankAt.2.2)

/-- Where a block goes: context, stack and pseudo-channel. -/
def bankDest (s : State) (o : Op) (b : Nat) : Option (Nat × Nat × Nat) :=
  match s.launch? o.lid with
  | none => none
  | some l => (bufOf s l.ctx (eaIdx (bkBuf b))).map fun e => (l.ctx, bufStack e, bufPcBase e + bkPci b)

/-- A bank operation. -/
def OpKind.bankBlk? : OpKind → Option Nat
  | .bank b _ => some b
  | _ => none

/-- The thread's earlier blocks to the same pseudo-channel have arrived. -/
def bankTurn (s : State) (o : Op) (dest : Nat × Nat × Nat) : Bool :=
  (s.ops.takeWhile fun p => p.id ≠ o.id).all fun p =>
    match p.kind.bankBlk? with
    | some b => !(p.phase == .issued && p.slot == o.slot && p.tids.any o.tids.contains && bankDest s p b == some dest)
    | none => true

/-- BANK_BLOCK_ARRIVE (R416); a block that no link carries fails (25 R444). -/
def execBankBlockArrive (op : Nat) (s : State) : Host.Outcome State Fault Refusal :=
  match s.op? op with
  | none => .refused (.notEnabled "BANK_BLOCK_ARRIVE")
  | some o =>
    match o.kind with
    | .bank b _ =>
      match bankDest s o b with
      | some (ctx, stack, pc) =>
        let t := s.setOp { o with phase := .queued, work := { o.work with vals := [ctx, stack, pc] } }
        let p := s.port (stack, pc)
        whenEnabled "BANK_BLOCK_ARRIVE" (o.phase == .issued && bankTurn s o (ctx, stack, pc))
          (if linkDown s (dieOf (coreOf o.slot)) then retire (elemFail s o Cause.hwLink (bkBuf b) 0) op else t.setPort (stack, pc) { p with blocks := p.blocks ++ [op] })
      | none =>
        whenEnabled "BANK_BLOCK_ARRIVE" (o.phase == .issued)
          (retire (elemFail s o Cause.bankElem (bkBuf b) (Cause.pageInvalid * 256 + 1)) op)
    | _ => .refused (.notEnabled "BANK_BLOCK_ARRIVE")

/-- A pseudo-channel's bank units cleared (R405). -/
def clearBanks (s : State) (stack pc : Nat) : State :=
  (upTo 16).foldl (fun s b => s.setBank (stack, pc, b) { ({} : BankUnit) with row := (s.bank (stack, pc, b)).row }) s

/-- BANK_BLOCK_START (R416, R405): the oldest block of the pseudo-channel runs. -/
def execBankBlockStart (op : Nat) (s : State) : Host.Outcome State Fault Refusal :=
  match s.op? op with
  | none => .refused (.notEnabled "BANK_BLOCK_START")
  | some o =>
    let (ctx, stack, pc) := o.bankAt
    let p := s.port (stack, pc)
    let t := if p.lastCtx == some ctx then s else clearBanks s stack pc
    whenEnabled "BANK_BLOCK_START" (o.kind.bankBlk?.isSome && o.phase == .queued && p.blocks.head? == some op && !s.out (.port stack))
      ((t.setPort (stack, pc) { p with lastCtx := some ctx }).setPhase o .running)

/-! ## Row activates (19 R391) -/

/-- The admitted activates still in a stack's window. -/
def Stack.inWindow (k : Stack) (ref : Nat) : List Nat := k.admitted.filter fun t => ref < t + k.twin
/-- A row of a bank is opened. -/
def openRow (s : State) (stack pc bank row : Nat) : State :=
  s.setBank (stack, pc, bank) { s.bank (stack, pc, bank) with row := some row }
/-- An activate at its port: admitted where the window has room, else it waits (assumption 46, DESIGN CHOICE). -/
def activate (s : State) (stack pc bank row : Nat) : State :=
  let k := s.stack stack
  if (s.bank (stack, pc, bank)).row == some row || k.waiting.contains (pc, bank, row) then s
  else
    let now := k.inWindow s.ref
    if now.length < k.actmax then
      openRow (s.setStack stack { k with admitted := now ++ [s.ref] }) stack pc bank row
    else s.setStack stack { k with waiting := k.waiting ++ [(pc, bank, row)] }

/-- ACTIVATE_ADMIT (19 R391). -/
def execActivateAdmit (stack : Nat) (s : State) : Host.Outcome State Fault Refusal :=
  let k := s.stack stack
  let now := k.inWindow s.ref
  match k.waiting with
  | [] => .refused (.notEnabled "ACTIVATE_ADMIT")
  | (pc, bank, row) :: rest =>
    whenEnabled "ACTIVATE_ADMIT" (now.length < k.actmax)
      (openRow (s.setStack stack { k with waiting := rest, admitted := now ++ [s.ref] }) stack pc bank row)

/-! ## All-bank mode (R413, R414) -/

/-- Pseudo-channels in all-bank mode. -/
def allBankCount (s : State) : Nat := (s.ports.filter fun p => p.2.allBank).length
def setAllBank (s : State) (k : Nat × Nat) (on : Bool) : State := s.setPort k { s.port k with allBank := on }
/-- The block's next command. -/
def Op.stepBank (o : Op) : Op := { o with work := { o.work with next := o.work.next + 1, flag := false } }
/-- The command queues of a pseudo-channel's banks emptied: no later command of the block executes. -/
def flushQueues (s : State) (k : Nat × Nat) : State :=
  (upTo 16).foldl (fun s b =>
    let u := s.bank (k.1, k.2, b)
    if u.queue.isEmpty then s else s.setBank (k.1, k.2, b) { u with queue := [] }) s
/-- The block leaves its port: all-bank mode ends, and the next block may start. -/
def leavePort (s : State) (o : Op) : State :=
  let p := s.port o.portKey
  (flushQueues s o.portKey).setPort o.portKey { p with allBank := false, blocks := p.blocks.filter (· ≠ o.id) }

/-- The command that a running block executes next, if it is of an OP. -/
def nextBankCmd (s : State) (op code : Nat) : Option (Op × Nat × Nat) :=
  match s.op? op with
  | none => none
  | some o =>
    match o.kind with
    | .bank b _ =>
      let c := bkCmd b o.work.next
      if o.phase == .running && o.work.next < bkN b && !o.work.flag && bcOp c == code && !s.out (.port o.portKey.1) then some (o, b, c) else none
    | _ => none

/-- BK.MODE (R412, R414): a BK.MODE enter beyond the limit waits at its port. -/
def execBkMode (op : Nat) (s : State) : Host.Outcome State Fault Refusal :=
  match nextBankCmd s op 0 with
  | none => .refused (.notEnabled "BK_MODE")
  | some (o, _, c) =>
    .next (if !bcEnter c then (setAllBank s o.portKey false).setOp o.stepBank
      else if allBankCount s < s.allBankLimit then (setAllBank s o.portKey true).setOp o.stepBank
      else s.setOp { o with work := { o.work with flag := true } })

/-- ALL_BANK_ADMIT (R414, R4). -/
def execAllBankAdmit (op : Nat) (s : State) : Host.Outcome State Fault Refusal :=
  match s.op? op with
  | none => .refused (.notEnabled "ALL_BANK_ADMIT")
  | some o =>
    whenEnabled "ALL_BANK_ADMIT"
      (o.kind.bankBlk?.isSome && o.phase == .running && o.work.flag && allBankCount s < s.allBankLimit && !s.out (.port o.portKey.1))
      ((setAllBank s o.portKey true).setOp o.stepBank)

/-! ## Column commands (R412, R419) -/

/-- A command reads a column (R412). -/
def bcReads (c : Nat) : Bool := 1 ≤ bcOp c && bcOp c ≤ 4
/-- A command's page or column at a bank: the memory cause of a fault, if any (R419, 25 R445). -/
def bankPageBad (s : State) (ctx b c bank : Nat) : Option (Nat × Nat) :=
  let idx := eaIdx (bkBuf b)
  match bufOf s ctx idx with
  | none => some (Cause.pageInvalid, bkBuf b)
  | some e =>
    let x := bankOffset e (bkPci b) bank (bcRow c) (bcCol c)
    let ea := eaAdd (bkBuf b) (x : Nat)
    match walk s e x with
    | none => some (Cause.pageInvalid, ea)
    | some l => if leafBad e l then some (Cause.pageInvalid, ea) else if leafState l == 3 then some (Cause.pageQuar, ea)
      else if bcReads c && s.damaged.contains (lineOf (leafPpa e l x)) then some (Cause.memUncorr, ea)
      else none

/-- The row, in the bank, of a command of a buffer. -/
def bankRow (e c : Nat) : Nat := bufRBase e + bcRow c
/-- The DRAM place of a command's column at a bank. -/
def colAddr (e stack pc bank c : Nat) : Nat := ppaOf stack (bankOff pc bank (bankRow e c) (bcCol c) 0)
/-- The column as DRAM holds it. -/
def colRead (s : State) (e stack pc bank c : Nat) : Nat := s.rawSector (colAddr e stack pc bank c / 32)
def colWrite (s : State) (e stack pc bank c x : Nat) : State :=
  { s with dram := Memory.write s.dram (colAddr e stack pc bank c) 32 x, seals := adel (colAddr e stack pc bank c / 32) s.seals }

/-- A command delivered to a bank's queue (R404). -/
def deliverCmd (s : State) (k : Nat × Nat × Nat) (c : Nat) : State :=
  let u := s.bank k
  s.setBank k { u with queue := u.queue ++ [c] }
/-- A bank's oldest command has executed. -/
def popCmd (s : State) (k : Nat × Nat × Nat) : State :=
  let u := s.bank k
  s.setBank k { u with queue := u.queue.tail }
/-- The block's next command stands in its banks' queues. -/
def Op.deliveredCmd (o : Op) : Bool := o.work.count == o.work.next + 1
/-- The block with its next command delivered: the port delivers a block's commands one at a time, so no queue holds more than
its 16 (R404; assumption 98, DESIGN CHOICE). -/
def deliverNext (s : State) (o : Op) (stack pc c : Nat) (banks : List Nat) : State :=
  if o.deliveredCmd then s
  else (banks.foldl (fun s k => deliverCmd s (stack, pc, k) c) s).setOp { o with work := { o.work with count := o.work.next + 1 } }

/-- A column command: it waits in the queue of each bank that it names until the bank's row is open, and acts there; a page
that faults ends the block (R419). -/
def runColumn (name : String) (op code : Nat) (s : State)
    (act : State → (e stack pc bank c : Nat) → State) : Host.Outcome State Fault Refusal :=
  match nextBankCmd s op code with
  | none => .refused (.notEnabled name)
  | some (o, b, c) =>
    let (ctx, stack, pc) := o.bankAt
    match bufOf s ctx (eaIdx (bkBuf b)) with
    | none => .next (retire (elemFail (leavePort s o) o Cause.bankElem (bkBuf b) (Cause.pageInvalid * 256 + 1)) op)
    | some e =>
      let s := deliverNext s o stack pc c (bcBanks e c)
      let waits := fun (s : State) (k : Nat) => !(s.bank (stack, pc, k)).queue.isEmpty
      let banks := (bcBanks e c).filter (waits s)
      match banks.findSome? (bankPageBad s ctx b c) with
      | some (cause, ea) => .next (retire (elemFail (leavePort s o) o Cause.bankElem ea (cause * 256 + if cause == Cause.memUncorr then 2 else 1)) op)
      | none =>
        let t := banks.foldl (fun s k => activate s stack pc k (bankRow e c)) s
        let ready := banks.filter fun k => (t.bank (stack, pc, k)).row == some (bankRow e c)
        let t := ready.foldl (fun s k => popCmd (act s e stack pc k c) (stack, pc, k)) t
        .next (if banks.any (waits t) then t else t.setOp o.stepBank)

/-- A bank's operand register set. -/
def setBv (s : State) (k : Nat × Nat × Nat) (opr v : Nat) : State :=
  let u := s.bank k
  s.setBank k (if opr == 0 then { u with bv0 := v } else { u with bv1 := v })
def getBv (u : BankUnit) (opr : Nat) : Nat := if opr == 0 then u.bv0 else u.bv1
/-- Lane i in a command's FMT. -/
def laneVal (fmt v i : Nat) : Val := (if fmt == 0 then Fmt.f16 else .bf16).decode (fld v (16 * i) 16)
def baOf (u : BankUnit) (i : Nat) : Nat := (u.ba.getD i 0#32).toNat
def setBa (s : State) (k : Nat × Nat × Nat) (i x : Nat) : State :=
  let u := s.bank k
  s.setBank k { u with ba := u.ba.set i (BitVec.ofNat 32 x) }

/-- BK.BCAST (R412): one bank's column to an operand register of every bank of the buffer in the pseudo-channel. -/
def execBkBcast (op : Nat) (s : State) : Host.Outcome State Fault Refusal :=
  runColumn "BK_BCAST" op 1 s fun s e stack pc bank c =>
    let v := colRead s e stack pc bank c
    (upTo (2 ^ bufBkLog e)).foldl (fun s k => setBv s (stack, pc, k) (bcOpr c) v) s
/-- BK.LDV (R412). -/
def execBkLdv (op : Nat) (s : State) : Host.Outcome State Fault Refusal :=
  runColumn "BK_LDV" op 2 s fun s e stack pc bank c => setBv s (stack, pc, bank) (bcOpr c) (colRead s e stack pc bank c)
/-- BK.MAC (R412): the exact sum of sixteen products and the accumulator, rounded once. -/
def execBkMac (op : Nat) (s : State) : Host.Outcome State Fault Refusal :=
  runColumn "BK_MAC" op 3 s fun s e stack pc bank c =>
    let u := s.bank (stack, pc, bank)
    let col := colRead s e stack pc bank c
    let ps := (upTo 16).map fun i => mulVals (laneVal (bcFmt c) col i) (laneVal (bcFmt c) (getBv u (bcOpr c)) i)
    setBa s (stack, pc, bank) (bcAcc c) (floatChunk .f32 (baOf u (bcAcc c)) ps)
/-- BK.EADD (R412). -/
def execBkEadd (op : Nat) (s : State) : Host.Outcome State Fault Refusal :=
  runColumn "BK_EADD" op 4 s fun s e stack pc bank c =>
    let u := s.bank (stack, pc, bank)
    let col := colRead s e stack pc bank c
    (upTo 16).foldl (fun s i =>
      setBa s (stack, pc, bank) (bcAcc c + i) (floatChunk .f32 (baOf u (bcAcc c + i)) [laneVal (bcFmt c) col i])) s
/-- BK.STA (R412): eight accumulators to a column, which DRAM alone holds (08 R207). -/
def execBkSta (op : Nat) (s : State) : Host.Outcome State Fault Refusal :=
  runColumn "BK_STA" op 5 s fun s e stack pc bank c =>
    let u := s.bank (stack, pc, bank)
    colWrite s e stack pc bank c (packBits 32 ((upTo 8).map fun i => baOf u (bcAcc c + i)))

/-- A bank's selected registers cleared. -/
def clearUnit (u : BankUnit) (c : Nat) : BankUnit :=
  { u with ba := mapI (fun i w => if bitOf (bcAclr c) i then 0#32 else w) 0 u.ba
           bv0 := if bitOf (bcBvclr c) 0 then 0 else u.bv0
           bv1 := if bitOf (bcBvclr c) 1 then 0 else u.bv1 }

/-- BK.CLR (R412). -/
def execBkClr (op : Nat) (s : State) : Host.Outcome State Fault Refusal :=
  match nextBankCmd s op 6 with
  | none => .refused (.notEnabled "BK_CLR")
  | some (o, b, c) =>
    let (ctx, stack, pc) := o.bankAt
    let banks := match bufOf s ctx (eaIdx (bkBuf b)) with | some e => bcBanks e c | none => [bcBank c]
    .next ((banks.foldl (fun s k => s.setBank (stack, pc, k) (clearUnit (s.bank (stack, pc, k)) c)) s).setOp o.stepBank)
/-- BK.SYNC (R412): ordering only. -/
def execBkSync (op : Nat) (s : State) : Host.Outcome State Fault Refusal :=
  match nextBankCmd s op 7 with
  | none => .refused (.notEnabled "BK_SYNC")
  | some (o, _, _) => .next (s.setOp o.stepBank)

/-- BANK_BLOCK_DONE (R416): the last command has executed; all-bank mode ends, and held accesses proceed. -/
def execBankBlockDone (op : Nat) (s : State) : Host.Outcome State Fault Refusal :=
  match s.op? op with
  | none => .refused (.notEnabled "BANK_BLOCK_DONE")
  | some o =>
    match o.kind with
    | .bank b _ =>
      whenEnabled "BANK_BLOCK_DONE" (o.phase == .running && bkN b ≤ o.work.next && !s.out (.port o.portKey.1))
        (completeOp (leavePort s o) op)
    | _ => .refused (.notEnabled "BANK_BLOCK_DONE")

end Sys2Proof.Machine
end

