-- ==== Sys2Proof/Machine/Collective.lean ====
section
/-! DEFINITION. The collective engine: COLL, halo exchange, all-reduce and their events (28_fabric.md R481 to R488). -/

namespace Sys2Proof.Machine

/-! ## The descriptor, the group and the segments (R482, R483) -/

def coKind (d : Nat) : Nat := fld d 28 4
def coOp (d : Nat) : Nat := fld d 24 4
def coTy (d : Nat) : Nat := fld d 20 3
def coInst (d : Nat) : Nat := fld d (32 + 10) 4
def coRank (d : Nat) : Nat := fld d 32 10
def coGroup (d : Nat) : Nat := fld d 64 64
def coTag (d : Nat) : Nat := fld d 128 32
def coCount (d : Nat) : Nat := fld d 160 25
def coSrc (d : Nat) : Nat := fld d 192 64
def coDst (d : Nat) : Nat := fld d 256 64
def coSig (d : Nat) : Nat := fld d 320 64
def coSctl (d : Nat) : Nat := fld d 384 16
def coRing (d : Nat) : Nat := fld (coSctl d) 6 2
def coTb (d : Nat) : Bool := bitOf (coSctl d) 1
def coTmo (d : Nat) : Nat := fld d 400 16

def grGid (g : Nat) : Nat := fld g 0 32
def grNp (g : Nat) : Nat := fld g 32 11
/-- Package and instance of rank r. -/
def grRank (g r : Nat) : Nat × Nat := (fld g (64 + 32 * r) 10, fld g (64 + 32 * r + 10) 4)

/-- A halo segment. -/
structure HaloSeg where
  src : Nat
  dst : Nat
  len : Nat
  peer : Nat
  slot : Nat
  deriving DecidableEq, Repr

/-- Segment i of a table: bytes 24 to 31 mean nothing (assumption 109, DESIGN CHOICE). -/
def segOfTable (t i : Nat) : HaloSeg :=
  let r := fld t (256 * i) 256
  { src := fld r 0 64, dst := fld r 64 64, len := fld r 128 32, peer := fld r 160 16, slot := fld r 176 16 }
def segsOf (d t : Nat) : List HaloSeg := if coKind d == 0 then (upTo (coCount d)).map (segOfTable t) else []

/-- Bytes of an all-reduce element, and of its input. -/
def coElem (d : Nat) : Nat := if ty64 (coTy d) then 8 else 4
def coBytes (d : Nat) : Nat := coCount d * coElem d

/-! ## Issue checks (R487) -/

def collRsvd (d : Nat) : Bool :=
  bitOf d 23 || fld d 0 20 != 0 || fld d (32 + 14) 18 != 0 || fld d (160 + 25) 7 != 0 || bitOf (coSctl d) 0 ||
  fld (coSctl d) 8 8 != 0 || fld d (8 * 52) 96 != 0 || 1 < coKind d || (coKind d == 1 && (2 < coOp d || 5 < coTy d))

/-- A group record is malformed, or this rank's place in it is wrong. -/
def groupBad (s : State) (l : Launch) (d g : Nat) : Bool :=
  let np := grNp g
  let es := (upTo np).map (grRank g)
  fld g (32 + 11) 21 != 0 || (upTo np).any (fun r => fld g (64 + 32 * r + 14) 18 != 0) || es.eraseDups.length != np ||
  np ≤ coRank d || grRank g (coRank d) != (s.pkg, coInst d) || fld (grGid g) 16 16 != l.ctx

/-- COUNT, a length, a peer, or the overlap of SRC and DST (order 4). -/
def collShapeBad (d g t : Nat) : Bool :=
  if coKind d == 1 then
    coCount d == 0 || 2 ^ 24 < coCount d || (coSrc d != coDst d && overlap (coSrc d) (coBytes d) (coDst d) (coBytes d))
  else (segsOf d t).any fun x => x.len % 8 != 0 || x.len < 8 || 2 ^ 24 < x.len || grNp g ≤ x.peer

/-- The ranges that a command reads and writes: address, length, write. -/
def collRanges (d t : Nat) : List (Nat × Nat × Bool) :=
  if coKind d == 1 then [(coSrc d, coBytes d, false), (coDst d, coBytes d, true)]
  else (segsOf d t).flatMap fun x =>
    (if x.src == 0 then [] else [(x.src, x.len, false)]) ++ if x.dst == 0 then [] else [(x.dst, x.len, true)]

/-- SIG, SCOPE or RING is not accepted (order 5). -/
def collSigBad (l : Launch) (d : Nat) : Bool :=
  !sigKindOk (coTb d) (coSig d) || !sigScopeOk (coTb d) (fld (coSctl d) 2 4) || (coRing d != 0 && l.rings.getD (coRing d) 0 == 0)

/-- Orders 4 to 6 on the captured records (assumption 71, DEDUCED). -/
def collCheck (s : State) (l : Launch) (d g t : Nat) : Option Trap :=
  let align := if coKind d == 1 then coElem d else 8
  if collShapeBad d g t then some { cause := Cause.collBad, tinfo := 4 }
  else if collSigBad l d then some { cause := Cause.collBad, tinfo := 5 }
  else (collRanges d t).findSome? fun (ea, n, w) =>
    (checkEa s l { size := n, align := align, r := !w, w := w } ea).map fun c =>
      { cause := c, taddr := ea, tinfo := memInfo n w false false }

/-- The group record: unreadable is an order of its own, but one in the accumulator window traps WIN_KIND (07 R494). -/
def Cx.groupRecord (cx : Cx) (s : State) (tid : Nat) (t : Thread) (d : Nat) : State × RecRes :=
  let bad : RecRes := .trap { cause := Cause.collBad, tinfo := 3 }
  match cx.record s tid t (coGroup d) 8 1 with
  | (s, .trap tr) => (s, if tr.cause == Cause.winKind then .trap tr else bad)
  | (s, .wait t) => (s, .wait t)
  | (s, .ok h) =>
    if grNp h == 0 || 1024 < grNp h then (s, bad)
    else match cx.record s tid t (coGroup d) (8 + 4 * grNp h) 1 with
      | (s, .trap _) => (s, bad)
      | r => r

/-! ## Matching (R482, R486) -/

/-- A command: its operation with the captured records. -/
structure CollCmd where
  op : Op
  desc : Nat
  group : Nat
  segs : List HaloSeg
  start : Nat
  deriving DecidableEq, Repr

def Op.coll? (o : Op) : Option CollCmd :=
  match o.kind with
  | .coll d g t start => some { op := o, desc := d, group := g, segs := segsOf d t, start := start }
  | _ => none

def CollCmd.rank (c : CollCmd) : Nat := coRank c.desc
/-- Two commands belong to one operation. -/
def CollCmd.meets (c k : CollCmd) : Bool := grGid c.group == grGid k.group && coTag c.desc == coTag k.desc
/-- A command that is neither complete nor failed. -/
def CollCmd.live (c : CollCmd) : Bool := !c.op.phase.settled && !c.op.phase.isFailing

/-- The outstanding commands of an operation on this package, in issue order. -/
def collLive (s : State) (c : CollCmd) : List CollCmd := (s.ops.filterMap Op.coll?).filter fun k => k.live && k.meets c
/-- The outstanding command of a rank: its first. -/
def collOf (s : State) (c : CollCmd) (r : Nat) : Option CollCmd := (collLive s c).find? fun k => k.rank == r
/-- An earlier command of the same rank is outstanding (R486: a duplicate tag). -/
def collDup (s : State) (c : CollCmd) : Bool := (collOf s c c.rank).any fun k => k.op.id != c.op.id

/-! ## Messages to other packages (R486; assumption 18, DESIGN CHOICE) -/

/-- A message of a command: what it is (0 a rank has issued, 1 its all-reduce input, 2 a segment's bytes, 3 a segment has landed, 4 the
command is lost), GID, TAG, rank, slot and contents. -/
def CollCmd.word (c : CollCmd) (sub slot x : Nat) : Nat :=
  sub % 2 ^ 8 + 2 ^ 8 * grGid c.group + 2 ^ 40 * coTag c.desc + 2 ^ 72 * (c.rank % 2 ^ 16) + 2 ^ 88 * (slot % 2 ^ 16) + 2 ^ 104 * x
/-- KIND, OP, TY, COUNT and the segments of a command, as CollPeer has them. -/
def CollCmd.shapeWord (c : CollCmd) : Nat :=
  coKind c.desc + 2 ^ 4 * coOp c.desc + 2 ^ 8 * coTy c.desc + 2 ^ 12 * coCount c.desc +
  2 ^ 40 * c.segs.foldr (fun x r => x.peer % 2 ^ 16 + 2 ^ 16 * (x.slot % 2 ^ 16) + 2 ^ 32 * (x.len % 2 ^ 32) +
    2 ^ 64 * ((if x.src == 0 then 0 else 1) + if x.dst == 0 then 0 else 2) + 2 ^ 72 * r) 0
/-- The other packages of a command's group. -/
def CollCmd.others (s : State) (c : CollCmd) : List Nat :=
  (((upTo (grNp c.group)).map fun r => (grRank c.group r).1).filter (· != s.pkg)).eraseDups
/-- A message to every other package of the group. -/
def tellRanks (s : State) (c : CollCmd) (sub x : Nat) : State := (c.others s).foldl (fun s p => s.send 11 p (c.word sub 0 x)) s
/-- A rank stands on another package. -/
def CollCmd.remote (s : State) (c : CollCmd) (r : Nat) : Bool := (grRank c.group r).1 != s.pkg
/-- What keeps a command from the other ranks: its die's link to the datum die is down while some rank is not on the die, or no port
carries traffic to the other packages (25 R444). -/
def collPath (s : State) (c : CollCmd) : Option Nat :=
  let die := dieOf (coreOf c.op.slot)
  if linkDown s die && (!(c.others s).isEmpty || (collLive s c).any fun k => dieOf (coreOf k.op.slot) != die) then some Cause.hwLink
  else if !(c.others s).isEmpty && peerDown s then some Cause.peerFail
  else none
/-- The messages of a command are under way to it (27 R462). -/
def collHeard (s : State) (c : CollCmd) : Bool := (collPath s c).isNone && ((c.others s).isEmpty || !peerHeld s)

/-! ## Issue (R481, R486, R487) -/

/-- The segment table of a halo exchange: where SRC fails the checks of R159, order 5 comes before that (R487). -/
def Cx.segTable (cx : Cx) (s : State) (tid : Nat) (t : Thread) (d : Nat) : State × RecRes :=
  if coKind d != 0 then (s, .ok 0)
  else if (checkEa s cx.launch { size := 32 * coCount d, align := 1, r := true, acc := false } (coSrc d)).isSome && collSigBad cx.launch d then
    (s, .trap { cause := Cause.collBad, tinfo := 5 })
  else cx.record s tid t (coSrc d) (32 * coCount d) 1

/-- The new commands from a number on: a second one of a rank with an equal (GID, TAG) faults with reason 6 (R486), another tells the
packages of the other ranks what it brings (assumption 18, DESIGN CHOICE). -/
def startColls (s : State) (first : Nat) : State :=
  ((s.ops.filter fun o => first ≤ o.id).filterMap Op.coll?).foldl (fun s c =>
    if collDup s c then s.setOp { c.op with phase := .failing 0 0 6 }
    else tellRanks s c 0 c.shapeWord) s

/-- One thread's COLL checked (R487). -/
def collIssue (cx : Cx) (s : State) (tid : Nat) (t : Thread) (o : Opnds) : State × EngRes :=
  let l := cx.launch
  match cx.record s tid t (cx.ea o.a 64) 64 64 with
  | (s, .trap tr) => (s, .trap tr)
  | (s, .wait t) => (s, .wait t)
  | (s, .ok desc) =>
    if collRsvd desc then (s, .trap { cause := Cause.collBad, tinfo := 1 })
    else match cx.groupRecord s tid t desc with
      | (s, .trap tr) => (s, .trap tr)
      | (s, .wait t) => (s, .wait t)
      | (s, .ok g) =>
        if groupBad s l desc g then (s, .trap { cause := Cause.collBad, tinfo := 3 })
        else if coKind desc == 0 && (coCount desc == 0 || 64 < coCount desc) then
          (s, .trap { cause := Cause.collBad, tinfo := 4 })
        else
          match cx.segTable s tid t desc with
          | (s, .trap tr) => (s, .trap tr)
          | (s, .wait t) => (s, .wait t)
          | (s, .ok segs) =>
            match collCheck s l desc g segs with
            | some tr => (s, .trap tr)
            | none => (s, .go (.coll desc g segs s.ref))

/-- COLL (R481, R487). -/
def execColl (d a b : BitVec 8) (s : State) : Host.Outcome State Fault Refusal :=
  runWord s (.coll d a b) fun cx s => startColls (cx.engineEach s .cp fun cx s tid _ t o => collIssue cx s tid t o) s.seq

/-! ## Matching to moving -/

/-- Every rank has issued: those of this package here, the others by what their packages say. -/
def collAll (s : State) (c : CollCmd) (peers : List CollPeer) : Bool :=
  (upTo (grNp c.group)).all fun r =>
    if (grRank c.group r).1 == s.pkg then
      (collOf s c r).any fun k => k.op.phase == .issued && k.op.ready s
    else peers.any fun p => p.rank == r

/-- The commands of this package's ranks, ascending. -/
def collHere (s : State) (c : CollCmd) : List CollCmd :=
  (upTo (grNp c.group)).filterMap fun r => if (grRank c.group r).1 == s.pkg then collOf s c r else none

/-- How another side pairs with a segment of rank a: its length, and whether data passes there at all; none where there is
no such segment. -/
def pairOf (here : List CollCmd) (peers : List CollPeer) (a : Nat) (x : HaloSeg) (other : HaloSeg → Bool) : Option (Nat × Bool) :=
  match here.find? fun k => k.rank == x.peer with
  | some k => (k.segs.find? fun y => y.peer == a && y.slot == x.slot).map fun y => (y.len, other y)
  | none =>
    match peers.find? fun p => p.rank == x.peer with
    | some p => (p.segs.find? fun y => y.1 == a && y.2.1 == x.slot).map fun y =>
        (y.2.2.1, other { src := y.2.2.2 % 2, dst := y.2.2.2 / 2, len := y.2.2.1, peer := y.1, slot := y.2.1 })
    | none => none

/-- Two ranks on other packages pair segments of different lengths. -/
def peersMismatch (peers : List CollPeer) : Bool :=
  peers.any fun p => p.segs.any fun x => peers.any fun q =>
    q.rank == x.1 && q.segs.any fun y => y.1 == p.rank && y.2.1 == x.2.1 && y.2.2.1 != x.2.2.1

/-- KIND, OP, TY, COUNT or a paired length differs among ranks (R486). -/
def collMismatch (here : List CollCmd) (peers : List CollPeer) : Bool :=
  let shape := fun (c : CollCmd) => (coKind c.desc, coOp c.desc, coTy c.desc, coCount c.desc)
  match here with
  | [] => false
  | c :: _ =>
    here.any (fun k => shape k != shape c) || peers.any (fun p => (p.kind, p.op, p.ty, p.count) != shape c) ||
    (here.any fun k => k.segs.any fun x => (pairOf here peers k.rank x fun _ => true).any fun y => y.1 != x.len) || peersMismatch peers

/-! ## Reading the inputs -/

/-- What a rank's reads give: data by segment, or the fault. -/
inductive CollRead where
  | ok (data : List Nat)
  | fault (cause ea : Nat)
  deriving DecidableEq, Repr

/-- The inputs of some commands, command by command; where a read is held, its command and address, and nothing where it
waits for a port. -/
def collReads : List CollCmd → State → Except (Option (Nat × Nat) × State) (List CollRead × State)
  | [], s => .ok ([], s)
  | c :: cs, s =>
    let one : List (Nat × Nat) := if coKind c.desc == 1 then [(coSrc c.desc, coBytes c.desc)] else c.segs.map fun x => (x.src, x.len)
    let r := one.foldl (fun (acc : Except (Option (Nat × Nat) × State) (CollRead × State)) x =>
      match acc with
      | .ok (.ok ds, s) =>
        if x.1 == 0 then .ok (.ok (ds ++ [0]), s)
        else match s.launch? c.op.lid with
          | none => .ok (.fault Cause.bufInvalid x.1, s)
          | some l =>
            match engRead s l (opAg s c.op) x.1 x.2 with
            | .ok v s => .ok (.ok (ds ++ [v]), s)
            | .fault e ea s => .ok (.fault e ea, s)
            | .hold ea s => .error (some (c.op.id, ea), s)
            | .busy s => .error (none, s)
      | r => r) (.ok (.ok [], s))
    match r with
    | .error e => .error e
    | .ok (x, s) =>
      match collReads cs s with
      | .ok (xs, s) => .ok (x :: xs, s)
      | .error e => .error e

/-! ## All-reduce (R484) -/

/-- Values combined two at a time in the order that a free value gives. -/
def combineFree (key : Nat → Nat) (f : Nat → Nat → Nat) : Nat → List Nat → Nat
  | 0, xs => xs.headD 0
  | n + 1, xs =>
    match xs with
    | [] => 0
    | [x] => x
    | _ =>
      let i := key (2 * n) % xs.length
      let ys := xs.eraseIdx i
      let j := key (2 * n + 1) % ys.length
      combineFree key f n (f (xs.getD i 0) (ys.getD j 0) :: ys.eraseIdx j)

/-- out[i] of R484 over the ranks' values, in rank order for a deterministic launch. -/
def reduceElem (det : Bool) (code number i : Nat) (xs : List Nat) : Nat :=
  let f := fun x y => atomNew code x y 0
  match xs with
  | [] => 0
  | x :: rest => if det then rest.foldl f x else combineFree (Config.collKey number i) f xs.length xs

/-- The output of an all-reduce from the ranks' inputs. -/
def reduceAll (det : Bool) (d number : Nat) (ins : List Nat) : Nat :=
  let bits := 8 * coElem d
  (upTo (coCount d)).foldr (fun i r => reduceElem det (coTy d * 16 + coOp d) number i (ins.map fun x => fld x (bits * i) bits) + 2 ^ bits * r) 0

/-! ## MATCHING to MOVING -/

/-- A rank's read data, if it was read. -/
def readOf (here : List (CollCmd × CollRead)) (r : Nat) : Option (List Nat) :=
  (here.find? fun k => k.1.rank == r).bind fun k => match k.2 with | .ok ds => some ds | .fault .. => none

/-- The receives of a halo command: the packet's target is the segment; one that cannot arrive carries a mark, and one that
comes from another package waits for its bytes. -/
def haloPackets (here : List (CollCmd × CollRead)) (peers : List CollPeer) (c : CollCmd) : List Packet :=
  let cmds := here.map (·.1)
  (mapI (fun i x => (i, x)) 0 c.segs).filterMap fun (i, x) =>
    if x.dst == 0 then none
    else
      let pk := fun data mark => some ({ tgt := i, core := none, parts := [(x.dst, x.len, data)], gen := mark, fate := 0 } : Packet)
      match cmds.find? fun k => k.rank == x.peer with
      | some k =>
        match k.segs.findIdx? fun y => y.peer == c.rank && y.slot == x.slot with
        | none => pk 0 (some (x.peer, 1))
        | some j =>
          if (k.segs.getD j x).src == 0 then none
          else match readOf here x.peer with
            | some ds => pk (ds.getD j 0) none
            | none => pk 0 (some (x.peer, 1))
      | none =>
        match pairOf cmds peers c.rank x fun y => y.src != 0 with
        | some (_, true) => pk 0 (some (x.peer, 0))
        | some (_, false) => none
        | none => pk 0 (some (x.peer, 1))

/-- The acknowledgements that a halo command waits for on this package, or that can never come. -/
def haloAcks (here : List (CollCmd × CollRead)) (peers : List CollPeer) (c : CollCmd) : Nat :=
  let cmds := here.map (·.1)
  (c.segs.filter fun x =>
    x.src != 0 &&
    match cmds.find? fun k => k.rank == x.peer with
    | some _ => (match pairOf cmds peers c.rank x fun y => y.dst != 0 with | some (_, b) => b | none => true)
    | none => (pairOf cmds peers c.rank x fun _ => true).isNone).length

/-- The segments that a halo command sends to ranks on other packages that receive them. -/
def remoteSends (s : State) (here : List (CollCmd × CollRead)) (peers : List CollPeer) (c : CollCmd) : List Nat :=
  (upTo c.segs.length).filter fun i =>
    let x := c.segs.getD i { src := 0, dst := 0, len := 0, peer := 0, slot := 0 }
    x.src != 0 && c.remote s x.peer && (pairOf (here.map (·.1)) peers c.rank x fun y => y.dst != 0).any (·.2)

/-- A matched command moves: its receives and output stand in its work. -/
def collMove (s : State) (here : List (CollCmd × CollRead)) (peers : List CollPeer) (out : Option Nat) (k : CollCmd × CollRead) :
    State :=
  let c := k.1
  match k.2 with
  | .fault e ea => s.setOp { c.op with phase := .failing e ea 1, work := c.op.work.clear }
  | .ok ds =>
    let w := c.op.work.clear
    let s :=
      if coKind c.desc == 1 then tellRanks s c 1 (ds.headD 0)
      else (mapI (fun i x => (i, x)) 0 c.segs).foldl (fun s (i, x) =>
        if x.src != 0 && c.remote s x.peer then s.send 11 (grRank c.group x.peer).1 (c.word 2 x.slot (ds.getD i 0)) else s) s
    let w :=
      if coKind c.desc == 1 then
        match out with
        | some x => { w with packets := toGlobal (rowUnits (coDst c.desc) (coBytes c.desc) x) }
        | none => { w with flag := true }
      else { w with packets := haloPackets here peers c, next := haloAcks here peers c, aux := remoteSends s here peers c }
    s.setOp { c.op with phase := .running, work := { w with begun := s.ref } }

/-- The inputs of every rank in rank order, if every one is there. -/
def allInputs (here : List (CollCmd × CollRead)) (peers : List CollPeer) (np : Nat) : Option (List Nat) :=
  (upTo np).foldr (fun r acc =>
    match acc with
    | none => none
    | some xs =>
      match readOf here r with
      | some ds => some (ds.headD 0 :: xs)
      | none => if here.any fun k => k.1.rank == r then none else (peers.find? fun p => p.rank == r).map fun p => p.data :: xs)
    (some [])

/-- COLL_MATCHED (R486): every rank has issued (GID, TAG); the inputs are read and data moves, or every rank of a mismatch
faults with reason 3. -/
def execCollMatched (op : Nat) (peers : List CollPeer) (s : State) : Host.Outcome State Fault Refusal :=
  match (s.op? op).bind Op.coll? with
  | none => .refused (.notEnabled "COLL_MATCHED")
  | some c =>
    let cmds := collHere s c
    let go := collAll s c peers && (cmds.any fun k => k.op.id == op) && cmds.all (collHeard s)
    if collMismatch cmds peers then
      whenEnabled "COLL_MATCHED" go
        (cmds.foldl (fun s k => s.setOp { k.op with phase := .failing 0 0 3, work := k.op.work.clear }) s)
    else
      match collReads cmds s with
      | .error (some (id, ea), t) => whenEnabled "COLL_MATCHED" go (noteHold (s.keepHold t) id ea 0)
      | .error (none, _) => .refused (.notEnabled "COLL_MATCHED")
      | .ok (rs, t) =>
        let here := cmds.zip rs
        let det := cmds.any fun k => (s.launch? k.op.lid).any (·.isDet)
        let number := cmds.foldl (fun n k => min n k.op.id) op
        let out := if coKind c.desc == 1 then (allInputs here peers (grNp c.group)).map (reduceAll det c.desc number) else none
        whenEnabled "COLL_MATCHED" go (here.foldl (fun t k => collMove t here peers out k) t)

/-! ## Moving (R483, R486) -/

/-- An acknowledgement of a landed segment goes to its sender: to another package by a message. -/
def ackSender (s : State) (c : CollCmd) (x : HaloSeg) : State :=
  if c.remote s x.peer then s.send 11 (grRank c.group x.peer).1 (c.word 3 x.slot 0)
  else match (s.ops.filterMap Op.coll?).find? fun k => k.meets c && k.rank == x.peer && k.op.phase == .running with
    | some k => s.setOp { k.op with work := { k.op.work with count := k.op.work.count + 1 } }
    | none => s

/-- HALO_RECEIVE (R483): a segment's bytes land; those of a rank of this package are the ones its command read. -/
def execHaloReceive (op segment data : Nat) (s : State) : Host.Outcome State Fault Refusal :=
  match (s.op? op).bind Op.coll? with
  | none => .refused (.notEnabled "HALO_RECEIVE")
  | some c =>
    let o := c.op
    match o.work.packets.findIdx? fun p => p.tgt == segment, s.launch? o.lid with
    | some i, some l =>
      match o.work.packets[i]? with
      | none => .refused (.notEnabled "HALO_RECEIVE")
      | some p =>
        let (dst, n, x) := p.parts.headD (0, 0, 0)
        let remote := p.gen.any fun g => g.2 == 0
        let seg := c.segs.getD segment { src := 0, dst := 0, len := 0, peer := 0, slot := 0 }
        let go := o.phase == .running && coKind c.desc == 0 && p.fate == 0 && (p.gen.isNone || remote) && collHeard s c
        let x := if remote then data % 2 ^ (8 * n) else x
        match engWrite s l (opAg s o) dst n x with
        | .ok _ t =>
          let t := t.setOp { o with work := o.work.fated i 1 p }
          whenEnabled "HALO_RECEIVE" go (ackSender t c seg)
        | .hold ea t => whenEnabled "HALO_RECEIVE" go (noteHold (s.keepHold t) op ea 0)
        | .busy _ => .refused (.notEnabled "HALO_RECEIVE")
        | .fault e ea t => whenEnabled "HALO_RECEIVE" go (t.setOp { o with phase := .failing e ea 1, work := o.work.clear })
    | _, _ => .refused (.notEnabled "HALO_RECEIVE")

/-- The collective engine of the operation's core waits for a ring with no room (11 R272). -/
def collStalled (s : State) (o : Op) : Bool :=
  engineStalled s o.id fun p =>
    match p.kind with
    | .coll d .. => if coreOf p.slot == coreOf o.slot then some (coRing d) else none
    | _ => none

/-- The segments that other packages acknowledge with this event. -/
def State.acks (s : State) : List Nat := match s.input with | .collAcks l => l | _ => []

/-- COLL_DONE (R486): all writes and acknowledgements are done, and the signal is updated as a release. -/
def execCollDone (op : Nat) (s : State) : Host.Outcome State Fault Refusal :=
  match (s.op? op).bind Op.coll? with
  | none => .refused (.notEnabled "COLL_DONE")
  | some c =>
    match s.launch? c.op.lid with
    | none => .refused (.notEnabled "COLL_DONE")
    | some l =>
      let o := c.op
      let halo := coKind c.desc == 0
      let go := o.phase == .running && !o.work.flag && o.work.next ≤ o.work.count &&
        (!halo || o.work.packets.all fun p => p.fate == 1) && o.work.aux.all s.acks.contains && !collStalled s o
      let w := o.work
      let g := opAg s o
      let (ps, n, got) := if halo then (o.work.packets, 0, .ok 0 s) else writeUnits l g o.work.packets s
      let o := { o with work := { o.work with packets := ps, moved := o.work.moved + n } }
      match (match got with | .ok _ t => signalOne t l g (coTb c.desc) (coSig c.desc) o.work.moved | r => r) with
      | .ok _ t =>
        let o := { o with work := o.work.clear }
        whenEnabled "COLL_DONE" go (toPost (t.setOp o) o (coRing c.desc) 0 0 0)
      | .hold ea t => whenEnabled "COLL_DONE" go (noteHold (t.setOp o) op ea 0)
      | .busy t => whenEnabled "COLL_DONE" (go && o.work != w) (t.setOp o)
      | .fault e ea t => whenEnabled "COLL_DONE" go (t.setOp { o with phase := .failing e ea 1, work := o.work.clear })

/-! ## Faults (R486, R488) -/

/-- A command settles with COLL_ELEM. -/
def collElem (s : State) (c : CollCmd) (cause addr reason : Nat) : State :=
  let f := engineCause Cause.collElem cause (cause * 256 + reason)
  let o := { c.op with work := { c.op.work.clear with fail := some (f.1, addr, f.2) } }
  toPost (s.setOp o) o (coRing c.desc) 1 f.1 addr

/-- COLL_TIMEOUT (R486). -/
def execCollTimeout (op : Nat) (s : State) : Host.Outcome State Fault Refusal :=
  match (s.op? op).bind Op.coll? with
  | none => .refused (.notEnabled "COLL_TIMEOUT")
  | some c =>
    whenEnabled "COLL_TIMEOUT"
      (coTmo c.desc != 0 && c.start + 1024 * coTmo c.desc ≤ s.ref && (c.op.phase == .issued || c.op.phase == .running) &&
        !collStalled s c.op)
      (collElem s c 0 0 4)

/-- A sent segment is still to land at a command of this package that moves. -/
def landsLater (s : State) (c : CollCmd) (x : HaloSeg) : Bool :=
  (collLive s c).any fun k =>
    k.rank == x.peer && k.op.work.packets.any fun p =>
      p.fate == 0 && (k.segs[p.tgt]?).any fun y => y.peer == c.rank && y.slot == x.slot

/-- A moving command waits for a rank of this package whose command is gone or has failed. -/
def partnerLost (s : State) (c : CollCmd) : Bool :=
  let gone := fun r => (grRank c.group r).1 == s.pkg && !(collLive s c).any fun k => k.rank == r
  c.op.work.flag || (c.op.work.packets.any fun p =>
    p.fate == 0 && coKind c.desc == 0 && gone (c.segs.getD p.tgt { src := 0, dst := 0, len := 0, peer := 0, slot := 0 }).peer) ||
  c.op.work.count + (c.segs.filter fun x => x.src != 0 && landsLater s c x).length < c.op.work.next

/-- A moving command has something to come from another package. -/
def remoteLeft (s : State) (c : CollCmd) : Bool :=
  !c.op.work.aux.isEmpty || c.op.work.packets.any fun p => p.fate == 0 && coKind c.desc == 0 && p.gen.any fun g => c.remote s g.1
/-- It has waited for that longer than the peer timeout (R472). -/
def peerLost (s : State) (c : CollCmd) : Bool := remoteLeft s c && pastLimit s c.op.work.begun s.peerTimeout

/-- The party of an operation escalates. -/
def escalating (s : State) (o : Op) : Bool := (s.party? o.slot).any fun p => p.esc.isSome

/-- A command is lost: its partners fault, whether they move or still match, and other packages are told (R486, 09 R222). -/
def loseColl (s : State) (c : CollCmd) : State :=
  (collLive s c).foldl (fun s k =>
    if k.op.id == c.op.id then s else s.setOp { k.op with work := { k.op.work with flag := true } }) (tellRanks s c 4 0)
/-- A command ends with reason 2, and with it its partners. -/
def dropColl (s : State) (c : CollCmd) (cause : Nat) : State := collElem (loseColl s c) c cause 0 2

/-- What stops a command that matches or moves: its party escalates, no path reaches the other ranks, or a partner is lost. -/
def collStop (s : State) (c : CollCmd) : Option Nat :=
  let told := match s.input with | .collLost r => c.remote s r && r < grNp c.group | _ => false
  if escalating s c.op then some Cause.peerFail
  else match collPath s c with
    | some e =>
      if c.op.phase == .issued || remoteLeft s c || (coKind c.desc == 0 && c.op.work.packets.any fun p => p.fate == 0) then some e else none
    | none => if c.op.work.flag || told then some Cause.peerFail else none

/-- COLL_FAULT (R486): a local memory fault, a mismatch, a second command of the rank, or an unreachable partner. -/
def execCollFault (op : Nat) (s : State) : Host.Outcome State Fault Refusal :=
  match (s.op? op).bind Op.coll? with
  | none => .refused (.notEnabled "COLL_FAULT")
  | some c =>
    let go := !collStalled s c.op
    match c.op.phase with
    | .failing e ea r => whenEnabled "COLL_FAULT" go (collElem s c e ea r)
    | .issued | .running =>
      match collStop s c with
      | some e => whenEnabled "COLL_FAULT" go (dropColl s c e)
      | none => whenEnabled "COLL_FAULT" (go && c.op.phase == .running && (partnerLost s c || peerLost s c)) (collElem s c Cause.peerFail 0 2)
    | _ => .refused (.notEnabled "COLL_FAULT")

end Sys2Proof.Machine
end

