-- ==== Sys2Proof/Machine/Geometry.lean ====
section
/-! DEFINITION. The geometry engines: CUTSEL, RAST and RAYQ, the cluster graph, the cut, raster and rays, and their events
(17_geometry.md). -/

namespace Sys2Proof.Machine

/-! ## binary32 steps (R352, R353, R365): nearest even, subnormals kept -/

def g32 (x : Nat) : Val := Fmt.f32.decode x
def gAdd (x y : Nat) : Nat := (addVals .f32 .nonsat 1 0 false (g32 x) (g32 y)).1
def gSub (x y : Nat) : Nat := (addVals .f32 .nonsat 1 0 false (g32 x) (g32 y).negate).1
def gMul (x y : Nat) : Nat := (roundVal .f32 .nonsat 1 0 false (mulVals (g32 x) (g32 y))).1
def gFma (x y z : Nat) : Nat := (fmaVals .f32 .nonsat 1 0 false (g32 x) (g32 y) (g32 z)).1
def gDiv (x y : Nat) : Nat := (divVals .f32 1 0 false (g32 x) (g32 y)).1
def gSqrt (x : Nat) : Nat := (sqrtVal .f32 1 0 false (g32 x)).1
def gMax (x y : Nat) : Nat := (minMax .f32 true x y).1
def gAbs (x : Nat) : Nat := x % 2 ^ 31
def gNeg (x : Nat) : Nat := if bitOf x 31 then x - 2 ^ 31 else x + 2 ^ 31
def gInf : Nat := Fmt.f32.infMag
/-- An integer as binary32. -/
def gInt (x : Int) : Nat := (roundVal .f32 .nonsat 1 0 false (intVal x)).1
/-- Finite; finite and at least 0; finite and above 0. -/
def gFin (x : Nat) : Bool := match g32 x with | .fin .. => true | .inf _ | .nan _ => false
def gGe0 (x : Nat) : Bool := match g32 x with | .fin n m _ => !n || m == 0 | .inf _ | .nan _ => false
def gGt0 (x : Nat) : Bool := match g32 x with | .fin n m _ => !n && m != 0 | .inf _ | .nan _ => false
/-- Word i of a record. -/
def rw (r i : Nat) : Nat := fld r (32 * i) 32

/-! ## Descriptors (R362, R364, R367) -/

def opCutsel : Nat := 0x72
def opRast : Nat := 0x73
def opRayq : Nat := 0x74

/-- VER of a descriptor. -/
def geVer (opc d : Nat) : Nat := if opc == opCutsel then fld d (8 * 44) 32 else if opc == opRast then fld d (8 * 92) 32 else fld d (8 * 56) 32
/-- The version that reads of the graph and its clusters name, none for ordinary reads (R361). -/
def geVersion (opc d : Nat) : Option Nat := if bitOf (geVer opc d) 31 then some (fld (geVer opc d) 0 24) else none
def geCutq (opc d : Nat) : Nat := if opc == opCutsel then fld d 64 64 else if opc == opRast then fld d (8 * 64) 64 else fld d (8 * 32) 64
def geFirst (opc d : Nat) : Nat := if opc == opRast then fld d (8 * 72) 25 else fld d (8 * 40) 25
def geNent (opc d : Nat) : Nat := if opc == opRast then fld d (8 * 76) 25 else fld d (8 * 44) 25
def geCull (opc d : Nat) : Nat := if opc == opRast then fld d (8 * 84) 2 else fld d (8 * 60) 2
def geSig (opc d : Nat) : Nat := if opc == opCutsel then fld d (8 * 48) 64 else if opc == opRast then fld d (8 * 104) 64 else 0
def geSctl (opc d : Nat) : Nat := if opc == opCutsel then fld d (8 * 40) 16 else if opc == opRast then fld d (8 * 112) 16 else 0
def geRing (opc d : Nat) : Nat := fld (geSctl opc d) 6 2
def geTb (opc d : Nat) : Bool := bitOf (geSctl opc d) 1
def geGraph (d : Nat) : Nat := fld d 0 64
def geSring (d : Nat) : Nat := fld d (8 * 42) 2
def geHandle (d : Nat) : Nat := fld d (8 * 80) 32
def geTbase (d : Nat) : Nat := fld d (8 * 96) 64
def geHit (d : Nat) : Nat := fld d (8 * 48) 64

/-! ## Issue checks (R371) -/

/-- Reserved fields, CULL 3, VER (order 2). -/
def geRsvd (opc d : Nat) : Bool :=
  let v := geVer opc d
  fld v 24 7 != 0 || (!bitOf v 31 && fld v 0 24 != 0) || bitOf (geSctl opc d) 0 || fld (geSctl opc d) 8 8 != 0 ||
  if opc == opCutsel then fld d (8 * 42 + 2) 14 != 0 || fld d (8 * 56) 64 != 0
  else
    geCull opc d == 3 ||
    if opc == opRast then
      fld d (8 * 72 + 25) 7 != 0 || fld d (8 * 76 + 25) 7 != 0 || fld d (8 * 80 + 12) 20 != 0 || fld d (8 * 84 + 2) 30 != 0 ||
        fld d (8 * 114) 112 != 0
    else fld d (8 * 40 + 25) 7 != 0 || fld d (8 * 44 + 25) 7 != 0 || fld d (8 * 60 + 2) 30 != 0

/-- A binary32 field is outside its range (order 3). -/
def geRange (opc d : Nat) : Bool :=
  if opc == opCutsel then !(gFin (rw d 4) && gFin (rw d 5) && gFin (rw d 6) && gGt0 (rw d 7) && gGt0 (rw d 8) && gGe0 (rw d 9))
  else if opc == opRast then !((upTo 16).all (fun k => gFin (rw d k)) && gGt0 (rw d 22))
  else
    !((upTo 6).all (fun k => gFin (rw d k)) && [3, 4, 5].any (fun k => gAbs (rw d k) != 0) && gGe0 (rw d 6) &&
      (rw d 7 == gInf || (gGe0 (rw d 7) && gAbs (rw d 6) ≤ gAbs (rw d 7))))

/-- A layout record describes a render target (R359). -/
def targetForm (r : Nat) : Bool :=
  !bitOf r 15 && fld r 0 8 == 0x0C && layNdim r == 3 && layExt r 0 == 2 && layExt r 1 ≤ 16384 && layExt r 2 ≤ 16384 &&
  layStr r 1 == 8 && layStr r 2 % 8 == 0 && 8 * (layExt r 1 : Int) ≤ layStr r 2 && layPad r == 0

/-- An address that names no buffer. -/
def notBuf (ea : Nat) : Bool := isWin ea || eaIdx ea == 0

/-- Orders 2 to 7: the reason of the _BAD cause. -/
def geBad (l : Launch) (opc d : Nat) : Option Nat :=
  let q := geCutq opc d
  let ring := fun k => k != 0 && l.rings.getD k 0 == 0
  if geRsvd opc d then some 1
  else if geRange opc d then some 2
  else if opc == opRast && !(l.layout (geHandle d)).any targetForm then some 3
  else if notBuf q || q % 64 != 0 || (opc == opCutsel && (notBuf (geGraph d) || geGraph d % 64 != 0)) ||
      (opc == opRast && (notBuf (geTbase d) || geTbase d % 8 != 0)) ||
      (opc == opRayq && (geHit d % 32 != 0 || isAcc (geHit d))) then some 4
  else if !sigKindOk (geTb opc d) (geSig opc d) || !sigScopeOk (geTb opc d) (fld (geSctl opc d) 2 4) || ring (geRing opc d) ||
      (opc == opCutsel && ring (geSring d)) then some 5
  else if opc != opCutsel && 2 ^ 25 < geFirst opc d + geNent opc d then some 6
  else none

/-- Order 8. -/
def geRanges (s : State) (l : Launch) (opc d : Nat) : Option Trap :=
  let w := opc == opCutsel
  match checkEa s l { size := 64, align := 64, r := !w, w := w, scr := false, acc := false } (geCutq opc d) with
  | some c => some { cause := c, taddr := geCutq opc d, tinfo := memInfo 64 w false false }
  | none =>
    if opc != opRayq then none
    else (checkEa s l { size := 32, align := 32, w := true, acc := false } (geHit d)).map fun c =>
      { cause := c, taddr := geHit d, tinfo := memInfo 32 true false false }

/-- The causes of an engine: _BAD and _ELEM (R372). -/
def geBadCause (opc : Nat) : Nat := if opc == opCutsel then Cause.cutBad else if opc == opRast then Cause.rastBad else Cause.rayBad
def geElemCause (opc : Nat) : Nat := if opc == opCutsel then Cause.cutElem else if opc == opRast then Cause.rastElem else Cause.rayElem

/-- A geometry command at issue: its descriptor of n bytes is captured (assumption 27, DEDUCED). -/
def runGeom (s : State) (i : Instr) (opc n : Nat) : Host.Outcome State Fault Refusal :=
  runEngine s i .gx fun cx s tid _ t o =>
    match cx.record s tid t (cx.ea o.a n) n 64 with
    | (s, .trap tr) => (s, .trap tr)
    | (s, .wait t) => (s, .wait t)
    | (s, .ok d) =>
      match geBad cx.launch opc d with
      | some r => (s, .trap { cause := geBadCause opc, taddr := cx.ea o.a n, tinfo := r })
      | none =>
        match geRanges s cx.launch opc d with
        | some tr => (s, .trap tr)
        | none =>
          (s, .go (.geom opc d (if opc == opRast then (cx.launch.layout (geHandle d)).getD 0 else 0)))

/-- CUTSEL (R363). -/
def execCutsel (d a b : BitVec 8) (s : State) : Host.Outcome State Fault Refusal := runGeom s (.cutsel d a b) opCutsel 64
/-- RAST (R365). -/
def execRast (d a b : BitVec 8) (s : State) : Host.Outcome State Fault Refusal := runGeom s (.rast d a b) opRast 128
/-- RAYQ (R368). -/
def execRayq (d a b : BitVec 8) (s : State) : Host.Outcome State Fault Refusal := runGeom s (.rayq d a b) opRayq 64

/-! ## Reads of a command -/

/-- What a part of a command's work gives. -/
inductive Geo (α : Type) where
  | ok (x : α) (s : State)
  /-- an access is held at an address, or waits for a port or for room -/
  | hold (ea : Option Nat) (s : State)
  /-- memory cause or 0, address, reason -/
  | fail (cause ea reason : Nat) (s : State)

/-- What one access gives a command's work. -/
def Got.geo : Got → Geo Nat
  | .ok x s => .ok x s
  | .hold ea s => .hold (some ea) s
  | .busy s => .hold none s
  | .fault e a s => .fail e a 1 s

/-- Who reads: its launch, agent and version. -/
structure GeoCx where
  launch : Launch
  ag : Ag
  version : Option Nat

/-- n bytes of the graph or of a cluster record (R361). -/
def GeoCx.get (c : GeoCx) (s : State) (ea n : Nat) : Geo Nat :=
  let got :=
    match checkEa s c.launch { size := n, r := true, scr := false, acc := false } ea with
    | some e => Got.fault e ea s
    | none =>
      match c.version with
      | none => readEa s c.ag ea n
      | some p => if verKind s c.launch ea then .fault Cause.verKind ea s else readVer s c.ag ea n p
  got.geo
/-- n bytes of the cut list. -/
def GeoCx.list (c : GeoCx) (s : State) (ea n : Nat) : Geo Nat :=
  (engRead s c.launch c.ag ea n).geo

/-! ## The cluster graph (R349 to R352) -/

def hdNnode (h : Nat) : Nat := fld h 32 21
def hdNroot (h : Nat) : Nat := fld h 64 21
def hdClbase (h : Nat) : Nat := fld h 128 64
/-- A graph header obeys R349. -/
def headerOk (h : Nat) : Bool :=
  fld h 0 32 == 1 && fld h 53 11 == 0 && fld h 85 11 == 0 && fld h 96 32 == 0 && fld h 192 320 == 0 &&
  1 ≤ hdNnode h && hdNnode h ≤ 2 ^ 20 && 1 ≤ hdNroot h && hdNroot h ≤ hdNnode h && !notBuf (hdClbase h) &&
  hdClbase h % 4096 == 0

def ndErr (r : Nat) : Nat := rw r 6
def ndFcl (r : Nat) : Nat := fld r (8 * 36) 24
def ndRes (r : Nat) : Bool := bitOf r (8 * 40 + 31)
/-- Clusters of a node. -/
def ndNcl (r : Nat) : Nat := fld r (8 * 40) 5 + 1
def ndFch (r : Nat) : Nat := fld r (8 * 44) 20
def ndNch (r : Nat) : Nat := fld r (8 * 48) 20

/-- A node record obeys R350 for its place in the graph: its index, its parent and the parent's ERR. -/
def nodeOk (h r nd par perr : Nat) : Bool :=
  (upTo 3).all (fun k => gFin (rw r k)) && [3, 4, 5].all (fun k => gGe0 (rw r k)) && gGe0 (ndErr r) &&
  (ndNch r != 0 || ndErr r == 0) && rw r 7 == perr && rw r 8 == par && fld r (8 * 39) 8 == 0 && fld r (8 * 40 + 5) 26 == 0 &&
  fld r (8 * 44 + 20) 12 == 0 && fld r (8 * 48 + 20) 12 == 0 && fld r (8 * 52) 96 == 0 &&
  (ndNch r == 0 || (nd < ndFch r && hdNroot h ≤ ndFch r && ndFch r + ndNch r ≤ hdNnode h))

/-- The projected value of a node (R353) (assumption 69, DEDUCED). -/
def project (d r : Nat) : Nat :=
  if ndNch r == 0 then 0
  else
    let gap := fun k => gMax (gSub (gAbs (gSub (rw r k) (rw d (4 + k)))) (rw r (3 + k))) 0
    let q := gMul (gap 0) (gap 0)
    let q := gFma (gap 1) (gap 1) q
    let q := gFma (gap 2) (gap 2) q
    gDiv (gMul (ndErr r) (rw d 7)) (gMax (gSqrt q) (rw d 8))

/-! ## The cut (R354, R355) -/

/-- A selected node: index, record, substitute. -/
structure CutNode where
  node : Nat
  data : Nat
  sub : Bool

/-- What visiting a subtree gives: the cut's nodes in pre-order, whether a node of it asks for the nearest resident
ancestor, the requested nodes, and the holes. -/
structure CutAcc where
  nodes : List CutNode := []
  want : Bool := false
  reqs : List Nat := []
  holes : Nat := 0

def CutAcc.join (a b : CutAcc) : CutAcc :=
  { nodes := a.nodes ++ b.nodes, want := a.want || b.want, reqs := a.reqs ++ b.reqs, holes := a.holes + b.holes }

/-- Subtrees visited one after the other. -/
def visitAll (visit : State → Nat → Geo CutAcc) : List Nat → CutAcc → State → Geo CutAcc
  | [], a, s => .ok a s
  | n :: ns, a, s =>
    match visit s n with
    | .ok b s => visitAll visit ns (a.join b) s
    | r => r

/-- A node visited, with a bound on the path's length: its parent, the parent's ERR, the projected error so far, and
whether it has a resident ancestor. A substitute covers its whole subtree. A node goes before those below it, and the first that
fails is reported (assumption 116, DESIGN CHOICE). -/
def visitNode (c : GeoCx) (d h : Nat) : Nat → State → (nd par perr pe : Nat) → (anc : Bool) → Geo CutAcc
  | 0, s, nd, _, _, _, _ => .fail 0 (geGraph d + 64 + 64 * nd) 2 s
  | f + 1, s, nd, par, perr, pe, anc =>
    let ea := eaAdd (geGraph d) (64 + 64 * nd : Nat)
    match c.get s ea 64 with
    | .hold ea s => .hold ea s
    | .fail e ea r s => .fail e ea r s
    | .ok r s =>
      if !nodeOk h r nd par perr then .fail 0 ea 2 s
      else
        let pe := (minMax .f32 false (project d r) pe).1
        if gAbs pe ≤ gAbs (rw d 9) then
          if ndRes r then .ok { nodes := [{ node := nd, data := r, sub := false }] } s
          else .ok { want := anc, reqs := [nd], holes := if anc then 0 else 1 } s
        else
          match visitAll (fun s k => visitNode c d h f s k nd (ndErr r) pe (ndRes r || anc)) ((upTo (ndNch r)).map (ndFch r + ·)) {} s with
          | .ok a s =>
            if ndRes r && a.want then .ok { a with nodes := [{ node := nd, data := r, sub := true }], want := false } s
            else .ok a s
          | r => r

/-- The cut of a view. -/
def cutOf (c : GeoCx) (s : State) (d : Nat) : Geo (Nat × CutAcc) :=
  match c.get s (geGraph d) 64 with
  | .hold ea s => .hold ea s
  | .fail e ea r s => .fail e ea r s
  | .ok h s =>
    if !headerOk h then .fail 0 (geGraph d) 2 s
    else
      match visitAll (fun s k => visitNode c d h 64 s k 0xFFFFF gInf gInf false) (upTo (hdNroot h)) {} s with
      | .ok a s => .ok (h, a) s
      | .hold ea s => .hold ea s
      | .fail e ea r s => .fail e ea r s

/-- The entries of a node of the cut (R356, R357). -/
def CutNode.entries (h : Nat) (n : CutNode) : List Nat :=
  (upTo (ndNcl n.data)).map fun i =>
    eaAdd (hdClbase h) (4096 * (ndFcl n.data + i) : Nat) + 2 ^ 64 * n.node + 2 ^ 96 * (i + if n.sub then 256 else 0)

/-- A cut selection's work: the entries that fit, then TOTAL, HOLES and the requested nodes. -/
def cutStart (c : GeoCx) (s : State) (d : Nat) : Geo Work :=
  match c.list s (geCutq opCutsel d) 4 with
  | .hold ea s => .hold ea s
  | .fail e ea r s => .fail e ea r s
  | .ok cap s =>
    if cap == 0 || 2 ^ 24 < cap then .fail 0 (geCutq opCutsel d) 5 s
    else
      match cutOf c s d with
      | .hold ea s => .hold ea s
      | .fail e ea r s => .fail e ea r s
      | .ok (h, a) s =>
        let es := a.nodes.flatMap (CutNode.entries h)
        let q := geCutq opCutsel d
        .ok { packets := toGlobal (mapI (fun i e => [(eaAdd q (64 + 16 * i : Nat), 16, e)]) 0 (es.take cap)),
              aux := es.length :: a.holes :: a.reqs } s

/-! ## Clusters (R351, R352) -/

def clNv (r : Nat) : Nat := fld r 8 6 + 1
def clNt (r : Nat) : Nat := fld r 0 7 + 1
def clIoff (r : Nat) : Nat := roundUp (32 + 6 * clNv r) 4
/-- Bytes of a record up to the end of its index stream. -/
def clSizeOf (r : Nat) : Nat := clIoff r + roundUp (21 * clNt r) 8 / 8
/-- Vertex index j of triangle t. -/
def clIndex (r t j : Nat) : Nat := fld r (8 * clIoff r + 21 * t + 7 * j) 7
/-- A cluster record obeys R351. -/
def clusterOk (r : Nat) : Bool :=
  let n := 32 + 6 * clNv r
  bitOf r 7 == false && fld r 14 18 == 0 && fld r (8 * 28) 32 == 0 && fld r (8 * n) (8 * (clIoff r - n)) == 0 &&
  [1, 2, 3].all (fun k => gFin (rw r k)) && [4, 5, 6].all (fun k => gGe0 (rw r k)) &&
  (upTo (3 * clNt r)).all (fun k => clIndex r (k / 3) (k % 3) < clNv r) &&
  fld r (8 * clIoff r + 21 * clNt r) (8 * clSizeOf r - 8 * clIoff r - 21 * clNt r) == 0
/-- A vertex's position on an axis (R352). -/
def clPos (r v k : Nat) : Nat :=
  let step := (roundVal .f32 .nonsat 1 0 false ((g32 (rw r (4 + k))).mulPow (-16))).1
  (fmaVals .f32 .nonsat 1 0 false (intVal (fld r (8 * (32 + 6 * v + 2 * k)) 16)) (g32 step) (g32 (rw r (1 + k)))).1

/-- A cluster record read: its first 32 bytes give its length. -/
def clusterAt (c : GeoCx) (s : State) (ea : Nat) : Geo Nat :=
  match c.get s ea 32 with
  | .ok h s =>
    match c.get s ea (clSizeOf h) with
    | .ok r s => if clusterOk r then .ok r s else .fail 0 ea 3 s
    | r => r
  | r => r

/-- Work over the entries of a cut list from i on, n of them: each entry's 16 bytes and its cluster record, folded. -/
def overEntries {α : Type} (c : GeoCx) (q : Nat) (f : α → Nat → Nat → Nat → α) : Nat → Nat → α → State → Geo α
  | 0, _, x, s => .ok x s
  | n + 1, i, x, s =>
    match c.list s (eaAdd q (64 + 16 * i : Nat)) 16 with
    | .hold ea s => .hold ea s
    | .fail e ea r s => .fail e ea r s
    | .ok ent s =>
      match clusterAt c s (fld ent 0 64) with
      | .hold ea s => .hold ea s
      | .fail e ea r s => .fail e ea r s
      | .ok r s => overEntries c q f n (i + 1) (f x i ent r) s

/-- The entries that a command draws or tests: COUNT is read once (R365, R368). -/
def entriesOf {α : Type} (c : GeoCx) (s : State) (opc d : Nat) (x : α) (f : α → Nat → Nat → Nat → α) : Geo α :=
  match c.list s (eaAdd (geCutq opc d) 4) 4 with
  | .hold ea s => .hold ea s
  | .fail e ea r s => .fail e ea r s
  | .ok w s =>
    let first := geFirst opc d
    overEntries c (geCutq opc d) f (min (first + geNent opc d) (fld w 0 25) - first) first x s

/-! ## Raster (R365, R366) -/

/-- A vertex on the screen: position in 1/256 of a pixel, and depth. -/
structure ScreenV where
  x : Int
  y : Int
  z : Nat

/-- Row r of the matrix applied to a position. -/
def rowOf (d r : Nat) (p : Nat → Nat) : Nat :=
  let m := fun k => rw d (4 * r + k)
  gAdd (gFma (m 2) (p 2) (gFma (m 1) (p 1) (gMul (m 0) (p 0)))) (m 3)

/-- A scaled coordinate, if it is finite and below 2^23. -/
def scaled (v : Nat) : Option Int :=
  match g32 (gMul v (gInt 256)) with
  | .fin n m ex =>
    let (num, den) := quot m ex
    if den * 2 ^ 23 ≤ num then none
    else
      let k := (roundInt 1 0 n num den).1
      some (if n then -(k : Int) else k)
  | .inf _ | .nan _ => none

/-- A vertex projected, or a reason to discard the triangle. -/
def toScreen (d w h : Nat) (p : Nat → Nat) : Option ScreenV :=
  let cw := rowOf d 3 p
  if (g32 cw).isNan || (g32 cw).lt (g32 (rw d 22)) then none
  else
    let half := fun n => gDiv (gInt (n : Nat)) (gInt 2)
    let xn := gDiv (rowOf d 0 p) cw
    let yn := gDiv (rowOf d 1 p) cw
    match scaled (gFma xn (half w) (half w)), scaled (gFma (gNeg yn) (half h) (half h)) with
    | some x, some y => some { x := x, y := y, z := gDiv (rowOf d 2 p) cw }
    | _, _ => none

/-- The edge function of R365 at a sample. -/
def edge (u v : ScreenV) (px py : Int) : Int := (v.x - u.x) * (py - u.y) - (v.y - u.y) * (px - u.x)
/-- A sample on an edge belongs to the triangle. -/
def edgeOwns (u v : ScreenV) (e : Int) : Bool := 0 < e || (e == 0 && (v.y < u.y || (v.y == u.y && u.x < v.x)))

/-- The depth at a sample: exact, one rounding, −0 read as +0; none outside 0 to 1. -/
def depthAt (a b c : ScreenV) (area : Int) (px py : Int) : Option Nat :=
  if !(gFin a.z && gFin b.z && gFin c.z) then none
  else
    let term := fun (e : Int) (z : Nat) => ({ m := e, ex := 0 } : Ex).mul (g32 z).ex
    let x := (term (edge b c px py) a.z).add ((term (edge c a px py) b.z).add (term (edge a b px py) c.z))
    if x.m == 0 then some 0
    else
      let (num, den) := quot x.m.natAbs x.ex
      let z := (roundMag .f32 .nonsat 1 0 false (x.m < 0) num (den * area.toNat)).1
      if gAbs z == 0 then some 0 else if bitOf z 31 || 0x3F800000 < z then none else some z

/-- The pixels of a triangle in front of it: offset from TBASE and value. -/
def drawTri (d lay id : Nat) (a b c : ScreenV) : List (Nat × Nat) :=
  let area := edge a b c.x c.y
  let cull := geCull opRast d
  if area == 0 || (cull == 1 && area < 0) || (cull == 2 && 0 < area) then []
  else
    let (b, c) := if area < 0 then (c, b) else (b, c)
    let area : Int := area.natAbs
    let span : Int → Int → Nat → List Nat := fun lo hi n =>
      let first := (max 0 ((lo - 128) / 256)).toNat
      let last := min (n : Int) ((hi - 128) / 256 + 1)
      (upTo (last.toNat - first)).map fun (k : Nat) => first + k
    (span (min a.y (min b.y c.y)) (max a.y (max b.y c.y)) (layExt lay 2)).flatMap fun (y : Nat) =>
      (span (min a.x (min b.x c.x)) (max a.x (max b.x c.x)) (layExt lay 1)).filterMap fun (x : Nat) =>
        let px : Int := 256 * x + 128
        let py : Int := 256 * y + 128
        let off : Nat := 8 * x + (layStr lay 2).toNat * y
        if edgeOwns a b (edge a b px py) && edgeOwns b c (edge b c px py) && edgeOwns c a (edge c a px py) then
          (depthAt a b c area px py).map fun z => (off, z * 2 ^ 32 + id)
        else none

/-- The pixel updates of an entry's cluster. -/
def drawCluster (d lay i r : Nat) : List (Nat × Nat) :=
  (upTo (clNt r)).flatMap fun t =>
    let v := fun j => toScreen d (layExt lay 1) (layExt lay 2) fun k => clPos r (clIndex r t j) k
    match v 0, v 1, v 2 with
    | some a, some b, some c => drawTri d lay (i * 128 + t) a b c
    | _, _, _ => []

/-- A raster command's work: pixel offsets and values. -/
def rastStart (c : GeoCx) (s : State) (d lay : Nat) : Geo Work :=
  match entriesOf c s opRast d [] fun ps i _ r => ps ++ drawCluster d lay i r with
  | .ok ps s => .ok { vals := ps.map (·.1), aux := ps.map (·.2) } s
  | .hold ea s => .hold ea s
  | .fail e ea r s => .fail e ea r s

/-! ## Rays (R368) -/

/-- A finite binary32 value times 2^149. -/
def gScaled (x : Nat) : Int :=
  match g32 x with
  | .fin n m ex => (if n then -1 else 1) * (m * 2 ^ (ex + 149).toNat : Nat)
  | .inf _ | .nan _ => 0

/-- The determinant of three columns. -/
def det3 (a b c : Nat → Int) : Int :=
  let minor := fun k => let (i, j) := ((k + 1) % 3, (k + 2) % 3); b i * c j - b j * c i
  (upTo 3).foldl (fun x k => x + a k * minor k) 0

/-- A hit: numerators of t, u and v over a positive determinant, ID, node, the sign of det. -/
structure RayHit where
  t : Int
  u : Int
  v : Int
  det : Int
  id : Nat
  node : Nat
  neg : Bool

/-- One triangle against a ray: all tests exact, every coordinate scaled by 2^149. -/
def hitTri (d : Nat) (id node : Nat) (p : Nat → Nat → Nat) : Option RayHit :=
  if !((upTo 3).all fun j => (upTo 3).all fun k => gFin (p j k)) then none
  else
    let x := fun j k => gScaled (p j k)
    let e1 := fun k => x 1 k - x 0 k
    let e2 := fun k => x 2 k - x 0 k
    let dn := fun k => -gScaled (rw d (3 + k))
    let r := fun k => gScaled (rw d k) - x 0 k
    let det := det3 dn e1 e2
    let cull := geCull opRayq d
    if det == 0 || (cull == 1 && det < 0) || (cull == 2 && 0 < det) then none
    else
      let sg : Int := if det < 0 then -1 else 1
      let t := sg * det3 r e1 e2
      let u := sg * det3 dn r e2
      let v := sg * det3 dn e1 r
      let dp := sg * det
      let one : Int := (2 ^ 149 : Nat)
      if u < 0 || v < 0 || dp < u + v || t * one < gScaled (rw d 6) * dp ||
          (rw d 7 != gInf && gScaled (rw d 7) * dp < t * one) then none
      else some { t := t, u := u, v := v, det := dp, id := id, node := node, neg := det < 0 }

/-- The nearer of two hits: least exact t, the earlier at a tie. -/
def nearer (a : Option RayHit) (b : Option RayHit) : Option RayHit :=
  match a, b with
  | some x, some y => if y.t * x.det < x.t * y.det then some y else some x
  | none, y => y
  | x, none => x

/-- A quotient rounded to binary32. -/
def ratio32 (num den : Int) : Nat := if num == 0 then 0 else (roundMag .f32 .nonsat 1 0 false (num < 0) num.natAbs den.natAbs).1

/-- The 32-byte hit record. -/
def hitRecord (best : Option RayHit) (ntest : Nat) : Nat :=
  let w := match best with
    | some h => [ratio32 h.t h.det, ratio32 h.u h.det, ratio32 h.v h.det, h.id, h.node, 1 + if h.neg then 2 else 0]
    | none => [gInf, 0, 0, 0xFFFFFFFF, 0xFFFFFFFF, 0]
  (w ++ [ntest]).foldr (fun x r => x % 2 ^ 32 + 2 ^ 32 * r) 0

/-- A ray query's work: its hit record. -/
def rayStart (c : GeoCx) (s : State) (d : Nat) : Geo Work :=
  let tri := fun (acc : Option RayHit × Nat) i ent r =>
    ((upTo (clNt r)).foldl (fun best t =>
      nearer best (hitTri d (i * 128 + t) (fld ent 64 20) fun j k => clPos r (clIndex r t j) k)) acc.1, acc.2 + clNt r)
  match entriesOf c s opRayq d (none, 0) tri with
  | .ok (best, n) s => .ok { vals := [hitRecord best n] } s
  | .hold ea s => .hold ea s
  | .fail e ea r s => .fail e ea r s

/-! ## Events (R370) -/

/-- Two geometry commands of one engine: of a die's cut selection, of a core's raster unit. -/
def sameGeom (o p : Op) (opc : Nat) : Bool :=
  match p.kind with
  | .geom k _ _ => k == opc && if opc == opCutsel then dieOf (coreOf p.slot) == dieOf (coreOf o.slot) else coreOf p.slot == coreOf o.slot
  | _ => false
/-- A CUTSEL at work waits for its request ring with no room (11 R272, R358). -/
def requestsWait (s : State) (p : Op) : Bool :=
  match p.kind, s.launch? p.lid with
  | .geom k d _, some l =>
    k == opCutsel && p.phase == .running && geSring d != 0 && p.work.reserved.isNone && p.work.next + 2 < p.work.aux.length &&
    ringFull s (opAg s p) (l.ring (geSring d))
  | _, _ => false
/-- The engine of a geometry command waits for a ring with no room (11 R272): at a record, or at an older command's request. -/
def geomStalled (s : State) (o : Op) (opc : Nat) : Bool :=
  engineStalled s o.id (fun p =>
    match p.kind with
    | .geom k d _ => if sameGeom o p opc then some (geRing k d) else none
    | _ => none) ||
  (s.ops.takeWhile fun p => p.id ≠ o.id).any fun p => sameGeom o p opc && requestsWait s p

/-- What a geometry command's reads give at its start. -/
def geomStart (s : State) (o : Op) (l : Launch) (opc d lay : Nat) : Geo Work :=
  let c : GeoCx := { launch := l, ag := opAg s o, version := geVersion opc d }
  if opc == opCutsel then cutStart c s d else if opc == opRast then rastStart c s d lay else rayStart c s d

/-- GEOMETRY_START (R363, R365, R368): the command reads what it needs and works out its results. -/
def execGeometryStart (op : Nat) (s : State) : Host.Outcome State Fault Refusal :=
  match s.op? op with
  | none => .refused (.notEnabled "GEOMETRY_START")
  | some o =>
    match o.kind, s.launch? o.lid with
    | .geom opc d lay, some l =>
      let go := o.phase == .issued && o.ready s && !geomStalled s o opc
      match geomStart s o l opc d lay with
      | .ok w t => whenEnabled "GEOMETRY_START" go (t.setOp { o with phase := .running, work := w })
      | .hold (some ea) t => whenEnabled "GEOMETRY_START" go (noteHold (s.keepHold t) op ea 0)
      | .hold none _ => .refused (.notEnabled "GEOMETRY_START")
      | .fail e ea r t => whenEnabled "GEOMETRY_START" go (t.setOp { o with phase := .failing e ea r, work := o.work.clear })
    | _, _ => .refused (.notEnabled "GEOMETRY_START")

/-- Streaming requests posted in order (R358), the first at a count that may be reserved already: the number posted, the count
reserved for the next, and what stopped it. -/
def postReqs (l : Launch) (g : Ag) (o : Op) (d ring : Nat) : List Nat → Nat → Option Nat → State → Nat × Option Nat × Got
  | [], k, _, s => (k, none, .ok 0 s)
  | n :: ns, k, c, s =>
    match postFrom s g ring c (eaAdd (geGraph d) (64 + 64 * n : Nat)) n (ringTag o.pc.toNat (o.tids.headD 0)) 5 0 with
    | (_, .ok _ s) => postReqs l g o d ring ns (k + 1) none s
    | (c, .hold ea t) => (k, c, .hold ea (postKept s t c))
    | (c, .busy t) => (k, c, .busy (postKept s t c))
    | (_, .fault e ea t) => (k, none, .fault e ea t)

/-- The header of a cut list written after its entries (R363 step 3), CAP left as it stands. -/
def cutHeader (s : State) (l : Launch) (g : Ag) (d : Nat) (w : Work) : Got :=
  let q := geCutq opCutsel d
  let total := w.aux.headD 0
  let count := w.packets.length
  match engWrite s l g (eaAdd q 4) 12 (count + 2 ^ 32 * (total % 2 ^ 32) + 2 ^ 64 * ((w.aux.getD 1 0) % 2 ^ 32)) with
  | .ok _ s => engWrite s l g (eaAdd q 16) 8 ((w.aux.length - 2) % 2 ^ 32 + 2 ^ 32 * if count < total then 1 else 0)
  | r => r

/-- A part of a command's work as far as it has gone: on, or its wait, or its failure with a reason. -/
def geomStep (name : String) (o : Op) (go : Bool) (reason : Nat) (got : Got)
    (next : State → Host.Outcome State Fault Refusal) : Host.Outcome State Fault Refusal :=
  match got with
  | .ok _ t => next t
  | .hold ea t => whenEnabled name go (noteHold (t.setOp o) o.id ea reason)
  | .busy t => whenEnabled name (go && t.op? o.id != some o) (t.setOp o)
  | .fault c ea t => whenEnabled name go (t.setOp { o with phase := .failing c ea reason, work := o.work.clear })

/-- The signal of a geometry command, then its record or its end. -/
def geomEnd (name : String) (t : State) (o : Op) (l : Launch) (opc d : Nat) (go : Bool) : Host.Outcome State Fault Refusal :=
  geomStep name o go 1 (signalOne t l (opAg t o) (geTb opc d) (geSig opc d) o.work.moved) fun t =>
    let o := { o with work := o.work.clear }
    whenEnabled name go (toPost (t.setOp o) o (geRing opc d) 0 0 0)

/-- CUTSEL_DONE (R363): requests, entries, header, signal; what has been posted and written stays. -/
def execCutselDone (op : Nat) (s : State) : Host.Outcome State Fault Refusal :=
  match s.op? op with
  | none => .refused (.notEnabled "CUTSEL_DONE")
  | some o =>
    match o.kind, s.launch? o.lid with
    | .geom opc d _, some l =>
      let go := o.phase == .running && opc == opCutsel && !geomStalled s o opc
      let g := opAg s o
      let todo := if geSring d == 0 then [] else (o.work.aux.drop 2).drop o.work.next
      let (k, c, got) := postReqs l g o d (l.ring (geSring d)) todo o.work.next o.work.reserved s
      let o := { o with work := { o.work with next := k, reserved := c } }
      geomStep "CUTSEL_DONE" o go 4 got fun t =>
        let (ps, n, got) := writeUnits l g o.work.packets t
        let o := { o with work := { o.work with packets := ps, moved := o.work.moved + n } }
        geomStep "CUTSEL_DONE" o go 1 got fun t =>
          geomStep "CUTSEL_DONE" o go 1 (cutHeader t l g d o.work) fun t =>
            geomEnd "CUTSEL_DONE" t { o with work := { o.work with moved := 64 + 16 * o.work.packets.length } } l opc d go
    | _, _ => .refused (.notEnabled "CUTSEL_DONE")

/-- pixel_min for each update (R366): ATOM.min.u64 at the line's single point; the number made, and what stopped the next. -/
def pixelMins (l : Launch) (g : Ag) (base : Nat) : List (Nat × Nat) → Nat → State → Nat × Got
  | [], k, s => (k, .ok 0 s)
  | (off, x) :: ps, k, s =>
    let ea := eaAdd base off
    match checkEa s l { size := 8, align := 8, a := true, scr := false, acc := false } ea with
    | some c => (k, .fault c ea s)
    | none =>
      match rmwEa s g ea 8 { op := 2, code := 2 * 16 + 1, data := x } with
      | .ok _ s => pixelMins l g base ps (k + 1) s
      | .hold ea t => (k, .hold ea (s.keepHold t))
      | .busy _ => (k, .busy s)
      | .fault c ea _ => (k, .fault c ea s)

/-- RAST_DONE (R366): 8 bytes are reported for each update made. -/
def execRastDone (op : Nat) (s : State) : Host.Outcome State Fault Refusal :=
  match s.op? op with
  | none => .refused (.notEnabled "RAST_DONE")
  | some o =>
    match o.kind, s.launch? o.lid with
    | .geom opc d _, some l =>
      let go := o.phase == .running && opc == opRast && !geomStalled s o opc
      let (k, got) := pixelMins l (opAg s o) (geTbase d) ((o.work.vals.zip o.work.aux).drop o.work.next) o.work.next s
      let o := { o with work := { o.work with next := k, moved := 8 * k } }
      geomStep "RAST_DONE" o go 1 got fun t => geomEnd "RAST_DONE" t o l opc d go
    | _, _ => .refused (.notEnabled "RAST_DONE")

/-- RAYQ_DONE (R368): the hit record is written, with no signal and no record. -/
def execRayqDone (op : Nat) (s : State) : Host.Outcome State Fault Refusal :=
  match s.op? op with
  | none => .refused (.notEnabled "RAYQ_DONE")
  | some o =>
    match o.kind, s.launch? o.lid with
    | .geom opc d _, some l =>
      let go := o.phase == .running && opc == opRayq
      match engWrite s l (opAg s o) (geHit d) 32 (o.work.vals.headD 0) with
      | .ok _ t => whenEnabled "RAYQ_DONE" go (completeOp t op)
      | .hold ea t => whenEnabled "RAYQ_DONE" go (noteHold (s.keepHold t) op ea 0)
      | .busy _ => .refused (.notEnabled "RAYQ_DONE")
      | .fault c ea _ => whenEnabled "RAYQ_DONE" go (s.setOp { o with phase := .failing c ea 1, work := o.work.clear })
    | _, _ => .refused (.notEnabled "RAYQ_DONE")

/-- GEOMETRY_FAULT (R370, R371): writing stops, the record of CUTSEL and RAST says FAULT, and _ELEM is deferred. -/
def execGeometryFault (op : Nat) (s : State) : Host.Outcome State Fault Refusal :=
  match s.op? op with
  | none => .refused (.notEnabled "GEOMETRY_FAULT")
  | some o =>
    match o.kind, o.phase with
    | .geom opc d _, .failing c ea r =>
      let f := engineCause (geElemCause opc) c (c * 256 + r)
      let o := { o with work := { o.work.clear with fail := some (f.1, ea, f.2) } }
      whenEnabled "GEOMETRY_FAULT" (!geomStalled s o opc) (toPost (s.setOp o) o (geRing opc d) 1 f.1 ea)
    | _, _ => .refused (.notEnabled "GEOMETRY_FAULT")

end Sys2Proof.Machine
end

