-- ==== Sys2Proof/Machine/Tables.lean ====
section
/-! DEFINITION. The launch's tables and the snapshot engine: RBIND and RUNBIND (08_ordering.md R198 to R203), CRDECL and CREND
(15_die_memory.md R325 to R331), VPOST and VOPEN (20_versioned_memory.md R401, R402), copy-on-write and history (R397, R398),
and LAUNCH (16_launch_scheduling.md R343, R344). -/

namespace Sys2Proof.Machine

/-! ## Uniform operations with a result -/

/-- What a uniform operation on tables gives: a word for D, a trap, or a wait in which the group stays. -/
inductive UniRes where
  | val (x : Nat)
  | none
  | trap (tr : Trap)
  | wait

/-- A uniform instruction executed once for the group (01 R17): D takes the word on the party. -/
def runTable (s : State) (i : Instr) (f : Cx → State → Opnds → State × UniRes) : Host.Outcome State Fault Refusal :=
  runWord s i fun cx s =>
    match f cx s (cx.opnds (cx.view s.ref (cx.tids.headD 0))) with
    | (s, .trap tr) => cx.trapAll s tr
    | (s, .wait) => s
    | (s, .none) => cx.mapGroup s cx.advance
    | (s, .val x) =>
      let cx := { cx with party := cx.party.write cx.dreg cx.dwidth x }
      cx.mapGroup s cx.advance

/-- A check of R159 on n bytes of a buffer for a uniform instruction, with the memory fields of R181. -/
def tableCheck (s : State) (l : Launch) (ea n align : Nat) (r w a : Bool) : Option Trap :=
  (checkEa s l { size := n, align := align, r := r, w := w, a := a, scr := false, acc := false } ea).map fun c =>
    { cause := c, taddr := ea, tinfo := memInfo n w a true }

/-- The first trap of a list of checks. -/
def firstTrap : List (Option Trap) → Option Trap
  | [] => none
  | some t :: _ => some t
  | none :: l => firstTrap l

/-! ## Binding (08 R201, R202) -/

/-- Entry e of the binding table. -/
def Launch.bindAt (l : Launch) (e : Nat) : Binding := l.binds.getD e {}
/-- A handle. -/
def handleOf (gen e : Nat) : Nat := gen * 256 + e

/-- RBIND's checks (R201). -/
def rbindCheck (s : State) (l : Launch) (len base obj : Nat) : Option Trap :=
  if len == 0 || len % 128 != 0 || base % 128 != 0 then some { cause := Cause.bindBad }
  else firstTrap
    [tableCheck s l base 1 1 false false false, tableCheck s l (eaAdd base ((len : Int) - 1)) 1 1 false false false,
     tableCheck s l obj 8 8 false false false,
     if 2 ^ 44 < eaOff base + len then some { cause := Cause.bufBounds, taddr := base, tinfo := memInfo 1 false false true }
     else none]

/-- RBIND (R201). -/
def execRbind (d a b : BitVec 8) (s : State) : Host.Outcome State Fault Refusal :=
  runTable s (.rbind d a b) fun cx s o =>
    let l := cx.launch
    match rbindCheck s l o.d o.a o.b with
    | some tr => (s, .trap tr)
    | none =>
      let live := fun e => (l.bindAt e).live
      match (upTo 256).find? fun e =>
        live e && (l.bindAt e).base == o.a && (l.bindAt e).len == o.d && (l.bindAt e).obj == o.b with
      | some e => (s, .val (handleOf (l.bindAt e).gen e))
      | none =>
        match (upTo 256).find? fun e => !live e with
        | none => (s, .trap { cause := Cause.bindFull })
        | some e =>
          let gen := ((l.bindAt e).gen + 1) % 2 ^ 16
          let x : Binding := { base := o.a, len := o.d, obj := o.b, live := true, gen := gen }
          (s.setLaunch { l with binds := setAt {} l.binds e x }, .val (handleOf gen e))

/-- RUNBIND (R202). -/
def execRunbind (d a b : BitVec 8) (s : State) : Host.Outcome State Fault Refusal :=
  runTable s (.runbind d a b) fun cx s o =>
    let l := cx.launch
    let e := fld o.a 0 8
    let x := l.bindAt e
    if fld o.a 24 8 != 0 then (s, .trap { cause := Cause.bindBad, tinfo := 2 })
    else if x.gen != fld o.a 8 16 then (s, .trap { cause := Cause.bindBad, tinfo := 1 })
    else if x.live then (s.setLaunch { l with binds := setAt {} l.binds e { x with live := false } }, .none)
    else (s, .none)

/-! ## Commutative ranges (15 R326 to R330) -/

/-- Entry e of the range table. -/
def Launch.rangeEntry (l : Launch) (e : Nat) : Range := l.ranges.getD e {}

/-- CRDECL's checks (R326). -/
def crdeclCheck (s : State) (l : Launch) (len base ctl : Nat) : Option Trap :=
  let bad := fun n => some ({ cause := Cause.crBad, tinfo := n } : Trap)
  if fld ctl 7 25 != 0 || fld ctl 2 2 != 0 || fld ctl 0 2 == 3 || 5 < fld ctl 4 3 then bad 2
  else if len == 0 || 2 ^ 26 < len || len % 128 != 0 || base % 128 != 0 then bad 1
  else
    match firstTrap
      [tableCheck s l base 1 1 true true true, tableCheck s l (eaAdd base ((len : Int) - 1)) 1 1 true true true,
       if 2 ^ 44 < eaOff base + len then some { cause := Cause.bufBounds, taddr := base, tinfo := memInfo 1 true true true }
       else none] with
    | some t => some t
    | none =>
      if (bufOf s l.ctx (eaIdx base)).any bufPeer then bad 6
      else if l.ranges.any fun r => r.live && overlap r.base r.len base len then bad 3
      else if (upTo 16).all fun e => (l.rangeEntry e).live then bad 4
      else none

/-- CRDECL (R326). -/
def execCrdecl (d a b : BitVec 8) (s : State) : Host.Outcome State Fault Refusal :=
  runTable s (.crdecl d a b) fun cx s o =>
    let l := cx.launch
    match crdeclCheck s l o.d o.a o.b with
    | some tr => (s, .trap tr)
    | none =>
      let e := ((upTo 16).find? fun e => !(l.rangeEntry e).live).getD 0
      let gen := ((l.rangeEntry e).gen + 1) % 2 ^ 16
      let x : Range := { base := o.a, len := o.d, op := fld o.b 0 2, ty := fld o.b 4 3, die := cx.die, live := true, gen := gen }
      (s.setLaunch { l with ranges := setAt {} l.ranges e x }, .val (handleOf gen e))

/-- The physical lines of a launch's partials in a range. -/
def rangeLines (s : State) (lid : Nat) (r : Range) : List Nat :=
  ((upTo 128).flatMap fun c => ((s.core c).parts.filter fun p => p.lid == lid && r.base ≤ p.ea && p.ea < r.base + r.len).map
    fun p => lineOf p.ppa).eraseDups

/-- Every line of a range is combined (R329, R330). -/
def combineRange (s : State) (lid : Nat) (r : Range) : State :=
  (rangeLines s lid r).foldl (fun s line => combine s lid line) s

/-- A range ends: its lines are combined and its entry is free (R330). -/
def endRange (s : State) (l : Launch) (e : Nat) : State :=
  let r := l.rangeEntry e
  (combineRange s l.lid r).setLaunch { l with ranges := setAt {} l.ranges e { r with live := false } }

/-- An atomic whose element lies in a range. -/
def Op.updates (o : Op) (r : Range) : Bool :=
  match o.kind with
  | .atom ea code .. => overlap r.base r.len ea (atomSize code)
  | _ => false
/-- CREND (R330): it waits for the group's own updates of the range that no core has accepted yet (R329), and while the port or
the migration of a line of the range holds its combine (21 R413, 19 R388). -/
def execCrend (d a b : BitVec 8) (s : State) : Host.Outcome State Fault Refusal :=
  runTable s (.crend d a b) fun cx s o =>
    let l := cx.launch
    let e := fld o.a 0 8
    if fld o.a 24 8 != 0 then (s, .trap { cause := Cause.crBad, tinfo := 7 })
    else if 16 ≤ e || !(l.rangeEntry e).live || (l.rangeEntry e).gen != fld o.a 8 16 then
      (s, .trap { cause := Cause.crBad, tinfo := 5 })
    else if ((openAccesses s cx.slot cx.tids cx.issue.handler).any fun o => o.updates (l.rangeEntry e)) ||
        (rangeLines s l.lid (l.rangeEntry e)).any (combineBusy s l.lid) then (s, .wait)
    else (endRange s l e, .none)

/-- COMBINE_LINE (R329): the partials of a line reach the home combiner in ascending die and core and are applied. -/
def execCombineLine (s : State) : Host.Outcome State Fault Refusal :=
  match s.input with
  | .combineLine lid entry line =>
    match s.launch? lid with
    | some l =>
      let r := l.rangeEntry entry
      whenEnabled "COMBINE_LINE" (r.live && (rangeLines s lid r).contains line && !combineBusy s lid line)
        (combine s lid line)
    | none => .refused (.notEnabled "COMBINE_LINE")
  | _ => .refused (.notEnabled "COMBINE_LINE")

/-! ## Pages of a buffer -/

/-- A page-table entry of 8 bytes written by Raleb or the snapshot engine (19 R385). -/
def writeEntry (s : State) (ppa x : Nat) : State := dirWrite (s.unsealLine (lineOf ppa) fun _ => none) ppa 8 x

/-- The pseudo-channels that a page of a buffer uses (19 R382). -/
def pagePcs (e : Nat) : List Nat :=
  match pageSpread e with
  | none => upTo 64
  | some _ => (upTo (2 ^ bufPcLog e)).map (bufPcBase e + ·)
/-- A port that a page uses is in all-bank mode, or its component restarts (21 R413, 27 R462). -/
def frameBusy (s : State) (e leaf : Nat) : Bool :=
  s.out (.port (leafHome leaf)) || (pagePcs e).any fun pc => (s.port (leafHome leaf, pc)).allBank

/-- The pages of a buffer. -/
def pagesOf (e : Nat) : List Nat := upTo (roundUp (bufLen e) (2 ^ bufPage e) / 2 ^ bufPage e)

/-- Every present leaf entry of a buffer changed by f, and its translations dropped. -/
def mapLeaves (s : State) (ctx buf e : Nat) (f : Nat → Nat) : State :=
  (pagesOf e).foldl (fun s p =>
    match leafAddr s e (pageBase e p) with
    | none => s
    | some a =>
      let leaf := coherentRead s a 8
      if leafV leaf && f leaf != leaf then
        shootdown (writeEntry s a (f leaf)) { ctx := ctx, buf := buf, page := p }
      else s) s

/-- A leaf entry with another STATE. -/
def withState (leaf st : Nat) : Nat := setFld leaf 38 2 st

/-- The bytes of a page's frame. -/
def frameBytes (e leaf : Nat) : Nat × Nat := (leafPpa e leaf 0, 2 ^ bufPage e)

/-- A line lies in a range of physical bytes. -/
def lineIn (a n line : Nat) : Bool := overlap a n (line * 128) 128

/-- Every cached line of a range is written back, its copies kept or dropped (15 R319, 19 R388). -/
def flushRange (s : State) (a n : Nat) (keep : Bool) : State :=
  (((s.l2.map fun x => x.1.2).filter (lineIn a n)).eraseDups).foldl (fun s line => flushLine s line keep) s

/-- Every copy of some lines is written back and goes, L1 copies among them. -/
def purgeLines (s : State) (hit : Nat → Bool) : State :=
  let s := (((s.l2.map fun x => x.1.2).filter hit).eraseDups).foldl (fun s line => flushLine s line false) s
  (upTo 128).foldl (fun s core =>
    let c := s.core core
    if c.l1.any fun x => hit x.1 then s.setCore core { c with l1 := c.l1.filter fun x => !hit x.1 } else s) s
/-- The same for a range: its frame passes to another page. -/
def purgeRange (s : State) (a n : Nat) : State := purgeLines s (lineIn a n)

/-- Bytes of a memory moved: the range at the destination takes the contents of the range at the source. -/
def Memory.copy (m : List Host.Cell) (src dst n : Nat) : List Host.Cell :=
  let clear := m.filter fun c => c.1 < dst || dst + n ≤ c.1
  (m.filter fun c => src ≤ c.1 && c.1 < src + n).foldl (fun r c => Memory.put r (c.1 - src + dst) c.2) clear

/-! ## Publishing (20 R401) -/

/-- A page of a buffer with an operation translated and not yet performed: a forwarded atomic (R401, 19 R388). -/
def pageBusy (s : State) (e leaf : Nat) : Bool :=
  let (a, n) := frameBytes e leaf
  s.ops.any fun o => match o.phase with | .forwarded _ ppa => lineIn a n (lineOf ppa) | _ => false

/-- An operation on some version's pages is still open. -/
def versionBusy (s : State) (e v : Nat) : Bool :=
  (pagesOf e).any fun p =>
    match walk s e (pageBase e p) with
    | some leaf => leafV leaf && leafVer leaf == v && pageBusy s e leaf
    | none => false

/-- The launches and lines of the uncombined partials on a buffer. -/
def bufferPartials (s : State) (ctx buf : Nat) : List (Nat × Nat) :=
  let hit := fun (p : Partial) => eaIdx p.ea == buf && (s.launch? p.lid).any fun l => l.ctx == ctx
  ((upTo 128).flatMap fun c => ((s.core c).parts.filter hit).map fun p => (p.lid, lineOf p.ppa)).eraseDups
/-- Every uncombined partial on a buffer is applied before its pages are published. -/
def combineBuffer (s : State) (ctx buf : Nat) : State :=
  (bufferPartials s ctx buf).foldl (fun s k => combine s k.1 k.2) s

/-- STATE 1 for a page of the published version; a migrating page takes it at its end, a quarantined page when it is
restored. -/
def publishLeaf (v leaf : Nat) : Nat :=
  if leafVer leaf == v && leafState leaf == 0 then withState leaf 1 else leaf

/-- The ports of a buffer's page table or of its history hold a write (21 R413). -/
def pagesHeld (s : State) (e : Nat) : Bool :=
  (pagesOf e).any fun p =>
    leafHeld s e (pageBase e p) || (upTo 15).any fun i => (histAddr s e (pageBase e p) i).any (inAllBank s)

/-- VPOST's shootdown and publication (assumption 63, DEDUCED). -/
def publish (s : State) (ctx buf e v : Nat) (sn : Snap) : State :=
  let s := combineBuffer s ctx buf
  let s := mapLeaves s ctx buf e (publishLeaf v)
  let s := { s with migrations := s.migrations.map fun (m : Migration) =>
    if m.page.ctx == ctx && m.page.buf == buf then { m with old := publishLeaf v m.old } else m }
  let s := { s with quars := s.quars.map fun (q : PageKey × Nat) =>
    if q.1.ctx == ctx && q.1.buf == buf then (q.1, publishLeaf v q.2) else q }
  s.setSnap { sn with opn := (v + 1) % 2 ^ 24, pub := v }

/-- The group's own open writes to a buffer (R401: observed writes of a thread of the group). -/
def openWritesTo (s : State) (cx : Cx) (buf : Nat) : Bool :=
  (openAccesses s cx.slot cx.tids cx.issue.handler).any fun o =>
    o.kind.writes && match o.kind.bytes with | some (ea, _) => eaIdx ea == buf | none => false

/-- The checks that VPOST and VOPEN share: reserved bits, the address, the buffer's kind. -/
def verCheck (s : State) (l : Launch) (rsvd : Bool) (ea : Nat) (write : Bool) : Option Trap :=
  if rsvd then some { cause := Cause.vpostBad, tinfo := 1 }
  else match tableCheck s l ea 1 1 (!write) write false with
    | some t => some t
    | none =>
      if verKind s l ea then some { cause := Cause.verKind, taddr := ea, tinfo := memInfo 1 write false true } else none

/-- VPOST (R401). -/
def execVpost (d a b : BitVec 8) (s : State) : Host.Outcome State Fault Refusal :=
  runTable s (.vpost d a b) fun cx s o =>
    match verCheck s cx.launch (fld o.b 24 8 != 0) o.a true with
    | some tr => (s, .trap tr)
    | none =>
      let buf := eaIdx o.a
      let v := fld o.b 0 24
      match bufOf s cx.launch.ctx buf, s.snap? cx.launch.ctx buf with
      | some e, some sn =>
        if v == sn.pub then (s, .val 1)
        else if v != sn.opn then (s, .trap { cause := Cause.vpostBad, tinfo := 2 })
        else if openWritesTo s cx buf || versionBusy s e v || (pagesOf e).any (fun p => leafHeld s e (pageBase e p)) ||
            (bufferPartials s cx.launch.ctx buf).any fun k => combineBusy s k.1 k.2 then (s, .wait)
        else (publish s cx.launch.ctx buf e v sn, .val 0)
      | _, _ => (s, .trap { cause := Cause.verKind, taddr := o.a, tinfo := memInfo 1 true false true })

/-! ## Holding (20 R402) -/

/-- Kept plats outside retention. -/
def Snap.outside (v : Snap) (depth : Nat) : Nat :=
  (v.holds.filter fun h => 0 < h.2 && depth ≤ wrap ((v.pub : Int) - h.1) 24).length

/-- A hold of a launch on a plat. -/
def Snap.hold (v : Snap) (depth lid p : Nat) : Snap × Nat :=
  let n := aget 0 p v.holds
  if !verLe p v.pub then (v, 1)
  else if !v.kept depth p then (v, 2)
  else if (n == 0 && v.outside depth + depth == 15) || n == 65535 then (v, 3)
  else ({ v with holds := aset p (n + 1) v.holds, owners := v.owners ++ [(lid, p)] }, 0)

/-- The first owner entry that meets a condition is taken away. -/
def dropFirst (f : Nat × Nat → Bool) : List (Nat × Nat) → List (Nat × Nat)
  | [] => []
  | x :: l => if f x then l else x :: dropFirst f l

/-- A hold on a plat released for a launch: its own, else the oldest of another. -/
def Snap.release (v : Snap) (lid p : Nat) : Snap × Nat :=
  let n := aget 0 p v.holds
  if n == 0 then (v, 4)
  else
    let owners :=
      if v.owners.contains (lid, p) then dropFirst (fun x => x == (lid, p)) v.owners
      else dropFirst (fun x => x.2 == p) v.owners
    ({ v with holds := if n == 1 then adel p v.holds else aset p (n - 1) v.holds, owners := owners }, 0)

/-- VOPEN (R402). -/
def execVopen (d a b : BitVec 8) (s : State) : Host.Outcome State Fault Refusal :=
  runTable s (.vopen d a b) fun cx s o =>
    match verCheck s cx.launch (fld o.b 25 7 != 0) o.a false with
    | some tr => (s, .trap tr)
    | none =>
      match bufOf s cx.launch.ctx (eaIdx o.a), s.snap? cx.launch.ctx (eaIdx o.a) with
      | some e, some sn =>
        let (sn, st) :=
          if bitOf o.b 24 then sn.release cx.launch.lid (fld o.b 0 24) else sn.hold (bufDepth e) cx.launch.lid (fld o.b 0 24)
        (s.setSnap sn, .val st)
      | _, _ => (s, .trap { cause := Cause.verKind, taddr := o.a, tinfo := memInfo 1 false false true })

/-- The holds that a launch still owns are released at its teardown (R402). -/
def releaseHolds (s : State) (lid : Nat) : State :=
  { s with snaps := s.snaps.map fun v =>
      (v.owners.filter fun x => x.1 == lid).foldl (fun v x => (v.release lid x.2).1) v }

/-! ## Copy-on-write and history (20 R396 to R398) -/

/-- The free frames of a stack. -/
def poolOf (s : State) (stack : Nat) : List Nat := aget [] stack s.pools
/-- The units of 64 KiB of a page. -/
def pageUnits (e : Nat) : Nat := 2 ^ bufPage e / 2 ^ 16
/-- A frame for a page in the pool of a stack (assumption 64, DESIGN CHOICE). -/
def takeFrame (s : State) (stack n : Nat) : Option (Nat × State) :=
  let pool := poolOf s stack
  match pool.find? fun f => f % n == 0 && (upTo n).all fun i => pool.contains (f + i) with
  | none => none
  | some f => some (f, { s with pools := aset stack (pool.filter fun x => x < f || f + n ≤ x) s.pools })
/-- A unit of 64 KiB uses a failing row for which no spare was left (25 R443): it leaves the pool for good. -/
def wornUnit (s : State) (stack f : Nat) : Bool :=
  (s.stack stack).worn.any fun w => overlap (f * 2 ^ 16) (2 ^ 16) (bankOff w.1 w.2.1 w.2.2 0 0) 1024
/-- A freed frame returns to the pool of its stack (R397) (assumption 40, DEDUCED). -/
def freeFrame (s : State) (stack f n : Nat) : State :=
  { s with pools := aset stack (poolOf s stack ++ ((upTo n).map (f + ·)).filter fun u => !wornUnit s stack u) s.pools }

/-- A page's frame copied to another, as ciphertext (19 R388, R390): a line that cannot be read cannot be read in the copy. -/
def copyFrame (s : State) (e old new : Nat) : State :=
  let (a, n) := frameBytes e old
  let b := (frameBytes e new).1
  let source := fun (x : Nat) => a ≤ 32 * x && 32 * x < a + n
  let target := fun (x : Nat) => b ≤ 32 * x && 32 * x < b + n
  let kept := s.seals.filter fun x => !target x.1
  { s with dram := Memory.copy s.dram a b n
           seals := kept ++ (s.seals.filter fun x => source x.1).map fun x => (x.1 - a / 32 + b / 32, x.2)
           damaged := s.damaged ++ ((s.lost ++ s.damaged).filter (lineIn a n)).map fun l => l - a / 128 + b / 128 }

/-- Partials that wait for a combine follow their page. -/
def rebasePartials (s : State) (e old new : Nat) : State :=
  let (a, n) := frameBytes e old
  let move := fun (p : Partial) => if a ≤ p.ppa && p.ppa < a + n then { p with ppa := p.ppa - a + (frameBytes e new).1 } else p
  { s with cores := s.cores.map fun c => (c.1, { c.2 with parts := c.2.parts.map move }) }

/-- COW_COMPLETE (R398): it waits while the pool of the page's home stack holds no frame, and for the ports of the page. -/
def execCowComplete (page : PageKey) (s : State) : Host.Outcome State Fault Refusal :=
  match bufOf s page.ctx page.buf, s.snap? page.ctx page.buf with
  | some e, some sn =>
    let x := pageBase e page.page
    match leafAddr s e x with
    | none => .refused (.notEnabled "COW_COMPLETE")
    | some la =>
      let leaf := coherentRead s la 8
      match (upTo 15).find? fun i => !leafV (histEntry s e x i), takeFrame s (leafHome leaf) (pageUnits e) with
      | some i, some (f, t) =>
        match histAddr s e x i with
        | none => .refused (.notEnabled "COW_COMPLETE")
        | some ha =>
          let (a, n) := frameBytes e leaf
          let new := mkLeaf sn.opn 0 (leafHome leaf) f
          let t := flushRange t a n true
          let t := rebasePartials (copyFrame (purgeRange t (frameBytes e new).1 n) e leaf new) e leaf new
          let t := writeEntry (writeEntry t ha (mkLeaf (leafVer leaf) 0 (leafHome leaf) (leafFrame leaf))) la new
          let t := shootdown t page
          let t := replayHeld { t with cows := t.cows.filter (· ≠ page) } page
          whenEnabled "COW_COMPLETE"
            (s.cows.contains page && leafV leaf && leafState leaf == 1 && !frameBusy s e leaf && !leafHeld s e x && !inAllBank s ha) t
      | _, _ => .refused (.notEnabled "COW_COMPLETE")
  | _, _ => .refused (.notEnabled "COW_COMPLETE")

/-- The kept plats of a buffer (R395). -/
def keptPlats (v : Snap) (depth : Nat) : List Nat :=
  (((upTo depth).map fun (i : Nat) => wrap ((v.pub : Int) - i) 24) ++ v.holds.map (·.1)).filter (v.kept depth)

/-- HISTORY_FRAME_FREE (R397). -/
def execHistoryFrameFree (page : PageKey) (slot : Nat) (s : State) : Host.Outcome State Fault Refusal :=
  match bufOf s page.ctx page.buf, s.snap? page.ctx page.buf with
  | some e, some sn =>
    let x := pageBase e page.page
    let h := histEntry s e x slot
    match walk s e x, histAddr s e x slot with
    | some leaf, some ha =>
      let used := (keptPlats sn (bufDepth e)).any fun p => platEntry s e x leaf p == some h
      whenEnabled "HISTORY_FRAME_FREE" (slot < 15 && leafV h && !used && !frameBusy s e h && !leafHeld s e x && !inAllBank s ha)
        (let t := purgeRange s (frameBytes e h).1 (frameBytes e h).2
         freeFrame (writeEntry t ha 0) (leafHome h) (leafFrame h) (pageUnits e))
    | _, _ => .refused (.notEnabled "HISTORY_FRAME_FREE")
  | _, _ => .refused (.notEnabled "HISTORY_FRAME_FREE")

/-! ## LAUNCH (16 R343, R344) -/

/-- The control block of a queue read by its home bind core: TAIL, HEAD, N, DEV, PMAX. -/
structure QueueCb where
  tail : Nat
  head : Nat
  n : Nat
  dev : Bool
  pmax : Nat

/-- The fields of a control block of 24 bytes (R332). -/
def queueCb (x : Nat) : QueueCb :=
  { tail := fld x 0 64, head := fld x 64 64, n := fld x 128 4, dev := bitOf x 135, pmax := fld x 132 3 }

/-- The agent of a queue: its home bind core, in the owner context. What it writes stands in DRAM, and no die's reset loses it:
the counts survive one (28 R480; assumption 106, DEDUCED). -/
def queueAg (q : Queue) : Ag := outAg q.ctx

/-- The queue of a context that LAUNCH names. -/
def devQueue (s : State) (ctx k : Nat) : Option Queue :=
  match aget? k s.queues with
  | some q => if q.ctx == ctx then some q else none
  | none => none

/-- A record appended by the home bind core of its queue, at an address of which nothing has been read yet: what it waits
for, its fault, or the count for D. -/
def appendRecord (s : State) (q : Queue) (cb : QueueCb) (record : Nat) : Got :=
  match writeEa s (queueAg q) (eaAdd q.base (64 + 256 * (cb.tail % 2 ^ cb.n) : Nat)) 256 record with
  | .ok _ s =>
    match writeEa s (queueAg q) q.base 8 (cb.tail + 1) with
    | .ok _ s => .ok (cb.tail % 2 ^ 32) s
    | r => r
  | r => r

/-- LAUNCH after the check of its reserved bits: the queue, the record captured, and the append by the home bind core
(assumption 65, DEDUCED). -/
def launchAppend (cx : Cx) (s : State) (t : Thread) (k ea : Nat) : State × RecRes :=
  match devQueue s cx.launch.ctx k with
  | none => (s, .trap { cause := Cause.launchBad, tinfo := 2 })
  | some q =>
    if !bindUp s q.die then (s, .wait t)
    else if linkDown s q.die then
      (s, .trap { cause := Cause.hwLink, taddr := q.base, tinfo := memInfo 32 false false true })
    else match cx.settle t q.base (memInfo 32 false false true) (readEa s (queueAg q) q.base 24) with
    | (s, .trap tr) => (s, .trap tr)
    | (s, .wait t) => (s, .wait t)
    | (s, .ok x) =>
      let cb := queueCb x
      if !cb.dev then (s, .trap { cause := Cause.launchBad, tinfo := 2 })
      else match checkEa s cx.launch { size := 256, align := 64, r := true, acc := false } ea with
      | some c => (s, .trap { cause := c, taddr := ea, tinfo := memInfo 256 false false true })
      | none =>
        if !(openAccesses s cx.slot cx.tids cx.issue.handler).isEmpty then (s, .wait t)
        else match cx.readRecord s cx.tids (cx.tids.headD 0) t ea 256 true with
        | (s, .trap tr) => (s, .trap tr)
        | (s, .wait t) => (s, .wait t)
        | (s, .ok record) =>
          if wrap ((cb.tail : Int) - cb.head) 64 == 2 ^ cb.n then (s, .trap { cause := Cause.launchFull, tinfo := k })
          else cx.settle t q.base (memInfo 256 true false true) (appendRecord s q cb record)

/-- LAUNCH (R344): a full release at .pk, counted in st and complete when the append is made. -/
def execLaunch (d a b : BitVec 8) (s : State) : Host.Outcome State Fault Refusal :=
  runWord s (.launch d a b) fun cx s =>
    let o := cx.opnds (cx.view s.ref (cx.tids.headD 0))
    if fld o.b 8 24 != 0 then cx.trapAll s { cause := Cause.launchBad, tinfo := 1 }
    else
      match launchAppend cx s (cx.party.thread (cx.tids.headD 0)) (fld o.b 0 8) o.a with
      | (s, .trap tr) => cx.trapAll s tr
      | (s, .wait t) => cx.holdGroup s t
      | (s, .ok x) =>
        let id := s.seq
        let s := s.addOp cx.slot cx.party.lid cx.tids (some .st) cx.pc (.launch (fld o.b 0 8) o.a) []
        let cx := { cx with party := cx.party.write cx.dreg cx.dwidth x }
        completeOp (cx.mapGroup s fun k t => cx.advance k (t.count .st)) id

end Sys2Proof.Machine
end

