-- ==== Sys2Proof/Machine/Pages.lean ====
section
/-! DEFINITION. Page migration (19_package_memory.md R387, R388), quarantine and restoration of a page (25_resilience.md
R446). -/

namespace Sys2Proof.Machine

/-- The global address of a page within its context. -/
def pageEa (e : Nat) (page : PageKey) : Nat := page.buf * 2 ^ 44 + pageBase e page.page

/-- A line holds bytes of a page under a leaf entry. -/
def pageHas (e leaf : Nat) (page : PageKey) (line : Nat) : Bool :=
  if bufIlv e == 2 then
    (upTo (2 ^ bufPage e / 32)).any fun i => lineOf (leafPpa e leaf (pageBase e page.page + 32 * i)) == line
  else lineIn (frameBytes e leaf).1 (frameBytes e leaf).2 line

/-- Some line of a page under a leaf entry cannot be read. -/
def pageDamaged (s : State) (e leaf : Nat) (page : PageKey) : Bool :=
  (s.lost ++ s.damaged).any (pageHas e leaf page)

/-- The migration of a page. -/
def State.migration? (s : State) (page : PageKey) : Option Migration := s.migrations.find? fun m => m.page == page
def State.delMigration (s : State) (page : PageKey) : State :=
  { s with migrations := s.migrations.filter fun m => m.page != page }

/-- A leaf entry moved to another home and frame. -/
def moveLeaf (leaf home frame : Nat) : Nat := mkLeaf (leafVer leaf) (leafState leaf) home frame

/-- A leaf entry written, and its shootdown completed. -/
def setLeaf (s : State) (e : Nat) (page : PageKey) (leaf : Nat) : State :=
  match leafAddr s e (pageBase e page.page) with
  | some a => shootdown (writeEntry s a leaf) page
  | none => s

/-- A home and a frame that a page of a buffer may take: whole, aligned, in the pool of its stack. -/
def frameGood (s : State) (e home frame : Nat) : Bool :=
  home < 12 && (bufIlv e == 0 || home == bufStack e) && frame % pageUnits e == 0 &&
  (frame + pageUnits e) * 2 ^ 16 ≤ stackBytes && (upTo (pageUnits e)).all fun i => (poolOf s home).contains (frame + i)
/-- A frame leaves its pool. -/
def useFrame (s : State) (home frame n : Nat) : State :=
  { s with pools := aset home ((poolOf s home).filter fun x => x < frame || frame + n ≤ x) s.pools }

/-- MIGRATION_BEGIN (R388 step 1): an ILV 0 page, or an ILV 1 page within its stack. -/
def execMigrationBegin (s : State) : Host.Outcome State Fault Refusal :=
  match s.input with
  | .migrationBegin page home frame =>
    match bufOf s page.ctx page.buf with
    | none => .refused (.notEnabled "MIGRATION_BEGIN")
    | some e =>
      match walk s e (pageBase e page.page) with
      | none => .refused (.notEnabled "MIGRATION_BEGIN")
      | some leaf =>
        let t := setLeaf (useFrame s home frame (pageUnits e)) e page (withState leaf 2)
        whenEnabled "MIGRATION_BEGIN"
          (s.booted && !s.out .monument && !bufPeer e && bufIlv e != 2 && !leafBad e leaf && leafState leaf ≤ 1 &&
            (s.migration? page).isNone && !s.cows.contains page && frameGood s e home frame &&
            !leafHeld s e (pageBase e page.page))
          { t with migrations := t.migrations ++ [{ page := page, old := leaf, home := home, frame := frame, step := 1 }] }
  | _ => .refused (.notEnabled "MIGRATION_BEGIN")

/-- A migration that meets an uncorrectable error: the old frame stays, the entry is as it was before step 1, and the held
accesses replay (R388). -/
def abortMigration (s : State) (e : Nat) (m : Migration) : State :=
  let s := setLeaf (freeFrame s m.home m.frame (pageUnits e)) e m.page m.old
  replayHeld (s.delMigration m.page) m.page

/-- MIGRATION_DRAINED (R388 steps 2 and 3). -/
def execMigrationDrained (s : State) : Host.Outcome State Fault Refusal :=
  match s.input with
  | .migrationDrained page =>
    match bufOf s page.ctx page.buf, s.migration? page with
    | some e, some m =>
      let go := m.step == 1 && !pageBusy s e m.old && !frameBusy s e m.old && !leafHeld s e (pageBase e page.page)
      let t := purgeRange s (frameBytes e m.old).1 (frameBytes e m.old).2
      whenEnabled "MIGRATION_DRAINED" go
        (if pageDamaged s e m.old page then abortMigration s e m
          else { t with migrations := t.migrations.map fun n => if n.page == page then { n with step := 2 } else n })
    | _, _ => .refused (.notEnabled "MIGRATION_DRAINED")
  | _ => .refused (.notEnabled "MIGRATION_DRAINED")

/-- MIGRATION_COPY_DONE (R388 steps 4 and 5). -/
def execMigrationCopyDone (s : State) : Host.Outcome State Fault Refusal :=
  match s.input with
  | .migrationCopyDone page =>
    match bufOf s page.ctx page.buf, s.migration? page with
    | some e, some m =>
      let new := moveLeaf m.old m.home m.frame
      let go := m.step == 2 && !frameBusy s e m.old && !frameBusy s e new && !leafHeld s e (pageBase e page.page)
      let t := rebasePartials (copyFrame s e m.old new) e m.old new
      let t := freeFrame (setLeaf t e page new) (leafHome m.old) (leafFrame m.old) (pageUnits e)
      whenEnabled "MIGRATION_COPY_DONE" go
        (if pageDamaged s e m.old page then abortMigration s e m else replayHeld (t.delMigration page) page)
    | _, _ => .refused (.notEnabled "MIGRATION_COPY_DONE")
  | _ => .refused (.notEnabled "MIGRATION_COPY_DONE")

/-! ## Quarantine (25 R446) -/

/-- The entry that a page had before a migration, or now. -/
def earlierLeaf (s : State) (page : PageKey) (leaf : Nat) : Nat :=
  match s.migration? page with
  | some m => m.old
  | none => leaf

/-- A page is quarantined: STATE 3, shootdown, CODE 5. -/
def quarantine (s : State) (e : Nat) (page : PageKey) (leaf : Nat) : State :=
  let old := earlierLeaf s page leaf
  let s := match s.migration? page with
    | some m => (freeFrame s m.home m.frame (pageUnits e)).delMigration page
    | none => s
  let s := setLeaf s e page (withState old 3)
  let s := { s with cows := s.cows.filter (· ≠ page), quars := aset page old s.quars }
  let k := s.ppaPc (leafPpa e old (pageBase e page.page))
  reportEvent (replayHeld s page) (portChannel k.1 k.2) 3 5 2 (pageEa e page) 0

/-- PAGE_QUARANTINE (R446, R443). -/
def execPageQuarantine (s : State) : Host.Outcome State Fault Refusal :=
  match s.input with
  | .pageQuarantine page =>
    match bufOf s page.ctx page.buf with
    | none => .refused (.notEnabled "PAGE_QUARANTINE")
    | some e =>
      match walk s e (pageBase e page.page) with
      | none => .refused (.notEnabled "PAGE_QUARANTINE")
      | some leaf =>
        whenEnabled "PAGE_QUARANTINE"
          (s.booted && !s.out .monument && !bufPeer e && !leafBad e leaf && leafState leaf != 3 && !leafHeld s e (pageBase e page.page))
          (quarantine s e page leaf)
  | _ => .refused (.notEnabled "PAGE_QUARANTINE")

/-- Zeros to every lost line of a page. -/
def zeroLost (s : State) (e leaf : Nat) (page : PageKey) : State :=
  let bad := ((s.lost ++ s.damaged).filter (pageHas e leaf page)).eraseDups
  let s := bad.foldl (fun s line =>
    let x := pageBase e page.page + (128 * line - leafPpa e leaf (pageBase e page.page))
    let s := (discardLine s line).noteUse page.buf e x (128 * line)
    { s with dram := Memory.write s.dram (128 * line) 128 0 }) s
  { s with lost := s.lost.filter (fun l => !bad.contains l), damaged := s.damaged.filter fun l => !bad.contains l }

/-- A page restored, reported (25 R447; assumption 95, DESIGN CHOICE). -/
def reportRestored (s : State) (e : Nat) (page : PageKey) (leaf : Nat) : State :=
  let k := s.ppaPc (leafPpa e leaf (pageBase e page.page))
  reportEvent s (portChannel k.1 k.2) 3 0 2 (pageEa e page) 0

/-- PAGE_RESTORE (R446): the page moves to a good frame and has its earlier STATE; a bank-mapped page stays in its place. -/
def execPageRestore (s : State) : Host.Outcome State Fault Refusal :=
  match s.input with
  | .pageRestore page home frame =>
    match bufOf s page.ctx page.buf, aget? page s.quars with
    | some e, some old =>
      let t := purgeLines (zeroLost s e old page) (pageHas e old page)
      let new := if bufIlv e == 2 then old else moveLeaf old home frame
      let t := if bufIlv e == 2 then t else
        rebasePartials (copyFrame (useFrame t home frame (pageUnits e)) e old new) e old new
      whenEnabled "PAGE_RESTORE"
        (s.booted && !s.out .monument && !frameBusy s e old && !leafHeld s e (pageBase e page.page) &&
          (bufIlv e == 2 || (frameGood s e home frame && !frameBusy s e new)))
        (reportRestored (setLeaf { t with quars := adel page t.quars } e page new) e page new)
    | _, _ => .refused (.notEnabled "PAGE_RESTORE")
  | _ => .refused (.notEnabled "PAGE_RESTORE")

end Sys2Proof.Machine
end

