-- ==== Sys2Proof/Machine/Eligible.lean ====
section
/-! DEFINITION. When a launch becomes eligible (16_launch_scheduling.md R333, R336, R342). -/

namespace Sys2Proof.Machine

/-- Every earlier record of the launch's queue is gone, or has had every one of its blocks dispatched (R333): a kill counts as
gone (assumption 115, DESIGN CHOICE). -/
def earlierDone (s : State) (l : Launch) : Bool :=
  s.launches.all fun m => m.queue != l.queue || l.lid ≤ m.lid || m.placed || m.killed

/-- A launch may become eligible now. -/
def eligibleNow (s : State) (l : Launch) : Bool :=
  !l.eligible && !l.killed && earlierDone s l && l.held.all fun h => h

/-- A launch becomes eligible; one of no blocks counts as fully dispatched (R342). -/
def makeEligible (s : State) (l : Launch) : State :=
  let l := { l with eligible := true, since := s.ref }
  if l.nblocks == 0 then reportLaunch (s.setLaunch { l with placed := true }) l 11 0 else s.setLaunch l

/-- Every launch that may become eligible does, in queue order. -/
def refreshEligible (s : State) : State :=
  (s.launches.map (·.lid)).foldl (fun s lid =>
    match s.launch? lid with
    | some l => if eligibleNow s l then makeEligible s l else s
    | none => s) s

end Sys2Proof.Machine
end

