-- ==== Sys2Proof/Machine/Slots.lean ====
section
/-! DEFINITION. The slot table (10_core.md R234 to R244; 25_resilience.md R450): slot commands, dispatch (01_thread.md R35,
16_launch_scheduling.md R341), pre-emption, the context image, and restore. -/

namespace Sys2Proof.Machine

/-! ## Slot words (R234) -/

/-- STATE. -/
def SlotSt.code : SlotSt → Nat
  | .free => 0 | .loading => 1 | .run => 2 | .saving => 3 | .restoring => 4 | .frozen => 5 | .disabled => 6

/-- NV8 of a bind record (16 R340). -/
def bindNv8 (r : Nat) : Nat := fld r 9 5
def bindPidx (r : Nat) : Nat := fld r 17 7

/-- The slot status word; a thread that has executed EXIT in handler mode no longer counts for HND (assumption 91, DESIGN
CHOICE). -/
def slotStatus (s : State) (slot : Nat) : Nat :=
  let k := s.slot slot
  let hnd := match k.party with | some p => p.threads.any fun t => t.handler && !t.exited | none => false
  let (nv8, pidx) := match k.bind with | some b => (bindNv8 b.record, bindPidx b.record) | none => (0, 0)
  k.st.code * 2 ^ 24 + (if hnd then 2 ^ 23 else 0) + (if k.preq then 2 ^ 22 else 0) + nv8 * 2 ^ 8 + pidx

/-! ## Commands (R235, R236) -/

/-- A request for pre-emption accepted by a slot that runs; a deterministic launch holds it until the slot frees (24 R440),
unless its die is being reset, whose clusters are saved and restored (25 R452; assumption 31, DEDUCED). -/
def acceptPre (s : State) (slot : Nat) : State :=
  let k := s.slot slot
  let det : Bool := match k.party with | some p => (s.launch? p.lid).any (·.isDet) | none => false
  if det && (s.die (dieOf (coreOf slot))).reset.isNone then s.setSlot slot { k with heldPre := true }
  else s.setSlot slot { k with preq := true, heldPre := false, saveFrom := s.ref }

/-- The slot control word (R235): DEADLINE, and the requests that the core has not yet accepted. -/
def slotControl (s : State) (slot : Nat) : Nat :=
  let k := s.slot slot
  k.deadline * 2 ^ 16 + (if k.heldKill then 4 else 0) + (if k.heldHalt then 2 else 0) + if k.heldPre then 1 else 0

/-- A save is in its step 4: no copy of the party is left to wait for (R238). -/
def saveWrites (s : State) (slot : Nat) : Bool :=
  (s.slot slot).st == .saving && (s.slot slot).saveStep == 3 && !(slotOps s slot).any fun o => o.kind.isCopy && o.unsignalled

/-- HALT delivered, and reported on the core's channel (25 R447; assumption 95, DESIGN CHOICE). -/
def deliverHalt (s : State) (slot : Nat) : State :=
  reportEvent (haltParty s slot) (coreChannel (coreOf slot)) 3 0 0 0 (slot % 16)

/-- PRE (R236). -/
def slotPre (s : State) (slot : Nat) : State :=
  match (s.slot slot).st with
  | .run => acceptPre s slot
  | .loading | .restoring => s.setSlot slot { s.slot slot with heldPre := true }
  | .saving | .free | .frozen | .disabled => s
/-- HALT (R236, 25 R450). -/
def slotHalt (s : State) (slot : Nat) : State :=
  match (s.slot slot).st with
  | .run => deliverHalt s slot
  | .saving =>
    if saveWrites s slot then s.setSlot slot { s.slot slot with heldHalt := true } else deliverHalt (abandonSave s slot) slot
  | .loading | .restoring => s.setSlot slot { s.slot slot with heldHalt := true }
  | .free | .frozen | .disabled => s
/-- KILL (R236, 09 R222). -/
def slotKill (s : State) (slot : Nat) : State :=
  match (s.slot slot).st with
  | .run | .saving => killParty s slot Cause.kill 0
  | .loading | .restoring => s.setSlot slot { s.slot slot with heldKill := true }
  | .free | .frozen | .disabled => s
/-- RELEASE (R236): a FROZEN slot is freed and its registers discarded. -/
def slotRelease (s : State) (slot : Nat) : State := if (s.slot slot).st == .frozen then freeSlot s slot else s

/-- The control word written (R235): DEADLINE, then each request whose bit is 1, from bit 0 up. A DEADLINE written during a save
holds for that save (assumption 113, DESIGN CHOICE). -/
def writeControl (s : State) (slot x : Nat) : State :=
  let s := s.setSlot slot { s.slot slot with deadline := fld x 16 16 }
  let s := if bitOf x 0 then slotPre s slot else s
  let s := if bitOf x 1 then slotHalt s slot else s
  let s := if bitOf x 2 then slotKill s slot else s
  if bitOf x 3 then slotRelease s slot else s

/-- SLOT_PRE (R236): DEADLINE and the save address come with it; a save under way keeps its own. -/
def execSlotPre (s : State) : Host.Outcome State Fault Refusal :=
  match s.input with
  | .slotPre slot deadline addr =>
    .next (if (s.slot slot).st == .saving then s
      else slotPre (s.setSlot slot { s.slot slot with deadline := deadline % 2 ^ 16, saveAddr := addr }) slot)
  | _ => .refused (.notEnabled "SLOT_PRE")

/-- SLOT_HALT (R236, 25 R450). -/
def execSlotHalt (s : State) : Host.Outcome State Fault Refusal :=
  match s.input with
  | .slotHalt slot =>
    .next (slotHalt s slot)
  | _ => .refused (.notEnabled "SLOT_HALT")

/-- SLOT_KILL (R236, 09 R222). -/
def execSlotKill (s : State) : Host.Outcome State Fault Refusal :=
  match s.input with
  | .slotKill slot =>
    .next (slotKill s slot)
  | _ => .refused (.notEnabled "SLOT_KILL")

/-- SLOT_RELEASE (R236): a FROZEN slot is freed and its registers discarded. -/
def execSlotRelease (s : State) : Host.Outcome State Fault Refusal :=
  match s.input with
  | .slotRelease slot => .next (slotRelease s slot)
  | _ => .refused (.notEnabled "SLOT_RELEASE")

/-- The slot runs: what was held takes effect (R236). -/
def enterRun (s : State) (slot : Nat) : State :=
  let k := s.slot slot
  let s := s.setSlot slot { k with st := .run, heldHalt := false, heldKill := false }
  let s := if k.heldPre then acceptPre s slot else s
  let s := if k.heldHalt then deliverHalt s slot else s
  if k.heldKill then killParty s slot Cause.kill 0 else s

/-! ## Dispatch (01 R35, 16 R340, R341) -/

/-- A thread's start state (R35). -/
def startThread (l : Launch) (nv : Nat) : Thread :=
  { Thread.zero with
    pc := BitVec.ofNat 16 l.entry
    v := List.replicate nv 0#32
    fpcsr := BitVec.ofNat 32 (2 ^ 5 + if l.nvt then 2 ^ 11 else 0)
    ver := BitVec.ofNat 32 l.ver0 }

/-- The uniform registers at the start (R35). -/
def startW (l : Launch) (x y z pidx : Nat) : List Word :=
  l.args.take 32 ++ List.replicate (32 - l.args.length) 0#32 ++ [x, y, z, pidx].map (BitVec.ofNat 32) ++
    List.replicate 124 0#32

/-- A party at its start on a slot. -/
def startParty (l : Launch) (b : Block) (pidx : Nat) : Party :=
  { lid := l.lid, blin := b.blin, x := BitVec.ofNat 32 b.x, y := BitVec.ofNat 32 b.y, z := BitVec.ofNat 32 b.z,
    rank := pidx * l.cores / l.ppb, pidx := pidx, nv := l.nv, w := startW l b.x b.y b.z pidx,
    g := List.replicate 4 0#32, bars := List.replicate 16 Bar.init, threads := List.replicate 64 (startThread l l.nv),
    esc := none }

/-- The rank at which a party of a launch's blocks stands first (14 R301). -/
def Launch.rankOf (l : Launch) (p : Nat) : Nat := p * l.cores / l.ppb

/-- A bind record (16 R340): the party's rank and declared v count divided by 8 given. -/
def bindRecord (kind lctx pidx rank nv8 : Nat) (b : Block) (image : Nat) : Nat :=
  kind * 2 ^ 28 + lctx % 16 * 2 ^ 24 + pidx * 2 ^ 17 + rank * 2 ^ 14 + nv8 * 2 ^ 9 + b.clrank +
    2 ^ 32 * (b.x % 2 ^ 32) + 2 ^ 64 * (b.y % 2 ^ 32) + 2 ^ 96 * (b.z % 2 ^ 32) + 2 ^ 128 * (image % 2 ^ 64)

/-- The block that a bind record names: by its coordinates. -/
def bindBlock (s : State) (lid record : Nat) : Option Block :=
  s.blocks.find? fun b =>
    b.lid == lid && b.x == fld record 32 32 && b.y == fld record 64 32 && b.z == fld record 96 32

/-- The launch's place in a core's launch table of 16 entries, its own or the lowest that is free (16 R340); 16 where none
is. -/
def tableIndex (s : State) (core lid : Nat) : Nat :=
  let t := (s.core core).table
  match t.find? fun e => e.2 == lid with
  | some e => e.1
  | none => ((upTo 16).find? fun i => !t.any fun e => e.1 == i).getD 16
/-- The bind core fills the launch's entry of a core's launch table. -/
def joinTable (s : State) (core lid : Nat) : State :=
  let c := s.core core
  if c.table.any fun e => e.2 == lid then s else s.setCore core { c with table := c.table ++ [(tableIndex s core lid, lid)] }

/-- CFETCH of segments of a launch by a core itself, counted in no thread. -/
def fetchSegs (s : State) (slot lid : Nat) (which : Nat → Bool) : State :=
  (upTo 64).foldl (fun s g =>
    if which g then segApply (s.addOp slot lid [] none 0 (.cfetch g false) []) (coreOf slot) lid g s.seq false else s) s

/-- The resident segments of a launch are fetched when a party arrives at a core that lacks them (16 R338; assumption 96,
DEDUCED). -/
def fetchResident (s : State) (slot : Nat) (l : Launch) : State :=
  fetchSegs s slot l.lid fun g =>
    bitOf l.resMap g &&
    match (segAt s (coreOf slot) l.lid g).st with
    | .absent | .dropping => true
    | .fetching | .landed | .failed _ => false

/-- Every party of every block of a launch has been dispatched. -/
def allBound (s : State) (l : Launch) : Bool :=
  l.pending.isEmpty && (s.blocks.filter fun b => b.lid == l.lid).all fun b => b.bound.length == l.ppb

/-- The bind core writes a bind record for a slot: the slot is FREE and unreserved, and the die takes work (25 R451). -/
def bindTakes (s : State) (slot : Nat) : Bool :=
  let die := dieOf (coreOf slot)
  bindUp s die && !(s.die die).stopped && (s.slot slot).st == .free && !(s.slot slot).reserved

/-- A bind record is right for a slot: a party of a placed block on its rank's core. -/
def bindOk (s : State) (slot record kind : Nat) (l : Launch) (b : Block) : Bool :=
  let pidx := bindPidx record
  let lctx := tableIndex s (coreOf slot) l.lid
  bindTakes s slot && lctx < 16 && pidx < l.ppb && !b.ended && b.saved.isNone && coreOf slot == b.core + l.rankOf pidx &&
  (l.pgn == 0 || l.group.isSome) && record == bindRecord kind lctx pidx (l.rankOf pidx) (l.nv / 8) b (fld record 128 64)

/-- BIND_DISPATCH (16 R341, R340): the launch's first bind record is reported STARTED, its last dispatch PLACED (R347). -/
def execBindDispatch (s : State) : Host.Outcome State Fault Refusal :=
  match s.input with
  | .bindDispatch slot lid record =>
    match s.launch? lid, bindBlock s lid record with
    | some l, some b =>
      let core := coreOf slot
      let t := fetchResident (joinTable s core lid) slot l
      let t := t.setSlot slot { t.slot slot with st := .loading, bind := some { lid := lid, record := record }, imageHold := none }
      let t := t.setBlock { b with bound := b.bound ++ [bindPidx record] }
      let t := if l.started then t else reportLaunch (t.setLaunch { l with started := true }) l 10 0
      let t := match t.launch? lid with
        | some l =>
          if allBound t l && !l.placed then refreshEligible (reportLaunch (t.setLaunch { l with placed := true }) l 11 0) else t
        | none => t
      whenEnabled "BIND_DISPATCH"
        (bindOk s slot record 1 l b && fld record 128 64 == 0 && !b.bound.contains (bindPidx record)) t
    | _, _ => .refused (.notEnabled "BIND_DISPATCH")
  | _ => .refused (.notEnabled "BIND_DISPATCH")

/-- The faulting image address of a resident segment that failed, if one did. -/
def residentFailed (s : State) (core : Nat) (l : Launch) : Option Nat :=
  (upTo 64).findSome? fun g =>
    if bitOf l.resMap g then match (segAt s core l.lid g).st with | .failed a => some a | _ => none else none
def residentLanded (s : State) (core : Nat) (l : Launch) : Bool :=
  (upTo 64).all fun g => !bitOf l.resMap g || (segAt s core l.lid g).st == .landed

/-- DISPATCH_START (16 R341): the start state is set and the threads start, an acquire at .sy (R337); a resident segment
that failed freezes the party. -/
def execDispatchStart (slot : Nat) (s : State) : Host.Outcome State Fault Refusal :=
  let k := s.slot slot
  match k.bind with
  | none => .refused (.notEnabled "DISPATCH_START")
  | some bd =>
    match s.launch? bd.lid, bindBlock s bd.lid bd.record with
    | some l, some b =>
      let p := startParty l b (bindPidx bd.record)
      let core := coreOf slot
      let t := s.setSlot slot { k with party := some p }
      match residentFailed s core l with
      | some a =>
        whenEnabled "DISPATCH_START" (k.st == .loading && fld bd.record 28 4 == 1)
          (freeze t slot p { cause := Cause.segFailed, faddr := a, pc := l.entry, tid := 0 })
      | none =>
        whenEnabled "DISPATCH_START" (k.st == .loading && fld bd.record 28 4 == 1 && residentLanded s core l)
          (enterRun (acquire t core 8) slot)
    | _, _ => .refused (.notEnabled "DISPATCH_START")

/-! ## Saving (R238 to R240) -/

/-- SAVE_BEGIN (R238 step 1): what is pending for a thread is delivered first (R240). -/
def execSaveBegin (slot : Nat) (s : State) : Host.Outcome State Fault Refusal :=
  let k := s.slot slot
  match k.party with
  | none => .refused (.notEnabled "SAVE_BEGIN")
  | some p =>
    whenEnabled "SAVE_BEGIN"
      (slotLive s slot && k.preq && k.migr.isNone && !p.threads.any fun t => (t.handler && !t.exited) || t.deliverable)
      (s.setSlot slot { k with st := .saving, saveStep := 2 })

/-- A tile command's accumulator and scratchpad work is done (12 R292): it has left the engine's queue. -/
def tileWorkDone (s : State) (o : Op) : Bool := o.phase ≠ .issued && !(s.core (coreOf o.slot)).tileQ.contains o.id

/-- What step 2 waits for (R238). -/
def saveWaits (s : State) (slot : Nat) : Bool :=
  (slotOps s slot).any fun o =>
    match o.kind with
    | .tile .. => !tileWorkDone s o
    | _ => o.drains

/-- SAVE_DRAINED (R238 step 2): a shadow reference that still runs is cut off (12 R292). -/
def execSaveDrained (slot : Nat) (s : State) : Host.Outcome State Fault Refusal :=
  let k := s.slot slot
  whenEnabled "SAVE_DRAINED" (k.st == .saving && k.saveStep == 2 && !saveWaits s slot)
    (cutShadows (s.setSlot slot { k with saveStep := 3 }) slot fun _ => true)

/-- SAVE_DEADLINE_EXPIRY (R238 step 3, R239): copies outstanding are cancelled and kept for the image. -/
def execSaveDeadlineExpiry (slot : Nat) (s : State) : Host.Outcome State Fault Refusal :=
  let k := s.slot slot
  let copies := (slotOps s slot).filter fun o => o.kind.isCopy && o.unsignalled
  let saved := copies.filterMap fun o =>
    match o.kind with
    | .copy _ desc pfx ins seq .. =>
      some { tid := o.tids.headD 0, cpc := o.pc, seq := seq, pfx := pfx, ins := ins, desc := desc : SavedCopy }
    | _ => none
  let t := cancelCopies s slot Op.unsignalled
  whenEnabled "SAVE_DEADLINE_EXPIRY"
    (k.st == .saving && k.saveStep == 3 && k.saveFrom + 1024 * k.deadline ≤ s.ref && !copies.isEmpty)
    (t.setSlot slot { t.slot slot with cancelled := k.cancelled ++ saved })

/-! ## The context image (R241, R242) -/

/-- The 32-bit words of a value, low first. -/
def wordsOf : Nat → Nat → List Nat
  | 0, _ => []
  | n + 1, x => x % 2 ^ 32 :: wordsOf n (x / 2 ^ 32)
/-- A value from its words. -/
def ofWords : List Nat → Nat
  | [] => 0
  | w :: ws => w % 2 ^ 32 + 2 ^ 32 * ofWords ws

/-- One step of CRC-32C (Castagnoli, reflected). -/
def crcBit (c : Nat) : Nat := if c % 2 == 1 then Nat.xor (c / 2) 0x82F63B78 else c / 2
def crcByte (c b : Nat) : Nat := (upTo 8).foldl (fun c _ => crcBit c) (Nat.xor c b)
/-- CRC-32C of a list of words, bytes low first. -/
def crc32c (ws : List Nat) : Nat :=
  Nat.xor (ws.foldl (fun c w => (upTo 4).foldl (fun c i => crcByte c (byteAt w i)) c) 0xFFFFFFFF) 0xFFFFFFFF

/-- The barrier that a thread waits at, or whose arrival it keeps at its PC. -/
def Thread.barWait (t : Thread) : Option (Nat × Nat × Nat) :=
  match t.hold with
  | some (.bar scope idx phase _) => some (scope, idx, phase)
  | _ => t.barKept.bind fun k => if k.1 == t.pc then some k.2 else none

/-- A thread record: 16 words and the v registers. -/
def threadWords (t : Thread) : List Nat :=
  let (bsc, bix, bph) := t.barWait.getD (0, 0, 0)
  [t.pc.toNat + 2 ^ 24 * (bix + 16 * bsc), bph, t.lat.toNat, t.latx.toNat] ++ t.o.map (·.toNat) ++
    wordsOf 2 t.draw.toNat ++ [t.fpcsr.toNat, t.ver.toNat, t.tpc.toNat % 2 ^ 16 * 2 ^ 16 + t.cause.toNat % 256,
    t.tinfo.toNat] ++ wordsOf 2 t.taddr.toNat ++ t.v.map (·.toNat)

/-- A cancelled copy: 16 words. -/
def copyWords (c : SavedCopy) : List Nat :=
  [c.tid + 2 ^ 16 * c.cpc.toNat, c.seq % 2 ^ 32, c.pfx.toNat, c.ins.toNat] ++ wordsOf 12 c.desc

/-- The mask of the threads of a party that meet a condition. -/
def Party.maskOf (p : Party) (f : Thread → Bool) : Nat := tidMask ((upTo 64).filter fun t => f (p.thread t))

/-- Segments of a launch on a core that are LANDED or FETCHING. -/
def residentMask (s : State) (core lid : Nat) : Nat :=
  tidMask ((upTo 64).filter fun g => match (segAt s core lid g).st with | .landed | .fetching => true | _ => false)

/-- The size of an image. -/
def imageSize (nv ncp : Nat) : Nat := 896 + 64 * (64 + 4 * nv) + 64 * ncp

/-- The header with the CRC given. -/
def headerWords (s : State) (slot : Nat) (p : Party) (ncp crc : Nat) : List Nat :=
  [128 * 2 ^ 16 + 1, 64 * 256 + p.nv, p.blin % 2 ^ 32, ncp * 2 ^ 16 + p.rank * 256 + p.pidx] ++ wordsOf 2 p.lid ++
    wordsOf 2 (residentMask s (coreOf slot) p.lid) ++ wordsOf 2 s.ref ++ [imageSize p.nv ncp, crc] ++ List.replicate 20 0

/-- The words after the header. -/
def bodyWords (p : Party) (copies : List SavedCopy) : List Nat :=
  p.w.map (·.toNat) ++ p.bars.map (fun b => b.phase + 2 ^ 8 * b.arrived + 2 ^ 16 * p.running) ++
    wordsOf 2 (p.maskOf (·.exited)) ++
    wordsOf 2 (p.maskOf fun t => match t.hold with | some (.xl _) => true | _ => false) ++
    wordsOf 2 (p.maskOf fun t => !t.exited && t.barWait.isSome) ++ List.replicate 10 0 ++
    p.threads.flatMap threadWords ++ copies.flatMap copyWords

/-- A context image as words. -/
def imageOf (s : State) (slot : Nat) (p : Party) (copies : List SavedCopy) : List Nat :=
  let body := bodyWords p copies
  headerWords s slot p copies.length (crc32c (headerWords s slot p copies.length 0 ++ body)) ++ body

/-- Words written eight at a time. -/
def writeWords (g : Ag) : Nat → State → Nat → List Nat → Got
  | 0, s, _, _ => .ok 0 s
  | n + 1, s, ea, ws =>
    if ws.isEmpty then .ok 0 s
    else match writeEa s g ea (4 * (ws.take 8).length) (ofWords (ws.take 8)) with
      | .ok _ s => writeWords g n s (eaAdd ea 32) (ws.drop 8)
      | r => r
/-- n words read eight at a time. -/
def readWords (g : Ag) : Nat → State → Nat → Nat → Except Got (List Nat × State)
  | 0, s, _, _ => .ok ([], s)
  | f + 1, s, ea, n =>
    if n = 0 then .ok ([], s)
    else match readEa s g ea (4 * min n 8) with
      | .ok x s =>
        match readWords g f s (eaAdd ea 32) (n - 8) with
        | .ok (ws, s) => .ok (wordsOf (min n 8) x ++ ws, s)
        | .error e => .error e
      | r => .error r

/-- The context image write is checked as a write of its whole range (R238 step 4). -/
def imageCheck (s : State) (l : Launch) (ea size : Nat) (write : Bool) : Option Nat :=
  checkEa s l { size := size, align := 64, r := !write, w := write, scr := false, acc := false } ea

/-- What a block keeps of a party that is saved: beside what its image holds, its arrivals (06 R151; assumption 82, DESIGN
CHOICE). -/
def savedParty (p : Party) (addr : Nat) : SavedParty :=
  let tid := ((upTo 64).find? fun t => !(p.thread t).exited).getD 0
  { pidx := p.pidx, addr := addr, live := p.running, rank := p.rank, gone := (upTo 64).filter fun t => (p.thread t).exited,
    marks := (upTo 64).flatMap fun t => (p.thread t).arrivals.map fun a => (t, a.1, a.2.1, a.2.2)
    tag := ringTag (p.thread tid).pc.toNat tid }

/-- An access of a save or of a restore to its image is held at an address: its wait begins unless it has. -/
def holdImage (s : State) (slot ea : Nat) : State :=
  let k := s.slot slot
  if k.imageHold.any fun h => h.1 == ea then s else s.setSlot slot { k with imageHold := some (ea, s.ref) }
/-- That wait has lasted too long (19 R387, 28 R472). -/
def imageStuck (s : State) (slot ctx ea : Nat) : Bool :=
  (s.slot slot).imageHold.any fun h => h.1 == ea && pastLimit s h.2 (waitLimit s ctx ea)
/-- The wait is not noted yet, so noting it is a step. -/
def imageNew (s : State) (slot ea : Nat) : Bool := !(s.slot slot).imageHold.any fun h => h.1 == ea

/-- SAVE_COMPLETE (R238 step 4, R240): the image is written and the slot is freed; a fault on an image write escalates the
party with its cause. A write that is held waits, and too long a wait is a fault (19 R387). -/
def execSaveComplete (slot : Nat) (s : State) : Host.Outcome State Fault Refusal :=
  let k := s.slot slot
  match k.party with
  | none => .refused (.notEnabled "SAVE_COMPLETE")
  | some p =>
    match s.launch? p.lid, s.block? p.lid p.blin with
    | some l, some b =>
      let g := plainAg (coreOf slot) l.ctx
      let ws := imageOf s slot p k.cancelled
      let busy := (slotOps s slot).any fun o => match o.kind with | .cfetch .. => false | _ => true
      let ready := k.st == .saving && k.saveStep == 3 && !busy
      let fail := fun (s : State) c a =>
        killParty s slot c a
      match imageCheck s l k.saveAddr (4 * ws.length) true with
      | some c => whenEnabled "SAVE_COMPLETE" ready (fail s c k.saveAddr)
      | none =>
        match writeWords g ws.length s k.saveAddr ws with
        | .ok _ t =>
          whenEnabled "SAVE_COMPLETE" ready
            (clearSlot (t.setBlock { b with images := savedParty p k.saveAddr :: b.images.filter fun e => e.pidx ≠ p.pidx }) slot)
        | .hold a t =>
          let began := newHold s t
          let s := (s.keepHold t)
          if imageStuck s slot l.ctx a then
            whenEnabled "SAVE_COMPLETE" ready (fail s (if isPeerEa s l.ctx a then Cause.peerFail else Cause.migrStuck) a)
          else whenEnabled "SAVE_COMPLETE" (ready && (began || imageNew s slot a)) (holdImage s slot a)
        | .busy _ => .refused (.notEnabled "SAVE_COMPLETE")
        | .fault c a t => whenEnabled "SAVE_COMPLETE" ready (fail t c a)
    | _, _ => .refused (.notEnabled "SAVE_COMPLETE")

/-! ## Restore (R243, R244) -/

/-- Word i of a list. -/
def wd (ws : List Nat) (i : Nat) : Nat := ws.getD i 0
/-- A 64-bit field at word i. -/
def dwd (ws : List Nat) (i : Nat) : Nat := wd ws i + 2 ^ 32 * wd ws (i + 1)

/-- The reserved fields of an image are zero. -/
def imageZero (ws : List Nat) (nv ncp : Nat) : Bool :=
  fld (wd ws 1) 16 16 == 0 && fld (wd ws 3) 11 5 == 0 && fld (wd ws 3) 7 1 == 0 &&
  ((ws.drop 12).take 20).all (· == 0) &&
  ((ws.drop 192).take 16).all (fun b => fld b 15 1 == 0 && fld b 23 9 == 0) &&
  ((ws.drop 214).take 10).all (· == 0) &&
  (upTo 64).all (fun t =>
    let o := 224 + t * (16 + nv)
    fld (wd ws o) 16 8 == 0 && fld (wd ws o) 31 1 == 0 && fld (wd ws (o + 1)) 8 24 == 0 && fld (wd ws (o + 10)) 12 20 == 0 &&
    fld (wd ws (o + 12)) 8 8 == 0) &&
  (upTo ncp).all (fun c => fld (wd ws (224 + 64 * (16 + nv) + 16 * c)) 6 10 == 0)

/-- The image passes its check (R243). -/
def imageGood (ws : List Nat) (nv : Nat) : Bool :=
  let ncp := fld (wd ws 3) 16 16
  wd ws 0 == 128 * 2 ^ 16 + 1 && fld (wd ws 1) 8 8 == 64 && fld (wd ws 1) 0 8 == nv &&
  wd ws 10 == imageSize nv ncp && imageZero ws nv ncp && crc32c (ws.set 11 0) == wd ws 11

/-- A thread from its record (R244); a BARWAIT thread goes on waiting for its phase (06 R152). -/
def threadOf (ws : List Nat) (nv t : Nat) : Thread :=
  let o := 224 + t * (16 + nv)
  let bar := fun i => bitOf (dwd ws i) t
  let w := fun i => BitVec.ofNat 32 (wd ws (o + i))
  let pc := BitVec.ofNat 16 (wd ws o)
  let key := (fld (wd ws o) 28 3, fld (wd ws o) 24 4, fld (wd ws (o + 1)) 0 8)
  { Thread.zero with
    pc := pc
    lat := w 2
    latx := w 3
    o := [w 4, w 5, w 6, w 7]
    draw := BitVec.ofNat 64 (dwd ws (o + 8))
    fpcsr := w 10
    ver := w 11
    tpc := BitVec.ofNat 32 (fld (wd ws (o + 12)) 16 16)
    cause := BitVec.ofNat 32 (fld (wd ws (o + 12)) 0 8)
    tinfo := w 13
    taddr := BitVec.ofNat 64 (dwd ws (o + 14))
    v := (upTo nv).map fun i => BitVec.ofNat 32 (wd ws (o + 16 + i))
    exited := bar 208
    barKept := if bar 212 && !bar 208 then some (pc, key) else none }

/-- The cancelled copies of an image. -/
def copiesOf (ws : List Nat) (nv : Nat) : List SavedCopy :=
  (upTo (fld (wd ws 3) 16 16)).map fun c =>
    let o := 224 + 64 * (16 + nv) + 16 * c
    { tid := fld (wd ws o) 0 6, cpc := BitVec.ofNat 16 (fld (wd ws o) 16 16), seq := wd ws (o + 1),
      pfx := BitVec.ofNat 32 (wd ws (o + 2)), ins := BitVec.ofNat 32 (wd ws (o + 3)),
      desc := ofWords ((ws.drop (o + 4)).take 12) }

/-- The party of an image with its declared v count, for the block and rank of its bind record. Its next copy is numbered
after those of the image (assumption 93, DESIGN CHOICE). -/
def partyOf (ws : List Nat) (l : Launch) (b : Block) (pidx rank nv : Nat) : Party :=
  { startParty l b pidx with
    rank := rank
    nv := nv
    copySeq := (copiesOf ws nv).foldl (fun n c => max n (c.seq + 1)) 0
    w := (upTo 160).map fun i => BitVec.ofNat 32 (wd ws (32 + i))
    bars := (upTo 16).map fun i => { phase := fld (wd ws (192 + i)) 0 8, arrived := fld (wd ws (192 + i)) 8 7 }
    threads := (upTo 64).map (threadOf ws nv) }

/-- A party all of whose registers are zero: an image that fails its check loads nothing (R243). What had exited stays so,
and CTX_LOST escalates it. -/
def zeroParty (l : Launch) (b : Block) (pidx rank nv image : Nat) (gone : List Nat) : Party :=
  { startParty l b pidx with
    rank := rank
    nv := nv
    w := List.replicate 160 0#32
    esc := some { cause := Cause.ctxLost, faddr := image, pc := 0, tid := 0 }
    threads := (upTo 64).map fun t => { Thread.zero with v := List.replicate nv 0#32, exited := gone.contains t } }

/-- A CFETCH for every segment that an image names and that is not LANDED, whatever the budget (R244 step 1; assumption 90,
DESIGN CHOICE). -/
def fetchMask (s : State) (slot lid mask : Nat) : State :=
  fetchSegs s slot lid fun g => bitOf mask g && (segAt s (coreOf slot) lid g).st != .landed

/-- A party installed in a slot that restores. -/
def installRestore (s : State) (slot lid record : Nat) (p : Party) (copies : List SavedCopy) (mask : Nat) : State :=
  let s := fetchMask (joinTable s (coreOf slot) lid) slot lid mask
  s.setSlot slot { s.slot slot with st := .restoring, bind := some { lid := lid, record := record }, party := some p,
                                    cancelled := copies, imageHold := none }

/-- The threads of a party that have not exited leave the barriers of the old core and join those of the new one. -/
def moveMembers (s : State) (old new : Nat) (p q : Party) : State :=
  let n := p.running
  [3, 4].foldl (fun s c =>
    match barInst s old p c 0, barInst s new q c 0 with
    | some i, some j => if i == j then s else leaveInst (joinInst s j n) i n
    | _, _ => s) s

/-- An arrival of a thread marked, its kept wait with it. -/
def Thread.arrive (t : Thread) (scope idx phase : Nat) : Thread :=
  { t with
    arrivals := t.arrivals ++ [(scope, idx, phase)]
    barKept := t.barKept.map fun k => if k.2.1 == scope && k.2.2.1 == idx then (k.1, scope, idx, phase) else k }

/-- The barriers that a saved party's mark names on its old core and on its new one. -/
def markLocs (s : State) (old slot : Nat) (p : Party) (m : Nat × Nat × Nat × Nat) : Option (BarLoc × BarLoc) :=
  match barLoc s old p m.2.1 m.2.2.1, barLoc s slot p m.2.1 m.2.2.1 with
  | some i, some j => some (i, j)
  | _, _ => none

/-- A restored party's threads have arrived where they had and the phase stands (06 R151, R152). On another core of the
block it leaves the instances of the old core for those of the new one, and its arrivals there go with it; a phase that passed meanwhile is
compared with the barrier of the core it enters (14 R308; assumption 94, DESIGN CHOICE). -/
def rejoin (s : State) (old slot : Nat) (marks : List (Nat × Nat × Nat × Nat)) : State :=
  match s.party? slot with
  | none => s
  | some p =>
    let live := marks.filter fun m => match markLocs s old slot p m with
      | some (i, j) => barPhase s (if i == j then slot else old) i == m.2.2.2
      | none => false
    let moves := live.filter fun m => match markLocs s old slot p m with | some (i, j) => i != j | none => false
    let s := moves.foldl (fun s m => match markLocs s old slot p m with | some (i, _) => withdraw s slot i | none => s) s
    let s := moveMembers s old slot p p
    let s := live.foldl (fun s m => match markLocs s old slot p m, s.party? slot with
      | some (i, j), some q =>
        let t := (q.thread m.1).arrive m.2.1 m.2.2.1 (barPhase s slot j)
        let s := s.setParty slot (q.setThread m.1 t)
        if i == j then s else addArrival s slot j 1
      | _, _ => s) s
    moves.foldl (fun s m => match markLocs s old slot p m with | some (_, j) => checkBar s slot j | none => s) s

/-- What reading a context image gives. -/
inductive ImageRead where
  | good (ws : List Nat) (s : State)
  /-- the image fails its check, or a read of it faults -/
  | bad (s : State)
  | hold (ea : Nat) (s : State)
  | busy

/-- An image read that has not gone through. -/
def ImageRead.ofGot : Got → ImageRead
  | .ok _ s | .fault _ _ s => .bad s
  | .hold ea s => .hold ea s
  | .busy _ => .busy

/-- A context image read and checked against a declared v count (R243). -/
def readImage (s : State) (l : Launch) (g : Ag) (image nv : Nat) : ImageRead :=
  if (imageCheck s l image 896 false).isSome then .bad s
  else match readWords g 112 s image 224 with
  | .error r => .ofGot r
  | .ok (h, s) =>
    let size := imageSize nv (fld (wd h 3) 16 16)
    if (imageCheck s l image size false).isSome then .bad s
    else match readWords g (size / 4) s image (size / 4) with
    | .error r => .ofGot r
    | .ok (ws, s) => if imageGood ws nv then .good ws s else .bad s

/-- A record is right for a restore of a saved party of a block on a core of the block: its NV8 is the record's own. -/
def restoreOk (s : State) (slot record : Nat) (l : Launch) (b : Block) : Bool :=
  let lctx := tableIndex s (coreOf slot) l.lid
  let nv8 := bindNv8 record
  bindTakes s slot && lctx < 16 && bindPidx record < l.ppb && !b.ended && b.saved.isNone && b.core ≤ coreOf slot &&
  coreOf slot < b.core + l.cores && 1 ≤ nv8 && nv8 ≤ 24 &&
  record == bindRecord 2 lctx (bindPidx record) (coreOf slot - b.core) nv8 b (fld record 128 64)

/-- A party that a block keeps as saved enters a slot that restores. -/
def restoreParty (s : State) (slot record : Nat) (b : Block) (e : SavedParty) (p : Party) (copies : List SavedCopy)
    (mask : Nat) : State :=
  let s := match s.block? b.lid b.blin with
    | some b => s.setBlock { b with images := b.images.filter fun x => x.pidx ≠ e.pidx }
    | none => s
  rejoin (installRestore s slot b.lid record p copies mask) (16 * (b.core + e.rank)) slot e.marks

/-- BIND_RESTORE (R243): the image is read and checked; a failure loads nothing, and CTX_LOST freezes the party, the record
carrying the image address (assumption 57, DEDUCED). A read that is held waits, and too long a wait is a failure. -/
def execBindRestore (s : State) : Host.Outcome State Fault Refusal :=
  match s.input with
  | .bindRestore slot lid record _ =>
    match s.launch? lid, bindBlock s lid record with
    | some l, some b =>
      match b.images.find? fun e => e.pidx == bindPidx record with
      | none => .refused (.notEnabled "BIND_RESTORE")
      | some e =>
        let image := fld record 128 64
        let rank := coreOf slot - b.core
        let nv := 8 * bindNv8 record
        let ok := restoreOk s slot record l b
        let lost := fun (t : State) => restoreParty t slot record b e (zeroParty l b e.pidx rank nv image e.gone) [] 0
        match readImage s l (plainAg (coreOf slot) l.ctx) image nv with
        | .good ws t =>
          whenEnabled "BIND_RESTORE" ok
            (restoreParty t slot record b e (partyOf ws l b e.pidx rank nv) (copiesOf ws nv) (dwd ws 6))
        | .bad t => whenEnabled "BIND_RESTORE" ok (lost t)
        | .hold ea t =>
          let began := newHold s t
          let s := (s.keepHold t)
          if imageStuck s slot l.ctx ea then whenEnabled "BIND_RESTORE" ok (lost s)
          else whenEnabled "BIND_RESTORE" (ok && (began || imageNew s slot ea)) (holdImage s slot ea)
        | .busy => .refused (.notEnabled "BIND_RESTORE")
    | _, _ => .refused (.notEnabled "BIND_RESTORE")
  | _ => .refused (.notEnabled "BIND_RESTORE")

/-- A segment that a restored party needs: one that holds a PC of a thread that has not exited, or the handler's. -/
def restoreNeeds (s : State) (p : Party) (g : Nat) : Bool :=
  handlerSeg s p.lid g || p.threads.any fun t => !t.exited && segOf t.pc == g

/-- RESTORE_START (R244): required segments have landed or failed; the move is a FENCE.ar at .pk (08 R212). -/
def execRestoreStart (slot : Nat) (s : State) : Host.Outcome State Fault Refusal :=
  let k := s.slot slot
  match k.party with
  | none => .refused (.notEnabled "RESTORE_START")
  | some p =>
    let core := coreOf slot
    let ready := (upTo 64).all fun g =>
      !restoreNeeds s p g || (segAt s core p.lid g).st.fetchable || (match (segAt s core p.lid g).st with | .failed _ => true | _ => false)
    let t := s.setSlot slot { k with cancelled := [] }
    whenEnabled "RESTORE_START" (k.st == .restoring && p.esc.isNone && ready)
      (enterRun (acquire (reissueCopies t slot p.lid k.cancelled) core 6) slot)

end Sys2Proof.Machine
end

