-- ==== Sys2Proof/Machine/Migrate.lean ====
section
/-! DEFINITION. MIGR (14_cluster.md R312 to R314): the party moves to another core of its block. -/

namespace Sys2Proof.Machine

/-! ## The target rank (R313) -/

/-- The home stack of an address's page; none where it has no usable home (NOHOME). -/
def homeOf (s : State) (ctx ea : Nat) : Option Nat :=
  match bufOf s ctx (eaIdx ea) with
  | none => none
  | some e =>
    if bufPeer e || bufLen e ≤ eaOff ea then none
    else match walk s e (eaOff ea) with
      | none => none
      | some leaf => if leafBad e leaf || leafState leaf == 2 || leafState leaf == 3 then none else some (leafHome leaf)

/-- The rank with the fewest hops to a stack's port: ties to the current rank, then the lowest. -/
def nearestRank (core0 n cur stack : Nat) : Nat :=
  let h := fun r => Config.hops (core0 + r) stack
  (upTo n).foldl (fun best r => if h r < h best || (h r == h best && r < best && best != cur) then r else best) cur

/-- A FREE slot of a core that nothing reserves. -/
def freeSlotOf (s : State) (core : Nat) : Option Nat :=
  (slotsOf core).find? fun k => (s.slot k).st == .free && !(s.slot k).reserved

/-- A thread has arrived in the current phase of a .co barrier, or of a .qd barrier whose quad would change. -/
def arrivedNear (p : Party) (cur r : Nat) : Bool :=
  p.threads.any fun t => !t.exited && t.arrivals.any fun a => a.1 == 3 || (a.1 == 4 && cur / 4 != r / 4)

/-- MIGR's traps, in order. -/
def migrTrap (s : State) (cx : Cx) (a b : Nat) : Option Trap :=
  if fld b 4 28 != 0 then some { cause := Cause.migrBad, tinfo := 1 }
  else if bitOf b 3 && cx.launch.cores ≤ fld b 0 3 then some { cause := Cause.migrBad, tinfo := 2 }
  else if eaIdx a == 0 then some { cause := Cause.addrNull, taddr := a, tinfo := memInfo 1 false false true }
  else if isWin a then some { cause := Cause.migrBad, taddr := a, tinfo := 3 }
  else if (bufOf s cx.launch.ctx (eaIdx a)).isNone then
    some { cause := Cause.bufInvalid, taddr := a, tinfo := memInfo 1 false false true }
  else none

/-- The walk to the page's entry is held at a port (21 R413). -/
def homeHeld (s : State) (cx : Cx) (a b : Nat) : Bool :=
  !bitOf b 3 && (bufOf s cx.launch.ctx (eaIdx a)).any fun e => !bufPeer e && eaOff a < bufLen e && walkBusy s cx.die e (eaOff a)

/-- The rank that MIGR chooses, none for NOHOME. -/
def migrRank (s : State) (cx : Cx) (core0 a b : Nat) : Option Nat :=
  if bitOf b 3 then some (fld b 0 3)
  else (homeOf s cx.launch.ctx a).map fun h => nearestRank core0 cx.launch.cores cx.party.rank h

/-! ## The move (R313, R314) -/

/-- Every thread's counters are zero. -/
def Party.drained (p : Party) : Bool := p.threads.all fun t => t.cnt == { cf := t.cnt.cf }

/-- A deferred or asynchronous cause is pending in a thread of the party. -/
def Party.causePending (p : Party) : Bool := p.threads.any fun t => !t.exited && (!t.pend.isEmpty || !t.async.isEmpty)

/-- The party after a MIGR that ends without a move: a thread in BAR, whose barrier may have moved on meanwhile, stands at
its BAR again and keeps its arrival (06 R152). -/
def Party.unmoved (p : Party) : Party :=
  { p with threads := p.threads.map fun t => match t.hold with
    | some (.bar ..) => t.dropHold
    | some (.xl _) | some (.waitc ..) | some (.read ..) | none => t }

/-- The group completes MIGR with a status. -/
def Cx.migrEnd (cx : Cx) (s : State) (x : Nat) : State :=
  let cx := { cx with party := cx.party.write cx.dreg cx.dwidth x }
  cx.mapGroup s cx.advance

/-- A thread as the message carries it: counters at zero, h at zero, a wait left (R314). -/
def Thread.moved (t : Thread) : Thread :=
  { t.dropHold with h := List.replicate 8 0#32, cnt := { t.cnt with ld := 0, st := 0, cp := 0, tl := 0, bk := 0, gx := 0, cf := 0 },
                    fence := [] }

/-- The party is installed on its new slot, and the old slot is freed. -/
def migrMove (s : State) (cx : Cx) (m : Migr) : State :=
  let old := cx.slot
  let status := m.rank * 2 ^ 8
  let s := cutShadows (cx.migrEnd s status) old fun _ => true
  match s.party? old with
  | none => s
  | some p =>
    let q := { p with rank := m.rank, g := List.replicate 4 0#32, threads := p.threads.map Thread.moved }
    let record := match (s.slot old).bind with | some b => setFld b.record 14 3 m.rank | none => 0
    let mask := residentMask s (coreOf old) p.lid
    let s := installRestore s m.slot p.lid record q [] mask
    let s := s.setSlot m.slot { s.slot m.slot with reserved := false }
    clearSlot (moveMembers s old m.slot p q) old

/-- MIGR (R313): the checks and the reservation when the group first issues it; when the party has drained, the move (assumption 68, DEDUCED). -/
def execMigr (d a b : BitVec 8) (s : State) : Host.Outcome State Fault Refusal :=
  runWord s (.migr d a b) fun cx s =>
    let o := cx.opnds (cx.view s.ref (cx.tids.headD 0))
    let cur := cx.party.rank
    match (s.slot cx.slot).migr with
    | some m =>
      if !cx.party.drained then s
      else if cx.party.causePending then { cx with party := cx.party.unmoved }.migrEnd (dropMigr s cx.slot) (4 + cur * 2 ^ 8)
      else migrMove (s.setSlot cx.slot { s.slot cx.slot with migr := none }) cx m
    | none =>
      match migrTrap s cx o.a o.b with
      | some tr => cx.trapAll s tr
      | none =>
        if cx.launch.isDet then cx.migrEnd s (1 + cur * 2 ^ 8)
        else if homeHeld s cx o.a o.b then
          let t := cx.party.thread (cx.tids.headD 0)
          cx.holdGroup s { t with hold := some (.read t.readSince (t.issuedAt s.ref)) }
        else
          let core0 := cx.core - cur
          match migrRank s cx core0 o.a o.b with
          | none => cx.migrEnd s 5
          | some r =>
            if r == cur then cx.migrEnd s (1 + r * 2 ^ 8)
            else if (cx.party.threads.any fun t => t.handler && !t.exited) || (s.slot cx.slot).preq || arrivedNear cx.party cur r then
              cx.migrEnd s (3 + cur * 2 ^ 8)
            else match freeSlotOf s (core0 + r) with
              | none => cx.migrEnd s (2 + cur * 2 ^ 8)
              | some k =>
                let s := s.setSlot k { s.slot k with reserved := true }
                let m : Migr := { tids := cx.tids, d := cx.dreg, rank := r, slot := k, npc := cx.npc }
                s.setSlot cx.slot { s.slot cx.slot with migr := some m }

end Sys2Proof.Machine
end

