-- ==== Sys2Proof/Machine/Prefix.lean ====
section
/-! DEFINITION. The X prefix and unassigned uniform opcodes (03_encoding.md R64, R65, R76, R78). -/

namespace Sys2Proof.Machine

/-- The word of an X prefix. -/
def prefixWord (fields : BitVec 24) : Word := 0x7F#8 ++ fields

/-- A prefix cannot stand here (R65): at word 1023, before a uniform word, or before another prefix. -/
def pfxMisplaced (s : State) (cx : Cx) : Bool :=
  wordOf cx.pc == 1023 ||
  match fetchWord s cx.core cx.party.lid (cx.pc + 1) with
  | some w => barsPrefix w
  | none => false

/-- X_PREFIX (R65): the prefix joins the lane word after it, which the same step executes; misplaced it traps PFX_POS (assumption 72, DEDUCED). -/
def execXPrefix (fields : BitVec 24) (s : State) : Host.Outcome State Fault Refusal :=
  match cx? s (.xPrefix fields) with
  | none => .refused .noIssue
  | some cx =>
    if cx.issue.pfx.isSome || pfxMisplaced s cx then .next (cx.trapAll s { cause := Cause.pfxPos })
    else .next { s with issue := some { cx.issue with pfx := some (prefixWord fields) } }

/-- UNASSIGNED_UNIFORM_OPCODE (R76): OPC_RSVD for every thread of the group. -/
def execUnassignedUniformOpcode (word : Word) (s : State) : Host.Outcome State Fault Refusal :=
  match cx? s (.unassignedUniformOpcode word) with
  | none => .refused .noIssue
  | some cx => .next (cx.trapAll s { cause := Cause.opcRsvd })

end Sys2Proof.Machine
end

