-- ==== Sys2Proof/Machine/Sched.lean ====
section
/-! DEFINITION. Which group may issue (01_thread.md R15, R31; 07_memory_access.md R165; 08_ordering.md R190; 09_traps.md
R216; 10_core.md R233). -/

namespace Sys2Proof.Machine

/-! ## Registers of an instruction -/

/-- Two operands share a register of a file. -/
def regsMeet (r : Reg) (n : Nat) (q : Reg) (m : Nat) : Bool :=
  match r, q with
  | .v a, .v b | .o a, .o b | .w a, .w b | .h a, .h b | .g a, .g b => a < b + m && b < a + n
  | _, _ => false

/-- The registers that an instruction reads or writes, with how many. -/
def Cx.regs (cx : Cx) : List (Reg × Nat) :=
  let of := fun (r : Role) (x : Reg) => match r.width? with | some w => [(x, if r == .wlist then 12 else w.regs)] | none => []
  let a := match cx.i with
    | .fclass .. => if cx.areg.startsPair then [(cx.areg, 2)] else of cx.form.a cx.areg
    | _ => of cx.form.a cx.areg
  of cx.form.d cx.dreg ++ a ++ of cx.form.b cx.breg ++
    (match cx.form.c with | .reg w => [(cx.creg, w.regs)] | _ => []) ++
    if cx.p.me then [(.w (2 * cx.p.m), 2)] else []

/-- A failed operation no longer holds a thread that cannot take its fault now: one in handler mode, or one that did not
issue it (09 R217). -/
def Op.passes (o : Op) (tid : Nat) (handler : Bool) : Bool := o.phase.isFailed && (handler || !o.live.contains tid)

/-- A load or value-returning atomic that has not written its register holds the instruction (R165): one of the thread,
or, for a w register, one of the party (01 R17). -/
def loadHolds (s : State) (cx : Cx) (tid : Nat) : Bool :=
  s.ops.any fun o =>
    o.slot == cx.slot && o.phase != .done && !o.passes tid cx.issue.handler &&
    match o.kind.result with
    | none => false
    | some (r, w) =>
      (o.tids.contains tid || r.isW || (match r with | .g _ => true | _ => false)) && !o.live.isEmpty &&
      cx.regs.any fun (q, n) => regsMeet r w.regs q n

/-- A thread issues nothing after an acquire until it has read its value (R190). -/
def acquireHolds (s : State) (slot tid : Nat) (handler : Bool) : Bool :=
  s.ops.any fun o =>
    o.slot == slot && o.live.contains tid && !(handler && o.untilTret.isSome) && !o.passes tid handler &&
    (match o.kind with
     | .load _ _ _ _ _ acq _ _ => acq
     | .atom _ _ _ _ _ _ _ rm _ => rmAcq rm
     | _ => false) &&
    (match o.phase with | .performed _ | .done => false | _ => true)

/-! ## Counters and queues -/

/-- The class that an instruction counts in (01 R30). -/
def countClass : Instr → Option Cls
  | .ldb .. | .ldh .. | .ldw .. | .ldd .. | .ldq .. | .ldv .. | .ldvq .. | .atomr .. | .uldw .. | .uldd .. | .uldq ..
  | .uldv .. | .uatomr .. => some .ld
  | .stb .. | .sth .. | .stw .. | .std .. | .stq .. | .atom .. | .ustw .. | .ustd .. | .clnr .. | .invr .. | .arrv ..
  | .abinit .. | .tbinit .. | .launch .. => some .st
  | .cpyt .. | .cpyl .. | .cpym .. | .coll .. | .lrld .. => some .cp
  | .mma .. | .mdrn .. | .plane .. => some .tl
  | .bkq .. => some .bk
  | .gath .. | .cutsel .. | .rast .. | .rayq .. => some .gx
  | .cfetch .. => some .cf
  | _ => none

/-- Commands of a kind that stand in a core's queue. -/
def queued (s : State) (at_ : Nat → Bool) (f : OpKind → Bool) : Nat :=
  (s.ops.filter fun o => at_ (coreOf o.slot) && f o.kind && !o.phase.settled).length

/-- Room for another command of the instruction's engine: the copy queue holds 64, the cut-selection engine 16, the raster
queue 8, the ray queue 32 (11 R270, 17 R363, R365, R368). -/
def engineRoom (s : State) (core : Nat) : Instr → Nat
  | .cpyt .. | .cpyl .. | .cpym .. =>
    64 - (s.ops.filter fun o => coreOf o.slot == core && o.kind.isCopy && o.phase == .issued).length
  | .cutsel .. => 16 - queued s (fun c => dieOf c == dieOf core) fun k => match k with | .geom 0x72 _ _ => true | _ => false
  | .rast .. => 8 - queued s (· == core) fun k => match k with | .geom 0x73 _ _ => true | _ => false
  | .rayq .. => 32 - queued s (· == core) fun k => match k with | .geom 0x74 _ _ => true | _ => false
  | _ => 64

/-- A tile command of the thread's issuing group waits to be accepted: every thread of that group waits behind it (12 R276). -/
def tileHolds (s : State) (slot tid : Nat) : Bool :=
  s.ops.any fun o => o.slot == slot && o.work.group.contains tid && (match o.kind with | .tile .. => true | _ => false) && o.phase == .issued

/-- An unfinished wait of the instruction itself: it would leave the thread where it stands. -/
def selfWaits (s : State) (cx : Cx) (tid : Nat) (t : Thread) : Bool :=
  cx.enabled tid &&
  match cx.i with
  | .waitn d imm => !thresholdsHold t.cnt (waitnThresholds d imm cx.p.c)
  | .fence .. => fenceWaits s cx tid t
  | .bar .. | .bara .. => !released s cx.slot tid cx.issue.handler
  | .migr .. => (s.slot cx.slot).migr.isSome && !cx.party.drained
  | _ => false

/-! ## Eligibility -/

/-- The instruction traps before its operands are read (03 R78, R79): it waits for nothing. -/
def Cx.misencoded (cx : Cx) : Bool :=
  (encCheck cx.form cx.p cx.i cx.d cx.a cx.b cx.party.nv cx.issue.handler).isSome || cx.detReflo

/-- The context of one thread at its PC. -/
def threadCx (s : State) (slot : Nat) (p : Party) (tid : Nat) : Option Cx :=
  let t := p.thread tid
  match fetchInstr s (coreOf slot) p.lid t.pc with
  | none => none
  | some (pfx, i) =>
    cx? { s with issue := some { slot := slot, pc := t.pc, tids := [tid], handler := t.handler, pfx := pfx } } i

/-- A thread whose segment has failed takes SEG_FAILED where it stands (10 R244). -/
def segFailedAt (s : State) (core lid : Nat) (pc : Pc) : Option Nat :=
  match (segAt s core lid (segOf pc)).st with
  | .failed a => some a
  | _ => none

/-- A thread is held by nothing that completes by itself. -/
def Thread.free (t : Thread) : Bool :=
  match t.hold with
  | none | some (.read ..) => true
  | some (.bar ..) | some (.xl _) | some (.waitc ..) => false

/-- The operations that a deterministic block may still enter before it would fill its write buffer (24 R435): entries of 64
bytes each (assumption 20, DESIGN CHOICE). -/
def wbufRoom (l : Launch) (b : Block) : Nat := fld l.det 80 16 * 1024 - 1 - (b.wbuf.length + b.log.length)
/-- The write buffer of the thread's block has no room for another operation. -/
def wbufFull (l : Launch) (b : Block) : Bool := l.isDet && wbufRoom l b == 0

/-- A thread may join a group (R15, R216). -/
def eligible (s : State) (slot : Nat) (p : Party) (tid : Nat) : Bool :=
  let t := p.thread tid
  slotLive s slot && !t.exited && t.free && (!t.deliverable || (s.slot slot).migr.isSome) &&
  (match (s.slot slot).migr with | some m => m.tids.contains tid | none => true) &&
  match threadCx s slot p tid with
  | none => (segFailedAt s (coreOf slot) p.lid t.pc).isSome
  | some cx =>
    !tileHolds s slot tid && !acquireHolds s slot tid t.handler &&
    (cx.misencoded ||
      ((match countClass cx.i with | some c => !cx.enabled tid || t.cnt.get c < 63 | none => true) &&
       0 < engineRoom s (coreOf slot) cx.i && !loadHolds s cx tid && !selfWaits s cx tid t &&
       (match cx.block s with | some b => !wbufFull cx.launch b | none => true)))

/-- The threads that the engine of a thread's instruction, and the write buffer of its block, have room for. -/
def groupRoom (s : State) (slot : Nat) (p : Party) (tid : Nat) : Nat :=
  match threadCx s slot p tid with
  | some cx =>
    if cx.misencoded then 64
    else
      min (engineRoom s (coreOf slot) cx.i)
        (match cx.block s with | some b => if cx.launch.isDet then wbufRoom cx.launch b else 64 | none => 64)
  | none => 64

/-- The threads of a party that may form a group with a thread: equal PC and mode, ascending, at most 32 (R15, R233), and
no more than the engine has room for. -/
def groupOf (s : State) (slot : Nat) (p : Party) (tid : Nat) : List Nat :=
  let t := p.thread tid
  ((upTo 64).filter fun k =>
    (p.thread k).pc == t.pc && (p.thread k).handler == t.handler && eligible s slot p k).take (min Config.lanes (groupRoom s slot p tid))

/-- A pick names a group that may issue: threads of equal PC and mode in ascending order. -/
def groupOk (s : State) (slot : Nat) (pc : Pc) (handler : Bool) (tids : List Nat) : Bool :=
  match s.party? slot with
  | none => false
  | some p =>
    (match (s.slot slot).migr with | some m => tids == m.tids | none => true) &&
    !tids.isEmpty && tids.length ≤ min Config.lanes (groupRoom s slot p (tids.headD 0)) && tids == (upTo 64).filter tids.contains &&
    tids.all fun k => (p.thread k).pc == pc && (p.thread k).handler == handler && eligible s slot p k

/-! ## The instruction a group issues -/

/-- Threads at a PC whose segment has failed (10 R244, 06 R132). -/
def segFailedTrap (s : State) (slot : Nat) (pc : Pc) (tids : List Nat) (a : Nat) : State :=
  match s.party? slot with
  | none => s
  | some p =>
    let hpc := hpcOf s p.lid
    s.setParty slot (groupResult p tids fun k t =>
      deliver hpc pc k { cause := Cause.segFailed, taddr := a, tinfo := segOf pc } t)

/-- The word at the issuing group's PC, and after a prefix the word behind it. -/
def issueWord (s : State) : Option Word :=
  match s.issue with
  | none => none
  | some g =>
    match s.party? g.slot with
    | none => none
    | some p => fetchWord s (coreOf g.slot) p.lid (if g.pfx.isSome then g.pc + 1 else g.pc)

/-- What every step does at its end: the group has issued, time passes (assumption 2, DESIGN CHOICE), the step's number advances, and
a new tick reports the actions of the one before (25 R448). -/
def finishStep (s : State) : State :=
  let s := match s.issue with
    | none => s
    | some g =>
      match s.party? g.slot with
      | none => s
      | some p => s.setParty g.slot (p.mapThreads g.tids fun _ t => { t with lastIssue := s.seq })
  let t := { s with
    issue := none
    input := .none
    armed := s.arming
    arming := none
    ref := s.ref + Config.refAdvance s.seq
    dies := s.dies.map fun e =>
      if dieUp s e.1 then (e.1, { e.2 with clk := e.2.clk + Config.clkAdvance s.seq }) else e
    seq := s.seq + 1 }
  if s.due.isEmpty || t.ref == s.ref then t else stageDue t

end Sys2Proof.Machine
end

