-- ==== Sys2Proof/Machine/Errors.lean ====
section
/-! DEFINITION. Counted errors, the actions at a threshold, uncorrectable errors and the error log (25_resilience.md R442 to
R449). -/

namespace Sys2Proof.Machine

/-! ## Units (R442, R447) -/

/-- The kind of a unit in the table of R442; an L2 line and a directory entry have no threshold. -/
def unitKind : ErrUnit → Option Nat
  | .row .. => some 0
  | .lane _ => some 1
  | .regSlot _ => some 2
  | .sramWord .. | .imemWord .. | .accWord .. | .layEntry .. => some 3
  | .l2Line .. | .dirEntry .. => none

/-- The channel of a unit. -/
def unitChannel : ErrUnit → Nat
  | .row stack pc _ _ => portChannel stack pc
  | .lane c => c
  | .regSlot k => coreChannel (coreOf k)
  | .sramWord c _ | .imemWord c _ | .accWord c _ | .layEntry c _ => coreChannel c
  | .l2Line die line => sliceChannel die line
  | .dirEntry slice _ => dirChannel slice

/-- UNIT of a log record (assumption 24, DESIGN CHOICE). -/
def unitIndex : ErrUnit → Nat
  | .row _ _ bank row => bank * 49152 + row
  | .lane _ => 0
  | .regSlot k => k % 16
  | .sramWord _ w | .imemWord _ w | .accWord _ w | .layEntry _ w => w
  | .l2Line _ line => line
  | .dirEntry _ entry => entry

/-- The unit exists. -/
def unitOk : ErrUnit → Bool
  | .row stack pc bank row => stack < 12 && pc < 64 && bank < 16 && row < 49152
  | .lane c => (768 ≤ c && c ≤ 847) || (1052 ≤ c && c ≤ 1055)
  | .regSlot k => k < 2048
  | .sramWord c _ | .imemWord c _ | .accWord c _ | .layEntry c _ => c < 128
  | .l2Line die _ => die < 4
  | .dirEntry slice _ => slice < 12

/-- The cause of an uncorrectable error of a unit (R445); a directory entry's is that of the memory whose lines it names
(assumption 24, DESIGN CHOICE). -/
def unitCause : ErrUnit → Nat
  | .row .. | .l2Line .. | .dirEntry .. => Cause.memUncorr
  | .lane _ => Cause.hwLink
  | .regSlot _ => Cause.hwRegf
  | .sramWord .. => Cause.hwSram
  | .imemWord .. => Cause.hwImem
  | .accWord .. => Cause.hwAcc
  | .layEntry .. => Cause.hwLayc

/-- A unit of HBM or of an L2: its report carries a PPA. -/
def unitIsMemory : ErrUnit → Bool
  | .row .. | .l2Line .. => true
  | .lane _ | .regSlot _ | .sramWord .. | .imemWord .. | .accWord .. | .layEntry .. | .dirEntry .. => false

/-- A report of a unit. -/
def reportUnit (s : State) (u : ErrUnit) (kind code addr : Nat) : State :=
  reportEvent s (unitChannel u) kind code (if (unitIsMemory u) then 1 else 0) (if (unitIsMemory u) then addr else 0) (unitIndex u)

/-- An action on a unit, reported in the next tick. -/
def reportDone (s : State) (u : ErrUnit) (code addr : Nat) : State :=
  reportAction s (unitChannel u) code (if (unitIsMemory u) then 1 else 0) (if (unitIsMemory u) then addr else 0) (unitIndex u)

/-! ## Actions (R443, R444, R237) -/

/-- A row goes to one of the 32 spares of its bank; without one its frames leave the pool, which is reported (assumption 95,
DESIGN CHOICE), and Raleb moves or quarantines the pages that use it. -/
def retireRow (s : State) (stack pc bank row addr : Nat) : State :=
  let k := s.stack stack
  if (k.spared.filter fun r => r.1 == pc && r.2.1 == bank).length < 32 then
    reportDone (s.setStack stack { k with spared := k.spared ++ [(pc, bank, row)] }) (.row stack pc bank row) 1 addr
  else
    let s := s.setStack stack { k with worn := k.worn ++ [(pc, bank, row)] }
    reportDone { s with pools := aset stack ((poolOf s stack).filter fun u => !wornUnit s stack u) s.pools } (.row stack pc bank row) 0 addr

/-- Lanes of the Ethernet port that are not disabled. -/
def ethLanes (s : State) : Nat := ((upTo 8).filter fun i => !(aget {} (840 + i) s.lanes).disabled).length
/-- The widest of 8, 4, 2 and 1 lanes at hand. -/
def widthOf (n : Nat) : Nat := if 8 ≤ n then 8 else if 4 ≤ n then 4 else if 2 ≤ n then 2 else n

/-- A lane is retrained; the third retrain within an hour disables it. -/
def retrainLane (s : State) (c : Nat) : State :=
  let l := aget {} c s.lanes
  let times := s.ref :: l.retrains.filter fun t => s.ref < t + 3600000000000
  let off := 3 ≤ times.length
  let s := { s with lanes := aset c { l with retraining := !off, disabled := l.disabled || off, retrains := times } s.lanes }
  let s := { s with ethWidth := min s.ethWidth (widthOf (ethLanes s)) }
  reportDone s (.lane c) (if off then 3 else 2) 0

/-- A register-file slot is disabled, now where it is FREE and no MIGR has reserved it, else when it next is (R237). -/
def repairSlot (s : State) (slot : Nat) : State :=
  let k := s.slot slot
  if k.st == .free && !k.reserved then reportDone (s.setSlot slot { k with st := .disabled }) (.regSlot slot) 4 0
  else s.setSlot slot { k with repair := k.st != .disabled }

/-- A core's word goes to a spare; without one the core is disabled at its next die reset. -/
def repairWord (s : State) (core : Nat) (spare : Bool) : State :=
  if spare then s else s.setCore core { s.core core with disable := true }

/-- The action of a unit that has reached its threshold. -/
def takeAction (s : State) (u : ErrUnit) (addr : Nat) (spare : Bool) : State :=
  match u with
  | .row stack pc bank row => retireRow s stack pc bank row addr
  | .lane c => retrainLane s c
  | .regSlot k => repairSlot s k
  | .sramWord c _ | .imemWord c _ | .accWord c _ | .layEntry c _ => repairWord s c spare
  | .l2Line .. | .dirEntry .. => s

/-! ## Corrected errors (R442, R449) -/

/-- A count of 32 bits that stops at its greatest value. -/
def satCount (n : Nat) : Nat := min (n + 1) (2 ^ 32 - 1)
/-- The error registers of the unit's core. -/
def countRegs (s : State) (u : ErrUnit) : State :=
  match u with
  | .regSlot k => s.setCore (coreOf k) { s.core (coreOf k) with regfce := satCount (s.core (coreOf k)).regfce }
  | .sramWord c _ => s.setCore c { s.core c with sramce := satCount (s.core c).sramce }
  | .imemWord c _ => s.setCore c { s.core c with imemce := satCount (s.core c).imemce }
  | .row .. | .lane _ | .accWord .. | .layEntry .. | .l2Line .. | .dirEntry .. => s

/-- The times of a unit's events within its window, this one the newest. -/
def recentEvents (s : State) (u : ErrUnit) (w : Nat) : List Nat :=
  s.ref :: (aget [] u s.events).filter fun t => s.ref < t + w

/-- CORRECTED_ERROR (R442). -/
def execCorrectedError (s : State) : Host.Outcome State Fault Refusal :=
  match s.input with
  | .correctedError u addr spare =>
    let t := countRegs s u
    whenEnabled "CORRECTED_ERROR" ((unitOk u) && s.booted)
      (match (unitKind u) with
       | none => reportUnit t u 0 0 addr
       | some k =>
         let times := recentEvents s u (s.windows.getD k 0)
         let t := { t with events := aset u times t.events }
         if times.length == s.thresholds.getD k 0 then takeAction (reportUnit t u 2 0 addr) u addr spare
         else reportUnit t u 0 0 addr)
  | _ => .refused (.notEnabled "CORRECTED_ERROR")

/-! ## Uncorrectable errors (R445, R446) -/

/-- What an uncorrectable error does to memory: the line cannot be read from HBM, an L2 line that is M or O is lost with its
data, a clean copy is dropped. -/
def loseData (s : State) (u : ErrUnit) (addr : Nat) : State :=
  match u with
  | .row .. => { s with damaged := if s.damaged.contains (lineOf addr) then s.damaged else s.damaged ++ [lineOf addr] }
  | .l2Line die line =>
    match heldAs s line die with
    | some .m | some .o =>
      { s.delL2 die line with damaged := if s.damaged.contains line then s.damaged else s.damaged ++ [line] }
    | some .e | some .s | none => s.delL2 die line
  | .lane _ | .regSlot _ | .sramWord .. | .imemWord .. | .accWord .. | .layEntry .. | .dirEntry .. => s

/-- Migrations whose old frame holds a damaged line end (19 R388). -/
def abortMigrations (s : State) : State :=
  s.migrations.foldl (fun s m =>
    match bufOf s m.page.ctx m.page.buf with
    | some e => if pageDamaged s e m.old m.page && !leafHeld s e (pageBase e m.page.page) then abortMigration s e m else s
    | none => s) s

/-- An engine's command at work whose own reads of its core's scratchpad or accumulator memory take in a unit (R445). -/
def engineReads (s : State) (o : Op) (u : ErrUnit) : Bool :=
  let s := { s with armed := some u }
  (u matches .sramWord .. | .accWord ..) && o.phase == .running &&
  match s.launch? o.lid with
  | none => false
  | some l =>
    match o.kind with
    | .tile opc b _ ovr => (tileFailure s o l opc b ovr).isSome
    | .copy opc d _ _ _ lay ts => match cpStart s o l opc d lay ts with | .fail c .. => c == unitCause u | _ => false
    | .geom opc d lay => match geomStart s o l opc d lay with | .fail c .. => c == unitCause u | _ => false
    | _ => false

/-- An instruction that uses a layout record (11 R257, 17 R365). -/
def usesLayout : Instr → Bool
  | .cpyt .. | .cpym .. | .rast .. => true
  | _ => false

/-- A register of the slot's files. -/
def Reg.inFile : Reg → Bool
  | .v _ | .o _ | .lat | .w _ | .h _ | .g _ => true
  | .z | .tid | .special _ => false
/-- The instruction reads a register of the slot's files: an operand, the list of BPERM, or the mask. -/
def Cx.readsFile (cx : Cx) : Bool :=
  (cx.form.d.reads && cx.dreg.inFile) || (cx.form.a.reads && cx.areg.inFile) || (cx.form.b.reads && cx.breg.inFile) ||
  cx.form.b == .wlist || cx.creg.inFile || cx.p.me

/-- A group meets an error of a structure that its instruction reads (09 R218, R229): the file of its slot, its core's
instruction memory, or a layout record. Only enabled threads of a lane instruction read registers and records. -/
def structMet (u : ErrUnit) (slot : Nat) (cx : Cx) : Bool :=
  let reads := cx.form.uni || cx.tids.all cx.enabled
  match u with
  | .regSlot k => k == slot && (cx.p.me || (reads && cx.readsFile))
  | .imemWord c _ => c == coreOf slot
  | .layEntry c _ => c == coreOf slot && usesLayout cx.i && reads
  | .sramWord .. | .accWord .. | .row .. | .lane _ | .l2Line .. | .dirEntry .. => false

/-- The context of a group that may issue now, none where its threads form no group. -/
def groupCx (s : State) (slot : Nat) (tids : List Nat) : Option Cx :=
  match s.party? slot with
  | none => none
  | some p =>
    let t := p.thread (tids.headD 0)
    if !groupOk s slot t.pc t.handler tids || (s.slot slot).migr.isSome then none
    else match fetchInstr s (coreOf slot) p.lid t.pc with
      | none => none
      | some (pfx, i) =>
        cx? { s with issue := some { slot := slot, pc := t.pc, tids := tids, handler := t.handler, pfx := pfx } } i

/-- The unit's data cannot be read by the next step: a clean L2 line, a word of a scratchpad, of an L1 or of accumulator
memory. -/
def armable (s : State) (u : ErrUnit) : Bool :=
  match u with
  | .l2Line die line => !(s.lost.contains line || s.damaged.contains line) && (heldAs s line die).isSome
  | .sramWord .. | .accWord .. => true
  | .row .. | .lane _ | .regSlot _ | .imemWord .. | .layEntry .. | .dirEntry .. => false

/-- The consumer takes its fault (R445): an access or a record's read of the next step as that step meets it, an engine's
command at its retirement, a group precisely at its instruction. -/
def consume (s : State) (u : ErrUnit) : Consumer → Option State
  | .nothing => some s
  | .next => if armable s u then some { s with arming := some u } else none
  | .op id =>
    match s.op? id with
    | none => none
    | some o =>
      if engineReads s o u then some (s.setOp { o with phase := .failing (unitCause u) 0 1, work := o.work.clear }) else none
  | .group slot tids =>
    match groupCx s slot tids with
    | none => none
    | some cx => if structMet u slot cx then some (cx.trapAll s { cause := unitCause u }) else none

/-- UNCORRECTABLE_ERROR (R445, R442: it reaches the unit's threshold at once). A lane's flits are replayed (R444): no
operation fails. -/
def execUncorrectableError (s : State) : Host.Outcome State Fault Refusal :=
  match s.input with
  | .uncorrectableError u addr spare who =>
    match consume s u who with
    | none => .refused (.notEnabled "UNCORRECTABLE_ERROR")
    | some t =>
      let t := abortMigrations (loseData t u addr)
      let t := match (unitKind u) with
        | some k => { t with events := aset u (recentEvents s u (s.windows.getD k 0)) t.events }
        | none => t
      whenEnabled "UNCORRECTABLE_ERROR" ((unitOk u) && s.booted && (match u with | .lane _ => who == .nothing | _ => true))
        (takeAction (reportUnit t u 1 (unitCause u) addr) u addr spare)
  | _ => .refused (.notEnabled "UNCORRECTABLE_ERROR")

/-! ## Lanes and the log -/

/-- LANE_RETRAIN_DONE (R444). -/
def execLaneRetrainDone (s : State) : Host.Outcome State Fault Refusal :=
  match s.input with
  | .laneRetrainDone c =>
    let l := aget {} c s.lanes
    whenEnabled "LANE_RETRAIN_DONE" l.retraining { s with lanes := aset c { l with retraining := false } s.lanes }
  | _ => .refused (.notEnabled "LANE_RETRAIN_DONE")

/-- Reports of earlier ticks that found the queue full are gone. -/
def queuedReports (s : State) : List Report := s.staging.filter fun r => !(r.lost && r.earlier s)

/-- ERROR_LOG_MOVE (R448): the oldest entry of an earlier tick goes to the log, once the log has room. -/
def execErrorLogMove (s : State) : Host.Outcome State Fault Refusal :=
  match queuedReports s with
  | [] => .refused (.notEnabled "ERROR_LOG_MOVE")
  | r :: rest =>
    let tail := coherentRead s s.logAddr 8
    let head := coherentRead s (s.logAddr + 8) 8
    let at_ := s.logAddr + 64 + 32 * (tail % 2 ^ s.logN)
    let t := dirWrite (dirWrite s at_ 32 (logRecord r)) s.logAddr 8 (tail + 1)
    whenEnabled "ERROR_LOG_MOVE"
      (s.booted && !s.out .monument && r.earlier s && wrap ((tail : Int) - head) 64 < 2 ^ s.logN &&
        !inAllBank s s.logAddr && !inAllBank s at_)
      { t with staging := rest }

end Sys2Proof.Machine
end

