-- ==== Sys2Proof/Machine/Install.lean ====
section
/-! DEFINITION. A program word placed where the next step fetches (assumption 6, DESIGN CHOICE): a launch of one block of one party on core 0
of die 0, its party in the start state of 01_thread.md R35 on slot 0, its segment 0 LANDED with the word at PC 0. -/

namespace Sys2Proof.Machine

/-- The record of that launch (16 R334): one segment, 192 v registers, one party a block, a grid of 1 by 1 by 1. -/
def installRecord : Nat :=
  2 ^ (8 * 8 + 16) + 2 ^ (8 * 8 + 24) * 24 + 2 ^ (8 * 8 + 8) + 2 ^ (8 * 16) + 2 ^ (8 * 20) + 2 ^ (8 * 24) + 2 ^ (8 * 72) +
    2 ^ (8 * 80)

/-- A launch as it stands after acceptance. -/
def newLaunch (lid ctx queue die record : Nat) (args : List Word) (rings : List Nat) (layouts : List (Option Nat))
    (via : Option Nat) (det : Nat) (v0 : List Nat) : Launch :=
  { lid := lid, ctx := ctx, queue := queue, die := die, record := record, args := args, rings := rings,
    layouts := layouts, held := [], eligible := false, since := 0, placedAt := [], failing := [], pending := [],
    started := false, placed := false, ended := 0, firstCause := none, killed := false, done := false, binds := [],
    ranges := [], tbars := [], group := none, via := via, det := det, v0 := v0,
    counts := [], aborted := false, retired := [] }

/-- A block as it stands when it is placed. -/
def newBlock (lid blin x y z clin clrank core : Nat) (map : List (Nat × Nat)) : Block :=
  { lid := lid, blin := blin, x := x, y := y, z := z, clin := clin, clrank := clrank, core := core, map := map, mapped := (core, map), freed := 0,
    bound := [], ended := false, saved := none, images := [], wbuf := [], view := [], merges := [], uses := [] }

/-- A launch that runs one word on core 0. -/
def installLaunch (lid : Nat) : Launch :=
  { newLaunch lid 0 0 0 installRecord [] [] [] none 0 [] with eligible := true, started := true, placed := true }

/-- A landed segment that holds one word at word 0. -/
def installSeg (w : Nat) : Seg :=
  { st := .landed, image := if w % 2 ^ 32 == 0 then [] else [(0, BitVec.ofNat 32 w)] }

/-- The state with one word where thread 0 of slot 0 fetches next, and the pick that issues it. -/
def installWord (s : State) (w : Nat) : State :=
  let lid := s.seq
  let l := installLaunch lid
  let b := { newBlock lid 0 0 0 0 0 0 0 [(0, 0)] with bound := [0] }
  let s := { s with
    tripped := false
    launches := l :: s.launches
    blocks := b :: s.blocks
    agenda := .issue 0 0#16 false [0] .none :: s.agenda }
  let s := s.setDie 0 { s.die 0 with cond := .running }
  let s := s.setCore 0 { s.core 0 with table := [(0, lid)], segs := [((lid, 0), installSeg w)], disabled := false }
  s.setSlot 0 { Slot.init with st := .run, bind := some { lid := lid, record := 0 }, party := some (startParty l b 0) }

end Sys2Proof.Machine
end

