-- ==== Sys2Proof/Machine/Validate.lean ====
section
/-! DEFINITION. Launch records at the head of their queues (16_launch_scheduling.md R333 to R337, R497; 02_number_formats.md
R58; 11_scratchpad_copies.md R245, R246; 24_determinism.md R436, R437): validation, acceptance and dependences. -/

namespace Sys2Proof.Machine

/-! ## The cluster grid (14 R306, 24 R428, R429) -/

/-- Clusters along each axis. -/
def Launch.clGrid (l : Launch) : Nat × Nat × Nat := (l.gx / 2 ^ l.lcx, l.gy / 2 ^ l.lcy, l.gz / 2 ^ l.lcz)
/-- Cluster coordinates of a cluster linear index. -/
def Launch.clCoord (l : Launch) (c : Nat) : Nat × Nat × Nat :=
  (c % l.clGrid.1, c / l.clGrid.1 % l.clGrid.2.1, c / l.clGrid.1 / l.clGrid.2.1)

/-- Bits of x, y and z from level i on, low bits first, n levels: the traverse index from its bit on (R428). -/
def traverseFrom (kx ky kz a b c : Nat) : Nat → Nat → Nat
  | 0, _ => 0
  | n + 1, i =>
    let add := fun (has : Bool) (x rest : Nat) => if has then x / 2 ^ i % 2 + 2 * rest else rest
    add (i < kx) a (add (i < ky) b (add (i < kz) c (traverseFrom kx ky kz a b c n (i + 1))))

/-- The traverse index of a cluster, and the size T of the padded grid. -/
def Launch.traverse (l : Launch) (c : Nat) : Nat :=
  let (nx, ny, nz) := l.clGrid
  let (x, y, z) := l.clCoord c
  traverseFrom (ceilLog2 nx) (ceilLog2 ny) (ceilLog2 nz) x y z 32 0
def Launch.padded (l : Launch) : Nat :=
  let (nx, ny, nz) := l.clGrid
  2 ^ (ceilLog2 nx + ceilLog2 ny + ceilLog2 nz)

/-- The dies a launch may use, in order. -/
def Launch.dies (l : Launch) : List Nat := allDies.filter l.dieOk
/-- The die of a cluster of a deterministic launch (R429). -/
def Launch.detDie (l : Launch) (c : Nat) : Nat :=
  l.dies.getD (4 * l.traverse c / l.padded * l.dies.length / 4) 0

/-- Block coordinates and cluster rank r of a cluster (R306). -/
def Launch.blockAt (l : Launch) (c r : Nat) : Nat × Nat × Nat :=
  let (a, b, d) := l.clCoord c
  (a * 2 ^ l.lcx + r % 2 ^ l.lcx, b * 2 ^ l.lcy + r / 2 ^ l.lcx % 2 ^ l.lcy, d * 2 ^ l.lcz + r / 2 ^ l.lcx / 2 ^ l.lcy)
/-- Block linear index (04 R102). -/
def Launch.linear (l : Launch) (p : Nat × Nat × Nat) : Nat := p.1 + l.gx * (p.2.1 + l.gy * p.2.2)

/-! ## Exact packing (R497) -/

/-- Blocks that an aligned group of cores of an empty die can take. -/
def groupCapacity (s : State) (l : Launch) (core0 : Nat) : Nat :=
  (upTo l.cores).foldl (fun n r =>
    let core := core0 + r
    let slots := ((slotsOf core).filter fun k => (s.slot k).st != .disabled).length
    let room := if l.portionSize == 0 then 16 else 768 * 1024 / l.portionSize
    min n (if (s.core core).disabled || 64 < l.segBud then 0
      else min (slots / (l.ppb / l.cores)) (min room (if l.accKb == 0 then 16 else 1)))) 16

/-- First cores of the aligned groups of a die. -/
def groupsOn (die cores : Nat) : List Nat := (upTo (32 / cores)).map fun g => 32 * die + g * cores

/-- Blocks that an empty die can take. -/
def dieCapacity (s : State) (l : Launch) (die : Nat) : Nat :=
  (groupsOn die l.cores).foldl (fun n g => n + groupCapacity s l g) 0

/-- A cluster can be placed on some allowed die (assumption 26, DEDUCED). -/
def clusterPacks (s : State) (l : Launch) : Bool := l.dies.any fun d => l.clSize ≤ dieCapacity s l d

/-- A co-resident grid can be placed at once: on the dies that R429 gives a deterministic launch, else on any. -/
def gridPacks (s : State) (l : Launch) : Bool :=
  let per := fun d => dieCapacity s l d / l.clSize
  if l.isDet then
    l.dies.all fun d => ((upTo l.nclusters).filter fun c => l.detDie c == d).length ≤ per d
  else l.nclusters ≤ l.dies.foldl (fun n d => n + per d) 0

/-! ## Checks on the record (R335) -/

/-- The fields of a record: first bit and length (R334). -/
def recordFields : List (Nat × Nat) :=
  [(10, 22), (32, 32), (64, 2), (72, 8), (80, 7), (88, 5), (96, 9), (112, 3), (116, 3), (120, 3), (128, 96), (224, 12),
   (240, 12), (256, 704), (960, 24), (992, 11), (1008, 16), (1024, 704), (1728, 4)] ++
  (upTo 8).map fun i => (1792 + 32 * i, 23)

/-- Reserved bits of the record are zero. -/
def recordZero (r : Nat) : Bool := recordFields.foldl (fun r f => setFld r f.1 f.2 0) (r % 2 ^ 2048) == 0

/-- DADDR and DVAL of dependence i (R336). -/
def Launch.depAddr (l : Launch) (i : Nat) : Nat := l.f (128 + 16 * i) 0 64
def Launch.depVal (l : Launch) (i : Nat) : Nat := l.f (136 + 16 * i) 0 64

def recBad (l : Launch) (pmax : Nat) : Bool :=
  l.f 0 28 4 != 1 || !recordZero l.record || l.cscope == 0 || 8 < l.cscope || 4 < l.ndep ||
  (upTo 4).any (fun i => l.ndep ≤ i && (l.depAddr i != 0 || l.depVal i != 0)) || pmax < l.prio
def fmtBad (l : Launch) : Bool := (upTo 8).any fun k => !slotOk (l.fmtSlot k)
def shapeBad (l : Launch) : Bool :=
  l.nv == 0 || 192 < l.nv || l.ppb == 0 || 128 < l.ppb || 256 < l.accKb || l.ppb % l.cores != 0 || 16 < l.ppb / l.cores
def scratchBad (l : Launch) : Bool :=
  (l.allocs.any fun a => 5 < a.2 || a.1 % (16 * 2 ^ a.2) != 0) || 768 * 1024 < l.scratchEnd
def clusterBad (s : State) (l : Launch) : Bool :=
  5 < l.lcx || 5 < l.lcy || 5 < l.lcz || 5 < l.lcx + l.lcy + l.lcz || l.gx % 2 ^ l.lcx != 0 || l.gy % 2 ^ l.lcy != 0 ||
  l.gz % 2 ^ l.lcz != 0 || (l.nclusters != 0 && !clusterPacks s l)
def coschedBad (s : State) (l : Launch) : Bool := (l.coRes && !gridPacks s l) || (l.pgn != 0 && !l.coRes)
/-- Segments set in a map. -/
def segCount (m : Nat) : Nat := ((upTo 64).filter (bitOf m)).length
def codeBad (l : Launch) : Bool :=
  l.code % 4096 != 0 || (upTo 64).any (fun g => bitOf l.resMap g && !bitOf l.segMap g) ||
  !bitOf l.resMap (l.entry / 1024) || (l.handler != 0 && !bitOf l.resMap (l.handler / 1024)) || l.segBud == 0 ||
  64 < l.segBud || l.segBud < segCount l.resMap
/-- A dependence word is an 8-byte-aligned buffer address of the context inside its buffer (R336). -/
def depBad (s : State) (l : Launch) (i : Nat) : Bool :=
  let a := l.depAddr i
  a % 8 != 0 || isWin a ||
  match bufOf s l.ctx (eaIdx a) with
  | some e => eaIdx a == 0 || bufLen e < eaOff a + 8
  | none => true

/-! ## What the bind core reads -/

/-- The agent of a launch's home bind core. -/
def homeAg (l : Launch) : Ag := plainAg (bindCore l.die) l.ctx

/-- Waits on a held page longer than its limit (19 R387, 28 R472). -/
def bindStuck (s : State) (l : Launch) (ea : Nat) : Bool :=
  match aget? l.lid s.waits with
  | some t => pastLimit s t (if isPeerEa s l.ctx ea then s.peerTimeout else s.holdLimit)
  | none => false

/-- n bytes read for a launch by its bind core: the value, or the status code of a read that cannot be made, with the state it
leaves; code 0 waits on a held page or for a peer, code 256 for a port or for room. -/
def bindRead (s : State) (l : Launch) (code ea n align : Nat) : Except (Nat × State) (Nat × State) :=
  match checkEa s l { size := n, align := align, r := true, scr := false, acc := false } ea with
  | some _ => .error (code, s)
  | none =>
    match readEa s (homeAg l) ea n with
    | .ok x t => .ok (x, t)
    | .fault _ _ t => .error (code, t)
    | .hold a t => .error (if bindStuck s l a then code else 0, t)
    | .busy t => .error (256, t)

/-- The control blocks of a launch's rings. -/
def ringsOf (table : Nat) : List Nat := (upTo 5).map fun i => fld table (64 * i) 64

/-- Ring control blocks read and checked (RING_BAD) (assumption 54, DEDUCED). -/
def readRings (l : Launch) : List Nat → State → Except (Nat × State) State
  | [], s => .ok s
  | r :: rs, s =>
    if r == 0 then readRings l rs s
    else do
      let (cb, s) ← bindRead s l 8 r 64 1
      if fld cb 128 32 < 4 || 20 < fld cb 128 32 || fld cb 160 352 != 0 then .error (8, s) else readRings l rs s

/-- Static layout records from i on, n of them (LAYOUT_BAD). -/
def readLayouts (l : Launch) : Nat → Nat → State → Except (Nat × State) (List (Option Nat) × State)
  | 0, _, s => .ok ([], s)
  | n + 1, i, s => do
    let (r, s) ← bindRead s l 9 (eaAdd l.layT (128 * i : Nat)) 128 1
    if !layOk l.fmtSlot r then .error (9, s)
    else
      let (rs, s) ← readLayouts l n (i + 1) s
      .ok (some r :: rs, s)

/-! ## The deterministic descriptor (24 R436, R437) -/

def detWbuf (d : Nat) : Nat := fld d 0 64
def detWbsz (d : Nat) : Nat := fld d 80 16
def detSlots (d : Nat) : Nat := fld d 116 12
def detNres (d : Nat) : Nat := fld d 96 2
def detAddr (d r : Nat) : Nat := fld d (128 + 256 * r) 64
def detTable (d r : Nat) : Nat := fld d (192 + 256 * r) 64
def detWc (d r : Nat) : Nat := fld d (256 + 256 * r) 32
def detWide (d r : Nat) : Bool := bitOf d (288 + 256 * r)
/-- Bytes of reservation word r. -/
def detSize (d r : Nat) : Nat := if detWide d r then 8 else 4

/-- The count W(b) of a reservation word. -/
def wantOf (d : Nat) (counts : List (List Nat)) (r b : Nat) : Nat :=
  if detTable d r == 0 then detWc d r else (counts.getD r []).getD b 0
/-- The prefix P(b). -/
def prefixOf (d : Nat) (counts : List (List Nat)) (r b : Nat) : Nat :=
  if detTable d r == 0 then b * detWc d r else ((counts.getD r []).take b).foldl (· + ·) 0

/-- What makes a descriptor bad but for its tables. -/
def detBad (s : State) (l : Launch) (d : Nat) : Bool :=
  fld d 64 16 != 0 || fld d 98 18 != 0 || fld d 896 128 != 0 ||
  (upTo 3).any (fun r => fld d (289 + 256 * r) 31 != 0 || fld d (320 + 256 * r) 64 != 0) || detWbsz d == 0 || 4096 < detWbsz d || detSlots d == 0 ||
  (checkEa s l { size := detSlots d * detWbsz d * 65536, align := 65536, r := true, w := true, scr := false, acc := false }
    (detWbuf d)).isSome ||
  detSlots d < l.clSize ||
  (upTo (detNres d)).any (fun r =>
    (checkEa s l { size := detSize d r, align := detSize d r, scr := false, acc := false } (detAddr d r)).isSome ||
    (upTo r).any fun q => overlap (detAddr d r) (detSize d r) (detAddr d q) (detSize d q)) ||
  l.pgn != 0

/-- The counts of n blocks from b on. -/
def readCounts (l : Launch) (table : Nat) : Nat → Nat → State → Except (Nat × State) (List Nat × State)
  | 0, _, s => .ok ([], s)
  | n + 1, b, s => do
    let (x, s) ← bindRead s l 12 (eaAdd table (4 * b : Nat)) 4 4
    let (xs, s) ← readCounts l table n (b + 1) s
    .ok (x :: xs, s)

/-- The tables of n reservation words from r on. -/
def readTables (l : Launch) (d : Nat) : Nat → Nat → State → Except (Nat × State) (List (List Nat) × State)
  | 0, _, s => .ok ([], s)
  | n + 1, r, s => do
    let (c, s) ← if detTable d r == 0 then .ok ([], s) else readCounts l (detTable d r) l.nblocks 0 s
    let (cs, s) ← readTables l d n (r + 1) s
    .ok (c :: cs, s)

/-- A prefix sum of counts that a u32 word cannot hold. -/
def prefixBad (l : Launch) (d : Nat) (counts : List (List Nat)) : Bool :=
  (upTo (detNres d)).any fun r => !detWide d r && 2 ^ 32 ≤ prefixOf d counts r l.nblocks

/-- The descriptor step of a deterministic launch. -/
def readDet (s : State) (l : Launch) : Except (Nat × State) (Nat × List (List Nat) × State) :=
  if !l.isDet then .ok (0, [], s)
  else do
    let a := (l.args.getD 30 0).toNat + 2 ^ 32 * (l.args.getD 31 0).toNat
    let (d, s) ← bindRead s l 12 a 128 64
    if detBad s l d then .error (12, s)
    else
      let (cs, s) ← readTables l d (detNres d) 0 s
      if prefixBad l d cs then .error (12, s) else .ok (d, cs, s)

/-! ## Validation -/

/-- The checks of R335 and R437 in order, and the launch that is accepted. -/
def validate (s : State) (l : Launch) (pmax : Nat) : Except (Nat × State) (Launch × State) :=
  if recBad l pmax then .error (1, s)
  else if fmtBad l then .error (2, s)
  else if shapeBad l then .error (3, s)
  else if scratchBad l then .error (4, s)
  else if clusterBad s l then .error (5, s)
  else if coschedBad s l then .error (6, s)
  else if codeBad l then .error (7, s)
  else do
    let (table, s) ← bindRead s l 8 l.ringT 40 1
    let rings := ringsOf table
    if rings.getD 0 0 == 0 || (l.shadowN != 0 && rings.getD 4 0 == 0) then .error (8, s)
    else
      let s ← readRings l rings s
      if 4096 < l.nstat + l.ndyn then .error (9, s)
      else
        let (lays, s) ← readLayouts l l.nstat 0 s
        if (upTo l.ndep).any (depBad s l) then .error (10, s)
        else
          let (args, s) ← bindRead s l 11 l.argAddr 128 16
          let l := { l with rings := rings, layouts := lays ++ List.replicate l.ndyn none,
                            args := (wordsOf 32 args).map (BitVec.ofNat 32), held := List.replicate l.ndep false,
                            pending := upTo l.nclusters }
          let (d, cs, s) ← readDet s l
          .ok ({ l with det := d, counts := cs }, s)

/-- The record at the head of a queue as a launch not yet accepted. -/
def headLaunch (s : State) (k : Nat) (q : Queue) (head record : Nat) : Launch :=
  newLaunch (k * 2 ^ 48 + head % 2 ^ 48) q.ctx k q.die record [] [] [] (aget? (k, head) s.packets) 0 []

/-- A record is taken: HEAD advances. -/
def takeRecord (s : State) (k : Nat) (q : Queue) (head lid : Nat) : Got :=
  let s := { s with packets := adel (k, head) s.packets, waits := adel lid s.waits }
  writeEa s (queueAg q) (eaAdd q.base 8) 8 (head + 1)

/-- A wait for a held page begins, unless one runs (assumption 32, DEDUCED). -/
def noteWait (s : State) (lid : Nat) : State :=
  match aget? lid s.waits with
  | some _ => s
  | none => { s with waits := aset lid s.ref s.waits }

/-- LAUNCH_RECORD_VALIDATE (R333, R335) (assumption 25, DEDUCED). -/
def execLaunchRecordValidate (s : State) : Host.Outcome State Fault Refusal :=
  match s.input with
  | .launchRecordValidate k _ =>
    match aget? k s.queues with
    | none => .refused (.notEnabled "LAUNCH_RECORD_VALIDATE")
    | some q =>
      let up := bindUp s q.die && !linkDown s q.die
      match readEa (acquire s (bindCore q.die) 8) (queueAg q) q.base 24 with
      | .hold _ t => heldNext "LAUNCH_RECORD_VALIDATE" s up t
      | .busy _ | .fault .. => .refused (.notEnabled "LAUNCH_RECORD_VALIDATE")
      | .ok x s1 =>
        let cb := queueCb x
        let go := up && cb.tail != cb.head
        match readEa s1 (queueAg q) (eaAdd q.base (64 + 256 * (cb.head % 2 ^ cb.n) : Nat)) 256 with
        | .hold _ t => heldNext "LAUNCH_RECORD_VALIDATE" s go t
        | .busy _ | .fault .. => .refused (.notEnabled "LAUNCH_RECORD_VALIDATE")
        | .ok record s2 =>
          let l := headLaunch s k q cb.head record
          let take := fun (u : State) (accepted : State → State) =>
            match takeRecord u k q cb.head l.lid with
            | .ok _ t => whenEnabled "LAUNCH_RECORD_VALIDATE" go (refreshEligible (accepted t))
            | .hold _ t => heldNext "LAUNCH_RECORD_VALIDATE" s go t
            | .busy _ | .fault .. => .refused (.notEnabled "LAUNCH_RECORD_VALIDATE")
          match validate s2 l cb.pmax with
          | .ok (l, s3) => take s3 fun t => reportLaunch { t with launches := t.launches ++ [l] } l 8 0
          | .error (0, t) => whenEnabled "LAUNCH_RECORD_VALIDATE" go (noteWait (s.keepHold t) l.lid)
          | .error (256, _) => .refused (.notEnabled "LAUNCH_RECORD_VALIDATE")
          | .error (code, _) => take s2 fun t => reportLaunch t l 9 code
  | _ => .refused (.notEnabled "LAUNCH_RECORD_VALIDATE")

/-! ## Dependences (R336) -/

/-- A dependence holds for a value read. -/
def depHolds (w v : Nat) : Bool := wrap ((w : Int) - v) 64 < 2 ^ 63

/-- DEPENDENCE_READ (R336): an acquire at .sy; a fault leaves the dependence not held. -/
def execDependenceRead (s : State) : Host.Outcome State Fault Refusal :=
  match s.input with
  | .dependenceRead lid i _ =>
    match s.launch? lid with
    | none => .refused (.notEnabled "DEPENDENCE_READ")
    | some l =>
      let go := i < l.ndep && !l.eligible && !l.held.getD i true && bindUp s l.die
      match readEa (acquire s (bindCore l.die) 8) (homeAg l) (l.depAddr i) 8 with
      | .ok w t =>
        whenEnabled "DEPENDENCE_READ" go
          (if depHolds w (l.depVal i) then refreshEligible (t.setLaunch { l with held := l.held.set i true }) else t)
      | .hold _ t => whenEnabled "DEPENDENCE_READ" go (s.keepHold t)
      | .busy _ | .fault .. => whenEnabled "DEPENDENCE_READ" go s
  | _ => .refused (.notEnabled "DEPENDENCE_READ")

end Sys2Proof.Machine
end

