-- ==== Sys2Proof/Machine/External.lean ====
section
/-! DEFINITION. Agents outside the package: peer packages (28_fabric.md R469 to R473), host RDMA (R474 to R477), launch packets
(R478 to R480), and what management requests set up: registers (00_scope.md R8, R9), buffer tables (19_package_memory.md R379
to R381, 20_versioned_memory.md R394), launch queues (16_launch_scheduling.md R332), connections. -/

namespace Sys2Proof.Machine

/-! ## Accesses of an agent that stands in no die (assumption 8, DESIGN CHOICE) -/

/-- Where an outside access to an offset of a buffer goes. -/
def outLoc (s : State) (ctx idx e off : Nat) (write : Bool) : Loc :=
  if walkBusy s noDie e off then .busy
  else checkLeaf s noDie (pageKey ctx idx e off) e off (walk s e off) write (if write then .write else .read)

/-- What an outside agent's access of n bytes gives, within one sector: f answers the value and the state at its place. -/
def outAccess (s : State) (ctx idx e off : Nat) (write : Bool) (f : State → Nat → Nat × State) : Got :=
  match outLoc s ctx idx e off write with
  | .at (.mem ppa) => let (x, s) := f (s.noteUse idx e off ppa) ppa; .ok x s
  | .at _ => .fault Cause.pageInvalid (idx * 2 ^ 44 + off) s
  | .held => .hold (idx * 2 ^ 44 + off) s
  | .busy => .busy s
  | .cow k => .hold (idx * 2 ^ 44 + off) (startCow s k)
  | .fault c => .fault c (idx * 2 ^ 44 + off) s

/-! ## Peer packages (R470, R471) -/

/-- The answer to a peer: 0 done with a value, 1 refused, 2 a fault's cause (assumption 18, DESIGN CHOICE). -/
def answerPeer (s : State) (r : PeerReq) (status value : Nat) : State := s.send 6 r.pkg (status + 4 * value)

/-- The home package's check (R470). -/
def peerCheck (s : State) (r : PeerReq) : Option Nat :=
  match bufOf s r.ctx r.buf with
  | none => none
  | some e =>
    let rd := bufHR e
    let wr := bufHW e
    let ok := match r.op with
      | 0 | 4 => rd
      | 1 | 5 | 6 | 11 | 12 => wr
      | 2 | 10 | 13 => bufHA e
      | _ => bufHA e && rd
    if !bufPeer e && ok && r.offset + r.size ≤ bufLen e then some e else none

/-- The access performed at its place. -/
def peerDo (r : PeerReq) (s : State) (ppa : Nat) : Nat × State :=
  match r.op with
  | 0 => dirRead s ppa r.size
  | 1 => (0, dirWrite s ppa r.size r.data)
  | _ =>
    let old := coherentRead s ppa r.size
    let a : PeerAct := { op := r.op, code := r.code, data := r.data, data2 := r.data2 }
    (if r.op == 3 then old else 0, dirWrite s ppa r.size (a.update old))

/-- CLNR and INVR of a peer (07 R173). -/
def peerClean (s : State) (r : PeerReq) (e : Nat) : Got :=
  if r.size = 0 then .ok 0 s
  else
    let lo := r.offset / 128 * 128
    let hi := roundUp (r.offset + r.size) 128
    match cleanGranules s (outAg r.ctx) r.buf e (r.op == 5) ((hi - lo) / 32) lo [] with
    | .ok lines => .ok 0 (lines.foldl (fun s l => let s := s.noteSpread e (128 * l); if r.op == 5 then discardLine s l else flushLine s l (r.op == 4)) s)
    | .error (.fault c) => .fault c (r.buf * 2 ^ 44 + r.offset) s
    | .error (.cow k) => .hold (r.buf * 2 ^ 44 + r.offset) (startCow s k)
    | .error .busy => .busy s
    | .error .held | .error (.at _) => .hold (r.buf * 2 ^ 44 + r.offset) s

/-- The pod barrier that a message names (R473). -/
def podKey (r : PeerReq) : Nat × Nat × Nat × Nat × Nat := (7, r.ctx, r.buf, 0, r.offset)

/-- A message about a pod group: arrivals, threads that leave, arrivals withdrawn. -/
def podMessage (s : State) (r : PeerReq) : State :=
  let up := fun (d : Int) => addArrival s 0 (.wide (podKey r)) d
  match r.op with
  | 7 => checkBar (up r.data) 0 (.wide (podKey r))
  | 8 =>
    let i : BarInst := (7, r.ctx, r.buf, 0)
    let (j, l) := aget (0, 0) i s.members
    checkInst { s with members := aset i (j, l + r.data) s.members } i
  | _ => up (-(r.data : Int))

/-- A request about a pod group, of which no memory is part. -/
def isPodReq (r : PeerReq) : Bool := 7 ≤ r.op && r.op ≤ 9
/-- A request for lines, of any length. -/
def isCleanReq (r : PeerReq) : Bool := 4 ≤ r.op && r.op ≤ 6

/-- PEER_ACCESS (R470): it waits, unperformed and unanswered, while its page is held. -/
def execPeerAccess (s : State) : Host.Outcome State Fault Refusal :=
  match s.input with
  | .peerAccess r =>
    if isPodReq r then whenEnabled "PEER_ACCESS" ((podLaunch s r.ctx r.buf).isSome && r.offset < 4) (podMessage s r)
    else
      let go := s.booted && r.op ≤ 13 && (isCleanReq r || (1 ≤ r.size && r.offset % 32 + r.size ≤ 32))
      match peerCheck s r with
      | none => whenEnabled "PEER_ACCESS" go (answerPeer s r 1 0)
      | some e =>
        match (if isCleanReq r then peerClean s r e else outAccess s r.ctx r.buf e r.offset (r.op != 0) (peerDo r)) with
        | .ok x t => whenEnabled "PEER_ACCESS" go (answerPeer t r 0 x)
        | .fault c _ t => whenEnabled "PEER_ACCESS" go (answerPeer t r 2 c)
        | .hold _ t => heldNext "PEER_ACCESS" s go t
        | .busy _ => .refused (.notEnabled "PEER_ACCESS")
  | _ => .refused (.notEnabled "PEER_ACCESS")

/-! ## Host RDMA (R475 to R477) -/

/-- The Ethernet port carries traffic: it is up, some lane works, and its component is not restarting. -/
def ethUp (s : State) : Bool := s.booted && 0 < s.ethWidth && !s.out (.link 18)

/-- The entry of a message's buffer that passes the check of R475. -/
def hostCheck (s : State) (c : Conn) (key va len : Nat) (rights : Nat → Bool) : Option (Nat × Nat) :=
  let idx := fld key 0 20
  match bufOf s c.ctx idx with
  | none => none
  | some e =>
    if fld key 20 12 == 0 && fld va 44 20 == 0 && !bufPeer e && fld va 0 44 + len ≤ bufLen e && rights e then some (idx, e)
    else none

/-- Units of at most 8 bytes, naturally aligned, written in ascending order (R476, assumption 16, DESIGN CHOICE). -/
def hostWrite (ctx idx e : Nat) : Nat → State → Nat → Nat → Nat → Got
  | 0, s, _, _, _ => .ok 0 s
  | f + 1, s, off, n, x =>
    if n = 0 then .ok 0 s
    else
      let c := min n (8 - off % 8)
      match outAccess s ctx idx e off true fun s ppa => (0, dirWrite s ppa c (x % 2 ^ (8 * c))) with
      | .ok _ s => hostWrite ctx idx e f s (off + c) (n - c) (x / 2 ^ (8 * c))
      | r => r
/-- Units of at most 8 bytes read in ascending order. -/
def hostReadFrom (ctx idx e : Nat) : Nat → State → Nat → Nat → Got
  | 0, s, _, _ => .ok 0 s
  | f + 1, s, off, n =>
    if n = 0 then .ok 0 s
    else
      let c := min n (8 - off % 8)
      match outAccess s ctx idx e off false fun s ppa => dirRead s ppa c with
      | .ok x s =>
        match hostReadFrom ctx idx e f s (off + c) (n - c) with
        | .ok y s => .ok (x + 2 ^ (8 * c) * y) s
        | r => r
      | r => r

/-- A message of a connection ends with the remote-access error. -/
def hostRefuse (s : State) (conn : Nat) : State := s.send 1 conn 0
/-- A translation fault after the check: the same error, and an entry in the log. -/
def hostFault (s : State) (conn cause ea : Nat) : State := hostRefuse (reportEvent s 840 1 cause 2 ea 0) conn

/-- The code of R168 for an operation on u64. -/
def codeU64 (op : Nat) : Nat := 2 * 16 + op

/-- An 8-byte atomic of the host (R475): ATOMR on u64 at the location's single point. -/
def hostAtomic (s : State) (ctx idx e va code x y : Nat) : Got :=
  outAccess s ctx idx e (fld va 0 44) true fun s ppa =>
    let old := coherentRead s ppa 8
    (old, dirWrite s ppa 8 (atomNew code old x y))

/-- The key, the address, the length and the right of a message. -/
def HostMsg.names : HostMsg → Nat × Nat × Nat × (Nat → Bool)
  | .write key va len _ _ => (key, va, len, bufHW)
  | .read key va len => (key, va, len, bufHR)
  | .cas key va _ _ | .add key va _ => (key, va, 8, bufHA)
/-- A message's accesses (R475 to R477). -/
def HostMsg.run (m : HostMsg) (s : State) (ctx idx e : Nat) : Got :=
  match m with
  | .write _ va len data _ => hostWrite ctx idx e (len / 8 + 2) s (fld va 0 44) len data
  | .read _ va len => hostReadFrom ctx idx e (len / 8 + 2) s (fld va 0 44) len
  | .cas _ va x y => hostAtomic s ctx idx e va (codeU64 7) (x % 2 ^ 64) (y % 2 ^ 64)
  | .add _ va x => hostAtomic s ctx idx e va (codeU64 0) (x % 2 ^ 64) 0
/-- A message's answer: its completion, with the immediate (R474, R476), the data read, or the value that an atomic found. -/
def HostMsg.answer (m : HostMsg) (s : State) (conn x : Nat) : State :=
  match m with
  | .write _ _ _ _ imm => s.send 0 conn (match imm with | some i => 1 + 2 * (i % 2 ^ 32) | none => 0)
  | .read .. => s.send 2 conn x
  | .cas .. | .add .. => s.send 3 conn x
/-- An atomic whose address is not 8-byte aligned (R475). -/
def HostMsg.misaligned : HostMsg → Bool
  | .cas _ va _ _ | .add _ va _ => va % 8 != 0
  | .write .. | .read .. => false
/-- The event of a message. -/
def HostMsg.event : HostMsg → Instr
  | .write _ _ _ _ none => .hostRdmaWrite
  | .write _ _ _ _ (some _) => .hostRdmaWriteImm
  | .read .. => .hostRdmaRead
  | .cas .. => .hostAtomicCas
  | .add .. => .hostAtomicFetchAdd

/-- A message at its turn, and the state before it: performed and answered, refused, ended by a fault, or waiting on a held
page or for a port. -/
def hostTurn (s : State) (conn : Nat) (c : Conn) (m : HostMsg) : Got :=
  if m.misaligned then .ok 0 (s.send 9 conn 0)
  else
    let (key, va, len, rights) := m.names
    match hostCheck s c key va len rights with
    | none => .ok 0 (hostRefuse s conn)
    | some (idx, e) =>
      match m.run s c.ctx idx e with
      | .ok x t => .ok 0 (m.answer t conn x)
      | .fault cause ea t => .ok 0 (hostFault t conn cause ea)
      | r => r

/-- A message of an ordered connection waits behind those before it (R476, R477). -/
def hostBehind (l : List HeldMsg) (conn : Nat) (c : Conn) : Bool := c.kind != .uetRud && l.any fun h => h.conn == conn

/-- A message arrives: it has its turn, or it waits. -/
def hostArrive (name : String) (s : State) (conn : Nat) (m : HostMsg) : Host.Outcome State Fault Refusal :=
  let keep := fun (t : State) since => { t with hostHeld := t.hostHeld ++ [{ conn := conn, msg := m, since := since }] }
  match aget? conn s.conns with
  | none => .refused (.notEnabled name)
  | some c =>
    if hostBehind s.hostHeld conn c then whenEnabled name (ethUp s) (keep s none)
    else match hostTurn s conn c m with
      | .ok _ t => whenEnabled name (ethUp s) t
      | .hold _ t => whenEnabled name (ethUp s) (keep (s.keepHold t) (some s.ref))
      | .busy _ | .fault .. => whenEnabled name (ethUp s) (keep s none)

/-- A message that waits is tried again once none before it of its connection waits; past the hold limit it takes MIGR_STUCK
(19 R387). -/
def hostRetry (name : String) (s : State) (i : Nat) (mine : HostMsg → Bool) : Host.Outcome State Fault Refusal :=
  match s.hostHeld[i]? with
  | none => .refused (.notEnabled name)
  | some h =>
    match aget? h.conn s.conns with
    | none => .refused (.notEnabled name)
    | some c =>
      let go := mine h.msg && ethUp s && !hostBehind (s.hostHeld.take i) h.conn c
      let ended := fun (t : State) => { t with hostHeld := t.hostHeld.eraseIdx i }
      match hostTurn s h.conn c h.msg with
      | .ok _ t => whenEnabled name go (ended t)
      | .busy _ | .fault .. => .refused (.notEnabled name)
      | .hold ea t =>
        match h.since with
        | none =>
          let u := s.keepHold t
          whenEnabled name go { u with hostHeld := u.hostHeld.set i { h with since := some s.ref } }
        | some from_ =>
          if pastLimit s from_ s.holdLimit then whenEnabled name go (ended (hostFault s h.conn Cause.migrStuck ea))
          else heldNext name s go t

/-- HOST_RDMA_WRITE (R476). -/
def execHostRdmaWrite (s : State) : Host.Outcome State Fault Refusal :=
  match s.input with
  | .hostRdmaWrite conn key va len data => hostArrive "HOST_RDMA_WRITE" s conn (.write key va len data none)
  | .hostRetry i => hostRetry "HOST_RDMA_WRITE" s i fun m => m.event == .hostRdmaWrite
  | _ => .refused (.notEnabled "HOST_RDMA_WRITE")
/-- HOST_RDMA_WRITE_IMM (R474, R476): the completion carries the immediate. -/
def execHostRdmaWriteImm (s : State) : Host.Outcome State Fault Refusal :=
  match s.input with
  | .hostRdmaWriteImm conn key va len data imm => hostArrive "HOST_RDMA_WRITE_IMM" s conn (.write key va len data (some imm))
  | .hostRetry i => hostRetry "HOST_RDMA_WRITE_IMM" s i fun m => m.event == .hostRdmaWriteImm
  | _ => .refused (.notEnabled "HOST_RDMA_WRITE_IMM")
/-- HOST_RDMA_READ (R477). -/
def execHostRdmaRead (s : State) : Host.Outcome State Fault Refusal :=
  match s.input with
  | .hostRdmaRead conn key va len => hostArrive "HOST_RDMA_READ" s conn (.read key va len)
  | .hostRetry i => hostRetry "HOST_RDMA_READ" s i fun m => m.event == .hostRdmaRead
  | _ => .refused (.notEnabled "HOST_RDMA_READ")
/-- HOST_ATOMIC_CAS (R475). -/
def execHostAtomicCas (s : State) : Host.Outcome State Fault Refusal :=
  match s.input with
  | .hostAtomicCas conn key va compare swap => hostArrive "HOST_ATOMIC_CAS" s conn (.cas key va compare swap)
  | .hostRetry i => hostRetry "HOST_ATOMIC_CAS" s i fun m => m.event == .hostAtomicCas
  | _ => .refused (.notEnabled "HOST_ATOMIC_CAS")
/-- HOST_ATOMIC_FETCH_ADD (R475). -/
def execHostAtomicFetchAdd (s : State) : Host.Outcome State Fault Refusal :=
  match s.input with
  | .hostAtomicFetchAdd conn key va addend => hostArrive "HOST_ATOMIC_FETCH_ADD" s conn (.add key va addend)
  | .hostRetry i => hostRetry "HOST_ATOMIC_FETCH_ADD" s i fun m => m.event == .hostAtomicFetchAdd
  | _ => .refused (.notEnabled "HOST_ATOMIC_FETCH_ADD")

/-! ## Launch packets (R478 to R480) -/

/-- A packet's header: FMT and reserved fields. -/
def packetHeaderOk (h : Nat) : Bool :=
  fld h 0 16 == 1 && fld h 16 16 == 0 && fld h 40 8 == 0 && fld h 128 384 == 0

/-- The first check of R478 that fails, with the TAIL to answer: its NST. A path numbered from 8,192 up is a UALink path. -/
def packetNack (s : State) (conn h : Nat) (q : Option Queue) (cb : Option QueueCb) : Option (Nat × Nat) :=
  let connOk := 8192 ≤ conn || (aget? conn s.conns).any fun c => c.ctx == fld h 48 16
  let tail := (cb.map QueueCb.tail).getD 0
  if !packetHeaderOk h then some (1, tail)
  else match q, cb with
    | some q, some cb =>
      if cb.dev then some (2, tail)
      else if q.ctx != fld h 48 16 || !connOk then some (3, tail)
      else if fld h 64 64 != tail then some (4, tail)
      else if 2 ^ cb.n ≤ wrap ((cb.tail : Int) - cb.head) 64 then some (5, tail)
      else none
    | _, _ => some (2, 0)

/-- A record placed in its queue, TAIL a release (16 R333). -/
def placePacket (s : State) (conn k : Nat) (q : Queue) (cb : QueueCb) (record : Nat) : Got :=
  match writeEa s (outAg q.ctx) (eaAdd q.base (64 + 256 * (cb.tail % 2 ^ cb.n) : Nat)) 256 record with
  | .ok _ s =>
    match writeEa s (outAg q.ctx) q.base 8 (cb.tail + 1) with
    | .ok _ s => .ok 0 { s with packets := aset (k, cb.tail) conn s.packets }
    | r => r
  | r => r

/-- LAUNCH_PACKET (R478): the record is placed, or a NACK answers (R479). -/
def execLaunchPacket (s : State) : Host.Outcome State Fault Refusal :=
  match s.input with
  | .launchPacket conn h record =>
    let k := fld h 32 8
    let word := fld h 32 8 + 2 ^ 16 * fld h 48 16
    let up := s.booted && (8192 ≤ conn || (ethUp s && (aget? conn s.conns).isSome))
    let nack := fun (s : State) nst tail => s.send 4 conn (residency 1 word tail nst 0)
    match aget? k s.queues with
    | none =>
      (match packetNack s conn h none none with
       | some (nst, tail) => whenEnabled "LAUNCH_PACKET" up (nack s nst tail)
       | none => .refused (.notEnabled "LAUNCH_PACKET"))
    | some q =>
      match readEa s (outAg q.ctx) q.base 24 with
      | .hold _ t => heldNext "LAUNCH_PACKET" s up t
      | .busy _ => .refused (.notEnabled "LAUNCH_PACKET")
      | .fault _ _ t => whenEnabled "LAUNCH_PACKET" up (nack t (if packetHeaderOk h then 2 else 1) 0)
      | .ok x t =>
        let cb := queueCb x
        match packetNack t conn h (some q) (some cb) with
        | some (nst, tail) => whenEnabled "LAUNCH_PACKET" up (nack t nst tail)
        | none =>
          match placePacket t conn k q cb record with
          | .ok _ u => whenEnabled "LAUNCH_PACKET" up u
          | .hold _ u => heldNext "LAUNCH_PACKET" s up u
          | .busy _ => .refused (.notEnabled "LAUNCH_PACKET")
          | .fault _ _ u => whenEnabled "LAUNCH_PACKET" up (nack u 2 cb.tail)
  | _ => .refused (.notEnabled "LAUNCH_PACKET")

/-! ## Management registers (00 R8, R9) -/

/-- Management requests are served (27 R462, R460). -/
def managed (s : State) : Bool := s.booted && !s.out .monument

/-- A field set within its range; a value outside it is not taken (assumption 38, DEDUCED). -/
def ranged (s : State) (ok : Bool) (t : State) : State := if ok then t else s

/-- A register field written (10 R234, R235; 16 R339, R345; 19 R387, R390; 25 R442, R451; 28 R472): QDL and the windows in their
units of the spec, every other time in ticks. A slot that is SAVING takes no save address (assumption 113, DESIGN CHOICE). -/
def writeReg (s : State) (r : MgmtReg) (v : Nat) : State :=
  match r with
  | .holdLimit => { s with holdLimit := v }
  | .age => ranged s (0 < v) { s with age := v }
  | .reservation => { s with resInterval := v }
  | .quiesceDeadline => ranged s (1 ≤ v && v ≤ 65535) { s with qdl := 1000 * v }
  | .peerTimeout => ranged s (10000 ≤ v && v ≤ 1000000000) { s with peerTimeout := v }
  | .escalatedHold => { s with escHold := v }
  | .threshold k => ranged s (1 ≤ v && v ≤ 255) { s with thresholds := s.thresholds.set k v }
  | .window k => ranged s (1000000 ≤ v && v ≤ 86400000000000) { s with windows := s.windows.set k v }
  | .keySlot k =>
    if k = 0 || 256 ≤ k then s
    else if v = 0 then { s with keys := adel k s.keys }
    else { s with keys := aset k v s.keys }
  | .saveAddr k =>
    if (s.slot k).st == .saving || 2048 ≤ k then s else s.setSlot k { s.slot k with saveAddr := v % 2 ^ 64 }
  | .slotControl k => if 2048 ≤ k then s else writeControl s k v
  | .slotStatus _ | .errorRegs _ => s

/-- REGISTER_WRITE (R8, R9): read-only and reserved fields take nothing. -/
def execRegisterWrite (s : State) : Host.Outcome State Fault Refusal :=
  match s.input with
  | .registerWrite r v => whenEnabled "REGISTER_WRITE" (managed s) (writeReg s r v)
  | _ => .refused (.notEnabled "REGISTER_WRITE")

/-! ## Buffer tables (19 R379 to R381) -/

/-- The bits that an entry lists (R379). -/
def entryFields : List (Nat × Nat) :=
  [(0, 22), (26, 6), (32, 8), (40, 4), (64, 44), (128, 40), (192, 32), (224, 13), (240, 8), (256, 16), (320, 30)]
/-- Reserved bits of an entry are zero. -/
def entryZero (e : Nat) : Bool := entryFields.foldl (fun r f => setFld r f.1 f.2 0) (e % 2 ^ 512) == 0

/-- A PPA names a byte of a stack (R378). -/
def ppaOk (ppa : Nat) : Bool := ppaStack ppa < 12 && ppa % 2 ^ 36 < stackBytes

/-- What R379 and R380 ask of an entry that is to be valid. -/
def entryOk (idx e : Nat) : Bool :=
  let ilv := bufIlv e
  1 ≤ idx && idx ≤ 0xFFFFD && entryZero e && fld e 28 2 ≤ 1 && ilv ≤ 2 && 1 ≤ bufLen e &&
  (if bufPeer e then bufRoot e == 0 && bufKey e == 0 && fld e 192 32 == 0 && fld e 224 64 == 0
   else fld e 320 30 == 0 && bufRoot e % 8192 == 0 && ppaOk (bufRoot e)) &&
  (ilv == 0 || bufStack e < 12) && bufPcLog e ≤ 6 && bufPcBase e % 2 ^ bufPcLog e == 0 && bufPcBase e + 2 ^ bufPcLog e ≤ 64 &&
  (ilv != 2 || (bufKey e == 0 && bufDepth e == 0 && bufBkLog e ≤ 4 && 5 ≤ bufCsh e && bufCsh e ≤ 16 &&
    bufRBase e + (bufLen e + 2 ^ (bufPcLog e + bufBkLog e) * 1024 - 1) / (2 ^ (bufPcLog e + bufBkLog e) * 1024) ≤ 49152)) &&
  (bufDepth e == 0 || !bufPeer e)

/-- A root or directory entry: V and the PPA of the next table, every other bit zero (R384); the address is not checked
(assumption 117, DESIGN CHOICE). -/
def pointerWordOk (x : Nat) : Bool := fld x 40 23 == 0
/-- A leaf entry: bits 36 and 11 to 0 zero (R385). -/
def leafWordOk (x : Nat) : Bool := fld x 36 1 == 0 && fld x 0 12 == 0
/-- Words on the path to a leaf entry, root first: no reserved bit is set (00 R9). -/
def pathWordsOk : List Nat → Bool
  | [a, b, c] => pointerWordOk a && pointerWordOk b && leafWordOk c
  | as => as.all pointerWordOk
/-- The page tables of an entry hold no reserved bit. -/
def tablesOk (s : State) (e : Nat) : Bool :=
  bufPeer e || (pagesOf e).all fun p => pathWordsOk ((walkAddrs s e (pageBase e p)).map fun a => coherentRead s a 8)
/-- A page-table word that Raleb may write: with it no table of an installed buffer holds a reserved bit (00 R9; assumption 73,
DESIGN CHOICE). -/
def tableWordOk (t : State) (x : Nat) : Bool := (pointerWordOk x || leafWordOk x) && t.bufs.all fun b => tablesOk t b.2

/-- Every translation of a buffer is dropped, and what was held on its pages is translated again (R381, R387). -/
def shootBuffer (s : State) (ctx idx : Nat) : State :=
  let s := { s with dies := s.dies.map fun (d : Nat × Die) =>
    (d.1, { d.2 with tlb := d.2.tlb.filter fun t => !(t.1.ctx == ctx && t.1.buf == idx) }) }
  let pages := ((s.ops.filterMap (opPage s)).filter fun (k : PageKey) => k.ctx == ctx && k.buf == idx).eraseDups
  pages.foldl replayHeld s

/-- A page of the buffer is being moved, copied or quarantined. -/
def bufferBusy (s : State) (ctx idx : Nat) : Bool :=
  (s.migrations.any fun m => m.page.ctx == ctx && m.page.buf == idx) ||
  (s.cows.any fun k => k.ctx == ctx && k.buf == idx)

/-- An entry in its table; the snapshot engine's record of the buffer before it goes. -/
def putEntry (s : State) (ctx idx e : Nat) : State :=
  { s with bufs := if e == 0 then adel (ctx, idx) s.bufs else aset (ctx, idx) e s.bufs
           snaps := s.snaps.filter (fun v => !(v.ctx == ctx && v.buf == idx))
           quars := s.quars.filter fun q => !(q.1.ctx == ctx && q.1.buf == idx) }

/-- The leaf tables of a versioned buffer are 4 KiB aligned (20 R394). -/
def leafTablesOk (s : State) (e : Nat) : Bool :=
  (pagesOf e).all fun p =>
    match leafAddr s e (pageBase e p) with
    | some a => (a - 8 * (if bufPage e == 21 then p % 16 else p % 512)) % 4096 == 0
    | none => true

/-- The history slots of every page emptied. -/
def clearHistory (s : State) (e : Nat) : State :=
  (pagesOf e).foldl (fun s p =>
    (upTo 15).foldl (fun s i =>
      match histAddr s e (pageBase e p) i with
      | some a => if coherentRead s a 8 == 0 then s else writeEntry s a 0
      | none => s) s) s

/-- A versioned buffer installed (20 R394). -/
def installVersioned (s : State) (ctx idx e opn : Nat) : State :=
  let pub := wrap ((opn : Int) - 1) 24
  let s := putEntry s ctx idx e
  let s := mapLeaves s ctx idx e fun leaf => withState (setFld leaf 40 24 pub) 1
  let s := clearHistory s e
  { s with snaps := s.snaps ++ [{ ctx := ctx, buf := idx, opn := opn % 2 ^ 24, pub := pub, base := pub, holds := [], owners := [] }] }

/-- BUFFER_TABLE_ENTRY_WRITE (R379, R380, R381; 20 R394) (assumption 73, DESIGN CHOICE). -/
def execBufferTableEntryWrite (s : State) : Host.Outcome State Fault Refusal :=
  match s.input with
  | .bufferTableEntryWrite ctx idx e request =>
    match request with
    | .entry =>
      whenEnabled "BUFFER_TABLE_ENTRY_WRITE"
        (managed s && !bufferBusy s ctx idx && (!bitOf e 31 || (entryOk idx e && bufDepth e == 0 && tablesOk s e)))
        (shootBuffer (putEntry s ctx idx (if bitOf e 31 then e else 0)) ctx idx)
    | .versioned opn =>
      whenEnabled "BUFFER_TABLE_ENTRY_WRITE"
        (managed s && !bufferBusy s ctx idx && bitOf e 31 && entryOk idx e && bufDepth e != 0 && tablesOk s e && leafTablesOk s e &&
          (s.snaps.filter fun v => !(v.ctx == ctx && v.buf == idx)).length < 4096 && !pagesHeld s e)
        (shootBuffer (installVersioned s ctx idx e opn) ctx idx)
    | .pageWord ppa =>
      whenEnabled "BUFFER_TABLE_ENTRY_WRITE"
        (managed s && !bufferBusy s ctx idx && ppa % 8 == 0 && ppaOk ppa && !inAllBank s ppa &&
          tableWordOk (writeEntry s ppa (e % 2 ^ 64)) (e % 2 ^ 64))
        (shootBuffer (writeEntry s ppa (e % 2 ^ 64)) ctx idx)
  | _ => .refused (.notEnabled "BUFFER_TABLE_ENTRY_WRITE")

/-! ## Queues and connections -/

/-- A queue's control block as R332 lays it out, empty. -/
def queueBlockOk (c : Nat) : Bool :=
  let n := fld c 128 4
  2 ≤ n && n ≤ 12 && fld c 0 64 == fld c 64 64 && fld c 136 56 == 0 && fld c 256 256 == 0

/-- LAUNCH_QUEUE_CREATE (16 R332): the control block is written for the owner context. -/
def execLaunchQueueCreate (s : State) : Host.Outcome State Fault Refusal :=
  match s.input with
  | .launchQueueCreate k ctx die base control =>
    let q : Queue := { ctx := ctx, die := die, base := base }
    let room := match bufOf s ctx (eaIdx base) with
      | some e => !isWin base && eaOff base + 64 + 256 * 2 ^ fld control 128 4 ≤ bufLen e
      | none => false
    match writeEa s (outAg q.ctx) base 64 control with
    | .ok _ t =>
      whenEnabled "LAUNCH_QUEUE_CREATE"
        (managed s && k < 256 && die < 4 && ctx < 2 ^ 16 && (aget? k s.queues).isNone && base % 64 == 0 && queueBlockOk control &&
          room) { t with queues := aset k q t.queues }
    | .hold _ t => heldNext "LAUNCH_QUEUE_CREATE" s (managed s) t
    | .busy _ | .fault .. => .refused (.notEnabled "LAUNCH_QUEUE_CREATE")
  | _ => .refused (.notEnabled "LAUNCH_QUEUE_CREATE")

/-- CONNECTION_SETUP (R474): up to 8,192 connections, each of one owner context. -/
def execConnectionSetup (s : State) : Host.Outcome State Fault Refusal :=
  match s.input with
  | .connectionSetup conn ctx kind =>
    whenEnabled "CONNECTION_SETUP" (managed s && conn < 8192 && ctx < 2 ^ 16)
      { s with conns := aset conn { ctx := ctx, kind := kind } s.conns }
  | _ => .refused (.notEnabled "CONNECTION_SETUP")

/-- LINK_PARTNER_FALLBACK (R474): to four, two or one lanes. -/
def execLinkPartnerFallback (s : State) : Host.Outcome State Fault Refusal :=
  match s.input with
  | .linkPartnerFallback lanes =>
    whenEnabled "LINK_PARTNER_FALLBACK" (s.booted && (lanes == 4 || lanes == 2 || lanes == 1)) { s with ethWidth := min s.ethWidth lanes }
  | _ => .refused (.notEnabled "LINK_PARTNER_FALLBACK")

end Sys2Proof.Machine
end

