-- ==== Sys2Proof/Machine/Place.lean ====
section
/-! DEFINITION. Placement and scheduling (16_launch_scheduling.md R338, R339; 14_cluster.md R301, R302, R304, R306;
11_scratchpad_copies.md R245; 24_determinism.md R429, R435, R437): what a core, a group of cores and a die can take, the pass
of the default policy, and reservations. -/

namespace Sys2Proof.Machine

/-! ## What a core can take (R338) -/

/-- Blocks that stand on a core. -/
def blocksOn (s : State) (core : Nat) : List Block :=
  s.blocks.filter fun b => !b.ended && b.saved.isNone && b.core ≤ core && core < b.core + b.map.length

/-- Parties of a block on a core that hold no slot yet, or are saved. -/
def awaited (s : State) (core : Nat) (b : Block) : Nat :=
  match s.launch? b.lid with
  | none => 0
  | some l =>
    ((upTo l.ppb).filter fun p =>
      b.core + l.rankOf p == core && (!b.bound.contains p || b.images.any fun i => i.pidx == p)).length

/-- Slots of a core that a new block may count on. -/
def slotsLeft (s : State) (core : Nat) : Nat :=
  let free := ((slotsOf core).filter fun k => (s.slot k).st == .free && !(s.slot k).reserved && !(s.slot k).repair).length
  free - (blocksOn s core).foldl (fun n b => n + awaited s core b) 0

/-- The region a core has for a portion: set anew while it holds no block. -/
def regionFor (s : State) (core size : Nat) : Nat :=
  if (blocksOn s core).isEmpty then min (max size (512 * 1024)) (768 * 1024) else (s.core core).region

/-- The lowest base at which a portion fits (assumption 19, DESIGN CHOICE). -/
def baseFor (s : State) (core size : Nat) : Option Nat :=
  if size == 0 then some 0 else ((upTo 12).map (· * 65536)).find? fun b =>
    b + size ≤ regionFor s core size && !(s.core core).portions.any fun p => overlap b size p.base p.size

/-- Launches resident on a core. -/
def launchesOn (s : State) (core : Nat) : List Nat :=
  ((s.core core).table.map (·.2) ++ (blocksOn s core).map (·.lid)).eraseDups

/-- A core can take a rank of a block of a launch. -/
def coreFits (s : State) (l : Launch) (core : Nat) : Bool :=
  let ids := (l.lid :: launchesOn s core).eraseDups
  let ls := ids.filterMap s.launch?
  !(s.core core).disabled && l.ppb / l.cores ≤ slotsLeft s core && (baseFor s core l.portionSize).isSome &&
  (l.accKb == 0 || !(blocksOn s core).any fun b => (s.launch? b.lid).any fun m => m.accKb != 0) &&
  ids.length ≤ 16 && ls.foldl (fun n m => n + m.segBud) 0 ≤ 64

/-- A group of cores can take a block. -/
def groupFits (s : State) (l : Launch) (core0 : Nat) : Bool := (upTo l.cores).all fun r => coreFits s l (core0 + r)

/-! ## Placing -/

/-- A portion taken on a core: its generation advances as it passes to its new block (14 R305), and the L1 is invalidated
where the region's boundary moves (11 R245). A block without scratchpad takes none. The map entry, and the state. -/
def takePortion (s : State) (l : Launch) (blin core : Nat) : (Nat × Nat) × State :=
  let base := (baseFor s core l.portionSize).getD 0
  let region := regionFor s core l.portionSize
  let c := s.core core
  let s := s.setCore core { c with region := region, l1 := if region == c.region then c.l1 else [] }
  let s :=
    if l.portionSize == 0 then s
    else
      let c := s.core core
      let q := { base := base, size := l.portionSize, lid := l.lid, blin := blin : Portion }
      bumpGen (s.setCore core { c with portions := c.portions ++ [q] }) core base
  ((genAt s core base, base), s)

/-- Portions of n ranks from core on. -/
def takePortions (l : Launch) (blin : Nat) : Nat → Nat → State → List (Nat × Nat) × State
  | 0, _, s => ([], s)
  | n + 1, core, s =>
    let (e, s) := takePortion s l blin core
    let (es, s) := takePortions l blin n (core + 1) s
    (e :: es, s)

/-- Rank r of a cluster placed on the first group of a die that fits it. -/
def placeBlock (s : State) (l : Launch) (die c r : Nat) : Option State :=
  match (groupsOn die l.cores).find? (groupFits s l) with
  | none => none
  | some core0 =>
    let p := l.blockAt c r
    let (map, s) := takePortions l (l.linear p) l.cores core0 s
    some { s with blocks := s.blocks ++ [{ newBlock l.lid (l.linear p) p.1 p.2.1 p.2.2 c r core0 map with
                                           uses := List.replicate (detNres l.det) 0 }] }

/-- Ranks r on, n of them. -/
def placeRanks (l : Launch) (die c : Nat) : Nat → Nat → State → Option State
  | 0, _, s => some s
  | n + 1, r, s => (placeBlock s l die c r).bind (placeRanks l die c n (r + 1))

/-- A die takes new work (R339, 25 R451, R454). -/
def dieTakes (s : State) (die : Nat) : Bool := (s.die die).cond == .running && !(s.die die).stopped && bindUp s die

/-- Blocks of a deterministic launch that hold a slot of its write-buffer area (24 R435). -/
def wbufSlots (s : State) (l : Launch) : Nat := (s.blocks.filter fun b => b.lid == l.lid && !l.retired.contains b.clin).length

/-- The launch that holds the reservation on a die (R339). -/
def reserver (s : State) (die : Nat) : Option Launch :=
  ((s.die die).reserve.bind s.launch?).filter fun l => !l.killed && !l.pending.isEmpty

/-- A die that another launch has reserved places no cluster of this one (R339). -/
def reservedFrom (s : State) (die : Nat) (l : Launch) : Bool := (reserver s die).any fun m => m.lid ≠ l.lid

/-- A whole cluster placed on a die. -/
def placeCluster (s : State) (l : Launch) (die c : Nat) : Option State :=
  if !dieTakes s die || !l.dieOk die || reservedFrom s die l || (l.isDet && (l.detDie c != die || detSlots l.det < wbufSlots s l + l.clSize)) then none
  else placeRanks l die c l.clSize 0 s

/-- The next cluster of a launch for a die. -/
def nextCluster (l : Launch) (die : Nat) : Option Nat :=
  if l.isDet then
    (l.pending.filter fun c => l.detDie c == die).foldl (fun b c =>
      match b with | some x => if l.traverse c < l.traverse x then some c else some x | none => some c) none
  else l.pending.head?

/-- A cluster on the first allowed die that takes it. -/
def placeAnywhere (s : State) (l : Launch) (c : Nat) : Option State := l.dies.findSome? fun d => placeCluster s l d c

/-- A cluster placed by ascending m among others (24 R429). -/
def Launch.insertByM (l : Launch) (c : Nat) : List Nat → List Nat
  | [] => [c]
  | d :: ds => if l.traverse c < l.traverse d then c :: d :: ds else d :: l.insertByM c ds
/-- Clusters in the order in which they are handed out: ascending m in deterministic mode (24 R429), else as they stand. -/
def Launch.handOut (l : Launch) : List Nat :=
  if l.isDet then l.pending.foldr l.insertByM [] else l.pending

/-- What a pass would place for a launch on a die: the clusters, and the state; a co-resident launch at once. -/
def tryPlace (s : State) (l : Launch) (die : Nat) : Option (List Nat × State) :=
  if l.coRes then
    (l.handOut.foldl (fun (s : Option State) c => s.bind fun s => placeAnywhere s l c) (some s)).map fun s => (l.pending, s)
  else
    match nextCluster l die with
    | none => none
    | some c => (placeCluster s l die c).map fun s => ([c], s)

/-! ## V0 of reservation words (24 R437) -/

/-- The values of n reservation words from r on, read at the launch's start; where one cannot be read now, the state that the
attempt leaves (assumption 28, DEDUCED). -/
def readV0 (l : Launch) : Nat → Nat → State → Except State (List Nat × State)
  | 0, _, s => .ok ([], s)
  | n + 1, r, s =>
    match readEa s (homeAg l) (detAddr l.det r) (detSize l.det r) with
    | .ok x s => (readV0 l n (r + 1) s).map fun (xs, s) => (x :: xs, s)
    | .hold _ t | .busy t | .fault _ _ t => .error t

/-- The first placement of a deterministic launch reads its reservation words. -/
def startDet (s : State) (l : Launch) : Except State (Launch × State) :=
  if l.isDet && l.v0.length != detNres l.det then
    (readV0 l (detNres l.det) 0 (acquire s (bindCore l.die) 8)).map fun (v, s) => ({ l with v0 := v }, s)
  else .ok (l, s)
/-- What an attempt to start a deterministic launch leaves where a reservation word cannot be read now: its requests to peers are
under way (28 R470). -/
def askV0 (s : State) (l : Launch) : State :=
  match startDet s l with
  | .error t => s.keepHold t
  | .ok _ => s

/-! ## The pass (R339) -/

/-- A launch has clusters left that a die may take. -/
def candidate (s : State) (die : Nat) (l : Launch) : Bool :=
  l.eligible && !l.killed && l.dieOk die && dieTakes s die && (nextCluster l die).isSome

/-- sr.ref from which a launch's wait on a die counts. -/
def Launch.waitsSince (l : Launch) (die : Nat) : Nat := aget l.since die l.placedAt
/-- Effective priority. -/
def effPrio (s : State) (die : Nat) (l : Launch) : Nat := min 7 (l.prio + (s.ref - l.waitsSince die) / max 1 s.age)

/-- The acceptance notice that a pod launch group's home bind core sends once every cluster of the launch is placed
(28 R473): the group, its size, the owner context, this package and the launch's threads (assumption 18, DESIGN CHOICE). -/
def podNotice (s : State) (l : Launch) : State :=
  if l.pgn == 0 then s
  else s.send 10 l.pgrp (l.pgn + 2 ^ 32 * (l.ctx + 2 ^ 32 * (s.pkg + 2 ^ 32 * (64 * l.ppb * l.nblocks))))

/-- Clusters of a launch have been placed from a die: the reservations made for them end. A cluster of a deterministic
launch waits for its own die only (24 R429), the next one of any other launch for every die. The last one of a pod launch
group's launch sends its notice. -/
def afterPlace (s : State) (l : Launch) (die : Nat) (cs : List Nat) : State :=
  let ends := fun (d : Nat) => d == die || !l.isDet || l.coRes
  let s := s.setLaunch { l with pending := l.pending.filter (fun c => !cs.contains c),
                                failing := l.failing.filter fun e => !ends e.1,
                                placedAt := aset die s.ref l.placedAt }
  allDies.foldl (fun s d =>
    if ends d && (s.die d).reserve == some l.lid then s.setDie d { s.die d with reserve := none } else s)
    (if l.pending.all cs.contains then podNotice s l else s)

/-- A launch's next cluster placed on a die, if it fits now. -/
def place? (s : State) (die : Nat) (l : Launch) : Option State :=
  match startDet s l with
  | .error _ => none
  | .ok (l, s) => (tryPlace s l die).map fun (cs, s) => afterPlace s l die cs

/-- The marks of failed attempts at effective priority 7. -/
def markFailing (s : State) (die : Nat) (ls : List Launch) : State :=
  ls.foldl (fun s l =>
    if effPrio s die l == 7 && (place? s die l).isNone then
      (if (aget? die l.failing).isSome then s else s.setLaunch { l with failing := aset die s.ref l.failing })
    else s.setLaunch { l with failing := adel die l.failing }) s

/-- Order of queues at a level: after the queue last served there, wrapping. -/
def afterServed (s : State) (die p queue : Nat) : Nat :=
  match aget? p (s.die die).served with
  | some q => (queue + 255 - q) % 256
  | none => queue

/-- The launch that a level serves: the first by queue. -/
def firstServed (s : State) (die p : Nat) (ls : List Launch) : Option Launch :=
  ls.foldl (fun b l =>
    match b with
    | some m => if afterServed s die p l.queue < afterServed s die p m.queue then some l else some m
    | none => some l) none

/-- Levels p - 1 down to 0. -/
def servePrio (s : State) (die : Nat) (ls : List Launch) : Nat → State
  | 0 => s
  | p + 1 =>
    match firstServed s die p (ls.filter fun l => effPrio s die l == p && (place? s die l).isSome) with
    | none => servePrio s die ls p
    | some l =>
      match place? s die l with
      | some s => s.setDie die { s.die die with served := aset p l.queue (s.die die).served }
      | none => s

/-- A pass of the default policy on a die. -/
def schedule (s : State) (die : Nat) : State :=
  let cand := s.launches.filter (candidate s die)
  match reserver s die with
  | some l => (place? s die l).getD (askV0 s l)
  | none =>
    let s := markFailing (cand.foldl askV0 s) die cand
    servePrio s die (cand.filterMap fun l => s.launch? l.lid) 8

/-- SCHEDULER_PASS (R339, R338). -/
def execSchedulerPass (s : State) : Host.Outcome State Fault Refusal :=
  match s.input with
  | .schedulerPass die _ => whenEnabled "SCHEDULER_PASS" (die < 4 && dieTakes s die) (schedule s die)
  | _ => .refused (.notEnabled "SCHEDULER_PASS")

/-- RESERVATION_INTERVAL_EXPIRY (R339). -/
def execReservationIntervalExpiry (s : State) : Host.Outcome State Fault Refusal :=
  match s.input with
  | .reservationIntervalExpiry die lid =>
    match s.launch? lid with
    | none => .refused (.notEnabled "RESERVATION_INTERVAL_EXPIRY")
    | some l =>
      let due := match aget? die l.failing with | some t => t + s.resInterval ≤ s.ref | none => false
      whenEnabled "RESERVATION_INTERVAL_EXPIRY"
        (candidate s die l && effPrio s die l == 7 && due && (reserver s die).isNone)
        (s.setDie die { s.die die with reserve := some lid })
  | _ => .refused (.notEnabled "RESERVATION_INTERVAL_EXPIRY")

end Sys2Proof.Machine
end

