-- ==== Sys2Proof/Machine/Determinism.lean ====
section
/-! DEFINITION. Deterministic launches (24_determinism.md R430 to R439): the merge at a closure point, the retirement of a
cluster, and what ends a launch early: a full write buffer (R435) or a management command (16_launch_scheduling.md R347). -/

namespace Sys2Proof.Machine

/-! ## The merge (R432, R439) -/

/-- Keys of one block in ascending order (R428): party, thread, program order. -/
def WbOp.le (a b : WbOp) : Bool :=
  a.pidx < b.pidx || (a.pidx == b.pidx && (a.tid < b.tid || (a.tid == b.tid && a.seq ≤ b.seq)))
def insertWb (o : WbOp) : List WbOp → List WbOp
  | [] => [o]
  | p :: ps => if o.le p then o :: p :: ps else p :: insertWb o ps
/-- Operations in logical order. -/
def sortWb (os : List WbOp) : List WbOp := os.foldl (fun l o => insertWb o l) []

/-- A buffered operation belongs to the epoch that a closure point ends: issued before it, by a thread that had not arrived
there (R430). -/
def inEpoch (m : Nat × Nat × Nat × Nat) (o : WbOp) : Bool :=
  o.seq < m.2.2.2 && !o.past.contains (m.1, m.2.1, m.2.2.1)

/-- The result of a reservation ATOMR and the use after it (R439). -/
def reserveOne (l : Launch) (blin r s x : Nat) : Nat × Nat :=
  let bits := 8 * detSize l.det r
  let u := x % 2 ^ bits
  if wantOf l.det l.counts r blin < s + u then (2 ^ bits - 1, s)
  else ((l.v0.getD r 0 + prefixOf l.det l.counts r blin + s) % 2 ^ bits, s + u)

/-- The reservation ATOMRs of an epoch in logical order: the block's uses, and each operation with its result. -/
def reserveAll (l : Launch) (blin : Nat) : List WbOp → List Nat → List Nat × List (Nat × Nat)
  | [], uses => (uses, [])
  | o :: os, uses =>
    match o.resv, resvAt l o.ea o.size with
    | some id, some r =>
      let (x, u) := reserveOne l blin r (uses.getD r 0) o.x
      let (uses, rs) := reserveAll l blin os (uses.set r u)
      (uses, (id, x) :: rs)
    | _, _ => reserveAll l blin os uses

/-- The agent that reads a block's view: none of its threads. -/
def blockAg (l : Launch) (b : Block) : Ag := { core := b.core, lid := b.lid, ctx := l.ctx, blin := b.blin }

/-- An operation joins the view (R432): an atomic as a store of the value that it leaves. It waits for a held page and for a
peer's answer; where its bytes cannot be read it stays an atomic (assumption 100, DESIGN CHOICE). An error is a wait, with the
state that it leaves and whether its limit runs. -/
def viewOp (s : State) (l : Launch) (b : Block) (o : WbOp) : Except (Bool × State) (WbOp × State) :=
  match o.code with
  | none => .ok (o, s)
  | some c =>
    match readEa s (blockAg l b) o.ea o.size with
    | .ok v t => .ok ({ o with code := none, x := atomNew c v o.x o.y }, t)
    | .fault .. => .ok (o, s)
    | .hold ea t => if bindStuck s l ea then .ok (o, s) else .error (true, t)
    | .busy t => .error (false, t)

/-- The operations of an epoch, in logical order, join a block's view. -/
def viewAll (l : Launch) (lid blin : Nat) : List WbOp → State → Except (Bool × State) State
  | [], s => .ok s
  | o :: os, s =>
    match s.block? lid blin with
    | none => .ok s
    | some b =>
      match viewOp s l b o with
      | .error e => .error e
      | .ok (x, t) => viewAll l lid blin os (t.setBlock { b with view := b.view ++ [x] })

/-- The merge of a block at a closure point; an error while it waits. -/
def mergeBlock (s : State) (l : Launch) (b : Block) (m : Nat × Nat × Nat × Nat) : Except (Bool × State) State :=
  let (now, later) := b.wbuf.partition (inEpoch m)
  let now := sortWb now
  let ops := now.filter fun o => o.resv.isNone
  let (uses, results) := reserveAll l b.blin (now.filter fun o => o.resv.isSome) b.uses
  let s := s.setBlock { b with wbuf := later, log := b.log ++ ops, uses := uses, merges := b.merges.drop 1 }
  (viewAll l b.lid b.blin ops s).map fun s =>
    results.foldl (fun s r => match s.op? r.1 with | some o => s.setPhase o (.performed r.2) | none => s) s

/-- The threads of a block that waited at a closure barrier leave it (R432). -/
def leaveClosure (s : State) (b : Block) (m : Nat × Nat × Nat × Nat) : State :=
  let slots := (s.slots.filter fun e => e.2.party.any fun p => p.lid == b.lid && p.blin == b.blin).map (·.1)
  slots.foldl (fun s slot => leaveBar s slot m.1 m.2.1 m.2.2.1) s

/-- CLOSURE_MERGE (R432). A block that is saved merges once it is restored. -/
def execClosureMerge (s : State) : Host.Outcome State Fault Refusal :=
  match s.input with
  | .closureMerge lid blin _ =>
    match s.launch? lid, s.block? lid blin with
    | some l, some b =>
      match b.merges with
      | [] => .refused (.notEnabled "CLOSURE_MERGE")
      | m :: _ =>
        match mergeBlock s l b m with
        | .error (limit, t) => whenEnabled "CLOSURE_MERGE" (limit && b.saved.isNone) (noteWait (s.keepHold t) lid)
        | .ok t =>
          let t := { t with waits := adel lid t.waits }
          whenEnabled "CLOSURE_MERGE" b.saved.isNone (if m.1 == 0 then t else leaveClosure t b m)
    | _, _ => .refused (.notEnabled "CLOSURE_MERGE")
  | _ => .refused (.notEnabled "CLOSURE_MERGE")

/-! ## Retirement (R434) -/

/-- Clusters of a launch that are still to retire: those placed and those to come (assumption 29, DEDUCED). -/
def unretired (s : State) (l : Launch) : List Nat :=
  (((s.blocks.filter fun b => b.lid == l.lid).map (·.clin)) ++ l.pending).eraseDups.filter fun c => !l.retired.contains c

/-- The cluster of least traverse index among some. -/
def firstTraverse (l : Launch) (cs : List Nat) : Option Nat :=
  cs.foldl (fun b c =>
    match b with
    | some x => if l.traverse c < l.traverse x then some c else some x
    | none => some c) none

/-- Every block of a cluster has ended and merged. -/
def clusterDone (s : State) (l : Launch) (c : Nat) : Bool :=
  clusterEnded s l.lid c && (clusterBlocks s l.lid c).all fun b => b.merges.isEmpty

/-- Two operations share a byte, and one of them is a store: their order is that of their merges. -/
def WbOp.keeps (o p : WbOp) : Bool := overlap o.ea o.size p.ea p.size && (o.code.isNone || p.code.isNone)
/-- Two atomics share a byte, and the key of the second is the lower: it goes first (R434). -/
def WbOp.yields (o p : WbOp) : Bool :=
  overlap o.ea o.size p.ea p.size && o.code.isSome && p.code.isSome && p.le o && !o.le p
/-- The first operation of a list that nothing left before it must precede; strict also asks that no atomic of a lower key
is left that shares a byte with it. -/
def pickRetired (strict : Bool) (all : List WbOp) : List WbOp → List WbOp → Option WbOp
  | _, [] => none
  | before, o :: os =>
    if before.any (·.keeps o) || (strict && all.any o.yields) then pickRetired strict all (o :: before) os else some o
/-- A block's operations as its cluster's retirement applies them (R434): stores in the order of their merges, atomics between
the stores to their bytes that they stood between, and in logical order among themselves, whichever epoch they belong to
(assumption 105, DEDUCED). -/
def retireFrom : Nat → List WbOp → List WbOp
  | 0, os => os
  | n + 1, os =>
    match (pickRetired true os [] os).orElse fun _ => pickRetired false os [] os with
    | some o => o :: retireFrom n (os.erase o)
    | none => []
def retireOrder (os : List WbOp) : List WbOp := retireFrom os.length os

/-- What a retired operation asks of a peer package. -/
def WbOp.peerAct (o : WbOp) : PeerAct :=
  match o.code with
  | none => { op := 1, data := o.x % 2 ^ (8 * o.size) }
  | some c => { op := 2, code := c, data := o.x, data2 := o.y }

/-- One operation of a block view applied to memory: a store's bytes, an atomic at its single point. Scratchpad operations
end with their portion, and an operation that faults is lost (assumption 22, DEDUCED). -/
def applyRetired (s : State) (l : Launch) (g : Ag) (o : WbOp) : Option State :=
  if isWin o.ea then some s
  else match locate s g o.ea true with
    | .fault _ => some s
    | .cow _ | .held => if bindStuck s l o.ea then some s else none
    | .busy => none
    | .at (.peer pkg ridx off) => some (s.send 7 pkg (peerWord (peerReq s l.ctx ridx off o.size o.peerAct)))
    | .at p =>
      match o.code with
      | none => some (writePlace (s.reach g o.ea) g p o.size o.x)
      | some c => some (rmwPlace (s.reach g o.ea) g p o.size fun v => atomNew c v o.x o.y).2

/-- The operations of a block, then its count on each reservation word (R439). -/
def retireBlock (l : Launch) (b : Block) (s : State) : Option State :=
  let g := plainAg b.core l.ctx
  let s := (retireOrder b.log).foldl (fun (s : Option State) o => s.bind fun s => applyRetired s l g o) (some s)
  (upTo (detNres l.det)).foldl (fun s r =>
    s.bind fun s => applyRetired s l g
      { pidx := 0, tid := 0, seq := 0, ea := detAddr l.det r, size := detSize l.det r,
        code := some (if detWide l.det r then 32 else 0), x := wantOf l.det l.counts r b.blin, y := 0, resv := none,
        past := [] }) s

/-- Blocks in ascending cluster rank. -/
def byRank (bs : List Block) : List Block := (upTo 32).flatMap fun r => bs.filter fun b => b.clrank == r

/-- The pages whose copy a blocked retirement starts (20 R398): those of its operations and of its reservation words. -/
def retireCows (s : State) (l : Launch) (bs : List Block) : State :=
  bs.foldl (fun s b => (b.log.map (·.ea) ++ (upTo (detNres l.det)).map (detAddr l.det)).foldl (fun s ea =>
    if isWin ea then s
    else match locate s (plainAg b.core l.ctx) ea true with
      | .cow k => startCow s k
      | _ => s) s) s

/-- CLUSTER_RETIRE (R434): the cluster of least traverse index that has not retired. -/
def execClusterRetire (s : State) : Host.Outcome State Fault Refusal :=
  match s.input with
  | .clusterRetire lid =>
    match s.launch? lid with
    | none => .refused (.notEnabled "CLUSTER_RETIRE")
    | some l =>
      match firstTraverse l (unretired s l) with
      | none => .refused (.notEnabled "CLUSTER_RETIRE")
      | some c =>
        let bs := byRank (clusterBlocks s lid c)
        let go := l.isDet && !l.aborted && clusterDone s l c
        match bs.foldl (fun (s : Option State) b => s.bind (retireBlock l b)) (some s) with
        | some t =>
          whenEnabled "CLUSTER_RETIRE" go
            { t.setLaunch { l with retired := l.retired ++ [c] } with
              waits := adel lid s.waits
              blocks := t.blocks.map fun b => if b.lid == lid && b.clin == c then { b with view := [], log := [] } else b }
        | none => whenEnabled "CLUSTER_RETIRE" go (noteWait (retireCows s l bs) lid)
  | _ => .refused (.notEnabled "CLUSTER_RETIRE")

/-! ## Ending a launch early -/

/-- A party that no slot holds counts as ended: its threads leave every barrier, and their arrivals in phases that stand go
(14 R309). -/
def loseParty (s : State) (l : Launch) (b : Block) (q : SavedParty) : State :=
  let slot := 16 * (b.core + q.rank)
  let p := { startParty l b q.pidx with rank := q.rank }
  let live := q.marks.filter fun m => match barLoc s slot p m.2.1 m.2.2.1 with
    | some (.wide k) => barPhase s slot (.wide k) == m.2.2.2
    | _ => false
  let s := live.foldl (fun s m =>
    match barLoc s slot p m.2.1 m.2.2.1 with
    | some (.wide k) => withdraw s slot (.wide k)
    | _ => s) s
  (instancesOf s slot p).foldl (fun s i => leaveInst s i q.live) s

/-- The parties of a block that no slot holds: those never dispatched and those saved. -/
def absentParties (l : Launch) (b : Block) : List SavedParty :=
  ((upTo l.ppb).filter fun p => !b.bound.contains p).map (fun p => { pidx := p, addr := 0, live := 64, rank := l.rankOf p, tag := l.entry * 2 ^ 16 }) ++
    b.images

/-- Parties of a block counted as ended without a slot; with the last the block ends (assumption 39, DEDUCED). -/
def loseParties (s : State) (l : Launch) (b : Block) (qs : List SavedParty) : State :=
  let s := qs.foldl (fun s q => loseParty s l b q) s
  match s.block? b.lid b.blin with
  | none => s
  | some b =>
    let gone := qs.map (·.pidx)
    let b := { b with freed := b.freed + gone.length
                      bound := b.bound ++ gone.filter fun p => !b.bound.contains p
                      images := b.images.filter fun i => !gone.contains i.pidx }
    let s := s.setBlock b
    if b.freed == l.ppb && !b.ended then
      (upTo b.map.length).foldl (fun s r => leaveCore s (b.core + r) l.lid) (endBlock s b.lid b.blin)
    else s

/-- The records of a block's saved parties that end where no slot holds them (16 R345): TAG names the lowest thread that has
not exited, FADDR is 0. -/
def recordSaved (s : State) (l : Launch) (b : Block) : State :=
  b.images.foldl (fun s q => postRing s (bindCore l.die) l.lid 0 0 0 q.tag 3 Cause.kill) s

/-- KILL to every party of a launch: those in slots escalate, now or when they run, saved ones get their record, and the others
end (09 R222, R347). -/
def killParties (s : State) (lid : Nat) : State :=
  let s := (s.slots.map (·.1)).foldl (fun s slot =>
    let k := s.slot slot
    if k.bind.any fun b => b.lid == lid then
      match k.st with
      | .run | .saving => killParty s slot Cause.kill 0
      | .loading | .restoring => s.setSlot slot { k with heldKill := true }
      | .free | .frozen | .disabled => s
    else s) s
  (s.blocks.filter fun b => b.lid == lid && !b.ended).foldl (fun s b =>
    match s.launch? lid, s.block? lid b.blin with
    | some l, some b => loseParties (recordSaved s l b) l b (absentParties l b)
    | _, _ => s) s

/-- A launch starts nothing more, and no die is reserved for it. -/
def stopLaunch (s : State) (l : Launch) : State :=
  let s := s.setLaunch { l with pending := [], failing := [] }
  allDies.foldl (fun s d => if (s.die d).reserve == some l.lid then s.setDie d { s.die d with reserve := none } else s) s

/-- WRITE_BUFFER_FULL (R435): KILL to every party, and what has not retired is discarded. -/
def execWriteBufferFull (s : State) : Host.Outcome State Fault Refusal :=
  match s.input with
  | .writeBufferFull lid blin =>
    match s.launch? lid, s.block? lid blin with
    | some l, some b =>
      let t := stopLaunch s { l with aborted := true, firstCause := some Cause.kill }
      let t := { t with blocks := t.blocks.map fun b => if b.lid == lid then { b with wbuf := [], view := [], log := [] } else b }
      whenEnabled "WRITE_BUFFER_FULL" (wbufFull l b && !l.aborted && !b.ended) (killParties t lid)
    | _, _ => .refused (.notEnabled "WRITE_BUFFER_FULL")
  | _ => .refused (.notEnabled "WRITE_BUFFER_FULL")

/-- MANAGEMENT_KILL_LAUNCH (R347, R346): a launch that has not become eligible ends at once, with no signal. -/
def execManagementKillLaunch (s : State) : Host.Outcome State Fault Refusal :=
  match s.input with
  | .managementKillLaunch lid =>
    match s.launch? lid with
    | none => .refused (.notEnabled "MANAGEMENT_KILL_LAUNCH")
    | some l =>
      whenEnabled "MANAGEMENT_KILL_LAUNCH" (!s.out .monument)
        (if l.eligible then refreshEligible (killParties (stopLaunch s { l with killed := true }) lid)
        else refreshEligible (reportLaunch { s with launches := s.launches.filter fun m => m.lid != lid } l 14 Cause.kill))
  | _ => .refused (.notEnabled "MANAGEMENT_KILL_LAUNCH")

end Sys2Proof.Machine
end

