-- ==== Sys2Proof/Machine/Teardown.lean ====
section
/-! DEFINITION. The end of a launch (16_launch_scheduling.md R345, R346, R347; 11_scratchpad_copies.md R253; 20_versioned_memory.md
R402), the release of escalated slots, pod launch groups (28_fabric.md R473), and moving a saved block (14_cluster.md R311). -/

namespace Sys2Proof.Machine

/-! ## Escalated slots (R345) -/

/-- ESCALATED_HOLD_EXPIRY (R345): the bind core writes RELEASE. -/
def execEscalatedHoldExpiry (s : State) : Host.Outcome State Fault Refusal :=
  match s.input with
  | .escalatedHoldExpiry slot =>
    match aget? slot s.escHolds with
    | none => .refused (.notEnabled "ESCALATED_HOLD_EXPIRY")
    | some t =>
      whenEnabled "ESCALATED_HOLD_EXPIRY" (t + s.escHold ≤ s.ref && (s.slot slot).st == .frozen) (freeSlot s slot)
  | _ => .refused (.notEnabled "ESCALATED_HOLD_EXPIRY")

/-! ## Teardown (R346) -/

/-- Step 1: every live commutative range ends. -/
def endRanges (s : State) (lid : Nat) : State :=
  (upTo 16).foldl (fun s e =>
    match s.launch? lid with
    | some l => if (l.rangeEntry e).live then endRange s l e else s
    | none => s) s

/-- The lines of a live range wait for a port or for a migration (21 R413, 19 R388). -/
def rangesBusy (s : State) (l : Launch) : Bool :=
  (upTo 16).any fun e =>
    (l.rangeEntry e).live && (rangeLines s l.lid (l.rangeEntry e)).any (combineBusy s l.lid)

/-- A fault of teardown (R253, R346): a record on the fault ring. -/
def teardownFault (s : State) (l : Launch) (cause ea : Nat) : State :=
  postRing s (bindCore l.die) l.lid 0 ea 0 0 1 cause

/-- What an access of the bind core gives: done, or lost with its fault, or a wait, on a page whose limit runs or not. -/
inductive BindGot where
  | done (s : State)
  | wait (limit : Bool) (s : State)

/-- An access of teardown at an address: a fault is reported, a hold past its limit is a fault. -/
def teardownAccess (s : State) (l : Launch) (ea : Nat) (got : Got) : BindGot :=
  match got with
  | .ok _ t => .done t
  | .fault c _ t => .done (teardownFault t l c ea)
  | .hold _ t =>
    if bindStuck s l ea then
      .done (teardownFault s l (if isPeerEa s l.ctx ea then Cause.peerFail else Cause.migrStuck) ea)
    else .wait true t
  | .busy t => .wait false t

/-- Step 2: the registered barriers, in the order of their registration. -/
def breakBarriers (l : Launch) : List Nat → State → BindGot
  | [], s => .done s
  | ea :: eas, s =>
    match teardownAccess s l ea (rmwEa s (homeAg l) ea 16 { op := 12 }) with
    | .done s => breakBarriers l eas s
    | .wait k s => .wait k s

/-- Step 4: CVAL stored to CSIG. -/
def signalLaunch (s : State) (l : Launch) : BindGot :=
  if l.csig == 0 then .done s
  else
    let got :=
      match checkEa s l { size := 8, align := 8, w := true, scr := false, acc := false } l.csig with
      | some c => .fault c l.csig s
      | none => writeEa s (homeAg l) l.csig 8 l.cval
    teardownAccess s l l.csig got

/-- What a launch has on the package goes: its blocks, its tables on cores, its barriers, its segment fetches (assumption 76, DESIGN CHOICE). -/
def dropLaunch (s : State) (lid : Nat) : State :=
  let s := (upTo 128).foldl (fun s core =>
    let c := s.core core
    if (c.table.any fun e => e.2 == lid) || (c.segs.any fun e => e.1.1 == lid) || c.shadow.any fun e => e.1 == lid then
      s.setCore core { c with table := c.table.filter (fun e => e.2 != lid), segs := c.segs.filter (fun e => e.1.1 != lid),
                              shadow := c.shadow.filter fun e => e.1 != lid }
    else s) s
  let s := dropBars s fun i => i.2.1 == lid && i.1 != 7
  { s with
    launches := s.launches.filter (fun l => l.lid != lid)
    blocks := s.blocks.filter (fun b => b.lid != lid)
    waits := adel lid s.waits
    ops := s.ops.filter fun o => o.lid != lid }

/-- Barriers of a pod group of which this package has no launch left. -/
def dropPod (s : State) (l : Launch) : State :=
  if l.pgn == 0 || (podLaunch s l.ctx l.pgrp).isSome then s
  else dropBars s fun i => i.1 == 7 && i.2.1 == l.ctx && i.2.2.1 == l.pgrp

/-- Step 5: the report. -/
def doneStatus (l : Launch) : Nat × Nat :=
  if l.killed then (14, Cause.kill)
  else match l.firstCause with
    | some c => (13, c)
    | none => (12, 0)

/-- A bank block that has reached its port: it runs to its end for no thread (21 R417). -/
def Op.atPort (o : Op) : Bool := o.kind.bankBlk?.isSome && (o.phase == .queued || o.phase == .running)

/-- A launch may be torn down: every block has ended, every slot is free of it, its shadow references and its bank blocks at a
port are done (21 R417; assumption 101, DEDUCED), and every cluster of a deterministic launch has retired (24 R434). -/
def tornDown (s : State) (l : Launch) : Bool :=
  bindUp s l.die && l.eligible && l.pending.isEmpty && (l.placed || l.killed || l.aborted) &&
  ((s.blocks.filter fun b => b.lid == l.lid).all fun b => b.ended) &&
  (!s.slots.any fun e => e.2.bind.any fun b => b.lid == l.lid) &&
  (!(upTo 128).any fun c => (s.core c).shadows.any fun x => x.lid == l.lid) &&
  (!s.ops.any fun o => o.lid == l.lid && o.atPort) && !rangesBusy s l &&
  (!l.isDet || l.aborted || (unretired s l).isEmpty)

/-- Steps 1 to 5. -/
def teardown (s : State) (l : Launch) : BindGot :=
  let s := endRanges s l.lid
  match breakBarriers l l.tbars s with
  | .wait k s => .wait k s
  | .done s =>
    let s := releaseHolds s l.lid
    match signalLaunch s l with
    | .wait k s => .wait k s
    | .done s =>
      let (status, cause) := doneStatus l
      .done (refreshEligible (dropPod (dropLaunch (reportLaunch s l status cause) l.lid) l))

/-- LAUNCH_TEARDOWN (R346). -/
def execLaunchTeardown (s : State) : Host.Outcome State Fault Refusal :=
  match s.input with
  | .launchTeardown lid _ =>
    match s.launch? lid with
    | none => .refused (.notEnabled "LAUNCH_TEARDOWN")
    | some l =>
      match teardown s l with
      | .done t => whenEnabled "LAUNCH_TEARDOWN" (tornDown s l) t
      | .wait k t =>
        let t := (s.keepHold t)
        whenEnabled "LAUNCH_TEARDOWN" (tornDown s l) (if k then noteWait t lid else t)
  | _ => .refused (.notEnabled "LAUNCH_TEARDOWN")

/-! ## Pod launch groups (28 R473) -/

/-- POD_GROUP_FORM (28 R473): PGN distinct packages have each placed every cluster. -/
def execPodGroupForm (s : State) : Host.Outcome State Fault Refusal :=
  match s.input with
  | .podGroupForm lid ms =>
    match s.launch? lid with
    | none => .refused (.notEnabled "POD_GROUP_FORM")
    | some l =>
      let pkgs := ms.map (·.1)
      whenEnabled "POD_GROUP_FORM"
        (l.pgn != 0 && l.group.isNone && l.eligible && l.pending.isEmpty && !l.killed && pkgs.length == l.pgn &&
          pkgs.eraseDups == pkgs && ms.contains (s.pkg, 64 * l.ppb * l.nblocks))
        (s.setLaunch { l with group := some ms })
  | _ => .refused (.notEnabled "POD_GROUP_FORM")

/-! ## Moving a saved block (14 R311) -/

/-- Every party of a block that has not ended is saved, and with that none of its copies is outstanding. -/
def blockSaved (s : State) (l : Launch) (b : Block) : Bool :=
  !b.ended && b.images.length + b.freed == l.ppb && b.saved.isNone &&
  !s.slots.any fun e => e.2.party.any fun p => p.lid == b.lid && p.blin == b.blin

/-- The bytes of a portion, and of the accumulator memory that a block declares, from offset 0 up. -/
def portionBytes (s : State) (core base size : Nat) : List Host.Cell :=
  ((s.core core).scr.filter fun c => base ≤ c.1 && c.1 < base + size).map fun c => (c.1 - base, c.2)
def accBytes (s : State) (core n : Nat) : List Host.Cell := (s.core core).acc.filter fun c => c.1 < n

/-- Bytes from offset 0 up laid at a base of a byte list. -/
def layBytes (m : List Host.Cell) (base size : Nat) (cs : List Host.Cell) : List Host.Cell :=
  cs.foldl (fun m c => Memory.put m (base + c.1) c.2) (m.filter fun c => c.1 < base || base + size ≤ c.1)

/-- The contents of a block's ranks: portions and accumulators. -/
def blockBytes (s : State) (l : Launch) (b : Block) : List (List Host.Cell) × List (List Host.Cell) :=
  (mapI (fun r e => portionBytes s (b.core + r) e.2 l.portionSize) 0 b.map,
   mapI (fun r _ => accBytes s (b.core + r) (1024 * l.accKb)) 0 b.map)

/-- Contents laid into a block's ranks. -/
def layBlock (s : State) (l : Launch) (b : Block) (x : List (List Host.Cell) × List (List Host.Cell)) : State :=
  (mapI (fun r e => (r, e)) 0 b.map).foldl (fun s (r, e) =>
    let c := s.core (b.core + r)
    s.setCore (b.core + r) { c with
      scr := layBytes c.scr e.2 l.portionSize (x.1.getD r [])
      acc := if l.accKb == 0 then c.acc else layBytes c.acc 0 (1024 * l.accKb) (x.2.getD r []) }) s

/-- A move's parties need slots on the new cores; the old place does not count. -/
def moveFits (s : State) (l : Launch) (b : Block) (core0 : Nat) : Bool :=
  dieOf core0 == dieOf b.core && core0 % l.cores == 0 && core0 != b.core && dieTakes s (dieOf core0) && groupFits s l core0

/-- BLOCK_MOVE (14 R311): barrier states are named by block, rank and quad of the block, so they move without change. -/
def execBlockMove (s : State) : Host.Outcome State Fault Refusal :=
  match s.input with
  | .blockMove lid blin core0 =>
    match s.launch? lid, s.block? lid blin with
    | some l, some b =>
      let x := blockBytes s l b
      let (map, t) := takePortions l blin l.cores core0 (freePortions s b)
      let b' := { b with core := core0, map := map }
      let t := t.setBlock b'
      let t := (upTo b.map.length).foldl (fun s r => leaveCore s (b.core + r) lid) t
      whenEnabled "BLOCK_MOVE" (blockSaved s l b && moveFits s l b core0) (layBlock t l b' x)
    | _, _ => .refused (.notEnabled "BLOCK_MOVE")
  | _ => .refused (.notEnabled "BLOCK_MOVE")

end Sys2Proof.Machine
end

