-- ==== Sys2Proof/Machine/Reset.lean ====
section
/-! DEFINITION. Die resets, the save and restore of clusters, and power gating (25_resilience.md R451 to R454; 15_die_memory.md
R322, R330; 24_determinism.md R440). -/

namespace Sys2Proof.Machine

/-- The cores and slots of a die. -/
def coresOf (die : Nat) : List Nat := (upTo 32).map (32 * die + ·)
def dieSlots (die : Nat) : List Nat := (coresOf die).flatMap slotsOf
/-- Slots of a die that the table lists. -/
def usedSlots (s : State) (die : Nat) : List Nat := (s.slots.map (·.1)).filter fun k => dieOf (coreOf k) == die

/-- The blocks of a die that have not ended and hold its portions. -/
def blocksOf (s : State) (die : Nat) : List Block :=
  s.blocks.filter fun b => !b.ended && b.saved.isNone && dieOf b.core == die

/-! ## The request (R451 step 1) -/

/-- PRE with DEADLINE 0 to an occupied slot, with the save address that the bind core has for it. -/
def preSlot (images : List (Nat × Nat)) (s : State) (slot : Nat) : State :=
  let k := { s.slot slot with deadline := 0, saveAddr := aget (s.slot slot).saveAddr slot images }
  match k.st with
  | .run => acceptPre (s.setSlot slot k) slot
  | .loading | .restoring => s.setSlot slot { k with heldPre := true }
  | .saving | .free | .frozen | .disabled => s

/-- DIE_RESET_REQUEST (R451). -/
def execDieResetRequest (s : State) : Host.Outcome State Fault Refusal :=
  match s.input with
  | .dieResetRequest die images =>
    let d := s.die die
    let t := s.setDie die { d with cond := .quiescing, stopped := true, reserve := none, reset := some (1, s.ref + s.qdl) }
    whenEnabled "DIE_RESET_REQUEST" (managed s && die < 4 && d.cond == .running && d.reset.isNone)
      ((usedSlots t die).foldl (preSlot images) t)
  | _ => .refused (.notEnabled "DIE_RESET_REQUEST")

/-! ## Clusters (R452) -/

/-- The blocks of a cluster that have not ended. -/
def openBlocks (s : State) (lid clin : Nat) : List Block := (clusterBlocks s lid clin).filter fun b => !b.ended

/-- Bytes of a rank in a save area: its portion, then the accumulator memory its launch declares. -/
def rankBytes (l : Launch) : Nat := l.portionSize + 1024 * l.accKb

/-- A block's place in a save area: blocks by cluster rank, ranks in order (assumption 74, DESIGN CHOICE). -/
def saveAt (l : Launch) (area : Nat) (b : Block) (r : Nat) : Nat := eaAdd area ((b.clrank * l.cores + r) * rankBytes l : Nat)

/-- One rank's contents written to the save area. -/
def saveRank (l : Launch) (area : Nat) (b : Block) (s : State) (r : Nat) : Got :=
  let base := (b.map.getD r (0, 0)).2
  let ea := saveAt l area b r
  match writeEa s (homeAg l) ea l.portionSize (scrRead s (b.core + r) base l.portionSize) with
  | .ok _ s => writeEa s (homeAg l) (eaAdd ea (l.portionSize : Nat)) (1024 * l.accKb) (accRead s (b.core + r) 0 (1024 * l.accKb))
  | g => g

/-- One rank's contents read back to its new place. -/
def loadRank (l : Launch) (area : Nat) (b : Block) (s : State) (r : Nat) : Got :=
  let base := (b.map.getD r (0, 0)).2
  let ea := saveAt l area b r
  match readEa s (homeAg l) ea l.portionSize with
  | .ok x s =>
    match readEa (scrWrite s (b.core + r) base l.portionSize x) (homeAg l) (eaAdd ea (l.portionSize : Nat)) (1024 * l.accKb) with
    | .ok y s => .ok 0 (accWrite s (b.core + r) 0 (1024 * l.accKb) y)
    | g => g
  | g => g

/-- Steps one after another, each on what the last one left, up to the first that does not go through. -/
def inTurn {α : Type} (f : State → α → Got) : List α → State → Got
  | [], s => .ok 0 s
  | a :: as, s =>
    match f s a with
    | .ok _ s => inTurn f as s
    | g => g

/-- A block whose contents stand in the save area gives up its portions (assumption 74, DESIGN CHOICE). -/
def keepBlock (l : Launch) (area : Nat) (s : State) (b : Block) : State :=
  let s := (freePortions s b).setBlock { b with saved := some area }
  (upTo b.map.length).foldl (fun s r => leaveCore s (b.core + r) l.lid) s

/-- CLUSTER_SAVE (R452): every party of every block of the cluster is saved. -/
def execClusterSave (s : State) : Host.Outcome State Fault Refusal :=
  match s.input with
  | .clusterSave lid clin area =>
    match s.launch? lid with
    | none => .refused (.notEnabled "CLUSTER_SAVE")
    | some l =>
      let bs := openBlocks s lid clin
      let resetting := bs.all fun b => (s.die (dieOf b.core)).reset.isSome && bindUp s (dieOf b.core)
      let go := !bs.isEmpty && resetting && bs.all (blockSaved s l)
      match inTurn (fun s b => inTurn (saveRank l area b) (upTo b.map.length) s) bs s with
      | .ok _ t => whenEnabled "CLUSTER_SAVE" go (bs.foldl (keepBlock l area) t)
      | .hold _ t => heldNext "CLUSTER_SAVE" s go t
      | .busy _ | .fault .. => .refused (.notEnabled "CLUSTER_SAVE")
  | _ => .refused (.notEnabled "CLUSTER_SAVE")

/-- One saved block placed on the first group of a die that fits it, its contents laid there. -/
def replaceBlock (l : Launch) (die : Nat) (s : State) (b : Block) : Got :=
  match b.saved, (groupsOn die l.cores).find? (groupFits s l) with
  | some area, some core0 =>
    let (map, s) := takePortions l b.blin l.cores core0 s
    let b := { b with core := core0, map := map, mapped := (core0, map), saved := none }
    inTurn (loadRank l area b) (upTo map.length) (s.setBlock b)
  | _, _ => .busy s

/-- CLUSTER_RESTORE (R452, R338): the whole cluster on one allowed die, a deterministic launch's too. -/
def execClusterRestore (s : State) : Host.Outcome State Fault Refusal :=
  match s.input with
  | .clusterRestore lid clin die =>
    match s.launch? lid with
    | none => .refused (.notEnabled "CLUSTER_RESTORE")
    | some l =>
      let bs := openBlocks s lid clin
      match inTurn (replaceBlock l die) bs s with
      | .ok _ t =>
        whenEnabled "CLUSTER_RESTORE" (!bs.isEmpty && die < 4 && l.dieOk die && dieTakes s die && !reservedFrom s die l) t
      | .hold _ t => heldNext "CLUSTER_RESTORE" s (die < 4 && l.dieOk die && dieTakes s die) t
      | .busy _ | .fault .. => .refused (.notEnabled "CLUSTER_RESTORE")
  | _ => .refused (.notEnabled "CLUSTER_RESTORE")

/-! ## The deadline (R451 step 4, R453) -/

/-- Lines marked LOST in the directory. -/
def markLost (s : State) (ls : List Nat) : State := { s with lost := s.lost ++ ls.eraseDups.filter fun l => !s.lost.contains l }

/-- A die's partial stores are lost, and each line that had a partial there is LOST (15 R330). -/
def losePartials (s : State) (die : Nat) : State :=
  let lines := (coresOf die).flatMap fun c => (s.core c).parts.map fun p => lineOf p.ppa
  let s := markLost s lines
  { s with cores := s.cores.map fun c => if dieOf c.1 == die then (c.1, { c.2 with parts := [] }) else c }

/-- The directory answers for a die: its clean copies go, its M and O lines and the lines of its partial stores are LOST
(15 R322, R330). -/
def loseLines (s : State) (die : Nat) : State :=
  let dirty := (s.l2.filter fun e => e.1.1 == die && (heldAs s e.1.2 die == some .m || heldAs s e.1.2 die == some .o)).map (·.1.2)
  let s := losePartials (markLost s dirty) die
  { s with
    l2 := s.l2.filter fun e => e.1.1 != die
    dies := s.dies.map fun d => if d.1 == die then (d.1, { d.2 with invs := [], tlb := [], walks := [] }) else d }

/-- Atomics forwarded to the die take COH_LOST (R453). -/
def loseForwarded (s : State) (die : Nat) : State :=
  (s.ops.filter fun o => match o.phase with | .forwarded d _ => d == die | _ => false).foldl (fun s o =>
    failOp s o Cause.cohLost ((o.kind.bytes.map (·.1)).getD 0)) s

/-- A report on its way to its ring: the bind core keeps it (28 R480). -/
def OpKind.report? : OpKind → Bool
  | .report .. => true
  | _ => false

/-- The collective commands of the die are lost to their partners (28 R486). -/
def loseColls (s : State) (die : Nat) : State :=
  ((s.ops.filterMap Op.coll?).filter fun c => dieOf (coreOf c.op.slot) == die && c.live).foldl loseColl s

/-- What the die's threads and engines had under way goes, with no signal and no record (R453). -/
def dropOps (s : State) (die : Nat) : State :=
  let s := loseColls s die
  { s with ops := s.ops.filterMap fun o =>
      if dieOf (coreOf o.slot) != die || o.kind.report? then some o
      else if o.atPort then some { o with live := [], tids := [] }
      else none }

/-- A party that a slot holds is lost: its record names its lowest thread that has not exited (16 R345). -/
def losePartyAt (s : State) (slot : Nat) : State :=
  let k := s.slot slot
  let s := match k.party, k.bind with
    | none, some bd =>
      (match s.launch? bd.lid, bindBlock s bd.lid bd.record with
       | some l, some b => s.setSlot slot { k with party := some (startParty l b (bindPidx bd.record)) }
       | _, _ => s)
    | _, _ => s
  match s.party? slot with
  | none => clearSlot s slot
  | some p =>
    if k.st == .frozen then freeSlot s slot
    else
      let tid := ((upTo 64).find? fun t => !(p.thread t).exited).getD 0
      let e : Esc := { cause := Cause.kill, faddr := 0, pc := (p.thread tid).pc.toNat, tid := tid }
      freeSlot (freeze s slot p e) slot

/-- The parties of a block that no slot holds are lost: those saved get their record, those never dispatched end. -/
def loseAbsent (s : State) (b : Block) : State :=
  match s.launch? b.lid, s.block? b.lid b.blin with
  | some l, some b =>
    if b.ended then s
    else
      let s := recordSaved s l b
      let s := if b.images.isEmpty then s else s.setLaunch { l with firstCause := l.firstCause.orElse fun _ => some Cause.kill }
      loseParties s l b (absentParties l b)
  | _, _ => s

/-- Every party of the blocks on a die is lost. -/
def loseDie (s : State) (die : Nat) : State :=
  let bs := blocksOf s die
  let s := (usedSlots s die).foldl (fun s k => if (s.slot k).bind.isSome then losePartyAt s k else s) s
  bs.foldl loseAbsent s

/-- QUIESCE_DEADLINE_EXPIRY (R451 step 4): link fencing. -/
def execQuiesceDeadlineExpiry (s : State) : Host.Outcome State Fault Refusal :=
  match s.input with
  | .quiesceDeadlineExpiry die =>
    match (s.die die).reset with
    | none => .refused (.notEnabled "QUIESCE_DEADLINE_EXPIRY")
    | some (_, due) =>
      let t := loseForwarded (loseLines s die) die
      let t := dropOps (t.setDie die { t.die die with cond := .fenced, reset := some (4, due) }) die
      whenEnabled "QUIESCE_DEADLINE_EXPIRY" (due ≤ s.ref && (s.die die).cond == .quiescing) (loseDie t die)
  | _ => .refused (.notEnabled "QUIESCE_DEADLINE_EXPIRY")

/-! ## The reset (R451 step 5) -/

/-- A die's lines written back and dropped (R451 step 3, R454). -/
def drainL2 (s : State) (die : Nat) : State :=
  let dirty := (s.l2.filter fun e => e.1.1 == die && (heldAs s e.1.2 die == some .m || heldAs s e.1.2 die == some .o)).map (·.1.2)
  let s := dirty.foldl (fun s line => writeBack s die line) s
  { s with
    l2 := s.l2.filter fun e => e.1.1 != die
    dies := s.dies.map fun d => if d.1 == die then (d.1, { d.2 with invs := [], tlb := [], walks := [] }) else d }

/-- A dirty line of the die cannot be written back: its port holds it (21 R413). -/
def drainBusy (s : State) (die : Nat) : Bool :=
  s.l2.any fun e => e.1.1 == die && (e.2.st == .m || e.2.st == .o) && inAllBank s (128 * e.1.2)

/-- Accumulator memory after a die reset: unspecified bytes (12 R292, assumption 13, DESIGN CHOICE). -/
def accAfter (number core : Nat) : List Host.Cell :=
  (upTo (2 ^ 18)).filterMap fun off =>
    let b := Config.accAfterReset number core off
    if b == unlisted then none else some (off, b)

/-- A core after its die's reset: portions keep the count of their generations, so that a late packet is still told from
its target (14 R305). -/
def resetCore (number : Nat) (core : Nat) (c : Core) : Core :=
  { Core.init with acc := accAfter number core, gens := c.gens, disabled := c.disabled || c.disable }

/-- The slots of a die after its reset: FREE, but for those that are DISABLED (R451), among them those whose repair was due
(10 R237). -/
def resetSlots (s : State) (die : Nat) : State :=
  { s with slots := s.slots.map fun e =>
      if dieOf (coreOf e.1) == die then
        (e.1, { Slot.init with st := if e.2.st == .disabled || e.2.repair then .disabled else .free })
      else e }

/-- A die that has been reset. -/
def resetDie (s : State) (die : Nat) : State :=
  let s := resetSlots s die
  let s := (coresOf die).foldl (fun s c => s.setCore c (resetCore s.seq c (s.core c))) s
  s.setDie die { Die.init with cond := .running, freq := (s.die die).freq }

/-- Nothing of the die is left to drain: every slot is free, every block saved or ended. -/
def dieDrained (s : State) (die : Nat) : Bool :=
  (usedSlots s die).all (fun k => (s.slot k).bind.isNone) && (blocksOf s die).isEmpty && !drainBusy s die &&
  !(s.ops.any fun o => match o.phase with | .forwarded d _ => d == die | _ => false) &&
  (coresOf die).all fun c => (s.core c).shadows.isEmpty

/-- DIE_RESET_COMPLETE (R451 steps 3 and 5). -/
def execDieResetComplete (s : State) : Host.Outcome State Fault Refusal :=
  match s.input with
  | .dieResetComplete die =>
    let d := s.die die
    let t := reportEvent (resetDie (dropOps (losePartials (drainL2 s die) die) die) die) (dieChannel die) 3 6 0 0 0
    whenEnabled "DIE_RESET_COMPLETE"
      (d.reset.isSome && !s.out (.bind die) && (d.cond == .fenced || (d.cond == .quiescing && dieDrained s die))) t
  | _ => .refused (.notEnabled "DIE_RESET_COMPLETE")

/-! ## Power gating (R454) -/

/-- DIE_POWER_GATE (R454). -/
def execDiePowerGate (s : State) : Host.Outcome State Fault Refusal :=
  match s.input with
  | .diePowerGate die =>
    let d := s.die die
    let t := drainL2 s die
    let t := reportEvent (t.setDie die { t.die die with cond := .gated, served := [], reserve := none })
      (dieChannel die) 3 7 0 0 0
    whenEnabled "DIE_POWER_GATE"
      (managed s && die < 4 && d.cond == .running && d.reset.isNone && dieDrained s die &&
        (coresOf die).all fun c => (s.core c).table.isEmpty && (s.core c).parts.isEmpty) t
  | _ => .refused (.notEnabled "DIE_POWER_GATE")

/-- The highest clock that an all-bank limit allows (27 R465). -/
def clockFor (limit : Nat) : Nat := if 768 ≤ limit then 27 else if 384 ≤ limit then 31 else if 256 ≤ limit then 35 else 36

/-- DIE_POWER_UP (R454, 15 R322): the die holds nothing, and its clock is one that the limit in force allows (assumption 37, DESIGN CHOICE). -/
def execDiePowerUp (s : State) : Host.Outcome State Fault Refusal :=
  match s.input with
  | .diePowerUp die =>
    let t := resetDie s die
    whenEnabled "DIE_POWER_UP"
      (managed s && die < 4 && (s.die die).cond == .gated && (aget? (.bind die) s.firmware).any (·.running))
      (t.setDie die { t.die die with freq := clockFor s.allBankLimit })
  | _ => .refused (.notEnabled "DIE_POWER_UP")

end Sys2Proof.Machine
end

