-- ==== Sys2Proof/Machine/Boot.lean ====
section
/-! DEFINITION. Boot, firmware, attestation, power and cooling (27_bringup_power.md R460 to R468; 25_resilience.md R453). -/

namespace Sys2Proof.Machine

/-! ## Components (R461, R462) -/

/-- The components in the order of R462. -/
def allComponents : List Component :=
  [.monument] ++ (upTo 4).map .bind ++ (upTo 12).map .port ++ (upTo 19).map .link

/-- The place of a component's kind in the anti-rollback counters. -/
def rollbackAt : Component → Nat
  | .monument => 0
  | .bind _ => 1
  | .port _ => 2
  | .link _ => 3

/-- An image that the monument core accepts for a component (R461): its key is the fused root's or certified by it, its
signature verifies, and its version is at least the fused counter. -/
def imageOk (root : Nat) (rollback : List Nat) (c : Component) (i : Image) : Bool :=
  (i.key == root || i.certifiedBy == some root) && i.signed && rollback.getD (rollbackAt c) 0 ≤ i.version

/-! ## Boot (R460) -/

/-- The package without power: what outlives it are its fuses and repairs, the spared rows, lanes out of service, memory and
the staged log entries (R468: the error log keeps a trip) (assumption 34, DESIGN CHOICE). -/
def poweredOff (s : State) : State :=
  let off := s.slots.filter fun e => e.2.st == .disabled || e.2.repair
  let cores := s.cores.filter fun e => e.2.disabled || e.2.disable
  { State.reset with
    agenda := s.agenda
    input := s.input
    seq := s.seq
    slots := off.map fun e => (e.1, { Slot.init with st := .disabled })
    cores := cores.map fun e => (e.1, { Core.init with disabled := true })
    dram := s.dram
    seals := s.seals
    stackTab := s.stackTab.map fun e => (e.1, { ({} : Stack) with spared := e.2.spared, worn := e.2.worn })
    lanes := s.lanes.map fun e => (e.1, { e.2 with retraining := false })
    staging := (queuedReports s).map fun r => { r with early := true }
    due := s.due
    reportSeq := s.reportSeq
    outbox := s.outbox }

/-- The components in order, each with its image where it has one. -/
def bootImages (b : BootInputs) : List (Component × Option Image) :=
  mapI (fun i c => (c, b.images[i]?)) 0 allComponents

/-- The step that starts a component (R460). -/
def bootStep : Component → Nat
  | .monument => 2
  | .port _ => 3
  | .bind _ => 5
  | .link _ => 6

/-- Some image of the components that meet a condition is not accepted. -/
def imageBad (b : BootInputs) (which : Component → Bool) : Bool :=
  (bootImages b).any fun (c, i) => which c && !i.any (imageOk b.rootDigest b.rollback c)

/-- The first of steps 1, 2, 3, 4 and 6 that stops the boot (R460, R461). -/
def bootStop (b : BootInputs) : Option Nat :=
  [1, 2, 3, 4, 6].find? fun k => b.failsAt == some k || imageBad b fun c => bootStep c == k

/-- A die fails step 5. -/
def dieStops (b : BootInputs) (die : Nat) : Bool :=
  b.dieFails.contains die || imageBad b (· == .bind die)

/-- A boot has done a step. -/
def bootPast (b : BootInputs) (k : Nat) : Bool := (bootStop b).all fun j => k < j
/-- Components that run after the boot: those of the steps it has done. -/
def bootFirmware (b : BootInputs) : List (Component × Firm) :=
  (bootImages b).filterMap fun (c, i) =>
    let stops := match c with | .bind die => dieStops b die | _ => false
    if stops || !bootPast b (bootStep c) then none
    else i.map fun i => (c, { version := i.version, digest := i.digest, running := true })

/-- The boot status word: the code of the step that stops the boot, else that of the first die that fails (R460) (assumption 35, DESIGN CHOICE). -/
def bootWord (b : BootInputs) : Nat :=
  match bootStop b with
  | some k => k
  | none =>
    match allDies.find? (dieStops b) with
    | some d => 5 + 2 ^ 8 * d
    | none => 0

/-- The slots that a fuse disabled at test are DISABLED (10 R237). -/
def fuseSlots (s : State) (ks : List Nat) : State :=
  ks.foldl (fun s k => if k < 2048 then s.setSlot k { Slot.init with st := .disabled } else s) s

/-- Steps 1 to 6. -/
def boot (s : State) (b : BootInputs) : State :=
  let s := fuseSlots (poweredOff s) b.fused
  let past := bootPast b
  let s := { s with firmware := bootFirmware b }
  let s := if past 1 then { s with rootDigest := b.rootDigest, identity := b.identity, rollback := b.rollback } else s
  let s := if past 3 then { s with pools := b.pools } else s
  let s := if past 4 then { s with keys := b.keys, coolTables := b.tables } else s
  let s := if past 5 then
      { s with dies := allDies.map fun d => (d, if dieStops b d then Die.init else { Die.init with cond := .running }) }
    else s
  let s := if past 6 then
      { s with booted := true, pkg := b.pkg, logAddr := b.logAddr, logN := b.logN,
               ethWidth := widthOf (ethLanes s), dram := Memory.write s.dram (b.logAddr + 16) 4 b.logN }
    else s
  { s with bootStatus := bootWord b }.send 8 0 (bootWord b)

/-- POWER_ON (R460). -/
def execPowerOn (s : State) : Host.Outcome State Fault Refusal :=
  match s.input with
  | .powerOn b => whenEnabled "POWER_ON" (!s.booted || s.tripped) (boot s b)
  | _ => .refused (.notEnabled "POWER_ON")

/-- PACKAGE_RESET (25 R453, R463): the package is as it was before power-on, and boots again. -/
def execPackageReset (s : State) : Host.Outcome State Fault Refusal := .next (poweredOff s)

/-! ## Updates (R463) -/

/-- Some other component is being updated. -/
def updating (s : State) (c : Component) : Bool :=
  s.firmware.any fun f => f.1 != c && f.2.restart.isSome && !f.2.down

/-- FIRMWARE_UPDATE (R463), in two events: the image is verified and its component restarts, then the restart ends, with its
start check passed or failed. -/
def execFirmwareUpdate (s : State) : Host.Outcome State Fault Refusal :=
  match s.input with
  | .firmwareUpdate c image starts =>
    let f := aget {} c s.firmware
    let set := fun (g : Firm) => { s with firmware := aset c g s.firmware }
    if f.restart.isSome && !f.down then
      whenEnabled "FIRMWARE_UPDATE" (s.booted && f.version == image.version && f.digest == image.digest)
        (if starts then set { f with running := true, restart := none } else (set { f with down := true }).send 8 0 5)
    else
      whenEnabled "FIRMWARE_UPDATE" (s.booted && (c == .monument || !s.out .monument) && !updating s c && allComponents.contains c)
        (if imageOk s.rootDigest s.rollback c image then
          set { version := image.version, digest := image.digest, running := false, restart := some (f.restart.getD s.ref), down := false }
        else s.send 8 0 2)
  | _ => .refused (.notEnabled "FIRMWARE_UPDATE")

/-- An access that has not yet been performed. -/
def Op.pending (o : Op) : Bool :=
  o.kind.isAccess && match o.phase with
    | .issued | .walking .. | .held _ => true
    | .peer _ | .forwarded .. | .performed _ | .queued | .running | .failing .. | .post .. | .done | .failed .. => false

/-- A lane or uniform access waits at a port for its component (R462); other accesses take their failure where they wait
(busyGot). -/
def heldAtPort (s : State) (o : Op) (stack : Nat) : Bool :=
  let t := onlyOut s (.port stack)
  let g := opAg s o
  match o.kind.bytes with
  | none => false
  | some (ea, _) =>
    o.pending && o.ready s && !isWin ea &&
    (match o.kind with
     | .load _ _ _ _ _ _ _ (some p) =>
       (match bufOf s g.ctx (eaIdx ea) with
        | some e => verLoc t g.die g.ctx (eaIdx ea) e (eaOff ea) p == .busy
        | none => false)
     | _ => locate t g ea o.kind.writes == .busy)

/-- A block waits at a port of a stack. -/
def blockAtPort (o : Op) (stack : Nat) : Bool := o.atPort && o.portKey.1 == stack
/-- A lane or uniform access to a peer waits for a port; other accesses take their failure where they wait (peerGot). -/
def heldAtLink (s : State) (o : Op) : Bool :=
  peerHeld s && match o.phase, o.kind.bytes with
    | .peer _, _ => true
    | _, some (ea, _) => o.pending && o.ready s && isPeerEa s (opAg s o).ctx ea
    | _, none => false

/-- An operation takes HW_LINK (R463). -/
def linkLost (s : State) (o : Op) : State :=
  if o.atPort then retire (failWith (leavePort s o) o Cause.hwLink 0 (o.info 0)) o.id
  else match o.kind.bytes with
    | some (ea, _) => failOp s o Cause.hwLink ea
    | none => s.setOp { o with phase := .failing Cause.hwLink o.work.addr 1, work := o.work.clear }

/-- FIRMWARE_HOLD_TIMEOUT (R463): the operations that a restart of more than 10 ms holds; those that a link holds are named,
for other ports carry the rest. -/
def execFirmwareHoldTimeout (s : State) : Host.Outcome State Fault Refusal :=
  match s.input with
  | .firmwareHoldTimeout c ids =>
    let due := outLong s c
    let held := match c with
      | .port stack => s.ops.filter fun o => heldAtPort s o stack || blockAtPort o stack
      | .link _ => s.ops.filter fun o => ids.contains o.id && heldAtLink s o
      | .monument | .bind _ => []
    whenEnabled "FIRMWARE_HOLD_TIMEOUT" due (held.foldl linkLost s)
  | _ => .refused (.notEnabled "FIRMWARE_HOLD_TIMEOUT")

/-- What an attestation report holds (R464): identity, versions and digests of the running components, the fuse counters and
the nonce, in fields of 256 bits. -/
def attestReport (s : State) (nonce : Nat) : Nat :=
  let run := s.firmware.filter fun f => f.2.running
  ([s.identity] ++ run.flatMap (fun f => [f.2.version, f.2.digest]) ++ s.rollback ++ [nonce]).foldl
    (fun r x => r * 2 ^ 256 + x % 2 ^ 256) 0

/-- ATTESTATION_REQUEST (R464): the report, then its signature. -/
def execAttestationRequest (s : State) : Host.Outcome State Fault Refusal :=
  match s.input with
  | .attestationRequest nonce =>
    let r := attestReport s nonce
    whenEnabled "ATTESTATION_REQUEST" (managed s) ((s.send 5 0 r).send 5 1 (Config.attestSignature r))
  | _ => .refused (.notEnabled "ATTESTATION_REQUEST")

/-! ## Power (R465 to R468) -/

/-- The all-bank limit of a highest clock. -/
def limitOf (clock : Nat) : Nat := if 36 ≤ clock then 192 else if 32 ≤ clock then 256 else if 28 ≤ clock then 384 else 768

/-- A die has power: one that is fenced for its reset keeps it (25 R451, R454). -/
def powered (s : State) (die : Nat) : Bool := (s.die die).cond != .gated

/-- The highest clock of the powered dies. -/
def topClock (s : State) : Nat := allDies.foldl (fun m d => if powered s d then max m (s.die d).freq else m) 0

/-- New clocks of the powered dies. -/
def setClocks (s : State) (clocks : List Nat) : State :=
  allDies.foldl (fun s d => if powered s d then s.setDie d { s.die d with freq := clocks.getD d 12 } else s) s

/-- New activation windows of the stacks (19 R391). -/
def setWindows (s : State) (windows : List (Nat × Nat)) : State :=
  (mapI (fun i w => (i, w)) 0 windows).foldl (fun s (i, (a, t)) => s.setStack i { s.stack i with actmax := a, twin := t }) s

/-- POWER_MANAGER_REVISION (R465, R466): a clock rises only once the all-bank count allows, and the limit rises one revision
after the clocks have fallen. -/
def execPowerManagerRevision (s : State) : Host.Outcome State Fault Refusal :=
  match s.input with
  | .powerManagerRevision clocks windows =>
    let t := setClocks s clocks
    let raises := allDies.any fun d => powered s d && (s.die d).freq < clocks.getD d 12
    let ok := clocks.length == 4 && clocks.all (fun c => 12 ≤ c && c ≤ 36) && windows.length == 12 &&
      windows.all fun w => 64 ≤ w.1 && w.1 ≤ 65535 && 64 ≤ w.2 && w.2 ≤ 4096
    whenEnabled "POWER_MANAGER_REVISION"
      (managed s && ok && (!raises || allBankCount s ≤ limitOf (topClock t)))
      { setWindows t windows with allBankLimit := limitOf (max (topClock s) (topClock t)) }
  | _ => .refused (.notEnabled "POWER_MANAGER_REVISION")

/-- A package trip: the part stops at once, and the error log keeps the event (assumption 103, DESIGN CHOICE). -/
def tripPackage (s : State) (channel : Nat) : State := { reportEvent s channel 2 0 0 0 0 with tripped := true }

/-- The power budget at an inlet temperature (R467): 80 W less for each degree above 35. A flow that has been low keeps 1,600 W at
most (assumption 108, DESIGN CHOICE). -/
def budgetAt (flowLow : Bool) (celsius : Nat) : Nat :=
  let b := 3200 - 80 * (celsius - 35)
  if flowLow then min 1600 b else b

/-- TEMPERATURE_REPORT (R467, R468). -/
def execTemperatureReport (s : State) : Host.Outcome State Fault Refusal :=
  match s.input with
  | .temperatureReport (.die d) c =>
    whenEnabled "TEMPERATURE_REPORT" (s.booted && d < 4)
      (if 105 ≤ c then tripPackage s (dieChannel d)
      else if 95 ≤ c then s.setDie d { s.die d with freq := max 12 ((s.die d).freq - 1) }
      else s)
  | .temperatureReport (.stack k) c =>
    whenEnabled "TEMPERATURE_REPORT" (s.booted && k < 12)
      (if 100 ≤ c then tripPackage s (portChannel k 0)
      else if 90 ≤ c then s.setStack k { s.stack k with actmax := max 64 ((s.stack k).actmax / 2) }
      else s)
  | .temperatureReport .inlet c => whenEnabled "TEMPERATURE_REPORT" s.booted { s with budget := budgetAt s.flowLow c }
  | _ => .refused (.notEnabled "TEMPERATURE_REPORT")

/-- FLOW_LOW_TIMEOUT (R468): flow below 3.0 L/min for 1 s. -/
def execFlowLowTimeout (s : State) : Host.Outcome State Fault Refusal :=
  whenEnabled "FLOW_LOW_TIMEOUT" s.booted { s with budget := 1600, flowLow := true }

end Sys2Proof.Machine
end

