-- ==== Sys2Proof/Machine/Gather.lean ====
section
/-! DEFINITION. The gather unit (07_memory_access.md R175 to R178). -/

namespace Sys2Proof.Machine

/-! ## The descriptor (R175) -/

def gatSrc (d : Nat) : Nat := fld d 0 64
def gatIdx (d : Nat) : Nat := fld d 64 64
def gatDst (d : Nat) : Nat := fld d 128 64
def gatCnt (d : Nat) : Nat := fld d 192 17
def gatOob (d : Nat) : Bool := bitOf d (224 + 9)
/-- Bytes of an index. -/
def gatIw (d : Nat) : Nat := if bitOf d (224 + 3) then 8 else 4
/-- Bytes of an element. -/
def gatSz (d : Nat) : Nat := 2 ^ fld d 224 3

/-- A reserved field is not zero, or CNT is too large. -/
def gatBad (d : Nat) : Bool := fld d (192 + 17) 15 != 0 || fld d (224 + 10) 22 != 0 || fld d (224 + 4) 4 != 0 || 65536 < gatCnt d

/-- A check of a range of n bytes, none for an empty one; sr.tinfo gives the size of the whole range (assumption 81, DESIGN
CHOICE). -/
def rangeCheck (s : State) (l : Launch) (need : Need) (ea : Nat) (write : Bool) : Option Trap :=
  if need.size = 0 then none
  else (checkEa s l need ea).map fun c => { cause := c, taddr := ea, tinfo := memInfo need.size write false false }

/-- The checks of a gather's descriptor (R176) and of its arrival word (R177), in order (assumption 62, DEDUCED).
A null SRC passes: each element then fails with its null address (assumption 80, DESIGN CHOICE). -/
def gatCheck (s : State) (cx : Cx) (d : Nat) (arrival : Option Nat) : Option Trap :=
  let sz := gatSz d
  let n := gatCnt d
  let kind := fun ea n w => some ({ cause := Cause.winKind, taddr := ea, tinfo := memInfo n w false false } : Trap)
  if gatBad d then some { cause := Cause.gathBad }
  else if isWin (gatSrc d) then kind (gatSrc d) sz false
  else if !isScr (gatDst d) then kind (gatDst d) sz true
  else
    match rangeCheck s cx.launch { size := n * gatIw d, r := true, acc := false } (gatIdx d) false with
    | some t => some t
    | none =>
      match rangeCheck s cx.launch { size := n * sz, w := true, acc := false, buf := false } (gatDst d) true with
      | some t => some t
      | none =>
        if gatDst d % sz != 0 then some { cause := Cause.memAlign, taddr := gatDst d, tinfo := memInfo sz true false false }
        else if gatIdx d % gatIw d != 0 then
          some { cause := Cause.memAlign, taddr := gatIdx d, tinfo := memInfo (gatIw d) false false false }
        else
          match arrival with
          | none => none
          | some off =>
            let ea := scrEa cx.party.rank off
            if off % 16 != 0 then some { cause := Cause.memAlign, taddr := ea, tinfo := memInfo 16 true true false }
            else if cx.launch.scratchEnd < off + 16 then
              some { cause := Cause.winBounds, taddr := ea, tinfo := memInfo 16 true true false }
            else none

/-- GATH (R176, R177): the descriptor is captured, and the gather counts in gx. -/
def execGath (d a b : BitVec 8) (s : State) : Host.Outcome State Fault Refusal :=
  runEngine s (.gath d a b) .gx fun cx s tid _ t o =>
    let ea := cx.ea o.a 32
    match cx.record s tid t ea 32 32 with
    | (s, .trap tr) => (s, .trap tr)
    | (s, .wait t) => (s, .wait t)
    | (s, .ok desc) =>
      let arrival := if cx.dreg == .z then none else some o.d
      match gatCheck s cx desc arrival with
      | some tr => (s, .trap tr)
      | none => (s, .go (.gather desc arrival))

/-! ## Execution (R176, R178) -/

/-- How a gather ends. -/
inductive GatEnd where
  | done (s : State)
  | hold (ea i : Nat) (s : State)
  /-- a port, a walk or room is awaited -/
  | busy
  /-- the cause, the failing source address and the element's index -/
  | fault (cause ea i : Nat) (s : State)

/-- One element's value: a source address beyond its buffer gives zeros under OOB. -/
def gatElem (s : State) (l : Launch) (g : Ag) (d k : Nat) : Got :=
  let sz := gatSz d
  let ea := eaAdd (gatSrc d) (k * sz : Nat)
  match checkEa s l { size := sz, r := true } ea with
  | some c => if c == Cause.bufBounds && gatOob d then .ok 0 s else .fault c ea s
  | none => readEa s g ea sz

/-- The elements from i on, n of them. -/
def gatRun (l : Launch) (g : Ag) (d : Nat) : Nat → Nat → State → GatEnd
  | 0, _, s => .done s
  | n + 1, i, s =>
    let ia := eaAdd (gatIdx d) (i * gatIw d : Nat)
    match readEa s g ia (gatIw d) with
    | .hold ea s => .hold ea i s
    | .busy _ => .busy
    | .fault c ea s => .fault c ea i s
    | .ok k s =>
      match gatElem s l g d k with
      | .hold ea s => .hold ea i s
      | .busy _ => .busy
      | .fault c ea s => .fault c ea i s
      | .ok x s =>
        match writeEa s g (eaAdd (gatDst d) (i * gatSz d : Nat)) (gatSz d) x with
        | .ok _ s => gatRun l g d n (i + 1) s
        | .hold ea s => .hold ea i s
        | .busy _ => .busy
        | .fault c ea s => .fault c ea i s

/-- A gather from its beginning. -/
def gatExec (s : State) (o : Op) : Option GatEnd :=
  match o.kind, s.launch? o.lid with
  | .gather d _, some l => some (gatRun l (opAg s o) d (gatCnt d) 0 s)
  | _, _ => none

/-- The bytes a gather adds to its arrival word. -/
def gatArrive (s : State) (o : Op) : State :=
  match o.kind, s.party? o.slot with
  | .gather d (some off), some p =>
    match rmwEa s (opAg s o) (scrEa p.rank off) 16 (.signal false (gatCnt d * gatSz d)) with
    | .ok _ s | .hold _ s | .busy s | .fault _ _ s => s
  | _, _ => s

/-- A gather may run: what it must see is settled. -/
def gatReady (s : State) (o : Op) : Bool := o.phase == .issued && o.ready s && s.party? o.slot != none

/-- GATHER_DONE (R176, R177): every element is written and the arrival word advances; an access held on its page is
tried again. -/
def execGatherDone (op : Nat) (s : State) : Host.Outcome State Fault Refusal :=
  match s.op? op with
  | none => .refused (.notEnabled "GATHER_DONE")
  | some o =>
    match gatExec s o with
    | some (.done t) => whenEnabled "GATHER_DONE" (gatReady s o) (completeOp (gatArrive t o) op)
    | some (.hold ea i t) => whenEnabled "GATHER_DONE" (gatReady s o) (noteHold (s.keepHold t) op ea i)
    | _ => .refused (.notEnabled "GATHER_DONE")

/-- GATHER_FAULT (R178): the gather stops, its arrival word unchanged; sr.taddr is the failing source address and sr.tinfo
the element's index. -/
def execGatherFault (op : Nat) (s : State) : Host.Outcome State Fault Refusal :=
  match s.op? op with
  | none => .refused (.notEnabled "GATHER_FAULT")
  | some o =>
    match o.phase, o.kind with
    | .failing c addr _, .gather .. =>
      let f := engineCause Cause.gathElem c o.work.elem
      .next (retire (elemFail s o f.1 addr f.2) op)
    | _, _ =>
      match gatExec s o with
      | some (.fault c ea i t) =>
        let f := engineCause Cause.gathElem c i
        whenEnabled "GATHER_FAULT" (gatReady s o) (retire (elemFail t o f.1 ea f.2) op)
      | _ => .refused (.notEnabled "GATHER_FAULT")

end Sys2Proof.Machine
end

