-- ==== Sys2Proof/Machine/Choice.lean ====
section
/-! DEFINITION. The default choice of the agent that moves next, where the agenda names none (assumption 1, DESIGN CHOICE): candidates in a
fixed order, of which a step takes the first that is enabled. An agent that waits for something outside the package, or
whose request needs a value from there, moves only when the agenda says so. -/

namespace Sys2Proof.Machine

/-- The event of a bank command by its OP. -/
def bankEvents (s : State) (o : Op) (b : Nat) : List Instr :=
  if o.work.flag then [.allBankAdmit o.id]
  else if bkN b ≤ o.work.next then [.bankBlockDone o.id]
  else
    (if (s.stack o.portKey.1).waiting.isEmpty then [] else [.activateAdmit o.portKey.1]) ++
    (match bcOp (bkCmd b o.work.next) with
     | 0 => [.bkMode o.id] | 1 => [.bkBcast o.id] | 2 => [.bkLdv o.id] | 3 => [.bkMac o.id] | 4 => [.bkEadd o.id]
     | 5 => [.bkSta o.id] | 6 => [.bkClr o.id] | _ => [.bkSync o.id])

/-- The next unwritten packet of a copy, or its end. -/
def copyEvent (o : Op) : Instr :=
  match o.work.packets.findIdx? fun p => p.fate == 0 with
  | some k => .copyWritePacket o.id k
  | none => .copyDone o.id

/-- What a collective does next inside the package. -/
def collEvents (o : Op) : List Instr :=
  match o.work.packets.find? fun p => p.fate == 0 with
  | some p => [.haloReceive o.id p.tgt 0, .collDone o.id, .collFault o.id]
  | none => [.collDone o.id, .collFault o.id]

/-- The events of an operation at work in an engine. -/
def engineEvents (s : State) (o : Op) : List Instr :=
  match o.kind, o.phase with
  | .copy .., .issued => [.copyStart o.id]
  | .copy .., .running => [copyEvent o]
  | .copy .., .failing .. => [.copyFault o.id]
  | .tile .., .issued => [.tileAccept o.id]
  | .tile .., .queued => [.tileStart o.id]
  | .tile .., .running => [.tileRunDone o.id]
  | .tile .., .failing .. => [.tileFault o.id]
  | .geom .., .issued => [.geometryStart o.id]
  | .geom .., .running => [.cutselDone o.id, .rastDone o.id, .rayqDone o.id]
  | .geom .., .failing .. => [.geometryFault o.id]
  | .lrld .., .issued | .lrld .., .failing .. => [.lrldReadDone o.id]
  | .gather .., .issued => [.gatherDone o.id, .gatherFault o.id]
  | .gather .., .failing .. => [.gatherFault o.id]
  | .bank .., .issued => [.bankBlockArrive o.id]
  | .bank .., .queued => [.bankBlockStart o.id]
  | .bank b _, .running => bankEvents s o b
  | .coll .., .issued => [.collMatched o.id [], .collFault o.id]
  | .coll .., .running => collEvents o
  | .coll .., .failing .. => [.collFault o.id]
  | _, _ => []

/-- The events of an operation that need nothing from outside the package. -/
def opEvents (s : State) (o : Op) : List Instr :=
  match o.phase with
  | .issued => if o.kind.isAccess then [.accessTranslate o.id none] else engineEvents s o
  | .walking .. => ((opPage s o).map fun k => .pageWalkComplete (dieOf (coreOf o.slot)) k).toList
  | .forwarded .. => [.forwardedAtomic o.id]
  | .performed _ => if o.kind.result.isSome then [.loadComplete o.id] else [.storeAck o.id]
  | .done | .failed .. => [.commandRetire o.id]
  | .post .. => [.ringPost o.id]
  | .held _ => [.accessTranslate o.id none]
  | .peer _ => []
  | .queued | .running | .failing .. => engineEvents s o

/-- The operation waits on a page or a port. -/
def Op.waits (o : Op) : Bool := o.work.since.isSome || match o.phase with | .held _ => true | _ => false

/-- The first pending cause that a thread can take. -/
def causeEvents (s : State) (slot : Nat) : List Instr :=
  match s.party? slot with
  | none => []
  | some p => ((upTo 64).filter fun t => (p.thread t).deliverable).map (.deliverPendingCause slot)

/-- The events of a slot. -/
def slotEvents (s : State) (slot : Nat) : List Instr :=
  match (s.slot slot).st with
  | .loading => [.dispatchStart slot]
  | .restoring => [.restoreStart slot, .partyFrozen slot]
  | .run => causeEvents s slot ++ [.partyFrozen slot, .partySlotFree slot, .saveBegin slot]
  | .saving => [.saveDrained slot, .saveComplete slot]
  | .free | .frozen | .disabled => []

/-- The events of a core's segments and shadow references. -/
def coreEvents (core : Nat) (c : Core) : List Instr :=
  c.segs.flatMap (fun e =>
    match e.2.st with
    | .fetching => [.segmentLanded core e.1.1 e.1.2, .segmentFetchFault core e.1.1 e.1.2]
    | .dropping => [.segmentDropComplete core e.1.1 e.1.2]
    | .absent | .landed | .failed _ => []) ++ c.shadows.map fun x => .shadowReferenceDone x.op

/-- The bind record of a block's next party, for the lowest free slot of its core. -/
def nextBind (s : State) (b : Block) : Option Pick :=
  match s.launch? b.lid with
  | none => none
  | some l =>
    match (upTo l.ppb).find? fun p => !b.bound.contains p with
    | none => none
    | some p =>
      let core := b.core + l.rankOf p
      ((slotsOf core).find? fun k => (s.slot k).st == .free && !(s.slot k).reserved).map fun slot =>
        .event .bindDispatch (.bindDispatch slot l.lid (bindRecord 1 (tableIndex s core l.lid) p (l.rankOf p) (l.nv / 8) b 0))

/-- What the bind cores do for launches that are under way. -/
def launchPicks (s : State) : List Pick :=
  s.blocks.flatMap (fun b =>
    (if b.merges.isEmpty then [] else [Pick.event .closureMerge (.closureMerge b.lid b.blin [])]) ++ (nextBind s b).toList) ++
  s.launches.flatMap fun l =>
    (if l.isDet then [Pick.event .clusterRetire (.clusterRetire l.lid)] else []) ++
    [.event .launchTeardown (.launchTeardown l.lid [])]

/-- The conditions of the threads of a slot that stand in a WAITC. -/
def waitcEvents (s : State) (slot : Nat) : List Instr :=
  match s.party? slot with
  | none => []
  | some p => (upTo 64).flatMap fun t =>
    match (p.thread t).hold with
    | some (.waitc _ conds _ _ _ _) => ((upTo conds.length).map fun i => .waitcReadReturn slot t i none) ++ [.waitcTimeout slot t]
    | some (.bar ..) | some (.xl _) | some (.read ..) | none => []

/-- A directory slice without room drops its oldest line; invalidations on their way arrive (15 R318, R321). -/
def directoryPicks (s : State) : List Pick :=
  (upTo 12).flatMap (fun k =>
    let ls := sliceLines s k
    if s.dirRoom ≤ ls.length then (ls.head?.map fun l => Pick.event (.directoryBackInvalidate l) .none).toList else []) ++
  s.dies.flatMap fun d => (d.2.invs.map fun l => dirSlice l).eraseDups.map fun k => .event (.invalidationApply d.1) (.invalidationFrom k)

/-- What is tried again while nothing else moves: what waits, limits on waiting, dependences, the scheduler. -/
def idlePicks (s : State) : List Pick :=
  ((s.ops.filter Op.waits).flatMap fun o => .holdLimitExpiry o.id :: opEvents s o).map (.event · .none) ++
  s.ops.flatMap (fun o => match o.kind with | .coll .. => [Pick.event (.collTimeout o.id) .none] | _ => []) ++
  (s.ops.map fun o => .event .peerTimeout (.peerTimeout o.id)) ++
  (s.slots.flatMap fun e => waitcEvents s e.1 ++ [.saveDeadlineExpiry e.1]).map (.event · .none) ++
  directoryPicks s ++
  (s.hostHeld.zipIdx.map fun h => .event h.1.msg.event (.hostRetry h.2)) ++
  s.escHolds.map (fun e => .event .escalatedHoldExpiry (.escalatedHoldExpiry e.1)) ++
  (if s.staging.isEmpty then [] else [.event .errorLogMove .none]) ++
  s.queues.map (fun q => .event .launchRecordValidate (.launchRecordValidate q.1 [])) ++
  (s.launches.filter fun l => !l.pending.isEmpty).flatMap (fun _ => allDies.map fun d => .event .schedulerPass (.schedulerPass d [])) ++
  s.launches.flatMap fun l => (upTo l.ndep).map fun i => .event .dependenceRead (.dependenceRead l.lid i [])

/-- The eligible thread that has waited longest, ties by lower slot and lower PC (R233). -/
def nextThread (s : State) : Option (Nat × Nat) :=
  let all := s.slots.flatMap fun e =>
    match e.2.party with
    | none => []
    | some p => ((upTo 64).filter (eligible s e.1 p)).map fun t => (e.1, t, (p.thread t).lastIssue, (p.thread t).pc.toNat)
  let better := fun (x y : Nat × Nat × Nat × Nat) =>
    x.2.2.1 < y.2.2.1 || (x.2.2.1 == y.2.2.1 && (x.1 < y.1 || (x.1 == y.1 && x.2.2.2 < y.2.2.2)))
  (all.foldl (fun (b : Option (Nat × Nat × Nat × Nat)) x =>
    match b with | some y => if better x y then some x else some y | none => some x) none).map fun x => (x.1, x.2.1)

/-- The issue of the thread that has waited longest. -/
def threadPick (s : State) : List Pick :=
  match nextThread s with
  | none => []
  | some (slot, tid) =>
    match s.party? slot with
    | none => []
    | some p => [.issue slot (p.thread tid).pc (p.thread tid).handler (groupOf s slot p tid) .none]

/-- Every candidate, in order; those of idle agents in turn. -/
def candidates (s : State) : List Pick :=
  ((s.ops.filter fun o => !o.waits).flatMap (opEvents s)).map (.event · .none) ++
  (s.slots.flatMap fun e => slotEvents s e.1).map (.event · .none) ++
  (s.cores.flatMap fun e => coreEvents e.1 e.2).map (.event · .none) ++
  launchPicks s ++ threadPick s ++
  (let l := idlePicks s; l.drop (s.seq % max 1 l.length) ++ l.take (s.seq % max 1 l.length))

end Sys2Proof.Machine
end

