-- ==== Sys2Proof/Machine/Coherence.lean ====
section
/-! DEFINITION. The directory and the L2s between accesses (15_die_memory.md R318, R319, R321, R322): snoops, evictions,
back-invalidation and the invalidations queued towards a die. -/

namespace Sys2Proof.Machine

/-- SNOOP_FOR_READ (R319). -/
def execSnoopForRead (die line : Nat) (s : State) : Host.Outcome State Fault Refusal :=
  whenEnabled "SNOOP_FOR_READ" (dieUp s die && holds s line die) (snoopRead s die line)

/-- SNOOP_FOR_OWNERSHIP (R319): the data of M and O is supplied, through the directory to memory where no die takes it
(assumption 8, DESIGN CHOICE). -/
def execSnoopForOwnership (die line : Nat) (s : State) : Host.Outcome State Fault Refusal :=
  let st := heldAs s line die
  let t := match st with
    | some x => if x.dirty then writeBack s die line else s
    | none => s
  whenEnabled "SNOOP_FOR_OWNERSHIP" (dieUp s die && st.isSome && canWriteBack s line st) (t.delL2 die line)

/-- L2_EVICTION (R319): M and O write back, E and S give notice. No line of the slice is marked to go before it
(07 R163). -/
def execL2Eviction (die line : Nat) (s : State) : Host.Outcome State Fault Refusal :=
  whenEnabled "L2_EVICTION" (l2Prefers s die line && canWriteBack s line (heldAs s line die)) (l2Evict s die line)

/-- DIRECTORY_BACK_INVALIDATE (R318): a slice without room drops the oldest line that it tracks. An owner writes back first,
then no die holds the line. -/
def execDirectoryBackInvalidate (line : Nat) (s : State) : Host.Outcome State Fault Refusal :=
  let lines := sliceLines s (dirSlice line)
  let st := (ownerOf s line).bind (heldAs s line)
  whenEnabled "DIRECTORY_BACK_INVALIDATE" (s.dirRoom ≤ lines.length && lines.head? == some line && canWriteBack s line st)
    (flushLine s line false)

/-- INVALIDATION_APPLY (R321): the oldest invalidation that a directory slice has queued towards a die. Those of two slices
reach the die in either order. -/
def execInvalidationApply (die : Nat) (s : State) : Host.Outcome State Fault Refusal :=
  match s.input with
  | .invalidationFrom slice =>
    match (s.die die).invs.find? fun line => dirSlice line == slice with
    | none => .refused (.notEnabled "INVALIDATION_APPLY")
    | some line =>
      let t := s.delL2 die line
      whenEnabled "INVALIDATION_APPLY" (dieUp s die) (t.setDie die { t.die die with invs := (t.die die).invs.erase line })
  | _ => .refused (.notEnabled "INVALIDATION_APPLY")

end Sys2Proof.Machine
end

