-- ==== Sys2Proof/Machine/Post.lean ====
section
/-! DEFINITION. RING_POST (11_scratchpad_copies.md R272, R273; 12_tile_engine.md R296; 17_geometry.md R371; 28_fabric.md
R488): the record of an engine's command, or of a report that found its ring full, and what a fault on it reports. -/

namespace Sys2Proof.Machine

/-! ## The record that an operation posts -/

/-- Ring number of an engine command. -/
def OpKind.ringNo : OpKind → Nat
  | .copy _ d .. => cpRing d
  | .tile _ b .. => tbRing b
  | .geom opc d _ => geRing opc d
  | .coll d .. => coRing d
  | .load .. | .store .. | .atom .. | .clean .. | .arrv .. | .abinit .. | .tbinit .. | .launch .. | .cfetch .. | .gather ..
  | .lrld .. | .bank .. | .report .. => 0

/-- The control block of an operation's ring. -/
def ringOf (s : State) (o : Op) : Nat :=
  match o.kind with
  | .report .. => 0
  | k => match s.launch? o.lid with | some l => l.ring k.ringNo | none => 0

/-- The agent that posts: a report's stands on its core in its context. -/
def postAg (s : State) (o : Op) : Ag :=
  match o.kind with
  | .report ctx .. => plainAg (coreOf o.slot) ctx
  | _ => opAg s o

/-- TAG and BYTES of an operation's record. -/
def Op.tagBytes (o : Op) : Nat × Nat :=
  match o.kind with
  | .report _ _ tag bytes _ => (tag, bytes)
  | _ => (o.tag, o.work.moved)

/-- The cause and reason of a ring write fault (R273, R296, R371, R488). -/
def OpKind.ringFault : OpKind → Nat × Nat
  | .tile .. => (Cause.tileElem, 2)
  | .geom opc .. => (geElemCause opc, 4)
  | .coll .. => (Cause.collElem, 5)
  | .copy .. | .load .. | .store .. | .atom .. | .clean .. | .arrv .. | .abinit .. | .tbinit .. | .launch .. | .cfetch ..
  | .gather .. | .lrld .. | .bank .. | .report .. => (Cause.cpyElem, 4)

/-- A report. -/
def OpKind.isReport : OpKind → Bool
  | .report .. => true
  | _ => false

/-- The operation has posted its record, or lost it: it completes, or fails with what it had met before. -/
def posted (s : State) (o : Op) : State :=
  if o.kind.isReport then s.delOp o.id
  else match o.work.fail with
    | some (c, a, i) => retire (elemFail s o c a i) o.id
    | none => retire (s.setPhase o .done) o.id

/-- A fault on the ring write: a report is lost, a command reports it unless it has failed before. -/
def postFault (s : State) (o : Op) (c ea : Nat) : State :=
  if o.kind.isReport || o.work.fail.isSome then posted s o
  else retire (elemFail s o o.kind.ringFault.1 ea (c * 256 + o.kind.ringFault.2)) o.id

/-- An earlier report waits for the same ring: reports of a ring keep their order. -/
def reportBefore (s : State) (o : Op) : Bool :=
  match o.kind with
  | .report ctx ring .. =>
    (s.ops.takeWhile fun p => p.id ≠ o.id).any fun p =>
      match p.kind with | .report c r .. => c == ctx && r == ring && p.phase.posting | _ => false
  | _ => false

/-- A wait on a held page has lasted longer than its limit (19 R387, 28 R472). -/
def postStuck (s : State) (o : Op) (ea : Nat) : Option Nat :=
  match o.work.since with
  | none => none
  | some t =>
    if o.work.addr == ea && pastLimit s t (waitLimit s (postAg s o).ctx ea) then
      some (if isPeerEa s (postAg s o).ctx ea then Cause.peerFail else Cause.migrStuck)
    else none

/-- An operation's record posted: the count reserved for it, and what the post gives. -/
def postOp (s : State) (o : Op) (status cause faddr : Nat) : Option Nat × Got :=
  match o.kind with
  | .report _ ring .. => postReport s (postAg s o) ring o.work.reserved faddr o.tagBytes.2 o.tagBytes.1 status cause
  | _ => postFrom s (postAg s o) (ringOf s o) o.work.reserved faddr o.tagBytes.2 o.tagBytes.1 status cause

/-- The engine of a command waits for a ring with no room, at which an older command posts (R272). -/
def postStalled (s : State) (o : Op) : Bool :=
  let s := { s with ops := s.ops.takeWhile fun p => p.id ≠ o.id }
  match o.kind with
  | .copy .. => copyStalled s o
  | .tile .. => tileStalled s o
  | .geom opc _ _ => geomStalled s o opc
  | .coll .. => collStalled s o
  | .load .. | .store .. | .atom .. | .clean .. | .arrv .. | .abinit .. | .tbinit .. | .launch .. | .cfetch .. | .gather ..
  | .lrld .. | .bank .. | .report .. => false

/-- RING_POST (R272). -/
def execRingPost (op : Nat) (s : State) : Host.Outcome State Fault Refusal :=
  match s.op? op with
  | none => .refused (.notEnabled "RING_POST")
  | some o =>
    match o.phase with
    | .post status cause faddr =>
      let go := !reportBefore s o && (o.work.reserved.isSome || !postStalled s o)
      let (c, got) := postOp s o status cause faddr
      let o' := { o with work := { o.work with reserved := c } }
      match got with
      | .ok c t =>
        let t := match o.kind with
          | .report _ _ tag bytes via => sendReport t via c (ringRecord faddr bytes tag c status cause)
          | _ => t
        whenEnabled "RING_POST" go (posted t o)
      | .fault c ea t => whenEnabled "RING_POST" go (postFault t o c ea)
      | .hold ea t =>
        match postStuck s o ea with
        | some c => whenEnabled "RING_POST" go (postFault s o c ea)
        | none => whenEnabled "RING_POST" go (noteHold ((postKept s t c).setOp o') op ea 0)
      | .busy t => whenEnabled "RING_POST" (go && c != o.work.reserved) (t.setOp o')
    | _ => .refused (.notEnabled "RING_POST")

end Sys2Proof.Machine
end

