-- ==== Sys2Proof/Machine/Dispatch.lean ====
section
/-! DEFINITION. One arm per constructor of Instr: the meaning it calls. -/

namespace Sys2Proof.Machine

/-- What an instruction or an event does (spec/opcode_table.json, row by row). -/
def exec (i : Instr) (s : State) : Host.Outcome State Fault Refusal :=
  match i with
  | .iadd d a b => Sys2Proof.Machine.execIadd d a b s
  | .isub d a b => Sys2Proof.Machine.execIsub d a b s
  | .iadd64 d a b => Sys2Proof.Machine.execIadd64 d a b s
  | .isub64 d a b => Sys2Proof.Machine.execIsub64 d a b s
  | .imul d a b => Sys2Proof.Machine.execImul d a b s
  | .imulhi d a b => Sys2Proof.Machine.execImulhi d a b s
  | .nmulhi d a b => Sys2Proof.Machine.execNmulhi d a b s
  | .imad d a b => Sys2Proof.Machine.execImad d a b s
  | .nmad64 d a b => Sys2Proof.Machine.execNmad64 d a b s
  | .ndiv d a b => Sys2Proof.Machine.execNdiv d a b s
  | .nrem d a b => Sys2Proof.Machine.execNrem d a b s
  | .imin d a b => Sys2Proof.Machine.execImin d a b s
  | .imax d a b => Sys2Proof.Machine.execImax d a b s
  | .nmin d a b => Sys2Proof.Machine.execNmin d a b s
  | .nmax d a b => Sys2Proof.Machine.execNmax d a b s
  | .iadds d a b => Sys2Proof.Machine.execIadds d a b s
  | .and d a b => Sys2Proof.Machine.execAnd d a b s
  | .or d a b => Sys2Proof.Machine.execOr d a b s
  | .xor d a b => Sys2Proof.Machine.execXor d a b s
  | .andn d a b => Sys2Proof.Machine.execAndn d a b s
  | .shl d a b => Sys2Proof.Machine.execShl d a b s
  | .shr d a b => Sys2Proof.Machine.execShr d a b s
  | .sra d a b => Sys2Proof.Machine.execSra d a b s
  | .rotl d a b => Sys2Proof.Machine.execRotl d a b s
  | .funsh d a b => Sys2Proof.Machine.execFunsh d a b s
  | .popc d a b => Sys2Proof.Machine.execPopc d a b s
  | .clz d a b => Sys2Proof.Machine.execClz d a b s
  | .brev d a b => Sys2Proof.Machine.execBrev d a b s
  | .bfx d a b => Sys2Proof.Machine.execBfx d a b s
  | .bfi d a b => Sys2Proof.Machine.execBfi d a b s
  | .bdep d a b => Sys2Proof.Machine.execBdep d a b s
  | .bext d a b => Sys2Proof.Machine.execBext d a b s
  | .bperm d a b => Sys2Proof.Machine.execBperm d a b s
  | .bmm8 d a b => Sys2Proof.Machine.execBmm8 d a b s
  | .ieq d a b => Sys2Proof.Machine.execIeq d a b s
  | .ine d a b => Sys2Proof.Machine.execIne d a b s
  | .ilt d a b => Sys2Proof.Machine.execIlt d a b s
  | .ile d a b => Sys2Proof.Machine.execIle d a b s
  | .nlt d a b => Sys2Proof.Machine.execNlt d a b s
  | .nle d a b => Sys2Proof.Machine.execNle d a b s
  | .sel d a b => Sys2Proof.Machine.execSel d a b s
  | .li d imm => Sys2Proof.Machine.execLi d imm s
  | .lih d imm => Sys2Proof.Machine.execLih d imm s
  | .rndc d a b => Sys2Proof.Machine.execRndc d a b s
  | .fadd d a b => Sys2Proof.Machine.execFadd d a b s
  | .fsub d a b => Sys2Proof.Machine.execFsub d a b s
  | .fmul d a b => Sys2Proof.Machine.execFmul d a b s
  | .ffma d a b => Sys2Proof.Machine.execFfma d a b s
  | .fmin d a b => Sys2Proof.Machine.execFmin d a b s
  | .fmax d a b => Sys2Proof.Machine.execFmax d a b s
  | .feq d a b => Sys2Proof.Machine.execFeq d a b s
  | .flt d a b => Sys2Proof.Machine.execFlt d a b s
  | .fle d a b => Sys2Proof.Machine.execFle d a b s
  | .funo d a b => Sys2Proof.Machine.execFuno d a b s
  | .dadd d a b => Sys2Proof.Machine.execDadd d a b s
  | .dsub d a b => Sys2Proof.Machine.execDsub d a b s
  | .dmul d a b => Sys2Proof.Machine.execDmul d a b s
  | .dfma d a b => Sys2Proof.Machine.execDfma d a b s
  | .dmin d a b => Sys2Proof.Machine.execDmin d a b s
  | .dmax d a b => Sys2Proof.Machine.execDmax d a b s
  | .deq d a b => Sys2Proof.Machine.execDeq d a b s
  | .dlt d a b => Sys2Proof.Machine.execDlt d a b s
  | .dle d a b => Sys2Proof.Machine.execDle d a b s
  | .duno d a b => Sys2Proof.Machine.execDuno d a b s
  | .pfmah d a b => Sys2Proof.Machine.execPfmah d a b s
  | .pfmab d a b => Sys2Proof.Machine.execPfmab d a b s
  | .sfn d a b => Sys2Proof.Machine.execSfn d a b s
  | .fdiv d a b => Sys2Proof.Machine.execFdiv d a b s
  | .ddiv d a b => Sys2Proof.Machine.execDdiv d a b s
  | .dsqrt d a b => Sys2Proof.Machine.execDsqrt d a b s
  | .cvt d a b => Sys2Proof.Machine.execCvt d a b s
  | .cvts d a b => Sys2Proof.Machine.execCvts d a b s
  | .fclass d a b => Sys2Proof.Machine.execFclass d a b s
  | .fscale d a b => Sys2Proof.Machine.execFscale d a b s
  | .dscale d a b => Sys2Proof.Machine.execDscale d a b s
  | .frnd d a b => Sys2Proof.Machine.execFrnd d a b s
  | .bnz d imm => Sys2Proof.Machine.execBnz d imm s
  | .bz d imm => Sys2Proof.Machine.execBz d imm s
  | .jmpf d a b => Sys2Proof.Machine.execJmpf d a b s
  | .callf d a b => Sys2Proof.Machine.execCallf d a b s
  | .ret d a b => Sys2Proof.Machine.execRet d a b s
  | .waitn d imm => Sys2Proof.Machine.execWaitn d imm s
  | .waitc d a b => Sys2Proof.Machine.execWaitc d a b s
  | .xln d a b => Sys2Proof.Machine.execXln d a b s
  | .xred d a b => Sys2Proof.Machine.execXred d a b s
  | .elect d a b => Sys2Proof.Machine.execElect d a b s
  | .vote d a b => Sys2Proof.Machine.execVote d a b s
  | .bar d a b => Sys2Proof.Machine.execBar d a b s
  | .bara d a b => Sys2Proof.Machine.execBara d a b s
  | .exit d a b => Sys2Proof.Machine.execExit d a b s
  | .ldb d a b => Sys2Proof.Machine.execLdb d a b s
  | .ldh d a b => Sys2Proof.Machine.execLdh d a b s
  | .ldw d a b => Sys2Proof.Machine.execLdw d a b s
  | .ldd d a b => Sys2Proof.Machine.execLdd d a b s
  | .ldq d a b => Sys2Proof.Machine.execLdq d a b s
  | .stb d a b => Sys2Proof.Machine.execStb d a b s
  | .sth d a b => Sys2Proof.Machine.execSth d a b s
  | .stw d a b => Sys2Proof.Machine.execStw d a b s
  | .std d a b => Sys2Proof.Machine.execStd d a b s
  | .stq d a b => Sys2Proof.Machine.execStq d a b s
  | .ldv d a b => Sys2Proof.Machine.execLdv d a b s
  | .atom d a b => Sys2Proof.Machine.execAtom d a b s
  | .atomr d a b => Sys2Proof.Machine.execAtomr d a b s
  | .fence d a b => Sys2Proof.Machine.execFence d a b s
  | .clnr d a b => Sys2Proof.Machine.execClnr d a b s
  | .invr d a b => Sys2Proof.Machine.execInvr d a b s
  | .cpyt d a b => Sys2Proof.Machine.execCpyt d a b s
  | .cpyl d a b => Sys2Proof.Machine.execCpyl d a b s
  | .cpym d a b => Sys2Proof.Machine.execCpym d a b s
  | .arrv d a b => Sys2Proof.Machine.execArrv d a b s
  | .mma d a b => Sys2Proof.Machine.execMma d a b s
  | .mdrn d a b => Sys2Proof.Machine.execMdrn d a b s
  | .lrld d a b => Sys2Proof.Machine.execLrld d a b s
  | .cfetch d a b => Sys2Proof.Machine.execCfetch d a b s
  | .cutsel d a b => Sys2Proof.Machine.execCutsel d a b s
  | .rast d a b => Sys2Proof.Machine.execRast d a b s
  | .rayq d a b => Sys2Proof.Machine.execRayq d a b s
  | .bkq d a b => Sys2Proof.Machine.execBkq d a b s
  | .gath d a b => Sys2Proof.Machine.execGath d a b s
  | .coll d a b => Sys2Proof.Machine.execColl d a b s
  | .trap d a b => Sys2Proof.Machine.execTrap d a b s
  | .srd d a b => Sys2Proof.Machine.execSrd d a b s
  | .swr d a b => Sys2Proof.Machine.execSwr d a b s
  | .tret d a b => Sys2Proof.Machine.execTret d a b s
  | .nop d a b => Sys2Proof.Machine.execNop d a b s
  | .bkpt d a b => Sys2Proof.Machine.execBkpt d a b s
  | .ldvq d a b => Sys2Proof.Machine.execLdvq d a b s
  | .uadd d a b => Sys2Proof.Machine.execUadd d a b s
  | .usub d a b => Sys2Proof.Machine.execUsub d a b s
  | .uadd64 d a b => Sys2Proof.Machine.execUadd64 d a b s
  | .umul d a b => Sys2Proof.Machine.execUmul d a b s
  | .umad d a b => Sys2Proof.Machine.execUmad d a b s
  | .uand d a b => Sys2Proof.Machine.execUand d a b s
  | .uor d a b => Sys2Proof.Machine.execUor d a b s
  | .uxor d a b => Sys2Proof.Machine.execUxor d a b s
  | .ushl d a b => Sys2Proof.Machine.execUshl d a b s
  | .ushr d a b => Sys2Proof.Machine.execUshr d a b s
  | .usra d a b => Sys2Proof.Machine.execUsra d a b s
  | .upopc d a b => Sys2Proof.Machine.execUpopc d a b s
  | .uclz d a b => Sys2Proof.Machine.execUclz d a b s
  | .ueq d a b => Sys2Proof.Machine.execUeq d a b s
  | .une d a b => Sys2Proof.Machine.execUne d a b s
  | .ult d a b => Sys2Proof.Machine.execUlt d a b s
  | .ule d a b => Sys2Proof.Machine.execUle d a b s
  | .unlt d a b => Sys2Proof.Machine.execUnlt d a b s
  | .unle d a b => Sys2Proof.Machine.execUnle d a b s
  | .usel d a b => Sys2Proof.Machine.execUsel d a b s
  | .uli d imm => Sys2Proof.Machine.execUli d imm s
  | .ulih d imm => Sys2Proof.Machine.execUlih d imm s
  | .umin d a b => Sys2Proof.Machine.execUmin d a b s
  | .umax d a b => Sys2Proof.Machine.execUmax d a b s
  | .ubnz d imm => Sys2Proof.Machine.execUbnz d imm s
  | .ubz d imm => Sys2Proof.Machine.execUbz d imm s
  | .ujmpf d a b => Sys2Proof.Machine.execUjmpf d a b s
  | .ucallf d a b => Sys2Proof.Machine.execUcallf d a b s
  | .uret d a b => Sys2Proof.Machine.execUret d a b s
  | .usrd d a b => Sys2Proof.Machine.execUsrd d a b s
  | .uldw d a b => Sys2Proof.Machine.execUldw d a b s
  | .uldd d a b => Sys2Proof.Machine.execUldd d a b s
  | .uldq d a b => Sys2Proof.Machine.execUldq d a b s
  | .ustw d a b => Sys2Proof.Machine.execUstw d a b s
  | .ustd d a b => Sys2Proof.Machine.execUstd d a b s
  | .uatomr d a b => Sys2Proof.Machine.execUatomr d a b s
  | .uldv d a b => Sys2Proof.Machine.execUldv d a b s
  | .upref d a b => Sys2Proof.Machine.execUpref d a b s
  | .rbind d a b => Sys2Proof.Machine.execRbind d a b s
  | .runbind d a b => Sys2Proof.Machine.execRunbind d a b s
  | .crdecl d a b => Sys2Proof.Machine.execCrdecl d a b s
  | .crend d a b => Sys2Proof.Machine.execCrend d a b s
  | .vpost d a b => Sys2Proof.Machine.execVpost d a b s
  | .vopen d a b => Sys2Proof.Machine.execVopen d a b s
  | .migr d a b => Sys2Proof.Machine.execMigr d a b s
  | .launch d a b => Sys2Proof.Machine.execLaunch d a b s
  | .tbinit d a b => Sys2Proof.Machine.execTbinit d a b s
  | .abinit d a b => Sys2Proof.Machine.execAbinit d a b s
  | .utrap d a b => Sys2Proof.Machine.execUtrap d a b s
  | .unop d a b => Sys2Proof.Machine.execUnop d a b s
  | .plane d a b => Sys2Proof.Machine.execPlane d a b s
  | .accessTranslate op reply => Sys2Proof.Machine.execAccessTranslate op reply s
  | .cowComplete page => Sys2Proof.Machine.execCowComplete page s
  | .historyFrameFree page slot => Sys2Proof.Machine.execHistoryFrameFree page slot s
  | .holdLimitExpiry op => Sys2Proof.Machine.execHoldLimitExpiry op s
  | .pageWalkComplete die page => Sys2Proof.Machine.execPageWalkComplete die page s
  | .loadComplete op => Sys2Proof.Machine.execLoadComplete op s
  | .storeAck op => Sys2Proof.Machine.execStoreAck op s
  | .commandRetire op => Sys2Proof.Machine.execCommandRetire op s
  | .deliverPendingCause slot tid => Sys2Proof.Machine.execDeliverPendingCause slot tid s
  | .partyFrozen slot => Sys2Proof.Machine.execPartyFrozen slot s
  | .waitcReadReturn slot tid cond reply => Sys2Proof.Machine.execWaitcReadReturn slot tid cond reply s
  | .waitcTimeout slot tid => Sys2Proof.Machine.execWaitcTimeout slot tid s
  | .segmentLanded core lid seg => Sys2Proof.Machine.execSegmentLanded core lid seg s
  | .segmentFetchFault core lid seg => Sys2Proof.Machine.execSegmentFetchFault core lid seg s
  | .segmentDropComplete core lid seg => Sys2Proof.Machine.execSegmentDropComplete core lid seg s
  | .dispatchStart slot => Sys2Proof.Machine.execDispatchStart slot s
  | .restoreStart slot => Sys2Proof.Machine.execRestoreStart slot s
  | .saveBegin slot => Sys2Proof.Machine.execSaveBegin slot s
  | .saveDrained slot => Sys2Proof.Machine.execSaveDrained slot s
  | .saveDeadlineExpiry slot => Sys2Proof.Machine.execSaveDeadlineExpiry slot s
  | .saveComplete slot => Sys2Proof.Machine.execSaveComplete slot s
  | .partySlotFree slot => Sys2Proof.Machine.execPartySlotFree slot s
  | .copyStart op => Sys2Proof.Machine.execCopyStart op s
  | .copyWritePacket op packet => Sys2Proof.Machine.execCopyWritePacket op packet s
  | .copyDone op => Sys2Proof.Machine.execCopyDone op s
  | .copyFault op => Sys2Proof.Machine.execCopyFault op s
  | .ringPost op => Sys2Proof.Machine.execRingPost op s
  | .lrldReadDone op => Sys2Proof.Machine.execLrldReadDone op s
  | .gatherDone op => Sys2Proof.Machine.execGatherDone op s
  | .gatherFault op => Sys2Proof.Machine.execGatherFault op s
  | .tileAccept op => Sys2Proof.Machine.execTileAccept op s
  | .tileStart op => Sys2Proof.Machine.execTileStart op s
  | .tileRunDone op => Sys2Proof.Machine.execTileRunDone op s
  | .tileFault op => Sys2Proof.Machine.execTileFault op s
  | .shadowReferenceDone op => Sys2Proof.Machine.execShadowReferenceDone op s
  | .geometryStart op => Sys2Proof.Machine.execGeometryStart op s
  | .cutselDone op => Sys2Proof.Machine.execCutselDone op s
  | .rastDone op => Sys2Proof.Machine.execRastDone op s
  | .rayqDone op => Sys2Proof.Machine.execRayqDone op s
  | .geometryFault op => Sys2Proof.Machine.execGeometryFault op s
  | .bankBlockArrive op => Sys2Proof.Machine.execBankBlockArrive op s
  | .bankBlockStart op => Sys2Proof.Machine.execBankBlockStart op s
  | .allBankAdmit op => Sys2Proof.Machine.execAllBankAdmit op s
  | .bkMode op => Sys2Proof.Machine.execBkMode op s
  | .bkBcast op => Sys2Proof.Machine.execBkBcast op s
  | .bkLdv op => Sys2Proof.Machine.execBkLdv op s
  | .bkMac op => Sys2Proof.Machine.execBkMac op s
  | .bkEadd op => Sys2Proof.Machine.execBkEadd op s
  | .bkSta op => Sys2Proof.Machine.execBkSta op s
  | .bkClr op => Sys2Proof.Machine.execBkClr op s
  | .bkSync op => Sys2Proof.Machine.execBkSync op s
  | .bankBlockDone op => Sys2Proof.Machine.execBankBlockDone op s
  | .activateAdmit stack => Sys2Proof.Machine.execActivateAdmit stack s
  | .collMatched op peers => Sys2Proof.Machine.execCollMatched op peers s
  | .haloReceive op segment data => Sys2Proof.Machine.execHaloReceive op segment data s
  | .collDone op => Sys2Proof.Machine.execCollDone op s
  | .collTimeout op => Sys2Proof.Machine.execCollTimeout op s
  | .collFault op => Sys2Proof.Machine.execCollFault op s
  | .snoopForRead die line => Sys2Proof.Machine.execSnoopForRead die line s
  | .snoopForOwnership die line => Sys2Proof.Machine.execSnoopForOwnership die line s
  | .l2Eviction die line => Sys2Proof.Machine.execL2Eviction die line s
  | .directoryBackInvalidate line => Sys2Proof.Machine.execDirectoryBackInvalidate line s
  | .invalidationApply die => Sys2Proof.Machine.execInvalidationApply die s
  | .forwardedAtomic op => Sys2Proof.Machine.execForwardedAtomic op s
  | .xPrefix fields => Sys2Proof.Machine.execXPrefix fields s
  | .unassignedUniformOpcode word => Sys2Proof.Machine.execUnassignedUniformOpcode word s
  | .slotPre => Sys2Proof.Machine.execSlotPre s
  | .slotHalt => Sys2Proof.Machine.execSlotHalt s
  | .slotKill => Sys2Proof.Machine.execSlotKill s
  | .slotRelease => Sys2Proof.Machine.execSlotRelease s
  | .registerWrite => Sys2Proof.Machine.execRegisterWrite s
  | .bindDispatch => Sys2Proof.Machine.execBindDispatch s
  | .bindRestore => Sys2Proof.Machine.execBindRestore s
  | .combineLine => Sys2Proof.Machine.execCombineLine s
  | .migrationBegin => Sys2Proof.Machine.execMigrationBegin s
  | .migrationDrained => Sys2Proof.Machine.execMigrationDrained s
  | .migrationCopyDone => Sys2Proof.Machine.execMigrationCopyDone s
  | .peerAccess => Sys2Proof.Machine.execPeerAccess s
  | .peerTimeout => Sys2Proof.Machine.execPeerTimeout s
  | .launchRecordValidate => Sys2Proof.Machine.execLaunchRecordValidate s
  | .dependenceRead => Sys2Proof.Machine.execDependenceRead s
  | .schedulerPass => Sys2Proof.Machine.execSchedulerPass s
  | .reservationIntervalExpiry => Sys2Proof.Machine.execReservationIntervalExpiry s
  | .escalatedHoldExpiry => Sys2Proof.Machine.execEscalatedHoldExpiry s
  | .launchTeardown => Sys2Proof.Machine.execLaunchTeardown s
  | .podGroupForm => Sys2Proof.Machine.execPodGroupForm s
  | .closureMerge => Sys2Proof.Machine.execClosureMerge s
  | .clusterRetire => Sys2Proof.Machine.execClusterRetire s
  | .writeBufferFull => Sys2Proof.Machine.execWriteBufferFull s
  | .blockMove => Sys2Proof.Machine.execBlockMove s
  | .correctedError => Sys2Proof.Machine.execCorrectedError s
  | .uncorrectableError => Sys2Proof.Machine.execUncorrectableError s
  | .laneRetrainDone => Sys2Proof.Machine.execLaneRetrainDone s
  | .errorLogMove => Sys2Proof.Machine.execErrorLogMove s
  | .pageQuarantine => Sys2Proof.Machine.execPageQuarantine s
  | .pageRestore => Sys2Proof.Machine.execPageRestore s
  | .dieResetRequest => Sys2Proof.Machine.execDieResetRequest s
  | .clusterSave => Sys2Proof.Machine.execClusterSave s
  | .clusterRestore => Sys2Proof.Machine.execClusterRestore s
  | .quiesceDeadlineExpiry => Sys2Proof.Machine.execQuiesceDeadlineExpiry s
  | .dieResetComplete => Sys2Proof.Machine.execDieResetComplete s
  | .diePowerGate => Sys2Proof.Machine.execDiePowerGate s
  | .diePowerUp => Sys2Proof.Machine.execDiePowerUp s
  | .powerOn => Sys2Proof.Machine.execPowerOn s
  | .firmwareUpdate => Sys2Proof.Machine.execFirmwareUpdate s
  | .firmwareHoldTimeout => Sys2Proof.Machine.execFirmwareHoldTimeout s
  | .attestationRequest => Sys2Proof.Machine.execAttestationRequest s
  | .powerManagerRevision => Sys2Proof.Machine.execPowerManagerRevision s
  | .temperatureReport => Sys2Proof.Machine.execTemperatureReport s
  | .flowLowTimeout => Sys2Proof.Machine.execFlowLowTimeout s
  | .hostRdmaWrite => Sys2Proof.Machine.execHostRdmaWrite s
  | .hostRdmaWriteImm => Sys2Proof.Machine.execHostRdmaWriteImm s
  | .hostRdmaRead => Sys2Proof.Machine.execHostRdmaRead s
  | .hostAtomicCas => Sys2Proof.Machine.execHostAtomicCas s
  | .hostAtomicFetchAdd => Sys2Proof.Machine.execHostAtomicFetchAdd s
  | .launchPacket => Sys2Proof.Machine.execLaunchPacket s
  | .managementKillLaunch => Sys2Proof.Machine.execManagementKillLaunch s
  | .bufferTableEntryWrite => Sys2Proof.Machine.execBufferTableEntryWrite s
  | .launchQueueCreate => Sys2Proof.Machine.execLaunchQueueCreate s
  | .connectionSetup => Sys2Proof.Machine.execConnectionSetup s
  | .linkPartnerFallback => Sys2Proof.Machine.execLinkPartnerFallback s
  | .packageReset => Sys2Proof.Machine.execPackageReset s

end Sys2Proof.Machine
end

