-- ==== Sys2Proof/Machine/Step.lean ====
section
/-! DEFINITION. One step of the package: one event of one agent, or one issue of one group (assumption 1, DESIGN CHOICE). -/

namespace Sys2Proof.Machine

/-- The end of a step whose instruction or event has answered. -/
def settle (o : Host.Outcome State Fault Refusal) : Host.Outcome State Fault Refusal :=
  match o with
  | .next s => .next (finishStep s)
  | .fault f => .fault f
  | .refused r => .refused r

/-- A lane word behind a prefix executes in the prefix's step (03 R65). -/
def execPair (o : Host.Outcome State Fault Refusal) : Host.Outcome State Fault Refusal :=
  match o with
  | .next s =>
    match s.issue with
    | some g =>
      if g.pfx.isSome then
        match issueWord s with
        | some w => exec (decodeWord w) s
        | none => .next s
      else .next s
    | none => .next s
  | .fault f => .fault f
  | .refused r => .refused r

/-- The X prefix, behind which the lane word of its pair executes. -/
def isPrefix : Instr → Bool
  | .xPrefix _ => true
  | _ => false

/-- The issue of one group: its instruction is fetched, decoded and executed. -/
def issueStep (s : State) (slot : Nat) (pc : Pc) (handler : Bool) (tids : List Nat) :
    Host.Outcome State Fault Refusal :=
  if !groupOk s slot pc handler tids then .refused .noIssue
  else
    let s := { s with issue := some { slot := slot, pc := pc, tids := tids, handler := handler, pfx := none } }
    match issueWord s with
    | some w => settle (if isPrefix (decodeWord w) then execPair (exec (decodeWord w) s) else exec (decodeWord w) s)
    | none =>
      match s.party? slot with
      | some p =>
        match segFailedAt s (coreOf slot) p.lid pc with
        | some a => settle (.next (segFailedTrap s slot pc tids a))
        | none => .refused .noIssue
      | none => .refused .noIssue

/-- A pick carried out. -/
def pickStep (s : State) (k : Pick) : Host.Outcome State Fault Refusal :=
  match k with
  | .event i input => settle (exec i { s with input := input })
  | .issue slot pc handler tids input => issueStep { s with input := input } slot pc handler tids

/-- A pick that is enabled. -/
def Pick.enabled (s : State) (k : Pick) : Bool :=
  match pickStep s k with
  | .next _ => true
  | .fault _ | .refused _ => false

/-- The pick of a step: the agenda's head, else the first candidate that is enabled. -/
def nextPick (s : State) : Option Pick × State :=
  match s.agenda with
  | k :: rest => (some k, { s with agenda := rest })
  | [] => ((candidates s).find? (Pick.enabled s), s)

/-- An event that acts on a package that has tripped (27 R468): power-on or reset. -/
def Pick.revives : Pick → Bool
  | .event .powerOn _ | .event .packageReset _ => true
  | _ => false

/-- One step. -/
def step (s : State) : Host.Outcome State Fault Refusal :=
  match nextPick s with
  | (none, s) => if s.tripped then .fault .tripped else .next (finishStep s)
  | (some k, s) => if s.tripped && !k.revives then .fault .tripped else pickStep s k

/-- s with an instruction whose bits are w placed where the next step fetches (assumption 6, DESIGN CHOICE). -/
def State.withFetchWord (s : State) (nbits w : Nat) : State := installWord s (w % 2 ^ nbits)

end Sys2Proof.Machine
end

