-- ==== Sys2Proof/Safety.lean ====
section
/-! DEFINITION. What a safe run is, and the words that claims about the machine are stated in: a group that issues an
instruction and passes the checks of 03_encoding.md R78, what an instruction of registers does to the threads of its group,
what an issued operation looks like, and the invariant of the machine's memories. -/

namespace Sys2Proof.Machine

/-! ## A safe run -/

/-- A step is safe when the package does not stop. -/
def SafeStep (s : State) : Prop := ∀ f, step s ≠ .fault f

/-- Every memory of the package is in its canonical form: DRAM, and each core's scratchpad and accumulator memory. -/
def MemoriesCanonical (s : State) : Prop :=
  Memory.wf s.dram = true ∧ ∀ e ∈ s.cores, Memory.wf e.2.scr = true ∧ Memory.wf e.2.acc = true

/-! ## A group that issues -/

/-- The group in front of exec issues i with context cx, and no check of R78 fails. -/
structure Issues (s : State) (i : Instr) (cx : Cx) : Prop where
  context : cx? s i = some cx
  encoding : encCheck cx.form cx.p i cx.d cx.a cx.b cx.party.nv cx.issue.handler = none
  time : cx.detReflo = false

/-- The same, and the instruction is not the last of its segment, so that the next PC stands in it (06 R130). -/
structure Runs (s : State) (i : Instr) (cx : Cx) : Prop extends Issues s i cx where
  inside : cx.atEnd = false

/-- The state in which the issuing party stands as given, its threads of the group changed by f. Nothing else differs. -/
def Cx.goes (cx : Cx) (s : State) (party : Party) (f : Nat → Thread → Thread) : State :=
  s.setParty cx.slot { party with threads := mapI (fun k t => if cx.tids.contains k then f k t else t) 0 party.threads }

/-- The operands of an instruction for thread k of the group. -/
def Cx.operands (cx : Cx) (s : State) (k : Nat) : Opnds := cx.opnds (cx.view s.ref k)
/-- The operands of a uniform instruction: those of the group's lowest thread. -/
def Cx.uniOperands (cx : Cx) (s : State) : Opnds := cx.operands s (cx.tids.headD 0)

/-- Operands as words and as 64-bit pairs. -/
def Opnds.wa (o : Opnds) : Word := BitVec.ofNat 32 o.a
def Opnds.wb (o : Opnds) : Word := BitVec.ofNat 32 o.b
def Opnds.wc (o : Opnds) : Word := BitVec.ofNat 32 o.c
def Opnds.wd (o : Opnds) : Word := BitVec.ofNat 32 o.d
def Opnds.xa (o : Opnds) : DWord := BitVec.ofNat 64 o.a
def Opnds.xb (o : Opnds) : DWord := BitVec.ofNat 64 o.b
def Opnds.xc (o : Opnds) : DWord := BitVec.ofNat 64 o.c

/-! ## Instructions of registers -/

/-- A thread whose destination takes x; the A pipe and the D pipe also write lat (01 R25). -/
def Cx.gives (cx : Cx) (lats : Bool) (x : Nat) (t : Thread) : Thread :=
  if lats then (t.write cx.dreg cx.dwidth x).setLat cx.dwidth x else t.write cx.dreg cx.dwidth x

/-- A masked thread: zero in zero mode, nothing otherwise (03 R68), and the next PC. -/
def Cx.masked (cx : Cx) (lats : Bool) (t : Thread) : Thread :=
  (if cx.p.z then cx.gives lats 0 t else t).jump cx.npc

/-- A thread of the group after an instruction of registers whose value is f of the operands. -/
def Cx.computes (cx : Cx) (s : State) (lats : Bool) (f : Opnds → Nat) (k : Nat) (t : Thread) : Thread :=
  if cx.enabled k then (cx.gives lats (f (cx.operands s k)) t).jump cx.npc else cx.masked lats t

/-- What thread k gives D where x k is the result of an enabled thread: zero for a masked thread in zero mode (03 R68). -/
def Cx.offers (cx : Cx) (x : Nat → Nat) (k : Nat) : Option Nat :=
  if cx.enabled k then some (x k) else if cx.p.z then some 0 else none

/-- The party once its threads have given D their values: only a register of g, which a handler may name, is the party's own
(09 R221). -/
def Cx.takes (cx : Cx) (x : Nat → Nat) : Party := cx.party.takeG cx.dreg cx.dwidth cx.tids (cx.offers x)

/-- A lane instruction completes with value f of its operands: the destination, lat where the pipe writes it, and the PC of
the group's threads, and nothing else. -/
def LaneComputes (lats : Bool) (i : Instr) (f : Opnds → Nat) : Prop :=
  ∀ s cx, Runs s i cx →
    exec i s = .next (cx.goes s (cx.takes fun k => f (cx.operands s k)) (cx.computes s lats f))

/-- A uniform instruction completes with value f of its operands: the party's destination and the PC of the group's
threads, and nothing else. -/
def UniComputes (i : Instr) (f : Opnds → Nat) : Prop :=
  ∀ s cx, Runs s i cx →
    exec i s = .next (cx.goes s (cx.party.write cx.dreg cx.dwidth (f (cx.uniOperands s))) fun _ t => t.jump cx.npc)

/-- What a floating-point instruction gives a thread: result, flags and draws of the stochastic stream. -/
abbrev FpOp := Cx → View → Opnds → Nat × Nat × Nat

/-- An operation of one rounded result, of the environment and the operands: one draw under SR (02 R44). -/
def rounded (g : FpEnv → Opnds → Nat × Nat) : FpOp := fun cx v o =>
  ((g (cx.fpEnv v) o).1, (g (cx.fpEnv v) o).2, if (cx.fpEnv v).rm = 6 then 1 else 0)
/-- An operation that rounds nothing, of sr.fpcsr and the operands. -/
def unrounded (g : Nat → Opnds → Nat × Nat) : FpOp := fun _ v o =>
  ((g v.thread.fpcsr.toNat o).1, (g v.thread.fpcsr.toNat o).2, 0)

/-- Thread k takes FP_INVALID: its operation raises NV and its NVT is 1 (02 R48). -/
def Cx.invalid (cx : Cx) (s : State) (f : FpOp) (k : Nat) : Bool :=
  cx.enabled k && nvtOf (cx.party.thread k).fpcsr.toNat && bitOf (f cx (cx.view s.ref k) (cx.operands s k)).2.1 4

/-- A thread of the group after a floating-point instruction that does not trap in it. -/
def Cx.floats (cx : Cx) (s : State) (lats : Bool) (f : FpOp) (k : Nat) (t : Thread) : Thread :=
  if cx.enabled k then
    let r := f cx (cx.view s.ref k) (cx.operands s k)
    Thread.jump { cx.gives lats r.1 t with
      fpcsr := t.fpcsr ||| BitVec.ofNat 32 (r.2.1 % 32), draw := t.draw + BitVec.ofNat 64 r.2.2 } cx.npc
  else cx.masked lats t

/-- A floating-point instruction completes where no thread takes FP_INVALID: destination, lat, flags and draw index of the
group's enabled threads, the PC of all of them, and nothing else. -/
def FpCompletes (lats : Bool) (i : Instr) (f : FpOp) : Prop :=
  ∀ s cx, Runs s i cx → (∀ k ∈ cx.tids, cx.invalid s f k = false) →
    exec i s = .next (cx.goes s (cx.takes fun k => (f cx (cx.view s.ref k) (cx.operands s k)).1) (cx.floats s lats f))

/-- A group in which some thread's operation raises NV with NVT 1 (02 R48, 05 R126): such a thread takes FP_INVALID at its own PC,
with the opcode and the element in sr.tinfo and NV set, its draws counted and its destination as it was; every other completes. -/
def FpTrapsIn (s : State) (cx : Cx) (lats : Bool) (i : Instr) (detail : Cx → View → Opnds → Nat) (f : FpOp) : Prop :=
  let offered := fun k => if cx.invalid s f k then none else cx.offers (fun k => (f cx (cx.view s.ref k) (cx.operands s k)).1) k
  exec i s = .next (cx.goes s (cx.party.takeG cx.dreg cx.dwidth cx.tids offered) fun k t =>
    if cx.invalid s f k then
      Thread.enter { t with
        fpcsr := t.fpcsr ||| 16#32
        draw := t.draw + BitVec.ofNat 64 (f cx (cx.view s.ref k) (cx.operands s k)).2.2 } cx.hpc cx.pc
        { cause := 0x20, tinfo := detail cx (cx.view s.ref k) (cx.operands s k) }
    else cx.floats s lats f k t)
/-- The same wherever the group can take a cause, for an instruction of one element, which names its opcode. -/
def FpTraps (lats : Bool) (i : Instr) (opcode : Nat) (f : FpOp) : Prop :=
  ∀ s cx, Runs s i cx → cx.hpc ≠ 0#16 → (∀ k ∈ cx.tids, (cx.party.thread k).handler = false) →
    FpTrapsIn s cx lats i (fun _ _ _ => opcode) f
/-- A packed multiply-add of a format: both elements, each with its own rounding and draw (05 R112). -/
def packedOp (m : Fmt) : FpOp := fun cx v o =>
  let e := cx.fpEnv v
  let lo := fmaOf m e 0 (fld o.a 0 16) (fld o.b 0 16) (fld o.c 0 16)
  let hi := fmaOf m e 1 (fld o.a 16 16) (fld o.b 16 16) (fld o.c 16 16)
  (lo.1 + 2 ^ 16 * hi.1, Nat.lor lo.2 hi.2, if e.rm = 6 then 2 else 0)
/-- The lowest element of a packed multiply-add that raises NV. -/
def packedElem (m : Fmt) (cx : Cx) (v : View) (o : Opnds) : Nat :=
  if bitOf (fmaOf m (cx.fpEnv v) 0 (fld o.a 0 16) (fld o.b 0 16) (fld o.c 0 16)).2 4 then 0 else 1
/-- A conversion by a format slot of the launch (05 R124, R125): from the element where bit 7 of B is set, else to it. -/
def slotOp (b : BitVec 8) : FpOp := fun cx v o =>
  let w := cx.launch.fmtSlot (b.toNat % 8)
  let wide := if b.getLsbD 6 then Fmt.f64 else .f32
  rounded (fun e o =>
    if b.getLsbD 7 then convVal wide .nonsat e.rm (e.draw 0) (flushes e.fp wide) (slotDecode w (b.toNat / 8 % 8) e.fp o.a)
    else slotEncode w e.rm (e.draw 0) e.fp (inVal wide e.fp o.a)) cx v o
/-- CVTS names a slot that is there, a plane count that it has, and registers that suit it (05 R125). -/
def SlotFits (cx : Cx) (b : BitVec 8) : Prop :=
  let w := cx.launch.fmtSlot (b.toNat % 8)
  w ≠ 0 ∧ (b.toNat / 8 % 8 = 0 ∨ (slotEfmt w = 0x0D ∧ b.toNat / 8 % 8 < slotPlanes w)) ∧
  (slotEfmt w = 1 → elemRegOk (if b.getLsbD 7 then cx.areg else cx.dreg) = true)

/-! ## Issued operations -/

/-- What an issued operation is, apart from its order among others: number, slot, threads, class, command and phase. -/
structure Issued where
  id : Nat
  slot : Nat
  tids : List Nat
  live : List Nat
  cls : Option Cls
  kind : OpKind
  phase : Phase
  deriving DecidableEq, Repr

def Op.issued (o : Op) : Issued :=
  { id := o.id, slot := o.slot, tids := o.tids, live := o.live, cls := o.cls, kind := o.kind, phase := o.phase }

/-- t is s but for the operations, the slots and the step counter. -/
def AgreeButOps (t s : State) : Prop := { t with ops := s.ops, slots := s.slots, seq := s.seq } = s

/-- A thread that has issued an operation of a class: its counter is one higher, and it stands at the next PC. -/
def Cx.issuedOne (cx : Cx) (cls : Cls) (t : Thread) : Thread :=
  Thread.jump { t with cnt := t.cnt.set cls (t.cnt.get cls + 1) } cx.npc

/-- The party once the masked threads of a group have written zero to D, a register of g, in zero mode (03 R68, 09 R221). -/
def Cx.zeroes (cx : Cx) (zw : Width) : Party :=
  cx.party.takeG cx.dreg zw cx.tids fun k => if cx.enabled k then none else if cx.p.z then some 0 else none

/-- A lane instruction issues one access of a class for each enabled thread of its group, in ascending order (07 R164), each
counted in its thread (01 R31), and changes nothing else but the PC and, in zero mode, the destination of a masked thread, of
width zw. The launch is not deterministic, and the checks of R159 pass for every enabled thread. -/
def LaneIssues (i : Instr) (cls : Cls) (zw : Width) (need : Cx → Opnds → Need) (ea : Cx → Opnds → Nat)
    (kind : Cx → Opnds → OpKind) : Prop :=
  ∀ s cx, Runs s i cx → cx.launch.isDet = false → cx.tids.Nodup →
    (∀ k ∈ cx.active, let o := cx.operands s k; accessCause s cx.launch (need cx o) (ea cx o) (kind cx o) = none) →
    ∃ t, exec i s = .next t ∧ AgreeButOps t s ∧ t.seq = s.seq + cx.active.length ∧
      t.slots = (cx.goes s (cx.zeroes zw) fun k u =>
        if cx.enabled k then cx.issuedOne cls u else (if cx.p.z then u.write cx.dreg zw 0 else u).jump cx.npc).slots ∧
      t.ops.map Op.issued = s.ops.map Op.issued ++ mapI (fun j k =>
        { id := s.seq + j, slot := cx.slot, tids := [k], live := [k], cls := some cls, kind := kind cx (cx.operands s k),
          phase := .issued }) 0 cx.active

/-- A uniform instruction issues one access for its group, counted in each of its threads (07 R179, 01 R31), and changes nothing
else but the PC. -/
def UniIssues (i : Instr) (cls : Cls) (need : Opnds → Need) (ea : Cx → Opnds → Nat) (kind : Cx → Opnds → OpKind) : Prop :=
  ∀ s cx, Runs s i cx → cx.launch.isDet = false →
    accessCause s cx.launch (need (cx.uniOperands s)) (ea cx (cx.uniOperands s)) (kind cx (cx.uniOperands s)) = none →
    ∃ t, exec i s = .next t ∧ AgreeButOps t s ∧ t.seq = s.seq + 1 ∧
      t.slots = (cx.goes s cx.party fun _ u => cx.issuedOne cls u).slots ∧
      t.ops.map Op.issued = s.ops.map Op.issued ++
        [{ id := s.seq, slot := cx.slot, tids := cx.tids, live := cx.tids, cls := some cls, kind := kind cx (cx.uniOperands s),
           phase := .issued }]

/-- A group of one thread k, which the mask enables, issues i; no check of R78 fails. -/
structure RunsOne (s : State) (i : Instr) (cx : Cx) (k : Nat) : Prop extends Runs s i cx where
  single : cx.tids = [k]
  enabled : cx.enabled k = true

/-- In the state s' that the reads of the instruction have left, thread k of the group has issued a command of a class, counted
it and gone on; nothing else has changed. -/
def CommandIssued (s' t : State) (cx : Cx) (k : Nat) (cls : Cls) (kind : OpKind) : Prop :=
  AgreeButOps t s' ∧ t.seq = s'.seq + 1 ∧
  t.slots = (s'.setParty cx.slot (cx.party.setThread k (cx.issuedOne cls (cx.party.thread k)))).slots ∧
  t.ops.map Op.issued = s'.ops.map Op.issued ++
    [{ id := s'.seq, slot := cx.slot, tids := [k], live := [k], cls := some cls, kind := kind, phase := .issued }]

/-! ## Cross-lane instructions and barriers -/

/-- The mask that a cross-lane instruction reads: that of its prefix, else every thread (06 R144). -/
def Cx.xlMask (cx : Cx) : Nat := if cx.p.me then maskPair cx.party cx.p.m else 2 ^ 64 - 1

/-- A group reaches a cross-lane instruction as the last of its participation set ps: the threads that the mask enables and that
have not exited. The others of the set, none or some, are held there already by the same mask, and no other thread of the
party is held or waits (06 R144, R145). -/
structure ArrivesLast (s : State) (i : Instr) (cx : Cx) (ps : List Nat) : Prop extends Runs s i cx where
  set : ps = (List.range 64).filter fun t => cx.enabled t && !(cx.party.thread t).exited
  mine : ∀ t ∈ cx.tids, t ∈ ps
  someone : cx.tids ≠ []
  here : ∀ t ∈ ps, (cx.party.thread t).pc = cx.pc
  waits : ∀ t ∈ ps, t ∉ cx.tids → (cx.party.thread t).hold = some (.xl cx.xlMask)
  free : ∀ t < 64, t ∈ cx.tids ∨ t ∉ ps → (cx.party.thread t).hold = none
  full : cx.party.threads.length = 64
  normal : cx.issue.handler = false
  goes : waitsGo s cx.slot = true
  unpending : ∀ t ∈ cx.party.threads, t.deliverable = false
  word : fetchInstr s cx.core cx.party.lid cx.pc = some (cx.issue.pfx, i)

/-- The instruction's context as its whole participation set executes it. -/
def Cx.of (cx : Cx) (ps : List Nat) : Cx := { cx with issue := { cx.issue with tids := ps } }

/-- A cross-lane instruction gives each thread of its set the value f, written once where D is a uniform register, ORs flags
into each sr.fpcsr, and goes on; nothing else changes. -/
def CrossLaneGives (s : State) (i : Instr) (cx : Cx) (ps : List Nat) (flags : Nat) (f : Nat → Nat) : Prop :=
  exec i s = .next ((cx.of ps).goes s (if cx.dreg.isW then cx.party.write cx.dreg cx.dwidth (f (ps.headD 0)) else cx.party)
    fun k t => Thread.jump ((t.write cx.dreg cx.dwidth (f k)).orFlags flags) cx.npc)

/-- A barrier by its place. -/
def barOf (s : State) (slot : Nat) : BarLoc → Bar
  | .party idx => match s.party? slot with | some p => p.bar idx | none => Bar.init
  | .wide k => barAt s k

/-- The member count of a barrier by its place (06 R150, 14 R308). -/
def barMembers (s : State) (slot : Nat) : BarLoc → Nat
  | .party _ => match s.party? slot with | some p => p.running | none => 0
  | .wide k => memberCount s (keyInst k)

/-- One enabled thread k reaches a barrier l of index idx: it has not arrived there, no access of it is open, no merge of a
deterministic launch is to come. -/
structure Arrives (s : State) (i : Instr) (cx : Cx) (k idx : Nat) (l : BarLoc) : Prop extends RunsOne s i cx k where
  exists_ : barLoc s cx.slot cx.party (cx.p.c % 16) idx = some l
  thread : k < cx.party.threads.length
  listed : idx < cx.party.bars.length
  fresh : ∀ p, (barScope (cx.p.c % 16), idx, p) ∉ (cx.party.thread k).arrivals
  unkept : (cx.party.thread k).barKept = none
  released : openAccesses s cx.slot [k] cx.issue.handler = []
  ordinary : cx.launch.isDet = false
  unmerged : ∀ p, mergePending s cx.party (barScope (cx.p.c % 16)) idx p = false

/-- In t the threads of the party, and its registers of g, are as given; operations, DRAM and the other slots are as in s. -/
def PartyBecomes (s t : State) (cx : Cx) (threads : List Thread) (g : List Word) : Prop :=
  (∃ p, t.party? cx.slot = some p ∧ p.threads = threads ∧ p.g = g ∧ p.w = cx.party.w ∧ p.esc = cx.party.esc) ∧
  t.ops = s.ops ∧ t.dram = s.dram ∧ ∀ k, k ≠ cx.slot → t.slot k = s.slot k

/-! ## Engine commands and the launch's tables -/

/-- One enabled thread k issues i; the record of n bytes that its command captures at ea passes R159 and reads as d, which
leaves s'. -/
structure Captures (s : State) (i : Instr) (cx : Cx) (k ea n align : Nat) (s' : State) (d : Nat) : Prop
    extends RunsOne s i cx k where
  thread : k < cx.party.threads.length
  read : cx.record s k (cx.party.thread k) ea n align = (s', .ok d)
  slots : s'.slots = s.slots

/-- A uniform instruction completes in s' with value x for D. -/
def TableGives (s : State) (i : Instr) (cx : Cx) (s' : State) (x : Nat) : Prop :=
  exec i s = .next (cx.goes s' (cx.party.write cx.dreg cx.dwidth x) fun _ t => t.jump cx.npc)

/-- A uniform instruction without a result completes in s'. -/
def TableDone (s : State) (i : Instr) (cx : Cx) (s' : State) : Prop :=
  exec i s = .next (cx.goes s' cx.party fun _ t => t.jump cx.npc)

/-- Entry e is the lowest with a property. -/
def Lowest (n e : Nat) (p : Nat → Prop) : Prop := e < n ∧ p e ∧ ∀ f < e, ¬p f

/-! ## Events -/

/-- The operation that op numbers is as o in t, but for its phase. -/
def StandsAt (t : State) (o : Op) (ph : Phase) : Prop := t.op? o.id = some { o with phase := ph }

/-- What a die reads of a line: the valid sectors of its own copy, and the coherent value of the others (15 R316, R319). -/
def dieLine (s : State) (die line : Nat) : Nat :=
  (List.range 4).foldl (fun x k => x + 2 ^ (256 * k) * match s.l2? die line with
    | some l => if bitOf l.sect k then sectorOf l.data k else coherentSector s line k
    | none => coherentSector s line k) 0

/-- An access to a buffer of the part, not of a peer, that its die's TLB translates and that nothing holds or faults: its place is
ppa, inside one line, in the state s1 that the translation leaves. -/
structure Reaches (s : State) (o : Op) (ea n : Nat) (s1 : State) (ppa : Nat) : Prop where
  listed : s.op? o.id = some o
  turn : o.translatable s = true
  unsent : ∀ t, o.phase ≠ .peer t
  buffer : isWin ea = false
  slot : o.slot < 2048
  place : ∃ e leaf, bufOf s (opAg s o).ctx (eaIdx ea) = some e ∧ bufPeer e = false ∧
    aget? (pageKey (opAg s o).ctx (eaIdx ea) e (eaOff ea)) (s.die (opAg s o).die).tlb = some leaf ∧
    checkLeaf s (opAg s o).die (pageKey (opAg s o).ctx (eaIdx ea) e (eaOff ea)) e (eaOff ea) (some leaf) o.kind.writes (o.use s) =
      .at (.mem ppa) ∧
    s1 = s.noteUse (eaIdx ea) e (eaOff ea) ppa
  inside : ppa % 128 + n ≤ 128
  memories : MemoriesCanonical s
  sound : s.armed = none

/-- An operation that one thread k of a party counts, the oldest of its class there. -/
structure OldestOf (s : State) (o : Op) (p : Party) (k : Nat) (c : Cls) : Prop where
  listed : s.op? o.id = some o
  party : s.party? o.slot = some p
  tids : o.tids = [k]
  live : o.live = [k]
  cls : o.cls = some c
  thread : k < p.threads.length
  oldest : olderThan s o k = []

/-- In t the operation has retired, and its party is p with thread k as u. -/
def Retired (t : State) (o : Op) (p : Party) (k : Nat) (u : Thread) : Prop :=
  t.op? o.id = none ∧ t.party? o.slot = some (p.setThread k u)

/-- In t the slot holds nothing. -/
def SlotEmptied (t : State) (slot : Nat) : Prop :=
  (t.slot slot).st = .free ∧ t.party? slot = none ∧ (t.slot slot).bind = none ∧ (t.slot slot).preq = false

/-- In t the operation has failed with a deferred cause, which is pending in thread k of its party (09 R217). -/
def RetiredWith (t : State) (o : Op) (p : Party) (k : Nat) (c : Cls) (cause ea info : Nat) : Prop :=
  Retired t o p k { (p.thread k).uncount c with
    pend := (p.thread k).pend ++ [{ cls := c, cause := cause, taddr := ea, tinfo := info, op := o.id }] }

/-- A deferred cause of the class may become pending in thread k (09 R217). -/
def CanPend (s : State) (o : Op) (p : Party) (k : Nat) (c : Cls) : Prop :=
  (∀ x ∈ (p.thread k).pend, x.cls ≠ c) ∧ (s.slot o.slot).st ≠ .saving

/-- t has the operations, slots and launches of s. -/
def SameThreads (s t : State) : Prop := t.ops = s.ops ∧ t.slots = s.slots ∧ t.launches = s.launches

/-- A running block's next command has an OP, acts at one bank whose page is good, and finds its row open and nothing before it
in the bank's queue (21 R404, R412, 19 R391). -/
structure BankReady (s : State) (o : Op) (op b c e : Nat) : Prop where
  next : nextBankCmd s o.id op = some (o, b, c)
  buffer : bufOf s o.bankAt.1 (eaIdx (bkBuf b)) = some e
  one : bcAll c = false
  page : bankPageBad s o.bankAt.1 b c (bcBank c) = none
  row : (s.bank (o.bankAt.2.1, o.bankAt.2.2, bcBank c)).row = some (bankRow e c)
  column : bcOp c ≠ 0
  queued : (s.bank (o.bankAt.2.1, o.bankAt.2.2, bcBank c)).queue = if o.deliveredCmd then [c] else []

/-! ## Bits -/

/-- n bits, bit i as p says. -/
def bitsWhere (n : Nat) (p : Nat → Bool) : Nat := ((List.range n).map fun i => if p i then 2 ^ i else 0).sum
/-- The places of the 1 bits of a pair, ascending. -/
def onesOf (x : DWord) : List Nat := (List.range 64).filter fun i => x.getLsbD i

/-! ## Words of single statements -/

/-- The effective length of a field control (R94). -/
def fieldBits (ctl : Word) : Nat :=
  if 32 ≤ (ctl.extractLsb' 0 8).toNat then 0 else min (ctl.extractLsb' 8 8).toNat (32 - (ctl.extractLsb' 0 8).toNat)

/-- The status registers of thread k, by number, as R27 lists them, sr.cnt as R154 lays it out. -/
def Cx.statusOf (cx : Cx) (s : State) (k : Nat) : List (Nat × Nat) :=
  let t := cx.party.thread k
  [(0x00, 32), (0x01, k), (0x02, cx.party.pidx), (0x03, cx.core % 32), (0x04, cx.core % 32 / 4), (0x05, cx.core / 32),
   (0x06, s.pkg), (0x08, t.cnt.ld + 2 ^ 6 * t.cnt.st + 2 ^ 12 * t.cnt.cp + 2 ^ 18 * t.cnt.tl + 2 ^ 24 * t.cnt.bk +
    2 ^ 30 * t.cnt.gx + 2 ^ 36 * t.cnt.cf), (0x09, (s.die (cx.core / 32)).clk % 2 ^ 64), (0x0A, s.ref % 2 ^ 64),
   (0x10, t.fpcsr.toNat % 2 ^ 12), (0x11, t.ver.toNat % 2 ^ 24), (0x18, t.cause.toNat % 256), (0x19, t.tpc.toNat % 2 ^ 16),
   (0x1A, t.taddr.toNat), (0x1B, t.tinfo.toNat)]

/-- The group that a pick of the agenda names may issue in s, and its party is p. -/
def Groups (s : State) (slot : Nat) (pc : Pc) (handler : Bool) (tids : List Nat) (p : Party) : Prop :=
  groupOk s slot pc handler tids = true ∧ s.party? slot = some p

/-- Every thread of the group can take a cause: the launch has a handler and none is in handler mode. -/
def CanTrap (cx : Cx) : Prop := cx.hpc ≠ 0#16 ∧ ∀ k ∈ cx.tids, (cx.party.thread k).handler = false

/-- The segment that thread k's jump target names may be entered. -/
def JumpOk (s : State) (cx : Cx) (a : Nat) : Prop := segCheck s cx.core cx.launch (segOf (BitVec.ofNat 16 a)) = none

/-- The cause of a jump to the PC in the low 16 bits of a (R132): SEG_RANGE outside the launch's segment map, SEG_FAILED with the
faulting image address, SEG_ABSENT for a segment that is not there yet, each with the segment as detail. -/
def jumpCause (s : State) (cx : Cx) (a : Nat) : Option Trap :=
  let seg := a / 1024 % 64
  if cx.launch.segMap / 2 ^ seg % 2 = 0 then some { cause := 0x14, tinfo := seg }
  else match (segAt s cx.core cx.launch.lid seg).st with
    | .failed ea => some { cause := 0x13, taddr := ea, tinfo := seg }
    | .absent | .fetching => some { cause := 0x12, tinfo := seg }
    | .landed | .dropping => none

/-- A page's leaf entry takes a value in t, written into s, and no die translates the page by another (19 R388: shootdown). -/
def EntryBecomes (s t : State) (e : Nat) (page : PageKey) (leaf : Nat) : Prop :=
  ∀ a, leafAddr s e (pageBase e page.page) = some a →
    t.dram = (writeEntry s a leaf).dram ∧ t.l2 = (writeEntry s a leaf).l2 ∧ ∀ d < 4, aget? page (t.die d).tlb = none

end Sys2Proof.Machine
end

