-- ==== Sys2Proof/Certificates/Slice0/Obligations.lean ====
section
/-! DEFINITION. The statements about the machine that are given to the provers, one definition each, from the numbered rules of
the spec. Words of 32 and 64 bits are written with BitVec's own operations wherever a rule gives a formula, so that a statement
does not repeat the meaning it speaks of. -/

open Sys2Proof Sys2Proof.Machine

/-! ## Integer instructions (04_integer_bit.md) -/

/-- R88: adds, multiplies, minima, maxima and the saturating add, on the A pipe. R89: division and remainder on the M pipe,
lat unchanged; a zero divisor gives all ones and the dividend, and A = B * NDIV + NREM holds modulo 2^32 for every operand
pair. What a g register takes from several enabled threads, the value of the highest, is the model's choice (log entry 77,
DESIGN CHOICE). -/
def Obligations.IntegerArithmeticCompletes : Prop :=
  (∀ d a b : BitVec 8,
    LaneComputes true (.iadd d a b) (fun o => (o.wa + o.wb).toNat) ∧
    LaneComputes true (.isub d a b) (fun o => (o.wa - o.wb).toNat) ∧
    LaneComputes true (.iadd64 d a b) (fun o => (o.xa + o.xb).toNat) ∧
    LaneComputes true (.isub64 d a b) (fun o => (o.xa - o.xb).toNat) ∧
    LaneComputes true (.imul d a b) (fun o => (o.wa * o.wb).toNat) ∧
    LaneComputes true (.imulhi d a b)
      (fun o => ((o.wa.signExtend 64 * o.wb.signExtend 64).extractLsb' 32 32).toNat) ∧
    LaneComputes true (.nmulhi d a b)
      (fun o => ((o.wa.setWidth 64 * o.wb.setWidth 64).extractLsb' 32 32).toNat) ∧
    LaneComputes true (.imad d a b) (fun o => (o.wa * o.wb + o.wc).toNat) ∧
    LaneComputes true (.nmad64 d a b) (fun o => (o.wa.setWidth 64 * o.wb.setWidth 64 + o.xc).toNat) ∧
    LaneComputes true (.imin d a b) (fun o => (if o.wa.sle o.wb then o.wa else o.wb).toNat) ∧
    LaneComputes true (.imax d a b) (fun o => (if o.wb.sle o.wa then o.wa else o.wb).toNat) ∧
    LaneComputes true (.nmin d a b) (fun o => (if o.wa ≤ o.wb then o.wa else o.wb).toNat) ∧
    LaneComputes true (.nmax d a b) (fun o => (if o.wb ≤ o.wa then o.wa else o.wb).toNat) ∧
    LaneComputes true (.iadds d a b)
      (fun o => (BitVec.ofInt 32 (max (-2147483648) (min 2147483647 (o.wa.toInt + o.wb.toInt)))).toNat)) ∧
  ((∀ d a b : BitVec 8,
      LaneComputes false (.ndiv d a b) (fun o => if o.wb = 0#32 then 0xFFFFFFFF else (o.wa / o.wb).toNat) ∧
      LaneComputes false (.nrem d a b) (fun o => if o.wb = 0#32 then o.wa.toNat else (o.wa % o.wb).toNat)) ∧
    ∀ o : Opnds, o.a < 2 ^ 32 → o.b < 2 ^ 32 →
      o.wa = o.wb * BitVec.ofNat 32 (ndivVal o) + BitVec.ofNat 32 (nremVal o))

/-- R90 to R92: logic, shifts by the whole of B, rotate, funnel shift and the bit counts. What a g register takes from several
enabled threads, the value of the highest, is the model's choice (log entry 77, DESIGN CHOICE). -/
def Obligations.LogicAndShiftsComplete : Prop := ∀ d a b : BitVec 8,
  LaneComputes true (.and d a b) (fun o => (o.wa &&& o.wb).toNat) ∧
  LaneComputes true (.or d a b) (fun o => (o.wa ||| o.wb).toNat) ∧
  LaneComputes true (.xor d a b) (fun o => (o.wa ^^^ o.wb).toNat) ∧
  LaneComputes true (.andn d a b) (fun o => (o.wa &&& ~~~o.wb).toNat) ∧
  LaneComputes true (.shl d a b) (fun o => (o.wa <<< o.wb.toNat).toNat) ∧
  LaneComputes true (.shr d a b) (fun o => (o.wa >>> o.wb.toNat).toNat) ∧
  LaneComputes true (.sra d a b) (fun o => (o.wa.sshiftRight o.wb.toNat).toNat) ∧
  LaneComputes true (.rotl d a b) (fun o => (o.wa.rotateLeft (o.wb.toNat % 32)).toNat) ∧
  LaneComputes true (.funsh d a b) (fun o => (((o.wb ++ o.wa) >>> (o.wc.toNat % 64)).extractLsb' 0 32).toNat) ∧
  LaneComputes true (.popc d a b) (fun o => ((List.range 32).filter fun i => o.wa.getLsbD i).length) ∧
  LaneComputes true (.clz d a b) (fun o => ((List.range 32).takeWhile fun i => !o.wa.getLsbD (31 - i)).length) ∧
  LaneComputes true (.brev d a b) (fun o => bitsWhere 32 fun i => o.wa.getLsbD (31 - i))

/-- R94 to R97: fields, deposit, extract, permute and bit-matrix multiply, bit by bit. What a g register takes from several
enabled threads, the value of the highest, is the model's choice (log entry 77, DESIGN CHOICE). -/
def Obligations.BitFieldsAndMatricesComplete : Prop := ∀ d a b : BitVec 8,
  LaneComputes true (.bfx d a b) (fun o =>
    let pos := (o.wb.extractLsb' 0 8).toNat
    let n := fieldBits o.wb
    bitsWhere 32 fun i => if i < n then o.wa.getLsbD (pos + i) else o.wb.getLsbD 16 && 0 < n && o.wa.getLsbD (pos + n - 1)) ∧
  LaneComputes true (.bfi d a b) (fun o =>
    let pos := (o.wc.extractLsb' 0 8).toNat
    let n := fieldBits o.wc
    bitsWhere 32 fun i => if pos ≤ i && i < pos + n then o.wb.getLsbD (i - pos) else o.wa.getLsbD i) ∧
  LaneComputes true (.bdep d a b) (fun o =>
    bitsWhere 64 fun i => o.xb.getLsbD i && o.xa.getLsbD ((onesOf o.xb).filter (· < i)).length) ∧
  LaneComputes true (.bext d a b) (fun o =>
    bitsWhere 64 fun k => ((onesOf o.xb)[k]?).any fun i => o.xa.getLsbD i) ∧
  LaneComputes false (.bmm8 d a b) (fun o =>
    bitsWhere 64 fun n =>
      (((List.range 8).filter fun k => o.xa.getLsbD (8 * (n / 8) + k) && o.xb.getLsbD (8 * k + n % 8)).length % 2 == 1)) ∧
  (∀ s cx, Runs s (.bperm d a b) cx → ∀ n, cx.breg = .w n → n ≤ 148 → n % 4 = 0 →
    let x := fun k => bitsWhere 64 fun i =>
      (cx.operands s k).xa.getLsbD (((List.range 6).map fun j =>
        if ((cx.party.w.getD (n + (6 * i + j) / 32) 0#32).getLsbD ((6 * i + j) % 32)) then 2 ^ j else 0).sum)
    exec (.bperm d a b) s = .next (cx.goes s (cx.takes x) fun k t =>
      if cx.enabled k then (cx.gives false (x k) t).jump cx.npc else cx.masked false t))

/-- R98, R99, R101: compares, select, the immediates and the counter-based random number. What a g register takes from several
enabled threads, the value of the highest, is the model's choice (log entry 77, DESIGN CHOICE). -/
def Obligations.ComparesSelectAndImmediatesComplete : Prop :=
  (∀ d a b : BitVec 8,
    LaneComputes true (.ieq d a b) (fun o => if o.wa = o.wb then 1 else 0) ∧
    LaneComputes true (.ine d a b) (fun o => if o.wa = o.wb then 0 else 1) ∧
    LaneComputes true (.ilt d a b) (fun o => if o.wa.toInt < o.wb.toInt then 1 else 0) ∧
    LaneComputes true (.ile d a b) (fun o => if o.wa.toInt ≤ o.wb.toInt then 1 else 0) ∧
    LaneComputes true (.nlt d a b) (fun o => if o.wa < o.wb then 1 else 0) ∧
    LaneComputes true (.nle d a b) (fun o => if o.wa ≤ o.wb then 1 else 0) ∧
    LaneComputes true (.sel d a b) (fun o => if o.wc = 0#32 then o.wb.toNat else o.wa.toNat) ∧
    LaneComputes false (.rndc d a b) (fun o => rndc o.xa.toNat o.xb.toNat)) ∧
  ∀ (d : BitVec 8) (imm : BitVec 16),
    LaneComputes true (.li d imm) (fun _ => (imm.signExtend 32).toNat) ∧
    LaneComputes true (.lih d imm) (fun o => (imm ++ o.wd.extractLsb' 0 16).toNat)

/-- R104: the uniform forms compute as the lane forms of the same name do, once for the group, and never write lat. -/
def Obligations.UniformIntegersComplete : Prop :=
  (∀ d a b : BitVec 8,
    UniComputes (.uadd d a b) (fun o => (o.wa + o.wb).toNat) ∧
    UniComputes (.usub d a b) (fun o => (o.wa - o.wb).toNat) ∧
    UniComputes (.uadd64 d a b) (fun o => (o.xa + o.xb).toNat) ∧
    UniComputes (.umul d a b) (fun o => (o.wa * o.wb).toNat) ∧
    UniComputes (.umad d a b) (fun o => (o.wa * o.wb + o.wd).toNat) ∧
    UniComputes (.uand d a b) (fun o => (o.wa &&& o.wb).toNat) ∧
    UniComputes (.uor d a b) (fun o => (o.wa ||| o.wb).toNat) ∧
    UniComputes (.uxor d a b) (fun o => (o.wa ^^^ o.wb).toNat) ∧
    UniComputes (.ushl d a b) (fun o => (o.wa <<< o.wb.toNat).toNat) ∧
    UniComputes (.ushr d a b) (fun o => (o.wa >>> o.wb.toNat).toNat) ∧
    UniComputes (.usra d a b) (fun o => (o.wa.sshiftRight o.wb.toNat).toNat) ∧
    UniComputes (.upopc d a b) (fun o => ((List.range 32).filter fun i => o.wa.getLsbD i).length) ∧
    UniComputes (.uclz d a b) (fun o => ((List.range 32).takeWhile fun i => !o.wa.getLsbD (31 - i)).length) ∧
    UniComputes (.ueq d a b) (fun o => if o.wa = o.wb then 1 else 0) ∧
    UniComputes (.une d a b) (fun o => if o.wa = o.wb then 0 else 1) ∧
    UniComputes (.ult d a b) (fun o => if o.wa.toInt < o.wb.toInt then 1 else 0) ∧
    UniComputes (.ule d a b) (fun o => if o.wa.toInt ≤ o.wb.toInt then 1 else 0) ∧
    UniComputes (.unlt d a b) (fun o => if o.wa < o.wb then 1 else 0) ∧
    UniComputes (.unle d a b) (fun o => if o.wa ≤ o.wb then 1 else 0) ∧
    UniComputes (.usel d a b) (fun o => if o.wd = 0#32 then o.wb.toNat else o.wa.toNat) ∧
    UniComputes (.umin d a b) (fun o => (if o.wa.sle o.wb then o.wa else o.wb).toNat) ∧
    UniComputes (.umax d a b) (fun o => (if o.wb.sle o.wa then o.wa else o.wb).toNat)) ∧
  ∀ (d : BitVec 8) (imm : BitVec 16),
    UniComputes (.uli d imm) (fun _ => (imm.signExtend 32).toNat) ∧
    UniComputes (.ulih d imm) (fun o => (imm ++ o.wd.extractLsb' 0 16).toNat)

/-! ## Floating point (02_number_formats.md, 05_float.md) -/

/-- R110, R111, R113, R118, R120: sums, products, fused multiply-adds, quotients, square roots, scaling and rounding to
integral, each rounded once, with the flags ORed into sr.fpcsr and one draw under SR. What a g register takes from several
enabled threads, the value of the highest, is the model's choice (log entry 77, DESIGN CHOICE). -/
def Obligations.FloatArithmeticCompletes : Prop := ∀ d a b : BitVec 8,
  FpCompletes true (.fadd d a b) (rounded (addOf .f32)) ∧
  FpCompletes true (.fsub d a b) (rounded (subOf .f32)) ∧
  FpCompletes true (.fmul d a b) (rounded (mulOf .f32)) ∧
  FpCompletes true (.ffma d a b) (rounded fun e o => fmaOf .f32 e 0 o.a o.b o.c) ∧
  FpCompletes true (.dadd d a b) (rounded (addOf .f64)) ∧
  FpCompletes true (.dsub d a b) (rounded (subOf .f64)) ∧
  FpCompletes true (.dmul d a b) (rounded (mulOf .f64)) ∧
  FpCompletes true (.dfma d a b) (rounded fun e o => fmaOf .f64 e 0 o.a o.b o.c) ∧
  FpCompletes true (.fdiv d a b) (rounded (divOf .f32)) ∧
  FpCompletes true (.ddiv d a b) (rounded (divOf .f64)) ∧
  FpCompletes true (.dsqrt d a b) (rounded (sqrtOf .f64)) ∧
  FpCompletes true (.fscale d a b) (rounded (scaleOf .f32)) ∧
  FpCompletes true (.dscale d a b) (rounded (scaleOf .f64)) ∧
  FpCompletes true (.frnd d a b) (rounded fun e o => integralOf .f32 e o.a) ∧
  FpCompletes true (.cvt d a b) (rounded fun e o => cvtOf b.toNat e o.a)

/-- R112, R114, R116, R117, R119, R124: packed multiply-adds, the special functions on the M pipe (lat unchanged), minima and
maxima, compares, classes and the slot conversion. An SFN result that R114 only bounds is a free value of the model held to
that bound (log entry 5, DESIGN CHOICE). -/
def Obligations.FloatComparesAndConversionsComplete : Prop := ∀ d a b : BitVec 8,
  FpCompletes true (.fmin d a b) (unrounded (minMaxOf .f32 false)) ∧
  FpCompletes true (.fmax d a b) (unrounded (minMaxOf .f32 true)) ∧
  FpCompletes true (.dmin d a b) (unrounded (minMaxOf .f64 false)) ∧
  FpCompletes true (.dmax d a b) (unrounded (minMaxOf .f64 true)) ∧
  FpCompletes true (.feq d a b) (unrounded (compareOf .f32 eqRel false false)) ∧
  FpCompletes true (.flt d a b) (unrounded (compareOf .f32 ltRel false true)) ∧
  FpCompletes true (.fle d a b) (unrounded (compareOf .f32 leRel false true)) ∧
  FpCompletes true (.funo d a b) (unrounded (compareOf .f32 noRel true false)) ∧
  FpCompletes true (.deq d a b) (unrounded (compareOf .f64 eqRel false false)) ∧
  FpCompletes true (.dlt d a b) (unrounded (compareOf .f64 ltRel false true)) ∧
  FpCompletes true (.dle d a b) (unrounded (compareOf .f64 leRel false true)) ∧
  FpCompletes true (.duno d a b) (unrounded (compareOf .f64 noRel true false)) ∧
  FpCompletes false (.sfn d a b) (unrounded fun fp o => sfnOf b.toNat fp o.a) ∧
  FpCompletes true (.pfmah d a b) (packedOp .f16) ∧
  FpCompletes true (.pfmab d a b) (packedOp .bf16) ∧
  FpCompletes true (.fclass d a b) (fun cx v o =>
    (classOf .f32 o.a + 2 ^ 16 * (match classPair v cx.areg with | some x => classOf .f64 x | none => 0), 0, 0)) ∧
  (∀ s cx, Runs s (.cvts d a b) cx →
    SlotFits cx b → (∀ k ∈ cx.tids, cx.invalid s (slotOp b) k = false) →
    exec (.cvts d a b) s = .next (cx.goes s (cx.takes fun k => (slotOp b cx (cx.view s.ref k) (cx.operands s k)).1)
      (cx.floats s true (slotOp b))))

/-- R48, R126, R220: with NVT 1, a thread whose operation raises NV takes FP_INVALID at its own PC, with the opcode, and the
element of a packed operation, in sr.tinfo and NV set, and its destination keeps its value; the other threads of the group
complete. Shown for every instruction of 05 that can raise NV. R37, R38: a NaN operand of an addition, subtraction,
multiplication, division or fused multiply-add gives the canonical NaN of the format, and NV is raised exactly where some
operand is a signalling NaN or, in a fused multiply-add, its product is zero times infinity. What a g register takes from
several enabled threads, the value of the highest, is the model's choice (log entry 77, DESIGN CHOICE). -/
def Obligations.InvalidOperationsAndNans : Prop :=
  (∀ d a b : BitVec 8,
    FpTraps true (.fadd d a b) 0x2C (rounded (addOf .f32)) ∧
    FpTraps true (.fsub d a b) 0x2D (rounded (subOf .f32)) ∧
    FpTraps true (.fmul d a b) 0x2E (rounded (mulOf .f32)) ∧
    FpTraps true (.dadd d a b) 0x36 (rounded (addOf .f64)) ∧
    FpTraps true (.dsub d a b) 0x37 (rounded (subOf .f64)) ∧
    FpTraps true (.dmul d a b) 0x38 (rounded (mulOf .f64)) ∧
    FpTraps true (.fdiv d a b) 0x43 (rounded (divOf .f32)) ∧
    FpTraps true (.ddiv d a b) 0x44 (rounded (divOf .f64)) ∧
    FpTraps true (.dsqrt d a b) 0x45 (rounded (sqrtOf .f64)) ∧
    FpTraps true (.fscale d a b) 0x49 (rounded (scaleOf .f32)) ∧
    FpTraps true (.dscale d a b) 0x4A (rounded (scaleOf .f64)) ∧
    FpTraps true (.fmin d a b) 0x30 (unrounded (minMaxOf .f32 false)) ∧
    FpTraps true (.fmax d a b) 0x31 (unrounded (minMaxOf .f32 true)) ∧
    FpTraps true (.dmin d a b) 0x3A (unrounded (minMaxOf .f64 false)) ∧
    FpTraps true (.dmax d a b) 0x3B (unrounded (minMaxOf .f64 true)) ∧
    FpTraps true (.feq d a b) 0x32 (unrounded (compareOf .f32 eqRel false false)) ∧
    FpTraps true (.flt d a b) 0x33 (unrounded (compareOf .f32 ltRel false true)) ∧
    FpTraps true (.fle d a b) 0x34 (unrounded (compareOf .f32 leRel false true)) ∧
    FpTraps true (.funo d a b) 0x35 (unrounded (compareOf .f32 noRel true false)) ∧
    FpTraps true (.deq d a b) 0x3C (unrounded (compareOf .f64 eqRel false false)) ∧
    FpTraps true (.dlt d a b) 0x3D (unrounded (compareOf .f64 ltRel false true)) ∧
    FpTraps true (.dle d a b) 0x3E (unrounded (compareOf .f64 leRel false true)) ∧
    FpTraps true (.duno d a b) 0x3F (unrounded (compareOf .f64 noRel true false)) ∧
    FpTraps true (.ffma d a b) 0x2F (rounded fun e o => fmaOf .f32 e 0 o.a o.b o.c) ∧
    FpTraps true (.dfma d a b) 0x39 (rounded fun e o => fmaOf .f64 e 0 o.a o.b o.c) ∧
    FpTraps true (.frnd d a b) 0x4B (rounded fun e o => integralOf .f32 e o.a) ∧
    FpTraps true (.cvt d a b) 0x46 (rounded fun e o => cvtOf b.toNat e o.a) ∧
    FpTraps false (.sfn d a b) 0x42 (unrounded fun fp o => sfnOf b.toNat fp o.a) ∧
    (∀ s cx, cx.hpc ≠ 0#16 → (∀ k ∈ cx.tids, (cx.party.thread k).handler = false) →
      (Runs s (.pfmah d a b) cx →
        FpTrapsIn s cx true (.pfmah d a b) (fun cx v o => 0x40 + 256 * packedElem .f16 cx v o) (packedOp .f16)) ∧
      (Runs s (.pfmab d a b) cx →
        FpTrapsIn s cx true (.pfmab d a b) (fun cx v o => 0x41 + 256 * packedElem .bf16 cx v o) (packedOp .bf16)) ∧
      (Runs s (.cvts d a b) cx → SlotFits cx b → FpTrapsIn s cx true (.cvts d a b) (fun _ _ _ => 0x47) (slotOp b)))) ∧
  (∀ m ∈ ([.f32, .f64, .f16, .bf16] : List Fmt),
    (∀ (e : FpEnv) (o : Opnds), ((inVal m e.fp o.a).isNan || (inVal m e.fp o.b).isNan) = true →
      ∀ r ∈ [addOf m e o, subOf m e o, mulOf m e o, divOf m e o],
        r = (m.nan, if (inVal m e.fp o.a).isSig || (inVal m e.fp o.b).isSig then 16 else 0)) ∧
    ∀ (e : FpEnv) (k a b c : Nat),
      ((inVal m e.fp a).isNan || (inVal m e.fp b).isNan || (inVal m e.fp c).isNan) = true →
      fmaOf m e k a b c = (m.nan,
        if (inVal m e.fp a).isSig || (inVal m e.fp b).isSig || (inVal m e.fp c).isSig ||
          ((inVal m e.fp a).isZero && (inVal m e.fp b).isInf) || ((inVal m e.fp a).isInf && (inVal m e.fp b).isZero)
        then 16 else 0))

/-- R42: what rounding a quotient num / den to an integer magnitude gives in each mode: RNE is nearest with ties to even, RZ
truncates, RU and RD go up or down by the sign, RNA is nearest with ties away, SR is one of the two neighbours; and an exact
quotient is itself in every mode. R36, R41, R42: an encoding's finite value, rounded to its own format in any mode, is that
encoding again, and raises no flag. -/
def Obligations.RoundingIsByTheNamedMode : Prop :=
  (∀ (draw num den : Nat) (neg : Bool), 0 < den → draw < 2 ^ 32 →
    let n := fun rm => (roundInt rm draw neg num den).1
    (2 * num ≤ 2 * n 1 * den + den ∧ 2 * n 1 * den ≤ 2 * num + den ∧
      ((2 * num = 2 * n 1 * den + den ∨ 2 * n 1 * den = 2 * num + den) → n 1 % 2 = 0)) ∧
    n 2 = num / den ∧
    n 3 = (if neg then num / den else (num + den - 1) / den) ∧
    n 4 = (if neg then (num + den - 1) / den else num / den) ∧
    (2 * num < 2 * n 5 * den + den ∧ 2 * n 5 * den ≤ 2 * num + den) ∧
    (n 6 = num / den ∨ n 6 = num / den + 1) ∧
    (num % den = 0 → ∀ rm, n rm = num / den ∧ (roundInt rm draw neg num den).2 = false)) ∧
  (∀ m ∈ ([.f64, .f32, .f16, .bf16, .e5m2, .e4m3, .e3m2, .e2m3, .e2m1] : List Fmt),
    ∀ (pol : Pol) (rm draw x : Nat) (neg : Bool) (k : Nat) (ex : Int),
      x < 2 ^ (m.e + m.f + 1) → m.decode x = .fin neg k ex → roundFin m pol rm draw false neg k ex = (x, 0))

/-! ## Encoding and fetch (03_encoding.md) -/

/-- R59 to R61, R72, R76: decoding the bytes of an encoded well-formed instruction gives that instruction back, with every
field at every value that the encoding admits. -/
def Obligations.DecodeGivesBackEveryEncodedInstruction : Prop :=
  ∀ (i : Instr) (w : Word), i.wf = true → encode i = some w → decode (wordBytes w) = .ok (i, [])

/-- R59, R72, R76: every 32-bit word is the encoding of exactly the instruction that the decoder reads from it, so no two
words decode to one instruction and no bit of a word is dropped. -/
def Obligations.EveryWordIsTheEncodingOfItsInstruction : Prop :=
  (∀ w : Word, encode (decodeWord w) = some w) ∧ ∀ w w' : Word, decodeWord w = decodeWord w' → w = w'

/-- Words written out from the spec's encodings, most significant byte first: the opcode byte, D, A and B (R60), of one
instruction of each family. -/
def Obligations.WrittenOutWordsDecode : Prop :=
  decodeWord (0x00#8 ++ 0x03#8 ++ 0x04#8 ++ 0x05#8) = .iadd 0x03#8 0x04#8 0x05#8 ∧
  decodeWord (0x02#8 ++ 0x04#8 ++ 0x02#8 ++ 0xF2#8) = .iadd64 0x04#8 0x02#8 0xF2#8 ∧
  decodeWord (0x26#8 ++ 0x08#8 ++ 0x06#8 ++ 0xF4#8) = .nlt 0x08#8 0x06#8 0xF4#8 ∧
  decodeWord (0x29#8 ++ 0x01#8 ++ 0x80#8 ++ 0x00#8) = .li 0x01#8 0x8000#16 ∧
  decodeWord (0x2B#8 ++ 0x06#8 ++ 0xF0#8 ++ 0x04#8) = .rndc 0x06#8 0xF0#8 0x04#8 ∧
  decodeWord (0x2C#8 ++ 0x00#8 ++ 0x01#8 ++ 0x02#8) = .fadd 0x00#8 0x01#8 0x02#8 ∧
  decodeWord (0x4C#8 ++ 0x07#8 ++ 0x04#8 ++ 0x10#8) = .bnz 0x07#8 0x0410#16 ∧
  decodeWord (0x5C#8 ++ 0x02#8 ++ 0x04#8 ++ 0xFF#8) = .ldw 0x02#8 0x04#8 0xFF#8 ∧
  decodeWord (0x66#8 ++ 0x02#8 ++ 0x04#8 ++ 0x20#8) = .atomr 0x02#8 0x04#8 0x20#8 ∧
  decodeWord (0x6A#8 ++ 0x00#8 ++ 0x04#8 ++ 0x01#8) = .cpyt 0x00#8 0x04#8 0x01#8 ∧
  decodeWord (0x6E#8 ++ 0x00#8 ++ 0x04#8 ++ 0x00#8) = .mma 0x00#8 0x04#8 0x00#8 ∧
  decodeWord (0x74#8 ++ 0x00#8 ++ 0x04#8 ++ 0x00#8) = .rayq 0x00#8 0x04#8 0x00#8 ∧
  decodeWord (0x75#8 ++ 0x00#8 ++ 0x04#8 ++ 0x00#8) = .bkq 0x00#8 0x04#8 0x00#8 ∧
  decodeWord (0x77#8 ++ 0x00#8 ++ 0x04#8 ++ 0x00#8) = .coll 0x00#8 0x04#8 0x00#8 ∧
  decodeWord (0x78#8 ++ 0x00#8 ++ 0xC5#8 ++ 0x03#8) = .trap 0x00#8 0xC5#8 0x03#8 ∧
  decodeWord (0x7F#8 ++ 0x62#8 ++ 0x82#8 ++ 0x00#8) = .xPrefix 0x628200#24 ∧
  decodeWord (0x80#8 ++ 0x20#8 ++ 0x21#8 ++ 0x22#8) = .uadd 0x20#8 0x21#8 0x22#8 ∧
  decodeWord (0xA6#8 ++ 0x20#8 ++ 0x22#8 ++ 0x24#8) = .rbind 0x20#8 0x22#8 0x24#8 ∧
  decodeWord (0xAD#8 ++ 0x20#8 ++ 0x22#8 ++ 0x24#8) = .launch 0x20#8 0x22#8 0x24#8 ∧
  decodeWord (0xB3#8 ++ 0x01#8 ++ 0x02#8 ++ 0x03#8) = .unassignedUniformOpcode 0xB3010203#32

/-- A step that the agenda gives to a group runs the instruction that the word at the group's PC decodes to, and ends as every
step does (R59, R130); behind an X prefix it runs the lane word at the next PC, with the prefix latched (R65). A step that the
agenda gives to another agent runs that agent's event. That one step is one issue or one event, and that the agenda names it,
is the model's choice (log entry 1, DESIGN CHOICE), as is the time that passes (2), and that a pair is one step (72, DEDUCED).
-/
def Obligations.StepRunsTheDecodedInstruction : Prop :=
  ∀ (s : State) (rest : List Pick) (input : Input), s.tripped = false →
  (∀ (slot : Nat) (pc : Pc) (handler : Bool) (tids : List Nat) (p : Party) (w : Word),
    s.agenda = .issue slot pc handler tids input :: rest →
    let s1 := { s with agenda := rest, input := input }
    Groups s1 slot pc handler tids p → fetchWord s1 (coreOf slot) p.lid pc = some w →
    let s2 := { s1 with issue := some { slot := slot, pc := pc, tids := tids, handler := handler, pfx := none } }
    (isPrefix (decodeWord w) = false → step s = settle (exec (decodeWord w) s2)) ∧
    (∀ fields w1, decodeWord w = .xPrefix fields → (cx? s2 (.xPrefix fields)).isSome = true →
      fetchWord s1 (coreOf slot) p.lid (pc + 1) = some w1 → wordOf pc ≠ 1023 → w1.getLsbD 31 = false →
      isPrefix (decodeWord w1) = false →
      step s = settle (exec (decodeWord w1) { s2 with
        issue := some { slot := slot, pc := pc, tids := tids, handler := handler, pfx := some w } }))) ∧
  ∀ i, s.agenda = .event i input :: rest → step s = settle (exec i { s with agenda := rest, input := input })

/-- The X prefix completes by being latched in front of the lane word behind it: the issuing group's prefix is the word, and
nothing else changes (R65). That the prefix and its word are one step is the model's reading (log entry 72, DEDUCED). -/
def Obligations.PrefixIsLatched : Prop :=
  ∀ (s : State) (fields : BitVec 24) (cx : Cx) (w : Word), cx? s (.xPrefix fields) = some cx → cx.issue.pfx = none →
    wordOf cx.pc ≠ 1023 → fetchWord s cx.core cx.party.lid (cx.pc + 1) = some w → w.getLsbD 31 = false →
    isPrefix (decodeWord w) = false →
    exec (.xPrefix fields) s = .next { s with issue := some { cx.issue with pfx := some (0x7F#8 ++ fields) } }

/-! ## Traps (09_traps.md) -/

/-- R78, R79, R215, R218, R220: a word that fails a check of R78 changes nothing but the trap state, mode and PC of its
group's threads, every one of them, masked or not: the cause of the first check that fails, the instruction's own PC, no fault
address and no detail. -/
def Obligations.WordsThatFailTheirChecksTrap : Prop :=
  ∀ (s : State) (i : Instr) (cx : Cx) (c : Nat), cx? s i = some cx →
    (∀ f, i ≠ .xPrefix f) → (∀ w, i ≠ .unassignedUniformOpcode w) →
    encCheck cx.form cx.p i cx.d cx.a cx.b cx.party.nv cx.issue.handler = some c → CanTrap cx →
    exec i s = .next (cx.goes s cx.party fun _ t => t.enter cx.hpc cx.pc { cause := c })

/-- R76, R225, R226: an unassigned uniform opcode raises OPC_RSVD, TRAP and UTRAP raise the software trap of their code with
the next PC and the operand as detail, BKPT raises BREAK at its own PC with its tag; threads that the mask of TRAP or BKPT
excludes go on. R220, R223: handler entry records the cause, the PC that its kind gives, the fault address and the detail,
sets the mode and the PC, ends a wait, and changes no v, o, w, h or lat register, no counter, no flag and no pending cause. -/
def Obligations.TrapInstructionsEnterTheHandler : Prop :=
  ((∀ (s : State) (w : Word) (cx : Cx), cx? s (.unassignedUniformOpcode w) = some cx → CanTrap cx →
      exec (.unassignedUniformOpcode w) s = .next (cx.goes s cx.party fun _ t => t.enter cx.hpc cx.pc { cause := 0x01 })) ∧
    ∀ d a b : BitVec 8,
    (∀ s cx, Runs s (.trap d a b) cx → CanTrap cx →
      exec (.trap d a b) s = .next (cx.goes s cx.party fun k t =>
        if cx.enabled k then t.enter cx.hpc cx.npc { cause := 0x30 + b.toNat, tinfo := (cx.operands s k).a } else t.jump cx.npc)) ∧
    (∀ s cx, Issues s (.utrap d a b) cx → CanTrap cx →
      exec (.utrap d a b) s = .next (cx.goes s cx.party fun _ t =>
        t.enter cx.hpc cx.npc { cause := 0x30 + b.toNat, tinfo := (cx.uniOperands s).a })) ∧
    (∀ s cx, Runs s (.bkpt d a b) cx → CanTrap cx →
      exec (.bkpt d a b) s = .next (cx.goes s cx.party fun k t =>
        if cx.enabled k then t.enter cx.hpc cx.pc { cause := 0x19, tinfo := b.toNat } else t.jump cx.npc))) ∧
  (∀ (t : Thread) (hpc tpc : Pc) (tr : Trap),
    let u := t.enter hpc tpc tr
    u.cause = BitVec.ofNat 32 tr.cause ∧ u.tpc = tpc.setWidth 32 ∧ u.taddr = BitVec.ofNat 64 tr.taddr ∧
    u.tinfo = BitVec.ofNat 32 tr.tinfo ∧ u.handler = true ∧ u.pc = hpc ∧ u.hold = none ∧ u.v = t.v ∧ u.o = t.o ∧ u.lat = t.lat ∧
    u.latx = t.latx ∧ u.h = t.h ∧ u.cnt = t.cnt ∧ u.fpcsr = t.fpcsr ∧ u.ver = t.ver ∧ u.draw = t.draw ∧ u.pend = t.pend ∧
    u.async = t.async ∧ u.arrivals = t.arrivals ∧ u.exited = t.exited)

/-- R222: a precise cause in handler mode, or for a launch without a handler, stops the party: its escalation carries the
cause and the fault address of the lowest thread that raised one, every thread keeps its trap state, and a party that
escalates issues nothing. Shown for BKPT, TRAP and the words that R78 refuses. -/
def Obligations.EscalationStopsTheParty : Prop :=
  (∀ (s : State) (d a b : BitVec 8) (cx : Cx) (k : Nat), Issues s (.bkpt d a b) cx → cx.tids = [k] → cx.enabled k = true →
    (cx.hpc = 0#16 ∨ (cx.party.thread k).handler = true) → k < cx.party.threads.length → cx.party.esc = none →
    exec (.bkpt d a b) s = .next (s.setParty cx.slot { cx.party with
      esc := some { cause := 0x19, faddr := 0, pc := (cx.party.thread k).pc.toNat, tid := k } })) ∧
  (∀ (s : State) (i : Instr) (cx : Cx) (k c : Nat), cx? s i = some cx → (∀ f, i ≠ .xPrefix f) →
    (∀ w, i ≠ .unassignedUniformOpcode w) →
    encCheck cx.form cx.p i cx.d cx.a cx.b cx.party.nv cx.issue.handler = some c → cx.tids = [k] →
    (cx.hpc = 0#16 ∨ (cx.party.thread k).handler = true) → k < cx.party.threads.length → cx.party.esc = none →
    exec i s = .next (s.setParty cx.slot { cx.party with
      esc := some { cause := c, faddr := 0, pc := (cx.party.thread k).pc.toNat, tid := k } })) ∧
  ∀ (s : State) (slot : Nat) (pc : Pc) (handler : Bool) (tids : List Nat) (p : Party),
    s.party? slot = some p → p.esc.isSome = true → groupOk s slot pc handler tids = false

/-- R228, R132: TRET in handler mode, where every thread's return segment may be entered, returns each thread to normal mode
at the PC that its sr.tpc names, changes no other register, keeps a BAR's kept arrival only for that PC (R216), and lets the
operations go on that waited for the return from their fault's handler (19 R389). -/
def Obligations.TretReturns : Prop := ∀ (s : State) (d a b : BitVec 8) (cx : Cx), Issues s (.tret d a b) cx →
  (∀ k ∈ cx.tids, (cx.party.thread k).handler = true ∧
    segCheck s cx.core cx.launch ((cx.party.thread k).tpc.extractLsb' 10 6).toNat = none) →
  ∃ t, exec (.tret d a b) s = .next t ∧
    { t with ops := s.ops } = cx.goes s cx.party (fun _ u => { u with
      handler := false, pc := u.tpc.extractLsb' 0 16,
      barKept := Option.filter (fun k => k.1 == u.tpc.extractLsb' 0 16) u.barKept }) ∧
    t.ops = s.ops.map fun o =>
      if o.slot = cx.slot ∧ (∃ id, o.untilTret = some id ∧ ∃ k ∈ cx.tids, (cx.party.thread k).serving = some id)
      then { o with untilTret := none } else o

/-! ## Control, waits and status (06_control_wait_crosslane.md, 01_thread.md) -/

/-- R131: a branch within its segment goes to its target where its register is nonzero (BNZ, UBNZ) or zero (BZ, UBZ), and to
the next PC otherwise; the uniform forms decide once for the group. R131: a branch whose target lies in another segment traps
BR_SEG in every enabled thread, with the target's segment as detail, whether or not it would be taken. R130: an instruction of
registers in word 1023 takes effect and then takes FLOW_END at its own PC, with sr.tinfo 1. Shown for IADD and NOP. What a g
register takes from several enabled threads, the value of the highest, is the model's choice (log entry 77, DESIGN CHOICE). -/
def Obligations.BranchesStayInTheirSegment : Prop :=
  (∀ (d : BitVec 8) (imm : BitVec 16),
    (∀ s cx, Runs s (.bnz d imm) cx → segOf imm = segOf cx.pc →
      exec (.bnz d imm) s = .next (cx.goes s cx.party fun k t =>
        t.jump (if cx.enabled k ∧ (cx.operands s k).wd ≠ 0#32 then imm else cx.npc))) ∧
    (∀ s cx, Runs s (.bz d imm) cx → segOf imm = segOf cx.pc →
      exec (.bz d imm) s = .next (cx.goes s cx.party fun k t =>
        t.jump (if cx.enabled k ∧ (cx.operands s k).wd = 0#32 then imm else cx.npc))) ∧
    (∀ s cx, Runs s (.ubnz d imm) cx → segOf imm = segOf cx.pc →
      exec (.ubnz d imm) s = .next (cx.goes s cx.party fun _ t =>
        t.jump (if (cx.uniOperands s).wd ≠ 0#32 then imm else cx.npc))) ∧
    (∀ s cx, Runs s (.ubz d imm) cx → segOf imm = segOf cx.pc →
      exec (.ubz d imm) s = .next (cx.goes s cx.party fun _ t =>
        t.jump (if (cx.uniOperands s).wd = 0#32 then imm else cx.npc)))) ∧
  (∀ (d : BitVec 8) (imm : BitVec 16),
    (∀ i ∈ [Instr.bnz d imm, .bz d imm], ∀ s cx, Runs s i cx → CanTrap cx → segOf imm ≠ segOf cx.pc →
      exec i s = .next (cx.goes s cx.party fun k t =>
        if cx.enabled k then t.enter cx.hpc cx.pc { cause := 0x11, tinfo := segOf imm } else t.jump cx.npc)) ∧
    (∀ i ∈ [Instr.ubnz d imm, .ubz d imm], ∀ s cx, Issues s i cx → CanTrap cx → segOf imm ≠ segOf cx.pc →
      exec i s = .next (cx.goes s cx.party fun _ t => t.enter cx.hpc cx.pc { cause := 0x11, tinfo := segOf imm }))) ∧
  (∀ d a b : BitVec 8,
    (∀ s cx, Issues s (.iadd d a b) cx → cx.atEnd = true → CanTrap cx →
      exec (.iadd d a b) s = .next (cx.goes s (cx.takes fun k => ((cx.operands s k).wa + (cx.operands s k).wb).toNat) fun k t =>
        (if cx.enabled k then cx.gives true ((cx.operands s k).wa + (cx.operands s k).wb).toNat t
         else if cx.p.z then cx.gives true 0 t else t).enter cx.hpc cx.pc { cause := 0x10, tinfo := 1 })) ∧
    (∀ s cx, Issues s (.nop d a b) cx → cx.atEnd = true → CanTrap cx →
      exec (.nop d a b) s = .next (cx.goes s cx.party fun _ t => t.enter cx.hpc cx.pc { cause := 0x10, tinfo := 1 })))

/-- R132, R133: a jump, call or return goes to the PC in the low 16 bits of A where its segment is LANDED or DROPPING, and a
call writes the next PC to its destination: the thread's own for CALLF, the party's for UCALLF. R132, R133: JMPF traps, thread
by thread, where its target's segment cannot be entered, and UJMPF does for every thread of its group. -/
def Obligations.FencedJumpsGoToUsableSegments : Prop :=
  (∀ d a b : BitVec 8,
    (∀ i ∈ [Instr.jmpf d a b, .callf d a b, .ret d a b], ∀ s cx, Runs s i cx →
      (∀ k ∈ cx.tids, cx.enabled k = true → JumpOk s cx (cx.operands s k).a) →
      let p := cx.party.takeG cx.dreg .one cx.tids fun k => if cx.enabled k then some cx.npc.toNat else none
      exec i s = .next (cx.goes s p fun k t =>
        if cx.enabled k then
          Thread.jump (if i = .callf d a b then t.write cx.dreg .one cx.npc.toNat else t) (BitVec.ofNat 16 (cx.operands s k).a)
        else t.jump cx.npc)) ∧
    (∀ i ∈ [Instr.ujmpf d a b, .ucallf d a b, .uret d a b], ∀ s cx, Runs s i cx → JumpOk s cx (cx.uniOperands s).a →
      exec i s = .next (cx.goes s (if i = .ucallf d a b then cx.party.write cx.dreg .one cx.npc.toNat else cx.party)
        fun _ t => t.jump (BitVec.ofNat 16 (cx.uniOperands s).a)))) ∧
  (∀ d a b : BitVec 8,
    (∀ i ∈ [Instr.jmpf d a b, .callf d a b, .ret d a b], ∀ s cx, Runs s i cx → CanTrap cx →
      let p := cx.party.takeG cx.dreg .one cx.tids fun k =>
        if cx.enabled k ∧ jumpCause s cx (cx.operands s k).a = none then some cx.npc.toNat else none
      exec i s = .next (cx.goes s p fun k t =>
        if cx.enabled k then
          match jumpCause s cx (cx.operands s k).a with
          | some tr => t.enter cx.hpc cx.pc tr
          | none =>
            Thread.jump (if i = .callf d a b then t.write cx.dreg .one cx.npc.toNat else t) (BitVec.ofNat 16 (cx.operands s k).a)
        else t.jump cx.npc)) ∧
    ∀ i ∈ [Instr.ujmpf d a b, .ucallf d a b, .uret d a b], ∀ s cx tr, Runs s i cx → CanTrap cx →
      jumpCause s cx (cx.uniOperands s).a = some tr →
      exec i s = .next (cx.goes s cx.party fun _ t => t.enter cx.hpc cx.pc tr))

/-- R137, R155: NOP and UNOP only advance; WAITN lets a thread pass once every class whose threshold is not 15 is at or below
it, and otherwise leaves it where it stands. R138 to R141: a WAITC of a group of one thread whose only condition is of kind
COUNT, read from a record that R159 lets it read, completes at once where the counters are at or below their thresholds: D
receives the latched set, 1, and the thread goes on; where they are not and no time limit is set it waits, with its condition
captured. The order in which conditions are evaluated is the model's reading (log entry 60, DEDUCED). -/
def Obligations.WaitsAndNopsComplete : Prop :=
  ((∀ d a b : BitVec 8,
      (∀ s cx, Runs s (.nop d a b) cx → exec (.nop d a b) s = .next (cx.goes s cx.party fun _ t => t.jump cx.npc)) ∧
      (∀ s cx, Runs s (.unop d a b) cx → exec (.unop d a b) s = .next (cx.goes s cx.party fun _ t => t.jump cx.npc))) ∧
    ∀ (d : BitVec 8) (imm : BitVec 16) s cx, Runs s (.waitn d imm) cx →
      exec (.waitn d imm) s = .next (cx.goes s cx.party fun k t =>
        if cx.enabled k && ([(0, t.cnt.ld), (1, t.cnt.st), (2, t.cnt.cp), (3, t.cnt.tl), (4, t.cnt.bk), (5, t.cnt.gx),
            (6, t.cnt.cf)] : List (Nat × Nat)).any fun e =>
              let v := fld (imm.toNat + 2 ^ 16 * d.toNat + 2 ^ 24 * (cx.p.c % 16)) (4 * e.1) 4
              v ≠ 15 ∧ v < e.2
        then t else t.jump cx.npc)) ∧
  (∀ (s s' : State) (d a b : BitVec 8) (cx : Cx) (k blk : Nat),
    Runs s (.waitc d a b) cx → cx.tids = [k] → k < cx.party.threads.length → cx.enabled k = true → cx.launch.isDet = false →
    (cx.operands s k).b = 0xC0 → (cx.operands s k).a % 32 = 0 → isAcc (cx.operands s k).a = false →
    checkEa s cx.launch { size := 32, r := true } (cx.operands s k).a = none → openAccesses s cx.slot [k] cx.issue.handler = [] →
    readEa s (cx.ag s k) (cx.operands s k).a 32 = .ok blk s' → s'.party? cx.slot = some cx.party →
    (condOf blk 0).kind = 2 → condBad blk 0 = false → (condOf blk 0).scope = 0 →
    let p := if thresholdsHold (cx.party.thread k).cnt (condOf blk 0).value
      then cx.party.takeG cx.dreg .one [k] (fun _ => some 1) else cx.party
    exec (.waitc d a b) s = .next (s'.setParty cx.slot (p.setThread k
      (let t := { cx.party.thread k with hold := none }
       if thresholdsHold t.cnt (condOf blk 0).value then (t.write cx.dreg .one 1).jump cx.npc
       else { t with hold := some (.waitc cx.dreg [{ condOf blk 0 with seen := true, heldSince := none }] false none 0 cx.npc) }))))

/-- R154, R27, R28: SRD gives each enabled thread the value of the status register that B numbers, by the table of R27, and
sr.cnt as R154 lays it out; USRD gives the party one that is the same for the group, with sr.cnt the field-wise maximum over
the group. Nothing else changes but the PC. SRD of a number that R27 does not list traps SR_NUM in every enabled thread; USRD
traps SR_ACCESS for a listed number that it may not read, and SR_NUM for another. R227, R29, R223, R28: SWR to sr.fpcsr takes
RND and the FZ bits, clears the flags that A names and keeps NVT; to sr.ver the low 24 bits; in handler mode to the trap-state
registers. Nothing else changes but the PC. It traps SR_ACCESS for RND 0 or 7, for a register that is read-only, as the trap-
state registers are in normal mode, and SR_NUM for a number that R27 does not list; in handler mode it does, and stops the
party, for a value of 0xC0 or above in sr.cause[7:0]. That USRD of a number that R27 does not list traps SR_NUM is the model's
reading (log entry 79, DEDUCED: R28's last sentence alone would give SR_ACCESS), and what SRD leaves in a g register for
several enabled threads, the value of the highest, is its choice (77, DESIGN CHOICE). -/
def Obligations.StatusRegistersAreReadAndWritten : Prop :=
  (∀ d a b : BitVec 8,
    (∀ s cx, Runs s (.srd d a b) cx → (cx.launch.isDet = true → b.toNat ≠ 0x09 ∧ b.toNat ≠ 0x0A) →
      (∀ f : Nat → Nat, (∀ k ∈ cx.tids, (b.toNat, f k) ∈ cx.statusOf s k) →
        exec (.srd d a b) s = .next (cx.goes s (cx.takes f) fun k t =>
          Thread.jump (if cx.enabled k then t.write cx.dreg cx.dwidth (f k)
            else if cx.p.z then t.write cx.dreg cx.dwidth 0 else t) cx.npc)) ∧
      (CanTrap cx → b.toNat ∉ (cx.statusOf s 0).map (·.1) →
        exec (.srd d a b) s = .next (cx.goes s (cx.zeroes cx.dwidth) fun k t =>
          if cx.enabled k then t.enter cx.hpc cx.pc { cause := 0x0D }
          else Thread.jump (if cx.p.z then t.write cx.dreg cx.dwidth 0 else t) cx.npc))) ∧
    (∀ s cx, Runs s (.usrd d a b) cx → (cx.launch.isDet = true → b.toNat ≠ 0x09 ∧ b.toNat ≠ 0x0A) →
      let most := fun (g : Counters → Nat) => (cx.tids.map fun k => g (cx.party.thread k).cnt).foldl max 0
      (∀ x, (b.toNat ∈ [0x00, 0x02, 0x03, 0x04, 0x05, 0x06, 0x09, 0x0A] ∧ (b.toNat, x) ∈ cx.statusOf s (cx.tids.headD 0)) ∨
          (b = 0x08#8 ∧ x = most (·.ld) + 2 ^ 6 * most (·.st) + 2 ^ 12 * most (·.cp) + 2 ^ 18 * most (·.tl) +
            2 ^ 24 * most (·.bk) + 2 ^ 30 * most (·.gx) + 2 ^ 36 * most (·.cf)) →
        exec (.usrd d a b) s =
          .next (cx.goes s (cx.party.write cx.dreg cx.dwidth x) fun _ t => t.jump cx.npc)) ∧
      (CanTrap cx → b.toNat ∉ [0x00, 0x02, 0x03, 0x04, 0x05, 0x06, 0x08, 0x09, 0x0A] →
        exec (.usrd d a b) s = .next (cx.goes s cx.party fun _ t =>
          t.enter cx.hpc cx.pc { cause := if b.toNat ∈ (cx.statusOf s 0).map (·.1) then 0x0E else 0x0D })))) ∧
  (∀ d a b : BitVec 8, ∀ s cx, Runs s (.swr d a b) cx →
    let x := fun k => (cx.operands s k).wa
    let sets := fun (f : Nat → Thread → Thread) =>
      exec (.swr d a b) s = .next (cx.goes s cx.party fun k t => Thread.jump (if cx.enabled k then f k t else t) cx.npc)
    let traps := fun (c : Nat) =>
      exec (.swr d a b) s = .next (cx.goes s cx.party fun k t =>
        if cx.enabled k then t.enter cx.hpc cx.pc { cause := c } else t.jump cx.npc)
    (b = 0x10#8 →
      ((∀ k ∈ cx.tids, cx.enabled k = true → (x k).extractLsb' 5 3 ≠ 0#3 ∧ (x k).extractLsb' 5 3 ≠ 7#3) →
        sets fun k t => { t with fpcsr := (t.fpcsr &&& 0x800#32) ||| (x k &&& 0x7E0#32) ||| (t.fpcsr &&& ~~~(x k) &&& 0x1F#32) }) ∧
      (CanTrap cx → (∀ k ∈ cx.tids, (x k).extractLsb' 5 3 = 0#3 ∨ (x k).extractLsb' 5 3 = 7#3) → traps 0x0E)) ∧
    (b = 0x11#8 → sets fun k t => { t with ver := x k &&& 0xFFFFFF#32 }) ∧
    ((∀ k ∈ cx.tids, (cx.party.thread k).handler = true) →
      (b = 0x19#8 → sets fun k t => { t with tpc := x k &&& 0xFFFF#32 }) ∧
      (b = 0x1A#8 → sets fun k t => { t with taddr := (cx.operands s k).xa }) ∧
      (b = 0x1B#8 → sets fun k t => { t with tinfo := x k }) ∧
      (b = 0x18#8 → (∀ k ∈ cx.tids, cx.enabled k = true → (cx.operands s k).a % 256 < 0xC0) →
        sets fun k t => { t with cause := x k &&& 0xFF#32 })) ∧
    (∀ k, cx.tids = [k] → cx.enabled k = true → (cx.party.thread k).handler = true → k < cx.party.threads.length →
      cx.party.esc = none → b = 0x18#8 → 0xC0 ≤ (cx.operands s k).a % 256 →
      exec (.swr d a b) s = .next (s.setParty cx.slot { cx.party with
        esc := some { cause := 0x0E, faddr := 0, pc := (cx.party.thread k).pc.toNat, tid := k } })) ∧
    (CanTrap cx →
      (b.toNat ∈ [0x00, 0x01, 0x02, 0x03, 0x04, 0x05, 0x06, 0x08, 0x09, 0x0A, 0x18, 0x19, 0x1A, 0x1B] → traps 0x0E) ∧
      (b.toNat ∉ (cx.statusOf s 0).map (·.1) → traps 0x0D)))

/-! ## Memory accesses (07_memory_access.md, 11_scratchpad_copies.md, 20_versioned_memory.md) -/

/-- R158, R160 to R164, R179: a load of n bytes issues, for each thread, a read of n bytes at A plus the offset in units of n,
for destination D, with the attribute, the scope (.pk by default) and the acquire of its prefix; the uniform form once for the
group. R399, R400: a versioned load of a versioned buffer issues a read of the version that sr.ver less its count names,
modulo 2^24; the uniform form takes the sr.ver of the group's lowest thread. -/
def Obligations.LoadsIssue : Prop :=
  (∀ d a b : BitVec 8,
    (∀ e ∈ ([(1, .ldb d a b, .one), (2, .ldh d a b, .one), (4, .ldw d a b, .one), (8, .ldd d a b, .pair), (16, .ldq d a b, .quad)] :
        List (Nat × Instr × Width)),
      LaneIssues e.2.1 .ld e.2.2 (fun _ _ => { size := e.1, align := e.1, r := true }) (fun cx o => eaAdd o.a (cx.b.toInt * e.1))
        fun cx o => .load (eaAdd o.a (cx.b.toInt * e.1)) e.1 cx.dreg cx.p.c (if cx.p.c % 16 = 0 then 6 else cx.p.c % 16)
          (cx.p.rm == 1) false none) ∧
    (∀ e ∈ ([(4, .uldw d a b), (8, .uldd d a b), (16, .uldq d a b)] : List (Nat × Instr)),
      UniIssues e.2 .ld (fun _ => { size := e.1, align := e.1, r := true }) (fun cx o => eaAdd o.a (cx.b.toInt * e.1))
        fun cx o => .load (eaAdd o.a (cx.b.toInt * e.1)) e.1 cx.dreg 0 6 false true none)) ∧
  (∀ d a b : BitVec 8,
    let version := fun (ver : Word) => (ver.extractLsb' 0 24 - BitVec.ofNat 24 (b.toNat / 8)).toNat
    (∀ e ∈ ([(2 ^ (b.toNat % 8), .ldv d a b), (16, .ldvq d a b)] : List (Nat × Instr)), ∀ s cx, Runs s e.2 cx →
      cx.launch.isDet = false → cx.tids.Nodup →
      let kind := fun (k : Nat) => OpKind.load (cx.operands s k).a e.1 cx.dreg cx.p.c 6 false false
        (some (version (cx.party.thread k).ver))
      (∀ k ∈ cx.active, verKind s cx.launch (cx.operands s k).a = false ∧
        checkEa s cx.launch { size := e.1, align := e.1, r := true, scr := false, acc := false } (cx.operands s k).a = none) →
      ∃ t, exec e.2 s = .next t ∧ AgreeButOps t s ∧ t.seq = s.seq + cx.active.length ∧
        t.slots = (cx.goes s (cx.zeroes cx.dwidth) fun k u =>
          if cx.enabled k then cx.issuedOne .ld u else cx.masked false u).slots ∧
        t.ops.map Op.issued = s.ops.map Op.issued ++ mapI (fun j k =>
          { id := s.seq + j, slot := cx.slot, tids := [k], live := [k], cls := some .ld, kind := kind k, phase := .issued })
          0 cx.active) ∧
    (∀ s cx, Runs s (.uldv d a b) cx → cx.launch.isDet = false →
      let n := 2 ^ (b.toNat % 8)
      let ea := (cx.uniOperands s).a
      verKind s cx.launch ea = false →
      checkEa s cx.launch { size := n, align := n, r := true, scr := false, acc := false } ea = none →
      ∃ t, exec (.uldv d a b) s = .next t ∧ AgreeButOps t s ∧ t.seq = s.seq + 1 ∧
        t.slots = (cx.goes s cx.party fun _ u => cx.issuedOne .ld u).slots ∧
        t.ops.map Op.issued = s.ops.map Op.issued ++
          [{ id := s.seq, slot := cx.slot, tids := cx.tids, live := cx.tids, cls := some .ld,
             kind := .load ea n cx.dreg 0 6 false true (some (version (cx.party.thread (cx.tids.headD 0)).ver)), phase := .issued }]))

/-- R158, R160 to R164, R179: a store of n bytes issues, for each thread, a write of the low n bytes of D at A plus the offset
in units of n; the uniform form once for the group. -/
def Obligations.StoresIssue : Prop := ∀ d a b : BitVec 8,
  (∀ e ∈ ([(1, .stb d a b), (2, .sth d a b), (4, .stw d a b), (8, .std d a b), (16, .stq d a b)] : List (Nat × Instr)),
    LaneIssues e.2 .st .one (fun _ _ => { size := e.1, align := e.1, w := true }) (fun cx o => eaAdd o.a (cx.b.toInt * e.1))
      fun cx o => .store (eaAdd o.a (cx.b.toInt * e.1)) e.1 (o.d % 2 ^ (8 * e.1)) cx.p.c
        (if cx.p.c % 16 = 0 then 6 else cx.p.c % 16) cx.p.rm false) ∧
  (∀ e ∈ ([(4, .ustw d a b), (8, .ustd d a b)] : List (Nat × Instr)),
    UniIssues e.2 .st (fun _ => { size := e.1, align := e.1, w := true }) (fun cx o => eaAdd o.a (cx.b.toInt * e.1))
      fun cx o => .store (eaAdd o.a (cx.b.toInt * e.1)) e.1 (o.d % 2 ^ (8 * e.1)) 0 6 0 true)

/-- R168, R169: an atomic issues at the address in A with the operation of its code, the operand x in the low part of D and,
for CAS, the new value above it; ATOM counts in st and returns nothing, ATOMR and UATOMR count in ld and return the old value
to D. -/
def Obligations.AtomicsIssue : Prop := ∀ d a b : BitVec 8,
  let n := atomSize b.toNat
  let x := fun (o : Opnds) => o.d % 2 ^ (8 * n)
  let y := fun (o : Opnds) => o.d / 2 ^ (8 * n) % 2 ^ (8 * n)
  let scope := fun (cx : Cx) => if cx.p.c % 16 = 0 then 6 else cx.p.c % 16
  LaneIssues (.atom d a b) .st .one (fun _ _ => { size := n, align := n, a := true, acc := false }) (fun _ o => o.a)
    (fun cx o => .atom o.a b.toNat (x o) (y o) none cx.p.c (scope cx) cx.p.rm false) ∧
  LaneIssues (.atomr d a b) .ld (if ty64 (b.toNat / 16) then .pair else .one)
    (fun _ _ => { size := n, align := n, r := true, a := true, acc := false }) (fun _ o => o.a)
    (fun cx o => .atom o.a b.toNat (x o) (y o) (some cx.dreg) cx.p.c (scope cx) cx.p.rm false) ∧
  UniIssues (.uatomr d a b) .ld (fun _ => { size := n, align := n, r := true, a := true, acc := false }) (fun _ o => o.a)
    (fun cx o => .atom o.a b.toNat (x o) (y o) (some cx.dreg) cx.p.c (scope cx) cx.p.rm true)

/-- R173, R255, R256: cleans and invalidations issue one operation over A and the length in D; ARRV issues an arrival of D
bytes at an arrival word or, with code bit 0, at a transaction barrier, with one arrival unless code bit 1 is set; ABINIT and
TBINIT issue the write of the word they set up, and TBINIT registers its barrier with the launch where its register bit says
so. -/
def Obligations.CleansAndSignalsIssue : Prop := ∀ d a b : BitVec 8,
  (∀ e ∈ ([(.clnr d a b, 0, false), (.invr d a b, 1 + b.toNat, true)] : List (Instr × Nat × Bool)), ∀ s cx, Runs s e.1 cx →
    cx.tids.Nodup → cx.launch.isDet = false →
    let need : Need := { size := 1, r := !e.2.2, w := e.2.2, scr := false, acc := false }
    let kind := fun (k : Nat) => OpKind.clean (cx.operands s k).a (cx.operands s k).d e.2.1
    (∀ k ∈ cx.active, let o := cx.operands s k
      accessCause s cx.launch need o.a (kind k) = none ∧ (o.d ≠ 0 → checkEa s cx.launch need (eaAdd o.a ((o.d : Int) - 1)) = none)) →
    ∃ t, exec e.1 s = .next t ∧ AgreeButOps t s ∧ t.seq = s.seq + cx.active.length ∧
      t.slots = (cx.goes s cx.party fun k u => if cx.enabled k then cx.issuedOne .st u else u.jump cx.npc).slots ∧
      t.ops.map Op.issued = s.ops.map Op.issued ++ mapI (fun j k =>
        { id := s.seq + j, slot := cx.slot, tids := [k], live := [k], cls := some .st, kind := kind k, phase := .issued })
        0 cx.active) ∧
  LaneIssues (.arrv d a b) .st .one
    (fun _ _ => { size := 16, align := 16, a := true, acc := false, scr := !b.getLsbD 0, buf := b.getLsbD 0 }) (fun _ o => o.a)
    (fun cx o => .arrv (b.getLsbD 0) o.a (if b.getLsbD 0 && !b.getLsbD 1 then 1 else 0) o.d
      (if cx.p.c % 16 = 0 then (if b.getLsbD 0 then 6 else 3) else cx.p.c % 16) (cx.p.rm == 2)) ∧
  UniIssues (.abinit d a b) .st (fun _ => { size := 16, align := 16, w := true, acc := false, buf := false }) (fun _ o => o.a)
    (fun _ o => .abinit o.a o.b) ∧
  ∀ s cx, Runs s (.tbinit d a b) cx →
    let o := cx.uniOperands s
    let kind := fun down => OpKind.tbinit o.a (o.b % 2 ^ 24) (bitOf o.b 24) down
    accessCause s cx.launch { size := 16, align := 16, w := true, scr := false, acc := false } o.a (kind none) = none →
    o.b % 2 ^ 24 ≠ 0 → o.b < 2 ^ 25 → (bitOf o.b 24 = true → o.a ∉ cx.launch.tbars → cx.launch.tbars.length < 256) →
    let new := bitOf o.b 24 && !cx.launch.tbars.contains o.a
    let down := if new = false ∨ cx.launch.tdown = 0 then none
      else some (eaAdd cx.launch.tdown (8 * cx.launch.tbars.length : Nat))
    let s' := if new then s.setLaunch { cx.launch with tbars := cx.launch.tbars ++ [o.a] } else s
    ∃ t, exec (.tbinit d a b) s = .next t ∧ AgreeButOps t s' ∧ t.seq = s.seq + 1 ∧
      t.slots = (cx.goes s cx.party fun _ u => cx.issuedOne .st u).slots ∧
      t.ops.map Op.issued = s.ops.map Op.issued ++
        [{ id := s.seq, slot := cx.slot, tids := cx.tids, live := cx.tids, cls := some .st, kind := kind down,
           phase := .issued }]

/-- R171, R180, 08 R190, R191: a fence that waits for nothing lets its group pass: as an acquire it acts at its scope, as a
release it puts each thread's open accesses before the thread's later writes; UPREF passes at once, changes no register and no
operation, and no byte of DRAM while the slices of the die's L2 have room for the line and the page-table lines of its walk.
-/
def Obligations.FencesAndPrefetchesComplete : Prop := ∀ d a b : BitVec 8,
  (∀ s cx, Runs s (.fence d a b) cx → (∀ k ∈ cx.tids, cx.enabled k = true → fenceWaits s cx k (cx.party.thread k) = false) →
    cx.active ≠ [] →
    let scope := if cx.p.c % 16 = 9 ∨ cx.p.c % 16 = 0 then 6 else cx.p.c % 16
    exec (.fence d a b) s = .next (cx.goes (if cx.p.rm = 1 ∨ cx.p.rm = 3 then acquire s cx.core scope else s) cx.party fun k t =>
      Thread.jump (if cx.enabled k = true ∧ (cx.p.rm = 2 ∨ cx.p.rm = 3)
        then { t with fence := (openAccesses s cx.slot [k] cx.issue.handler).map (·.id) } else t) cx.npc)) ∧
  (∀ s cx, Runs s (.upref d a b) cx → ∃ t, exec (.upref d a b) s = .next t ∧ t.ops = s.ops ∧
    ((∀ line, (l2SliceOf s cx.die line).length + 4 ≤ 2 ^ 15) → t.dram = s.dram) ∧
    t.slots = (cx.goes s cx.party fun _ u => u.jump cx.npc).slots ∧ t.launches = s.launches)

/-! ## Cross-lane instructions and barriers (06_control_wait_crosslane.md, 14_cluster.md) -/

/-- R144 to R149: when the last group of a participation set reaches a cross-lane instruction, whether it is the whole set or
the rest of it is held there, the instruction executes for all of the set in one step. XLN gives a thread A of its source, or
its own A where the source takes no part; XRED its span's node; ELECT says which thread is the lowest; VOTE gives the ballot,
any, all, the count or equality of A. -/
def Obligations.CrossLaneOperationsComplete : Prop := ∀ (s : State) (d a b : BitVec 8) (cx : Cx) (ps : List Nat),
  let x := fun t => ((cx.of ps).operands s t).a
  (ArrivesLast s (.xln d a b) cx ps →
    CrossLaneGives s (.xln d a b) cx ps 0 fun t =>
      let o := 32 / 2 ^ (cx.p.c / 8 % 8)
      let src := match cx.p.c % 8 with
        | 0 => ((cx.of ps).operands s t).b % 64
        | 1 => if t % 32 < o then t else t - o
        | 2 => if 32 ≤ t % 32 + o then t else t + o
        | _ => if o = 32 then t else t ^^^ o
      if src ∈ ps then x src else x t) ∧
  (ArrivesLast s (.xred d a b) cx ps →
    let n := 6 - cx.p.c / 16 % 8
    let node := xredNode (cx.p.c % 16) fun t => if t ∈ ps then some (x t) else none
    let flags := ((List.range (64 / 2 ^ n)).map fun k => (node n (k * 2 ^ n)).2).foldl Nat.lor 0
    (cx.launch.nvt = false ∨ bitOf flags 4 = false) →
    CrossLaneGives s (.xred d a b) cx ps flags fun t => ((node n (t / 2 ^ n * 2 ^ n)).1).getD 0) ∧
  (ArrivesLast s (.elect d a b) cx ps →
    CrossLaneGives s (.elect d a b) cx ps 0 fun t =>
      if cx.dreg.isW then ps.headD 0 else if t = ps.headD 0 then 1 else 0) ∧
  (ArrivesLast s (.vote d a b) cx ps →
    CrossLaneGives s (.vote d a b) cx ps 0 fun _ =>
      match b.toNat with
      | 0 => bitsWhere 64 fun t => t ∈ ps ∧ x t ≠ 0
      | 1 => if ∃ t ∈ ps, x t ≠ 0 then 1 else 0
      | 2 => if ∀ t ∈ ps, x t ≠ 0 then 1 else 0
      | 3 => (ps.filter fun t => x t ≠ 0).length
      | _ => if ∀ t ∈ ps, ∀ u ∈ ps, x t = x u then 1 else 0)

/-- R150 to R152, 14 R308: an arrival that does not fill a barrier adds one to its count; the thread of BAR stands there,
holding the phase it arrived in, and that of BARA receives the phase and goes on. R151, R152: the last arrival advances the
phase and clears the count; its thread goes on, with the phase it arrived in as the result of BARA, and so does every thread
of its party that waits in the barrier for that phase. R153: EXIT ends an enabled thread of its group; where no barrier has
arrivals and no thread of the party waits or is held, nothing else of any thread changes, and the thread's operations go on.
-/
def Obligations.BarriersCountArrivalsAndExits : Prop :=
  (∀ (s : State) (d a b : BitVec 8) (cx : Cx) (k : Nat) (l : BarLoc),
    let idx := b.toNat
    let scope := barScope (cx.p.c % 16)
    let old := barOf s cx.slot l
    let u := { cx.party.thread k with arrivals := (cx.party.thread k).arrivals ++ [(scope, idx, old.phase)] }
    old.arrived + 1 ≠ barMembers s cx.slot l →
    (Arrives s (.bar d a b) cx k idx l →
      ∃ t, exec (.bar d a b) s = .next t ∧ barOf t cx.slot l = { old with arrived := old.arrived + 1 } ∧
        PartyBecomes s t cx (cx.party.threads.set k { u with hold := some (.bar scope idx old.phase cx.npc) }) cx.party.g) ∧
    (Arrives s (.bara d a b) cx k idx l →
      ∃ t, exec (.bara d a b) s = .next t ∧ barOf t cx.slot l = { old with arrived := old.arrived + 1 } ∧
        PartyBecomes s t cx (cx.party.threads.set k ((u.write cx.dreg .one old.phase).jump cx.npc))
          (cx.party.takeG cx.dreg .one [k] fun _ => some old.phase).g)) ∧
  (∀ (s : State) (d a b : BitVec 8) (cx : Cx) (k : Nat) (l : BarLoc),
    let idx := b.toNat
    let scope := barScope (cx.p.c % 16)
    let old := barOf s cx.slot l
    old.arrived + 1 = barMembers s cx.slot l → ∀ i ∈ [Instr.bar d a b, .bara d a b], Arrives s i cx k idx l →
    ∃ t p, exec i s = .next t ∧ barOf t cx.slot l = { phase := (old.phase + 1) % 256, arrived := 0 } ∧
      t.party? cx.slot = some p ∧ t.ops = s.ops ∧ t.dram = s.dram ∧
      p.g = (if i = .bara d a b then (cx.party.takeG cx.dreg .one [k] fun _ => some old.phase).g else cx.party.g) ∧
      p.thread k = Thread.jump (if i = .bara d a b then (cx.party.thread k).write cx.dreg .one old.phase else cx.party.thread k)
        cx.npc ∧
      ∀ j n, j ≠ k → j < cx.party.threads.length → (cx.party.thread j).hold = some (.bar scope idx old.phase n) → wordOf n ≠ 0 →
        waitsGo s cx.slot = true → (cx.party.thread j).deliverable = false → (p.thread j).pc = n ∧ (p.thread j).hold = none) ∧
  (∀ (s : State) (d a b : BitVec 8) (cx : Cx) (k : Nat),
    RunsOne s (.exit d a b) cx k → k < cx.party.threads.length → (∀ t ∈ cx.party.threads, t.hold = none ∧ t.arrivals = []) →
    (∀ e ∈ cx.party.bars, e.arrived = 0) → s.bars = [] →
    ∃ t, exec (.exit d a b) s = .next t ∧ t.ops = s.ops ∧ t.dram = s.dram ∧ t.cores = s.cores ∧
      t.slots = (s.setParty cx.slot (cx.party.setThread k { cx.party.thread k with exited := true, barKept := none })).slots)

/-! ## Engine commands (11_scratchpad_copies.md, 12_tile_engine.md, 17_geometry.md, 21_bank_arithmetic.md, 28_fabric.md) -/

/-- R262, R266, R260, 06 R134, R135: a copy whose descriptor passes the checks of R266 is captured with its prefix, its word
and the launch's next sequence number of its party, its layout record and its target portions, and counts in cp; LRLD of a
dynamic handle counts in cp; CFETCH of an ABSENT segment within the budget counts in cf and starts the fetch. R277, R278,
R295: MMA and MDRN capture their block of 64 bytes at A plus the offset in units of 64 and count in tl of their thread; PLANE
captures the block at A once for its group, with the override word B, and counts in tl of each thread. R363, R365, R368, R371,
07 R175 to R177, 21 R407, R408, R411, 28 R481, R487: CUTSEL, RAST and RAYQ capture descriptors of 64, 128 and 64 bytes and
count in gx; GATH captures 32 bytes and counts in gx; BKQ captures its header and its commands and counts in bk; COLL captures
its descriptor, its group record and its segment table, counts in cp, and then starts: the packages of its other ranks are
told of it, or it faults as a second command of its rank with an equal (GID, TAG) (R486). The order of the commands of one
group (log entry 44, DESIGN CHOICE) and corner readings of the checks (66, 69, 71, DEDUCED) are the model's. -/
def Obligations.CommandsIssue : Prop :=
  (∀ (s s' : State) (d a b : BitVec 8) (cx : Cx) (k x : Nat),
    let o := cx.operands s k
    let l := cx.launch
    (∀ e ∈ ([(0x6A#8, .cpyt d a b), (0x6B#8, .cpyl d a b), (0x6C#8, .cpym d a b)] : List (BitVec 8 × Instr)),
      Captures s e.2 cx k (cx.ea o.a 16) 48 16 s' x → s'.launch? l.lid = some l → cpBad l e.1.toNat x = none →
      (if cpLinear e.1.toNat x then cpLinRanges s' l e.1.toNat x else cpTileRanges s' l e.1.toNat x) = none →
      ∃ t, exec e.2 s = .next t ∧
        CommandIssued s' t { cx with party := { cx.party with copySeq := (cx.party.copySeq + 1) % 2 ^ 32 } } k .cp
          (copyKind s' l.lid cx.party.blin e.1.toNat x (cx.issue.pfx.getD 0#32) (e.1 ++ d ++ a ++ b) cx.party.copySeq)) ∧
    (RunsOne s (.lrld d a b) cx k → k < cx.party.threads.length → l.nstat ≤ o.d → o.d < l.nstat + l.ndyn →
      checkEa s l { size := 128, align := 128, r := true, acc := false } o.a = none →
      ∃ t, exec (.lrld d a b) s = .next t ∧ CommandIssued s t cx k .cp (.lrld o.d o.a)) ∧
    (RunsOne s (.cfetch d a 0#8) cx k → k < cx.party.threads.length → o.a < 64 → bitOf l.segMap o.a = true →
      (segAt s cx.core cx.party.lid o.a).st = .absent → segUse s cx.core cx.party.lid < l.segBud →
      ∃ t, exec (.cfetch d a 0#8) s = .next t ∧
        CommandIssued (setSegSt s cx.core cx.party.lid o.a .fetching) t cx k .cf (.cfetch o.a false))) ∧
  (∀ (s s' : State) (d a b : BitVec 8) (cx : Cx) (k x : Nat),
    let o := cx.operands s k
    (∀ e ∈ ([(0x6E, .mma d a b), (0x6F, .mdrn d a b)] : List (Nat × Instr)),
      Captures s e.2 cx k (cx.ea o.a 64) 64 64 s' x → tileCheck s' cx.launch e.1 x (cx.ea o.a 64) 0 = none →
      ∃ t, exec e.2 s = .next t ∧ CommandIssued s' t cx k .tl (.tile e.1 x (cx.ea o.a 64) 0)) ∧
    (Runs s (.plane d a b) cx → k = cx.tids.headD 0 →
      checkEa s cx.launch { size := 64, align := 64, r := true, acc := false } o.a = none →
      cx.readRecord s cx.tids k (cx.party.thread k) o.a 64 true = (s', .ok x) → s'.slots = s.slots →
      tileCheck s' cx.launch 0xB2 x o.a o.b = none →
      ∃ t, exec (.plane d a b) s = .next t ∧ AgreeButOps t s' ∧ t.seq = s'.seq + 1 ∧
        t.slots = (cx.goes s' cx.party fun _ u => cx.issuedOne .tl u).slots ∧
        t.ops.map Op.issued = s'.ops.map Op.issued ++
          [{ id := s'.seq, slot := cx.slot, tids := cx.tids, live := cx.tids, cls := some .tl, kind := .tile 0xB2 x o.a o.b,
             phase := .issued }])) ∧
  (∀ (s s' s2 s3 : State) (d a b : BitVec 8) (cx : Cx) (k x y z : Nat),
    let o := cx.operands s k
    let t := cx.party.thread k
    (∀ e ∈ ([(0x72, 64, .cutsel d a b), (0x73, 128, .rast d a b), (0x74, 64, .rayq d a b)] : List (Nat × Nat × Instr)),
      Captures s e.2.2 cx k (cx.ea o.a e.2.1) e.2.1 64 s' x → geBad cx.launch e.1 x = none → geRanges s' cx.launch e.1 x = none →
      ∃ u, exec e.2.2 s = .next u ∧ CommandIssued s' u cx k .gx
        (.geom e.1 x (if e.1 = 0x73 then (cx.launch.layout (geHandle x)).getD 0 else 0))) ∧
    (Captures s (.gath d a b) cx k (cx.ea o.a 32) 32 32 s' x →
      let arrival := if cx.dreg = .z then none else some o.d
      gatCheck s' cx x arrival = none →
      ∃ u, exec (.gath d a b) s = .next u ∧ CommandIssued s' u cx k .gx (.gather x arrival)) ∧
    (∀ e, Captures s (.bkq d a b) cx k (cx.ea o.a 16) 16 16 s' x → bkHeadBad s' cx.launch x (cx.ea o.a 16) = none →
      cx.record s' k t (eaAdd (cx.ea o.a 16) 16) (16 * bkN x) 16 = (s2, .ok y) → s2.slots = s.slots →
      bufOf s2 cx.launch.ctx (eaIdx (bkBuf x)) = some e → bkBodyBad e (x + 2 ^ 128 * y) (cx.ea o.a 16) = none →
      ∃ u, exec (.bkq d a b) s = .next u ∧ CommandIssued s2 u cx k .bk (.bank (x + 2 ^ 128 * y) (cx.ea o.a 16))) ∧
    (Captures s (.coll d a b) cx k (cx.ea o.a 64) 64 64 s' x → collRsvd x = false →
      cx.groupRecord s' k t x = (s2, .ok y) → groupBad s2 cx.launch x y = false →
      (coKind x = 0 → 1 ≤ coCount x ∧ coCount x ≤ 64 ∧ collSigBad cx.launch x = false) →
      (if coKind x = 0 then cx.record s2 k t (coSrc x) (32 * coCount x) 1 else (s2, .ok 0)) = (s3, .ok z) → s3.slots = s.slots →
      collCheck s3 cx.launch x y z = none →
      ∃ u, CommandIssued s3 u cx k .cp (.coll x y z s3.ref) ∧ exec (.coll d a b) s = .next (startColls u s.seq)))

/-! ## The launch's tables (08_ordering.md, 15_die_memory.md, 20_versioned_memory.md, 14_cluster.md, 16_launch_scheduling.md) -/

/-- R201, R202: RBIND of a pair that stands in the binding table gives the handle of its entry and changes nothing; else it
writes the lowest free entry, its generation advanced, and gives GEN in bits 23:8 and ENTRY in bits 7:0. RUNBIND of a live
handle frees its entry, and of one that is no longer live does nothing. R326, R330: CRDECL writes the lowest free entry of the
range table, its generation advanced, and gives its handle; CREND of a live handle, once its group has no update of the range
that is still to be accepted (R329) and no line of the range is held by a migration or an all-bank port, applies every partial
of the range and frees the entry. -/
def Obligations.BindingsAndRangesAreKept : Prop :=
  (∀ (s : State) (d a b : BitVec 8) (cx : Cx) (e : Nat),
    let o := cx.uniOperands s
    let l := cx.launch
    let same := fun f => (l.bindAt f).live = true ∧ (l.bindAt f).base = o.a ∧ (l.bindAt f).len = o.d ∧ (l.bindAt f).obj = o.b
    let gen := ((l.bindAt e).gen + 1) % 2 ^ 16
    (Runs s (.rbind d a b) cx → rbindCheck s l o.d o.a o.b = none →
      (Lowest 256 e same → TableGives s (.rbind d a b) cx s ((l.bindAt e).gen * 2 ^ 8 + e)) ∧
      ((∀ f < 256, ¬same f) → Lowest 256 e (fun f => (l.bindAt f).live = false) →
        TableGives s (.rbind d a b) cx
          (s.setLaunch { l with binds := setAt {} l.binds e { base := o.a, len := o.d, obj := o.b, live := true, gen := gen } })
          (gen * 2 ^ 8 + e))) ∧
    (Runs s (.runbind d a b) cx → o.a < 2 ^ 24 → e = o.a % 256 → (l.bindAt e).gen = o.a / 256 →
      TableDone s (.runbind d a b) cx
        (if (l.bindAt e).live then s.setLaunch { l with binds := setAt {} l.binds e { l.bindAt e with live := false } } else s))) ∧
  (∀ (s : State) (d a b : BitVec 8) (cx : Cx) (e : Nat),
    let o := cx.uniOperands s
    let l := cx.launch
    let gen := ((l.rangeEntry e).gen + 1) % 2 ^ 16
    (Runs s (.crdecl d a b) cx → crdeclCheck s l o.d o.a o.b = none → Lowest 16 e (fun f => (l.rangeEntry f).live = false) →
      TableGives s (.crdecl d a b) cx
        (s.setLaunch { l with ranges := setAt {} l.ranges e (Range.mk o.a o.d (o.b % 4) (o.b / 16 % 8) cx.die true gen) })
        (gen * 2 ^ 8 + e)) ∧
    (Runs s (.crend d a b) cx → o.a < 2 ^ 24 → e = o.a % 256 → e < 16 → (l.rangeEntry e).live = true →
      (l.rangeEntry e).gen = o.a / 256 → s.launch? l.lid = some l →
      (∀ x ∈ openAccesses s cx.slot cx.tids cx.issue.handler, x.updates (l.rangeEntry e) = false) →
      (rangeLines s l.lid (l.rangeEntry e)).any (combineBusy s l.lid) = false →
      TableDone s (.crend d a b) cx (endRange s l e) ∧
      (endRange s l e).launch? l.lid = some { l with ranges := setAt {} l.ranges e { l.rangeEntry e with live := false } }))

/-- R401: VPOST of the version that is published completes with 1 and changes nothing else. VPOST of the open version, once no
write of the group to the buffer is open, no forwarded atomic stands on a page of that version and no page-table entry and no
partial of the buffer is held by a migration or a port, completes with 0 in the state that `publish` gives, in which the
buffer's record has the version published and the next one, modulo 2^24, open; a migrating or quarantined page of the version
is to come back in STATE 1. R402: VOPEN completes, and changes nothing but its destination and the holds of its buffer. A hold
gives 1 for a plat after PUB, 2 for one that is not kept, 3 where a first hold finds fifteen plats kept (the whole retention
counted) or the count is 65,535, and else 0 with one hold more, which the launch owns. A release gives 4 where the count is 0,
and else 0 with one hold less: the launch's own where it has one, else the oldest that another launch took. What becomes of
quarantined and migrating pages and of partials is the model's reading (log entry 63, DEDUCED). -/
def Obligations.VersionsArePublishedAndHeld : Prop :=
  (∀ (s : State) (d a b : BitVec 8) (cx : Cx) (e : Nat) (sn : Snap),
    let o := cx.uniOperands s
    let l := cx.launch
    let buf := eaIdx o.a
    let v := o.b % 2 ^ 24
    bufOf s l.ctx buf = some e → s.snap? l.ctx buf = some sn →
    Runs s (.vpost d a b) cx → verCheck s l (o.b / 2 ^ 24 % 256 != 0) o.a true = none →
    (v = sn.pub → TableGives s (.vpost d a b) cx s 1) ∧
    (v ≠ sn.pub → v = sn.opn → openWritesTo s cx buf = false → versionBusy s e v = false →
      (∀ p ∈ pagesOf e, leafHeld s e (pageBase e p) = false) →
      (∀ k ∈ bufferPartials s l.ctx buf, combineBusy s k.1 k.2 = false) →
      let t := publish s l.ctx buf e v sn
      TableGives s (.vpost d a b) cx t 0 ∧
      t.snap? l.ctx buf = some { sn with opn := (v + 1) % 2 ^ 24, pub := v } ∧
      (∀ q ∈ t.quars, q.1.ctx = l.ctx → q.1.buf = buf → leafVer q.2 = v → leafState q.2 ≠ 0) ∧
      (∀ m ∈ t.migrations, m.page.ctx = l.ctx → m.page.buf = buf → leafVer m.old = v → leafState m.old ≠ 0))) ∧
  (∀ (s : State) (d a b : BitVec 8) (cx : Cx) (e : Nat) (sn : Snap),
    let o := cx.uniOperands s
    let l := cx.launch
    let p := o.b % 2 ^ 24
    let n := aget 0 p sn.holds
    let gives := fun (sn : Snap) x => TableGives s (.vopen d a b) cx (s.setSnap sn) x
    bufOf s l.ctx (eaIdx o.a) = some e → s.snap? l.ctx (eaIdx o.a) = some sn →
    Runs s (.vopen d a b) cx → verCheck s l (o.b / 2 ^ 25 % 128 != 0) o.a false = none →
    (o.b / 2 ^ 24 % 2 = 0 →
      (verLe p sn.pub = false → gives sn 1) ∧
      (verLe p sn.pub = true → sn.kept (bufDepth e) p = false → gives sn 2) ∧
      (verLe p sn.pub = true → sn.kept (bufDepth e) p = true →
        (n = 0 ∧ sn.outside (bufDepth e) + bufDepth e = 15 ∨ n = 65535) → gives sn 3) ∧
      (verLe p sn.pub = true → sn.kept (bufDepth e) p = true →
        ¬(n = 0 ∧ sn.outside (bufDepth e) + bufDepth e = 15) → n ≠ 65535 →
        gives { sn with holds := aset p (n + 1) sn.holds, owners := sn.owners ++ [(l.lid, p)] } 0)) ∧
    (o.b / 2 ^ 24 % 2 = 1 →
      (n = 0 → gives sn 4) ∧
      (0 < n → ∀ before after x, sn.owners = before ++ x :: after → x.2 = p →
        (if (l.lid, p) ∈ sn.owners then x.1 = l.lid ∧ (l.lid, p) ∉ before else ∀ y ∈ before, y.2 ≠ p) →
        gives { sn with holds := if n = 1 then adel p sn.holds else aset p (n - 1) sn.holds, owners := before ++ after } 0)))

/-- R313, R314: MIGR of a deterministic launch, or to the rank that the party has where no port holds the walk to the home,
gives status 1 and its rank and moves nothing; once a reservation is made, no cause is pending and the party has drained, the
party leaves its slot and stands on the reserved one at the next PC, with its new rank, status 0, its core registers zero and
its counters zero. R343, R344: LAUNCH, when none of its group's accesses is open, appends the captured record at its queue's
TAIL: D takes the low 32 bits of TAIL, and the group goes on. Where the party stands after its move, and that its registers of
the core read zero there, follow the model's readings (log entries 65 and 68, DEDUCED). -/
def Obligations.PartiesMigrateAndLaunch : Prop :=
  (∀ (s : State) (d a b : BitVec 8) (cx : Cx), Runs s (.migr d a b) cx →
    let o := cx.uniOperands s
    let party := cx.party.write cx.dreg cx.dwidth
    ((s.slot cx.slot).migr = none → migrTrap s cx o.a o.b = none →
      (cx.launch.isDet = true ∨ (homeHeld s cx o.a o.b = false ∧
        migrRank s cx (cx.core - cx.party.rank) o.a o.b = some cx.party.rank)) →
      TableGives s (.migr d a b) cx s (1 + cx.party.rank * 2 ^ 8)) ∧
    ∀ m, (s.slot cx.slot).migr = some m → cx.party.causePending = false → cx.party.drained = true → m.slot ≠ cx.slot →
      s.bars = [] →
      ∃ t q, exec (.migr d a b) s = .next t ∧ (t.slot m.slot).party = some q ∧ (t.slot m.slot).st = .restoring ∧
        (t.slot m.slot).reserved = false ∧ t.party? cx.slot = none ∧
        ((s.slot cx.slot).repair = false → t.dram = s.dram) ∧
        q = { party (m.rank * 2 ^ 8) with
          rank := m.rank, g := List.replicate 4 0#32,
          threads := (mapI (fun k u => if cx.tids.contains k then u.jump cx.npc else u) 0 cx.party.threads).map Thread.moved }) ∧
  (∀ (s s' : State) (d a b : BitVec 8) (cx : Cx) (q : Queue) (x : Nat),
    Runs s (.launch d a b) cx →
    let o := cx.uniOperands s
    let p' := cx.party.write cx.dreg cx.dwidth x
    o.b / 2 ^ 8 % 2 ^ 24 = 0 → devQueue s cx.launch.ctx (o.b % 256) = some q →
    checkEa s cx.launch { size := 256, align := 64, r := true, acc := false } o.a = none →
    openAccesses s cx.slot cx.tids cx.issue.handler = [] →
    launchAppend cx s (cx.party.thread (cx.tids.headD 0)) (o.b % 256) o.a = (s', .ok x) →
    s'.slots = s.slots →
    ∃ t p, exec (.launch d a b) s = .next t ∧ t.dram = s'.dram ∧ t.l2 = s'.l2 ∧ t.party? cx.slot = some p ∧ p.w = p'.w ∧
      p.g = p'.g ∧ p.threads.map (fun u => (u.pc, u.v, u.fpcsr, u.hold)) =
        mapI (fun k u => if cx.tids.contains k then (cx.npc, u.v, u.fpcsr, none) else (u.pc, u.v, u.fpcsr, u.hold)) 0 cx.party.threads)

/-! ## Accesses in flight (07_memory_access.md, 15_die_memory.md, 19_package_memory.md, 01_thread.md) -/

/-- R386, R387, R323, R320, 28 R470, R472: what becomes of an issued access. In a scratchpad it is performed: a load reads the
bytes, a store writes them, an atomic returns them and writes its result; a window location that cannot be reached fails it. A
store to a buffer whose page the die's TLB does not hold starts a walk. One whose page is there and in order is performed: a
store leaves its bytes as what a coherent read finds, an atomic that no die owns or its own die owns has the coherent value as
its old value and leaves its result, and a load that its core's L1 does not serve reads its die's L2 copy, or the coherent
value where the die has none. A walk that meets a fault, or ends without a leaf, faults what joined it; one that nothing
joined leaves its leaf in the TLB. A forwarded atomic is performed with the old value of its location, the invalidations
queued for its die applied first where it acquires, and the location holds its result. An access to a peer is sent once, and
takes PEER_RIGHTS where it is refused. A wait past its limit ends as MIGR_STUCK or PEER_FAIL. What answers come from peers is
the model's input (log entry 45, DESIGN CHOICE), the form of the request sent is its own (18, DESIGN CHOICE), and so is what
encrypted memory reads as under another key or tweak (11, DEDUCED). -/
def Obligations.AccessesAreTranslatedAndPerformed : Prop := ∀ (s : State) (o : Op) (ea n : Nat), s.op? o.id = some o →
  let g := opAg s o
  let registers := fun (k : OpKind) => ∃ a e r d, k = .tbinit a e r (some d)
  (∀ c off dst attr scope acq uni, o.translatable s = true → o.kind = .load ea n dst attr scope acq uni none → isWin ea = true →
    ((s.launch? o.lid).any fun l => l.isDet) = false → locate s g ea false = .at (.scr c off) →
    ∃ t, exec (.accessTranslate o.id none) s = .next t ∧ StandsAt t o (.performed (Memory.read (s.core c).scr off n))) ∧
  (∀ c off x attr scope rel uni, o.translatable s = true → o.kind = .store ea n x attr scope rel uni → isWin ea = true →
    locate s g ea true = .at (.scr c off) →
    ∃ t, exec (.accessTranslate o.id none) s = .next t ∧ StandsAt t o (.performed 0) ∧
      (t.core c).scr = Memory.write (s.core c).scr off n x) ∧
  (∀ c off code x y dst attr scope rm uni, o.translatable s = true → o.kind = .atom ea code x y dst attr scope rm uni →
    n = atomSize code → isWin ea = true → locate s g ea false = .at (.scr c off) →
    let old := Memory.read (s.core c).scr off n
    ∃ t, exec (.accessTranslate o.id none) s = .next t ∧ StandsAt t o (.performed old) ∧
      (t.core c).scr = Memory.write (s.core c).scr off n (atomNew code old x y)) ∧
  (∀ c, o.translatable s = true → o.kind.bytes = some (ea, n) → isWin ea = true → ¬registers o.kind → (∀ u, o.phase ≠ .peer u) →
    locate s g ea o.kind.stores = .fault c →
    ∃ t, exec (.accessTranslate o.id none) s = .next t ∧ StandsAt t o (.failed c ea (o.info o.kind.info)) ∧ t.dram = s.dram) ∧
  (∀ e x attr scope rel uni, o.translatable s = true → (∀ u, o.phase ≠ .peer u) → o.kind = .store ea n x attr scope rel uni →
    isWin ea = false → bufOf s g.ctx (eaIdx ea) = some e → bufPeer e = false →
    let k := pageKey g.ctx (eaIdx ea) e (eaOff ea)
    aget? k (s.die g.die).tlb = none → k ∉ (s.die g.die).walks → (s.die g.die).walks.length < 64 →
      ∃ t, exec (.accessTranslate o.id none) s = .next t ∧ StandsAt t o (.walking k o.heldAt) ∧
        (t.die g.die).walks = (s.die g.die).walks ++ [k]) ∧
  (∀ s1 ppa, Reaches s o ea n s1 ppa →
    (∀ x attr scope rel uni, o.kind = .store ea n x attr scope rel uni →
      ∃ t, exec (.accessTranslate o.id none) s = .next t ∧ StandsAt t o (.performed 0) ∧
        coherentRead t ppa n = x % 2 ^ (8 * n)) ∧
    (∀ code x y dst attr scope rm uni, o.kind = .atom ea code x y dst attr scope rm uni → n = atomSize code →
      (∀ l, s.launch? o.lid = some l → l.rangeAt ea n = none) →
      let s2 := beforeRead s1 g.core scope (rmAcq rm)
      (ownerOf s2 (lineOf ppa) = none ∨ ownerOf s2 (lineOf ppa) = some g.die) →
      let old := coherentRead s2 ppa n
      ∃ t, exec (.accessTranslate o.id none) s = .next t ∧ StandsAt t o (.performed old) ∧
        coherentRead t ppa n = atomNew code old x y % 2 ^ (8 * n)) ∧
    (∀ dst attr scope acq uni, o.kind = .load ea n dst attr scope acq uni none →
      ((s.launch? o.lid).any fun l => l.isDet) = false →
      (∀ c < 128, ∀ p ∈ (s1.core c).parts, p.lid = o.lid → lineOf p.ppa ≠ lineOf ppa) →
      let s2 := beforeRead s1 g.core scope acq
      lineOf ppa ∉ (s2.die g.die).invs →
      (aget? (lineOf ppa) (s2.core g.core).l1 = none ∨ 4 ≤ scope ∨ bitOf attr 8 = true) →
      ∃ t, exec (.accessTranslate o.id none) s = .next t ∧
        StandsAt t o (.performed (dieLine s2 g.die (lineOf ppa) / 2 ^ (8 * (ppa % 128)) % 2 ^ (8 * n))))) ∧
  (∀ die page e, page ∈ (s.die die).walks → bufOf s page.ctx page.buf = some e → walkBusy s die e (pageBase e page.page) = false →
    ((s.ops.filter fun p => p.joins die page) = [o] → opPage s o = some page → o.kind.bytes = some (ea, n) →
      (∀ c, walkFault s die e (pageBase e page.page) = some c →
        ∃ t, exec (.pageWalkComplete die page) s = .next t ∧ StandsAt t o (.failed c ea (o.info o.kind.info))) ∧
      (walkFault s die e (pageBase e page.page) = none → walk s e (pageBase e page.page) = none →
        ∃ t, exec (.pageWalkComplete die page) s = .next t ∧ StandsAt t o (.failed 0x48 ea (o.info o.kind.info)))) ∧
    ∀ leaf, walkFault s die e (pageBase e page.page) = none → walk s e (pageBase e page.page) = some leaf →
      leafBad e leaf = false → dieUp s die = true → (∀ p ∈ s.ops, p.joins die page = false) →
      ∃ t, exec (.pageWalkComplete die page) s = .next t ∧ aget? page (t.die die).tlb = some leaf ∧
        (t.die die).walks = (s.die die).walks.filter (· ≠ page) ∧ t.ops = s.ops) ∧
  (∀ d ppa code x y dst attr scope rm uni, o.phase = .forwarded d ppa → o.kind = .atom ea code x y dst attr scope rm uni →
    lineFault s (lineOf ppa) = none → linkDown s g.die = false → linkDown s d = false → d < 4 → o.slot < 2048 →
    ppa % 128 + atomSize code ≤ 128 → MemoriesCanonical s →
    let s1 := beforeRead s g.core scope (rmAcq rm)
    let unit := if heldAs s1 (lineOf ppa) d = some .m ∨ heldAs s1 (lineOf ppa) d = some .o then d else g.die
    portBusy s1 unit ppa .write = false → fillBusy s1 unit (lineOf ppa) = false →
    let old := coherentRead s1 ppa (atomSize code)
    ∃ t, exec (.forwardedAtomic o.id) s = .next t ∧ StandsAt t o (.performed old) ∧
      coherentRead t ppa (atomSize code) = atomNew code old x y % 2 ^ (8 * atomSize code)) ∧
  (∀ e, o.translatable s = true → o.kind.bytes = some (ea, n) → isWin ea = false → ¬registers o.kind →
    bufOf s g.ctx (eaIdx ea) = some e → bufPeer e = true → (∀ u, o.phase ≠ .peer u) → (∀ m, o.kind ≠ .clean ea 0 m) →
    peerPath s g.die = none → peerHeld s = false →
    let span := peerSpan s o e ea n
    ∃ t, exec (.accessTranslate o.id none) s = .next t ∧ StandsAt t o (.peer s.ref) ∧ t.outbox = s.outbox ++
      [{ kind := 7, dest := bufPkg e, body := peerWord (peerReq s g.ctx (bufRidx e) span.1 span.2 o.kind.peerAct) }]) ∧
  (∀ u, o.translatable s = true → o.kind.bytes = some (ea, n) → ¬registers o.kind → o.phase = .peer u →
    peerPath s g.die = none → peerHeld s = false →
    ∃ t, exec (.accessTranslate o.id (some .refused)) s = .next t ∧ StandsAt t o (.failed 0x52 ea (o.info o.kind.info)) ∧
      t.outbox = s.outbox) ∧
  (∀ since, o.phase = .held since → o.kind.bytes = some (ea, n) → ¬registers o.kind → since + s.holdLimit < s.ref →
    stillHeld s o = true →
    ∃ t, exec (.holdLimitExpiry o.id) s = .next t ∧ StandsAt t o (.failed 0x4A ea (o.info o.kind.info)) ∧
      t.dram = s.dram) ∧
  (∀ since, s.input = .peerTimeout o.id → o.phase = .peer since → o.kind.bytes = some (ea, n) → since + s.peerTimeout < s.ref →
    peerHeld s = false →
    ∃ t, exec .peerTimeout s = .next t ∧ StandsAt t o (.failed 0x51 ea (o.info o.kind.info)) ∧ t.dram = s.dram)

/-- 01 R31, 07 R164, 09 R217: the oldest operation of its class retires when it is complete: a load's value reaches its
register and its counter falls; a store's counter falls; a failed one's counter falls and its deferred cause becomes pending.
-/
def Obligations.OperationsRetireInOrder : Prop := ∀ (s : State) (o : Op) (p : Party) (k : Nat) (c : Cls), OldestOf s o p k c →
  let u := p.thread k
  (∀ r w x, o.phase = .performed x → o.kind.result = some (r, w) → u.exited = false →
    ∃ t, exec (.loadComplete o.id) s = .next t ∧ Retired t o (p.write r w x) k ((u.write r w x).uncount c) ∧ t.dram = s.dram) ∧
  (∀ x, o.phase = .performed x → o.kind.result = none →
    ∃ t, exec (.storeAck o.id) s = .next t ∧ Retired t o p k (u.uncount c) ∧ t.dram = s.dram) ∧
  (o.phase = .done → ∃ t, exec (.commandRetire o.id) s = .next t ∧ Retired t o p k (u.uncount c) ∧ t.dram = s.dram) ∧
  (∀ cause ea info, o.phase = .failed cause ea info → (∀ x ∈ u.pend, x.cls ≠ c) → (s.slot o.slot).st ≠ .saving →
    ∃ t, exec (.commandRetire o.id) s = .next t ∧
      Retired t o p k { u.uncount c with
        pend := u.pend ++ [{ cls := c, cause := cause, taddr := ea, tinfo := info, op := o.id }] })

/-! ## Causes, waits and segments (09_traps.md, 06_control_wait_crosslane.md) -/

/-- 09 R216, R217, R220: at a boundary a thread in normal mode takes its oldest deferred cause, else the HALT that it holds
(the only asynchronous cause that is delivered to a thread: KILL and CTX_LOST escalate its party), at its PC. 06 R141: a
repeated read of a WAITC's last open condition completes it with the latched set in D, and its limit with bit 8 set. 09 R222,
16 R345: a party that escalates and has drained becomes FROZEN, with its hold time running. 06 R135, R136: a fetching segment
LANDs with the words of its image when its read completes, or FAILs with the faulting address, or with the address whose read
has been held past its limit (19 R387); a dropping one is ABSENT once no thread of the launch stands in it. A CFETCH that
waits for the segment then completes: the one fetch of a thread that joined the read retires when it lands or fails; a drop
that waited behind it begins where the segment landed, and leaves the segment ABSENT where the read failed; the drop that made
it DROPPING retires with it. That nothing but the spec's asynchronous causes reaches a thread (log entry 75, DESIGN CHOICE)
and the order in which conditions are evaluated (60, DEDUCED) are the model's. -/
def Obligations.CausesWaitsAndSegmentsEnd : Prop :=
  (∀ (s : State) (slot tid : Nat) (p : Party),
    s.party? slot = some p → tid < p.threads.length →
    let u := p.thread tid
    let hpc := hpcOf s p.lid
    (waitsGo s slot = true → u.handler = false → u.exited = false → hpc ≠ 0#16 →
      (∀ o ∈ s.ops, o.slot = slot → tid ∉ o.live) →
      (∀ x rest, u.pend = x :: rest → ∃ t, exec (.deliverPendingCause slot tid) s = .next t ∧
        t.party? slot = some (p.setThread tid
          { Thread.enter { u with pend := rest } hpc u.pc { cause := x.cause, taddr := x.taddr, tinfo := x.tinfo } with
            serving := some x.op })) ∧
      (∀ rest, u.pend = [] → u.async = 0x00 :: rest → ∃ t, exec (.deliverPendingCause slot tid) s = .next t ∧
        t.party? slot = some (p.setThread tid (Thread.enter { u with async := rest } hpc u.pc { cause := 0x00 })))) ∧
    (∀ d c dl npc, waitsGo s slot = true → u.deliverable = false → u.hold = some (.waitc d [c] false dl 0 npc) → c.kind = 2 → thresholdsHold u.cnt c.value = true →
      wordOf npc ≠ 0 → ∃ t, exec (.waitcReadReturn slot tid 0 none) s = .next t ∧
        t.party? slot = some ((p.takeG d .one [tid] fun _ => some 1).setThread tid ((u.write d .one 1).jump npc))) ∧
    (∀ d conds all dl latched npc, waitsGo s slot = true → u.deliverable = false → u.hold = some (.waitc d conds all (some dl) latched npc) → dl ≤ s.ref →
      (∀ c ∈ conds, c.seen = true) → wordOf npc ≠ 0 → ∃ t, exec (.waitcTimeout slot tid) s = .next t ∧
        t.party? slot = some ((p.takeG d .one [tid] fun _ => some (latched + 256)).setThread tid
          ((u.write d .one (latched + 256)).jump npc))) ∧
    (∀ e, (s.slot slot).st = .run → p.esc = some e → s.bars = [] → (∀ o ∈ s.ops, o.slot ≠ slot) →
      ∃ t, exec (.partyFrozen slot) s = .next t ∧ (t.slot slot).st = .frozen ∧ (t.slot slot).preq = false ∧
        (slot, s.ref) ∈ t.escHolds)) ∧
  (∀ (s s' : State) (core lid seg : Nat) (l : Launch), s.launch? lid = some l →
    let g := segAt s core lid seg
    let image := readBuf s l (coreAg l core) (imageEa l seg) 4096
    let waiting := segOps s core lid seg
    let joined := fun (t : State) => (waiting = [] → t.ops = s.ops) ∧
      ∀ o p k, waiting = [o] → OldestOf s o p k .cf → Retired t o p k ((p.thread k).uncount .cf)
    (∀ x, g.st = .fetching → image = .ok x s' → SameThreads s s' →
      ((∀ o ∈ waiting, o.kind.isDrop = false) → ∃ t, exec (.segmentLanded core lid seg) s = .next t ∧
        (segAt t core lid seg).st = .landed ∧ joined t ∧ t.dram = s'.dram ∧
        ∀ i < 1024, aget 0#32 i (segAt t core lid seg).image = BitVec.ofNat 32 (x / 2 ^ (32 * i))) ∧
      (∀ o, waiting = [o] → o.kind.isDrop = true → handlerSeg s lid seg = false →
        ∃ t, exec (.segmentLanded core lid seg) s = .next t ∧ (segAt t core lid seg).st = .dropping ∧ t.ops = s.ops)) ∧
    ((∃ c ea, image = .fault c ea s') ∨ (∃ ea since, image = .hold ea s' ∧ g.since = some since ∧ since + waitLimit s l.ctx ea < s.ref) →
      g.st = .fetching → SameThreads s s' →
      ((∀ o ∈ waiting, o.kind.isDrop = false) → ∃ t, exec (.segmentFetchFault core lid seg) s = .next t ∧
        (∀ c ea, image = .fault c ea s' ∨ image = .hold ea s' → (segAt t core lid seg).st = .failed ea) ∧ joined t) ∧
      (∀ o, waiting = [o] → o.kind.isDrop = true → ∃ t, exec (.segmentFetchFault core lid seg) s = .next t ∧
        (segAt t core lid seg).st = .absent ∧ joined t)) ∧
    (g.st = .dropping → segEmpty s core lid seg = true → ∃ t, exec (.segmentDropComplete core lid seg) s = .next t ∧
      (segAt t core lid seg).st = .absent ∧ (segAt t core lid seg).image = [] ∧ joined t))

/-! ## Slots (10_core.md, 16_launch_scheduling.md, 25_resilience.md) -/

/-- 10 R236, 25 R450: commands to a slot that runs: PRE is taken with its deadline and address, HALT becomes pending in every
thread that has not exited, KILL escalates the party; RELEASE empties a FROZEN slot. -/
def Obligations.SlotCommandsTakeEffect : Prop := ∀ (s : State) (slot : Nat),
  (∀ dl addr p, s.input = .slotPre slot dl addr → (s.slot slot).st = .run → s.party? slot = some p →
    ((s.launch? p.lid).any fun l => l.isDet) = false →
    ∃ t, exec .slotPre s = .next t ∧ t.slot slot = { s.slot slot with
      preq := true, heldPre := false, saveFrom := s.ref, deadline := dl % 2 ^ 16, saveAddr := addr }) ∧
  (∀ p, s.input = .slotHalt slot → (s.slot slot).st = .run → s.party? slot = some p →
    ∃ t q, exec .slotHalt s = .next t ∧ t.party? slot = some q ∧ q.threads.length = p.threads.length ∧
      ∀ u ∈ q.threads, u.exited = false → 0x00 ∈ u.async) ∧
  (∀ p, s.input = .slotKill slot → (s.slot slot).st = .run → s.party? slot = some p → p.esc = none →
    ∃ t q e, exec .slotKill s = .next t ∧ t.party? slot = some q ∧ q.esc = some e ∧ e.cause = 0xB0 ∧
      q.threads = p.threads) ∧
  (s.input = .slotRelease slot → (s.slot slot).st = .frozen → (s.slot slot).repair = false →
    ∃ t, exec .slotRelease s = .next t ∧ SlotEmptied t slot)

/-- 16 R340, R341, 01 R35, 10 R243, R244: a bind record of a FREE slot makes it LOADING; once the resident segments have
landed its party starts, every thread at the launch's entry in normal mode with counters zero. A saved party's context image
that passes its check is installed on a FREE slot, which RESTORES, its registers, bars and threads as the image has them, but
for the marks of arrivals that it takes up again; its threads start once their segments are there. What an unreadable image
gives is the model's reading (log entry 57, DEDUCED). -/
def Obligations.PartiesAreBoundAndStart : Prop := ∀ (s : State) (slot : Nat) (l : Launch) (b : Block),
  (∀ record, s.input = .bindDispatch slot l.lid record → s.launch? l.lid = some l → bindBlock s l.lid record = some b →
    bindOk s slot record 1 l b = true → record / 2 ^ 128 % 2 ^ 64 = 0 → bindPidx record ∉ b.bound → l.started = true →
    l.pending ≠ [] → ∃ t, exec .bindDispatch s = .next t ∧ (t.slot slot).st = .loading ∧
      (t.slot slot).bind = some { lid := l.lid, record := record }) ∧
  (∀ bd, (s.slot slot).bind = some bd → (s.slot slot).st = .loading → bd.record / 2 ^ 28 % 2 ^ 4 = 1 →
    s.launch? bd.lid = some l → bindBlock s bd.lid bd.record = some b → residentFailed s (coreOf slot) l = none →
    residentLanded s (coreOf slot) l = true → (s.slot slot).heldPre = false → (s.slot slot).heldHalt = false →
    (s.slot slot).heldKill = false → ∃ t, exec (.dispatchStart slot) s = .next t ∧ (t.slot slot).st = .run ∧
      t.party? slot = some (startParty l b (bindPidx bd.record))) ∧
  (∀ n, (startParty l b n).threads.length = 64 ∧ ∀ u ∈ (startParty l b n).threads,
    u.pc = BitVec.ofNat 16 l.entry ∧ u.handler = false ∧ u.exited = false ∧ u.cnt = {} ∧ u.lat = 0 ∧ u.hold = none ∧
    u.pend = [] ∧ u.draw = 0 ∧ u.v = List.replicate l.nv 0#32) ∧
  (∀ record rs ws s', s.input = .bindRestore slot l.lid record rs → s.launch? l.lid = some l →
    bindBlock s l.lid record = some b → restoreOk s slot record l b = true → (∃ e ∈ b.images, e.pidx = bindPidx record) →
    let nv := 8 * bindNv8 record
    readImage s l (plainAg (coreOf slot) l.ctx) (record / 2 ^ 128 % 2 ^ 64) nv = .good ws s' →
    let bare := fun (p : Party) => { p with threads := p.threads.map fun (u : Thread) => { u with arrivals := [], barKept := none } }
    ∃ t q, exec .bindRestore s = .next t ∧ (t.slot slot).st = .restoring ∧ (t.slot slot).cancelled = copiesOf ws nv ∧
      t.party? slot = some q ∧ bare q = bare (partyOf ws l b (bindPidx record) (coreOf slot - b.core) nv)) ∧
  (∀ p, s.party? slot = some p → (s.slot slot).st = .restoring → p.esc = none → (s.slot slot).cancelled = [] →
    (s.slot slot).heldPre = false → (s.slot slot).heldHalt = false → (s.slot slot).heldKill = false →
    (∀ g < 64, restoreNeeds s p g = true → (segAt s (coreOf slot) p.lid g).st.fetchable = true) →
    ∃ t, exec (.restoreStart slot) s = .next t ∧ (t.slot slot).st = .run ∧ t.party? slot = some p)

/-- 10 R238 to R240, 06 R153: a save begins when PREQ is set, no thread is in handler mode and no cause waits to be delivered,
ends its drain when nothing it waits for is left, where it cuts off the shadow references of its party, cancels and keeps the
copies outstanding at its deadline, and empties the slot once its image is written; a slot whose threads have all exited and
whose operations have completed is emptied. -/
def Obligations.SavesAndEndsEmptySlots : Prop := ∀ (s : State) (slot : Nat) (p : Party), s.party? slot = some p →
  ((s.slot slot).st = .run → p.esc = none → (s.slot slot).preq = true → (s.slot slot).migr = none →
    (∀ u ∈ p.threads, (u.handler = true → u.exited = true) ∧ u.deliverable = false) →
    exec (.saveBegin slot) s = .next (s.setSlot slot { s.slot slot with st := .saving, saveStep := 2 })) ∧
  ((s.slot slot).st = .saving → (s.slot slot).saveStep = 2 → (∀ o ∈ s.ops, o.slot ≠ slot) →
    exec (.saveDrained slot) s = .next (cutShadows (s.setSlot slot { s.slot slot with saveStep := 3 }) slot fun _ => true)) ∧
  (∀ o opc desc pfx ins seq lay tgts, (s.slot slot).st = .saving → (s.slot slot).saveStep = 3 → o ∈ s.ops → o.slot = slot →
    o.kind = .copy opc desc pfx ins seq lay tgts → o.phase = .running →
    (s.slot slot).saveFrom + 1024 * (s.slot slot).deadline ≤ s.ref →
    ∃ t, exec (.saveDeadlineExpiry slot) s = .next t ∧
      (∃ c ∈ (t.slot slot).cancelled, c.desc = desc ∧ c.pfx = pfx ∧ c.ins = ins ∧ c.seq = seq ∧ c.cpc = o.pc) ∧
      ∀ q ∈ t.ops, q.slot = slot → q.kind.isCopy = true → q.unsignalled = false) ∧
  (∀ l b s', s.launch? p.lid = some l → s.block? p.lid p.blin = some b → (s.slot slot).st = .saving →
    (s.slot slot).saveStep = 3 → (∀ o ∈ s.ops, o.slot ≠ slot) → (s.slot slot).repair = false →
    let ws := imageOf s slot p (s.slot slot).cancelled
    imageCheck s l (s.slot slot).saveAddr (4 * ws.length) true = none →
    writeWords (plainAg (coreOf slot) l.ctx) ws.length s (s.slot slot).saveAddr ws = .ok 0 s' → s'.slots = s.slots →
    ∃ t, exec (.saveComplete slot) s = .next t ∧ SlotEmptied t slot) ∧
  ((s.slot slot).st = .run → p.esc = none → (∀ u ∈ p.threads, u.exited = true) → (∀ o ∈ s.ops, o.slot ≠ slot) →
    (s.slot slot).repair = false → ∃ t, exec (.partySlotFree slot) s = .next t ∧ SlotEmptied t slot)

/-! ## Engines at work (11_scratchpad_copies.md, 07_memory_access.md, 12_tile_engine.md) -/

/-- 11 R268 to R273, 14 R305, 07 R176, R178: where no other copy of its core waits for a full ring, a copy's start reads its
source into packets; a packet that its portion's generation accepts is written in one step, and another is dropped and counted
as a late write; a copy, a gather or an LRLD whose work is done retires; a fault retires it with its _ELEM cause; a posted
record completes its command. That a start reads the whole source (log entry 42) and how packets group bytes (67) are the
model's (DESIGN CHOICE). -/
def Obligations.CopiesRunAndRetire : Prop := ∀ (s s' : State) (o : Op) (l : Launch), s.op? o.id = some o → s.launch? o.lid = some l →
  SameThreads s s' →
  (∀ opc d pfx ins q lay tgts, o.kind = .copy opc d pfx ins q lay tgts →
    (∀ ps, copyStalled s o = false → o.phase = .issued → o.ready s = true → (s.party? o.slot).isSome = true → cpStart s o l opc d lay tgts = .ok ps s' →
      exec (.copyStart o.id) s =
        .next (s'.setOp { o with phase := .running, work := { o.work.clear with packets := ps } })) ∧
    (∀ i p core a n x, copyStalled s o = false → o.phase = .running → o.work.packets[i]? = some p → p.fate = 0 → p.core = some core → p.parts = [(a, n, x)] →
      (packetLive s p = true → ∃ t u, exec (.copyWritePacket o.id i) s = .next t ∧
        (t.core core).scr = Memory.write (s.core core).scr a n x ∧ t.op? o.id = some u ∧
        u.work.packets = o.work.packets.set i { p with fate := 1 } ∧ u.work.moved = o.work.moved + n) ∧
      (packetLive s p = false → ∃ t u, exec (.copyWritePacket o.id i) s = .next t ∧
        (t.core core).scr = (s.core core).scr ∧ (t.core core).latew = min ((s.core core).latew + 1) (2 ^ 32 - 1) ∧
        t.op? o.id = some u ∧ u.work.packets = o.work.packets.set i { p with fate := 2 } ∧ u.work.moved = o.work.moved)) ∧
    (∀ p k, copyStalled s o = false → OldestOf s o p k .cp → cpRing d = 0 →
      (o.phase = .running → (∀ x ∈ o.work.packets, x.fate ≠ 0) → cpSig d = 0 → o.work.fail = none →
        ∃ t, exec (.copyDone o.id) s = .next t ∧ Retired t o p k ((p.thread k).uncount .cp)) ∧
      (∀ c ea r, o.phase = .failing c ea r → c < 0xA0 → CanPend s o p k .cp →
        ∃ t, exec (.copyFault o.id) s = .next t ∧ RetiredWith t o p k .cp 0x81 ea (o.info (c * 256 + r)))) ∧
    (∀ p k st c fa n r, OldestOf s o p k .cp → o.phase = .post st c fa → o.work.fail = none →
      (o.work.reserved = none → postStalled s o = false) →
      postFrom s (postAg s o) (ringOf s o) o.work.reserved fa o.work.moved o.tag st c = (r, .ok n s') →
      ∃ t, exec (.ringPost o.id) s = .next t ∧ Retired t o p k ((p.thread k).uncount .cp) ∧ t.dram = s'.dram)) ∧
  (∀ h ea r p k, o.kind = .lrld h ea → o.phase = .issued → o.ready s = true → OldestOf s o p k .cp →
    readEa s (opAg s o) ea 128 = .ok r s' → layOk l.fmtSlot r = true →
    ∃ t, exec (.lrldReadDone o.id) s = .next t ∧ Retired t o p k ((p.thread k).uncount .cp) ∧
      t.launch? o.lid = some { l with layouts := setAt none l.layouts h (some r) }) ∧
  (∀ d p k, o.kind = .gather d none → gatReady s o = true → OldestOf s o p k .gx →
    (gatExec s o = some (.done s') →
      ∃ t, exec (.gatherDone o.id) s = .next t ∧ Retired t o p k ((p.thread k).uncount .gx) ∧ t.dram = s'.dram) ∧
    (∀ c ea i, gatExec s o = some (.fault c ea i s') → c < 0xA0 → CanPend s o p k .gx →
      ∃ t, exec (.gatherFault o.id) s = .next t ∧ RetiredWith t o p k .gx 0x89 ea (o.info i)))

/-- 12 R276, R283 to R285, R290, R291, R293, R294, R296: a tile command that its queue and its charge allow is accepted in
order; at the head, where no other command of the engine waits for a full ring, a command whose operands or accumulator words
cannot be read fails with that error, and a multiply starts, each element of C at its old value or at a chunk boundary; when
it has run its C stands whole in the accumulator memory, it leaves the queue and retires, and a fault retires it with
TILE_ELEM; a shadow reference that is done leaves its core and posts the largest deviation to the telemetry ring. That
operands are read at the start is the model's (log entry 42, DESIGN CHOICE); how far an element is while the command runs (41)
and how far a cut shadow reference came (15) are free. -/
def Obligations.TileCommandsRunAndRetire : Prop := ∀ (s : State) (o : Op) (l : Launch) (opc b ea ov : Nat),
  s.op? o.id = some o → s.launch? o.lid = some l → o.kind = .tile opc b ea ov →
  let core := coreOf o.slot
  let c := s.core core
  (o.phase = .issued → tileTurn s o = true → c.tileQ.length < 4 → c.tileT.sum + tileCharge l opc b ov ≤ 4096 →
    ∃ t u, exec (.tileAccept o.id) s = .next t ∧ (t.core core).tileQ = c.tileQ ++ [o.id] ∧
      (t.core core).tileT = c.tileT ++ [tileCharge l opc b ov] ∧ t.op? o.id = some u ∧ u.phase = .queued) ∧
  (∀ m, opc ≠ 0x6F → tileStalled s o = false → o.phase = .queued → c.tileQ.head? = some o.id → o.ready s = true → o.work.count = 0 →
    tileFailure s o l opc b ov = none → mulOf? s o l opc b ov = some m →
    ∃ t u, exec (.tileStart o.id) s = .next t ∧ (t.core core).tileQ = c.tileQ ∧ t.op? o.id = some u ∧ u.phase = .running ∧
      u.work.vals = m.result s core b ∧
      (t.core core).acc = Memory.write c.acc (tbCoff b) (tbM b * tbN b * accSize (tbAcc b))
        (packBits (8 * accSize (tbAcc b)) (m.partialResult s core b))) ∧
  (∀ e a, tileFailure s o l opc b ov = some (e, a) → tileStalled s o = false → o.phase = .queued → c.tileQ.head? = some o.id →
    o.ready s = true → exec (.tileStart o.id) s = .next (s.setOp { o with phase := .failing e a 1, work := o.work.clear })) ∧
  (∀ p k, OldestOf s o p k .tl → tbRing b = 0 → c.shadows = [] →
    (opc ≠ 0x6F → tileStalled s o = false → o.phase = .running → o.work.packets = [] → tbSig b = 0 → o.work.fail = none → o.work.vals ≠ [] →
      c.tileQ.head? = some o.id →
      ∃ t, exec (.tileRunDone o.id) s = .next t ∧ Retired t o p k ((p.thread k).uncount .tl) ∧ t.dram = s.dram ∧
        (t.core core).tileQ = c.tileQ.tail ∧
        (t.core core).acc = Memory.write c.acc (tbCoff b) (tbM b * tbN b * accSize (tbAcc b))
          (packBits (8 * accSize (tbAcc b)) o.work.vals)) ∧
    (∀ e a r, o.phase = .failing e a r → e < 0xA0 → tileStalled s o = false → CanPend s o p k .tl →
      ∃ t, exec (.tileFault o.id) s = .next t ∧ RetiredWith t o p k .tl 0x83 a (o.info (e * 256 + r)))) ∧
  ∀ core x, core < 128 → x ∈ (s.core core).shadows →
    (∀ c < 128, ∀ y ∈ (s.core c).shadows, y.op = x.op → c = core ∧ y = x) →
    exec (.shadowReferenceDone x.op) s = .next (postRing
      (s.setCore core { s.core core with shadows := (s.core core).shadows.filter fun y => y.op ≠ x.op })
      core x.lid 4 (x.devs.foldl max 0) x.count x.tag 4 0)

/-! ## Geometry and bank arithmetic (17_geometry.md, 21_bank_arithmetic.md, 19_package_memory.md) -/

/-- R363, R365, R366, R368, R370: where no other command of its engine waits for a full ring, a geometry command's start works
out its cut, its fragments or its hit; its end writes them, and the command retires; a fault retires it with its _ELEM cause.
That a start reads everything is the model's (log entry 42, DESIGN CHOICE), with the corner readings of entry 69 (DEDUCED). -/
def Obligations.GeometryCommandsRunAndRetire : Prop := ∀ (s s1 s' : State) (o : Op) (l : Launch) (opc d lay : Nat),
  s.op? o.id = some o → s.launch? o.lid = some l → o.kind = .geom opc d lay → SameThreads s s' → geomStalled s o opc = false →
  let g : GeoCx := { launch := l, ag := opAg s o, version := geVersion opc d }
  (∀ w, o.phase = .issued → o.ready s = true →
    (match opc with | 0x72 => cutStart g s d | 0x73 => rastStart g s d lay | _ => rayStart g s d) = .ok w s' →
    exec (.geometryStart o.id) s = .next (s'.setOp { o with phase := .running, work := w })) ∧
  ∀ p k, OldestOf s o p k .gx → geRing opc d = 0 →
    (o.phase = .running → o.work.fail = none → geSig opc d = 0 →
      (∀ x y ps n, opc = 0x72 → geSring d = 0 → writeUnits l (opAg s o) o.work.packets s = (ps, n, .ok x s1) →
        cutHeader s1 l (opAg s o) d { o.work with packets := ps, moved := o.work.moved + n } = .ok y s' →
        ∃ t, exec (.cutselDone o.id) s = .next t ∧ Retired t o p k ((p.thread k).uncount .gx) ∧ t.dram = s'.dram) ∧
      (∀ y n, opc = 0x73 →
        pixelMins l (opAg s o) (geTbase d) ((o.work.vals.zip o.work.aux).drop o.work.next) o.work.next s = (n, .ok y s') →
        ∃ t, exec (.rastDone o.id) s = .next t ∧ Retired t o p k ((p.thread k).uncount .gx) ∧ t.dram = s'.dram) ∧
      (∀ y, opc = 0x74 → engWrite s l (opAg s o) (geHit d) 32 (o.work.vals.headD 0) = .ok y s' →
        ∃ t, exec (.rayqDone o.id) s = .next t ∧ Retired t o p k ((p.thread k).uncount .gx) ∧ t.dram = s'.dram)) ∧
    (∀ c ea r, o.phase = .failing c ea r → c < 0xA0 → opc = 0x73 → CanPend s o p k .gx →
      ∃ t, exec (.geometryFault o.id) s = .next t ∧ RetiredWith t o p k .gx 0x8D ea (o.info (c * 256 + r)))

/-- R405, R412 to R416, 19 R391: blocks queue at their port in arrival order and run one at a time; BK.MODE enters all-bank
mode below the limit and leaves it; BK.BCAST and BK.LDV load a column, as its cells hold it, into operand registers, BK.MAC
and BK.EADD accumulate with one rounding, BK.STA stores eight accumulators, BK.CLR clears, BK.SYNC only goes on; a block's end
leaves all-bank mode and retires it; a waiting activate opens its row. The physical place of a bank location is the model's
(log entry 7, DESIGN CHOICE), and only bank commands' activates are counted (46). -/
def Obligations.BankCommandsExecute : Prop := ∀ (s : State) (o : Op) (b c e : Nat),
  let key := (o.bankAt.2.1, o.bankAt.2.2, bcBank c)
  let u := s.bank key
  let column := s.rawSector (colAddr e key.1 key.2.1 key.2.2 c / 32)
  let goesOn := fun (t : State) => t.op? o.id = some o.stepBank
  (∀ ctx st pc ea, s.op? o.id = some o → o.kind = .bank b ea → bankDest s o b = some (ctx, st, pc) → o.phase = .issued →
    bankTurn s o (ctx, st, pc) = true →
    linkDown s (dieOf (coreOf o.slot)) = false → ∃ t v, exec (.bankBlockArrive o.id) s = .next t ∧
      (t.port (st, pc)).blocks = (s.port (st, pc)).blocks ++ [o.id] ∧ t.op? o.id = some v ∧ v.phase = .queued) ∧
  (∀ ea, s.op? o.id = some o → o.kind = .bank b ea → o.phase = .queued → (s.port o.portKey).blocks.head? = some o.id →
    s.out (.port o.portKey.1) = false → ∃ t, exec (.bankBlockStart o.id) s = .next t ∧ StandsAt t o .running ∧
      ((s.port o.portKey).lastCtx ≠ some o.bankAt.1 → ∀ k < 16,
        (t.bank (o.bankAt.2.1, o.bankAt.2.2, k)).ba = List.replicate 32 0#32 ∧ (t.bank (o.bankAt.2.1, o.bankAt.2.2, k)).bv0 = 0)) ∧
  (nextBankCmd s o.id 0 = some (o, b, c) → ∃ t, exec (.bkMode o.id) s = .next t ∧
    (bcEnter c = false → (t.port o.portKey).allBank = false ∧ goesOn t) ∧
    (bcEnter c = true → allBankCount s < s.allBankLimit → (t.port o.portKey).allBank = true ∧ goesOn t)) ∧
  (∀ ea, s.op? o.id = some o → o.kind = .bank b ea → o.phase = .running → o.work.flag = true → allBankCount s < s.allBankLimit →
    s.out (.port o.portKey.1) = false →
    ∃ t, exec (.allBankAdmit o.id) s = .next t ∧ (t.port o.portKey).allBank = true ∧ goesOn t) ∧
  (BankReady s o 1 b c e → ∃ t, exec (.bkBcast o.id) s = .next t ∧ goesOn t ∧ t.dram = s.dram ∧
    ∀ k < 2 ^ bufBkLog e, getBv (t.bank (key.1, key.2.1, k)) (bcOpr c) = column) ∧
  (BankReady s o 2 b c e → ∃ t, exec (.bkLdv o.id) s = .next t ∧ goesOn t ∧ t.dram = s.dram ∧
    getBv (t.bank key) (bcOpr c) = column ∧ (t.bank key).ba = u.ba) ∧
  (BankReady s o 3 b c e → ∃ t, exec (.bkMac o.id) s = .next t ∧ goesOn t ∧ t.dram = s.dram ∧
    (t.bank key).ba = u.ba.set (bcAcc c) (BitVec.ofNat 32 (floatChunk .f32 (baOf u (bcAcc c)) ((List.range 16).map fun i =>
      mulVals (laneVal (bcFmt c) column i) (laneVal (bcFmt c) (getBv u (bcOpr c)) i))))) ∧
  (BankReady s o 4 b c e → bcAcc c + 16 ≤ u.ba.length → ∃ t, exec (.bkEadd o.id) s = .next t ∧ goesOn t ∧ t.dram = s.dram ∧
    ∀ i < 16, (t.bank key).ba[bcAcc c + i]? =
      some (BitVec.ofNat 32 (floatChunk .f32 (baOf u (bcAcc c + i)) [laneVal (bcFmt c) column i]))) ∧
  (BankReady s o 5 b c e → ∃ t, exec (.bkSta o.id) s = .next t ∧ goesOn t ∧ t.bank key = { u with queue := [] } ∧
    t.dram = Memory.write s.dram (colAddr e key.1 key.2.1 key.2.2 c) 32
      (packBits 32 ((List.range 8).map fun i => baOf u (bcAcc c + i)))) ∧
  (nextBankCmd s o.id 6 = some (o, b, c) → bcAll c = false → ∃ t, exec (.bkClr o.id) s = .next t ∧ goesOn t ∧ t.dram = s.dram ∧
    (t.bank key).ba = mapI (fun i w => if bitOf (bcAclr c) i then 0#32 else w) 0 u.ba ∧
    (t.bank key).bv0 = (if bitOf (bcBvclr c) 0 then 0 else u.bv0) ∧ (t.bank key).bv1 = (if bitOf (bcBvclr c) 1 then 0 else u.bv1)) ∧
  (nextBankCmd s o.id 7 = some (o, b, c) → exec (.bkSync o.id) s = .next (s.setOp o.stepBank)) ∧
  (∀ ea p k, OldestOf s o p k .bk → o.kind = .bank b ea → o.phase = .running → bkN b ≤ o.work.next →
    s.out (.port o.portKey.1) = false →
    ∃ t, exec (.bankBlockDone o.id) s = .next t ∧ Retired t o p k ((p.thread k).uncount .bk) ∧
      (t.port o.portKey).allBank = false ∧ o.id ∉ (t.port o.portKey).blocks) ∧
  (∀ st pc bank row rest, (s.stack st).waiting = (pc, bank, row) :: rest →
    ((s.stack st).admitted.filter fun x => s.ref < x + (s.stack st).twin).length < (s.stack st).actmax →
    ∃ t, exec (.activateAdmit st) s = .next t ∧ (t.stack st).waiting = rest ∧ (t.bank (st, pc, bank)).row = some row ∧
      s.ref ∈ (t.stack st).admitted ∧ t.dram = s.dram)

/-! ## Collectives and coherence (28_fabric.md, 15_die_memory.md) -/

/-- 28 R483, R486: a collective whose ranks have all issued, and whose inputs are read, moves, where the messages of the other
ranks are under way to it; a halo segment that lands is counted; when its writes and acknowledgements are done it retires; its
limit, or a fault it has met, retires it with COLL_ELEM. Corner readings are those of log entry 71 (DEDUCED); outside
deterministic mode the order of combination is free (14). -/
def Obligations.CollectivesMoveAndRetire : Prop := ∀ (s s' : State) (o : Op) (l : Launch) (d g seg start : Nat),
  s.op? o.id = some o → s.launch? o.lid = some l → o.kind = .coll d g seg start → SameThreads s s' →
  let c : CollCmd := { op := o, desc := d, group := g, segs := segsOf d seg, start := start }
  (∀ peers ds, collHere s c = [c] → collAll s c peers = true → collHeard s c = true → collMismatch [c] peers = false →
    collReads [c] s = .ok ([.ok ds], s') →
    ∃ t u, exec (.collMatched o.id peers) s = .next t ∧ t.op? o.id = some u ∧ u.phase = .running ∧ u.work.begun = s'.ref) ∧
  (∀ i segment dst n x y p, o.phase = .running → coKind d = 0 → o.work.packets.findIdx? (fun p => p.tgt == segment) = some i →
    o.work.packets[i]? = some p → p.fate = 0 → p.gen = none → p.parts = [(dst, n, x)] → collHeard s c = true →
    engWrite s l (opAg s o) dst n x = .ok y s' →
    ∃ t u, exec (.haloReceive o.id segment 0) s = .next t ∧ t.dram = s'.dram ∧ t.op? o.id = some u ∧
      u.work.packets = o.work.packets.set i { p with fate := 1 } ∧ u.work.moved = o.work.moved + n) ∧
  ∀ p k, OldestOf s o p k .cp → coRing d = 0 → collStalled s o = false →
    (o.phase = .running → coKind d = 0 → (∀ x ∈ o.work.packets, x.fate = 1) → o.work.flag = false →
      o.work.next ≤ o.work.count → (∀ i ∈ o.work.aux, i ∈ s.acks) → coSig d = 0 → o.work.fail = none →
      ∃ t, exec (.collDone o.id) s = .next t ∧ Retired t o p k ((p.thread k).uncount .cp) ∧ t.dram = s.dram) ∧
    (CanPend s o p k .cp →
      (coTmo d ≠ 0 → start + 1024 * coTmo d ≤ s.ref → (o.phase = .issued ∨ o.phase = .running) →
        ∃ t, exec (.collTimeout o.id) s = .next t ∧ RetiredWith t o p k .cp 0x87 0 (o.info 4)) ∧
      (∀ e a r, o.phase = .failing e a r → e < 0xA0 →
        ∃ t, exec (.collFault o.id) s = .next t ∧ RetiredWith t o p k .cp 0x87 a (o.info (e * 256 + r))))

/-- 15 R316, R318, R319, R321, R329: a snoop for a read leaves a modified copy owned and an exclusive one shared; a snoop for
ownership, the eviction of a line that no mark keeps in its slice, and the back-invalidation of the oldest line of a directory
slice without room leave no copy, and where the copy was the only one no byte of the line is lost; the invalidations of a
directory slice are applied in order; a combined line leaves no partial. That the data of a snoop for ownership, taken as an
event of its own, goes to memory is the model's (log entry 8, DESIGN CHOICE). -/
def Obligations.CoherenceKeepsTheLine : Prop := ∀ (s : State) (die line : Nat) (l : L2Line),
  (dieUp s die = true → holds s line die = true → s.l2? die line = some l →
    ∃ t, exec (.snoopForRead die line) s = .next t ∧ t.dram = s.dram ∧ (t.l2? die line) = some { l with
      st := match l.st with | .m => .o | .e => .s | .o => .o | .s => .s }) ∧
  (die < 4 → holds s line die = true → s.l2? die line = some l → inAllBank s (128 * line) = false →
    (∀ d, d ≠ die → s.l2? d line = none) → Memory.wf s.dram = true →
    let leaves := fun i => ∃ t, exec i s = .next t ∧ t.l2? die line = none ∧ coherentLine t line = coherentLine s line
    ((l.st = .m ∨ l.st = .o) → dieUp s die = true → leaves (.snoopForOwnership die line)) ∧
    ((l.st = .m ∨ l.st = .o) → l2Prefers s die line = true → leaves (.l2Eviction die line)) ∧
    ((l.st = .m ∨ l.st = .o) → s.dirRoom ≤ (sliceLines s (dirSlice line)).length →
      (sliceLines s (dirSlice line)).head? = some line → leaves (.directoryBackInvalidate line))) ∧
  (∀ before rest, s.input = .invalidationFrom (dirSlice line) → (s.die die).invs = before ++ line :: rest → (∀ x ∈ before, dirSlice x ≠ dirSlice line) → dieUp s die = true →
    ∃ t, exec (.invalidationApply die) s = .next t ∧ t.l2? die line = none ∧
      (t.die die).invs = before ++ rest ∧ t.dram = s.dram) ∧
  ∀ lid e la, s.input = .combineLine lid e line → s.launch? lid = some la → (la.rangeEntry e).live = true →
    line ∈ rangeLines s lid (la.rangeEntry e) → combineBusy s lid line = false →
    ∃ t, exec .combineLine s = .next t ∧ ∀ k < 128, ∀ p ∈ (t.core k).parts, ¬(p.lid = lid ∧ lineOf p.ppa = line)

/-! ## Launches (16_launch_scheduling.md, 14_cluster.md, 24_determinism.md, 28_fabric.md) -/

/-- 16 R332, R333, R335, R336: the record at the head of a queue that is not empty is validated: accepted, it is the youngest
launch and status 8 is reported; refused, the code of its first failing check is reported with status 9; a faulting dependence
word is not held, and one that holds is marked. That the rings are captured at acceptance is the model's reading (log entry
54, DEDUCED). -/
def Obligations.LaunchRecordsAreValidated : Prop := ∀ (s s1 s2 : State),
  (∀ k rs q x record, s.input = .launchRecordValidate k rs → aget? k s.queues = some q → bindUp s q.die = true → linkDown s q.die = false →
    readEa (acquire s (bindCore q.die) 8) (queueAg q) q.base 24 = .ok x s1 →
    let head := x / 2 ^ 64 % 2 ^ 64
    x % 2 ^ 64 ≠ head →
    readEa s1 (queueAg q) (eaAdd q.base (64 + 256 * (head % 2 ^ (x / 2 ^ 128 % 2 ^ 4)) : Nat)) 256 = .ok record s2 →
    let l := headLaunch s k q head record
    let pmax := x / 2 ^ 132 % 2 ^ 3
    (∀ c y t u, validate s2 l pmax = .error (c, u) → c ≠ 0 → c ≠ 256 → takeRecord s2 k q head l.lid = .ok y t →
      exec .launchRecordValidate s = .next (refreshEligible (reportLaunch t l 9 c))) ∧
    (∀ m s3 y t, validate s2 l pmax = .ok (m, s3) → takeRecord s3 k q head l.lid = .ok y t →
      exec .launchRecordValidate s = .next (refreshEligible (reportLaunch { t with launches := t.launches ++ [m] } m 8 0)))) ∧
  (∀ (l : Launch) (pmax : Nat), (recBad l pmax = true → validate s l pmax = .error (1, s)) ∧
    ∀ m t, validate s l pmax = .ok (m, t) →
      m.record = l.record ∧ m.lid = l.lid ∧ m.eligible = l.eligible ∧ m.pending = List.range l.nclusters ∧
      m.held = List.replicate l.ndep false ∧ m.args.length = 32 ∧ 0 < m.rings.getD 0 0 ∧ m.prio ≤ pmax) ∧
  (∀ l i rs, s.input = .dependenceRead l.lid i rs → s.launch? l.lid = some l → i < l.ndep → l.eligible = false →
    l.held.getD i true = false → bindUp s l.die = true →
    (∀ w, readEa (acquire s (bindCore l.die) 8) (homeAg l) (l.depAddr i) 8 = .ok w s1 →
      exec .dependenceRead s = .next (if ((w : Int) - l.depVal i) % 2 ^ 64 < 2 ^ 63
        then refreshEligible (s1.setLaunch { l with held := l.held.set i true }) else s1)) ∧
    ∀ c ea, readEa (acquire s (bindCore l.die) 8) (homeAg l) (l.depAddr i) 8 = .fault c ea s1 →
      exec .dependenceRead s = .next s)

/-- 16 R338, R339, 14 R306: a pass serves the launch that holds the die's reservation and no other, and without a candidate
changes nothing (where a deterministic launch's reservation words cannot be read now, what was asked of peers and copies for
it stays under way); a cluster is placed whole on one die, each block on an aligned group of cores of its own; a launch whose
placement has failed at priority 7 for the interval takes the reservation. Which fitting group and base a block gets is the
model's (log entry 19, DESIGN CHOICE). -/
def Obligations.ClustersArePlaced : Prop := ∀ (s : State) (die : Nat),
  (∀ rs, s.input = .schedulerPass die rs → die < 4 → (s.die die).cond = .running → (s.die die).stopped = false → bindUp s die = true →
    (∃ t, exec .schedulerPass s = .next t) ∧
    (∀ l, (s.die die).reserve = some l.lid → s.launch? l.lid = some l → l.killed = false → l.pending ≠ [] →
      (place? s die l = none → (∀ t, startDet s l ≠ .error t) → exec .schedulerPass s = .next s) ∧
      (∀ t, startDet s l = .error t → exec .schedulerPass s = .next (s.keepHold t)) ∧
      ∀ t, place? s die l = some t → exec .schedulerPass s = .next t) ∧
    ((s.die die).reserve = none → (∀ l ∈ s.launches, candidate s die l = false) → exec .schedulerPass s = .next s)) ∧
  (∀ l c t, placeCluster s l die c = some t → l.dieOk die = true ∧ ∃ bs, t.blocks = s.blocks ++ bs ∧ bs.length = l.clSize ∧
    ∀ b ∈ bs, b.lid = l.lid ∧ b.clin = c ∧ b.core / 32 = die ∧ b.core % l.cores = 0 ∧ b.map.length = l.cores ∧
      b.ended = false ∧ b.bound = []) ∧
  (∀ l t0, s.input = .reservationIntervalExpiry die l.lid → s.launch? l.lid = some l → candidate s die l = true →
    7 ≤ l.prio + (s.ref - aget l.since die l.placedAt) / max 1 s.age → aget? die l.failing = some t0 →
    t0 + s.resInterval ≤ s.ref → (s.die die).reserve = none →
    exec .reservationIntervalExpiry s = .next (s.setDie die { s.die die with reserve := some l.lid }))

/-- 16 R345 to R347, 14 R311, 28 R473: a slot frozen for its hold time is released; a launch whose blocks have ended and that
has no barrier and no signal is torn down, and nothing of it is left; a pod group forms with its members; a saved block moves
to another group of cores of its die; a launch that has not become eligible is killed at once. -/
def Obligations.LaunchesEnd : Prop := ∀ (s : State) (l : Launch), s.launch? l.lid = some l → l.lid < 2 ^ 64 →
  (∀ slot since, s.input = .escalatedHoldExpiry slot → aget? slot s.escHolds = some since → since + s.escHold ≤ s.ref →
    (s.slot slot).st = .frozen → (s.slot slot).repair = false →
    ∃ t, exec .escalatedHoldExpiry s = .next t ∧ SlotEmptied t slot) ∧
  (∀ rs, s.input = .launchTeardown l.lid rs → tornDown s l = true → l.tbars = [] → l.csig = 0 →
    ∃ t, exec .launchTeardown s = .next t ∧ (∀ m ∈ t.launches, m.lid ≠ l.lid) ∧ (∀ b ∈ t.blocks, b.lid ≠ l.lid) ∧
      (∀ o ∈ t.ops, o.lid ≠ l.lid)) ∧
  (∀ ms, s.input = .podGroupForm l.lid ms → l.pgn ≠ 0 → l.group = none → l.eligible = true → l.pending = [] → l.killed = false →
    (ms.map (·.1)).length = l.pgn → (ms.map (·.1)).eraseDups = ms.map (·.1) → (s.pkg, 64 * l.ppb * l.nblocks) ∈ ms →
    exec .podGroupForm s = .next (s.setLaunch { l with group := some ms })) ∧
  (∀ b core0, s.input = .blockMove l.lid b.blin core0 → s.block? l.lid b.blin = some b → blockSaved s l b = true →
    moveFits s l b core0 = true →
    ∃ t m, exec .blockMove s = .next t ∧ t.block? l.lid b.blin = some { b with core := core0, map := m } ∧ m.length = l.cores ∧
      t.slots = s.slots ∧ t.dram = s.dram) ∧
  (s.input = .managementKillLaunch l.lid → s.out .monument = false →
    (l.eligible = true → exec .managementKillLaunch s = .next (refreshEligible (killParties (stopLaunch s { l with killed := true }) l.lid))) ∧
    (l.eligible = false → exec .managementKillLaunch s = .next
      (refreshEligible (reportLaunch { s with launches := s.launches.filter (fun m => m.lid ≠ l.lid) } l 14 0xB0))))

/-- 24 R428, R430, R432, R434, R435: at a closure point the epoch's operations join the block view in the order of their keys,
a store as it is and an atomic as the value that it leaves; the cluster of least traverse index retires, each of its blocks
with every operation once, and, where it has atomics only, those that share a byte in the order of their keys; a full write
buffer kills the launch and discards what has not retired. Merges are shown at the ends of blocks, where no thread waits. The
64 bytes of a buffered operation (log entry 20, DESIGN CHOICE), what becomes of faulting operations (22, DEDUCED) and the
order of operations that overlap in part (105, DEDUCED) are the model's. -/
def Obligations.DeterministicClustersMergeAndRetire : Prop :=
  (∀ os : List WbOp, (sortWb os).Perm os ∧ (sortWb os).Pairwise fun a b => a.le b = true) ∧
  (∀ os : List WbOp, (retireOrder os).Perm os ∧
    ((∀ o ∈ os, o.code.isSome = true) →
      (retireOrder os).Pairwise fun a b => overlap a.ea a.size b.ea b.size = true → a.le b = true)) ∧
  (∀ (l : Launch) (cs : List Nat), (cs = [] → firstTraverse l cs = none) ∧
    ∀ c, firstTraverse l cs = some c → c ∈ cs ∧ ∀ d ∈ cs, l.traverse c ≤ l.traverse d) ∧
  ∀ (s u : State) (l : Launch), s.launch? l.lid = some l →
    (∀ b scope idx phase seq rest replies, s.input = .closureMerge l.lid b.blin replies → b.saved = none → s.block? l.lid b.blin = some b → b.lid = l.lid →
      b.merges = (scope, idx, phase, seq) :: rest → (∀ o ∈ b.wbuf, o.resv = none) → scope = 0 →
      let now := fun (o : WbOp) => decide (o.seq < seq) && !o.past.contains (scope, idx, phase)
      let b1 := { b with wbuf := b.wbuf.filter (fun o => !now o), log := b.log ++ sortWb (b.wbuf.filter now), merges := rest }
      ((∀ o ∈ b.wbuf, o.code = none) → ∃ t, exec .closureMerge s = .next t ∧ t.dram = s.dram ∧ t.slots = s.slots ∧
        t.block? l.lid b.blin = some { b1 with view := b.view ++ sortWb (b.wbuf.filter now) }) ∧
      (∀ o c v, b.wbuf.filter now = [o] → o.code = some c → readEa (s.setBlock b1) (blockAg l b1) o.ea o.size = .ok v u →
        u.blocks = (s.setBlock b1).blocks → ∃ t, exec .closureMerge s = .next t ∧ t.slots = u.slots ∧
          t.block? l.lid b.blin = some { b1 with view := b.view ++ [{ o with code := none, x := atomNew c v o.x o.y }] })) ∧
    (∀ c, s.input = .clusterRetire l.lid → l.isDet = true → l.aborted = false → firstTraverse l (unretired s l) = some c →
      clusterDone s l c = true → (byRank (clusterBlocks s l.lid c)).foldl (fun s b => s.bind (retireBlock l b)) (some s) = some u →
      u.launches = s.launches →
      ∃ t, exec .clusterRetire s = .next t ∧ t.dram = u.dram ∧ t.launch? l.lid = some { l with retired := l.retired ++ [c] } ∧
        ∀ b ∈ t.blocks, b.lid = l.lid → b.clin = c → b.view = [] ∧ b.log = []) ∧
    (∀ b, s.input = .writeBufferFull l.lid b.blin → s.block? l.lid b.blin = some b → l.isDet = true → l.aborted = false →
      b.ended = false → l.det / 2 ^ 80 % 2 ^ 16 * 65536 ≤ 64 * (b.wbuf.length + b.log.length + 1) →
      ∃ t, exec .writeBufferFull s = .next (killParties t l.lid) ∧ t.slots = s.slots ∧ t.dram = s.dram ∧
        t.launch? l.lid = some { l with aborted := true, firstCause := some 0xB0, pending := [], failing := [] } ∧
        ∀ b ∈ t.blocks, b.lid = l.lid → b.wbuf = [] ∧ b.view = [] ∧ b.log = [])

/-! ## Errors and pages (25_resilience.md, 19_package_memory.md, 20_versioned_memory.md, 00_scope.md) -/

/-- 25 R442 to R449: a corrected error counts in its unit's window and in its core's register, and the event that reaches the
threshold takes the unit's action: a row goes to a spare, a free slot is DISABLED, at once or, where a MIGR has reserved it,
when it is next free. An uncorrectable error of a row damages its line and takes the action at once; the action is reported in
the next tick. A lane's retraining ends; an entry of an earlier tick moves to the log while it has room. 00 R8: a management
register takes a value within its range and no other. How many entries an event makes (log entry 33) and that a value out of
range is not taken (38) are the model's readings (DEDUCED); UNIT (24) and that a slot which is SAVING takes no save address
(113) are its choices (DESIGN CHOICE). -/
def Obligations.ErrorsAreCountedAndActedOn : Prop := ∀ (s : State) (u : ErrUnit) (addr : Nat) (spare : Bool),
  (s.input = .correctedError u addr spare → unitOk u = true → s.booted = true →
    let n := fun k => 1 + ((aget [] u s.events).filter fun t => decide (s.ref < t + s.windows.getD k 0)).length
    (∃ t, exec .correctedError s = .next t) ∧
    (∀ c w, s.staging.length < 15 → u = .sramWord c w → ∃ t, exec .correctedError s = .next t ∧
      (t.core c).sramce = min ((s.core c).sramce + 1) (2 ^ 32 - 1) ∧
      (t.core c).disable = if n 3 = s.thresholds.getD 3 0 then (s.core c).disable || !spare else (s.core c).disable) ∧
    (∀ k, s.staging.length < 15 → u = .regSlot k → (s.slot k).st = .free → ∃ t, exec .correctedError s = .next t ∧
      (t.core (k / 16)).regfce = min ((s.core (k / 16)).regfce + 1) (2 ^ 32 - 1) ∧
      if n 2 = s.thresholds.getD 2 0 ∧ (s.slot k).reserved = false then (t.slot k).st = .disabled
      else (t.slot k).st = .free ∧ (n 2 = s.thresholds.getD 2 0 → (t.slot k).repair = true)) ∧
    (∀ stack pc bank row, s.staging.length < 15 → u = .row stack pc bank row →
      ((s.stack stack).spared.filter fun r => r.1 == pc && r.2.1 == bank).length < 32 →
      ∃ t, exec .correctedError s = .next t ∧ if n 0 = s.thresholds.getD 0 0 then
        (t.stack stack).spared = (s.stack stack).spared ++ [(pc, bank, row)] ∧
          t.due = s.due ++ [mkReport (64 * stack + pc) 3 1 1 addr (bank * 49152 + row)]
      else (t.stack stack).spared = (s.stack stack).spared ∧ t.due = s.due)) ∧
  (∀ stack pc bank row, s.input = .uncorrectableError u addr spare .nothing → u = .row stack pc bank row → unitOk u = true →
    s.booted = true → s.migrations = [] → s.staging.length < 15 →
    ((s.stack stack).spared.filter fun r => r.1 == pc && r.2.1 == bank).length < 32 →
    ∃ t, exec .uncorrectableError s = .next t ∧ addr / 128 ∈ t.damaged ∧
      (t.stack stack).spared = (s.stack stack).spared ++ [(pc, bank, row)]) ∧
  (∀ c, s.input = .laneRetrainDone c → (aget {} c s.lanes).retraining = true →
    ∃ t, exec .laneRetrainDone s = .next t ∧ aget {} c t.lanes = { aget {} c s.lanes with retraining := false }) ∧
  (∀ r rest, queuedReports s = r :: rest → s.booted = true → s.out .monument = false → (r.early = true ∨ r.time ≠ s.ref) →
    ((coherentRead s s.logAddr 8 : Int) - coherentRead s (s.logAddr + 8) 8) % 2 ^ 64 < 2 ^ s.logN →
    inAllBank s s.logAddr = false →
    inAllBank s (s.logAddr + 64 + 32 * (coherentRead s s.logAddr 8 % 2 ^ s.logN)) = false →
    ∃ t, exec .errorLogMove s = .next t ∧ t.staging = rest ∧ t.reportSeq = s.reportSeq) ∧
  (∀ r v, s.input = .registerWrite r v → managed s = true →
    (∃ t, exec .registerWrite s = .next t) ∧
    (∀ k, r = .threshold k → exec .registerWrite s =
      .next (if 1 ≤ v ∧ v ≤ 255 then { s with thresholds := s.thresholds.set k v } else s)) ∧
    (r = .quiesceDeadline → exec .registerWrite s = .next (if 1 ≤ v ∧ v ≤ 65535 then { s with qdl := 1000 * v } else s)) ∧
    (∀ k, r = .saveAddr k → k < 2048 → exec .registerWrite s = .next (if (s.slot k).st = .saving then s
      else s.setSlot k { s.slot k with saveAddr := v % 2 ^ 64 })) ∧
    (∀ k, r = .slotStatus k ∨ r = .errorRegs k → exec .registerWrite s = .next s))

/-- 19 R388, 20 R396 to R398, 25 R446: the steps of a page's migration, of copy on write, of quarantine and of restoration. A
migration begins with STATE 2 written, its shootdown done and its frame taken from the pool; once no operation on the page is
under way no L2 keeps a line of the old frame; then the page is copied, the entry names the new frame with its earlier STATE,
the old frame is freed and what was held is translated again. Each step waits for the ports of the entry's table. An error of
the page on the way restores the entry. Copy on write keeps the old frame as history under its old VER; a history frame that
no kept plat uses is freed. A quarantined page has STATE 3; a restored one has no lost line and its earlier STATE, which is
reported. A page that is copied has the same bytes in its new frame. Which frames return to a pool (log entry 40), the place
of history slots of 2 MiB pages (52), that lines which cannot be read stay so in a copy (64), what encrypted memory reads as
under another key or tweak (11) and the log entry of a restored page (95) are the model's (DEDUCED, DEDUCED, DESIGN CHOICE,
DEDUCED, DESIGN CHOICE). -/
def Obligations.PagesMoveAndAreCopied : Prop := ∀ (s : State) (page : PageKey) (e : Nat),
  bufOf s page.ctx page.buf = some e →
  let x := pageBase e page.page
  (∀ leaf home frame, s.input = .migrationBegin page home frame → walk s e x = some leaf → leafBad e leaf = false →
    bufPeer e = false → s.booted = true → s.out .monument = false → leafHeld s e x = false → bufIlv e ≠ 2 → leafState leaf ≤ 1 →
    s.migration? page = none → page ∉ s.cows → frameGood s e home frame = true →
    ∃ t, exec .migrationBegin s = .next t ∧ EntryBecomes s t e page (withState leaf 2) ∧
      (∀ f, f ∈ poolOf t home ↔ f ∈ poolOf s home ∧ ¬(frame ≤ f ∧ f < frame + pageUnits e)) ∧ t.migrations =
        s.migrations ++ [{ page := page, old := leaf, home := home, frame := frame, step := 1 }]) ∧
  (∀ m, s.migration? page = some m → s.input = .migrationDrained page → m.step = 1 → pageBusy s e m.old = false →
    frameBusy s e m.old = false → leafHeld s e x = false → (pageDamaged s e m.old page = false → ∃ t, exec .migrationDrained s = .next t ∧
      t.migrations = (s.migrations.map fun n => if n.page = page then { n with step := 2 } else n) ∧
      ∀ d < 4, ∀ line, lineIn (frameBytes e m.old).1 (frameBytes e m.old).2 line = true → t.l2? d line = none) ∧
    (pageDamaged s e m.old page = true → ∃ t, exec .migrationDrained s = .next (replayHeld t page) ∧
      EntryBecomes s t e page m.old ∧ t.migration? page = none)) ∧
  (∀ m, s.migration? page = some m → s.input = .migrationCopyDone page → m.step = 2 → frameBusy s e m.old = false →
    let new := moveLeaf m.old m.home m.frame
    frameBusy s e new = false → leafHeld s e x = false → (pageDamaged s e m.old page = false → ∃ t, exec .migrationCopyDone s = .next (replayHeld t page) ∧
      EntryBecomes (rebasePartials (copyFrame s e m.old new) e m.old new) t e page new ∧
      t.migration? page = none ∧ ∀ i < pageUnits e, wornUnit s (leafHome m.old) (leafFrame m.old + i) = false →
        leafFrame m.old + i ∈ poolOf t (leafHome m.old)) ∧
    (pageDamaged s e m.old page = true → ∃ t, exec .migrationCopyDone s = .next (replayHeld t page) ∧
      EntryBecomes s t e page m.old ∧ t.migration? page = none)) ∧
  (∀ leaf, s.input = .pageQuarantine page → walk s e x = some leaf → leafBad e leaf = false → bufPeer e = false →
    s.booted = true → s.out .monument = false → leafHeld s e x = false → leafState leaf ≠ 3 →
    let old := earlierLeaf s page leaf
    ∃ t ch, exec .pageQuarantine s = .next (reportEvent (replayHeld t page) ch 3 5 2 (page.buf * 2 ^ 44 + x) 0) ∧
      EntryBecomes s t e page (withState old 3) ∧ aget? page t.quars = some old ∧ page ∉ t.cows ∧ t.migration? page = none) ∧
  (∀ old home frame, s.input = .pageRestore page home frame → aget? page s.quars = some old → s.booted = true →
    s.out .monument = false → leafHeld s e x = false → frameBusy s e old = false → (bufIlv e ≠ 2 → frameGood s e home frame = true ∧
      frameBusy s e (moveLeaf old home frame) = false) →
    ∃ u, EntryBecomes u (setLeaf u e page (if bufIlv e = 2 then old else moveLeaf old home frame)) e page
        (if bufIlv e = 2 then old else moveLeaf old home frame) ∧
      exec .pageRestore s = .next (reportRestored (setLeaf u e page (if bufIlv e = 2 then old else moveLeaf old home frame)) e page
        (if bufIlv e = 2 then old else moveLeaf old home frame)) ∧
      aget? page u.quars = none ∧ (∀ l, l ∈ u.lost ↔ l ∈ s.lost ∧ pageHas e old page l = false) ∧
      ∀ l, l ∈ u.damaged ↔ l ∈ s.damaged ∧ pageHas e old page l = false) ∧
  (∀ sn la ha i f s', s.snap? page.ctx page.buf = some sn → leafAddr s e x = some la → page ∈ s.cows →
    let leaf := coherentRead s la 8
    leafV leaf = true → leafState leaf = 1 → frameBusy s e leaf = false → leafHeld s e x = false →
    inAllBank s ha = false → Lowest 15 i (fun j => leafV (histEntry s e x j) = false) →
    histAddr s e x i = some ha → takeFrame s (leafHome leaf) (pageUnits e) = some (f, s') →
    let new := mkLeaf sn.opn 0 (leafHome leaf) f
    let u := copyFrame (purgeRange (flushRange s' (frameBytes e leaf).1 (frameBytes e leaf).2 true) (frameBytes e new).1
      (frameBytes e leaf).2) e leaf new
    let v := writeEntry (writeEntry u ha (mkLeaf (leafVer leaf) 0 (leafHome leaf) (leafFrame leaf))) la new
    ∃ t, exec (.cowComplete page) s = .next (replayHeld t page) ∧ page ∉ t.cows ∧ t.bufs = s.bufs ∧ t.snaps = s.snaps ∧
      t.dram = v.dram ∧ t.l2 = v.l2 ∧ ∀ d < 4, aget? page (t.die d).tlb = none) ∧
  (∀ sn slot leaf ha, s.snap? page.ctx page.buf = some sn → slot < 15 → walk s e x = some leaf → histAddr s e x slot = some ha →
    let h := histEntry s e x slot
    leafV h = true → frameBusy s e h = false → leafHeld s e x = false → inAllBank s ha = false → (∀ p ∈ keptPlats sn (bufDepth e), platEntry s e x leaf p ≠ some h) →
    let u := writeEntry (purgeRange s (frameBytes e h).1 (frameBytes e h).2) ha 0
    ∃ t, exec (.historyFrameFree page slot) s = .next t ∧ t.bufs = s.bufs ∧ t.snaps = s.snaps ∧ t.dram = u.dram ∧ t.l2 = u.l2 ∧
      ∀ g, g ∈ poolOf t (leafHome h) ↔ g ∈ poolOf s (leafHome h) ∨
        (leafFrame h ≤ g ∧ g < leafFrame h + pageUnits e ∧ wornUnit s (leafHome h) g = false)) ∧
  ∀ old new, Memory.wf s.dram = true → ∀ b < (frameBytes e old).2,
    Memory.get (copyFrame s e old new).dram ((frameBytes e new).1 + b) = Memory.get s.dram ((frameBytes e old).1 + b)
/-! ## Dies, boot, power (25_resilience.md, 27_bringup_power.md) -/

/-- 25 R451 to R454: a die reset quiesces its die: no new placement, and every running party asked at once to be saved. A
cluster whose parties are all saved is copied to its save area and gives up its place; it is placed again whole on an allowed
die that takes work. At the deadline the die is fenced, its lines are gone, those it held M or O are LOST, and no slot of it
holds a party. The reset empties the die and starts it; a die that holds nothing is power-gated with its lines gone, and a
gated die starts with a clock that its limit allows. That a die reset saves deterministic launches too (log entry 31), the
layout of the save area (74) and the ends of parties without a slot (39) are the model's (DEDUCED, DESIGN CHOICE, DEDUCED),
the clock after power-up too (37, DESIGN CHOICE), and so is that the scratchpads of the die list nothing after its reset and
read as zero (3, DESIGN CHOICE), which no rule gives. -/
def Obligations.DiesResetAndGate : Prop := ∀ (s : State) (die : Nat),
  (∀ images, s.input = .dieResetRequest die images → managed s = true → die < 4 → (s.die die).cond = .running →
    (s.die die).reset = none → ∃ t, exec .dieResetRequest s = .next t ∧ (t.die die).cond = .quiescing ∧ (t.die die).stopped = true ∧
      (t.die die).reset = some (1, s.ref + s.qdl) ∧ ∀ k ∈ usedSlots s die, ((s.slot k).st = .run →
        (t.slot k).preq = true ∧ (t.slot k).deadline = 0 ∧ (t.slot k).saveFrom = s.ref) ∧
        ((s.slot k).st = .loading ∨ (s.slot k).st = .restoring → (t.slot k).heldPre = true)) ∧
  (∀ (l : Launch) clin area x u, s.input = .clusterSave l.lid clin area → s.launch? l.lid = some l → openBlocks s l.lid clin ≠ [] →
    (∀ b ∈ openBlocks s l.lid clin, (s.die (dieOf b.core)).reset ≠ none ∧ bindUp s (dieOf b.core) = true ∧
      blockSaved s l b = true) →
    inTurn (fun s b => inTurn (saveRank l area b) (upTo b.map.length) s) (openBlocks s l.lid clin) s = .ok x u →
    ∃ t, exec .clusterSave s = .next t ∧ t.slots = u.slots ∧ t.dram = u.dram ∧ t.l2 = u.l2 ∧
      ∀ b ∈ openBlocks t l.lid clin, b.saved = some area) ∧
  (∀ (l : Launch) clin x t, s.input = .clusterRestore l.lid clin die → s.launch? l.lid = some l → openBlocks s l.lid clin ≠ [] →
    die < 4 → l.dieOk die = true → dieTakes s die = true → reservedFrom s die l = false →
    inTurn (replaceBlock l die) (openBlocks s l.lid clin) s = .ok x t → exec .clusterRestore s = .next t ∧
      ∀ b ∈ openBlocks t l.lid clin, b.saved = none ∧ b.core ∈ groupsOn die l.cores) ∧
  (∀ step due, s.input = .quiesceDeadlineExpiry die → (s.die die).reset = some (step, due) → due ≤ s.ref →
    (s.die die).cond = .quiescing → ∃ u, exec .quiesceDeadlineExpiry s = .next (loseDie u die) ∧
      (u.die die).cond = .fenced ∧ (∀ x ∈ u.l2, x.1.1 ≠ die) ∧ (∀ l ∈ s.lost, l ∈ u.lost) ∧
      (∀ line, heldAs s line die = some .m ∨ heldAs s line die = some .o → line ∈ u.lost) ∧
      ∀ k ∈ usedSlots s die, ((loseDie u die).slot k).bind = none) ∧
  (s.input = .dieResetComplete die → (s.die die).reset ≠ none → s.out (.bind die) = false → die < 4 →
    ((s.die die).cond = .fenced ∨ ((s.die die).cond = .quiescing ∧ dieDrained s die = true)) →
    ∃ t, exec .dieResetComplete s = .next t ∧ (t.die die).cond = .running ∧ (t.die die).clk = 0 ∧ (t.die die).tlb = [] ∧
      (∀ c, c / 32 = die → (t.core c).scr = [] ∧ (t.core c).portions = [] ∧ (t.core c).segs = [] ∧ (t.core c).table = [] ∧
        (t.core c).disabled = ((s.core c).disabled || (s.core c).disable)) ∧
      ∀ k ∈ usedSlots s die, (t.slot k).st = .free ∨ (t.slot k).st = .disabled) ∧
  (s.input = .diePowerGate die → managed s = true → die < 4 → (s.die die).cond = .running → (s.die die).reset = none →
    dieDrained s die = true → (∀ c ∈ coresOf die, (s.core c).table = [] ∧ (s.core c).parts = []) →
    ∃ t, exec .diePowerGate s = .next t ∧ (t.die die).cond = .gated ∧ (∀ x ∈ t.l2, x.1.1 ≠ die)) ∧
  (s.input = .diePowerUp die → managed s = true → die < 4 → (s.die die).cond = .gated →
    (aget? (.bind die) s.firmware).any (fun f => f.running) = true →
    ∃ t, exec .diePowerUp s = .next t ∧ (t.die die).cond = .running ∧ (t.die die).clk = 0 ∧
      (t.die die).freq = if 768 ≤ s.allBankLimit then 27 else if 384 ≤ s.allBankLimit then 31
        else if 256 ≤ s.allBankLimit then 35 else 36)

/-- 27 R460 to R464, 25 R453: a boot whose steps all pass runs the package with its four dies; one that stops leaves it not
booted, with its step's code as status; a slot fused off at test is DISABLED (10 R237). A package reset leaves memory as it
was. Every component that runs after a boot has an image that R461 accepts. A firmware image whose key is the root's or is
certified by it, whose signature verifies and that is not older than the counter restarts its component, another leaves it as
it is. A restart of more than 10 ms ends what it holds. A report is answered with its signature. That whether a signature
verifies comes with the event, that an update is two events, when its hold time begins and the layout of an attestation report
(log entry 12), the kind, destination and order of its messages (18), what outlives a reset (34) and the status word's code
(35) are the model's (DESIGN CHOICE), not R464's. -/
def Obligations.PackageBootsAndIsUpdated : Prop := ∀ (s : State),
  (∀ b, s.input = .powerOn b → s.booted = false ∨ s.tripped = true →
    ∃ t, exec .powerOn s = .next t ∧ t.tripped = false ∧ t.ops = [] ∧ t.launches = [] ∧
      t.booted = (bootStop b).isNone ∧ (∀ k, bootStop b = some k → t.bootStatus = k ∧ (k ≤ 4 → ∀ d, t.die d = Die.init)) ∧
      (bootStop b = none → ∀ d < 4, (t.die d).cond = if dieStops b d = true then .gated else .running) ∧
      (∀ c f, (c, f) ∈ t.firmware → ∃ i, (c, some i) ∈ bootImages b ∧ imageOk b.rootDigest b.rollback c i = true ∧
        f.version = i.version ∧ f.digest = i.digest) ∧
      ∀ k ∈ b.fused, k < 2048 → (t.slot k).st = .disabled) ∧
  (∃ t, exec .packageReset s = .next t ∧ t.dram = s.dram ∧ t.booted = false ∧ t.tripped = false ∧ t.ops = [] ∧
    t.launches = [] ∧ ∀ k, t.party? k = none) ∧
  (∀ c image starts, s.input = .firmwareUpdate c image starts → s.booted = true →
    let f := aget {} c s.firmware
    (f.restart = none ∨ f.down = true → c = .monument ∨ s.out .monument = false → updating s c = false → c ∈ allComponents →
      ∃ t, exec .firmwareUpdate s = .next t ∧ aget {} c t.firmware =
        if (image.key = s.rootDigest ∨ image.certifiedBy = some s.rootDigest) ∧ image.signed = true ∧
            s.rollback.getD (rollbackAt c) 0 ≤ image.version then
          { version := image.version, digest := image.digest, running := false, restart := some (f.restart.getD s.ref), down := false }
        else f) ∧
    (f.restart ≠ none → f.down = false → f.version = image.version → f.digest = image.digest →
      ∃ t, exec .firmwareUpdate s = .next t ∧ aget {} c t.firmware =
        if starts then { f with running := true, restart := none } else { f with down := true })) ∧
  (∀ c ids since, s.input = .firmwareHoldTimeout c ids → (aget {} c s.firmware).restart = some since →
    since + 10000000 < s.ref → (∃ t, exec .firmwareHoldTimeout s = .next t) ∧
    (c = .monument ∨ (∃ d, c = .bind d) → exec .firmwareHoldTimeout s = .next s) ∧
    ∀ o n ea size dst attr scope acq uni, c = .link n → peerHeld s = true → s.ops = [o] → o.id ∈ ids → o.phase = .peer since →
      o.kind = .load ea size dst attr scope acq uni none →
      ∃ t, exec .firmwareHoldTimeout s = .next t ∧ StandsAt t o (.failed 0xA5 ea (o.info o.kind.info))) ∧
  (∀ nonce, s.input = .attestationRequest nonce → managed s = true → ∃ t, exec .attestationRequest s = .next t ∧
    t.outbox = s.outbox ++ [{ kind := 5, dest := 0, body := attestReport s nonce },
      { kind := 5, dest := 1, body := Config.attestSignature (attestReport s nonce) }] ∧
    attestReport s nonce % 2 ^ 256 = nonce % 2 ^ 256)

/-- 27 R465 to R468: a revision in range, whose clocks rise only where the all-bank count allows it, sets the powered dies'
clocks and the stacks' windows, with the limit of the highest of the old and the new clocks; at 95 °C a die's clock falls by
0.1 GHz, not below 1.2 GHz, at 90 °C a stack's activation limit halves, not below 64, and at 105 °C or 100 °C the package
trips and stops; low flow caps the power at 1,600 W, and an inlet above 35 °C lowers the budget by 80 W for each degree. The
steps by which clocks and windows fall are the model's choice (log entry 37, DESIGN CHOICE), and so are the log entry of a
trip (103, DESIGN CHOICE) and that a low flow holds the budget until power-on (108, DESIGN CHOICE). -/
def Obligations.PowerAndCoolingFollowTheirRules : Prop := ∀ (s : State),
  (∀ clocks windows, s.input = .powerManagerRevision clocks windows → managed s = true → clocks.length = 4 →
    (∀ c ∈ clocks, 12 ≤ c ∧ c ≤ 36) → windows.length = 12 →
    (∀ w ∈ windows, 64 ≤ w.1 ∧ w.1 ≤ 65535 ∧ 64 ≤ w.2 ∧ w.2 ≤ 4096) →
    ((∃ d < 4, (s.die d).cond ≠ .gated ∧ (s.die d).freq < clocks.getD d 12) →
      allBankCount s ≤ limitOf (topClock (setClocks s clocks))) →
    ∃ t, exec .powerManagerRevision s = .next t ∧
      (∀ d < 4, (t.die d).freq = if (s.die d).cond = .gated then (s.die d).freq else clocks.getD d 12) ∧
      (∀ k < 12, (t.stack k).actmax = (windows.getD k (0, 0)).1 ∧ (t.stack k).twin = (windows.getD k (0, 0)).2) ∧
      t.allBankLimit = limitOf (max (topClock s) (topClock t)) ∧ t.dram = s.dram ∧ t.slots = s.slots) ∧
  (∀ d c, s.input = .temperatureReport (.die d) c → s.booted = true → d < 4 →
    ∃ t, exec .temperatureReport s = .next t ∧ (t.tripped = true ↔ s.tripped = true ∨ 105 ≤ c) ∧
      (t.die d).freq = if 95 ≤ c ∧ c < 105 then max 12 ((s.die d).freq - 1) else (s.die d).freq) ∧
  (∀ k c, s.input = .temperatureReport (.stack k) c → s.booted = true → k < 12 →
    ∃ t, exec .temperatureReport s = .next t ∧ (t.tripped = true ↔ s.tripped = true ∨ 100 ≤ c) ∧
      (t.stack k).actmax = if 90 ≤ c ∧ c < 100 then max 64 ((s.stack k).actmax / 2) else (s.stack k).actmax) ∧
  (s.booted = true → exec .flowLowTimeout s = .next { s with budget := 1600, flowLow := true }) ∧
  (∀ c, s.input = .temperatureReport .inlet c → s.booted = true → exec .temperatureReport s = .next { s with
    budget := if s.flowLow = true then min 1600 (3200 - 80 * (c - 35)) else 3200 - 80 * (c - 35) }) ∧
  (s.tripped = true → ∀ k rest, s.agenda = k :: rest → (∀ i, k ≠ .event .powerOn i ∧ k ≠ .event .packageReset i) →
    step s = .fault .tripped)

/-! ## Hosts, peers and management (28_fabric.md, 19_package_memory.md, 20_versioned_memory.md, 16_launch_scheduling.md) -/

/-- 28 R474 to R477: a message that its check refuses ends with the remote-access error and nothing else; a write places its
bytes and is answered, with its immediate; a read is answered with the bytes; an atomic acts on its 8 bytes in one step and is
answered with the old value, and a misaligned one with its own error. A message of an ordered connection behind which another
waits waits too, and has its turn once none before it waits. Connections are set up, and the link falls back to fewer lanes.
The order of a message's units (log entry 16), the form of answers (18), the way to memory (8) (DESIGN CHOICE) and what
encrypted memory reads as under another key or tweak (11, DEDUCED) are the model's. -/
def Obligations.HostMessagesAreServed : Prop := ∀ (s t : State) (conn : Nat),
  (∀ c key va len x body i, aget? conn s.conns = some c → ethUp s = true → hostBehind s.hostHeld conn c = false →
    (i = .hostRdmaWrite ∧ s.input = .hostRdmaWrite conn key va len x ∧ body = 0 ∨
      i = .hostRdmaWriteImm ∧ ∃ imm, s.input = .hostRdmaWriteImm conn key va len x imm ∧ body = 1 + 2 * (imm % 2 ^ 32)) →
    (hostCheck s c key va len bufHW = none → exec i s = .next (s.send 1 conn 0)) ∧
    ∀ idx e y, hostCheck s c key va len bufHW = some (idx, e) →
      hostWrite c.ctx idx e (len / 8 + 2) s (va % 2 ^ 44) len x = .ok y t →
      ∃ u, exec i s = .next u ∧ u.dram = t.dram ∧ u.l2 = t.l2 ∧
        u.outbox = t.outbox ++ [{ kind := 0, dest := conn, body := body }]) ∧
  (∀ c key va len, aget? conn s.conns = some c → ethUp s = true → s.input = .hostRdmaRead conn key va len →
    (c.kind ≠ .uetRud → (∃ h ∈ s.hostHeld, h.conn = conn) → exec .hostRdmaRead s = .next
      { s with hostHeld := s.hostHeld ++ [{ conn := conn, msg := .read key va len, since := none }] }) ∧
    (hostBehind s.hostHeld conn c = false → hostCheck s c key va len bufHR = none → exec .hostRdmaRead s = .next (s.send 1 conn 0)) ∧
    ∀ idx e x, hostBehind s.hostHeld conn c = false → hostCheck s c key va len bufHR = some (idx, e) →
      hostReadFrom c.ctx idx e (len / 8 + 2) s (va % 2 ^ 44) len = .ok x t →
      ∃ u, exec .hostRdmaRead s = .next u ∧ u.dram = t.dram ∧ u.outbox = t.outbox ++ [{ kind := 2, dest := conn, body := x }]) ∧
  (∀ i h c x, s.input = .hostRetry i → s.hostHeld[i]? = some h → aget? h.conn s.conns = some c → ethUp s = true →
    hostBehind (s.hostHeld.take i) h.conn c = false → hostTurn s h.conn c h.msg = .ok x t →
    exec h.msg.event s = .next { t with hostHeld := t.hostHeld.eraseIdx i }) ∧
  (∀ c key va x y i (f : Nat → Nat), aget? conn s.conns = some c → ethUp s = true → hostBehind s.hostHeld conn c = false →
    (i = .hostAtomicCas ∧ s.input = .hostAtomicCas conn key va x y ∧ f = (fun old => if old = x % 2 ^ 64 then y % 2 ^ 64 else old) ∨
      i = .hostAtomicFetchAdd ∧ s.input = .hostAtomicFetchAdd conn key va x ∧ f = (fun old => (old + x) % 2 ^ 64)) →
    (va % 8 ≠ 0 → exec i s = .next (s.send 9 conn 0)) ∧
    (va % 8 = 0 → hostCheck s c key va 8 bufHA = none → exec i s = .next (s.send 1 conn 0)) ∧
    ∀ idx e ppa, va % 8 = 0 → hostCheck s c key va 8 bufHA = some (idx, e) →
      outLoc s c.ctx idx e (va % 2 ^ 44) true = .at (.mem ppa) →
      let s1 := s.noteUse idx e (va % 2 ^ 44) ppa
      ∃ u, exec i s = .next u ∧ u.dram = (dirWrite s1 ppa 8 (f (coherentRead s1 ppa 8))).dram ∧
        u.outbox = s.outbox ++ [{ kind := 3, dest := conn, body := coherentRead s1 ppa 8 }]) ∧
  (∀ ctx kind, s.input = .connectionSetup conn ctx kind → managed s = true → conn < 8192 → ctx < 2 ^ 16 →
    ∃ u, exec .connectionSetup s = .next u ∧ aget? conn u.conns = some { ctx := ctx, kind := kind }) ∧
  (∀ n, s.input = .linkPartnerFallback n → s.booted = true → n = 1 ∨ n = 2 ∨ n = 4 →
    exec .linkPartnerFallback s = .next { s with ethWidth := min s.ethWidth n })

/-- 28 R470, R471, R478, R479: a peer's access to a buffer that does not grant it is refused; a read is answered with the
coherent bytes, a write places its bytes, an atomic its result, and one that returns is answered with the old value; a launch
packet whose checks pass is placed, another is answered with its NACK. The form of answers (log entry 18) and the way to
memory (8) (DESIGN CHOICE), and what encrypted memory reads as under another key or tweak (11, DEDUCED), are the model's. -/
def Obligations.PeersAndPacketsAreAnswered : Prop := ∀ (s t : State),
  (∀ r, s.input = .peerAccess r → s.booted = true → r.op < 4 → 1 ≤ r.size → r.offset % 32 + r.size ≤ 32 →
    (peerCheck s r = none → exec .peerAccess s = .next (s.send 6 r.pkg 1)) ∧
    ∀ e ppa, peerCheck s r = some e → outLoc s r.ctx r.buf e r.offset (r.op != 0) = .at (.mem ppa) →
      let s1 := s.noteUse r.buf e r.offset ppa
      let old := coherentRead s1 ppa r.size
      let answered := fun (u : State) x => u.outbox = s.outbox ++ [{ kind := 6, dest := r.pkg, body := 4 * x }]
      (r.op = 0 → ∃ u, exec .peerAccess s = .next u ∧ u.dram = s1.dram ∧ answered u old) ∧
      (r.op = 1 → ∃ u, exec .peerAccess s = .next u ∧ u.dram = (dirWrite s1 ppa r.size r.data).dram ∧ answered u 0) ∧
      (r.op = 2 ∨ r.op = 3 → ∃ u, exec .peerAccess s = .next u ∧
        u.dram = (dirWrite s1 ppa r.size (atomNew r.code old r.data r.data2)).dram ∧ answered u (if r.op = 3 then old else 0))) ∧
  (∀ conn h record q x, s.input = .launchPacket conn h record → s.booted = true →
    (8192 ≤ conn ∨ (ethUp s = true ∧ (aget? conn s.conns).isSome = true)) → aget? (h / 2 ^ 32 % 2 ^ 8) s.queues = some q →
    readEa s (outAg q.ctx) q.base 24 = .ok x t →
    (∀ nst tail, packetNack t conn h (some q) (some (queueCb x)) = some (nst, tail) →
      exec .launchPacket s = .next (t.send 4 conn (residency 1 (h / 2 ^ 32 % 2 ^ 8 + 2 ^ 16 * (h / 2 ^ 48 % 2 ^ 16)) tail nst 0))) ∧
    ∀ y u, packetNack t conn h (some q) (some (queueCb x)) = none →
      placePacket t conn (h / 2 ^ 32 % 2 ^ 8) q (queueCb x) record = .ok y u → exec .launchPacket s = .next u)

/-- 19 R379 to R381, R390, 20 R394, 16 R332, 00 R9: a buffer table entry that is valid as R379 asks, over tables without a
reserved bit, is installed, one with V 0 is removed, and memory is as it was; a versioned entry is installed with its snapshot
record; a table word is written that leaves no reserved bit in a table in use; each time the buffer is shot down: what was
held on it is translated again, and no die then translates it by what was before. A launch queue is created with its control
block written. That a malformed request is not served is the model's (log entry 73, DESIGN CHOICE), and that a table's entries
are written in plaintext where an encrypted frame stood before (11, DEDUCED). -/
def Obligations.TablesAndQueuesAreSetUp : Prop := ∀ (s t : State) (ctx : Nat), managed s = true →
  (∀ idx e, s.input = .bufferTableEntryWrite ctx idx e .entry → bufferBusy s ctx idx = false →
    (bitOf e 31 = true → entryOk idx e = true ∧ bufDepth e = 0 ∧ tablesOk s e = true) →
    ∃ u, exec .bufferTableEntryWrite s = .next (shootBuffer u ctx idx) ∧
      aget? (ctx, idx) u.bufs = (if bitOf e 31 = true then some e else none) ∧
      u.dram = s.dram ∧ u.seals = s.seals) ∧
  (∀ idx e opn, s.input = .bufferTableEntryWrite ctx idx e (.versioned opn) → bufferBusy s ctx idx = false →
    bitOf e 31 = true → entryOk idx e = true → bufDepth e ≠ 0 → tablesOk s e = true → leafTablesOk s e = true →
    let others := s.snaps.filter fun v => !(v.ctx == ctx && v.buf == idx)
    others.length < 4096 → pagesHeld s e = false →
    let pub := (opn + (2 ^ 24 - 1)) % 2 ^ 24
    ∃ u, exec .bufferTableEntryWrite s = .next (shootBuffer u ctx idx) ∧ aget? (ctx, idx) u.bufs = some e ∧ u.snaps = others ++
      [{ ctx := ctx, buf := idx, opn := opn % 2 ^ 24, pub := pub, base := pub, holds := [], owners := [] }]) ∧
  (∀ idx e ppa, s.input = .bufferTableEntryWrite ctx idx e (.pageWord ppa) → bufferBusy s ctx idx = false → ppa % 8 = 0 →
    ppaOk ppa = true → inAllBank s ppa = false → tableWordOk (writeEntry s ppa (e % 2 ^ 64)) (e % 2 ^ 64) = true →
    ∃ u, exec .bufferTableEntryWrite s = .next (shootBuffer u ctx idx) ∧ u.bufs = s.bufs ∧
      u.dram = (writeEntry s ppa (e % 2 ^ 64)).dram ∧
      (s.seals = [] → u.dram = (dirWrite s ppa 8 (e % 2 ^ 64)).dram)) ∧
  (∀ idx, (∀ o ∈ s.ops, ∀ since, o.phase ≠ .held since) → ∀ d ∈ (shootBuffer s ctx idx).dies, ∀ x ∈ d.2.tlb,
    ¬(x.1.ctx = ctx ∧ x.1.buf = idx)) ∧
  (∀ k die base control y, s.input = .launchQueueCreate k ctx die base control → k < 256 → die < 4 → ctx < 2 ^ 16 →
    aget? k s.queues = none → base % 64 = 0 → queueBlockOk control = true → isWin base = false →
    (∃ e, bufOf s ctx (eaIdx base) = some e ∧ eaOff base + 64 + 256 * 2 ^ (control / 2 ^ 128 % 2 ^ 4) ≤ bufLen e) →
    writeEa s (outAg ctx) base 64 control = .ok y t →
    exec .launchQueueCreate s = .next { t with queues := aset k { ctx := ctx, die := die, base := base } t.queues })

/-! ## The whole machine -/

/-- 19 R377, 11 R245, 12 R275 and log entry 3 (DESIGN CHOICE): every step keeps each memory of the package in its canonical
form: addresses strictly rising, no entry equal to what an unlisted address reads as. -/
def Obligations.EveryStepKeepsMemoriesCanonical : Prop :=
  ∀ s t : State, MemoriesCanonical s → step s = .next t → MemoriesCanonical t

/-- 27 R460, 01 R27, 25 R442, R451, 28 R472, 15 R322: what the package holds right after reset. The boot status of 0 and the
empty memories are the model's choice (log entries 3 and 4, DESIGN CHOICE); the other values are the spec's. -/
def Obligations.ResetHoldsWhatTheSpecSays : Prop :=
  let s := State.reset
  MemoriesCanonical s ∧ s.ref = 0 ∧ s.booted = false ∧ s.tripped = false ∧ s.launches = [] ∧ s.ops = [] ∧ s.bufs = [] ∧
  s.keys = [] ∧ s.seals = [] ∧ s.budget = 3200 ∧ s.flowLow = false ∧ s.hostHeld = [] ∧ s.asking = [] ∧ s.bootStatus = 0 ∧ s.outbox = [] ∧ s.staging = [] ∧
  (∀ d, (s.die d).cond = .gated ∧ (s.die d).clk = 0 ∧ (s.die d).tlb = []) ∧ (∀ k, s.party? k = none ∧ (s.slot k).st = .free) ∧
  s.qdl = 50000 ∧ s.peerTimeout = 1000000 ∧ s.thresholds = [4, 16, 2, 2] ∧
  s.windows = [60000000000, 1000000, 10000000000, 10000000000]

/-- 15 R316, R319, R321, 00 R7: bytes written are the bytes read, and no other byte changes: in a canonical byte list, and,
while at most one die owns each line, in the coherent memory that a die writes through its L2 (whichever line its slice
replaces for it) and that an agent outside the dies writes. How an agent outside the dies writes is the model's (log entry 8,
DESIGN CHOICE). -/
def Obligations.MemoryReadsWhatWasWritten : Prop :=
  (∀ (m : List Host.Cell) (a n x : Nat), Memory.wf m = true →
    Memory.wf (Memory.write m a n x) = true ∧ Memory.read (Memory.write m a n x) a n = x % 2 ^ (8 * n) ∧
    ∀ b, b < a ∨ a + n ≤ b → Memory.get (Memory.write m a n x) b = Memory.get m b) ∧
  ∀ (s : State) (ppa n x : Nat), Memory.wf s.dram = true → ppa % 128 + n ≤ 128 →
    (∀ line d e, (heldAs s line d = some .m ∨ heldAs s line d = some .o) →
      (heldAs s line e = some .m ∨ heldAs s line e = some .o) → d = e) →
    (∀ die < 4, coherentRead (l2Write s die ppa n x) ppa n = x % 2 ^ (8 * n) ∧
      ∀ b, b < ppa ∨ ppa + n ≤ b → coherentByte (l2Write s die ppa n x) b = coherentByte s b) ∧
    coherentRead (dirWrite s ppa n x) ppa n = x % 2 ^ (8 * n) ∧
    ∀ b, b < ppa ∨ ppa + n ≤ b → coherentByte (dirWrite s ppa n x) b = coherentByte s b
end

