-- ==== Sys2Proof/Laws/Tables.lean ====
section
/-! SUPPORT. Tables keyed by a number, lists with an index, and the lists of launches, blocks and operations: what reading
gives after a write. -/

namespace Sys2Proof.Machine

section Tables
variable {κ α : Type} [DecidableEq κ]

@[simp] theorem aget?_nil (k : κ) : aget? k ([] : List (κ × α)) = none := rfl

/-- The entry just set. -/
@[simp] theorem aget?_aset_same (k : κ) (a : α) (m : List (κ × α)) : aget? k (aset k a m) = some a := by
  match m with
  | [] => exact if_pos rfl
  | (j, b) :: m =>
    unfold aset
    split <;> rename_i hj
    · exact if_pos rfl
    · exact (if_neg hj).trans (aget?_aset_same k a m)

/-- Another key's entry. -/
theorem aget?_aset_ne {j k : κ} (h : j ≠ k) (a : α) (m : List (κ × α)) : aget? j (aset k a m) = aget? j m := by
  match m with
  | [] => exact if_neg h.symm
  | (i, b) :: m =>
    have rest := aget?_aset_ne h a m
    unfold aset
    split <;> rename_i hk
    · unfold aget?
      rw [if_neg h.symm, if_neg (hk ▸ h.symm)]
    · unfold aget?
      rw [rest]

theorem aget?_aset (j k : κ) (a : α) (m : List (κ × α)) : aget? j (aset k a m) = if j = k then some a else aget? j m := by
  split
  · next h => rw [h, aget?_aset_same]
  · next h => exact aget?_aset_ne h a m

@[simp] theorem aget_aset_same (d : α) (k : κ) (a : α) (m : List (κ × α)) : aget d k (aset k a m) = a := by simp [aget]
theorem aget_aset_ne {j k : κ} (h : j ≠ k) (d a : α) (m : List (κ × α)) : aget d j (aset k a m) = aget d j m := by
  simp [aget, aget?_aset_ne h]
theorem aget_aset (d : α) (j k : κ) (a : α) (m : List (κ × α)) : aget d j (aset k a m) = if j = k then a else aget d j m := by
  split
  · next h => rw [h, aget_aset_same]
  · next h => exact aget_aset_ne h d a m

/-- A key that was taken out. -/
@[simp] theorem aget?_adel_same (k : κ) (m : List (κ × α)) : aget? k (adel k m) = none := by
  cases hx : aget? k (adel k m) with
  | none => rfl
  | some a =>
    have listed : ∀ {l : List (κ × α)}, aget? k l = some a → ∃ e ∈ l, e.1 = k := by
      intro l
      fun_induction aget? k l <;> simp_all
    obtain ⟨e, he, rfl⟩ := listed hx
    simp [adel] at he
theorem aget?_adel_ne {j k : κ} (h : j ≠ k) (m : List (κ × α)) : aget? j (adel k m) = aget? j m := by
  fun_induction aget? j m <;> simp_all [adel, aget?, List.filter_cons]
  split <;> simp_all [aget?]
theorem aget_adel_ne {j k : κ} (h : j ≠ k) (d : α) (m : List (κ × α)) : aget d j (adel k m) = aget d j m := by
  simp [aget, aget?_adel_ne h]

/-- What is listed after a write was listed before, or is what was written. -/
theorem mem_aset {k : κ} {a : α} {m : List (κ × α)} {e : κ × α} (h : e ∈ aset k a m) : e ∈ m ∨ e = (k, a) := by
  revert h
  fun_induction aset k a m <;> simp_all <;> tauto
theorem mem_adel {k : κ} {m : List (κ × α)} {e : κ × α} (h : e ∈ adel k m) : e ∈ m := List.mem_of_mem_filter h

/-- A listed entry, or the default. -/
theorem aget?_mem {k : κ} {a : α} {m : List (κ × α)} (h : aget? k m = some a) : (k, a) ∈ m := by
  revert h
  fun_induction aget? k m <;> simp_all
theorem aget_mem_or {d : α} {k : κ} {m : List (κ × α)} : (k, aget d k m) ∈ m ∨ aget d k m = d := by
  unfold aget
  cases h : aget? k m with
  | none => exact .inr rfl
  | some a => exact .inl (aget?_mem h)

end Tables

/-! ## Lists with an index -/

@[simp] theorem mapI_length {α β : Type} (f : Nat → α → β) (i : Nat) (l : List α) : (mapI f i l).length = l.length := by
  fun_induction mapI f i l <;> simp_all
theorem mapI_getElem? {α β : Type} (f : Nat → α → β) (i : Nat) (l : List α) (k : Nat) :
    (mapI f i l)[k]? = l[k]?.map (f (i + k)) := by
  fun_induction mapI f i l generalizing k with
  | case1 => rfl
  | case2 i x xs rest =>
    rcases k with _ | k
    · rfl
    · rw [List.getElem?_cons_succ, List.getElem?_cons_succ, rest, Nat.add_right_comm, Nat.add_assoc]
theorem map_mapI {α β γ : Type} (f : Nat → α → β) (g : β → γ) (i : Nat) (l : List α) :
    (mapI f i l).map g = mapI (fun k x => g (f k x)) i l := by
  fun_induction mapI f i l <;> simp_all [mapI]
theorem filterMap_mapI_none {α β γ : Type} (f : Nat → α → β) (g : β → Option γ) (h : ∀ k x, g (f k x) = none) (i : Nat)
    (l : List α) : (mapI f i l).filterMap g = [] := by
  fun_induction mapI f i l <;> simp_all

@[simp] theorem mem_upTo {i n : Nat} : i ∈ upTo n ↔ i < n := List.mem_range

/-! ## Slots, cores, dies, stacks, ports and banks -/

@[simp] theorem State.slot_setSlot_same (s : State) (k : Nat) (x : Slot) : (s.setSlot k x).slot k = x := by
  simp [State.slot, State.setSlot]
theorem State.slot_setSlot_ne {j k : Nat} (h : j ≠ k) (s : State) (x : Slot) : (s.setSlot k x).slot j = s.slot j := by
  simp [State.slot, State.setSlot, aget_aset_ne h]
@[simp] theorem State.core_setCore_same (s : State) (k : Nat) (x : Core) : (s.setCore k x).core k = x := by
  simp [State.core, State.setCore]
theorem State.core_setCore_ne {j k : Nat} (h : j ≠ k) (s : State) (x : Core) : (s.setCore k x).core j = s.core j := by
  simp [State.core, State.setCore, aget_aset_ne h]
@[simp] theorem State.die_setDie_same (s : State) (k : Nat) (x : Die) : (s.setDie k x).die k = x := by
  simp [State.die, State.setDie]
theorem State.die_setDie_ne {j k : Nat} (h : j ≠ k) (s : State) (x : Die) : (s.setDie k x).die j = s.die j := by
  simp [State.die, State.setDie, aget_aset_ne h]
@[simp] theorem State.stack_setStack_same (s : State) (k : Nat) (x : Stack) : (s.setStack k x).stack k = x := by
  simp [State.stack, State.setStack]
theorem State.stack_setStack_ne {j k : Nat} (h : j ≠ k) (s : State) (x : Stack) : (s.setStack k x).stack j = s.stack j := by
  simp [State.stack, State.setStack, aget_aset_ne h]
@[simp] theorem State.port_setPort_same (s : State) (k : Nat × Nat) (x : Port) : (s.setPort k x).port k = x := by
  simp [State.port, State.setPort]
theorem State.port_setPort_ne {j k : Nat × Nat} (h : j ≠ k) (s : State) (x : Port) : (s.setPort k x).port j = s.port j := by
  simp [State.port, State.setPort, aget_aset_ne h]
@[simp] theorem State.bank_setBank_same (s : State) (k : Nat × Nat × Nat) (x : BankUnit) : (s.setBank k x).bank k = x := by
  simp [State.bank, State.setBank]
theorem State.bank_setBank_ne {j k : Nat × Nat × Nat} (h : j ≠ k) (s : State) (x : BankUnit) :
    (s.setBank k x).bank j = s.bank j := by
  simp [State.bank, State.setBank, aget_aset_ne h]

@[simp] theorem State.party_setParty_same (s : State) (k : Nat) (p : Party) : (s.setParty k p).party? k = some p := by
  simp [State.party?, State.setParty]
theorem State.party_setParty_ne {j k : Nat} (h : j ≠ k) (s : State) (p : Party) : (s.setParty k p).party? j = s.party? j := by
  simp [State.party?, State.setParty, State.slot_setSlot_ne h]

/-! ## Threads of a party -/

theorem Party.thread_setThread_same (p : Party) (k : Nat) (x : Thread) (h : k < p.threads.length) :
    (p.setThread k x).thread k = x := by
  simp [Party.thread, Party.setThread, h]
theorem Party.thread_setThread_ne {j k : Nat} (h : j ≠ k) (p : Party) (x : Thread) :
    (p.setThread k x).thread j = p.thread j := by
  simp [Party.thread, Party.setThread, List.getD_eq_getElem?_getD, List.getElem?_set_ne (Ne.symm h)]
theorem Party.thread_mapThreads (p : Party) (tids : List Nat) (f : Nat → Thread → Thread) (k : Nat) (h : k < p.threads.length) :
    (p.mapThreads tids f).thread k = if tids.contains k then f k (p.thread k) else p.thread k := by
  simp only [Party.thread, Party.mapThreads, List.getD_eq_getElem?_getD, mapI_getElem?, Nat.zero_add]
  simp [h]

/-! ## Operations, launches and blocks found by their number -/

theorem find_map_same {α : Type} (key : α → Bool) (f : α → α) (h : ∀ x, key (f x) = key x) (l : List α) :
    (l.map f).find? key = (l.find? key).map f := by
  rw [List.find?_map, show key ∘ f = key from funext h]

theorem State.op_setOp (s : State) (o : Op) (k : Nat) :
    (s.setOp o).op? k = (s.op? k).map fun p => if p.id == o.id then o else p := by
  unfold State.op? State.setOp
  refine find_map_same _ _ (fun p => ?_) _
  by_cases h : p.id = o.id <;> simp [h]
/-- An operation that is listed, once set. -/
theorem State.op_setOp_same {s : State} {o p : Op} (h : s.op? o.id = some p) : (s.setOp o).op? o.id = some o := by
  have hp : p.id = o.id := by simpa using List.find?_some h
  simp [State.op_setOp, h, hp]
theorem State.op_setOp_ne {s : State} {o : Op} {k : Nat} (h : k ≠ o.id) : (s.setOp o).op? k = s.op? k := by
  rw [State.op_setOp]
  cases hk : s.op? k with
  | none => rfl
  | some p =>
    have hp : p.id = k := by simpa using List.find?_some hk
    simp [hp, h]
theorem State.op_delOp_same (s : State) (k : Nat) : (s.delOp k).op? k = none := by
  simp [State.op?, State.delOp]
theorem State.op_delOp_ne {j k : Nat} (h : j ≠ k) (s : State) : (s.delOp k).op? j = s.op? j := by
  unfold State.op? State.delOp
  rw [List.find?_filter]
  congr 1
  funext o
  by_cases ho : o.id = j <;> simp [ho, h]
theorem State.launch_setLaunch (s : State) (l : Launch) (k : Nat) :
    (s.setLaunch l).launch? k = (s.launch? k).map fun m => if m.lid == l.lid then l else m := by
  unfold State.launch? State.setLaunch
  refine find_map_same _ _ (fun p => ?_) _
  by_cases h : p.lid = l.lid <;> simp [h]

end Sys2Proof.Machine
end

