-- ==== Sys2Proof/Laws/Registers.lean ====
section
/-! SUPPORT. Registers: what a write of a result changes in a thread or a party, and what reading gives after it
(01_thread.md R18, R21, R25). -/

namespace Sys2Proof.Machine

/-! ## Lists of registers -/

@[simp] theorem setRegs_length (l : List Word) (n k x : Nat) : (setRegs l n k x).length = l.length := by
  fun_induction setRegs l n k x <;> simp_all
/-- A register outside the ones written. -/
theorem setRegs_outside {l : List Word} {n k x i : Nat} (h : i < n ∨ n + k ≤ i) (d : Word) :
    (setRegs l n k x).getD i d = l.getD i d := by
  fun_induction setRegs l n k x with
  | case1 => rfl
  | case2 l n k x rest =>
    rw [rest (h.imp (fun lt => lt.trans (Nat.lt_succ_self n)) fun le => by rwa [Nat.add_right_comm]), List.getD_eq_getElem?_getD,
      List.getElem?_set_ne (by rcases h with h | h <;> omega), ← List.getD_eq_getElem?_getD]

/-! ## A result written to a thread -/

@[simp] theorem Thread.pc_write (t : Thread) (r : Reg) (w : Width) (x : Nat) : (t.write r w x).pc = t.pc := by
  cases r <;> rfl
@[simp] theorem Thread.lat_write (t : Thread) (r : Reg) (w : Width) (x : Nat) : (t.write r w x).lat = t.lat := by
  cases r <;> rfl
@[simp] theorem Thread.latx_write (t : Thread) (r : Reg) (w : Width) (x : Nat) : (t.write r w x).latx = t.latx := by
  cases r <;> rfl
@[simp] theorem Thread.draw_write (t : Thread) (r : Reg) (w : Width) (x : Nat) : (t.write r w x).draw = t.draw := by
  cases r <;> rfl
@[simp] theorem Thread.fpcsr_write (t : Thread) (r : Reg) (w : Width) (x : Nat) : (t.write r w x).fpcsr = t.fpcsr := by
  cases r <;> rfl
@[simp] theorem Thread.ver_write (t : Thread) (r : Reg) (w : Width) (x : Nat) : (t.write r w x).ver = t.ver := by
  cases r <;> rfl
@[simp] theorem Thread.cause_write (t : Thread) (r : Reg) (w : Width) (x : Nat) : (t.write r w x).cause = t.cause := by
  cases r <;> rfl
@[simp] theorem Thread.tpc_write (t : Thread) (r : Reg) (w : Width) (x : Nat) : (t.write r w x).tpc = t.tpc := by
  cases r <;> rfl
@[simp] theorem Thread.taddr_write (t : Thread) (r : Reg) (w : Width) (x : Nat) : (t.write r w x).taddr = t.taddr := by
  cases r <;> rfl
@[simp] theorem Thread.tinfo_write (t : Thread) (r : Reg) (w : Width) (x : Nat) : (t.write r w x).tinfo = t.tinfo := by
  cases r <;> rfl
@[simp] theorem Thread.handler_write (t : Thread) (r : Reg) (w : Width) (x : Nat) : (t.write r w x).handler = t.handler := by
  cases r <;> rfl
@[simp] theorem Thread.exited_write (t : Thread) (r : Reg) (w : Width) (x : Nat) : (t.write r w x).exited = t.exited := by
  cases r <;> rfl
@[simp] theorem Thread.cnt_write (t : Thread) (r : Reg) (w : Width) (x : Nat) : (t.write r w x).cnt = t.cnt := by
  cases r <;> rfl
@[simp] theorem Thread.hold_write (t : Thread) (r : Reg) (w : Width) (x : Nat) : (t.write r w x).hold = t.hold := by
  cases r <;> rfl
@[simp] theorem Thread.arrivals_write (t : Thread) (r : Reg) (w : Width) (x : Nat) : (t.write r w x).arrivals = t.arrivals := by
  cases r <;> rfl
@[simp] theorem Thread.barKept_write (t : Thread) (r : Reg) (w : Width) (x : Nat) : (t.write r w x).barKept = t.barKept := by
  cases r <;> rfl
@[simp] theorem Thread.pend_write (t : Thread) (r : Reg) (w : Width) (x : Nat) : (t.write r w x).pend = t.pend := by
  cases r <;> rfl
@[simp] theorem Thread.async_write (t : Thread) (r : Reg) (w : Width) (x : Nat) : (t.write r w x).async = t.async := by
  cases r <;> rfl
@[simp] theorem Thread.fence_write (t : Thread) (r : Reg) (w : Width) (x : Nat) : (t.write r w x).fence = t.fence := by
  cases r <;> rfl
@[simp] theorem Thread.lastIssue_write (t : Thread) (r : Reg) (w : Width) (x : Nat) : (t.write r w x).lastIssue = t.lastIssue := by
  cases r <;> rfl

/-! ## A result written to a party -/

@[simp] theorem Party.lid_write (p : Party) (r : Reg) (w : Width) (x : Nat) : (p.write r w x).lid = p.lid := by
  cases r <;> rfl
@[simp] theorem Party.blin_write (p : Party) (r : Reg) (w : Width) (x : Nat) : (p.write r w x).blin = p.blin := by
  cases r <;> rfl
@[simp] theorem Party.x_write (p : Party) (r : Reg) (w : Width) (x : Nat) : (p.write r w x).x = p.x := by
  cases r <;> rfl
@[simp] theorem Party.y_write (p : Party) (r : Reg) (w : Width) (x : Nat) : (p.write r w x).y = p.y := by
  cases r <;> rfl
@[simp] theorem Party.z_write (p : Party) (r : Reg) (w : Width) (x : Nat) : (p.write r w x).z = p.z := by
  cases r <;> rfl
@[simp] theorem Party.rank_write (p : Party) (r : Reg) (w : Width) (x : Nat) : (p.write r w x).rank = p.rank := by
  cases r <;> rfl
@[simp] theorem Party.pidx_write (p : Party) (r : Reg) (w : Width) (x : Nat) : (p.write r w x).pidx = p.pidx := by
  cases r <;> rfl
@[simp] theorem Party.nv_write (p : Party) (r : Reg) (w : Width) (x : Nat) : (p.write r w x).nv = p.nv := by
  cases r <;> rfl
@[simp] theorem Party.bars_write (p : Party) (r : Reg) (w : Width) (x : Nat) : (p.write r w x).bars = p.bars := by
  cases r <;> rfl
@[simp] theorem Party.threads_write (p : Party) (r : Reg) (w : Width) (x : Nat) : (p.write r w x).threads = p.threads := by
  cases r <;> rfl
@[simp] theorem Party.esc_write (p : Party) (r : Reg) (w : Width) (x : Nat) : (p.write r w x).esc = p.esc := by
  cases r <;> rfl

/-! ## What each register's write reaches -/

@[simp] theorem Thread.write_z (t : Thread) (w : Width) (x : Nat) : t.write .z w x = t := rfl
@[simp] theorem Thread.write_v (t : Thread) (n : Nat) (w : Width) (x : Nat) :
    t.write (.v n) w x = { t with v := setRegs t.v n w.regs x } := rfl
@[simp] theorem Thread.write_o (t : Thread) (n : Nat) (w : Width) (x : Nat) :
    t.write (.o n) w x = { t with o := setRegs t.o n w.regs x } := rfl
@[simp] theorem Thread.write_h (t : Thread) (n : Nat) (w : Width) (x : Nat) :
    t.write (.h n) w x = { t with h := setRegs t.h n w.regs x } := rfl
@[simp] theorem Party.write_w (p : Party) (n : Nat) (w : Width) (x : Nat) :
    p.write (.w n) w x = { p with w := setRegs p.w n w.regs x } := rfl
@[simp] theorem Party.write_g (p : Party) (n : Nat) (w : Width) (x : Nat) :
    p.write (.g n) w x = { p with g := setRegs p.g n w.regs x } := rfl

end Sys2Proof.Machine
end

