-- ==== Sys2Proof/Laws/State.lean ====
section
/-! SUPPORT. What each update of the state leaves: one lemma for every field that an update does not write, true by rfl. -/

namespace Sys2Proof.Machine

/-! ## State.setSlot writes slots -/

@[simp] theorem State.agenda_setSlot (s : State) (k : Nat) (x : Slot) : (s.setSlot k x).agenda = s.agenda := rfl
@[simp] theorem State.input_setSlot (s : State) (k : Nat) (x : Slot) : (s.setSlot k x).input = s.input := rfl
@[simp] theorem State.issue_setSlot (s : State) (k : Nat) (x : Slot) : (s.setSlot k x).issue = s.issue := rfl
@[simp] theorem State.seq_setSlot (s : State) (k : Nat) (x : Slot) : (s.setSlot k x).seq = s.seq := rfl
@[simp] theorem State.ref_setSlot (s : State) (k : Nat) (x : Slot) : (s.setSlot k x).ref = s.ref := rfl
@[simp] theorem State.pkg_setSlot (s : State) (k : Nat) (x : Slot) : (s.setSlot k x).pkg = s.pkg := rfl
@[simp] theorem State.tripped_setSlot (s : State) (k : Nat) (x : Slot) : (s.setSlot k x).tripped = s.tripped := rfl
@[simp] theorem State.cores_setSlot (s : State) (k : Nat) (x : Slot) : (s.setSlot k x).cores = s.cores := rfl
@[simp] theorem State.dies_setSlot (s : State) (k : Nat) (x : Slot) : (s.setSlot k x).dies = s.dies := rfl
@[simp] theorem State.ops_setSlot (s : State) (k : Nat) (x : Slot) : (s.setSlot k x).ops = s.ops := rfl
@[simp] theorem State.bars_setSlot (s : State) (k : Nat) (x : Slot) : (s.setSlot k x).bars = s.bars := rfl
@[simp] theorem State.members_setSlot (s : State) (k : Nat) (x : Slot) : (s.setSlot k x).members = s.members := rfl
@[simp] theorem State.dram_setSlot (s : State) (k : Nat) (x : Slot) : (s.setSlot k x).dram = s.dram := rfl
@[simp] theorem State.l2_setSlot (s : State) (k : Nat) (x : Slot) : (s.setSlot k x).l2 = s.l2 := rfl
@[simp] theorem State.tracked_setSlot (s : State) (k : Nat) (x : Slot) : (s.setSlot k x).tracked = s.tracked := rfl
@[simp] theorem State.dirRoom_setSlot (s : State) (k : Nat) (x : Slot) : (s.setSlot k x).dirRoom = s.dirRoom := rfl
@[simp] theorem State.spread_setSlot (s : State) (k : Nat) (x : Slot) : (s.setSlot k x).spread = s.spread := rfl
@[simp] theorem State.lost_setSlot (s : State) (k : Nat) (x : Slot) : (s.setSlot k x).lost = s.lost := rfl
@[simp] theorem State.damaged_setSlot (s : State) (k : Nat) (x : Slot) : (s.setSlot k x).damaged = s.damaged := rfl
@[simp] theorem State.bufs_setSlot (s : State) (k : Nat) (x : Slot) : (s.setSlot k x).bufs = s.bufs := rfl
@[simp] theorem State.keys_setSlot (s : State) (k : Nat) (x : Slot) : (s.setSlot k x).keys = s.keys := rfl
@[simp] theorem State.seals_setSlot (s : State) (k : Nat) (x : Slot) : (s.setSlot k x).seals = s.seals := rfl
@[simp] theorem State.snaps_setSlot (s : State) (k : Nat) (x : Slot) : (s.setSlot k x).snaps = s.snaps := rfl
@[simp] theorem State.migrations_setSlot (s : State) (k : Nat) (x : Slot) : (s.setSlot k x).migrations = s.migrations := rfl
@[simp] theorem State.quars_setSlot (s : State) (k : Nat) (x : Slot) : (s.setSlot k x).quars = s.quars := rfl
@[simp] theorem State.cows_setSlot (s : State) (k : Nat) (x : Slot) : (s.setSlot k x).cows = s.cows := rfl
@[simp] theorem State.pools_setSlot (s : State) (k : Nat) (x : Slot) : (s.setSlot k x).pools = s.pools := rfl
@[simp] theorem State.banks_setSlot (s : State) (k : Nat) (x : Slot) : (s.setSlot k x).banks = s.banks := rfl
@[simp] theorem State.ports_setSlot (s : State) (k : Nat) (x : Slot) : (s.setSlot k x).ports = s.ports := rfl
@[simp] theorem State.stackTab_setSlot (s : State) (k : Nat) (x : Slot) : (s.setSlot k x).stackTab = s.stackTab := rfl
@[simp] theorem State.allBankLimit_setSlot (s : State) (k : Nat) (x : Slot) : (s.setSlot k x).allBankLimit = s.allBankLimit := rfl
@[simp] theorem State.queues_setSlot (s : State) (k : Nat) (x : Slot) : (s.setSlot k x).queues = s.queues := rfl
@[simp] theorem State.packets_setSlot (s : State) (k : Nat) (x : Slot) : (s.setSlot k x).packets = s.packets := rfl
@[simp] theorem State.waits_setSlot (s : State) (k : Nat) (x : Slot) : (s.setSlot k x).waits = s.waits := rfl
@[simp] theorem State.launches_setSlot (s : State) (k : Nat) (x : Slot) : (s.setSlot k x).launches = s.launches := rfl
@[simp] theorem State.blocks_setSlot (s : State) (k : Nat) (x : Slot) : (s.setSlot k x).blocks = s.blocks := rfl
@[simp] theorem State.holdLimit_setSlot (s : State) (k : Nat) (x : Slot) : (s.setSlot k x).holdLimit = s.holdLimit := rfl
@[simp] theorem State.age_setSlot (s : State) (k : Nat) (x : Slot) : (s.setSlot k x).age = s.age := rfl
@[simp] theorem State.resInterval_setSlot (s : State) (k : Nat) (x : Slot) : (s.setSlot k x).resInterval = s.resInterval := rfl
@[simp] theorem State.qdl_setSlot (s : State) (k : Nat) (x : Slot) : (s.setSlot k x).qdl = s.qdl := rfl
@[simp] theorem State.peerTimeout_setSlot (s : State) (k : Nat) (x : Slot) : (s.setSlot k x).peerTimeout = s.peerTimeout := rfl
@[simp] theorem State.escHold_setSlot (s : State) (k : Nat) (x : Slot) : (s.setSlot k x).escHold = s.escHold := rfl
@[simp] theorem State.thresholds_setSlot (s : State) (k : Nat) (x : Slot) : (s.setSlot k x).thresholds = s.thresholds := rfl
@[simp] theorem State.windows_setSlot (s : State) (k : Nat) (x : Slot) : (s.setSlot k x).windows = s.windows := rfl
@[simp] theorem State.events_setSlot (s : State) (k : Nat) (x : Slot) : (s.setSlot k x).events = s.events := rfl
@[simp] theorem State.lanes_setSlot (s : State) (k : Nat) (x : Slot) : (s.setSlot k x).lanes = s.lanes := rfl
@[simp] theorem State.ethWidth_setSlot (s : State) (k : Nat) (x : Slot) : (s.setSlot k x).ethWidth = s.ethWidth := rfl
@[simp] theorem State.staging_setSlot (s : State) (k : Nat) (x : Slot) : (s.setSlot k x).staging = s.staging := rfl
@[simp] theorem State.due_setSlot (s : State) (k : Nat) (x : Slot) : (s.setSlot k x).due = s.due := rfl
@[simp] theorem State.armed_setSlot (s : State) (k : Nat) (x : Slot) : (s.setSlot k x).armed = s.armed := rfl
@[simp] theorem State.arming_setSlot (s : State) (k : Nat) (x : Slot) : (s.setSlot k x).arming = s.arming := rfl
@[simp] theorem State.reportSeq_setSlot (s : State) (k : Nat) (x : Slot) : (s.setSlot k x).reportSeq = s.reportSeq := rfl
@[simp] theorem State.logAddr_setSlot (s : State) (k : Nat) (x : Slot) : (s.setSlot k x).logAddr = s.logAddr := rfl
@[simp] theorem State.logN_setSlot (s : State) (k : Nat) (x : Slot) : (s.setSlot k x).logN = s.logN := rfl
@[simp] theorem State.rootDigest_setSlot (s : State) (k : Nat) (x : Slot) : (s.setSlot k x).rootDigest = s.rootDigest := rfl
@[simp] theorem State.identity_setSlot (s : State) (k : Nat) (x : Slot) : (s.setSlot k x).identity = s.identity := rfl
@[simp] theorem State.rollback_setSlot (s : State) (k : Nat) (x : Slot) : (s.setSlot k x).rollback = s.rollback := rfl
@[simp] theorem State.bootStatus_setSlot (s : State) (k : Nat) (x : Slot) : (s.setSlot k x).bootStatus = s.bootStatus := rfl
@[simp] theorem State.booted_setSlot (s : State) (k : Nat) (x : Slot) : (s.setSlot k x).booted = s.booted := rfl
@[simp] theorem State.firmware_setSlot (s : State) (k : Nat) (x : Slot) : (s.setSlot k x).firmware = s.firmware := rfl
@[simp] theorem State.budget_setSlot (s : State) (k : Nat) (x : Slot) : (s.setSlot k x).budget = s.budget := rfl
@[simp] theorem State.flowLow_setSlot (s : State) (k : Nat) (x : Slot) : (s.setSlot k x).flowLow = s.flowLow := rfl
@[simp] theorem State.coolTables_setSlot (s : State) (k : Nat) (x : Slot) : (s.setSlot k x).coolTables = s.coolTables := rfl
@[simp] theorem State.conns_setSlot (s : State) (k : Nat) (x : Slot) : (s.setSlot k x).conns = s.conns := rfl
@[simp] theorem State.outbox_setSlot (s : State) (k : Nat) (x : Slot) : (s.setSlot k x).outbox = s.outbox := rfl
@[simp] theorem State.asking_setSlot (s : State) (k : Nat) (x : Slot) : (s.setSlot k x).asking = s.asking := rfl
@[simp] theorem State.hostHeld_setSlot (s : State) (k : Nat) (x : Slot) : (s.setSlot k x).hostHeld = s.hostHeld := rfl
@[simp] theorem State.escHolds_setSlot (s : State) (k : Nat) (x : Slot) : (s.setSlot k x).escHolds = s.escHolds := rfl

/-! ## State.setCore writes cores -/

@[simp] theorem State.agenda_setCore (s : State) (k : Nat) (x : Core) : (s.setCore k x).agenda = s.agenda := rfl
@[simp] theorem State.input_setCore (s : State) (k : Nat) (x : Core) : (s.setCore k x).input = s.input := rfl
@[simp] theorem State.issue_setCore (s : State) (k : Nat) (x : Core) : (s.setCore k x).issue = s.issue := rfl
@[simp] theorem State.seq_setCore (s : State) (k : Nat) (x : Core) : (s.setCore k x).seq = s.seq := rfl
@[simp] theorem State.ref_setCore (s : State) (k : Nat) (x : Core) : (s.setCore k x).ref = s.ref := rfl
@[simp] theorem State.pkg_setCore (s : State) (k : Nat) (x : Core) : (s.setCore k x).pkg = s.pkg := rfl
@[simp] theorem State.tripped_setCore (s : State) (k : Nat) (x : Core) : (s.setCore k x).tripped = s.tripped := rfl
@[simp] theorem State.slots_setCore (s : State) (k : Nat) (x : Core) : (s.setCore k x).slots = s.slots := rfl
@[simp] theorem State.dies_setCore (s : State) (k : Nat) (x : Core) : (s.setCore k x).dies = s.dies := rfl
@[simp] theorem State.ops_setCore (s : State) (k : Nat) (x : Core) : (s.setCore k x).ops = s.ops := rfl
@[simp] theorem State.bars_setCore (s : State) (k : Nat) (x : Core) : (s.setCore k x).bars = s.bars := rfl
@[simp] theorem State.members_setCore (s : State) (k : Nat) (x : Core) : (s.setCore k x).members = s.members := rfl
@[simp] theorem State.dram_setCore (s : State) (k : Nat) (x : Core) : (s.setCore k x).dram = s.dram := rfl
@[simp] theorem State.l2_setCore (s : State) (k : Nat) (x : Core) : (s.setCore k x).l2 = s.l2 := rfl
@[simp] theorem State.tracked_setCore (s : State) (k : Nat) (x : Core) : (s.setCore k x).tracked = s.tracked := rfl
@[simp] theorem State.dirRoom_setCore (s : State) (k : Nat) (x : Core) : (s.setCore k x).dirRoom = s.dirRoom := rfl
@[simp] theorem State.spread_setCore (s : State) (k : Nat) (x : Core) : (s.setCore k x).spread = s.spread := rfl
@[simp] theorem State.lost_setCore (s : State) (k : Nat) (x : Core) : (s.setCore k x).lost = s.lost := rfl
@[simp] theorem State.damaged_setCore (s : State) (k : Nat) (x : Core) : (s.setCore k x).damaged = s.damaged := rfl
@[simp] theorem State.bufs_setCore (s : State) (k : Nat) (x : Core) : (s.setCore k x).bufs = s.bufs := rfl
@[simp] theorem State.keys_setCore (s : State) (k : Nat) (x : Core) : (s.setCore k x).keys = s.keys := rfl
@[simp] theorem State.seals_setCore (s : State) (k : Nat) (x : Core) : (s.setCore k x).seals = s.seals := rfl
@[simp] theorem State.snaps_setCore (s : State) (k : Nat) (x : Core) : (s.setCore k x).snaps = s.snaps := rfl
@[simp] theorem State.migrations_setCore (s : State) (k : Nat) (x : Core) : (s.setCore k x).migrations = s.migrations := rfl
@[simp] theorem State.quars_setCore (s : State) (k : Nat) (x : Core) : (s.setCore k x).quars = s.quars := rfl
@[simp] theorem State.cows_setCore (s : State) (k : Nat) (x : Core) : (s.setCore k x).cows = s.cows := rfl
@[simp] theorem State.pools_setCore (s : State) (k : Nat) (x : Core) : (s.setCore k x).pools = s.pools := rfl
@[simp] theorem State.banks_setCore (s : State) (k : Nat) (x : Core) : (s.setCore k x).banks = s.banks := rfl
@[simp] theorem State.ports_setCore (s : State) (k : Nat) (x : Core) : (s.setCore k x).ports = s.ports := rfl
@[simp] theorem State.stackTab_setCore (s : State) (k : Nat) (x : Core) : (s.setCore k x).stackTab = s.stackTab := rfl
@[simp] theorem State.allBankLimit_setCore (s : State) (k : Nat) (x : Core) : (s.setCore k x).allBankLimit = s.allBankLimit := rfl
@[simp] theorem State.queues_setCore (s : State) (k : Nat) (x : Core) : (s.setCore k x).queues = s.queues := rfl
@[simp] theorem State.packets_setCore (s : State) (k : Nat) (x : Core) : (s.setCore k x).packets = s.packets := rfl
@[simp] theorem State.waits_setCore (s : State) (k : Nat) (x : Core) : (s.setCore k x).waits = s.waits := rfl
@[simp] theorem State.launches_setCore (s : State) (k : Nat) (x : Core) : (s.setCore k x).launches = s.launches := rfl
@[simp] theorem State.blocks_setCore (s : State) (k : Nat) (x : Core) : (s.setCore k x).blocks = s.blocks := rfl
@[simp] theorem State.holdLimit_setCore (s : State) (k : Nat) (x : Core) : (s.setCore k x).holdLimit = s.holdLimit := rfl
@[simp] theorem State.age_setCore (s : State) (k : Nat) (x : Core) : (s.setCore k x).age = s.age := rfl
@[simp] theorem State.resInterval_setCore (s : State) (k : Nat) (x : Core) : (s.setCore k x).resInterval = s.resInterval := rfl
@[simp] theorem State.qdl_setCore (s : State) (k : Nat) (x : Core) : (s.setCore k x).qdl = s.qdl := rfl
@[simp] theorem State.peerTimeout_setCore (s : State) (k : Nat) (x : Core) : (s.setCore k x).peerTimeout = s.peerTimeout := rfl
@[simp] theorem State.escHold_setCore (s : State) (k : Nat) (x : Core) : (s.setCore k x).escHold = s.escHold := rfl
@[simp] theorem State.thresholds_setCore (s : State) (k : Nat) (x : Core) : (s.setCore k x).thresholds = s.thresholds := rfl
@[simp] theorem State.windows_setCore (s : State) (k : Nat) (x : Core) : (s.setCore k x).windows = s.windows := rfl
@[simp] theorem State.events_setCore (s : State) (k : Nat) (x : Core) : (s.setCore k x).events = s.events := rfl
@[simp] theorem State.lanes_setCore (s : State) (k : Nat) (x : Core) : (s.setCore k x).lanes = s.lanes := rfl
@[simp] theorem State.ethWidth_setCore (s : State) (k : Nat) (x : Core) : (s.setCore k x).ethWidth = s.ethWidth := rfl
@[simp] theorem State.staging_setCore (s : State) (k : Nat) (x : Core) : (s.setCore k x).staging = s.staging := rfl
@[simp] theorem State.due_setCore (s : State) (k : Nat) (x : Core) : (s.setCore k x).due = s.due := rfl
@[simp] theorem State.armed_setCore (s : State) (k : Nat) (x : Core) : (s.setCore k x).armed = s.armed := rfl
@[simp] theorem State.arming_setCore (s : State) (k : Nat) (x : Core) : (s.setCore k x).arming = s.arming := rfl
@[simp] theorem State.reportSeq_setCore (s : State) (k : Nat) (x : Core) : (s.setCore k x).reportSeq = s.reportSeq := rfl
@[simp] theorem State.logAddr_setCore (s : State) (k : Nat) (x : Core) : (s.setCore k x).logAddr = s.logAddr := rfl
@[simp] theorem State.logN_setCore (s : State) (k : Nat) (x : Core) : (s.setCore k x).logN = s.logN := rfl
@[simp] theorem State.rootDigest_setCore (s : State) (k : Nat) (x : Core) : (s.setCore k x).rootDigest = s.rootDigest := rfl
@[simp] theorem State.identity_setCore (s : State) (k : Nat) (x : Core) : (s.setCore k x).identity = s.identity := rfl
@[simp] theorem State.rollback_setCore (s : State) (k : Nat) (x : Core) : (s.setCore k x).rollback = s.rollback := rfl
@[simp] theorem State.bootStatus_setCore (s : State) (k : Nat) (x : Core) : (s.setCore k x).bootStatus = s.bootStatus := rfl
@[simp] theorem State.booted_setCore (s : State) (k : Nat) (x : Core) : (s.setCore k x).booted = s.booted := rfl
@[simp] theorem State.firmware_setCore (s : State) (k : Nat) (x : Core) : (s.setCore k x).firmware = s.firmware := rfl
@[simp] theorem State.budget_setCore (s : State) (k : Nat) (x : Core) : (s.setCore k x).budget = s.budget := rfl
@[simp] theorem State.flowLow_setCore (s : State) (k : Nat) (x : Core) : (s.setCore k x).flowLow = s.flowLow := rfl
@[simp] theorem State.coolTables_setCore (s : State) (k : Nat) (x : Core) : (s.setCore k x).coolTables = s.coolTables := rfl
@[simp] theorem State.conns_setCore (s : State) (k : Nat) (x : Core) : (s.setCore k x).conns = s.conns := rfl
@[simp] theorem State.outbox_setCore (s : State) (k : Nat) (x : Core) : (s.setCore k x).outbox = s.outbox := rfl
@[simp] theorem State.asking_setCore (s : State) (k : Nat) (x : Core) : (s.setCore k x).asking = s.asking := rfl
@[simp] theorem State.hostHeld_setCore (s : State) (k : Nat) (x : Core) : (s.setCore k x).hostHeld = s.hostHeld := rfl
@[simp] theorem State.escHolds_setCore (s : State) (k : Nat) (x : Core) : (s.setCore k x).escHolds = s.escHolds := rfl

/-! ## State.setDie writes dies -/

@[simp] theorem State.agenda_setDie (s : State) (k : Nat) (x : Die) : (s.setDie k x).agenda = s.agenda := rfl
@[simp] theorem State.input_setDie (s : State) (k : Nat) (x : Die) : (s.setDie k x).input = s.input := rfl
@[simp] theorem State.issue_setDie (s : State) (k : Nat) (x : Die) : (s.setDie k x).issue = s.issue := rfl
@[simp] theorem State.seq_setDie (s : State) (k : Nat) (x : Die) : (s.setDie k x).seq = s.seq := rfl
@[simp] theorem State.ref_setDie (s : State) (k : Nat) (x : Die) : (s.setDie k x).ref = s.ref := rfl
@[simp] theorem State.pkg_setDie (s : State) (k : Nat) (x : Die) : (s.setDie k x).pkg = s.pkg := rfl
@[simp] theorem State.tripped_setDie (s : State) (k : Nat) (x : Die) : (s.setDie k x).tripped = s.tripped := rfl
@[simp] theorem State.slots_setDie (s : State) (k : Nat) (x : Die) : (s.setDie k x).slots = s.slots := rfl
@[simp] theorem State.cores_setDie (s : State) (k : Nat) (x : Die) : (s.setDie k x).cores = s.cores := rfl
@[simp] theorem State.ops_setDie (s : State) (k : Nat) (x : Die) : (s.setDie k x).ops = s.ops := rfl
@[simp] theorem State.bars_setDie (s : State) (k : Nat) (x : Die) : (s.setDie k x).bars = s.bars := rfl
@[simp] theorem State.members_setDie (s : State) (k : Nat) (x : Die) : (s.setDie k x).members = s.members := rfl
@[simp] theorem State.dram_setDie (s : State) (k : Nat) (x : Die) : (s.setDie k x).dram = s.dram := rfl
@[simp] theorem State.l2_setDie (s : State) (k : Nat) (x : Die) : (s.setDie k x).l2 = s.l2 := rfl
@[simp] theorem State.tracked_setDie (s : State) (k : Nat) (x : Die) : (s.setDie k x).tracked = s.tracked := rfl
@[simp] theorem State.dirRoom_setDie (s : State) (k : Nat) (x : Die) : (s.setDie k x).dirRoom = s.dirRoom := rfl
@[simp] theorem State.spread_setDie (s : State) (k : Nat) (x : Die) : (s.setDie k x).spread = s.spread := rfl
@[simp] theorem State.lost_setDie (s : State) (k : Nat) (x : Die) : (s.setDie k x).lost = s.lost := rfl
@[simp] theorem State.damaged_setDie (s : State) (k : Nat) (x : Die) : (s.setDie k x).damaged = s.damaged := rfl
@[simp] theorem State.bufs_setDie (s : State) (k : Nat) (x : Die) : (s.setDie k x).bufs = s.bufs := rfl
@[simp] theorem State.keys_setDie (s : State) (k : Nat) (x : Die) : (s.setDie k x).keys = s.keys := rfl
@[simp] theorem State.seals_setDie (s : State) (k : Nat) (x : Die) : (s.setDie k x).seals = s.seals := rfl
@[simp] theorem State.snaps_setDie (s : State) (k : Nat) (x : Die) : (s.setDie k x).snaps = s.snaps := rfl
@[simp] theorem State.migrations_setDie (s : State) (k : Nat) (x : Die) : (s.setDie k x).migrations = s.migrations := rfl
@[simp] theorem State.quars_setDie (s : State) (k : Nat) (x : Die) : (s.setDie k x).quars = s.quars := rfl
@[simp] theorem State.cows_setDie (s : State) (k : Nat) (x : Die) : (s.setDie k x).cows = s.cows := rfl
@[simp] theorem State.pools_setDie (s : State) (k : Nat) (x : Die) : (s.setDie k x).pools = s.pools := rfl
@[simp] theorem State.banks_setDie (s : State) (k : Nat) (x : Die) : (s.setDie k x).banks = s.banks := rfl
@[simp] theorem State.ports_setDie (s : State) (k : Nat) (x : Die) : (s.setDie k x).ports = s.ports := rfl
@[simp] theorem State.stackTab_setDie (s : State) (k : Nat) (x : Die) : (s.setDie k x).stackTab = s.stackTab := rfl
@[simp] theorem State.allBankLimit_setDie (s : State) (k : Nat) (x : Die) : (s.setDie k x).allBankLimit = s.allBankLimit := rfl
@[simp] theorem State.queues_setDie (s : State) (k : Nat) (x : Die) : (s.setDie k x).queues = s.queues := rfl
@[simp] theorem State.packets_setDie (s : State) (k : Nat) (x : Die) : (s.setDie k x).packets = s.packets := rfl
@[simp] theorem State.waits_setDie (s : State) (k : Nat) (x : Die) : (s.setDie k x).waits = s.waits := rfl
@[simp] theorem State.launches_setDie (s : State) (k : Nat) (x : Die) : (s.setDie k x).launches = s.launches := rfl
@[simp] theorem State.blocks_setDie (s : State) (k : Nat) (x : Die) : (s.setDie k x).blocks = s.blocks := rfl
@[simp] theorem State.holdLimit_setDie (s : State) (k : Nat) (x : Die) : (s.setDie k x).holdLimit = s.holdLimit := rfl
@[simp] theorem State.age_setDie (s : State) (k : Nat) (x : Die) : (s.setDie k x).age = s.age := rfl
@[simp] theorem State.resInterval_setDie (s : State) (k : Nat) (x : Die) : (s.setDie k x).resInterval = s.resInterval := rfl
@[simp] theorem State.qdl_setDie (s : State) (k : Nat) (x : Die) : (s.setDie k x).qdl = s.qdl := rfl
@[simp] theorem State.peerTimeout_setDie (s : State) (k : Nat) (x : Die) : (s.setDie k x).peerTimeout = s.peerTimeout := rfl
@[simp] theorem State.escHold_setDie (s : State) (k : Nat) (x : Die) : (s.setDie k x).escHold = s.escHold := rfl
@[simp] theorem State.thresholds_setDie (s : State) (k : Nat) (x : Die) : (s.setDie k x).thresholds = s.thresholds := rfl
@[simp] theorem State.windows_setDie (s : State) (k : Nat) (x : Die) : (s.setDie k x).windows = s.windows := rfl
@[simp] theorem State.events_setDie (s : State) (k : Nat) (x : Die) : (s.setDie k x).events = s.events := rfl
@[simp] theorem State.lanes_setDie (s : State) (k : Nat) (x : Die) : (s.setDie k x).lanes = s.lanes := rfl
@[simp] theorem State.ethWidth_setDie (s : State) (k : Nat) (x : Die) : (s.setDie k x).ethWidth = s.ethWidth := rfl
@[simp] theorem State.staging_setDie (s : State) (k : Nat) (x : Die) : (s.setDie k x).staging = s.staging := rfl
@[simp] theorem State.due_setDie (s : State) (k : Nat) (x : Die) : (s.setDie k x).due = s.due := rfl
@[simp] theorem State.armed_setDie (s : State) (k : Nat) (x : Die) : (s.setDie k x).armed = s.armed := rfl
@[simp] theorem State.arming_setDie (s : State) (k : Nat) (x : Die) : (s.setDie k x).arming = s.arming := rfl
@[simp] theorem State.reportSeq_setDie (s : State) (k : Nat) (x : Die) : (s.setDie k x).reportSeq = s.reportSeq := rfl
@[simp] theorem State.logAddr_setDie (s : State) (k : Nat) (x : Die) : (s.setDie k x).logAddr = s.logAddr := rfl
@[simp] theorem State.logN_setDie (s : State) (k : Nat) (x : Die) : (s.setDie k x).logN = s.logN := rfl
@[simp] theorem State.rootDigest_setDie (s : State) (k : Nat) (x : Die) : (s.setDie k x).rootDigest = s.rootDigest := rfl
@[simp] theorem State.identity_setDie (s : State) (k : Nat) (x : Die) : (s.setDie k x).identity = s.identity := rfl
@[simp] theorem State.rollback_setDie (s : State) (k : Nat) (x : Die) : (s.setDie k x).rollback = s.rollback := rfl
@[simp] theorem State.bootStatus_setDie (s : State) (k : Nat) (x : Die) : (s.setDie k x).bootStatus = s.bootStatus := rfl
@[simp] theorem State.booted_setDie (s : State) (k : Nat) (x : Die) : (s.setDie k x).booted = s.booted := rfl
@[simp] theorem State.firmware_setDie (s : State) (k : Nat) (x : Die) : (s.setDie k x).firmware = s.firmware := rfl
@[simp] theorem State.budget_setDie (s : State) (k : Nat) (x : Die) : (s.setDie k x).budget = s.budget := rfl
@[simp] theorem State.flowLow_setDie (s : State) (k : Nat) (x : Die) : (s.setDie k x).flowLow = s.flowLow := rfl
@[simp] theorem State.coolTables_setDie (s : State) (k : Nat) (x : Die) : (s.setDie k x).coolTables = s.coolTables := rfl
@[simp] theorem State.conns_setDie (s : State) (k : Nat) (x : Die) : (s.setDie k x).conns = s.conns := rfl
@[simp] theorem State.outbox_setDie (s : State) (k : Nat) (x : Die) : (s.setDie k x).outbox = s.outbox := rfl
@[simp] theorem State.asking_setDie (s : State) (k : Nat) (x : Die) : (s.setDie k x).asking = s.asking := rfl
@[simp] theorem State.hostHeld_setDie (s : State) (k : Nat) (x : Die) : (s.setDie k x).hostHeld = s.hostHeld := rfl
@[simp] theorem State.escHolds_setDie (s : State) (k : Nat) (x : Die) : (s.setDie k x).escHolds = s.escHolds := rfl

/-! ## State.setParty writes slots -/

@[simp] theorem State.agenda_setParty (s : State) (k : Nat) (p : Party) : (s.setParty k p).agenda = s.agenda := rfl
@[simp] theorem State.input_setParty (s : State) (k : Nat) (p : Party) : (s.setParty k p).input = s.input := rfl
@[simp] theorem State.issue_setParty (s : State) (k : Nat) (p : Party) : (s.setParty k p).issue = s.issue := rfl
@[simp] theorem State.seq_setParty (s : State) (k : Nat) (p : Party) : (s.setParty k p).seq = s.seq := rfl
@[simp] theorem State.ref_setParty (s : State) (k : Nat) (p : Party) : (s.setParty k p).ref = s.ref := rfl
@[simp] theorem State.pkg_setParty (s : State) (k : Nat) (p : Party) : (s.setParty k p).pkg = s.pkg := rfl
@[simp] theorem State.tripped_setParty (s : State) (k : Nat) (p : Party) : (s.setParty k p).tripped = s.tripped := rfl
@[simp] theorem State.cores_setParty (s : State) (k : Nat) (p : Party) : (s.setParty k p).cores = s.cores := rfl
@[simp] theorem State.dies_setParty (s : State) (k : Nat) (p : Party) : (s.setParty k p).dies = s.dies := rfl
@[simp] theorem State.ops_setParty (s : State) (k : Nat) (p : Party) : (s.setParty k p).ops = s.ops := rfl
@[simp] theorem State.bars_setParty (s : State) (k : Nat) (p : Party) : (s.setParty k p).bars = s.bars := rfl
@[simp] theorem State.members_setParty (s : State) (k : Nat) (p : Party) : (s.setParty k p).members = s.members := rfl
@[simp] theorem State.dram_setParty (s : State) (k : Nat) (p : Party) : (s.setParty k p).dram = s.dram := rfl
@[simp] theorem State.l2_setParty (s : State) (k : Nat) (p : Party) : (s.setParty k p).l2 = s.l2 := rfl
@[simp] theorem State.tracked_setParty (s : State) (k : Nat) (p : Party) : (s.setParty k p).tracked = s.tracked := rfl
@[simp] theorem State.dirRoom_setParty (s : State) (k : Nat) (p : Party) : (s.setParty k p).dirRoom = s.dirRoom := rfl
@[simp] theorem State.spread_setParty (s : State) (k : Nat) (p : Party) : (s.setParty k p).spread = s.spread := rfl
@[simp] theorem State.lost_setParty (s : State) (k : Nat) (p : Party) : (s.setParty k p).lost = s.lost := rfl
@[simp] theorem State.damaged_setParty (s : State) (k : Nat) (p : Party) : (s.setParty k p).damaged = s.damaged := rfl
@[simp] theorem State.bufs_setParty (s : State) (k : Nat) (p : Party) : (s.setParty k p).bufs = s.bufs := rfl
@[simp] theorem State.keys_setParty (s : State) (k : Nat) (p : Party) : (s.setParty k p).keys = s.keys := rfl
@[simp] theorem State.seals_setParty (s : State) (k : Nat) (p : Party) : (s.setParty k p).seals = s.seals := rfl
@[simp] theorem State.snaps_setParty (s : State) (k : Nat) (p : Party) : (s.setParty k p).snaps = s.snaps := rfl
@[simp] theorem State.migrations_setParty (s : State) (k : Nat) (p : Party) : (s.setParty k p).migrations = s.migrations := rfl
@[simp] theorem State.quars_setParty (s : State) (k : Nat) (p : Party) : (s.setParty k p).quars = s.quars := rfl
@[simp] theorem State.cows_setParty (s : State) (k : Nat) (p : Party) : (s.setParty k p).cows = s.cows := rfl
@[simp] theorem State.pools_setParty (s : State) (k : Nat) (p : Party) : (s.setParty k p).pools = s.pools := rfl
@[simp] theorem State.banks_setParty (s : State) (k : Nat) (p : Party) : (s.setParty k p).banks = s.banks := rfl
@[simp] theorem State.ports_setParty (s : State) (k : Nat) (p : Party) : (s.setParty k p).ports = s.ports := rfl
@[simp] theorem State.stackTab_setParty (s : State) (k : Nat) (p : Party) : (s.setParty k p).stackTab = s.stackTab := rfl
@[simp] theorem State.allBankLimit_setParty (s : State) (k : Nat) (p : Party) : (s.setParty k p).allBankLimit = s.allBankLimit := rfl
@[simp] theorem State.queues_setParty (s : State) (k : Nat) (p : Party) : (s.setParty k p).queues = s.queues := rfl
@[simp] theorem State.packets_setParty (s : State) (k : Nat) (p : Party) : (s.setParty k p).packets = s.packets := rfl
@[simp] theorem State.waits_setParty (s : State) (k : Nat) (p : Party) : (s.setParty k p).waits = s.waits := rfl
@[simp] theorem State.launches_setParty (s : State) (k : Nat) (p : Party) : (s.setParty k p).launches = s.launches := rfl
@[simp] theorem State.blocks_setParty (s : State) (k : Nat) (p : Party) : (s.setParty k p).blocks = s.blocks := rfl
@[simp] theorem State.holdLimit_setParty (s : State) (k : Nat) (p : Party) : (s.setParty k p).holdLimit = s.holdLimit := rfl
@[simp] theorem State.age_setParty (s : State) (k : Nat) (p : Party) : (s.setParty k p).age = s.age := rfl
@[simp] theorem State.resInterval_setParty (s : State) (k : Nat) (p : Party) : (s.setParty k p).resInterval = s.resInterval := rfl
@[simp] theorem State.qdl_setParty (s : State) (k : Nat) (p : Party) : (s.setParty k p).qdl = s.qdl := rfl
@[simp] theorem State.peerTimeout_setParty (s : State) (k : Nat) (p : Party) : (s.setParty k p).peerTimeout = s.peerTimeout := rfl
@[simp] theorem State.escHold_setParty (s : State) (k : Nat) (p : Party) : (s.setParty k p).escHold = s.escHold := rfl
@[simp] theorem State.thresholds_setParty (s : State) (k : Nat) (p : Party) : (s.setParty k p).thresholds = s.thresholds := rfl
@[simp] theorem State.windows_setParty (s : State) (k : Nat) (p : Party) : (s.setParty k p).windows = s.windows := rfl
@[simp] theorem State.events_setParty (s : State) (k : Nat) (p : Party) : (s.setParty k p).events = s.events := rfl
@[simp] theorem State.lanes_setParty (s : State) (k : Nat) (p : Party) : (s.setParty k p).lanes = s.lanes := rfl
@[simp] theorem State.ethWidth_setParty (s : State) (k : Nat) (p : Party) : (s.setParty k p).ethWidth = s.ethWidth := rfl
@[simp] theorem State.staging_setParty (s : State) (k : Nat) (p : Party) : (s.setParty k p).staging = s.staging := rfl
@[simp] theorem State.due_setParty (s : State) (k : Nat) (p : Party) : (s.setParty k p).due = s.due := rfl
@[simp] theorem State.armed_setParty (s : State) (k : Nat) (p : Party) : (s.setParty k p).armed = s.armed := rfl
@[simp] theorem State.arming_setParty (s : State) (k : Nat) (p : Party) : (s.setParty k p).arming = s.arming := rfl
@[simp] theorem State.reportSeq_setParty (s : State) (k : Nat) (p : Party) : (s.setParty k p).reportSeq = s.reportSeq := rfl
@[simp] theorem State.logAddr_setParty (s : State) (k : Nat) (p : Party) : (s.setParty k p).logAddr = s.logAddr := rfl
@[simp] theorem State.logN_setParty (s : State) (k : Nat) (p : Party) : (s.setParty k p).logN = s.logN := rfl
@[simp] theorem State.rootDigest_setParty (s : State) (k : Nat) (p : Party) : (s.setParty k p).rootDigest = s.rootDigest := rfl
@[simp] theorem State.identity_setParty (s : State) (k : Nat) (p : Party) : (s.setParty k p).identity = s.identity := rfl
@[simp] theorem State.rollback_setParty (s : State) (k : Nat) (p : Party) : (s.setParty k p).rollback = s.rollback := rfl
@[simp] theorem State.bootStatus_setParty (s : State) (k : Nat) (p : Party) : (s.setParty k p).bootStatus = s.bootStatus := rfl
@[simp] theorem State.booted_setParty (s : State) (k : Nat) (p : Party) : (s.setParty k p).booted = s.booted := rfl
@[simp] theorem State.firmware_setParty (s : State) (k : Nat) (p : Party) : (s.setParty k p).firmware = s.firmware := rfl
@[simp] theorem State.budget_setParty (s : State) (k : Nat) (p : Party) : (s.setParty k p).budget = s.budget := rfl
@[simp] theorem State.flowLow_setParty (s : State) (k : Nat) (p : Party) : (s.setParty k p).flowLow = s.flowLow := rfl
@[simp] theorem State.coolTables_setParty (s : State) (k : Nat) (p : Party) : (s.setParty k p).coolTables = s.coolTables := rfl
@[simp] theorem State.conns_setParty (s : State) (k : Nat) (p : Party) : (s.setParty k p).conns = s.conns := rfl
@[simp] theorem State.outbox_setParty (s : State) (k : Nat) (p : Party) : (s.setParty k p).outbox = s.outbox := rfl
@[simp] theorem State.asking_setParty (s : State) (k : Nat) (p : Party) : (s.setParty k p).asking = s.asking := rfl
@[simp] theorem State.hostHeld_setParty (s : State) (k : Nat) (p : Party) : (s.setParty k p).hostHeld = s.hostHeld := rfl
@[simp] theorem State.escHolds_setParty (s : State) (k : Nat) (p : Party) : (s.setParty k p).escHolds = s.escHolds := rfl

/-! ## State.setStack writes stackTab -/

@[simp] theorem State.agenda_setStack (s : State) (k : Nat) (x : Stack) : (s.setStack k x).agenda = s.agenda := rfl
@[simp] theorem State.input_setStack (s : State) (k : Nat) (x : Stack) : (s.setStack k x).input = s.input := rfl
@[simp] theorem State.issue_setStack (s : State) (k : Nat) (x : Stack) : (s.setStack k x).issue = s.issue := rfl
@[simp] theorem State.seq_setStack (s : State) (k : Nat) (x : Stack) : (s.setStack k x).seq = s.seq := rfl
@[simp] theorem State.ref_setStack (s : State) (k : Nat) (x : Stack) : (s.setStack k x).ref = s.ref := rfl
@[simp] theorem State.pkg_setStack (s : State) (k : Nat) (x : Stack) : (s.setStack k x).pkg = s.pkg := rfl
@[simp] theorem State.tripped_setStack (s : State) (k : Nat) (x : Stack) : (s.setStack k x).tripped = s.tripped := rfl
@[simp] theorem State.slots_setStack (s : State) (k : Nat) (x : Stack) : (s.setStack k x).slots = s.slots := rfl
@[simp] theorem State.cores_setStack (s : State) (k : Nat) (x : Stack) : (s.setStack k x).cores = s.cores := rfl
@[simp] theorem State.dies_setStack (s : State) (k : Nat) (x : Stack) : (s.setStack k x).dies = s.dies := rfl
@[simp] theorem State.ops_setStack (s : State) (k : Nat) (x : Stack) : (s.setStack k x).ops = s.ops := rfl
@[simp] theorem State.bars_setStack (s : State) (k : Nat) (x : Stack) : (s.setStack k x).bars = s.bars := rfl
@[simp] theorem State.members_setStack (s : State) (k : Nat) (x : Stack) : (s.setStack k x).members = s.members := rfl
@[simp] theorem State.dram_setStack (s : State) (k : Nat) (x : Stack) : (s.setStack k x).dram = s.dram := rfl
@[simp] theorem State.l2_setStack (s : State) (k : Nat) (x : Stack) : (s.setStack k x).l2 = s.l2 := rfl
@[simp] theorem State.tracked_setStack (s : State) (k : Nat) (x : Stack) : (s.setStack k x).tracked = s.tracked := rfl
@[simp] theorem State.dirRoom_setStack (s : State) (k : Nat) (x : Stack) : (s.setStack k x).dirRoom = s.dirRoom := rfl
@[simp] theorem State.spread_setStack (s : State) (k : Nat) (x : Stack) : (s.setStack k x).spread = s.spread := rfl
@[simp] theorem State.lost_setStack (s : State) (k : Nat) (x : Stack) : (s.setStack k x).lost = s.lost := rfl
@[simp] theorem State.damaged_setStack (s : State) (k : Nat) (x : Stack) : (s.setStack k x).damaged = s.damaged := rfl
@[simp] theorem State.bufs_setStack (s : State) (k : Nat) (x : Stack) : (s.setStack k x).bufs = s.bufs := rfl
@[simp] theorem State.keys_setStack (s : State) (k : Nat) (x : Stack) : (s.setStack k x).keys = s.keys := rfl
@[simp] theorem State.seals_setStack (s : State) (k : Nat) (x : Stack) : (s.setStack k x).seals = s.seals := rfl
@[simp] theorem State.snaps_setStack (s : State) (k : Nat) (x : Stack) : (s.setStack k x).snaps = s.snaps := rfl
@[simp] theorem State.migrations_setStack (s : State) (k : Nat) (x : Stack) : (s.setStack k x).migrations = s.migrations := rfl
@[simp] theorem State.quars_setStack (s : State) (k : Nat) (x : Stack) : (s.setStack k x).quars = s.quars := rfl
@[simp] theorem State.cows_setStack (s : State) (k : Nat) (x : Stack) : (s.setStack k x).cows = s.cows := rfl
@[simp] theorem State.pools_setStack (s : State) (k : Nat) (x : Stack) : (s.setStack k x).pools = s.pools := rfl
@[simp] theorem State.banks_setStack (s : State) (k : Nat) (x : Stack) : (s.setStack k x).banks = s.banks := rfl
@[simp] theorem State.ports_setStack (s : State) (k : Nat) (x : Stack) : (s.setStack k x).ports = s.ports := rfl
@[simp] theorem State.allBankLimit_setStack (s : State) (k : Nat) (x : Stack) : (s.setStack k x).allBankLimit = s.allBankLimit := rfl
@[simp] theorem State.queues_setStack (s : State) (k : Nat) (x : Stack) : (s.setStack k x).queues = s.queues := rfl
@[simp] theorem State.packets_setStack (s : State) (k : Nat) (x : Stack) : (s.setStack k x).packets = s.packets := rfl
@[simp] theorem State.waits_setStack (s : State) (k : Nat) (x : Stack) : (s.setStack k x).waits = s.waits := rfl
@[simp] theorem State.launches_setStack (s : State) (k : Nat) (x : Stack) : (s.setStack k x).launches = s.launches := rfl
@[simp] theorem State.blocks_setStack (s : State) (k : Nat) (x : Stack) : (s.setStack k x).blocks = s.blocks := rfl
@[simp] theorem State.holdLimit_setStack (s : State) (k : Nat) (x : Stack) : (s.setStack k x).holdLimit = s.holdLimit := rfl
@[simp] theorem State.age_setStack (s : State) (k : Nat) (x : Stack) : (s.setStack k x).age = s.age := rfl
@[simp] theorem State.resInterval_setStack (s : State) (k : Nat) (x : Stack) : (s.setStack k x).resInterval = s.resInterval := rfl
@[simp] theorem State.qdl_setStack (s : State) (k : Nat) (x : Stack) : (s.setStack k x).qdl = s.qdl := rfl
@[simp] theorem State.peerTimeout_setStack (s : State) (k : Nat) (x : Stack) : (s.setStack k x).peerTimeout = s.peerTimeout := rfl
@[simp] theorem State.escHold_setStack (s : State) (k : Nat) (x : Stack) : (s.setStack k x).escHold = s.escHold := rfl
@[simp] theorem State.thresholds_setStack (s : State) (k : Nat) (x : Stack) : (s.setStack k x).thresholds = s.thresholds := rfl
@[simp] theorem State.windows_setStack (s : State) (k : Nat) (x : Stack) : (s.setStack k x).windows = s.windows := rfl
@[simp] theorem State.events_setStack (s : State) (k : Nat) (x : Stack) : (s.setStack k x).events = s.events := rfl
@[simp] theorem State.lanes_setStack (s : State) (k : Nat) (x : Stack) : (s.setStack k x).lanes = s.lanes := rfl
@[simp] theorem State.ethWidth_setStack (s : State) (k : Nat) (x : Stack) : (s.setStack k x).ethWidth = s.ethWidth := rfl
@[simp] theorem State.staging_setStack (s : State) (k : Nat) (x : Stack) : (s.setStack k x).staging = s.staging := rfl
@[simp] theorem State.due_setStack (s : State) (k : Nat) (x : Stack) : (s.setStack k x).due = s.due := rfl
@[simp] theorem State.armed_setStack (s : State) (k : Nat) (x : Stack) : (s.setStack k x).armed = s.armed := rfl
@[simp] theorem State.arming_setStack (s : State) (k : Nat) (x : Stack) : (s.setStack k x).arming = s.arming := rfl
@[simp] theorem State.reportSeq_setStack (s : State) (k : Nat) (x : Stack) : (s.setStack k x).reportSeq = s.reportSeq := rfl
@[simp] theorem State.logAddr_setStack (s : State) (k : Nat) (x : Stack) : (s.setStack k x).logAddr = s.logAddr := rfl
@[simp] theorem State.logN_setStack (s : State) (k : Nat) (x : Stack) : (s.setStack k x).logN = s.logN := rfl
@[simp] theorem State.rootDigest_setStack (s : State) (k : Nat) (x : Stack) : (s.setStack k x).rootDigest = s.rootDigest := rfl
@[simp] theorem State.identity_setStack (s : State) (k : Nat) (x : Stack) : (s.setStack k x).identity = s.identity := rfl
@[simp] theorem State.rollback_setStack (s : State) (k : Nat) (x : Stack) : (s.setStack k x).rollback = s.rollback := rfl
@[simp] theorem State.bootStatus_setStack (s : State) (k : Nat) (x : Stack) : (s.setStack k x).bootStatus = s.bootStatus := rfl
@[simp] theorem State.booted_setStack (s : State) (k : Nat) (x : Stack) : (s.setStack k x).booted = s.booted := rfl
@[simp] theorem State.firmware_setStack (s : State) (k : Nat) (x : Stack) : (s.setStack k x).firmware = s.firmware := rfl
@[simp] theorem State.budget_setStack (s : State) (k : Nat) (x : Stack) : (s.setStack k x).budget = s.budget := rfl
@[simp] theorem State.flowLow_setStack (s : State) (k : Nat) (x : Stack) : (s.setStack k x).flowLow = s.flowLow := rfl
@[simp] theorem State.coolTables_setStack (s : State) (k : Nat) (x : Stack) : (s.setStack k x).coolTables = s.coolTables := rfl
@[simp] theorem State.conns_setStack (s : State) (k : Nat) (x : Stack) : (s.setStack k x).conns = s.conns := rfl
@[simp] theorem State.outbox_setStack (s : State) (k : Nat) (x : Stack) : (s.setStack k x).outbox = s.outbox := rfl
@[simp] theorem State.asking_setStack (s : State) (k : Nat) (x : Stack) : (s.setStack k x).asking = s.asking := rfl
@[simp] theorem State.hostHeld_setStack (s : State) (k : Nat) (x : Stack) : (s.setStack k x).hostHeld = s.hostHeld := rfl
@[simp] theorem State.escHolds_setStack (s : State) (k : Nat) (x : Stack) : (s.setStack k x).escHolds = s.escHolds := rfl

/-! ## State.setPort writes ports -/

@[simp] theorem State.agenda_setPort (s : State) (k : Nat × Nat) (x : Port) : (s.setPort k x).agenda = s.agenda := rfl
@[simp] theorem State.input_setPort (s : State) (k : Nat × Nat) (x : Port) : (s.setPort k x).input = s.input := rfl
@[simp] theorem State.issue_setPort (s : State) (k : Nat × Nat) (x : Port) : (s.setPort k x).issue = s.issue := rfl
@[simp] theorem State.seq_setPort (s : State) (k : Nat × Nat) (x : Port) : (s.setPort k x).seq = s.seq := rfl
@[simp] theorem State.ref_setPort (s : State) (k : Nat × Nat) (x : Port) : (s.setPort k x).ref = s.ref := rfl
@[simp] theorem State.pkg_setPort (s : State) (k : Nat × Nat) (x : Port) : (s.setPort k x).pkg = s.pkg := rfl
@[simp] theorem State.tripped_setPort (s : State) (k : Nat × Nat) (x : Port) : (s.setPort k x).tripped = s.tripped := rfl
@[simp] theorem State.slots_setPort (s : State) (k : Nat × Nat) (x : Port) : (s.setPort k x).slots = s.slots := rfl
@[simp] theorem State.cores_setPort (s : State) (k : Nat × Nat) (x : Port) : (s.setPort k x).cores = s.cores := rfl
@[simp] theorem State.dies_setPort (s : State) (k : Nat × Nat) (x : Port) : (s.setPort k x).dies = s.dies := rfl
@[simp] theorem State.ops_setPort (s : State) (k : Nat × Nat) (x : Port) : (s.setPort k x).ops = s.ops := rfl
@[simp] theorem State.bars_setPort (s : State) (k : Nat × Nat) (x : Port) : (s.setPort k x).bars = s.bars := rfl
@[simp] theorem State.members_setPort (s : State) (k : Nat × Nat) (x : Port) : (s.setPort k x).members = s.members := rfl
@[simp] theorem State.dram_setPort (s : State) (k : Nat × Nat) (x : Port) : (s.setPort k x).dram = s.dram := rfl
@[simp] theorem State.l2_setPort (s : State) (k : Nat × Nat) (x : Port) : (s.setPort k x).l2 = s.l2 := rfl
@[simp] theorem State.tracked_setPort (s : State) (k : Nat × Nat) (x : Port) : (s.setPort k x).tracked = s.tracked := rfl
@[simp] theorem State.dirRoom_setPort (s : State) (k : Nat × Nat) (x : Port) : (s.setPort k x).dirRoom = s.dirRoom := rfl
@[simp] theorem State.spread_setPort (s : State) (k : Nat × Nat) (x : Port) : (s.setPort k x).spread = s.spread := rfl
@[simp] theorem State.lost_setPort (s : State) (k : Nat × Nat) (x : Port) : (s.setPort k x).lost = s.lost := rfl
@[simp] theorem State.damaged_setPort (s : State) (k : Nat × Nat) (x : Port) : (s.setPort k x).damaged = s.damaged := rfl
@[simp] theorem State.bufs_setPort (s : State) (k : Nat × Nat) (x : Port) : (s.setPort k x).bufs = s.bufs := rfl
@[simp] theorem State.keys_setPort (s : State) (k : Nat × Nat) (x : Port) : (s.setPort k x).keys = s.keys := rfl
@[simp] theorem State.seals_setPort (s : State) (k : Nat × Nat) (x : Port) : (s.setPort k x).seals = s.seals := rfl
@[simp] theorem State.snaps_setPort (s : State) (k : Nat × Nat) (x : Port) : (s.setPort k x).snaps = s.snaps := rfl
@[simp] theorem State.migrations_setPort (s : State) (k : Nat × Nat) (x : Port) : (s.setPort k x).migrations = s.migrations := rfl
@[simp] theorem State.quars_setPort (s : State) (k : Nat × Nat) (x : Port) : (s.setPort k x).quars = s.quars := rfl
@[simp] theorem State.cows_setPort (s : State) (k : Nat × Nat) (x : Port) : (s.setPort k x).cows = s.cows := rfl
@[simp] theorem State.pools_setPort (s : State) (k : Nat × Nat) (x : Port) : (s.setPort k x).pools = s.pools := rfl
@[simp] theorem State.banks_setPort (s : State) (k : Nat × Nat) (x : Port) : (s.setPort k x).banks = s.banks := rfl
@[simp] theorem State.stackTab_setPort (s : State) (k : Nat × Nat) (x : Port) : (s.setPort k x).stackTab = s.stackTab := rfl
@[simp] theorem State.allBankLimit_setPort (s : State) (k : Nat × Nat) (x : Port) : (s.setPort k x).allBankLimit = s.allBankLimit := rfl
@[simp] theorem State.queues_setPort (s : State) (k : Nat × Nat) (x : Port) : (s.setPort k x).queues = s.queues := rfl
@[simp] theorem State.packets_setPort (s : State) (k : Nat × Nat) (x : Port) : (s.setPort k x).packets = s.packets := rfl
@[simp] theorem State.waits_setPort (s : State) (k : Nat × Nat) (x : Port) : (s.setPort k x).waits = s.waits := rfl
@[simp] theorem State.launches_setPort (s : State) (k : Nat × Nat) (x : Port) : (s.setPort k x).launches = s.launches := rfl
@[simp] theorem State.blocks_setPort (s : State) (k : Nat × Nat) (x : Port) : (s.setPort k x).blocks = s.blocks := rfl
@[simp] theorem State.holdLimit_setPort (s : State) (k : Nat × Nat) (x : Port) : (s.setPort k x).holdLimit = s.holdLimit := rfl
@[simp] theorem State.age_setPort (s : State) (k : Nat × Nat) (x : Port) : (s.setPort k x).age = s.age := rfl
@[simp] theorem State.resInterval_setPort (s : State) (k : Nat × Nat) (x : Port) : (s.setPort k x).resInterval = s.resInterval := rfl
@[simp] theorem State.qdl_setPort (s : State) (k : Nat × Nat) (x : Port) : (s.setPort k x).qdl = s.qdl := rfl
@[simp] theorem State.peerTimeout_setPort (s : State) (k : Nat × Nat) (x : Port) : (s.setPort k x).peerTimeout = s.peerTimeout := rfl
@[simp] theorem State.escHold_setPort (s : State) (k : Nat × Nat) (x : Port) : (s.setPort k x).escHold = s.escHold := rfl
@[simp] theorem State.thresholds_setPort (s : State) (k : Nat × Nat) (x : Port) : (s.setPort k x).thresholds = s.thresholds := rfl
@[simp] theorem State.windows_setPort (s : State) (k : Nat × Nat) (x : Port) : (s.setPort k x).windows = s.windows := rfl
@[simp] theorem State.events_setPort (s : State) (k : Nat × Nat) (x : Port) : (s.setPort k x).events = s.events := rfl
@[simp] theorem State.lanes_setPort (s : State) (k : Nat × Nat) (x : Port) : (s.setPort k x).lanes = s.lanes := rfl
@[simp] theorem State.ethWidth_setPort (s : State) (k : Nat × Nat) (x : Port) : (s.setPort k x).ethWidth = s.ethWidth := rfl
@[simp] theorem State.staging_setPort (s : State) (k : Nat × Nat) (x : Port) : (s.setPort k x).staging = s.staging := rfl
@[simp] theorem State.due_setPort (s : State) (k : Nat × Nat) (x : Port) : (s.setPort k x).due = s.due := rfl
@[simp] theorem State.armed_setPort (s : State) (k : Nat × Nat) (x : Port) : (s.setPort k x).armed = s.armed := rfl
@[simp] theorem State.arming_setPort (s : State) (k : Nat × Nat) (x : Port) : (s.setPort k x).arming = s.arming := rfl
@[simp] theorem State.reportSeq_setPort (s : State) (k : Nat × Nat) (x : Port) : (s.setPort k x).reportSeq = s.reportSeq := rfl
@[simp] theorem State.logAddr_setPort (s : State) (k : Nat × Nat) (x : Port) : (s.setPort k x).logAddr = s.logAddr := rfl
@[simp] theorem State.logN_setPort (s : State) (k : Nat × Nat) (x : Port) : (s.setPort k x).logN = s.logN := rfl
@[simp] theorem State.rootDigest_setPort (s : State) (k : Nat × Nat) (x : Port) : (s.setPort k x).rootDigest = s.rootDigest := rfl
@[simp] theorem State.identity_setPort (s : State) (k : Nat × Nat) (x : Port) : (s.setPort k x).identity = s.identity := rfl
@[simp] theorem State.rollback_setPort (s : State) (k : Nat × Nat) (x : Port) : (s.setPort k x).rollback = s.rollback := rfl
@[simp] theorem State.bootStatus_setPort (s : State) (k : Nat × Nat) (x : Port) : (s.setPort k x).bootStatus = s.bootStatus := rfl
@[simp] theorem State.booted_setPort (s : State) (k : Nat × Nat) (x : Port) : (s.setPort k x).booted = s.booted := rfl
@[simp] theorem State.firmware_setPort (s : State) (k : Nat × Nat) (x : Port) : (s.setPort k x).firmware = s.firmware := rfl
@[simp] theorem State.budget_setPort (s : State) (k : Nat × Nat) (x : Port) : (s.setPort k x).budget = s.budget := rfl
@[simp] theorem State.flowLow_setPort (s : State) (k : Nat × Nat) (x : Port) : (s.setPort k x).flowLow = s.flowLow := rfl
@[simp] theorem State.coolTables_setPort (s : State) (k : Nat × Nat) (x : Port) : (s.setPort k x).coolTables = s.coolTables := rfl
@[simp] theorem State.conns_setPort (s : State) (k : Nat × Nat) (x : Port) : (s.setPort k x).conns = s.conns := rfl
@[simp] theorem State.outbox_setPort (s : State) (k : Nat × Nat) (x : Port) : (s.setPort k x).outbox = s.outbox := rfl
@[simp] theorem State.asking_setPort (s : State) (k : Nat × Nat) (x : Port) : (s.setPort k x).asking = s.asking := rfl
@[simp] theorem State.hostHeld_setPort (s : State) (k : Nat × Nat) (x : Port) : (s.setPort k x).hostHeld = s.hostHeld := rfl
@[simp] theorem State.escHolds_setPort (s : State) (k : Nat × Nat) (x : Port) : (s.setPort k x).escHolds = s.escHolds := rfl

/-! ## State.setBank writes banks -/

@[simp] theorem State.agenda_setBank (s : State) (k : Nat × Nat × Nat) (x : BankUnit) : (s.setBank k x).agenda = s.agenda := rfl
@[simp] theorem State.input_setBank (s : State) (k : Nat × Nat × Nat) (x : BankUnit) : (s.setBank k x).input = s.input := rfl
@[simp] theorem State.issue_setBank (s : State) (k : Nat × Nat × Nat) (x : BankUnit) : (s.setBank k x).issue = s.issue := rfl
@[simp] theorem State.seq_setBank (s : State) (k : Nat × Nat × Nat) (x : BankUnit) : (s.setBank k x).seq = s.seq := rfl
@[simp] theorem State.ref_setBank (s : State) (k : Nat × Nat × Nat) (x : BankUnit) : (s.setBank k x).ref = s.ref := rfl
@[simp] theorem State.pkg_setBank (s : State) (k : Nat × Nat × Nat) (x : BankUnit) : (s.setBank k x).pkg = s.pkg := rfl
@[simp] theorem State.tripped_setBank (s : State) (k : Nat × Nat × Nat) (x : BankUnit) : (s.setBank k x).tripped = s.tripped := rfl
@[simp] theorem State.slots_setBank (s : State) (k : Nat × Nat × Nat) (x : BankUnit) : (s.setBank k x).slots = s.slots := rfl
@[simp] theorem State.cores_setBank (s : State) (k : Nat × Nat × Nat) (x : BankUnit) : (s.setBank k x).cores = s.cores := rfl
@[simp] theorem State.dies_setBank (s : State) (k : Nat × Nat × Nat) (x : BankUnit) : (s.setBank k x).dies = s.dies := rfl
@[simp] theorem State.ops_setBank (s : State) (k : Nat × Nat × Nat) (x : BankUnit) : (s.setBank k x).ops = s.ops := rfl
@[simp] theorem State.bars_setBank (s : State) (k : Nat × Nat × Nat) (x : BankUnit) : (s.setBank k x).bars = s.bars := rfl
@[simp] theorem State.members_setBank (s : State) (k : Nat × Nat × Nat) (x : BankUnit) : (s.setBank k x).members = s.members := rfl
@[simp] theorem State.dram_setBank (s : State) (k : Nat × Nat × Nat) (x : BankUnit) : (s.setBank k x).dram = s.dram := rfl
@[simp] theorem State.l2_setBank (s : State) (k : Nat × Nat × Nat) (x : BankUnit) : (s.setBank k x).l2 = s.l2 := rfl
@[simp] theorem State.tracked_setBank (s : State) (k : Nat × Nat × Nat) (x : BankUnit) : (s.setBank k x).tracked = s.tracked := rfl
@[simp] theorem State.dirRoom_setBank (s : State) (k : Nat × Nat × Nat) (x : BankUnit) : (s.setBank k x).dirRoom = s.dirRoom := rfl
@[simp] theorem State.spread_setBank (s : State) (k : Nat × Nat × Nat) (x : BankUnit) : (s.setBank k x).spread = s.spread := rfl
@[simp] theorem State.lost_setBank (s : State) (k : Nat × Nat × Nat) (x : BankUnit) : (s.setBank k x).lost = s.lost := rfl
@[simp] theorem State.damaged_setBank (s : State) (k : Nat × Nat × Nat) (x : BankUnit) : (s.setBank k x).damaged = s.damaged := rfl
@[simp] theorem State.bufs_setBank (s : State) (k : Nat × Nat × Nat) (x : BankUnit) : (s.setBank k x).bufs = s.bufs := rfl
@[simp] theorem State.keys_setBank (s : State) (k : Nat × Nat × Nat) (x : BankUnit) : (s.setBank k x).keys = s.keys := rfl
@[simp] theorem State.seals_setBank (s : State) (k : Nat × Nat × Nat) (x : BankUnit) : (s.setBank k x).seals = s.seals := rfl
@[simp] theorem State.snaps_setBank (s : State) (k : Nat × Nat × Nat) (x : BankUnit) : (s.setBank k x).snaps = s.snaps := rfl
@[simp] theorem State.migrations_setBank (s : State) (k : Nat × Nat × Nat) (x : BankUnit) : (s.setBank k x).migrations = s.migrations := rfl
@[simp] theorem State.quars_setBank (s : State) (k : Nat × Nat × Nat) (x : BankUnit) : (s.setBank k x).quars = s.quars := rfl
@[simp] theorem State.cows_setBank (s : State) (k : Nat × Nat × Nat) (x : BankUnit) : (s.setBank k x).cows = s.cows := rfl
@[simp] theorem State.pools_setBank (s : State) (k : Nat × Nat × Nat) (x : BankUnit) : (s.setBank k x).pools = s.pools := rfl
@[simp] theorem State.ports_setBank (s : State) (k : Nat × Nat × Nat) (x : BankUnit) : (s.setBank k x).ports = s.ports := rfl
@[simp] theorem State.stackTab_setBank (s : State) (k : Nat × Nat × Nat) (x : BankUnit) : (s.setBank k x).stackTab = s.stackTab := rfl
@[simp] theorem State.allBankLimit_setBank (s : State) (k : Nat × Nat × Nat) (x : BankUnit) : (s.setBank k x).allBankLimit = s.allBankLimit := rfl
@[simp] theorem State.queues_setBank (s : State) (k : Nat × Nat × Nat) (x : BankUnit) : (s.setBank k x).queues = s.queues := rfl
@[simp] theorem State.packets_setBank (s : State) (k : Nat × Nat × Nat) (x : BankUnit) : (s.setBank k x).packets = s.packets := rfl
@[simp] theorem State.waits_setBank (s : State) (k : Nat × Nat × Nat) (x : BankUnit) : (s.setBank k x).waits = s.waits := rfl
@[simp] theorem State.launches_setBank (s : State) (k : Nat × Nat × Nat) (x : BankUnit) : (s.setBank k x).launches = s.launches := rfl
@[simp] theorem State.blocks_setBank (s : State) (k : Nat × Nat × Nat) (x : BankUnit) : (s.setBank k x).blocks = s.blocks := rfl
@[simp] theorem State.holdLimit_setBank (s : State) (k : Nat × Nat × Nat) (x : BankUnit) : (s.setBank k x).holdLimit = s.holdLimit := rfl
@[simp] theorem State.age_setBank (s : State) (k : Nat × Nat × Nat) (x : BankUnit) : (s.setBank k x).age = s.age := rfl
@[simp] theorem State.resInterval_setBank (s : State) (k : Nat × Nat × Nat) (x : BankUnit) : (s.setBank k x).resInterval = s.resInterval := rfl
@[simp] theorem State.qdl_setBank (s : State) (k : Nat × Nat × Nat) (x : BankUnit) : (s.setBank k x).qdl = s.qdl := rfl
@[simp] theorem State.peerTimeout_setBank (s : State) (k : Nat × Nat × Nat) (x : BankUnit) : (s.setBank k x).peerTimeout = s.peerTimeout := rfl
@[simp] theorem State.escHold_setBank (s : State) (k : Nat × Nat × Nat) (x : BankUnit) : (s.setBank k x).escHold = s.escHold := rfl
@[simp] theorem State.thresholds_setBank (s : State) (k : Nat × Nat × Nat) (x : BankUnit) : (s.setBank k x).thresholds = s.thresholds := rfl
@[simp] theorem State.windows_setBank (s : State) (k : Nat × Nat × Nat) (x : BankUnit) : (s.setBank k x).windows = s.windows := rfl
@[simp] theorem State.events_setBank (s : State) (k : Nat × Nat × Nat) (x : BankUnit) : (s.setBank k x).events = s.events := rfl
@[simp] theorem State.lanes_setBank (s : State) (k : Nat × Nat × Nat) (x : BankUnit) : (s.setBank k x).lanes = s.lanes := rfl
@[simp] theorem State.ethWidth_setBank (s : State) (k : Nat × Nat × Nat) (x : BankUnit) : (s.setBank k x).ethWidth = s.ethWidth := rfl
@[simp] theorem State.staging_setBank (s : State) (k : Nat × Nat × Nat) (x : BankUnit) : (s.setBank k x).staging = s.staging := rfl
@[simp] theorem State.due_setBank (s : State) (k : Nat × Nat × Nat) (x : BankUnit) : (s.setBank k x).due = s.due := rfl
@[simp] theorem State.armed_setBank (s : State) (k : Nat × Nat × Nat) (x : BankUnit) : (s.setBank k x).armed = s.armed := rfl
@[simp] theorem State.arming_setBank (s : State) (k : Nat × Nat × Nat) (x : BankUnit) : (s.setBank k x).arming = s.arming := rfl
@[simp] theorem State.reportSeq_setBank (s : State) (k : Nat × Nat × Nat) (x : BankUnit) : (s.setBank k x).reportSeq = s.reportSeq := rfl
@[simp] theorem State.logAddr_setBank (s : State) (k : Nat × Nat × Nat) (x : BankUnit) : (s.setBank k x).logAddr = s.logAddr := rfl
@[simp] theorem State.logN_setBank (s : State) (k : Nat × Nat × Nat) (x : BankUnit) : (s.setBank k x).logN = s.logN := rfl
@[simp] theorem State.rootDigest_setBank (s : State) (k : Nat × Nat × Nat) (x : BankUnit) : (s.setBank k x).rootDigest = s.rootDigest := rfl
@[simp] theorem State.identity_setBank (s : State) (k : Nat × Nat × Nat) (x : BankUnit) : (s.setBank k x).identity = s.identity := rfl
@[simp] theorem State.rollback_setBank (s : State) (k : Nat × Nat × Nat) (x : BankUnit) : (s.setBank k x).rollback = s.rollback := rfl
@[simp] theorem State.bootStatus_setBank (s : State) (k : Nat × Nat × Nat) (x : BankUnit) : (s.setBank k x).bootStatus = s.bootStatus := rfl
@[simp] theorem State.booted_setBank (s : State) (k : Nat × Nat × Nat) (x : BankUnit) : (s.setBank k x).booted = s.booted := rfl
@[simp] theorem State.firmware_setBank (s : State) (k : Nat × Nat × Nat) (x : BankUnit) : (s.setBank k x).firmware = s.firmware := rfl
@[simp] theorem State.budget_setBank (s : State) (k : Nat × Nat × Nat) (x : BankUnit) : (s.setBank k x).budget = s.budget := rfl
@[simp] theorem State.flowLow_setBank (s : State) (k : Nat × Nat × Nat) (x : BankUnit) : (s.setBank k x).flowLow = s.flowLow := rfl
@[simp] theorem State.coolTables_setBank (s : State) (k : Nat × Nat × Nat) (x : BankUnit) : (s.setBank k x).coolTables = s.coolTables := rfl
@[simp] theorem State.conns_setBank (s : State) (k : Nat × Nat × Nat) (x : BankUnit) : (s.setBank k x).conns = s.conns := rfl
@[simp] theorem State.outbox_setBank (s : State) (k : Nat × Nat × Nat) (x : BankUnit) : (s.setBank k x).outbox = s.outbox := rfl
@[simp] theorem State.asking_setBank (s : State) (k : Nat × Nat × Nat) (x : BankUnit) : (s.setBank k x).asking = s.asking := rfl
@[simp] theorem State.hostHeld_setBank (s : State) (k : Nat × Nat × Nat) (x : BankUnit) : (s.setBank k x).hostHeld = s.hostHeld := rfl
@[simp] theorem State.escHolds_setBank (s : State) (k : Nat × Nat × Nat) (x : BankUnit) : (s.setBank k x).escHolds = s.escHolds := rfl

/-! ## State.setLaunch writes launches -/

@[simp] theorem State.agenda_setLaunch (s : State) (l : Launch) : (s.setLaunch l).agenda = s.agenda := rfl
@[simp] theorem State.input_setLaunch (s : State) (l : Launch) : (s.setLaunch l).input = s.input := rfl
@[simp] theorem State.issue_setLaunch (s : State) (l : Launch) : (s.setLaunch l).issue = s.issue := rfl
@[simp] theorem State.seq_setLaunch (s : State) (l : Launch) : (s.setLaunch l).seq = s.seq := rfl
@[simp] theorem State.ref_setLaunch (s : State) (l : Launch) : (s.setLaunch l).ref = s.ref := rfl
@[simp] theorem State.pkg_setLaunch (s : State) (l : Launch) : (s.setLaunch l).pkg = s.pkg := rfl
@[simp] theorem State.tripped_setLaunch (s : State) (l : Launch) : (s.setLaunch l).tripped = s.tripped := rfl
@[simp] theorem State.slots_setLaunch (s : State) (l : Launch) : (s.setLaunch l).slots = s.slots := rfl
@[simp] theorem State.cores_setLaunch (s : State) (l : Launch) : (s.setLaunch l).cores = s.cores := rfl
@[simp] theorem State.dies_setLaunch (s : State) (l : Launch) : (s.setLaunch l).dies = s.dies := rfl
@[simp] theorem State.ops_setLaunch (s : State) (l : Launch) : (s.setLaunch l).ops = s.ops := rfl
@[simp] theorem State.bars_setLaunch (s : State) (l : Launch) : (s.setLaunch l).bars = s.bars := rfl
@[simp] theorem State.members_setLaunch (s : State) (l : Launch) : (s.setLaunch l).members = s.members := rfl
@[simp] theorem State.dram_setLaunch (s : State) (l : Launch) : (s.setLaunch l).dram = s.dram := rfl
@[simp] theorem State.l2_setLaunch (s : State) (l : Launch) : (s.setLaunch l).l2 = s.l2 := rfl
@[simp] theorem State.tracked_setLaunch (s : State) (l : Launch) : (s.setLaunch l).tracked = s.tracked := rfl
@[simp] theorem State.dirRoom_setLaunch (s : State) (l : Launch) : (s.setLaunch l).dirRoom = s.dirRoom := rfl
@[simp] theorem State.spread_setLaunch (s : State) (l : Launch) : (s.setLaunch l).spread = s.spread := rfl
@[simp] theorem State.lost_setLaunch (s : State) (l : Launch) : (s.setLaunch l).lost = s.lost := rfl
@[simp] theorem State.damaged_setLaunch (s : State) (l : Launch) : (s.setLaunch l).damaged = s.damaged := rfl
@[simp] theorem State.bufs_setLaunch (s : State) (l : Launch) : (s.setLaunch l).bufs = s.bufs := rfl
@[simp] theorem State.keys_setLaunch (s : State) (l : Launch) : (s.setLaunch l).keys = s.keys := rfl
@[simp] theorem State.seals_setLaunch (s : State) (l : Launch) : (s.setLaunch l).seals = s.seals := rfl
@[simp] theorem State.snaps_setLaunch (s : State) (l : Launch) : (s.setLaunch l).snaps = s.snaps := rfl
@[simp] theorem State.migrations_setLaunch (s : State) (l : Launch) : (s.setLaunch l).migrations = s.migrations := rfl
@[simp] theorem State.quars_setLaunch (s : State) (l : Launch) : (s.setLaunch l).quars = s.quars := rfl
@[simp] theorem State.cows_setLaunch (s : State) (l : Launch) : (s.setLaunch l).cows = s.cows := rfl
@[simp] theorem State.pools_setLaunch (s : State) (l : Launch) : (s.setLaunch l).pools = s.pools := rfl
@[simp] theorem State.banks_setLaunch (s : State) (l : Launch) : (s.setLaunch l).banks = s.banks := rfl
@[simp] theorem State.ports_setLaunch (s : State) (l : Launch) : (s.setLaunch l).ports = s.ports := rfl
@[simp] theorem State.stackTab_setLaunch (s : State) (l : Launch) : (s.setLaunch l).stackTab = s.stackTab := rfl
@[simp] theorem State.allBankLimit_setLaunch (s : State) (l : Launch) : (s.setLaunch l).allBankLimit = s.allBankLimit := rfl
@[simp] theorem State.queues_setLaunch (s : State) (l : Launch) : (s.setLaunch l).queues = s.queues := rfl
@[simp] theorem State.packets_setLaunch (s : State) (l : Launch) : (s.setLaunch l).packets = s.packets := rfl
@[simp] theorem State.waits_setLaunch (s : State) (l : Launch) : (s.setLaunch l).waits = s.waits := rfl
@[simp] theorem State.blocks_setLaunch (s : State) (l : Launch) : (s.setLaunch l).blocks = s.blocks := rfl
@[simp] theorem State.holdLimit_setLaunch (s : State) (l : Launch) : (s.setLaunch l).holdLimit = s.holdLimit := rfl
@[simp] theorem State.age_setLaunch (s : State) (l : Launch) : (s.setLaunch l).age = s.age := rfl
@[simp] theorem State.resInterval_setLaunch (s : State) (l : Launch) : (s.setLaunch l).resInterval = s.resInterval := rfl
@[simp] theorem State.qdl_setLaunch (s : State) (l : Launch) : (s.setLaunch l).qdl = s.qdl := rfl
@[simp] theorem State.peerTimeout_setLaunch (s : State) (l : Launch) : (s.setLaunch l).peerTimeout = s.peerTimeout := rfl
@[simp] theorem State.escHold_setLaunch (s : State) (l : Launch) : (s.setLaunch l).escHold = s.escHold := rfl
@[simp] theorem State.thresholds_setLaunch (s : State) (l : Launch) : (s.setLaunch l).thresholds = s.thresholds := rfl
@[simp] theorem State.windows_setLaunch (s : State) (l : Launch) : (s.setLaunch l).windows = s.windows := rfl
@[simp] theorem State.events_setLaunch (s : State) (l : Launch) : (s.setLaunch l).events = s.events := rfl
@[simp] theorem State.lanes_setLaunch (s : State) (l : Launch) : (s.setLaunch l).lanes = s.lanes := rfl
@[simp] theorem State.ethWidth_setLaunch (s : State) (l : Launch) : (s.setLaunch l).ethWidth = s.ethWidth := rfl
@[simp] theorem State.staging_setLaunch (s : State) (l : Launch) : (s.setLaunch l).staging = s.staging := rfl
@[simp] theorem State.due_setLaunch (s : State) (l : Launch) : (s.setLaunch l).due = s.due := rfl
@[simp] theorem State.armed_setLaunch (s : State) (l : Launch) : (s.setLaunch l).armed = s.armed := rfl
@[simp] theorem State.arming_setLaunch (s : State) (l : Launch) : (s.setLaunch l).arming = s.arming := rfl
@[simp] theorem State.reportSeq_setLaunch (s : State) (l : Launch) : (s.setLaunch l).reportSeq = s.reportSeq := rfl
@[simp] theorem State.logAddr_setLaunch (s : State) (l : Launch) : (s.setLaunch l).logAddr = s.logAddr := rfl
@[simp] theorem State.logN_setLaunch (s : State) (l : Launch) : (s.setLaunch l).logN = s.logN := rfl
@[simp] theorem State.rootDigest_setLaunch (s : State) (l : Launch) : (s.setLaunch l).rootDigest = s.rootDigest := rfl
@[simp] theorem State.identity_setLaunch (s : State) (l : Launch) : (s.setLaunch l).identity = s.identity := rfl
@[simp] theorem State.rollback_setLaunch (s : State) (l : Launch) : (s.setLaunch l).rollback = s.rollback := rfl
@[simp] theorem State.bootStatus_setLaunch (s : State) (l : Launch) : (s.setLaunch l).bootStatus = s.bootStatus := rfl
@[simp] theorem State.booted_setLaunch (s : State) (l : Launch) : (s.setLaunch l).booted = s.booted := rfl
@[simp] theorem State.firmware_setLaunch (s : State) (l : Launch) : (s.setLaunch l).firmware = s.firmware := rfl
@[simp] theorem State.budget_setLaunch (s : State) (l : Launch) : (s.setLaunch l).budget = s.budget := rfl
@[simp] theorem State.flowLow_setLaunch (s : State) (l : Launch) : (s.setLaunch l).flowLow = s.flowLow := rfl
@[simp] theorem State.coolTables_setLaunch (s : State) (l : Launch) : (s.setLaunch l).coolTables = s.coolTables := rfl
@[simp] theorem State.conns_setLaunch (s : State) (l : Launch) : (s.setLaunch l).conns = s.conns := rfl
@[simp] theorem State.outbox_setLaunch (s : State) (l : Launch) : (s.setLaunch l).outbox = s.outbox := rfl
@[simp] theorem State.asking_setLaunch (s : State) (l : Launch) : (s.setLaunch l).asking = s.asking := rfl
@[simp] theorem State.hostHeld_setLaunch (s : State) (l : Launch) : (s.setLaunch l).hostHeld = s.hostHeld := rfl
@[simp] theorem State.escHolds_setLaunch (s : State) (l : Launch) : (s.setLaunch l).escHolds = s.escHolds := rfl

/-! ## State.setBlock writes blocks -/

@[simp] theorem State.agenda_setBlock (s : State) (b : Block) : (s.setBlock b).agenda = s.agenda := rfl
@[simp] theorem State.input_setBlock (s : State) (b : Block) : (s.setBlock b).input = s.input := rfl
@[simp] theorem State.issue_setBlock (s : State) (b : Block) : (s.setBlock b).issue = s.issue := rfl
@[simp] theorem State.seq_setBlock (s : State) (b : Block) : (s.setBlock b).seq = s.seq := rfl
@[simp] theorem State.ref_setBlock (s : State) (b : Block) : (s.setBlock b).ref = s.ref := rfl
@[simp] theorem State.pkg_setBlock (s : State) (b : Block) : (s.setBlock b).pkg = s.pkg := rfl
@[simp] theorem State.tripped_setBlock (s : State) (b : Block) : (s.setBlock b).tripped = s.tripped := rfl
@[simp] theorem State.slots_setBlock (s : State) (b : Block) : (s.setBlock b).slots = s.slots := rfl
@[simp] theorem State.cores_setBlock (s : State) (b : Block) : (s.setBlock b).cores = s.cores := rfl
@[simp] theorem State.dies_setBlock (s : State) (b : Block) : (s.setBlock b).dies = s.dies := rfl
@[simp] theorem State.ops_setBlock (s : State) (b : Block) : (s.setBlock b).ops = s.ops := rfl
@[simp] theorem State.bars_setBlock (s : State) (b : Block) : (s.setBlock b).bars = s.bars := rfl
@[simp] theorem State.members_setBlock (s : State) (b : Block) : (s.setBlock b).members = s.members := rfl
@[simp] theorem State.dram_setBlock (s : State) (b : Block) : (s.setBlock b).dram = s.dram := rfl
@[simp] theorem State.l2_setBlock (s : State) (b : Block) : (s.setBlock b).l2 = s.l2 := rfl
@[simp] theorem State.tracked_setBlock (s : State) (b : Block) : (s.setBlock b).tracked = s.tracked := rfl
@[simp] theorem State.dirRoom_setBlock (s : State) (b : Block) : (s.setBlock b).dirRoom = s.dirRoom := rfl
@[simp] theorem State.spread_setBlock (s : State) (b : Block) : (s.setBlock b).spread = s.spread := rfl
@[simp] theorem State.lost_setBlock (s : State) (b : Block) : (s.setBlock b).lost = s.lost := rfl
@[simp] theorem State.damaged_setBlock (s : State) (b : Block) : (s.setBlock b).damaged = s.damaged := rfl
@[simp] theorem State.bufs_setBlock (s : State) (b : Block) : (s.setBlock b).bufs = s.bufs := rfl
@[simp] theorem State.keys_setBlock (s : State) (b : Block) : (s.setBlock b).keys = s.keys := rfl
@[simp] theorem State.seals_setBlock (s : State) (b : Block) : (s.setBlock b).seals = s.seals := rfl
@[simp] theorem State.snaps_setBlock (s : State) (b : Block) : (s.setBlock b).snaps = s.snaps := rfl
@[simp] theorem State.migrations_setBlock (s : State) (b : Block) : (s.setBlock b).migrations = s.migrations := rfl
@[simp] theorem State.quars_setBlock (s : State) (b : Block) : (s.setBlock b).quars = s.quars := rfl
@[simp] theorem State.cows_setBlock (s : State) (b : Block) : (s.setBlock b).cows = s.cows := rfl
@[simp] theorem State.pools_setBlock (s : State) (b : Block) : (s.setBlock b).pools = s.pools := rfl
@[simp] theorem State.banks_setBlock (s : State) (b : Block) : (s.setBlock b).banks = s.banks := rfl
@[simp] theorem State.ports_setBlock (s : State) (b : Block) : (s.setBlock b).ports = s.ports := rfl
@[simp] theorem State.stackTab_setBlock (s : State) (b : Block) : (s.setBlock b).stackTab = s.stackTab := rfl
@[simp] theorem State.allBankLimit_setBlock (s : State) (b : Block) : (s.setBlock b).allBankLimit = s.allBankLimit := rfl
@[simp] theorem State.queues_setBlock (s : State) (b : Block) : (s.setBlock b).queues = s.queues := rfl
@[simp] theorem State.packets_setBlock (s : State) (b : Block) : (s.setBlock b).packets = s.packets := rfl
@[simp] theorem State.waits_setBlock (s : State) (b : Block) : (s.setBlock b).waits = s.waits := rfl
@[simp] theorem State.launches_setBlock (s : State) (b : Block) : (s.setBlock b).launches = s.launches := rfl
@[simp] theorem State.holdLimit_setBlock (s : State) (b : Block) : (s.setBlock b).holdLimit = s.holdLimit := rfl
@[simp] theorem State.age_setBlock (s : State) (b : Block) : (s.setBlock b).age = s.age := rfl
@[simp] theorem State.resInterval_setBlock (s : State) (b : Block) : (s.setBlock b).resInterval = s.resInterval := rfl
@[simp] theorem State.qdl_setBlock (s : State) (b : Block) : (s.setBlock b).qdl = s.qdl := rfl
@[simp] theorem State.peerTimeout_setBlock (s : State) (b : Block) : (s.setBlock b).peerTimeout = s.peerTimeout := rfl
@[simp] theorem State.escHold_setBlock (s : State) (b : Block) : (s.setBlock b).escHold = s.escHold := rfl
@[simp] theorem State.thresholds_setBlock (s : State) (b : Block) : (s.setBlock b).thresholds = s.thresholds := rfl
@[simp] theorem State.windows_setBlock (s : State) (b : Block) : (s.setBlock b).windows = s.windows := rfl
@[simp] theorem State.events_setBlock (s : State) (b : Block) : (s.setBlock b).events = s.events := rfl
@[simp] theorem State.lanes_setBlock (s : State) (b : Block) : (s.setBlock b).lanes = s.lanes := rfl
@[simp] theorem State.ethWidth_setBlock (s : State) (b : Block) : (s.setBlock b).ethWidth = s.ethWidth := rfl
@[simp] theorem State.staging_setBlock (s : State) (b : Block) : (s.setBlock b).staging = s.staging := rfl
@[simp] theorem State.due_setBlock (s : State) (b : Block) : (s.setBlock b).due = s.due := rfl
@[simp] theorem State.armed_setBlock (s : State) (b : Block) : (s.setBlock b).armed = s.armed := rfl
@[simp] theorem State.arming_setBlock (s : State) (b : Block) : (s.setBlock b).arming = s.arming := rfl
@[simp] theorem State.reportSeq_setBlock (s : State) (b : Block) : (s.setBlock b).reportSeq = s.reportSeq := rfl
@[simp] theorem State.logAddr_setBlock (s : State) (b : Block) : (s.setBlock b).logAddr = s.logAddr := rfl
@[simp] theorem State.logN_setBlock (s : State) (b : Block) : (s.setBlock b).logN = s.logN := rfl
@[simp] theorem State.rootDigest_setBlock (s : State) (b : Block) : (s.setBlock b).rootDigest = s.rootDigest := rfl
@[simp] theorem State.identity_setBlock (s : State) (b : Block) : (s.setBlock b).identity = s.identity := rfl
@[simp] theorem State.rollback_setBlock (s : State) (b : Block) : (s.setBlock b).rollback = s.rollback := rfl
@[simp] theorem State.bootStatus_setBlock (s : State) (b : Block) : (s.setBlock b).bootStatus = s.bootStatus := rfl
@[simp] theorem State.booted_setBlock (s : State) (b : Block) : (s.setBlock b).booted = s.booted := rfl
@[simp] theorem State.firmware_setBlock (s : State) (b : Block) : (s.setBlock b).firmware = s.firmware := rfl
@[simp] theorem State.budget_setBlock (s : State) (b : Block) : (s.setBlock b).budget = s.budget := rfl
@[simp] theorem State.flowLow_setBlock (s : State) (b : Block) : (s.setBlock b).flowLow = s.flowLow := rfl
@[simp] theorem State.coolTables_setBlock (s : State) (b : Block) : (s.setBlock b).coolTables = s.coolTables := rfl
@[simp] theorem State.conns_setBlock (s : State) (b : Block) : (s.setBlock b).conns = s.conns := rfl
@[simp] theorem State.outbox_setBlock (s : State) (b : Block) : (s.setBlock b).outbox = s.outbox := rfl
@[simp] theorem State.asking_setBlock (s : State) (b : Block) : (s.setBlock b).asking = s.asking := rfl
@[simp] theorem State.hostHeld_setBlock (s : State) (b : Block) : (s.setBlock b).hostHeld = s.hostHeld := rfl
@[simp] theorem State.escHolds_setBlock (s : State) (b : Block) : (s.setBlock b).escHolds = s.escHolds := rfl

/-! ## State.setOp writes ops -/

@[simp] theorem State.agenda_setOp (s : State) (o : Op) : (s.setOp o).agenda = s.agenda := rfl
@[simp] theorem State.input_setOp (s : State) (o : Op) : (s.setOp o).input = s.input := rfl
@[simp] theorem State.issue_setOp (s : State) (o : Op) : (s.setOp o).issue = s.issue := rfl
@[simp] theorem State.seq_setOp (s : State) (o : Op) : (s.setOp o).seq = s.seq := rfl
@[simp] theorem State.ref_setOp (s : State) (o : Op) : (s.setOp o).ref = s.ref := rfl
@[simp] theorem State.pkg_setOp (s : State) (o : Op) : (s.setOp o).pkg = s.pkg := rfl
@[simp] theorem State.tripped_setOp (s : State) (o : Op) : (s.setOp o).tripped = s.tripped := rfl
@[simp] theorem State.slots_setOp (s : State) (o : Op) : (s.setOp o).slots = s.slots := rfl
@[simp] theorem State.cores_setOp (s : State) (o : Op) : (s.setOp o).cores = s.cores := rfl
@[simp] theorem State.dies_setOp (s : State) (o : Op) : (s.setOp o).dies = s.dies := rfl
@[simp] theorem State.bars_setOp (s : State) (o : Op) : (s.setOp o).bars = s.bars := rfl
@[simp] theorem State.members_setOp (s : State) (o : Op) : (s.setOp o).members = s.members := rfl
@[simp] theorem State.dram_setOp (s : State) (o : Op) : (s.setOp o).dram = s.dram := rfl
@[simp] theorem State.l2_setOp (s : State) (o : Op) : (s.setOp o).l2 = s.l2 := rfl
@[simp] theorem State.tracked_setOp (s : State) (o : Op) : (s.setOp o).tracked = s.tracked := rfl
@[simp] theorem State.dirRoom_setOp (s : State) (o : Op) : (s.setOp o).dirRoom = s.dirRoom := rfl
@[simp] theorem State.spread_setOp (s : State) (o : Op) : (s.setOp o).spread = s.spread := rfl
@[simp] theorem State.lost_setOp (s : State) (o : Op) : (s.setOp o).lost = s.lost := rfl
@[simp] theorem State.damaged_setOp (s : State) (o : Op) : (s.setOp o).damaged = s.damaged := rfl
@[simp] theorem State.bufs_setOp (s : State) (o : Op) : (s.setOp o).bufs = s.bufs := rfl
@[simp] theorem State.keys_setOp (s : State) (o : Op) : (s.setOp o).keys = s.keys := rfl
@[simp] theorem State.seals_setOp (s : State) (o : Op) : (s.setOp o).seals = s.seals := rfl
@[simp] theorem State.snaps_setOp (s : State) (o : Op) : (s.setOp o).snaps = s.snaps := rfl
@[simp] theorem State.migrations_setOp (s : State) (o : Op) : (s.setOp o).migrations = s.migrations := rfl
@[simp] theorem State.quars_setOp (s : State) (o : Op) : (s.setOp o).quars = s.quars := rfl
@[simp] theorem State.cows_setOp (s : State) (o : Op) : (s.setOp o).cows = s.cows := rfl
@[simp] theorem State.pools_setOp (s : State) (o : Op) : (s.setOp o).pools = s.pools := rfl
@[simp] theorem State.banks_setOp (s : State) (o : Op) : (s.setOp o).banks = s.banks := rfl
@[simp] theorem State.ports_setOp (s : State) (o : Op) : (s.setOp o).ports = s.ports := rfl
@[simp] theorem State.stackTab_setOp (s : State) (o : Op) : (s.setOp o).stackTab = s.stackTab := rfl
@[simp] theorem State.allBankLimit_setOp (s : State) (o : Op) : (s.setOp o).allBankLimit = s.allBankLimit := rfl
@[simp] theorem State.queues_setOp (s : State) (o : Op) : (s.setOp o).queues = s.queues := rfl
@[simp] theorem State.packets_setOp (s : State) (o : Op) : (s.setOp o).packets = s.packets := rfl
@[simp] theorem State.waits_setOp (s : State) (o : Op) : (s.setOp o).waits = s.waits := rfl
@[simp] theorem State.launches_setOp (s : State) (o : Op) : (s.setOp o).launches = s.launches := rfl
@[simp] theorem State.blocks_setOp (s : State) (o : Op) : (s.setOp o).blocks = s.blocks := rfl
@[simp] theorem State.holdLimit_setOp (s : State) (o : Op) : (s.setOp o).holdLimit = s.holdLimit := rfl
@[simp] theorem State.age_setOp (s : State) (o : Op) : (s.setOp o).age = s.age := rfl
@[simp] theorem State.resInterval_setOp (s : State) (o : Op) : (s.setOp o).resInterval = s.resInterval := rfl
@[simp] theorem State.qdl_setOp (s : State) (o : Op) : (s.setOp o).qdl = s.qdl := rfl
@[simp] theorem State.peerTimeout_setOp (s : State) (o : Op) : (s.setOp o).peerTimeout = s.peerTimeout := rfl
@[simp] theorem State.escHold_setOp (s : State) (o : Op) : (s.setOp o).escHold = s.escHold := rfl
@[simp] theorem State.thresholds_setOp (s : State) (o : Op) : (s.setOp o).thresholds = s.thresholds := rfl
@[simp] theorem State.windows_setOp (s : State) (o : Op) : (s.setOp o).windows = s.windows := rfl
@[simp] theorem State.events_setOp (s : State) (o : Op) : (s.setOp o).events = s.events := rfl
@[simp] theorem State.lanes_setOp (s : State) (o : Op) : (s.setOp o).lanes = s.lanes := rfl
@[simp] theorem State.ethWidth_setOp (s : State) (o : Op) : (s.setOp o).ethWidth = s.ethWidth := rfl
@[simp] theorem State.staging_setOp (s : State) (o : Op) : (s.setOp o).staging = s.staging := rfl
@[simp] theorem State.due_setOp (s : State) (o : Op) : (s.setOp o).due = s.due := rfl
@[simp] theorem State.armed_setOp (s : State) (o : Op) : (s.setOp o).armed = s.armed := rfl
@[simp] theorem State.arming_setOp (s : State) (o : Op) : (s.setOp o).arming = s.arming := rfl
@[simp] theorem State.reportSeq_setOp (s : State) (o : Op) : (s.setOp o).reportSeq = s.reportSeq := rfl
@[simp] theorem State.logAddr_setOp (s : State) (o : Op) : (s.setOp o).logAddr = s.logAddr := rfl
@[simp] theorem State.logN_setOp (s : State) (o : Op) : (s.setOp o).logN = s.logN := rfl
@[simp] theorem State.rootDigest_setOp (s : State) (o : Op) : (s.setOp o).rootDigest = s.rootDigest := rfl
@[simp] theorem State.identity_setOp (s : State) (o : Op) : (s.setOp o).identity = s.identity := rfl
@[simp] theorem State.rollback_setOp (s : State) (o : Op) : (s.setOp o).rollback = s.rollback := rfl
@[simp] theorem State.bootStatus_setOp (s : State) (o : Op) : (s.setOp o).bootStatus = s.bootStatus := rfl
@[simp] theorem State.booted_setOp (s : State) (o : Op) : (s.setOp o).booted = s.booted := rfl
@[simp] theorem State.firmware_setOp (s : State) (o : Op) : (s.setOp o).firmware = s.firmware := rfl
@[simp] theorem State.budget_setOp (s : State) (o : Op) : (s.setOp o).budget = s.budget := rfl
@[simp] theorem State.flowLow_setOp (s : State) (o : Op) : (s.setOp o).flowLow = s.flowLow := rfl
@[simp] theorem State.coolTables_setOp (s : State) (o : Op) : (s.setOp o).coolTables = s.coolTables := rfl
@[simp] theorem State.conns_setOp (s : State) (o : Op) : (s.setOp o).conns = s.conns := rfl
@[simp] theorem State.outbox_setOp (s : State) (o : Op) : (s.setOp o).outbox = s.outbox := rfl
@[simp] theorem State.asking_setOp (s : State) (o : Op) : (s.setOp o).asking = s.asking := rfl
@[simp] theorem State.hostHeld_setOp (s : State) (o : Op) : (s.setOp o).hostHeld = s.hostHeld := rfl
@[simp] theorem State.escHolds_setOp (s : State) (o : Op) : (s.setOp o).escHolds = s.escHolds := rfl

/-! ## State.setPhase writes ops -/

@[simp] theorem State.agenda_setPhase (s : State) (o : Op) (p : Phase) : (s.setPhase o p).agenda = s.agenda := rfl
@[simp] theorem State.input_setPhase (s : State) (o : Op) (p : Phase) : (s.setPhase o p).input = s.input := rfl
@[simp] theorem State.issue_setPhase (s : State) (o : Op) (p : Phase) : (s.setPhase o p).issue = s.issue := rfl
@[simp] theorem State.seq_setPhase (s : State) (o : Op) (p : Phase) : (s.setPhase o p).seq = s.seq := rfl
@[simp] theorem State.ref_setPhase (s : State) (o : Op) (p : Phase) : (s.setPhase o p).ref = s.ref := rfl
@[simp] theorem State.pkg_setPhase (s : State) (o : Op) (p : Phase) : (s.setPhase o p).pkg = s.pkg := rfl
@[simp] theorem State.tripped_setPhase (s : State) (o : Op) (p : Phase) : (s.setPhase o p).tripped = s.tripped := rfl
@[simp] theorem State.slots_setPhase (s : State) (o : Op) (p : Phase) : (s.setPhase o p).slots = s.slots := rfl
@[simp] theorem State.cores_setPhase (s : State) (o : Op) (p : Phase) : (s.setPhase o p).cores = s.cores := rfl
@[simp] theorem State.dies_setPhase (s : State) (o : Op) (p : Phase) : (s.setPhase o p).dies = s.dies := rfl
@[simp] theorem State.bars_setPhase (s : State) (o : Op) (p : Phase) : (s.setPhase o p).bars = s.bars := rfl
@[simp] theorem State.members_setPhase (s : State) (o : Op) (p : Phase) : (s.setPhase o p).members = s.members := rfl
@[simp] theorem State.dram_setPhase (s : State) (o : Op) (p : Phase) : (s.setPhase o p).dram = s.dram := rfl
@[simp] theorem State.l2_setPhase (s : State) (o : Op) (p : Phase) : (s.setPhase o p).l2 = s.l2 := rfl
@[simp] theorem State.tracked_setPhase (s : State) (o : Op) (p : Phase) : (s.setPhase o p).tracked = s.tracked := rfl
@[simp] theorem State.dirRoom_setPhase (s : State) (o : Op) (p : Phase) : (s.setPhase o p).dirRoom = s.dirRoom := rfl
@[simp] theorem State.spread_setPhase (s : State) (o : Op) (p : Phase) : (s.setPhase o p).spread = s.spread := rfl
@[simp] theorem State.lost_setPhase (s : State) (o : Op) (p : Phase) : (s.setPhase o p).lost = s.lost := rfl
@[simp] theorem State.damaged_setPhase (s : State) (o : Op) (p : Phase) : (s.setPhase o p).damaged = s.damaged := rfl
@[simp] theorem State.bufs_setPhase (s : State) (o : Op) (p : Phase) : (s.setPhase o p).bufs = s.bufs := rfl
@[simp] theorem State.keys_setPhase (s : State) (o : Op) (p : Phase) : (s.setPhase o p).keys = s.keys := rfl
@[simp] theorem State.seals_setPhase (s : State) (o : Op) (p : Phase) : (s.setPhase o p).seals = s.seals := rfl
@[simp] theorem State.snaps_setPhase (s : State) (o : Op) (p : Phase) : (s.setPhase o p).snaps = s.snaps := rfl
@[simp] theorem State.migrations_setPhase (s : State) (o : Op) (p : Phase) : (s.setPhase o p).migrations = s.migrations := rfl
@[simp] theorem State.quars_setPhase (s : State) (o : Op) (p : Phase) : (s.setPhase o p).quars = s.quars := rfl
@[simp] theorem State.cows_setPhase (s : State) (o : Op) (p : Phase) : (s.setPhase o p).cows = s.cows := rfl
@[simp] theorem State.pools_setPhase (s : State) (o : Op) (p : Phase) : (s.setPhase o p).pools = s.pools := rfl
@[simp] theorem State.banks_setPhase (s : State) (o : Op) (p : Phase) : (s.setPhase o p).banks = s.banks := rfl
@[simp] theorem State.ports_setPhase (s : State) (o : Op) (p : Phase) : (s.setPhase o p).ports = s.ports := rfl
@[simp] theorem State.stackTab_setPhase (s : State) (o : Op) (p : Phase) : (s.setPhase o p).stackTab = s.stackTab := rfl
@[simp] theorem State.allBankLimit_setPhase (s : State) (o : Op) (p : Phase) : (s.setPhase o p).allBankLimit = s.allBankLimit := rfl
@[simp] theorem State.queues_setPhase (s : State) (o : Op) (p : Phase) : (s.setPhase o p).queues = s.queues := rfl
@[simp] theorem State.packets_setPhase (s : State) (o : Op) (p : Phase) : (s.setPhase o p).packets = s.packets := rfl
@[simp] theorem State.waits_setPhase (s : State) (o : Op) (p : Phase) : (s.setPhase o p).waits = s.waits := rfl
@[simp] theorem State.launches_setPhase (s : State) (o : Op) (p : Phase) : (s.setPhase o p).launches = s.launches := rfl
@[simp] theorem State.blocks_setPhase (s : State) (o : Op) (p : Phase) : (s.setPhase o p).blocks = s.blocks := rfl
@[simp] theorem State.holdLimit_setPhase (s : State) (o : Op) (p : Phase) : (s.setPhase o p).holdLimit = s.holdLimit := rfl
@[simp] theorem State.age_setPhase (s : State) (o : Op) (p : Phase) : (s.setPhase o p).age = s.age := rfl
@[simp] theorem State.resInterval_setPhase (s : State) (o : Op) (p : Phase) : (s.setPhase o p).resInterval = s.resInterval := rfl
@[simp] theorem State.qdl_setPhase (s : State) (o : Op) (p : Phase) : (s.setPhase o p).qdl = s.qdl := rfl
@[simp] theorem State.peerTimeout_setPhase (s : State) (o : Op) (p : Phase) : (s.setPhase o p).peerTimeout = s.peerTimeout := rfl
@[simp] theorem State.escHold_setPhase (s : State) (o : Op) (p : Phase) : (s.setPhase o p).escHold = s.escHold := rfl
@[simp] theorem State.thresholds_setPhase (s : State) (o : Op) (p : Phase) : (s.setPhase o p).thresholds = s.thresholds := rfl
@[simp] theorem State.windows_setPhase (s : State) (o : Op) (p : Phase) : (s.setPhase o p).windows = s.windows := rfl
@[simp] theorem State.events_setPhase (s : State) (o : Op) (p : Phase) : (s.setPhase o p).events = s.events := rfl
@[simp] theorem State.lanes_setPhase (s : State) (o : Op) (p : Phase) : (s.setPhase o p).lanes = s.lanes := rfl
@[simp] theorem State.ethWidth_setPhase (s : State) (o : Op) (p : Phase) : (s.setPhase o p).ethWidth = s.ethWidth := rfl
@[simp] theorem State.staging_setPhase (s : State) (o : Op) (p : Phase) : (s.setPhase o p).staging = s.staging := rfl
@[simp] theorem State.due_setPhase (s : State) (o : Op) (p : Phase) : (s.setPhase o p).due = s.due := rfl
@[simp] theorem State.armed_setPhase (s : State) (o : Op) (p : Phase) : (s.setPhase o p).armed = s.armed := rfl
@[simp] theorem State.arming_setPhase (s : State) (o : Op) (p : Phase) : (s.setPhase o p).arming = s.arming := rfl
@[simp] theorem State.reportSeq_setPhase (s : State) (o : Op) (p : Phase) : (s.setPhase o p).reportSeq = s.reportSeq := rfl
@[simp] theorem State.logAddr_setPhase (s : State) (o : Op) (p : Phase) : (s.setPhase o p).logAddr = s.logAddr := rfl
@[simp] theorem State.logN_setPhase (s : State) (o : Op) (p : Phase) : (s.setPhase o p).logN = s.logN := rfl
@[simp] theorem State.rootDigest_setPhase (s : State) (o : Op) (p : Phase) : (s.setPhase o p).rootDigest = s.rootDigest := rfl
@[simp] theorem State.identity_setPhase (s : State) (o : Op) (p : Phase) : (s.setPhase o p).identity = s.identity := rfl
@[simp] theorem State.rollback_setPhase (s : State) (o : Op) (p : Phase) : (s.setPhase o p).rollback = s.rollback := rfl
@[simp] theorem State.bootStatus_setPhase (s : State) (o : Op) (p : Phase) : (s.setPhase o p).bootStatus = s.bootStatus := rfl
@[simp] theorem State.booted_setPhase (s : State) (o : Op) (p : Phase) : (s.setPhase o p).booted = s.booted := rfl
@[simp] theorem State.firmware_setPhase (s : State) (o : Op) (p : Phase) : (s.setPhase o p).firmware = s.firmware := rfl
@[simp] theorem State.budget_setPhase (s : State) (o : Op) (p : Phase) : (s.setPhase o p).budget = s.budget := rfl
@[simp] theorem State.flowLow_setPhase (s : State) (o : Op) (p : Phase) : (s.setPhase o p).flowLow = s.flowLow := rfl
@[simp] theorem State.coolTables_setPhase (s : State) (o : Op) (p : Phase) : (s.setPhase o p).coolTables = s.coolTables := rfl
@[simp] theorem State.conns_setPhase (s : State) (o : Op) (p : Phase) : (s.setPhase o p).conns = s.conns := rfl
@[simp] theorem State.outbox_setPhase (s : State) (o : Op) (p : Phase) : (s.setPhase o p).outbox = s.outbox := rfl
@[simp] theorem State.asking_setPhase (s : State) (o : Op) (p : Phase) : (s.setPhase o p).asking = s.asking := rfl
@[simp] theorem State.hostHeld_setPhase (s : State) (o : Op) (p : Phase) : (s.setPhase o p).hostHeld = s.hostHeld := rfl
@[simp] theorem State.escHolds_setPhase (s : State) (o : Op) (p : Phase) : (s.setPhase o p).escHolds = s.escHolds := rfl

/-! ## State.delOp writes ops -/

@[simp] theorem State.agenda_delOp (s : State) (id : Nat) : (s.delOp id).agenda = s.agenda := rfl
@[simp] theorem State.input_delOp (s : State) (id : Nat) : (s.delOp id).input = s.input := rfl
@[simp] theorem State.issue_delOp (s : State) (id : Nat) : (s.delOp id).issue = s.issue := rfl
@[simp] theorem State.seq_delOp (s : State) (id : Nat) : (s.delOp id).seq = s.seq := rfl
@[simp] theorem State.ref_delOp (s : State) (id : Nat) : (s.delOp id).ref = s.ref := rfl
@[simp] theorem State.pkg_delOp (s : State) (id : Nat) : (s.delOp id).pkg = s.pkg := rfl
@[simp] theorem State.tripped_delOp (s : State) (id : Nat) : (s.delOp id).tripped = s.tripped := rfl
@[simp] theorem State.slots_delOp (s : State) (id : Nat) : (s.delOp id).slots = s.slots := rfl
@[simp] theorem State.cores_delOp (s : State) (id : Nat) : (s.delOp id).cores = s.cores := rfl
@[simp] theorem State.dies_delOp (s : State) (id : Nat) : (s.delOp id).dies = s.dies := rfl
@[simp] theorem State.bars_delOp (s : State) (id : Nat) : (s.delOp id).bars = s.bars := rfl
@[simp] theorem State.members_delOp (s : State) (id : Nat) : (s.delOp id).members = s.members := rfl
@[simp] theorem State.dram_delOp (s : State) (id : Nat) : (s.delOp id).dram = s.dram := rfl
@[simp] theorem State.l2_delOp (s : State) (id : Nat) : (s.delOp id).l2 = s.l2 := rfl
@[simp] theorem State.tracked_delOp (s : State) (id : Nat) : (s.delOp id).tracked = s.tracked := rfl
@[simp] theorem State.dirRoom_delOp (s : State) (id : Nat) : (s.delOp id).dirRoom = s.dirRoom := rfl
@[simp] theorem State.spread_delOp (s : State) (id : Nat) : (s.delOp id).spread = s.spread := rfl
@[simp] theorem State.lost_delOp (s : State) (id : Nat) : (s.delOp id).lost = s.lost := rfl
@[simp] theorem State.damaged_delOp (s : State) (id : Nat) : (s.delOp id).damaged = s.damaged := rfl
@[simp] theorem State.bufs_delOp (s : State) (id : Nat) : (s.delOp id).bufs = s.bufs := rfl
@[simp] theorem State.keys_delOp (s : State) (id : Nat) : (s.delOp id).keys = s.keys := rfl
@[simp] theorem State.seals_delOp (s : State) (id : Nat) : (s.delOp id).seals = s.seals := rfl
@[simp] theorem State.snaps_delOp (s : State) (id : Nat) : (s.delOp id).snaps = s.snaps := rfl
@[simp] theorem State.migrations_delOp (s : State) (id : Nat) : (s.delOp id).migrations = s.migrations := rfl
@[simp] theorem State.quars_delOp (s : State) (id : Nat) : (s.delOp id).quars = s.quars := rfl
@[simp] theorem State.cows_delOp (s : State) (id : Nat) : (s.delOp id).cows = s.cows := rfl
@[simp] theorem State.pools_delOp (s : State) (id : Nat) : (s.delOp id).pools = s.pools := rfl
@[simp] theorem State.banks_delOp (s : State) (id : Nat) : (s.delOp id).banks = s.banks := rfl
@[simp] theorem State.ports_delOp (s : State) (id : Nat) : (s.delOp id).ports = s.ports := rfl
@[simp] theorem State.stackTab_delOp (s : State) (id : Nat) : (s.delOp id).stackTab = s.stackTab := rfl
@[simp] theorem State.allBankLimit_delOp (s : State) (id : Nat) : (s.delOp id).allBankLimit = s.allBankLimit := rfl
@[simp] theorem State.queues_delOp (s : State) (id : Nat) : (s.delOp id).queues = s.queues := rfl
@[simp] theorem State.packets_delOp (s : State) (id : Nat) : (s.delOp id).packets = s.packets := rfl
@[simp] theorem State.waits_delOp (s : State) (id : Nat) : (s.delOp id).waits = s.waits := rfl
@[simp] theorem State.launches_delOp (s : State) (id : Nat) : (s.delOp id).launches = s.launches := rfl
@[simp] theorem State.blocks_delOp (s : State) (id : Nat) : (s.delOp id).blocks = s.blocks := rfl
@[simp] theorem State.holdLimit_delOp (s : State) (id : Nat) : (s.delOp id).holdLimit = s.holdLimit := rfl
@[simp] theorem State.age_delOp (s : State) (id : Nat) : (s.delOp id).age = s.age := rfl
@[simp] theorem State.resInterval_delOp (s : State) (id : Nat) : (s.delOp id).resInterval = s.resInterval := rfl
@[simp] theorem State.qdl_delOp (s : State) (id : Nat) : (s.delOp id).qdl = s.qdl := rfl
@[simp] theorem State.peerTimeout_delOp (s : State) (id : Nat) : (s.delOp id).peerTimeout = s.peerTimeout := rfl
@[simp] theorem State.escHold_delOp (s : State) (id : Nat) : (s.delOp id).escHold = s.escHold := rfl
@[simp] theorem State.thresholds_delOp (s : State) (id : Nat) : (s.delOp id).thresholds = s.thresholds := rfl
@[simp] theorem State.windows_delOp (s : State) (id : Nat) : (s.delOp id).windows = s.windows := rfl
@[simp] theorem State.events_delOp (s : State) (id : Nat) : (s.delOp id).events = s.events := rfl
@[simp] theorem State.lanes_delOp (s : State) (id : Nat) : (s.delOp id).lanes = s.lanes := rfl
@[simp] theorem State.ethWidth_delOp (s : State) (id : Nat) : (s.delOp id).ethWidth = s.ethWidth := rfl
@[simp] theorem State.staging_delOp (s : State) (id : Nat) : (s.delOp id).staging = s.staging := rfl
@[simp] theorem State.due_delOp (s : State) (id : Nat) : (s.delOp id).due = s.due := rfl
@[simp] theorem State.armed_delOp (s : State) (id : Nat) : (s.delOp id).armed = s.armed := rfl
@[simp] theorem State.arming_delOp (s : State) (id : Nat) : (s.delOp id).arming = s.arming := rfl
@[simp] theorem State.reportSeq_delOp (s : State) (id : Nat) : (s.delOp id).reportSeq = s.reportSeq := rfl
@[simp] theorem State.logAddr_delOp (s : State) (id : Nat) : (s.delOp id).logAddr = s.logAddr := rfl
@[simp] theorem State.logN_delOp (s : State) (id : Nat) : (s.delOp id).logN = s.logN := rfl
@[simp] theorem State.rootDigest_delOp (s : State) (id : Nat) : (s.delOp id).rootDigest = s.rootDigest := rfl
@[simp] theorem State.identity_delOp (s : State) (id : Nat) : (s.delOp id).identity = s.identity := rfl
@[simp] theorem State.rollback_delOp (s : State) (id : Nat) : (s.delOp id).rollback = s.rollback := rfl
@[simp] theorem State.bootStatus_delOp (s : State) (id : Nat) : (s.delOp id).bootStatus = s.bootStatus := rfl
@[simp] theorem State.booted_delOp (s : State) (id : Nat) : (s.delOp id).booted = s.booted := rfl
@[simp] theorem State.firmware_delOp (s : State) (id : Nat) : (s.delOp id).firmware = s.firmware := rfl
@[simp] theorem State.budget_delOp (s : State) (id : Nat) : (s.delOp id).budget = s.budget := rfl
@[simp] theorem State.flowLow_delOp (s : State) (id : Nat) : (s.delOp id).flowLow = s.flowLow := rfl
@[simp] theorem State.coolTables_delOp (s : State) (id : Nat) : (s.delOp id).coolTables = s.coolTables := rfl
@[simp] theorem State.conns_delOp (s : State) (id : Nat) : (s.delOp id).conns = s.conns := rfl
@[simp] theorem State.outbox_delOp (s : State) (id : Nat) : (s.delOp id).outbox = s.outbox := rfl
@[simp] theorem State.asking_delOp (s : State) (id : Nat) : (s.delOp id).asking = s.asking := rfl
@[simp] theorem State.hostHeld_delOp (s : State) (id : Nat) : (s.delOp id).hostHeld = s.hostHeld := rfl
@[simp] theorem State.escHolds_delOp (s : State) (id : Nat) : (s.delOp id).escHolds = s.escHolds := rfl

/-! ## State.send writes outbox -/

@[simp] theorem State.agenda_send (s : State) (kind dest body : Nat) : (s.send kind dest body).agenda = s.agenda := rfl
@[simp] theorem State.input_send (s : State) (kind dest body : Nat) : (s.send kind dest body).input = s.input := rfl
@[simp] theorem State.issue_send (s : State) (kind dest body : Nat) : (s.send kind dest body).issue = s.issue := rfl
@[simp] theorem State.seq_send (s : State) (kind dest body : Nat) : (s.send kind dest body).seq = s.seq := rfl
@[simp] theorem State.ref_send (s : State) (kind dest body : Nat) : (s.send kind dest body).ref = s.ref := rfl
@[simp] theorem State.pkg_send (s : State) (kind dest body : Nat) : (s.send kind dest body).pkg = s.pkg := rfl
@[simp] theorem State.tripped_send (s : State) (kind dest body : Nat) : (s.send kind dest body).tripped = s.tripped := rfl
@[simp] theorem State.slots_send (s : State) (kind dest body : Nat) : (s.send kind dest body).slots = s.slots := rfl
@[simp] theorem State.cores_send (s : State) (kind dest body : Nat) : (s.send kind dest body).cores = s.cores := rfl
@[simp] theorem State.dies_send (s : State) (kind dest body : Nat) : (s.send kind dest body).dies = s.dies := rfl
@[simp] theorem State.ops_send (s : State) (kind dest body : Nat) : (s.send kind dest body).ops = s.ops := rfl
@[simp] theorem State.bars_send (s : State) (kind dest body : Nat) : (s.send kind dest body).bars = s.bars := rfl
@[simp] theorem State.members_send (s : State) (kind dest body : Nat) : (s.send kind dest body).members = s.members := rfl
@[simp] theorem State.dram_send (s : State) (kind dest body : Nat) : (s.send kind dest body).dram = s.dram := rfl
@[simp] theorem State.l2_send (s : State) (kind dest body : Nat) : (s.send kind dest body).l2 = s.l2 := rfl
@[simp] theorem State.tracked_send (s : State) (kind dest body : Nat) : (s.send kind dest body).tracked = s.tracked := rfl
@[simp] theorem State.dirRoom_send (s : State) (kind dest body : Nat) : (s.send kind dest body).dirRoom = s.dirRoom := rfl
@[simp] theorem State.spread_send (s : State) (kind dest body : Nat) : (s.send kind dest body).spread = s.spread := rfl
@[simp] theorem State.lost_send (s : State) (kind dest body : Nat) : (s.send kind dest body).lost = s.lost := rfl
@[simp] theorem State.damaged_send (s : State) (kind dest body : Nat) : (s.send kind dest body).damaged = s.damaged := rfl
@[simp] theorem State.bufs_send (s : State) (kind dest body : Nat) : (s.send kind dest body).bufs = s.bufs := rfl
@[simp] theorem State.keys_send (s : State) (kind dest body : Nat) : (s.send kind dest body).keys = s.keys := rfl
@[simp] theorem State.seals_send (s : State) (kind dest body : Nat) : (s.send kind dest body).seals = s.seals := rfl
@[simp] theorem State.snaps_send (s : State) (kind dest body : Nat) : (s.send kind dest body).snaps = s.snaps := rfl
@[simp] theorem State.migrations_send (s : State) (kind dest body : Nat) : (s.send kind dest body).migrations = s.migrations := rfl
@[simp] theorem State.quars_send (s : State) (kind dest body : Nat) : (s.send kind dest body).quars = s.quars := rfl
@[simp] theorem State.cows_send (s : State) (kind dest body : Nat) : (s.send kind dest body).cows = s.cows := rfl
@[simp] theorem State.pools_send (s : State) (kind dest body : Nat) : (s.send kind dest body).pools = s.pools := rfl
@[simp] theorem State.banks_send (s : State) (kind dest body : Nat) : (s.send kind dest body).banks = s.banks := rfl
@[simp] theorem State.ports_send (s : State) (kind dest body : Nat) : (s.send kind dest body).ports = s.ports := rfl
@[simp] theorem State.stackTab_send (s : State) (kind dest body : Nat) : (s.send kind dest body).stackTab = s.stackTab := rfl
@[simp] theorem State.allBankLimit_send (s : State) (kind dest body : Nat) : (s.send kind dest body).allBankLimit = s.allBankLimit := rfl
@[simp] theorem State.queues_send (s : State) (kind dest body : Nat) : (s.send kind dest body).queues = s.queues := rfl
@[simp] theorem State.packets_send (s : State) (kind dest body : Nat) : (s.send kind dest body).packets = s.packets := rfl
@[simp] theorem State.waits_send (s : State) (kind dest body : Nat) : (s.send kind dest body).waits = s.waits := rfl
@[simp] theorem State.launches_send (s : State) (kind dest body : Nat) : (s.send kind dest body).launches = s.launches := rfl
@[simp] theorem State.blocks_send (s : State) (kind dest body : Nat) : (s.send kind dest body).blocks = s.blocks := rfl
@[simp] theorem State.holdLimit_send (s : State) (kind dest body : Nat) : (s.send kind dest body).holdLimit = s.holdLimit := rfl
@[simp] theorem State.age_send (s : State) (kind dest body : Nat) : (s.send kind dest body).age = s.age := rfl
@[simp] theorem State.resInterval_send (s : State) (kind dest body : Nat) : (s.send kind dest body).resInterval = s.resInterval := rfl
@[simp] theorem State.qdl_send (s : State) (kind dest body : Nat) : (s.send kind dest body).qdl = s.qdl := rfl
@[simp] theorem State.peerTimeout_send (s : State) (kind dest body : Nat) : (s.send kind dest body).peerTimeout = s.peerTimeout := rfl
@[simp] theorem State.escHold_send (s : State) (kind dest body : Nat) : (s.send kind dest body).escHold = s.escHold := rfl
@[simp] theorem State.thresholds_send (s : State) (kind dest body : Nat) : (s.send kind dest body).thresholds = s.thresholds := rfl
@[simp] theorem State.windows_send (s : State) (kind dest body : Nat) : (s.send kind dest body).windows = s.windows := rfl
@[simp] theorem State.events_send (s : State) (kind dest body : Nat) : (s.send kind dest body).events = s.events := rfl
@[simp] theorem State.lanes_send (s : State) (kind dest body : Nat) : (s.send kind dest body).lanes = s.lanes := rfl
@[simp] theorem State.ethWidth_send (s : State) (kind dest body : Nat) : (s.send kind dest body).ethWidth = s.ethWidth := rfl
@[simp] theorem State.staging_send (s : State) (kind dest body : Nat) : (s.send kind dest body).staging = s.staging := rfl
@[simp] theorem State.due_send (s : State) (kind dest body : Nat) : (s.send kind dest body).due = s.due := rfl
@[simp] theorem State.armed_send (s : State) (kind dest body : Nat) : (s.send kind dest body).armed = s.armed := rfl
@[simp] theorem State.arming_send (s : State) (kind dest body : Nat) : (s.send kind dest body).arming = s.arming := rfl
@[simp] theorem State.reportSeq_send (s : State) (kind dest body : Nat) : (s.send kind dest body).reportSeq = s.reportSeq := rfl
@[simp] theorem State.logAddr_send (s : State) (kind dest body : Nat) : (s.send kind dest body).logAddr = s.logAddr := rfl
@[simp] theorem State.logN_send (s : State) (kind dest body : Nat) : (s.send kind dest body).logN = s.logN := rfl
@[simp] theorem State.rootDigest_send (s : State) (kind dest body : Nat) : (s.send kind dest body).rootDigest = s.rootDigest := rfl
@[simp] theorem State.identity_send (s : State) (kind dest body : Nat) : (s.send kind dest body).identity = s.identity := rfl
@[simp] theorem State.rollback_send (s : State) (kind dest body : Nat) : (s.send kind dest body).rollback = s.rollback := rfl
@[simp] theorem State.bootStatus_send (s : State) (kind dest body : Nat) : (s.send kind dest body).bootStatus = s.bootStatus := rfl
@[simp] theorem State.booted_send (s : State) (kind dest body : Nat) : (s.send kind dest body).booted = s.booted := rfl
@[simp] theorem State.firmware_send (s : State) (kind dest body : Nat) : (s.send kind dest body).firmware = s.firmware := rfl
@[simp] theorem State.budget_send (s : State) (kind dest body : Nat) : (s.send kind dest body).budget = s.budget := rfl
@[simp] theorem State.flowLow_send (s : State) (kind dest body : Nat) : (s.send kind dest body).flowLow = s.flowLow := rfl
@[simp] theorem State.coolTables_send (s : State) (kind dest body : Nat) : (s.send kind dest body).coolTables = s.coolTables := rfl
@[simp] theorem State.conns_send (s : State) (kind dest body : Nat) : (s.send kind dest body).conns = s.conns := rfl
@[simp] theorem State.asking_send (s : State) (kind dest body : Nat) : (s.send kind dest body).asking = s.asking := rfl
@[simp] theorem State.hostHeld_send (s : State) (kind dest body : Nat) : (s.send kind dest body).hostHeld = s.hostHeld := rfl
@[simp] theorem State.escHolds_send (s : State) (kind dest body : Nat) : (s.send kind dest body).escHolds = s.escHolds := rfl

/-! ## State.track writes tracked -/

@[simp] theorem State.agenda_track (s : State) (line : Nat) : (s.track line).agenda = s.agenda := rfl
@[simp] theorem State.input_track (s : State) (line : Nat) : (s.track line).input = s.input := rfl
@[simp] theorem State.issue_track (s : State) (line : Nat) : (s.track line).issue = s.issue := rfl
@[simp] theorem State.seq_track (s : State) (line : Nat) : (s.track line).seq = s.seq := rfl
@[simp] theorem State.ref_track (s : State) (line : Nat) : (s.track line).ref = s.ref := rfl
@[simp] theorem State.pkg_track (s : State) (line : Nat) : (s.track line).pkg = s.pkg := rfl
@[simp] theorem State.tripped_track (s : State) (line : Nat) : (s.track line).tripped = s.tripped := rfl
@[simp] theorem State.slots_track (s : State) (line : Nat) : (s.track line).slots = s.slots := rfl
@[simp] theorem State.cores_track (s : State) (line : Nat) : (s.track line).cores = s.cores := rfl
@[simp] theorem State.dies_track (s : State) (line : Nat) : (s.track line).dies = s.dies := rfl
@[simp] theorem State.ops_track (s : State) (line : Nat) : (s.track line).ops = s.ops := rfl
@[simp] theorem State.bars_track (s : State) (line : Nat) : (s.track line).bars = s.bars := rfl
@[simp] theorem State.members_track (s : State) (line : Nat) : (s.track line).members = s.members := rfl
@[simp] theorem State.dram_track (s : State) (line : Nat) : (s.track line).dram = s.dram := rfl
@[simp] theorem State.l2_track (s : State) (line : Nat) : (s.track line).l2 = s.l2 := rfl
@[simp] theorem State.dirRoom_track (s : State) (line : Nat) : (s.track line).dirRoom = s.dirRoom := rfl
@[simp] theorem State.spread_track (s : State) (line : Nat) : (s.track line).spread = s.spread := rfl
@[simp] theorem State.lost_track (s : State) (line : Nat) : (s.track line).lost = s.lost := rfl
@[simp] theorem State.damaged_track (s : State) (line : Nat) : (s.track line).damaged = s.damaged := rfl
@[simp] theorem State.bufs_track (s : State) (line : Nat) : (s.track line).bufs = s.bufs := rfl
@[simp] theorem State.keys_track (s : State) (line : Nat) : (s.track line).keys = s.keys := rfl
@[simp] theorem State.seals_track (s : State) (line : Nat) : (s.track line).seals = s.seals := rfl
@[simp] theorem State.snaps_track (s : State) (line : Nat) : (s.track line).snaps = s.snaps := rfl
@[simp] theorem State.migrations_track (s : State) (line : Nat) : (s.track line).migrations = s.migrations := rfl
@[simp] theorem State.quars_track (s : State) (line : Nat) : (s.track line).quars = s.quars := rfl
@[simp] theorem State.cows_track (s : State) (line : Nat) : (s.track line).cows = s.cows := rfl
@[simp] theorem State.pools_track (s : State) (line : Nat) : (s.track line).pools = s.pools := rfl
@[simp] theorem State.banks_track (s : State) (line : Nat) : (s.track line).banks = s.banks := rfl
@[simp] theorem State.ports_track (s : State) (line : Nat) : (s.track line).ports = s.ports := rfl
@[simp] theorem State.stackTab_track (s : State) (line : Nat) : (s.track line).stackTab = s.stackTab := rfl
@[simp] theorem State.allBankLimit_track (s : State) (line : Nat) : (s.track line).allBankLimit = s.allBankLimit := rfl
@[simp] theorem State.queues_track (s : State) (line : Nat) : (s.track line).queues = s.queues := rfl
@[simp] theorem State.packets_track (s : State) (line : Nat) : (s.track line).packets = s.packets := rfl
@[simp] theorem State.waits_track (s : State) (line : Nat) : (s.track line).waits = s.waits := rfl
@[simp] theorem State.launches_track (s : State) (line : Nat) : (s.track line).launches = s.launches := rfl
@[simp] theorem State.blocks_track (s : State) (line : Nat) : (s.track line).blocks = s.blocks := rfl
@[simp] theorem State.holdLimit_track (s : State) (line : Nat) : (s.track line).holdLimit = s.holdLimit := rfl
@[simp] theorem State.age_track (s : State) (line : Nat) : (s.track line).age = s.age := rfl
@[simp] theorem State.resInterval_track (s : State) (line : Nat) : (s.track line).resInterval = s.resInterval := rfl
@[simp] theorem State.qdl_track (s : State) (line : Nat) : (s.track line).qdl = s.qdl := rfl
@[simp] theorem State.peerTimeout_track (s : State) (line : Nat) : (s.track line).peerTimeout = s.peerTimeout := rfl
@[simp] theorem State.escHold_track (s : State) (line : Nat) : (s.track line).escHold = s.escHold := rfl
@[simp] theorem State.thresholds_track (s : State) (line : Nat) : (s.track line).thresholds = s.thresholds := rfl
@[simp] theorem State.windows_track (s : State) (line : Nat) : (s.track line).windows = s.windows := rfl
@[simp] theorem State.events_track (s : State) (line : Nat) : (s.track line).events = s.events := rfl
@[simp] theorem State.lanes_track (s : State) (line : Nat) : (s.track line).lanes = s.lanes := rfl
@[simp] theorem State.ethWidth_track (s : State) (line : Nat) : (s.track line).ethWidth = s.ethWidth := rfl
@[simp] theorem State.staging_track (s : State) (line : Nat) : (s.track line).staging = s.staging := rfl
@[simp] theorem State.due_track (s : State) (line : Nat) : (s.track line).due = s.due := rfl
@[simp] theorem State.armed_track (s : State) (line : Nat) : (s.track line).armed = s.armed := rfl
@[simp] theorem State.arming_track (s : State) (line : Nat) : (s.track line).arming = s.arming := rfl
@[simp] theorem State.reportSeq_track (s : State) (line : Nat) : (s.track line).reportSeq = s.reportSeq := rfl
@[simp] theorem State.logAddr_track (s : State) (line : Nat) : (s.track line).logAddr = s.logAddr := rfl
@[simp] theorem State.logN_track (s : State) (line : Nat) : (s.track line).logN = s.logN := rfl
@[simp] theorem State.rootDigest_track (s : State) (line : Nat) : (s.track line).rootDigest = s.rootDigest := rfl
@[simp] theorem State.identity_track (s : State) (line : Nat) : (s.track line).identity = s.identity := rfl
@[simp] theorem State.rollback_track (s : State) (line : Nat) : (s.track line).rollback = s.rollback := rfl
@[simp] theorem State.bootStatus_track (s : State) (line : Nat) : (s.track line).bootStatus = s.bootStatus := rfl
@[simp] theorem State.booted_track (s : State) (line : Nat) : (s.track line).booted = s.booted := rfl
@[simp] theorem State.firmware_track (s : State) (line : Nat) : (s.track line).firmware = s.firmware := rfl
@[simp] theorem State.budget_track (s : State) (line : Nat) : (s.track line).budget = s.budget := rfl
@[simp] theorem State.flowLow_track (s : State) (line : Nat) : (s.track line).flowLow = s.flowLow := rfl
@[simp] theorem State.coolTables_track (s : State) (line : Nat) : (s.track line).coolTables = s.coolTables := rfl
@[simp] theorem State.conns_track (s : State) (line : Nat) : (s.track line).conns = s.conns := rfl
@[simp] theorem State.outbox_track (s : State) (line : Nat) : (s.track line).outbox = s.outbox := rfl
@[simp] theorem State.asking_track (s : State) (line : Nat) : (s.track line).asking = s.asking := rfl
@[simp] theorem State.hostHeld_track (s : State) (line : Nat) : (s.track line).hostHeld = s.hostHeld := rfl
@[simp] theorem State.escHolds_track (s : State) (line : Nat) : (s.track line).escHolds = s.escHolds := rfl

/-! ## State.setL2 writes l2 and tracked -/

@[simp] theorem State.agenda_setL2 (s : State) (die line : Nat) (x : L2Line) : (s.setL2 die line x).agenda = s.agenda := rfl
@[simp] theorem State.input_setL2 (s : State) (die line : Nat) (x : L2Line) : (s.setL2 die line x).input = s.input := rfl
@[simp] theorem State.issue_setL2 (s : State) (die line : Nat) (x : L2Line) : (s.setL2 die line x).issue = s.issue := rfl
@[simp] theorem State.seq_setL2 (s : State) (die line : Nat) (x : L2Line) : (s.setL2 die line x).seq = s.seq := rfl
@[simp] theorem State.ref_setL2 (s : State) (die line : Nat) (x : L2Line) : (s.setL2 die line x).ref = s.ref := rfl
@[simp] theorem State.pkg_setL2 (s : State) (die line : Nat) (x : L2Line) : (s.setL2 die line x).pkg = s.pkg := rfl
@[simp] theorem State.tripped_setL2 (s : State) (die line : Nat) (x : L2Line) : (s.setL2 die line x).tripped = s.tripped := rfl
@[simp] theorem State.slots_setL2 (s : State) (die line : Nat) (x : L2Line) : (s.setL2 die line x).slots = s.slots := rfl
@[simp] theorem State.cores_setL2 (s : State) (die line : Nat) (x : L2Line) : (s.setL2 die line x).cores = s.cores := rfl
@[simp] theorem State.dies_setL2 (s : State) (die line : Nat) (x : L2Line) : (s.setL2 die line x).dies = s.dies := rfl
@[simp] theorem State.ops_setL2 (s : State) (die line : Nat) (x : L2Line) : (s.setL2 die line x).ops = s.ops := rfl
@[simp] theorem State.bars_setL2 (s : State) (die line : Nat) (x : L2Line) : (s.setL2 die line x).bars = s.bars := rfl
@[simp] theorem State.members_setL2 (s : State) (die line : Nat) (x : L2Line) : (s.setL2 die line x).members = s.members := rfl
@[simp] theorem State.dram_setL2 (s : State) (die line : Nat) (x : L2Line) : (s.setL2 die line x).dram = s.dram := rfl
@[simp] theorem State.dirRoom_setL2 (s : State) (die line : Nat) (x : L2Line) : (s.setL2 die line x).dirRoom = s.dirRoom := rfl
@[simp] theorem State.spread_setL2 (s : State) (die line : Nat) (x : L2Line) : (s.setL2 die line x).spread = s.spread := rfl
@[simp] theorem State.lost_setL2 (s : State) (die line : Nat) (x : L2Line) : (s.setL2 die line x).lost = s.lost := rfl
@[simp] theorem State.damaged_setL2 (s : State) (die line : Nat) (x : L2Line) : (s.setL2 die line x).damaged = s.damaged := rfl
@[simp] theorem State.bufs_setL2 (s : State) (die line : Nat) (x : L2Line) : (s.setL2 die line x).bufs = s.bufs := rfl
@[simp] theorem State.keys_setL2 (s : State) (die line : Nat) (x : L2Line) : (s.setL2 die line x).keys = s.keys := rfl
@[simp] theorem State.seals_setL2 (s : State) (die line : Nat) (x : L2Line) : (s.setL2 die line x).seals = s.seals := rfl
@[simp] theorem State.snaps_setL2 (s : State) (die line : Nat) (x : L2Line) : (s.setL2 die line x).snaps = s.snaps := rfl
@[simp] theorem State.migrations_setL2 (s : State) (die line : Nat) (x : L2Line) : (s.setL2 die line x).migrations = s.migrations := rfl
@[simp] theorem State.quars_setL2 (s : State) (die line : Nat) (x : L2Line) : (s.setL2 die line x).quars = s.quars := rfl
@[simp] theorem State.cows_setL2 (s : State) (die line : Nat) (x : L2Line) : (s.setL2 die line x).cows = s.cows := rfl
@[simp] theorem State.pools_setL2 (s : State) (die line : Nat) (x : L2Line) : (s.setL2 die line x).pools = s.pools := rfl
@[simp] theorem State.banks_setL2 (s : State) (die line : Nat) (x : L2Line) : (s.setL2 die line x).banks = s.banks := rfl
@[simp] theorem State.ports_setL2 (s : State) (die line : Nat) (x : L2Line) : (s.setL2 die line x).ports = s.ports := rfl
@[simp] theorem State.stackTab_setL2 (s : State) (die line : Nat) (x : L2Line) : (s.setL2 die line x).stackTab = s.stackTab := rfl
@[simp] theorem State.allBankLimit_setL2 (s : State) (die line : Nat) (x : L2Line) : (s.setL2 die line x).allBankLimit = s.allBankLimit := rfl
@[simp] theorem State.queues_setL2 (s : State) (die line : Nat) (x : L2Line) : (s.setL2 die line x).queues = s.queues := rfl
@[simp] theorem State.packets_setL2 (s : State) (die line : Nat) (x : L2Line) : (s.setL2 die line x).packets = s.packets := rfl
@[simp] theorem State.waits_setL2 (s : State) (die line : Nat) (x : L2Line) : (s.setL2 die line x).waits = s.waits := rfl
@[simp] theorem State.launches_setL2 (s : State) (die line : Nat) (x : L2Line) : (s.setL2 die line x).launches = s.launches := rfl
@[simp] theorem State.blocks_setL2 (s : State) (die line : Nat) (x : L2Line) : (s.setL2 die line x).blocks = s.blocks := rfl
@[simp] theorem State.holdLimit_setL2 (s : State) (die line : Nat) (x : L2Line) : (s.setL2 die line x).holdLimit = s.holdLimit := rfl
@[simp] theorem State.age_setL2 (s : State) (die line : Nat) (x : L2Line) : (s.setL2 die line x).age = s.age := rfl
@[simp] theorem State.resInterval_setL2 (s : State) (die line : Nat) (x : L2Line) : (s.setL2 die line x).resInterval = s.resInterval := rfl
@[simp] theorem State.qdl_setL2 (s : State) (die line : Nat) (x : L2Line) : (s.setL2 die line x).qdl = s.qdl := rfl
@[simp] theorem State.peerTimeout_setL2 (s : State) (die line : Nat) (x : L2Line) : (s.setL2 die line x).peerTimeout = s.peerTimeout := rfl
@[simp] theorem State.escHold_setL2 (s : State) (die line : Nat) (x : L2Line) : (s.setL2 die line x).escHold = s.escHold := rfl
@[simp] theorem State.thresholds_setL2 (s : State) (die line : Nat) (x : L2Line) : (s.setL2 die line x).thresholds = s.thresholds := rfl
@[simp] theorem State.windows_setL2 (s : State) (die line : Nat) (x : L2Line) : (s.setL2 die line x).windows = s.windows := rfl
@[simp] theorem State.events_setL2 (s : State) (die line : Nat) (x : L2Line) : (s.setL2 die line x).events = s.events := rfl
@[simp] theorem State.lanes_setL2 (s : State) (die line : Nat) (x : L2Line) : (s.setL2 die line x).lanes = s.lanes := rfl
@[simp] theorem State.ethWidth_setL2 (s : State) (die line : Nat) (x : L2Line) : (s.setL2 die line x).ethWidth = s.ethWidth := rfl
@[simp] theorem State.staging_setL2 (s : State) (die line : Nat) (x : L2Line) : (s.setL2 die line x).staging = s.staging := rfl
@[simp] theorem State.due_setL2 (s : State) (die line : Nat) (x : L2Line) : (s.setL2 die line x).due = s.due := rfl
@[simp] theorem State.armed_setL2 (s : State) (die line : Nat) (x : L2Line) : (s.setL2 die line x).armed = s.armed := rfl
@[simp] theorem State.arming_setL2 (s : State) (die line : Nat) (x : L2Line) : (s.setL2 die line x).arming = s.arming := rfl
@[simp] theorem State.reportSeq_setL2 (s : State) (die line : Nat) (x : L2Line) : (s.setL2 die line x).reportSeq = s.reportSeq := rfl
@[simp] theorem State.logAddr_setL2 (s : State) (die line : Nat) (x : L2Line) : (s.setL2 die line x).logAddr = s.logAddr := rfl
@[simp] theorem State.logN_setL2 (s : State) (die line : Nat) (x : L2Line) : (s.setL2 die line x).logN = s.logN := rfl
@[simp] theorem State.rootDigest_setL2 (s : State) (die line : Nat) (x : L2Line) : (s.setL2 die line x).rootDigest = s.rootDigest := rfl
@[simp] theorem State.identity_setL2 (s : State) (die line : Nat) (x : L2Line) : (s.setL2 die line x).identity = s.identity := rfl
@[simp] theorem State.rollback_setL2 (s : State) (die line : Nat) (x : L2Line) : (s.setL2 die line x).rollback = s.rollback := rfl
@[simp] theorem State.bootStatus_setL2 (s : State) (die line : Nat) (x : L2Line) : (s.setL2 die line x).bootStatus = s.bootStatus := rfl
@[simp] theorem State.booted_setL2 (s : State) (die line : Nat) (x : L2Line) : (s.setL2 die line x).booted = s.booted := rfl
@[simp] theorem State.firmware_setL2 (s : State) (die line : Nat) (x : L2Line) : (s.setL2 die line x).firmware = s.firmware := rfl
@[simp] theorem State.budget_setL2 (s : State) (die line : Nat) (x : L2Line) : (s.setL2 die line x).budget = s.budget := rfl
@[simp] theorem State.flowLow_setL2 (s : State) (die line : Nat) (x : L2Line) : (s.setL2 die line x).flowLow = s.flowLow := rfl
@[simp] theorem State.coolTables_setL2 (s : State) (die line : Nat) (x : L2Line) : (s.setL2 die line x).coolTables = s.coolTables := rfl
@[simp] theorem State.conns_setL2 (s : State) (die line : Nat) (x : L2Line) : (s.setL2 die line x).conns = s.conns := rfl
@[simp] theorem State.outbox_setL2 (s : State) (die line : Nat) (x : L2Line) : (s.setL2 die line x).outbox = s.outbox := rfl
@[simp] theorem State.asking_setL2 (s : State) (die line : Nat) (x : L2Line) : (s.setL2 die line x).asking = s.asking := rfl
@[simp] theorem State.hostHeld_setL2 (s : State) (die line : Nat) (x : L2Line) : (s.setL2 die line x).hostHeld = s.hostHeld := rfl
@[simp] theorem State.escHolds_setL2 (s : State) (die line : Nat) (x : L2Line) : (s.setL2 die line x).escHolds = s.escHolds := rfl

/-! ## State.delL2 writes l2 -/

@[simp] theorem State.agenda_delL2 (s : State) (die line : Nat) : (s.delL2 die line).agenda = s.agenda := rfl
@[simp] theorem State.input_delL2 (s : State) (die line : Nat) : (s.delL2 die line).input = s.input := rfl
@[simp] theorem State.issue_delL2 (s : State) (die line : Nat) : (s.delL2 die line).issue = s.issue := rfl
@[simp] theorem State.seq_delL2 (s : State) (die line : Nat) : (s.delL2 die line).seq = s.seq := rfl
@[simp] theorem State.ref_delL2 (s : State) (die line : Nat) : (s.delL2 die line).ref = s.ref := rfl
@[simp] theorem State.pkg_delL2 (s : State) (die line : Nat) : (s.delL2 die line).pkg = s.pkg := rfl
@[simp] theorem State.tripped_delL2 (s : State) (die line : Nat) : (s.delL2 die line).tripped = s.tripped := rfl
@[simp] theorem State.slots_delL2 (s : State) (die line : Nat) : (s.delL2 die line).slots = s.slots := rfl
@[simp] theorem State.cores_delL2 (s : State) (die line : Nat) : (s.delL2 die line).cores = s.cores := rfl
@[simp] theorem State.dies_delL2 (s : State) (die line : Nat) : (s.delL2 die line).dies = s.dies := rfl
@[simp] theorem State.ops_delL2 (s : State) (die line : Nat) : (s.delL2 die line).ops = s.ops := rfl
@[simp] theorem State.bars_delL2 (s : State) (die line : Nat) : (s.delL2 die line).bars = s.bars := rfl
@[simp] theorem State.members_delL2 (s : State) (die line : Nat) : (s.delL2 die line).members = s.members := rfl
@[simp] theorem State.dram_delL2 (s : State) (die line : Nat) : (s.delL2 die line).dram = s.dram := rfl
@[simp] theorem State.tracked_delL2 (s : State) (die line : Nat) : (s.delL2 die line).tracked = s.tracked := rfl
@[simp] theorem State.dirRoom_delL2 (s : State) (die line : Nat) : (s.delL2 die line).dirRoom = s.dirRoom := rfl
@[simp] theorem State.spread_delL2 (s : State) (die line : Nat) : (s.delL2 die line).spread = s.spread := rfl
@[simp] theorem State.lost_delL2 (s : State) (die line : Nat) : (s.delL2 die line).lost = s.lost := rfl
@[simp] theorem State.damaged_delL2 (s : State) (die line : Nat) : (s.delL2 die line).damaged = s.damaged := rfl
@[simp] theorem State.bufs_delL2 (s : State) (die line : Nat) : (s.delL2 die line).bufs = s.bufs := rfl
@[simp] theorem State.keys_delL2 (s : State) (die line : Nat) : (s.delL2 die line).keys = s.keys := rfl
@[simp] theorem State.seals_delL2 (s : State) (die line : Nat) : (s.delL2 die line).seals = s.seals := rfl
@[simp] theorem State.snaps_delL2 (s : State) (die line : Nat) : (s.delL2 die line).snaps = s.snaps := rfl
@[simp] theorem State.migrations_delL2 (s : State) (die line : Nat) : (s.delL2 die line).migrations = s.migrations := rfl
@[simp] theorem State.quars_delL2 (s : State) (die line : Nat) : (s.delL2 die line).quars = s.quars := rfl
@[simp] theorem State.cows_delL2 (s : State) (die line : Nat) : (s.delL2 die line).cows = s.cows := rfl
@[simp] theorem State.pools_delL2 (s : State) (die line : Nat) : (s.delL2 die line).pools = s.pools := rfl
@[simp] theorem State.banks_delL2 (s : State) (die line : Nat) : (s.delL2 die line).banks = s.banks := rfl
@[simp] theorem State.ports_delL2 (s : State) (die line : Nat) : (s.delL2 die line).ports = s.ports := rfl
@[simp] theorem State.stackTab_delL2 (s : State) (die line : Nat) : (s.delL2 die line).stackTab = s.stackTab := rfl
@[simp] theorem State.allBankLimit_delL2 (s : State) (die line : Nat) : (s.delL2 die line).allBankLimit = s.allBankLimit := rfl
@[simp] theorem State.queues_delL2 (s : State) (die line : Nat) : (s.delL2 die line).queues = s.queues := rfl
@[simp] theorem State.packets_delL2 (s : State) (die line : Nat) : (s.delL2 die line).packets = s.packets := rfl
@[simp] theorem State.waits_delL2 (s : State) (die line : Nat) : (s.delL2 die line).waits = s.waits := rfl
@[simp] theorem State.launches_delL2 (s : State) (die line : Nat) : (s.delL2 die line).launches = s.launches := rfl
@[simp] theorem State.blocks_delL2 (s : State) (die line : Nat) : (s.delL2 die line).blocks = s.blocks := rfl
@[simp] theorem State.holdLimit_delL2 (s : State) (die line : Nat) : (s.delL2 die line).holdLimit = s.holdLimit := rfl
@[simp] theorem State.age_delL2 (s : State) (die line : Nat) : (s.delL2 die line).age = s.age := rfl
@[simp] theorem State.resInterval_delL2 (s : State) (die line : Nat) : (s.delL2 die line).resInterval = s.resInterval := rfl
@[simp] theorem State.qdl_delL2 (s : State) (die line : Nat) : (s.delL2 die line).qdl = s.qdl := rfl
@[simp] theorem State.peerTimeout_delL2 (s : State) (die line : Nat) : (s.delL2 die line).peerTimeout = s.peerTimeout := rfl
@[simp] theorem State.escHold_delL2 (s : State) (die line : Nat) : (s.delL2 die line).escHold = s.escHold := rfl
@[simp] theorem State.thresholds_delL2 (s : State) (die line : Nat) : (s.delL2 die line).thresholds = s.thresholds := rfl
@[simp] theorem State.windows_delL2 (s : State) (die line : Nat) : (s.delL2 die line).windows = s.windows := rfl
@[simp] theorem State.events_delL2 (s : State) (die line : Nat) : (s.delL2 die line).events = s.events := rfl
@[simp] theorem State.lanes_delL2 (s : State) (die line : Nat) : (s.delL2 die line).lanes = s.lanes := rfl
@[simp] theorem State.ethWidth_delL2 (s : State) (die line : Nat) : (s.delL2 die line).ethWidth = s.ethWidth := rfl
@[simp] theorem State.staging_delL2 (s : State) (die line : Nat) : (s.delL2 die line).staging = s.staging := rfl
@[simp] theorem State.due_delL2 (s : State) (die line : Nat) : (s.delL2 die line).due = s.due := rfl
@[simp] theorem State.armed_delL2 (s : State) (die line : Nat) : (s.delL2 die line).armed = s.armed := rfl
@[simp] theorem State.arming_delL2 (s : State) (die line : Nat) : (s.delL2 die line).arming = s.arming := rfl
@[simp] theorem State.reportSeq_delL2 (s : State) (die line : Nat) : (s.delL2 die line).reportSeq = s.reportSeq := rfl
@[simp] theorem State.logAddr_delL2 (s : State) (die line : Nat) : (s.delL2 die line).logAddr = s.logAddr := rfl
@[simp] theorem State.logN_delL2 (s : State) (die line : Nat) : (s.delL2 die line).logN = s.logN := rfl
@[simp] theorem State.rootDigest_delL2 (s : State) (die line : Nat) : (s.delL2 die line).rootDigest = s.rootDigest := rfl
@[simp] theorem State.identity_delL2 (s : State) (die line : Nat) : (s.delL2 die line).identity = s.identity := rfl
@[simp] theorem State.rollback_delL2 (s : State) (die line : Nat) : (s.delL2 die line).rollback = s.rollback := rfl
@[simp] theorem State.bootStatus_delL2 (s : State) (die line : Nat) : (s.delL2 die line).bootStatus = s.bootStatus := rfl
@[simp] theorem State.booted_delL2 (s : State) (die line : Nat) : (s.delL2 die line).booted = s.booted := rfl
@[simp] theorem State.firmware_delL2 (s : State) (die line : Nat) : (s.delL2 die line).firmware = s.firmware := rfl
@[simp] theorem State.budget_delL2 (s : State) (die line : Nat) : (s.delL2 die line).budget = s.budget := rfl
@[simp] theorem State.flowLow_delL2 (s : State) (die line : Nat) : (s.delL2 die line).flowLow = s.flowLow := rfl
@[simp] theorem State.coolTables_delL2 (s : State) (die line : Nat) : (s.delL2 die line).coolTables = s.coolTables := rfl
@[simp] theorem State.conns_delL2 (s : State) (die line : Nat) : (s.delL2 die line).conns = s.conns := rfl
@[simp] theorem State.outbox_delL2 (s : State) (die line : Nat) : (s.delL2 die line).outbox = s.outbox := rfl
@[simp] theorem State.asking_delL2 (s : State) (die line : Nat) : (s.delL2 die line).asking = s.asking := rfl
@[simp] theorem State.hostHeld_delL2 (s : State) (die line : Nat) : (s.delL2 die line).hostHeld = s.hostHeld := rfl
@[simp] theorem State.escHolds_delL2 (s : State) (die line : Nat) : (s.delL2 die line).escHolds = s.escHolds := rfl

end Sys2Proof.Machine
end

