-- ==== Sys2Proof/Laws/Issue.lean ====
section
/-! SUPPORT. What the shared operations of issue answer: an event behind its guard, an instruction word whose checks pass
(03_encoding.md R78), and an instruction of registers (01_thread.md R25). -/

namespace Sys2Proof.Machine

/-! ## Events -/

@[simp] theorem whenEnabled_true (name : String) (t : State) : whenEnabled name true t = .next t := rfl
@[simp] theorem whenEnabled_false (name : String) (t : State) : whenEnabled name false t = .refused (.notEnabled name) := rfl
/-- An event goes on exactly where its guard holds, to the state given. -/
theorem whenEnabled_next {name : String} {g : Bool} {t u : State} : whenEnabled name g t = .next u ↔ g = true ∧ t = u := by
  cases g <;> simp

/-! ## Instruction words -/

/-- A word whose checks pass does what its body says. -/
theorem runWord_issues {s : State} {i : Instr} {cx : Cx} (h : Issues s i cx) (f : Cx → State → State) :
    runWord s i f = .next (f cx s) := by
  obtain ⟨h1, h2, h3⟩ := h
  simp [runWord, h1, h2, h3]

/-- Every instruction word but the X prefix and the unassigned uniform opcodes first goes through the checks of R78. -/
theorem exec_word (i : Instr) (h : (fieldsOf i).isSome = true) (hx : ∀ f, i ≠ .xPrefix f)
    (hu : ∀ w, i ≠ .unassignedUniformOpcode w) : ∃ body, ∀ s, exec i s = runWord s i body := by
  cases i <;> first
    | exact absurd rfl (hx _)
    | exact absurd rfl (hu _)
    | exact ⟨_, fun s => rfl⟩
    | simp [fieldsOf] at h

/-- Lists made from the same elements at the same places. -/
theorem mapI_congr {α β : Type} {f g : Nat → α → β} {l : List α} {i : Nat} (h : ∀ k a, l[k]? = some a → f (i + k) a = g (i + k) a) :
    mapI f i l = mapI g i l := by
  refine List.ext_getElem? fun k => ?_
  rw [mapI_getElem?, mapI_getElem?]
  cases hk : l[k]? with
  | none => rfl
  | some a => exact congrArg some (h k a hk)

/-- A group each of whose threads changes by f from what it is, none of them escalating. -/
theorem mapGroup_goes_at {cx : Cx} {s : State} {f : Nat → Thread → Thread} {g : Nat → Thread → Thread × Option Esc}
    (h : ∀ k ∈ cx.tids, g k (cx.party.thread k) = (f k (cx.party.thread k), none)) :
    cx.mapGroup s g = cx.goes s cx.party f := by
  have hm : mapI (fun k t => if cx.tids.contains k then g k t else (t, none)) 0 cx.party.threads =
      mapI (fun k t => (if cx.tids.contains k then f k t else t, (none : Option Esc))) 0 cx.party.threads := by
    refine mapI_congr fun k t ht => ?_
    have ht' : cx.party.thread k = t := by simp [Party.thread, List.getD_eq_getElem?_getD, ht]
    have := h k
    rw [ht'] at this
    simp only [Nat.zero_add]
    split <;> simp_all
  unfold Cx.mapGroup Cx.goes groupResult
  simp only [hm, map_mapI]
  rw [filterMap_mapI_none _ _ (fun _ _ => rfl)]
  rfl
/-- A group whose threads change by f, none of them escalating. -/
theorem mapGroup_goes {cx : Cx} {s : State} {f : Nat → Thread → Thread} {g : Nat → Thread → Thread × Option Esc}
    (h : ∀ k ∈ cx.tids, ∀ t, g k t = (f k t, none)) : cx.mapGroup s g = cx.goes s cx.party f :=
  mapGroup_goes_at fun k hk => h k hk _

/-- A thread of a group that can take a cause enters its handler. -/
theorem raise_enters {cx : Cx} (h : CanTrap cx) {k : Nat} (hk : k ∈ cx.tids) (tr : Trap) :
    cx.raise k tr (cx.party.thread k) = ((cx.party.thread k).enter cx.hpc cx.pc tr, none) := by
  simp [Cx.raise, deliver, h.2 k hk, h.1]
/-- Every thread of such a group takes a cause. -/
theorem trapAll_enters {cx : Cx} (h : CanTrap cx) (s : State) (tr : Trap) :
    cx.trapAll s tr = cx.goes s cx.party fun _ t => t.enter cx.hpc cx.pc tr :=
  mapGroup_goes_at fun _ hk => raise_enters h hk tr

/-- A group whose threads change by f, D's values taken by the party. -/
theorem mapGroup_takes {cx : Cx} {s : State} {val : Nat → Option Nat} {x : Nat → Nat} {f : Nat → Thread → Thread}
    {g : Nat → Thread → Thread × Option Esc} (hv : ∀ k ∈ cx.tids, val k = cx.offers x k)
    (h : ∀ k ∈ cx.tids, ∀ t, g k t = (f k t, none)) :
    (cx.withG cx.dwidth val).mapGroup s g = cx.goes s (cx.takes x) f := by
  have hp : cx.party.takeG cx.dreg cx.dwidth cx.tids val = cx.takes x := by
    unfold Cx.takes Party.takeG
    split
    · exact List.foldl_ext _ _ _ fun _ k hk => by rw [hv k hk]
    all_goals rfl
  rw [mapGroup_goes (cx := cx.withG cx.dwidth val) h]
  show cx.goes s (cx.party.takeG cx.dreg cx.dwidth cx.tids val) f = _
  rw [hp]

/-- A lane instruction of registers completes with its value. -/
theorem runInt_computes {lats : Bool} {i : Instr} {f : Opnds → Nat} (hx : ∀ s, exec i s = runInt s i lats f) :
    LaneComputes lats i f := by
  intro s cx ⟨h, h4⟩
  rw [hx]
  unfold runInt runAlu
  rw [runWord_issues h, mapGroup_takes (val := cx.aluGives _ s.ref) (x := fun k => f (cx.operands s k)) (fun k _ => rfl)]
  intro k _ t
  unfold Cx.aluThread Cx.computes Cx.operands Cx.masked Cx.gives Cx.advance
  simp only [h4]
  split <;> rename_i h
  · cases lats <;> simp [Thread.orFlags, Thread.jump, Thread.setLat]
  · cases lats <;> simp [Thread.jump] <;> split <;> simp_all

/-- An instruction of registers that computes floating-point results completes where no thread of its group takes
FP_INVALID (02 R48). -/
theorem runAlu_floats {lats : Bool} {i : Instr} {g : Cx → View → Opnds → LaneRes} {f : FpOp}
    (hx : ∀ s, exec i s = runAlu s i lats g)
    (hg : ∀ cx v o, (nvtOf v.thread.fpcsr.toNat && bitOf (f cx v o).2.1 4) = false →
      g cx v o = .val (f cx v o).1 (f cx v o).2.1 (f cx v o).2.2) : FpCompletes lats i f := by
  intro s cx ⟨h, h4⟩ hn
  rw [hx]
  unfold runAlu
  rw [runWord_issues h]
  rw [mapGroup_takes (x := fun k => (f cx (cx.view s.ref k) (cx.operands s k)).1)]
  · intro k hk
    have hn := hn k hk
    unfold Cx.aluGives Cx.offers
    unfold Cx.invalid Cx.operands at hn
    split <;> rename_i he
    · simp only [he, Bool.true_and] at hn
      rw [hg cx _ _ hn]
      rfl
    · rfl
  intro k hk t
  have hn := hn k hk
  unfold Cx.aluThread Cx.floats Cx.masked Cx.advance
  unfold Cx.invalid Cx.operands at hn
  simp only [h4]
  split <;> rename_i he
  · simp only [he, Bool.true_and] at hn
    rw [hg cx _ _ hn]
    cases lats <;> simp [Thread.orFlags, Thread.jump, Thread.setLat, Cx.gives, Cx.operands]
  · cases lats <;> simp [Thread.jump, Cx.gives] <;> split <;> simp_all

/-- A uniform instruction of registers completes with its value (01 R17). -/
theorem runUni_computes {i : Instr} {f : Opnds → Nat} (hx : ∀ s, exec i s = runUni s i f) : UniComputes i f := by
  intro s cx ⟨h, h4⟩
  rw [hx]
  unfold runUni
  rw [runWord_issues h, mapGroup_goes (f := fun _ t => t.jump cx.npc)]
  · rfl
  · intro k t
    simp [Cx.advance, Thread.jump, h4]

end Sys2Proof.Machine
end

