-- ==== Sys2Proof/Laws/Accesses.lean ====
section
/-! SUPPORT. What an instruction that issues an access for each enabled thread of its group does (07_memory_access.md R164,
01_thread.md R31). -/

namespace Sys2Proof.Machine

/-! ## A party in its slot -/

/-- An entry set to what it holds. -/
theorem aset_same {κ α : Type} [DecidableEq κ] {k : κ} {a : α} : ∀ {m : List (κ × α)}, aget? k m = some a → aset k a m = m
  | (j, b) :: m, h => by
    unfold aget? at h
    unfold aset
    split <;> rename_i hj
    · rw [if_pos hj, Option.some.injEq] at h
      rw [← hj, h]
    · rw [if_neg hj] at h
      rw [aset_same h]
/-- An entry set twice. -/
theorem aset_aset {κ α : Type} [DecidableEq κ] (k : κ) (a b : α) : ∀ m : List (κ × α), aset k b (aset k a m) = aset k b m
  | [] => if_pos rfl
  | (j, c) :: m => by
    rw [aset, aset]
    split <;> rename_i hj
    · rw [aset, if_pos rfl]
    · rw [aset, if_neg hj, aset_aset k a b m]

/-- The slots of a state with a party written where it stands. -/
theorem setParty_same {s : State} {k : Nat} {p : Party} (h : s.party? k = some p) : (s.setParty k p).slots = s.slots := by
  unfold State.party? State.slot aget at h
  unfold State.setParty State.setSlot State.slot aget
  cases hk : aget? k s.slots with
  | none => rw [hk] at h; cases h
  | some x =>
    rw [hk] at h
    simp only [Option.getD_some] at h ⊢
    rw [← h]
    exact aset_same hk
/-- The slots with a party written twice. -/
theorem setParty_setParty (s : State) (k : Nat) (p q : Party) : ((s.setParty k p).setParty k q).slots = (s.setParty k q).slots := by
  simp [State.setParty, State.setSlot, State.slot, aset_aset]

/-- The context names the party in its slot. -/
theorem cx_party {s : State} {i : Instr} {cx : Cx} (h : cx? s i = some cx) : s.party? cx.slot = some cx.party := by
  unfold cx? at h
  repeat (split at h <;> try cases h)
  assumption

/-! ## What an access reads of the machine -/

/-- Operands do not depend on the other threads of the party. -/
theorem readReg_threads (v : View) (ts : List Thread) (w : Width) (r : Reg) :
    readReg { v with party := { v.party with threads := ts } } w r = readReg v w r := by
  cases r <;> cases w <;> rfl
theorem opnds_threads (cx : Cx) (v : View) (ts : List Thread) :
    cx.opnds { v with party := { v.party with threads := ts } } = cx.opnds v := by
  simp only [Cx.opnds, readReg_threads]
/-- The checks of R159 do not depend on operations, slots and the step counter. -/
theorem accessCause_ops (s : State) (ops : List Op) (slots : List (Nat × Slot)) (seq : Nat) (l : Launch) (n : Need) (ea : Nat)
    (k : OpKind) : accessCause { s with ops := ops, slots := slots, seq := seq } l n ea k = accessCause s l n ea k := rfl

/-- An issued access joins the operations, and the step counter rises. -/
theorem issueAccess_adds (s : State) (cx : Cx) (tids : List Nat) (cls : Cls) (seq0 : Nat) (k : OpKind) :
    ∃ ops, s.issueAccess cx tids cls seq0 k = { s with ops := ops, seq := s.seq + 1 } ∧
      ops.map Op.issued = s.ops.map Op.issued ++
        [{ id := s.seq, slot := cx.slot, tids := tids, live := tids, cls := some cls, kind := k, phase := .issued }] := by
  unfold State.issueAccess
  dsimp only
  refine ⟨_, rfl, ?_⟩
  rw [List.map_map]
  exact (List.map_congr_left fun o _ => by simp only [Function.comp_apply]; split <;> rfl).trans
    (by simp [State.addOp, Op.issued])

/-! ## The group -/

/-- The threads of the party once some of the group's have changed by f. -/
def Cx.after (cx : Cx) (f : Nat → Thread → Thread) (done : List Nat) : List Thread :=
  mapI (fun k t => if done.contains k then f k t else t) 0 cx.party.threads

theorem after_none (cx : Cx) (f : Nat → Thread → Thread) : cx.after f [] = cx.party.threads := by
  apply List.ext_getElem?
  intro j
  simp [Cx.after, mapI_getElem?]
/-- A thread that has not had its turn is as it was. -/
theorem after_before {cx : Cx} {f : Nat → Thread → Thread} {done : List Nat} {k : Nat} (h : k ∉ done) :
    (cx.after f done).getD k Thread.zero = cx.party.thread k := by
  simp [Cx.after, mapI_getElem?, List.getD_eq_getElem?_getD, Party.thread, h]
/-- The next thread's turn. -/
theorem after_turn {cx : Cx} {f : Nat → Thread → Thread} {done : List Nat} {k : Nat} :
    (cx.after f done).set k (f k (cx.party.thread k)) = cx.after f (done ++ [k]) := by
  apply List.ext_getElem?
  intro j
  rw [List.getElem?_set]
  simp only [Cx.after, mapI_getElem?, mapI_length, Nat.zero_add, Party.thread]
  split <;> rename_i hj
  · subst hj
    split <;> rename_i hl
    · simp [hl, List.getD_eq_getElem?_getD]
    · simp [List.getElem?_eq_none (Nat.le_of_not_lt hl)]
  · have hj' : ¬ j = k := fun e => hj e.symm
    simp [hj']

/-- Results written from one number on. -/
theorem mapI_from {α β : Type} (g : Nat → α → β) (n : Nat) : ∀ (i : Nat) (l : List α), mapI g (i + n) l = mapI (fun j => g (j + n)) i l
  | _, [] => rfl
  | i, a :: l => congrArg (g (i + n) a :: ·) (by rw [Nat.add_right_comm]; exact mapI_from g n (i + 1) l)

/-- Registers of g are all of a party that its group's results reach. -/
theorem takeG_g (r : Reg) (w : Width) (val : Nat → Option Nat) : ∀ (ks : List Nat) (p : Party),
    p.takeG r w ks val = { p with g := (p.takeG r w ks val).g } := by
  intro ks
  cases r <;> try exact fun _ => rfl
  rename_i n
  induction ks with
  | nil => exact fun _ => rfl
  | cons k ks ih =>
    intro p
    have h := ih (p.offer (.g n) w (val k))
    show Party.takeG (p.offer (.g n) w (val k)) (.g n) w ks val = _
    rw [h]
    cases hv : val k <;> simp [Party.takeG, Party.offer, Party.write, hv]
theorem takeG_snoc (r : Reg) (w : Width) (val : Nat → Option Nat) (ks : List Nat) (k : Nat) (p : Party) :
    p.takeG r w (ks ++ [k]) val = (p.takeG r w ks val).takeG r w [k] val := by
  cases r <;> simp [Party.takeG]

/-- The state with operations, registers g and threads of the party, and step counter as given. -/
def Cx.stands (cx : Cx) (s : State) (ops : List Op) (gs : List Word) (ts : List Thread) (q : Nat) : State :=
  { s with ops := ops, slots := (s.setParty cx.slot { cx.party with g := gs, threads := ts }).slots, seq := q }

theorem stands_party (cx : Cx) (s : State) (ops : List Op) (gs : List Word) (ts : List Thread) (q : Nat) :
    (cx.stands s ops gs ts q).party? cx.slot = some { cx.party with g := gs, threads := ts } :=
  State.party_setParty_same s cx.slot _
theorem stands_setParty (cx : Cx) (s : State) (ops : List Op) (gs hs : List Word) (ts us : List Thread) (q : Nat) :
    (cx.stands s ops gs ts q).setParty cx.slot { cx.party with g := hs, threads := us } = cx.stands s ops hs us q := by
  have h := setParty_setParty s cx.slot { cx.party with g := gs, threads := ts } { cx.party with g := hs, threads := us }
  unfold Cx.stands
  conv => rhs; rw [← h]
  rfl

/-- One thread's turn of an instruction whose threads act in ascending order. -/
def Cx.turn (cx : Cx) (g : State → Nat → View → Thread → State × (Thread × Option Esc)) (s : State) (tid : Nat) : State :=
  match s.party? cx.slot with
  | none => s
  | some party =>
    let t := party.thread tid
    let (s, t, e) := g s tid { party := { party with g := cx.party.g }, thread := t, tid := tid, tids := cx.tids, ref := s.ref } t
    match s.party? cx.slot with
    | none => s
    | some party => s.setParty cx.slot ((party.setThread tid t).escalateAll e.toList)
theorem each_turns (cx : Cx) (s : State) (g : State → Nat → View → Thread → State × (Thread × Option Esc)) :
    cx.each s g = cx.tids.foldl (cx.turn g) s := rfl

/-- A turn that takes no cause: what g leaves, with the thread as g leaves it. -/
theorem turn_goes {cx : Cx} {s : State} {g : State → Nat → View → Thread → State × (Thread × Option Esc)} {k : Nat}
    {ops ops' : List Op} {gs hs : List Word} {ts : List Thread} {q q' : Nat} {u : Thread}
    (hg : g (cx.stands s ops gs ts q) k
      { party := { cx.party with threads := ts }, thread := ts.getD k Thread.zero, tid := k, tids := cx.tids, ref := s.ref }
      (ts.getD k Thread.zero) = (cx.stands s ops' hs ts q', u, none)) :
    cx.turn g (cx.stands s ops gs ts q) k = cx.stands s ops' hs (ts.set k u) q' := by
  have hg' : g (cx.stands s ops gs ts q) k
      { party := { (Party.mk cx.party.lid cx.party.blin cx.party.x cx.party.y cx.party.z cx.party.rank cx.party.pidx cx.party.nv
          cx.party.w gs cx.party.bars ts cx.party.esc cx.party.copySeq) with g := cx.party.g },
        thread := Party.thread { cx.party with g := gs, threads := ts } k, tid := k, tids := cx.tids,
        ref := (cx.stands s ops gs ts q).ref }
      (Party.thread { cx.party with g := gs, threads := ts } k) = (cx.stands s ops' hs ts q', u, none) := hg
  unfold Cx.turn
  simp only [stands_party, hg']
  exact stands_setParty cx s ops' hs hs ts _ q'

/-- A masked thread's zero for D reaches the registers g only. -/
theorem putG_stands (cx : Cx) (s : State) (ops : List Op) (gs : List Word) (ts : List Thread) (q k : Nat) (w : Width) (x : Nat)
    {val : Nat → Option Nat} (hv : val k = some x) :
    cx.putG (cx.stands s ops gs ts q) k w x =
      cx.stands s ops (Party.takeG { cx.party with g := gs } cx.dreg w [k] val).g ts q := by
  unfold Cx.putG State.putG
  rw [stands_party]
  cases cx.dreg <;> try rfl
  show State.setParty _ _ _ = _
  rw [takeG_g]
  simp only [Party.takeG, Party.offer, Party.write, List.foldl_cons, List.foldl_nil, hv]
  exact stands_setParty cx s ops gs _ ts ts q

/-- A lane memory instruction issues one access for each enabled thread. -/
theorem runMem_issues {i : Instr} {cls : Cls} {zw : Width} {need : Cx → Opnds → Need} {ea : Cx → Opnds → Nat}
    {kind : Cx → Opnds → OpKind} {req : Cx → View → Opnds → Req} (hx : ∀ s, exec i s = runMem s i zw req)
    (hr : ∀ cx v o, (req cx v o).need = need cx o ∧ (req cx v o).ea = ea cx o ∧ (req cx v o).kind = kind cx o ∧
      (req cx v o).cls = cls) : LaneIssues i cls zw need ea kind := by
  intro s cx ⟨h, hend⟩ hdet hnd hok
  rw [hx]
  unfold runMem
  rw [runWord_issues h]
  let f := fun (k : Nat) (u : Thread) =>
    if cx.enabled k then cx.issuedOne cls u else (if cx.p.z then u.write cx.dreg zw 0 else u).jump cx.npc
  let op : Nat → Nat → Nat → Issued := fun q j k =>
    { id := q + j, slot := cx.slot, tids := [k], live := [k], cls := some cls, kind := kind cx (cx.operands s k),
      phase := .issued }
  let g := fun (s' : State) (tid : Nat) (v : View) (t : Thread) =>
    if cx.enabled tid then cx.issueOne s' s.seq tid t (req cx v (cx.opnds v))
    else (if cx.p.z then cx.putG s' tid zw 0 else s', cx.advance tid (if cx.p.z then t.write cx.dreg zw 0 else t))
  let val := fun k => if cx.enabled k then none else if cx.p.z then some 0 else (none : Option Nat)
  let gs := fun (done : List Nat) => (cx.party.takeG cx.dreg zw done val).g
  have loop : ∀ ks done : List Nat, (done ++ ks).Nodup → (∀ k ∈ ks, k ∈ cx.tids) → ∀ ops q,
      ∃ ops', ks.foldl (cx.turn g) (cx.stands s ops (gs done) (cx.after f done) q) =
          cx.stands s ops' (gs (done ++ ks)) (cx.after f (done ++ ks)) (q + (ks.filter cx.enabled).length) ∧
        ops'.map Op.issued = ops.map Op.issued ++ mapI (op q) 0 (ks.filter cx.enabled) := by
    intro ks
    induction ks with
    | nil => exact fun done _ _ ops q => ⟨ops, by simp, by simp [mapI]⟩
    | cons k ks ih =>
      intro done hn hm ops q
      have hk : k ∉ done := fun h => (List.nodup_append.mp hn).2.2 k h k (by simp) rfl
      have hn' : ((done ++ [k]) ++ ks).Nodup := by simpa using hn
      have htk : (cx.after f done).getD k Thread.zero = cx.party.thread k := after_before hk
      let v : View := { party := { cx.party with threads := cx.after f done },
                        thread := (cx.after f done).getD k Thread.zero, tid := k, tids := cx.tids, ref := s.ref }
      have same : cx.opnds v = cx.operands s k := by
        simp only [v, htk]
        exact opnds_threads cx (cx.view s.ref k) _
      have hgs : ∀ d, gs (d ++ [k]) = (Party.takeG { cx.party with g := gs d } cx.dreg zw [k] val).g := fun d => by
        show (cx.party.takeG cx.dreg zw (d ++ [k]) val).g = _
        rw [takeG_snoc, takeG_g cx.dreg zw val d cx.party]
      have step : ∃ ops' q', cx.turn g (cx.stands s ops (gs done) (cx.after f done) q) k =
            cx.stands s ops' (gs (done ++ [k])) (cx.after f (done ++ [k])) q' ∧
          q' = q + ([k].filter cx.enabled).length ∧
          ops'.map Op.issued = ops.map Op.issued ++ mapI (op q) 0 ([k].filter cx.enabled) := by
        rw [← after_turn, ← htk]
        by_cases he : cx.enabled k = true
        · obtain ⟨ops', ho, hi⟩ :=
            issueAccess_adds (cx.stands s ops (gs done) (cx.after f done) q) cx [k] cls s.seq (kind cx (cx.operands s k))
          have hc := hok k (by simp [Cx.active, hm k (by simp), he])
          have keep : gs (done ++ [k]) = gs done := by
            rw [hgs]
            cases cx.dreg <;> simp [Party.takeG, Party.offer, val, he]
          have hi' : ops'.map Op.issued = ops.map Op.issued ++ [op q 0 k] := hi
          refine ⟨ops', q + 1, ?_, by simp [he], by rw [hi']; simp [he, mapI]⟩
          refine turn_goes (show g _ k v _ = _ from ?_)
          obtain ⟨r1, r2, r3, r4⟩ := hr cx v (cx.operands s k)
          have hc' : accessCause (cx.stands s ops (gs done) (cx.after f done) q) cx.launch (need cx (cx.operands s k))
            (ea cx (cx.operands s k)) (kind cx (cx.operands s k)) = none := hc
          simp only [g, he, if_true, same, Cx.issueOne, r1, r2, r3, r4, hc', hdet, Bool.false_and, Bool.false_eq_true, if_false,
            ho, Cx.advance, hend, keep]
          refine Prod.ext rfl (Prod.ext ?_ rfl)
          simp [f, he, Cx.issuedOne, Thread.jump, Thread.count]
        · have he : cx.enabled k = false := by simpa using he
          refine ⟨ops, q, ?_, by simp [he], by simp [he, mapI]⟩
          refine turn_goes (show g _ k v _ = _ from ?_)
          rw [hgs]
          by_cases hz : cx.p.z = true
          · have hv : val k = some 0 := by simp [val, he, hz]
            simp only [g, he, hz, if_true, Bool.false_eq_true, if_false, Cx.advance, hend, putG_stands cx s ops (gs done) _ q k zw 0 hv]
            refine Prod.ext rfl (Prod.ext ?_ rfl)
            simp [f, he, hz, Thread.jump]
          · have keep : (Party.takeG { cx.party with g := gs done } cx.dreg zw [k] val).g = gs done := by
              cases cx.dreg <;> simp [Party.takeG, Party.offer, val, hz]
            simp [g, f, he, hz, Cx.advance, hend, Thread.jump, keep]
      obtain ⟨ops', q', turn, hq, hi⟩ := step
      obtain ⟨ops'', h1, h2⟩ := ih (done ++ [k]) hn' (fun j hj => hm j (by simp [hj])) ops' q'
      refine ⟨ops'', ?_, ?_⟩
      · rw [List.foldl_cons, turn, h1, hq]
        simp only [List.append_assoc, List.singleton_append, ← List.length_append, ← List.filter_append, Nat.add_assoc]
      · rw [h2, hi, hq]
        by_cases he : cx.enabled k = true
        · have : op (q + 1) = fun j => op q (j + 1) := by
            funext j k
            simp [op, Nat.add_assoc, Nat.add_comm 1 j]
          simp only [List.filter_cons, he, if_true, List.filter_nil, List.length_singleton, mapI, List.append_assoc,
            List.singleton_append, this, ← mapI_from (op q) 1 0]
        · simp [he, mapI]
  have start : cx.stands s s.ops (gs []) (cx.after f []) s.seq = s := by
    have hg : gs [] = cx.party.g := by
      show (cx.party.takeG cx.dreg zw [] val).g = _
      cases cx.dreg <;> rfl
    have : (s.setParty cx.slot { cx.party with g := cx.party.g, threads := cx.party.threads }).slots = s.slots :=
      setParty_same (cx_party h.context)
    unfold Cx.stands
    rw [hg, after_none, this]
  obtain ⟨ops', h1, h2⟩ := loop cx.tids [] (by simpa using hnd) (fun _ h => h) s.ops s.seq
  rw [start, List.nil_append] at h1
  refine ⟨_, rfl, ?_⟩
  rw [each_turns, show cx.tids.foldl (cx.turn _) s = _ from h1]
  refine ⟨rfl, rfl, ?_, h2⟩
  unfold Cx.goes Cx.zeroes
  rw [takeG_g]
  rfl

/-- A uniform memory instruction issues one access for its group. -/
theorem runUniMem_issues {i : Instr} {cls : Cls} {need : Opnds → Need} {ea : Cx → Opnds → Nat} {kind : Cx → Opnds → OpKind}
    {req : Cx → View → Opnds → Req} (hx : ∀ s, exec i s = runUniMem s i req)
    (hr : ∀ cx v o, (req cx v o).need = need o ∧ (req cx v o).ea = ea cx o ∧ (req cx v o).kind = kind cx o ∧
      (req cx v o).cls = cls) : UniIssues i cls need ea kind := by
  intro s cx ⟨h, hend⟩ hdet hok
  rw [hx]
  unfold runUniMem
  rw [runWord_issues h]
  obtain ⟨r1, r2, r3, r4⟩ := hr cx (cx.view s.ref (cx.tids.headD 0)) (cx.uniOperands s)
  obtain ⟨ops', ho, hi⟩ := issueAccess_adds s cx cx.tids cls s.seq (kind cx (cx.uniOperands s))
  refine ⟨cx.goes (s.issueAccess cx cx.tids cls s.seq (kind cx (cx.uniOperands s))) cx.party fun _ u => cx.issuedOne cls u, ?_, ?_⟩
  · unfold Cx.uniOperands Cx.operands at r1 r2 r3 r4 hok
    simp only [r1, r2, r3, r4, hok, hdet, Bool.false_and, Bool.false_eq_true, if_false]
    congr 1
    refine mapGroup_goes fun k _ t => ?_
    simp [Cx.advance, hend, Cx.issuedOne, Thread.jump, Thread.count]
  · rw [ho]
    exact ⟨rfl, rfl, rfl, hi⟩

end Sys2Proof.Machine
end

