-- ==== Sys2Proof/Laws/Memory.lean ====
section
/-! SUPPORT. Byte lists: every memory operation keeps the canonical form, a byte written is the byte read, and no other byte
changes (15_die_memory.md R316; the log's assumption 3, DESIGN CHOICE). -/

namespace Sys2Proof.Machine

/-! ## The canonical form -/

/-- A cell that a canonical list may hold above a bound. -/
def Memory.above (lo : Option Nat) (j : Nat) : Bool := match lo with | none => true | some l => l < j

@[simp] theorem Memory.above_none (j : Nat) : Memory.above none j = true := rfl
@[simp] theorem Memory.above_some (l j : Nat) : Memory.above (some l) j = true ↔ l < j := by simp [Memory.above]
@[simp] theorem Memory.wfFrom_nil (lo : Option Nat) : Memory.wfFrom lo [] = true := by cases lo <;> rfl
theorem Memory.wfFrom_cons (lo : Option Nat) (j : Nat) (x : Byte) (m : List Host.Cell) :
    Memory.wfFrom lo ((j, x) :: m) = true ↔ Memory.above lo j = true ∧ x ≠ unlisted ∧ Memory.wfFrom (some j) m = true := by
  cases lo <;> simp [Memory.wfFrom, Memory.above, and_assoc]

/-- A lower bound serves too. -/
theorem Memory.wfFrom_mono {lo : Option Nat} {m : List Host.Cell} {l : Nat} (h : Memory.wfFrom (some l) m = true)
    (hl : ∀ j, l < j → Memory.above lo j = true) : Memory.wfFrom lo m = true := by
  cases m with
  | nil => simp
  | cons c m =>
    obtain ⟨j, x⟩ := c
    rw [Memory.wfFrom_cons] at h ⊢
    exact ⟨hl j (by simpa using h.1), h.2⟩
theorem Memory.wfFrom_lower {l j : Nat} {m : List Host.Cell} (h : Memory.wfFrom (some j) m = true) (hl : l ≤ j) :
    Memory.wfFrom (some l) m = true :=
  Memory.wfFrom_mono h fun i hi => by simp; omega
theorem Memory.wf_of_wfFrom {lo : Option Nat} {m : List Host.Cell} (h : Memory.wfFrom lo m = true) : Memory.wf m = true := by
  cases lo with
  | none => exact h
  | some l => exact Memory.wfFrom_mono h fun _ _ => rfl

/-- A write of one byte keeps the form above any bound that its address is above. -/
theorem Memory.wfFrom_put {lo : Option Nat} {m : List Host.Cell} {a : Nat} {b : Byte} (h : Memory.wfFrom lo m = true)
    (ha : Memory.above lo a = true) : Memory.wfFrom lo (Memory.put m a b) = true := by
  induction m generalizing lo with
  | nil =>
    unfold Memory.put
    split
    · simp
    · next hb => rw [Memory.wfFrom_cons]; exact ⟨ha, hb, by simp⟩
  | cons c m ih =>
    obtain ⟨j, x⟩ := c
    have h' := (Memory.wfFrom_cons lo j x m).mp h
    unfold Memory.put
    split
    · next hlt =>
      split
      · exact h
      · next hb =>
        rw [Memory.wfFrom_cons]
        exact ⟨ha, hb, (Memory.wfFrom_cons _ _ _ _).mpr ⟨by simpa using hlt, h'.2⟩⟩
    · next hlt =>
      split
      · next he =>
        subst he
        split
        · exact Memory.wfFrom_mono h'.2.2 fun i hi => by
            cases lo with
            | none => rfl
            | some l => simp at ha ⊢; omega
        · next hb => rw [Memory.wfFrom_cons]; exact ⟨ha, hb, h'.2.2⟩
      · next he =>
        rw [Memory.wfFrom_cons]
        exact ⟨h'.1, h'.2.1, ih h'.2.2 (by simp; omega)⟩
theorem Memory.wf_put {m : List Host.Cell} (h : Memory.wf m = true) (a : Nat) (b : Byte) : Memory.wf (Memory.put m a b) = true :=
  Memory.wfFrom_put h rfl
theorem Memory.wf_write {m : List Host.Cell} (h : Memory.wf m = true) (a n x : Nat) : Memory.wf (Memory.write m a n x) = true := by
  induction n generalizing m a x with
  | zero => exact h
  | succ n ih => exact ih (Memory.wf_put h _ _) _ _

/-- Cells taken out. -/
theorem Memory.wfFrom_filter {lo : Option Nat} {m : List Host.Cell} (h : Memory.wfFrom lo m = true) (f : Host.Cell → Bool) :
    Memory.wfFrom lo (m.filter f) = true := by
  induction m generalizing lo with
  | nil => simp
  | cons c m ih =>
    obtain ⟨j, x⟩ := c
    have h' := (Memory.wfFrom_cons lo j x m).mp h
    rw [List.filter_cons]
    split
    · rw [Memory.wfFrom_cons]; exact ⟨h'.1, h'.2.1, ih h'.2.2⟩
    · exact Memory.wfFrom_mono (ih h'.2.2) fun i hi => by
        cases lo with
        | none => rfl
        | some l => simp at h' ⊢; omega
theorem Memory.wf_filter {m : List Host.Cell} (h : Memory.wf m = true) (f : Host.Cell → Bool) : Memory.wf (m.filter f) = true :=
  Memory.wfFrom_filter h f

/-- Cells put one after another. -/
theorem Memory.wf_puts {cs : List Host.Cell} {m : List Host.Cell} (h : Memory.wf m = true) (f : Host.Cell → Nat)
    (g : Host.Cell → Byte) : Memory.wf (cs.foldl (fun r c => Memory.put r (f c) (g c)) m) = true :=
  List.foldlRecOn (motive := fun r => Memory.wf r = true) cs _ h fun _ hr c _ => Memory.wf_put hr (f c) (g c)
theorem Memory.wf_copy {m : List Host.Cell} (h : Memory.wf m = true) (src dst n : Nat) : Memory.wf (Memory.copy m src dst n) = true :=
  Memory.wf_puts (Memory.wf_filter h _) _ _
theorem layBytes_wf {m : List Host.Cell} (h : Memory.wf m = true) (base size : Nat) (cs : List Host.Cell) :
    Memory.wf (layBytes m base size cs) = true :=
  Memory.wf_puts (Memory.wf_filter h _) _ _

theorem filterMap_range_wf (f : Nat → Byte) (n : Nat) (lo : Nat) (hi : Option Nat) (h : Memory.above hi lo = true) :
    Memory.wfFrom hi ((List.range' lo n).filterMap fun off => if f off == unlisted then none else some (off, f off)) = true := by
  match n with
  | 0 => exact Memory.wfFrom_nil hi
  | n + 1 =>
    have next : Memory.above hi (lo + 1) = true := by
      rcases hi with _ | l
      · rfl
      · rw [Memory.above_some] at h ⊢
        exact h.trans (Nat.lt_succ_self lo)
    rw [List.range'_succ]
    by_cases hb : f lo = unlisted
    · rw [List.filterMap_cons_none (by simp [hb])]
      exact filterMap_range_wf f n (lo + 1) hi next
    · rw [List.filterMap_cons_some (b := (lo, f lo)) (by simp [hb]), Memory.wfFrom_cons]
      exact ⟨h, hb, filterMap_range_wf f n (lo + 1) (some lo) ((Memory.above_some lo _).mpr (Nat.lt_succ_self lo))⟩
/-- The accumulator memory after a die reset. -/
theorem accAfter_wf (number core : Nat) : Memory.wf (accAfter number core) = true := by
  have := filterMap_range_wf (Config.accAfterReset number core) (2 ^ 18) 0 none rfl
  rwa [← List.range_eq_range'] at this

/-! ## Reading what was written -/

/-- Below every listed address nothing is listed. -/
theorem Memory.get_of_wfFrom {l a : Nat} {m : List Host.Cell} (h : Memory.wfFrom (some l) m = true) (ha : a ≤ l) :
    Memory.get m a = unlisted := by
  induction m generalizing l with
  | nil => rfl
  | cons c m ih =>
    obtain ⟨j, x⟩ := c
    have h' := (Memory.wfFrom_cons _ j x m).mp h
    have hj : l < j := by simpa using h'.1
    simp [Memory.get, show j ≠ a by omega, ih h'.2.2 (by omega)]

theorem Memory.get_put_from {lo : Option Nat} {m : List Host.Cell} (h : Memory.wfFrom lo m = true) (a : Nat) (b : Byte) (i : Nat) :
    Memory.get (Memory.put m a b) i = if i = a then b else Memory.get m i := by
  induction m generalizing lo with
  | nil =>
    unfold Memory.put
    by_cases hb : b = unlisted
    · simp [hb, Memory.get]
    · by_cases hi : a = i
      · simp [hb, hi, Memory.get]
      · simp [hb, hi, Memory.get, Ne.symm hi]
  | cons c m ih =>
    obtain ⟨j, x⟩ := c
    have h' := (Memory.wfFrom_cons lo j x m).mp h
    unfold Memory.put
    by_cases hlt : a < j
    · have below : Memory.get ((j, x) :: m) a = unlisted := by
        simp [Memory.get, show j ≠ a by omega, Memory.get_of_wfFrom h'.2.2 (show a ≤ j by omega)]
      by_cases hb : b = unlisted
      · by_cases hi : i = a
        · subst hi; simp [hlt, hb, below]
        · simp [hlt, hb, hi]
      · by_cases hi : i = a
        · simp [hlt, hb, hi, Memory.get]
        · simp [hlt, hb, hi, Memory.get, Ne.symm hi]
    · by_cases he : a = j
      · subst he
        by_cases hb : b = unlisted
        · by_cases hi : i = a
          · subst hi; simp [hb, Memory.get_of_wfFrom h'.2.2 (Nat.le_refl _)]
          · simp [hb, hi, Memory.get, Ne.symm hi]
        · by_cases hi : i = a
          · simp [hb, hi, Memory.get]
          · simp [hb, hi, Memory.get, Ne.symm hi]
      · by_cases hi : j = i
        · subst hi; simp [hlt, he, Memory.get, Ne.symm he]
        · simp [hlt, he, Memory.get, hi, ih h'.2.2]
/-- One byte after a write of one byte. -/
theorem Memory.get_put {m : List Host.Cell} (h : Memory.wf m = true) (a : Nat) (b : Byte) (i : Nat) :
    Memory.get (Memory.put m a b) i = if i = a then b else Memory.get m i :=
  Memory.get_put_from h a b i

/-- A byte outside a write is unchanged. -/
theorem Memory.get_write_outside {m : List Host.Cell} (h : Memory.wf m = true) (a n x i : Nat) (hi : i < a ∨ a + n ≤ i) :
    Memory.get (Memory.write m a n x) i = Memory.get m i := by
  induction n generalizing m a x with
  | zero => rfl
  | succ n ih =>
    unfold Memory.write
    rw [ih (Memory.wf_put h _ _) _ _ (by omega), Memory.get_put h, if_neg (by omega)]

/-- Bytes outside a write are unchanged. -/
theorem Memory.read_write_outside {m : List Host.Cell} (h : Memory.wf m = true) (a n x b k : Nat) (hb : b + k ≤ a ∨ a + n ≤ b) :
    Memory.read (Memory.write m a n x) b k = Memory.read m b k := by
  induction k generalizing b with
  | zero => rfl
  | succ k ih =>
    simp only [Memory.read]
    rw [Memory.get_write_outside h _ _ _ _ (by omega), ih (b + 1) (by omega)]

end Sys2Proof.Machine
end

