-- ==== Sys2Proof/Laws/Canonical.lean ====
section
/-! SUPPORT. The canonical form of the package's memories under every operation of Mem.lean: the scratchpad and the accumulator
memory of a core, and DRAM behind the caches and the directory (15_die_memory.md R316 to R322). -/

namespace Sys2Proof.Machine

/-! ## States with the same memories -/

/-- Updates that reach neither DRAM nor a core keep the form. -/
theorem MemoriesCanonical.of_eq {s t : State} (h : MemoriesCanonical s) (hd : t.dram = s.dram) (hc : t.cores = s.cores) :
    MemoriesCanonical t := by
  unfold MemoriesCanonical
  rw [hd, hc]
  exact h

/-- The memories of a core that nothing lists are empty. -/
theorem MemoriesCanonical.core {s : State} (h : MemoriesCanonical s) (k : Nat) :
    Memory.wf (s.core k).scr = true ∧ Memory.wf (s.core k).acc = true := by
  unfold State.core
  rcases aget_mem_or (d := Core.init) (k := k) (m := s.cores) with hm | hm
  · exact h.2 _ hm
  · rw [hm]
    exact ⟨rfl, rfl⟩

/-- A core's new contents. -/
theorem MemoriesCanonical.setCore {s : State} (h : MemoriesCanonical s) {k : Nat} {c : Core} (hs : Memory.wf c.scr = true)
    (ha : Memory.wf c.acc = true) : MemoriesCanonical (s.setCore k c) :=
  ⟨h.1, fun e he => by
    rcases mem_aset he with he | rfl
    · exact h.2 e he
    · exact ⟨hs, ha⟩⟩
/-- A core whose memories stay as they are. -/
theorem MemoriesCanonical.setCore_same {s : State} (h : MemoriesCanonical s) {k : Nat} {c : Core} (hs : c.scr = (s.core k).scr)
    (ha : c.acc = (s.core k).acc) : MemoriesCanonical (s.setCore k c) :=
  h.setCore (by rw [hs]; exact (h.core k).1) (by rw [ha]; exact (h.core k).2)
/-- New contents of DRAM. -/
theorem MemoriesCanonical.withDram {s : State} (h : MemoriesCanonical s) {m : List Host.Cell} (hm : Memory.wf m = true) :
    MemoriesCanonical { s with dram := m } := ⟨hm, h.2⟩

/-- Steps of a fold that keep the form keep it together. -/
theorem MemoriesCanonical.foldl {α : Type} {f : State → α → State} (hf : ∀ s a, MemoriesCanonical s → MemoriesCanonical (f s a))
    (l : List α) {s : State} (h : MemoriesCanonical s) : MemoriesCanonical (l.foldl f s) :=
  List.foldlRecOn l f h fun s hs a _ => hf s a hs

/-! ## Scratchpad and accumulator memory -/

theorem MemoriesCanonical.scrWrite {s : State} (h : MemoriesCanonical s) (core off n x : Nat) :
    MemoriesCanonical (scrWrite s core off n x) :=
  h.setCore (Memory.wf_write (h.core core).1 _ _ _) (h.core core).2
theorem MemoriesCanonical.accWrite {s : State} (h : MemoriesCanonical s) (core off n x : Nat) :
    MemoriesCanonical (accWrite s core off n x) :=
  h.setCore (h.core core).1 (Memory.wf_write (h.core core).2 _ _ _)

/-! ## The L2 of a die and the directory -/

theorem MemoriesCanonical.setL2 {s : State} (h : MemoriesCanonical s) (die line : Nat) (x : L2Line) :
    MemoriesCanonical (s.setL2 die line x) := h.of_eq rfl rfl
theorem MemoriesCanonical.putL2 {s : State} (h : MemoriesCanonical s) (die line : Nat) (x : L2Line) :
    MemoriesCanonical (s.putL2 die line x) := h.of_eq rfl rfl
theorem MemoriesCanonical.track {s : State} (h : MemoriesCanonical s) (line : Nat) : MemoriesCanonical (s.track line) :=
  h.of_eq rfl rfl
theorem MemoriesCanonical.delL2 {s : State} (h : MemoriesCanonical s) (die line : Nat) : MemoriesCanonical (s.delL2 die line) :=
  h.of_eq rfl rfl
theorem MemoriesCanonical.setDie {s : State} (h : MemoriesCanonical s) (die : Nat) (x : Die) :
    MemoriesCanonical (s.setDie die x) := h.of_eq rfl rfl
theorem MemoriesCanonical.dropInv {s : State} (h : MemoriesCanonical s) (die line : Nat) : MemoriesCanonical (dropInv s die line) :=
  h.of_eq rfl rfl
theorem MemoriesCanonical.writeBack {s : State} (h : MemoriesCanonical s) (die line : Nat) :
    MemoriesCanonical (writeBack s die line) := by
  unfold Machine.writeBack
  split
  · exact h
  · refine h.withDram ?_
    refine List.foldlRecOn (motive := fun m => Memory.wf m = true) (upTo 4) _ h.1 fun m hm k _ => ?_
    split
    · exact Memory.wf_write hm _ _ _
    · exact hm
theorem MemoriesCanonical.snoopRead {s : State} (h : MemoriesCanonical s) (die line : Nat) :
    MemoriesCanonical (snoopRead s die line) := by
  unfold Machine.snoopRead
  split
  · split <;> exact h
  · exact h
theorem MemoriesCanonical.l2Evict {s : State} (h : MemoriesCanonical s) (die line : Nat) :
    MemoriesCanonical (l2Evict s die line) := by
  unfold Machine.l2Evict
  split
  · split
    · exact (h.writeBack _ _).delL2 _ _
    · exact h.delL2 _ _
  · exact h.delL2 _ _
theorem MemoriesCanonical.l2Make {s : State} (h : MemoriesCanonical s) (die line : Nat) : MemoriesCanonical (l2Make s die line) := by
  unfold Machine.l2Make
  split
  · exact h
  · split
    · exact h.l2Evict _ _
    · exact h
theorem MemoriesCanonical.l2Mark {s : State} (h : MemoriesCanonical s) (die line attr : Nat) :
    MemoriesCanonical (l2Mark s die line attr) := by
  unfold Machine.l2Mark
  split
  · split
    · exact h
    · exact h.setL2 _ _ _
  · exact h
theorem MemoriesCanonical.l2Fill {s : State} (h : MemoriesCanonical s) (die line mask : Nat) :
    MemoriesCanonical (l2Fill s die line mask) :=
  ((MemoriesCanonical.foldl (fun _ _ hs => hs.snoopRead _ _) _ (h.l2Make _ _)).dropInv _ _).setL2 _ _ _
theorem MemoriesCanonical.l2Fetch {s : State} (h : MemoriesCanonical s) (die line mask : Nat) :
    MemoriesCanonical (l2Fetch s die line mask) := by
  unfold Machine.l2Fetch
  split
  · split
    · exact h
    · split
      · exact h.setL2 _ _ _
      · exact ((h.delL2 _ _).dropInv _ _).l2Fill _ _ _
  · exact h.l2Fill _ _ _
theorem MemoriesCanonical.l2Read {s : State} (h : MemoriesCanonical s) (die ppa n : Nat) :
    MemoriesCanonical (l2Read s die ppa n).2 := h.l2Fetch _ _ _
theorem MemoriesCanonical.l2Own {s : State} (h : MemoriesCanonical s) (die line mask : Nat) : MemoriesCanonical (l2Own s die line mask) := by
  unfold Machine.l2Own
  refine (MemoriesCanonical.dropInv (MemoriesCanonical.foldl (fun s d hs => ?_) _ ((h.l2Make _ _).track _)) _ _).putL2 _ _ _
  split
  · exact hs
  · split <;> exact hs
theorem MemoriesCanonical.l2Write {s : State} (h : MemoriesCanonical s) (die ppa n x : Nat) :
    MemoriesCanonical (l2Write s die ppa n x) := by
  unfold Machine.l2Write
  dsimp only
  split
  · exact (h.l2Own _ _ _).setL2 _ _ _
  · exact h.l2Own _ _ _
theorem MemoriesCanonical.dirRead {s : State} (h : MemoriesCanonical s) (ppa n : Nat) : MemoriesCanonical (dirRead s ppa n).2 :=
  MemoriesCanonical.foldl (fun s d hs => by
    split
    · exact hs.snoopRead _ _
    · exact hs) _ h
theorem MemoriesCanonical.dirWrite {s : State} (h : MemoriesCanonical s) (ppa n x : Nat) :
    MemoriesCanonical (dirWrite s ppa n x) := by
  unfold Machine.dirWrite
  have := MemoriesCanonical.foldl (f := fun s d =>
    match heldAs s (lineOf ppa) d with
    | some .m | some .o => (Machine.writeBack s d (lineOf ppa)).delL2 d (lineOf ppa)
    | some .e => s.delL2 d (lineOf ppa)
    | some .s => s.setDie d { s.die d with invs := (s.die d).invs ++ [lineOf ppa] }
    | none => s) (fun s d hs => by
      dsimp only
      split <;> first | exact hs | exact hs.delL2 _ _ | exact hs.setDie _ _ | exact (hs.writeBack _ _).delL2 _ _) allDies h
  exact this.withDram (Memory.wf_write this.1 _ _ _)
theorem MemoriesCanonical.flushLine {s : State} (h : MemoriesCanonical s) (line : Nat) (keep : Bool) :
    MemoriesCanonical (flushLine s line keep) := by
  refine MemoriesCanonical.foldl (fun s d hs => ?_) _ h
  dsimp only
  split
  · exact hs
  · have : ∀ b : Bool, MemoriesCanonical (if b then Machine.writeBack s d line else s) := fun b => by
      cases b
      · exact hs
      · exact hs.writeBack _ _
    split
    · exact (this _).setL2 _ _ _
    · exact ((this _).delL2 _ _).dropInv _ _
theorem MemoriesCanonical.discardLine {s : State} (h : MemoriesCanonical s) (line : Nat) :
    MemoriesCanonical (discardLine s line) :=
  MemoriesCanonical.foldl (fun _ _ hs => (hs.delL2 _ _).dropInv _ _) _ h
theorem MemoriesCanonical.applyInvs {s : State} (h : MemoriesCanonical s) (die : Nat) : MemoriesCanonical (applyInvs s die) :=
  (MemoriesCanonical.foldl (fun _ _ hs => hs.delL2 _ _) _ h).setDie _ _

/-! ## The L1 of a core -/

theorem MemoriesCanonical.l1Drop {s : State} (h : MemoriesCanonical s) (core : Nat) : MemoriesCanonical (l1Drop s core) :=
  h.setCore_same rfl rfl
theorem MemoriesCanonical.l1DropLine {s : State} (h : MemoriesCanonical s) (core line : Nat) :
    MemoriesCanonical (l1DropLine s core line) := h.setCore_same rfl rfl
theorem MemoriesCanonical.l1Update {s : State} (h : MemoriesCanonical s) (core ppa n : Nat) :
    MemoriesCanonical (l1Update s core ppa n) := by
  unfold Machine.l1Update
  split
  · exact h.setCore_same rfl rfl
  · exact h
theorem MemoriesCanonical.l1Mark {s : State} (h : MemoriesCanonical s) (core line attr : Nat) :
    MemoriesCanonical (l1Mark s core line attr) := by
  unfold Machine.l1Mark
  split
  · split
    · exact h.setCore_same rfl rfl
    · exact h
  · exact h
theorem MemoriesCanonical.l1Put {s : State} (h : MemoriesCanonical s) (core line data attr : Nat) :
    MemoriesCanonical (l1Put s core line data attr) := h.setCore_same rfl rfl
theorem MemoriesCanonical.freshen {s : State} (h : MemoriesCanonical s) (die line : Nat) : MemoriesCanonical (freshen s die line) := by
  unfold Machine.freshen
  split
  · exact (h.delL2 _ _).dropInv _ _
  · exact h
theorem MemoriesCanonical.loadThrough {s : State} (h : MemoriesCanonical s) (core ppa n scope attr : Nat) :
    MemoriesCanonical (loadThrough s core ppa n scope attr).2 := by
  have fresh : ∀ b : Bool, MemoriesCanonical (if b then Machine.freshen s (dieOf core) (lineOf ppa) else s) := fun b => by
    cases b
    · exact h
    · exact h.freshen _ _
  unfold Machine.loadThrough
  dsimp only
  split
  · split
    · exact h.l1Mark _ _ _
    · exact (((fresh _).l2Fetch _ _ _).l2Mark _ _ _).l1Put _ _ _ _
  · split
    · exact ((fresh _).l2Read _ _ _).l2Mark _ _ _
    · exact (((fresh _).l2Fetch _ _ _).l2Mark _ _ _).l1Put _ _ _ _
theorem MemoriesCanonical.storeThrough {s : State} (h : MemoriesCanonical s) (core ppa n x : Nat) :
    MemoriesCanonical (storeThrough s core ppa n x) := (h.l2Write _ _ _ _).l1Update _ _ _

/-! ## Encrypted sectors -/

theorem MemoriesCanonical.reseal {s : State} (h : MemoriesCanonical s) (sector : Nat) (c : Option Cipher) :
    MemoriesCanonical (s.reseal sector c) :=
  (h.withDram (Memory.wf_write h.1 (32 * sector) 32 ((s.sealAt sector).under c))).of_eq rfl rfl
theorem MemoriesCanonical.dropCopies {s : State} (h : MemoriesCanonical s) (line : Nat) : MemoriesCanonical (dropCopies s line) :=
  MemoriesCanonical.foldl (fun _ _ hs => hs.l1DropLine _ _) _ (h.flushLine _ _)
theorem MemoriesCanonical.unsealLine {s : State} (h : MemoriesCanonical s) (line : Nat) (c : Nat → Option Cipher) :
    MemoriesCanonical (s.unsealLine line c) := by
  unfold State.unsealLine
  split
  · exact h
  · exact MemoriesCanonical.foldl (fun _ _ hs => hs.reseal _ _) _ (h.dropCopies _)

end Sys2Proof.Machine
end

