-- ==== Sys2Proof/Laws/PerInstr.lean ====
section
/-! SUPPORT. Per-instruction facts about encodings (03_encoding.md R59 to R61, R72, R76): the opcode byte and fields that an
encoded instruction has name that instruction again. -/

namespace Sys2Proof.Laws

/-- A halfword from its two bytes. -/
theorem immOf_bytes (x : BitVec 16) : immOf (x.extractLsb' 8 8) (x.extractLsb' 0 8) = x := by
  apply BitVec.eq_of_getLsbD_eq
  intro i h
  simp only [immOf, BitVec.getLsbD_append, BitVec.getLsbD_extractLsb']
  by_cases h8 : i < 8
  · simp [h8]
  · simp [h8, show i - 8 < 8 by omega, show 8 + (i - 8) = i by omega]

/-- The three field bytes of a prefix word. -/
theorem prefixFields_bytes (x : BitVec 24) : x.extractLsb' 16 8 ++ x.extractLsb' 8 8 ++ x.extractLsb' 0 8 = x := by
  apply BitVec.eq_of_getLsbD_eq
  intro i h
  simp only [BitVec.getLsbD_append, BitVec.getLsbD_extractLsb']
  by_cases h8 : i < 8
  · simp [h8]
  · by_cases h16 : i - 8 < 8
    · simp [h8, h16, show 8 + (i - 8) = i by omega]
    · simp [h8, h16, show i - 8 - 8 < 8 by omega, show 16 + (i - 8 - 8) = i by omega]

/-- A word is its opcode byte and its three field bytes (R60). -/
theorem packWord_bytes (w : Word) :
    packWord (w.extractLsb' 24 8) (w.extractLsb' 16 8) (w.extractLsb' 8 8) (w.extractLsb' 0 8) = w := by
  apply BitVec.eq_of_getLsbD_eq
  intro i h
  simp only [packWord, BitVec.getLsbD_append, BitVec.getLsbD_extractLsb']
  by_cases h8 : i < 8
  · simp [h8]
  · by_cases h16 : i - 8 < 8
    · simp [h8, h16, show 8 + (i - 8) = i by omega]
    · by_cases h24 : i - 8 - 8 < 8
      · simp [h8, h16, h24, show 16 + (i - 8 - 8) = i by omega]
      · simp [h8, h16, h24, show i - 8 - 8 - 8 < 8 by omega, show 24 + (i - 8 - 8 - 8) = i by omega]

/-- The four bytes of a packed word. -/
theorem packWord_fields (op d a b : BitVec 8) :
    (packWord op d a b).extractLsb' 24 8 = op ∧ (packWord op d a b).extractLsb' 16 8 = d ∧
      (packWord op d a b).extractLsb' 8 8 = a ∧ (packWord op d a b).extractLsb' 0 8 = b := by
  refine ⟨?_, ?_, ?_, ?_⟩ <;> apply BitVec.eq_of_getLsbD_eq <;> intro i h <;>
    simp only [packWord, BitVec.getLsbD_extractLsb', BitVec.getLsbD_append, h, decide_true, Bool.true_and]
  · rw [if_neg (by omega), if_neg (by omega), if_neg (by omega)]
    congr 1
    omega
  · rw [if_neg (by omega), if_neg (by omega), if_pos (by omega)]
    congr 1
    omega
  · rw [if_neg (by omega), if_pos (by omega)]
    congr 1
    omega
  · simp [h]

/-- An opcode byte from 0xB3 up is unassigned (R72, R76). -/
theorem ofFields_unassigned (op d a b : BitVec 8) (h : 0xB3 ≤ op.toNat) :
    ofFields op d a b = .unassignedUniformOpcode (packWord op d a b) := by
  have key : ∀ op : BitVec 8, 0xB3 ≤ op.toNat →
      ((if op.toNat < 128 then
          if op.toNat < 64 then (if op.toNat < 32 then opRow0 else opRow1)
          else (if op.toNat < 96 then opRow2 else opRow3)
        else
          if op.toNat < 192 then (if op.toNat < 160 then opRow4 else opRow5)
          else (if op.toNat < 224 then opRow6 else opRow7))[op.toNat % 32]?).isNone = true := by decide
  unfold ofFields
  simp only [Option.isNone_iff_eq_none.mp (key op h)]

/-- The fields of an instruction name it. -/
def Encoded.Statement (i : Instr) : Prop :=
  i.wf = true → ∀ op d a b, fieldsOf i = some (op, d, a, b) → ofFields op d a b = i

theorem Encoded.iadd (d a b : BitVec 8) : Encoded.Statement (.iadd d a b) := by
  intro _ _ _ _ _ h; cases h; rfl
theorem Encoded.isub (d a b : BitVec 8) : Encoded.Statement (.isub d a b) := by
  intro _ _ _ _ _ h; cases h; rfl
theorem Encoded.iadd64 (d a b : BitVec 8) : Encoded.Statement (.iadd64 d a b) := by
  intro _ _ _ _ _ h; cases h; rfl
theorem Encoded.isub64 (d a b : BitVec 8) : Encoded.Statement (.isub64 d a b) := by
  intro _ _ _ _ _ h; cases h; rfl
theorem Encoded.imul (d a b : BitVec 8) : Encoded.Statement (.imul d a b) := by
  intro _ _ _ _ _ h; cases h; rfl
theorem Encoded.imulhi (d a b : BitVec 8) : Encoded.Statement (.imulhi d a b) := by
  intro _ _ _ _ _ h; cases h; rfl
theorem Encoded.nmulhi (d a b : BitVec 8) : Encoded.Statement (.nmulhi d a b) := by
  intro _ _ _ _ _ h; cases h; rfl
theorem Encoded.imad (d a b : BitVec 8) : Encoded.Statement (.imad d a b) := by
  intro _ _ _ _ _ h; cases h; rfl
theorem Encoded.nmad64 (d a b : BitVec 8) : Encoded.Statement (.nmad64 d a b) := by
  intro _ _ _ _ _ h; cases h; rfl
theorem Encoded.ndiv (d a b : BitVec 8) : Encoded.Statement (.ndiv d a b) := by
  intro _ _ _ _ _ h; cases h; rfl
theorem Encoded.nrem (d a b : BitVec 8) : Encoded.Statement (.nrem d a b) := by
  intro _ _ _ _ _ h; cases h; rfl
theorem Encoded.imin (d a b : BitVec 8) : Encoded.Statement (.imin d a b) := by
  intro _ _ _ _ _ h; cases h; rfl
theorem Encoded.imax (d a b : BitVec 8) : Encoded.Statement (.imax d a b) := by
  intro _ _ _ _ _ h; cases h; rfl
theorem Encoded.nmin (d a b : BitVec 8) : Encoded.Statement (.nmin d a b) := by
  intro _ _ _ _ _ h; cases h; rfl
theorem Encoded.nmax (d a b : BitVec 8) : Encoded.Statement (.nmax d a b) := by
  intro _ _ _ _ _ h; cases h; rfl
theorem Encoded.iadds (d a b : BitVec 8) : Encoded.Statement (.iadds d a b) := by
  intro _ _ _ _ _ h; cases h; rfl
theorem Encoded.and (d a b : BitVec 8) : Encoded.Statement (.and d a b) := by
  intro _ _ _ _ _ h; cases h; rfl
theorem Encoded.or (d a b : BitVec 8) : Encoded.Statement (.or d a b) := by
  intro _ _ _ _ _ h; cases h; rfl
theorem Encoded.xor (d a b : BitVec 8) : Encoded.Statement (.xor d a b) := by
  intro _ _ _ _ _ h; cases h; rfl
theorem Encoded.andn (d a b : BitVec 8) : Encoded.Statement (.andn d a b) := by
  intro _ _ _ _ _ h; cases h; rfl
theorem Encoded.shl (d a b : BitVec 8) : Encoded.Statement (.shl d a b) := by
  intro _ _ _ _ _ h; cases h; rfl
theorem Encoded.shr (d a b : BitVec 8) : Encoded.Statement (.shr d a b) := by
  intro _ _ _ _ _ h; cases h; rfl
theorem Encoded.sra (d a b : BitVec 8) : Encoded.Statement (.sra d a b) := by
  intro _ _ _ _ _ h; cases h; rfl
theorem Encoded.rotl (d a b : BitVec 8) : Encoded.Statement (.rotl d a b) := by
  intro _ _ _ _ _ h; cases h; rfl
theorem Encoded.funsh (d a b : BitVec 8) : Encoded.Statement (.funsh d a b) := by
  intro _ _ _ _ _ h; cases h; rfl
theorem Encoded.popc (d a b : BitVec 8) : Encoded.Statement (.popc d a b) := by
  intro _ _ _ _ _ h; cases h; rfl
theorem Encoded.clz (d a b : BitVec 8) : Encoded.Statement (.clz d a b) := by
  intro _ _ _ _ _ h; cases h; rfl
theorem Encoded.brev (d a b : BitVec 8) : Encoded.Statement (.brev d a b) := by
  intro _ _ _ _ _ h; cases h; rfl
theorem Encoded.bfx (d a b : BitVec 8) : Encoded.Statement (.bfx d a b) := by
  intro _ _ _ _ _ h; cases h; rfl
theorem Encoded.bfi (d a b : BitVec 8) : Encoded.Statement (.bfi d a b) := by
  intro _ _ _ _ _ h; cases h; rfl
theorem Encoded.bdep (d a b : BitVec 8) : Encoded.Statement (.bdep d a b) := by
  intro _ _ _ _ _ h; cases h; rfl
theorem Encoded.bext (d a b : BitVec 8) : Encoded.Statement (.bext d a b) := by
  intro _ _ _ _ _ h; cases h; rfl
theorem Encoded.bperm (d a b : BitVec 8) : Encoded.Statement (.bperm d a b) := by
  intro _ _ _ _ _ h; cases h; rfl
theorem Encoded.bmm8 (d a b : BitVec 8) : Encoded.Statement (.bmm8 d a b) := by
  intro _ _ _ _ _ h; cases h; rfl
theorem Encoded.ieq (d a b : BitVec 8) : Encoded.Statement (.ieq d a b) := by
  intro _ _ _ _ _ h; cases h; rfl
theorem Encoded.ine (d a b : BitVec 8) : Encoded.Statement (.ine d a b) := by
  intro _ _ _ _ _ h; cases h; rfl
theorem Encoded.ilt (d a b : BitVec 8) : Encoded.Statement (.ilt d a b) := by
  intro _ _ _ _ _ h; cases h; rfl
theorem Encoded.ile (d a b : BitVec 8) : Encoded.Statement (.ile d a b) := by
  intro _ _ _ _ _ h; cases h; rfl
theorem Encoded.nlt (d a b : BitVec 8) : Encoded.Statement (.nlt d a b) := by
  intro _ _ _ _ _ h; cases h; rfl
theorem Encoded.nle (d a b : BitVec 8) : Encoded.Statement (.nle d a b) := by
  intro _ _ _ _ _ h; cases h; rfl
theorem Encoded.sel (d a b : BitVec 8) : Encoded.Statement (.sel d a b) := by
  intro _ _ _ _ _ h; cases h; rfl
theorem Encoded.li (d : BitVec 8) (imm : BitVec 16) : Encoded.Statement (.li d imm) := by
  intro _ _ _ _ _ h; cases h
  exact congrArg (Instr.li d) (immOf_bytes imm)
theorem Encoded.lih (d : BitVec 8) (imm : BitVec 16) : Encoded.Statement (.lih d imm) := by
  intro _ _ _ _ _ h; cases h
  exact congrArg (Instr.lih d) (immOf_bytes imm)
theorem Encoded.rndc (d a b : BitVec 8) : Encoded.Statement (.rndc d a b) := by
  intro _ _ _ _ _ h; cases h; rfl
theorem Encoded.fadd (d a b : BitVec 8) : Encoded.Statement (.fadd d a b) := by
  intro _ _ _ _ _ h; cases h; rfl
theorem Encoded.fsub (d a b : BitVec 8) : Encoded.Statement (.fsub d a b) := by
  intro _ _ _ _ _ h; cases h; rfl
theorem Encoded.fmul (d a b : BitVec 8) : Encoded.Statement (.fmul d a b) := by
  intro _ _ _ _ _ h; cases h; rfl
theorem Encoded.ffma (d a b : BitVec 8) : Encoded.Statement (.ffma d a b) := by
  intro _ _ _ _ _ h; cases h; rfl
theorem Encoded.fmin (d a b : BitVec 8) : Encoded.Statement (.fmin d a b) := by
  intro _ _ _ _ _ h; cases h; rfl
theorem Encoded.fmax (d a b : BitVec 8) : Encoded.Statement (.fmax d a b) := by
  intro _ _ _ _ _ h; cases h; rfl
theorem Encoded.feq (d a b : BitVec 8) : Encoded.Statement (.feq d a b) := by
  intro _ _ _ _ _ h; cases h; rfl
theorem Encoded.flt (d a b : BitVec 8) : Encoded.Statement (.flt d a b) := by
  intro _ _ _ _ _ h; cases h; rfl
theorem Encoded.fle (d a b : BitVec 8) : Encoded.Statement (.fle d a b) := by
  intro _ _ _ _ _ h; cases h; rfl
theorem Encoded.funo (d a b : BitVec 8) : Encoded.Statement (.funo d a b) := by
  intro _ _ _ _ _ h; cases h; rfl
theorem Encoded.dadd (d a b : BitVec 8) : Encoded.Statement (.dadd d a b) := by
  intro _ _ _ _ _ h; cases h; rfl
theorem Encoded.dsub (d a b : BitVec 8) : Encoded.Statement (.dsub d a b) := by
  intro _ _ _ _ _ h; cases h; rfl
theorem Encoded.dmul (d a b : BitVec 8) : Encoded.Statement (.dmul d a b) := by
  intro _ _ _ _ _ h; cases h; rfl
theorem Encoded.dfma (d a b : BitVec 8) : Encoded.Statement (.dfma d a b) := by
  intro _ _ _ _ _ h; cases h; rfl
theorem Encoded.dmin (d a b : BitVec 8) : Encoded.Statement (.dmin d a b) := by
  intro _ _ _ _ _ h; cases h; rfl
theorem Encoded.dmax (d a b : BitVec 8) : Encoded.Statement (.dmax d a b) := by
  intro _ _ _ _ _ h; cases h; rfl
theorem Encoded.deq (d a b : BitVec 8) : Encoded.Statement (.deq d a b) := by
  intro _ _ _ _ _ h; cases h; rfl
theorem Encoded.dlt (d a b : BitVec 8) : Encoded.Statement (.dlt d a b) := by
  intro _ _ _ _ _ h; cases h; rfl
theorem Encoded.dle (d a b : BitVec 8) : Encoded.Statement (.dle d a b) := by
  intro _ _ _ _ _ h; cases h; rfl
theorem Encoded.duno (d a b : BitVec 8) : Encoded.Statement (.duno d a b) := by
  intro _ _ _ _ _ h; cases h; rfl
theorem Encoded.pfmah (d a b : BitVec 8) : Encoded.Statement (.pfmah d a b) := by
  intro _ _ _ _ _ h; cases h; rfl
theorem Encoded.pfmab (d a b : BitVec 8) : Encoded.Statement (.pfmab d a b) := by
  intro _ _ _ _ _ h; cases h; rfl
theorem Encoded.sfn (d a b : BitVec 8) : Encoded.Statement (.sfn d a b) := by
  intro _ _ _ _ _ h; cases h; rfl
theorem Encoded.fdiv (d a b : BitVec 8) : Encoded.Statement (.fdiv d a b) := by
  intro _ _ _ _ _ h; cases h; rfl
theorem Encoded.ddiv (d a b : BitVec 8) : Encoded.Statement (.ddiv d a b) := by
  intro _ _ _ _ _ h; cases h; rfl
theorem Encoded.dsqrt (d a b : BitVec 8) : Encoded.Statement (.dsqrt d a b) := by
  intro _ _ _ _ _ h; cases h; rfl
theorem Encoded.cvt (d a b : BitVec 8) : Encoded.Statement (.cvt d a b) := by
  intro _ _ _ _ _ h; cases h; rfl
theorem Encoded.cvts (d a b : BitVec 8) : Encoded.Statement (.cvts d a b) := by
  intro _ _ _ _ _ h; cases h; rfl
theorem Encoded.fclass (d a b : BitVec 8) : Encoded.Statement (.fclass d a b) := by
  intro _ _ _ _ _ h; cases h; rfl
theorem Encoded.fscale (d a b : BitVec 8) : Encoded.Statement (.fscale d a b) := by
  intro _ _ _ _ _ h; cases h; rfl
theorem Encoded.dscale (d a b : BitVec 8) : Encoded.Statement (.dscale d a b) := by
  intro _ _ _ _ _ h; cases h; rfl
theorem Encoded.frnd (d a b : BitVec 8) : Encoded.Statement (.frnd d a b) := by
  intro _ _ _ _ _ h; cases h; rfl
theorem Encoded.bnz (d : BitVec 8) (imm : BitVec 16) : Encoded.Statement (.bnz d imm) := by
  intro _ _ _ _ _ h; cases h
  exact congrArg (Instr.bnz d) (immOf_bytes imm)
theorem Encoded.bz (d : BitVec 8) (imm : BitVec 16) : Encoded.Statement (.bz d imm) := by
  intro _ _ _ _ _ h; cases h
  exact congrArg (Instr.bz d) (immOf_bytes imm)
theorem Encoded.jmpf (d a b : BitVec 8) : Encoded.Statement (.jmpf d a b) := by
  intro _ _ _ _ _ h; cases h; rfl
theorem Encoded.callf (d a b : BitVec 8) : Encoded.Statement (.callf d a b) := by
  intro _ _ _ _ _ h; cases h; rfl
theorem Encoded.ret (d a b : BitVec 8) : Encoded.Statement (.ret d a b) := by
  intro _ _ _ _ _ h; cases h; rfl
theorem Encoded.waitn (d : BitVec 8) (imm : BitVec 16) : Encoded.Statement (.waitn d imm) := by
  intro _ _ _ _ _ h; cases h
  exact congrArg (Instr.waitn d) (immOf_bytes imm)
theorem Encoded.waitc (d a b : BitVec 8) : Encoded.Statement (.waitc d a b) := by
  intro _ _ _ _ _ h; cases h; rfl
theorem Encoded.xln (d a b : BitVec 8) : Encoded.Statement (.xln d a b) := by
  intro _ _ _ _ _ h; cases h; rfl
theorem Encoded.xred (d a b : BitVec 8) : Encoded.Statement (.xred d a b) := by
  intro _ _ _ _ _ h; cases h; rfl
theorem Encoded.elect (d a b : BitVec 8) : Encoded.Statement (.elect d a b) := by
  intro _ _ _ _ _ h; cases h; rfl
theorem Encoded.vote (d a b : BitVec 8) : Encoded.Statement (.vote d a b) := by
  intro _ _ _ _ _ h; cases h; rfl
theorem Encoded.bar (d a b : BitVec 8) : Encoded.Statement (.bar d a b) := by
  intro _ _ _ _ _ h; cases h; rfl
theorem Encoded.bara (d a b : BitVec 8) : Encoded.Statement (.bara d a b) := by
  intro _ _ _ _ _ h; cases h; rfl
theorem Encoded.exit (d a b : BitVec 8) : Encoded.Statement (.exit d a b) := by
  intro _ _ _ _ _ h; cases h; rfl
theorem Encoded.ldb (d a b : BitVec 8) : Encoded.Statement (.ldb d a b) := by
  intro _ _ _ _ _ h; cases h; rfl
theorem Encoded.ldh (d a b : BitVec 8) : Encoded.Statement (.ldh d a b) := by
  intro _ _ _ _ _ h; cases h; rfl
theorem Encoded.ldw (d a b : BitVec 8) : Encoded.Statement (.ldw d a b) := by
  intro _ _ _ _ _ h; cases h; rfl
theorem Encoded.ldd (d a b : BitVec 8) : Encoded.Statement (.ldd d a b) := by
  intro _ _ _ _ _ h; cases h; rfl
theorem Encoded.ldq (d a b : BitVec 8) : Encoded.Statement (.ldq d a b) := by
  intro _ _ _ _ _ h; cases h; rfl
theorem Encoded.stb (d a b : BitVec 8) : Encoded.Statement (.stb d a b) := by
  intro _ _ _ _ _ h; cases h; rfl
theorem Encoded.sth (d a b : BitVec 8) : Encoded.Statement (.sth d a b) := by
  intro _ _ _ _ _ h; cases h; rfl
theorem Encoded.stw (d a b : BitVec 8) : Encoded.Statement (.stw d a b) := by
  intro _ _ _ _ _ h; cases h; rfl
theorem Encoded.std (d a b : BitVec 8) : Encoded.Statement (.std d a b) := by
  intro _ _ _ _ _ h; cases h; rfl
theorem Encoded.stq (d a b : BitVec 8) : Encoded.Statement (.stq d a b) := by
  intro _ _ _ _ _ h; cases h; rfl
theorem Encoded.ldv (d a b : BitVec 8) : Encoded.Statement (.ldv d a b) := by
  intro _ _ _ _ _ h; cases h; rfl
theorem Encoded.atom (d a b : BitVec 8) : Encoded.Statement (.atom d a b) := by
  intro _ _ _ _ _ h; cases h; rfl
theorem Encoded.atomr (d a b : BitVec 8) : Encoded.Statement (.atomr d a b) := by
  intro _ _ _ _ _ h; cases h; rfl
theorem Encoded.fence (d a b : BitVec 8) : Encoded.Statement (.fence d a b) := by
  intro _ _ _ _ _ h; cases h; rfl
theorem Encoded.clnr (d a b : BitVec 8) : Encoded.Statement (.clnr d a b) := by
  intro _ _ _ _ _ h; cases h; rfl
theorem Encoded.invr (d a b : BitVec 8) : Encoded.Statement (.invr d a b) := by
  intro _ _ _ _ _ h; cases h; rfl
theorem Encoded.cpyt (d a b : BitVec 8) : Encoded.Statement (.cpyt d a b) := by
  intro _ _ _ _ _ h; cases h; rfl
theorem Encoded.cpyl (d a b : BitVec 8) : Encoded.Statement (.cpyl d a b) := by
  intro _ _ _ _ _ h; cases h; rfl
theorem Encoded.cpym (d a b : BitVec 8) : Encoded.Statement (.cpym d a b) := by
  intro _ _ _ _ _ h; cases h; rfl
theorem Encoded.arrv (d a b : BitVec 8) : Encoded.Statement (.arrv d a b) := by
  intro _ _ _ _ _ h; cases h; rfl
theorem Encoded.mma (d a b : BitVec 8) : Encoded.Statement (.mma d a b) := by
  intro _ _ _ _ _ h; cases h; rfl
theorem Encoded.mdrn (d a b : BitVec 8) : Encoded.Statement (.mdrn d a b) := by
  intro _ _ _ _ _ h; cases h; rfl
theorem Encoded.lrld (d a b : BitVec 8) : Encoded.Statement (.lrld d a b) := by
  intro _ _ _ _ _ h; cases h; rfl
theorem Encoded.cfetch (d a b : BitVec 8) : Encoded.Statement (.cfetch d a b) := by
  intro _ _ _ _ _ h; cases h; rfl
theorem Encoded.cutsel (d a b : BitVec 8) : Encoded.Statement (.cutsel d a b) := by
  intro _ _ _ _ _ h; cases h; rfl
theorem Encoded.rast (d a b : BitVec 8) : Encoded.Statement (.rast d a b) := by
  intro _ _ _ _ _ h; cases h; rfl
theorem Encoded.rayq (d a b : BitVec 8) : Encoded.Statement (.rayq d a b) := by
  intro _ _ _ _ _ h; cases h; rfl
theorem Encoded.bkq (d a b : BitVec 8) : Encoded.Statement (.bkq d a b) := by
  intro _ _ _ _ _ h; cases h; rfl
theorem Encoded.gath (d a b : BitVec 8) : Encoded.Statement (.gath d a b) := by
  intro _ _ _ _ _ h; cases h; rfl
theorem Encoded.coll (d a b : BitVec 8) : Encoded.Statement (.coll d a b) := by
  intro _ _ _ _ _ h; cases h; rfl
theorem Encoded.trap (d a b : BitVec 8) : Encoded.Statement (.trap d a b) := by
  intro _ _ _ _ _ h; cases h; rfl
theorem Encoded.srd (d a b : BitVec 8) : Encoded.Statement (.srd d a b) := by
  intro _ _ _ _ _ h; cases h; rfl
theorem Encoded.swr (d a b : BitVec 8) : Encoded.Statement (.swr d a b) := by
  intro _ _ _ _ _ h; cases h; rfl
theorem Encoded.tret (d a b : BitVec 8) : Encoded.Statement (.tret d a b) := by
  intro _ _ _ _ _ h; cases h; rfl
theorem Encoded.nop (d a b : BitVec 8) : Encoded.Statement (.nop d a b) := by
  intro _ _ _ _ _ h; cases h; rfl
theorem Encoded.bkpt (d a b : BitVec 8) : Encoded.Statement (.bkpt d a b) := by
  intro _ _ _ _ _ h; cases h; rfl
theorem Encoded.ldvq (d a b : BitVec 8) : Encoded.Statement (.ldvq d a b) := by
  intro _ _ _ _ _ h; cases h; rfl
theorem Encoded.uadd (d a b : BitVec 8) : Encoded.Statement (.uadd d a b) := by
  intro _ _ _ _ _ h; cases h; rfl
theorem Encoded.usub (d a b : BitVec 8) : Encoded.Statement (.usub d a b) := by
  intro _ _ _ _ _ h; cases h; rfl
theorem Encoded.uadd64 (d a b : BitVec 8) : Encoded.Statement (.uadd64 d a b) := by
  intro _ _ _ _ _ h; cases h; rfl
theorem Encoded.umul (d a b : BitVec 8) : Encoded.Statement (.umul d a b) := by
  intro _ _ _ _ _ h; cases h; rfl
theorem Encoded.umad (d a b : BitVec 8) : Encoded.Statement (.umad d a b) := by
  intro _ _ _ _ _ h; cases h; rfl
theorem Encoded.uand (d a b : BitVec 8) : Encoded.Statement (.uand d a b) := by
  intro _ _ _ _ _ h; cases h; rfl
theorem Encoded.uor (d a b : BitVec 8) : Encoded.Statement (.uor d a b) := by
  intro _ _ _ _ _ h; cases h; rfl
theorem Encoded.uxor (d a b : BitVec 8) : Encoded.Statement (.uxor d a b) := by
  intro _ _ _ _ _ h; cases h; rfl
theorem Encoded.ushl (d a b : BitVec 8) : Encoded.Statement (.ushl d a b) := by
  intro _ _ _ _ _ h; cases h; rfl
theorem Encoded.ushr (d a b : BitVec 8) : Encoded.Statement (.ushr d a b) := by
  intro _ _ _ _ _ h; cases h; rfl
theorem Encoded.usra (d a b : BitVec 8) : Encoded.Statement (.usra d a b) := by
  intro _ _ _ _ _ h; cases h; rfl
theorem Encoded.upopc (d a b : BitVec 8) : Encoded.Statement (.upopc d a b) := by
  intro _ _ _ _ _ h; cases h; rfl
theorem Encoded.uclz (d a b : BitVec 8) : Encoded.Statement (.uclz d a b) := by
  intro _ _ _ _ _ h; cases h; rfl
theorem Encoded.ueq (d a b : BitVec 8) : Encoded.Statement (.ueq d a b) := by
  intro _ _ _ _ _ h; cases h; rfl
theorem Encoded.une (d a b : BitVec 8) : Encoded.Statement (.une d a b) := by
  intro _ _ _ _ _ h; cases h; rfl
theorem Encoded.ult (d a b : BitVec 8) : Encoded.Statement (.ult d a b) := by
  intro _ _ _ _ _ h; cases h; rfl
theorem Encoded.ule (d a b : BitVec 8) : Encoded.Statement (.ule d a b) := by
  intro _ _ _ _ _ h; cases h; rfl
theorem Encoded.unlt (d a b : BitVec 8) : Encoded.Statement (.unlt d a b) := by
  intro _ _ _ _ _ h; cases h; rfl
theorem Encoded.unle (d a b : BitVec 8) : Encoded.Statement (.unle d a b) := by
  intro _ _ _ _ _ h; cases h; rfl
theorem Encoded.usel (d a b : BitVec 8) : Encoded.Statement (.usel d a b) := by
  intro _ _ _ _ _ h; cases h; rfl
theorem Encoded.uli (d : BitVec 8) (imm : BitVec 16) : Encoded.Statement (.uli d imm) := by
  intro _ _ _ _ _ h; cases h
  exact congrArg (Instr.uli d) (immOf_bytes imm)
theorem Encoded.ulih (d : BitVec 8) (imm : BitVec 16) : Encoded.Statement (.ulih d imm) := by
  intro _ _ _ _ _ h; cases h
  exact congrArg (Instr.ulih d) (immOf_bytes imm)
theorem Encoded.umin (d a b : BitVec 8) : Encoded.Statement (.umin d a b) := by
  intro _ _ _ _ _ h; cases h; rfl
theorem Encoded.umax (d a b : BitVec 8) : Encoded.Statement (.umax d a b) := by
  intro _ _ _ _ _ h; cases h; rfl
theorem Encoded.ubnz (d : BitVec 8) (imm : BitVec 16) : Encoded.Statement (.ubnz d imm) := by
  intro _ _ _ _ _ h; cases h
  exact congrArg (Instr.ubnz d) (immOf_bytes imm)
theorem Encoded.ubz (d : BitVec 8) (imm : BitVec 16) : Encoded.Statement (.ubz d imm) := by
  intro _ _ _ _ _ h; cases h
  exact congrArg (Instr.ubz d) (immOf_bytes imm)
theorem Encoded.ujmpf (d a b : BitVec 8) : Encoded.Statement (.ujmpf d a b) := by
  intro _ _ _ _ _ h; cases h; rfl
theorem Encoded.ucallf (d a b : BitVec 8) : Encoded.Statement (.ucallf d a b) := by
  intro _ _ _ _ _ h; cases h; rfl
theorem Encoded.uret (d a b : BitVec 8) : Encoded.Statement (.uret d a b) := by
  intro _ _ _ _ _ h; cases h; rfl
theorem Encoded.usrd (d a b : BitVec 8) : Encoded.Statement (.usrd d a b) := by
  intro _ _ _ _ _ h; cases h; rfl
theorem Encoded.uldw (d a b : BitVec 8) : Encoded.Statement (.uldw d a b) := by
  intro _ _ _ _ _ h; cases h; rfl
theorem Encoded.uldd (d a b : BitVec 8) : Encoded.Statement (.uldd d a b) := by
  intro _ _ _ _ _ h; cases h; rfl
theorem Encoded.uldq (d a b : BitVec 8) : Encoded.Statement (.uldq d a b) := by
  intro _ _ _ _ _ h; cases h; rfl
theorem Encoded.ustw (d a b : BitVec 8) : Encoded.Statement (.ustw d a b) := by
  intro _ _ _ _ _ h; cases h; rfl
theorem Encoded.ustd (d a b : BitVec 8) : Encoded.Statement (.ustd d a b) := by
  intro _ _ _ _ _ h; cases h; rfl
theorem Encoded.uatomr (d a b : BitVec 8) : Encoded.Statement (.uatomr d a b) := by
  intro _ _ _ _ _ h; cases h; rfl
theorem Encoded.uldv (d a b : BitVec 8) : Encoded.Statement (.uldv d a b) := by
  intro _ _ _ _ _ h; cases h; rfl
theorem Encoded.upref (d a b : BitVec 8) : Encoded.Statement (.upref d a b) := by
  intro _ _ _ _ _ h; cases h; rfl
theorem Encoded.rbind (d a b : BitVec 8) : Encoded.Statement (.rbind d a b) := by
  intro _ _ _ _ _ h; cases h; rfl
theorem Encoded.runbind (d a b : BitVec 8) : Encoded.Statement (.runbind d a b) := by
  intro _ _ _ _ _ h; cases h; rfl
theorem Encoded.crdecl (d a b : BitVec 8) : Encoded.Statement (.crdecl d a b) := by
  intro _ _ _ _ _ h; cases h; rfl
theorem Encoded.crend (d a b : BitVec 8) : Encoded.Statement (.crend d a b) := by
  intro _ _ _ _ _ h; cases h; rfl
theorem Encoded.vpost (d a b : BitVec 8) : Encoded.Statement (.vpost d a b) := by
  intro _ _ _ _ _ h; cases h; rfl
theorem Encoded.vopen (d a b : BitVec 8) : Encoded.Statement (.vopen d a b) := by
  intro _ _ _ _ _ h; cases h; rfl
theorem Encoded.migr (d a b : BitVec 8) : Encoded.Statement (.migr d a b) := by
  intro _ _ _ _ _ h; cases h; rfl
theorem Encoded.launch (d a b : BitVec 8) : Encoded.Statement (.launch d a b) := by
  intro _ _ _ _ _ h; cases h; rfl
theorem Encoded.tbinit (d a b : BitVec 8) : Encoded.Statement (.tbinit d a b) := by
  intro _ _ _ _ _ h; cases h; rfl
theorem Encoded.abinit (d a b : BitVec 8) : Encoded.Statement (.abinit d a b) := by
  intro _ _ _ _ _ h; cases h; rfl
theorem Encoded.utrap (d a b : BitVec 8) : Encoded.Statement (.utrap d a b) := by
  intro _ _ _ _ _ h; cases h; rfl
theorem Encoded.unop (d a b : BitVec 8) : Encoded.Statement (.unop d a b) := by
  intro _ _ _ _ _ h; cases h; rfl
theorem Encoded.plane (d a b : BitVec 8) : Encoded.Statement (.plane d a b) := by
  intro _ _ _ _ _ h; cases h; rfl
theorem Encoded.accessTranslate (op : Nat) (reply : Option PeerReply) : Encoded.Statement (.accessTranslate op reply) := by
  intro _ _ _ _ _ h; cases h
theorem Encoded.cowComplete (page : PageKey) : Encoded.Statement (.cowComplete page) := by
  intro _ _ _ _ _ h; cases h
theorem Encoded.historyFrameFree (page : PageKey) (slot : Nat) : Encoded.Statement (.historyFrameFree page slot) := by
  intro _ _ _ _ _ h; cases h
theorem Encoded.holdLimitExpiry (op : Nat) : Encoded.Statement (.holdLimitExpiry op) := by
  intro _ _ _ _ _ h; cases h
theorem Encoded.pageWalkComplete (die : Nat) (page : PageKey) : Encoded.Statement (.pageWalkComplete die page) := by
  intro _ _ _ _ _ h; cases h
theorem Encoded.loadComplete (op : Nat) : Encoded.Statement (.loadComplete op) := by
  intro _ _ _ _ _ h; cases h
theorem Encoded.storeAck (op : Nat) : Encoded.Statement (.storeAck op) := by
  intro _ _ _ _ _ h; cases h
theorem Encoded.commandRetire (op : Nat) : Encoded.Statement (.commandRetire op) := by
  intro _ _ _ _ _ h; cases h
theorem Encoded.deliverPendingCause (slot tid : Nat) : Encoded.Statement (.deliverPendingCause slot tid) := by
  intro _ _ _ _ _ h; cases h
theorem Encoded.partyFrozen (slot : Nat) : Encoded.Statement (.partyFrozen slot) := by
  intro _ _ _ _ _ h; cases h
theorem Encoded.waitcReadReturn (slot tid cond : Nat) (reply : Option PeerReply) : Encoded.Statement (.waitcReadReturn slot tid cond reply) := by
  intro _ _ _ _ _ h; cases h
theorem Encoded.waitcTimeout (slot tid : Nat) : Encoded.Statement (.waitcTimeout slot tid) := by
  intro _ _ _ _ _ h; cases h
theorem Encoded.segmentLanded (core lid seg : Nat) : Encoded.Statement (.segmentLanded core lid seg) := by
  intro _ _ _ _ _ h; cases h
theorem Encoded.segmentFetchFault (core lid seg : Nat) : Encoded.Statement (.segmentFetchFault core lid seg) := by
  intro _ _ _ _ _ h; cases h
theorem Encoded.segmentDropComplete (core lid seg : Nat) : Encoded.Statement (.segmentDropComplete core lid seg) := by
  intro _ _ _ _ _ h; cases h
theorem Encoded.dispatchStart (slot : Nat) : Encoded.Statement (.dispatchStart slot) := by
  intro _ _ _ _ _ h; cases h
theorem Encoded.restoreStart (slot : Nat) : Encoded.Statement (.restoreStart slot) := by
  intro _ _ _ _ _ h; cases h
theorem Encoded.saveBegin (slot : Nat) : Encoded.Statement (.saveBegin slot) := by
  intro _ _ _ _ _ h; cases h
theorem Encoded.saveDrained (slot : Nat) : Encoded.Statement (.saveDrained slot) := by
  intro _ _ _ _ _ h; cases h
theorem Encoded.saveDeadlineExpiry (slot : Nat) : Encoded.Statement (.saveDeadlineExpiry slot) := by
  intro _ _ _ _ _ h; cases h
theorem Encoded.saveComplete (slot : Nat) : Encoded.Statement (.saveComplete slot) := by
  intro _ _ _ _ _ h; cases h
theorem Encoded.partySlotFree (slot : Nat) : Encoded.Statement (.partySlotFree slot) := by
  intro _ _ _ _ _ h; cases h
theorem Encoded.copyStart (op : Nat) : Encoded.Statement (.copyStart op) := by
  intro _ _ _ _ _ h; cases h
theorem Encoded.copyWritePacket (op packet : Nat) : Encoded.Statement (.copyWritePacket op packet) := by
  intro _ _ _ _ _ h; cases h
theorem Encoded.copyDone (op : Nat) : Encoded.Statement (.copyDone op) := by
  intro _ _ _ _ _ h; cases h
theorem Encoded.copyFault (op : Nat) : Encoded.Statement (.copyFault op) := by
  intro _ _ _ _ _ h; cases h
theorem Encoded.ringPost (op : Nat) : Encoded.Statement (.ringPost op) := by
  intro _ _ _ _ _ h; cases h
theorem Encoded.lrldReadDone (op : Nat) : Encoded.Statement (.lrldReadDone op) := by
  intro _ _ _ _ _ h; cases h
theorem Encoded.gatherDone (op : Nat) : Encoded.Statement (.gatherDone op) := by
  intro _ _ _ _ _ h; cases h
theorem Encoded.gatherFault (op : Nat) : Encoded.Statement (.gatherFault op) := by
  intro _ _ _ _ _ h; cases h
theorem Encoded.tileAccept (op : Nat) : Encoded.Statement (.tileAccept op) := by
  intro _ _ _ _ _ h; cases h
theorem Encoded.tileStart (op : Nat) : Encoded.Statement (.tileStart op) := by
  intro _ _ _ _ _ h; cases h
theorem Encoded.tileRunDone (op : Nat) : Encoded.Statement (.tileRunDone op) := by
  intro _ _ _ _ _ h; cases h
theorem Encoded.tileFault (op : Nat) : Encoded.Statement (.tileFault op) := by
  intro _ _ _ _ _ h; cases h
theorem Encoded.shadowReferenceDone (op : Nat) : Encoded.Statement (.shadowReferenceDone op) := by
  intro _ _ _ _ _ h; cases h
theorem Encoded.geometryStart (op : Nat) : Encoded.Statement (.geometryStart op) := by
  intro _ _ _ _ _ h; cases h
theorem Encoded.cutselDone (op : Nat) : Encoded.Statement (.cutselDone op) := by
  intro _ _ _ _ _ h; cases h
theorem Encoded.rastDone (op : Nat) : Encoded.Statement (.rastDone op) := by
  intro _ _ _ _ _ h; cases h
theorem Encoded.rayqDone (op : Nat) : Encoded.Statement (.rayqDone op) := by
  intro _ _ _ _ _ h; cases h
theorem Encoded.geometryFault (op : Nat) : Encoded.Statement (.geometryFault op) := by
  intro _ _ _ _ _ h; cases h
theorem Encoded.bankBlockArrive (op : Nat) : Encoded.Statement (.bankBlockArrive op) := by
  intro _ _ _ _ _ h; cases h
theorem Encoded.bankBlockStart (op : Nat) : Encoded.Statement (.bankBlockStart op) := by
  intro _ _ _ _ _ h; cases h
theorem Encoded.allBankAdmit (op : Nat) : Encoded.Statement (.allBankAdmit op) := by
  intro _ _ _ _ _ h; cases h
theorem Encoded.bkMode (op : Nat) : Encoded.Statement (.bkMode op) := by
  intro _ _ _ _ _ h; cases h
theorem Encoded.bkBcast (op : Nat) : Encoded.Statement (.bkBcast op) := by
  intro _ _ _ _ _ h; cases h
theorem Encoded.bkLdv (op : Nat) : Encoded.Statement (.bkLdv op) := by
  intro _ _ _ _ _ h; cases h
theorem Encoded.bkMac (op : Nat) : Encoded.Statement (.bkMac op) := by
  intro _ _ _ _ _ h; cases h
theorem Encoded.bkEadd (op : Nat) : Encoded.Statement (.bkEadd op) := by
  intro _ _ _ _ _ h; cases h
theorem Encoded.bkSta (op : Nat) : Encoded.Statement (.bkSta op) := by
  intro _ _ _ _ _ h; cases h
theorem Encoded.bkClr (op : Nat) : Encoded.Statement (.bkClr op) := by
  intro _ _ _ _ _ h; cases h
theorem Encoded.bkSync (op : Nat) : Encoded.Statement (.bkSync op) := by
  intro _ _ _ _ _ h; cases h
theorem Encoded.bankBlockDone (op : Nat) : Encoded.Statement (.bankBlockDone op) := by
  intro _ _ _ _ _ h; cases h
theorem Encoded.activateAdmit (stack : Nat) : Encoded.Statement (.activateAdmit stack) := by
  intro _ _ _ _ _ h; cases h
theorem Encoded.collMatched (op : Nat) (peers : List CollPeer) : Encoded.Statement (.collMatched op peers) := by
  intro _ _ _ _ _ h; cases h
theorem Encoded.haloReceive (op segment data : Nat) : Encoded.Statement (.haloReceive op segment data) := by
  intro _ _ _ _ _ h; cases h
theorem Encoded.collDone (op : Nat) : Encoded.Statement (.collDone op) := by
  intro _ _ _ _ _ h; cases h
theorem Encoded.collTimeout (op : Nat) : Encoded.Statement (.collTimeout op) := by
  intro _ _ _ _ _ h; cases h
theorem Encoded.collFault (op : Nat) : Encoded.Statement (.collFault op) := by
  intro _ _ _ _ _ h; cases h
theorem Encoded.snoopForRead (die line : Nat) : Encoded.Statement (.snoopForRead die line) := by
  intro _ _ _ _ _ h; cases h
theorem Encoded.snoopForOwnership (die line : Nat) : Encoded.Statement (.snoopForOwnership die line) := by
  intro _ _ _ _ _ h; cases h
theorem Encoded.l2Eviction (die line : Nat) : Encoded.Statement (.l2Eviction die line) := by
  intro _ _ _ _ _ h; cases h
theorem Encoded.directoryBackInvalidate (line : Nat) : Encoded.Statement (.directoryBackInvalidate line) := by
  intro _ _ _ _ _ h; cases h
theorem Encoded.invalidationApply (die : Nat) : Encoded.Statement (.invalidationApply die) := by
  intro _ _ _ _ _ h; cases h
theorem Encoded.forwardedAtomic (op : Nat) : Encoded.Statement (.forwardedAtomic op) := by
  intro _ _ _ _ _ h; cases h
theorem Encoded.xPrefix (fields : BitVec 24) : Encoded.Statement (.xPrefix fields) := by
  intro _ _ _ _ _ h; cases h
  exact congrArg Instr.xPrefix (prefixFields_bytes fields)
theorem Encoded.unassignedUniformOpcode (word : Word) : Encoded.Statement (.unassignedUniformOpcode word) := by
  intro hw _ _ _ _ h; cases h
  rw [ofFields_unassigned _ _ _ _ (by
    have := word.isLt
    simp [Instr.wf, Nat.shiftRight_eq_div_pow] at hw ⊢
    omega), packWord_bytes]
theorem Encoded.slotPre : Encoded.Statement .slotPre := by
  intro _ _ _ _ _ h; cases h
theorem Encoded.slotHalt : Encoded.Statement .slotHalt := by
  intro _ _ _ _ _ h; cases h
theorem Encoded.slotKill : Encoded.Statement .slotKill := by
  intro _ _ _ _ _ h; cases h
theorem Encoded.slotRelease : Encoded.Statement .slotRelease := by
  intro _ _ _ _ _ h; cases h
theorem Encoded.registerWrite : Encoded.Statement .registerWrite := by
  intro _ _ _ _ _ h; cases h
theorem Encoded.bindDispatch : Encoded.Statement .bindDispatch := by
  intro _ _ _ _ _ h; cases h
theorem Encoded.bindRestore : Encoded.Statement .bindRestore := by
  intro _ _ _ _ _ h; cases h
theorem Encoded.combineLine : Encoded.Statement .combineLine := by
  intro _ _ _ _ _ h; cases h
theorem Encoded.migrationBegin : Encoded.Statement .migrationBegin := by
  intro _ _ _ _ _ h; cases h
theorem Encoded.migrationDrained : Encoded.Statement .migrationDrained := by
  intro _ _ _ _ _ h; cases h
theorem Encoded.migrationCopyDone : Encoded.Statement .migrationCopyDone := by
  intro _ _ _ _ _ h; cases h
theorem Encoded.peerAccess : Encoded.Statement .peerAccess := by
  intro _ _ _ _ _ h; cases h
theorem Encoded.peerTimeout : Encoded.Statement .peerTimeout := by
  intro _ _ _ _ _ h; cases h
theorem Encoded.launchRecordValidate : Encoded.Statement .launchRecordValidate := by
  intro _ _ _ _ _ h; cases h
theorem Encoded.dependenceRead : Encoded.Statement .dependenceRead := by
  intro _ _ _ _ _ h; cases h
theorem Encoded.schedulerPass : Encoded.Statement .schedulerPass := by
  intro _ _ _ _ _ h; cases h
theorem Encoded.reservationIntervalExpiry : Encoded.Statement .reservationIntervalExpiry := by
  intro _ _ _ _ _ h; cases h
theorem Encoded.escalatedHoldExpiry : Encoded.Statement .escalatedHoldExpiry := by
  intro _ _ _ _ _ h; cases h
theorem Encoded.launchTeardown : Encoded.Statement .launchTeardown := by
  intro _ _ _ _ _ h; cases h
theorem Encoded.podGroupForm : Encoded.Statement .podGroupForm := by
  intro _ _ _ _ _ h; cases h
theorem Encoded.closureMerge : Encoded.Statement .closureMerge := by
  intro _ _ _ _ _ h; cases h
theorem Encoded.clusterRetire : Encoded.Statement .clusterRetire := by
  intro _ _ _ _ _ h; cases h
theorem Encoded.writeBufferFull : Encoded.Statement .writeBufferFull := by
  intro _ _ _ _ _ h; cases h
theorem Encoded.blockMove : Encoded.Statement .blockMove := by
  intro _ _ _ _ _ h; cases h
theorem Encoded.correctedError : Encoded.Statement .correctedError := by
  intro _ _ _ _ _ h; cases h
theorem Encoded.uncorrectableError : Encoded.Statement .uncorrectableError := by
  intro _ _ _ _ _ h; cases h
theorem Encoded.laneRetrainDone : Encoded.Statement .laneRetrainDone := by
  intro _ _ _ _ _ h; cases h
theorem Encoded.errorLogMove : Encoded.Statement .errorLogMove := by
  intro _ _ _ _ _ h; cases h
theorem Encoded.pageQuarantine : Encoded.Statement .pageQuarantine := by
  intro _ _ _ _ _ h; cases h
theorem Encoded.pageRestore : Encoded.Statement .pageRestore := by
  intro _ _ _ _ _ h; cases h
theorem Encoded.dieResetRequest : Encoded.Statement .dieResetRequest := by
  intro _ _ _ _ _ h; cases h
theorem Encoded.clusterSave : Encoded.Statement .clusterSave := by
  intro _ _ _ _ _ h; cases h
theorem Encoded.clusterRestore : Encoded.Statement .clusterRestore := by
  intro _ _ _ _ _ h; cases h
theorem Encoded.quiesceDeadlineExpiry : Encoded.Statement .quiesceDeadlineExpiry := by
  intro _ _ _ _ _ h; cases h
theorem Encoded.dieResetComplete : Encoded.Statement .dieResetComplete := by
  intro _ _ _ _ _ h; cases h
theorem Encoded.diePowerGate : Encoded.Statement .diePowerGate := by
  intro _ _ _ _ _ h; cases h
theorem Encoded.diePowerUp : Encoded.Statement .diePowerUp := by
  intro _ _ _ _ _ h; cases h
theorem Encoded.powerOn : Encoded.Statement .powerOn := by
  intro _ _ _ _ _ h; cases h
theorem Encoded.firmwareUpdate : Encoded.Statement .firmwareUpdate := by
  intro _ _ _ _ _ h; cases h
theorem Encoded.firmwareHoldTimeout : Encoded.Statement .firmwareHoldTimeout := by
  intro _ _ _ _ _ h; cases h
theorem Encoded.attestationRequest : Encoded.Statement .attestationRequest := by
  intro _ _ _ _ _ h; cases h
theorem Encoded.powerManagerRevision : Encoded.Statement .powerManagerRevision := by
  intro _ _ _ _ _ h; cases h
theorem Encoded.temperatureReport : Encoded.Statement .temperatureReport := by
  intro _ _ _ _ _ h; cases h
theorem Encoded.flowLowTimeout : Encoded.Statement .flowLowTimeout := by
  intro _ _ _ _ _ h; cases h
theorem Encoded.hostRdmaWrite : Encoded.Statement .hostRdmaWrite := by
  intro _ _ _ _ _ h; cases h
theorem Encoded.hostRdmaWriteImm : Encoded.Statement .hostRdmaWriteImm := by
  intro _ _ _ _ _ h; cases h
theorem Encoded.hostRdmaRead : Encoded.Statement .hostRdmaRead := by
  intro _ _ _ _ _ h; cases h
theorem Encoded.hostAtomicCas : Encoded.Statement .hostAtomicCas := by
  intro _ _ _ _ _ h; cases h
theorem Encoded.hostAtomicFetchAdd : Encoded.Statement .hostAtomicFetchAdd := by
  intro _ _ _ _ _ h; cases h
theorem Encoded.launchPacket : Encoded.Statement .launchPacket := by
  intro _ _ _ _ _ h; cases h
theorem Encoded.managementKillLaunch : Encoded.Statement .managementKillLaunch := by
  intro _ _ _ _ _ h; cases h
theorem Encoded.bufferTableEntryWrite : Encoded.Statement .bufferTableEntryWrite := by
  intro _ _ _ _ _ h; cases h
theorem Encoded.launchQueueCreate : Encoded.Statement .launchQueueCreate := by
  intro _ _ _ _ _ h; cases h
theorem Encoded.connectionSetup : Encoded.Statement .connectionSetup := by
  intro _ _ _ _ _ h; cases h
theorem Encoded.linkPartnerFallback : Encoded.Statement .linkPartnerFallback := by
  intro _ _ _ _ _ h; cases h
theorem Encoded.packageReset : Encoded.Statement .packageReset := by
  intro _ _ _ _ _ h; cases h

end Sys2Proof.Laws
end

