-- ==== Sys2Proof/Tests/World.lean ====
section
/-! SUPPORT. States that the tests and witnesses stand on: one small launch whose thread 0 issues, with or without memory around
it, and the shapes of the statements' hypotheses as facts that evaluation decides. -/

namespace Sys2Proof.Tests

open Sys2Proof.Machine

/-! ## A group that issues -/

/-- Threads tids of slot 0 issue at word 0 of segment 0 behind a prefix word, with the first v and w registers given. -/
def st (vs ws : List Word) (pfx : Option Word := none) (tids : List Nat := [0]) : State :=
  let s := installWord State.reset 0
  let s := { s with agenda := [], issue := some { slot := 0, pc := 0, tids := tids, handler := false, pfx := pfx } }
  match s.party? 0 with
  | some p =>
    s.setParty 0 { p with
      w := ws ++ p.w.drop ws.length
      threads := p.threads.map fun t => { t with v := vs ++ t.v.drop vs.length } }
  | none => s

def onL (f : Launch → Launch) (s : State) : State := { s with launches := s.launches.map f }
def onP (f : Party → Party) (s : State) : State := match s.party? 0 with | some p => s.setParty 0 (f p) | none => s
def onT (f : Thread → Thread) (s : State) : State := onP (fun p => { p with threads := p.threads.map f }) s
/-- The group stands at another PC. -/
def withPc (pc : Pc) (s : State) : State :=
  let s := onT (fun t => { t with pc := pc }) s
  { s with issue := s.issue.map fun g => { g with pc := pc } }
/-- The launch has a handler at a PC. -/
def handlerAt (h : Nat) : State → State := onL fun l => { l with record := setFld l.record 32 16 h }
/-- The group is in handler mode. -/
def inHandler (s : State) : State :=
  let s := onT (fun t => { t with handler := true }) s
  { s with issue := s.issue.map fun g => { g with handler := true } }

/-- The context of the issuing group, where there is one. -/
def cxOf (s : State) (i : Instr) : Cx :=
  (cx? s i).getD
    { slot := 0, issue := ⟨0, 0, [], false, none⟩, party := startParty (installLaunch 0) (newBlock 0 0 0 0 0 0 0 0 []) 0,
      launch := installLaunch 0, form := formOf (fun _ => 0) (defaultPfx .none) i, p := defaultPfx .none, i := i,
      d := 0, a := 0, b := 0, npc := 0, atEnd := false }

/-- The state after an answer, where there is one. -/
def after {α : Type} (o : Host.Outcome State Fault Refusal) (d : α) (f : State → α) : α :=
  match o with
  | .next t => f t
  | .fault _ | .refused _ => d
/-- Register v n of thread k of slot 0 after an instruction. -/
def vAfter (i : Instr) (s : State) (k n : Nat) : Nat :=
  after (exec i s) 0 fun t => match t.party? 0 with | some p => ((p.thread k).v.getD n 0#32).toNat | none => 0
/-- Registers v n and v n+1 as one value. -/
def vvAfter (i : Instr) (s : State) (k n : Nat) : Nat := vAfter i s k n + 2 ^ 32 * vAfter i s k (n + 1)
/-- Register w n of slot 0 after an instruction. -/
def wAfter (i : Instr) (s : State) (n : Nat) : Nat :=
  after (exec i s) 0 fun t => match t.party? 0 with | some p => (p.w.getD n 0#32).toNat | none => 0
/-- A fact of thread k of slot 0 after an instruction. -/
def tAfter {α : Type} (i : Instr) (s : State) (k : Nat) (d : α) (f : Thread → α) : α :=
  after (exec i s) d fun t => match t.party? 0 with | some p => f (p.thread k) | none => d

/-! ## Hypotheses as evaluation -/

/-- The facts of Issues. -/
def issuesB (s : State) (i : Instr) : Bool :=
  let cx := cxOf s i
  cx? s i == some cx && (encCheck cx.form cx.p i cx.d cx.a cx.b cx.party.nv cx.issue.handler).isNone && !cx.detReflo
/-- The facts of Runs. -/
def runsB (s : State) (i : Instr) : Bool := issuesB s i && !(cxOf s i).atEnd
/-- The facts of RunsOne, for thread k. -/
def runsOneB (s : State) (i : Instr) (k : Nat) : Bool := runsB s i && (cxOf s i).tids == [k] && (cxOf s i).enabled k

theorem issues_of {s : State} {i : Instr} (h : issuesB s i = true) : Issues s i (cxOf s i) := by
  simp only [issuesB, Bool.and_eq_true, beq_iff_eq, Option.isNone_iff_eq_none, Bool.not_eq_true'] at h
  exact ⟨h.1.1, h.1.2, h.2⟩
theorem runs_of {s : State} {i : Instr} (h : runsB s i = true) : Runs s i (cxOf s i) := by
  simp only [runsB, Bool.and_eq_true, Bool.not_eq_true'] at h
  exact ⟨issues_of h.1, h.2⟩
theorem runsOne_of {s : State} {i : Instr} {k : Nat} (h : runsOneB s i k = true) : RunsOne s i (cxOf s i) k := by
  simp only [runsOneB, Bool.and_eq_true, beq_iff_eq] at h
  exact ⟨runs_of h.1.1, h.1.2, h.2⟩
/-- Instructions that each run in one state. -/
theorem runs_all {s : State} {is : List Instr} (h : is.all (runsB s) = true) : ∀ i ∈ is, Runs s i (cxOf s i) :=
  fun i hi => runs_of (List.all_eq_true.mp h i hi)

/-! ## A package with memory -/

/-- Entry of buffer 1 of context 0: valid, every right, 64 KiB pages, 2 MiB, page table at PPA 65536. -/
def entry1 : Nat := 2 ^ 31 + 0x3F * 2 ^ 16 + 2 ^ 21 * 2 ^ 64 + 65536 * 2 ^ 128
/-- Its page table, of two pages. -/
def dram0 : List Host.Cell :=
  let m := Memory.write [] 65536 8 (2 ^ 63 + 73728)
  let m := Memory.write m 73728 8 (2 ^ 63 + 81920)
  let m := Memory.write m 81920 8 (mkLeaf 0 0 0 16)
  Memory.write m 81928 8 (mkLeaf 0 0 0 17)
/-- Global address of an offset of buffer 1. -/
def buf (off : Nat) : Nat := 2 ^ 44 + off
/-- Window address of an offset of the party's own scratchpad portion. -/
def sEA (off : Nat) : Nat := scrEa 0 off
/-- The words of a 64-bit value. -/
def lo (x : Nat) : Word := BitVec.ofNat 32 x
def hi (x : Nat) : Word := BitVec.ofNat 32 (x / 2 ^ 32)
/-- A launch record with 64 KiB of scratchpad. -/
def scrRecord : Nat := installRecord + 65536 * 2 ^ (8 * 224)
/-- The group of st on a package that has booted, with buffer 1 and the launch's scratchpad at portion base 0 of core 0. -/
def world (vs ws : List Word) (pfx : Option Word := none) (tids : List Nat := [0]) : State :=
  let s := st vs ws pfx tids
  let s := { s with dram := dram0, bufs := [((0, 1), entry1)], booted := true }
  let s := onL (fun l => { l with record := scrRecord }) s
  let s := s.setDie 0 { s.die 0 with cond := .running }
  s.setCore 0 { s.core 0 with region := 524288, portions := [{ base := 0, size := 65536, lid := 0, blin := 0 }] }
/-- Bytes put into core 0's scratchpad. -/
def withScr (off n x : Nat) (s : State) : State := s.setCore 0 { s.core 0 with scr := Memory.write (s.core 0).scr off n x }
/-- A request in front of the agent that moves. -/
def ask (i : Input) (s : State) : State := { s with input := i }
/-- An operation of thread 0 of slot 0. -/
def opOf (id : Nat) (cls : Option Cls) (kind : OpKind) (phase : Phase) : Op :=
  { id := id, slot := 0, lid := 0, tids := [0], live := [0], cls := cls, pc := 0, kind := kind, phase := phase, after := [],
    untilTret := none, work := {} }
def withOp (o : Op) (s : State) : State := { s with ops := s.ops ++ [o] }
/-- A launch whose format slot k is a word. -/
def withSlot (k w : Nat) : State → State := onL fun l => { l with record := setFld l.record (8 * (32 + 4 * k)) 32 w }

end Sys2Proof.Tests
end

