-- ==== Sys2Proof/Tests/Slice0.lean ====
section
/-! SUPPORT. The model's own tests: words written out from the spec's encodings, the well-formedness smoke test, what
instructions of the lane and uniform sets do to a small state, and for each statement about them a state that meets its hypotheses. -/

namespace Sys2Proof.Tests

open Sys2Proof.Machine

set_option Elab.async false

/-! ## Decoding -/

/-- 03_encoding.md, Worked example: encodings. -/
theorem test_decode_worked_example :
    decodeWord 0x39040608#32 = .dfma 4#8 6#8 8#8 ∧ decodeWord 0x2C0C0D0E#32 = .fadd 12#8 13#8 14#8 ∧
    decodeWord 0x61030804#32 = .stw 3#8 8#8 4#8 ∧ decodeWord 0x36040608#32 = .dadd 4#8 6#8 8#8 ∧
    decodeWord 0x000001F0#32 = .iadd 0#8 1#8 0xF0#8 ∧ decodeWord 0x29051234#32 = .li 5#8 0x1234#16 ∧
    decodeWord 0x80282829#32 = .uadd 40#8 40#8 41#8 ∧ decodeWord 0x7C000000#32 = .nop 0#8 0#8 0#8 ∧
    decodeWord 0xB3000000#32 = .unassignedUniformOpcode 0xB3000000#32 := by decide

/-- The words that the chapters' examples assemble: 05_float.md, 06, 07, 09, 12, 21, 25_resilience.md and 04_integer_bit.md. -/
theorem test_decode_chapter_examples :
    decodeWord 0x2F040506#32 = .ffma 4#8 5#8 6#8 ∧ decodeWord 0x440A0C0E#32 = .ddiv 10#8 12#8 14#8 ∧
    decodeWord 0x46030880#32 = .cvt 3#8 8#8 0x80#8 ∧ decodeWord 0x42020301#32 = .sfn 2#8 3#8 1#8 ∧
    decodeWord 0x470409DD#32 = .cvts 4#8 9#8 0xDD#8 ∧ decodeWord 0x52020408#32 = .waitc 2#8 4#8 8#8 ∧
    decodeWord 0x53050400#32 = .xln 5#8 4#8 0#8 ∧ decodeWord 0x76090200#32 = .gath 9#8 2#8 0#8 ∧
    decodeWord 0x79A20018#32 = .srd 0xA2#8 0#8 0x18#8 ∧ decodeWord 0x4CA30412#32 = .bnz 0xA3#8 0x0412#16 ∧
    decodeWord 0x7B000000#32 = .tret 0#8 0#8 0#8 ∧ decodeWord 0x7800C50F#32 = .trap 0#8 0xC5#8 15#8 ∧
    decodeWord 0xAF00282A#32 = .abinit 0#8 40#8 42#8 ∧ decodeWord 0x6A000203#32 = .cpyt 0#8 2#8 3#8 ∧
    decodeWord 0x6E000200#32 = .mma 0#8 2#8 0#8 ∧ decodeWord 0x680C0600#32 = .clnr 12#8 6#8 0#8 ∧
    decodeWord 0x51FFFF0F#32 = .waitn 0xFF#8 0xFF0F#16 ∧ decodeWord 0x75000200#32 = .bkq 0#8 2#8 0#8 ∧
    decodeWord 0x67000000#32 = .fence 0#8 0#8 0#8 ∧ decodeWord 0x2B06F004#32 = .rndc 6#8 0xF0#8 4#8 := by decide

/-- Instruction memory holds a word least significant byte first (R59). -/
theorem test_bytes_of_a_word : decode [0x08#8, 0x06#8, 0x04#8, 0x39#8] = .ok (.dfma 4#8 6#8 8#8, []) := by decide

/-- The words of 03_encoding.md's example that trap, with the cause each gives. -/
theorem test_trapping_words :
    ([(0x7F000001#32, Instr.iadd 0#8 1#8 2#8, Cause.fldRsvd), (0x7F000100#32, .iadd 0#8 1#8 2#8, Cause.pfxField),
      (0x7F000040#32, .iadd 0#8 1#8 2#8, Cause.pfxField), (0x7F0000E0#32, .dadd 4#8 6#8 8#8, Cause.rmRsvd),
      (0x7F000000#32, .iadd 0xC7#8 1#8 2#8, Cause.selRsvd), (0x7F000000#32, .popc 0#8 1#8 2#8, Cause.fldRsvd)] :
      List (Word × Instr × Nat)).all
      (fun e => let cx := cxOf (st [] [] (some e.1)) e.2.1
        encCheck cx.form cx.p e.2.1 cx.d cx.a cx.b cx.party.nv false == some e.2.2) = true := by decide +kernel

/-! ## Well-formedness: a term that each check refuses -/

/-- Unused fields and codes of encoded instructions (R75). -/
theorem test_wf_refuses_unused_fields :
    ([.popc 0 0 1, .clz 0 0 1, .brev 0 0 1, .sfn 0 0 8, .dsqrt 0 0 1, .cvt 0 0 0x66, .cvts 0 0 8, .fclass 0 0 1, .frnd 0 0 1,
      .jmpf 1 0 0, .callf 0 0 1, .ret 0 0 1, .xred 0 0 1, .elect 0 1 0, .vote 0 0 5, .bar 0 0 16, .bara 0 1 0, .exit 0 0 1,
      .ldv 0 0 4, .atom 0 0 0x60, .atomr 0 0 0x0A, .fence 0 1 0, .clnr 0 0 1, .invr 0 0 2, .cpyt 1 0 0, .cpyl 1 0 0, .cpym 1 0 0,
      .arrv 0 0 2, .mma 1 0 0, .mdrn 1 0 0, .lrld 0 0 1, .cfetch 0 0 2, .cutsel 1 0 0, .rast 1 0 0, .rayq 1 0 0, .bkq 1 0 0,
      .coll 1 0 0, .trap 0 0 16, .srd 0 0 7, .swr 0 0 7, .tret 0 0 1, .nop 1 0 0, .bkpt 0 1 0, .ldvq 0 0 1, .upopc 0 0 1,
      .uclz 0 0 1, .ujmpf 1 0 0, .ucallf 0 0 1, .uret 0 0 1, .usrd 0 1 0, .uatomr 0 0 0x13, .uldv 0 0 1, .upref 2 0 0,
      .runbind 1 0 0, .crend 0 0 1, .tbinit 1 0 0, .abinit 1 0 0, .utrap 0 0 16, .unop 0 0 1, .plane 1 0 0, .xPrefix 1,
      .unassignedUniformOpcode 0x80000000] : List Instr).all (fun i => !i.wf) = true := by decide

/-- Events that name a unit the package does not have. -/
theorem test_wf_refuses_absent_places :
    ([.cowComplete { ctx := 0, buf := 0, page := 0 }, .historyFrameFree { ctx := 0, buf := 1, page := 0 } 15,
      .pageWalkComplete 4 { ctx := 0, buf := 1, page := 0 }, .deliverPendingCause 0 64, .partyFrozen 2048,
      .waitcReadReturn 0 0 4 none, .waitcTimeout 2048 0, .segmentLanded 128 0 0, .segmentFetchFault 0 0 64,
      .segmentDropComplete 128 0 0, .dispatchStart 2048, .restoreStart 2048, .saveBegin 2048, .saveDrained 2048,
      .saveDeadlineExpiry 2048, .saveComplete 2048, .partySlotFree 2048, .activateAdmit 12, .snoopForRead 4 0,
      .snoopForOwnership 0 (2 ^ 33), .l2Eviction 4 0, .directoryBackInvalidate (2 ^ 33), .invalidationApply 4] :
      List Instr).all (fun i => !i.wf) = true := by decide

theorem test_wf_accepts :
    ([.popc 0#8 1#8 0#8, .nop 0#8 0#8 0#8, .cvt 3#8 8#8 0x80#8, .cvts 4#8 9#8 0xDD#8, .atom 0#8 0#8 0x50#8,
      .srd 0#8 0#8 0x18#8, .unassignedUniformOpcode 0xB3000000#32] : List Instr).all Instr.wf = true := by decide

theorem test_wf_refuses_absent_units :
    ErrUnit.wf (.row 12 0 0 0) = false ∧ ErrUnit.wf (.lane 848) = false ∧ ErrUnit.wf (.sramWord 128 0) = false ∧
    Component.wf (.bind 4) = false ∧ TempSource.wf (.stack 12) = false ∧ MgmtReg.wf (.keySlot 0) = false ∧
    PageKey.wf { ctx := 0, buf := 0, page := 0 } = false := by decide

/-! ## Instructions of registers: 04_integer_bit.md -/

/-- v10 after an instruction whose v0, v1 and, behind a prefix, C operand v2 are given. -/
def v10 (i : Instr) (a b : Word) (c : Word := 0) (pfx : Option Word := none) : Nat := vAfter i (st [a, b, c] [] pfx) 0 10
/-- v10:v11 after an instruction whose pairs v0:v1, v2:v3 and, behind a prefix, v4:v5 are given. -/
def vv10 (i : Instr) (a b : Nat) (c : Nat := 0) (pfx : Option Word := none) : Nat :=
  vvAfter i (st [lo a, hi a, lo b, hi b, lo c, hi c] [] pfx) 0 10
/-- A prefix whose C is v2, and one whose C is v4. -/
def c2 : Option Word := some 0x7F010000#32
def c4 : Option Word := some 0x7F020000#32

/-- The chapter's table of edges. -/
theorem test_integer_edges :
    v10 (.iadd 10 0 1) 0x7FFFFFFF 1 = 0x80000000 ∧ v10 (.iadds 10 0 1) 0x7FFFFFF0 0x20 = 0x7FFFFFFF ∧
    v10 (.iadds 10 0 1) 0x80000000 0xFFFFFFFF = 0x80000000 ∧ v10 (.imulhi 10 0 1) 0xFFFFFFFF 0xFFFFFFFF = 0 ∧
    v10 (.nmulhi 10 0 1) 0xFFFFFFFF 0xFFFFFFFF = 0xFFFFFFFE ∧ v10 (.imin 10 0 1) 0xFFFFFFFF 1 = 0xFFFFFFFF ∧
    v10 (.nmin 10 0 1) 0xFFFFFFFF 1 = 1 ∧ v10 (.ndiv 10 0 1) 7 0 = 0xFFFFFFFF ∧ v10 (.nrem 10 0 1) 7 0 = 7 ∧
    v10 (.shl 10 0 1) 1 32 = 0 ∧ v10 (.sra 10 0 1) 0x80000000 40 = 0xFFFFFFFF ∧ v10 (.rotl 10 0 1) 0x80000001 33 = 3 ∧
    v10 (.clz 10 0 0) 0 0 = 32 ∧ v10 (.funsh 10 0 1) 0x12345678 0x9ABCDEF0 8 c2 = 0xF0123456 ∧
    v10 (.bfx 10 0 1) 0xF70 0x10804 = 0xFFFFFFF7 ∧ v10 (.bfx 10 0 1) 0xA0000000 0x81C = 0xA ∧
    vv10 (.bext 10 0 2) 0xB5 0xF0 = 0xB ∧ vv10 (.bdep 10 0 2) 5 0xF00 = 0x500 := by decide +kernel

/-- BMM8's three examples (R97), and BPERM with every index 4 and w0's first index 0 (R96). -/
theorem test_matrices :
    vv10 (.bmm8 10 0 2) 0x301 0x0102040810204080 = 0xC080 ∧ vv10 (.bmm8 10 0 2) 0x123456789ABCDEF0 0x8040201008040201 = 0x123456789ABCDEF0 ∧
    vvAfter (.bperm 10 0 0xC8) (st [0x10, 0] (List.replicate 12 0#32 |>.set 0 0x4#32)) 0 10 = 1 := by decide +kernel

/-- Wraps, signs and orders that differ between the signed and the unsigned forms (R88 to R92, R98, R99). -/
theorem test_integer_signs :
    v10 (.isub 10 0 1) 7 0xFFFFFFFE = 9 ∧ vv10 (.iadd64 10 0 2) 0x1FFFFFFFF 0x301 = 0x200000300 ∧
    vv10 (.isub64 10 0 2) 0x301 0x1FFFFFFFF = 0xFFFFFFFE00000302 ∧ v10 (.imul 10 0 1) 7 0xFFFFFFFE = 0xFFFFFFF2 ∧
    v10 (.imad 10 0 1) 7 7 0x7FFFFFFF c2 = 0x80000030 ∧ v10 (.imax 10 0 1) 0xFFFFFFFF 1 = 1 ∧
    v10 (.nmax 10 0 1) 0xFFFFFFFF 1 = 0xFFFFFFFF ∧ v10 (.and 10 0 1) 0xC 0xA = 8 ∧ v10 (.or 10 0 1) 0xC 0xA = 0xE ∧
    v10 (.xor 10 0 1) 0xC 0xA = 6 ∧ v10 (.andn 10 0 1) 0xC 0xA = 4 ∧ v10 (.shr 10 0 1) 0x80000000 31 = 1 ∧
    v10 (.popc 10 0 0) 0xFFFFFFFE 0 = 31 ∧ v10 (.brev 10 0 0) 7 0 = 0xE0000000 ∧ v10 (.bfi 10 0 1) 7 0xFFFFFFFE 0x404 c2 = 0xE7 ∧
    vvAfter (.nmad64 10 0 1) (st [0xFFFFFFFE, 0xFFFFFFFE, 0, 0, 0xFFFFFFFF, 1] [] c4) 0 10 = 0xFFFFFFFE00000003 := by decide +kernel

theorem test_compares_and_immediates :
    v10 (.ieq 10 0 1) 5 5 = 1 ∧ v10 (.ine 10 0 1) 5 5 = 0 ∧ v10 (.ilt 10 0 1) 0xFFFFFFFF 1 = 1 ∧ v10 (.nlt 10 0 1) 0xFFFFFFFF 1 = 0 ∧
    v10 (.ile 10 0 1) 1 0xFFFFFFFF = 0 ∧ v10 (.nle 10 0 1) 1 0xFFFFFFFF = 1 ∧ v10 (.sel 10 0 1) 3 4 9 c2 = 3 ∧
    v10 (.sel 10 0 1) 3 4 0 c2 = 4 ∧ v10 (.li 10 0x8000) 0 0 = 0xFFFF8000 ∧ v10 (.lih 0 0x1234) 5 0 = 0 ∧
    vAfter (.lih 0 0x1234) (st [0xFFFF5678] []) 0 0 = 0x12345678 ∧ vv10 (.rndc 10 0 2) 1 5 = 0xFF7B66EC235A9932 := by decide +kernel

/-- Zero mode writes zero to a masked thread, merge mode nothing, and both go on (03 R68); lat takes what the A pipe writes (R25). -/
theorem test_masks_and_lat :
    vAfter (.iadd 0 1 2) (st [9, 3, 4] [2] (some 0x7F000300#32) [0, 1]) 0 0 = 0 ∧
    vAfter (.iadd 0 1 2) (st [9, 3, 4] [2] (some 0x7F000200#32) [0, 1]) 0 0 = 9 ∧
    vAfter (.iadd 0 1 2) (st [9, 3, 4] [2] (some 0x7F000200#32) [0, 1]) 1 0 = 7 ∧
    tAfter (.iadd 0 1 2) (st [9, 3, 4] [2] (some 0x7F000200#32) [0, 1]) 0 0#16 (·.pc) = 2#16 ∧
    tAfter (.iadd 0 1 2) (st [9, 3, 4] []) 0 0#32 (·.lat) = 7#32 ∧
    tAfter (.ndiv 0 1 2) (st [9, 8, 4] []) 0 5#32 (·.lat) = 0#32 := by decide +kernel

/-- Uniform forms compute once, on w registers (R104). -/
theorem test_uniform_integers :
    wAfter (.uadd 4 0 1) (st [] [7, 0xFFFFFFFE]) 4 = 5 ∧ wAfter (.usub 4 0 1) (st [] [7, 0xFFFFFFFE]) 4 = 9 ∧
    wAfter (.uadd64 4 0 2) (st [] [0xFFFFFFFF, 1, 0x301, 0]) 5 = 2 ∧ wAfter (.umul 4 0 1) (st [] [7, 0xFFFFFFFE]) 4 = 0xFFFFFFF2 ∧
    wAfter (.umad 4 0 1) (st [] [7, 7, 0, 0, 1]) 4 = 50 ∧ wAfter (.uand 4 0 1) (st [] [0xC, 0xA]) 4 = 8 ∧
    wAfter (.uor 4 0 1) (st [] [0xC, 0xA]) 4 = 0xE ∧ wAfter (.uxor 4 0 1) (st [] [0xC, 0xA]) 4 = 6 ∧
    wAfter (.ushl 4 0 1) (st [] [1, 32]) 4 = 0 ∧ wAfter (.ushr 4 0 1) (st [] [0x80000000, 31]) 4 = 1 ∧
    wAfter (.usra 4 0 1) (st [] [0x80000000, 40]) 4 = 0xFFFFFFFF ∧ wAfter (.upopc 4 0 0) (st [] [0xFFFFFFFE]) 4 = 31 ∧
    wAfter (.uclz 4 0 0) (st [] [1]) 4 = 31 ∧ wAfter (.ueq 4 0 1) (st [] [5, 5]) 4 = 1 ∧ wAfter (.une 4 0 1) (st [] [5, 6]) 4 = 1 ∧
    wAfter (.ult 4 0 1) (st [] [0xFFFFFFFF, 1]) 4 = 1 ∧ wAfter (.ule 4 0 1) (st [] [5, 5]) 4 = 1 ∧
    wAfter (.unlt 4 0 1) (st [] [1, 0xFFFFFFFF]) 4 = 1 ∧ wAfter (.unle 4 0 1) (st [] [5, 5]) 4 = 1 ∧
    wAfter (.usel 4 0 1) (st [] [3, 9, 0, 0, 1]) 4 = 3 ∧ wAfter (.umin 4 0 1) (st [] [0xFFFFFFFF, 1]) 4 = 0xFFFFFFFF ∧
    wAfter (.umax 4 0 1) (st [] [0xFFFFFFFF, 1]) 4 = 1 ∧ wAfter (.uli 4 0x8000) (st [] []) 4 = 0xFFFF8000 ∧
    wAfter (.ulih 4 0x1234) (st [] [0, 0, 0, 0, 0x5678]) 4 = 0x12345678 := by decide +kernel

/-! ## Floating point: 05_float.md, 02_number_formats.md -/

/-- The chapter's lines on what a single rounding does, with the flags they name. -/
theorem test_single_rounding :
    v10 (.ffma 10 0 0) 0x3F800800 0 0xBF801000 c2 = 0x33800000 ∧
    tAfter (.ffma 10 0 0) (st [0x3F800800, 0, 0xBF801000] [] c2) 0 99#32 (·.fpcsr) = 0x20#32 ∧
    v10 (.fmul 10 0 0) 0x3F800800 0 = 0x3F801000 ∧
    tAfter (.fmul 10 0 0) (st [0x3F800800] []) 0 0#32 (·.fpcsr &&& 0x1F#32) = 1#32 ∧
    v10 (.fadd 10 0 1) 0x3F801000 0xBF801000 = 0 := by decide +kernel

/-- The chapter's conversions: 300.0 and 500.0 to E4M3. -/
theorem test_overflow_policy :
    v10 (.cvt 10 0 0x41) 0x43960000 0 = 0x79 ∧ v10 (.cvt 10 0 0x41) 0x43FA0000 0 = 0x7E := by decide +kernel

/-- Exact results in both formats, and IEEE 754's special cases (R110 to R120). -/
theorem test_float_results :
    v10 (.fsub 10 0 1) 0x40700000 0x40100000 = 0x3FC00000 ∧ v10 (.fdiv 10 0 1) 0x3F800000 0x40400000 = 0x3EAAAAAB ∧
    vv10 (.dadd 10 0 2) 0x3FF8000000000000 0x4002000000000000 = 0x400E000000000000 ∧
    vv10 (.dsub 10 0 2) 0x400E000000000000 0x4002000000000000 = 0x3FF8000000000000 ∧
    vv10 (.dmul 10 0 2) 0x3FF8000000000000 0x4000000000000000 = 0x4008000000000000 ∧
    vv10 (.dfma 10 0 2) 0x3FF8000000000000 0x4000000000000000 0x3FE0000000000000 c4 = 0x400C000000000000 ∧
    vv10 (.ddiv 10 0 2) 0x3FF0000000000000 0x4008000000000000 = 0x3FD5555555555555 ∧
    vvAfter (.dsqrt 10 0 0) (st [0, 0x40000000] []) 0 10 = 0x3FF6A09E667F3BCD ∧
    v10 (.fscale 10 0 1) 0x3FC00000 2 = 0x40C00000 ∧ vvAfter (.dscale 10 0 2) (st [0, 0x3FF80000, 2] []) 0 10 = 0x4018000000000000 ∧
    v10 (.frnd 10 0 0) 0x40200000 0 = 0x40000000 ∧ v10 (.fadd 10 0 1) 0x7F800000 0xFF800000 = 0x7FC00000 := by decide +kernel

theorem test_float_compares :
    v10 (.fmin 10 0 1) 0x3F800000 0x7FC00000 = 0x3F800000 ∧ v10 (.fmax 10 0 1) 0x80000000 0 = 0 ∧
    v10 (.feq 10 0 1) 0x80000000 0 = 1 ∧ v10 (.flt 10 0 1) 0xBF800000 0x3F800000 = 1 ∧ v10 (.fle 10 0 1) 0x7FC00000 0 = 0 ∧
    v10 (.funo 10 0 1) 0x7FC00000 0 = 1 ∧ vAfter (.deq 10 0 2) (st [0, 0x80000000, 0, 0] []) 0 10 = 1 ∧
    vAfter (.dlt 10 0 2) (st [0, 0xBFF00000, 0, 0x3FF00000] []) 0 10 = 1 ∧
    vAfter (.dle 10 0 2) (st [0, 0x3FF00000, 0, 0xBFF00000] []) 0 10 = 0 ∧
    vAfter (.duno 10 0 2) (st [0, 0x7FF80000, 0, 0] []) 0 10 = 1 ∧
    vvAfter (.dmin 10 0 2) (st [0, 0xBFF00000, 0, 0x3FF00000] []) 0 10 = 0xBFF0000000000000 ∧
    vvAfter (.dmax 10 0 2) (st [0, 0xBFF00000, 0, 0x3FF00000] []) 0 10 = 0x3FF0000000000000 ∧
    v10 (.pfmah 10 0 1) 0x40003C00 0x42004000 0x3C000000 c2 = 0x47004000 ∧
    v10 (.pfmab 10 0 1) 0x40003F80 0x40404000 0 c2 = 0x40C04000 ∧ v10 (.sfn 10 0 0) 0x40800000 0 = 0x3E800000 := by decide +kernel

/-- Through a CVTS slot of E4M3 under NONSAT, 500.0 is the NaN 0x7F and raises NV, which traps FP_INVALID with sr.tinfo 0x47
under NVT 1 (05_float.md, Worked examples). -/
theorem test_cvts_of_500 :
    let s := withSlot 5 0x00100005 (handlerAt 9 (st [0x43FA0000] []))
    let t := onT (fun t => { t with fpcsr := t.fpcsr ||| 0x800#32 }) s
    vAfter (.cvts 10 0 5) s 0 10 = 0x7F ∧ tAfter (.cvts 10 0 5) s 0 0#32 (·.fpcsr &&& 0x1F#32) = 0x10#32 ∧
    tAfter (.cvts 10 0 5) t 0 0#32 (·.cause) = 0x20#32 ∧ tAfter (.cvts 10 0 5) t 0 0#32 (·.tinfo) = 0x47#32 ∧
    tAfter (.cvts 10 0 5) t 0 0#16 (·.pc) = 9#16 := by decide +kernel

/-- FCLASS of −0.0, and of the positive subnormal that its pair is as binary64 (R119). -/
theorem test_fclass : v10 (.fclass 10 0 0) 0x80000000 0 = 0x00200008 := by decide +kernel

/-- The MXFP4 block of 02_number_formats.md: 5.0, −0.3, 1.25, 40.0 and zeros under RNE. -/
theorem test_mxfp4_block :
    (mxEncode 0x1109 1 (([0x40A00000, 0xBE99999A, 0x3FA00000, 0x42200000] ++ List.replicate 28 0).map fun x =>
      (Fmt.f32.decode x, 0))) = ([1, 8, 0, 6] ++ List.replicate 28 0, 0x82) := by decide +kernel

/-- SFN results that R114 allows and forbids: 1/sqrt 3, log2 3, 2^1.5, sin 1, cos 1 and tanh 1 to the nearest, by hand. -/
theorem test_sfn_bounds :
    [(1, 3, 0x3F13CD3A), (3, 3, 0x3FCAE00D), (5, 1, 0x3F576AA4), (6, 1, 0x3F0A5140), (7, 1, 0x3F42F7D6)].all (fun (c, k, x) =>
      (sfnNear c false k 0).allows x && !(sfnNear c false k 0).allows (x + 64) && !(sfnNear c false k 0).allows (x - 64)) = true ∧
    (sfnNear 4 false 3 (-1)).allows 0x403504F3 = true ∧ (sfnNear 4 false 3 (-1)).allows 0x403504F7 = false := by decide +kernel

/-! ## Witnesses: instructions of registers (LaneComputes, UniComputes, FpCompletes) -/

/-- The lane instructions of IntegerArithmeticCompletes, LogicAndShiftsComplete, BitFieldsAndMatricesComplete and
ComparesSelectAndImmediatesComplete each run, masked threads among their group. -/
theorem witness_lane_integers :
    let s := st [5, 7, 1, 2, 3, 4] [2] (some 0x7F000300#32) [0, 1]
    ∀ i ∈ ([.iadd 0 2 4, .isub 0 2 4, .iadd64 0 2 4, .isub64 0 2 4, .imul 0 2 4, .imulhi 0 2 4, .nmulhi 0 2 4, .imad 0 2 4,
      .nmad64 0 2 4, .imin 0 2 4, .imax 0 2 4, .nmin 0 2 4, .nmax 0 2 4, .iadds 0 2 4, .ndiv 0 2 4, .nrem 0 2 4, .and 0 2 4,
      .or 0 2 4, .xor 0 2 4, .andn 0 2 4, .shl 0 2 4, .shr 0 2 4, .sra 0 2 4, .rotl 0 2 4, .funsh 0 2 4, .popc 0 2 0,
      .clz 0 2 0, .brev 0 2 0, .bfx 0 2 4, .bfi 0 2 4, .bdep 0 2 4, .bext 0 2 4, .bmm8 0 2 4, .ieq 0 2 4, .ine 0 2 4,
      .ilt 0 2 4, .ile 0 2 4, .nlt 0 2 4, .nle 0 2 4, .sel 0 2 4, .rndc 0 2 4, .li 0 5, .lih 0 5] : List Instr),
      Runs s i (cxOf s i) := runs_all (by decide +kernel)

/-- BPERM with its controls in w20 to w31. -/
theorem witness_bperm :
    let s := st [5, 7, 1, 2] []
    Runs s (.bperm 0 2 0xDC) (cxOf s (.bperm 0 2 0xDC)) ∧ (cxOf s (.bperm 0 2 0xDC)).breg = .w 20 :=
  ⟨runs_of (by decide +kernel), by decide +kernel⟩

theorem witness_uniform_integers :
    let s := st [] [1, 2, 3, 4, 5, 6] none [0, 3]
    ∀ i ∈ ([.uadd 0 2 4, .usub 0 2 4, .uadd64 0 2 4, .umul 0 2 4, .umad 0 2 4, .uand 0 2 4, .uor 0 2 4, .uxor 0 2 4,
      .ushl 0 2 4, .ushr 0 2 4, .usra 0 2 4, .upopc 0 2 0, .uclz 0 2 0, .ueq 0 2 4, .une 0 2 4, .ult 0 2 4, .ule 0 2 4,
      .unlt 0 2 4, .unle 0 2 4, .usel 0 2 4, .umin 0 2 4, .umax 0 2 4, .uli 0 5, .ulih 0 5] : List Instr),
      Runs s i (cxOf s i) := runs_all (by decide +kernel)

/-- The arithmetic of FloatArithmeticCompletes and FloatComparesAndConversionsComplete, with what each thread is given. -/
def fpItems : List (Instr × FpOp) :=
  [(.fadd 0 2 4, rounded (addOf .f32)), (.fsub 0 2 4, rounded (subOf .f32)), (.fmul 0 2 4, rounded (mulOf .f32)),
   (.ffma 0 2 4, rounded fun e o => fmaOf .f32 e 0 o.a o.b o.c), (.dadd 0 2 4, rounded (addOf .f64)),
   (.dsub 0 2 4, rounded (subOf .f64)), (.dmul 0 2 4, rounded (mulOf .f64)),
   (.dfma 0 2 4, rounded fun e o => fmaOf .f64 e 0 o.a o.b o.c), (.fdiv 0 2 4, rounded (divOf .f32)),
   (.ddiv 0 2 4, rounded (divOf .f64)), (.dsqrt 0 2 0, rounded (sqrtOf .f64)), (.fscale 0 2 4, rounded (scaleOf .f32)),
   (.dscale 0 2 4, rounded (scaleOf .f64)), (.frnd 0 2 0, rounded fun e o => integralOf .f32 e o.a),
   (.cvt 0 2 0x10, rounded fun e o => cvtOf 0x10 e o.a), (.fmin 0 2 4, unrounded (minMaxOf .f32 false)),
   (.fmax 0 2 4, unrounded (minMaxOf .f32 true)), (.dmin 0 2 4, unrounded (minMaxOf .f64 false)),
   (.dmax 0 2 4, unrounded (minMaxOf .f64 true)), (.feq 0 2 4, unrounded (compareOf .f32 eqRel false false)),
   (.flt 0 2 4, unrounded (compareOf .f32 ltRel false true)), (.fle 0 2 4, unrounded (compareOf .f32 leRel false true)),
   (.funo 0 2 4, unrounded (compareOf .f32 noRel true false)), (.deq 0 2 4, unrounded (compareOf .f64 eqRel false false)),
   (.dlt 0 2 4, unrounded (compareOf .f64 ltRel false true)), (.dle 0 2 4, unrounded (compareOf .f64 leRel false true)),
   (.duno 0 2 4, unrounded (compareOf .f64 noRel true false)), (.sfn 0 2 0, unrounded fun fp o => sfnOf 0 fp o.a),
   (.pfmah 0 2 4, packedOp .f16), (.pfmab 0 2 4, packedOp .bf16),
   (.fclass 0 2 0, fun _ _ _ => (0, 0, 0))]

theorem witness_floats :
    let s := st [0, 0, 0, 0x3FF80000, 0, 0x40000000] [] none [0, 1]
    ∀ e ∈ fpItems, Runs s e.1 (cxOf s e.1) ∧ ∀ k ∈ (cxOf s e.1).tids, (cxOf s e.1).invalid s e.2 k = false := by
  intro s e he
  have h : fpItems.all (fun e => runsB s e.1 && (cxOf s e.1).tids.all fun k => !(cxOf s e.1).invalid s e.2 k) = true := by
    decide +kernel
  have h := List.all_eq_true.mp h e he
  simp only [Bool.and_eq_true, List.all_eq_true, Bool.not_eq_true'] at h
  exact ⟨runs_of h.1, h.2⟩

/-- CVTS: a slot that is not empty, and a thread that no invalid operation meets. -/
theorem witness_cvts :
    let s := withSlot 5 0x00100005 (st [0, 0, 0x3F800000] [])
    let i := Instr.cvts 0 2 5
    Runs s i (cxOf s i) ∧ (cxOf s i).launch.fmtSlot 5 = 0x00100005 ∧ slotEfmt ((cxOf s i).launch.fmtSlot 5) ≠ 1 :=
  ⟨runs_of (by decide +kernel), by decide +kernel⟩

/-- FP_INVALID: NVT is 1 and the sum of the infinities raises NV. -/
theorem witness_fp_invalid :
    let s := handlerAt 9 (onT (fun t => { t with fpcsr := t.fpcsr ||| 0x800#32 }) (st [0, 0, 0x7F800000, 0xFF800000] []))
    let i := Instr.fadd 0 2 3
    Runs s i (cxOf s i) ∧ (cxOf s i).hpc ≠ 0#16 ∧ (∀ k ∈ (cxOf s i).tids, ((cxOf s i).party.thread k).handler = false) ∧
      (cxOf s i).invalid s (rounded (addOf .f32)) 0 = true :=
  ⟨runs_of (by decide +kernel), by decide +kernel⟩
/-- The same for every instruction that raises NV: v2 holds signalling NaNs of f32, f16 and bf16, v2:v3 one of f64. -/
theorem witness_every_fp_invalid :
    let s := handlerAt 9 (onT (fun t => { t with fpcsr := t.fpcsr ||| 0x800#32 })
      (withSlot 5 0x00100005 (st [0, 0, 0x7F907D00, 0x7FF00001, 0, 0x40000000] [])))
    ∀ e ∈ (Instr.cvts 0 2 5, slotOp 5) :: fpItems.dropLast, Runs s e.1 (cxOf s e.1) ∧ (cxOf s e.1).hpc ≠ 0#16 ∧
      ((cxOf s e.1).tids = [0] ∧ ((cxOf s e.1).party.thread 0).handler = false) ∧ (cxOf s e.1).invalid s e.2 0 = true := by
  intro s e he
  have h : ((Instr.cvts 0 2 5, slotOp 5) :: fpItems.dropLast).all (fun e => runsB s e.1 && ((cxOf s e.1).hpc != 0#16 &&
      ((cxOf s e.1).tids == [0] && !((cxOf s e.1).party.thread 0).handler) && (cxOf s e.1).invalid s e.2 0)) = true := by
    decide +kernel
  have h := List.all_eq_true.mp h e he
  simp only [Bool.and_eq_true, bne_iff_ne, beq_iff_eq, Bool.not_eq_true'] at h
  exact ⟨runs_of h.1, h.2.1.1, h.2.1.2, h.2.2⟩

/-- A NaN operand, and a finite encoding of a format. -/
theorem witness_nan_and_encoding :
    (inVal .f32 0 0x7FC00000).isNan = true ∧ Fmt.f16.decode 0x3C00 = .fin false 0x400 (-10) ∧ 0x3C00 < 2 ^ (Fmt.f16.e + Fmt.f16.f + 1) := by
  decide +kernel

/-! ## Witnesses: encoding, fetch and traps -/

theorem witness_encodes : ∃ w, (Instr.iadd 1 2 3).wf = true ∧ encode (.iadd 1 2 3) = some w := ⟨_, rfl, rfl⟩

/-- The agenda gives a step to the group, whose segment holds a word: an IADD, or a prefix and an IADD. -/
def fetching (w : Word) : State :=
  let s := { st [5, 7] [] with issue := none, agenda := [.issue 0 0#16 false [0] .none] }
  s.setCore 0 { s.core 0 with segs := [((0, 0), { st := .landed, image := [(0, w), (1, 0x00020001#32)] })] }

theorem witness_step_issues :
    let s := { fetching 0x00020001#32 with agenda := [], input := .none }
    groupOk s 0 0#16 false [0] = true ∧ (s.party? 0).isSome = true ∧ fetchWord s 0 0 0 = some 0x00020001#32 ∧
      isPrefix (decodeWord 0x00020001#32) = false := by decide +kernel
theorem witness_step_issues_a_pair :
    let s := { fetching 0x7F000000#32 with agenda := [], input := .none }
    let s2 := { s with issue := some { slot := 0, pc := 0, tids := [0], handler := false, pfx := none } }
    groupOk s 0 0#16 false [0] = true ∧ fetchWord s 0 0 0 = some 0x7F000000#32 ∧ decodeWord 0x7F000000#32 = .xPrefix 0 ∧
      (cx? s2 (.xPrefix 0)).isSome = true ∧ fetchWord s 0 0 1 = some 0x00020001#32 := by decide +kernel
theorem witness_prefix :
    let s := { fetching 0x7F000000#32 with issue := some { slot := 0, pc := 0, tids := [0], handler := false, pfx := none } }
    cx? s (.xPrefix 0) = some (cxOf s (.xPrefix 0)) ∧ (cxOf s (.xPrefix 0)).issue.pfx = none ∧
      fetchWord s (cxOf s (.xPrefix 0)).core 0 1 = some 0x00020001#32 := by decide +kernel

/-- Words that fail a check in a group that can take the cause. -/
theorem witness_failing_word :
    let s := handlerAt 9 (st [5, 7] [])
    ∀ i ∈ ([.iadd 0xC7 0 0, .nop 1 0 0, .srd 0 7 0, .ldd 1 0 0] : List Instr), cx? s i = some (cxOf s i) ∧
      (encCheck (cxOf s i).form (cxOf s i).p i (cxOf s i).d (cxOf s i).a (cxOf s i).b (cxOf s i).party.nv (cxOf s i).issue.handler).isSome = true ∧
      (cxOf s i).hpc ≠ 0#16 ∧ ∀ k ∈ (cxOf s i).tids, ((cxOf s i).party.thread k).handler = false := by decide +kernel
theorem witness_trap_instructions :
    let s := handlerAt 9 (st [5, 7] [5])
    cx? s (.unassignedUniformOpcode 0xB3010203) = some (cxOf s (.unassignedUniformOpcode 0xB3010203)) ∧
    (∀ i ∈ ([.trap 0 0 3, .utrap 0 0 3, .bkpt 0 0 9] : List Instr), Runs s i (cxOf s i)) ∧
    (∀ i ∈ ([.trap 0 0 3, .utrap 0 0 3, .bkpt 0 0 9] : List Instr), (cxOf s i).hpc ≠ 0#16 ∧
      ∀ k ∈ (cxOf s i).tids, ((cxOf s i).party.thread k).handler = false) :=
  ⟨by decide +kernel, runs_all (by decide +kernel), by decide +kernel⟩
/-- A launch without a handler escalates. -/
theorem witness_escalation :
    let s := st [5, 7] []
    Issues s (.bkpt 0 0 9) (cxOf s (.bkpt 0 0 9)) ∧ (cxOf s (.bkpt 0 0 9)).tids = [0] ∧ (cxOf s (.bkpt 0 0 9)).enabled 0 = true ∧
      (cxOf s (.bkpt 0 0 9)).hpc = 0#16 ∧ (cxOf s (.bkpt 0 0 9)).party.esc = none ∧
      encCheck (cxOf s (.nop 1 0 0)).form (cxOf s (.nop 1 0 0)).p (.nop 1 0 0) 1 0 0 (cxOf s (.nop 1 0 0)).party.nv false =
        some Cause.fldRsvd :=
  ⟨issues_of (by decide +kernel), by decide +kernel⟩
theorem witness_escalated_party :
    let s := onP (fun p => { p with esc := some { cause := 1, faddr := 0, pc := 0, tid := 0 } }) (st [] [])
    (s.party? 0).any (fun p => p.esc.isSome) = true := by decide +kernel
theorem witness_tret :
    let s := onT (fun t => { t with tpc := 7 }) (inHandler (handlerAt 9 (st [] [])))
    let cx := cxOf s (.tret 0 0 0)
    Issues s (.tret 0 0 0) cx ∧ ∀ k ∈ cx.tids, (cx.party.thread k).handler = true ∧
      segCheck s cx.core cx.launch ((cx.party.thread k).tpc.extractLsb' 10 6).toNat = none :=
  ⟨issues_of (by decide +kernel), by decide +kernel⟩

/-- Handler entry of 09_traps.md's example: BREAK with its tag at the instruction's own PC, TRAP's code at the next (R226). -/
theorem test_trap_entry :
    let s := handlerAt 0x400 (withPc 0x12 (st [5] []))
    tAfter (.bkpt 0 0 9) s 0 0#32 (·.cause) = 0x19#32 ∧ tAfter (.bkpt 0 0 9) s 0 0#32 (·.tinfo) = 9#32 ∧
    tAfter (.bkpt 0 0 9) s 0 0#32 (·.tpc) = 0x12#32 ∧ tAfter (.trap 0 0 15) s 0 0#32 (·.cause) = 0x3F#32 ∧
    tAfter (.trap 0 0 15) s 0 0#32 (·.tpc) = 0x13#32 ∧ tAfter (.trap 0 0 15) s 0 0#16 (·.pc) = 0x400#16 ∧
    tAfter (.trap 0 0 15) s 0 false (·.handler) = true := by decide +kernel
theorem test_tret_returns :
    let s := onT (fun t => { t with tpc := 0x13 }) (inHandler (handlerAt 0x20 (st [] [])))
    tAfter (.tret 0 0 0) s 0 0#16 (·.pc) = 0x13#16 ∧ tAfter (.tret 0 0 0) s 0 true (·.handler) = false := by decide +kernel

/-! ## Witnesses and tests: control, waits and status -/

/-- A handler at 9; v0 = 5, v1 = 0, v2 a PC in segment 1; w0 = 7, w1 = 0. -/
def ctl : State := handlerAt 9 (st [5, 0, 0x0410] [7, 0])

theorem witness_branches :
    (∀ i ∈ ([.bnz 0 0x10, .bz 1 0x10, .ubnz 0 0x10, .ubz 1 0x10, .bnz 0 0x410, .ubz 0 0x410] : List Instr), Runs ctl i (cxOf ctl i)) ∧
    (∀ i ∈ ([.bnz 0 0x10, .bz 1 0x10, .ubnz 0 0x10, .ubz 1 0x10] : List Instr), segOf 0x10#16 = segOf (cxOf ctl i).pc) ∧
    (∀ i ∈ ([.bnz 0 0x410, .ubz 0 0x410] : List Instr), segOf 0x410#16 ≠ segOf (cxOf ctl i).pc ∧ (cxOf ctl i).hpc ≠ 0#16 ∧
      ∀ k ∈ (cxOf ctl i).tids, ((cxOf ctl i).party.thread k).handler = false) :=
  ⟨runs_all (by decide +kernel), by decide +kernel, by decide +kernel⟩
theorem witness_flow_end :
    let s := withPc 1023 ctl
    ∀ i ∈ ([.iadd 0 1 2, .nop 0 0 0] : List Instr), Issues s i (cxOf s i) ∧ (cxOf s i).atEnd = true ∧ (cxOf s i).hpc ≠ 0#16 := by
  intro s i hi
  have h : ([.iadd 0 1 2, .nop 0 0 0] : List Instr).all (fun i => issuesB s i && (cxOf s i).atEnd && (cxOf s i).hpc != 0#16) = true := by
    decide +kernel
  have h := List.all_eq_true.mp h i hi
  simp only [Bool.and_eq_true, bne_iff_ne] at h
  exact ⟨issues_of h.1.1, h.1.2, h.2⟩
/-- Taken and not taken (R131). -/
theorem test_branches :
    tAfter (.bnz 0 0x10) ctl 0 0#16 (·.pc) = 0x10#16 ∧ tAfter (.bnz 1 0x10) ctl 0 0#16 (·.pc) = 1#16 ∧
    tAfter (.bz 1 0x10) ctl 0 0#16 (·.pc) = 0x10#16 ∧ tAfter (.ubnz 0 0x10) ctl 0 0#16 (·.pc) = 0x10#16 ∧
    tAfter (.ubz 0 0x10) ctl 0 0#16 (·.pc) = 1#16 ∧ tAfter (.bnz 1 0x410) ctl 0 0#32 (·.cause) = 0x11#32 ∧
    tAfter (.bnz 1 0x410) ctl 0 0#32 (·.tinfo) = 1#32 := by decide +kernel

/-- Segment 1 has FAILED at address 77, segment 2 is DROPPING, segment 3 is ABSENT; segment 4 is none of the launch's. -/
def segs4 : State :=
  onL (fun l => { l with record := setFld l.record (72 * 8) 64 0xF })
    (ctl.setCore 0 { ctl.core 0 with
      segs := (ctl.core 0).segs ++ [((0, 1), { st := .failed 77, image := [] }), ((0, 2), { st := .dropping, image := [] })] })
theorem witness_jumps :
    let js : List Instr := [.jmpf 0 0 0, .callf 3 0 0, .ret 0 0 0]
    let us : List Instr := [.ujmpf 0 0 0, .ucallf 2 0 0, .uret 0 0 0]
    (∀ i ∈ js ++ us, Runs ctl i (cxOf ctl i)) ∧
    (∀ i ∈ js, ∀ k ∈ (cxOf ctl i).tids, JumpOk ctl (cxOf ctl i) ((cxOf ctl i).operands ctl k).a) ∧
    (∀ i ∈ us, JumpOk ctl (cxOf ctl i) ((cxOf ctl i).uniOperands ctl).a) :=
  ⟨runs_all (by decide +kernel), by simp only [JumpOk]; decide +kernel, by simp only [JumpOk]; decide +kernel⟩
theorem witness_jump_causes :
    let s := segs4
    let cx := cxOf s (.jmpf 0 2 0)
    Runs s (.jmpf 0 2 0) cx ∧ cx.hpc ≠ 0#16 ∧ jumpCause s cx 0x0410 = some { cause := 0x13, taddr := 77, tinfo := 1 } ∧
      jumpCause s cx 0x0810 = none ∧ jumpCause s cx 0x0C10 = some { cause := 0x12, tinfo := 3 } ∧
      jumpCause s cx 0x1010 = some { cause := 0x14, tinfo := 4 } :=
  ⟨runs_of (by decide +kernel), by decide +kernel⟩
theorem witness_ujmpf_cause :
    let s := onP (fun p => { p with w := 0x410#32 :: p.w.drop 1 }) segs4
    let cx := cxOf s (.ujmpf 0 0 0)
    Runs s (.ujmpf 0 0 0) cx ∧ (jumpCause s cx (cx.uniOperands s).a).isSome = true :=
  ⟨runs_of (by decide +kernel), by decide +kernel⟩
/-- A call writes the next PC (R133). -/
theorem test_calls :
    vAfter (.callf 3 0 0) ctl 0 3 = 1 ∧ tAfter (.callf 3 0 0) ctl 0 0#16 (·.pc) = 5#16 ∧ wAfter (.ucallf 2 0 0) ctl 2 = 1 ∧
    tAfter (.uret 0 0 0) ctl 0 0#16 (·.pc) = 7#16 ∧ tAfter (.jmpf 0 2 0) segs4 0 0#32 (·.cause) = 0x13#32 ∧
    tAfter (.jmpf 0 2 0) segs4 0 0#64 (·.taddr) = 77#64 := by decide +kernel

theorem witness_nops_and_waitn :
    ∀ i ∈ ([.nop 0 0 0, .unop 0 0 0, .waitn 0xFF 0xFFF0] : List Instr), Runs ctl i (cxOf ctl i) := runs_all (by decide +kernel)
/-- WAITN holds a thread above its threshold and lets one at it pass (R137). -/
theorem test_waitn :
    tAfter (.waitn 0xFF 0xFFF1) (onT (fun t => { t with cnt := { ld := 2 } }) ctl) 0 9#16 (·.pc) = 0#16 ∧
    tAfter (.waitn 0xFF 0xFFF1) (onT (fun t => { t with cnt := { ld := 1 } }) ctl) 0 9#16 (·.pc) = 1#16 := by decide +kernel

/-- A condition block of one COUNT condition at scratchpad offset 128: ld at most 1; n loads are outstanding. -/
def waiting (n : Nat) : State :=
  let s := world [0, 0, 0, 0, lo (sEA 128), hi (sEA 128), 0, 0, 0xC0] []
  withScr 128 32 (2 * 2 ^ 28 + 2 ^ 128 * 0xFFFFFF1) (onT (fun t => { t with cnt := { ld := n } }) s)
/-- The clauses of WAITC, latching at once and waiting. -/
theorem witness_waitc : ∀ n ∈ [0, 3],
    let s := waiting n
    let i := Instr.waitc 9 4 8
    let cx := cxOf s i
    Runs s i cx ∧ cx.tids = [0] ∧ cx.enabled 0 = true ∧ (cx.operands s 0).b = 0xC0 ∧ (cx.operands s 0).a % 32 = 0 ∧
    isAcc (cx.operands s 0).a = false ∧ checkEa s cx.launch { size := 32, r := true } (cx.operands s 0).a = none ∧
    openAccesses s cx.slot [0] cx.issue.handler = [] ∧
    readEa s (cx.ag s 0) (cx.operands s 0).a 32 = .ok (2 * 2 ^ 28 + 2 ^ 128 * 0xFFFFFF1) s ∧
    (condOf (2 * 2 ^ 28 + 2 ^ 128 * 0xFFFFFF1) 0).kind = 2 ∧ condBad (2 * 2 ^ 28 + 2 ^ 128 * 0xFFFFFF1) 0 = false ∧
    (condOf (2 * 2 ^ 28 + 2 ^ 128 * 0xFFFFFF1) 0).scope = 0 := by
  intro n hn
  have h : [0, 3].all (fun n => runsB (waiting n) (.waitc 9 4 8)) = true := by decide +kernel
  have h2 : ∀ n ∈ [0, 3], let s := waiting n
      let cx := cxOf s (.waitc 9 4 8)
      cx.tids = [0] ∧ cx.enabled 0 = true ∧ (cx.operands s 0).b = 0xC0 ∧ (cx.operands s 0).a % 32 = 0 ∧
      isAcc (cx.operands s 0).a = false ∧ checkEa s cx.launch { size := 32, r := true } (cx.operands s 0).a = none ∧
      openAccesses s cx.slot [0] cx.issue.handler = [] ∧
      readEa s (cx.ag s 0) (cx.operands s 0).a 32 = .ok (2 * 2 ^ 28 + 2 ^ 128 * 0xFFFFFF1) s ∧
      (condOf (2 * 2 ^ 28 + 2 ^ 128 * 0xFFFFFF1) 0).kind = 2 ∧ condBad (2 * 2 ^ 28 + 2 ^ 128 * 0xFFFFFF1) 0 = false ∧
      (condOf (2 * 2 ^ 28 + 2 ^ 128 * 0xFFFFFF1) 0).scope = 0 := by decide +kernel
  exact ⟨runs_of (List.all_eq_true.mp h n hn), h2 n hn⟩
theorem test_waitc :
    vAfter (.waitc 9 4 8) (waiting 0) 0 9 = 1 ∧ tAfter (.waitc 9 4 8) (waiting 0) 0 9#16 (·.pc) = 1#16 ∧
    tAfter (.waitc 9 4 8) (waiting 3) 0 false (·.hold.isSome) = true := by decide +kernel

theorem witness_status :
    (∀ i ∈ ([.srd 4 0 0, .usrd 6 0 9, .swr 0 0 0x10, .swr 0 0 0x11] : List Instr), Runs ctl i (cxOf ctl i)) ∧
    (cxOf ctl (.srd 4 0 0)).launch.isDet = false ∧
    (∀ k ∈ (cxOf ctl (.srd 4 0 0)).tids, (0, 32) ∈ (cxOf ctl (.srd 4 0 0)).statusOf ctl k) ∧
    (9, 0) ∈ (cxOf ctl (.usrd 6 0 9)).statusOf ctl ((cxOf ctl (.usrd 6 0 9)).tids.headD 0) :=
  ⟨runs_all (by decide +kernel), by decide +kernel, by decide +kernel, by decide +kernel⟩
/-- USRD of sr.cnt, whose value is the maximum over the group. -/
theorem witness_counter_read :
    Runs ctl (.usrd 6 0 8) (cxOf ctl (.usrd 6 0 8)) ∧ (cxOf ctl (.usrd 6 0 8)).launch.isDet = false ∧ (cxOf ctl (.usrd 6 0 8)).tids ≠ [] :=
  ⟨runs_of (by decide +kernel), by decide +kernel⟩
/-- A handler's SWR of 0xC5 to sr.cause, which stops the party. -/
theorem witness_cause_write :
    let s := inHandler (onT (fun t => { t with v := 0xC5#32 :: t.v.drop 1 }) ctl)
    let i := Instr.swr 0 0 0x18
    Runs s i (cxOf s i) ∧ (cxOf s i).tids = [0] ∧ (cxOf s i).enabled 0 = true ∧ ((cxOf s i).party.thread 0).handler = true ∧
      0 < (cxOf s i).party.threads.length ∧ (cxOf s i).party.esc = none ∧ 0xC0 ≤ ((cxOf s i).operands s 0).a % 256 :=
  ⟨runs_of (by decide +kernel), by decide +kernel⟩
/-- Reads and writes of a number that R27 does not list, of one that may not be read or written so, and of RND 7. -/
theorem witness_status_traps :
    (∀ i ∈ ([.srd 4 0 7, .usrd 6 0 7, .usrd 6 0 1, .swr 0 0 7, .swr 0 0 0x18, .swr 0 5 0x10] : List Instr),
      Runs ctl i (cxOf ctl i) ∧ CanTrap (cxOf ctl i)) ∧
    7 ∉ ((cxOf ctl (.srd 4 0 7)).statusOf ctl 0).map (·.1) ∧
    ∀ k ∈ (cxOf ctl (.swr 0 5 0x10)).tids, ((cxOf ctl (.swr 0 5 0x10)).operands ctl k).wa.extractLsb' 5 3 = 0#3 :=
  ⟨fun i hi => ⟨runs_all (by decide +kernel) i hi, by revert i; simp only [CanTrap]; decide +kernel⟩, by decide +kernel,
    by decide +kernel⟩
/-- sr.fpcsr takes RND 2 from A; in handler mode the trap-state registers take theirs. -/
theorem witness_swr :
    let s := inHandler (onT (fun t => { t with v := 0x45#32 :: t.v.drop 1 }) ctl)
    (∀ i ∈ ([.swr 0 0 0x19, .swr 0 0 0x1A, .swr 0 0 0x1B, .swr 0 0 0x18] : List Instr), Runs s i (cxOf s i)) ∧
    (∀ k ∈ (cxOf s (.swr 0 0 0x10)).tids, ((cxOf s (.swr 0 0 0x10)).party.thread k).handler = true ∧
      ((cxOf s (.swr 0 0 0x10)).operands s k).wa.extractLsb' 5 3 ≠ 0#3 ∧
      ((cxOf s (.swr 0 0 0x10)).operands s k).wa.extractLsb' 5 3 ≠ 7#3 ∧ ((cxOf s (.swr 0 0 0x10)).operands s k).a % 256 < 0xC0) :=
  ⟨runs_all (by decide +kernel), by decide +kernel⟩
/-- SWR to sr.fpcsr clears the flags that A names and keeps NVT (R29, R227). -/
theorem test_swr_and_srd :
    tAfter (.swr 0 0 0x10) (onT (fun t => { t with fpcsr := 0x87F#32, v := 0x745#32 :: t.v.drop 1 }) ctl) 0 0#32 (·.fpcsr) = 0xF5A#32 ∧
    tAfter (.swr 0 0 0x11) (onT (fun t => { t with v := 0xFF000745#32 :: t.v.drop 1 }) ctl) 0 0#32 (·.ver) = 0x745#32 ∧
    vAfter (.srd 4 0 0) ctl 0 4 = 32 ∧ wAfter (.usrd 6 0 0) ctl 6 = 32 := by decide +kernel

/-! ## Witnesses and tests: memory accesses -/

/-- v4:v5 names offset 64 of buffer 1, v6:v7 offset 128 of the scratchpad, w4:w5 offset 64 of buffer 1. -/
def mem (pfx : Option Word := none) (tids : List Nat := [0]) : State :=
  world [0xAABBCCDD, 0x11223344, 0, 0, lo (buf 64), hi (buf 64), lo (sEA 128), hi (sEA 128), 256, 4]
    ([0, 0, 0, 0, lo (buf 64), hi (buf 64), lo (sEA 128), hi (sEA 128), 0x1000005, 5]) pfx tids

theorem witness_loads_and_stores :
    (∀ e ∈ ([(1, true, .ldb 8 4 3), (2, true, .ldh 8 4 3), (4, true, .ldw 8 4 0xFF), (8, true, .ldd 8 4 3), (16, true, .ldq 8 4 3),
        (1, false, .stb 0 6 3), (2, false, .sth 0 6 3), (4, false, .stw 0 6 3), (8, false, .std 0 6 3), (16, false, .stq 0 6 3)] :
        List (Nat × Bool × Instr)), ∀ s ∈ [mem, mem (some 0x7F000200#32) [0, 2]], runsB s e.2.2 = true ∧
      ∀ k ∈ (cxOf s e.2.2).active, let cx := cxOf s e.2.2
        checkEa s cx.launch { size := e.1, align := e.1, r := e.2.1, w := !e.2.1 } (eaAdd (cx.operands s k).a (cx.b.toInt * e.1)) = none) ∧
    ∀ e ∈ ([(4, true, .uldw 8 4 3), (8, true, .uldd 8 4 3), (16, true, .uldq 8 4 3), (4, false, .ustw 8 4 3), (8, false, .ustd 8 4 3)] :
        List (Nat × Bool × Instr)), let s := mem
      let cx := cxOf s e.2.2
      runsB s e.2.2 = true ∧
        checkEa s cx.launch { size := e.1, align := e.1, r := e.2.1, w := !e.2.1 } (eaAdd (cx.uniOperands s).a (cx.b.toInt * e.1)) = none := by
  decide +kernel

/-- Buffer 1 keeps two earlier versions; version 6 is open, 5 published; sr.ver is 6. -/
def versioned : State :=
  onT (fun t => { t with ver := 6 })
    { mem with
      bufs := [((0, 1), entry1 + 4 * 2 ^ 40)],
      snaps := [{ ctx := 0, buf := 1, opn := 6, pub := 5, base := 0, holds := [], owners := [] }] }
theorem witness_versioned_loads :
    ∀ e ∈ ([(4, .ldv 8 4 0x0A), (16, .ldvq 8 4 0x08), (4, .uldv 8 4 0x0A)] : List (Nat × Instr)), let s := versioned
      runsB s e.2 = true ∧ (cxOf s e.2).launch.isDet = false ∧ verKind s (cxOf s e.2).launch (buf 64) = false ∧
        checkEa s (cxOf s e.2).launch { size := e.1, align := e.1, r := true, scr := false, acc := false } (buf 64) = none := by
  decide +kernel

theorem witness_atomics :
    ∀ e ∈ ([(false, .atom 0 4 0x00), (true, .atomr 0 4 0x20), (true, .atomr 8 6 0x09), (true, .uatomr 2 4 0x01)] : List (Bool × Instr)),
      let s := mem
      let cx := cxOf s e.2
      runsB s e.2 = true ∧ checkEa s cx.launch { size := atomSize cx.b.toNat, align := atomSize cx.b.toNat, r := e.1, a := true, acc := false }
        (if e.2 = .atomr 8 6 0x09 then sEA 128 else buf 64) = none := by decide +kernel
/-- One group on one counter (07_memory_access.md, Example): 10, 11, 13 and 16, the word ends at 20; maxmag of −5.0 with 4.0,
−6.0 and a NaN. -/
theorem test_atomic_results :
    atomNew 0x00 10 1 0 = 11 ∧ atomNew 0x00 11 2 0 = 13 ∧ atomNew 0x00 13 3 0 = 16 ∧ atomNew 0x00 16 4 0 = 20 ∧
    atomNew 0x48 0xC0A00000 0x40800000 0 = 0xC0A00000 ∧ atomNew 0x48 0xC0A00000 0xC0C00000 0 = 0xC0C00000 ∧
    atomNew 0x48 0xC0C00000 0x7FC00000 0 = 0xC0C00000 := by decide +kernel

theorem witness_cleans_and_signals :
    (∀ i ∈ ([.clnr 8 4 0, .invr 8 4 0, .invr 8 4 1, .arrv 8 6 0, .arrv 8 4 1, .abinit 0 6 9, .tbinit 0 4 9, .tbinit 0 4 8] : List Instr),
      runsB mem i = true) ∧
    (∀ e ∈ ([(true, .clnr 8 4 0), (false, .invr 8 4 0)] : List (Bool × Instr)),
      let need : Need := { size := 1, r := e.1, w := !e.1, scr := false, acc := false }
      checkEa mem (cxOf mem e.2).launch need (buf 64) = none ∧ checkEa mem (cxOf mem e.2).launch need (buf (64 + 255)) = none) ∧
    checkEa mem (cxOf mem (.arrv 8 6 0)).launch { size := 16, align := 16, a := true, acc := false, buf := false } (sEA 128) = none ∧
    checkEa mem (cxOf mem (.arrv 8 4 1)).launch { size := 16, align := 16, a := true, acc := false, scr := false, buf := true } (buf 64) = none ∧
    accessCause mem (cxOf mem (.tbinit 0 4 8)).launch { size := 16, align := 16, w := true, scr := false, acc := false } (buf 64)
      (.tbinit (buf 64) 5 true none) = none ∧
    (cxOf mem (.tbinit 0 4 8)).launch.tbars.length < 256 ∧ (cxOf mem (.tbinit 0 4 8)).launch.tdown = 0 := by decide +kernel

theorem witness_fences :
    let s := withOp (opOf 3 (some .st) (.store (buf 64) 4 7 0 6 0 false) .issued) (mem (some 0x7F030040#32))
    let cx := cxOf s (.fence 0 0 0)
    Runs s (.fence 0 0 0) cx ∧ cx.active ≠ [] ∧ (∀ k ∈ cx.tids, cx.enabled k = true → fenceWaits s cx k (cx.party.thread k) = false) ∧
      runsB mem (.upref 0 4 0) = true ∧ ∀ line, (l2SliceOf mem 0 line).length + 4 ≤ 2 ^ 15 :=
  ⟨runs_of (by decide +kernel), by decide +kernel, by decide +kernel, by decide +kernel, by
    intro line
    have h : mem.l2 = [] := by decide +kernel
    simp [l2SliceOf, h]⟩

/-! ## Witnesses and tests: cross-lane instructions and barriers -/

/-- The 64 threads of the party stand at a word, v0 of thread t as given. -/
def wholeParty (v : Nat → Word) (pfx : Option Word) (i : Instr) : State :=
  let s := world [] [] pfx (List.range 64)
  let s := onP (fun p => { p with threads := mapI (fun k t => { t with v := v k :: t.v.drop 1 }) 0 p.threads }) s
  let w := (encode i).getD 0#32
  s.setCore 0 { s.core 0 with
    segs := [((0, 0), { st := .landed, image := match pfx with | some p => [(0, p), (1, w)] | none => [(0, w)] })] }
/-- The facts of ArrivesLast but for Runs. -/
abbrev Gathered (s : State) (i : Instr) (cx : Cx) (ps : List Nat) : Prop :=
  (ps = (List.range 64).filter fun t => cx.enabled t && !(cx.party.thread t).exited) ∧ (∀ t ∈ cx.tids, t ∈ ps) ∧ cx.tids ≠ [] ∧
  (∀ t ∈ ps, (cx.party.thread t).pc = cx.pc) ∧ (∀ t ∈ ps, t ∉ cx.tids → (cx.party.thread t).hold = some (.xl cx.xlMask)) ∧
  (∀ t < 64, t ∈ cx.tids ∨ t ∉ ps → (cx.party.thread t).hold = none) ∧ cx.party.threads.length = 64 ∧
  cx.issue.handler = false ∧ waitsGo s cx.slot = true ∧ (∀ t ∈ cx.party.threads, t.deliverable = false) ∧
  fetchInstr s cx.core cx.party.lid cx.pc = some (cx.issue.pfx, i)
def arrivesB (ps : List Nat) (s : State) (i : Instr) : Bool := runsB s i && decide (Gathered s i (cxOf s i) ps)
theorem arrives_last {s : State} {i : Instr} {ps : List Nat} (h : arrivesB ps s i = true) : ArrivesLast s i (cxOf s i) ps :=
  match of_decide_eq_true (Bool.and_eq_true_iff.mp h).2 with
  | ⟨set, mine, someone, here, waits, free, full, normal, goes, unpending, word⟩ =>
    { toRuns := runs_of (Bool.and_eq_true_iff.mp h).1, set, mine, someone, here, waits, free, full, normal, goes, unpending, word }
def crossLane : List (Option Word × Instr) :=
  [(some 0x7F058000#32, .xln 5 0 0), (some 0x7F000000#32, .xred 5 0 0), (none, .elect 5 0 0), (none, .vote 5 0 1)]
/-- Threads 1 to 63 of the party stand held in the instruction, and thread 0 reaches it. -/
def restHeld (s : State) : State :=
  let s := onP (fun p => { p with threads := mapI (fun k t => if k = 0 then t else { t with hold := some (.xl (2 ^ 64 - 1)) }) 0 p.threads }) s
  { s with issue := s.issue.map fun g => { g with tids := [0] } }
theorem witness_cross_lane : ∀ e ∈ crossLane,
    let s := wholeParty (fun k => BitVec.ofNat 32 (100 + k)) e.1 e.2
    ArrivesLast s e.2 (cxOf s e.2) (List.range 64) ∧
      ArrivesLast (restHeld s) e.2 (cxOf (restHeld s) e.2) (List.range 64) := by
  intro e he
  have h : ∀ e ∈ crossLane, let s := wholeParty (fun k => BitVec.ofNat 32 (100 + k)) e.1 e.2
      arrivesB (List.range 64) s e.2 = true ∧ arrivesB (List.range 64) (restHeld s) e.2 = true := by decide +kernel
  exact ⟨arrives_last (h e he).1, arrives_last (h e he).2⟩
/-- A masked exchange with an exiting thread (06_control_wait_crosslane.md, Example): w4:w5 covers threads 0 to 35 and 48 to 51,
thread 49 has exited, A(t) = 100 + t. -/
theorem test_masked_exchange :
    let p := (List.range 64).filter fun t => (t < 36 || (48 ≤ t && t ≤ 51)) && t != 49
    let s := onP (fun q => { q with w := (q.w.set 4 0xFFFFFFFF#32).set 5 0x000F000F#32,
                                    threads := mapI (fun k t => if k == 49 then { t with exited := true } else t) 0 q.threads })
      (wholeParty (fun k => BitVec.ofNat 32 (100 + k)) (some 0x7F058A00#32) (.xln 5 4 0))
    let s := { s with issue := s.issue.map fun g => { g with tids := p } }
    let s := onP (fun q => { q with threads := mapI (fun k t => { t with v := t.v.set 4 (BitVec.ofNat 32 (100 + k)) }) 0 q.threads }) s
    let v5 := fun k => vAfter (.xln 5 4 0) s k 5
    v5 0 = 116 ∧ v5 15 = 131 ∧ v5 16 = 100 ∧ v5 31 = 115 ∧ v5 32 = 148 ∧ v5 33 = 133 ∧ v5 34 = 150 ∧ v5 35 = 151 ∧ v5 48 = 132 ∧
      v5 50 = 134 ∧ v5 51 = 135 := by decide +kernel
/-- XRED adds the 64 threads' values, ELECT chooses thread 0, VOTE counts those that are not zero. -/
theorem test_reductions :
    vAfter (.xred 5 0 0) (wholeParty (fun k => BitVec.ofNat 32 k) (some 0x7F000000#32) (.xred 5 0 0)) 7 5 = 2016 ∧
    vAfter (.elect 5 0 0) (wholeParty (fun _ => 0) none (.elect 5 0 0)) 0 5 = 1 ∧
    vAfter (.elect 5 0 0) (wholeParty (fun _ => 0) none (.elect 5 0 0)) 1 5 = 0 ∧
    vAfter (.vote 5 0 3) (wholeParty (fun k => BitVec.ofNat 32 (k % 3)) none (.vote 5 0 3)) 9 5 = 42 := by decide +kernel

/-- Barrier 2 of the party, in phase 255, has some arrivals; threads below a number have exited but for thread 0. -/
def atBarrier (arrived exited : Nat) (pfx : Option Word := none) : State :=
  onP (fun p => { p with
    bars := p.bars.set 2 { phase := 255, arrived := arrived }
    threads := mapI (fun k t => if k = 0 then t else if k < exited then { t with exited := true } else t) 0 p.threads })
    (st [0] [] pfx)
/-- The facts of Arrives, for an index and its place. -/
def barB (s : State) (i : Instr) (idx : Nat) (l : BarLoc) : Bool :=
  let cx := cxOf s i
  runsOneB s i 0 && decide (barLoc s cx.slot cx.party (cx.p.c % 16) idx = some l ∧ 0 < cx.party.threads.length ∧
    idx < cx.party.bars.length ∧ (cx.party.thread 0).arrivals = [] ∧ (cx.party.thread 0).barKept = none ∧
    openAccesses s cx.slot [0] cx.issue.handler = [] ∧ cx.launch.isDet = false)
theorem arrives_at {s : State} {i : Instr} {idx : Nat} {l : BarLoc} (h : barB s i idx l = true)
    (hm : ∀ p, mergePending s (cxOf s i).party (barScope ((cxOf s i).p.c % 16)) idx p = false) : Arrives s i (cxOf s i) 0 idx l := by
  have ⟨one, facts⟩ := Bool.and_eq_true_iff.mp h
  match of_decide_eq_true facts with
  | ⟨exists_, thread, listed, none_, unkept, released, ordinary⟩ =>
    exact { toRunsOne := runsOne_of one, exists_, thread, listed, fresh := fun p => by simp [none_], unkept, released, ordinary,
            unmerged := hm }

/-- No merge is to come where the party's block has none. -/
theorem merges_none {s : State} {p : Party} (h : ((s.block? p.lid p.blin).map (·.merges)).getD [] = []) (scope idx q : Nat) :
    mergePending s p scope idx q = false := by
  unfold mergePending
  cases hb : s.block? p.lid p.blin with
  | none => rfl
  | some b => simp [hb] at h; simp [h]
/-- Arrivals that do not fill barrier 2: of BAR at the party and the core, of BARA. -/
theorem witness_arrivals :
    (let s := atBarrier 5 3
     Arrives s (.bar 0 0 2) (cxOf s (.bar 0 0 2)) 0 2 (.party 2) ∧ (barOf s 0 (.party 2)).arrived + 1 ≠ barMembers s 0 (.party 2)) ∧
    (let s := atBarrier 5 3
     Arrives s (.bara 4 0 2) (cxOf s (.bara 4 0 2)) 0 2 (.party 2)) :=
  ⟨⟨arrives_at (by decide +kernel) (merges_none (by decide +kernel) _ _), by decide +kernel⟩,
    arrives_at (by decide +kernel) (merges_none (by decide +kernel) _ _)⟩
/-- The last arrival, with thread 5 waiting in the barrier. -/
def lastArrival : State :=
  onP (fun p => { p with
    threads := mapI (fun j t => if j = 5 then { t with hold := some (.bar 2 2 255 9), arrivals := [(2, 2, 255)] } else t) 0 p.threads })
    (atBarrier 60 4)
theorem witness_last_arrival :
    let s := lastArrival
    let cx := cxOf s (.bar 0 0 2)
    Arrives s (.bar 0 0 2) cx 0 2 (.party 2) ∧ (barOf s 0 (.party 2)).arrived + 1 = barMembers s 0 (.party 2) ∧
      (cx.party.thread 5).hold = some (.bar (barScope (cx.p.c % 16)) 2 255 9) ∧ wordOf 9#16 ≠ 0 ∧ waitsGo s 0 = true ∧
      (cx.party.thread 5).deliverable = false :=
  ⟨arrives_at (by decide +kernel) (merges_none (by decide +kernel) _ _), by decide +kernel⟩
theorem witness_last_arrival_bara :
    Arrives lastArrival (.bara 4 0 2) (cxOf lastArrival (.bara 4 0 2)) 0 2 (.party 2) :=
  arrives_at (by decide +kernel) (merges_none (by decide +kernel) _ _)
theorem witness_exit :
    let s := st [0] []
    let cx := cxOf s (.exit 0 0 0)
    RunsOne s (.exit 0 0 0) cx 0 ∧ (∀ t ∈ cx.party.threads, t.hold = none ∧ t.arrivals = []) ∧ (∀ e ∈ cx.party.bars, e.arrived = 0) ∧
      s.bars = [] := ⟨runsOne_of (by decide +kernel), by decide +kernel⟩
/-- The phase wraps modulo 256 and the waiting thread goes on (R151). -/
theorem test_barrier_phase :
    after (exec (.bar 0 0 2) lastArrival) (9, 9) (fun t => ((barOf t 0 (.party 2)).phase, (barOf t 0 (.party 2)).arrived)) = (0, 0) ∧
    tAfter (.bar 0 0 2) lastArrival 5 0#16 (·.pc) = 9#16 ∧ vAfter (.bara 4 0 2) (atBarrier 5 3) 0 4 = 255 ∧
    tAfter (.exit 0 0 0) (st [] []) 0 false (·.exited) = true := by decide +kernel

/-! ## Witnesses: engine commands -/

/-- v4:v5 names offset 0x400 of the scratchpad, where n bytes stand. -/
def cmd (x n : Nat) (f : Launch → Launch := id) (v : List Word := []) (ws : List Word := []) : State :=
  onL f (withScr 0x400 n x (world (v ++ (List.replicate 4 0#32).drop v.length ++ [lo (sEA 0x400), hi (sEA 0x400)]) ws))
/-- The facts of Captures for thread 0, with the state that the read leaves. -/
def capturesB (s : State) (i : Instr) (ea n align : Nat) (d : Nat) : Bool :=
  let cx := cxOf s i
  runsOneB s i 0 && decide (0 < cx.party.threads.length) &&
    match cx.record s 0 (cx.party.thread 0) ea n align with
    | (t, .ok y) => t == s && y == d
    | _ => false
theorem captures_of {s : State} {i : Instr} {ea n align d : Nat} (h : capturesB s i ea n align d = true) :
    Captures s i (cxOf s i) 0 ea n align s d := by
  simp only [capturesB, Bool.and_eq_true, decide_eq_true_eq] at h
  obtain ⟨⟨h1, h2⟩, h3⟩ := h
  refine ⟨runsOne_of h1, h2, ?_, rfl⟩
  split at h3
  · simp only [Bool.and_eq_true, beq_iff_eq] at h3
    simp_all
  · cases h3

/-- A linear copy of 16 bytes from buffer 1 to scratchpad offset 0x800, and the same as a multicast to rank 0. -/
def cpyLine : Nat := buf 64 + sEA 0x800 * 2 ^ 128 + 16 * 2 ^ 192
def cpyCast : Nat := cpyLine + 2 ^ (8 * 45) + 2 ^ (8 * 46 + 8)
/-- A layout of 8 by 4 binary32 elements, rows of 32 bytes; a tile load of 2 by 2 of them. -/
def lay84 : Nat := 0x202 + 8 * 2 ^ 128 + 4 * 2 ^ 160 + 2 ^ 192 + 2 ^ 224 + 2 ^ 256 + 32 * 2 ^ 320
def cpyTile : Nat := buf 0x1000 + 0x2000 * 2 ^ 128 + 2 ^ 320 + 2 ^ 328
def withLay (l : Launch) : Launch := { l with layouts := [some lay84] }
theorem witness_copies :
    ∀ e ∈ ([(0x6A, .cpyt 0 4 0, cpyTile), (0x6B, .cpyl 0 4 0, cpyLine), (0x6C, .cpym 0 4 0, cpyCast)] : List (Nat × Instr × Nat)),
      let s := cmd e.2.2 48 withLay
      let l := (cxOf s e.2.1).launch
      Captures s e.2.1 (cxOf s e.2.1) 0 (sEA 0x400) 48 16 s e.2.2 ∧ s.launch? l.lid = some l ∧ cpBad l e.1 e.2.2 = none ∧
        (if cpLinear e.1 e.2.2 then cpLinRanges s l e.1 e.2.2 else cpTileRanges s l e.1 e.2.2) = none := by
  intro e he
  have h : ([(0x6A, .cpyt 0 4 0, cpyTile), (0x6B, .cpyl 0 4 0, cpyLine), (0x6C, .cpym 0 4 0, cpyCast)] :
      List (Nat × Instr × Nat)).all (fun e => let s := cmd e.2.2 48 withLay
        let l := (cxOf s e.2.1).launch
        capturesB s e.2.1 (sEA 0x400) 48 16 e.2.2 && decide (s.launch? l.lid = some l ∧ cpBad l e.1 e.2.2 = none ∧
        (if cpLinear e.1 e.2.2 then cpLinRanges s l e.1 e.2.2 else cpTileRanges s l e.1 e.2.2) = none)) = true := by decide +kernel
  have h := List.all_eq_true.mp h e he
  simp only [Bool.and_eq_true, decide_eq_true_eq] at h
  exact ⟨captures_of h.1, h.2⟩
/-- One dynamic handle; segment 1 of the map ABSENT, and a budget of 8. -/
theorem witness_lrld_and_cfetch :
    let s := cmd 0 0 (fun l => { l with record := setFld (setFld (setFld l.record (28 * 8) 12 1) (72 * 8) 64 3) (8 * 8 + 16) 7 8 }) [0, 1]
    let cx := cxOf s (.lrld 0 4 0)
    let cy := cxOf s (.cfetch 0 1 0)
    RunsOne s (.lrld 0 4 0) cx 0 ∧ RunsOne s (.cfetch 0 1 0) cy 0 ∧
    (cx.launch.nstat ≤ (cx.operands s 0).d ∧ (cx.operands s 0).d < cx.launch.nstat + cx.launch.ndyn ∧
      checkEa s cx.launch { size := 128, align := 128, r := true, acc := false } (cx.operands s 0).a = none) ∧
    (cy.operands s 0).a = 1 ∧ bitOf cy.launch.segMap 1 = true ∧ (segAt s cy.core cy.party.lid 1).st = .absent ∧
      segUse s cy.core cy.party.lid < cy.launch.segBud :=
  ⟨runsOne_of (by decide +kernel), runsOne_of (by decide +kernel), by decide +kernel⟩

/-- The multiply of 12_tile_engine.md's example, its drain, and a plane multiply of nested integers of 4 planes. -/
def mmaBlk : Nat := 0x00020000 + 16 * 2 ^ 32 + 16 * 2 ^ 48 + 8 * 2 ^ 64 + 0x400 * 2 ^ 160
def drnBlk : Nat := 0x40800000 + 16 * 2 ^ 32 + 16 * 2 ^ 48 + buf 0x1000 * 2 ^ 128 + 128 * 2 ^ 192
def plnBlk : Nat := 2 * 2 ^ 18 + 3 * 2 ^ 16 + 16 * 2 ^ 32 + 16 * 2 ^ 48 + 32 * 2 ^ 64 + 0x400 * 2 ^ 160
def withWord (w : Nat) (l : Launch) : Launch := { l with record := setFld l.record 256 32 w }
theorem witness_tiles :
    ∀ e ∈ ([(0x6E, .mma 0 4 0, mmaBlk), (0x6F, .mdrn 0 4 0, drnBlk)] : List (Nat × Instr × Nat)),
      let s := cmd e.2.2 64 (withWord 0x00100001)
      Captures s e.2.1 (cxOf s e.2.1) 0 (sEA 0x400) 64 64 s e.2.2 ∧
        tileCheck s (cxOf s e.2.1).launch e.1 e.2.2 (sEA 0x400) 0 = none := by
  intro e he
  have h : ([(0x6E, .mma 0 4 0, mmaBlk), (0x6F, .mdrn 0 4 0, drnBlk)] : List (Nat × Instr × Nat)).all
      (fun e => let s := cmd e.2.2 64 (withWord 0x00100001)
        capturesB s e.2.1 (sEA 0x400) 64 64 e.2.2 && (tileCheck s (cxOf s e.2.1).launch e.1 e.2.2 (sEA 0x400) 0).isNone) = true := by
    decide +kernel
  have h := List.all_eq_true.mp h e he
  simp only [Bool.and_eq_true, Option.isNone_iff_eq_none] at h
  exact ⟨captures_of h.1, h.2⟩
/-- A record read that leaves the state as it is. -/
def readsB (r : State × RecRes) (s : State) (x : Nat) : Bool :=
  match r with
  | (t, .ok y) => t == s && y == x
  | _ => false
theorem reads_of {r : State × RecRes} {s : State} {x : Nat} (h : readsB r s x = true) : r = (s, .ok x) := by
  unfold readsB at h
  split at h
  · simp only [Bool.and_eq_true, beq_iff_eq] at h
    simp_all
  · cases h
theorem witness_plane :
    let s := cmd plnBlk 64 (withWord (0x0D + 4 * 2 ^ 15 + 2 ^ 19)) [] [0, 0, 0, 0, lo (sEA 0x400), hi (sEA 0x400)]
    let i := Instr.plane 0 4 0xA0
    let cx := cxOf s i
    Runs s i cx ∧ (cx.operands s 0).a = sEA 0x400 ∧ (cx.operands s 0).b = 0 ∧ cx.tids.headD 0 = 0 ∧
      checkEa s cx.launch { size := 64, align := 64, r := true, acc := false } (sEA 0x400) = none ∧
      cx.readRecord s cx.tids 0 (cx.party.thread 0) (sEA 0x400) 64 true = (s, .ok plnBlk) ∧
      tileCheck s cx.launch 0xB2 plnBlk (sEA 0x400) 0 = none :=
  ⟨runs_of (by decide +kernel), by decide +kernel, by decide +kernel, by decide +kernel, by decide +kernel,
    reads_of (by decide +kernel), by decide +kernel⟩

/-- A cut selection, a raster into a target of 8 by 4 pixels, and a ray query. -/
def cutDesc : Nat := buf 0x1000 + buf 0x2000 * 2 ^ 64 + 0x447A0000 * 2 ^ 224 + 0x3DCCCCCD * 2 ^ 256 + 0x3F800000 * 2 ^ 288
def rastDesc : Nat := buf 0x2000 * 2 ^ 512 + 4 * 2 ^ 608 + 0x3DCCCCCD * 2 ^ 704 + buf 0x3000 * 2 ^ 768
def rayDesc : Nat := 0x3F800000 * 2 ^ 96 + 0x7F800000 * 2 ^ 224 + buf 0x2000 * 2 ^ 256 + 4 * 2 ^ 352 + buf 0x3000 * 2 ^ 384
def target84 : Nat := 0x30C + 2 * 2 ^ 128 + 8 * 2 ^ 160 + 4 * 2 ^ 192 + 2 ^ 224 + 2 ^ 256 + 8 * 2 ^ 320 + 64 * 2 ^ 384
theorem witness_geometry :
    ∀ e ∈ ([(0x72, 64, .cutsel 0 4 0, cutDesc), (0x73, 128, .rast 0 4 0, rastDesc), (0x74, 64, .rayq 0 4 0, rayDesc)] :
      List (Nat × Nat × Instr × Nat)), let s := cmd e.2.2.2 e.2.1 fun l => { l with layouts := [some target84] }
      Captures s e.2.2.1 (cxOf s e.2.2.1) 0 (sEA 0x400) e.2.1 64 s e.2.2.2 ∧
        geBad (cxOf s e.2.2.1).launch e.1 e.2.2.2 = none ∧ geRanges s (cxOf s e.2.2.1).launch e.1 e.2.2.2 = none := by
  intro e he
  have h : ([(0x72, 64, .cutsel 0 4 0, cutDesc), (0x73, 128, .rast 0 4 0, rastDesc), (0x74, 64, .rayq 0 4 0, rayDesc)] :
      List (Nat × Nat × Instr × Nat)).all (fun e => let s := cmd e.2.2.2 e.2.1 fun l => { l with layouts := [some target84] }
        capturesB s e.2.2.1 (sEA 0x400) e.2.1 64 e.2.2.2 && (geBad (cxOf s e.2.2.1).launch e.1 e.2.2.2).isNone &&
        (geRanges s (cxOf s e.2.2.1).launch e.1 e.2.2.2).isNone) = true := by decide +kernel
  have h := List.all_eq_true.mp h e he
  simp only [Bool.and_eq_true, Option.isNone_iff_eq_none] at h
  exact ⟨captures_of h.1.1, h.1.2, h.2⟩
/-- The gather of 07_memory_access.md's example, on buffer 1, its arrival word at 0x3F0. -/
def gatDesc : Nat := buf 0x1000 + sEA 0x480 * 2 ^ 64 + sEA 0x800 * 2 ^ 128 + 4 * 2 ^ 192 + 0x304 * 2 ^ 224
theorem witness_gather :
    let s := cmd gatDesc 32 id [0x3F0]
    let i := Instr.gath 0 4 0
    Captures s i (cxOf s i) 0 (sEA 0x400) 32 32 s gatDesc ∧ (cxOf s i).dreg ≠ .z ∧ ((cxOf s i).operands s 0).d = 0x3F0 ∧
      gatCheck s (cxOf s i) gatDesc (some 0x3F0) = none :=
  ⟨captures_of (by decide +kernel), by decide +kernel⟩

/-- Buffer 9 of 21_bank_arithmetic.md's example: stack 3, pseudo-channel 8, 16 banks, rows from 100, 64 KiB. -/
def entry9 : Nat :=
  2 ^ 31 + 2 * 2 ^ 26 + 3 * 2 ^ 16 + 65536 * 2 ^ 64 + 65536 * 2 ^ 128 + 3 * 2 ^ 224 + 8 * 2 ^ 228 + 4 * 2 ^ 240 + 9 * 2 ^ 243 + 100 * 2 ^ 256
/-- Its block of six commands. -/
def bkHead : Nat := 9 * 2 ^ 44 + 0x500 * 2 ^ 64
def bkBody : Nat :=
  0x100 * 2 ^ 32 + 2 ^ 128 * (0x68000000 + 0x600 * 2 ^ 32 + 0xFFFFFFFF * 2 ^ 64) + 2 ^ 256 * 0x10000000 + 2 ^ 384 * 0x30800000 +
    2 ^ 512 * (0x50800000 + 2 ^ 32)
def withBank (s : State) : State :=
  { s with bufs := s.bufs ++ [((0, 9), entry9)], dram := Memory.write s.dram 81920 8 (mkLeaf 0 0 3 16) }
theorem witness_bank_block :
    let s := withBank (cmd (bkHead + 2 ^ 128 * bkBody) 112)
    let i := Instr.bkq 0 4 0
    let cx := cxOf s i
    Captures s i cx 0 (sEA 0x400) 16 16 s bkHead ∧ bkHeadBad s cx.launch bkHead (sEA 0x400) = none ∧
      cx.record s 0 (cx.party.thread 0) (eaAdd (sEA 0x400) 16) (16 * bkN bkHead) 16 = (s, .ok bkBody) ∧
      bufOf s cx.launch.ctx (eaIdx (bkBuf bkHead)) = some entry9 ∧ bkBodyBad entry9 (bkHead + 2 ^ 128 * bkBody) (sEA 0x400) = none :=
  ⟨captures_of (by decide +kernel), by decide +kernel, reads_of (by decide +kernel), by decide +kernel, by decide +kernel⟩

/-- An all-reduce and a halo exchange of one rank; the group record lies at scratchpad offset 0x600, the segment table at 0x700. -/
def collAll1 : Nat :=
  2 ^ 28 + 5 * 2 ^ 20 + sEA 0x600 * 2 ^ 64 + 2 ^ 160 + sEA 0x800 * 2 ^ 192 + sEA 0x900 * 2 ^ 256
def collHalo1 : Nat := sEA 0x600 * 2 ^ 64 + 2 ^ 160 + sEA 0x700 * 2 ^ 192
def group1 : Nat := 1 * 2 ^ 32
def seg1 : Nat := sEA 0x800 + sEA 0x900 * 2 ^ 64 + 8 * 2 ^ 128
theorem witness_collectives :
    ∀ d ∈ [collAll1, collHalo1], let s := withScr 0x600 12 group1 (withScr 0x700 32 seg1 (cmd d 64))
      let i := Instr.coll 0 4 0
      let cx := cxOf s i
      let z := if d = collAll1 then 0 else seg1
      Captures s i cx 0 (sEA 0x400) 64 64 s d ∧ collRsvd d = false ∧ cx.groupRecord s 0 (cx.party.thread 0) d = (s, .ok group1) ∧
        groupBad s cx.launch d group1 = false ∧
        (coKind d = 0 → 1 ≤ coCount d ∧ coCount d ≤ 64 ∧ collSigBad cx.launch d = false) ∧
        (if coKind d = 0 then cx.record s 0 (cx.party.thread 0) (coSrc d) (32 * coCount d) 1 else (s, .ok 0)) = (s, .ok z) ∧
        collCheck s cx.launch d group1 z = none := by
  intro d hd
  have h : [collAll1, collHalo1].all (fun d => let s := withScr 0x600 12 group1 (withScr 0x700 32 seg1 (cmd d 64))
      let i := Instr.coll 0 4 0
      let cx := cxOf s i
      let z := if d = collAll1 then 0 else seg1
      capturesB s i (sEA 0x400) 64 64 d && readsB (cx.groupRecord s 0 (cx.party.thread 0) d) s group1 &&
        readsB (if coKind d = 0 then cx.record s 0 (cx.party.thread 0) (coSrc d) (32 * coCount d) 1 else (s, .ok 0)) s z &&
        decide (collRsvd d = false ∧ groupBad s cx.launch d group1 = false ∧
          (coKind d = 0 → 1 ≤ coCount d ∧ coCount d ≤ 64 ∧ collSigBad cx.launch d = false) ∧
          collCheck s cx.launch d group1 z = none)) = true := by decide +kernel
  have h := List.all_eq_true.mp h d hd
  simp only [Bool.and_eq_true] at h
  have facts := of_decide_eq_true h.2
  exact ⟨captures_of h.1.1.1, facts.1, reads_of h.1.1.2, facts.2.1, facts.2.2.1, reads_of h.1.2, facts.2.2.2⟩

end Sys2Proof.Tests
end

