-- ==== Sys2Proof/Tests/Slice0Work.lean ====
section
/-! SUPPORT. Tests and witnesses: the launch's tables, accesses in flight, retirement, causes, waits and segments. -/

namespace Sys2Proof.Tests

open Sys2Proof.Machine

set_option Elab.async false

/-! ## Witnesses: the launch's tables -/

theorem lowest_zero {n : Nat} {p : Nat → Prop} (hn : 0 < n) (h : p 0) : Lowest n 0 p := ⟨hn, h, fun f hf => absurd hf (by omega)⟩

/-- Uniform registers for the table operations: w0:w1 buffer 1, w2:w3 its offset 8, w4:w5 a length of 128, w6 a control word,
w8 a handle or a version. -/
def tab (c h : Nat) (pfx : Option Word := none) : State :=
  world [] [lo (buf 0), hi (buf 0), lo (buf 8), hi (buf 8), 128, 0, BitVec.ofNat 32 c, 0, BitVec.ofNat 32 h, 0] pfx
/-- A bound region of 128 bytes at entry 0, generation 7; a range of the same bytes. -/
def bound7 : Binding := { base := buf 0, len := 128, obj := buf 8, live := true, gen := 7 }
def range7 : Range := { base := buf 0, len := 128, op := 1, ty := 2, live := true, gen := 7 }
def withBind : State → State := onL fun l => { l with binds := [bound7] }
def withRange : State → State := onL fun l => { l with ranges := [range7] }

theorem witness_rbind :
    (let s := tab 0 0
     let cx := cxOf s (.rbind 4 0 2)
     let o := cx.uniOperands s
     Runs s (.rbind 4 0 2) cx ∧ rbindCheck s cx.launch o.d o.a o.b = none ∧
       (∀ f < 256, ¬((cx.launch.bindAt f).live = true ∧ (cx.launch.bindAt f).base = o.a ∧ (cx.launch.bindAt f).len = o.d ∧
         (cx.launch.bindAt f).obj = o.b)) ∧ Lowest 256 0 fun f => (cx.launch.bindAt f).live = false) ∧
    (let s := withBind (tab 0 0)
     let cx := cxOf s (.rbind 4 0 2)
     let o := cx.uniOperands s
     Runs s (.rbind 4 0 2) cx ∧ rbindCheck s cx.launch o.d o.a o.b = none ∧
       Lowest 256 0 fun f => (cx.launch.bindAt f).live = true ∧ (cx.launch.bindAt f).base = o.a ∧ (cx.launch.bindAt f).len = o.d ∧
         (cx.launch.bindAt f).obj = o.b) ∧
    ∀ s ∈ [withBind (tab 0 0x700), tab 0 255], let cx := cxOf s (.runbind 0 8 0)
      let e := (cx.uniOperands s).a % 256
      Runs s (.runbind 0 8 0) cx ∧ (cx.uniOperands s).a < 2 ^ 24 ∧ (cx.launch.bindAt e).gen = (cx.uniOperands s).a / 256 := by
  refine ⟨⟨runs_of (by decide +kernel), by decide +kernel, ?_, lowest_zero (by decide) (by decide +kernel)⟩,
    ⟨runs_of (by decide +kernel), by decide +kernel, lowest_zero (by decide) (by decide +kernel)⟩, ?_⟩
  · have h : (cxOf (tab 0 0) (.rbind 4 0 2)).launch.binds = [] := by decide +kernel
    have g : ∀ l : Launch, l.binds = [] → ∀ f, (l.bindAt f).live = false := fun l hl f => by simp [Launch.bindAt, hl]
    intro f _ hf
    exact absurd hf.1 (by rw [g _ h f]; decide)
  · intro s hs
    have h : [withBind (tab 0 0x700), tab 0 255].all (fun s => let cx := cxOf s (.runbind 0 8 0)
      let e := (cx.uniOperands s).a % 256
      runsB s (.runbind 0 8 0) && decide ((cx.uniOperands s).a < 2 ^ 24 ∧ (cx.launch.bindAt e).gen = (cx.uniOperands s).a / 256)) = true := by
      decide +kernel
    have h := List.all_eq_true.mp h s hs
    simp only [Bool.and_eq_true, decide_eq_true_eq] at h
    exact ⟨runs_of h.1, h.2⟩
theorem witness_ranges :
    (let s := tab 0x51 0
     let cx := cxOf s (.crdecl 4 0 6)
     let o := cx.uniOperands s
     Runs s (.crdecl 4 0 6) cx ∧ crdeclCheck s cx.launch o.d o.a o.b = none ∧ Lowest 16 0 fun f => (cx.launch.rangeEntry f).live = false) ∧
    (let s := withRange (tab 0 0x700)
     let cx := cxOf s (.crend 0 8 0)
     Runs s (.crend 0 8 0) cx ∧ (cx.uniOperands s).a < 2 ^ 24 ∧ (cx.uniOperands s).a % 256 = 0 ∧ (cx.launch.rangeEntry 0).live = true ∧
       (cx.launch.rangeEntry 0).gen = (cx.uniOperands s).a / 256 ∧ s.launch? cx.launch.lid = some cx.launch) :=
  ⟨⟨runs_of (by decide +kernel), by decide +kernel, lowest_zero (by decide) (by decide +kernel)⟩,
    runs_of (by decide +kernel), by decide +kernel⟩
/-- A binding of the same region gives the handle that stands; a range is declared with the next generation (R201, R326). -/
theorem test_handles :
    wAfter (.rbind 4 0 2) (tab 0 0) 4 = 0x100 ∧ wAfter (.rbind 4 0 2) (withBind (tab 0 0)) 4 = 0x700 ∧
    after (exec (.runbind 0 8 0) (withBind (tab 0 0x700))) [] (fun t => t.launches.map fun l => (l.bindAt 0).live) = [false] ∧
    wAfter (.crdecl 4 0 6) (tab 0x51 0) 4 = 0x100 ∧
    after (exec (.crend 0 8 0) (withRange (tab 0 0x700))) [] (fun t => t.launches.map fun l => (l.rangeEntry 0).live) = [false] := by
  decide +kernel

/-- Buffer 1 of one page keeps four versions, 5 published and 6 open; version 5 is held n times. -/
def entryV : Nat := entry1 - (2 ^ 21 - 2 ^ 16) * 2 ^ 64 + 4 * 2 ^ 40
def snap56 (n : Nat) : Snap := { ctx := 0, buf := 1, opn := 6, pub := 5, base := 0, holds := if n = 0 then [] else [(5, n)], owners := [] }
def plats (v n : Nat) : State := { tab 0 v with bufs := [((0, 1), entryV)], snaps := [snap56 n] }
theorem witness_publishing :
    ∀ v ∈ [5, 6], let s := plats v 0
      let cx := cxOf s (.vpost 6 0 8)
      let o := cx.uniOperands s
      Runs s (.vpost 6 0 8) cx ∧ bufOf s cx.launch.ctx (eaIdx o.a) = some entryV ∧
        s.snap? cx.launch.ctx (eaIdx o.a) = some (snap56 0) ∧ verCheck s cx.launch (o.b / 2 ^ 24 % 256 != 0) o.a true = none ∧
        o.b % 2 ^ 24 = v ∧ openWritesTo s cx (eaIdx o.a) = false ∧ (v = 6 → versionBusy s entryV v = false) ∧
        (∀ k ∈ bufferPartials s cx.launch.ctx (eaIdx o.a), combineBusy s k.1 k.2 = false) := by
  intro v hv
  have h : [5, 6].all (fun v => let s := plats v 0
      let cx := cxOf s (.vpost 6 0 8)
      let o := cx.uniOperands s
      runsB s (.vpost 6 0 8) && decide (bufOf s cx.launch.ctx (eaIdx o.a) = some entryV ∧
        s.snap? cx.launch.ctx (eaIdx o.a) = some (snap56 0) ∧ verCheck s cx.launch (o.b / 2 ^ 24 % 256 != 0) o.a true = none ∧
        o.b % 2 ^ 24 = v ∧ openWritesTo s cx (eaIdx o.a) = false ∧ (v = 6 → versionBusy s entryV v = false) ∧
        (∀ k ∈ bufferPartials s cx.launch.ctx (eaIdx o.a), combineBusy s k.1 k.2 = false))) = true := by decide +kernel
  have h := List.all_eq_true.mp h v hv
  simp only [Bool.and_eq_true, decide_eq_true_eq] at h
  exact ⟨runs_of h.1, h.2⟩
/-- A hold of a held plat, of a plat that is not published, releases of a plat held once, held twice and not held. -/
theorem witness_holding :
    ∀ e ∈ [(5, 1, true), (6, 0, false), (2 ^ 24 + 5, 1, false), (2 ^ 24 + 5, 2, false), (2 ^ 24 + 5, 0, false)], let s := plats e.1 e.2.1
      let cx := cxOf s (.vopen 6 0 8)
      let o := cx.uniOperands s
      Runs s (.vopen 6 0 8) cx ∧ bufOf s cx.launch.ctx (eaIdx o.a) = some entryV ∧
        s.snap? cx.launch.ctx (eaIdx o.a) = some (snap56 e.2.1) ∧ verCheck s cx.launch (o.b / 2 ^ 25 % 128 != 0) o.a false = none ∧
        bitOf o.b 24 = decide (2 ^ 24 ≤ e.1) ∧ verLe (e.1 % 2 ^ 24) 5 = decide (e.1 % 2 ^ 24 = 5) ∧
        (e.2.2 = true → (snap56 e.2.1).kept 4 (e.1 % 2 ^ 24) = true) ∧ aget 0 (e.1 % 2 ^ 24) (snap56 e.2.1).holds = e.2.1 := by
  intro e he
  have h : [(5, 1, true), (6, 0, false), (2 ^ 24 + 5, 1, false), (2 ^ 24 + 5, 2, false), (2 ^ 24 + 5, 0, false)].all (fun e =>
      let s := plats e.1 e.2.1
      let cx := cxOf s (.vopen 6 0 8)
      let o := cx.uniOperands s
      runsB s (.vopen 6 0 8) && decide (bufOf s cx.launch.ctx (eaIdx o.a) = some entryV ∧
        s.snap? cx.launch.ctx (eaIdx o.a) = some (snap56 e.2.1) ∧ verCheck s cx.launch (o.b / 2 ^ 25 % 128 != 0) o.a false = none ∧
        bitOf o.b 24 = decide (2 ^ 24 ≤ e.1) ∧ verLe (e.1 % 2 ^ 24) 5 = decide (e.1 % 2 ^ 24 = 5) ∧
        (e.2.2 = true → (snap56 e.2.1).kept 4 (e.1 % 2 ^ 24) = true) ∧ aget 0 (e.1 % 2 ^ 24) (snap56 e.2.1).holds = e.2.1)) = true := by
    decide +kernel
  have h := List.all_eq_true.mp h e he
  simp only [Bool.and_eq_true, decide_eq_true_eq] at h
  exact ⟨runs_of h.1, h.2⟩
/-- VPOST of the open version, again of the published one; VOPEN of a version to come, and a release of one not held (R401, R402). -/
theorem test_versions :
    wAfter (.vpost 6 0 8) (plats 5 0) 6 = 1 ∧ wAfter (.vopen 6 0 8) (plats 6 0) 6 = 1 ∧ wAfter (.vopen 6 0 8) (plats (2 ^ 24 + 5) 0) 6 = 4 ∧
    after (exec (.vpost 6 0 8) (plats 6 0)) ([], none)
      (fun t => (t.snaps.map fun v => (v.opn, v.pub), (t.party? 0).map fun p => p.w.getD 6 9)) = ([(7, 6)], some 0) ∧
    after (exec (.vopen 6 0 8) (plats 5 1)) [] (fun t => t.snaps.map fun v => (v.holds, v.owners)) = [([(5, 2)], [(0, 5)])] := by
  decide +kernel

/-! ## Witnesses: migration and launch -/

/-- A launch of two cores a block; w6 asks for rank r. -/
def ranks (r : Nat) : State := onL (fun l => { l with record := l.record + 2 ^ 64 }) (tab (8 + r) 0)
/-- The reservation of slot 16 for rank 1 stands. -/
def reserved16 : State :=
  let s := ranks 1
  let s := s.setSlot 16 { s.slot 16 with reserved := true }
  s.setSlot 0 { s.slot 0 with migr := some { tids := [0], d := .w 8, rank := 1, slot := 16, npc := 1 } }
theorem witness_migration :
    (let s := ranks 0
     let cx := cxOf s (.migr 8 0 6)
     let o := cx.uniOperands s
     Runs s (.migr 8 0 6) cx ∧ (s.slot cx.slot).migr = none ∧ migrTrap s cx o.a o.b = none ∧
       migrRank s cx (cx.core - cx.party.rank) o.a o.b = some cx.party.rank) ∧
    (let s := reserved16
     let cx := cxOf s (.migr 8 0 6)
     Runs s (.migr 8 0 6) cx ∧ (s.slot cx.slot).migr = some { tids := [0], d := .w 8, rank := 1, slot := 16, npc := 1 } ∧
       cx.party.causePending = false ∧ cx.party.drained = true ∧ 16 ≠ cx.slot ∧ s.bars = [] ∧ (s.slot cx.slot).repair = false) :=
  ⟨⟨runs_of (by decide +kernel), by decide +kernel⟩, runs_of (by decide +kernel), by decide +kernel⟩
/-- The move to rank 1 (R313, R314). -/
theorem test_migration :
    wAfter (.migr 8 0 6) (ranks 0) 8 = 1 ∧
    after (exec (.migr 8 0 6) reserved16) none (fun t => (t.party? 16).map fun p => (p.rank, p.w.getD 8 1, p.threads.map (·.pc) |>.head?)) =
      some (1, 0x100, some 1) ∧
    after (exec (.migr 8 0 6) reserved16) true (fun t => (t.party? 0).isSome) = false := by decide +kernel

/-- Queue 5 of context 0, on die 0: its control block at offset 0x1000 of buffer 1, DEV set, 2 records. -/
def queueBlock : Nat := 2 ^ 128 + 2 ^ 135 + 2 * 2 ^ 132
def withQueue (s : State) : State :=
  { s with queues := [(5, { ctx := 0, die := 0, base := buf 0x1000 })],
           dram := Memory.write s.dram (16 * 2 ^ 16 + 0x1000) 24 queueBlock }
/-- LAUNCH of the record at offset 256 of buffer 1. -/
def launching : State := withQueue (world [] [lo (buf 256), hi (buf 256), 5])
/-- The state and value of an answer with a value. -/
def valOf (r : State × RecRes) : Option (State × Nat) :=
  match r with
  | (t, .ok x) => some (t, x)
  | (_, .trap _) | (_, .wait _) => none
theorem append_of {r : State × RecRes} {p : State × Nat → Prop} [DecidablePred p] (h : (valOf r).any (fun x => decide (p x)) = true) :
    ∃ t x, r = (t, .ok x) ∧ p (t, x) := by
  unfold valOf at h
  split at h
  · exact ⟨_, _, rfl, by simpa using h⟩
  all_goals cases h
theorem witness_launch :
    let s := launching
    let cx := cxOf s (.launch 8 0 2)
    let o := cx.uniOperands s
    Runs s (.launch 8 0 2) cx ∧ o.b / 2 ^ 8 % 2 ^ 24 = 0 ∧ o.b % 256 = 5 ∧ o.a = buf 256 ∧
      devQueue s cx.launch.ctx 5 = some { ctx := 0, die := 0, base := buf 0x1000 } ∧
      checkEa s cx.launch { size := 256, align := 64, r := true, acc := false } o.a = none ∧
      openAccesses s cx.slot cx.tids cx.issue.handler = [] ∧
      ∃ t x, launchAppend cx s (cx.party.thread (cx.tids.headD 0)) 5 (buf 256) = (t, .ok x) ∧ t.slots = s.slots := by
  refine ⟨runs_of (by decide +kernel), ?_⟩
  repeat' apply And.intro
  on_goal 7 => exact append_of (p := fun r => r.1.slots = launching.slots) (by decide +kernel)
  all_goals decide +kernel
/-- The record of zeros stands at the queue's TAIL, which is 1 then (R344). -/
theorem test_launch :
    after (exec (.launch 8 0 2) launching) (9, none)
      (fun t => (coherentRead t (16 * 2 ^ 16 + 0x1000) 8, (t.party? 0).map fun p => p.w.getD 8 9)) = (1, some 0) := by decide +kernel

/-! ## Witnesses: accesses in flight -/

/-- Operation 7 of thread 0 in front of its performance. -/
def flying (cls : Cls) (kind : OpKind) (phase : Phase := .issued) : Op := opOf 7 (some cls) kind phase
def ldOp (ea : Nat) (phase : Phase := .issued) : Op := flying .ld (.load ea 4 (.v 8) 0 0 false false none) phase
def stOp (ea : Nat) (phase : Phase := .issued) : Op := flying .st (.store ea 4 0x11223344 0 0 0 false) phase
def atOp (ea : Nat) (phase : Phase := .issued) : Op := flying .st (.atom ea 0 5 0 none 0 0 0 false) phase
/-- A page of buffer 1: pages 0 and 1 are mapped. -/
def page1 (n : Nat) : PageKey := { ctx := 0, buf := 1, page := n }
def withWalk (n : Nat) (s : State) : State := s.setDie 0 { s.die 0 with walks := [page1 n] }
/-- The package with one operation, at a reference time. -/
def one (o : Op) (ref : Nat := 0) : State := { withOp o mem with ref := ref }
/-- The same, the leaf entry of page 0 of buffer 1 in the die's TLB. -/
def leaf0 : Nat := mkLeaf 0 0 0 16
def seen (o : Op) (leaf : Nat := leaf0) (ref : Nat := 0) : State :=
  let s := one o ref
  s.setDie 0 { s.die 0 with tlb := [(page1 0, leaf)] }
/-- The place of offset 64 of buffer 1. -/
def ppa64 : Nat := 16 * 65536 + 64
/-- A peer's buffer 2 of 2 MiB. -/
def entry2 : Nat := 2 ^ 31 + 2 ^ 30 + 0x3F * 2 ^ 16 + 2 ^ 21 * 2 ^ 64 + 3 * 2 ^ 320
def peerBuf (off : Nat) : Nat := 2 * 2 ^ 44 + off
def toPeer (o : Op) : State := { one o with bufs := [((0, 2), entry2)] }

theorem witness_scratchpad_accesses :
    (let o := ldOp (sEA 128)
     let s := one o
     s.op? o.id = some o ∧ o.translatable s = true ∧ isWin (sEA 128) = true ∧ ((s.launch? o.lid).any fun l => l.isDet) = false ∧
       locate s (opAg s o) (sEA 128) false = .at (.scr 0 128)) ∧
    (let o := stOp (sEA 128)
     let s := one o
     s.op? o.id = some o ∧ o.translatable s = true ∧ locate s (opAg s o) (sEA 128) true = .at (.scr 0 128)) ∧
    (let o := atOp (sEA 128)
     let s := one o
     s.op? o.id = some o ∧ o.translatable s = true ∧ atomSize 0 = 4 ∧ locate s (opAg s o) (sEA 128) false = .at (.scr 0 128)) ∧
    (let o := stOp (sEA 128)
     let s := { one o with blocks := [] }
     s.op? o.id = some o ∧ o.translatable s = true ∧ o.kind.bytes = some (sEA 128, 4) ∧
       locate s (opAg s o) (sEA 128) o.kind.stores = .fault Cause.winRank) := by decide +kernel
theorem reaches_of {o : Op}
    (h : (seen o).op? o.id = some o ∧ o.translatable (seen o) = true ∧ o.phase = .issued ∧ o.slot < 2048 ∧
      bufOf (seen o) (opAg (seen o) o).ctx 1 = some entry1 ∧ aget? (pageKey (opAg (seen o) o).ctx 1 entry1 64) ((seen o).die (opAg (seen o) o).die).tlb = some leaf0 ∧
      checkLeaf (seen o) (opAg (seen o) o).die (pageKey (opAg (seen o) o).ctx 1 entry1 64) entry1 64 (some leaf0) o.kind.writes (o.use (seen o)) =
        .at (.mem ppa64) ∧
      Memory.wf (seen o).dram = true ∧ (∀ e ∈ (seen o).cores, Memory.wf e.2.scr = true ∧ Memory.wf e.2.acc = true) ∧ (seen o).armed = none) :
    Reaches (seen o) o (buf 64) 4 ((seen o).noteUse 1 entry1 64 ppa64) ppa64 :=
  match h with
  | ⟨listed, turn, issued, slot, entry, leaf, place, dram, cores, sound⟩ =>
    { listed, turn, unsent := by simp [issued], buffer := by decide +kernel, slot, place := ⟨entry1, leaf0, entry, by decide +kernel, leaf, place, rfl⟩,
      inside := by decide +kernel, memories := ⟨dram, cores⟩, sound }
theorem all_of {α : Type} {o : Option α} {p : α → Bool} (h : o.all p = true) : ∀ x, o = some x → p x = true := by
  rintro x rfl
  exact h
theorem witness_buffer_accesses :
    Reaches (seen (stOp (buf 64))) (stOp (buf 64)) (buf 64) 4 ((seen (stOp (buf 64))).noteUse 1 entry1 64 ppa64) ppa64 ∧
    (let o := atOp (buf 64)
     let s1 := (seen o).noteUse 1 entry1 64 ppa64
     let s2 := beforeRead s1 (opAg (seen o) o).core 0 (rmAcq 0)
     Reaches (seen o) o (buf 64) 4 s1 ppa64 ∧ (∀ l, (seen o).launch? o.lid = some l → (l.rangeAt (buf 64) 4).isNone = true) ∧
       ownerOf s2 (lineOf ppa64) = none) ∧
    (let o := ldOp (buf 64)
     let s1 := (seen o).noteUse 1 entry1 64 ppa64
     let s2 := beforeRead s1 (opAg (seen o) o).core 0 false
     Reaches (seen o) o (buf 64) 4 s1 ppa64 ∧ (((seen o).launch? o.lid).any fun l => l.isDet) = false ∧
       (∀ c < 128, ∀ p ∈ (s1.core c).parts, p.lid = o.lid → lineOf p.ppa ≠ lineOf ppa64) ∧
       lineOf ppa64 ∉ (s2.die (opAg (seen o) o).die).invs ∧ aget? (lineOf ppa64) (s2.core (opAg (seen o) o).core).l1 = none) :=
  ⟨reaches_of (by decide +kernel), ⟨reaches_of (by decide +kernel), all_of (by decide +kernel), by decide +kernel⟩,
    reaches_of (by decide +kernel), by decide +kernel⟩
/-- A store that is sent to a peer, and one that the peer refuses. -/
theorem witness_peer_accesses :
    (let o := stOp (peerBuf 64)
     let s := toPeer o
     s.op? o.id = some o ∧ o.translatable s = true ∧ o.kind.bytes = some (peerBuf 64, 4) ∧ isWin (peerBuf 64) = false ∧
       bufOf s (opAg s o).ctx (eaIdx (peerBuf 64)) = some entry2 ∧ bufPeer entry2 = true ∧ o.phase = .issued ∧
       peerPath s (opAg s o).die = none ∧ peerHeld s = false) ∧
    (let o := stOp (peerBuf 64) (.peer 0)
     let s := toPeer o
     s.op? o.id = some o ∧ o.translatable s = true ∧ o.kind.bytes = some (peerBuf 64, 4) ∧ peerPath s (opAg s o).die = none ∧
       peerHeld s = false) := by decide +kernel
theorem witness_walks :
    (let o := stOp (buf 64)
     let s := one o
     let g := opAg s o
     s.op? o.id = some o ∧ o.translatable s = true ∧ isWin (buf 64) = false ∧ bufOf s g.ctx (eaIdx (buf 64)) = some entry1 ∧
       bufPeer entry1 = false ∧ pageKey g.ctx (eaIdx (buf 64)) entry1 (eaOff (buf 64)) = page1 0 ∧
       aget? (page1 0) (s.die g.die).tlb = none ∧ page1 0 ∉ (s.die g.die).walks ∧ (s.die g.die).walks.length < 64) ∧
    (let o := stOp (buf (9 * 65536)) (.walking (page1 9) none)
     let s := { withWalk 9 (one o) with dram := [] }
     s.op? o.id = some o ∧ page1 9 ∈ (s.die 0).walks ∧ bufOf s 0 1 = some entry1 ∧ walkBusy s 0 entry1 (pageBase entry1 9) = false ∧
       walk s entry1 (pageBase entry1 9) = none ∧ o.kind.bytes = some (buf (9 * 65536), 4) ∧
       walkFault s 0 entry1 (pageBase entry1 9) = none ∧ (s.ops.filter fun p => p.joins 0 (page1 9)) = [o] ∧
       opPage s o = some (page1 9)) ∧
    (let o := stOp (buf (9 * 65536)) (.walking (page1 9) none)
     let s := { withWalk 9 (one o) with damaged := [lineOf 65536] }
     s.op? o.id = some o ∧ walkBusy s 0 entry1 (pageBase entry1 9) = false ∧
       (walkFault s 0 entry1 (pageBase entry1 9)).isSome = true ∧ (s.ops.filter fun p => p.joins 0 (page1 9)) = [o]) ∧
    (let o := stOp (sEA 0)
     let s := withWalk 1 (one o)
     page1 1 ∈ (s.die 0).walks ∧ walkBusy s 0 entry1 (pageBase entry1 1) = false ∧
       walk s entry1 (pageBase entry1 1) = some (mkLeaf 0 0 0 17) ∧ leafBad entry1 (mkLeaf 0 0 0 17) = false ∧
       walkFault s 0 entry1 (pageBase entry1 1) = none ∧ dieUp s 0 = true ∧ ∀ p ∈ s.ops, p.joins 0 (page1 1) = false) := by
  decide +kernel
theorem witness_other_accesses :
    (let o := atOp (buf 64) (.forwarded 1 (16 * 65536 + 64))
     let s := one o
     let s1 := beforeRead s (opAg s o).core 6 (rmAcq 0)
     s.op? o.id = some o ∧ lineFault s (lineOf (16 * 65536 + 64)) = none ∧ linkDown s 0 = false ∧ linkDown s 1 = false ∧
       heldAs s1 (lineOf (16 * 65536 + 64)) 1 = none ∧ o.slot < 2048 ∧
       (Memory.wf s.dram = true ∧ ∀ e ∈ s.cores, Memory.wf e.2.scr = true ∧ Memory.wf e.2.acc = true) ∧
       portBusy s1 0 (16 * 65536 + 64) .write = false ∧ fillBusy s1 0 (lineOf (16 * 65536 + 64)) = false) ∧
    (let o := ldOp (buf 64) (.held 0)
     let s := seen o (withState leaf0 2) 200001
     s.op? o.id = some o ∧ o.kind.bytes = some (buf 64, 4) ∧ 0 + s.holdLimit < s.ref ∧ stillHeld s o = true) ∧
    (let o := ldOp (buf 64) (.peer 0)
     let s := ask (.peerTimeout 7) (one o 1000001)
     s.op? o.id = some o ∧ s.input = .peerTimeout o.id ∧ o.kind.bytes = some (buf 64, 4) ∧ 0 + s.peerTimeout < s.ref ∧
       peerHeld s = false) := by
  decide +kernel
/-- A load reads its bytes; a location without a leaf and a hold past its limit fail (R164, R323, R387). -/
theorem test_accesses :
    after (exec (.accessTranslate 7 none) (withScr 128 4 0x11223344 (one (ldOp (sEA 128))))) none (fun t => (t.op? 7).map (·.phase)) =
      some (.performed 0x11223344) ∧
    after (exec (.pageWalkComplete 0 (page1 9)) (withWalk 9 (one (stOp (buf (9 * 65536)) (.walking (page1 9) none))))) none (fun t => (t.op? 7).map (·.phase)) =
      some (.failed 0x48 (buf (9 * 65536)) 10) ∧
    after (exec (.holdLimitExpiry 7) (seen (ldOp (buf 64) (.held 0)) (withState leaf0 2) 200001)) none (fun t => (t.op? 7).map (·.phase)) =
      some (.failed 0x4A (buf 64) 0x2) := by decide +kernel

/-! ## Witnesses: retirement -/

/-- Thread 0 counts operation 7, the oldest of its class. -/
def oldestB (s : State) (o : Op) (p : Party) (k : Nat) (c : Cls) : Bool :=
  decide (s.op? o.id = some o ∧ s.party? o.slot = some p ∧ o.tids = [k] ∧ o.live = [k] ∧ o.cls = some c ∧ k < p.threads.length ∧
    olderThan s o k = [])
theorem oldest_of {s : State} {o : Op} {p : Party} {k : Nat} {c : Cls} (h : oldestB s o p k c = true) : OldestOf s o p k c := by
  constructor <;> simp_all [oldestB]
def partyOf0 (s : State) : Party := (s.party? 0).getD (startParty (installLaunch 0) (newBlock 0 0 0 0 0 0 0 0 []) 0)
/-- One operation, counted once in each class. -/
def counted (o : Op) : State :=
  onT (fun t => { t with cnt := { ld := 1, st := 1, cp := 1, tl := 1, bk := 1, gx := 1 } }) (one o)
theorem witness_retirement :
    (let o := ldOp (buf 64) (.performed 5)
     let s := counted o
     OldestOf s o (partyOf0 s) 0 .ld ∧ o.kind.result = some (.v 8, .one) ∧ ((partyOf0 s).thread 0).exited = false) ∧
    (let o := stOp (buf 64) (.performed 0)
     let s := counted o
     OldestOf s o (partyOf0 s) 0 .st ∧ o.kind.result = none) ∧
    (let o := flying .st (.abinit (sEA 0) 1) .done
     let s := counted o
     OldestOf s o (partyOf0 s) 0 .st) ∧
    (let o := stOp (buf 64) (.failed 0x48 (buf 64) 2)
     let s := counted o
     OldestOf s o (partyOf0 s) 0 .st ∧ (∀ x ∈ ((partyOf0 s).thread 0).pend, x.cls ≠ .st) ∧ (s.slot o.slot).st ≠ .saving) :=
  ⟨⟨oldest_of (by decide +kernel), by decide +kernel⟩, ⟨oldest_of (by decide +kernel), by decide +kernel⟩,
    oldest_of (by decide +kernel), oldest_of (by decide +kernel), by decide +kernel⟩
/-- A load's value reaches its register; a failed store's cause is pending (R31, R217). -/
theorem test_retirement :
    tAfter (.loadComplete 7) (counted (ldOp (buf 64) (.performed 5))) 0 (0, 9) (fun t => ((t.v.getD 8 0).toNat, t.cnt.ld)) = (5, 0) ∧
    tAfter (.commandRetire 7) (counted (stOp (buf 64) (.failed 0x48 (buf 64) 2))) 0 (9, []) (fun t => (t.cnt.st, t.pend)) =
      (0, [{ cls := .st, cause := 0x48, taddr := buf 64, tinfo := 2, op := 7 }]) := by decide +kernel

/-! ## Witnesses: causes, waits and segments -/

/-- A handler at PC 9, nothing in flight; thread 0 as f says. -/
def thread0 (f : Thread → Thread) : State :=
  onP (fun p => { p with threads := mapI (fun j t => if j = 0 then f t else t) 0 p.threads }) (handlerAt 9 (world [] []))
def pend0 : Pend := { cls := .st, cause := 0x48, taddr := buf 64, tinfo := 2 }
def causeHyps (s : State) (f : Thread → Prop) : Prop :=
  let p := partyOf0 s
  s.party? 0 = some p ∧ 0 < p.threads.length ∧ waitsGo s 0 = true ∧
    (p.thread 0).handler = false ∧ (p.thread 0).exited = false ∧ hpcOf s p.lid ≠ 0#16 ∧ s.ops = [] ∧ f (p.thread 0)
theorem witness_causes :
    causeHyps (thread0 fun t => { t with pend := [pend0] }) (fun u => u.pend = [pend0]) ∧
    causeHyps (thread0 fun t => { t with async := [0] }) (fun u => u.pend = [] ∧ u.async = [0]) := by
  unfold causeHyps
  decide +kernel
/-- A WAITC of one condition on the thread's counters, all at zero. -/
def waitCond : Cond := { kind := 2, op := 0, wide := false, scope := 0, acq := false, idx := 0, addr := 0, value := 0, mask := 0, seen := true }
theorem witness_waits :
    (let s := thread0 fun t => { t with hold := some (.waitc (.v 4) [waitCond] false none 0 5) }
     let p := partyOf0 s
     s.party? 0 = some p ∧ 0 < p.threads.length ∧ waitsGo s 0 = true ∧ (p.thread 0).deliverable = false ∧
       (p.thread 0).hold = some (.waitc (.v 4) [waitCond] false none 0 5) ∧ waitCond.kind = 2 ∧
       thresholdsHold (p.thread 0).cnt waitCond.value = true ∧ wordOf 5#16 ≠ 0) ∧
    (let s := thread0 fun t => { t with hold := some (.waitc (.v 4) [waitCond] true (some 0) 0 5) }
     let p := partyOf0 s
     s.party? 0 = some p ∧ waitsGo s 0 = true ∧ (p.thread 0).deliverable = false ∧
       (p.thread 0).hold = some (.waitc (.v 4) [waitCond] true (some 0) 0 5) ∧ 0 ≤ s.ref ∧
       ∀ c ∈ [waitCond], c.seen = true) ∧
    (let s := onP (fun p => { p with esc := some { cause := 0xB0, faddr := 0, pc := 0, tid := 0 } }) (world [] [])
     let p := partyOf0 s
     s.party? 0 = some p ∧ 0 < p.threads.length ∧ (s.slot 0).st = .run ∧ p.esc.isSome = true ∧ s.bars = [] ∧ s.ops = []) := by
  decide +kernel
/-- An oldest pending cause is delivered; a WAITC ends with bit 8 at its limit (R216, R141). -/
theorem test_delivery :
    after (exec (.deliverPendingCause 0 0) (thread0 fun t => { t with pend := [pend0] })) (none, none)
      (fun t => ((t.party? 0).map fun p => (p.thread 0).pc, (t.party? 0).map fun p => (p.thread 0).cause)) = (some 9, some 0x48) ∧
    after (exec (.waitcTimeout 0 0) (thread0 fun t => { t with hold := some (.waitc (.v 4) [waitCond] true (some 0) 1 5) })) none
      (fun t => (t.party? 0).map fun p => ((p.thread 0).v.getD 4 0, (p.thread 0).pc)) = some (0x101, 5) := by decide +kernel

/-- n answers of 32 bytes from an offset of buffer 2: the given ones, then zero. -/
def answers (off n : Nat) (xs : List Nat) : List (Nat × PeerReply) :=
  mapI (fun i x => (peerBuf (off + 32 * i), .done x)) 0 (xs ++ List.replicate (n - xs.length) 0)
/-- The code of the launch stands in buffer 2; segment 1 is as given. -/
def codeAt (st : SegSt) (rs : List (Nat × PeerReply)) : State :=
  let s := world [] []
  let s := { s with bufs := ((0, 2), entry2) :: s.bufs, input := .replies rs }
  let s := onL (fun l => { l with record := l.record + peerBuf 0 * 2 ^ 512 }) s
  s.setCore 0 { s.core 0 with segs := ((0, 1), { st := st, image := [(3, 7)] }) :: (s.core 0).segs }
def launchOf0 (s : State) : Launch := s.launches.headD (installLaunch 0)
/-- An answer that ends well, with a fact of its value and state. -/
def okB (r : Got) (f : Nat → State → Bool) : Bool :=
  match r with
  | .ok x t => f x t
  | _ => false
theorem ok_of {r : Got} {f : Nat → State → Bool} (h : okB r f = true) : ∃ x t, r = .ok x t ∧ f x t = true := by
  unfold okB at h
  split at h
  · exact ⟨_, _, rfl, h⟩
  · cases h
def faultB (r : Got) (f : Nat → Nat → State → Bool) : Bool :=
  match r with
  | .fault c ea t => f c ea t
  | _ => false
theorem fault_of {r : Got} {f : Nat → Nat → State → Bool} (h : faultB r f = true) : ∃ c ea t, r = .fault c ea t ∧ f c ea t = true := by
  unfold faultB at h
  split at h
  · exact ⟨_, _, _, rfl, h⟩
  · cases h
def holdB (r : Got) (f : Nat → State → Bool) : Bool :=
  match r with
  | .hold ea t => f ea t
  | _ => false
theorem hold_of {r : Got} {f : Nat → State → Bool} (h : holdB r f = true) : ∃ ea t, r = .hold ea t ∧ f ea t = true := by
  unfold holdB at h
  split at h
  · exact ⟨_, _, rfl, h⟩
  · cases h
/-- The facts of SameThreads. -/
def sameThreadsB (s t : State) : Bool := decide (t.ops = s.ops ∧ t.slots = s.slots ∧ t.launches = s.launches)
theorem witness_segments :
    (let s := codeAt .fetching (answers 4096 128 [0x12345678])
     let l := launchOf0 s
     s.launch? 0 = some l ∧ (segAt s 0 0 1).st = .fetching ∧ segOps s 0 0 1 = [] ∧
       ∃ x t, readBuf s l (coreAg l 0) (imageEa l 1) 4096 = .ok x t ∧ (decide (x = 0x12345678) && sameThreadsB s t) = true) ∧
    (let s := codeAt .fetching [(peerBuf 4096, .refused)]
     let l := launchOf0 s
     s.launch? 0 = some l ∧ (segAt s 0 0 1).st = .fetching ∧ segOps s 0 0 1 = [] ∧
       ∃ c ea t, readBuf s l (coreAg l 0) (imageEa l 1) 4096 = .fault c ea t ∧ sameThreadsB s t = true) ∧
    (let s := codeAt .fetching []
     let s := s.setCore 0 { s.core 0 with segs := [((0, 1), { st := .fetching, image := [], since := some 0 })] }
     let s := { s with ref := 1000001 }
     let l := launchOf0 s
     s.launch? 0 = some l ∧ (segAt s 0 0 1).st = .fetching ∧ segOps s 0 0 1 = [] ∧ (segAt s 0 0 1).since = some 0 ∧
       ∃ ea t, readBuf s l (coreAg l 0) (imageEa l 1) 4096 = .hold ea t ∧
         (decide (0 + waitLimit s l.ctx ea < s.ref) && sameThreadsB s t) = true) ∧
    (let s := codeAt .dropping []
     (segAt s 0 0 1).st = .dropping ∧ segEmpty s 0 0 1 = true ∧ segOps s 0 0 1 = []) :=
  ⟨⟨by decide +kernel, by decide +kernel, by decide +kernel, ok_of (by decide +kernel)⟩,
    ⟨by decide +kernel, by decide +kernel, by decide +kernel, fault_of (by decide +kernel)⟩,
    ⟨by decide +kernel, by decide +kernel, by decide +kernel, by decide +kernel,
      hold_of (f := fun ea t => decide (0 + waitLimit _ _ ea < _) && sameThreadsB _ t) (by decide +kernel)⟩, by decide +kernel⟩
/-- A CFETCH, fetching or dropping, that waits for segment 1. -/
def segOp (drop : Bool) : Op := opOf 7 (some .cf) (.cfetch 1 drop) .issued
theorem witness_waiting_cfetch :
    (∀ drop ∈ [false, true], let s := withOp (segOp drop) (codeAt .fetching (answers 4096 128 [0x12345678]))
     s.launch? 0 = some (launchOf0 s) ∧ (segAt s 0 0 1).st = .fetching ∧ segOps s 0 0 1 = [segOp drop] ∧
       (segOp drop).kind.isDrop = drop ∧ OldestOf s (segOp drop) (partyOf0 s) 0 .cf ∧ handlerSeg s 0 1 = false ∧
       ∃ x t, readBuf s (launchOf0 s) (coreAg (launchOf0 s) 0) (imageEa (launchOf0 s) 1) 4096 = .ok x t ∧ sameThreadsB s t = true) ∧
    (∀ drop ∈ [false, true], let s := withOp (segOp drop) (codeAt .fetching [(peerBuf 4096, .refused)])
     (segAt s 0 0 1).st = .fetching ∧ segOps s 0 0 1 = [segOp drop] ∧ OldestOf s (segOp drop) (partyOf0 s) 0 .cf ∧
       ∃ c ea t, readBuf s (launchOf0 s) (coreAg (launchOf0 s) 0) (imageEa (launchOf0 s) 1) 4096 = .fault c ea t ∧ sameThreadsB s t = true) ∧
    (let s := withOp (segOp true) (codeAt .dropping [])
     (segAt s 0 0 1).st = .dropping ∧ segEmpty s 0 0 1 = true ∧ segOps s 0 0 1 = [segOp true] ∧
       OldestOf s (segOp true) (partyOf0 s) 0 .cf) := by
  refine ⟨?_, ?_, by decide +kernel, by decide +kernel, by decide +kernel, oldest_of (by decide +kernel)⟩
  · rintro drop h
    simp only [List.mem_cons, List.not_mem_nil, or_false] at h
    rcases h with rfl | rfl <;> exact ⟨by decide +kernel, by decide +kernel, by decide +kernel, by decide +kernel,
      oldest_of (by decide +kernel), by decide +kernel, ok_of (f := fun _ t => sameThreadsB _ t) (by decide +kernel)⟩
  · rintro drop h
    simp only [List.mem_cons, List.not_mem_nil, or_false] at h
    rcases h with rfl | rfl <;> exact ⟨by decide +kernel, by decide +kernel, oldest_of (by decide +kernel),
      fault_of (f := fun _ _ t => sameThreadsB _ t) (by decide +kernel)⟩

end Sys2Proof.Tests
end

