-- ==== Sys2Proof/Tests/Slice0Slots.lean ====
section
/-! SUPPORT. Tests and witnesses: slots, binding, saves and restores. -/

namespace Sys2Proof.Tests

open Sys2Proof.Machine

set_option Elab.async false

/-! ## Witnesses: slots -/

theorem witness_slot_commands :
    (let s := ask (.slotPre 0 5 64) (world [] [])
     let p := partyOf0 s
     s.input = .slotPre 0 5 64 ∧ (s.slot 0).st = .run ∧ s.party? 0 = some p ∧ ((s.launch? p.lid).any fun l => l.isDet) = false) ∧
    (let s := ask (.slotHalt 0) (world [] [])
     s.input = .slotHalt 0 ∧ (s.slot 0).st = .run ∧ s.party? 0 = some (partyOf0 s)) ∧
    (let s := ask (.slotKill 0) (world [] [])
     s.input = .slotKill 0 ∧ (s.slot 0).st = .run ∧ s.party? 0 = some (partyOf0 s) ∧ (partyOf0 s).esc = none) ∧
    (let s := ask (.slotRelease 15) ((world [] []).setSlot 15 { Slot.init with st := .frozen })
     s.input = .slotRelease 15 ∧ (s.slot 15).st = .frozen ∧ (s.slot 15).repair = false) := by decide +kernel
/-- A RELEASE empties slot 15; a HALT is pending (R236, R450). -/
theorem test_slot_commands :
    after (exec .slotRelease (ask (.slotRelease 15) ((world [] []).setSlot 15 { Slot.init with st := .frozen }))) .run
      (fun t => (t.slot 15).st) = .free ∧
    after (exec .slotHalt (ask (.slotHalt 0) (world [] []))) [] (fun t => ((partyOf0 t).thread 63).async) = [0] := by decide +kernel

def onB (f : Block → Block) (s : State) : State := { s with blocks := s.blocks.map f }
/-- Slot 0 as f says, the launch not wholly dispatched, its block with no party on it. -/
def slotAs (f : Slot → Slot) : State :=
  let s := onB (fun b => { b with bound := [] }) (onL (fun l => { l with pending := [1] }) (world [] []))
  s.setSlot 0 (f (s.slot 0))
def blockOf0 (s : State) : Block := s.blocks.headD (newBlock 0 0 0 0 0 0 0 0 [])
def bind0 (kind image : Nat) (nv8 : Nat := 24) : Nat := bindRecord kind 0 0 0 nv8 (blockOf0 (world [] [])) image
theorem witness_dispatch :
    (let s := ask (.bindDispatch 0 0 (bind0 1 0)) (slotAs fun _ => Slot.init)
     let l := launchOf0 s
     let b := blockOf0 s
     l.lid = 0 ∧ s.launch? 0 = some l ∧ bindBlock s 0 (bind0 1 0) = some b ∧ bindOk s 0 (bind0 1 0) 1 l b = true ∧
       bind0 1 0 / 2 ^ 128 % 2 ^ 64 = 0 ∧ bindPidx (bind0 1 0) ∉ b.bound ∧ l.started = true ∧ l.pending ≠ []) ∧
    (let s := slotAs fun k => { k with st := .loading, bind := some { lid := 0, record := bind0 1 0 }, party := none }
     let l := launchOf0 s
     (s.slot 0).bind = some { lid := 0, record := bind0 1 0 } ∧ (s.slot 0).st = .loading ∧ bind0 1 0 / 2 ^ 28 % 2 ^ 4 = 1 ∧
       s.launch? 0 = some l ∧ bindBlock s 0 (bind0 1 0) = some (blockOf0 s) ∧ residentFailed s 0 l = none ∧
       residentLanded s 0 l = true ∧ (s.slot 0).heldPre = false ∧ (s.slot 0).heldHalt = false ∧ (s.slot 0).heldKill = false) ∧
    (let s := slotAs fun k => { k with st := .restoring }
     let p := partyOf0 s
     s.party? 0 = some p ∧ (s.slot 0).st = .restoring ∧ p.esc = none ∧ (s.slot 0).cancelled = [] ∧ (s.slot 0).heldPre = false ∧
       (s.slot 0).heldHalt = false ∧ (s.slot 0).heldKill = false ∧ (∀ u ∈ p.threads, u.barKept = none) ∧
       ∀ g < 64, restoreNeeds s p g = true → (segAt s (coreOf 0) p.lid g).st.fetchable = true) := by decide +kernel
/-- A dispatched party's threads stand at the entry (R341, R35). -/
theorem test_dispatch :
    after (exec (.dispatchStart 0) (onL (fun l => { l with record := l.record + 5 * 2 ^ 48 })
      (slotAs fun k => { k with st := .loading, bind := some { lid := 0, record := bind0 1 0 }, party := none }))) 0
      (fun t => ((partyOf0 t).thread 63).pc) = 5 := by decide +kernel

/-! ## Witnesses: saves and restores -/

/-- A party that declares 8 v registers; slot 0 as f says. -/
def small (f : Slot → Slot) : State :=
  let s := slotAs f
  let s := onL (fun l => { l with record := setFld l.record (8 * 8 + 24) 5 1 }) s
  let s := onP (fun p => { p with nv := 8, threads := p.threads.map fun t => { t with v := t.v.take 8 } }) s
  { s with bufs := ((0, 2), entry2) :: s.bufs }
/-- A copy of thread 0 under way. -/
def cpOp : Op := flying .cp (.copy 0x6B cpyLine 0 0x6B000400 0 0 []) .running
theorem witness_saves :
    (let s := slotAs fun k => { k with preq := true }
     let p := partyOf0 s
     s.party? 0 = some p ∧ (s.slot 0).st = .run ∧ p.esc = none ∧ (s.slot 0).preq = true ∧ (s.slot 0).migr = none ∧
       ∀ u ∈ p.threads, (u.handler = true → u.exited = true) ∧ u.deliverable = false) ∧
    (let s := slotAs fun k => { k with st := .saving, saveStep := 2 }
     (s.slot 0).st = .saving ∧ (s.slot 0).saveStep = 2 ∧ s.ops = []) ∧
    (let s := withOp cpOp { slotAs (fun k => { k with st := .saving, saveStep := 3, deadline := 2 }) with ref := 2048 }
     (s.slot 0).st = .saving ∧ (s.slot 0).saveStep = 3 ∧ cpOp ∈ s.ops ∧ cpOp.slot = 0 ∧ cpOp.phase = .running ∧
       (s.slot 0).saveFrom + 1024 * (s.slot 0).deadline ≤ s.ref) ∧
    (let s := onP (fun p => { p with threads := p.threads.map fun t => { t with exited := true } }) (world [] [])
     let p := partyOf0 s
     s.party? 0 = some p ∧ (s.slot 0).st = .run ∧ p.esc = none ∧ (∀ u ∈ p.threads, u.exited = true) ∧ s.ops = [] ∧
       (s.slot 0).repair = false) := by decide +kernel
/-- The image of a small party goes to buffer 2. -/
def savingSmall : State :=
  ask (.replies (answers 0 220 [])) (small fun k => { k with st := .saving, saveStep := 3, saveAddr := peerBuf 0 })
theorem witness_save_complete :
    let s := savingSmall
    let p := partyOf0 s
    let ws := imageOf s 0 p (s.slot 0).cancelled
    s.party? 0 = some p ∧ s.launch? p.lid = some (launchOf0 s) ∧ s.block? p.lid p.blin = some (blockOf0 s) ∧ (s.slot 0).st = .saving ∧
      (s.slot 0).saveStep = 3 ∧ s.ops = [] ∧ (s.slot 0).repair = false ∧
      imageCheck s (launchOf0 s) (s.slot 0).saveAddr (4 * ws.length) true = none ∧
      ∃ x t, writeWords (plainAg (coreOf 0) (launchOf0 s).ctx) ws.length s (s.slot 0).saveAddr ws = .ok x t ∧
        (decide (x = 0) && decide (t.slots = s.slots)) = true := by
  repeat' apply And.intro
  on_goal 9 => exact ok_of (by decide +kernel)
  all_goals decide +kernel

/-- A fold with the running value taken apart after each word, so that evaluation does not put it off. -/
def foldNow (f : Nat → Nat → Nat) : List Nat → Nat → Nat
  | [], c => c
  | w :: ws, c =>
    match f c w with
    | 0 => foldNow f ws 0
    | k + 1 => foldNow f ws (k + 1)
theorem fold_now (f : Nat → Nat → Nat) (ws : List Nat) (c : Nat) : ws.foldl f c = foldNow f ws c := by
  induction ws generalizing c with
  | nil => rfl
  | cons w ws ih =>
    rw [List.foldl_cons, ih]
    show foldNow f ws (f c w) = match f c w with
      | 0 => foldNow f ws 0
      | k + 1 => foldNow f ws (k + 1)
    generalize f c w = x
    cases x <;> rfl
/-- A context image of zeros for a party of 8 v registers, and its CRC. -/
def restoreWords (crc : Nat) : List Nat := [0x800001, 0x4008, 0, 0, 0, 0, 0, 0, 0, 0, 7040] ++ crc :: List.replicate 1748 0
def restoreCrc : Nat := 2773394263
/-- The image stands in buffer 2 of a peer, which answers the reads of this step. -/
def restoring : State :=
  let s := small fun _ => Slot.init
  let s := onB (fun b => { b with images := [{ pidx := 0, addr := peerBuf 0, live := 64, rank := 0, tag := 0 }] }) s
  ask (.bindRestore 0 0 (bind0 2 (peerBuf 0) 1)
    (answers 0 220 [ofWords ((restoreWords restoreCrc).take 8), ofWords (((restoreWords restoreCrc).drop 8).take 8)])) s
/-- A list read, with a fact of its words and state. -/
def wordsB (r : Except Got (List Nat × State)) (f : List Nat → State → Bool) : Bool :=
  match r with
  | .ok (ws, t) => f ws t
  | .error _ => false
theorem words_of {r : Except Got (List Nat × State)} {f : List Nat → State → Bool} (h : wordsB r f = true) :
    ∃ ws t, r = .ok (ws, t) ∧ f ws t = true := by
  unfold wordsB at h
  split at h
  · exact ⟨_, _, rfl, h⟩
  · cases h
theorem crc_of {ws : List Nat} {v : Nat}
    (h : foldNow (fun c w => (upTo 4).foldl (fun c i => crcByte c (byteAt w i)) c) ws 0xFFFFFFFF = v) :
    crc32c ws = Nat.xor v 0xFFFFFFFF := by
  unfold crc32c
  rw [fold_now, h]
theorem restore_crc : crc32c (restoreWords 0) = restoreCrc := crc_of (v := 1521573032) (by decide +kernel)
theorem restore_zero : imageZero (restoreWords restoreCrc) 8 0 = true := by decide +kernel
theorem restore_image_good : imageGood (restoreWords restoreCrc) 8 = true := by
  have h : (restoreWords restoreCrc).set 11 0 = restoreWords 0 := rfl
  have h3 : fld (wd (restoreWords restoreCrc) 3) 16 16 = 0 := by decide
  unfold imageGood
  simp only [h, restore_crc, h3, restore_zero]
  decide
theorem witness_restore :
    let s := restoring
    let l := launchOf0 s
    let b := blockOf0 s
    let record := bind0 2 (peerBuf 0) 1
    (l.lid = 0 ∧ s.launch? 0 = some l ∧ bindBlock s 0 record = some b ∧ restoreOk s 0 record l b = true ∧
      (∃ e ∈ b.images, e.pidx = bindPidx record) ∧ record / 2 ^ 128 % 2 ^ 64 = peerBuf 0 ∧ bindNv8 record = 1 ∧
      imageCheck s l (peerBuf 0) 896 false = none) ∧
    ∃ h s1, readWords (plainAg 0 l.ctx) 112 s (peerBuf 0) 224 = .ok (h, s1) ∧
      (decide (wd h 3 / 2 ^ 16 % 2 ^ 16 = 0 ∧ imageCheck s1 l (peerBuf 0) (imageSize 8 0) false = none) && wordsB (readWords (plainAg 0 l.ctx) 1760 s1 (peerBuf 0) 1760)
        fun ws _ => decide (ws = restoreWords restoreCrc)) = true :=
  ⟨by decide +kernel, words_of (by decide +kernel)⟩
theorem witness_restore_image :
    let s := restoring
    ∃ t, readImage s (launchOf0 s) (plainAg 0 (launchOf0 s).ctx) (peerBuf 0) 8 = .good (restoreWords restoreCrc) t := by
  obtain ⟨⟨-, -, -, -, -, -, -, hc⟩, h, s1, hr, h2⟩ := witness_restore
  simp only [Bool.and_eq_true, decide_eq_true_eq] at h2
  obtain ⟨ws, t, hw, he⟩ := words_of h2.2
  have hz : fld (wd h 3) 16 16 = 0 := h2.1.1
  refine ⟨t, ?_⟩
  have hs : imageSize 8 0 / 4 = 1760 := by decide
  unfold readImage
  simp only [hc, Option.isSome_none, Bool.false_eq_true, if_false, hr, hz, hs]
  have hg := restore_image_good
  simp only [decide_eq_true_eq] at he
  subst he
  simp only [h2.1.2, Option.isSome_none, Bool.false_eq_true, if_false, hw, hg, if_true]

end Sys2Proof.Tests
end

