-- ==== Sys2Proof/Tests/Slice0Engines.lean ====
section
/-! SUPPORT. Tests and witnesses: copies, gathers, the tile engine, geometry, bank arithmetic, collectives, coherence. -/

namespace Sys2Proof.Tests

open Sys2Proof.Machine

set_option Elab.async false

/-! ## Witnesses: engines at work -/

/-- A copy of 16 bytes of thread 0. -/
def cpIn (phase : Phase) (w : Work := {}) (d : Nat := cpyLine) : Op :=
  { flying .cp (.copy 0x6B d 0 0x6B000400 0 0 [{ core := 0, base := 0, gen := 0 }]) phase with work := w }
def startB (r : CpStart) (f : List Packet → State → Bool) : Bool :=
  match r with
  | .ok ps t => f ps t
  | _ => false
theorem start_of {r : CpStart} {f : List Packet → State → Bool} (h : startB r f = true) : ∃ ps t, r = .ok ps t ∧ f ps t = true := by
  unfold startB at h
  split at h
  · exact ⟨_, _, rfl, h⟩
  · cases h
theorem witness_copy_start :
    let o := cpIn .issued
    let s := counted o
    (s.op? o.id = some o ∧ s.launch? o.lid = some (launchOf0 s) ∧ o.ready s = true ∧ (s.party? o.slot).isSome = true ∧
      copyStalled s o = false) ∧
    ∃ ps t, cpStart s o (launchOf0 s) 0x6B cpyLine 0 [{ core := 0, base := 0, gen := 0 }] = .ok ps t ∧ (ps.length == 1 && sameThreadsB s t) = true :=
  ⟨by decide +kernel, start_of (by decide +kernel)⟩
/-- A packet of 4 bytes for scratchpad offset 0x800, of allocation generation g of its portion. -/
def packet (g fate : Nat) : Packet := { tgt := 0, core := some 0, parts := [(0x800, 4, 0x11223344)], gen := some (0, g), fate := fate }
theorem witness_packets :
    ∀ g ∈ [0, 5], let o := cpIn .running { packets := [packet g 0] }
      let s := counted o
      s.op? o.id = some o ∧ copyStalled s o = false ∧ o.work.packets[0]? = some (packet g 0) ∧ packetLive s (packet g 0) = decide (g = 0) := by decide +kernel
/-- The ring of a launch, with room: its control block at offset 0x4000 of buffer 1, 4 records. -/
def withRing (s : State) : State :=
  onL (fun l => { l with rings := List.replicate 5 (buf 0x4000) }) { s with dram := Memory.write s.dram (16 * 2 ^ 16 + 0x4010) 4 2 }
theorem posted_of {r : Option Nat × Got} {f : Nat → State → Bool} (h : okB r.2 f = true) :
    ∃ c n t, r = (c, .ok n t) ∧ f n t = true :=
  have ⟨n, t, got, fact⟩ := ok_of h
  ⟨r.1, n, t, Prod.ext rfl got, fact⟩
theorem witness_copy_ends :
    (let o := cpIn .running { packets := [packet 0 1] }
     let s := counted o
     OldestOf s o (partyOf0 s) 0 .cp ∧ copyStalled s o = false ∧ cpRing cpyLine = 0 ∧ cpSig cpyLine = 0 ∧ o.work.fail = none ∧
       ∀ x ∈ o.work.packets, x.fate ≠ 0) ∧
    (let o := cpIn (.failing 0x48 (buf 64) 1)
     let s := counted o
     OldestOf s o (partyOf0 s) 0 .cp ∧ CanPend s o (partyOf0 s) 0 .cp ∧ copyStalled s o = false ∧ 0x48 < 0xA0) ∧
    (let o := cpIn (.post 0 0 0)
     let s := withRing (counted o)
     OldestOf s o (partyOf0 s) 0 .cp ∧ o.work.fail = none ∧ postStalled s o = false ∧
       ∃ r n t, postFrom s (postAg s o) (ringOf s o) o.work.reserved 0 o.work.moved o.tag 0 0 = (r, .ok n t) ∧ sameThreadsB s t = true) := by
  refine ⟨⟨oldest_of (by decide +kernel), by decide +kernel⟩, ⟨oldest_of (by decide +kernel), ?_, by decide +kernel⟩,
    oldest_of (by decide +kernel), by decide +kernel, by decide +kernel, posted_of (by decide +kernel)⟩
  unfold CanPend
  decide +kernel
/-- A layout record at scratchpad offset 0x400, and the command that installs it as handle 0. -/
def lrOp : Op := flying .cp (.lrld 0 (sEA 0x400)) .issued
/-- A gather whose indices stand at scratchpad offset 0x480. -/
def gaOp (d : Nat) : Op := flying .gx (.gather d none) .issued
def gatB (r : Option GatEnd) (f : State → Bool) : Bool :=
  match r with
  | some (.done t) => f t
  | _ => false
theorem gat_of {r : Option GatEnd} {f : State → Bool} (h : gatB r f = true) : ∃ t, r = some (.done t) ∧ f t = true := by
  unfold gatB at h
  split at h
  · exact ⟨_, rfl, h⟩
  · cases h
def gatFaultB (r : Option GatEnd) (f : Nat → Nat → Nat → State → Bool) : Bool :=
  match r with
  | some (.fault c ea i t) => f c ea i t
  | _ => false
theorem gatFault_of {r : Option GatEnd} {f : Nat → Nat → Nat → State → Bool} (h : gatFaultB r f = true) :
    ∃ c ea i t, r = some (.fault c ea i t) ∧ f c ea i t = true := by
  unfold gatFaultB at h
  split at h
  · exact ⟨_, _, _, _, rfl, h⟩
  · cases h
/-- The gather's table beyond what its buffer has mapped. -/
def gatBad : Nat := gatDesc - buf 0x1000 + buf (9 * 65536)
theorem witness_lrld_and_gathers :
    (let s := withScr 0x400 128 lay84 (counted lrOp)
     OldestOf s lrOp (partyOf0 s) 0 .cp ∧ lrOp.ready s = true ∧ s.launch? 0 = some (launchOf0 s) ∧
       layOk (launchOf0 s).fmtSlot lay84 = true ∧
       ∃ x t, readEa s (opAg s lrOp) (sEA 0x400) 128 = .ok x t ∧ (x == lay84 && sameThreadsB s t) = true) ∧
    (let s := counted (gaOp gatDesc)
     OldestOf s (gaOp gatDesc) (partyOf0 s) 0 .gx ∧ gatReady s (gaOp gatDesc) = true ∧
       ∃ t, gatExec s (gaOp gatDesc) = some (.done t) ∧ sameThreadsB s t = true) ∧
    (let s := counted (gaOp gatBad)
     OldestOf s (gaOp gatBad) (partyOf0 s) 0 .gx ∧ gatReady s (gaOp gatBad) = true ∧
       ∃ c ea i t, gatExec s (gaOp gatBad) = some (.fault c ea i t) ∧ (decide (c < 0xA0) && sameThreadsB s t) = true) :=
  ⟨⟨oldest_of (by decide +kernel), by decide +kernel, by decide +kernel, by decide +kernel, ok_of (by decide +kernel)⟩,
    ⟨oldest_of (by decide +kernel), by decide +kernel, gat_of (by decide +kernel)⟩,
    oldest_of (by decide +kernel), by decide +kernel, gatFault_of (by decide +kernel)⟩
/-- A live packet lands and a stale one counts as a late write (R271); the done copy leaves its class (R31). -/
theorem test_packets :
    (after (exec (.copyWritePacket 7 0) (counted (cpIn .running { packets := [packet 0 0] }))) (9, 9)
      fun t => (Memory.read (t.core 0).scr 0x800 4, (t.core 0).latew)) = (0x11223344, 0) ∧
    (after (exec (.copyWritePacket 7 0) (counted (cpIn .running { packets := [packet 5 0] }))) (9, 9)
      fun t => (Memory.read (t.core 0).scr 0x800 4, (t.core 0).latew)) = (0, 1) ∧
    tAfter (.copyDone 7) (counted (cpIn .running { packets := [packet 0 1] })) 0 9 (·.cnt.cp) = 0 := by decide +kernel

/-- The multiply of 12_tile_engine.md's example as operation 7, in the queue of core 0's tile engine where it has been accepted. -/
def mmOp (phase : Phase) (w : Work := {}) : Op := { flying .tl (.tile 0x6E mmaBlk (sEA 0x400) 0) phase with work := w }
def tiled (q : List Nat) (o : Op) : State :=
  let s := onL (withWord 0x00100001) (counted o)
  s.setCore 0 { s.core 0 with tileQ := q, tileT := q.map fun _ => 25 }
def shadow7 : Shadow := { op := 7, lid := 0, blin := 0, pidx := 0, tag := 0x90000, count := 16, devs := [0, 0x3F800000] }
def shadowed : State :=
  let s := withRing (world [] [])
  s.setCore 0 { s.core 0 with shadows := [shadow7] }
theorem witness_tile_commands :
    (let o := mmOp .issued
     let s := tiled [1, 2, 3] o
     s.op? o.id = some o ∧ s.launch? o.lid = some (launchOf0 s) ∧ tileTurn s o = true ∧ (s.core 0).tileQ.length < 4 ∧
       (s.core 0).tileT.sum + tileCharge (launchOf0 s) 0x6E mmaBlk 0 ≤ 4096) ∧
    (let o := mmOp .queued
     let s := tiled [7] o
     s.op? o.id = some o ∧ (s.core 0).tileQ.head? = some o.id ∧ o.ready s = true ∧ tileStalled s o = false ∧ o.work.count = 0 ∧
       tileFailure s o (launchOf0 s) 0x6E mmaBlk 0 = none ∧ (mulOf? s o (launchOf0 s) 0x6E mmaBlk 0).isSome = true) ∧
    (let o := mmOp .queued
     let s := { tiled [7] o with armed := some (.sramWord 0 0) }
     tileFailure s o (launchOf0 s) 0x6E mmaBlk 0 = some (Cause.hwSram, sEA 0) ∧ tileStalled s o = false ∧ (s.core 0).tileQ.head? = some o.id ∧
       o.ready s = true) ∧
    (let o := mmOp .running { vals := [1, 2] }
     let s := tiled [7] o
     OldestOf s o (partyOf0 s) 0 .tl ∧ tbRing mmaBlk = 0 ∧ (s.core 0).shadows = [] ∧ tileStalled s o = false ∧ o.work.packets = [] ∧ tbSig mmaBlk = 0 ∧
       o.work.fail = none ∧ o.work.vals ≠ [] ∧ (s.core 0).tileQ.head? = some o.id) ∧
    (let o := mmOp (.failing 0x48 (buf 64) 1)
     let s := tiled [] o
     OldestOf s o (partyOf0 s) 0 .tl ∧ tileStalled s o = false ∧ CanPend s o (partyOf0 s) 0 .tl) ∧
    (shadow7 ∈ (shadowed.core 0).shadows ∧ ∀ c < 128, ∀ x ∈ (shadowed.core c).shadows, x.op = 7 → c = 0 ∧ x = shadow7) := by
  have h : (List.range 128).all (fun c => (shadowed.core c).shadows.all fun x => decide (c = 0 ∧ x = shadow7)) = true := by
    decide +kernel
  refine ⟨by decide +kernel, by decide +kernel, by decide +kernel, ⟨oldest_of (by decide +kernel), by decide +kernel⟩,
    ⟨oldest_of (by decide +kernel), by decide +kernel, ?_⟩, by decide +kernel, fun c hc x hx _ => ?_⟩
  · unfold CanPend
    decide +kernel
  · exact of_decide_eq_true (List.all_eq_true.mp (List.all_eq_true.mp h c (List.mem_range.mpr hc)) x hx)
/-- The chunk order of 12_tile_engine.md's example: columns 0 and 1 of B give 6.0 and 3.0, where a sequential loop gives 5.0 for the first. -/
def exampleTiles : State :=
  let one := 0x3FF0000000000000
  let big := 0x43B0000000000000
  let put := fun (a : Nat) (xs : List Nat) (s : State) => (mapI (fun k x => (a + 128 * k, x)) 0 xs).foldl (fun s e => withScr e.1 8 e.2 s) s
  let s := tiled [7] (mmOp .queued)
  let s := (List.range 8).foldl (fun s k => withScr (8 * k) 8 one s) s
  put 0x408 [one, one, one, big, big + 2 ^ 63, one, one, one] (put 0x400 [big, one, big + 2 ^ 63, one, one, one, one, one] s)
theorem test_tile_chunks :
    ((mulOf? exampleTiles (mmOp .queued) (launchOf0 exampleTiles) 0x6E mmaBlk 0).map fun m => (m.result exampleTiles 0 mmaBlk).take 2) =
      some [0x4018000000000000, 0x4008000000000000] := by decide +kernel
/-- The end of a multiply writes its elements and leaves the queue and the class tl; a block of 1 by 2 elements stands for larger ones. -/
def mmSmall : Op :=
  { flying .tl (.tile 0x6E (0x00020000 + 2 ^ 32 + 2 * 2 ^ 48 + 8 * 2 ^ 64) (sEA 0x400) 0) .running with
    work := { vals := [0x4018000000000000, 0x4008000000000000] } }
theorem test_tile_end :
    (after (exec (.tileRunDone 7) (tiled [7] mmSmall)) (9, 9, [9])
      fun t => (Memory.read (t.core 0).acc 0 8, Memory.read (t.core 0).acc 8 8, (t.core 0).tileQ)) =
      (0x4018000000000000, 0x4008000000000000, []) ∧
    tAfter (.tileRunDone 7) (tiled [7] mmSmall) 0 9 (·.cnt.tl) = 0 := by decide +kernel

/-! ## Witnesses: geometry -/

/-- A node of a cluster graph: centre, half-extents, ERR, parent and its ERR, slot, residence, children. -/
def node (c h : List Nat) (err perr par fcl fch nch : Nat) (res : Bool) : Nat :=
  ofWords (c ++ h ++ [err, perr, par, fcl, if res then 2 ^ 31 else 0, fch, nch])
/-- The graph of 17_geometry.md's example: header and six nodes, 64 bytes each. -/
def graph : List Nat :=
  let box := fun (x h : Nat) => ([x, 0, 0x42C80000], [h, h, h])
  let leaf := fun (n perr par : Nat) (res : Bool) => node [0, 0, 0x42C80000] [0, 0, 0] 0 perr par n 0 0 res
  [1 + 6 * 2 ^ 32 + 2 ^ 64 + buf 0x8000 * 2 ^ 128,
   node (box 0 0x41200000).1 (box 0 0x41200000).2 0x3F000000 0x7F800000 0xFFFFF 0 1 2 true,
   node (box 0xC0A00000 0x40A00000).1 (box 0 0x40A00000).2 0x3D800000 0x3F000000 0 1 3 1 true,
   node (box 0x40A00000 0x40A00000).1 (box 0 0x40A00000).2 0x3E800000 0x3F000000 0 2 4 2 true,
   leaf 3 0x3D800000 1 true, leaf 4 0x3E800000 2 true, leaf 5 0x3E800000 2 false]
def cutDesc2 : Nat := cutDesc - buf 0x1000 + peerBuf 0x1000
def geoOp (opc d : Nat) (phase : Phase) (w : Work := {}) : Op := { flying .gx (.geom opc d (if opc = 0x73 then target84 else 0)) phase with work := w }
/-- The graph stands in a peer's buffer 2, the cut list of 8 entries at offset 0x2000 of buffer 1; handle 0 is a target. -/
def geo (o : Op) : State :=
  let s := counted o
  let s := onL (fun l => { l with layouts := [some target84] }) s
  { s with
    bufs := ((0, 2), entry2) :: s.bufs
    dram := Memory.write s.dram (16 * 2 ^ 16 + 0x2000) 4 8
    input := .replies (answers 0x1000 14 (graph.flatMap fun x => [x % 2 ^ 256, x / 2 ^ 256])) }
def geoCx (s : State) (o : Op) (opc d : Nat) : GeoCx := { launch := launchOf0 s, ag := opAg s o, version := geVersion opc d }
def geoB (r : Geo Work) (f : Work → State → Bool) : Bool :=
  match r with
  | .ok w t => f w t
  | _ => false
theorem geo_of {r : Geo Work} {f : Work → State → Bool} (h : geoB r f = true) : ∃ w t, r = .ok w t ∧ f w t = true := by
  unfold geoB at h
  split at h
  · exact ⟨_, _, rfl, h⟩
  · cases h
/-- The selection of the example: nodes 1 and 2, the second a substitute, and a request for node 5 (R355). -/
theorem witness_cut_start :
    let o := geoOp 0x72 cutDesc2 .issued
    let s := geo o
    (s.op? o.id = some o ∧ s.launch? o.lid = some (launchOf0 s) ∧ o.ready s = true ∧ geomStalled s o 0x72 = false) ∧
      ∃ w t, cutStart (geoCx s o 0x72 cutDesc2) s cutDesc2 = .ok w t ∧
        (decide (w.packets.map (·.parts) = [[(buf 0x2040, 16, buf 0x9000 + 2 ^ 64)],
            [(buf 0x2050, 16, buf 0xA000 + 2 * 2 ^ 64 + 256 * 2 ^ 96)]] ∧ w.aux = [2, 0, 5]) && sameThreadsB s t) = true :=
  ⟨by decide +kernel, geo_of (by decide +kernel)⟩
theorem witness_other_starts :
    (let o := geoOp 0x73 rastDesc .issued
     let s := geo o
     o.ready s = true ∧ geomStalled s o 0x73 = false ∧ ∃ w t, rastStart (geoCx s o 0x73 rastDesc) s rastDesc target84 = .ok w t ∧ sameThreadsB s t = true) ∧
    (let o := geoOp 0x74 rayDesc .issued
     let s := geo o
     o.ready s = true ∧ geomStalled s o 0x74 = false ∧ ∃ w t, rayStart (geoCx s o 0x74 rayDesc) s rayDesc = .ok w t ∧ sameThreadsB s t = true) :=
  ⟨⟨by decide +kernel, by decide +kernel, geo_of (by decide +kernel)⟩, by decide +kernel, by decide +kernel, geo_of (by decide +kernel)⟩
theorem witness_geometry_ends :
    (let o := geoOp 0x72 cutDesc2 .running { packets := toGlobal [[(buf 0x2040, 16, 5)]], aux := [1, 0] }
     let s := geo o
     OldestOf s o (partyOf0 s) 0 .gx ∧ geRing 0x72 cutDesc2 = 0 ∧ geSig 0x72 cutDesc2 = 0 ∧ geSring cutDesc2 = 0 ∧
       let r := writeUnits (launchOf0 s) (opAg s o) o.work.packets s
       ∃ x s1, r.2.2 = .ok x s1 ∧ okB (cutHeader s1 (launchOf0 s) (opAg s o) cutDesc2
         { o.work with packets := r.1, moved := o.work.moved + r.2.1 }) (fun _ t => sameThreadsB s t) = true) ∧
    (let o := geoOp 0x73 rastDesc .running { vals := [8], aux := [5] }
     let s := geo o
     OldestOf s o (partyOf0 s) 0 .gx ∧ geRing 0x73 rastDesc = 0 ∧ geSig 0x73 rastDesc = 0 ∧
       ∃ y t, (pixelMins (launchOf0 s) (opAg s o) (geTbase rastDesc) ((o.work.vals.zip o.work.aux).drop o.work.next) o.work.next s).2 =
         .ok y t ∧ sameThreadsB s t = true) ∧
    (let o := geoOp 0x74 rayDesc .running { vals := [7] }
     let s := geo o
     OldestOf s o (partyOf0 s) 0 .gx ∧ geRing 0x74 rayDesc = 0 ∧ geSig 0x74 rayDesc = 0 ∧
       ∃ y t, engWrite s (launchOf0 s) (opAg s o) (geHit rayDesc) 32 7 = .ok y t ∧ sameThreadsB s t = true) ∧
    (let o := geoOp 0x73 rastDesc (.failing 0x48 (buf 64) 1)
     let s := geo o
     OldestOf s o (partyOf0 s) 0 .gx ∧ geomStalled s o 0x73 = false ∧ CanPend s o (partyOf0 s) 0 .gx) := by
  refine ⟨⟨oldest_of (by decide +kernel), by decide +kernel, by decide +kernel, by decide +kernel, ok_of (by decide +kernel)⟩,
    ⟨oldest_of (by decide +kernel), by decide +kernel, by decide +kernel, ok_of (by decide +kernel)⟩,
    ⟨oldest_of (by decide +kernel), by decide +kernel, by decide +kernel, ok_of (by decide +kernel)⟩,
    oldest_of (by decide +kernel), by decide +kernel, ?_⟩
  unfold CanPend
  decide +kernel

/-! ## Witnesses: bank arithmetic -/

/-- A block of one command for pseudo-channel 8 of stack 3, at port and bank units as they stand in the middle of a run. -/
def bkOne (c : Nat) : Nat := 9 * 2 ^ 44 + 2 ^ 128 * c
def bankOp (c : Nat) (phase : Phase) (next : Nat := 0) (flag : Bool := false) : Op :=
  { flying .bk (.bank (bkOne c) (sEA 0x400)) phase with work := { vals := [0, 3, 8], next := next, flag := flag } }
def banked (o : Op) (blocks : List Nat := [7]) : State :=
  let s := withBank (counted o)
  let s := s.setPort (3, 8) { blocks := blocks, allBank := false, lastCtx := some 0 }
  s.setBank (3, 8, 1) { row := some 100 }
/-- Columns of the units that one command names: bank 1, row 0, column 0; bv0, ba 0. -/
def bankWord (op : Nat) : Nat := op * 2 ^ 28 + 0x00800000
def enterWord : Nat := 2 ^ 40
def bankReadyB (s : State) (o : Op) (op b c e : Nat) : Bool :=
  decide (nextBankCmd s o.id op = some (o, b, c) ∧ bufOf s o.bankAt.1 (eaIdx (bkBuf b)) = some e ∧ bcAll c = false ∧
    bankPageBad s o.bankAt.1 b c (bcBank c) = none ∧ (s.bank (o.bankAt.2.1, o.bankAt.2.2, bcBank c)).row = some (bankRow e c) ∧
    bcOp c ≠ 0 ∧ (s.bank (o.bankAt.2.1, o.bankAt.2.2, bcBank c)).queue = if o.deliveredCmd then [c] else [])
theorem bankReady_of {s : State} {o : Op} {op b c e : Nat} (h : bankReadyB s o op b c e = true) : BankReady s o op b c e := by
  constructor <;> simp_all [bankReadyB]
theorem witness_bank_columns :
    ∀ k ∈ [1, 2, 3, 4, 5], BankReady (banked (bankOp (bankWord k) .running)) (bankOp (bankWord k) .running) k (bkOne (bankWord k))
      (bankWord k) entry9 := by
  intro k hk
  have h : [1, 2, 3, 4, 5].all (fun k => bankReadyB (banked (bankOp (bankWord k) .running)) (bankOp (bankWord k) .running) k
    (bkOne (bankWord k)) (bankWord k) entry9) = true := by decide +kernel
  exact bankReady_of (List.all_eq_true.mp h k hk)
theorem witness_bank_blocks :
    (let o := bankOp (bankWord 7) .issued
     let s := banked o [1]
     s.op? o.id = some o ∧ bankDest s o (bkOne (bankWord 7)) = some (0, 3, 8) ∧ bankTurn s o (0, 3, 8) = true ∧
       linkDown s (dieOf (coreOf o.slot)) = false) ∧
    (let o := bankOp (bankWord 7) .queued
     let s := { banked o with ports := [((3, 8), { blocks := [7], lastCtx := some 5 })] }
     s.op? o.id = some o ∧ (s.port o.portKey).blocks.head? = some o.id ∧ s.out (.port o.portKey.1) = false ∧
       (s.port o.portKey).lastCtx ≠ some o.bankAt.1) ∧
    (∀ c ∈ [0, enterWord], let o := bankOp c .running
     let s := banked o
     nextBankCmd s o.id 0 = some (o, bkOne c, c) ∧ bcEnter c = decide (c = enterWord) ∧ allBankCount s < s.allBankLimit) ∧
    (let o := bankOp enterWord .running 0 true
     let s := banked o
     s.op? o.id = some o ∧ o.work.flag = true ∧ allBankCount s < s.allBankLimit ∧ s.out (.port o.portKey.1) = false) ∧
    (let o := bankOp (bankWord 6 + 6 * 2 ^ 40 + 0xFFFF * 2 ^ 64) .running
     let s := banked o
     nextBankCmd s o.id 6 = some (o, bkOne (bankWord 6 + 6 * 2 ^ 40 + 0xFFFF * 2 ^ 64), bankWord 6 + 6 * 2 ^ 40 + 0xFFFF * 2 ^ 64) ∧
       bcAll (bankWord 6 + 6 * 2 ^ 40 + 0xFFFF * 2 ^ 64) = false) ∧
    (let o := bankOp (7 * 2 ^ 28) .running
     nextBankCmd (banked o) o.id 7 = some (o, bkOne (7 * 2 ^ 28), 7 * 2 ^ 28)) ∧
    (let s := (world [] []).setStack 3 { waiting := [(8, 1, 100)] }
     (s.stack 3).waiting = [(8, 1, 100)] ∧
       ((s.stack 3).admitted.filter fun x => s.ref < x + (s.stack 3).twin).length < (s.stack 3).actmax) := by decide +kernel
theorem witness_bank_end :
    let o := bankOp 0 .running 1
    let s := banked o
    OldestOf s o (partyOf0 s) 0 .bk ∧ bkN (bkOne 0) ≤ o.work.next ∧ s.out (.port o.portKey.1) = false :=
    ⟨oldest_of (by decide +kernel), by decide +kernel⟩
/-- The dot product of 21_bank_arithmetic.md's example: 0.5 times 0 to 15 in binary16 gives 60.0. -/
def dotColumn : Nat :=
  ofWords [0x3C000000, 0x42004000, 0x45004400, 0x47004600, 0x48804800, 0x49804900, 0x4A804A00, 0x4B804B00]
theorem test_bank_dot :
    let o := bankOp (bankWord 3) .running
    let s := banked o
    let s := s.setBank (3, 8, 1) { bv0 := ofWords (List.replicate 8 0x38003800), row := some 100 }
    let s := { s with dram := Memory.write s.dram (colAddr entry9 3 8 1 (bankWord 3)) 32 dotColumn }
    after (exec (.bkMac 7) s) [] (fun t => (t.bank (3, 8, 1)).ba.take 2) = [0x42700000, 0] := by decide +kernel

/-! ## Witnesses: collectives and coherence -/

def coOp (d seg : Nat) (phase : Phase) (w : Work := {}) : Op := { flying .cp (.coll d group1 seg 0) phase with work := w }
def coCmd (o : Op) (d seg : Nat) : CollCmd := { op := o, desc := d, group := group1, segs := segsOf d seg, start := 0 }
def readsOkB (r : Except (Option (Nat × Nat) × State) (List CollRead × State)) (f : List CollRead → State → Bool) : Bool :=
  match r with
  | .ok (ds, t) => f ds t
  | .error _ => false
theorem readsOk_of {r : Except (Option (Nat × Nat) × State) (List CollRead × State)} {f : List CollRead → State → Bool} (h : readsOkB r f = true) :
    ∃ ds t, r = .ok (ds, t) ∧ f ds t = true := by
  unfold readsOkB at h
  split at h
  · exact ⟨_, _, rfl, h⟩
  · cases h
/-- A segment's bytes, not yet received. -/
def segPacket (fate : Nat) : Packet := { tgt := 0, core := none, parts := [(sEA 0x900, 8, 5)], gen := none, fate := fate }
theorem witness_collective_matches :
    let o := coOp collAll1 0 .issued
    let s := counted o
    let c := coCmd o collAll1 0
    (s.op? o.id = some o ∧ s.launch? o.lid = some (launchOf0 s) ∧ collHere s c = [c] ∧ collAll s c [] = true ∧
      collHeard s c = true ∧ collMismatch [c] [] = false) ∧
    ∃ ds t, collReads [c] s = .ok (ds, t) ∧ (decide (ds = [.ok [0]]) && sameThreadsB s t) = true :=
  ⟨by decide +kernel, readsOk_of (by decide +kernel)⟩
theorem witness_halo :
    let o := coOp collHalo1 seg1 .running { packets := [segPacket 0] }
    let s := counted o
    (s.op? o.id = some o ∧ coKind collHalo1 = 0 ∧ (o.work.packets.findIdx? fun p => p.tgt == 0) = some 0 ∧
      o.work.packets[0]? = some (segPacket 0) ∧ collHeard s (coCmd o collHalo1 seg1) = true) ∧
    ∃ y t, engWrite s (launchOf0 s) (opAg s o) (sEA 0x900) 8 5 = .ok y t ∧ sameThreadsB s t = true :=
  ⟨by decide +kernel, ok_of (by decide +kernel)⟩
/-- The all-reduce with a limit of 1,024 ticks. -/
def collTmo1 : Nat := collAll1 + 2 ^ 400
theorem witness_collective_ends :
    (let o := coOp collHalo1 seg1 .running { packets := [segPacket 1] }
     let s := counted o
     OldestOf s o (partyOf0 s) 0 .cp ∧ coRing collHalo1 = 0 ∧ coKind collHalo1 = 0 ∧ (∀ x ∈ o.work.packets, x.fate = 1) ∧
       o.work.flag = false ∧ o.work.next ≤ o.work.count ∧ (∀ i ∈ o.work.aux, i ∈ s.acks) ∧ coSig collHalo1 = 0 ∧ o.work.fail = none ∧ collStalled s o = false) ∧
    (let o := coOp collTmo1 0 .running
     let s := { counted o with ref := 1024 }
     OldestOf s o (partyOf0 s) 0 .cp ∧ CanPend s o (partyOf0 s) 0 .cp ∧ coRing collTmo1 = 0 ∧ coTmo collTmo1 ≠ 0 ∧
       0 + 1024 * coTmo collTmo1 ≤ s.ref ∧ collStalled s o = false) ∧
    (let o := coOp collAll1 0 (.failing 0x48 (buf 64) 1)
     let s := counted o
     OldestOf s o (partyOf0 s) 0 .cp ∧ collStalled s o = false ∧ CanPend s o (partyOf0 s) 0 .cp) := by
  refine ⟨⟨oldest_of (by decide +kernel), by decide +kernel⟩, ⟨oldest_of (by decide +kernel), ?_, by decide +kernel⟩,
    oldest_of (by decide +kernel), by decide +kernel, ?_⟩
  · unfold CanPend; decide +kernel
  · unfold CanPend; decide +kernel

/-- Line 8192 of DRAM, of which die 0 holds a copy in a state; dies 0 and 1 run. -/
def lined (st : Moesi) : State :=
  let s := world [] []
  let s := s.setDie 1 { s.die 1 with cond := .running }
  s.setL2 0 8192 { st := st, sect := 15, data := 0x0123456789ABCDEF }
theorem witness_snoops :
    (∀ st ∈ [Moesi.m, .o, .e, .s], let s := lined st
      dieUp s 0 = true ∧ holds s 8192 0 = true ∧ s.l2? 0 8192 = some { st := st, sect := 15, data := 0x0123456789ABCDEF } ∧
        l2Prefers s 0 8192 = true ∧ Memory.wf s.dram = true) ∧
    (∀ st ∈ [Moesi.m, .o], let s := lined st
      inAllBank s (128 * 8192) = false ∧ (∀ d ∈ [1, 2, 3], s.l2? d 8192 = none) ∧ 0x0123456789ABCDEF < 2 ^ 1024) ∧
    (let s := (lined .s).setDie 0 { (lined .s).die 0 with invs := [8192, 7] }
     let s := { s with input := .invalidationFrom (dirSlice 8192) }
     (s.die 0).invs = [8192, 7] ∧ dirSlice 8192 = dirSlice 7 ∧ dieUp s 0 = true) ∧
    (let s := { lined .m with dirRoom := 1 }
     s.dirRoom ≤ (sliceLines s (dirSlice 8192)).length ∧ (sliceLines s (dirSlice 8192)).head? = some 8192 ∧
       inAllBank s (128 * 8192) = false) := by decide +kernel
theorem witness_snoops_alone (st : Moesi) (d : Nat) (h : d ≠ 0) : (lined st).l2? d 8192 = none := by
  have e : (lined st).l2 = [((0, 8192), { st := st, sect := 15, data := 0x0123456789ABCDEF })] := rfl
  simp [State.l2?, e, aget?, Ne.symm h]
/-- A partial of 5 on the first word of line 8192, under range 7 of the launch. -/
def withPartial : State :=
  let s := ask (.combineLine 0 0 8192) (withRange (world [] []))
  s.setCore 0 { s.core 0 with parts := [{ ppa := 16 * 2 ^ 16, ea := buf 0, size := 4, code := 0x20, value := 5, lid := 0, die := 0 }] }
theorem witness_combine :
    let s := withPartial
    s.input = .combineLine 0 0 8192 ∧ s.launch? 0 = some (launchOf0 s) ∧ ((launchOf0 s).rangeEntry 0).live = true ∧
      8192 ∈ rangeLines s 0 ((launchOf0 s).rangeEntry 0) ∧ combineBusy s 0 8192 = false := by decide +kernel
/-- A modified copy that a read snoop finds stays, owned; a combined partial has gone (R319, R329). -/
theorem test_coherence :
    after (exec (.snoopForRead 0 8192) (lined .m)) none (fun t => (t.l2? 0 8192).map (·.st)) = some .o ∧
    after (exec (.l2Eviction 0 8192) (lined .m)) 0 (fun t => Memory.read t.dram (16 * 2 ^ 16) 8) = 0x0123456789ABCDEF ∧
    after (exec .combineLine withPartial) [] (fun t => (t.core 0).parts.map (·.value)) = [] := by decide +kernel

end Sys2Proof.Tests
end

