-- ==== Sys2Proof/Tests/Slice0Package.lean ====
section
/-! SUPPORT. Tests and witnesses: launches, errors and pages, dies, boot and power, hosts and management, the whole machine. -/

namespace Sys2Proof.Tests

open Sys2Proof.Machine

set_option Elab.async false

/-! ## Witnesses: launches -/

def validB (r : Except (Nat × State) (Launch × State)) (f : Launch → State → Bool) : Bool :=
  match r with
  | .ok (l, t) => f l t
  | .error _ => false
theorem valid_of {r : Except (Nat × State) (Launch × State)} {f : Launch → State → Bool} (h : validB r f = true) :
    ∃ l t, r = .ok (l, t) ∧ f l t = true := by
  unfold validB at h
  split at h
  · exact ⟨_, _, rfl, h⟩
  · cases h
def invalidB (r : Except (Nat × State) (Launch × State)) (f : Nat → State → Bool) : Bool :=
  match r with
  | .ok _ => false
  | .error (c, u) => f c u
theorem invalid_of {r : Except (Nat × State) (Launch × State)} {f : Nat → State → Bool} (h : invalidB r f = true) :
    ∃ c u, r = .error (c, u) ∧ f c u = true := by
  unfold invalidB at h
  split at h
  · cases h
  · exact ⟨_, _, rfl, h⟩
/-- A record that every check of R335 passes: one block of one party, its tables in a peer's buffer 2. -/
def goodRecord : Nat :=
  2 ^ 28 + 2 ^ 10 + 2 ^ 64 * (2 ^ 24 + 2 ^ 16 + 2 ^ 8) + 2 ^ 128 + 2 ^ 160 + 2 ^ 192 + 2 ^ 512 * peerBuf 0x10000 + 2 ^ 576 + 2 ^ 640 +
    2 ^ 704 * peerBuf 0x20000 + 2 ^ 832 * peerBuf 0x21000
/-- Queue 5 in buffer 2, its control block at offset 0 with one record to take. -/
def queue5 : Queue := { ctx := 0, die := 0, base := peerBuf 0 }
def queueIn (record : Nat) : State :=
  let s := world [] []
  let rs := answers 0 1 [1 + 2 ^ 129 + 7 * 2 ^ 132] ++ answers 64 8 ((List.range 8).map fun i => record / 2 ^ (256 * i) % 2 ^ 256) ++
    [(peerBuf 8, .done 0)] ++ answers 0x21000 2 [peerBuf 0x22000] ++ answers 0x22000 2 [4 * 2 ^ 128] ++ answers 0x20000 4 [77]
  { s with bufs := ((0, 2), entry2) :: s.bufs, queues := [(5, queue5)], input := .launchRecordValidate 5 rs }
/-- The reads in front of the checks, with the value of the last and the state that they leave. -/
def headReads (s : State) : Option (Nat × Nat × State) :=
  match readEa (acquire s (bindCore 0) 8) (queueAg queue5) queue5.base 24 with
  | .ok x s1 =>
    match readEa s1 (queueAg queue5) (eaAdd queue5.base (64 + 256 * (x / 2 ^ 64 % 2 ^ 64 % 2 ^ (x / 2 ^ 128 % 2 ^ 4)) : Nat)) 256 with
    | .ok r s2 => some (x, r, s2)
    | _ => none
  | _ => none
/-- What the head record comes to, with facts of the reads, of the check's answer and of the taking of the record. -/
def headB (s : State) (f : Nat → Nat → State → Bool) : Bool :=
  match headReads s with
  | some (x, r, t) => f x r t
  | none => false
theorem queue_input (r : Nat) : ∃ rs, (queueIn r).input = .launchRecordValidate 5 rs := ⟨_, rfl⟩
/-- A record that is accepted and one that is refused with code 1: both are at the head of a queue with one record (R335). -/
theorem witness_validation :
    (∀ r ∈ [goodRecord, 0], aget? 5 (queueIn r).queues = some queue5 ∧ bindUp (queueIn r) 0 = true ∧ linkDown (queueIn r) 0 = false) ∧
    headB (queueIn goodRecord) (fun x r t => decide (x % 2 ^ 64 = 1 ∧ x / 2 ^ 64 % 2 ^ 64 = 0 ∧ r = goodRecord) &&
      validB (validate t (headLaunch (queueIn goodRecord) 5 queue5 0 r) (x / 2 ^ 132 % 2 ^ 3)) fun m u =>
        decide (m.args.headD 0 = 77) && okB (takeRecord u 5 queue5 0 m.lid) fun _ _ => true) = true ∧
    headB (queueIn 0) (fun x r t => decide (x % 2 ^ 64 = 1 ∧ x / 2 ^ 64 % 2 ^ 64 = 0 ∧ r = 0) &&
      invalidB (validate t (headLaunch (queueIn 0) 5 queue5 0 r) (x / 2 ^ 132 % 2 ^ 3)) fun c u => c == 1 &&
        okB (takeRecord u 5 queue5 0 (5 * 2 ^ 48)) fun _ _ => true) = true := by
  exact ⟨by decide +kernel, by decide +kernel, by decide +kernel⟩
/-- A launch that waits for one dependence, on a word in buffer 2 that must reach 3. -/
def dependent (r : PeerReply) : State :=
  let s := world [] []
  let s := { s with bufs := ((0, 2), entry2) :: s.bufs, input := .dependenceRead 0 0 [(peerBuf 0x100, r)] }
  onL (fun l => { l with record := l.record + 2 ^ 18 + peerBuf 0x100 * 2 ^ 1024 + 3 * 2 ^ 1088, eligible := false, held := [false] }) s
theorem witness_dependence :
    (∀ r ∈ [PeerReply.done 5, .done 2, .fault 0x48], let s := dependent r
      let l := launchOf0 s
      s.launch? l.lid = some l ∧ 0 < l.ndep ∧ l.eligible = false ∧ l.held.getD 0 true = false ∧ bindUp s l.die = true) ∧
    (∀ x ∈ [5, 2], let s := dependent (.done x)
      let l := launchOf0 s
      okB (readEa (acquire s (bindCore l.die) 8) (homeAg l) (l.depAddr 0) 8) (fun w _ => w == x) = true) ∧
    (let s := dependent (.fault 0x48)
     let l := launchOf0 s
     faultB (readEa (acquire s (bindCore l.die) 8) (homeAg l) (l.depAddr 0) 8) (fun c _ _ => c == 0x48) = true) := by decide +kernel

/-- One accepted launch of the record of R335's witness, with its one cluster to be placed; it holds the reservation of die 0. -/
def waitingLaunch (mask : Nat) : Launch :=
  { newLaunch 9 0 5 0 (goodRecord + mask * 2 ^ 1728) [] [] [] none 0 [] with eligible := true, pending := [0] }
def placing (l : Launch) : State :=
  let s := { world [] [] with launches := [l], blocks := [], slots := [], input := .schedulerPass 0 [] }
  s.setDie 0 { s.die 0 with reserve := some 9 }
theorem witness_placing :
    (∀ m ∈ [0, 2], let s := placing (waitingLaunch m)
      (s.die 0).cond = .running ∧ (s.die 0).stopped = false ∧ bindUp s 0 = true ∧ (s.die 0).reserve = some 9 ∧
        s.launch? 9 = some (waitingLaunch m) ∧ (place? s 0 (waitingLaunch m)).isSome = decide (m = 0) ∧
        (waitingLaunch m).killed = false ∧ (waitingLaunch m).pending ≠ []) ∧
    (let s := { placing (waitingLaunch 2) with dies := [(0, { Die.init with cond := .running })] }
     (s.die 0).reserve = none ∧ bindUp s 0 = true ∧ ∀ l ∈ s.launches, candidate s 0 l = false) ∧
    (placeCluster (placing (waitingLaunch 0)) (waitingLaunch 0) 0 0).isSome = true ∧
    (let l := { waitingLaunch 0 with failing := [(0, 0)] }
     let s := { placing l with dies := [(0, { Die.init with cond := .running })], ref := 2000000, input := .reservationIntervalExpiry 0 9 }
     s.launch? 9 = some l ∧ candidate s 0 l = true ∧ 7 ≤ l.prio + (s.ref - aget l.since 0 l.placedAt) / max 1 s.age ∧
       aget? 0 l.failing = some 0 ∧ 0 + s.resInterval ≤ s.ref ∧ (s.die 0).reserve = none) := by decide +kernel

/-- A deterministic launch whose one reservation word is in a peer's buffer: what was asked for it is not answered yet. -/
def waitingDet : Launch :=
  { waitingLaunch 0 with record := (waitingLaunch 0).record + 2 ^ 24, det := 2 ^ 96 + peerBuf 0x30000 * 2 ^ 128 }
theorem witness_placing_det :
    (let s := { placing waitingDet with bufs := [((0, 2), entry2)] }
     (s.die 0).reserve = some 9 ∧ s.launch? 9 = some waitingDet ∧ waitingDet.killed = false ∧ waitingDet.pending ≠ [] ∧
       (match startDet s waitingDet with | .error t => t.asking.length | .ok _ => 0) = 1) ∧
    (match startDet (placing (waitingLaunch 2)) (waitingLaunch 2) with | .error _ => false | .ok _ => true) = true := by decide +kernel

/-- The launch of slot 0 has ended: its block has, and nothing is on the slots. -/
def endedLaunch : State :=
  ask (.launchTeardown 0 []) (onB (fun b => { b with ended := true }) { world [] [] with slots := [] })
theorem witness_launch_ends :
    (let s := ask (.escalatedHoldExpiry 0) { slotAs (fun k => { k with st := .frozen }) with escHolds := [(0, 0)] }
     s.input = .escalatedHoldExpiry 0 ∧ aget? 0 s.escHolds = some 0 ∧ 0 + s.escHold ≤ s.ref ∧ (s.slot 0).st = .frozen ∧
       (s.slot 0).repair = false) ∧
    (let s := endedLaunch
     let l := launchOf0 s
     s.launch? l.lid = some l ∧ l.lid < 2 ^ 64 ∧ tornDown s l = true ∧ l.tbars = [] ∧ l.csig = 0) ∧
    (let s := ask (.podGroupForm 0 [(0, 64), (3, 64)]) (onL (fun l => { l with record := l.record + 2 * 2 ^ 992 }) (world [] []))
     let l := launchOf0 s
     l.pgn = 2 ∧ l.group = none ∧ l.eligible = true ∧ l.pending = [] ∧ l.killed = false ∧ (s.pkg, 64 * l.ppb * l.nblocks) = (0, 64)) ∧
    (let s := ask (.blockMove 0 0 1) (onB (fun b => { b with images := [{ pidx := 0, addr := 0, live := 64, rank := 0, tag := 0 }] })
       { world [] [] with slots := [] })
     s.launch? 0 = some (launchOf0 s) ∧ s.block? 0 0 = some (blockOf0 s) ∧ blockSaved s (launchOf0 s) (blockOf0 s) = true ∧
       moveFits s (launchOf0 s) (blockOf0 s) 1 = true) ∧
    (∀ e ∈ [true, false], let s := ask (.managementKillLaunch 0) (onL (fun l => { l with eligible := e }) (world [] []))
      s.input = .managementKillLaunch 0 ∧ s.out .monument = false ∧ (launchOf0 s).eligible = e) := by decide +kernel

/-- A buffered store of thread 0; a deterministic launch with the operations and merges of its one block as f says. -/
def wbStore (seq : Nat) : WbOp :=
  { pidx := 0, tid := 0, seq := seq, ea := buf 64, size := 4, code := none, x := seq, y := 0, resv := none, past := [] }
def detRun (i : Input) (f : Block → Block) : State :=
  ask i (onB f (onL (fun l => { l with record := l.record + 2 ^ 24, det := 2 ^ 80 }) (world [] [])))
theorem witness_deterministic :
    (let s := detRun (.closureMerge 0 0 []) fun b => { b with merges := [(0, 2, 1, 9)], wbuf := [wbStore 12, wbStore 3] }
     let b := blockOf0 s
     s.launch? 0 = some (launchOf0 s) ∧ b.saved = none ∧ s.block? 0 0 = some b ∧ b.lid = 0 ∧ b.merges = [(0, 2, 1, 9)] ∧ ∀ o ∈ b.wbuf, o.resv = none ∧ o.code = none) ∧
    (let o : WbOp := { wbStore 3 with code := some 0 }
     let s := detRun (.closureMerge 0 0 []) fun b => { b with merges := [(0, 2, 1, 9)], wbuf := [o, { o with past := [(0, 2, 1)] }] }
     let l := launchOf0 s
     let b := blockOf0 s
     let now := fun (o : WbOp) => decide (o.seq < 9) && !o.past.contains (0, 2, 1)
     let b1 := { b with wbuf := b.wbuf.filter (fun o => !now o), log := b.log ++ sortWb (b.wbuf.filter now), merges := [] }
     s.launch? 0 = some l ∧ b.saved = none ∧ s.block? 0 0 = some b ∧ (∀ o ∈ b.wbuf, o.resv = none) ∧ b.wbuf.filter now = [o] ∧
       okB (readEa (s.setBlock b1) (blockAg l b1) o.ea o.size) (fun _ u => decide (u.blocks = (s.setBlock b1).blocks)) = true) ∧
    (let s := detRun (.clusterRetire 0) fun b => { b with ended := true, view := [wbStore 3], log := [wbStore 3] }
     let l := launchOf0 s
     l.isDet = true ∧ l.aborted = false ∧ firstTraverse l (unretired s l) = some 0 ∧ clusterDone s l 0 = true ∧
       ((byRank (clusterBlocks s l.lid 0)).foldl (fun s b => s.bind (retireBlock l b)) (some s)).any
         (fun u => decide (u.launches = s.launches)) = true) ∧
    (let s := detRun (.writeBufferFull 0 0) fun b => { b with wbuf := List.replicate 1023 (wbStore 3) }
     let l := launchOf0 s
     let b := blockOf0 s
     s.block? 0 0 = some b ∧ l.isDet = true ∧ l.aborted = false ∧ b.ended = false ∧
       l.det / 2 ^ 80 % 2 ^ 16 * 65536 ≤ 64 * (b.wbuf.length + b.log.length + 1)) := by decide +kernel

/-! ## Witnesses: errors and pages -/

/-- The package with a request in front of the monument core. -/
def asked (i : Input) : State := ask i (world [] [])
theorem witness_corrected_errors :
    (let u := ErrUnit.sramWord 0 7
     let s := { asked (.correctedError u 0 false) with events := [(u, [0])] }
     s.input = .correctedError u 0 false ∧ unitOk u = true ∧ s.booted = true ∧ s.staging.length < 15 ∧
       1 + ((aget ([] : List Nat) u s.events).filter fun (t : Nat) => decide (s.ref < t + s.windows.getD 3 0)).length = s.thresholds.getD 3 0) ∧
    (∀ r ∈ [true, false], ∀ ts ∈ [[], [0]], let u := ErrUnit.regSlot 5
     let s := { (asked (.correctedError u 0 false)).setSlot 5 { Slot.init with reserved := r } with events := [(u, ts)] }
     unitOk u = true ∧ s.staging.length < 15 ∧ (s.slot 5).st = .free ∧ (s.slot 5).reserved = r ∧
       (1 + ((aget ([] : List Nat) u s.events).filter fun (t : Nat) => decide (s.ref < t + s.windows.getD 2 0)).length = s.thresholds.getD 2 0 ↔
         ts = [0])) ∧
    (let u := ErrUnit.row 11 63 15 49151
     let s := { asked (.correctedError u 0 false) with events := [(u, [0, 0, 0])] }
     unitOk u = true ∧ ((s.stack 11).spared.filter fun r => r.1 == 63 && r.2.1 == 15).length < 32 ∧
       1 + ((aget ([] : List Nat) u s.events).filter fun (t : Nat) => decide (s.ref < t + s.windows.getD 0 0)).length = s.thresholds.getD 0 0) := by
  decide +kernel
/-- A staged entry of tick 4; the log's control block at PPA 0 is empty. -/
def report4 : Report := { seq := 1, time := 4, addr := 0, ch := 0, kind := 0, code := 0, adrk := 0, unit := 0 }
theorem witness_other_errors :
    (let u := ErrUnit.row 0 0 0 0
     let s := asked (.uncorrectableError u 256 true .nothing)
     s.input = .uncorrectableError u 256 true .nothing ∧ unitOk u = true ∧ s.booted = true ∧ s.migrations = [] ∧ s.staging.length < 15 ∧
       ((s.stack 0).spared.filter fun r => r.1 == 0 && r.2.1 == 0).length < 32) ∧
    (let s := { asked (.laneRetrainDone 770) with lanes := [(770, { retraining := true })] }
     s.input = .laneRetrainDone 770 ∧ (aget ({} : Lane) 770 s.lanes).retraining = true) ∧
    (let s := { world [] [] with staging := [report4], ref := 5 }
     queuedReports s = [report4] ∧ s.booted = true ∧ s.out .monument = false ∧ (report4.early = true ∨ report4.time ≠ s.ref) ∧
       ((coherentRead s s.logAddr 8 : Int) - coherentRead s (s.logAddr + 8) 8) % 2 ^ 64 < 2 ^ s.logN ∧ inAllBank s s.logAddr = false ∧
       inAllBank s (s.logAddr + 64 + 32 * (coherentRead s s.logAddr 8 % 2 ^ s.logN)) = false) ∧
    (∀ e ∈ [(MgmtReg.threshold 0, 255), (.threshold 0, 256), (.quiesceDeadline, 65535), (.saveAddr 2047, 64), (.slotStatus 0, 1),
        (.errorRegs 0, 1)], let s := asked (.registerWrite e.1 e.2)
      s.input = .registerWrite e.1 e.2 ∧ managed s = true) := by decide +kernel
/-- The second error of a word within its window takes the core from service at the next reset, where no spare is left (R442). -/
theorem test_errors :
    after (exec .correctedError { asked (.correctedError (.sramWord 0 7) 0 false) with events := [(.sramWord 0 7, [0])] }) (9, false)
      (fun t => ((t.core 0).sramce, (t.core 0).disable)) = (1, true) ∧
    after (exec .registerWrite (asked (.registerWrite (.threshold 0) 256))) [] (·.thresholds) = [4, 16, 2, 2] ∧
    after (exec .registerWrite (asked (.registerWrite (.threshold 0) 255))) [] (·.thresholds) = [255, 16, 2, 2] := by decide +kernel

/-- A migration of page 0 of buffer 1 to frame 20 of stack 3, at a step. -/
def moving (step : Nat) : Migration := { page := page1 0, old := mkLeaf 0 0 0 16, home := 3, frame := 20, step := step }
theorem witness_page_moves :
    (let s := { asked (.migrationBegin (page1 0) 3 20) with pools := [(3, [20])] }
     bufOf s 0 1 = some entry1 ∧ leafHeld s entry1 (pageBase entry1 0) = false ∧ walk s entry1 (pageBase entry1 0) = some (mkLeaf 0 0 0 16) ∧
       leafBad entry1 (mkLeaf 0 0 0 16) = false ∧ bufPeer entry1 = false ∧ s.booted = true ∧ s.out .monument = false ∧
       bufIlv entry1 ≠ 2 ∧ leafState (mkLeaf 0 0 0 16) ≤ 1 ∧ s.migration? (page1 0) = none ∧ page1 0 ∉ s.cows ∧
       frameGood s entry1 3 20 = true) ∧
    (let s := asked (.pageQuarantine (page1 0))
     leafState (mkLeaf 0 0 0 16) ≠ 3 ∧ leafHeld s entry1 (pageBase entry1 0) = false ∧ s.booted = true ∧ s.out .monument = false) ∧
    (let s := { asked (.migrationDrained (page1 0)) with migrations := [moving 1] }
     s.migration? (page1 0) = some (moving 1) ∧ leafHeld s entry1 (pageBase entry1 0) = false ∧ pageBusy s entry1 (moving 1).old = false ∧ frameBusy s entry1 (moving 1).old = false ∧
       pageDamaged s entry1 (moving 1).old (page1 0) = false) ∧
    (let s := { asked (.migrationCopyDone (page1 0)) with migrations := [moving 2] }
     s.migration? (page1 0) = some (moving 2) ∧ leafHeld s entry1 (pageBase entry1 0) = false ∧ frameBusy s entry1 (moving 2).old = false ∧
       frameBusy s entry1 (moveLeaf (moving 2).old 3 20) = false ∧ pageDamaged s entry1 (moving 2).old (page1 0) = false) ∧
    (∀ k ∈ [1, 2], let s := { asked (if k = 1 then .migrationDrained (page1 0) else .migrationCopyDone (page1 0)) with
       migrations := [moving k], damaged := [8192] }
     s.migration? (page1 0) = some (moving k) ∧ leafHeld s entry1 (pageBase entry1 0) = false ∧ pageDamaged s entry1 (moving k).old (page1 0) = true) ∧
    (let s := { asked (.pageRestore (page1 0) 3 20) with quars := [(page1 0, mkLeaf 0 0 0 16)], pools := [(3, [20])] }
     aget? (page1 0) s.quars = some (mkLeaf 0 0 0 16) ∧ leafHeld s entry1 (pageBase entry1 0) = false ∧ frameBusy s entry1 (mkLeaf 0 0 0 16) = false ∧ frameGood s entry1 3 20 = true ∧
       frameBusy s entry1 (moveLeaf (mkLeaf 0 0 0 16) 3 20) = false) := by decide +kernel
/-- Page 0 of a versioned buffer 1: version 5, published; frame 20 is free. History slots 2 and 3 hold versions 0 and 1. -/
def copied : State :=
  let d := Memory.write dram0 81920 8 (mkLeaf 5 1 0 16)
  let d := Memory.write d (86016 + 16) 16 (mkLeaf 0 0 0 21 + 2 ^ 64 * mkLeaf 1 0 0 22)
  { plats 6 0 with dram := d, cows := [page1 0], pools := [(0, [20])] }
theorem witness_copies_on_write :
    (bufOf copied 0 1 = some entryV ∧ copied.snap? 0 1 = some (snap56 0) ∧ leafAddr copied entryV (pageBase entryV 0) = some 81920 ∧
      page1 0 ∈ copied.cows ∧ coherentRead copied 81920 8 = mkLeaf 5 1 0 16 ∧ leafV (mkLeaf 5 1 0 16) = true ∧
      leafState (mkLeaf 5 1 0 16) = 1 ∧ frameBusy copied entryV (mkLeaf 5 1 0 16) = false ∧
      leafHeld copied entryV (pageBase entryV 0) = false ∧ inAllBank copied 86016 = false ∧
      histAddr copied entryV (pageBase entryV 0) 0 = some 86016 ∧ leafV (histEntry copied entryV (pageBase entryV 0) 0) = false ∧ leafHome (mkLeaf 5 1 0 16) = 0 ∧
      pageUnits entryV = 1 ∧ (takeFrame copied 0 1).map (·.1) = some 20) ∧
    (walk copied entryV (pageBase entryV 0) = some (mkLeaf 5 1 0 16) ∧ histEntry copied entryV (pageBase entryV 0) 2 = mkLeaf 0 0 0 21 ∧
      leafV (mkLeaf 0 0 0 21) = true ∧ histAddr copied entryV (pageBase entryV 0) 2 = some 86032 ∧ inAllBank copied 86032 = false ∧
      frameBusy copied entryV (mkLeaf 0 0 0 21) = false ∧ Memory.wf copied.dram = true ∧ ∀ p ∈ keptPlats (snap56 0) (bufDepth entryV),
        platEntry copied entryV (pageBase entryV 0) (mkLeaf 5 1 0 16) p ≠ some (mkLeaf 0 0 0 21)) := by decide +kernel
/-- The copy takes frame 20 with the open version; the former frame goes to the first free history slot (R397, R398). -/
theorem test_copy_on_write :
    after (exec (.cowComplete (page1 0)) copied) (0, 0) (fun t => (coherentRead t 81920 8, histEntry t entryV 0 0)) =
      (mkLeaf 6 0 0 20, mkLeaf 5 0 0 16) := by decide +kernel

/-! ## Witnesses: dies, boot, power -/

/-- Die 0 as f says, with no party and no block on it. -/
def dieAs (i : Input) (f : Die → Die) : State :=
  let s := { world [] [] with slots := [], blocks := [], launches := [], cores := [], input := i }
  s.setDie 0 (f (s.die 0))
/-- A launch without a scratchpad. -/
def narrow (l : Launch) : Launch := { l with record := installRecord }
/-- The saved party of a block that has one. -/
def savedOne : SavedParty := { pidx := 0, addr := 0, live := 64, rank := 0, tag := 0 }
theorem witness_die_resets :
    (let s := dieAs (.dieResetRequest 0 []) id
     managed s = true ∧ (s.die 0).cond = .running ∧ (s.die 0).reset = none) ∧
    (∀ st ∈ [SlotSt.run, .loading], let s := ask (.dieResetRequest 0 []) (slotAs fun k => { k with st := st })
     managed s = true ∧ (s.die 0).cond = .running ∧ (s.die 0).reset = none ∧ 0 ∈ usedSlots s 0 ∧ (s.slot 0).st = st) ∧
    (let s := { (asked (.clusterSave 0 0 (buf 0))).setDie 0 { Die.init with cond := .running, reset := some (1, 50) } with slots := [] }
     let s := onL narrow (onB (fun b => { b with images := [savedOne] }) s)
     let l := launchOf0 s
     s.launch? 0 = some l ∧ openBlocks s 0 0 = [blockOf0 s] ∧ dieOf (blockOf0 s).core = 0 ∧ (s.die 0).reset ≠ none ∧
       bindUp s 0 = true ∧ blockSaved s l (blockOf0 s) = true ∧
       okB (inTurn (fun s b => inTurn (saveRank l (buf 0) b) (upTo b.map.length) s) (openBlocks s 0 0) s) (fun _ _ => true) = true) ∧
    (let s := { asked (.clusterRestore 0 0 1) with slots := [] }
     let s := onB (fun b => { b with images := [savedOne], saved := some (buf 0) }) (s.setDie 1 { Die.init with cond := .running })
     let s := onL narrow s
     s.launch? 0 = some (launchOf0 s) ∧ openBlocks s 0 0 ≠ [] ∧ (launchOf0 s).dieOk 1 = true ∧ dieTakes s 1 = true ∧
       reservedFrom s 1 (launchOf0 s) = false ∧
       okB (inTurn (replaceBlock (launchOf0 s) 1) (openBlocks s 0 0) s) (fun _ _ => true) = true) ∧
    (let s := { lined .m with slots := [], blocks := [], input := .quiesceDeadlineExpiry 0 }
     let s := s.setDie 0 { s.die 0 with cond := .quiescing, reset := some (1, 0) }
     (s.die 0).reset = some (1, 0) ∧ 0 ≤ s.ref ∧ (s.die 0).cond = .quiescing ∧ usedSlots s 0 = [] ∧ blocksOf s 0 = [] ∧
       heldAs s 8192 0 = some .m ∧ (s.l2? 0 8192).isSome = true) ∧
    (∀ c ∈ [DieCond.fenced, .quiescing], let s := dieAs (.dieResetComplete 0) fun d => { d with cond := c, reset := some (1, 0) }
      (s.die 0).reset ≠ none ∧ s.out (.bind 0) = false ∧ s.staging.length < 16 ∧ (s.die 0).cond = c ∧ dieDrained s 0 = true) ∧
    (let s := dieAs (.diePowerGate 0) id
     managed s = true ∧ (s.die 0).cond = .running ∧ (s.die 0).reset = none ∧ dieDrained s 0 = true ∧
       (∀ c ∈ coresOf 0, (s.core c).table = [] ∧ (s.core c).parts = []) ∧ s.staging.length < 16) ∧
    (let s := { dieAs (.diePowerUp 0) (fun d => { d with cond := .gated }) with firmware := [(.bind 0, { running := true })] }
     managed s = true ∧ (s.die 0).cond = .gated ∧ (aget? (.bind 0) s.firmware).any (fun f => f.running) = true) := by decide +kernel
/-- A die that starts takes the clock that the all-bank limit allows (R454, R465). -/
theorem test_die_power :
    after (exec .diePowerUp { dieAs (.diePowerUp 0) (fun d => { d with cond := .gated }) with firmware := [(.bind 0, { running := true })] }) 9
      (fun t => (t.die 0).freq) = 36 ∧
    after (exec .diePowerGate (dieAs (.diePowerGate 0) id)) .running (fun t => (t.die 0).cond) = .gated := by decide +kernel

/-- A signed image under a key, which a root certifies or none does. -/
def imageAs (key : Nat) (cert : Option Nat) (version : Nat) : Image :=
  { version := version, digest := 77, key := key, certifiedBy := cert, signed := true }
/-- A boot under root 3 with an image for each component. -/
def bootAs (fails : Option Nat) : BootInputs :=
  { rootDigest := 3, identity := 5, rollback := [1, 0, 0, 0], failsAt := fails, dieFails := [3], keys := [], tables := 6,
    images := List.replicate 36 (imageAs 3 none 1), pkg := 0, logAddr := 0, logN := 4, pools := [], fused := [9] }
/-- A booted package under root 3 whose link components stand at counter 2. -/
def rooted (i : Input) : State := { asked i with rootDigest := 3, rollback := [0, 0, 0, 2] }
theorem witness_boot :
    (∀ f ∈ [none, some 4, some 6], let s := ask (.powerOn (bootAs f)) State.reset
      s.input = .powerOn (bootAs f) ∧ s.booted = false ∧ bootStop (bootAs f) = f) ∧
    (∀ x ∈ [(imageAs 3 none 2, true), (imageAs 4 (some 3) 2, true), (imageAs 4 none 2, false), (imageAs 3 none 1, false)],
      let s := rooted (.firmwareUpdate (.link 3) x.1 true)
      s.booted = true ∧ (aget ({} : Firm) (.link 3) s.firmware).restart = none ∧ s.out .monument = false ∧ updating s (.link 3) = false ∧
        Component.link 3 ∈ allComponents ∧ imageOk s.rootDigest s.rollback (.link 3) x.1 = x.2) ∧
    (∀ b ∈ [true, false], let f : Firm := { version := 2, digest := 77, restart := some 0 }
      let s := { rooted (.firmwareUpdate (.link 3) (imageAs 3 none 2) b) with firmware := [(.link 3, f)] }
      aget ({} : Firm) (.link 3) s.firmware = f ∧ f.restart ≠ none ∧ f.down = false ∧ f.version = 2 ∧ f.digest = 77) ∧
    (∀ c ∈ [Component.monument, .bind 0], let s := { rooted (.firmwareHoldTimeout c []) with ref := 10000001, firmware := [(c, { restart := some 0 })] }
      (aget ({} : Firm) c s.firmware).restart = some 0 ∧ 0 + 10000000 < s.ref) ∧
    (let o := ldOp (buf 64) (.peer 0)
     let s := { one o 10000001 with lanes := (upTo 72).map fun k => (768 + k, { disabled := k / 4 != 3 }) }
     let s := ask (.firmwareHoldTimeout (.link 3) [7]) { s with firmware := [(.link 3, { restart := some 0 })] }
     peerHeld s = true ∧ (aget ({} : Firm) (.link 3) s.firmware).restart = some 0 ∧ 0 + 10000000 < s.ref ∧ s.ops = [o] ∧ o.phase = .peer 0) ∧
    managed (asked (.attestationRequest 9)) = true := by decide +kernel
/-- A boot that stops at step 4 leaves code 4; one that passes runs the package with dies 0 to 2 (R460, R461). -/
theorem test_boot :
    after (exec .powerOn (ask (.powerOn (bootAs (some 4))) State.reset)) (true, 9) (fun t => (t.booted, t.bootStatus)) = (false, 4) ∧
    after (exec .powerOn (ask (.powerOn (bootAs none)) State.reset)) (false, [], .free) (fun t => (t.booted, [0, 2, 3].map fun d => (t.die d).cond, (t.slot 9).st)) =
      (true, [.running, .running, .gated], .disabled) := by decide +kernel
theorem witness_power :
    (let s := asked (.powerManagerRevision [12, 36, 12, 12] (List.replicate 12 (64, 4096)))
     managed s = true ∧ (∀ c ∈ [12, 36, 12, 12], 12 ≤ c ∧ c ≤ 36) ∧ (List.replicate 12 (64, 4096)).length = 12 ∧
       (∀ w ∈ List.replicate 12 (64, 4096), 64 ≤ w.1 ∧ w.1 ≤ 65535 ∧ 64 ≤ w.2 ∧ w.2 ≤ 4096) ∧
       (s.die 0).cond ≠ .gated ∧ allBankCount s ≤ limitOf (topClock (setClocks s [12, 36, 12, 12]))) ∧
    (∀ c ∈ [94, 95, 105], let s := asked (.temperatureReport (.die 0) c)
      s.input = .temperatureReport (.die 0) c ∧ s.booted = true ∧ s.staging.length < 16) ∧
    (∀ c ∈ [89, 90, 100], let s := asked (.temperatureReport (.stack 11) c)
      s.input = .temperatureReport (.stack 11) c ∧ s.booted = true ∧ s.staging.length < 16) ∧
    (∀ c ∈ [35, 45], ∀ low ∈ [true, false], let s := { asked (.temperatureReport .inlet c) with flowLow := low }
      s.input = .temperatureReport .inlet c ∧ s.booted = true ∧ s.flowLow = low) ∧
    (let s := { world [] [] with tripped := true, agenda := [.event .flowLowTimeout .none] }
     s.tripped = true ∧ ∀ i, Pick.event .flowLowTimeout .none ≠ .event .powerOn i ∧ Pick.event .flowLowTimeout .none ≠ .event .packageReset i) :=
  ⟨by decide +kernel, by decide +kernel, by decide +kernel, by decide +kernel, rfl, fun _ => ⟨nofun, nofun⟩⟩
/-- 95 °C lowers the clock by 0.1 GHz, 105 °C trips the package, 90 °C halves a stack's limit (R468); an inlet at 45 °C takes 800 W
from the budget (R467). -/
theorem test_temperature :
    after (exec .temperatureReport (asked (.temperatureReport (.die 0) 95))) 0 (fun t => (t.die 0).freq) = 35 ∧
    after (exec .temperatureReport (asked (.temperatureReport (.die 0) 105))) false (·.tripped) = true ∧
    after (exec .temperatureReport (asked (.temperatureReport (.stack 11) 90))) 0 (fun t => (t.stack 11).actmax) = 32767 ∧
    after (exec .temperatureReport (asked (.temperatureReport .inlet 45))) 0 (·.budget) = 2400 := by decide +kernel

/-! ## Witnesses: hosts, peers, management, the whole machine -/

/-- A host connection of context 0. -/
def conn0 : Conn := { ctx := 0, kind := .roceRc }
/-- A package with it. -/
def wired (i : Input) : State := { asked i with conns := [(3, conn0)] }
/-- Key 1 names buffer 1; key 2 names no buffer. The bytes lie on both sides of a naturally aligned unit. -/
theorem witness_host :
    (∀ key ∈ [1, 2], ∀ i ∈ [Input.hostRdmaWrite 3 key 60 12 77, .hostRdmaWriteImm 3 key 60 12 77 5, .hostRdmaRead 3 key 60 12], let s := wired i
      aget? 3 s.conns = some conn0 ∧ ethUp s = true ∧ hostBehind s.hostHeld 3 conn0 = false ∧
        hostCheck s conn0 key 60 12 bufHW = (if key = 1 then some (1, entry1) else none) ∧
        hostCheck s conn0 key 60 12 bufHR = (if key = 1 then some (1, entry1) else none) ∧
        okB (hostWrite 0 1 entry1 3 s 60 12 77) (fun _ _ => true) = true ∧ okB (hostReadFrom 0 1 entry1 3 s 60 12) (fun _ _ => true) = true) ∧
    (∀ i ∈ [Input.hostAtomicCas 3 1 64 0 9, .hostAtomicFetchAdd 3 1 64 9], let s := wired i
      ethUp s = true ∧ hostBehind s.hostHeld 3 conn0 = false ∧ hostCheck s conn0 1 64 8 bufHA = some (1, entry1) ∧
        hostCheck s conn0 2 64 8 bufHA = none ∧ outLoc s 0 1 entry1 64 true = .at (.mem (16 * 2 ^ 16 + 64))) ∧
    managed (asked (.connectionSetup 8191 65535 .roceRc)) = true ∧ (asked (.linkPartnerFallback 2)).booted = true := by decide +kernel
/-- A write reaches memory and is answered; an atomic whose address is not a multiple of 8 ends with its own error (R475, R476). -/
theorem test_host :
    after (exec .hostRdmaWrite (wired (.hostRdmaWrite 3 1 60 12 (77 + 5 * 2 ^ 64)))) (0, []) (fun t => (Memory.read t.dram (16 * 2 ^ 16 + 60) 12,
      t.outbox.map fun m => (m.kind, m.dest, m.body))) = (77 + 5 * 2 ^ 64, [(0, 3, 0)]) ∧
    after (exec .hostAtomicFetchAdd (wired (.hostAtomicFetchAdd 3 1 60 9))) [] (fun t => t.outbox.map (·.kind)) = [9] ∧
    after (exec .hostRdmaWrite (wired (.hostRdmaWrite 3 2 60 12 77))) [] (fun t => t.outbox.map (·.kind)) = [1] := by decide +kernel

/-- A read of 12 bytes that waits for its turn, and one that arrives behind it. -/
def waitingRead : HeldMsg := { conn := 3, msg := .read 1 60 12, since := none }
theorem witness_host_turns :
    (let s := { wired (.hostRdmaRead 3 1 0 8) with hostHeld := [waitingRead] }
     aget? 3 s.conns = some conn0 ∧ ethUp s = true ∧ conn0.kind ≠ .uetRud ∧ ∃ h ∈ s.hostHeld, h.conn = 3) ∧
    (let s := { wired (.hostRetry 0) with hostHeld := [waitingRead] }
     s.hostHeld[0]? = some waitingRead ∧ aget? 3 s.conns = some conn0 ∧ ethUp s = true ∧
       hostBehind (s.hostHeld.take 0) 3 conn0 = false ∧ okB (hostTurn s 3 conn0 (.read 1 60 12)) (fun _ _ => true) = true) :=
  ⟨by decide +kernel, by decide +kernel⟩

/-- A peer's request about 8 bytes of a buffer of context 0. -/
def peerAsk (b op : Nat) : PeerReq :=
  { pkg := 7, ctx := 0, buf := b, offset := 64, size := 8, op := op, code := 0, data := 99, data2 := 0 }
theorem witness_peer :
    (∀ op ∈ [0, 1, 2, 3], let s := asked (.peerAccess (peerAsk 1 op))
      s.booted = true ∧ peerCheck s (peerAsk 1 op) = some entry1 ∧ peerCheck s (peerAsk 2 op) = none ∧
        outLoc s 0 1 entry1 64 (op != 0) = .at (.mem (16 * 2 ^ 16 + 64))) := by decide +kernel
/-- A control block of 2 to the n records in host memory: TAIL 3, HEAD h. -/
def openQueue (h : Nat) (s : State) : State :=
  { s with queues := [(5, { ctx := 0, die := 0, base := buf 0x1000 })],
           dram := Memory.write s.dram (16 * 2 ^ 16 + 0x1000) 24 (3 + h * 2 ^ 64 + 2 * 2 ^ 128) }
/-- A packet's header for queue 5 that expects a TAIL. -/
def headerOf (tail : Nat) : Nat := 1 + 5 * 2 ^ 32 + tail * 2 ^ 64
def packetTo (conn tail : Nat) : State := openQueue 1 (wired (.launchPacket conn (headerOf tail) 123))
theorem witness_packet :
    (∀ x ∈ [(3, 3), (8192, 4)], let conn := x.1; let tail := x.2; let s := packetTo conn tail
      s.booted = true ∧ (8192 ≤ conn ∨ (ethUp s = true ∧ (aget? conn s.conns).isSome = true)) ∧
        aget? (headerOf tail / 2 ^ 32 % 2 ^ 8) s.queues = some { ctx := 0, die := 0, base := buf 0x1000 } ∧
        okB (readEa s (outAg 0) (buf 0x1000) 24) (fun _ _ => true) = true ∧
        packetNack s conn (headerOf tail) (some { ctx := 0, die := 0, base := buf 0x1000 })
          (some { tail := 3, head := 1, n := 2, dev := false, pmax := 0 }) = (if tail = 3 then none else some (4, 3)) ∧
        (tail = 3 → okB (placePacket s conn 5 { ctx := 0, die := 0, base := buf 0x1000 }
          { tail := 3, head := 1, n := 2, dev := false, pmax := 0 } 123) (fun _ _ => true) = true)) := by decide +kernel
/-- The record stands behind the control block and TAIL counts it; a full queue, an unknown queue and a bad format are turned
away with their NST (R478). -/
theorem test_packet :
    after (exec .launchPacket (packetTo 3 3)) (0, 0) (fun t => (Memory.read t.dram (16 * 2 ^ 16 + 0x1000 + 64 + 3 * 256) 256,
      Memory.read t.dram (16 * 2 ^ 16 + 0x1000) 8)) = (123, 4) ∧
    packetNack State.reset 8192 (headerOf 9) (some { ctx := 0, die := 0, base := 0 })
      (some { tail := 9, head := 5, n := 2, dev := false, pmax := 0 }) = some (5, 9) ∧
    packetNack State.reset 8192 (headerOf 9) none none = some (2, 0) ∧ packetNack State.reset 8192 2 none none = some (1, 0) := by
  decide +kernel

/-- The entry of buffer 1 cut to one page, and the same as a versioned buffer of history depth 2. -/
def entryS : Nat := entry1 - 2 ^ 85 + 2 ^ 80
def entryV2 : Nat := entryS + 2 * 2 ^ 40
def queueAsk : Nat := 2 ^ 128 + 2 * 2 ^ 128
theorem witness_tables :
    (∀ e ∈ [entryS, 0], let s := asked (.bufferTableEntryWrite 0 1 e .entry)
      managed s = true ∧ bufferBusy s 0 1 = false ∧ s.ops = [] ∧
       (bitOf e 31 = true → entryOk 1 e = true ∧ bufDepth e = 0 ∧ tablesOk s e = true)) ∧
    (let s := asked (.bufferTableEntryWrite 0 1 entryV2 (.versioned 0))
     bufferBusy s 0 1 = false ∧ s.ops = [] ∧ bitOf entryV2 31 = true ∧ entryOk 1 entryV2 = true ∧ bufDepth entryV2 ≠ 0 ∧
       tablesOk s entryV2 = true ∧ leafTablesOk s entryV2 = true ∧ s.snaps = [] ∧ pagesHeld s entryV2 = false) ∧
    (let s := { asked (.bufferTableEntryWrite 0 1 (mkLeaf 0 0 1 9) (.pageWord 81928)) with bufs := [((0, 1), entryS)] }
     bufferBusy s 0 1 = false ∧ ppaOk 81928 = true ∧ inAllBank s 81928 = false ∧ s.ops = [] ∧ s.seals = [] ∧
       tableWordOk (writeEntry s 81928 (mkLeaf 0 0 1 9 % 2 ^ 64)) (mkLeaf 0 0 1 9 % 2 ^ 64) = true) ∧
    (let s := asked (.launchQueueCreate 255 0 3 (buf 4096) queueAsk)
     managed s = true ∧ aget? 255 s.queues = none ∧ queueBlockOk queueAsk = true ∧ isWin (buf 4096) = false ∧
       bufOf s 0 (eaIdx (buf 4096)) = some entry1 ∧
       eaOff (buf 4096) + 64 + 256 * 2 ^ (queueAsk / 2 ^ 128 % 2 ^ 4) ≤ bufLen entry1 ∧
       okB (writeEa s (outAg 0) (buf 4096) 64 queueAsk) (fun _ _ => true) = true) := by decide +kernel
/-- A page of a versioned buffer starts at state 1, before the open version (R394). -/
theorem test_versioned :
    after (exec .bufferTableEntryWrite (asked (.bufferTableEntryWrite 0 1 entryV2 (.versioned 0)))) (0, [])
      (fun t => (fld (Memory.read t.dram 81920 8) 40 24, t.snaps.map fun v => (v.opn, v.pub))) = (2 ^ 24 - 1, [(0, 2 ^ 24 - 1)]) := by
  decide +kernel

/-- A step from a state whose memories are canonical; a line that one die owns. -/
theorem witness_memories :
    (let s := { asked .none with agenda := [.event .flowLowTimeout .none] }
     Memory.wf s.dram = true ∧ (match step s with | .next t => t.budget | .fault _ | .refused _ => 0) = 1600) ∧
    (∀ st ∈ [Moesi.m, .o], let s := lined st
      Memory.wf s.dram = true ∧ heldAs s 8192 0 = some st ∧ 8192 = 16 * 2 ^ 16 / 128 ∧ (16 * 2 ^ 16 + 120) % 128 + 8 ≤ 128) := by decide +kernel
/-- No line of it has two owners: only die 0 holds one. -/
theorem witness_memories_alone (line d e : Nat) (hd : heldAs (lined .m) line d ≠ none) (he : heldAs (lined .m) line e ≠ none) : d = e := by
  have only : ∀ k, heldAs (lined .m) line k ≠ none → k = 0 := fun k hk => by
    have l2 : (lined .m).l2 = [((0, 8192), { st := .m, sect := 15, data := 0x0123456789ABCDEF })] := rfl
    by_contra h0
    exact hk (by simp [heldAs, State.l2?, l2, aget?, Ne.symm h0])
  rw [only d hd, only e he]

end Sys2Proof.Tests
end

section
/-! Every step keeps the memories of the package canonical (O58), one lemma for each function of the machine that gives a
state. This part: what the lemmas say of answers, of results that may hold no state, and how they go over recursions. -/

namespace Sys2Proof.Machine

/-! ## Choices, pairs and cores -/

/-- A choice between two states. -/
theorem MemoriesCanonical.ite {c : Prop} [Decidable c] {s t : State} (hs : MemoriesCanonical s) (ht : MemoriesCanonical t) :
    MemoriesCanonical (if c then s else t) := by
  split
  · exact hs
  · exact ht
/-- The state of a pair that an operation gives. -/
theorem MemoriesCanonical.of_snd {α : Type} {p : α × State} {x : α} {t : State} (h : MemoriesCanonical p.2)
    (e : p = (x, t)) : MemoriesCanonical t := by
  subst e
  exact h
theorem MemoriesCanonical.of_fst {α : Type} {p : State × α} {x : α} {t : State} (h : MemoriesCanonical p.1)
    (e : p = (t, x)) : MemoriesCanonical t := by
  subst e
  exact h
/-- New cores with the memories of the old ones. -/
theorem MemoriesCanonical.mapCores {s : State} (h : MemoriesCanonical s) {f : Nat × Core → Nat × Core}
    (hf : ∀ e, (f e).2.scr = e.2.scr ∧ (f e).2.acc = e.2.acc) : MemoriesCanonical { s with cores := s.cores.map f } :=
  ⟨h.1, fun e he => by
    obtain ⟨c, hc, rfl⟩ := List.mem_map.1 he
    rw [(hf c).1, (hf c).2]
    exact h.2 c hc⟩

/-! ## Answers that hold a state -/

/-- An access's answer holds a canonical state, whatever came of it. -/
def Got.Canonical : Got → Prop
  | .ok _ s | .hold _ s | .busy s | .fault _ _ s => MemoriesCanonical s
theorem Got.Canonical.of_eq {r q : Got} (h : r.Canonical) (e : r = q) : q.Canonical := e ▸ h
theorem Got.Canonical.of_pair {α : Type} {p : α × Got} {x : α} {q : Got} (h : p.2.Canonical) (e : p = (x, q)) :
    q.Canonical := by
  subst e
  exact h
theorem Got.Canonical.of_triple {α β : Type} {p : α × β × Got} {x : α} {y : β} {q : Got} (h : p.2.2.Canonical)
    (e : p = (x, y, q)) : q.Canonical := by
  subst e
  exact h
/-- The same of a step: where it goes on. -/
def AnswersCanonical : Host.Outcome State Fault Refusal → Prop
  | .next t => MemoriesCanonical t
  | .fault _ | .refused _ => True
theorem AnswersCanonical.of_eq {r q : Host.Outcome State Fault Refusal} (h : AnswersCanonical r) (e : r = q) :
    AnswersCanonical q := e ▸ h
/-- The same of a condition's evaluation. -/
def CondRes.Canonical : CondRes → Prop
  | .yes s | .no s | .unread s | .hold s | .trap _ s => MemoriesCanonical s
theorem CondRes.Canonical.of_eq {r q : CondRes} (h : r.Canonical) (e : r = q) : q.Canonical := e ▸ h
/-- The same of a box's read. -/
def BoxRes.Canonical : BoxRes → Prop
  | .ok _ s | .hold _ s | .busy s | .fault _ _ s | .outside _ s => MemoriesCanonical s
theorem BoxRes.Canonical.of_eq {r q : BoxRes} (h : r.Canonical) (e : r = q) : q.Canonical := e ▸ h
/-- The same of a geometry read. -/
def Geo.Canonical {α : Type} : Geo α → Prop
  | .ok _ s | .hold _ s | .fail _ _ _ s => MemoriesCanonical s
theorem Geo.Canonical.of_eq {α : Type} {r q : Geo α} (h : r.Canonical) (e : r = q) : q.Canonical := e ▸ h
/-- The same of a copy's start. -/
def CpStart.Canonical : CpStart → Prop
  | .ok _ s | .hold _ s | .fail _ _ _ s => MemoriesCanonical s
  | .busy => True
theorem CpStart.Canonical.of_eq {r q : CpStart} (h : r.Canonical) (e : r = q) : q.Canonical := e ▸ h
/-- The same of the read of a saved image. -/
def ImageRead.Canonical : ImageRead → Prop
  | .good _ s | .bad s | .hold _ s => MemoriesCanonical s
  | .busy => True
theorem ImageRead.Canonical.of_eq {r q : ImageRead} (h : r.Canonical) (e : r = q) : q.Canonical := e ▸ h
/-- The same of a gather's run. -/
def GatEnd.Canonical : GatEnd → Prop
  | .done s | .hold _ _ s | .fault _ _ _ s => MemoriesCanonical s
  | .busy => True
/-- The same of a binding's record. -/
def BindGot.Canonical : BindGot → Prop
  | .done s | .wait _ s => MemoriesCanonical s
theorem BindGot.Canonical.of_eq {r q : BindGot} (h : r.Canonical) (e : r = q) : q.Canonical := e ▸ h

/-! ## Results that may hold no state -/

/-- What is said of an error, and what of a value. -/
def ExceptHolds {ε α : Type} (P : ε → Prop) (Q : α → Prop) : Except ε α → Prop
  | .error e => P e
  | .ok a => Q a
theorem ExceptHolds.of_eq {ε α : Type} {P : ε → Prop} {Q : α → Prop} {r q : Except ε α} (h : ExceptHolds P Q r)
    (e : r = q) : ExceptHolds P Q q := e ▸ h
theorem ExceptHolds.ite {ε α : Type} {P : ε → Prop} {Q : α → Prop} {c : Prop} [Decidable c] {r q : Except ε α}
    (hr : ExceptHolds P Q r) (hq : ExceptHolds P Q q) : ExceptHolds P Q (if c then r else q) := by
  split
  · exact hr
  · exact hq
theorem ExceptHolds.bind {ε α β : Type} {P : ε → Prop} {Q : α → Prop} {R : β → Prop} {r : Except ε α}
    (h : ExceptHolds P Q r) {f : α → Except ε β} (hf : ∀ a, Q a → ExceptHolds P R (f a)) :
    ExceptHolds P R (r >>= f) := by
  cases r with
  | error e => exact h
  | ok a => exact hf a h
theorem ExceptHolds.map {ε α β : Type} {P : ε → Prop} {Q : α → Prop} {R : β → Prop} {r : Except ε α}
    (h : ExceptHolds P Q r) {f : α → β} (hf : ∀ a, Q a → R (f a)) : ExceptHolds P R (r.map f) := by
  cases r with
  | error e => exact h
  | ok a => exact hf a h
/-- Reads of the parts of a list, one after another. -/
theorem ExceptHolds.mapM {ε α β : Type} {P : ε → Prop} {f : α → Except ε β}
    (hf : ∀ a, ExceptHolds P (fun _ => True) (f a)) (l : List α) : ExceptHolds P (fun _ => True) (l.mapM f) := by
  induction l with
  | nil => trivial
  | cons a l ih =>
    rw [List.mapM_cons]
    exact (hf a).bind fun _ _ => ih.bind fun _ _ => trivial
/-- What is said of a value that may be missing. -/
def OptionHolds {α : Type} (P : α → Prop) : Option α → Prop
  | none => True
  | some a => P a
theorem OptionHolds.of_eq {α : Type} {P : α → Prop} {r q : Option α} (h : OptionHolds P r) (e : r = q) :
    OptionHolds P q := e ▸ h
theorem OptionHolds.getD {α : Type} {P : α → Prop} {r : Option α} (h : OptionHolds P r) {a : α} (ha : P a) :
    P (r.getD a) := by
  cases r with
  | none => exact ha
  | some x => exact h
theorem OptionHolds.bind {α β : Type} {P : α → Prop} {R : β → Prop} {r : Option α} (h : OptionHolds P r)
    {f : α → Option β} (hf : ∀ a, P a → OptionHolds R (f a)) : OptionHolds R (r.bind f) := by
  cases r with
  | none => trivial
  | some a => exact hf a h
theorem OptionHolds.map {α β : Type} {P : α → Prop} {R : β → Prop} {r : Option α} (h : OptionHolds P r)
    {f : α → β} (hf : ∀ a, P a → R (f a)) : OptionHolds R (r.map f) := by
  cases r with
  | none => trivial
  | some a => exact hf a h
/-- Steps that may each give up, one after another. -/
theorem OptionHolds.foldl {α β : Type} {P : α → Prop} {f : α → β → Option α} (hf : ∀ a b, P a → OptionHolds P (f a b))
    (l : List β) {r : Option α} (hr : OptionHolds P r) :
    OptionHolds P (l.foldl (fun (r : Option α) b => r.bind fun a => f a b) r) := by
  induction l generalizing r with
  | nil => exact hr
  | cons b l ih => exact ih (hr.bind fun a ha => hf a b ha)

/-! ## Accesses that stay folded

Where a match looks at an access whose address is computed, the kernel, asked whether the function is its own body, may run the
access before it compares the two, and does not come back. Three means avoid the question: the function itself is rewritten to
its value (`delta%`) before its arguments are looked at; the access is replaced by a variable of which only its lemma is known
(`of_forall`); and a recursion is taken at its step (`brecOn_holds`, `list_brecOn_holds`), not at its equations. -/

/-- A claim about a value, from the claim about every value. -/
theorem of_forall.{u} {α : Sort u} {P : α → Prop} (h : ∀ a, P a) (a : α) : P a := h a
/-- The value at the predecessor, of a recursion on numbers, is as claimed. -/
def BelowHolds {motive : Nat → Type} (P : ∀ n, motive n → Prop) : ∀ n, Nat.below (motive := motive) n → Prop
  | 0, _ => True
  | n + 1, b => P n b.1
/-- Induction for a recursion on numbers, from its step. -/
theorem brecOn_holds {motive : Nat → Type} {P : ∀ n, motive n → Prop}
    {F : ∀ n, Nat.below (motive := motive) n → motive n} (step : ∀ n b, BelowHolds P n b → P n (F n b)) (n : Nat) :
    P n (Nat.brecOn n F) := by
  suffices P n (Nat.brecOn n F) ∧ BelowHolds P n (Nat.brecOn.go n F).2 from this.1
  induction n with
  | zero => exact ⟨step 0 _ trivial, trivial⟩
  | succ n ih => exact ⟨step (n + 1) _ ih.1, ih.1⟩
/-- The value at the tail, of a recursion on a list, is as claimed. -/
def TailHolds {α : Type} {motive : List α → Type} (P : ∀ l, motive l → Prop) :
    ∀ l, List.below (motive := motive) l → Prop
  | [], _ => True
  | _ :: l, b => P l b.1
/-- Induction for a recursion on a list, from its step. -/
theorem list_brecOn_holds {α : Type} {motive : List α → Type} {P : ∀ l, motive l → Prop}
    {F : ∀ l, List.below (motive := motive) l → motive l} (step : ∀ l b, TailHolds P l b → P l (F l b)) (l : List α) :
    P l (List.brecOn l F) := by
  suffices P l (List.brecOn l F) ∧ TailHolds P l (List.brecOn.go l F).2 from this.1
  induction l with
  | nil => exact ⟨step [] _ trivial, trivial⟩
  | cons a l ih => exact ⟨step (a :: l) _ ih.1, ih.1⟩

end Sys2Proof.Machine
end

section
/-! The functions of Sys2Proof/Machine/Util.lean keep the memories canonical. -/

namespace Sys2Proof.Machine

theorem MemoriesCanonical.setSlot {s : State} (h : MemoriesCanonical s) (k : Nat) (x : Slot) :
    MemoriesCanonical (State.setSlot s k x) :=
  h.of_eq rfl rfl

theorem MemoriesCanonical.setParty {s : State} (h : MemoriesCanonical s) (k : Nat) (p : Party) :
    MemoriesCanonical (State.setParty s k p) :=
  h.setSlot _ _

theorem MemoriesCanonical.setStack {s : State} (h : MemoriesCanonical s) (k : Nat) (x : Stack) :
    MemoriesCanonical (State.setStack s k x) :=
  h.of_eq rfl rfl

theorem MemoriesCanonical.setPort {s : State} (h : MemoriesCanonical s) (k : Nat × Nat) (x : Port) :
    MemoriesCanonical (State.setPort s k x) :=
  h.of_eq rfl rfl

theorem MemoriesCanonical.setBank {s : State} (h : MemoriesCanonical s) (k : Nat × Nat × Nat) (x : BankUnit) :
    MemoriesCanonical (State.setBank s k x) :=
  h.of_eq rfl rfl

theorem MemoriesCanonical.setLaunch {s : State} (h : MemoriesCanonical s) (l : Launch) :
    MemoriesCanonical (State.setLaunch s l) :=
  h.of_eq rfl rfl

theorem MemoriesCanonical.setBlock {s : State} (h : MemoriesCanonical s) (b : Block) :
    MemoriesCanonical (State.setBlock s b) :=
  h.of_eq rfl rfl

theorem MemoriesCanonical.setOp {s : State} (h : MemoriesCanonical s) (o : Op) :
    MemoriesCanonical (State.setOp s o) :=
  h.of_eq rfl rfl

theorem MemoriesCanonical.setPhase {s : State} (h : MemoriesCanonical s) (o : Op) (p : Phase) :
    MemoriesCanonical (State.setPhase s o p) :=
  h.setOp _

theorem MemoriesCanonical.delOp {s : State} (h : MemoriesCanonical s) (id : Nat) :
    MemoriesCanonical (State.delOp s id) :=
  h.of_eq rfl rfl

theorem MemoriesCanonical.send {s : State} (h : MemoriesCanonical s) (kind dest body : Nat) :
    MemoriesCanonical (State.send s kind dest body) :=
  h.of_eq rfl rfl

end Sys2Proof.Machine
end

section
/-! The functions of Sys2Proof/Machine/Log.lean keep the memories canonical. -/

namespace Sys2Proof.Machine

theorem MemoriesCanonical.dropReports {s : State} (h : MemoriesCanonical s) (n : Nat) :
    MemoriesCanonical (dropReports s n) :=
  .ite h (h.dirWrite _ _ _)

theorem MemoriesCanonical.stageReport {s : State} (h : MemoriesCanonical s) (r : Report) :
    MemoriesCanonical (stageReport s r) := by
  unfold Machine.stageReport
  extract_lets old tick first now s1
  have hs1 : MemoriesCanonical s1 := h.of_eq rfl rfl
  exact .ite (hs1.dropReports _) hs1

theorem MemoriesCanonical.reportEvent {s : State} (h : MemoriesCanonical s) (ch kind code adrk addr unit : Nat) :
    MemoriesCanonical (reportEvent s ch kind code adrk addr unit) :=
  h.stageReport _

theorem MemoriesCanonical.reportAction {s : State} (h : MemoriesCanonical s) (ch code adrk addr unit : Nat) :
    MemoriesCanonical (reportAction s ch code adrk addr unit) :=
  h.of_eq rfl rfl

theorem MemoriesCanonical.stageDue {s : State} (h : MemoriesCanonical s) : MemoriesCanonical (stageDue s) :=
  .foldl (fun _ _ hs => hs.stageReport _) _ (h.of_eq rfl rfl)

end Sys2Proof.Machine
end

section
/-! The functions of Sys2Proof/Machine/Ops.lean keep the memories canonical. -/

namespace Sys2Proof.Machine

theorem MemoriesCanonical.whenEnabled {t : State} (h : MemoriesCanonical t) (name : String) (g : Bool) :
    AnswersCanonical (whenEnabled name g t) := by
  unfold Machine.whenEnabled
  split
  · exact h
  · trivial

theorem MemoriesCanonical.setSeg {s : State} (h : MemoriesCanonical s) (core lid seg : Nat) (x : Seg) :
    MemoriesCanonical (setSeg s core lid seg x) :=
  h.setCore_same rfl rfl

theorem MemoriesCanonical.mapGroup {s : State} (h : MemoriesCanonical s) (cx : Cx)
    (g : Nat → Thread → Thread × Option Esc) : MemoriesCanonical (Cx.mapGroup cx s g) :=
  h.setParty _ _

theorem MemoriesCanonical.trapAll {s : State} (h : MemoriesCanonical s) (cx : Cx) (tr : Trap) :
    MemoriesCanonical (Cx.trapAll cx s tr) :=
  h.mapGroup _ _

theorem MemoriesCanonical.runWord {s : State} (h : MemoriesCanonical s) (i : Instr) {body : Cx → State → State}
    (hb : ∀ cx, MemoriesCanonical (body cx s)) : AnswersCanonical (runWord s i body) := by
  unfold Machine.runWord
  split
  · trivial
  · split
    · exact h.trapAll _ _
    · split
      · exact h.trapAll _ _
      · exact hb _

theorem MemoriesCanonical.runAlu {s : State} (h : MemoriesCanonical s) (i : Instr) (lats : Bool)
    (op : Cx → View → Opnds → LaneRes) : AnswersCanonical (runAlu s i lats op) :=
  h.runWord _ (fun _ => h.mapGroup _ _)

theorem MemoriesCanonical.runUni {s : State} (h : MemoriesCanonical s) (i : Instr) (f : Opnds → Nat) :
    AnswersCanonical (runUni s i f) :=
  h.runWord _ (fun _ => h.mapGroup _ _)

theorem MemoriesCanonical.putG {s : State} (h : MemoriesCanonical s) (slot tid : Nat) (d : Reg) (w : Width)
    (x : Nat) : MemoriesCanonical (State.putG s slot tid d w x) := by
  unfold Machine.State.putG
  split
  · exact h.setParty _ _
  · exact h

theorem MemoriesCanonical.cxPutG {s : State} (h : MemoriesCanonical s) (cx : Cx) (tid : Nat) (w : Width) (x : Nat) :
    MemoriesCanonical (Cx.putG cx s tid w x) :=
  h.putG _ _ _ _ _

theorem MemoriesCanonical.each {s : State} (h : MemoriesCanonical s) (cx : Cx)
    {g : State → Nat → View → Thread → State × (Thread × Option Esc)}
    (hg : ∀ s tid v t, MemoriesCanonical s → MemoriesCanonical (g s tid v t).1) :
    MemoriesCanonical (cx.each s g) := by
  unfold Cx.each
  refine MemoriesCanonical.foldl (fun s tid hs => ?_) _ h
  split
  · exact hs
  · rename_i party _
    have hu := hg s tid { party := { party with g := cx.party.g }, thread := party.thread tid, tid := tid, tids := cx.tids, ref := s.ref }
      (party.thread tid) hs
    dsimp only
    split
    · exact hu
    · exact hu.setParty _ _

theorem MemoriesCanonical.addOp {s : State} (h : MemoriesCanonical s) (slot lid : Nat) (tids : List Nat)
    (cls : Option Cls) (pc : Pc) (kind : OpKind) (after : List Nat) :
    MemoriesCanonical (State.addOp s slot lid tids cls pc kind after) :=
  h.of_eq rfl rfl

theorem MemoriesCanonical.haltParty {s : State} (h : MemoriesCanonical s) (slot : Nat) :
    MemoriesCanonical (haltParty s slot) := by
  unfold Machine.haltParty
  split
  · exact h
  · exact h.setParty _ _

theorem MemoriesCanonical.reissueCopies {s : State} (h : MemoriesCanonical s) (slot lid : Nat)
    (copies : List SavedCopy) : MemoriesCanonical (reissueCopies s slot lid copies) := by
  unfold Machine.reissueCopies
  extract_lets blin
  refine MemoriesCanonical.foldl (fun s a hs => ?_) _ h
  extract_lets s1
  have hs1 : MemoriesCanonical s1 := by
    unfold s1
    split
    · exact hs.setParty _ _
    · exact hs
  exact hs1.addOp _ _ _ _ _ _ _

theorem MemoriesCanonical.abandonSave {s : State} (h : MemoriesCanonical s) (slot : Nat) :
    MemoriesCanonical (abandonSave s slot) := by
  unfold Machine.abandonSave
  extract_lets k
  split
  · extract_lets t t1
    have ht : MemoriesCanonical t := h.setSlot _ _
    have ht1 : MemoriesCanonical t1 := .ite ht (ht.reissueCopies _ _ _)
    exact .ite ((ht1.haltParty _).reportAction _ _ _ _ _) ht1
  · exact h

theorem MemoriesCanonical.retireThread {s : State} (h : MemoriesCanonical s) (o : Op) (tid : Nat) :
    MemoriesCanonical (retireThread s o tid) := by
  unfold Machine.retireThread
  split
  · extract_lets t
    split
    · exact (h.setParty _ _).abandonSave _
    · exact h.setParty _ _
  · exact h

theorem MemoriesCanonical.retire {s : State} (h : MemoriesCanonical s) (id : Nat) :
    MemoriesCanonical (retire s id) := by
  unfold Machine.retire
  split
  · exact h
  · extract_lets go s1 live
    have hs1 : MemoriesCanonical s1 := .foldl (fun _ _ hs => hs.retireThread _ _) _ h
    exact .ite (hs1.delOp _) (hs1.setOp _)

end Sys2Proof.Machine
end

section
/-! The functions of Sys2Proof/Machine/Integer.lean keep the memories canonical. -/

namespace Sys2Proof.Machine

theorem MemoriesCanonical.execBperm {s : State} (h : MemoriesCanonical s) (d a b : BitVec 8) :
    AnswersCanonical (execBperm d a b s) := by
  unfold Machine.execBperm
  refine MemoriesCanonical.runWord h _ (fun cx => ?_)
  split
  · exact h.trapAll _ _
  · exact h.mapGroup _ _

end Sys2Proof.Machine
end

section
/-! The functions of Sys2Proof/Machine/Translate.lean keep the memories canonical. -/

namespace Sys2Proof.Machine

theorem MemoriesCanonical.noteSpread {s : State} (h : MemoriesCanonical s) (e ppa : Nat) :
    MemoriesCanonical (State.noteSpread s e ppa) := by
  unfold Machine.State.noteSpread
  extract_lets k
  exact .ite h (h.of_eq rfl rfl)

theorem MemoriesCanonical.noteUse {s : State} (h : MemoriesCanonical s) (idx e x ppa : Nat) :
    MemoriesCanonical (State.noteUse s idx e x ppa) :=
  (h.noteSpread _ _).unsealLine _ _

theorem MemoriesCanonical.enterTlb {s : State} (h : MemoriesCanonical s) (die : Nat) (k : PageKey) (leaf : Nat) :
    MemoriesCanonical (enterTlb s die k leaf) :=
  h.setDie _ _

theorem MemoriesCanonical.walkDone {s : State} (h : MemoriesCanonical s) (die : Nat) (k : PageKey) (e x : Nat) :
    MemoriesCanonical (walkDone s die k e x) := by
  rw [show @Machine.walkDone = delta% @Machine.walkDone from rfl]
  beta_reduce
  extract_lets t
  have ht : MemoriesCanonical t := by
    unfold t
    exact .foldl (fun _ _ hs => .ite (hs.l2Fetch _ _ _) hs) _ h
  split
  · exact .ite ht (ht.enterTlb _ _ _)
  · exact ht

theorem MemoriesCanonical.translated {s : State} (h : MemoriesCanonical s) (die : Nat) (k : PageKey) (e x : Nat) :
    MemoriesCanonical (State.translated s die k e x) := by
  unfold Machine.State.translated
  extract_lets s1
  have hs1 : MemoriesCanonical s1 := .ite h (h.walkDone _ _ _ _)
  split
  · exact hs1.noteUse _ _ _ _
  · exact hs1

theorem MemoriesCanonical.reach {s : State} (h : MemoriesCanonical s) (g : Ag) (ea : Nat) :
    MemoriesCanonical (State.reach s g ea) := by
  unfold Machine.State.reach
  split
  · exact .ite h (h.translated _ _ _ _)
  · exact h

theorem MemoriesCanonical.startCow {s : State} (h : MemoriesCanonical s) (k : PageKey) :
    MemoriesCanonical (startCow s k) :=
  .ite h (h.of_eq rfl rfl)

theorem MemoriesCanonical.freshenAll {s : State} (h : MemoriesCanonical s) (line : Nat) :
    MemoriesCanonical (freshenAll s line) := by
  unfold Machine.freshenAll
  extract_lets t
  have ht : MemoriesCanonical t := .foldl (fun _ _ hs => hs.freshen _ _) _ h
  exact .foldl (fun _ _ hs => .ite (hs.l1DropLine _ _) hs) _ ht

theorem MemoriesCanonical.applyPartial {s : State} (h : MemoriesCanonical s) (p : Partial) :
    MemoriesCanonical (applyPartial s p) := by
  unfold Machine.applyPartial
  extract_lets new
  exact MemoriesCanonical.freshenAll (.ite (h.l2Write _ _ _ _) (h.dirWrite _ _ _)) _

theorem MemoriesCanonical.combine {s : State} (h : MemoriesCanonical s) (lid line : Nat) :
    MemoriesCanonical (combine s lid line) := by
  unfold Machine.combine
  extract_lets mine cores ps s1
  have hs1 : MemoriesCanonical s1 := .foldl (fun _ _ hs => hs.applyPartial _) _ h
  refine MemoriesCanonical.foldl (fun s a hs => ?_) _ hs1
  exact hs.setCore_same rfl rfl

theorem MemoriesCanonical.readPlace {s : State} (h : MemoriesCanonical s) (g : Ag) (p : Place) (n : Nat) :
    MemoriesCanonical (readPlace s g p n).2 := by
  unfold Machine.readPlace
  split
  · exact h
  · exact h
  · extract_lets s1
    have hs1 : MemoriesCanonical s1 := (h.combine _ _).l1DropLine _ _
    split
    · exact (hs1.freshen _ _).l2Read _ _ _
    · exact hs1.dirRead _ _
  · exact h

theorem MemoriesCanonical.writePlace {s : State} (h : MemoriesCanonical s) (g : Ag) (p : Place) (n x : Nat) :
    MemoriesCanonical (writePlace s g p n x) := by
  unfold Machine.writePlace
  split
  · exact h.scrWrite _ _ _ _
  · exact h.accWrite _ _ _ _
  · exact .ite (h.storeThrough _ _ _ _) (h.dirWrite _ _ _)
  · exact h

theorem MemoriesCanonical.peerGot {s : State} (h : MemoriesCanonical s) (g : Ag) (pkg ridx ea n : Nat)
    (a : PeerAct) : (peerGot s g pkg ridx ea n a).Canonical := by
  unfold Machine.peerGot
  extract_lets +onlyGivenNames m
  split
  · exact h
  · split
    · exact h
    · split
      · exact h
      · extract_lets +onlyGivenNames answered u
        have hanswered : MemoriesCanonical answered := by
          unfold answered
          exact .ite (h.of_eq rfl rfl) (h.send _ _ _)
        have hu : MemoriesCanonical u := h.send _ _ _
        extract_lets +onlyGivenNames waiting
        have hwaiting : MemoriesCanonical waiting := by
          unfold waiting
          exact .ite h (hu.of_eq rfl rfl)
        split
        · exact hanswered
        · exact hanswered
        · split
          · exact hanswered
          · exact hwaiting
        · exact hwaiting

theorem MemoriesCanonical.keepHold {s : State} (h : MemoriesCanonical s) (t : State) :
    MemoriesCanonical (s.keepHold t) :=
  h.of_eq rfl rfl

theorem MemoriesCanonical.heldNext {s : State} (h : MemoriesCanonical s) (name : String) (go : Bool) (t : State) :
    AnswersCanonical (heldNext name s go t) :=
  (h.keepHold _).whenEnabled _ _

theorem MemoriesCanonical.forgetAsked {s : State} (h : MemoriesCanonical s) (ctx ea : Nat) :
    MemoriesCanonical (State.forgetAsked s ctx ea) :=
  h.of_eq rfl rfl

theorem MemoriesCanonical.busyGot {s : State} (h : MemoriesCanonical s) (ea : Nat) (loc : State → Loc) :
    (busyGot s ea loc).Canonical := by
  unfold Machine.busyGot
  split
  · exact h
  · exact h

theorem MemoriesCanonical.readLine {s : State} (h : MemoriesCanonical s) (g : Ag) (ea n : Nat) :
    (readLine s g ea n).Canonical := by
  unfold Machine.readLine
  extract_lets view d m len seen
  split
  · exact h
  · exact h
  · exact h
  · exact h.busyGot _ _
  · split
    · rename_i hr1
      exact ((h.peerGot _ _ _ _ _ _).of_eq hr1 :)
    · exact h.peerGot _ _ _ _ _ _
  · split
    · exact h
    · split
      · rename_i hr2
        exact (((h.reach _ _).readPlace _ _ _).of_snd hr2 :)
  · exact h
  · exact h

theorem MemoriesCanonical.readEaFrom {s : State} (h : MemoriesCanonical s) (g : Ag) (f ea n : Nat) :
    (readEaFrom g f s ea n).Canonical := by
  induction f generalizing s ea n with
  | zero => exact h
  | succ f ih =>
    rw [Machine.readEaFrom]
    split
    · rename_i t hr
      have ht : MemoriesCanonical t := (h.readLine _ _ _).of_eq hr
      split
      · exact ht
      · split
        · rename_i hr2
          exact ((ih ht _ _).of_eq hr2 :)
        · exact ih ht _ _
    · exact h.readLine _ _ _

theorem MemoriesCanonical.readEa {s : State} (h : MemoriesCanonical s) (g : Ag) (ea n : Nat) :
    (readEa s g ea n).Canonical := by
  unfold Machine.readEa
  split
  · exact h
  · exact h.readEaFrom _ _ _ _

theorem MemoriesCanonical.writeEaFrom {s : State} (h : MemoriesCanonical s) (g : Ag) (f ea n x : Nat) :
    (writeEaFrom g f s ea n x).Canonical := by
  induction f generalizing s ea n x with
  | zero => exact h
  | succ f ih =>
    rw [Machine.writeEaFrom]
    split
    · exact h
    · split
      · exact h
      · exact h
      · exact h.busyGot _ _
      · exact h.startCow _
      · split
        · rename_i t hr2
          have ht : MemoriesCanonical t := (h.peerGot _ _ _ _ _ _).of_eq hr2
          split
          · exact ht
          · exact ih ht _ _ _
        · exact h.peerGot _ _ _ _ _ _
      · extract_lets s1
        have hs1 : MemoriesCanonical s1 := (h.reach _ _).writePlace _ _ _ _
        split
        · exact hs1
        · exact ih hs1 _ _ _

theorem MemoriesCanonical.writeEa {s : State} (h : MemoriesCanonical s) (g : Ag) (ea n x : Nat) :
    (writeEa s g ea n x).Canonical := by
  unfold Machine.writeEa
  split
  · exact h
  · exact h.writeEaFrom _ _ _ _ _

end Sys2Proof.Machine
end

section
/-! The functions of Sys2Proof/Machine/Access.lean keep the memories canonical. -/

namespace Sys2Proof.Machine

theorem MemoriesCanonical.issueAccess {s : State} (h : MemoriesCanonical s) (cx : Cx) (tids : List Nat) (cls : Cls)
    (seq0 : Nat) (k : OpKind) : MemoriesCanonical (State.issueAccess s cx tids cls seq0 k) := by
  unfold Machine.State.issueAccess
  extract_lets fence after wait s1
  have hs1 : MemoriesCanonical s1 := h.addOp _ _ _ _ _ _ _
  exact hs1.of_eq rfl rfl

theorem MemoriesCanonical.enterBuffer {s : State} (h : MemoriesCanonical s) (cx : Cx) (tid : Nat) (cls : Cls)
    (k : OpKind) : MemoriesCanonical (State.enterBuffer s cx tid cls k) := by
  unfold Machine.State.enterBuffer
  split
  · extract_lets s1 id s2
    have hs1 : MemoriesCanonical s1 := h.setBlock _
    have hs2 : MemoriesCanonical s2 := hs1.addOp _ _ _ _ _ _ _
    exact hs2.of_eq rfl rfl
  · exact h

theorem MemoriesCanonical.issueOne {s : State} (h : MemoriesCanonical s) (cx : Cx) (seq0 tid : Nat) (t : Thread)
    (r : Req) : MemoriesCanonical (Cx.issueOne cx s seq0 tid t r).1 := by
  unfold Machine.Cx.issueOne
  split
  · exact h
  · exact .ite (h.enterBuffer _ _ _ _) (h.issueAccess _ _ _ _ _)

theorem MemoriesCanonical.runMem {s : State} (h : MemoriesCanonical s) (i : Instr) (zw : Width)
    (req : Cx → View → Opnds → Req) : AnswersCanonical (runMem s i zw req) := by
  unfold Machine.runMem
  refine MemoriesCanonical.runWord h _ (fun cx => ?_)
  extract_lets seq0
  refine MemoriesCanonical.each h _ (fun s1 tid v t a => ?_)
  split
  · exact a.issueOne _ _ _ _ _
  · exact .ite (a.cxPutG _ _ _ _) a

theorem MemoriesCanonical.runUniMem {s : State} (h : MemoriesCanonical s) (i : Instr)
    (req : Cx → View → Opnds → Req) : AnswersCanonical (runUniMem s i req) := by
  unfold Machine.runUniMem
  refine MemoriesCanonical.runWord h _ (fun cx => ?_)
  extract_lets +onlyGivenNames v r
  split
  · exact h.trapAll _ _
  · extract_lets +onlyGivenNames s1 s2
    have hs1 : MemoriesCanonical s1 := .ite (h.enterBuffer _ _ _ _) (h.issueAccess _ _ _ _ _)
    have hs2 : MemoriesCanonical s2 := by
      unfold s2
      exact .ite (hs1.of_eq rfl rfl) hs1
    exact hs2.mapGroup _ _

theorem MemoriesCanonical.runVer {s : State} (h : MemoriesCanonical s) (i : Instr) (n k : Nat) :
    AnswersCanonical (runVer s i n k) := by
  unfold Machine.runVer
  refine MemoriesCanonical.runWord h _ (fun cx => ?_)
  extract_lets seq0
  refine MemoriesCanonical.each h _ (fun s1 tid v t a => ?_)
  split
  · extract_lets r
    split
    · exact a
    · split
      · exact a
      · exact a.issueOne _ _ _ _ _
  · exact .ite (a.cxPutG _ _ _ _) a

theorem MemoriesCanonical.execUldv {s : State} (h : MemoriesCanonical s) (d a b : BitVec 8) :
    AnswersCanonical (execUldv d a b s) := by
  unfold Machine.execUldv
  refine MemoriesCanonical.runWord h _ (fun cx => ?_)
  extract_lets n v r
  split
  · exact h.trapAll _ _
  · split
    · exact h.trapAll _ _
    · split
      · exact h.trapAll _ _
      · exact (h.issueAccess _ _ _ _ _).mapGroup _ _

theorem MemoriesCanonical.acquire {s : State} (h : MemoriesCanonical s) (core scope : Nat) :
    MemoriesCanonical (acquire s core scope) := by
  unfold Machine.acquire
  extract_lets s1
  have hs1 : MemoriesCanonical s1 := .ite (h.applyInvs _) h
  exact .ite (hs1.l1Drop _) hs1

theorem MemoriesCanonical.execFence {s : State} (h : MemoriesCanonical s) (d a b : BitVec 8) :
    AnswersCanonical (execFence d a b s) :=
  h.runWord _ (fun _ => MemoriesCanonical.mapGroup (.ite (h.acquire _ _) h) _ _)

theorem MemoriesCanonical.runClean {s : State} (h : MemoriesCanonical s) (i : Instr) (mode : Nat) (write : Bool) :
    AnswersCanonical (runClean s i mode write) := by
  unfold Machine.runClean
  refine MemoriesCanonical.runWord h _ (fun cx => ?_)
  extract_lets seq0
  refine MemoriesCanonical.each h _ (fun s1 tid v t a => ?_)
  split
  · extract_lets o need r
    split
    · exact a
    · exact a.issueOne _ _ _ _ _
  · exact a

theorem MemoriesCanonical.execUpref {s : State} (h : MemoriesCanonical s) (d a b : BitVec 8) :
    AnswersCanonical (execUpref d a b s) := by
  unfold Machine.execUpref
  refine MemoriesCanonical.runWord h _ (fun cx => ?_)
  extract_lets ea s1
  have hs1 : MemoriesCanonical s1 := by
    unfold s1
    split
    · exact h
    · split
      · extract_lets s2
        have hs2 : MemoriesCanonical s2 := (h.reach _ _).l2Fetch _ _ _
        exact .ite (hs2.l1Put _ _ _ _) hs2
      all_goals exact h
  exact hs1.mapGroup _ _

theorem MemoriesCanonical.execTbinit {s : State} (h : MemoriesCanonical s) (d a b : BitVec 8) :
    AnswersCanonical (execTbinit d a b s) := by
  unfold Machine.execTbinit
  refine MemoriesCanonical.runWord h _ (fun cx => ?_)
  extract_lets o need k
  split
  · exact h.trapAll _ _
  · exact .ite (h.trapAll _ _) (MemoriesCanonical.mapGroup (MemoriesCanonical.issueAccess (.ite (h.setLaunch _) h) _ _ _ _ _)
        _ _)

end Sys2Proof.Machine
end

section
/-! The functions of Sys2Proof/Machine/Perform.lean keep the memories canonical. -/

namespace Sys2Proof.Machine

theorem MemoriesCanonical.singlePoint {s : State} (h : MemoriesCanonical s) (core ppa n : Nat) (f : Nat → Nat) :
    MemoriesCanonical (singlePoint s core ppa n f).2 := by
  unfold Machine.singlePoint
  extract_lets die line old
  split
  · split
    · exact h.storeThrough _ _ _ _
    · exact ((h.l2Write _ _ _ _).freshen _ _).l1DropLine _ _
  · exact .ite (h.storeThrough _ _ _ _) (h.dirWrite _ _ _)

theorem MemoriesCanonical.rmwPlace {s : State} (h : MemoriesCanonical s) (g : Ag) (p : Place) (n : Nat)
    (f : Nat → Nat) : MemoriesCanonical (rmwPlace s g p n f).2 := by
  unfold Machine.rmwPlace
  split
  · exact h.scrWrite _ _ _ _
  · exact h.accWrite _ _ _ _
  · exact h.singlePoint _ _ _ _
  · exact h

theorem MemoriesCanonical.rmwEa {s : State} (h : MemoriesCanonical s) (g : Ag) (ea n : Nat) (a : PeerAct) :
    (rmwEa s g ea n a).Canonical := by
  unfold Machine.rmwEa
  extract_lets f
  split
  · exact h
  · split
    · exact h
    · exact h
    · exact h.busyGot _ _
    · exact h.startCow _
    · exact h.peerGot _ _ _ _ _ _
    · split
      · exact h
      · split
        · rename_i hr4
          exact (((h.reach _ _).rmwPlace _ _ _ _).of_snd hr4 :)

theorem MemoriesCanonical.failWith {s : State} (h : MemoriesCanonical s) (o : Op) (cause taddr tinfo : Nat) :
    MemoriesCanonical (failWith s o cause taddr tinfo) := by
  unfold Machine.failWith
  extract_lets s1
  have hs1 : MemoriesCanonical s1 := h.setPhase _ _
  exact .ite (hs1.of_eq rfl rfl) hs1

theorem MemoriesCanonical.failOp {s : State} (h : MemoriesCanonical s) (o : Op) (cause ea : Nat) :
    MemoriesCanonical (failOp s o cause ea) :=
  h.failWith _ _ _ _

theorem MemoriesCanonical.waitPhase {s : State} (h : MemoriesCanonical s) (o : Op) :
    MemoriesCanonical (State.waitPhase s o) :=
  h.setPhase _ _

theorem MemoriesCanonical.acceptPartial {s : State} (h : MemoriesCanonical s) (core : Nat) (p : Partial) :
    MemoriesCanonical (acceptPartial s core p) := by
  unfold Machine.acceptPartial
  extract_lets parts
  split
  · exact h.setCore_same rfl rfl
  · clear_value parts
    split
    · rename_i q _ _ _
      split
      · extract_lets t
        have ht : MemoriesCanonical t := h.applyPartial q
        clear_value t
        exact ht.setCore_same rfl rfl
      · exact h.setCore_same rfl rfl
    · exact h.setCore_same rfl rfl

theorem MemoriesCanonical.beforeRead {s : State} (h : MemoriesCanonical s) (core scope : Nat) (acq : Bool) :
    MemoriesCanonical (beforeRead s core scope acq) :=
  .ite (h.applyInvs _) h

theorem MemoriesCanonical.afterRead {s : State} (h : MemoriesCanonical s) (core scope : Nat) (acq : Bool) :
    MemoriesCanonical (afterRead s core scope acq) :=
  .ite (h.l1Drop _) h

theorem MemoriesCanonical.policies {s : State} (h : MemoriesCanonical s) (g : Ag) (p : Place) (attr : Nat) :
    MemoriesCanonical (State.policies s g p attr) := by
  unfold Machine.State.policies
  split
  · exact (h.l2Mark _ _ _).l1Mark _ _ _
  all_goals exact h

theorem MemoriesCanonical.performAt {s : State} (h : MemoriesCanonical s) (o : Op) (g : Ag) (p : Place) :
    MemoriesCanonical (performAt s o g p) := by
  unfold Machine.performAt
  split
  · extract_lets +onlyGivenNames s1 det bad
    have hs1 : MemoriesCanonical s1 := h.beforeRead _ _ _
    split
    · exact hs1.failOp _ _ _
    · split
      · split
        · rename_i t hr3
          have ht : MemoriesCanonical t := (hs1.readEa _ _ _).of_eq hr3
          exact ((ht.afterRead _ _ _).policies _ _ _).setPhase _ _
        · rename_i t hr3
          have ht : MemoriesCanonical t := (hs1.readEa _ _ _).of_eq hr3
          exact ht.setPhase _ _
        · rename_i t hr3
          have ht : MemoriesCanonical t := (hs1.readEa _ _ _).of_eq hr3
          exact ht.waitPhase _
        · rename_i t hr3
          have ht : MemoriesCanonical t := (hs1.readEa _ _ _).of_eq hr3
          exact ht.failOp _ _ _
      · split
        · rename_i t hr3
          have ht : MemoriesCanonical t := by
            refine MemoriesCanonical.of_snd ?_ hr3
            split
            · exact hs1
            · exact hs1
            · exact (hs1.combine _ _).loadThrough _ _ _ _ _
            · exact hs1
          exact (ht.afterRead _ _ _).setPhase _ _
  · exact ((h.writePlace _ _ _ _).policies _ _ _).setPhase _ _
  · extract_lets +onlyGivenNames n range range1
    clear_value range1
    split
    · exact ((h.acceptPartial _ _).policies _ _ _).setPhase _ _
    · extract_lets +onlyGivenNames s1
      have hs1 : MemoriesCanonical s1 := h.beforeRead _ _ _
      split
      · split
        · split
          · rename_i t hr3
            have ht : MemoriesCanonical t := (hs1.singlePoint _ _ _ _).of_snd hr3
            exact ((ht.policies _ _ _).afterRead _ _ _).setPhase _ _
        · exact hs1.setPhase _ _
      · split
        · rename_i t hr2
          have ht : MemoriesCanonical t := (hs1.singlePoint _ _ _ _).of_snd hr2
          exact ((ht.policies _ _ _).afterRead _ _ _).setPhase _ _
    · split
      · rename_i t hr3
        have ht : MemoriesCanonical t := ((h.beforeRead _ _ _).rmwPlace _ _ _ _).of_snd hr3
        exact (ht.afterRead _ _ _).setPhase _ _
  · exact (h.rmwPlace _ _ _ _).setPhase _ _
  · exact (h.rmwPlace _ _ _ _).setPhase _ _
  · exact (h.rmwPlace _ _ _ _).setPhase _ _
  · exact h

theorem MemoriesCanonical.settleLoc {s : State} (h : MemoriesCanonical s) (o : Op) (g : Ag) (ea : Nat) (l : Loc) :
    MemoriesCanonical (settleLoc s o g ea l) := by
  unfold Machine.settleLoc
  split
  · exact .ite (h.waitPhase _) (h.performAt _ _ _)
  · exact h.setPhase _ _
  · exact (h.startCow _).setPhase _ _
  · exact h.waitPhase _
  · exact h.failOp _ _ _

theorem MemoriesCanonical.cleanLine {s : State} (h : MemoriesCanonical s) (core mode line : Nat) :
    MemoriesCanonical (cleanLine s core mode line) := by
  unfold Machine.cleanLine
  split
  · exact h.flushLine _ _
  · exact (h.discardLine _).l1DropLine _ _
  · exact (h.flushLine _ _).l1DropLine _ _

theorem MemoriesCanonical.performClean {s : State} (h : MemoriesCanonical s) (o : Op) (g : Ag)
    (e ea len mode : Nat) : MemoriesCanonical (performClean s o g e ea len mode) := by
  unfold Machine.performClean
  split
  · exact h.setPhase _ _
  · extract_lets lo hi pages walked
    split
    · exact MemoriesCanonical.setPhase (.foldl (fun _ _ hs => (hs.noteSpread _ _).cleanLine _ _ _) _
        (.foldl (fun _ _ hs => hs.translated _ _ _ _) _ h)) _ _
    · exact h.settleLoc _ _ _ _

theorem MemoriesCanonical.setSnap {s : State} (h : MemoriesCanonical s) (v : Snap) :
    MemoriesCanonical (State.setSnap s v) :=
  h.of_eq rfl rfl

theorem MemoriesCanonical.noted {s : State} (h : MemoriesCanonical s) (e ea : Nat) (p : Place) :
    MemoriesCanonical (State.noted s e ea p) := by
  unfold Machine.State.noted
  split
  · exact h.noteUse _ _ _ _
  all_goals exact h

theorem MemoriesCanonical.performVer {s : State} (h : MemoriesCanonical s) (o : Op) (g : Ag) (e ea n p : Nat) :
    MemoriesCanonical (performVer s o g e ea n p) := by
  unfold Machine.performVer
  split
  · split
    · exact h.waitPhase _
    · split
      · rename_i t hr2
        have ht : MemoriesCanonical t := (((h.reach _ _).noted _ _ _).readPlace _ _ _).of_snd hr2
        exact (ht.policies _ _ _).setPhase _ _
  · exact h.setPhase _ _
  · exact h.setPhase _ _
  · exact h.waitPhase _
  · exact .ite (h.failWith _ _ _ _) (h.failOp _ _ _)

theorem MemoriesCanonical.readVerFrom {s : State} (h : MemoriesCanonical s) (g : Ag) (p f ea n : Nat) :
    (readVerFrom g p f s ea n).Canonical := by
  induction f generalizing s ea n with
  | zero => exact h
  | succ f ih =>
    rw [Machine.readVerFrom]
    split
    · exact h
    · split
      · exact h
      · exact h
      · exact h
      · exact h.busyGot _ _
      · split
        · rename_i t hr2
          have ht : MemoriesCanonical t := (((h.reach _ _).noted _ _ _).readPlace _ _ _).of_snd hr2
          split
          · exact ht
          · split
            · rename_i hr4
              exact ((ih ht _ _).of_eq hr4 :)
            · exact ih ht _ _

theorem MemoriesCanonical.readVer {s : State} (h : MemoriesCanonical s) (g : Ag) (ea n p : Nat) :
    (readVer s g ea n p).Canonical := by
  unfold Machine.readVer
  split
  · exact h
  · exact h.readVerFrom _ _ _ _ _

theorem MemoriesCanonical.donePeer {s : State} (h : MemoriesCanonical s) (o : Op) (v : Nat) :
    MemoriesCanonical (donePeer s o v) := by
  unfold Machine.donePeer
  extract_lets g
  split
  · exact ((h.beforeRead _ _ _).afterRead _ _ _).setPhase _ _
  · exact ((h.beforeRead _ _ _).afterRead _ _ _).setPhase _ _
  · exact h.setPhase _ _

theorem MemoriesCanonical.settlePeer {s : State} (h : MemoriesCanonical s) (o : Op) (ea n : Nat) (e : Option Nat)
    (reply : Option PeerReply) : MemoriesCanonical (settlePeer s o ea n e reply) := by
  unfold Machine.settlePeer
  extract_lets wait
  have hwait : MemoriesCanonical wait := by
    unfold wait
    split
    · exact h
    · exact h
    · exact (h.send _ _ _).setPhase _ _
  split
  · exact h.failOp _ _ _
  · split
    · exact h
    · split
      · exact h.donePeer _ _
      · exact h.failOp _ _ _
      · exact .ite (h.failOp _ _ _) hwait
      · exact hwait

theorem MemoriesCanonical.translateAccess {s : State} (h : MemoriesCanonical s) (o : Op)
    (reply : Option PeerReply) : MemoriesCanonical (translateAccess s o reply) := by
  unfold Machine.translateAccess
  extract_lets +onlyGivenNames g
  split
  · exact h
  · exact h.settlePeer _ _ _ _ _
  · split
    · exact h.settleLoc _ _ _ _
    · extract_lets +onlyGivenNames idx
      split
      · exact h.failOp _ _ _
      · split
        · split
          · exact h.setPhase _ _
          · exact h.settlePeer _ _ _ _ _
        · extract_lets +onlyGivenNames k
          split
          · exact h.performClean _ _ _ _ _ _
          · exact h.performVer _ _ _ _ _ _
          · extract_lets +onlyGivenNames die
            split
            · exact (h.noteUse _ _ _ _).settleLoc _ _ _ _
            · exact .ite (h.setPhase _ _) (.ite h ((h.setDie _ _).setPhase _ _))

theorem MemoriesCanonical.translateOp {s : State} (h : MemoriesCanonical s) (o : Op) (reply : Option PeerReply) :
    MemoriesCanonical (translateOp s o reply) := by
  unfold Machine.translateOp
  split
  · extract_lets o1
    split
    · rename_i t hr2
      have ht : MemoriesCanonical t := (h.writeEa _ _ _ _).of_eq hr2
      exact (ht.setOp _).translateAccess _ _
    · rename_i t hr2
      have ht : MemoriesCanonical t := (h.writeEa _ _ _ _).of_eq hr2
      exact (ht.setOp _).translateAccess _ _
    · rename_i t hr2
      have ht : MemoriesCanonical t := (h.writeEa _ _ _ _).of_eq hr2
      exact ht.setPhase _ _
    · rename_i hr2
      exact ((h.writeEa _ _ _ _).of_eq hr2 :)
  · exact h.translateAccess _ _

theorem MemoriesCanonical.execAccessTranslate {s : State} (h : MemoriesCanonical s) (op : Nat)
    (reply : Option PeerReply) : AnswersCanonical (execAccessTranslate op reply s) := by
  unfold Machine.execAccessTranslate
  split
  · exact (h.translateOp _ _).whenEnabled _ _
  · trivial

theorem MemoriesCanonical.replayHeld {s : State} (h : MemoriesCanonical s) (page : PageKey) :
    MemoriesCanonical (replayHeld s page) := by
  unfold Machine.replayHeld
  extract_lets ids
  refine MemoriesCanonical.foldl (fun s a hs => ?_) _ h
  split
  · exact .ite (hs.translateOp _ _) hs
  · exact hs

theorem MemoriesCanonical.shootdown {s : State} (h : MemoriesCanonical s) (page : PageKey) :
    MemoriesCanonical (shootdown s page) :=
  .foldl (fun _ _ hs => hs.setDie _ _) _ h

theorem MemoriesCanonical.settleWalk {s : State} (h : MemoriesCanonical s) (die : Nat) (page : PageKey)
    (walked : Walked) (o : Op) : MemoriesCanonical (settleWalk s die page walked o) := by
  unfold Machine.settleWalk
  extract_lets ea
  split
  · exact h.failOp _ _ _
  · split
    · exact h.waitPhase _
    · split
      · exact h.failOp _ _ _
      · refine MemoriesCanonical.settleLoc ?_ _ _ _ _
        split
        · exact .ite h (h.noteUse _ _ _ _)
        · exact h
      · exact h

theorem MemoriesCanonical.execPageWalkComplete {s : State} (h : MemoriesCanonical s) (die : Nat) (page : PageKey) :
    AnswersCanonical (execPageWalkComplete die page s) := by
  unfold Machine.execPageWalkComplete
  induction @Machine.walkFault using of_forall with | _ walkFault
  extract_lets joined d s1
  have hs1 : MemoriesCanonical s1 := h.setDie _ _
  clear_value s1
  split
  rename_i w t hr
  have ht : MemoriesCanonical t := by
    refine MemoriesCanonical.of_snd ?_ hr
    split
    · exact hs1
    · extract_lets x
      split
      · exact hs1
      · exact hs1.walkDone _ _ _ _
  refine (MemoriesCanonical.foldl (fun s id hs => ?_) _ ht).whenEnabled _ _
  split
  · exact hs.settleWalk _ _ _ _
  · exact hs

theorem MemoriesCanonical.execForwardedAtomic {s : State} (h : MemoriesCanonical s) (op : Nat) :
    AnswersCanonical (execForwardedAtomic op s) := by
  unfold Machine.execForwardedAtomic
  split
  · split
    · extract_lets +onlyGivenNames g line
      split
      · exact h.failOp _ _ _
      · extract_lets +onlyGivenNames s1 n old new owned t unit
        have hs1 : MemoriesCanonical s1 := h.beforeRead _ _ _
        have ht : MemoriesCanonical t := .ite ((((hs1.l2Write _ _ _ _).freshen _ _).l1DropLine _ _).l2Mark _ _ _)
          ((hs1.singlePoint _ _ _ _).policies _ _ _)
        exact ((ht.afterRead _ _ _).setPhase _ _).whenEnabled _ _
    · trivial
  · trivial

theorem MemoriesCanonical.execHoldLimitExpiry {s : State} (h : MemoriesCanonical s) (op : Nat) :
    AnswersCanonical (execHoldLimitExpiry op s) := by
  unfold Machine.execHoldLimitExpiry
  split
  · extract_lets ea
    split
    · refine MemoriesCanonical.whenEnabled ?_ _ _
      split
      · exact h.setOp _
      · exact h.failOp _ _ _
    · exact (h.setOp _).whenEnabled _ _
    · trivial
  · trivial

theorem MemoriesCanonical.execPeerTimeout {s : State} (h : MemoriesCanonical s) :
    AnswersCanonical (execPeerTimeout s) := by
  unfold Machine.execPeerTimeout
  split
  · split
    · extract_lets ea
      split
      · exact (h.failOp _ _ _).whenEnabled _ _
      · exact ((h.forgetAsked _ _).setOp _).whenEnabled _ _
      · trivial
    · trivial
  · trivial

theorem MemoriesCanonical.writeResult {s : State} (h : MemoriesCanonical s) (o : Op) (r : Reg) (w : Width)
    (x : Nat) : MemoriesCanonical (writeResult s o r w x) := by
  unfold Machine.writeResult
  split
  · exact h
  · exact h.setParty _ _

theorem MemoriesCanonical.execLoadComplete {s : State} (h : MemoriesCanonical s) (op : Nat) :
    AnswersCanonical (execLoadComplete op s) := by
  unfold Machine.execLoadComplete
  split
  · split
    · exact ((h.writeResult _ _ _ _).setPhase _ _).retire _
    · trivial
  · trivial

theorem MemoriesCanonical.execStoreAck {s : State} (h : MemoriesCanonical s) (op : Nat) :
    AnswersCanonical (execStoreAck op s) := by
  unfold Machine.execStoreAck
  split
  · split
    · exact (h.setPhase _ _).retire _
    · trivial
  · trivial

theorem MemoriesCanonical.execCommandRetire {s : State} (h : MemoriesCanonical s) (op : Nat) :
    AnswersCanonical (execCommandRetire op s) := by
  unfold Machine.execCommandRetire
  split
  · exact (h.retire _).whenEnabled _ _
  · trivial

end Sys2Proof.Machine
end

section
/-! The functions of Sys2Proof/Machine/Barriers.lean keep the memories canonical. -/

namespace Sys2Proof.Machine

theorem MemoriesCanonical.setBar {s : State} (h : MemoriesCanonical s) (k : Nat × Nat × Nat × Nat × Nat) (b : Bar) :
    MemoriesCanonical (setBar s k b) :=
  h.of_eq rfl rfl

theorem MemoriesCanonical.leaveBar {s : State} (h : MemoriesCanonical s) (slot scope idx phase : Nat) :
    MemoriesCanonical (leaveBar s slot scope idx phase) := by
  unfold Machine.leaveBar
  split
  · exact h
  · extract_lets waits
    exact .ite h ((h.setParty _ _).acquire _ _)

theorem MemoriesCanonical.queueMerges {s : State} (h : MemoriesCanonical s) (l : Launch)
    (k : Nat × Nat × Nat × Nat × Nat) (phase : Nat) : MemoriesCanonical (queueMerges s l k phase) := by
  unfold Machine.queueMerges
  extract_lets m
  exact h.of_eq rfl rfl

theorem MemoriesCanonical.partyBarNext {s : State} (h : MemoriesCanonical s) (slot idx : Nat) :
    MemoriesCanonical (partyBarNext s slot idx) := by
  unfold Machine.partyBarNext
  split
  · exact h
  · exact (h.setParty _ _).leaveBar _ _ _ _

theorem MemoriesCanonical.wideBarNext {s : State} (h : MemoriesCanonical s) (k : Nat × Nat × Nat × Nat × Nat) :
    MemoriesCanonical (wideBarNext s k) := by
  unfold Machine.wideBarNext
  extract_lets b scope idx s1 closing s2 slots
  have hs1 : MemoriesCanonical s1 := h.setBar _ _
  have hs2 : MemoriesCanonical s2 := by
    unfold s2
    clear_value closing
    split
    · exact hs1.queueMerges _ _ _
    · exact hs1
  refine MemoriesCanonical.foldl (fun s a hs => ?_) _ hs2
  split
  · exact hs
  · extract_lets s3
    have hs3 : MemoriesCanonical s3 := hs.setParty _ _
    exact .ite hs3 (hs3.leaveBar _ _ _ _)

theorem MemoriesCanonical.checkBar {s : State} (h : MemoriesCanonical s) (slot : Nat) (l : BarLoc) :
    MemoriesCanonical (checkBar s slot l) := by
  unfold Machine.checkBar
  split
  · split
    · exact .ite (h.partyBarNext _ _) h
    · exact h
  · exact .ite (h.wideBarNext _) h

theorem MemoriesCanonical.checkInst {s : State} (h : MemoriesCanonical s) (i : BarInst) :
    MemoriesCanonical (checkInst s i) :=
  .foldl (fun _ _ hs => hs.checkBar _ _) _ h

theorem MemoriesCanonical.leaveInst {s : State} (h : MemoriesCanonical s) (i : BarInst) (n : Nat) :
    MemoriesCanonical (leaveInst s i n) := by
  unfold Machine.leaveInst
  split
  · extract_lets s1
    have hs1 : MemoriesCanonical s1 := h.of_eq rfl rfl
    exact MemoriesCanonical.checkInst (.ite (hs1.send _ _ _) hs1) _

theorem MemoriesCanonical.joinInst {s : State} (h : MemoriesCanonical s) (i : BarInst) (n : Nat) :
    MemoriesCanonical (joinInst s i n) :=
  h.of_eq rfl rfl

theorem MemoriesCanonical.addArrival {s : State} (h : MemoriesCanonical s) (slot : Nat) (l : BarLoc) (d : Int) :
    MemoriesCanonical (addArrival s slot l d) := by
  unfold Machine.addArrival
  extract_lets up
  split
  · split
    · exact h.setParty _ _
    · exact h
  · exact h.setBar _ _

theorem MemoriesCanonical.tellPod {s : State} (h : MemoriesCanonical s) (l : BarLoc) :
    MemoriesCanonical (tellPod s l) := by
  unfold Machine.tellPod
  split
  · exact .ite (h.send _ _ _) h
  · exact h

theorem MemoriesCanonical.withdraw {s : State} (h : MemoriesCanonical s) (slot : Nat) (l : BarLoc) :
    MemoriesCanonical (withdraw s slot l) := by
  unfold Machine.withdraw
  extract_lets s1
  have hs1 : MemoriesCanonical s1 := h.addArrival _ _ _
  split
  · exact .ite (hs1.send _ _ _) hs1
  · exact hs1

theorem MemoriesCanonical.dropArrivals {s : State} (h : MemoriesCanonical s) (slot : Nat) (p : Party) (t : Thread)
    (wideOnly : Bool) : MemoriesCanonical (dropArrivals s slot p t wideOnly) := by
  unfold Machine.dropArrivals
  refine MemoriesCanonical.foldl (fun s a hs => ?_) _ h
  split
  · exact .ite hs (hs.withdraw _ _)
  · exact hs.withdraw _ _
  · exact hs

theorem MemoriesCanonical.leaveWide {s : State} (h : MemoriesCanonical s) (slot tid : Nat) :
    MemoriesCanonical (leaveWide s slot tid) := by
  unfold Machine.leaveWide
  split
  · exact h
  · extract_lets t s1 s2
    have hs1 : MemoriesCanonical s1 := h.dropArrivals _ _ _ _
    have hs2 : MemoriesCanonical s2 := by
      unfold s2
      split
      · exact hs1.setParty _ _
      · exact hs1
    exact .foldl (fun _ _ hs => hs.leaveInst _ _) _ hs2

theorem MemoriesCanonical.exitThread {s : State} (h : MemoriesCanonical s) (slot tid : Nat) :
    MemoriesCanonical (exitThread s slot tid) := by
  unfold Machine.exitThread
  split
  · exact h
  · extract_lets t s1 s2 s3
    have hs1 : MemoriesCanonical s1 := h.dropArrivals _ _ _ _
    have hs2 : MemoriesCanonical s2 := by
      unfold s2
      split
      · exact hs1.setParty _ _
      · exact hs1
    have hs3 : MemoriesCanonical s3 := .foldl (fun _ _ hs => hs.checkBar _ _) _ hs2
    exact .foldl (fun _ _ hs => hs.leaveInst _ _) _ hs3

theorem MemoriesCanonical.barOne {s : State} (h : MemoriesCanonical s) (cx : Cx) (tid : Nat) (t : Thread)
    (c idx : Nat) (d : Option Reg) : MemoriesCanonical (barOne cx s tid t c idx d).1 := by
  unfold Machine.barOne
  extract_lets +onlyGivenNames scope
  split
  · exact h
  · extract_lets +onlyGivenNames p
    split
    · split
      · exact h.acquire _ _
      · exact h
    · split
      · exact h
      · split
        · exact h
        · extract_lets +onlyGivenNames t1 s1 s2 moved t2
          have hs1 : MemoriesCanonical s1 := by
            unfold s1
            split
            · exact h.setParty _ _
            · exact h
          have hs2 : MemoriesCanonical s2 := ((hs1.addArrival _ _ _).tellPod _).checkBar _ _
          split
          · exact hs2.cxPutG _ _ _ _
          · split
            · exact hs2.acquire _ _
            · exact hs2

theorem MemoriesCanonical.execBar {s : State} (h : MemoriesCanonical s) (d a b : BitVec 8) :
    AnswersCanonical (execBar d a b s) := by
  unfold Machine.execBar
  refine MemoriesCanonical.runWord h _ (fun cx => ?_)
  refine MemoriesCanonical.each h _ (fun s1 tid v t a1 => ?_)
  split
  · exact a1.barOne _ _ _ _ _ _
  · exact a1

theorem MemoriesCanonical.execBara {s : State} (h : MemoriesCanonical s) (d a b : BitVec 8) :
    AnswersCanonical (execBara d a b s) := by
  unfold Machine.execBara
  refine MemoriesCanonical.runWord h _ (fun cx => ?_)
  refine MemoriesCanonical.each h _ (fun s1 tid v t a1 => ?_)
  split
  · exact a1.barOne _ _ _ _ _ _
  · exact a1

end Sys2Proof.Machine
end

section
/-! The functions of Sys2Proof/Machine/Crosslane.lean keep the memories canonical. -/

namespace Sys2Proof.Machine

theorem MemoriesCanonical.xlExecute {s : State} (h : MemoriesCanonical s) (slot : Nat) (pc : Pc) (ps : List Nat) :
    MemoriesCanonical (xlExecute s slot pc ps) := by
  unfold Machine.xlExecute
  split
  · exact h
  · extract_lets party opnds val flags
    exact .ite (h.mapGroup _ _) (h.mapGroup _ _)

theorem MemoriesCanonical.xlSettle {s : State} (h : MemoriesCanonical s) (slot : Nat) :
    MemoriesCanonical (xlSettle s slot) := by
  unfold Machine.xlSettle
  split
  · exact h
  · split
    · exact h
    · extract_lets s1
      have hs1 : MemoriesCanonical s1 := .foldl (fun _ _ hs => hs.xlExecute _ _ _) _ h
      split
      · exact hs1
      · extract_lets pcs live hpc dead
        exact .ite hs1 (hs1.setParty _ _)

theorem MemoriesCanonical.runXl {s : State} (h : MemoriesCanonical s) (i : Instr) : AnswersCanonical (runXl s i) :=
  h.runWord _ (fun _ => (h.mapGroup _ _).xlSettle _)

theorem MemoriesCanonical.execExit {s : State} (h : MemoriesCanonical s) (d a b : BitVec 8) :
    AnswersCanonical (execExit d a b s) :=
  h.runWord _ (fun _ => MemoriesCanonical.xlSettle (.foldl (fun _ _ hs => hs.exitThread _ _) _ (h.mapGroup _ _)) _)

end Sys2Proof.Machine
end

section
/-! The functions of Sys2Proof/Machine/Control.lean keep the memories canonical. -/

namespace Sys2Proof.Machine

theorem MemoriesCanonical.runBranch {s : State} (h : MemoriesCanonical s) (i : Instr) (onNonzero : Bool)
    (imm : BitVec 16) : AnswersCanonical (runBranch s i onNonzero imm) :=
  h.runWord _ (fun _ => h.mapGroup _ _)

theorem MemoriesCanonical.runUBranch {s : State} (h : MemoriesCanonical s) (i : Instr) (onNonzero : Bool)
    (imm : BitVec 16) : AnswersCanonical (runUBranch s i onNonzero imm) :=
  h.runWord _ (fun _ => h.mapGroup _ _)

theorem MemoriesCanonical.runJump {s : State} (h : MemoriesCanonical s) (i : Instr) :
    AnswersCanonical (runJump s i) :=
  h.runWord _ (fun _ => h.mapGroup _ _)

theorem MemoriesCanonical.runUJump {s : State} (h : MemoriesCanonical s) (i : Instr) :
    AnswersCanonical (runUJump s i) := by
  unfold Machine.runUJump
  refine MemoriesCanonical.runWord h _ (fun cx => ?_)
  extract_lets target
  split
  · exact h.trapAll _ _
  · exact h.mapGroup _ _

theorem MemoriesCanonical.completeOp {s : State} (h : MemoriesCanonical s) (id : Nat) :
    MemoriesCanonical (completeOp s id) := by
  unfold Machine.completeOp
  split
  · exact (h.setPhase _ _).retire _
  · exact h

theorem MemoriesCanonical.setSegSt {s : State} (h : MemoriesCanonical s) (core lid seg : Nat) (st : SegSt) :
    MemoriesCanonical (setSegSt s core lid seg st) :=
  h.setSeg _ _ _ _

theorem MemoriesCanonical.segApply {s : State} (h : MemoriesCanonical s) (core lid seg id : Nat) (drop : Bool) :
    MemoriesCanonical (segApply s core lid seg id drop) := by
  unfold Machine.segApply
  split
  · exact .ite (h.completeOp _) (h.setSegSt _ _ _ _)
  · exact h
  · exact .ite (h.completeOp _) (.ite (h.completeOp _) (h.setSegSt _ _ _ _))
  · exact .ite h (MemoriesCanonical.setSegSt (.foldl (fun _ _ hs => .ite (hs.completeOp _) hs) _ h) _ _ _ _)
  · exact .ite ((h.setSeg _ _ _ _).completeOp _) (h.setSegSt _ _ _ _)

theorem MemoriesCanonical.segEnd {s : State} (h : MemoriesCanonical s) (core lid seg : Nat) :
    MemoriesCanonical (segEnd s core lid seg) := by
  unfold Machine.segEnd
  extract_lets ops joined rest s1
  have hs1 : MemoriesCanonical s1 := .foldl (fun _ _ hs => hs.completeOp _) _ h
  exact .foldl (fun _ _ hs => hs.segApply _ _ _ _ _) _ hs1

theorem MemoriesCanonical.execCfetch {s : State} (h : MemoriesCanonical s) (d a b : BitVec 8) :
    AnswersCanonical (execCfetch d a b s) := by
  unfold Machine.execCfetch
  refine MemoriesCanonical.runWord h _ (fun cx => ?_)
  refine MemoriesCanonical.each h _ (fun s1 tid v t a1 => ?_)
  split
  · extract_lets +onlyGivenNames x drop fresh
    split
    · exact a1
    · split
      · exact a1
      · extract_lets +onlyGivenNames t1 s2 id s3 s4 t2
        have hs2 : MemoriesCanonical s2 := by
          unfold s2
          split
          · exact a1.setParty _ _
          · exact a1
        have hs3 : MemoriesCanonical s3 := hs2.addOp _ _ _ _ _ _ _
        have hs4 : MemoriesCanonical s4 := hs3.segApply _ _ _ _ _
        exact hs4
  · exact a1

theorem MemoriesCanonical.readBuf {s : State} (h : MemoriesCanonical s) (l : Launch) (g : Ag) (ea n : Nat) :
    (readBuf s l g ea n).Canonical := by
  unfold Machine.readBuf
  split
  · exact h
  · exact h.readEa _ _ _

theorem MemoriesCanonical.segRead {s : State} (h : MemoriesCanonical s) (core lid seg : Nat) (st : SegSt)
    (image : List (Nat × Word)) : MemoriesCanonical (segRead s core lid seg st image) :=
  (h.setSeg _ _ _ _).segEnd _ _ _

theorem MemoriesCanonical.execSegmentLanded {s : State} (h : MemoriesCanonical s) (core lid seg : Nat) :
    AnswersCanonical (execSegmentLanded core lid seg s) := by
  unfold Machine.execSegmentLanded
  have hreadBuf := @MemoriesCanonical.readBuf
  revert hreadBuf
  induction @Machine.readBuf using of_forall with | _ readBuf
  intro hreadBuf
  split
  · trivial
  · extract_lets g
    split
    · rename_i t hr1
      have ht : MemoriesCanonical t := (hreadBuf h _ _ _ _).of_eq hr1
      exact (ht.segRead _ _ _ _ _).whenEnabled _ _
    · rename_i t hr1
      have ht : MemoriesCanonical t := (hreadBuf h _ _ _ _).of_eq hr1
      exact (ht.setSeg _ _ _ _).whenEnabled _ _
    · trivial
    · trivial

theorem MemoriesCanonical.execSegmentFetchFault {s : State} (h : MemoriesCanonical s) (core lid seg : Nat) :
    AnswersCanonical (execSegmentFetchFault core lid seg s) := by
  unfold Machine.execSegmentFetchFault
  have hreadBuf := @MemoriesCanonical.readBuf
  revert hreadBuf
  induction @Machine.readBuf using of_forall with | _ readBuf
  intro hreadBuf
  split
  · trivial
  · extract_lets g
    split
    · rename_i t hr1
      have ht : MemoriesCanonical t := (hreadBuf h _ _ _ _).of_eq hr1
      exact (ht.segRead _ _ _ _ _).whenEnabled _ _
    · rename_i t hr1
      have ht : MemoriesCanonical t := (hreadBuf h _ _ _ _).of_eq hr1
      exact (ht.segRead _ _ _ _ _).whenEnabled _ _
    · trivial
    · trivial

theorem MemoriesCanonical.execSegmentDropComplete {s : State} (h : MemoriesCanonical s) (core lid seg : Nat) :
    AnswersCanonical (execSegmentDropComplete core lid seg s) :=
  MemoriesCanonical.whenEnabled (.foldl (fun _ _ hs => hs.completeOp _) _ (h.setSeg _ _ _ _)) _ _

theorem MemoriesCanonical.execWaitn {s : State} (h : MemoriesCanonical s) (d : BitVec 8) (imm : BitVec 16) :
    AnswersCanonical (execWaitn d imm s) :=
  h.runWord _ (fun _ => h.mapGroup _ _)

theorem MemoriesCanonical.evalCond {s : State} (h : MemoriesCanonical s) (g : Ag) (slot : Nat) (p : Party)
    (t : Thread) (c : Cond) : (evalCond s g slot p t c).Canonical := by
  unfold Machine.evalCond
  split
  · split
    · exact h
    · extract_lets +onlyGivenNames old
      split
      · exact h.acquire _ _
      · exact h
  · split
    · exact h
    · exact h
  · split
    all_goals exact h
  · extract_lets +onlyGivenNames n
    split
    · exact h
    · extract_lets +onlyGivenNames scope
      split
      · rename_i hr4
        exact (((h.beforeRead _ _ _).readEa _ _ _).of_eq hr4 :)
      · rename_i hr4
        exact (((h.beforeRead _ _ _).readEa _ _ _).of_eq hr4 :)
      · rename_i t1 hr4
        have ht1 : MemoriesCanonical t1 := ((h.beforeRead _ _ _).readEa _ _ _).of_eq hr4
        split
        · exact ht1
        · split
          · split
            · exact ht1
            · exact ht1
          · split
            · exact ht1
            · exact ht1
      · rename_i t1 hr4
        have ht1 : MemoriesCanonical t1 := ((h.beforeRead _ _ _).readEa _ _ _).of_eq hr4
        split
        · split
          · exact ht1
          · split
            · exact ht1.afterRead _ _ _
            · exact ht1
        · split
          · split
            · exact ht1.afterRead _ _ _
            · exact ht1
          · split
            · exact ht1.afterRead _ _ _
            · exact ht1

/-- WAITC's conditions in turn. -/
theorem MemoriesCanonical.evalConds {s : State} (h : MemoriesCanonical s) (g : Ag) (slot : Nat) (p : Party)
    (t : Thread) (all : Bool) (i : Nat) (cs : List Cond) (latched : Nat) :
    ExceptHolds (fun e => MemoriesCanonical e.2) (fun r => MemoriesCanonical r.1) (evalConds g slot p t all i s cs latched) := by
  induction cs generalizing s i latched with
  | nil => exact h
  | cons c cs ih =>
    rw [Machine.evalConds]
    split
    · split
      · rename_i hr1
        exact ((ih h _ _).of_eq hr1 :)
      · rename_i hr1
        exact ((ih h _ _).of_eq hr1 :)
    · split
      · rename_i hr1
        exact ((h.evalCond _ _ _ _ _).of_eq hr1 :)
      all_goals
        rename_i t1 hr1
        have ht1 : MemoriesCanonical t1 := (h.evalCond _ _ _ _ _).of_eq hr1
        split
        · rename_i hr2
          exact ((ih ht1 _ _).of_eq hr2 :)
        · rename_i hr2
          exact ((ih ht1 _ _).of_eq hr2 :)

theorem MemoriesCanonical.waitEnd {s : State} (h : MemoriesCanonical s) (slot : Nat) (hpc : Pc) (tid : Nat)
    (t : Thread) (d : Reg) (x : Nat) (npc : Pc) : MemoriesCanonical (waitEnd s slot hpc tid t d x npc).1 :=
  h.putG _ _ _ _ _

theorem MemoriesCanonical.waitStep {s : State} (h : MemoriesCanonical s) (slot : Nat) (hpc : Pc) (tid : Nat)
    (t : Thread) (d : Reg) (conds : List Cond) (all : Bool) (deadline : Option Nat) (latched : Nat) (npc : Pc) :
    MemoriesCanonical (waitStep s slot hpc tid t d conds all deadline latched npc).1 := by
  unfold Machine.waitStep
  split
  · exact h.waitEnd _ _ _ _ _ _ _
  · split
    · exact h.waitEnd _ _ _ _ _ _ _
    · exact h

theorem MemoriesCanonical.waitBlock {s : State} (h : MemoriesCanonical s) (slot : Nat) (hpc : Pc) (tid : Nat)
    (t : Thread) (d : Reg) (since deadline : Option Nat) (npc : Pc) :
    MemoriesCanonical (waitBlock s slot hpc tid t d since deadline npc).1 := by
  unfold Machine.waitBlock
  split
  · exact h.waitEnd _ _ _ _ _ _ _
  · exact h

theorem MemoriesCanonical.waitcOne {s : State} (h : MemoriesCanonical s) (cx : Cx) (tid : Nat) (v : View)
    (t : Thread) : MemoriesCanonical (waitcOne cx s tid v t).1 := by
  unfold Machine.waitcOne
  extract_lets +onlyGivenNames o n ea info fail
  split
  · exact h
  · split
    · exact h
    · split
      · exact h
      · split
        · exact h
        · split
          · exact h
          · extract_lets +onlyGivenNames timed now dl stay
            split
            · exact h.waitBlock _ _ _ _ _ _ _ _
            · extract_lets +onlyGivenNames g
              split
              · rename_i hr6
                exact ((h.readEa _ _ _).of_eq hr6 :)
              · rename_i t1 hr6
                have ht1 : MemoriesCanonical t1 := (h.readEa _ _ _).of_eq hr6
                exact ht1.waitBlock _ _ _ _ _ _ _ _
              · rename_i t1 hr6
                have ht1 : MemoriesCanonical t1 := (h.readEa _ _ _).of_eq hr6
                extract_lets +onlyGivenNames since peer
                split
                · split
                  · exact ht1
                  · exact ht1.waitBlock _ _ _ _ _ _ _ _
                · split
                  · exact ht1
                  · exact ht1.waitBlock _ _ _ _ _ _ _ _
              · rename_i t1 hr6
                have ht1 : MemoriesCanonical t1 := (h.readEa _ _ _).of_eq hr6
                split
                · exact ht1
                · extract_lets +onlyGivenNames conds all
                  split
                  · rename_i hr8
                    exact ((ht1.evalConds _ _ _ _ _ _ _ _).of_eq hr8 :)
                  · rename_i t2 _ _ hr8
                    have ht2 : MemoriesCanonical t2 := (ht1.evalConds _ _ _ _ _ _ _ _).of_eq hr8
                    exact ht2.waitStep _ _ _ _ _ _ _ _ _ _

theorem MemoriesCanonical.execWaitc {s : State} (h : MemoriesCanonical s) (d a b : BitVec 8) :
    AnswersCanonical (execWaitc d a b s) := by
  unfold Machine.execWaitc
  refine MemoriesCanonical.runWord h _ (fun cx => ?_)
  refine MemoriesCanonical.each h _ (fun s1 tid v t a1 => ?_)
  split
  · exact a1.waitcOne _ _ _ _
  · exact a1

theorem MemoriesCanonical.execWaitcReadReturn {s : State} (h : MemoriesCanonical s) (slot tid cond : Nat)
    (reply : Option PeerReply) : AnswersCanonical (execWaitcReadReturn slot tid cond reply s) := by
  unfold Machine.execWaitcReadReturn
  split
  · trivial
  · extract_lets +onlyGivenNames t
    split
    · split
      · trivial
      · extract_lets +onlyGivenNames s0 hpc put next u
        have hs0 : MemoriesCanonical s0 := by
          unfold s0
          split
          · exact h.of_eq rfl rfl
          · exact h
        have hu : MemoriesCanonical u := by
          unfold u
          split
          · rename_i t1 hr3
            have ht1 : MemoriesCanonical t1 := (hs0.evalCond _ _ _ _ _).of_eq hr3
            unfold put
            split
            · exact ht1.setParty _ _
            · exact ht1
          all_goals
            rename_i t1 hr3
            have ht1 : MemoriesCanonical t1 := (hs0.evalCond _ _ _ _ _).of_eq hr3
            unfold next
            extract_lets +onlyGivenNames r
            unfold put
            split
            · refine MemoriesCanonical.setParty ?_ _ _
              unfold r
              exact ht1.waitStep _ _ _ _ _ _ _ _ _ _
            · unfold r
              exact ht1.waitStep _ _ _ _ _ _ _ _ _ _
        refine MemoriesCanonical.whenEnabled ?_ _ _
        exact hu.of_eq rfl rfl
    · trivial

theorem MemoriesCanonical.execWaitcTimeout {s : State} (h : MemoriesCanonical s) (slot tid : Nat) :
    AnswersCanonical (execWaitcTimeout slot tid s) := by
  unfold Machine.execWaitcTimeout
  split
  · trivial
  · extract_lets t
    split
    · extract_lets r
      refine MemoriesCanonical.whenEnabled ?_ _ _
      split
      · refine MemoriesCanonical.setParty ?_ _ _
        unfold r
        exact h.waitEnd _ _ _ _ _ _ _
      · exact h
    · trivial

theorem MemoriesCanonical.execSrd {s : State} (h : MemoriesCanonical s) (d a b : BitVec 8) :
    AnswersCanonical (execSrd d a b s) :=
  h.runWord _ (fun _ => h.mapGroup _ _)

theorem MemoriesCanonical.execUsrd {s : State} (h : MemoriesCanonical s) (d a b : BitVec 8) :
    AnswersCanonical (execUsrd d a b s) := by
  unfold Machine.execUsrd
  refine MemoriesCanonical.runWord h _ (fun cx => ?_)
  extract_lets n tid
  split
  · exact h.trapAll _ _
  · rename_i l _
    exact .ite (h.trapAll _ _) (h.mapGroup _ _)

theorem MemoriesCanonical.execNop {s : State} (h : MemoriesCanonical s) (d a b : BitVec 8) :
    AnswersCanonical (execNop d a b s) :=
  h.runWord _ (fun _ => h.mapGroup _ _)

theorem MemoriesCanonical.execUnop {s : State} (h : MemoriesCanonical s) (d a b : BitVec 8) :
    AnswersCanonical (execUnop d a b s) :=
  h.runWord _ (fun _ => h.mapGroup _ _)

end Sys2Proof.Machine
end

section
/-! The functions of Sys2Proof/Machine/Rings.lean keep the memories canonical. -/

namespace Sys2Proof.Machine

theorem MemoriesCanonical.reserveSlot {s : State} (h : MemoriesCanonical s) (g : Ag) (ring : Nat) :
    (reserveSlot s g ring).Canonical := by
  unfold Machine.reserveSlot
  split
  · rename_i t hr
    have ht : MemoriesCanonical t := (h.readEa _ _ _).of_eq hr
    split
    · exact ht
    · exact ht.rmwEa _ _ _ _
  · exact h.readEa _ _ _

theorem MemoriesCanonical.writePieces {s : State} (h : MemoriesCanonical s) (g : Ag) (ps : List (Nat × Nat × Nat)) :
    (writePieces g ps s).Canonical := by
  induction ps generalizing s with
  | nil => exact h
  | cons p ps ih =>
    rw [Machine.writePieces]
    split
    · rename_i t hr
      have ht : MemoriesCanonical t := (h.writeEa _ _ _ _).of_eq hr
      exact ih ht
    · exact h.writeEa _ _ _ _

theorem MemoriesCanonical.writeRecord {s : State} (h : MemoriesCanonical s) (g : Ag) (ring c record : Nat) :
    (writeRecord s g ring c record).Canonical := by
  rw [show @Machine.writeRecord = delta% @Machine.writeRecord from rfl]
  beta_reduce
  have hreadEa := @MemoriesCanonical.readEa
  have hwritePieces := @MemoriesCanonical.writePieces
  revert hreadEa hwritePieces
  induction @Machine.readEa using of_forall with | _ readEa
  induction @Machine.writePieces using of_forall with | _ writePieces
  intro hreadEa hwritePieces
  split
  · rename_i t hr
    have ht : MemoriesCanonical t := (hreadEa h _ _ _).of_eq hr
    extract_lets a
    split
    · rename_i hr1
      exact ((hwritePieces ht _ _).of_eq hr1 :)
    · exact hwritePieces ht _ _
  · exact hreadEa h _ _ _

theorem MemoriesCanonical.postFrom {s : State} (h : MemoriesCanonical s) (g : Ag) (ring : Nat)
    (reserved : Option Nat) (faddr bytes tag status cause : Nat) :
    (postFrom s g ring reserved faddr bytes tag status cause).2.Canonical := by
  have hgot : Got.Canonical (match reserved with | some c => .ok c s | none => Machine.reserveSlot s g ring) := by
    split
    · exact h
    · exact h.reserveSlot _ _
  unfold Machine.postFrom
  split
  · rename_i hr
    exact MemoriesCanonical.writeRecord (hgot.of_eq hr :) _ _ _ _
  · exact hgot

theorem MemoriesCanonical.postKept {s t : State} (h : MemoriesCanonical s) (ht : MemoriesCanonical t)
    (reserved : Option Nat) : MemoriesCanonical (postKept s t reserved) :=
  .ite ht (h.keepHold _)

theorem MemoriesCanonical.ringBlock {s : State} (h : MemoriesCanonical s) (g : Ag) (r : RingAt) :
    (ringBlock s g r).Canonical := by
  cases r with
  | block ea => exact h
  | named ea => exact h.readEa _ _ _

theorem MemoriesCanonical.postReport {s : State} (h : MemoriesCanonical s) (g : Ag) (at_ : RingAt)
    (reserved : Option Nat) (faddr bytes tag status cause : Nat) :
    (postReport s g at_ reserved faddr bytes tag status cause).2.Canonical := by
  unfold Machine.postReport
  split
  · rename_i t hr
    have ht : MemoriesCanonical t := (h.ringBlock _ _).of_eq hr
    exact ht.postFrom _ _ _ _ _ _ _ _
  · exact h.ringBlock _ _

theorem MemoriesCanonical.sendReport {s : State} (h : MemoriesCanonical s) (via : Option (Nat × Nat))
    (count record : Nat) : MemoriesCanonical (sendReport s via count record) := by
  unfold Machine.sendReport
  split
  · exact h.send _ _ _
  · exact h

theorem MemoriesCanonical.postLater {s : State} (h : MemoriesCanonical s) (core ctx : Nat) (ring : RingAt)
    (reserved : Option Nat) (faddr bytes tag status cause : Nat) (via : Option (Nat × Nat)) :
    MemoriesCanonical (postLater s core ctx ring reserved faddr bytes tag status cause via) :=
  h.of_eq rfl rfl

theorem MemoriesCanonical.post {s : State} (h : MemoriesCanonical s) (core ctx : Nat) (ring : RingAt)
    (faddr bytes tag status cause : Nat) (via : Option (Nat × Nat)) :
    MemoriesCanonical (post s core ctx ring faddr bytes tag status cause via) := by
  unfold Machine.post
  split
  · exact h
  · split
    · exact h.postLater _ _ _ _ _ _ _ _ _ _
    · split
      · rename_i t hr2
        have ht : MemoriesCanonical t := (h.postReport _ _ _ _ _ _ _ _).of_pair hr2
        exact ht.sendReport _ _ _
      · rename_i t hr2
        have ht : MemoriesCanonical t := (h.postReport _ _ _ _ _ _ _ _).of_pair hr2
        exact (h.postKept ht _).postLater _ _ _ _ _ _ _ _ _ _
      · rename_i t hr2
        have ht : MemoriesCanonical t := (h.postReport _ _ _ _ _ _ _ _).of_pair hr2
        exact (h.postKept ht _).postLater _ _ _ _ _ _ _ _ _ _
      · rename_i hr2
        exact ((h.postReport _ _ _ _ _ _ _ _).of_pair hr2 :)

theorem MemoriesCanonical.postRing {s : State} (h : MemoriesCanonical s)
    (core lid k faddr bytes tag status cause : Nat) :
    MemoriesCanonical (postRing s core lid k faddr bytes tag status cause) := by
  unfold Machine.postRing
  split
  · exact h.post _ _ _ _ _ _ _ _ _
  · exact h

theorem MemoriesCanonical.reportLaunch {s : State} (h : MemoriesCanonical s) (l : Launch) (status cause : Nat) :
    MemoriesCanonical (reportLaunch s l status cause) := by
  unfold Machine.reportLaunch
  split
  · exact h.post _ _ _ _ _ _ _ _ _
  · exact h

end Sys2Proof.Machine
end

section
/-! The functions of Sys2Proof/Machine/Traps.lean keep the memories canonical. -/

namespace Sys2Proof.Machine

theorem MemoriesCanonical.execTrap {s : State} (h : MemoriesCanonical s) (d a b : BitVec 8) :
    AnswersCanonical (execTrap d a b s) :=
  h.runWord _ (fun _ => h.mapGroup _ _)

theorem MemoriesCanonical.execUtrap {s : State} (h : MemoriesCanonical s) (d a b : BitVec 8) :
    AnswersCanonical (execUtrap d a b s) :=
  h.runWord _ (fun _ => h.mapGroup _ _)

theorem MemoriesCanonical.execBkpt {s : State} (h : MemoriesCanonical s) (d a b : BitVec 8) :
    AnswersCanonical (execBkpt d a b s) :=
  h.runWord _ (fun _ => h.mapGroup _ _)

theorem MemoriesCanonical.execSwr {s : State} (h : MemoriesCanonical s) (d a b : BitVec 8) :
    AnswersCanonical (execSwr d a b s) :=
  h.runWord _ (fun _ => h.mapGroup _ _)

theorem MemoriesCanonical.execTret {s : State} (h : MemoriesCanonical s) (d a b : BitVec 8) :
    AnswersCanonical (execTret d a b s) := by
  unfold Machine.execTret
  refine MemoriesCanonical.runWord h _ (fun cx => ?_)
  extract_lets served s1
  have hs1 : MemoriesCanonical s1 := h.mapGroup _ _
  exact hs1.of_eq rfl rfl

theorem MemoriesCanonical.retireFailed {s : State} (h : MemoriesCanonical s) (slot tid : Nat) :
    MemoriesCanonical (retireFailed s slot tid) := by
  unfold Machine.retireFailed
  extract_lets ids
  exact .foldl (fun _ _ hs => hs.retire _) _ h

theorem MemoriesCanonical.execDeliverPendingCause {s : State} (h : MemoriesCanonical s) (slot tid : Nat) :
    AnswersCanonical (execDeliverPendingCause slot tid s) := by
  unfold Machine.execDeliverPendingCause
  split
  · trivial
  · exact ((h.setParty _ _).retireFailed _ _).whenEnabled _ _

theorem MemoriesCanonical.killParty {s : State} (h : MemoriesCanonical s) (slot cause faddr : Nat) :
    MemoriesCanonical (killParty s slot cause faddr) := by
  unfold Machine.killParty
  split
  · exact h
  · exact (h.setParty _ _).abandonSave _

theorem MemoriesCanonical.cancelCopies {s : State} (h : MemoriesCanonical s) (slot : Nat) (which : Op → Bool) :
    MemoriesCanonical (cancelCopies s slot which) := by
  unfold Machine.cancelCopies
  extract_lets gone s1
  have hs1 : MemoriesCanonical s1 := h.of_eq rfl rfl
  split
  · exact hs1.setParty _ _
  · exact hs1

theorem MemoriesCanonical.orphanOps {s : State} (h : MemoriesCanonical s) (slot : Nat) :
    MemoriesCanonical (orphanOps s slot) :=
  h.of_eq rfl rfl

theorem MemoriesCanonical.dropMigr {s : State} (h : MemoriesCanonical s) (slot : Nat) :
    MemoriesCanonical (dropMigr s slot) := by
  unfold Machine.dropMigr
  split
  · exact h
  · extract_lets k s1 s2
    have hs1 : MemoriesCanonical s1 := h.setSlot _ _
    have hs2 : MemoriesCanonical s2 := .ite (hs1.reportAction _ _ _ _ _) hs1
    exact hs2.setSlot _ _

theorem MemoriesCanonical.freeze {s : State} (h : MemoriesCanonical s) (slot : Nat) (p : Party) (e : Esc) :
    MemoriesCanonical (freeze s slot p e) := by
  unfold Machine.freeze
  extract_lets +onlyGivenNames s1 s2 u s3 s4
  have hs1 : MemoriesCanonical s1 := by
    unfold s1
    exact .foldl (fun _ _ hs => .ite hs (hs.leaveWide _ _)) _ h
  have hs2 : MemoriesCanonical s2 := hs1.dropMigr _
  have hs3 : MemoriesCanonical s3 := hs2.setSlot _ _
  have hs4 : MemoriesCanonical s4 := by
    unfold s4
    split
    · exact hs3.setLaunch _
    · exact hs3
  extract_lets +onlyGivenNames s5
  have hs5 : MemoriesCanonical s5 := hs4.postRing _ _ _ _ _ _ _ _
  exact hs5.of_eq rfl rfl

theorem MemoriesCanonical.execPartyFrozen {s : State} (h : MemoriesCanonical s) (slot : Nat) :
    AnswersCanonical (execPartyFrozen slot s) := by
  unfold Machine.execPartyFrozen
  split
  · trivial
  · split
    · trivial
    · exact (((h.cancelCopies _ _).freeze _ _ _).orphanOps _).whenEnabled _ _

end Sys2Proof.Machine
end

section
/-! The functions of Sys2Proof/Machine/Blocks.lean keep the memories canonical. -/

namespace Sys2Proof.Machine

theorem MemoriesCanonical.bumpGen {s : State} (h : MemoriesCanonical s) (core base : Nat) :
    MemoriesCanonical (bumpGen s core base) :=
  h.setCore_same rfl rfl

theorem MemoriesCanonical.freePortions {s : State} (h : MemoriesCanonical s) (b : Block) :
    MemoriesCanonical (freePortions s b) := by
  unfold Machine.freePortions
  refine MemoriesCanonical.foldl (fun s a hs => ?_) _ h
  split
  · extract_lets core c
    split
    · refine MemoriesCanonical.bumpGen ?_ _ _
      exact hs.setCore_same rfl rfl
    · exact hs

theorem MemoriesCanonical.dropBars {s : State} (h : MemoriesCanonical s) (gone : BarInst → Bool) :
    MemoriesCanonical (dropBars s gone) :=
  h.of_eq rfl rfl

theorem MemoriesCanonical.endBlock {s : State} (h : MemoriesCanonical s) (lid blin : Nat) :
    MemoriesCanonical (endBlock s lid blin) := by
  unfold Machine.endBlock
  split
  · extract_lets s1 merges s2 s3 s4
    have hs1 : MemoriesCanonical s1 := h.freePortions _
    have hs2 : MemoriesCanonical s2 := hs1.setBlock _
    have hs3 : MemoriesCanonical s3 := hs2.setLaunch _
    have hs4 : MemoriesCanonical s4 := hs3.dropBars _
    exact .ite (hs4.dropBars _) hs4
  · exact h

theorem MemoriesCanonical.endShadow {s : State} (h : MemoriesCanonical s) (core : Nat) (x : Shadow) (cut : Bool) :
    MemoriesCanonical (endShadow s core x cut) := by
  unfold Machine.endShadow
  extract_lets +onlyGivenNames dev u
  extract_lets +onlyGivenNames s1
  have hs1 : MemoriesCanonical s1 := h.setCore_same rfl rfl
  exact hs1.postRing _ _ _ _ _ _ _ _

theorem MemoriesCanonical.cutShadows {s : State} (h : MemoriesCanonical s) (slot : Nat) (which : Shadow → Bool) :
    MemoriesCanonical (cutShadows s slot which) := by
  unfold Machine.cutShadows
  split
  · exact h
  · exact .foldl (fun _ _ hs => hs.endShadow _ _ _) _ h

theorem MemoriesCanonical.leaveCore {s : State} (h : MemoriesCanonical s) (core lid : Nat) :
    MemoriesCanonical (leaveCore s core lid) := by
  unfold Machine.leaveCore
  extract_lets named held c
  exact .ite h (h.setCore_same rfl rfl)

theorem MemoriesCanonical.clearSlot {s : State} (h : MemoriesCanonical s) (slot : Nat) :
    MemoriesCanonical (clearSlot s slot) := by
  unfold Machine.clearSlot
  extract_lets +onlyGivenNames k s1 u s2
  have hs1 : MemoriesCanonical s1 := h.orphanOps _
  have hs2 : MemoriesCanonical s2 := hs1.setSlot _ _
  extract_lets +onlyGivenNames s3
  have hs3 : MemoriesCanonical s3 := .ite (hs2.reportEvent _ _ _ _ _ _) hs2
  split
  · exact hs3.leaveCore _ _
  · exact hs3

theorem MemoriesCanonical.freeSlot {s : State} (h : MemoriesCanonical s) (slot : Nat) :
    MemoriesCanonical (freeSlot s slot) := by
  unfold Machine.freeSlot
  split
  · exact h.clearSlot _
  · extract_lets s1 s2
    have hs1 : MemoriesCanonical s1 := h.clearSlot _
    have hs2 : MemoriesCanonical s2 := hs1.of_eq rfl rfl
    split
    · extract_lets s3
      have hs3 : MemoriesCanonical s3 := hs2.setBlock _
      exact .ite (.foldl (fun _ _ hs => hs.leaveCore _ _) _ (hs3.endBlock _ _)) hs3
    · exact hs2

theorem MemoriesCanonical.execPartySlotFree {s : State} (h : MemoriesCanonical s) (slot : Nat) :
    AnswersCanonical (execPartySlotFree slot s) := by
  unfold Machine.execPartySlotFree
  split
  · trivial
  · exact (h.freeSlot _).whenEnabled _ _

end Sys2Proof.Machine
end

section
/-! The functions of Sys2Proof/Machine/Issue.lean keep the memories canonical. -/

namespace Sys2Proof.Machine

theorem MemoriesCanonical.recordSettle (cx : Cx) (t : Thread) (ea info : Nat) {got : Got} (hgot : got.Canonical) :
    MemoriesCanonical (cx.settle t ea info got).1 := by
  unfold Cx.settle
  split
  · exact hgot
  · exact hgot
  · exact hgot
  · extract_lets since peer
    rw [apply_ite Prod.fst]
    exact .ite hgot hgot

theorem MemoriesCanonical.readRecord {s : State} (h : MemoriesCanonical s) (cx : Cx) (tids : List Nat) (tid : Nat)
    (t : Thread) (ea n : Nat) (uni : Bool) : MemoriesCanonical (Cx.readRecord cx s tids tid t ea n uni).1 := by
  unfold Machine.Cx.readRecord
  extract_lets info
  split
  · exact h
  · exact MemoriesCanonical.recordSettle _ _ _ _ (h.readEa _ _ _)

theorem MemoriesCanonical.holdGroup {s : State} (h : MemoriesCanonical s) (cx : Cx) (t : Thread) :
    MemoriesCanonical (Cx.holdGroup cx s t) :=
  h.mapGroup _ _

theorem MemoriesCanonical.engineOp {s : State} (h : MemoriesCanonical s) (cx : Cx) (tids : List Nat) (cls : Cls)
    (k : OpKind) : MemoriesCanonical (Cx.engineOp cx s tids cls k) := by
  unfold Machine.Cx.engineOp
  extract_lets t
  have ht : MemoriesCanonical t := h.addOp _ _ _ _ _ _ _
  exact ht.of_eq rfl rfl

theorem MemoriesCanonical.engineEach {s : State} (h : MemoriesCanonical s) (cx : Cx) (cls : Cls)
    {f : Cx → State → Nat → View → Thread → Opnds → State × EngRes}
    (hf : ∀ cx s tid v t o, MemoriesCanonical s → MemoriesCanonical (f cx s tid v t o).1) :
    MemoriesCanonical (cx.engineEach s cls f) := by
  unfold Cx.engineEach
  refine MemoriesCanonical.each h _ (fun s1 tid v t a => ?_)
  split
  · split
    · rename_i hr1
      exact ((hf _ _ _ _ _ _ a).of_fst hr1 :)
    · rename_i hr1
      exact ((hf _ _ _ _ _ _ a).of_fst hr1 :)
    · rename_i t1 _ hr1
      have ht1 : MemoriesCanonical t1 := (hf _ _ _ _ _ _ a).of_fst hr1
      exact ht1.engineOp _ _ _ _
  · exact a

theorem MemoriesCanonical.runEngine {s : State} (h : MemoriesCanonical s) (i : Instr) (cls : Cls)
    {f : Cx → State → Nat → View → Thread → Opnds → State × EngRes}
    (hf : ∀ cx s tid v t o, MemoriesCanonical s → MemoriesCanonical (f cx s tid v t o).1) :
    AnswersCanonical (runEngine s i cls f) :=
  h.runWord _ (fun _ => h.engineEach _ _ (fun _ _ _ _ _ _ a => hf _ _ _ _ _ _ a))

theorem MemoriesCanonical.record {s : State} (h : MemoriesCanonical s) (cx : Cx) (tid : Nat) (t : Thread)
    (ea n align : Nat) : MemoriesCanonical (Cx.record cx s tid t ea n align).1 := by
  unfold Machine.Cx.record
  split
  · exact h
  · exact h.readRecord _ _ _ _ _ _ _

theorem MemoriesCanonical.engRead {s : State} (h : MemoriesCanonical s) (l : Launch) (g : Ag) (ea n : Nat) :
    (engRead s l g ea n).Canonical := by
  unfold Machine.engRead
  split
  · exact h
  · exact h.readEa _ _ _

theorem MemoriesCanonical.engWrite {s : State} (h : MemoriesCanonical s) (l : Launch) (g : Ag) (ea n x : Nat) :
    (engWrite s l g ea n x).Canonical := by
  unfold Machine.engWrite
  split
  · exact h
  · exact h.writeEa _ _ _ _

theorem MemoriesCanonical.noteHold {s : State} (h : MemoriesCanonical s) (id ea i : Nat) :
    MemoriesCanonical (noteHold s id ea i) := by
  unfold Machine.noteHold
  split
  · exact h
  · extract_lets wr
    exact .ite (h.setOp _) (h.setOp _)

theorem MemoriesCanonical.elemFail {s : State} (h : MemoriesCanonical s) (o : Op) (cause addr info : Nat) :
    MemoriesCanonical (elemFail s o cause addr info) :=
  h.failWith _ _ _ _

end Sys2Proof.Machine
end

section
/-! The functions of Sys2Proof/Machine/Layout.lean keep the memories canonical. -/

namespace Sys2Proof.Machine

theorem MemoriesCanonical.readPieces {s : State} (h : MemoriesCanonical s) (l : Launch) (g : Ag)
    (ps : List (Nat × Nat × Nat)) :
    ExceptHolds Got.Canonical (fun r => MemoriesCanonical r.2) (readPieces l g ps s) := by
  induction ps generalizing s with
  | nil => exact h
  | cons p ps ih =>
    obtain ⟨u, ea, n⟩ := p
    rw [Machine.readPieces]
    split
    · rename_i t hr
      have ht : MemoriesCanonical t := (h.engRead _ _ _ _).of_eq hr
      split
      · rename_i hr1
        exact ((ih ht).of_eq hr1 :)
      · rename_i e hr1
        have he : e.Canonical := (ih ht).of_eq hr1
        exact he
    · exact h.engRead _ _ _ _

theorem MemoriesCanonical.boxLoad {s : State} (h : MemoriesCanonical s) (b : Box) (l : Launch) (g : Ag)
    (n q : Nat) : (b.load l g n q s).Canonical := by
  induction n generalizing s q with
  | zero => exact h
  | succ n ih =>
    rw [Box.load]
    split
    · split
      · rename_i t hr1
        have ht : MemoriesCanonical t := (h.readPieces _ _ _).of_eq hr1
        beta_reduce
        split
        · rename_i hr2
          exact ((ih ht _).of_eq hr2 :)
        · exact ih ht _
      all_goals
        rename_i hr1
        exact ((h.readPieces _ _ _).of_eq hr1 :)
    · split
      · exact h
      · beta_reduce
        split
        · rename_i hr2
          exact ((ih h _).of_eq hr2 :)
        · exact ih h _

theorem MemoriesCanonical.execLrld {s : State} (h : MemoriesCanonical s) (d a b : BitVec 8) :
    AnswersCanonical (execLrld d a b s) := by
  unfold Machine.execLrld
  refine MemoriesCanonical.runEngine h _ _ (fun cx s1 tid v t o a1 => ?_)
  extract_lets l
  split
  · exact a1
  · split
    · exact a1
    · exact a1

theorem MemoriesCanonical.execLrldReadDone {s : State} (h : MemoriesCanonical s) (op : Nat) :
    AnswersCanonical (execLrldReadDone op s) := by
  unfold Machine.execLrldReadDone
  split
  · trivial
  · split
    · split
      · exact (h.elemFail _ _ _ _).retire _
      · refine MemoriesCanonical.whenEnabled ?_ _ _
        split
        · exact (h.keepHold _).noteHold _ _ _
        · exact h
        · rename_i t hr4
          have ht : MemoriesCanonical t := (h.readEa _ _ _).of_eq hr4
          exact (ht.elemFail _ _ _ _).retire _
        · rename_i t hr4
          have ht : MemoriesCanonical t := (h.readEa _ _ _).of_eq hr4
          exact .ite ((ht.setLaunch _).completeOp _) ((ht.elemFail _ _ _ _).retire _)
      · trivial
    · trivial

end Sys2Proof.Machine
end

section
/-! The functions of Sys2Proof/Machine/Copies.lean keep the memories canonical. -/

namespace Sys2Proof.Machine

theorem MemoriesCanonical.runCopy {s : State} (h : MemoriesCanonical s) (i : Instr) (opc : Nat) :
    AnswersCanonical (runCopy s i opc) := by
  unfold Machine.runCopy
  have hrecord := @MemoriesCanonical.record
  revert hrecord
  induction @Machine.Cx.record using of_forall with | _ record
  intro hrecord
  refine MemoriesCanonical.runEngine h _ _ (fun cx s1 tid v t o a => ?_)
  extract_lets l
  split
  · rename_i hr
    exact ((hrecord a _ _ _ _ _ _).of_fst hr :)
  · rename_i hr
    exact ((hrecord a _ _ _ _ _ _).of_fst hr :)
  · rename_i t1 _ hr
    have ht1 : MemoriesCanonical t1 := (hrecord a _ _ _ _ _ _).of_fst hr
    split
    · exact ht1
    · split
      · exact ht1
      · split
        · exact ht1
        · exact ht1.setParty _ _

theorem MemoriesCanonical.cpLoad {s : State} (h : MemoriesCanonical s) (o : Op) (l : Launch) (opc d lay : Nat)
    (ts : List Target) : (cpLoad s o l opc d lay ts).Canonical := by
  unfold Machine.cpLoad
  extract_lets b
  split
  · rename_i hr
    exact ((h.boxLoad _ _ _ _ _).of_eq hr :)
  · rename_i hr
    exact ((h.boxLoad _ _ _ _ _).of_eq hr :)
  · trivial
  · rename_i hr
    exact ((h.boxLoad _ _ _ _ _).of_eq hr :)
  · rename_i hr
    exact ((h.boxLoad _ _ _ _ _).of_eq hr :)

theorem MemoriesCanonical.gatherPieces {s : State} (h : MemoriesCanonical s) (g : Ag) (src : Nat)
    (us : List (List (Nat × Nat × Nat))) : ExceptHolds CpStart.Canonical (fun _ => True) (gatherPieces s g src us) := by
  unfold Machine.gatherPieces
  refine ExceptHolds.mapM (fun u => ExceptHolds.mapM (fun ⟨x, ea, n⟩ => ?_) u) us
  have hr := h.readEa g (eaAdd src (x : Nat)) n
  dsimp only
  split
  · trivial
  · exact h
  · rename_i e
    exact (hr.of_eq e :)
  · trivial

theorem MemoriesCanonical.cpGather {s : State} (h : MemoriesCanonical s) (o : Op) (l : Launch) (d lay : Nat) :
    (cpGather s o l d lay).Canonical := by
  unfold Machine.cpGather
  extract_lets b src qs
  split
  · exact h
  · rename_i r hr
    have hr : r.Canonical := (h.gatherPieces _ _ _).of_eq hr
    exact hr

theorem MemoriesCanonical.cpLine {s : State} (h : MemoriesCanonical s) (o : Op) (l : Launch) (opc d : Nat)
    (ts : List Target) : (cpLine s o l opc d ts).Canonical := by
  unfold Machine.cpLine
  extract_lets n
  have hgot : Got.Canonical (if n = 0 then .ok 0 s else Machine.engRead s l (opAg s o) (cpSrc d) n) := by
    split
    · exact h
    · exact h.engRead _ _ _ _
  split
  · rename_i hr
    exact (hgot.of_eq hr :)
  · trivial
  · rename_i hr
    exact (hgot.of_eq hr :)
  · rename_i hr
    split
    · exact (hgot.of_eq hr :)
    · exact (hgot.of_eq hr :)

theorem MemoriesCanonical.cpStart {s : State} (h : MemoriesCanonical s) (o : Op) (l : Launch) (opc d lay : Nat)
    (ts : List Target) : (cpStart s o l opc d lay ts).Canonical := by
  unfold Machine.cpStart
  split
  · exact h.cpLine _ _ _ _ _
  · split
    · exact h.cpGather _ _ _ _
    · exact h.cpLoad _ _ _ _ _ _

theorem MemoriesCanonical.execCopyStart {s : State} (h : MemoriesCanonical s) (op : Nat) :
    AnswersCanonical (execCopyStart op s) := by
  unfold Machine.execCopyStart
  split
  · trivial
  · split
    · extract_lets go
      split
      · rename_i t hr3
        have ht : MemoriesCanonical t := (h.cpStart _ _ _ _ _ _).of_eq hr3
        exact (ht.setOp _).whenEnabled _ _
      · exact ((h.keepHold _).noteHold _ _ _).whenEnabled _ _
      · trivial
      · rename_i t hr3
        have ht : MemoriesCanonical t := (h.cpStart _ _ _ _ _ _).of_eq hr3
        exact (ht.setOp _).whenEnabled _ _
    · trivial

theorem MemoriesCanonical.lateWrite {s : State} (h : MemoriesCanonical s) (core : Nat) :
    MemoriesCanonical (lateWrite s core) :=
  h.setCore_same rfl rfl

theorem MemoriesCanonical.writeParts {s : State} (h : MemoriesCanonical s) (l : Launch) (g : Ag) (core : Option Nat)
    (ps : List (Nat × Nat × Nat)) : (writeParts l g core ps s).Canonical := by
  induction ps generalizing s with
  | nil => exact h
  | cons p ps ih =>
    obtain ⟨a, n, x⟩ := p
    cases core with
    | some c => exact ih (h.scrWrite c a n x)
    | none =>
      rw [Machine.writeParts]
      split
      · rename_i t hr
        have ht : MemoriesCanonical t := (h.engWrite _ _ _ _ _).of_eq hr
        exact ih ht
      · exact h.engWrite _ _ _ _ _

theorem MemoriesCanonical.writeUnits {s : State} (h : MemoriesCanonical s) (l : Launch) (g : Ag)
    (ps : List Packet) : (writeUnits l g ps s).2.2.Canonical := by
  induction ps generalizing s with
  | nil => exact h
  | cons p ps ih =>
    rw [Machine.writeUnits]
    split
    · extract_lets r
      exact ih h
    · split
      · rename_i t hr1
        have ht : MemoriesCanonical t := (h.writeParts _ _ _ _).of_eq hr1
        extract_lets r
        exact ih ht
      · exact h.keepHold _
      · exact h
      · exact h

theorem MemoriesCanonical.execCopyWritePacket {s : State} (h : MemoriesCanonical s) (op packet : Nat) :
    AnswersCanonical (execCopyWritePacket op packet s) := by
  unfold Machine.execCopyWritePacket
  split
  · trivial
  · split
    · extract_lets go
      split
      · exact ((h.lateWrite _).setOp _).whenEnabled _ _
      · split
        · rename_i t hr5
          have ht : MemoriesCanonical t := (h.writeParts _ _ _ _).of_eq hr5
          exact (ht.setOp _).whenEnabled _ _
        · exact ((h.keepHold _).noteHold _ _ _).whenEnabled _ _
        · trivial
        · exact (h.setOp _).whenEnabled _ _
    · trivial

theorem MemoriesCanonical.signalTargets {s : State} (h : MemoriesCanonical s) (w : Work) (off : Nat)
    (ts : List (Nat × Target)) : MemoriesCanonical (signalTargets s w off ts).1 := by
  unfold Machine.signalTargets
  refine List.foldlRecOn (motive := fun (r : State × List Nat) => MemoriesCanonical r.1) ts _ h fun ⟨u, gone⟩ hr ⟨i, t⟩ _ => ?_
  dsimp only
  split
  · exact hr
  · split
    · exact hr
    · exact hr.scrWrite _ _ _ _

theorem MemoriesCanonical.signalOne {s : State} (h : MemoriesCanonical s) (l : Launch) (g : Ag) (tb : Bool)
    (sig n : Nat) : (signalOne s l g tb sig n).Canonical := by
  unfold Machine.signalOne
  split
  · exact h
  · split
    · exact h
    · exact h.rmwEa _ _ _ _

theorem MemoriesCanonical.toPost {s : State} (h : MemoriesCanonical s) (o : Op) (ring status cause faddr : Nat) :
    MemoriesCanonical (toPost s o ring status cause faddr) := by
  unfold Machine.toPost
  split
  · split
    · exact (h.elemFail _ _ _ _).retire _
    · exact (h.setPhase _ _).retire _
  · exact h.setPhase _ _

theorem MemoriesCanonical.cpSignal {s : State} (h : MemoriesCanonical s) (o : Op) (l : Launch) (opc d : Nat)
    (ts : List Target) : (cpSignal s o l opc d ts).2.Canonical := by
  unfold Machine.cpSignal
  split
  · split
    · rename_i hr1
      exact ((h.signalTargets _ _ _).of_fst hr1 :)
  · exact h.signalOne _ _ _ _ _

theorem MemoriesCanonical.execCopyDone {s : State} (h : MemoriesCanonical s) (op : Nat) :
    AnswersCanonical (execCopyDone op s) := by
  unfold Machine.execCopyDone
  split
  · trivial
  · split
    · extract_lets go
      split
      · rename_i t hr3
        have ht : MemoriesCanonical t := (h.cpSignal _ _ _ _ _).of_pair hr3
        exact ((ht.setOp _).toPost _ _ _ _ _).whenEnabled _ _
      · exact ((h.keepHold _).noteHold _ _ _).whenEnabled _ _
      · trivial
      · rename_i t hr3
        have ht : MemoriesCanonical t := (h.cpSignal _ _ _ _ _).of_pair hr3
        exact (ht.setOp _).whenEnabled _ _
    · trivial

theorem MemoriesCanonical.execCopyFault {s : State} (h : MemoriesCanonical s) (op : Nat) :
    AnswersCanonical (execCopyFault op s) := by
  unfold Machine.execCopyFault
  split
  · trivial
  · split
    · exact ((h.setOp _).toPost _ _ _ _ _).whenEnabled _ _
    · trivial

end Sys2Proof.Machine
end

section
/-! The functions of Sys2Proof/Machine/Tile.lean keep the memories canonical. -/

namespace Sys2Proof.Machine

theorem MemoriesCanonical.runTile {s : State} (h : MemoriesCanonical s) (i : Instr) (opc : Nat) :
    AnswersCanonical (runTile s i opc) := by
  unfold Machine.runTile
  have hrecord := @MemoriesCanonical.record
  revert hrecord
  induction @Machine.Cx.record using of_forall with | _ record
  intro hrecord
  refine MemoriesCanonical.runEngine h _ _ (fun cx s1 tid v t o a => ?_)
  extract_lets ea
  split
  · rename_i hr
    exact ((hrecord a _ _ _ _ _ _).of_fst hr :)
  · rename_i hr
    exact ((hrecord a _ _ _ _ _ _).of_fst hr :)
  · rename_i t1 _ hr
    have ht1 : MemoriesCanonical t1 := (hrecord a _ _ _ _ _ _).of_fst hr
    split
    · exact ht1
    · exact ht1

theorem MemoriesCanonical.execPlane {s : State} (h : MemoriesCanonical s) (d a b : BitVec 8) :
    AnswersCanonical (execPlane d a b s) := by
  unfold Machine.execPlane
  refine MemoriesCanonical.runWord h _ (fun cx => ?_)
  extract_lets o tid
  split
  · exact h.trapAll _ _
  · split
    · rename_i t _ hr1
      have ht : MemoriesCanonical t := (h.readRecord _ _ _ _ _ _ _).of_fst hr1
      exact ht.trapAll _ _
    · rename_i t _ hr1
      have ht : MemoriesCanonical t := (h.readRecord _ _ _ _ _ _ _).of_fst hr1
      exact ht.holdGroup _ _
    · rename_i t _ hr1
      have ht : MemoriesCanonical t := (h.readRecord _ _ _ _ _ _ _).of_fst hr1
      split
      · exact ht.trapAll _ _
      · exact (ht.engineOp _ _ _ _).mapGroup _ _

theorem MemoriesCanonical.execTileAccept {s : State} (h : MemoriesCanonical s) (op : Nat) :
    AnswersCanonical (execTileAccept op s) := by
  unfold Machine.execTileAccept
  split
  · trivial
  · split
    · extract_lets core c t
      split
      · extract_lets c'
        refine MemoriesCanonical.whenEnabled ?_ _ _
        refine MemoriesCanonical.setOp ?_ _
        exact h.setCore_same rfl rfl
    · trivial

theorem MemoriesCanonical.leaveTile {s : State} (h : MemoriesCanonical s) (core op : Nat) :
    MemoriesCanonical (leaveTile s core op) := by
  unfold Machine.leaveTile
  extract_lets c
  exact .ite (h.setCore_same rfl rfl) h

theorem MemoriesCanonical.runMul {s : State} (h : MemoriesCanonical s) (o : Op) (l : Launch) (opc b ovr : Nat) :
    MemoriesCanonical (runMul s o l opc b ovr) := by
  unfold Machine.runMul
  extract_lets +onlyGivenNames core
  split
  · exact h
  · extract_lets +onlyGivenNames es size n devs s1 p
    have hs1 : MemoriesCanonical s1 := h.accWrite _ _ _ _
    extract_lets +onlyGivenNames u
    extract_lets +onlyGivenNames s11
    have hs11 : MemoriesCanonical s11 := by
      unfold s11
      exact .ite hs1 (hs1.setCore_same rfl rfl)
    exact hs11.setOp _

theorem MemoriesCanonical.finishMul {s : State} (h : MemoriesCanonical s) (o : Op) (b : Nat) :
    MemoriesCanonical (finishMul s o b) := by
  unfold Machine.finishMul
  extract_lets core
  exact .ite h ((h.accWrite _ _ _ _).leaveTile _ _)

theorem MemoriesCanonical.writeScratch {s : State} (h : MemoriesCanonical s) (l : Launch) (g : Ag)
    (ps : List (Nat × Nat × Nat)) : MemoriesCanonical (writeScratch s l g ps) := by
  unfold Machine.writeScratch
  split
  · rename_i hr
    exact ((h.writeParts _ _ _ _).of_eq hr :)
  all_goals exact h

theorem MemoriesCanonical.runDrain {s : State} (h : MemoriesCanonical s) (o : Op) (l : Launch) (b : Nat) :
    MemoriesCanonical (runDrain s o l b) := by
  unfold Machine.runDrain
  extract_lets core size n raws units s1 here s11
  have hs1 : MemoriesCanonical s1 := .ite (h.accWrite _ _ _ _) h
  have hs11 : MemoriesCanonical s11 := .ite (hs1.writeScratch _ _ _) hs1
  exact (hs11.leaveTile _ _).setOp _

theorem MemoriesCanonical.execTileStart {s : State} (h : MemoriesCanonical s) (op : Nat) :
    AnswersCanonical (execTileStart op s) := by
  unfold Machine.execTileStart
  split
  · trivial
  · split
    · refine MemoriesCanonical.whenEnabled ?_ _ _
      split
      · exact h.setOp _
      · exact .ite (h.runDrain _ _ _) (h.runMul _ _ _ _ _)
    · trivial

theorem MemoriesCanonical.tileMerge {s : State} (h : MemoriesCanonical s) (g : Ag) (l : Launch) (o : Op)
    (opc b : Nat) : (tileMerge s g l o opc b).Canonical := by
  unfold Machine.tileMerge
  split
  · exact h
  · split
    · exact h
    · exact h.rmwEa _ _ _ _

theorem MemoriesCanonical.tileEnd {s : State} (h : MemoriesCanonical s) (o : Op) (l : Launch) (opc b : Nat) :
    (tileEnd s o l opc b).2.2.Canonical := by
  unfold Machine.tileEnd
  extract_lets g
  split
  rename_i hr
  have hgot := (h.writeUnits _ _ _).of_triple hr
  clear hr
  extract_lets o1
  split
  · rename_i t
    have hmerge := MemoriesCanonical.tileMerge (s := t) hgot g l o1 opc b
    split
    · rename_i t1 hr
      exact MemoriesCanonical.signalOne (s := t1) (hmerge.of_eq hr) _ _ _ _ _
    · exact hmerge
  · exact hgot

theorem MemoriesCanonical.cutShadow {s : State} (h : MemoriesCanonical s) (o : Op) :
    MemoriesCanonical (cutShadow s o) :=
  .ite (h.cutShadows _ _) h

theorem MemoriesCanonical.execTileRunDone {s : State} (h : MemoriesCanonical s) (op : Nat) :
    AnswersCanonical (execTileRunDone op s) := by
  unfold Machine.execTileRunDone
  split
  · trivial
  · rename_i p _
    split
    · rename_i opc b _ _ l _ _
      extract_lets go w
      split
      rename_i t o hr
      have ht : MemoriesCanonical t := by
        refine MemoriesCanonical.of_fst ?_ hr
        split
        · exact h
        · exact (h.finishMul _ _).setOp _
      have hend := ht.tileEnd o l opc b
      split
      · rename_i hr
        have hu := hend.of_triple hr
        exact ((((hu : MemoriesCanonical _).setOp _).cutShadow _).toPost _ _ _ _ _).whenEnabled _ _
      · rename_i hr
        have hu := hend.of_triple hr
        exact (((hu : MemoriesCanonical _).setOp _).noteHold _ _ _).whenEnabled _ _
      · rename_i hr
        have hu := hend.of_triple hr
        exact ((hu : MemoriesCanonical _).setOp _).whenEnabled _ _
      · rename_i hr
        have hu := hend.of_triple hr
        exact ((hu : MemoriesCanonical _).setOp _).whenEnabled _ _
    · trivial

theorem MemoriesCanonical.execTileFault {s : State} (h : MemoriesCanonical s) (op : Nat) :
    AnswersCanonical (execTileFault op s) := by
  unfold Machine.execTileFault
  split
  · trivial
  · split
    · exact ((((h.leaveTile _ _).setOp _).cutShadow _).toPost _ _ _ _ _).whenEnabled _ _
    · trivial

theorem MemoriesCanonical.execShadowReferenceDone {s : State} (h : MemoriesCanonical s) (op : Nat) :
    AnswersCanonical (execShadowReferenceDone op s) := by
  unfold Machine.execShadowReferenceDone
  split
  · exact h.endShadow _ _ _
  · trivial

end Sys2Proof.Machine
end

section
/-! The functions of Sys2Proof/Machine/Bank.lean keep the memories canonical. -/

namespace Sys2Proof.Machine

theorem MemoriesCanonical.execBkq {s : State} (h : MemoriesCanonical s) (d a b : BitVec 8) :
    AnswersCanonical (execBkq d a b s) := by
  unfold Machine.execBkq
  have hrecord := @MemoriesCanonical.record
  revert hrecord
  induction @Machine.Cx.record using of_forall with | _ record
  intro hrecord
  refine MemoriesCanonical.runEngine h _ _ (fun cx s1 tid v t o a1 => ?_)
  extract_lets ea
  split
  · rename_i hr
    exact ((hrecord a1 _ _ _ _ _ _).of_fst hr :)
  · rename_i hr
    exact ((hrecord a1 _ _ _ _ _ _).of_fst hr :)
  · rename_i t1 _ hr
    have ht1 : MemoriesCanonical t1 := (hrecord a1 _ _ _ _ _ _).of_fst hr
    split
    · exact ht1
    · split
      · rename_i hr2
        exact ((hrecord ht1 _ _ _ _ _ _).of_fst hr2 :)
      · rename_i hr2
        exact ((hrecord ht1 _ _ _ _ _ _).of_fst hr2 :)
      · rename_i t2 _ hr2
        have ht2 : MemoriesCanonical t2 := (hrecord ht1 _ _ _ _ _ _).of_fst hr2
        extract_lets blk
        split
        · exact ht2
        · split
          · exact ht2
          · exact ht2

theorem MemoriesCanonical.execBankBlockArrive {s : State} (h : MemoriesCanonical s) (op : Nat) :
    AnswersCanonical (execBankBlockArrive op s) := by
  unfold Machine.execBankBlockArrive
  split
  · trivial
  · split
    · split
      · extract_lets +onlyGivenNames u t
        have ht : MemoriesCanonical t := h.setOp _
        extract_lets +onlyGivenNames p1
        exact MemoriesCanonical.whenEnabled (.ite ((h.elemFail _ _ _ _).retire _) (ht.setPort _ _)) _ _
      · exact ((h.elemFail _ _ _ _).retire _).whenEnabled _ _
    · trivial

theorem MemoriesCanonical.clearBanks {s : State} (h : MemoriesCanonical s) (stack pc : Nat) :
    MemoriesCanonical (clearBanks s stack pc) :=
  .foldl (fun _ _ hs => hs.setBank _ _) _ h

theorem MemoriesCanonical.execBankBlockStart {s : State} (h : MemoriesCanonical s) (op : Nat) :
    AnswersCanonical (execBankBlockStart op s) := by
  unfold Machine.execBankBlockStart
  split
  · trivial
  · exact MemoriesCanonical.whenEnabled (MemoriesCanonical.setPhase (MemoriesCanonical.setPort (.ite h (h.clearBanks _ _)) _ _) _ _) _ _

theorem MemoriesCanonical.openRow {s : State} (h : MemoriesCanonical s) (stack pc bank row : Nat) :
    MemoriesCanonical (openRow s stack pc bank row) :=
  h.setBank _ _

theorem MemoriesCanonical.activate {s : State} (h : MemoriesCanonical s) (stack pc bank row : Nat) :
    MemoriesCanonical (activate s stack pc bank row) := by
  unfold Machine.activate
  extract_lets k
  exact .ite h (.ite ((h.setStack _ _).openRow _ _ _ _) (h.setStack _ _))

theorem MemoriesCanonical.execActivateAdmit {s : State} (h : MemoriesCanonical s) (stack : Nat) :
    AnswersCanonical (execActivateAdmit stack s) := by
  unfold Machine.execActivateAdmit
  extract_lets k now
  split
  · trivial
  · exact ((h.setStack _ _).openRow _ _ _ _).whenEnabled _ _

theorem MemoriesCanonical.setAllBank {s : State} (h : MemoriesCanonical s) (k : Nat × Nat) (on : Bool) :
    MemoriesCanonical (setAllBank s k on) :=
  h.setPort _ _

theorem MemoriesCanonical.flushQueues {s : State} (h : MemoriesCanonical s) (k : Nat × Nat) :
    MemoriesCanonical (flushQueues s k) :=
  .foldl (fun _ _ hs => .ite hs (hs.setBank _ _)) _ h

theorem MemoriesCanonical.leavePort {s : State} (h : MemoriesCanonical s) (o : Op) :
    MemoriesCanonical (leavePort s o) :=
  (h.flushQueues _).setPort _ _

theorem MemoriesCanonical.execBkMode {s : State} (h : MemoriesCanonical s) (op : Nat) :
    AnswersCanonical (execBkMode op s) := by
  unfold Machine.execBkMode
  split
  · trivial
  · exact .ite ((h.setAllBank _ _).setOp _) (.ite ((h.setAllBank _ _).setOp _) (h.setOp _))

theorem MemoriesCanonical.execAllBankAdmit {s : State} (h : MemoriesCanonical s) (op : Nat) :
    AnswersCanonical (execAllBankAdmit op s) := by
  unfold Machine.execAllBankAdmit
  split
  · trivial
  · exact ((h.setAllBank _ _).setOp _).whenEnabled _ _

theorem MemoriesCanonical.colWrite {s : State} (h : MemoriesCanonical s) (e stack pc bank c x : Nat) :
    MemoriesCanonical (colWrite s e stack pc bank c x) :=
  MemoriesCanonical.of_eq (h.withDram (Memory.wf_write h.1 (colAddr e stack pc bank c) 32 x)) rfl rfl

theorem MemoriesCanonical.deliverCmd {s : State} (h : MemoriesCanonical s) (k : Nat × Nat × Nat) (c : Nat) :
    MemoriesCanonical (deliverCmd s k c) :=
  h.setBank _ _

theorem MemoriesCanonical.popCmd {s : State} (h : MemoriesCanonical s) (k : Nat × Nat × Nat) :
    MemoriesCanonical (popCmd s k) :=
  h.setBank _ _

theorem MemoriesCanonical.deliverNext {s : State} (h : MemoriesCanonical s) (o : Op) (stack pc c : Nat)
    (banks : List Nat) : MemoriesCanonical (deliverNext s o stack pc c banks) :=
  .ite h (MemoriesCanonical.setOp (.foldl (fun _ _ hs => hs.deliverCmd _ _) _ h) _)

theorem MemoriesCanonical.runColumn {s : State} (h : MemoriesCanonical s) (name : String) (op code : Nat)
    {act : State → (e stack pc bank c : Nat) → State}
    (ha : ∀ s e stack pc bank c, MemoriesCanonical s → MemoriesCanonical (act s e stack pc bank c)) :
    AnswersCanonical (runColumn name op code s act) := by
  unfold Machine.runColumn
  split
  · trivial
  · split
    · split
      · exact ((h.leavePort _).elemFail _ _ _ _).retire _
      · extract_lets +onlyGivenNames s1 waits banks
        have hs1 : MemoriesCanonical s1 := h.deliverNext _ _ _ _ _
        split
        · exact ((hs1.leavePort _).elemFail _ _ _ _).retire _
        · extract_lets +onlyGivenNames t ready t1
          have ht : MemoriesCanonical t := .foldl (fun _ _ hs => hs.activate _ _ _ _) _ hs1
          have ht1 : MemoriesCanonical t1 := .foldl (fun _ _ hs => (ha _ _ _ _ _ _ hs).popCmd _) _ ht
          exact .ite ht1 (ht1.setOp _)

theorem MemoriesCanonical.setBv {s : State} (h : MemoriesCanonical s) (k : Nat × Nat × Nat) (opr v : Nat) :
    MemoriesCanonical (setBv s k opr v) :=
  h.setBank _ _

theorem MemoriesCanonical.setBa {s : State} (h : MemoriesCanonical s) (k : Nat × Nat × Nat) (i x : Nat) :
    MemoriesCanonical (setBa s k i x) :=
  h.setBank _ _

theorem MemoriesCanonical.execBkBcast {s : State} (h : MemoriesCanonical s) (op : Nat) :
    AnswersCanonical (execBkBcast op s) :=
  h.runColumn _ _ _ (fun _ _ _ _ _ _ a => .foldl (fun _ _ hs => hs.setBv _ _ _) _ a)

theorem MemoriesCanonical.execBkLdv {s : State} (h : MemoriesCanonical s) (op : Nat) :
    AnswersCanonical (execBkLdv op s) :=
  h.runColumn _ _ _ (fun _ _ _ _ _ _ a => a.setBv _ _ _)

theorem MemoriesCanonical.execBkMac {s : State} (h : MemoriesCanonical s) (op : Nat) :
    AnswersCanonical (execBkMac op s) :=
  h.runColumn _ _ _ (fun _ _ _ _ _ _ a => a.setBa _ _ _)

theorem MemoriesCanonical.execBkEadd {s : State} (h : MemoriesCanonical s) (op : Nat) :
    AnswersCanonical (execBkEadd op s) :=
  h.runColumn _ _ _ (fun _ _ _ _ _ _ a => .foldl (fun _ _ hs => hs.setBa _ _ _) _ a)

theorem MemoriesCanonical.execBkSta {s : State} (h : MemoriesCanonical s) (op : Nat) :
    AnswersCanonical (execBkSta op s) :=
  h.runColumn _ _ _ (fun _ _ _ _ _ _ a => a.colWrite _ _ _ _ _ _)

theorem MemoriesCanonical.execBkClr {s : State} (h : MemoriesCanonical s) (op : Nat) :
    AnswersCanonical (execBkClr op s) := by
  unfold Machine.execBkClr
  split
  · trivial
  · exact MemoriesCanonical.setOp (.foldl (fun _ _ hs => hs.setBank _ _) _ h) _

theorem MemoriesCanonical.execBkSync {s : State} (h : MemoriesCanonical s) (op : Nat) :
    AnswersCanonical (execBkSync op s) := by
  unfold Machine.execBkSync
  split
  · trivial
  · exact h.setOp _

theorem MemoriesCanonical.execBankBlockDone {s : State} (h : MemoriesCanonical s) (op : Nat) :
    AnswersCanonical (execBankBlockDone op s) := by
  unfold Machine.execBankBlockDone
  split
  · trivial
  · split
    · exact ((h.leavePort _).completeOp _).whenEnabled _ _
    · trivial

end Sys2Proof.Machine
end

section
/-! The functions of Sys2Proof/Machine/Collective.lean keep the memories canonical. -/

namespace Sys2Proof.Machine

theorem MemoriesCanonical.groupRecord {s : State} (h : MemoriesCanonical s) (cx : Cx) (tid : Nat) (t : Thread)
    (d : Nat) : MemoriesCanonical (Cx.groupRecord cx s tid t d).1 := by
  unfold Machine.Cx.groupRecord
  extract_lets bad
  split
  · rename_i hr
    exact ((h.record _ _ _ _ _ _).of_fst hr :)
  · rename_i hr
    exact ((h.record _ _ _ _ _ _).of_fst hr :)
  · rename_i t1 _ hr
    have ht1 : MemoriesCanonical t1 := (h.record _ _ _ _ _ _).of_fst hr
    split
    · exact ht1
    · split
      · rename_i hr2
        exact ((ht1.record _ _ _ _ _ _).of_fst hr2 :)
      · exact ht1.record _ _ _ _ _ _

theorem MemoriesCanonical.tellRanks {s : State} (h : MemoriesCanonical s) (c : CollCmd) (sub x : Nat) :
    MemoriesCanonical (tellRanks s c sub x) :=
  .foldl (fun _ _ hs => hs.send _ _ _) _ h

theorem MemoriesCanonical.segTable {s : State} (h : MemoriesCanonical s) (cx : Cx) (tid : Nat) (t : Thread)
    (d : Nat) : MemoriesCanonical (Cx.segTable cx s tid t d).1 := by
  unfold Machine.Cx.segTable
  split
  · exact h
  · split
    · exact h
    · exact h.record _ _ _ _ _ _

theorem MemoriesCanonical.startColls {s : State} (h : MemoriesCanonical s) (first : Nat) :
    MemoriesCanonical (startColls s first) :=
  .foldl (fun _ _ hs => .ite (hs.setOp _) (hs.tellRanks _ _ _)) _ h

theorem MemoriesCanonical.collIssue {s : State} (h : MemoriesCanonical s) (cx : Cx) (tid : Nat) (t : Thread)
    (o : Opnds) : MemoriesCanonical (collIssue cx s tid t o).1 := by
  rw [show @Machine.collIssue = delta% @Machine.collIssue from rfl]
  beta_reduce
  have hrecord := @MemoriesCanonical.record
  have hgroupRecord := @MemoriesCanonical.groupRecord
  have hsegTable := @MemoriesCanonical.segTable
  revert hrecord hgroupRecord hsegTable
  induction @Machine.Cx.record using of_forall with | _ record
  induction @Machine.Cx.groupRecord using of_forall with | _ groupRecord
  induction @Machine.Cx.segTable using of_forall with | _ segTable
  intro hrecord hgroupRecord hsegTable
  extract_lets l
  split
  · rename_i hr
    exact ((hrecord h _ _ _ _ _ _).of_fst hr :)
  · rename_i hr
    exact ((hrecord h _ _ _ _ _ _).of_fst hr :)
  · rename_i t1 _ hr
    have ht1 : MemoriesCanonical t1 := (hrecord h _ _ _ _ _ _).of_fst hr
    split
    · exact ht1
    · split
      · rename_i hr2
        exact ((hgroupRecord ht1 _ _ _ _).of_fst hr2 :)
      · rename_i hr2
        exact ((hgroupRecord ht1 _ _ _ _).of_fst hr2 :)
      · rename_i t2 _ hr2
        have ht2 : MemoriesCanonical t2 := (hgroupRecord ht1 _ _ _ _).of_fst hr2
        split
        · exact ht2
        · split
          · exact ht2
          · split
            · rename_i hr5
              exact ((hsegTable ht2 _ _ _ _).of_fst hr5 :)
            · rename_i hr5
              exact ((hsegTable ht2 _ _ _ _).of_fst hr5 :)
            · rename_i t3 _ hr5
              have ht3 : MemoriesCanonical t3 := (hsegTable ht2 _ _ _ _).of_fst hr5
              split
              · exact ht3
              · exact ht3

theorem MemoriesCanonical.execColl {s : State} (h : MemoriesCanonical s) (d a b : BitVec 8) :
    AnswersCanonical (execColl d a b s) := by
  unfold Machine.execColl
  have hissue := @MemoriesCanonical.collIssue
  revert hissue
  induction @Machine.collIssue using of_forall with | _ collIssue
  intro hissue
  exact h.runWord _ (fun cx => (h.engineEach cx .cp fun _ _ _ _ _ _ hs => hissue hs _ _ _ _).startColls _)

theorem MemoriesCanonical.collReads {s : State} (h : MemoriesCanonical s) (cs : List CollCmd) :
    ExceptHolds (fun e => MemoriesCanonical e.2) (fun r => MemoriesCanonical r.2) (collReads cs s) := by
  induction cs generalizing s with
  | nil => exact h
  | cons c cs ih =>
    unfold Machine.collReads
    extract_lets one r
    have hr : ExceptHolds (fun e => MemoriesCanonical e.2) (fun r => MemoriesCanonical r.2) r := by
      refine List.foldlRecOn
        (motive := ExceptHolds (fun (e : Option (Nat × Nat) × State) => MemoriesCanonical e.2)
          (fun (r : CollRead × State) => MemoriesCanonical r.2))
        one _ h fun acc hacc x _ => ?_
      split
      · rename_i t
        have ht : MemoriesCanonical t := hacc
        split
        · exact ht
        · split
          · exact ht
          · have hv := ht.engRead
            split
            all_goals
              rename_i hr
              exact ((hv _ _ _ _).of_eq hr :)
      · exact hacc
    clear_value r
    split
    · exact hr
    · rename_i x t
      have ht : MemoriesCanonical t := hr
      split
      · rename_i hr
        exact ((ih ht).of_eq hr :)
      · rename_i hr
        exact ((ih ht).of_eq hr :)

theorem MemoriesCanonical.collMove {s : State} (h : MemoriesCanonical s) (here : List (CollCmd × CollRead))
    (peers : List CollPeer) (out : Option Nat) (k : CollCmd × CollRead) :
    MemoriesCanonical (collMove s here peers out k) := by
  unfold Machine.collMove
  extract_lets +onlyGivenNames c
  split
  · exact h.setOp _
  · extract_lets +onlyGivenNames w s1 w1
    have hs1 : MemoriesCanonical s1 := by
      unfold s1
      exact .ite (h.tellRanks _ _ _) (.foldl (fun _ _ hs => .ite (hs.send _ _ _) hs) _ h)
    exact hs1.setOp _

theorem MemoriesCanonical.execCollMatched {s : State} (h : MemoriesCanonical s) (op : Nat) (peers : List CollPeer) :
    AnswersCanonical (execCollMatched op peers s) := by
  unfold Machine.execCollMatched
  split
  · trivial
  · extract_lets cmds go
    split
    · exact MemoriesCanonical.whenEnabled (.foldl (fun _ _ hs => hs.setOp _) _ h) _ _
    · split
      · exact ((h.keepHold _).noteHold _ _ _).whenEnabled _ _
      · trivial
      · rename_i t hr2
        have ht : MemoriesCanonical t := (h.collReads _).of_eq hr2
        extract_lets here det
        exact MemoriesCanonical.whenEnabled (.foldl (fun _ _ hs => hs.collMove _ _ _ _) _ ht) _ _

theorem MemoriesCanonical.ackSender {s : State} (h : MemoriesCanonical s) (c : CollCmd) (x : HaloSeg) :
    MemoriesCanonical (ackSender s c x) := by
  unfold Machine.ackSender
  split
  · exact h.send _ _ _
  · split
    · exact h.setOp _
    · exact h

theorem MemoriesCanonical.execHaloReceive {s : State} (h : MemoriesCanonical s) (op segment data : Nat) :
    AnswersCanonical (execHaloReceive op segment data s) := by
  unfold Machine.execHaloReceive
  split
  · trivial
  · extract_lets o
    split
    · split
      · trivial
      · split
        · extract_lets remote seg go
          split
          · rename_i t hr5
            have ht : MemoriesCanonical t := (h.engWrite _ _ _ _ _).of_eq hr5
            exact ((ht.setOp _).ackSender _ _).whenEnabled _ _
          · exact ((h.keepHold _).noteHold _ _ _).whenEnabled _ _
          · trivial
          · rename_i t hr5
            have ht : MemoriesCanonical t := (h.engWrite _ _ _ _ _).of_eq hr5
            exact (ht.setOp _).whenEnabled _ _
    · trivial

theorem MemoriesCanonical.execCollDone {s : State} (h : MemoriesCanonical s) (op : Nat) :
    AnswersCanonical (execCollDone op s) := by
  unfold Machine.execCollDone
  split
  · trivial
  · rename_i c _
    split
    · trivial
    · rename_i l _
      extract_lets o halo go w g
      split
      rename_i ps n got hr
      have hgot : got.Canonical := by
        refine Got.Canonical.of_triple ?_ hr
        split
        · exact h
        · exact h.writeUnits _ _ _
      clear hr
      revert hgot
      extract_lets o1
      intro hgot
      have hsig : Got.Canonical (match (generalizing := false) got with
          | .ok _ t => Machine.signalOne t l g (coTb c.desc) (coSig c.desc) o1.work.moved
          | r => r) := by
        split
        · exact MemoriesCanonical.signalOne hgot _ _ _ _ _
        · exact hgot
      split
      · rename_i hr
        exact (((hsig.of_eq hr : MemoriesCanonical _).setOp _).toPost _ _ _ _ _).whenEnabled _ _
      · rename_i hr
        exact (((hsig.of_eq hr : MemoriesCanonical _).setOp _).noteHold _ _ _).whenEnabled _ _
      · rename_i hr
        exact ((hsig.of_eq hr : MemoriesCanonical _).setOp _).whenEnabled _ _
      · rename_i hr
        exact ((hsig.of_eq hr : MemoriesCanonical _).setOp _).whenEnabled _ _

theorem MemoriesCanonical.collElem {s : State} (h : MemoriesCanonical s) (c : CollCmd) (cause addr reason : Nat) :
    MemoriesCanonical (collElem s c cause addr reason) :=
  (h.setOp _).toPost _ _ _ _ _

theorem MemoriesCanonical.execCollTimeout {s : State} (h : MemoriesCanonical s) (op : Nat) :
    AnswersCanonical (execCollTimeout op s) := by
  unfold Machine.execCollTimeout
  split
  · trivial
  · exact (h.collElem _ _ _ _).whenEnabled _ _

theorem MemoriesCanonical.loseColl {s : State} (h : MemoriesCanonical s) (c : CollCmd) :
    MemoriesCanonical (loseColl s c) :=
  .foldl (fun _ _ hs => .ite hs (hs.setOp _)) _ (h.tellRanks _ _ _)

theorem MemoriesCanonical.dropColl {s : State} (h : MemoriesCanonical s) (c : CollCmd) (cause : Nat) :
    MemoriesCanonical (dropColl s c cause) :=
  (h.loseColl _).collElem _ _ _ _

theorem MemoriesCanonical.execCollFault {s : State} (h : MemoriesCanonical s) (op : Nat) :
    AnswersCanonical (execCollFault op s) := by
  unfold Machine.execCollFault
  split
  · trivial
  · extract_lets go
    split
    · exact (h.collElem _ _ _ _).whenEnabled _ _
    · split
      · exact (h.dropColl _ _).whenEnabled _ _
      · exact (h.collElem _ _ _ _).whenEnabled _ _
    · split
      · exact (h.dropColl _ _).whenEnabled _ _
      · exact (h.collElem _ _ _ _).whenEnabled _ _
    · trivial

end Sys2Proof.Machine
end

section
/-! The functions of Sys2Proof/Machine/Geometry.lean keep the memories canonical. -/

namespace Sys2Proof.Machine

theorem MemoriesCanonical.runGeom {s : State} (h : MemoriesCanonical s) (i : Instr) (opc n : Nat) :
    AnswersCanonical (runGeom s i opc n) := by
  unfold Machine.runGeom
  have hrecord := @MemoriesCanonical.record
  revert hrecord
  induction @Machine.Cx.record using of_forall with | _ record
  intro hrecord
  refine MemoriesCanonical.runEngine h _ _ (fun cx s1 tid v t o a => ?_)
  split
  · rename_i hr
    exact ((hrecord a _ _ _ _ _ _).of_fst hr :)
  · rename_i hr
    exact ((hrecord a _ _ _ _ _ _).of_fst hr :)
  · rename_i t1 _ hr
    have ht1 : MemoriesCanonical t1 := (hrecord a _ _ _ _ _ _).of_fst hr
    split
    · exact ht1
    · split
      · exact ht1
      · exact ht1

theorem MemoriesCanonical.geo {got : Got} (h : got.Canonical) : got.geo.Canonical := by
  cases got with
  | ok x s => exact h
  | hold ea s => exact h
  | busy s => exact h
  | fault c ea s => exact h

theorem MemoriesCanonical.geoGet {s : State} (h : MemoriesCanonical s) (c : GeoCx) (ea n : Nat) :
    (GeoCx.get c s ea n).Canonical := by
  unfold Machine.GeoCx.get
  extract_lets got
  refine MemoriesCanonical.geo ?_
  unfold got
  split
  · exact h
  · split
    · exact h.readEa _ _ _
    · split
      · exact h
      · exact h.readVer _ _ _ _

theorem MemoriesCanonical.geoList {s : State} (h : MemoriesCanonical s) (c : GeoCx) (ea n : Nat) :
    (GeoCx.list c s ea n).Canonical :=
  MemoriesCanonical.geo (h.engRead _ _ _ _)

theorem MemoriesCanonical.visitAll {s : State} (h : MemoriesCanonical s) {visit : State → Nat → Geo CutAcc}
    (hv : ∀ s n, MemoriesCanonical s → (visit s n).Canonical) (ns : List Nat) (a : CutAcc) :
    (visitAll visit ns a s).Canonical := by
  induction ns generalizing s a with
  | nil => exact h
  | cons n ns ih =>
    rw [Machine.visitAll]
    split
    · rename_i t hr
      have ht : MemoriesCanonical t := (hv _ _ h).of_eq hr
      exact ih ht _
    · exact hv _ _ h

theorem MemoriesCanonical.visitNode {s : State} (h : MemoriesCanonical s) (c : GeoCx) (d hd f nd par perr pe : Nat)
    (anc : Bool) : (visitNode c d hd f s nd par perr pe anc).Canonical := by
  rw [show @Machine.visitNode = delta% @Machine.visitNode by delta Machine.visitNode; rfl]
  beta_reduce
  refine brecOn_holds
    (P := fun _ (r : State → Nat → Nat → Nat → Nat → Bool → Geo CutAcc) =>
      ∀ s nd par perr pe anc, MemoriesCanonical s → (r s nd par perr pe anc).Canonical)
    (fun f below ih s nd par perr pe anc h => ?_) f s nd par perr pe anc h
  unfold Machine.visitNode._f
  have hget := @MemoriesCanonical.geoGet
  have hvisitAll := @MemoriesCanonical.visitAll
  revert hget hvisitAll
  induction @Machine.GeoCx.get using of_forall with | _ get
  induction @Machine.visitAll using of_forall with | _ visitAll
  intro hget hvisitAll
  split
  · exact h
  · rename_i below ih
    obtain ⟨rest, _⟩ := below
    have again : ∀ s nd par perr pe anc, MemoriesCanonical s → (rest s nd par perr pe anc).Canonical := ih
    extract_lets ea
    split
    · rename_i hr1
      exact ((hget h _ _ _).of_eq hr1 :)
    · rename_i hr1
      exact ((hget h _ _ _).of_eq hr1 :)
    · rename_i t2 hr1
      have ht2 : MemoriesCanonical t2 := (hget h _ _ _).of_eq hr1
      split
      · exact ht2
      · extract_lets pe2
        split
        · split
          · exact ht2
          · exact ht2
        · split
          · rename_i t3 hr4
            have ht3 : MemoriesCanonical t3 := (hvisitAll ht2 (fun _ _ a => again _ _ _ _ _ _ a) _ _).of_eq hr4
            split
            · exact ht3
            · exact ht3
          · exact hvisitAll ht2 (fun _ _ a => again _ _ _ _ _ _ a) _ _

theorem MemoriesCanonical.cutOf {s : State} (h : MemoriesCanonical s) (c : GeoCx) (d : Nat) :
    (cutOf c s d).Canonical := by
  unfold Machine.cutOf
  have hget := @MemoriesCanonical.geoGet
  have hvisitAll := @MemoriesCanonical.visitAll
  revert hget hvisitAll
  induction @Machine.GeoCx.get using of_forall with | _ get
  induction @Machine.visitAll using of_forall with | _ visitAll
  intro hget hvisitAll
  split
  · rename_i hr
    exact ((hget h _ _ _).of_eq hr :)
  · rename_i hr
    exact ((hget h _ _ _).of_eq hr :)
  · rename_i t hr
    have ht : MemoriesCanonical t := (hget h _ _ _).of_eq hr
    split
    · exact ht
    · split
      · rename_i hr2
        exact ((hvisitAll ht (fun _ _ a1 => a1.visitNode _ _ _ _ _ _ _ _ _) _ _).of_eq hr2 :)
      · rename_i hr2
        exact ((hvisitAll ht (fun _ _ a => a.visitNode _ _ _ _ _ _ _ _ _) _ _).of_eq hr2 :)
      · rename_i hr2
        exact ((hvisitAll ht (fun _ _ a => a.visitNode _ _ _ _ _ _ _ _ _) _ _).of_eq hr2 :)

theorem MemoriesCanonical.cutStart {s : State} (h : MemoriesCanonical s) (c : GeoCx) (d : Nat) :
    (cutStart c s d).Canonical := by
  unfold Machine.cutStart
  have hlist := @MemoriesCanonical.geoList
  have hcutOf := @MemoriesCanonical.cutOf
  revert hlist hcutOf
  induction @Machine.GeoCx.list using of_forall with | _ list
  induction @Machine.cutOf using of_forall with | _ cutOf
  intro hlist hcutOf
  split
  · rename_i hr
    exact ((hlist h _ _ _).of_eq hr :)
  · rename_i hr
    exact ((hlist h _ _ _).of_eq hr :)
  · rename_i t hr
    have ht : MemoriesCanonical t := (hlist h _ _ _).of_eq hr
    split
    · exact ht
    · split
      all_goals
        rename_i hr2
        exact ((hcutOf ht _ _).of_eq hr2 :)

theorem MemoriesCanonical.clusterAt {s : State} (h : MemoriesCanonical s) (c : GeoCx) (ea : Nat) :
    (clusterAt c s ea).Canonical := by
  unfold Machine.clusterAt
  split
  · rename_i t hr
    have ht : MemoriesCanonical t := (h.geoGet _ _ _).of_eq hr
    split
    · rename_i t1 hr1
      have ht1 : MemoriesCanonical t1 := (ht.geoGet _ _ _).of_eq hr1
      split
      · exact ht1
      · exact ht1
    · exact ht.geoGet _ _ _
  · exact h.geoGet _ _ _

theorem MemoriesCanonical.overEntries {α : Type} {s : State} (h : MemoriesCanonical s) (c : GeoCx) (q : Nat)
    (f : α → Nat → Nat → Nat → α) (n i : Nat) (x : α) : (overEntries c q f n i x s).Canonical := by
  rw [show @Machine.overEntries = delta% @Machine.overEntries by delta Machine.overEntries; rfl]
  beta_reduce
  refine brecOn_holds
    (P := fun _ (r : Nat → α → State → Geo α) => ∀ i x s, MemoriesCanonical s → (r i x s).Canonical)
    (fun n below ih i x s h => ?_) n i x s h
  unfold Machine.overEntries._f
  have hlist := @MemoriesCanonical.geoList
  have hclusterAt := @MemoriesCanonical.clusterAt
  revert hlist hclusterAt
  induction @Machine.GeoCx.list using of_forall with | _ list
  induction @Machine.clusterAt using of_forall with | _ clusterAt
  intro hlist hclusterAt
  split
  · exact h
  · rename_i below ih
    obtain ⟨rest, _⟩ := below
    have again : ∀ i x s, MemoriesCanonical s → (rest i x s).Canonical := ih
    split
    · rename_i hr1
      exact ((hlist h _ _ _).of_eq hr1 :)
    · rename_i hr1
      exact ((hlist h _ _ _).of_eq hr1 :)
    · rename_i t1 hr1
      have ht1 : MemoriesCanonical t1 := (hlist h _ _ _).of_eq hr1
      split
      · rename_i hr2
        exact ((hclusterAt ht1 _ _).of_eq hr2 :)
      · rename_i hr2
        exact ((hclusterAt ht1 _ _).of_eq hr2 :)
      · rename_i t2 hr2
        have ht2 : MemoriesCanonical t2 := (hclusterAt ht1 _ _).of_eq hr2
        exact again _ _ _ ht2

theorem MemoriesCanonical.entriesOf {s : State} (h : MemoriesCanonical s) {α : Type} (c : GeoCx) (opc d : Nat)
    (x : α) (f : α → Nat → Nat → Nat → α) : (entriesOf c s opc d x f).Canonical := by
  rw [show @Machine.entriesOf = delta% @Machine.entriesOf from rfl]
  beta_reduce
  have hlist := @MemoriesCanonical.geoList
  revert hlist
  induction @Machine.GeoCx.list using of_forall with | _ list
  intro hlist
  split
  · rename_i hr
    exact ((hlist h _ _ _).of_eq hr :)
  · rename_i hr
    exact ((hlist h _ _ _).of_eq hr :)
  · rename_i t hr
    have ht : MemoriesCanonical t := (hlist h _ _ _).of_eq hr
    exact ht.overEntries _ _ _ _ _ _

theorem MemoriesCanonical.rastStart {s : State} (h : MemoriesCanonical s) (c : GeoCx) (d lay : Nat) :
    (rastStart c s d lay).Canonical := by
  rw [show @Machine.rastStart = delta% @Machine.rastStart from rfl]
  beta_reduce
  split
  all_goals
    rename_i hr
    exact ((h.entriesOf _ _ _ _ _).of_eq hr :)

theorem MemoriesCanonical.rayStart {s : State} (h : MemoriesCanonical s) (c : GeoCx) (d : Nat) :
    (rayStart c s d).Canonical := by
  rw [show @Machine.rayStart = delta% @Machine.rayStart from rfl]
  beta_reduce
  extract_lets tri
  split
  all_goals
    rename_i hr
    exact ((h.entriesOf _ _ _ _ _).of_eq hr :)

theorem MemoriesCanonical.geomStart {s : State} (h : MemoriesCanonical s) (o : Op) (l : Launch) (opc d lay : Nat) :
    (geomStart s o l opc d lay).Canonical := by
  unfold Machine.geomStart
  extract_lets c
  split
  · exact h.cutStart _ _
  · split
    · exact h.rastStart _ _ _
    · exact h.rayStart _ _

theorem MemoriesCanonical.execGeometryStart {s : State} (h : MemoriesCanonical s) (op : Nat) :
    AnswersCanonical (execGeometryStart op s) := by
  unfold Machine.execGeometryStart
  split
  · trivial
  · split
    · extract_lets go
      split
      · rename_i t hr3
        have ht : MemoriesCanonical t := (h.geomStart _ _ _ _ _).of_eq hr3
        exact (ht.setOp _).whenEnabled _ _
      · exact ((h.keepHold _).noteHold _ _ _).whenEnabled _ _
      · trivial
      · rename_i t hr3
        have ht : MemoriesCanonical t := (h.geomStart _ _ _ _ _).of_eq hr3
        exact (ht.setOp _).whenEnabled _ _
    · trivial

theorem MemoriesCanonical.postReqs {s : State} (h : MemoriesCanonical s) (l : Launch) (g : Ag) (o : Op)
    (d ring : Nat) (ns : List Nat) (k : Nat) (c : Option Nat) : (postReqs l g o d ring ns k c s).2.2.Canonical := by
  induction ns generalizing s k c with
  | nil => exact h
  | cons n ns ih =>
    rw [Machine.postReqs]
    split
    · rename_i t hr
      have ht : MemoriesCanonical t := (h.postFrom _ _ _ _ _ _ _ _).of_pair hr
      exact ih ht _ _
    · rename_i t hr
      have ht : MemoriesCanonical t := (h.postFrom _ _ _ _ _ _ _ _).of_pair hr
      exact h.postKept ht _
    · rename_i t hr
      have ht : MemoriesCanonical t := (h.postFrom _ _ _ _ _ _ _ _).of_pair hr
      exact h.postKept ht _
    · rename_i hr
      exact ((h.postFrom _ _ _ _ _ _ _ _).of_pair hr :)

theorem MemoriesCanonical.cutHeader {s : State} (h : MemoriesCanonical s) (l : Launch) (g : Ag) (d : Nat)
    (w : Work) : (cutHeader s l g d w).Canonical := by
  rw [show @Machine.cutHeader = delta% @Machine.cutHeader from rfl]
  beta_reduce
  extract_lets q total count
  split
  · rename_i t hr
    have ht : MemoriesCanonical t := (h.engWrite _ _ _ _ _).of_eq hr
    exact ht.engWrite _ _ _ _ _
  · exact h.engWrite _ _ _ _ _

theorem MemoriesCanonical.geomStep (name : String) (o : Op) (go : Bool) (reason : Nat) {got : Got}
    (hgot : got.Canonical) {next : State → Host.Outcome State Fault Refusal}
    (hn : ∀ t, MemoriesCanonical t → AnswersCanonical (next t)) :
    AnswersCanonical (geomStep name o go reason got next) := by
  unfold Machine.geomStep
  split
  · rename_i t
    have ht : MemoriesCanonical t := hgot
    exact hn _ ht
  · rename_i t
    have ht : MemoriesCanonical t := hgot
    exact ((ht.setOp _).noteHold _ _ _).whenEnabled _ _
  · rename_i t
    have ht : MemoriesCanonical t := hgot
    exact (ht.setOp _).whenEnabled _ _
  · rename_i t
    have ht : MemoriesCanonical t := hgot
    exact (ht.setOp _).whenEnabled _ _

theorem MemoriesCanonical.geomEnd {t : State} (h : MemoriesCanonical t) (name : String) (o : Op) (l : Launch)
    (opc d : Nat) (go : Bool) : AnswersCanonical (geomEnd name t o l opc d go) :=
  MemoriesCanonical.geomStep _ _ _ _ (h.signalOne _ _ _ _ _) (fun _ a => ((a.setOp _).toPost _ _ _ _ _).whenEnabled _ _)

theorem MemoriesCanonical.execCutselDone {s : State} (h : MemoriesCanonical s) (op : Nat) :
    AnswersCanonical (execCutselDone op s) := by
  unfold Machine.execCutselDone
  split
  · trivial
  · split
    · extract_lets go g todo
      exact MemoriesCanonical.geomStep _ _ _ _ (h.postReqs _ _ _ _ _ _ _ _)
        (fun _ a => MemoriesCanonical.geomStep _ _ _ _ (a.writeUnits _ _ _)
          (fun _ a1 => MemoriesCanonical.geomStep _ _ _ _ (a1.cutHeader _ _ _ _) (fun _ a2 => a2.geomEnd _ _ _ _ _ _)))
    · trivial

theorem MemoriesCanonical.pixelMins {s : State} (h : MemoriesCanonical s) (l : Launch) (g : Ag) (base : Nat)
    (ps : List (Nat × Nat)) (k : Nat) : (pixelMins l g base ps k s).2.Canonical := by
  rw [show @Machine.pixelMins = delta% @Machine.pixelMins by delta Machine.pixelMins; rfl]
  beta_reduce
  refine list_brecOn_holds
    (P := fun _ (r : Nat → State → Nat × Got) => ∀ k s, MemoriesCanonical s → (r k s).2.Canonical)
    (fun ps below ih k s h => ?_) ps k s h
  unfold Machine.pixelMins._f
  induction @Machine.checkEa using of_forall with | _ checkEa
  have hrmwEa := @MemoriesCanonical.rmwEa
  revert hrmwEa
  induction @Machine.rmwEa using of_forall with | _ rmwEa
  intro hrmwEa
  split
  · exact h
  · rename_i below ih
    obtain ⟨rest, _⟩ := below
    have again : ∀ k s, MemoriesCanonical s → (rest k s).2.Canonical := ih
    extract_lets ea
    split
    · exact h
    · split
      · rename_i t2 hr2
        have ht2 : MemoriesCanonical t2 := (hrmwEa h _ _ _ _).of_eq hr2
        exact again _ _ ht2
      · exact h.keepHold _
      · exact h
      · exact h

theorem MemoriesCanonical.execRastDone {s : State} (h : MemoriesCanonical s) (op : Nat) :
    AnswersCanonical (execRastDone op s) := by
  unfold Machine.execRastDone
  split
  · trivial
  · split
    · extract_lets go
      exact MemoriesCanonical.geomStep _ _ _ _ (h.pixelMins _ _ _ _ _) (fun _ a => a.geomEnd _ _ _ _ _ _)
    · trivial

theorem MemoriesCanonical.execRayqDone {s : State} (h : MemoriesCanonical s) (op : Nat) :
    AnswersCanonical (execRayqDone op s) := by
  unfold Machine.execRayqDone
  split
  · trivial
  · split
    · extract_lets go
      split
      · rename_i t hr3
        have ht : MemoriesCanonical t := (h.engWrite _ _ _ _ _).of_eq hr3
        exact (ht.completeOp _).whenEnabled _ _
      · exact ((h.keepHold _).noteHold _ _ _).whenEnabled _ _
      · trivial
      · exact (h.setOp _).whenEnabled _ _
    · trivial

theorem MemoriesCanonical.execGeometryFault {s : State} (h : MemoriesCanonical s) (op : Nat) :
    AnswersCanonical (execGeometryFault op s) := by
  unfold Machine.execGeometryFault
  split
  · trivial
  · split
    · exact ((h.setOp _).toPost _ _ _ _ _).whenEnabled _ _
    · trivial

end Sys2Proof.Machine
end

section
/-! The functions of Sys2Proof/Machine/Tables.lean keep the memories canonical. -/

namespace Sys2Proof.Machine

theorem MemoriesCanonical.runTable {s : State} (h : MemoriesCanonical s) (i : Instr)
    {f : Cx → State → Opnds → State × UniRes} (hf : ∀ cx o, MemoriesCanonical (f cx s o).1) :
    AnswersCanonical (runTable s i f) := by
  unfold Machine.runTable
  refine MemoriesCanonical.runWord h _ (fun cx => ?_)
  split
  · rename_i t _ hr
    have ht : MemoriesCanonical t := (hf _ _).of_fst hr
    exact ht.trapAll _ _
  · rename_i hr
    exact ((hf _ _).of_fst hr :)
  · rename_i t hr
    have ht : MemoriesCanonical t := (hf _ _).of_fst hr
    exact ht.mapGroup _ _
  · rename_i t _ hr
    have ht : MemoriesCanonical t := (hf _ _).of_fst hr
    exact ht.mapGroup _ _

theorem MemoriesCanonical.execRbind {s : State} (h : MemoriesCanonical s) (d a b : BitVec 8) :
    AnswersCanonical (execRbind d a b s) := by
  unfold Machine.execRbind
  refine MemoriesCanonical.runTable h _ (fun cx o => ?_)
  extract_lets +onlyGivenNames l
  split
  · exact h
  · extract_lets +onlyGivenNames live
    split
    · exact h
    · split
      · exact h
      · exact h.setLaunch _

theorem MemoriesCanonical.execRunbind {s : State} (h : MemoriesCanonical s) (d a b : BitVec 8) :
    AnswersCanonical (execRunbind d a b s) := by
  unfold Machine.execRunbind
  refine MemoriesCanonical.runTable h _ (fun cx o => ?_)
  extract_lets l e x
  split
  · exact h
  · split
    · exact h
    · split
      · exact h.setLaunch _
      · exact h

theorem MemoriesCanonical.execCrdecl {s : State} (h : MemoriesCanonical s) (d a b : BitVec 8) :
    AnswersCanonical (execCrdecl d a b s) := by
  unfold Machine.execCrdecl
  refine MemoriesCanonical.runTable h _ (fun cx o => ?_)
  extract_lets l
  split
  · exact h
  · exact h.setLaunch _

theorem MemoriesCanonical.combineRange {s : State} (h : MemoriesCanonical s) (lid : Nat) (r : Range) :
    MemoriesCanonical (combineRange s lid r) :=
  .foldl (fun _ _ hs => hs.combine _ _) _ h

theorem MemoriesCanonical.endRange {s : State} (h : MemoriesCanonical s) (l : Launch) (e : Nat) :
    MemoriesCanonical (endRange s l e) :=
  (h.combineRange _ _).setLaunch _

theorem MemoriesCanonical.execCrend {s : State} (h : MemoriesCanonical s) (d a b : BitVec 8) :
    AnswersCanonical (execCrend d a b s) := by
  unfold Machine.execCrend
  refine MemoriesCanonical.runTable h _ (fun cx o => ?_)
  extract_lets l e
  split
  · exact h
  · split
    · exact h
    · split
      · exact h
      · exact h.endRange _ _

theorem MemoriesCanonical.execCombineLine {s : State} (h : MemoriesCanonical s) :
    AnswersCanonical (execCombineLine s) := by
  unfold Machine.execCombineLine
  split
  · split
    · exact (h.combine _ _).whenEnabled _ _
    · trivial
  · trivial

theorem MemoriesCanonical.writeEntry {s : State} (h : MemoriesCanonical s) (ppa x : Nat) :
    MemoriesCanonical (writeEntry s ppa x) :=
  (h.unsealLine _ _).dirWrite _ _ _

theorem MemoriesCanonical.mapLeaves {s : State} (h : MemoriesCanonical s) (ctx buf e : Nat) (f : Nat → Nat) :
    MemoriesCanonical (mapLeaves s ctx buf e f) := by
  unfold Machine.mapLeaves
  refine MemoriesCanonical.foldl (fun s a hs => ?_) _ h
  split
  · exact hs
  · extract_lets leaf
    exact .ite ((hs.writeEntry _ _).shootdown _) hs

theorem MemoriesCanonical.flushRange {s : State} (h : MemoriesCanonical s) (a n : Nat) (keep : Bool) :
    MemoriesCanonical (flushRange s a n keep) :=
  .foldl (fun _ _ hs => hs.flushLine _ _) _ h

theorem MemoriesCanonical.purgeLines {s : State} (h : MemoriesCanonical s) (hit : Nat → Bool) :
    MemoriesCanonical (purgeLines s hit) := by
  unfold Machine.purgeLines
  extract_lets t
  have ht : MemoriesCanonical t := MemoriesCanonical.foldl (fun s line hs => hs.flushLine line false) _ h
  clear_value t
  refine MemoriesCanonical.foldl (fun s core hs => ?_) _ ht
  extract_lets c
  split
  · exact hs.setCore_same rfl rfl
  · exact hs

theorem MemoriesCanonical.purgeRange {s : State} (h : MemoriesCanonical s) (a n : Nat) :
    MemoriesCanonical (purgeRange s a n) :=
  h.purgeLines _

theorem MemoriesCanonical.combineBuffer {s : State} (h : MemoriesCanonical s) (ctx buf : Nat) :
    MemoriesCanonical (combineBuffer s ctx buf) :=
  .foldl (fun _ _ hs => hs.combine _ _) _ h

theorem MemoriesCanonical.publish {s : State} (h : MemoriesCanonical s) (ctx buf e v : Nat) (sn : Snap) :
    MemoriesCanonical (publish s ctx buf e v sn) := by
  unfold Machine.publish
  extract_lets s1 s2 s3 s4
  have hs1 : MemoriesCanonical s1 := h.combineBuffer _ _
  have hs2 : MemoriesCanonical s2 := hs1.mapLeaves _ _ _ _
  have hs3 : MemoriesCanonical s3 := hs2.of_eq rfl rfl
  have hs4 : MemoriesCanonical s4 := hs3.of_eq rfl rfl
  exact hs4.setSnap _

theorem MemoriesCanonical.execVpost {s : State} (h : MemoriesCanonical s) (d a b : BitVec 8) :
    AnswersCanonical (execVpost d a b s) := by
  unfold Machine.execVpost
  refine MemoriesCanonical.runTable h _ (fun cx o => ?_)
  split
  · exact h
  · extract_lets buf v
    split
    · split
      · exact h
      · split
        · exact h
        · split
          · exact h
          · exact h.publish _ _ _ _ _
    · exact h

theorem MemoriesCanonical.execVopen {s : State} (h : MemoriesCanonical s) (d a b : BitVec 8) :
    AnswersCanonical (execVopen d a b s) := by
  unfold Machine.execVopen
  refine MemoriesCanonical.runTable h _ (fun cx o => ?_)
  split
  · exact h
  · split
    · exact h.setSnap _
    · exact h

theorem MemoriesCanonical.releaseHolds {s : State} (h : MemoriesCanonical s) (lid : Nat) :
    MemoriesCanonical (releaseHolds s lid) :=
  h.of_eq rfl rfl

theorem MemoriesCanonical.takeFrame {s : State} (h : MemoriesCanonical s) (stack n : Nat) :
    OptionHolds (fun r => MemoriesCanonical r.2) (takeFrame s stack n) := by
  unfold Machine.takeFrame
  dsimp only
  split
  · trivial
  · exact h.of_eq rfl rfl

theorem MemoriesCanonical.freeFrame {s : State} (h : MemoriesCanonical s) (stack f n : Nat) :
    MemoriesCanonical (freeFrame s stack f n) :=
  h.of_eq rfl rfl

theorem MemoriesCanonical.copyFrame {s : State} (h : MemoriesCanonical s) (e old new : Nat) :
    MemoriesCanonical (copyFrame s e old new) := by
  unfold Machine.copyFrame
  split
  exact MemoriesCanonical.of_eq (h.withDram (Memory.wf_copy h.1 _ _ _)) rfl rfl

theorem MemoriesCanonical.rebasePartials {s : State} (h : MemoriesCanonical s) (e old new : Nat) :
    MemoriesCanonical (rebasePartials s e old new) := by
  unfold Machine.rebasePartials
  split
  exact h.mapCores fun _ => ⟨rfl, rfl⟩

theorem MemoriesCanonical.execCowComplete {s : State} (h : MemoriesCanonical s) (page : PageKey) :
    AnswersCanonical (execCowComplete page s) := by
  have hset : ∀ t cows, MemoriesCanonical t → MemoriesCanonical { t with cows := cows } := fun _ _ ht => ht.of_eq rfl rfl
  unfold Machine.execCowComplete
  have htake := @MemoriesCanonical.takeFrame
  revert htake
  induction @Machine.leafAddr using of_forall with | _ leafAddr
  induction @Machine.histAddr using of_forall with | _ histAddr
  induction @Machine.histEntry using of_forall with | _ histEntry
  induction @Machine.takeFrame using of_forall with | _ takeFrame
  intro htake
  split
  · rename_i e sn _ _
    extract_lets x
    split
    · trivial
    · rename_i la _
      extract_lets leaf
      split
      · rename_i i f t hr1 hr2
        have ht : MemoriesCanonical t := (htake h _ _).of_eq hr2
        split
        · trivial
        · rename_i ha _
          split
          rename_i a n _
          extract_lets new t1 t2 t3 t4 t5
          have h1 : MemoriesCanonical t1 := ht.flushRange _ _ _
          have h2 : MemoriesCanonical t2 := ((h1.purgeRange _ _).copyFrame _ _ _).rebasePartials _ _ _
          have h3 : MemoriesCanonical t3 := (h2.writeEntry _ _).writeEntry _ _
          exact ((hset _ _ (h3.shootdown _)).replayHeld _).whenEnabled _ _
      · trivial
  · trivial

theorem MemoriesCanonical.execHistoryFrameFree {s : State} (h : MemoriesCanonical s) (page : PageKey) (slot : Nat) :
    AnswersCanonical (execHistoryFrameFree page slot s) := by
  unfold Machine.execHistoryFrameFree
  induction @Machine.walk using of_forall with | _ walk
  induction @Machine.histAddr using of_forall with | _ histAddr
  split
  · extract_lets x entry
    split
    · rename_i ha _ _
      exact (((h.purgeRange _ _).writeEntry ha 0).freeFrame _ _ _).whenEnabled _ _
    · trivial
  · trivial

theorem MemoriesCanonical.appendRecord {s : State} (h : MemoriesCanonical s) (q : Queue) (cb : QueueCb)
    (record : Nat) : (appendRecord s q cb record).Canonical := by
  rw [show @Machine.appendRecord = delta% @Machine.appendRecord from rfl]
  beta_reduce
  split
  · rename_i t hr
    have ht : MemoriesCanonical t := (h.writeEa _ _ _ _).of_eq hr
    split
    · rename_i hr1
      exact ((ht.writeEa _ _ _ _).of_eq hr1 :)
    · exact ht.writeEa _ _ _ _
  · exact h.writeEa _ _ _ _

theorem MemoriesCanonical.launchAppend {s : State} (h : MemoriesCanonical s) (cx : Cx) (t : Thread) (k ea : Nat) :
    MemoriesCanonical (launchAppend cx s t k ea).1 := by
  unfold Machine.launchAppend
  split
  · exact h
  · split
    · exact h
    · split
      · exact h
      · split
        · rename_i hr3
          exact ((MemoriesCanonical.recordSettle _ _ _ _ (h.readEa _ _ _)).of_fst hr3 :)
        · rename_i hr3
          exact ((MemoriesCanonical.recordSettle _ _ _ _ (h.readEa _ _ _)).of_fst hr3 :)
        · rename_i t1 _ hr3
          have ht1 : MemoriesCanonical t1 := (MemoriesCanonical.recordSettle _ _ _ _ (h.readEa _ _ _)).of_fst hr3
          extract_lets cb
          split
          · exact ht1
          · split
            · exact ht1
            · split
              · exact ht1
              · split
                · rename_i hr7
                  exact ((ht1.readRecord _ _ _ _ _ _ _).of_fst hr7 :)
                · rename_i hr7
                  exact ((ht1.readRecord _ _ _ _ _ _ _).of_fst hr7 :)
                · rename_i t2 _ hr7
                  have ht2 : MemoriesCanonical t2 := (ht1.readRecord _ _ _ _ _ _ _).of_fst hr7
                  split
                  · exact ht2
                  · exact MemoriesCanonical.recordSettle _ _ _ _ (ht2.appendRecord _ _ _)

theorem MemoriesCanonical.execLaunch {s : State} (h : MemoriesCanonical s) (d a b : BitVec 8) :
    AnswersCanonical (execLaunch d a b s) := by
  unfold Machine.execLaunch
  refine MemoriesCanonical.runWord h _ (fun cx => ?_)
  extract_lets o
  split
  · exact h.trapAll _ _
  · split
    · rename_i t _ hr1
      have ht : MemoriesCanonical t := (h.launchAppend _ _ _ _).of_fst hr1
      exact ht.trapAll _ _
    · rename_i t _ hr1
      have ht : MemoriesCanonical t := (h.launchAppend _ _ _ _).of_fst hr1
      exact ht.holdGroup _ _
    · rename_i t _ hr1
      have ht : MemoriesCanonical t := (h.launchAppend _ _ _ _).of_fst hr1
      exact ((ht.addOp _ _ _ _ _ _ _).mapGroup _ _).completeOp _

end Sys2Proof.Machine
end

section
/-! The functions of Sys2Proof/Machine/Pages.lean keep the memories canonical. -/

namespace Sys2Proof.Machine

theorem MemoriesCanonical.delMigration {s : State} (h : MemoriesCanonical s) (page : PageKey) :
    MemoriesCanonical (State.delMigration s page) :=
  h.of_eq rfl rfl

theorem MemoriesCanonical.setLeaf {s : State} (h : MemoriesCanonical s) (e : Nat) (page : PageKey) (leaf : Nat) :
    MemoriesCanonical (setLeaf s e page leaf) := by
  rw [show @Machine.setLeaf = delta% @Machine.setLeaf from rfl]
  beta_reduce
  split
  · exact (h.writeEntry _ _).shootdown _
  · exact h

theorem MemoriesCanonical.useFrame {s : State} (h : MemoriesCanonical s) (home frame n : Nat) :
    MemoriesCanonical (useFrame s home frame n) :=
  h.of_eq rfl rfl

theorem MemoriesCanonical.execMigrationBegin {s : State} (h : MemoriesCanonical s) :
    AnswersCanonical (execMigrationBegin s) := by
  have hadd : ∀ t m, MemoriesCanonical t → MemoriesCanonical { t with migrations := t.migrations ++ [m] } := fun _ _ ht =>
    ht.of_eq rfl rfl
  unfold Machine.execMigrationBegin
  induction @Machine.walk using of_forall with | _ walk
  split
  · split
    · trivial
    · split
      · trivial
      · exact (hadd _ _ ((h.useFrame _ _ _).setLeaf _ _ _)).whenEnabled _ _
  · trivial

theorem MemoriesCanonical.abortMigration {s : State} (h : MemoriesCanonical s) (e : Nat) (m : Migration) :
    MemoriesCanonical (abortMigration s e m) :=
  (((h.freeFrame _ _ _).setLeaf _ _ _).delMigration _).replayHeld _

theorem MemoriesCanonical.execMigrationDrained {s : State} (h : MemoriesCanonical s) :
    AnswersCanonical (execMigrationDrained s) := by
  unfold Machine.execMigrationDrained
  split
  · split
    · extract_lets go t
      have ht : MemoriesCanonical t := h.purgeRange _ _
      clear_value t
      refine MemoriesCanonical.whenEnabled ?_ _ _
      exact .ite (h.abortMigration _ _) (ht.of_eq rfl rfl)
    · trivial
  · trivial

theorem MemoriesCanonical.execMigrationCopyDone {s : State} (h : MemoriesCanonical s) :
    AnswersCanonical (execMigrationCopyDone s) := by
  unfold Machine.execMigrationCopyDone
  split
  · split
    · extract_lets new go t t1
      have ht : MemoriesCanonical t := (h.copyFrame _ _ _).rebasePartials _ _ _
      have ht1 : MemoriesCanonical t1 := (ht.setLeaf _ _ _).freeFrame _ _ _
      exact MemoriesCanonical.whenEnabled (.ite (h.abortMigration _ _) ((ht1.delMigration _).replayHeld _)) _ _
    · trivial
  · trivial

theorem MemoriesCanonical.quarantine {s : State} (h : MemoriesCanonical s) (e : Nat) (page : PageKey) (leaf : Nat) :
    MemoriesCanonical (quarantine s e page leaf) := by
  have hset : ∀ t cows quars, MemoriesCanonical t → MemoriesCanonical { t with cows := cows, quars := quars } := fun _ _ _ ht =>
    ht.of_eq rfl rfl
  unfold Machine.quarantine
  extract_lets old t1 t2 t3 k
  have h1 : MemoriesCanonical t1 := by
    unfold t1
    split
    · exact (h.freeFrame _ _ _).delMigration _
    · exact h
  have h3 : MemoriesCanonical t3 := hset _ _ _ (h1.setLeaf _ _ _)
  exact (h3.replayHeld _).reportEvent _ _ _ _ _ _

theorem MemoriesCanonical.execPageQuarantine {s : State} (h : MemoriesCanonical s) :
    AnswersCanonical (execPageQuarantine s) := by
  unfold Machine.execPageQuarantine
  induction @Machine.walk using of_forall with | _ walk
  split
  · split
    · trivial
    · split
      · trivial
      · exact (h.quarantine _ _ _).whenEnabled _ _
  · trivial

theorem MemoriesCanonical.zeroLost {s : State} (h : MemoriesCanonical s) (e leaf : Nat) (page : PageKey) :
    MemoriesCanonical (zeroLost s e leaf page) := by
  unfold Machine.zeroLost
  refine MemoriesCanonical.of_eq (MemoriesCanonical.foldl (fun s line hs => ?_) _ h) rfl rfl
  have hu := (hs.discardLine line).noteUse page.buf e
    (pageBase e page.page + (128 * line - leafPpa e leaf (pageBase e page.page))) (128 * line)
  exact hu.withDram (Memory.wf_write hu.1 _ _ _)

theorem MemoriesCanonical.reportRestored {s : State} (h : MemoriesCanonical s) (e : Nat) (page : PageKey)
    (leaf : Nat) : MemoriesCanonical (reportRestored s e page leaf) :=
  h.reportEvent _ _ _ _ _ _

theorem MemoriesCanonical.execPageRestore {s : State} (h : MemoriesCanonical s) :
    AnswersCanonical (execPageRestore s) := by
  unfold Machine.execPageRestore
  split
  · split
    · rename_i page home frame _ _ _ e old _ _
      extract_lets t new t1
      have hz : MemoriesCanonical (Machine.zeroLost s e old page) := h.zeroLost e old page
      have ht : MemoriesCanonical t := hz.purgeLines _
      clear_value t
      have ht1 : MemoriesCanonical t1 := .ite ht (((ht.useFrame _ _ _).copyFrame _ _ _).rebasePartials _ _ _)
      clear_value t1
      refine MemoriesCanonical.whenEnabled (MemoriesCanonical.reportRestored (MemoriesCanonical.setLeaf ?_ _ _ _) _ _ _) _ _
      exact ht1.of_eq rfl rfl
    · trivial
  · trivial

end Sys2Proof.Machine
end

section
/-! The functions of Sys2Proof/Machine/Eligible.lean keep the memories canonical. -/

namespace Sys2Proof.Machine

theorem MemoriesCanonical.makeEligible {s : State} (h : MemoriesCanonical s) (l : Launch) :
    MemoriesCanonical (makeEligible s l) := by
  unfold Machine.makeEligible
  extract_lets l1
  exact .ite ((h.setLaunch _).reportLaunch _ _ _) (h.setLaunch _)

theorem MemoriesCanonical.refreshEligible {s : State} (h : MemoriesCanonical s) :
    MemoriesCanonical (refreshEligible s) := by
  unfold Machine.refreshEligible
  refine MemoriesCanonical.foldl (fun s a hs => ?_) _ h
  split
  · exact .ite (hs.makeEligible _) hs
  · exact hs

end Sys2Proof.Machine
end

section
/-! The functions of Sys2Proof/Machine/Slots.lean keep the memories canonical. -/

namespace Sys2Proof.Machine

theorem MemoriesCanonical.acceptPre {s : State} (h : MemoriesCanonical s) (slot : Nat) :
    MemoriesCanonical (acceptPre s slot) := by
  unfold Machine.acceptPre
  extract_lets k det
  exact .ite (h.setSlot _ _) (h.setSlot _ _)

theorem MemoriesCanonical.deliverHalt {s : State} (h : MemoriesCanonical s) (slot : Nat) :
    MemoriesCanonical (deliverHalt s slot) :=
  (h.haltParty _).reportEvent _ _ _ _ _ _

theorem MemoriesCanonical.slotPre {s : State} (h : MemoriesCanonical s) (slot : Nat) :
    MemoriesCanonical (slotPre s slot) := by
  unfold Machine.slotPre
  split
  · exact h.acceptPre _
  · exact h.setSlot _ _
  · exact h.setSlot _ _
  all_goals exact h

theorem MemoriesCanonical.slotHalt {s : State} (h : MemoriesCanonical s) (slot : Nat) :
    MemoriesCanonical (slotHalt s slot) := by
  unfold Machine.slotHalt
  split
  · exact h.deliverHalt _
  · exact .ite (h.setSlot _ _) ((h.abandonSave _).deliverHalt _)
  · exact h.setSlot _ _
  · exact h.setSlot _ _
  all_goals exact h

theorem MemoriesCanonical.slotKill {s : State} (h : MemoriesCanonical s) (slot : Nat) :
    MemoriesCanonical (slotKill s slot) := by
  unfold Machine.slotKill
  split
  · exact h.killParty _ _ _
  · exact h.killParty _ _ _
  · exact h.setSlot _ _
  · exact h.setSlot _ _
  all_goals exact h

theorem MemoriesCanonical.slotRelease {s : State} (h : MemoriesCanonical s) (slot : Nat) :
    MemoriesCanonical (slotRelease s slot) :=
  .ite (h.freeSlot _) h

theorem MemoriesCanonical.writeControl {s : State} (h : MemoriesCanonical s) (slot x : Nat) :
    MemoriesCanonical (writeControl s slot x) := by
  unfold Machine.writeControl
  extract_lets +onlyGivenNames u s1 s2 s3
  have hs1 : MemoriesCanonical s1 := h.setSlot _ _
  have hs2 : MemoriesCanonical s2 := .ite (hs1.slotPre _) hs1
  have hs3 : MemoriesCanonical s3 := .ite (hs2.slotHalt _) hs2
  extract_lets +onlyGivenNames s4
  have hs4 : MemoriesCanonical s4 := .ite (hs3.slotKill _) hs3
  exact .ite (hs4.slotRelease _) hs4

theorem MemoriesCanonical.execSlotPre {s : State} (h : MemoriesCanonical s) : AnswersCanonical (execSlotPre s) := by
  unfold Machine.execSlotPre
  split
  · exact .ite h ((h.setSlot _ _).slotPre _)
  · trivial

theorem MemoriesCanonical.execSlotHalt {s : State} (h : MemoriesCanonical s) : AnswersCanonical (execSlotHalt s) := by
  unfold Machine.execSlotHalt
  split
  · exact h.slotHalt _
  · trivial

theorem MemoriesCanonical.execSlotKill {s : State} (h : MemoriesCanonical s) : AnswersCanonical (execSlotKill s) := by
  unfold Machine.execSlotKill
  split
  · exact h.slotKill _
  · trivial

theorem MemoriesCanonical.execSlotRelease {s : State} (h : MemoriesCanonical s) :
    AnswersCanonical (execSlotRelease s) := by
  unfold Machine.execSlotRelease
  split
  · exact h.slotRelease _
  · trivial

theorem MemoriesCanonical.enterRun {s : State} (h : MemoriesCanonical s) (slot : Nat) :
    MemoriesCanonical (enterRun s slot) := by
  unfold Machine.enterRun
  extract_lets k s1 s2 s3
  have hs1 : MemoriesCanonical s1 := h.setSlot _ _
  have hs2 : MemoriesCanonical s2 := .ite (hs1.acceptPre _) hs1
  have hs3 : MemoriesCanonical s3 := .ite (hs2.deliverHalt _) hs2
  exact .ite (hs3.killParty _ _ _) hs3

theorem MemoriesCanonical.joinTable {s : State} (h : MemoriesCanonical s) (core lid : Nat) :
    MemoriesCanonical (joinTable s core lid) := by
  unfold Machine.joinTable
  extract_lets c
  exact .ite h (h.setCore_same rfl rfl)

theorem MemoriesCanonical.fetchSegs {s : State} (h : MemoriesCanonical s) (slot lid : Nat) (which : Nat → Bool) :
    MemoriesCanonical (fetchSegs s slot lid which) :=
  .foldl (fun _ _ hs => .ite ((hs.addOp _ _ _ _ _ _ _).segApply _ _ _ _ _) hs) _ h

theorem MemoriesCanonical.fetchResident {s : State} (h : MemoriesCanonical s) (slot : Nat) (l : Launch) :
    MemoriesCanonical (fetchResident s slot l) :=
  h.fetchSegs _ _ _

theorem MemoriesCanonical.execBindDispatch {s : State} (h : MemoriesCanonical s) :
    AnswersCanonical (execBindDispatch s) := by
  unfold Machine.execBindDispatch
  split
  · split
    · extract_lets +onlyGivenNames core t u t1 t2 t3
      have ht : MemoriesCanonical t := (h.joinTable _ _).fetchResident _ _
      have ht1 : MemoriesCanonical t1 := ht.setSlot _ _
      have ht2 : MemoriesCanonical t2 := ht1.setBlock _
      have ht3 : MemoriesCanonical t3 := .ite ht2 ((ht2.setLaunch _).reportLaunch _ _ _)
      extract_lets +onlyGivenNames t4
      have ht4 : MemoriesCanonical t4 := by
        unfold t4
        split
        · exact .ite (((ht3.setLaunch _).reportLaunch _ _ _).refreshEligible) ht3
        · exact ht3
      exact ht4.whenEnabled _ _
    · trivial
  · trivial

theorem MemoriesCanonical.execDispatchStart {s : State} (h : MemoriesCanonical s) (slot : Nat) :
    AnswersCanonical (execDispatchStart slot s) := by
  unfold Machine.execDispatchStart
  extract_lets +onlyGivenNames k
  split
  · trivial
  · split
    · extract_lets +onlyGivenNames p core t
      have ht : MemoriesCanonical t := h.setSlot _ _
      split
      · exact (ht.freeze _ _ _).whenEnabled _ _
      · exact ((ht.acquire _ _).enterRun _).whenEnabled _ _
    · trivial

theorem MemoriesCanonical.execSaveBegin {s : State} (h : MemoriesCanonical s) (slot : Nat) :
    AnswersCanonical (execSaveBegin slot s) := by
  unfold Machine.execSaveBegin
  extract_lets k
  split
  · trivial
  · exact (h.setSlot _ _).whenEnabled _ _

theorem MemoriesCanonical.execSaveDrained {s : State} (h : MemoriesCanonical s) (slot : Nat) :
    AnswersCanonical (execSaveDrained slot s) :=
  ((h.setSlot _ _).cutShadows _ _).whenEnabled _ _

theorem MemoriesCanonical.execSaveDeadlineExpiry {s : State} (h : MemoriesCanonical s) (slot : Nat) :
    AnswersCanonical (execSaveDeadlineExpiry slot s) :=
  ((h.cancelCopies _ _).setSlot _ _).whenEnabled _ _

theorem MemoriesCanonical.writeWords {s : State} (h : MemoriesCanonical s) (g : Ag) (n ea : Nat) (ws : List Nat) :
    (writeWords g n s ea ws).Canonical := by
  induction n generalizing s ea ws with
  | zero => exact h
  | succ n ih =>
    rw [Machine.writeWords]
    split
    · exact h
    · split
      · rename_i t hr1
        have ht : MemoriesCanonical t := (h.writeEa _ _ _ _).of_eq hr1
        exact ih ht _ _
      · exact h.writeEa _ _ _ _

theorem MemoriesCanonical.readWords {s : State} (h : MemoriesCanonical s) (g : Ag) (f ea n : Nat) :
    ExceptHolds Got.Canonical (fun r => MemoriesCanonical r.2) (readWords g f s ea n) := by
  induction f generalizing s ea n with
  | zero => exact h
  | succ f ih =>
    rw [Machine.readWords]
    split
    · exact h
    · split
      · rename_i t hr1
        have ht : MemoriesCanonical t := (h.readEa _ _ _).of_eq hr1
        split
        · rename_i hr2
          exact ((ih ht _ _).of_eq hr2 :)
        · rename_i e hr2
          have he : e.Canonical := (ih ht _ _).of_eq hr2
          exact he
      · exact h.readEa _ _ _

theorem MemoriesCanonical.holdImage {s : State} (h : MemoriesCanonical s) (slot ea : Nat) :
    MemoriesCanonical (holdImage s slot ea) := by
  unfold Machine.holdImage
  extract_lets k
  exact .ite h (h.setSlot _ _)

theorem MemoriesCanonical.execSaveComplete {s : State} (h : MemoriesCanonical s) (slot : Nat) :
    AnswersCanonical (execSaveComplete slot s) := by
  unfold Machine.execSaveComplete
  extract_lets k
  split
  · trivial
  · split
    · extract_lets g ws
      split
      · exact (h.killParty _ _ _).whenEnabled _ _
      · split
        · rename_i t hr4
          have ht : MemoriesCanonical t := (h.writeWords _ _ _ _).of_eq hr4
          exact ((ht.setBlock _).clearSlot _).whenEnabled _ _
        · extract_lets began s1
          have hs1 : MemoriesCanonical s1 := h.keepHold _
          split
          · exact (hs1.killParty _ _ _).whenEnabled _ _
          · exact (hs1.holdImage _ _).whenEnabled _ _
        · trivial
        · rename_i t hr4
          have ht : MemoriesCanonical t := (h.writeWords _ _ _ _).of_eq hr4
          exact (ht.killParty _ _ _).whenEnabled _ _
    · trivial

theorem MemoriesCanonical.fetchMask {s : State} (h : MemoriesCanonical s) (slot lid mask : Nat) :
    MemoriesCanonical (fetchMask s slot lid mask) :=
  h.fetchSegs _ _ _

theorem MemoriesCanonical.installRestore {s : State} (h : MemoriesCanonical s) (slot lid record : Nat) (p : Party)
    (copies : List SavedCopy) (mask : Nat) : MemoriesCanonical (installRestore s slot lid record p copies mask) :=
  ((h.joinTable _ _).fetchMask _ _ _).setSlot _ _

theorem MemoriesCanonical.moveMembers {s : State} (h : MemoriesCanonical s) (old new : Nat) (p q : Party) :
    MemoriesCanonical (moveMembers s old new p q) := by
  unfold Machine.moveMembers
  extract_lets n
  refine MemoriesCanonical.foldl (fun s a hs => ?_) _ h
  split
  · exact .ite hs ((hs.joinInst _ _).leaveInst _ _)
  · exact hs

theorem MemoriesCanonical.rejoin {s : State} (h : MemoriesCanonical s) (old slot : Nat)
    (marks : List (Nat × Nat × Nat × Nat)) : MemoriesCanonical (rejoin s old slot marks) := by
  unfold Machine.rejoin
  split
  · exact h
  · extract_lets live moves s1 s2 s3
    have hs1 : MemoriesCanonical s1 := by
      unfold s1
      refine MemoriesCanonical.foldl (fun s a hs => ?_) _ h
      split
      · exact hs.withdraw _ _
      · exact hs
    have hs2 : MemoriesCanonical s2 := hs1.moveMembers _ _ _ _
    have hs3 : MemoriesCanonical s3 := by
      unfold s3
      refine MemoriesCanonical.foldl (fun s a hs => ?_) _ hs2
      split
      · extract_lets t1 s4
        have hs4 : MemoriesCanonical s4 := hs.setParty _ _
        exact .ite hs4 (hs4.addArrival _ _ _)
      · exact hs
    refine MemoriesCanonical.foldl (fun s a hs => ?_) _ hs3
    split
    · exact hs.checkBar _ _
    · exact hs

theorem MemoriesCanonical.ofGot {got : Got} (h : got.Canonical) : (ImageRead.ofGot got).Canonical := by
  cases got with
  | ok x s => exact h
  | hold ea s => exact h
  | busy s => trivial
  | fault c ea s => exact h

theorem MemoriesCanonical.readImage {s : State} (h : MemoriesCanonical s) (l : Launch) (g : Ag) (image nv : Nat) :
    (readImage s l g image nv).Canonical := by
  unfold Machine.readImage
  split
  · exact h
  · rename_i hr
    split
    · rename_i r hr1
      have hr : r.Canonical := (h.readWords _ _ _ _).of_eq hr1
      exact MemoriesCanonical.ofGot hr
    · rename_i t hr1
      have ht : MemoriesCanonical t := (h.readWords _ _ _ _).of_eq hr1
      extract_lets size
      split
      · exact ht
      · split
        · rename_i r hr3
          have hr : r.Canonical := (ht.readWords _ _ _ _).of_eq hr3
          exact MemoriesCanonical.ofGot hr
        · rename_i t1 hr3
          have ht1 : MemoriesCanonical t1 := (ht.readWords _ _ _ _).of_eq hr3
          split
          · exact ht1
          · exact ht1

theorem MemoriesCanonical.restoreParty {s : State} (h : MemoriesCanonical s) (slot record : Nat) (b : Block)
    (e : SavedParty) (p : Party) (copies : List SavedCopy) (mask : Nat) :
    MemoriesCanonical (restoreParty s slot record b e p copies mask) := by
  unfold Machine.restoreParty
  extract_lets s1
  have hs1 : MemoriesCanonical s1 := by
    unfold s1
    split
    · exact h.setBlock _
    · exact h
  exact (hs1.installRestore _ _ _ _ _ _).rejoin _ _ _

theorem MemoriesCanonical.execBindRestore {s : State} (h : MemoriesCanonical s) :
    AnswersCanonical (execBindRestore s) := by
  unfold Machine.execBindRestore
  split
  · split
    · split
      · trivial
      · extract_lets image rank nv ok lost
        split
        · rename_i t hr4
          have ht : MemoriesCanonical t := (h.readImage _ _ _ _).of_eq hr4
          exact (ht.restoreParty _ _ _ _ _ _ _).whenEnabled _ _
        · rename_i t hr4
          have ht : MemoriesCanonical t := (h.readImage _ _ _ _).of_eq hr4
          exact (ht.restoreParty _ _ _ _ _ _ _).whenEnabled _ _
        · extract_lets began s1
          have hs1 : MemoriesCanonical s1 := h.keepHold _
          split
          · exact (hs1.restoreParty _ _ _ _ _ _ _).whenEnabled _ _
          · exact (hs1.holdImage _ _).whenEnabled _ _
        · trivial
    · trivial
  · trivial

theorem MemoriesCanonical.execRestoreStart {s : State} (h : MemoriesCanonical s) (slot : Nat) :
    AnswersCanonical (execRestoreStart slot s) := by
  unfold Machine.execRestoreStart
  extract_lets k
  split
  · trivial
  · exact ((((h.setSlot _ _).reissueCopies _ _ _).acquire _ _).enterRun _).whenEnabled _ _

end Sys2Proof.Machine
end

section
/-! The functions of Sys2Proof/Machine/Migrate.lean keep the memories canonical. -/

namespace Sys2Proof.Machine

theorem MemoriesCanonical.migrEnd {s : State} (h : MemoriesCanonical s) (cx : Cx) (x : Nat) :
    MemoriesCanonical (Cx.migrEnd cx s x) :=
  h.mapGroup _ _

theorem MemoriesCanonical.migrMove {s : State} (h : MemoriesCanonical s) (cx : Cx) (m : Migr) :
    MemoriesCanonical (migrMove s cx m) := by
  unfold Machine.migrMove
  extract_lets old status s1
  have hs1 : MemoriesCanonical s1 := (h.migrEnd _ _).cutShadows _ _
  split
  · exact hs1
  · exact (((hs1.installRestore _ _ _ _ _ _).setSlot _ _).moveMembers _ _ _ _).clearSlot _

theorem MemoriesCanonical.execMigr {s : State} (h : MemoriesCanonical s) (d a b : BitVec 8) :
    AnswersCanonical (execMigr d a b s) := by
  unfold Machine.execMigr
  refine MemoriesCanonical.runWord h _ (fun cx => ?_)
  extract_lets +onlyGivenNames o cur
  split
  · exact .ite h (.ite ((h.dropMigr _).migrEnd _ _) ((h.setSlot _ _).migrMove _ _))
  · split
    · exact h.trapAll _ _
    · split
      · exact h.migrEnd _ _
      · split
        · exact h.holdGroup _ _
        · extract_lets +onlyGivenNames core0
          split
          · exact h.migrEnd _ _
          · split
            · exact h.migrEnd _ _
            · split
              · exact h.migrEnd _ _
              · split
                · exact h.migrEnd _ _
                · exact (h.setSlot _ _).setSlot _ _

end Sys2Proof.Machine
end

section
/-! The functions of Sys2Proof/Machine/Prefix.lean keep the memories canonical. -/

namespace Sys2Proof.Machine

theorem MemoriesCanonical.execXPrefix {s : State} (h : MemoriesCanonical s) (fields : BitVec 24) :
    AnswersCanonical (execXPrefix fields s) := by
  unfold Machine.execXPrefix
  split
  · trivial
  · split
    · exact h.trapAll _ _
    · exact h.of_eq rfl rfl

theorem MemoriesCanonical.execUnassignedUniformOpcode {s : State} (h : MemoriesCanonical s) (word : Word) :
    AnswersCanonical (execUnassignedUniformOpcode word s) := by
  unfold Machine.execUnassignedUniformOpcode
  split
  · trivial
  · exact h.trapAll _ _

end Sys2Proof.Machine
end

section
/-! The functions of Sys2Proof/Machine/Sched.lean keep the memories canonical. -/

namespace Sys2Proof.Machine

theorem MemoriesCanonical.segFailedTrap {s : State} (h : MemoriesCanonical s) (slot : Nat) (pc : Pc)
    (tids : List Nat) (a : Nat) : MemoriesCanonical (segFailedTrap s slot pc tids a) := by
  unfold Machine.segFailedTrap
  split
  · exact h
  · exact h.setParty _ _

theorem MemoriesCanonical.finishStep {s : State} (h : MemoriesCanonical s) : MemoriesCanonical (finishStep s) := by
  unfold Machine.finishStep
  extract_lets s1 t
  have hs1 : MemoriesCanonical s1 := by
    unfold s1
    split
    · exact h
    · split
      · exact h
      · exact h.setParty _ _
  have ht : MemoriesCanonical t := hs1.of_eq rfl rfl
  exact .ite ht (ht.stageDue)

end Sys2Proof.Machine
end

section
/-! The functions of Sys2Proof/Machine/Errors.lean keep the memories canonical. -/

namespace Sys2Proof.Machine

theorem MemoriesCanonical.reportUnit {s : State} (h : MemoriesCanonical s) (u : ErrUnit) (kind code addr : Nat) :
    MemoriesCanonical (reportUnit s u kind code addr) :=
  h.reportEvent _ _ _ _ _ _

theorem MemoriesCanonical.reportDone {s : State} (h : MemoriesCanonical s) (u : ErrUnit) (code addr : Nat) :
    MemoriesCanonical (reportDone s u code addr) :=
  h.reportAction _ _ _ _ _

theorem MemoriesCanonical.retireRow {s : State} (h : MemoriesCanonical s) (stack pc bank row addr : Nat) :
    MemoriesCanonical (retireRow s stack pc bank row addr) := by
  unfold Machine.retireRow
  extract_lets +onlyGivenNames k
  split
  · exact (h.setStack _ _).reportDone _ _ _
  · extract_lets +onlyGivenNames s1
    have hs1 : MemoriesCanonical s1 := h.setStack _ _
    refine MemoriesCanonical.reportDone ?_ _ _ _
    exact hs1.of_eq rfl rfl

theorem MemoriesCanonical.retrainLane {s : State} (h : MemoriesCanonical s) (c : Nat) :
    MemoriesCanonical (retrainLane s c) := by
  unfold Machine.retrainLane
  extract_lets l times off s1 s2
  have hs1 : MemoriesCanonical s1 := h.of_eq rfl rfl
  have hs2 : MemoriesCanonical s2 := hs1.of_eq rfl rfl
  exact hs2.reportDone _ _ _

theorem MemoriesCanonical.repairSlot {s : State} (h : MemoriesCanonical s) (slot : Nat) :
    MemoriesCanonical (repairSlot s slot) := by
  unfold Machine.repairSlot
  extract_lets k
  exact .ite ((h.setSlot _ _).reportDone _ _ _) (h.setSlot _ _)

theorem MemoriesCanonical.repairWord {s : State} (h : MemoriesCanonical s) (core : Nat) (spare : Bool) :
    MemoriesCanonical (repairWord s core spare) :=
  .ite h (h.setCore_same rfl rfl)

theorem MemoriesCanonical.takeAction {s : State} (h : MemoriesCanonical s) (u : ErrUnit) (addr : Nat)
    (spare : Bool) : MemoriesCanonical (takeAction s u addr spare) := by
  unfold Machine.takeAction
  split
  · exact h.retireRow _ _ _ _ _
  · exact h.retrainLane _
  · exact h.repairSlot _
  · exact h.repairWord _ _
  · exact h.repairWord _ _
  · exact h.repairWord _ _
  · exact h.repairWord _ _
  · exact h
  · exact h

theorem MemoriesCanonical.countRegs {s : State} (h : MemoriesCanonical s) (u : ErrUnit) :
    MemoriesCanonical (countRegs s u) := by
  unfold Machine.countRegs
  split
  · exact h.setCore_same rfl rfl
  · exact h.setCore_same rfl rfl
  · exact h.setCore_same rfl rfl
  all_goals exact h

theorem MemoriesCanonical.execCorrectedError {s : State} (h : MemoriesCanonical s) :
    AnswersCanonical (execCorrectedError s) := by
  unfold Machine.execCorrectedError
  split
  · extract_lets t
    have ht : MemoriesCanonical t := h.countRegs _
    refine MemoriesCanonical.whenEnabled ?_ _ _
    split
    · exact ht.reportUnit _ _ _ _
    · extract_lets times t1
      have ht1 : MemoriesCanonical t1 := ht.of_eq rfl rfl
      exact .ite ((ht1.reportUnit _ _ _ _).takeAction _ _ _) (ht1.reportUnit _ _ _ _)
  · trivial

theorem MemoriesCanonical.loseData {s : State} (h : MemoriesCanonical s) (u : ErrUnit) (addr : Nat) :
    MemoriesCanonical (loseData s u addr) := by
  unfold Machine.loseData
  split
  · exact h.of_eq rfl rfl
  · split
    · extract_lets u
      have hu : MemoriesCanonical u := h.delL2 _ _
      exact hu.of_eq rfl rfl
    · extract_lets u
      have hu : MemoriesCanonical u := h.delL2 _ _
      exact hu.of_eq rfl rfl
    all_goals exact h.delL2 _ _
  all_goals exact h

theorem MemoriesCanonical.abortMigrations {s : State} (h : MemoriesCanonical s) :
    MemoriesCanonical (abortMigrations s) := by
  unfold Machine.abortMigrations
  refine MemoriesCanonical.foldl (fun s a hs => ?_) _ h
  split
  · exact .ite (hs.abortMigration _ _) hs
  · exact hs

theorem MemoriesCanonical.consume {s : State} (h : MemoriesCanonical s) (u : ErrUnit) (c : Consumer) :
    OptionHolds MemoriesCanonical (consume s u c) := by
  cases c with
  | nothing => exact h
  | next =>
    rw [Machine.consume]
    split
    · exact h.of_eq rfl rfl
    · trivial
  | op id =>
    rw [Machine.consume]
    split
    · trivial
    · split
      · exact h.setOp _
      · trivial
  | group slot tids =>
    rw [Machine.consume]
    split
    · trivial
    · split
      · exact h.trapAll _ _
      · trivial

theorem MemoriesCanonical.execUncorrectableError {s : State} (h : MemoriesCanonical s) :
    AnswersCanonical (execUncorrectableError s) := by
  unfold Machine.execUncorrectableError
  split
  · split
    · trivial
    · rename_i t hr1
      have ht : MemoriesCanonical t := (h.consume _ _).of_eq hr1
      extract_lets t1 t2
      have ht1 : MemoriesCanonical t1 := (ht.loseData _ _).abortMigrations
      have ht2 : MemoriesCanonical t2 := by
        unfold t2
        split
        · exact ht1.of_eq rfl rfl
        · exact ht1
      exact ((ht2.reportUnit _ _ _ _).takeAction _ _ _).whenEnabled _ _
  · trivial

theorem MemoriesCanonical.execLaneRetrainDone {s : State} (h : MemoriesCanonical s) :
    AnswersCanonical (execLaneRetrainDone s) := by
  unfold Machine.execLaneRetrainDone
  split
  · extract_lets l
    refine MemoriesCanonical.whenEnabled ?_ _ _
    exact h.of_eq rfl rfl
  · trivial

theorem MemoriesCanonical.execErrorLogMove {s : State} (h : MemoriesCanonical s) :
    AnswersCanonical (execErrorLogMove s) := by
  unfold Machine.execErrorLogMove
  split
  · trivial
  · extract_lets tail head at_ t
    have ht : MemoriesCanonical t := (h.dirWrite _ _ _).dirWrite _ _ _
    clear_value t
    refine MemoriesCanonical.whenEnabled ?_ _ _
    exact ht.of_eq rfl rfl

end Sys2Proof.Machine
end

section
/-! The functions of Sys2Proof/Machine/Validate.lean keep the memories canonical. -/

namespace Sys2Proof.Machine

theorem MemoriesCanonical.bindRead {s : State} (h : MemoriesCanonical s) (l : Launch) (code ea n align : Nat) :
    ExceptHolds (fun e => MemoriesCanonical e.2) (fun r => MemoriesCanonical r.2) (bindRead s l code ea n align) := by
  unfold Machine.bindRead
  split
  · exact h
  · split
    all_goals
      rename_i hr1
      exact ((h.readEa _ _ _).of_eq hr1 :)

theorem MemoriesCanonical.readRings {s : State} (h : MemoriesCanonical s) (l : Launch) (rs : List Nat) :
    ExceptHolds (fun e => MemoriesCanonical e.2) MemoriesCanonical (readRings l rs s) := by
  induction rs generalizing s with
  | nil => exact h
  | cons r rs ih =>
    rw [Machine.readRings]
    split
    · exact ih h
    · refine (h.bindRead l 8 r 64 1).bind fun r hr => ?_
      dsimp only
      split
      · exact hr
      · exact ih hr

theorem MemoriesCanonical.readLayouts {s : State} (h : MemoriesCanonical s) (l : Launch) (n i : Nat) :
    ExceptHolds (fun e => MemoriesCanonical e.2) (fun r => MemoriesCanonical r.2) (readLayouts l n i s) := by
  induction n generalizing s i with
  | zero => exact h
  | succ n ih =>
    rw [Machine.readLayouts]
    refine (h.bindRead l 9 _ 128 1).bind fun r hr => ?_
    dsimp only
    split
    · exact hr
    · exact (ih hr (i + 1)).bind fun rs hrs => hrs

theorem MemoriesCanonical.readCounts {s : State} (h : MemoriesCanonical s) (l : Launch) (table n b : Nat) :
    ExceptHolds (fun e => MemoriesCanonical e.2) (fun r => MemoriesCanonical r.2) (readCounts l table n b s) := by
  induction n generalizing s b with
  | zero => exact h
  | succ n ih =>
    rw [Machine.readCounts]
    exact (h.bindRead l 12 _ 4 4).bind fun x hx => (ih hx (b + 1)).bind fun xs hxs => hxs

theorem MemoriesCanonical.readTables {s : State} (h : MemoriesCanonical s) (l : Launch) (d n r : Nat) :
    ExceptHolds (fun e => MemoriesCanonical e.2) (fun r => MemoriesCanonical r.2) (readTables l d n r s) := by
  induction n generalizing s r with
  | zero => exact h
  | succ n ih =>
    rw [Machine.readTables]
    split
    · exact ExceptHolds.bind (ih h (r + 1)) fun cs hcs => hcs
    · exact (h.readCounts l _ _ 0).bind fun c hc => (ih hc (r + 1)).bind fun cs hcs => hcs

theorem MemoriesCanonical.readDet {s : State} (h : MemoriesCanonical s) (l : Launch) :
    ExceptHolds (fun e => MemoriesCanonical e.2) (fun r => MemoriesCanonical r.2.2) (readDet s l) := by
  unfold Machine.readDet
  split
  · exact h
  · refine (h.bindRead l 12 _ 128 64).bind fun d hd => ?_
    dsimp only
    split
    · exact hd
    · refine (hd.readTables l _ _ 0).bind fun cs hcs => ?_
      split
      · exact hcs
      · exact hcs

theorem MemoriesCanonical.validate {s : State} (h : MemoriesCanonical s) (l : Launch) (pmax : Nat) :
    ExceptHolds (fun e => MemoriesCanonical e.2) (fun r => MemoriesCanonical r.2) (validate s l pmax) := by
  unfold Machine.validate
  iterate 7
    refine ExceptHolds.ite h ?_
  refine (h.bindRead l 8 l.ringT 40 1).bind fun table ht => ?_
  refine ExceptHolds.ite ht ?_
  refine (ht.readRings l _).bind fun t2 ht2 => ?_
  refine ExceptHolds.ite ht2 ?_
  refine (ht2.readLayouts l _ 0).bind fun lays hl => ?_
  refine ExceptHolds.ite hl ?_
  refine (hl.bindRead l 11 l.argAddr 128 16).bind fun args ha => ?_
  exact (ha.readDet _).bind fun d hd => hd

theorem MemoriesCanonical.takeRecord {s : State} (h : MemoriesCanonical s) (k : Nat) (q : Queue) (head lid : Nat) :
    (takeRecord s k q head lid).Canonical := by
  unfold Machine.takeRecord
  extract_lets s1
  have hs1 : MemoriesCanonical s1 := h.of_eq rfl rfl
  exact hs1.writeEa _ _ _ _

theorem MemoriesCanonical.noteWait {s : State} (h : MemoriesCanonical s) (lid : Nat) :
    MemoriesCanonical (noteWait s lid) := by
  unfold Machine.noteWait
  split
  · exact h
  · exact h.of_eq rfl rfl

theorem MemoriesCanonical.execLaunchRecordValidate {s : State} (h : MemoriesCanonical s) :
    AnswersCanonical (execLaunchRecordValidate s) := by
  have hadd : ∀ t l, MemoriesCanonical t → MemoriesCanonical { t with launches := t.launches ++ [l] } := fun _ _ ht =>
    ht.of_eq rfl rfl
  unfold Machine.execLaunchRecordValidate
  have hreadEa := @MemoriesCanonical.readEa
  have hvalidate := @MemoriesCanonical.validate
  have htakeRecord := @MemoriesCanonical.takeRecord
  revert hreadEa hvalidate htakeRecord
  induction @Machine.readEa using of_forall with | _ readEa
  induction @Machine.validate using of_forall with | _ validate
  induction @Machine.takeRecord using of_forall with | _ takeRecord
  intro hreadEa hvalidate htakeRecord
  split
  · rename_i k _ _
    split
    · trivial
    · rename_i q _
      extract_lets up
      split
      · exact h.heldNext _ _ _
      · trivial
      · trivial
      · rename_i x t hr
        have ht : MemoriesCanonical t := (hreadEa (h.acquire _ _) _ _ _).of_eq hr
        extract_lets cb go
        split
        · exact h.heldNext _ _ _
        · trivial
        · trivial
        · rename_i record u hr
          have hu : MemoriesCanonical u := (hreadEa ht _ _ _).of_eq hr
          extract_lets l take
          have htake : ∀ {v} {f : State → State}, MemoriesCanonical v → (∀ w, MemoriesCanonical w → MemoriesCanonical (f w)) →
              AnswersCanonical (take v f) := fun {v f} hv hf => by
            unfold take
            split
            · rename_i hr
              exact (hf _ ((htakeRecord hv _ _ _ _).of_eq hr)).refreshEligible.whenEnabled _ _
            · exact h.heldNext _ _ _
            · trivial
            · trivial
          split
          · rename_i m v hr
            have hv : MemoriesCanonical v := (hvalidate hu _ _).of_eq hr
            exact htake hv fun w hw => (hadd w m hw).reportLaunch _ _ _
          · exact ((h.keepHold _).noteWait _).whenEnabled _ _
          · trivial
          · exact htake hu fun w hw => hw.reportLaunch _ _ _
  · trivial

theorem MemoriesCanonical.execDependenceRead {s : State} (h : MemoriesCanonical s) :
    AnswersCanonical (execDependenceRead s) := by
  unfold Machine.execDependenceRead
  split
  · split
    · trivial
    · extract_lets go
      split
      · rename_i t hr2
        have ht : MemoriesCanonical t := ((h.acquire _ _).readEa _ _ _).of_eq hr2
        exact MemoriesCanonical.whenEnabled (.ite ((ht.setLaunch _).refreshEligible) ht) _ _
      · exact (h.keepHold _).whenEnabled _ _
      · exact h.whenEnabled _ _
      · exact h.whenEnabled _ _
  · trivial

end Sys2Proof.Machine
end

section
/-! The functions of Sys2Proof/Machine/External.lean keep the memories canonical. -/

namespace Sys2Proof.Machine

theorem MemoriesCanonical.outAccess {s : State} (h : MemoriesCanonical s) (ctx idx e off : Nat) (write : Bool)
    {f : State → Nat → Nat × State} (hf : ∀ s ppa, MemoriesCanonical s → MemoriesCanonical (f s ppa).2) :
    (outAccess s ctx idx e off write f).Canonical := by
  rw [show @Machine.outAccess = delta% @Machine.outAccess from rfl]
  beta_reduce
  split
  · exact hf _ _ (h.noteUse _ _ _ _)
  · exact h
  · exact h
  · exact h
  · exact h.startCow _
  · exact h

theorem MemoriesCanonical.answerPeer {s : State} (h : MemoriesCanonical s) (r : PeerReq) (status value : Nat) :
    MemoriesCanonical (answerPeer s r status value) :=
  h.send _ _ _

theorem MemoriesCanonical.peerDo {s : State} (h : MemoriesCanonical s) (r : PeerReq) (ppa : Nat) :
    MemoriesCanonical (peerDo r s ppa).2 := by
  unfold Machine.peerDo
  split
  · exact h.dirRead _ _
  · exact h.dirWrite _ _ _
  · exact h.dirWrite _ _ _

theorem MemoriesCanonical.peerClean {s : State} (h : MemoriesCanonical s) (r : PeerReq) (e : Nat) :
    (peerClean s r e).Canonical := by
  unfold Machine.peerClean
  split
  · exact h
  · extract_lets lo hi
    split
    · exact .foldl (fun _ _ hs => .ite ((hs.noteSpread _ _).discardLine _) ((hs.noteSpread _ _).flushLine _ _)) _ h
    · exact h
    · exact h.startCow _
    all_goals exact h

theorem MemoriesCanonical.podMessage {s : State} (h : MemoriesCanonical s) (r : PeerReq) :
    MemoriesCanonical (podMessage s r) := by
  unfold Machine.podMessage
  extract_lets +onlyGivenNames up
  split
  · exact (h.addArrival _ _ _).checkBar _ _
  · extract_lets +onlyGivenNames i
    split
    · refine MemoriesCanonical.checkInst ?_ _
      exact h.of_eq rfl rfl
  · exact h.addArrival _ _ _

theorem MemoriesCanonical.execPeerAccess {s : State} (h : MemoriesCanonical s) :
    AnswersCanonical (execPeerAccess s) := by
  unfold Machine.execPeerAccess
  split
  · rename_i r _
    split
    · exact (h.podMessage _).whenEnabled _ _
    · extract_lets go
      split
      · exact (h.answerPeer _ _ _).whenEnabled _ _
      · rename_i e _
        have hgot : Got.Canonical (if isCleanReq r then Machine.peerClean s r e
            else Machine.outAccess s r.ctx r.buf e r.offset (r.op != 0) (Machine.peerDo r)) := by
          split
          · exact h.peerClean _ _
          · exact h.outAccess _ _ _ _ _ fun _ _ hs => hs.peerDo _ _
        split
        · rename_i hr
          exact ((hgot.of_eq hr : MemoriesCanonical _).answerPeer _ _ _).whenEnabled _ _
        · rename_i hr
          exact ((hgot.of_eq hr : MemoriesCanonical _).answerPeer _ _ _).whenEnabled _ _
        · exact h.heldNext _ _ _
        · trivial
  · trivial

theorem MemoriesCanonical.hostWrite {s : State} (h : MemoriesCanonical s) (ctx idx e f off n x : Nat) :
    (hostWrite ctx idx e f s off n x).Canonical := by
  rw [show @Machine.hostWrite = delta% @Machine.hostWrite by delta Machine.hostWrite; rfl]
  beta_reduce
  refine brecOn_holds
    (P := fun _ (r : State → Nat → Nat → Nat → Got) => ∀ s off n x, MemoriesCanonical s → (r s off n x).Canonical)
    (fun f below ih s off n x h => ?_) f s off n x h
  unfold Machine.hostWrite._f
  have houtAccess := @MemoriesCanonical.outAccess
  revert houtAccess
  induction @Machine.outAccess using of_forall with | _ outAccess
  intro houtAccess
  split
  · exact h
  · rename_i below ih
    obtain ⟨rest, _⟩ := below
    have again : ∀ s off n x, MemoriesCanonical s → (rest s off n x).Canonical := ih
    split
    · exact h
    · extract_lets c
      split
      · rename_i t2 hr2
        have ht2 : MemoriesCanonical t2 := (houtAccess h _ _ _ _ _ (fun _ _ a => a.dirWrite _ _ _)).of_eq hr2
        exact again _ _ _ _ ht2
      · exact houtAccess h _ _ _ _ _ (fun _ _ a => a.dirWrite _ _ _)

theorem MemoriesCanonical.hostReadFrom {s : State} (h : MemoriesCanonical s) (ctx idx e f off n : Nat) :
    (hostReadFrom ctx idx e f s off n).Canonical := by
  rw [show @Machine.hostReadFrom = delta% @Machine.hostReadFrom by delta Machine.hostReadFrom; rfl]
  beta_reduce
  refine brecOn_holds
    (P := fun _ (r : State → Nat → Nat → Got) => ∀ s off n, MemoriesCanonical s → (r s off n).Canonical)
    (fun f below ih s off n h => ?_) f s off n h
  unfold Machine.hostReadFrom._f
  have houtAccess := @MemoriesCanonical.outAccess
  revert houtAccess
  induction @Machine.outAccess using of_forall with | _ outAccess
  intro houtAccess
  split
  · exact h
  · rename_i below ih
    obtain ⟨rest, _⟩ := below
    have again : ∀ s off n, MemoriesCanonical s → (rest s off n).Canonical := ih
    split
    · exact h
    · extract_lets c
      split
      · rename_i t2 hr2
        have ht2 : MemoriesCanonical t2 := (houtAccess h _ _ _ _ _ (fun _ _ a => a.dirRead _ _)).of_eq hr2
        split
        · rename_i hr3
          exact ((again _ _ _ ht2).of_eq hr3 :)
        · exact again _ _ _ ht2
      · exact houtAccess h _ _ _ _ _ (fun _ _ a => a.dirRead _ _)

theorem MemoriesCanonical.hostRefuse {s : State} (h : MemoriesCanonical s) (conn : Nat) :
    MemoriesCanonical (hostRefuse s conn) :=
  h.send _ _ _

theorem MemoriesCanonical.hostFault {s : State} (h : MemoriesCanonical s) (conn cause ea : Nat) :
    MemoriesCanonical (hostFault s conn cause ea) :=
  (h.reportEvent _ _ _ _ _ _).hostRefuse _

theorem MemoriesCanonical.hostAtomic {s : State} (h : MemoriesCanonical s) (ctx idx e va code x y : Nat) :
    (hostAtomic s ctx idx e va code x y).Canonical :=
  h.outAccess _ _ _ _ _ (fun _ _ a => a.dirWrite _ _ _)

theorem MemoriesCanonical.hostRun {s : State} (h : MemoriesCanonical s) (m : HostMsg) (ctx idx e : Nat) :
    (HostMsg.run m s ctx idx e).Canonical := by
  unfold Machine.HostMsg.run
  split
  · exact h.hostWrite _ _ _ _ _ _ _
  · exact h.hostReadFrom _ _ _ _ _ _
  · exact h.hostAtomic _ _ _ _ _ _ _
  · exact h.hostAtomic _ _ _ _ _ _ _

theorem MemoriesCanonical.hostAnswer {s : State} (h : MemoriesCanonical s) (m : HostMsg) (conn x : Nat) :
    MemoriesCanonical (HostMsg.answer m s conn x) := by
  unfold Machine.HostMsg.answer
  split
  all_goals exact h.send _ _ _

theorem MemoriesCanonical.hostTurn {s : State} (h : MemoriesCanonical s) (conn : Nat) (c : Conn) (m : HostMsg) :
    (hostTurn s conn c m).Canonical := by
  unfold Machine.hostTurn
  split
  · exact h.send _ _ _
  · split
    · split
      · exact h.hostRefuse _
      · split
        · rename_i t hr3
          have ht : MemoriesCanonical t := (h.hostRun _ _ _ _).of_eq hr3
          exact ht.hostAnswer _ _ _
        · rename_i t hr3
          have ht : MemoriesCanonical t := (h.hostRun _ _ _ _).of_eq hr3
          exact ht.hostFault _ _ _
        · exact h.hostRun _ _ _ _

theorem MemoriesCanonical.hostArrive {s : State} (h : MemoriesCanonical s) (name : String) (conn : Nat)
    (m : HostMsg) : AnswersCanonical (hostArrive name s conn m) := by
  unfold Machine.hostArrive
  extract_lets keep
  have hkeep : ∀ {t} (_ : MemoriesCanonical t) since, MemoriesCanonical (keep t since) := fun ht _ => ht.of_eq rfl rfl
  split
  · trivial
  · rename_i c _
    split
    · exact (hkeep h none).whenEnabled _ _
    · have hturn := h.hostTurn conn c m
      split
      · rename_i hr
        exact (hturn.of_eq hr : MemoriesCanonical _).whenEnabled _ _
      · exact (hkeep (h.keepHold _) _).whenEnabled _ _
      · exact (hkeep h none).whenEnabled _ _
      · exact (hkeep h none).whenEnabled _ _

theorem MemoriesCanonical.hostRetry {s : State} (h : MemoriesCanonical s) (name : String) (i : Nat)
    (mine : HostMsg → Bool) : AnswersCanonical (hostRetry name s i mine) := by
  unfold Machine.hostRetry
  split
  · trivial
  · rename_i held _
    split
    · trivial
    · rename_i c _
      extract_lets go ended
      have hended : ∀ {t}, MemoriesCanonical t → MemoriesCanonical (ended t) := fun ht => ht.of_eq rfl rfl
      have hturn := h.hostTurn held.conn c held.msg
      split
      · rename_i hr
        exact (hended (hturn.of_eq hr)).whenEnabled _ _
      · trivial
      · trivial
      · split
        · rename_i t _ _ _
          extract_lets u
          have hu : MemoriesCanonical u := h.keepHold t
          refine MemoriesCanonical.whenEnabled ?_ _ _
          exact hu.of_eq rfl rfl
        · split
          · exact (hended (h.hostFault _ _ _)).whenEnabled _ _
          · exact h.heldNext _ _ _

theorem MemoriesCanonical.execHostRdmaWrite {s : State} (h : MemoriesCanonical s) :
    AnswersCanonical (execHostRdmaWrite s) := by
  unfold Machine.execHostRdmaWrite
  split
  · exact h.hostArrive _ _ _
  · exact h.hostRetry _ _ _
  · trivial

theorem MemoriesCanonical.execHostRdmaWriteImm {s : State} (h : MemoriesCanonical s) :
    AnswersCanonical (execHostRdmaWriteImm s) := by
  unfold Machine.execHostRdmaWriteImm
  split
  · exact h.hostArrive _ _ _
  · exact h.hostRetry _ _ _
  · trivial

theorem MemoriesCanonical.execHostRdmaRead {s : State} (h : MemoriesCanonical s) :
    AnswersCanonical (execHostRdmaRead s) := by
  unfold Machine.execHostRdmaRead
  split
  · exact h.hostArrive _ _ _
  · exact h.hostRetry _ _ _
  · trivial

theorem MemoriesCanonical.execHostAtomicCas {s : State} (h : MemoriesCanonical s) :
    AnswersCanonical (execHostAtomicCas s) := by
  unfold Machine.execHostAtomicCas
  split
  · exact h.hostArrive _ _ _
  · exact h.hostRetry _ _ _
  · trivial

theorem MemoriesCanonical.execHostAtomicFetchAdd {s : State} (h : MemoriesCanonical s) :
    AnswersCanonical (execHostAtomicFetchAdd s) := by
  unfold Machine.execHostAtomicFetchAdd
  split
  · exact h.hostArrive _ _ _
  · exact h.hostRetry _ _ _
  · trivial

theorem MemoriesCanonical.placePacket {s : State} (h : MemoriesCanonical s) (conn k : Nat) (q : Queue)
    (cb : QueueCb) (record : Nat) : (placePacket s conn k q cb record).Canonical := by
  rw [show @Machine.placePacket = delta% @Machine.placePacket from rfl]
  beta_reduce
  split
  · rename_i t hr
    have ht : MemoriesCanonical t := (h.writeEa _ _ _ _).of_eq hr
    split
    · rename_i t1 hr1
      have ht1 : MemoriesCanonical t1 := (ht.writeEa _ _ _ _).of_eq hr1
      exact ht1.of_eq rfl rfl
    · exact ht.writeEa _ _ _ _
  · exact h.writeEa _ _ _ _

theorem MemoriesCanonical.execLaunchPacket {s : State} (h : MemoriesCanonical s) :
    AnswersCanonical (execLaunchPacket s) := by
  unfold Machine.execLaunchPacket
  have hreadEa := @MemoriesCanonical.readEa
  have hplacePacket := @MemoriesCanonical.placePacket
  revert hreadEa hplacePacket
  induction @Machine.readEa using of_forall with | _ readEa
  induction @Machine.placePacket using of_forall with | _ placePacket
  intro hreadEa hplacePacket
  split
  · extract_lets k word up nack
    split
    · split
      · exact (h.send _ _ _).whenEnabled _ _
      · trivial
    · split
      · exact h.heldNext _ _ _
      · trivial
      · rename_i t hr2
        have ht : MemoriesCanonical t := (hreadEa h _ _ _).of_eq hr2
        exact (ht.send _ _ _).whenEnabled _ _
      · rename_i t hr2
        have ht : MemoriesCanonical t := (hreadEa h _ _ _).of_eq hr2
        extract_lets cb
        split
        · exact (ht.send _ _ _).whenEnabled _ _
        · split
          · rename_i t1 hr4
            have ht1 : MemoriesCanonical t1 := (hplacePacket ht _ _ _ _ _).of_eq hr4
            exact ht1.whenEnabled _ _
          · exact h.heldNext _ _ _
          · trivial
          · rename_i t1 hr4
            have ht1 : MemoriesCanonical t1 := (hplacePacket ht _ _ _ _ _).of_eq hr4
            exact (ht1.send _ _ _).whenEnabled _ _
  · trivial

theorem MemoriesCanonical.ranged {s t : State} (h : MemoriesCanonical s) (ht : MemoriesCanonical t) (ok : Bool) :
    MemoriesCanonical (ranged s ok t) :=
  .ite ht h

theorem MemoriesCanonical.writeReg {s : State} (h : MemoriesCanonical s) (r : MgmtReg) (v : Nat) :
    MemoriesCanonical (writeReg s r v) := by
  unfold Machine.writeReg
  split
  · exact h.of_eq rfl rfl
  · refine MemoriesCanonical.ranged h ?_ _
    exact h.of_eq rfl rfl
  · exact h.of_eq rfl rfl
  · refine MemoriesCanonical.ranged h ?_ _
    exact h.of_eq rfl rfl
  · refine MemoriesCanonical.ranged h ?_ _
    exact h.of_eq rfl rfl
  · exact h.of_eq rfl rfl
  · refine MemoriesCanonical.ranged h ?_ _
    exact h.of_eq rfl rfl
  · refine MemoriesCanonical.ranged h ?_ _
    exact h.of_eq rfl rfl
  · exact .ite h (.ite (h.of_eq rfl rfl) (h.of_eq rfl rfl))
  · exact .ite h (h.setSlot _ _)
  · exact .ite h (h.writeControl _ _)
  · exact h
  · exact h

theorem MemoriesCanonical.execRegisterWrite {s : State} (h : MemoriesCanonical s) :
    AnswersCanonical (execRegisterWrite s) := by
  unfold Machine.execRegisterWrite
  split
  · exact (h.writeReg _ _).whenEnabled _ _
  · trivial

theorem MemoriesCanonical.shootBuffer {s : State} (h : MemoriesCanonical s) (ctx idx : Nat) :
    MemoriesCanonical (shootBuffer s ctx idx) := by
  unfold Machine.shootBuffer
  extract_lets s1 pages
  have hs1 : MemoriesCanonical s1 := h.of_eq rfl rfl
  exact .foldl (fun _ _ hs => hs.replayHeld _) _ hs1

theorem MemoriesCanonical.putEntry {s : State} (h : MemoriesCanonical s) (ctx idx e : Nat) :
    MemoriesCanonical (putEntry s ctx idx e) :=
  h.of_eq rfl rfl

theorem MemoriesCanonical.clearHistory {s : State} (h : MemoriesCanonical s) (e : Nat) :
    MemoriesCanonical (clearHistory s e) := by
  unfold Machine.clearHistory
  refine MemoriesCanonical.foldl (fun s a hs => ?_) _ h
  refine MemoriesCanonical.foldl (fun s a hs => ?_) _ hs
  split
  · exact .ite hs (hs.writeEntry _ _)
  · exact hs

theorem MemoriesCanonical.installVersioned {s : State} (h : MemoriesCanonical s) (ctx idx e opn : Nat) :
    MemoriesCanonical (installVersioned s ctx idx e opn) := by
  unfold Machine.installVersioned
  extract_lets pub s1 s2 s3
  have hs1 : MemoriesCanonical s1 := h.putEntry _ _ _
  have hs2 : MemoriesCanonical s2 := hs1.mapLeaves _ _ _ _
  have hs3 : MemoriesCanonical s3 := hs2.clearHistory _
  exact hs3.of_eq rfl rfl

theorem MemoriesCanonical.execBufferTableEntryWrite {s : State} (h : MemoriesCanonical s) :
    AnswersCanonical (execBufferTableEntryWrite s) := by
  unfold Machine.execBufferTableEntryWrite
  split
  · split
    · exact ((h.putEntry _ _ _).shootBuffer _ _).whenEnabled _ _
    · exact ((h.installVersioned _ _ _ _).shootBuffer _ _).whenEnabled _ _
    · exact ((h.writeEntry _ _).shootBuffer _ _).whenEnabled _ _
  · trivial

theorem MemoriesCanonical.execLaunchQueueCreate {s : State} (h : MemoriesCanonical s) :
    AnswersCanonical (execLaunchQueueCreate s) := by
  unfold Machine.execLaunchQueueCreate
  split
  · extract_lets q room
    split
    · rename_i t hr1
      have ht : MemoriesCanonical t := (h.writeEa _ _ _ _).of_eq hr1
      refine MemoriesCanonical.whenEnabled ?_ _ _
      exact ht.of_eq rfl rfl
    · exact h.heldNext _ _ _
    · trivial
    · trivial
  · trivial

theorem MemoriesCanonical.execConnectionSetup {s : State} (h : MemoriesCanonical s) :
    AnswersCanonical (execConnectionSetup s) := by
  unfold Machine.execConnectionSetup
  split
  · refine MemoriesCanonical.whenEnabled ?_ _ _
    exact h.of_eq rfl rfl
  · trivial

theorem MemoriesCanonical.execLinkPartnerFallback {s : State} (h : MemoriesCanonical s) :
    AnswersCanonical (execLinkPartnerFallback s) := by
  unfold Machine.execLinkPartnerFallback
  split
  · refine MemoriesCanonical.whenEnabled ?_ _ _
    exact h.of_eq rfl rfl
  · trivial

end Sys2Proof.Machine
end

section
/-! The functions of Sys2Proof/Machine/Place.lean keep the memories canonical. -/

namespace Sys2Proof.Machine

theorem MemoriesCanonical.takePortion {s : State} (h : MemoriesCanonical s) (l : Launch) (blin core : Nat) :
    MemoriesCanonical (takePortion s l blin core).2 := by
  unfold Machine.takePortion
  extract_lets base region c t c' q u
  have ht : MemoriesCanonical t := h.setCore_same rfl rfl
  clear_value t
  refine MemoriesCanonical.ite ht (MemoriesCanonical.bumpGen ?_ _ _)
  exact ht.setCore_same rfl rfl

theorem MemoriesCanonical.takePortions {s : State} (h : MemoriesCanonical s) (l : Launch) (blin n core : Nat) :
    MemoriesCanonical (takePortions l blin n core s).2 := by
  induction n generalizing s core with
  | zero => exact h
  | succ n ih => exact ih (h.takePortion l blin core) (core + 1)

theorem MemoriesCanonical.placeBlock {s : State} (h : MemoriesCanonical s) (l : Launch) (die c r : Nat) :
    OptionHolds MemoriesCanonical (placeBlock s l die c r) := by
  unfold Machine.placeBlock
  split
  · trivial
  · exact (h.takePortions l _ _ _).of_eq rfl rfl

theorem MemoriesCanonical.placeRanks {s : State} (h : MemoriesCanonical s) (l : Launch) (die c n r : Nat) :
    OptionHolds MemoriesCanonical (placeRanks l die c n r s) := by
  induction n generalizing s r with
  | zero => exact h
  | succ n ih =>
    rw [Machine.placeRanks]
    exact (h.placeBlock l die c r).bind fun t ht => ih ht (r + 1)

theorem MemoriesCanonical.placeCluster {s : State} (h : MemoriesCanonical s) (l : Launch) (die c : Nat) :
    OptionHolds MemoriesCanonical (placeCluster s l die c) := by
  unfold Machine.placeCluster
  split
  · trivial
  · exact h.placeRanks l die c _ 0

theorem MemoriesCanonical.placeAnywhere {s : State} (h : MemoriesCanonical s) (l : Launch) (c : Nat) :
    OptionHolds MemoriesCanonical (placeAnywhere s l c) := by
  unfold Machine.placeAnywhere
  cases hd : l.dies.findSome? fun d => Machine.placeCluster s l d c with
  | none => trivial
  | some t =>
    obtain ⟨d, -, ht⟩ := List.exists_of_findSome?_eq_some hd
    exact (h.placeCluster l d c).of_eq ht

theorem MemoriesCanonical.tryPlace {s : State} (h : MemoriesCanonical s) (l : Launch) (die : Nat) :
    OptionHolds (fun r => MemoriesCanonical r.2) (tryPlace s l die) := by
  unfold Machine.tryPlace
  split
  · refine OptionHolds.map (P := MemoriesCanonical) ?_ fun t ht => ht
    exact OptionHolds.foldl (fun s c hs => hs.placeAnywhere l c) _ h
  · split
    · trivial
    · exact (h.placeCluster l die _).map fun t ht => ht

theorem MemoriesCanonical.readV0 {s : State} (h : MemoriesCanonical s) (l : Launch) (n r : Nat) :
    ExceptHolds MemoriesCanonical (fun r => MemoriesCanonical r.2) (readV0 l n r s) := by
  induction n generalizing s r with
  | zero => exact h
  | succ n ih =>
    rw [Machine.readV0]
    have hv := h.readEa (homeAg l) (detAddr l.det r) (detSize l.det r)
    split
    · rename_i hr
      exact (ih (hv.of_eq hr) (r + 1)).map fun _ hs => hs
    all_goals
      rename_i hr
      exact hv.of_eq hr

theorem MemoriesCanonical.startDet {s : State} (h : MemoriesCanonical s) (l : Launch) :
    ExceptHolds MemoriesCanonical (fun r => MemoriesCanonical r.2) (startDet s l) := by
  unfold Machine.startDet
  split
  · exact ((h.acquire _ _).readV0 l _ 0).map fun _ hs => hs
  · exact h

theorem MemoriesCanonical.askV0 {s : State} (h : MemoriesCanonical s) (l : Launch) :
    MemoriesCanonical (askV0 s l) := by
  unfold Machine.askV0
  split
  · exact h.keepHold _
  · exact h

theorem MemoriesCanonical.podNotice {s : State} (h : MemoriesCanonical s) (l : Launch) :
    MemoriesCanonical (podNotice s l) :=
  .ite h (h.send _ _ _)

theorem MemoriesCanonical.afterPlace {s : State} (h : MemoriesCanonical s) (l : Launch) (die : Nat)
    (cs : List Nat) : MemoriesCanonical (afterPlace s l die cs) := by
  unfold Machine.afterPlace
  extract_lets ends s1
  have hs1 : MemoriesCanonical s1 := h.setLaunch _
  exact .foldl (fun _ _ hs => .ite (hs.setDie _ _) hs) _ (.ite (hs1.podNotice _) hs1)

theorem MemoriesCanonical.place? {s : State} (h : MemoriesCanonical s) (die : Nat) (l : Launch) :
    OptionHolds MemoriesCanonical (place? s die l) := by
  unfold Machine.place?
  split
  · trivial
  · rename_i m t hr
    have ht : MemoriesCanonical t := (h.startDet l).of_eq hr
    exact (ht.tryPlace m die).map fun r hr => hr.afterPlace m die r.1

theorem MemoriesCanonical.markFailing {s : State} (h : MemoriesCanonical s) (die : Nat) (ls : List Launch) :
    MemoriesCanonical (markFailing s die ls) :=
  .foldl (fun _ _ hs => .ite (.ite hs (hs.setLaunch _)) (hs.setLaunch _)) _ h

theorem MemoriesCanonical.servePrio {s : State} (h : MemoriesCanonical s) (die : Nat) (ls : List Launch) (p : Nat) :
    MemoriesCanonical (servePrio s die ls p) := by
  induction p with
  | zero => exact h
  | succ p ih =>
    rw [Machine.servePrio]
    split
    · exact ih
    · rename_i l _
      split
      · rename_i t ht
        exact ((h.place? die l).of_eq ht : MemoriesCanonical t).setDie _ _
      · exact h

theorem MemoriesCanonical.schedule {s : State} (h : MemoriesCanonical s) (die : Nat) :
    MemoriesCanonical (schedule s die) := by
  unfold Machine.schedule
  dsimp only
  split
  · exact (h.place? die _).getD (h.askV0 _)
  · exact ((MemoriesCanonical.foldl (fun _ l hs => hs.askV0 l) _ h).markFailing die _).servePrio die _ 8

theorem MemoriesCanonical.execSchedulerPass {s : State} (h : MemoriesCanonical s) :
    AnswersCanonical (execSchedulerPass s) := by
  unfold Machine.execSchedulerPass
  split
  · exact (h.schedule _).whenEnabled _ _
  · trivial

theorem MemoriesCanonical.execReservationIntervalExpiry {s : State} (h : MemoriesCanonical s) :
    AnswersCanonical (execReservationIntervalExpiry s) := by
  unfold Machine.execReservationIntervalExpiry
  split
  · split
    · trivial
    · exact (h.setDie _ _).whenEnabled _ _
  · trivial

end Sys2Proof.Machine
end

section
/-! The functions of Sys2Proof/Machine/Determinism.lean keep the memories canonical. -/

namespace Sys2Proof.Machine

theorem MemoriesCanonical.viewOp {s : State} (h : MemoriesCanonical s) (l : Launch) (b : Block) (o : WbOp) :
    ExceptHolds (fun e => MemoriesCanonical e.2) (fun r => MemoriesCanonical r.2) (viewOp s l b o) := by
  unfold Machine.viewOp
  split
  · exact h
  · split
    · rename_i hr1
      exact ((h.readEa _ _ _).of_eq hr1 :)
    · exact h
    · rename_i t hr1
      have ht : MemoriesCanonical t := (h.readEa _ _ _).of_eq hr1
      split
      · exact h
      · exact ht
    · rename_i hr1
      exact ((h.readEa _ _ _).of_eq hr1 :)

theorem MemoriesCanonical.viewAll {s : State} (h : MemoriesCanonical s) (l : Launch) (lid blin : Nat)
    (os : List WbOp) : ExceptHolds (fun e => MemoriesCanonical e.2) MemoriesCanonical (viewAll l lid blin os s) := by
  induction os generalizing s with
  | nil => exact h
  | cons o os ih =>
    rw [Machine.viewAll]
    split
    · exact h
    · split
      · rename_i hr1
        exact ((h.viewOp _ _ _).of_eq hr1 :)
      · rename_i t hr1
        have ht : MemoriesCanonical t := (h.viewOp _ _ _).of_eq hr1
        exact ih (ht.setBlock _)

theorem MemoriesCanonical.mergeBlock {s : State} (h : MemoriesCanonical s) (l : Launch) (b : Block)
    (m : Nat × Nat × Nat × Nat) :
    ExceptHolds (fun e => MemoriesCanonical e.2) MemoriesCanonical (mergeBlock s l b m) := by
  unfold Machine.mergeBlock
  dsimp only
  refine ((h.setBlock _).viewAll l _ _ _).map fun s hs => ?_
  refine MemoriesCanonical.foldl (fun s r hs => ?_) _ hs
  split
  · exact hs.setPhase _ _
  · exact hs

theorem MemoriesCanonical.leaveClosure {s : State} (h : MemoriesCanonical s) (b : Block)
    (m : Nat × Nat × Nat × Nat) : MemoriesCanonical (leaveClosure s b m) := by
  unfold Machine.leaveClosure
  extract_lets slots
  exact .foldl (fun _ _ hs => hs.leaveBar _ _ _ _) _ h

theorem MemoriesCanonical.execClosureMerge {s : State} (h : MemoriesCanonical s) :
    AnswersCanonical (execClosureMerge s) := by
  unfold Machine.execClosureMerge
  split
  · split
    · split
      · trivial
      · split
        · exact ((h.keepHold _).noteWait _).whenEnabled _ _
        · rename_i t hr4
          have ht : MemoriesCanonical t := (h.mergeBlock _ _ _).of_eq hr4
          extract_lets t1
          have ht1 : MemoriesCanonical t1 := ht.of_eq rfl rfl
          exact MemoriesCanonical.whenEnabled (.ite ht1 (ht1.leaveClosure _ _)) _ _
    · trivial
  · trivial

theorem MemoriesCanonical.applyRetired {s : State} (h : MemoriesCanonical s) (l : Launch) (g : Ag) (o : WbOp) :
    OptionHolds MemoriesCanonical (applyRetired s l g o) := by
  unfold Machine.applyRetired
  split
  · exact h
  · split
    · exact h
    · split
      · exact h
      · trivial
    · split
      · exact h
      · trivial
    · trivial
    · exact h.send _ _ _
    · split
      · exact (h.reach _ _).writePlace _ _ _ _
      · exact (h.reach _ _).rmwPlace _ _ _ _

theorem MemoriesCanonical.retireBlock {s : State} (h : MemoriesCanonical s) (l : Launch) (b : Block) :
    OptionHolds MemoriesCanonical (retireBlock l b s) := by
  unfold Machine.retireBlock
  refine OptionHolds.foldl (fun s r hs => hs.applyRetired l _ _) _ ?_
  exact OptionHolds.foldl (fun s o hs => hs.applyRetired l _ o) _ h

theorem MemoriesCanonical.retireCows {s : State} (h : MemoriesCanonical s) (l : Launch) (bs : List Block) :
    MemoriesCanonical (retireCows s l bs) := by
  unfold Machine.retireCows
  refine MemoriesCanonical.foldl (fun s a hs => ?_) _ h
  refine MemoriesCanonical.foldl (fun s a hs => ?_) _ hs
  split
  · exact hs
  · split
    · exact hs.startCow _
    · exact hs

theorem MemoriesCanonical.execClusterRetire {s : State} (h : MemoriesCanonical s) :
    AnswersCanonical (execClusterRetire s) := by
  unfold Machine.execClusterRetire
  split
  · split
    · trivial
    · rename_i l _
      split
      · trivial
      · extract_lets bs go
        have hret : OptionHolds MemoriesCanonical (bs.foldl (fun (s : Option State) b => s.bind (Machine.retireBlock l b)) (some s)) :=
          OptionHolds.foldl (fun s b hs => hs.retireBlock l b) _ h
        split
        · rename_i t hr
          have ht : MemoriesCanonical t := hret.of_eq hr
          extract_lets u
          have hu : MemoriesCanonical u := ht.setLaunch _
          refine MemoriesCanonical.whenEnabled ?_ _ _
          exact hu.of_eq rfl rfl
        · exact ((h.retireCows _ _).noteWait _).whenEnabled _ _
  · trivial

theorem MemoriesCanonical.loseParty {s : State} (h : MemoriesCanonical s) (l : Launch) (b : Block)
    (q : SavedParty) : MemoriesCanonical (loseParty s l b q) := by
  unfold Machine.loseParty
  extract_lets +onlyGivenNames slot u p live
  extract_lets +onlyGivenNames s1
  have hs1 : MemoriesCanonical s1 := by
    unfold s1
    refine MemoriesCanonical.foldl (fun s a hs => ?_) _ h
    split
    · exact hs.withdraw _ _
    · exact hs
  exact .foldl (fun _ _ hs => hs.leaveInst _ _) _ hs1

theorem MemoriesCanonical.loseParties {s : State} (h : MemoriesCanonical s) (l : Launch) (b : Block)
    (qs : List SavedParty) : MemoriesCanonical (loseParties s l b qs) := by
  unfold Machine.loseParties
  extract_lets +onlyGivenNames s1
  have hs1 : MemoriesCanonical s1 := .foldl (fun _ _ hs => hs.loseParty _ _ _) _ h
  split
  · exact hs1
  · extract_lets +onlyGivenNames gone b2 s2
    have hs2 : MemoriesCanonical s2 := hs1.setBlock _
    exact .ite (.foldl (fun _ _ hs => hs.leaveCore _ _) _ (hs2.endBlock _ _)) hs2

theorem MemoriesCanonical.recordSaved {s : State} (h : MemoriesCanonical s) (l : Launch) (b : Block) :
    MemoriesCanonical (recordSaved s l b) :=
  .foldl (fun _ _ hs => hs.postRing _ _ _ _ _ _ _ _) _ h

theorem MemoriesCanonical.killParties {s : State} (h : MemoriesCanonical s) (lid : Nat) :
    MemoriesCanonical (killParties s lid) := by
  unfold Machine.killParties
  extract_lets s1
  have hs1 : MemoriesCanonical s1 := by
    unfold s1
    refine MemoriesCanonical.foldl (fun s a hs => ?_) _ h
    extract_lets k
    split
    · split
      · exact hs.killParty _ _ _
      · exact hs.killParty _ _ _
      · exact hs.setSlot _ _
      · exact hs.setSlot _ _
      all_goals exact hs
    · exact hs
  refine MemoriesCanonical.foldl (fun s a hs => ?_) _ hs1
  split
  · exact (hs.recordSaved _ _).loseParties _ _ _
  · exact hs

theorem MemoriesCanonical.stopLaunch {s : State} (h : MemoriesCanonical s) (l : Launch) :
    MemoriesCanonical (stopLaunch s l) := by
  unfold Machine.stopLaunch
  extract_lets s1
  have hs1 : MemoriesCanonical s1 := h.setLaunch _
  exact .foldl (fun _ _ hs => .ite (hs.setDie _ _) hs) _ hs1

theorem MemoriesCanonical.execWriteBufferFull {s : State} (h : MemoriesCanonical s) :
    AnswersCanonical (execWriteBufferFull s) := by
  unfold Machine.execWriteBufferFull
  split
  · split
    · extract_lets t t1
      have ht : MemoriesCanonical t := h.stopLaunch _
      have ht1 : MemoriesCanonical t1 := ht.of_eq rfl rfl
      exact (ht1.killParties _).whenEnabled _ _
    · trivial
  · trivial

theorem MemoriesCanonical.execManagementKillLaunch {s : State} (h : MemoriesCanonical s) :
    AnswersCanonical (execManagementKillLaunch s) := by
  unfold Machine.execManagementKillLaunch
  split
  · split
    · trivial
    · refine MemoriesCanonical.whenEnabled ?_ _ _
      split
      · exact ((h.stopLaunch _).killParties _).refreshEligible
      · refine MemoriesCanonical.refreshEligible (MemoriesCanonical.reportLaunch ?_ _ _ _)
        exact h.of_eq rfl rfl
  · trivial

end Sys2Proof.Machine
end

section
/-! The functions of Sys2Proof/Machine/Teardown.lean keep the memories canonical. -/

namespace Sys2Proof.Machine

theorem MemoriesCanonical.execEscalatedHoldExpiry {s : State} (h : MemoriesCanonical s) :
    AnswersCanonical (execEscalatedHoldExpiry s) := by
  unfold Machine.execEscalatedHoldExpiry
  split
  · split
    · trivial
    · exact (h.freeSlot _).whenEnabled _ _
  · trivial

theorem MemoriesCanonical.endRanges {s : State} (h : MemoriesCanonical s) (lid : Nat) :
    MemoriesCanonical (endRanges s lid) := by
  unfold Machine.endRanges
  refine MemoriesCanonical.foldl (fun s a hs => ?_) _ h
  split
  · exact .ite (hs.endRange _ _) hs
  · exact hs

theorem MemoriesCanonical.teardownFault {s : State} (h : MemoriesCanonical s) (l : Launch) (cause ea : Nat) :
    MemoriesCanonical (teardownFault s l cause ea) :=
  h.postRing _ _ _ _ _ _ _ _

theorem MemoriesCanonical.teardownAccess {s : State} (h : MemoriesCanonical s) (l : Launch) (ea : Nat) {got : Got}
    (hgot : got.Canonical) : (teardownAccess s l ea got).Canonical := by
  unfold Machine.teardownAccess
  split
  · rename_i t
    have ht : MemoriesCanonical t := hgot
    exact ht
  · rename_i t
    have ht : MemoriesCanonical t := hgot
    exact ht.teardownFault _ _ _
  · rename_i t
    have ht : MemoriesCanonical t := hgot
    split
    · exact h.teardownFault _ _ _
    · exact ht
  · rename_i t
    have ht : MemoriesCanonical t := hgot
    exact ht

theorem MemoriesCanonical.breakBarriers {s : State} (h : MemoriesCanonical s) (l : Launch) (eas : List Nat) :
    (breakBarriers l eas s).Canonical := by
  induction eas generalizing s with
  | nil => exact h
  | cons ea eas ih =>
    rw [Machine.breakBarriers]
    split
    · rename_i t hr
      have ht : MemoriesCanonical t := (h.teardownAccess _ _ (h.rmwEa _ _ _ _)).of_eq hr
      exact ih ht
    · rename_i hr
      exact ((h.teardownAccess _ _ (h.rmwEa _ _ _ _)).of_eq hr :)

theorem MemoriesCanonical.signalLaunch {s : State} (h : MemoriesCanonical s) (l : Launch) :
    (signalLaunch s l).Canonical := by
  unfold Machine.signalLaunch
  split
  · exact h
  · extract_lets got
    refine MemoriesCanonical.teardownAccess h _ _ ?_
    unfold got
    split
    · exact h
    · exact h.writeEa _ _ _ _

theorem MemoriesCanonical.dropLaunch {s : State} (h : MemoriesCanonical s) (lid : Nat) :
    MemoriesCanonical (dropLaunch s lid) := by
  unfold Machine.dropLaunch
  extract_lets t u
  have ht : MemoriesCanonical t := by
    refine MemoriesCanonical.foldl (fun s core hs => ?_) _ h
    extract_lets c
    split
    · exact hs.setCore_same rfl rfl
    · exact hs
  clear_value t
  have hu : MemoriesCanonical u := ht.dropBars _
  exact hu.of_eq rfl rfl

theorem MemoriesCanonical.dropPod {s : State} (h : MemoriesCanonical s) (l : Launch) :
    MemoriesCanonical (dropPod s l) :=
  .ite h (h.dropBars _)

theorem MemoriesCanonical.teardown {s : State} (h : MemoriesCanonical s) (l : Launch) : (teardown s l).Canonical := by
  unfold Machine.teardown
  extract_lets s1
  have hs1 : MemoriesCanonical s1 := h.endRanges _
  split
  · rename_i hr
    exact ((hs1.breakBarriers _ _).of_eq hr :)
  · rename_i t hr
    have ht : MemoriesCanonical t := (hs1.breakBarriers _ _).of_eq hr
    extract_lets s2
    have hs2 : MemoriesCanonical s2 := ht.releaseHolds _
    split
    · rename_i hr1
      exact ((hs2.signalLaunch _).of_eq hr1 :)
    · rename_i t1 hr1
      have ht1 : MemoriesCanonical t1 := (hs2.signalLaunch _).of_eq hr1
      exact (((ht1.reportLaunch _ _ _).dropLaunch _).dropPod _).refreshEligible

theorem MemoriesCanonical.execLaunchTeardown {s : State} (h : MemoriesCanonical s) :
    AnswersCanonical (execLaunchTeardown s) := by
  unfold Machine.execLaunchTeardown
  split
  · split
    · trivial
    · split
      · rename_i t hr2
        have ht : MemoriesCanonical t := (h.teardown _).of_eq hr2
        exact ht.whenEnabled _ _
      · extract_lets t1
        have ht1 : MemoriesCanonical t1 := h.keepHold _
        exact MemoriesCanonical.whenEnabled (.ite (ht1.noteWait _) ht1) _ _
  · trivial

theorem MemoriesCanonical.execPodGroupForm {s : State} (h : MemoriesCanonical s) :
    AnswersCanonical (execPodGroupForm s) := by
  unfold Machine.execPodGroupForm
  split
  · split
    · trivial
    · exact (h.setLaunch _).whenEnabled _ _
  · trivial

theorem MemoriesCanonical.layBlock {s : State} (h : MemoriesCanonical s) (l : Launch) (b : Block)
    (x : List (List Host.Cell) × List (List Host.Cell)) : MemoriesCanonical (layBlock s l b x) := by
  unfold Machine.layBlock
  refine MemoriesCanonical.foldl (fun s e hs => ?_) _ h
  obtain ⟨hscr, hacc⟩ := hs.core (b.core + e.1)
  refine hs.setCore (layBytes_wf hscr _ _ _) ?_
  dsimp only
  split
  · exact hacc
  · exact layBytes_wf hacc _ _ _

theorem MemoriesCanonical.execBlockMove {s : State} (h : MemoriesCanonical s) :
    AnswersCanonical (execBlockMove s) := by
  unfold Machine.execBlockMove
  split
  · split
    · extract_lets x3
      exact MemoriesCanonical.whenEnabled (MemoriesCanonical.layBlock (.foldl (fun _ _ hs => hs.leaveCore _ _) _
        (((h.freePortions _).takePortions _ _ _ _).setBlock _)) _ _ _) _ _
    · trivial
  · trivial

end Sys2Proof.Machine
end

section
/-! The functions of Sys2Proof/Machine/Reset.lean keep the memories canonical. -/

namespace Sys2Proof.Machine

theorem MemoriesCanonical.preSlot {s : State} (h : MemoriesCanonical s) (images : List (Nat × Nat)) (slot : Nat) :
    MemoriesCanonical (preSlot images s slot) := by
  unfold Machine.preSlot
  extract_lets +onlyGivenNames u
  extract_lets +onlyGivenNames k
  split
  · exact (h.setSlot _ _).acceptPre _
  · exact h.setSlot _ _
  · exact h.setSlot _ _
  all_goals exact h

theorem MemoriesCanonical.execDieResetRequest {s : State} (h : MemoriesCanonical s) :
    AnswersCanonical (execDieResetRequest s) := by
  unfold Machine.execDieResetRequest
  split
  · extract_lets d t
    have ht : MemoriesCanonical t := h.setDie _ _
    exact MemoriesCanonical.whenEnabled (.foldl (fun _ _ hs => hs.preSlot _ _) _ ht) _ _
  · trivial

theorem MemoriesCanonical.saveRank {s : State} (h : MemoriesCanonical s) (l : Launch) (area : Nat) (b : Block)
    (r : Nat) : (saveRank l area b s r).Canonical := by
  unfold Machine.saveRank
  extract_lets base ea
  split
  · rename_i t hr
    have ht : MemoriesCanonical t := (h.writeEa _ _ _ _).of_eq hr
    exact ht.writeEa _ _ _ _
  · exact h.writeEa _ _ _ _

theorem MemoriesCanonical.loadRank {s : State} (h : MemoriesCanonical s) (l : Launch) (area : Nat) (b : Block)
    (r : Nat) : (loadRank l area b s r).Canonical := by
  unfold Machine.loadRank
  extract_lets base ea
  split
  · rename_i t hr
    have ht : MemoriesCanonical t := (h.readEa _ _ _).of_eq hr
    split
    · rename_i t1 hr1
      have ht1 : MemoriesCanonical t1 := ((ht.scrWrite _ _ _ _).readEa _ _ _).of_eq hr1
      exact ht1.accWrite _ _ _ _
    · exact (ht.scrWrite _ _ _ _).readEa _ _ _
  · exact h.readEa _ _ _

theorem MemoriesCanonical.inTurn {α : Type} {s : State} (h : MemoriesCanonical s) {f : State → α → Got}
    (hf : ∀ s a, MemoriesCanonical s → (f s a).Canonical) (as : List α) : (inTurn f as s).Canonical := by
  induction as generalizing s with
  | nil => exact h
  | cons a as ih =>
    rw [Machine.inTurn]
    split
    · rename_i t hr
      have ht : MemoriesCanonical t := (hf _ _ h).of_eq hr
      exact ih ht
    · exact hf _ _ h

theorem MemoriesCanonical.keepBlock {s : State} (h : MemoriesCanonical s) (l : Launch) (area : Nat) (b : Block) :
    MemoriesCanonical (keepBlock l area s b) := by
  unfold Machine.keepBlock
  extract_lets s1
  have hs1 : MemoriesCanonical s1 := (h.freePortions _).setBlock _
  exact .foldl (fun _ _ hs => hs.leaveCore _ _) _ hs1

theorem MemoriesCanonical.execClusterSave {s : State} (h : MemoriesCanonical s) :
    AnswersCanonical (execClusterSave s) := by
  unfold Machine.execClusterSave
  split
  · split
    · trivial
    · extract_lets bs resetting go
      split
      · rename_i t hr2
        have ht : MemoriesCanonical t := (h.inTurn (fun _ _ a2 => a2.inTurn (fun _ _ a4 => a4.saveRank _ _ _ _) _) _).of_eq hr2
        exact MemoriesCanonical.whenEnabled (.foldl (fun _ _ hs => hs.keepBlock _ _ _) _ ht) _ _
      · exact h.heldNext _ _ _
      · trivial
      · trivial
  · trivial

theorem MemoriesCanonical.replaceBlock {s : State} (h : MemoriesCanonical s) (l : Launch) (die : Nat) (b : Block) :
    (replaceBlock l die s b).Canonical := by
  unfold Machine.replaceBlock
  split
  · exact ((h.takePortions _ _ _ _).setBlock _).inTurn (fun _ _ a1 => a1.loadRank _ _ _ _) _
  · exact h

theorem MemoriesCanonical.execClusterRestore {s : State} (h : MemoriesCanonical s) :
    AnswersCanonical (execClusterRestore s) := by
  unfold Machine.execClusterRestore
  split
  · split
    · trivial
    · extract_lets bs
      split
      · rename_i t hr2
        have ht : MemoriesCanonical t := (h.inTurn (fun _ _ a2 => a2.replaceBlock _ _ _) _).of_eq hr2
        exact ht.whenEnabled _ _
      · exact h.heldNext _ _ _
      · trivial
      · trivial
  · trivial

theorem MemoriesCanonical.markLost {s : State} (h : MemoriesCanonical s) (ls : List Nat) :
    MemoriesCanonical (markLost s ls) :=
  h.of_eq rfl rfl

theorem MemoriesCanonical.losePartials {s : State} (h : MemoriesCanonical s) (die : Nat) :
    MemoriesCanonical (losePartials s die) := by
  unfold Machine.losePartials
  refine (h.markLost _).mapCores fun e => ?_
  split
  · exact ⟨rfl, rfl⟩
  · exact ⟨rfl, rfl⟩

theorem MemoriesCanonical.loseLines {s : State} (h : MemoriesCanonical s) (die : Nat) :
    MemoriesCanonical (loseLines s die) := by
  unfold Machine.loseLines
  extract_lets dirty s1
  have hs1 : MemoriesCanonical s1 := (h.markLost _).losePartials _
  exact hs1.of_eq rfl rfl

theorem MemoriesCanonical.loseForwarded {s : State} (h : MemoriesCanonical s) (die : Nat) :
    MemoriesCanonical (loseForwarded s die) :=
  .foldl (fun _ _ hs => hs.failOp _ _ _) _ h

theorem MemoriesCanonical.loseColls {s : State} (h : MemoriesCanonical s) (die : Nat) :
    MemoriesCanonical (loseColls s die) :=
  .foldl (fun _ _ hs => hs.loseColl _) _ h

theorem MemoriesCanonical.dropOps {s : State} (h : MemoriesCanonical s) (die : Nat) :
    MemoriesCanonical (dropOps s die) := by
  unfold Machine.dropOps
  extract_lets s1
  have hs1 : MemoriesCanonical s1 := h.loseColls _
  exact hs1.of_eq rfl rfl

theorem MemoriesCanonical.losePartyAt {s : State} (h : MemoriesCanonical s) (slot : Nat) :
    MemoriesCanonical (losePartyAt s slot) := by
  unfold Machine.losePartyAt
  extract_lets k s1
  have hs1 : MemoriesCanonical s1 := by
    unfold s1
    split
    · split
      · exact h.setSlot _ _
      · exact h
    · exact h
  split
  · exact hs1.clearSlot _
  · exact .ite (hs1.freeSlot _) ((hs1.freeze _ _ _).freeSlot _)

theorem MemoriesCanonical.loseAbsent {s : State} (h : MemoriesCanonical s) (b : Block) :
    MemoriesCanonical (loseAbsent s b) := by
  unfold Machine.loseAbsent
  split
  · exact .ite h (MemoriesCanonical.loseParties (.ite (h.recordSaved _ _) ((h.recordSaved _ _).setLaunch _)) _ _ _)
  · exact h

theorem MemoriesCanonical.loseDie {s : State} (h : MemoriesCanonical s) (die : Nat) :
    MemoriesCanonical (loseDie s die) := by
  unfold Machine.loseDie
  extract_lets bs s1
  have hs1 : MemoriesCanonical s1 := by
    unfold s1
    exact .foldl (fun _ _ hs => .ite (hs.losePartyAt _) hs) _ h
  exact .foldl (fun _ _ hs => hs.loseAbsent _) _ hs1

theorem MemoriesCanonical.execQuiesceDeadlineExpiry {s : State} (h : MemoriesCanonical s) :
    AnswersCanonical (execQuiesceDeadlineExpiry s) := by
  unfold Machine.execQuiesceDeadlineExpiry
  split
  · split
    · trivial
    · exact (((((h.loseLines _).loseForwarded _).setDie _ _).dropOps _).loseDie _).whenEnabled _ _
  · trivial

theorem MemoriesCanonical.drainL2 {s : State} (h : MemoriesCanonical s) (die : Nat) :
    MemoriesCanonical (drainL2 s die) := by
  unfold Machine.drainL2
  extract_lets dirty s1
  have hs1 : MemoriesCanonical s1 := .foldl (fun _ _ hs => hs.writeBack _ _) _ h
  exact hs1.of_eq rfl rfl

theorem MemoriesCanonical.resetSlots {s : State} (h : MemoriesCanonical s) (die : Nat) :
    MemoriesCanonical (resetSlots s die) :=
  h.of_eq rfl rfl

theorem MemoriesCanonical.resetDie {s : State} (h : MemoriesCanonical s) (die : Nat) :
    MemoriesCanonical (resetDie s die) := by
  unfold Machine.resetDie
  refine MemoriesCanonical.setDie (MemoriesCanonical.foldl (fun t c ht => ht.setCore ?_ ?_) _ (h.resetSlots die)) _ _
  · exact (rfl : Memory.wf [] = true)
  · simpa only [resetCore] using accAfter_wf t.seq c

theorem MemoriesCanonical.execDieResetComplete {s : State} (h : MemoriesCanonical s) :
    AnswersCanonical (execDieResetComplete s) := by
  unfold Machine.execDieResetComplete
  split
  · exact (((((h.drainL2 _).losePartials _).dropOps _).resetDie _).reportEvent _ _ _ _ _ _).whenEnabled _ _
  · trivial

theorem MemoriesCanonical.execDiePowerGate {s : State} (h : MemoriesCanonical s) :
    AnswersCanonical (execDiePowerGate s) := by
  unfold Machine.execDiePowerGate
  split
  · exact (((h.drainL2 _).setDie _ _).reportEvent _ _ _ _ _ _).whenEnabled _ _
  · trivial

theorem MemoriesCanonical.execDiePowerUp {s : State} (h : MemoriesCanonical s) :
    AnswersCanonical (execDiePowerUp s) := by
  unfold Machine.execDiePowerUp
  split
  · exact ((h.resetDie _).setDie _ _).whenEnabled _ _
  · trivial

end Sys2Proof.Machine
end

section
/-! The functions of Sys2Proof/Machine/Boot.lean keep the memories canonical. -/

namespace Sys2Proof.Machine

theorem MemoriesCanonical.poweredOff {s : State} (h : MemoriesCanonical s) : MemoriesCanonical (poweredOff s) := by
  refine ⟨h.1, fun e he => ?_⟩
  obtain ⟨c, -, rfl⟩ := List.mem_map.1 he
  exact ⟨rfl, rfl⟩

theorem MemoriesCanonical.fuseSlots {s : State} (h : MemoriesCanonical s) (ks : List Nat) :
    MemoriesCanonical (fuseSlots s ks) :=
  .foldl (fun _ _ hs => .ite (hs.setSlot _ _) hs) _ h

theorem MemoriesCanonical.boot {s : State} (h : MemoriesCanonical s) (b : BootInputs) :
    MemoriesCanonical (boot s b) := by
  unfold Machine.boot
  extract_lets s0 past s1 s2 s3 s4 _ s5 s6
  have h1 : MemoriesCanonical s1 := (h.poweredOff.fuseSlots b.fused).of_eq rfl rfl
  have h2 : MemoriesCanonical s2 := .ite (h1.of_eq rfl rfl) h1
  have h3 : MemoriesCanonical s3 := .ite (h2.of_eq rfl rfl) h2
  have h4 : MemoriesCanonical s4 := .ite (h3.of_eq rfl rfl) h3
  have h5 : MemoriesCanonical s5 := .ite (h4.of_eq rfl rfl) h4
  have h6 : MemoriesCanonical s6 :=
    .ite (MemoriesCanonical.of_eq (h5.withDram (Memory.wf_write h5.1 (b.logAddr + 16) 4 b.logN)) rfl rfl) h5
  refine MemoriesCanonical.send ?_ _ _ _
  exact h6.of_eq rfl rfl

theorem MemoriesCanonical.execPowerOn {s : State} (h : MemoriesCanonical s) : AnswersCanonical (execPowerOn s) := by
  unfold Machine.execPowerOn
  split
  · exact (h.boot _).whenEnabled _ _
  · trivial

theorem MemoriesCanonical.execPackageReset {s : State} (h : MemoriesCanonical s) :
    AnswersCanonical (execPackageReset s) :=
  h.poweredOff

theorem MemoriesCanonical.execFirmwareUpdate {s : State} (h : MemoriesCanonical s) :
    AnswersCanonical (execFirmwareUpdate s) := by
  unfold Machine.execFirmwareUpdate
  split
  · extract_lets f set
    split
    · refine MemoriesCanonical.whenEnabled ?_ _ _
      split
      · exact h.of_eq rfl rfl
      · refine MemoriesCanonical.send ?_ _ _ _
        exact h.of_eq rfl rfl
    · refine MemoriesCanonical.whenEnabled ?_ _ _
      exact .ite (h.of_eq rfl rfl) (h.send _ _ _)
  · trivial

theorem MemoriesCanonical.linkLost {s : State} (h : MemoriesCanonical s) (o : Op) :
    MemoriesCanonical (linkLost s o) := by
  unfold Machine.linkLost
  split
  · exact ((h.leavePort _).failWith _ _ _ _).retire _
  · split
    · exact h.failOp _ _ _
    · exact h.setOp _

theorem MemoriesCanonical.execFirmwareHoldTimeout {s : State} (h : MemoriesCanonical s) :
    AnswersCanonical (execFirmwareHoldTimeout s) := by
  unfold Machine.execFirmwareHoldTimeout
  split
  · extract_lets due held
    exact MemoriesCanonical.whenEnabled (.foldl (fun _ _ hs => hs.linkLost _) _ h) _ _
  · trivial

theorem MemoriesCanonical.execAttestationRequest {s : State} (h : MemoriesCanonical s) :
    AnswersCanonical (execAttestationRequest s) := by
  unfold Machine.execAttestationRequest
  split
  · exact ((h.send _ _ _).send _ _ _).whenEnabled _ _
  · trivial

theorem MemoriesCanonical.setClocks {s : State} (h : MemoriesCanonical s) (clocks : List Nat) :
    MemoriesCanonical (setClocks s clocks) :=
  .foldl (fun _ _ hs => .ite (hs.setDie _ _) hs) _ h

theorem MemoriesCanonical.setWindows {s : State} (h : MemoriesCanonical s) (windows : List (Nat × Nat)) :
    MemoriesCanonical (setWindows s windows) :=
  .foldl (fun _ _ hs => hs.setStack _ _) _ h

theorem MemoriesCanonical.execPowerManagerRevision {s : State} (h : MemoriesCanonical s) :
    AnswersCanonical (execPowerManagerRevision s) := by
  unfold Machine.execPowerManagerRevision
  split
  · extract_lets +onlyGivenNames t raises ok
    have ht : MemoriesCanonical t := h.setClocks _
    refine MemoriesCanonical.whenEnabled ?_ _ _
    extract_lets +onlyGivenNames u
    have hu : MemoriesCanonical u := ht.setWindows _
    exact hu.of_eq rfl rfl
  · trivial

theorem MemoriesCanonical.tripPackage {s : State} (h : MemoriesCanonical s) (channel : Nat) :
    MemoriesCanonical (tripPackage s channel) := by
  unfold Machine.tripPackage
  extract_lets u
  have hu : MemoriesCanonical u := h.reportEvent _ _ _ _ _ _
  exact hu.of_eq rfl rfl

theorem MemoriesCanonical.execTemperatureReport {s : State} (h : MemoriesCanonical s) :
    AnswersCanonical (execTemperatureReport s) := by
  unfold Machine.execTemperatureReport
  split
  · exact MemoriesCanonical.whenEnabled (.ite (h.tripPackage _) (.ite (h.setDie _ _) h)) _ _
  · exact MemoriesCanonical.whenEnabled (.ite (h.tripPackage _) (.ite (h.setStack _ _) h)) _ _
  · refine MemoriesCanonical.whenEnabled ?_ _ _
    exact h.of_eq rfl rfl
  · trivial

theorem MemoriesCanonical.execFlowLowTimeout {s : State} (h : MemoriesCanonical s) :
    AnswersCanonical (execFlowLowTimeout s) := by
  unfold Machine.execFlowLowTimeout
  refine MemoriesCanonical.whenEnabled ?_ _ _
  exact h.of_eq rfl rfl

end Sys2Proof.Machine
end

section
/-! The functions of Sys2Proof/Machine/Gather.lean keep the memories canonical. -/

namespace Sys2Proof.Machine

theorem MemoriesCanonical.execGath {s : State} (h : MemoriesCanonical s) (d a b : BitVec 8) :
    AnswersCanonical (execGath d a b s) := by
  unfold Machine.execGath
  have hrecord := @MemoriesCanonical.record
  revert hrecord
  induction @Machine.Cx.record using of_forall with | _ record
  intro hrecord
  refine MemoriesCanonical.runEngine h _ _ (fun cx s1 tid v t o a1 => ?_)
  extract_lets +onlyGivenNames ea
  split
  · rename_i hr
    exact ((hrecord a1 _ _ _ _ _ _).of_fst hr :)
  · rename_i hr
    exact ((hrecord a1 _ _ _ _ _ _).of_fst hr :)
  · rename_i t1 _ hr
    have ht1 : MemoriesCanonical t1 := (hrecord a1 _ _ _ _ _ _).of_fst hr
    extract_lets +onlyGivenNames arrival
    split
    · exact ht1
    · exact ht1

theorem MemoriesCanonical.gatElem {s : State} (h : MemoriesCanonical s) (l : Launch) (g : Ag) (d k : Nat) :
    (gatElem s l g d k).Canonical := by
  rw [show @Machine.gatElem = delta% @Machine.gatElem from rfl]
  beta_reduce
  extract_lets sz ea
  split
  · split
    · exact h
    · exact h
  · exact h.readEa _ _ _

theorem MemoriesCanonical.gatRun {s : State} (h : MemoriesCanonical s) (l : Launch) (g : Ag) (d n i : Nat) :
    (gatRun l g d n i s).Canonical := by
  rw [show @Machine.gatRun = delta% @Machine.gatRun by delta Machine.gatRun; rfl]
  beta_reduce
  refine brecOn_holds
    (P := fun _ (r : Nat → State → GatEnd) => ∀ i s, MemoriesCanonical s → (r i s).Canonical)
    (fun f below ih i s h => ?_) n i s h
  unfold Machine.gatRun._f
  have hreadEa := @MemoriesCanonical.readEa
  have hgatElem := @MemoriesCanonical.gatElem
  have hwriteEa := @MemoriesCanonical.writeEa
  revert hreadEa hgatElem hwriteEa
  induction @Machine.readEa using of_forall with | _ readEa
  induction @Machine.gatElem using of_forall with | _ gatElem
  induction @Machine.writeEa using of_forall with | _ writeEa
  intro hreadEa hgatElem hwriteEa
  split
  · exact h
  · rename_i below ih
    obtain ⟨rest, _⟩ := below
    have again : ∀ i s, MemoriesCanonical s → (rest i s).Canonical := ih
    extract_lets ia
    split
    · rename_i hr1
      exact ((hreadEa h _ _ _).of_eq hr1 :)
    · trivial
    · rename_i hr1
      exact ((hreadEa h _ _ _).of_eq hr1 :)
    · rename_i t1 hr1
      have ht1 : MemoriesCanonical t1 := (hreadEa h _ _ _).of_eq hr1
      split
      · rename_i hr2
        exact ((hgatElem ht1 _ _ _ _).of_eq hr2 :)
      · trivial
      · rename_i hr2
        exact ((hgatElem ht1 _ _ _ _).of_eq hr2 :)
      · rename_i t2 hr2
        have ht2 : MemoriesCanonical t2 := (hgatElem ht1 _ _ _ _).of_eq hr2
        split
        · rename_i t3 hr3
          have ht3 : MemoriesCanonical t3 := (hwriteEa ht2 _ _ _ _).of_eq hr3
          exact again _ _ ht3
        · rename_i hr3
          exact ((hwriteEa ht2 _ _ _ _).of_eq hr3 :)
        · trivial
        · rename_i hr3
          exact ((hwriteEa ht2 _ _ _ _).of_eq hr3 :)

theorem MemoriesCanonical.gatExec {s : State} (h : MemoriesCanonical s) (o : Op) :
    OptionHolds GatEnd.Canonical (gatExec s o) := by
  unfold Machine.gatExec
  split
  · exact h.gatRun _ _ _ _ 0
  · trivial

theorem MemoriesCanonical.gatArrive {s : State} (h : MemoriesCanonical s) (o : Op) :
    MemoriesCanonical (gatArrive s o) := by
  unfold Machine.gatArrive
  have hrmwEa := @MemoriesCanonical.rmwEa
  revert hrmwEa
  induction @Machine.rmwEa using of_forall with | _ rmwEa
  intro hrmwEa
  split
  · split
    all_goals
      rename_i hr2
      exact ((hrmwEa h _ _ _ _).of_eq hr2 :)
  · exact h

theorem MemoriesCanonical.execGatherDone {s : State} (h : MemoriesCanonical s) (op : Nat) :
    AnswersCanonical (execGatherDone op s) := by
  unfold Machine.execGatherDone
  split
  · trivial
  · split
    · rename_i t hr1
      have ht : MemoriesCanonical t := (h.gatExec _).of_eq hr1
      exact ((ht.gatArrive _).completeOp _).whenEnabled _ _
    · exact ((h.keepHold _).noteHold _ _ _).whenEnabled _ _
    · trivial

theorem MemoriesCanonical.execGatherFault {s : State} (h : MemoriesCanonical s) (op : Nat) :
    AnswersCanonical (execGatherFault op s) := by
  unfold Machine.execGatherFault
  split
  · trivial
  · split
    · exact (h.elemFail _ _ _ _).retire _
    · split
      · rename_i t hr2
        have ht : MemoriesCanonical t := (h.gatExec _).of_eq hr2
        exact ((ht.elemFail _ _ _ _).retire _).whenEnabled _ _
      · trivial

end Sys2Proof.Machine
end

section
/-! The functions of Sys2Proof/Machine/Coherence.lean keep the memories canonical. -/

namespace Sys2Proof.Machine

theorem MemoriesCanonical.execSnoopForRead {s : State} (h : MemoriesCanonical s) (die line : Nat) :
    AnswersCanonical (execSnoopForRead die line s) :=
  (h.snoopRead _ _).whenEnabled _ _

theorem MemoriesCanonical.execSnoopForOwnership {s : State} (h : MemoriesCanonical s) (die line : Nat) :
    AnswersCanonical (execSnoopForOwnership die line s) := by
  unfold Machine.execSnoopForOwnership
  extract_lets st t
  have ht : MemoriesCanonical t := by
    unfold t
    clear_value st
    split
    · exact .ite (h.writeBack _ _) h
    · exact h
  exact (ht.delL2 _ _).whenEnabled _ _

theorem MemoriesCanonical.execL2Eviction {s : State} (h : MemoriesCanonical s) (die line : Nat) :
    AnswersCanonical (execL2Eviction die line s) :=
  (h.l2Evict _ _).whenEnabled _ _

theorem MemoriesCanonical.execDirectoryBackInvalidate {s : State} (h : MemoriesCanonical s) (line : Nat) :
    AnswersCanonical (execDirectoryBackInvalidate line s) :=
  (h.flushLine _ _).whenEnabled _ _

theorem MemoriesCanonical.execInvalidationApply {s : State} (h : MemoriesCanonical s) (die : Nat) :
    AnswersCanonical (execInvalidationApply die s) := by
  unfold Machine.execInvalidationApply
  split
  · split
    · trivial
    · exact ((h.delL2 _ _).setDie _ _).whenEnabled _ _
  · trivial

end Sys2Proof.Machine
end

section
/-! The functions of Sys2Proof/Machine/Post.lean keep the memories canonical. -/

namespace Sys2Proof.Machine

theorem MemoriesCanonical.posted {s : State} (h : MemoriesCanonical s) (o : Op) : MemoriesCanonical (posted s o) := by
  unfold Machine.posted
  split
  · exact h.delOp _
  · split
    · exact (h.elemFail _ _ _ _).retire _
    · exact (h.setPhase _ _).retire _

theorem MemoriesCanonical.postFault {s : State} (h : MemoriesCanonical s) (o : Op) (c ea : Nat) :
    MemoriesCanonical (postFault s o c ea) :=
  .ite (h.posted _) ((h.elemFail _ _ _ _).retire _)

theorem MemoriesCanonical.postOp {s : State} (h : MemoriesCanonical s) (o : Op) (status cause faddr : Nat) :
    (postOp s o status cause faddr).2.Canonical := by
  unfold Machine.postOp
  split
  · exact h.postReport _ _ _ _ _ _ _ _
  · exact h.postFrom _ _ _ _ _ _ _ _

theorem MemoriesCanonical.execRingPost {s : State} (h : MemoriesCanonical s) (op : Nat) :
    AnswersCanonical (execRingPost op s) := by
  unfold Machine.execRingPost
  split
  · trivial
  · split
    · extract_lets go
      split
      rename_i hr
      have hgot := (h.postOp _ _ _ _).of_pair hr
      clear hr
      extract_lets o'
      split
      · rename_i t
        have ht : MemoriesCanonical t := hgot
        extract_lets u
        have hu : MemoriesCanonical u := by
          unfold u
          split
          · exact ht.sendReport _ _ _
          · exact ht
        exact (hu.posted _).whenEnabled _ _
      · rename_i t
        exact (MemoriesCanonical.postFault (s := t) hgot _ _ _).whenEnabled _ _
      · rename_i t
        split
        · exact (h.postFault _ _ _).whenEnabled _ _
        · exact (((h.postKept (t := t) hgot _).setOp _).noteHold _ _ _).whenEnabled _ _
      · rename_i t
        exact (MemoriesCanonical.setOp (s := t) hgot _).whenEnabled _ _
    · trivial

end Sys2Proof.Machine
end

section
/-! The functions of Sys2Proof/Machine/Step.lean keep the memories canonical. -/

namespace Sys2Proof.Machine

/-- Every instruction and event answers with a package whose memories are canonical. -/
theorem MemoriesCanonical.exec {s : State} (h : MemoriesCanonical s) (i : Instr) : AnswersCanonical (exec i s) := by
  cases i with
  | iadd | isub | iadd64 | isub64 | imul | imulhi | nmulhi | imad | nmad64 | ndiv | nrem | imin | imax | nmin | nmax |
    iadds | and | or | xor | andn | shl | shr | sra | rotl | funsh | popc | clz | brev | bfx | bfi | bdep | bext | bmm8 |
    ieq | ine | ilt | ile | nlt | nle | sel | li | lih | rndc | fadd | fsub | fmul | ffma | dadd | dsub | dmul | dfma |
    fdiv | ddiv | dsqrt | cvt | fscale | dscale | frnd | fmin | fmax | feq | flt | fle | funo | dmin | dmax | deq | dlt |
    dle | duno | pfmah | pfmab | sfn | cvts | fclass => exact h.runAlu _ _ _
  | bnz | bz => exact h.runBranch _ _ _
  | jmpf | callf | ret => exact h.runJump _
  | xln | xred | elect | vote => exact h.runXl _
  | ldb | ldh | ldw | ldd | ldq | stb | sth | stw | std | stq | atom | atomr => exact h.runMem _ _ _
  | arrv d a b => exact (h.runMem _ _ _ : AnswersCanonical (execArrv d a b s))
  | ldv | ldvq => exact h.runVer _ _ _
  | clnr | invr => exact h.runClean _ _ _
  | cpyt | cpyl | cpym => exact h.runCopy _ _
  | mma | mdrn => exact h.runTile _ _
  | cutsel | rast | rayq => exact h.runGeom _ _ _
  | uadd | usub | uadd64 | umul | umad | uand | uor | uxor | ushl | ushr | usra | upopc | uclz | ueq | une | ult | ule |
    unlt | unle | usel | ulih | umin | umax => exact h.runUni _ _
  | uli d imm => exact (h.runUni _ _ : AnswersCanonical (execUli d imm s))
  | ubnz | ubz => exact h.runUBranch _ _ _
  | ujmpf | ucallf | uret => exact h.runUJump _
  | uldw | uldd | uldq | ustw | ustd | uatomr => exact h.runUniMem _ _
  | abinit d a b => exact (h.runUniMem _ _ : AnswersCanonical (execAbinit d a b s))
  | bperm d a b => exact h.execBperm d a b
  | waitn d imm => exact h.execWaitn d imm
  | waitc d a b => exact h.execWaitc d a b
  | bar d a b => exact h.execBar d a b
  | bara d a b => exact h.execBara d a b
  | exit d a b => exact h.execExit d a b
  | fence d a b => exact h.execFence d a b
  | lrld d a b => exact h.execLrld d a b
  | cfetch d a b => exact h.execCfetch d a b
  | bkq d a b => exact h.execBkq d a b
  | gath d a b => exact h.execGath d a b
  | coll d a b => exact h.execColl d a b
  | trap d a b => exact h.execTrap d a b
  | srd d a b => exact h.execSrd d a b
  | swr d a b => exact h.execSwr d a b
  | tret d a b => exact h.execTret d a b
  | nop d a b => exact h.execNop d a b
  | bkpt d a b => exact h.execBkpt d a b
  | usrd d a b => exact h.execUsrd d a b
  | uldv d a b => exact h.execUldv d a b
  | upref d a b => exact h.execUpref d a b
  | rbind d a b => exact h.execRbind d a b
  | runbind d a b => exact h.execRunbind d a b
  | crdecl d a b => exact h.execCrdecl d a b
  | crend d a b => exact h.execCrend d a b
  | vpost d a b => exact h.execVpost d a b
  | vopen d a b => exact h.execVopen d a b
  | migr d a b => exact h.execMigr d a b
  | launch d a b => exact h.execLaunch d a b
  | tbinit d a b => exact h.execTbinit d a b
  | utrap d a b => exact h.execUtrap d a b
  | unop d a b => exact h.execUnop d a b
  | plane d a b => exact h.execPlane d a b
  | accessTranslate op reply => exact h.execAccessTranslate op reply
  | cowComplete page => exact h.execCowComplete page
  | historyFrameFree page slot => exact h.execHistoryFrameFree page slot
  | holdLimitExpiry op => exact h.execHoldLimitExpiry op
  | pageWalkComplete die page => exact h.execPageWalkComplete die page
  | loadComplete op => exact h.execLoadComplete op
  | storeAck op => exact h.execStoreAck op
  | commandRetire op => exact h.execCommandRetire op
  | deliverPendingCause slot tid => exact h.execDeliverPendingCause slot tid
  | partyFrozen slot => exact h.execPartyFrozen slot
  | waitcReadReturn slot tid cond reply => exact h.execWaitcReadReturn slot tid cond reply
  | waitcTimeout slot tid => exact h.execWaitcTimeout slot tid
  | segmentLanded core lid seg => exact h.execSegmentLanded core lid seg
  | segmentFetchFault core lid seg => exact h.execSegmentFetchFault core lid seg
  | segmentDropComplete core lid seg => exact h.execSegmentDropComplete core lid seg
  | dispatchStart slot => exact h.execDispatchStart slot
  | restoreStart slot => exact h.execRestoreStart slot
  | saveBegin slot => exact h.execSaveBegin slot
  | saveDrained slot => exact h.execSaveDrained slot
  | saveDeadlineExpiry slot => exact h.execSaveDeadlineExpiry slot
  | saveComplete slot => exact h.execSaveComplete slot
  | partySlotFree slot => exact h.execPartySlotFree slot
  | copyStart op => exact h.execCopyStart op
  | copyWritePacket op packet => exact h.execCopyWritePacket op packet
  | copyDone op => exact h.execCopyDone op
  | copyFault op => exact h.execCopyFault op
  | ringPost op => exact h.execRingPost op
  | lrldReadDone op => exact h.execLrldReadDone op
  | gatherDone op => exact h.execGatherDone op
  | gatherFault op => exact h.execGatherFault op
  | tileAccept op => exact h.execTileAccept op
  | tileStart op => exact h.execTileStart op
  | tileRunDone op => exact h.execTileRunDone op
  | tileFault op => exact h.execTileFault op
  | shadowReferenceDone op => exact h.execShadowReferenceDone op
  | geometryStart op => exact h.execGeometryStart op
  | cutselDone op => exact h.execCutselDone op
  | rastDone op => exact h.execRastDone op
  | rayqDone op => exact h.execRayqDone op
  | geometryFault op => exact h.execGeometryFault op
  | bankBlockArrive op => exact h.execBankBlockArrive op
  | bankBlockStart op => exact h.execBankBlockStart op
  | allBankAdmit op => exact h.execAllBankAdmit op
  | bkMode op => exact h.execBkMode op
  | bkBcast op => exact h.execBkBcast op
  | bkLdv op => exact h.execBkLdv op
  | bkMac op => exact h.execBkMac op
  | bkEadd op => exact h.execBkEadd op
  | bkSta op => exact h.execBkSta op
  | bkClr op => exact h.execBkClr op
  | bkSync op => exact h.execBkSync op
  | bankBlockDone op => exact h.execBankBlockDone op
  | activateAdmit stack => exact h.execActivateAdmit stack
  | collMatched op peers => exact h.execCollMatched op peers
  | haloReceive op segment data => exact h.execHaloReceive op segment data
  | collDone op => exact h.execCollDone op
  | collTimeout op => exact h.execCollTimeout op
  | collFault op => exact h.execCollFault op
  | snoopForRead die line => exact h.execSnoopForRead die line
  | snoopForOwnership die line => exact h.execSnoopForOwnership die line
  | l2Eviction die line => exact h.execL2Eviction die line
  | directoryBackInvalidate line => exact h.execDirectoryBackInvalidate line
  | invalidationApply die => exact h.execInvalidationApply die
  | forwardedAtomic op => exact h.execForwardedAtomic op
  | xPrefix fields => exact h.execXPrefix fields
  | unassignedUniformOpcode word => exact h.execUnassignedUniformOpcode word
  | slotPre => exact h.execSlotPre
  | slotHalt => exact h.execSlotHalt
  | slotKill => exact h.execSlotKill
  | slotRelease => exact h.execSlotRelease
  | registerWrite => exact h.execRegisterWrite
  | bindDispatch => exact h.execBindDispatch
  | bindRestore => exact h.execBindRestore
  | combineLine => exact h.execCombineLine
  | migrationBegin => exact h.execMigrationBegin
  | migrationDrained => exact h.execMigrationDrained
  | migrationCopyDone => exact h.execMigrationCopyDone
  | peerAccess => exact h.execPeerAccess
  | peerTimeout => exact h.execPeerTimeout
  | launchRecordValidate => exact h.execLaunchRecordValidate
  | dependenceRead => exact h.execDependenceRead
  | schedulerPass => exact h.execSchedulerPass
  | reservationIntervalExpiry => exact h.execReservationIntervalExpiry
  | escalatedHoldExpiry => exact h.execEscalatedHoldExpiry
  | launchTeardown => exact h.execLaunchTeardown
  | podGroupForm => exact h.execPodGroupForm
  | closureMerge => exact h.execClosureMerge
  | clusterRetire => exact h.execClusterRetire
  | writeBufferFull => exact h.execWriteBufferFull
  | blockMove => exact h.execBlockMove
  | correctedError => exact h.execCorrectedError
  | uncorrectableError => exact h.execUncorrectableError
  | laneRetrainDone => exact h.execLaneRetrainDone
  | errorLogMove => exact h.execErrorLogMove
  | pageQuarantine => exact h.execPageQuarantine
  | pageRestore => exact h.execPageRestore
  | dieResetRequest => exact h.execDieResetRequest
  | clusterSave => exact h.execClusterSave
  | clusterRestore => exact h.execClusterRestore
  | quiesceDeadlineExpiry => exact h.execQuiesceDeadlineExpiry
  | dieResetComplete => exact h.execDieResetComplete
  | diePowerGate => exact h.execDiePowerGate
  | diePowerUp => exact h.execDiePowerUp
  | powerOn => exact h.execPowerOn
  | firmwareUpdate => exact h.execFirmwareUpdate
  | firmwareHoldTimeout => exact h.execFirmwareHoldTimeout
  | attestationRequest => exact h.execAttestationRequest
  | powerManagerRevision => exact h.execPowerManagerRevision
  | temperatureReport => exact h.execTemperatureReport
  | flowLowTimeout => exact h.execFlowLowTimeout
  | hostRdmaWrite => exact h.execHostRdmaWrite
  | hostRdmaWriteImm => exact h.execHostRdmaWriteImm
  | hostRdmaRead => exact h.execHostRdmaRead
  | hostAtomicCas => exact h.execHostAtomicCas
  | hostAtomicFetchAdd => exact h.execHostAtomicFetchAdd
  | launchPacket => exact h.execLaunchPacket
  | managementKillLaunch => exact h.execManagementKillLaunch
  | bufferTableEntryWrite => exact h.execBufferTableEntryWrite
  | launchQueueCreate => exact h.execLaunchQueueCreate
  | connectionSetup => exact h.execConnectionSetup
  | linkPartnerFallback => exact h.execLinkPartnerFallback
  | packageReset => exact h.execPackageReset

theorem AnswersCanonical.settle {o : Host.Outcome State Fault Refusal} (ho : AnswersCanonical o) : AnswersCanonical (settle o) := by
  cases o with
  | next s => exact MemoriesCanonical.finishStep ho
  | fault f => trivial
  | refused r => trivial
theorem AnswersCanonical.execPair {o : Host.Outcome State Fault Refusal} (ho : AnswersCanonical o) : AnswersCanonical (execPair o) := by
  unfold Machine.execPair
  split
  · split
    · split
      · split
        · exact MemoriesCanonical.exec ho _
        · exact ho
      · exact ho
    · exact ho
  · trivial
  · trivial
theorem MemoriesCanonical.issueStep {s : State} (h : MemoriesCanonical s) (slot : Nat) (pc : Pc) (handler : Bool) (tids : List Nat) :
    AnswersCanonical (issueStep s slot pc handler tids) := by
  unfold Machine.issueStep
  split
  · trivial
  · extract_lets t
    have ht : MemoriesCanonical t := h.of_eq rfl rfl
    split
    · refine AnswersCanonical.settle ?_
      split
      · exact (ht.exec _).execPair
      · exact ht.exec _
    · split
      · split
        · exact AnswersCanonical.settle (ht.segFailedTrap _ _ _ _)
        · trivial
      · trivial
theorem MemoriesCanonical.pickStep {s : State} (h : MemoriesCanonical s) (k : Pick) : AnswersCanonical (pickStep s k) := by
  cases k with
  | event i input =>
    have ht : MemoriesCanonical { s with input := input } := h.of_eq rfl rfl
    exact (ht.exec i).settle
  | issue slot pc handler tids input =>
    have ht : MemoriesCanonical { s with input := input } := h.of_eq rfl rfl
    exact ht.issueStep slot pc handler tids
theorem MemoriesCanonical.nextPick {s : State} (h : MemoriesCanonical s) : MemoriesCanonical (nextPick s).2 := by
  unfold Machine.nextPick
  split
  · exact h.of_eq rfl rfl
  · exact h
/-- What a step leads to is a package whose memories are canonical. -/
theorem MemoriesCanonical.step {s : State} (h : MemoriesCanonical s) : AnswersCanonical (step s) := by
  unfold Machine.step
  split
  · rename_i t hp
    have ht : MemoriesCanonical t := h.nextPick.of_snd hp
    split
    · trivial
    · exact ht.finishStep
  · rename_i k t hp
    have ht : MemoriesCanonical t := h.nextPick.of_snd hp
    split
    · trivial
    · exact ht.pickStep k

end Sys2Proof.Machine
end

section
open Sys2Proof Sys2Proof.Machine

/-- Settles O58: a step is one of the machine's functions after another, and each of them writes a memory by an operation that
keeps the canonical form. -/
theorem everyStepKeepsMemoriesCanonical : Obligations.EveryStepKeepsMemoriesCanonical := by
  intro s t h hs
  exact h.step.of_eq hs

end

section
/-! Operations retire in the order of their class (O35: 01_thread.md R31, 07_memory_access.md R164, 09_traps.md R217). The idea:
`OldestOf` lasts while the operation's phase, its thread's registers and its party change, so that every way of completing comes
down to one retirement of the oldest operation of a class. -/

namespace Sys2Proof.Machine

/-! ## One thread of a party -/

theorem Party.setThread_setThread (p : Party) (k : Nat) (x y : Thread) :
    (p.setThread k x).setThread k y = p.setThread k y := by
  simp [Party.setThread]
@[simp] theorem Party.length_setThread (p : Party) (k : Nat) (x : Thread) :
    (p.setThread k x).threads.length = p.threads.length := by
  simp [Party.setThread]
@[simp] theorem Party.thread_write (p : Party) (r : Reg) (w : Width) (x k : Nat) :
    (p.write r w x).thread k = p.thread k := by
  simp [Party.thread]
/-- Changing the threads of a list of one. -/
theorem Party.mapThreads_singleton {p : Party} {k : Nat} (h : k < p.threads.length) (f : Nat → Thread → Thread) :
    p.mapThreads [k] f = p.setThread k (f k (p.thread k)) := by
  unfold Party.mapThreads Party.setThread
  congr 1
  refine List.ext_getElem? fun j => ?_
  rw [mapI_getElem?, Nat.zero_add]
  by_cases hj : j = k
  · subst hj
    simp [Party.thread, h]
  · simp [List.getElem?_set_ne (Ne.symm hj), hj]

/-! ## The oldest operation of a class stays the oldest -/

/-- Setting an operation changes none of those before it. -/
theorem takeWhile_setOp (o : Op) (l : List Op) :
    (l.map fun p => if p.id == o.id then o else p).takeWhile (fun p => decide (p.id ≠ o.id)) =
      l.takeWhile fun p => decide (p.id ≠ o.id) := by
  induction l with
  | nil => rfl
  | cons p l ih =>
    by_cases h : p.id = o.id
    · simp [h]
    · simpa [h] using ih
theorem olderThan_setPhase (s : State) (o : Op) (ph : Phase) (k : Nat) :
    olderThan (s.setPhase o ph) { o with phase := ph } k = olderThan s o k :=
  congrArg (List.filter _) (takeWhile_setOp { o with phase := ph } s.ops)

theorem OldestOf.setPhase {s : State} {o : Op} {p : Party} {k : Nat} {c : Cls} (h : OldestOf s o p k c) (ph : Phase) :
    OldestOf (s.setPhase o ph) { o with phase := ph } p k c where
  listed := State.op_setOp_same (o := { o with phase := ph }) h.listed
  party := h.party
  tids := h.tids
  live := h.live
  cls := h.cls
  thread := h.thread
  oldest := (olderThan_setPhase s o ph k).trans h.oldest
/-- Another party stands in the slot. -/
theorem OldestOf.setParty {s : State} {o : Op} {p q : Party} {k : Nat} {c : Cls} (h : OldestOf s o p k c)
    (hq : k < q.threads.length) : OldestOf (s.setParty o.slot q) o q k c where
  listed := h.listed
  party := State.party_setParty_same s o.slot q
  tids := h.tids
  live := h.live
  cls := h.cls
  thread := hq
  oldest := h.oldest

/-! ## When a thread can retire its oldest operation -/

/-- The phase is one that retires: complete, or failed. -/
theorem canRetire_settles {s : State} {o : Op} {k : Nat} (h : canRetire s o k = true) :
    o.phase = .done ∨ ∃ cause ea info, o.phase = .failed cause ea info := by
  unfold canRetire at h
  cases hp : o.phase with
  | done => exact .inl rfl
  | failed cause ea info => exact .inr ⟨cause, ea, info, rfl⟩
  | _ => simp [hp] at h
theorem OldestOf.canRetire_done {s : State} {o : Op} {p : Party} {k : Nat} {c : Cls} (h : OldestOf s o p k c)
    (hd : o.phase = .done) : canRetire s o k = true := by
  simp [canRetire, h.oldest, hd]
/-- A failed operation retires where no deferred cause of its class is pending (09 R217). -/
theorem OldestOf.canRetire_failed {s : State} {o : Op} {p : Party} {k : Nat} {c : Cls} {cause ea info : Nat}
    (h : OldestOf s o p k c) (hf : o.phase = .failed cause ea info) (free : ∀ x ∈ (p.thread k).pend, x.cls ≠ c) :
    canRetire s o k = true := by
  have hany : (p.thread k).pend.any (fun x => x.cls == c) = false := by simpa using free
  simp [canRetire, h.oldest, hf, h.party, h.cls, hany]
theorem OldestOf.retirable_of_canRetire {s : State} {o : Op} {p : Party} {k : Nat} {c : Cls} (h : OldestOf s o p k c)
    (hc : canRetire s o k = true) : retirable s o = true := by
  rcases canRetire_settles hc with hp | ⟨cause, ea, info, hp⟩ <;> simp [retirable, h.live, hc, hp]

/-! ## What its retirement does -/

/-- It leaves its one thread, then the list. -/
theorem OldestOf.retire_eq {s : State} {o : Op} {p : Party} {k : Nat} {c : Cls} (h : OldestOf s o p k c)
    (hc : canRetire s o k = true) : retire s o.id = (retireThread s o k).delOp o.id := by
  unfold retire
  rw [h.listed]
  rcases canRetire_settles hc with hp | ⟨cause, ea, info, hp⟩ <;> simp [h.live, h.cls, hc, hp]
/-- In its thread the counter falls, and nothing else changes where it is complete. -/
theorem OldestOf.retireThread_done {s : State} {o : Op} {p : Party} {k : Nat} {c : Cls} (h : OldestOf s o p k c)
    (hd : o.phase = .done) :
    retireThread s o k = s.setParty o.slot (p.setThread k ((p.thread k).uncount c)) := by
  simp [retireThread, h.party, h.cls, hd]
/-- A slot that is not saving has no save to abandon. -/
theorem abandonSave_of_not_saving {s : State} {slot : Nat} (h : (s.slot slot).st ≠ .saving) : abandonSave s slot = s := by
  unfold abandonSave
  extract_lets slotNow
  split
  · exact absurd ‹_› h
  · rfl
/-- Where it failed, its cause becomes pending as well (09 R217). -/
theorem OldestOf.retireThread_failed {s : State} {o : Op} {p : Party} {k : Nat} {c : Cls} {cause ea info : Nat}
    (h : OldestOf s o p k c) (hf : o.phase = .failed cause ea info) (hs : (s.slot o.slot).st ≠ .saving) :
    retireThread s o k = s.setParty o.slot (p.setThread k { (p.thread k).uncount c with
      pend := (p.thread k).pend ++ [{ cls := c, cause := cause, taddr := ea, tinfo := info, op := o.id }] }) := by
  simp only [retireThread, h.party, h.cls, hf]
  refine (abandonSave_of_not_saving ?_).trans rfl
  simpa [State.setParty] using hs
/-- An operation that its thread leaves has retired. -/
theorem retired_delOp (s : State) (o : Op) (p : Party) (k : Nat) (u : Thread) :
    Retired ((s.setParty o.slot (p.setThread k u)).delOp o.id) o p k u :=
  ⟨State.op_delOp_same _ _, State.party_setParty_same s o.slot (p.setThread k u)⟩

theorem OldestOf.retire_done {s : State} {o : Op} {p : Party} {k : Nat} {c : Cls} (h : OldestOf s o p k c)
    (hd : o.phase = .done) :
    Retired (retire s o.id) o p k ((p.thread k).uncount c) ∧ (retire s o.id).dram = s.dram := by
  rw [h.retire_eq (h.canRetire_done hd), h.retireThread_done hd]
  exact ⟨retired_delOp _ _ _ _ _, rfl⟩
theorem OldestOf.retire_failed {s : State} {o : Op} {p : Party} {k : Nat} {c : Cls} {cause ea info : Nat}
    (h : OldestOf s o p k c) (hf : o.phase = .failed cause ea info) (can : CanPend s o p k c) :
    RetiredWith (retire s o.id) o p k c cause ea info := by
  obtain ⟨free, hs⟩ := can
  rw [h.retire_eq (h.canRetire_failed hf free), h.retireThread_failed hf hs]
  exact retired_delOp _ _ _ _ _
/-- An operation that completes, and is the oldest, retires at once. -/
theorem OldestOf.complete {s : State} {o : Op} {p : Party} {k : Nat} {c : Cls} (h : OldestOf s o p k c) :
    Retired (retire (s.setPhase o .done) o.id) o p k ((p.thread k).uncount c) ∧
      (retire (s.setPhase o .done) o.id).dram = s.dram :=
  (h.setPhase .done).retire_done rfl

/-! ## A load's value -/

/-- The value of an operation that one thread issued reaches that thread's register, or its party's (07 R164). -/
theorem OldestOf.writeResult_eq {s : State} {o : Op} {p : Party} {k : Nat} {c : Cls} (h : OldestOf s o p k c)
    (live : (p.thread k).exited = false) (r : Reg) (w : Width) (x : Nat) :
    writeResult s o r w x = s.setParty o.slot ((p.write r w x).setThread k ((p.thread k).write r w x)) := by
  have hk : k < (p.write r w x).threads.length := by simpa using h.thread
  simp [writeResult, h.party, h.tids, live, Party.mapThreads_singleton hk]
/-- A load that completes: its value is written, and the counter falls in the thread that has it. -/
theorem OldestOf.complete_load {s : State} {o : Op} {p : Party} {k : Nat} {c : Cls} (h : OldestOf s o p k c)
    (live : (p.thread k).exited = false) (r : Reg) (w : Width) (x : Nat) :
    let t := retire ((writeResult s o r w x).setPhase o .done) o.id
    Retired t o (p.write r w x) k (((p.thread k).write r w x).uncount c) ∧ t.dram = s.dram := by
  intro t
  have hk : k < (p.write r w x).threads.length := by simpa using h.thread
  have written : OldestOf (writeResult s o r w x) o ((p.write r w x).setThread k ((p.thread k).write r w x)) k c := by
    rw [h.writeResult_eq live]
    exact h.setParty (by simpa using h.thread)
  obtain ⟨⟨gone, party⟩, dram⟩ := written.complete
  rw [Party.thread_setThread_same _ _ _ hk, Party.setThread_setThread] at party
  refine ⟨⟨gone, party⟩, dram.trans ?_⟩
  rw [h.writeResult_eq live]
  rfl

/-! ## The events that retire -/

theorem exec_loadComplete_next {s : State} {o : Op} {r : Reg} {w : Width} {x : Nat} (listed : s.op? o.id = some o)
    (hp : o.phase = .performed x) (hr : o.kind.result = some (r, w)) :
    exec (.loadComplete o.id) s = .next (retire ((writeResult s o r w x).setPhase o .done) o.id) := by
  change execLoadComplete o.id s = _
  simp [execLoadComplete, listed, hp, hr]
theorem exec_storeAck_next {s : State} {o : Op} {x : Nat} (listed : s.op? o.id = some o) (hp : o.phase = .performed x)
    (hr : o.kind.result = none) : exec (.storeAck o.id) s = .next (retire (s.setPhase o .done) o.id) := by
  change execStoreAck o.id s = _
  simp [execStoreAck, listed, hp, hr]
theorem OldestOf.exec_commandRetire_next {s : State} {o : Op} {p : Party} {k : Nat} {c : Cls} (h : OldestOf s o p k c)
    (hc : canRetire s o k = true) : exec (.commandRetire o.id) s = .next (retire s o.id) := by
  change execCommandRetire o.id s = _
  simp [execCommandRetire, h.listed, h.retirable_of_canRetire hc]

end Sys2Proof.Machine
end

section
open Sys2Proof Sys2Proof.Machine

/-- Settles O35: a load's value, a store's acknowledgement, a command's completion and a failure each come down to the one
retirement of the oldest operation of a class. -/
theorem operationsRetireInOrder : Obligations.OperationsRetireInOrder := by
  intro s o p k c h
  refine ⟨fun r w x hp hr live => ?_, fun x hp hr => ?_, fun hd => ?_, fun cause ea info hf free hs => ?_⟩
  · exact ⟨_, exec_loadComplete_next h.listed hp hr, h.complete_load live r w x⟩
  · exact ⟨_, exec_storeAck_next h.listed hp hr, h.complete⟩
  · exact ⟨_, h.exec_commandRetire_next (h.canRetire_done hd), h.retire_done hd⟩
  · exact ⟨_, h.exec_commandRetire_next (h.canRetire_failed hf free), h.retire_failed hf ⟨free, hs⟩⟩

end
section
/-! Floating-point instructions that trap (02 R48, 05 R126, 09 R220) and NaN operands (02 R37, R38): what a group does in
which some thread takes FP_INVALID, and what the exact arithmetic gives for a NaN. -/

namespace Sys2Proof.Machine

/-! ## A group in which some threads trap -/

/-- The values that a party takes are those of the group's threads. -/
theorem takeG_congr {p : Party} {r : Reg} {w : Width} {ks : List Nat} {val val' : Nat → Option Nat}
    (h : ∀ k ∈ ks, val k = val' k) : p.takeG r w ks val = p.takeG r w ks val' := by
  unfold Party.takeG
  split
  · exact List.foldl_ext _ _ _ fun _ k hk => by rw [h k hk]
  all_goals rfl
theorem thread_takeG (p : Party) (r : Reg) (w : Width) (ks : List Nat) (val : Nat → Option Nat) (k : Nat) :
    (p.takeG r w ks val).thread k = p.thread k := by
  rw [takeG_g]
  rfl
/-- A group whose threads change by f from what they are, D's values taken by the party. -/
theorem mapGroup_takes_at {cx : Cx} {s : State} {val val' : Nat → Option Nat} {f : Nat → Thread → Thread}
    {g : Nat → Thread → Thread × Option Esc} (hv : ∀ k ∈ cx.tids, val k = val' k)
    (h : ∀ k ∈ cx.tids, g k (cx.party.thread k) = (f k (cx.party.thread k), none)) :
    (cx.withG cx.dwidth val).mapGroup s g = cx.goes s (cx.party.takeG cx.dreg cx.dwidth cx.tids val') f := by
  rw [← takeG_congr hv]
  refine mapGroup_goes_at (cx := cx.withG cx.dwidth val) fun k hk => ?_
  have same : (cx.withG cx.dwidth val).party.thread k = cx.party.thread k := thread_takeG ..
  rw [same]
  exact h k hk

/-! ## FP_INVALID (02 R48) -/

/-- A thread that takes FP_INVALID: NV is set, its draws are counted, and it enters its handler (02 R48, 09 R220). -/
def Cx.takesInvalid (cx : Cx) (s : State) (detail : Cx → View → Opnds → Nat) (f : FpOp) (k : Nat) (t : Thread) : Thread :=
  Thread.enter { t with
    fpcsr := t.fpcsr ||| 16#32
    draw := t.draw + BitVec.ofNat 64 (f cx (cx.view s.ref k) (cx.operands s k)).2.2 } cx.hpc cx.pc
    { cause := 0x20, tinfo := detail cx (cx.view s.ref k) (cx.operands s k) }

/-- An instruction of registers whose results are those of f, held to R48 with an opcode and an element. -/
def AnswersFp (cx : Cx) (g : Cx → View → Opnds → LaneRes) (op : Nat) (elem : Cx → View → Opnds → Nat) (f : FpOp) : Prop :=
  ∀ v o, g cx v o = fpResult op v.thread.fpcsr.toNat (elem cx v o) (f cx v o).1 (f cx v o).2.1 (f cx v o).2.2

section
variable {cx : Cx} {s : State} {g : Cx → View → Opnds → LaneRes} {op : Nat} {elem : Cx → View → Opnds → Nat} {f : FpOp}
  {k : Nat}

/-- What a thread that takes FP_INVALID answers. -/
theorem AnswersFp.trap (h : AnswersFp cx g op elem f) (hi : cx.invalid s f k = true) :
    cx.enabled k = true ∧ g cx (cx.view s.ref k) (cx.opnds (cx.view s.ref k)) =
      .trap { cause := 0x20, tinfo := op + 256 * elem cx (cx.view s.ref k) (cx.operands s k) } 16
        (f cx (cx.view s.ref k) (cx.operands s k)).2.2 := by
  simp only [Cx.invalid, Bool.and_eq_true] at hi
  obtain ⟨⟨he, ht⟩, hb⟩ := hi
  exact ⟨he, (h _ _).trans (if_pos (Bool.and_eq_true_iff.2 ⟨ht, hb⟩))⟩
/-- What another enabled thread answers. -/
theorem AnswersFp.val (h : AnswersFp cx g op elem f) (hi : cx.invalid s f k = false) (he : cx.enabled k = true) :
    g cx (cx.view s.ref k) (cx.opnds (cx.view s.ref k)) =
      .val (f cx (cx.view s.ref k) (cx.operands s k)).1 (f cx (cx.view s.ref k) (cx.operands s k)).2.1
        (f cx (cx.view s.ref k) (cx.operands s k)).2.2 := by
  simp only [Cx.invalid, he, Bool.true_and] at hi
  exact (h _ _).trans (if_neg (Bool.eq_false_iff.1 hi))

/-- A thread that takes FP_INVALID gives D nothing (02 R48). -/
theorem AnswersFp.gives (h : AnswersFp cx g op elem f) : cx.aluGives (g cx) s.ref k =
    if cx.invalid s f k then none else cx.offers (fun k => (f cx (cx.view s.ref k) (cx.operands s k)).1) k := by
  unfold Cx.aluGives Cx.offers
  cases hi : cx.invalid s f k with
  | true =>
    obtain ⟨he, ht⟩ := h.trap hi
    simp [he, ht]
  | false =>
    cases he : cx.enabled k with
    | true => simp [h.val hi he]
    | false => rfl

/-- It enters its handler at its own PC. -/
theorem AnswersFp.thread_invalid (h : AnswersFp cx g op elem f) (hi : cx.invalid s f k = true) (hc : CanTrap cx)
    (hk : k ∈ cx.tids) (lats : Bool) : cx.aluThread lats (g cx) s.ref k (cx.party.thread k) =
      (cx.takesInvalid s (fun cx v o => op + 256 * elem cx v o) f k (cx.party.thread k), none) := by
  obtain ⟨he, ht⟩ := h.trap hi
  simp [Cx.aluThread, he, ht, Cx.raise, deliver, Thread.orFlags, hc.1, hc.2 k hk, Cx.takesInvalid]

/-- Every other thread completes, masked or not (03 R68). -/
theorem AnswersFp.thread_floats (h : AnswersFp cx g op elem f) (hi : cx.invalid s f k = false) (inside : cx.atEnd = false)
    (lats : Bool) (t : Thread) : cx.aluThread lats (g cx) s.ref k t = (cx.floats s lats f k t, none) := by
  cases he : cx.enabled k with
  | true =>
    cases lats <;>
      simp [Cx.aluThread, Cx.floats, he, h.val hi he, Cx.advance, inside, Cx.gives, Thread.orFlags, Thread.jump, Thread.setLat]
  | false =>
    cases hz : cx.p.z <;> cases lats <;>
      simp [Cx.aluThread, Cx.floats, he, hz, Cx.masked, Cx.advance, inside, Cx.gives, Thread.jump]

end

/-- A group that can take a cause: each thread that raises NV with NVT 1 takes FP_INVALID, each other completes. -/
theorem AnswersFp.trapsIn {lats : Bool} {i : Instr} {g : Cx → View → Opnds → LaneRes} {op : Nat}
    {elem : Cx → View → Opnds → Nat} {f : FpOp} {s : State} {cx : Cx} (h : AnswersFp cx g op elem f)
    (hx : exec i s = runAlu s i lats g) (hr : Runs s i cx) (hc : CanTrap cx) :
    FpTrapsIn s cx lats i (fun cx v o => op + 256 * elem cx v o) f := by
  unfold FpTrapsIn
  rw [hx]
  unfold runAlu
  rw [runWord_issues hr.toIssues]
  refine congrArg _ (mapGroup_takes_at (fun k _ => h.gives) fun k hk => ?_)
  cases hi : cx.invalid s f k with
  | true => exact h.thread_invalid hi hc hk lats
  | false => exact h.thread_floats hi hr.inside lats _

/-- An instruction of one result element names its opcode alone. -/
theorem runAlu_traps {lats : Bool} {i : Instr} {g : Cx → View → Opnds → LaneRes} {op : Nat} {f : FpOp}
    (hx : ∀ s, exec i s = runAlu s i lats g) (hg : ∀ cx, AnswersFp cx g op (fun _ _ _ => 0) f) : FpTraps lats i op f :=
  fun s cx hr hh ht => (hg cx).trapsIn (hx s) hr ⟨hh, ht⟩

/-- Draws are consumed under SR alone (02 R44). -/
theorem FpEnv.draws_eq (e : FpEnv) (n : Nat) : e.draws n = if e.rm = 6 then n else 0 := by
  simp [FpEnv.draws]
/-- The same of an instruction of one rounded result (R110). -/
theorem runFp_traps {i : Instr} {op : Nat} {f : FpEnv → Opnds → Nat × Nat} (hx : ∀ s, exec i s = runFp s i op f) :
    FpTraps true i op (rounded f) :=
  runAlu_traps hx fun cx v _ => congrArg (fpResult op _ 0 _ _) ((cx.fpEnv v).draws_eq 1)
/-- The same of one that rounds nothing (R116, R117). -/
theorem runFpPlain_traps {i : Instr} {op : Nat} {f : Nat → Opnds → Nat × Nat} (hx : ∀ s, exec i s = runFpPlain s i op f) :
    FpTraps true i op (unrounded f) :=
  runAlu_traps hx fun _ _ _ => rfl
/-- A packed multiply-add names the lowest element that raises NV (R112, R126). -/
theorem runPacked_trapsIn {i : Instr} {op : Nat} {m : Fmt} {s : State} {cx : Cx} (hx : exec i s = runPacked s i op m)
    (hr : Runs s i cx) (hc : CanTrap cx) :
    FpTrapsIn s cx true i (fun cx v o => op + 256 * packedElem m cx v o) (packedOp m) :=
  AnswersFp.trapsIn (fun v _ => congrArg (fpResult op _ _ _ _) ((cx.fpEnv v).draws_eq 2)) hx hr hc

/-- A bit of a word, read from its value or from the word. -/
theorem bitOf_toNat {n : Nat} (b : BitVec n) (i : Nat) : bitOf b.toNat i = b.getLsbD i := by
  rw [BitVec.getLsbD, Nat.testBit_eq_decide_div_mod_eq]
  rfl
/-- CVTS whose slot and registers fit converts, and traps for NV alone (R125, R126). -/
theorem execCvts_trapsIn {d a b : BitVec 8} {s : State} {cx : Cx} (hr : Runs s (.cvts d a b) cx) (hc : CanTrap cx)
    (hf : SlotFits cx b) : FpTrapsIn s cx true (.cvts d a b) (fun _ _ _ => 0x47) (slotOp b) := by
  refine AnswersFp.trapsIn (op := 0x47) (elem := fun _ _ _ => 0) (fun v o => ?_) rfl hr hc
  obtain ⟨hw, hkp, hreg⟩ := hf
  have planes : ¬(b.toNat / 8 % 8 != 0 && (slotEfmt (cx.launch.fmtSlot (b.toNat % 8)) != 0x0D ||
      decide (slotPlanes (cx.launch.fmtSlot (b.toNat % 8)) ≤ b.toNat / 8 % 8))) = true := by
    rcases hkp with h0 | ⟨he, hp⟩
    · simp [h0]
    · simp [he, hp]
  have fits : ¬(slotEfmt (cx.launch.fmtSlot (b.toNat % 8)) == 1 &&
      !elemRegOk (if b.getLsbD 7 then cx.areg else cx.dreg)) = true := by
    simpa using hreg
  simp only [bitOf_toNat]
  rw [if_neg (by simpa using hw), if_neg planes, if_neg fits, FpEnv.draws_eq]
  rfl

end Sys2Proof.Machine
end

section

namespace Sys2Proof.Machine

/-! ## NaN operands (02 R37, R38) -/

theorem Val.isNan_negate (x : Val) : x.negate.isNan = x.isNan := by
  cases x <;> rfl
theorem Val.isSig_negate (x : Val) : x.negate.isSig = x.isSig := by
  cases x <;> rfl

section
variable (m : Fmt) (pol : Pol) (rm draw : Nat) (flush : Bool) {x y : Val}

/-- A sum with a NaN operand: the canonical NaN, and NV for a signalling one. -/
theorem addVals_nan (h : (x.isNan || y.isNan) = true) :
    addVals m pol rm draw flush x y = (m.nan, if x.isSig || y.isSig then 16 else 0) := by
  cases x with
  | nan s => rfl
  | inf a | fin a k ex =>
    cases y with
    | nan s => rfl
    | inf b | fin b l ey => cases h
/-- A quotient with a NaN operand. -/
theorem divVals_nan (h : (x.isNan || y.isNan) = true) :
    divVals m rm draw flush x y = (m.nan, if x.isSig || y.isSig then 16 else 0) := by
  cases x with
  | nan s => rfl
  | inf a | fin a k ex =>
    cases y with
    | nan s => rfl
    | inf b | fin b l ey => cases h
/-- A product with a NaN operand, before it is rounded. -/
theorem mulVals_nan (h : (x.isNan || y.isNan) = true) : mulVals x y = .nan (x.isSig || y.isSig) := by
  cases x with
  | nan s => rfl
  | inf a | fin a k ex =>
    cases y with
    | nan s => rfl
    | inf b | fin b l ey => cases h

theorem mulVals_inf_fin (a b : Bool) (k : Nat) (ex : Int) :
    mulVals (.inf a) (.fin b k ex) = if k = 0 then .nan true else .inf (a != b) := by
  simp [mulVals, Val.isZero, Val.isNeg]
theorem mulVals_fin_inf (a b : Bool) (k : Nat) (ex : Int) :
    mulVals (.fin a k ex) (.inf b) = if k = 0 then .nan true else .inf (a != b) := by
  simp [mulVals, Val.isZero, Val.isNeg]
/-- A product is NaN for a NaN operand and for zero times infinity. -/
theorem isNan_mulVals (x y : Val) :
    (mulVals x y).isNan = (x.isNan || y.isNan || (x.isZero && y.isInf) || (x.isInf && y.isZero)) := by
  rcases x with s | a | ⟨a, k, ex⟩ <;> rcases y with s' | b | ⟨b, l, ey⟩
  case inf.fin => by_cases hl : l = 0 <;> simp [mulVals_inf_fin, hl, Val.isNan, Val.isZero, Val.isInf]
  case fin.inf => by_cases hk : k = 0 <;> simp [mulVals_fin_inf, hk, Val.isNan, Val.isZero, Val.isInf]
  all_goals simp [mulVals, Val.isNan, Val.isZero, Val.isInf]
/-- The product is signalling for a signalling operand and for zero times infinity. -/
theorem isSig_mulVals (x y : Val) :
    (mulVals x y).isSig = (x.isSig || y.isSig || (x.isZero && y.isInf) || (x.isInf && y.isZero)) := by
  rcases x with s | a | ⟨a, k, ex⟩ <;> rcases y with s' | b | ⟨b, l, ey⟩
  case inf.fin => by_cases hl : l = 0 <;> simp [mulVals_inf_fin, hl, Val.isSig, Val.isZero, Val.isInf]
  case fin.inf => by_cases hk : k = 0 <;> simp [mulVals_fin_inf, hk, Val.isSig, Val.isZero, Val.isInf]
  all_goals simp [mulVals, Val.isSig, Val.isZero, Val.isInf]
/-- A multiply-add with a NaN operand: NV for a signalling one, and for a product of zero and infinity whatever the addend. -/
theorem fmaVals_nan {z : Val} (h : (x.isNan || y.isNan || z.isNan) = true) :
    fmaVals m pol rm draw flush x y z = (m.nan,
      if x.isSig || y.isSig || z.isSig || (x.isZero && y.isInf) || (x.isInf && y.isZero) then 16 else 0) := by
  have hn : ((mulVals x y).isNan || z.isNan) = true := by
    rw [isNan_mulVals]
    simp only [Bool.or_eq_true] at h ⊢
    tauto
  have hs : ((mulVals x y).isSig || z.isSig) =
      (x.isSig || y.isSig || z.isSig || (x.isZero && y.isInf) || (x.isInf && y.isZero)) := by
    rw [isSig_mulVals]
    ac_rfl
  exact (addVals_nan m pol rm draw flush hn).trans (by rw [hs])

end

/-- The rounded operations of two operands, where one is a NaN. -/
theorem rounded_nan (m : Fmt) (e : FpEnv) (o : Opnds) (h : ((inVal m e.fp o.a).isNan || (inVal m e.fp o.b).isNan) = true) :
    ∀ r ∈ [addOf m e o, subOf m e o, mulOf m e o, divOf m e o],
      r = (m.nan, if (inVal m e.fp o.a).isSig || (inVal m e.fp o.b).isSig then 16 else 0) := by
  have hadd : addOf m e o = _ := addVals_nan m .nonsat e.rm (e.draw 0) (flushes e.fp m) h
  have hsub : subOf m e o = _ := addVals_nan m .nonsat e.rm (e.draw 0) (flushes e.fp m) (by rwa [Val.isNan_negate])
  have hdiv : divOf m e o = _ := divVals_nan m e.rm (e.draw 0) (flushes e.fp m) h
  have hmul : mulOf m e o = _ := congrArg (roundVal m .nonsat e.rm (e.draw 0) (flushes e.fp m)) (mulVals_nan h)
  rw [Val.isSig_negate] at hsub
  simp only [List.forall_mem_cons]
  exact ⟨hadd, hsub, hmul, hdiv, nofun⟩

end Sys2Proof.Machine

open Sys2Proof Sys2Proof.Machine

/-- Settles O8: every form of 05 that can raise NV computes by fpResult, which traps for NV under NVT; and the exact sum,
product and quotient of a NaN are the canonical NaN. -/
theorem invalidOperationsAndNans : Obligations.InvalidOperationsAndNans := by
  refine ⟨fun d a b => ?_, fun m _ => ⟨rounded_nan m, fun e k x y z h => fmaVals_nan m .nonsat e.rm (e.draw k) (flushes e.fp m) h⟩⟩
  refine ⟨runFp_traps fun _ => rfl, runFp_traps fun _ => rfl, runFp_traps fun _ => rfl, runFp_traps fun _ => rfl,
    runFp_traps fun _ => rfl, runFp_traps fun _ => rfl, runFp_traps fun _ => rfl, runFp_traps fun _ => rfl,
    runFp_traps fun _ => rfl, runFp_traps fun _ => rfl, runFp_traps fun _ => rfl,
    runFpPlain_traps fun _ => rfl, runFpPlain_traps fun _ => rfl, runFpPlain_traps fun _ => rfl,
    runFpPlain_traps fun _ => rfl, runFpPlain_traps fun _ => rfl, runFpPlain_traps fun _ => rfl,
    runFpPlain_traps fun _ => rfl, runFpPlain_traps fun _ => rfl, runFpPlain_traps fun _ => rfl,
    runFpPlain_traps fun _ => rfl, runFpPlain_traps fun _ => rfl, runFpPlain_traps fun _ => rfl,
    runFp_traps fun _ => rfl, runFp_traps fun _ => rfl, runFp_traps fun _ => rfl, runFp_traps fun _ => rfl,
    runAlu_traps (fun _ => rfl) fun _ _ _ => rfl, fun s cx hh ht => ⟨fun hr => ?_, fun hr => ?_, fun hr hf => ?_⟩⟩
  · exact runPacked_trapsIn rfl hr ⟨hh, ht⟩
  · exact runPacked_trapsIn rfl hr ⟨hh, ht⟩
  · exact execCvts_trapsIn hr ⟨hh, ht⟩ hf

end

section
/-! Rounding (02 R41 to R43): what a quotient rounds to in each mode, and that a value which a format holds rounds to itself. -/

namespace Sys2Proof.Machine

/-! ## Rounding to an integer, by mode (R42, R43) -/

/-- Nothing is rounded up where nothing remains. -/
theorem roundsUp_exact {den : Nat} (h : 0 < den) (rm draw : Nat) (neg : Bool) (n : Nat) :
    roundsUp rm draw neg n 0 den = false := by
  unfold roundsUp
  split <;> simp <;> omega
theorem roundInt_exact {num den : Nat} (h : 0 < den) (he : num % den = 0) (rm draw : Nat) (neg : Bool) :
    roundInt rm draw neg num den = (num / den, false) := by
  simp [roundInt, he, roundsUp_exact h]
/-- Rounding gives the quotient or the next integer. -/
theorem roundInt_fst (rm draw : Nat) (neg : Bool) (num den : Nat) : (roundInt rm draw neg num den).1 =
    if roundsUp rm draw neg (num / den) (num % den) den then num / den + 1 else num / den := rfl

/-- The quotient rounded up, by its remainder. -/
theorem ceil_eq {den : Nat} (h : 0 < den) (num : Nat) :
    (num + den - 1) / den = if num % den = 0 then num / den else num / den + 1 := by
  have parts := Nat.div_add_mod num den
  have below := Nat.mod_lt num h
  split <;> refine Nat.div_eq_of_lt_le ?_ ?_ <;> grind

/-- Twice a number is twice its quotient and twice its remainder, and twice the next integer is twice the divisor away. -/
theorem twice_quotient (num den : Nat) : 2 * (num / den) * den + 2 * (num % den) = 2 * num ∧
    2 * (num / den + 1) * den = 2 * (num / den) * den + 2 * den := by
  refine ⟨?_, by ring⟩
  calc 2 * (num / den) * den + 2 * (num % den) = 2 * (den * (num / den) + num % den) := by ring
    _ = 2 * num := by rw [Nat.div_add_mod]
/-- RNE is nearest, and even on a tie. -/
theorem roundInt_rne {den : Nat} (h : 0 < den) (num draw : Nat) (neg : Bool) :
    let n := (roundInt 1 draw neg num den).1
    2 * num ≤ 2 * n * den + den ∧ 2 * n * den ≤ 2 * num + den ∧
      ((2 * num = 2 * n * den + den ∨ 2 * n * den = 2 * num + den) → n % 2 = 0) := by
  have below := Nat.mod_lt num h
  obtain ⟨same, next⟩ := twice_quotient num den
  simp only [roundInt_fst, roundsUp, Bool.or_eq_true, Bool.and_eq_true, decide_eq_true_eq, beq_iff_eq]
  split
  · rw [next]; omega
  · omega
/-- RNA is nearest, and up on a tie. -/
theorem roundInt_rna {den : Nat} (h : 0 < den) (num draw : Nat) (neg : Bool) :
    let n := (roundInt 5 draw neg num den).1
    2 * num < 2 * n * den + den ∧ 2 * n * den ≤ 2 * num + den := by
  have below := Nat.mod_lt num h
  obtain ⟨same, next⟩ := twice_quotient num den
  simp only [roundInt_fst, roundsUp, decide_eq_true_eq]
  split
  · rw [next]; omega
  · omega
/-- RU and RD go to the quotient rounded up for one sign and truncate for the other. -/
theorem roundInt_ru {den : Nat} (h : 0 < den) (num draw : Nat) (neg : Bool) :
    (roundInt 3 draw neg num den).1 = if neg then num / den else (num + den - 1) / den := by
  rw [ceil_eq h]
  cases neg <;> by_cases hr : num % den = 0 <;> simp [roundInt_fst, roundsUp, hr]
theorem roundInt_rd {den : Nat} (h : 0 < den) (num draw : Nat) (neg : Bool) :
    (roundInt 4 draw neg num den).1 = if neg then (num + den - 1) / den else num / den := by
  rw [ceil_eq h]
  cases neg <;> by_cases hr : num % den = 0 <;> simp [roundInt_fst, roundsUp, hr]
/-- Every mode gives one of the two neighbours. -/
theorem roundInt_neighbour (rm draw : Nat) (neg : Bool) (num den : Nat) :
    (roundInt rm draw neg num den).1 = num / den ∨ (roundInt rm draw neg num den).1 = num / den + 1 := by
  rw [roundInt_fst]
  split
  · exact .inr rfl
  · exact .inl rfl

/-! ## Exact values as quotients (R41) -/

/-- In units of its own power of two, a value is its integer. -/
theorem scaleQ_quot (k : Nat) (ex : Int) : scaleQ (quot k ex).1 (quot k ex).2 ex = (k, 0, 2 ^ ex.natAbs) := by
  by_cases h : 0 ≤ ex
  · have hn : ex.toNat = ex.natAbs := by omega
    simp [scaleQ, quot, h, hn]
  · have hn : (-ex).toNat = ex.natAbs := by omega
    simp [scaleQ, quot, h, hn]

/-- A power of two more adds to the logarithm. -/
theorem log2_mul_two_pow {k : Nat} (hk : k ≠ 0) (n : Nat) : (k * 2 ^ n).log2 = k.log2 + n := by
  rw [Nat.log2_eq_iff (by positivity)]
  have lower := Nat.log2_self_le hk
  have upper := Nat.lt_log2_self (n := k)
  constructor
  · rw [pow_add]
    exact Nat.mul_le_mul_right _ lower
  · rw [show k.log2 + n + 1 = k.log2 + 1 + n by omega, pow_add]
    exact Nat.mul_lt_mul_of_pos_right upper (by positivity)

/-- In units of the power of two that log2 names, a positive value is at least one. -/
theorem scaleQ_log2 {k : Nat} (hk : k ≠ 0) (ex : Int) : (scaleQ (quot k ex).1 (quot k ex).2 (k.log2 + ex)).1 ≠ 0 := by
  have lower := Nat.log2_self_le hk
  by_cases h : 0 ≤ ex
  · have hg : (0 : Int) ≤ k.log2 + ex := by omega
    have hn : ((k.log2 : Int) + ex).toNat = k.log2 + ex.toNat := by omega
    simp only [scaleQ, quot, h, hg, hn, if_true, one_mul, pow_add]
    exact (Nat.div_pos (Nat.mul_le_mul_right _ lower) (by positivity)).ne'
  · by_cases hg : (0 : Int) ≤ k.log2 + ex
    · have hn : (-ex).toNat + ((k.log2 : Int) + ex).toNat = k.log2 := by omega
      simp only [scaleQ, quot, h, hg, if_true, if_false, ← pow_add, hn]
      exact (Nat.div_pos lower (by positivity)).ne'
    · have hn : (-ex).toNat = k.log2 + (-((k.log2 : Int) + ex)).toNat := by omega
      simp only [scaleQ, quot, h, hg, if_false]
      rw [hn, pow_add]
      exact (Nat.div_pos (Nat.mul_le_mul_right _ lower) (by positivity)).ne'
/-- The logarithm of a value's quotient. -/
theorem floorLog_quot {k : Nat} (hk : k ≠ 0) (ex : Int) : floorLog (quot k ex).1 (quot k ex).2 = k.log2 + ex := by
  have hg : ((quot k ex).1.log2 : Int) - ((quot k ex).2.log2 : Int) = k.log2 + ex := by
    unfold quot
    split
    · simp only [log2_mul_two_pow hk, show Nat.log2 1 = 0 from rfl]
      omega
    · simp only [Nat.log2_two_pow]
      omega
  simp [floorLog, hg, scaleQ_log2 hk ex]

/-! ## A value that a format holds (R36, R41, R42) -/

/-- The magnitude of an encoding whose value is k times 2^ex, ex a place of the format. -/
def Fmt.magOf (m : Fmt) (k : Nat) (ex : Int) : Nat := (ex - m.qmin).toNat * 2 ^ m.f + k

/-- A value whose least place is that of the format at its magnitude rounds to itself, and no flag is raised. -/
theorem roundFin_exact {m : Fmt} {k : Nat} {ex : Int} (hk : k ≠ 0) (place : max ((k.log2 : Int) + ex - m.f) m.qmin = ex)
    (hmax : m.magOf k ex ≤ m.maxMag) (pol : Pol) (rm draw : Nat) (neg : Bool) :
    roundFin m pol rm draw false neg k ex = (m.signed neg (m.magOf k ex), 0) := by
  have hd : 0 < 2 ^ ex.natAbs := by positivity
  unfold Fmt.magOf at hmax
  simp [roundFin, roundMag, hk, floorLog_quot hk, place, scaleQ_quot, roundsUp_exact hd, Nat.not_lt.2 hmax, Fmt.magOf]

/-- The magnitude of an encoding is its exponent field above its fraction. -/
theorem Fmt.mag_fields (m : Fmt) (x : Nat) : fld x 0 (m.e + m.f) = fld x m.f m.e * 2 ^ m.f + fld x 0 m.f := by
  simp only [fld, pow_zero, Nat.div_one]
  rw [Nat.add_comm m.e, pow_add, Nat.mod_mul]
  ring
/-- An encoding is its sign and its magnitude. -/
theorem Fmt.signed_fields {m : Fmt} {x : Nat} (h : x < 2 ^ (m.e + m.f + 1)) :
    m.signed (bitOf x (m.e + m.f)) (fld x 0 (m.e + m.f)) = x := by
  have parts := Nat.div_add_mod x (2 ^ (m.e + m.f))
  have top : x / 2 ^ (m.e + m.f) < 2 := Nat.div_lt_of_lt_mul (by rwa [← pow_succ])
  simp only [Fmt.signed, bitOf, fld, pow_zero, Nat.div_one, Nat.mod_eq_of_lt top]
  rcases Nat.lt_succ_iff.1 top |>.lt_or_eq with h0 | h1
  · rw [Nat.lt_one_iff.1 h0] at parts ⊢
    simpa using parts
  · rw [h1] at parts ⊢
    simpa [Nat.add_comm] using parts

/-- The value of an exponent field and a fraction where they encode neither a NaN nor infinity (R36). -/
theorem fin_of_fields {s neg : Bool} {ef fr f k : Nat} {q ex : Int}
    (h : (if ef == 0 then Val.fin s fr q else .fin s (fr + 2 ^ f) (q + (ef - 1 : Nat))) = .fin neg k ex) :
    s = neg ∧ (ef = 0 ∧ k = fr ∧ ex = q ∨ ef ≠ 0 ∧ k = fr + 2 ^ f ∧ ex = q + (ef - 1 : Nat)) := by
  split at h <;> rename_i h0 <;> cases h <;> simp_all
/-- What the fields of a finite encoding say of its value (R36, R37). -/
theorem Fmt.decode_fin {m : Fmt} {x : Nat} {neg : Bool} {k : Nat} {ex : Int} (h : m.decode x = .fin neg k ex) :
    bitOf x (m.e + m.f) = neg ∧ fld x 0 (m.e + m.f) ≤ m.maxMag ∧
      (fld x m.f m.e = 0 ∧ k = fld x 0 m.f ∧ ex = m.qmin ∨
        fld x m.f m.e ≠ 0 ∧ k = fld x 0 m.f + 2 ^ m.f ∧ ex = m.qmin + (fld x m.f m.e - 1 : Nat)) := by
  have exponent : fld x m.f m.e < 2 ^ m.e := Nat.mod_lt _ (by positivity)
  have fraction : fld x 0 m.f < 2 ^ m.f := Nat.mod_lt _ (by positivity)
  have magnitude : fld x 0 (m.e + m.f) < 2 ^ (m.e + m.f) := Nat.mod_lt _ (by positivity)
  cases hones : m.ones <;> simp only [Fmt.decode, Fmt.maxMag, hones] at h ⊢
  case ieee =>
    split at h <;> rename_i notOnes
    · split at h <;> cases h
    have below : (fld x m.f m.e + 1) * 2 ^ m.f ≤ (2 ^ m.e - 1) * 2 ^ m.f :=
      Nat.mul_le_mul_right _ (by simp only [beq_iff_eq] at notOnes; omega)
    obtain ⟨sign, fields⟩ := fin_of_fields h
    refine ⟨sign, ?_, fields⟩
    rw [Fmt.mag_fields]
    rw [Nat.succ_mul] at below
    omega
  case e4m3 =>
    split at h <;> rename_i notNan
    · cases h
    obtain ⟨sign, fields⟩ := fin_of_fields h
    exact ⟨sign, by simp only [beq_iff_eq] at notNan; omega, fields⟩
  case normal =>
    obtain ⟨sign, fields⟩ := fin_of_fields h
    exact ⟨sign, by omega, fields⟩

/-- The magnitude of the value that an encoding has is the encoding's. -/
theorem Fmt.magOf_decode {m : Fmt} {x : Nat} {neg : Bool} {k : Nat} {ex : Int} (h : m.decode x = .fin neg k ex) :
    m.magOf k ex = fld x 0 (m.e + m.f) := by
  obtain ⟨-, -, ⟨h0, rfl, rfl⟩ | ⟨h0, rfl, rfl⟩⟩ := Fmt.decode_fin h <;> rw [Fmt.mag_fields, Fmt.magOf]
  · simp [h0]
  · obtain ⟨n, hn⟩ := Nat.exists_eq_succ_of_ne_zero h0
    simp [hn, Nat.succ_mul]
    omega
/-- A nonzero value's least place is that of its format at its magnitude. -/
theorem Fmt.place_decode {m : Fmt} {x : Nat} {neg : Bool} {k : Nat} {ex : Int} (h : m.decode x = .fin neg k ex) (hk : k ≠ 0) :
    max ((k.log2 : Int) + ex - m.f) m.qmin = ex := by
  have fraction : fld x 0 m.f < 2 ^ m.f := Nat.mod_lt _ (by positivity)
  obtain ⟨-, -, ⟨h0, rfl, rfl⟩ | ⟨h0, rfl, rfl⟩⟩ := Fmt.decode_fin h
  · have subnormal : (fld x 0 m.f).log2 < m.f := (Nat.log2_lt hk).2 fraction
    omega
  · have normal : (fld x 0 m.f + 2 ^ m.f).log2 = m.f := (Nat.log2_eq_iff hk).2 ⟨by omega, by rw [pow_succ]; omega⟩
    omega

/-- An encoding's finite value, rounded to its own format in any mode and policy, is that encoding, and no flag is raised. -/
theorem roundFin_decode {m : Fmt} {x : Nat} {neg : Bool} {k : Nat} {ex : Int} (hx : x < 2 ^ (m.e + m.f + 1))
    (h : m.decode x = .fin neg k ex) (pol : Pol) (rm draw : Nat) : roundFin m pol rm draw false neg k ex = (x, 0) := by
  obtain ⟨sign, finite, fields⟩ := Fmt.decode_fin h
  have encoded : m.signed neg (m.magOf k ex) = x := by
    rw [Fmt.magOf_decode h, ← sign]
    exact Fmt.signed_fields hx
  by_cases hk : k = 0
  · have zero : m.magOf 0 ex = 0 := by
      obtain ⟨-, -, rfl⟩ | ⟨-, h1, -⟩ := fields
      · simp [Fmt.magOf]
      · have := Nat.two_pow_pos m.f
        omega
    subst hk
    rw [zero] at encoded
    simp [roundFin, encoded]
  · rw [roundFin_exact hk (Fmt.place_decode h hk) (by rwa [Fmt.magOf_decode h]), encoded]

end Sys2Proof.Machine

open Sys2Proof Sys2Proof.Machine

/-- Settles O9: each mode's choice between the two neighbours of a quotient, by its remainder; and a finite encoding's value
is a multiple of the least place that roundMag rounds to, so nothing remains. -/
theorem roundingIsByTheNamedMode : Obligations.RoundingIsByTheNamedMode := by
  refine ⟨fun draw num den neg h _ => ?_, fun m _ pol rm draw x neg k ex hx hd => roundFin_decode hx hd pol rm draw⟩
  exact ⟨roundInt_rne h num draw neg, rfl, roundInt_ru h num draw neg, roundInt_rd h num draw neg,
    roundInt_rna h num draw neg, roundInt_neighbour 6 draw neg num den,
    fun he rm => by simp [roundInt_exact h he]⟩

end

section
/-! The encoding (03_encoding.md R59, R60, R72, R76): the fields of an encoded instruction name it by the opcode table, and each
row of the table holds at every opcode byte the instruction that the encoder gives that byte. -/

namespace Sys2Proof.Laws

/-! ## From an instruction to its word and back -/

/-- The word of four bytes decodes by them. -/
theorem decodeWord_append (op d a b : BitVec 8) : decodeWord (op ++ d ++ a ++ b) = ofFields op d a b := by
  obtain ⟨hop, hd, ha, hb⟩ := packWord_fields op d a b
  unfold packWord at hop hd ha hb
  rw [decodeWord, hop, hd, ha, hb]

/-- The opcode byte and fields of an encoded instruction name it: those with an immediate and X_PREFIX put their bytes together
again, an unassigned word is all its bytes, and every other row of the table takes the three bytes as they are. -/
theorem ofFields_fieldsOf (i : Instr) : Encoded.Statement i := by
  cases i with
  | li d imm => exact Encoded.li d imm
  | lih d imm => exact Encoded.lih d imm
  | bnz d imm => exact Encoded.bnz d imm
  | bz d imm => exact Encoded.bz d imm
  | waitn d imm => exact Encoded.waitn d imm
  | uli d imm => exact Encoded.uli d imm
  | ulih d imm => exact Encoded.ulih d imm
  | ubnz d imm => exact Encoded.ubnz d imm
  | ubz d imm => exact Encoded.ubz d imm
  | xPrefix fields => exact Encoded.xPrefix fields
  | unassignedUniformOpcode word => exact Encoded.unassignedUniformOpcode word
  | _ => intro _ _ _ _ _ h; cases h <;> rfl

/-- A word is the pack of its instruction's fields. -/
theorem encode_eq_some {i : Instr} {w : Word} (h : encode i = some w) :
    ∃ op d a b, fieldsOf i = some (op, d, a, b) ∧ packWord op d a b = w := by
  obtain ⟨⟨op, d, a, b⟩, hf, hw⟩ := Option.map_eq_some_iff.1 h
  exact ⟨op, d, a, b, hf, hw⟩

/-- A well-formed instruction is what its word decodes to. -/
theorem decodeWord_of_encode {i : Instr} {w : Word} (hi : i.wf = true) (h : encode i = some w) : decodeWord w = i := by
  obtain ⟨op, d, a, b, hf, rfl⟩ := encode_eq_some h
  exact (decodeWord_append op d a b).trans (ofFields_fieldsOf i hi op d a b hf)

/-- The bytes of a word decode to its instruction, and nothing is left over (R7, R59). -/
theorem decode_wordBytes (w : Word) : decode (wordBytes w) = .ok (decodeWord w, []) :=
  congrArg (fun w => Except.ok (decodeWord w, [])) (packWord_bytes w)

/-! ## From a word to its instruction and back -/

/-- A row of the opcode table whose first opcode byte is base: the encoder gives its instructions ascending bytes from there, and
their fields. -/
def RowEncodes (base : Nat) (row : List (BitVec 8 → BitVec 8 → BitVec 8 → Instr)) : Prop :=
  ∀ d a b, row.map (fun f => fieldsOf (f d a b)) = (List.range row.length).map fun k => some (BitVec.ofNat 8 (base + k), d, a, b)

/-- The bytes of a halfword put together from two. -/
theorem bytes_immOf (a b : BitVec 8) : (immOf a b).extractLsb' 8 8 = a ∧ (immOf a b).extractLsb' 0 8 = b :=
  ⟨BitVec.extractLsb'_append_eq_left, BitVec.extractLsb'_append_eq_right⟩
/-- The bytes of an X_PREFIX's fields put together from three. -/
theorem bytes_prefixFields (d a b : BitVec 8) :
    (d ++ a ++ b).extractLsb' 16 8 = d ∧ (d ++ a ++ b).extractLsb' 8 8 = a ∧ (d ++ a ++ b).extractLsb' 0 8 = b :=
  ⟨(BitVec.extractLsb'_append_eq_of_le (by omega)).trans BitVec.extractLsb'_append_eq_left,
    (BitVec.extractLsb'_append_eq_of_le (by omega)).trans BitVec.extractLsb'_append_eq_right, BitVec.extractLsb'_append_eq_right⟩

theorem opRow0_encodes : RowEncodes 0 opRow0 := fun _ _ _ => rfl
theorem opRow1_encodes : RowEncodes 32 opRow1 := fun _ a b => by
  simp [opRow1, fieldsOf, bytes_immOf a b, List.range_succ]
theorem opRow2_encodes : RowEncodes 64 opRow2 := fun _ a b => by
  simp [opRow2, fieldsOf, bytes_immOf a b, List.range_succ]
theorem opRow3_encodes : RowEncodes 96 opRow3 := fun d a b => by
  simp [opRow3, fieldsOf, bytes_prefixFields d a b, List.range_succ]
theorem opRow4_encodes : RowEncodes 128 opRow4 := fun _ a b => by
  simp [opRow4, fieldsOf, bytes_immOf a b, List.range_succ]
theorem opRow5_encodes : RowEncodes 160 opRow5 := fun _ _ _ => rfl
/-- A row without instructions, for unassigned opcode bytes. -/
theorem emptyRow_encodes (base : Nat) : RowEncodes base [] := fun _ _ _ => rfl

/-- The row of the opcode table for an opcode byte (R72, R76). -/
def opRow (op : BitVec 8) : List (BitVec 8 → BitVec 8 → BitVec 8 → Instr) :=
  if op.toNat < 128 then
    if op.toNat < 64 then (if op.toNat < 32 then opRow0 else opRow1)
    else (if op.toNat < 96 then opRow2 else opRow3)
  else
    if op.toNat < 192 then (if op.toNat < 160 then opRow4 else opRow5)
    else (if op.toNat < 224 then opRow6 else opRow7)

/-- The row of an opcode byte begins at the multiple of 32 below it. -/
theorem opRow_encodes (op : BitVec 8) : RowEncodes (op.toNat / 32 * 32) (opRow op) := by
  have row (n : Nat) {r} (h : RowEncodes (n * 32) r) (hn : op.toNat / 32 = n) : RowEncodes (op.toNat / 32 * 32) r := by rwa [hn]
  have := op.isLt
  unfold opRow
  split_ifs
  · exact row 0 opRow0_encodes (by omega)
  · exact row 1 opRow1_encodes (by omega)
  · exact row 2 opRow2_encodes (by omega)
  · exact row 3 opRow3_encodes (by omega)
  · exact row 4 opRow4_encodes (by omega)
  · exact row 5 opRow5_encodes (by omega)
  · exact emptyRow_encodes _
  · exact emptyRow_encodes _

/-- The decoder takes the instruction at the opcode byte's place in its row, and an unassigned word where there is none. -/
theorem ofFields_eq (op d a b : BitVec 8) :
    ofFields op d a b = ((opRow op)[op.toNat % 32]?.map fun f => f d a b).getD (.unassignedUniformOpcode (packWord op d a b)) := by
  show (match (opRow op)[op.toNat % 32]? with | some f => f d a b | none => .unassignedUniformOpcode (packWord op d a b)) = _
  cases (opRow op)[op.toNat % 32]? <;> rfl

/-- The encoder gives every opcode byte and field bytes back. -/
theorem fieldsOf_ofFields (op d a b : BitVec 8) : fieldsOf (ofFields op d a b) = some (op, d, a, b) := by
  rw [ofFields_eq]
  cases hf : (opRow op)[op.toNat % 32]? with
  | none =>
    obtain ⟨hop, hd, ha, hb⟩ := packWord_fields op d a b
    simp [fieldsOf, hop, hd, ha, hb]
  | some f =>
    have place : op.toNat % 32 < (opRow op).length := (List.getElem?_eq_some_iff.1 hf).1
    have byte : op.toNat / 32 * 32 + op.toNat % 32 = op.toNat := by omega
    have at_place := congrArg (·[op.toNat % 32]?) (opRow_encodes op d a b)
    simpa [hf, List.getElem?_range place, byte] using at_place

/-- Every word is the encoding of the instruction that it decodes to. -/
theorem encode_decodeWord (w : Word) : encode (decodeWord w) = some w := by
  simp only [encode, decodeWord, fieldsOf_ofFields, Option.map_some, packWord_bytes]
/-- No two words decode to one instruction. -/
theorem decodeWord_injective : Function.Injective decodeWord := fun w w' h =>
  Option.some_injective _ ((encode_decodeWord w).symm.trans ((congrArg encode h).trans (encode_decodeWord w')))

end Sys2Proof.Laws
end

section
open Sys2Proof Sys2Proof.Laws

/-- Settles O10: the fields of an encoded instruction name it by the opcode table, and the bytes of a word are those fields. -/
theorem decodeGivesBackEveryEncodedInstruction : Obligations.DecodeGivesBackEveryEncodedInstruction := by
  intro i w hi hw
  rw [decode_wordBytes, decodeWord_of_encode hi hw]

/-- Settles O11: each row of the opcode table holds, at every opcode byte, the instruction that the encoder gives that byte. -/
theorem everyWordIsTheEncodingOfItsInstruction : Obligations.EveryWordIsTheEncodingOfItsInstruction :=
  ⟨encode_decodeWord, fun _ _ h => decodeWord_injective h⟩

/-- Settles O12: each word decodes by its four bytes. -/
theorem writtenOutWordsDecode : Obligations.WrittenOutWordsDecode := by
  unfold Obligations.WrittenOutWordsDecode
  simp only [decodeWord_append]
  exact ⟨rfl, rfl, rfl, rfl, rfl, rfl, rfl, rfl, rfl, rfl, rfl, rfl, rfl, rfl, rfl, rfl, rfl, rfl, rfl, rfl⟩

end

section
/-! What an instruction word does that fails a check of R78, and what the trap instructions do to a group that can take their
cause (03_encoding.md R78, R79; 09_traps.md R220, R225, R226). -/

namespace Sys2Proof.Machine

/-! ## Handler entry (09 R220) -/

/-- A wait that ends changes the wait and, for a BAR, the arrival it keeps, and nothing else. -/
theorem Thread.dropHold_eq (t : Thread) : ∃ kept, t.dropHold = { t with hold := none, barKept := kept } := by
  unfold Thread.dropHold
  split
  · exact ⟨_, rfl⟩
  all_goals exact ⟨t.barKept, rfl⟩

/-- A thread of a group that can take a cause enters its handler, with the PC that the cause's kind gives. -/
theorem deliver_enters {cx : Cx} (h : CanTrap cx) {k : Nat} (hk : k ∈ cx.tids) (tpc : Pc) (tr : Trap) :
    deliver cx.hpc tpc k tr (cx.party.thread k) = ((cx.party.thread k).enter cx.hpc tpc tr, none) := by
  obtain ⟨entry, normal⟩ := h
  simp [deliver, normal k hk, entry]

/-- A thread whose instruction is not the last of its segment goes to the next PC (06 R130). -/
theorem advance_inside {cx : Cx} (h : cx.atEnd = false) (k : Nat) (t : Thread) : cx.advance k t = (t.jump cx.npc, none) := by
  simp [Cx.advance, h, Thread.jump]

/-- A cause for the threads that the mask enables: they enter the handler, and the others go on. -/
theorem mapGroup_enabled_enter {cx : Cx} (hc : CanTrap cx) (inside : cx.atEnd = false) (s : State) (tpc : Pc) (tr : Nat → Trap) :
    cx.mapGroup s (fun k t => if cx.enabled k then deliver cx.hpc tpc k (tr k) t else cx.advance k t) =
      cx.goes s cx.party fun k t => if cx.enabled k then t.enter cx.hpc tpc (tr k) else t.jump cx.npc := by
  refine mapGroup_goes_at fun k hk => ?_
  split
  · exact deliver_enters hc hk tpc (tr k)
  · exact advance_inside inside k _

/-! ## Words that fail a check (03 R78, R79) -/

/-- A context is that of the group in front of exec, in its slot, and of an instruction that has an encoding. -/
theorem cx_names {s : State} {i : Instr} {cx : Cx} (h : cx? s i = some cx) :
    s.issue = some cx.issue ∧ cx.slot = cx.issue.slot ∧ (fieldsOf i).isSome = true := by
  unfold cx? at h
  repeat (split at h <;> try cases h)
  refine ⟨by assumption, rfl, ?_⟩
  apply Option.isSome_of_eq_some
  assumption

/-- A word that fails a check gives every thread of the group the cause, whatever its body says. -/
theorem runWord_fails {s : State} {i : Instr} {cx : Cx} {c : Nat} (h : cx? s i = some cx)
    (hc : encCheck cx.form cx.p i cx.d cx.a cx.b cx.party.nv cx.issue.handler = some c) (body : Cx → State → State) :
    runWord s i body = .next (cx.trapAll s { cause := c }) := by
  simp [runWord, h, hc]

/-! ## Trap instructions (03 R76; 09 R225, R226) -/

/-- An unassigned uniform opcode gives every thread of the group OPC_RSVD. -/
theorem exec_unassigned {s : State} {word : Word} {cx : Cx} (h : cx? s (.unassignedUniformOpcode word) = some cx)
    (hc : CanTrap cx) :
    exec (.unassignedUniformOpcode word) s = .next (cx.goes s cx.party fun _ t => t.enter cx.hpc cx.pc { cause := 0x01 }) := by
  show execUnassignedUniformOpcode word s = _
  simp only [execUnassignedUniformOpcode, h, trapAll_enters hc]
  rfl

/-- TRAP: the enabled threads take the software trap of code b at the next PC. -/
theorem exec_trap {s : State} {d a b : BitVec 8} {cx : Cx} (h : Runs s (.trap d a b) cx) (hc : CanTrap cx) :
    exec (.trap d a b) s = .next (cx.goes s cx.party fun k t =>
      if cx.enabled k then t.enter cx.hpc cx.npc { cause := 0x30 + b.toNat, tinfo := (cx.operands s k).a } else t.jump cx.npc) := by
  show execTrap d a b s = _
  rw [execTrap, runWord_issues h.toIssues]
  exact congrArg _ (mapGroup_enabled_enter hc h.inside s cx.npc fun k => ⟨0x30 + b.toNat, 0, (cx.operands s k).a⟩)

/-- UTRAP: every thread takes it. -/
theorem exec_utrap {s : State} {d a b : BitVec 8} {cx : Cx} (h : Issues s (.utrap d a b) cx) (hc : CanTrap cx) :
    exec (.utrap d a b) s = .next (cx.goes s cx.party fun _ t =>
      t.enter cx.hpc cx.npc { cause := 0x30 + b.toNat, tinfo := (cx.uniOperands s).a }) := by
  show execUtrap d a b s = _
  rw [execUtrap, runWord_issues h]
  exact congrArg _ (mapGroup_goes_at fun k hk => deliver_enters hc hk cx.npc _)

/-- BKPT: the enabled threads take BREAK at its own PC. -/
theorem exec_bkpt {s : State} {d a b : BitVec 8} {cx : Cx} (h : Runs s (.bkpt d a b) cx) (hc : CanTrap cx) :
    exec (.bkpt d a b) s = .next (cx.goes s cx.party fun k t =>
      if cx.enabled k then t.enter cx.hpc cx.pc { cause := 0x19, tinfo := b.toNat } else t.jump cx.npc) := by
  show execBkpt d a b s = _
  rw [execBkpt, runWord_issues h.toIssues]
  exact congrArg _ (mapGroup_enabled_enter hc h.inside s cx.pc fun _ => ⟨0x19, 0, b.toNat⟩)

end Sys2Proof.Machine

open Sys2Proof Sys2Proof.Machine

/-- Settles O15: every such word first goes through the checks of R78, and the first that fails is what every thread takes. -/
theorem wordsThatFailTheirChecksTrap : Obligations.WordsThatFailTheirChecksTrap := by
  intro s i cx c hcx notPrefix assigned hc canTrap
  obtain ⟨-, -, encoded⟩ := cx_names hcx
  obtain ⟨body, hbody⟩ := exec_word i encoded notPrefix assigned
  rw [hbody, runWord_fails hcx hc, trapAll_enters canTrap]

/-- Settles O16: each trap instruction delivers its cause to the threads it traps, and handler entry is a record update. -/
theorem trapInstructionsEnterTheHandler : Obligations.TrapInstructionsEnterTheHandler := by
  refine ⟨⟨fun _ _ _ h hc => exec_unassigned h hc, fun d a b =>
    ⟨fun _ _ h hc => exec_trap h hc, fun _ _ h hc => exec_utrap h hc, fun _ _ h hc => exec_bkpt h hc⟩⟩, fun t hpc tpc tr => ?_⟩
  obtain ⟨kept, ht⟩ := t.dropHold_eq
  simp [Thread.enter, ht]

end

section
/-! A step of a group (03_encoding.md R59, R65; log entries 1 and 72): the fetched word runs, behind an X_PREFIX the lane word at
the next PC with that word latched. -/

namespace Sys2Proof.Machine

/-! ## The group in front of exec -/

/-- The package with a group in front of exec. -/
def State.issuing (s : State) (g : Issue) : State := { s with issue := some g }

/-- The word of the group is fetched at its PC, or behind its X_PREFIX at the next. -/
theorem issueWord_issuing {s : State} {g : Issue} {p : Party} (h : s.party? g.slot = some p) :
    issueWord (s.issuing g) = fetchWord s (coreOf g.slot) p.lid (if g.pfx.isSome then g.pc + 1 else g.pc) := by
  show (match s.party? g.slot with
    | none => none
    | some p => fetchWord s (coreOf g.slot) p.lid (if g.pfx.isSome then g.pc + 1 else g.pc)) = _
  rw [h]

/-- A group in front of exec is its context's, and so is its party. -/
theorem cx_issuing {s : State} {g : Issue} {i : Instr} {cx : Cx} {p : Party} (h : cx? (s.issuing g) i = some cx)
    (hp : s.party? g.slot = some p) : cx.issue = g ∧ cx.slot = g.slot ∧ cx.party = p := by
  obtain ⟨issue, slot, -⟩ := cx_names h
  obtain rfl : g = cx.issue := Option.some.inj issue
  have party : s.party? cx.slot = some cx.party := (cx_party h :)
  rw [slot, hp] at party
  exact ⟨rfl, slot, (Option.some.inj party).symm⟩

/-! ## X_PREFIX (03 R65) -/

/-- A lane word that is no X_PREFIX may stand behind one. -/
theorem barsPrefix_lane {w : Word} (lane : w.getLsbD 31 = false) (plain : isPrefix (decodeWord w) = false) :
    barsPrefix w = false := by
  have opcode : fld w.toNat 24 8 ≠ 0x7F := by
    intro h
    have byte : w.extractLsb' 24 8 = 0x7F#8 :=
      BitVec.eq_of_toNat_eq (by simpa [fld, Nat.shiftRight_eq_div_pow] using h)
    rw [decodeWord, byte] at plain
    cases plain
  simp only [barsPrefix, bitOf_toNat, lane, Bool.false_or, beq_eq_false_iff_ne, ne_eq, opcode, not_false_eq_true]

/-- An X_PREFIX may stand in front of such a word of its segment. -/
theorem pfxMisplaced_lane {s : State} {cx : Cx} {w : Word} (inside : wordOf cx.pc ≠ 1023)
    (hw : fetchWord s cx.core cx.party.lid (cx.pc + 1) = some w) (lane : w.getLsbD 31 = false)
    (plain : isPrefix (decodeWord w) = false) : pfxMisplaced s cx = false := by
  rw [pfxMisplaced, hw, beq_eq_false_iff_ne.2 inside]
  exact barsPrefix_lane lane plain
/-- There it is latched. -/
theorem exec_xPrefix {s : State} {fields : BitVec 24} {cx : Cx} {w : Word} (h : cx? s (.xPrefix fields) = some cx)
    (bare : cx.issue.pfx = none) (inside : wordOf cx.pc ≠ 1023) (hw : fetchWord s cx.core cx.party.lid (cx.pc + 1) = some w)
    (lane : w.getLsbD 31 = false) (plain : isPrefix (decodeWord w) = false) :
    exec (.xPrefix fields) s = .next (s.issuing { cx.issue with pfx := some (prefixWord fields) }) := by
  show execXPrefix fields s = _
  simp only [execXPrefix, h, bare, pfxMisplaced_lane inside hw lane plain]
  rfl

/-- The word of opcode byte 0x7F and its fields decodes to the X_PREFIX of those fields. -/
theorem decodeWord_prefixWord (fields : BitVec 24) : decodeWord (prefixWord fields) = .xPrefix fields := by
  have byte : (prefixWord fields).extractLsb' 24 8 = 0x7F#8 := BitVec.extractLsb'_append_eq_left
  have field (k : Nat) (h : k + 8 ≤ 24) : (prefixWord fields).extractLsb' k 8 = fields.extractLsb' k 8 :=
    BitVec.extractLsb'_append_eq_of_add_le h
  rw [decodeWord, byte, field 16 (by omega), field 8 (by omega), field 0 (by omega)]
  exact congrArg Instr.xPrefix (Laws.prefixFields_bytes fields)
/-- It is the only one that does. -/
theorem prefixWord_of_decodeWord {w : Word} {fields : BitVec 24} (h : decodeWord w = .xPrefix fields) : prefixWord fields = w :=
  Laws.decodeWord_injective ((decodeWord_prefixWord fields).trans h.symm)

/-! ## A step (log entries 1 and 72) -/

/-- A step carries out the agenda's head. -/
theorem step_agenda {s : State} {k : Pick} {rest : List Pick} (h : s.agenda = k :: rest) (live : s.tripped = false) :
    step s = pickStep { s with agenda := rest } k := by
  simp [step, nextPick, h, live]

/-- A group that may issue runs the word at its PC, an X_PREFIX together with the word behind it. -/
theorem issueStep_fetched {s : State} {slot : Nat} {pc : Pc} {handler : Bool} {tids : List Nat} {p : Party} {w : Word}
    (hg : Groups s slot pc handler tids p) (hw : fetchWord s (coreOf slot) p.lid pc = some w) :
    let t := s.issuing { slot := slot, pc := pc, tids := tids, handler := handler, pfx := none }
    issueStep s slot pc handler tids =
      settle (if isPrefix (decodeWord w) then execPair (exec (decodeWord w) t) else exec (decodeWord w) t) := by
  obtain ⟨ok, party⟩ := hg
  intro t
  have word : issueWord t = some w := (issueWord_issuing party).trans hw
  unfold issueStep
  rw [ok]
  show (match issueWord t with | some w => _ | none => _) = _
  rw [word]
  rfl

/-- Behind a latched X_PREFIX the group's lane word runs. -/
theorem execPair_latched {s : State} {g : Issue} {p : Party} {w : Word} (latched : g.pfx.isSome = true)
    (hp : s.party? g.slot = some p) (hw : fetchWord s (coreOf g.slot) p.lid (g.pc + 1) = some w) :
    execPair (.next (s.issuing g)) = exec (decodeWord w) (s.issuing g) := by
  have word : issueWord (s.issuing g) = some w := by rw [issueWord_issuing hp, if_pos latched, hw]
  show (if g.pfx.isSome then (match issueWord (s.issuing g) with | some w => _ | none => _) else _) = _
  rw [if_pos latched, word]

/-- An X_PREFIX is latched in front of the group's lane word, which then runs. -/
theorem execPair_prefix {s : State} {g : Issue} {p : Party} {w w1 : Word} {fields : BitVec 24} (bare : g.pfx = none)
    (hp : s.party? g.slot = some p) (prefixed : decodeWord w = .xPrefix fields)
    (context : (cx? (s.issuing g) (.xPrefix fields)).isSome = true) (inside : wordOf g.pc ≠ 1023)
    (hw1 : fetchWord s (coreOf g.slot) p.lid (g.pc + 1) = some w1) (lane : w1.getLsbD 31 = false)
    (plain : isPrefix (decodeWord w1) = false) :
    execPair (exec (decodeWord w) (s.issuing g)) = exec (decodeWord w1) (s.issuing { g with pfx := some w }) := by
  obtain ⟨cx, hcx⟩ := Option.isSome_iff_exists.1 context
  obtain ⟨rfl, slot, rfl⟩ := cx_issuing hcx hp
  have behind : fetchWord (s.issuing cx.issue) cx.core cx.party.lid (cx.pc + 1) = some w1 := by
    rw [Cx.core, slot]
    exact hw1
  rw [prefixed, exec_xPrefix hcx bare inside behind lane plain, prefixWord_of_decodeWord prefixed]
  exact execPair_latched (s := s) rfl hp hw1

end Sys2Proof.Machine

open Sys2Proof Sys2Proof.Machine

/-- Settles O13: the agenda's head names the group, its word is fetched and runs, and an X_PREFIX is latched in front of the
lane word, which runs in the same step. -/
theorem stepRunsTheDecodedInstruction : Obligations.StepRunsTheDecodedInstruction := by
  intro s rest input live
  refine ⟨?_, fun i h => step_agenda h live⟩
  intro slot pc handler tids p w h s1 hg hw s2
  have runs : step s = settle (if isPrefix (decodeWord w) then execPair (exec (decodeWord w) s2) else exec (decodeWord w) s2) :=
    (step_agenda h live).trans (issueStep_fetched hg hw)
  refine ⟨fun plain => ?_, fun fields w1 prefixed context hw1 inside lane plain => ?_⟩
  · rw [runs, if_neg (by simp [plain])]
  · rw [runs, if_pos (by rw [prefixed]; rfl)]
    exact congrArg settle (execPair_prefix (s := s1) rfl hg.2 prefixed context inside hw1 lane plain)

/-- Settles O14: nothing at the next PC bars the X_PREFIX. -/
theorem prefixIsLatched : Obligations.PrefixIsLatched :=
  fun _ _ _ _ hcx bare inside hw lane plain => exec_xPrefix hcx bare inside hw lane plain

end

section
/-! Operands and results of the integer and bit instructions (04_integer_bit.md R86 to R104): what an instruction's form says of
its operands, and the model's arithmetic on naturals in the words of BitVec. -/

namespace Sys2Proof.Machine

/-! ## The operands that a form gives (01 R21) -/

theorem readWord_lt (v : View) (r : Reg) : readWord v r < 2 ^ 32 := by
  cases r with
  | v n | o n | lat | w n | h n | g n => exact BitVec.isLt _
  | z => exact Nat.two_pow_pos 32
  | tid | special n => exact Nat.mod_lt _ (Nat.two_pow_pos 32)

/-- An operand has no more bits than its registers. -/
theorem readReg_lt (v : View) (w : Width) (r : Reg) : readReg v w r < 2 ^ (32 * w.regs) := by
  have word := readWord_lt v
  unfold readReg
  split
  · have low := v.thread.lat.isLt
    have high := v.thread.latx.isLt
    simp only [Width.regs]
    omega
  · exact word _
  · have low := word r
    have high := word (r.up 1)
    simp only [Width.regs]
    omega
  · have w0 := word r
    have w1 := word (r.up 1)
    have w2 := word (r.up 2)
    have w3 := word (r.up 3)
    simp only [Width.regs]
    omega

/-- The bits of the operand that a field names. -/
def Role.bits (r : Role) : Nat := 32 * (r.width?.getD .one).regs
/-- The bits of the operand that the C field names. -/
def CForm.bits : CForm → Nat
  | .reg w => 32 * w.regs
  | .none | .attr .. | .waitn | .xln | .xred | .bar => 0

/-- Operands of the widths that a form gives them. -/
structure Opnds.Fit (o : Opnds) (f : Form) : Prop where
  d : o.d < 2 ^ f.d.bits
  a : o.a < 2 ^ f.a.bits
  b : o.b < 2 ^ f.b.bits
  c : o.c < 2 ^ f.c.bits

theorem operands_fit (cx : Cx) (s : State) (k : Nat) : (cx.operands s k).Fit cx.form := by
  have field (reads : Bool) (w : Width) (r : Reg) :
      (if reads then readReg (cx.view s.ref k) w r else 0) < 2 ^ (32 * w.regs) := by
    cases reads
    · exact Nat.two_pow_pos _
    · exact readReg_lt ..
  refine ⟨field .., field .., field .., ?_⟩
  show (match cx.form.c with | .reg w => readReg (cx.view s.ref k) w cx.creg | _ => 0) < 2 ^ cx.form.c.bits
  cases cx.form.c with
  | reg w => exact readReg_lt ..
  | none | attr _ _ _ | waitn | xln | xred | bar => exact Nat.two_pow_pos _

/-- A context's form is its instruction's. -/
theorem cx_form {s : State} {i : Instr} {cx : Cx} (h : cx? s i = some cx) : cx.form = formOf cx.launch.fmtSlot cx.p i := by
  unfold cx? at h
  repeat (split at h <;> try cases h)
  rfl

/-! ## A value for every operand of the form's widths -/

section
variable {i : Instr} {f g : Opnds → Nat}

/-- The operands of a group that issues an instruction have the widths that its form gives them. -/
theorem values_agree (hv : ∀ {slots p o}, o.Fit (formOf slots p i) → f o = g o) {s : State} {cx : Cx} (hr : Runs s i cx)
    (k : Nat) : f (cx.operands s k) = g (cx.operands s k) :=
  hv (cx_form hr.context ▸ operands_fit cx s k)

/-- A lane instruction completes with any value that is the model's for operands of its form's widths. -/
theorem runInt_gives {lats : Bool} (hx : ∀ s, exec i s = runInt s i lats f)
    (hv : ∀ {slots p o}, o.Fit (formOf slots p i) → f o = g o) : LaneComputes lats i g := by
  intro s cx hr
  have same := values_agree hv hr
  have threads : cx.computes s lats f = cx.computes s lats g := by
    funext k t
    rw [Cx.computes, Cx.computes, same]
  rw [runInt_computes hx s cx hr, funext same, threads]
/-- And so does a uniform instruction. -/
theorem runUni_gives (hx : ∀ s, exec i s = runUni s i f) (hv : ∀ {slots p o}, o.Fit (formOf slots p i) → f o = g o) :
    UniComputes i g := by
  intro s cx hr
  rw [runUni_computes hx s cx hr, Cx.uniOperands, values_agree hv hr]

end

/-! ## Naturals and words -/

theorem toNat_wa {o : Opnds} (h : o.a < 2 ^ 32) : o.wa.toNat = o.a := Nat.mod_eq_of_lt h
theorem toNat_wb {o : Opnds} (h : o.b < 2 ^ 32) : o.wb.toNat = o.b := Nat.mod_eq_of_lt h
theorem toNat_wc {o : Opnds} (h : o.c < 2 ^ 32) : o.wc.toNat = o.c := Nat.mod_eq_of_lt h
theorem toNat_wd {o : Opnds} (h : o.d < 2 ^ 32) : o.wd.toNat = o.d := Nat.mod_eq_of_lt h
theorem toNat_xa {o : Opnds} (h : o.a < 2 ^ 64) : o.xa.toNat = o.a := Nat.mod_eq_of_lt h
theorem toNat_xb {o : Opnds} (h : o.b < 2 ^ 64) : o.xb.toNat = o.b := Nat.mod_eq_of_lt h

theorem lo32_eq (x : Nat) : lo32 x = (BitVec.ofNat 32 x).toNat := rfl
theorem lo64_eq (x : Nat) : lo64 x = (BitVec.ofNat 64 x).toNat := rfl
theorem wrap_eq (x : Int) (n : Nat) : wrap x n = (BitVec.ofInt n x).toNat := (BitVec.toNat_ofInt x).symm
/-- Sign extension is the signed reading of the low bits. -/
theorem sint_eq (x n : Nat) : sint x n = (BitVec.ofNat n x).toInt := by
  have half : x % 2 ^ n < 2 ^ (n - 1) ↔ 2 * (x % 2 ^ n) < 2 ^ n := by
    cases n with
    | zero => simp [Nat.mod_one]
    | succ n => rw [Nat.add_sub_cancel, pow_succ]; omega
  rw [BitVec.toInt_eq_toNat_cond, BitVec.toNat_ofNat, sint]
  simp only [half]
theorem s32_eq (x : Nat) : s32 x = (BitVec.ofNat 32 x).toInt := sint_eq x 32
theorem s32_a (o : Opnds) : s32 o.a = o.wa.toInt := s32_eq o.a
theorem s32_b (o : Opnds) : s32 o.b = o.wb.toInt := s32_eq o.b
/-- A difference's low bits are the difference of the words. -/
theorem wrap_sub (x y n : Nat) : wrap ((x : Int) - y) n = (BitVec.ofNat n x - BitVec.ofNat n y).toNat := by
  rw [wrap_eq, Int.sub_eq_add_neg, BitVec.ofInt_add, BitVec.ofInt_neg, BitVec.ofInt_natCast, BitVec.ofInt_natCast,
    BitVec.sub_eq_add_neg]

/-! ## Values of R88 and R89 -/

section
variable (o : Opnds)

theorem iaddVal_eq : iaddVal o = (o.wa + o.wb).toNat := congrArg BitVec.toNat (BitVec.ofNat_add o.a o.b)
theorem isubVal_eq : isubVal o = (o.wa - o.wb).toNat := wrap_sub o.a o.b 32
theorem iadd64Val_eq : iadd64Val o = (o.xa + o.xb).toNat := congrArg BitVec.toNat (BitVec.ofNat_add o.a o.b)
theorem isub64Val_eq : isub64Val o = (o.xa - o.xb).toNat := wrap_sub o.a o.b 64
theorem imulVal_eq : imulVal o = (o.wa * o.wb).toNat := congrArg BitVec.toNat (BitVec.ofNat_mul o.a o.b)
theorem imadVal_eq : imadVal o = (o.wa * o.wb + o.wc).toNat := by
  rw [imadVal, lo32_eq, BitVec.ofNat_add, BitVec.ofNat_mul]
  rfl
theorem umadVal_eq : umadVal o = (o.wa * o.wb + o.wd).toNat := by
  rw [umadVal, lo32_eq, BitVec.ofNat_add, BitVec.ofNat_mul]
  rfl
/-- The high word of a signed product is that of the product of the sign-extended words. -/
theorem imulhiVal_eq : imulhiVal o = ((o.wa.signExtend 64 * o.wb.signExtend 64).extractLsb' 32 32).toNat := by
  have product : wrap (s32 o.a * s32 o.b) 64 = (o.wa.signExtend 64 * o.wb.signExtend 64).toNat := by
    rw [wrap_eq, BitVec.ofInt_mul, s32_a, s32_b]
    rfl
  have wide := (o.wa.signExtend 64 * o.wb.signExtend 64).isLt
  rw [imulhiVal, product, BitVec.extractLsb'_toNat, Nat.shiftRight_eq_div_pow]
  omega
/-- IADDS clamps the exact sum. -/
theorem iaddsVal_eq :
    iaddsVal o = (BitVec.ofInt 32 (max (-2147483648) (min 2147483647 (o.wa.toInt + o.wb.toInt)))).toNat := by
  have clamp (x : Int) : satInt x (-2 ^ 31) (2 ^ 31 - 1) = max (-2147483648) (min 2147483647 x) := by
    unfold satInt
    omega
  rw [iaddsVal, wrap_eq, clamp, s32_a, s32_b]

/-- The quotient and the remainder give back the dividend, for a zero divisor too: all ones times 0, plus the dividend. -/
theorem mul_ndivVal_add_nremVal : o.wa = o.wb * BitVec.ofNat 32 (ndivVal o) + BitVec.ofNat 32 (nremVal o) := by
  rw [Opnds.wa, Opnds.wb, ← BitVec.ofNat_mul, ← BitVec.ofNat_add]
  congr 1
  by_cases h : o.b = 0
  · simp [ndivVal, nremVal, h]
  · simp [ndivVal, nremVal, h, Nat.div_add_mod]

end

section
variable {o : Opnds} (ha : o.a < 2 ^ 32) (hb : o.b < 2 ^ 32)
include ha hb

theorem nmulhiVal_eq : nmulhiVal o = ((o.wa.setWidth 64 * o.wb.setWidth 64).extractLsb' 32 32).toNat := by
  have wide : o.a * o.b < 2 ^ 64 := (Nat.mul_lt_mul'' ha hb).trans_eq (by norm_num)
  rw [BitVec.extractLsb'_toNat, BitVec.toNat_mul, BitVec.toNat_setWidth_of_le (by decide),
    BitVec.toNat_setWidth_of_le (by decide), toNat_wa ha, toNat_wb hb, Nat.mod_eq_of_lt wide, Nat.shiftRight_eq_div_pow]
  rfl
theorem nmad64Val_eq : nmad64Val o = (o.wa.setWidth 64 * o.wb.setWidth 64 + o.xc).toNat := by
  rw [nmad64Val, lo64_eq, BitVec.ofNat_add, BitVec.ofNat_mul, ← BitVec.ofNat_toNat, ← BitVec.ofNat_toNat, toNat_wa ha,
    toNat_wb hb]
  rfl
theorem iminVal_eq : iminVal o = (if o.wa.sle o.wb then o.wa else o.wb).toNat := by
  simp only [iminVal, s32_a, s32_b, BitVec.sle_iff_toInt_le, apply_ite BitVec.toNat, toNat_wa ha, toNat_wb hb]
theorem imaxVal_eq : imaxVal o = (if o.wb.sle o.wa then o.wa else o.wb).toNat := by
  simp only [imaxVal, s32_a, s32_b, BitVec.sle_iff_toInt_le, apply_ite BitVec.toNat, toNat_wa ha, toNat_wb hb]
theorem nminVal_eq : nminVal o = (if o.wa ≤ o.wb then o.wa else o.wb).toNat := by
  simp only [nminVal, BitVec.le_def, apply_ite BitVec.toNat, toNat_wa ha, toNat_wb hb]
theorem nmaxVal_eq : nmaxVal o = (if o.wb ≤ o.wa then o.wa else o.wb).toNat := by
  simp only [nmaxVal, BitVec.le_def, apply_ite BitVec.toNat, toNat_wa ha, toNat_wb hb]

omit ha in
theorem wb_eq_zero_iff : o.wb = 0#32 ↔ o.b = 0 := by
  rw [← BitVec.toNat_inj, toNat_wb hb]
  rfl
theorem ndivVal_eq : ndivVal o = if o.wb = 0#32 then 0xFFFFFFFF else (o.wa / o.wb).toNat := by
  simp only [ndivVal, beq_iff_eq, wb_eq_zero_iff hb, BitVec.toNat_udiv, toNat_wa ha, toNat_wb hb]
theorem nremVal_eq : nremVal o = if o.wb = 0#32 then o.wa.toNat else (o.wa % o.wb).toNat := by
  simp only [nremVal, beq_iff_eq, wb_eq_zero_iff hb, BitVec.toNat_umod, toNat_wa ha, toNat_wb hb]

end

end Sys2Proof.Machine
end

section

open Sys2Proof Sys2Proof.Machine

/-- Settles O1: each value of the model is the BitVec formula, for operands as wide as the instruction's form reads them. -/
theorem integerArithmeticCompletes : Obligations.IntegerArithmeticCompletes := by
  refine ⟨fun d a b => ?_, fun d a b => ?_, fun o _ _ => mul_ndivVal_add_nremVal o⟩
  · exact ⟨runInt_gives (fun _ => rfl) fun _ => iaddVal_eq _, runInt_gives (fun _ => rfl) fun _ => isubVal_eq _,
      runInt_gives (fun _ => rfl) fun _ => iadd64Val_eq _, runInt_gives (fun _ => rfl) fun _ => isub64Val_eq _,
      runInt_gives (fun _ => rfl) fun _ => imulVal_eq _, runInt_gives (fun _ => rfl) fun _ => imulhiVal_eq _,
      runInt_gives (fun _ => rfl) fun h => nmulhiVal_eq h.a h.b, runInt_gives (fun _ => rfl) fun _ => imadVal_eq _,
      runInt_gives (fun _ => rfl) fun h => nmad64Val_eq h.a h.b, runInt_gives (fun _ => rfl) fun h => iminVal_eq h.a h.b,
      runInt_gives (fun _ => rfl) fun h => imaxVal_eq h.a h.b, runInt_gives (fun _ => rfl) fun h => nminVal_eq h.a h.b,
      runInt_gives (fun _ => rfl) fun h => nmaxVal_eq h.a h.b, runInt_gives (fun _ => rfl) fun _ => iaddsVal_eq _⟩
  · exact ⟨runInt_gives (fun _ => rfl) fun h => ndivVal_eq h.a h.b, runInt_gives (fun _ => rfl) fun h => nremVal_eq h.a h.b⟩

end

section
/-! Logic, shifts and bit counts (04_integer_bit.md R90 to R92): each value of the model as an operation of BitVec or a list of
the operand's bits. -/

namespace Sys2Proof.Machine

/-! ## Numbers by their bits -/

/-- The model's way to make a number of its bits. -/
theorem ofBits_eq (p : Nat → Bool) (n : Nat) : ofBits p n = bitsWhere n p := by
  induction n with
  | zero => rfl
  | succ n ih => simp [ofBits, ih, bitsWhere, List.range_succ]
theorem bitsWhere_congr {n : Nat} {p q : Nat → Bool} (h : ∀ i < n, p i = q i) : bitsWhere n p = bitsWhere n q := by
  unfold bitsWhere
  rw [List.map_congr_left fun i hi => by rw [h i (List.mem_range.1 hi)]]
/-- A number below 2^n is made of its n low bits. -/
theorem bitsWhere_testBit {x n : Nat} (h : x < 2 ^ n) : bitsWhere n x.testBit = x := by
  have low : ∀ n, bitsWhere n x.testBit = x % 2 ^ n := by
    intro n
    induction n with
    | zero => simp [bitsWhere, Nat.mod_one]
    | succ n ih =>
      rw [← ofBits_eq] at ih ⊢
      rw [ofBits, ih, Nat.mod_pow_succ, Nat.testBit_eq_decide_div_mod_eq]
      rcases Nat.mod_two_eq_zero_or_one (x / 2 ^ n) with h | h <;> simp [h]
  rw [low, Nat.mod_eq_of_lt h]
theorem eq_bitsWhere {x n : Nat} {p : Nat → Bool} (h : x < 2 ^ n) (bits : ∀ i < n, x.testBit i = p i) : x = bitsWhere n p :=
  (bitsWhere_testBit h).symm.trans (bitsWhere_congr bits)

/-! ## Bit counts (R92) -/

/-- The 1 bits of a number are counted from the lowest up. -/
theorem popBits_eq (x n : Nat) : popBits x n = ((List.range n).filter fun i => bitOf x i).length := by
  induction n with
  | zero => rfl
  | succ n ih =>
    rw [popBits, ih, List.range_succ, List.filter_append, List.length_append]
    cases h : bitOf x n <;> simp [h]
/-- The leading 0 bits of n bits are counted from the highest down. -/
theorem clzBits_eq (x n : Nat) : clzBits x n = ((List.range n).takeWhile fun i => !bitOf x (n - 1 - i)).length := by
  induction n with
  | zero => rfl
  | succ n ih =>
    have below : (fun i => !bitOf x (n + 1 - 1 - i)) ∘ Nat.succ = fun i => !bitOf x (n - 1 - i) := by
      funext i
      simp [Nat.add_comm, Nat.sub_sub]
    rw [clzBits, ih, List.range_succ_eq_map, List.takeWhile_cons, List.takeWhile_map, below]
    cases h : bitOf x n <;> simp [h, Nat.add_comm]

section
variable {o : Opnds} (ha : o.a < 2 ^ 32)
include ha

theorem bitOf_a : bitOf o.a = o.wa.getLsbD := by
  funext i
  rw [← bitOf_toNat, toNat_wa ha]
theorem popcVal_eq : popcVal o = ((List.range 32).filter fun i => o.wa.getLsbD i).length := by
  rw [popcVal, popBits_eq, bitOf_a ha]
theorem clzVal_eq : clzVal o = ((List.range 32).takeWhile fun i => !o.wa.getLsbD (31 - i)).length := by
  rw [clzVal, clzBits_eq, bitOf_a ha]
theorem brevVal_eq : brevVal o = bitsWhere 32 fun i => o.wa.getLsbD (31 - i) := by
  rw [brevVal, ofBits_eq, bitOf_a ha]

end

/-! ## Logic, shifts and rotate (R90, R91) -/

section
variable {o : Opnds} (ha : o.a < 2 ^ 32) (hb : o.b < 2 ^ 32)
include ha hb

theorem andVal_eq : andVal o = (o.wa &&& o.wb).toNat := by
  rw [BitVec.toNat_and, toNat_wa ha, toNat_wb hb]
  rfl
theorem orVal_eq : orVal o = (o.wa ||| o.wb).toNat := by
  rw [BitVec.toNat_or, toNat_wa ha, toNat_wb hb]
  rfl
theorem xorVal_eq : xorVal o = (o.wa ^^^ o.wb).toNat := by
  rw [BitVec.toNat_xor, toNat_wa ha, toNat_wb hb]
  rfl
theorem andnVal_eq : andnVal o = (o.wa &&& ~~~o.wb).toNat := by
  rw [BitVec.toNat_and, BitVec.toNat_not, toNat_wa ha, toNat_wb hb, andnVal, lo32, Nat.mod_eq_of_lt hb]
  rfl
/-- A count of 32 or more shifts every bit out. -/
theorem shlVal_eq : shlVal o = (o.wa <<< o.wb.toNat).toNat := by
  rw [shlVal, toNat_wb hb]
  split
  · next out => rw [BitVec.shiftLeft_eq_zero out]; rfl
  · rw [BitVec.toNat_shiftLeft, toNat_wa ha, Nat.shiftLeft_eq]
    rfl
theorem shrVal_eq : shrVal o = (o.wa >>> o.wb.toNat).toNat := by
  rw [shrVal, toNat_wb hb]
  split
  · next out => rw [BitVec.ushiftRight_eq_zero out]; rfl
  · rw [BitVec.toNat_ushiftRight, toNat_wa ha, Nat.shiftRight_eq_div_pow]
/-- A floor shift of 32 or more leaves the sign in every bit. -/
theorem sraVal_eq : sraVal o = (o.wa.sshiftRight o.wb.toNat).toNat := by
  rw [sraVal, toNat_wb hb, bitOf_a ha, s32_a]
  split
  · next out =>
    have sign : o.wa.sshiftRight o.b = if o.wa.msb then BitVec.allOnes 32 else 0#32 := by
      ext i hi
      rw [BitVec.getElem_sshiftRight, dif_neg (by omega)]
      cases o.wa.msb
      · exact (BitVec.getElem_zero hi).symm
      · exact (BitVec.getElem_allOnes i hi).symm
    rw [sign, BitVec.msb_eq_getLsbD_last]
    split <;> rfl
  · rw [BitVec.sshiftRight_eq, wrap_eq, Int.shiftRight_eq_div_pow, Nat.cast_pow]
    rfl
/-- A rotate joins the bits that stay below 32 and those that leave at the top: they have no place in common. -/
theorem rotlVal_eq : rotlVal o = (o.wa.rotateLeft (o.wb.toNat % 32)).toNat := by
  have count : o.b % 32 < 32 := Nat.mod_lt _ (by decide)
  have width : 2 ^ 32 = 2 ^ (32 - o.b % 32) * 2 ^ (o.b % 32) := by rw [← pow_add]; congr 1; omega
  have stay : lo32 (o.a * 2 ^ (o.b % 32)) = 2 ^ (o.b % 32) * (o.a % 2 ^ (32 - o.b % 32)) := by
    rw [lo32, width, Nat.mul_mod_mul_right, Nat.mul_comm]
  have leave : o.a / 2 ^ (32 - o.b % 32) < 2 ^ (o.b % 32) := Nat.div_lt_of_lt_mul (width ▸ ha)
  rw [BitVec.toNat_rotateLeft, toNat_wa ha, toNat_wb hb, Nat.mod_mod, Nat.shiftLeft_eq, Nat.shiftRight_eq_div_pow, ← lo32, stay,
    ← Nat.two_pow_add_eq_or_of_lt leave, ← stay]
  rfl
/-- FUNSH takes 32 bits of the pair B:A. -/
theorem funshVal_eq (hc : o.c < 2 ^ 32) :
    funshVal o = (((o.wb ++ o.wa) >>> (o.wc.toNat % 64)).extractLsb' 0 32).toNat := by
  have pair : (o.wb ++ o.wa).toNat = o.b * 2 ^ 32 + o.a := by
    rw [BitVec.toNat_append, toNat_wa ha, toNat_wb hb, ← Nat.shiftLeft_add_eq_or_of_lt ha, Nat.shiftLeft_eq]
  rw [BitVec.extractLsb'_toNat, BitVec.toNat_ushiftRight, pair, toNat_wc hc, Nat.shiftRight_zero, Nat.shiftRight_eq_div_pow]
  rfl

end

end Sys2Proof.Machine

open Sys2Proof Sys2Proof.Machine

/-- Settles O2: as O1, the shifts by whether the count reaches 32, the rotate by its two disjoint parts, the counts by induction
on the bits counted. -/
theorem logicAndShiftsComplete : Obligations.LogicAndShiftsComplete := fun _ _ _ =>
  ⟨runInt_gives (fun _ => rfl) fun h => andVal_eq h.a h.b, runInt_gives (fun _ => rfl) fun h => orVal_eq h.a h.b,
    runInt_gives (fun _ => rfl) fun h => xorVal_eq h.a h.b, runInt_gives (fun _ => rfl) fun h => andnVal_eq h.a h.b,
    runInt_gives (fun _ => rfl) fun h => shlVal_eq h.a h.b, runInt_gives (fun _ => rfl) fun h => shrVal_eq h.a h.b,
    runInt_gives (fun _ => rfl) fun h => sraVal_eq h.a h.b, runInt_gives (fun _ => rfl) fun h => rotlVal_eq h.a h.b,
    runInt_gives (fun _ => rfl) fun h => funshVal_eq h.a h.b h.c, runInt_gives (fun _ => rfl) fun h => popcVal_eq h.a,
    runInt_gives (fun _ => rfl) fun h => clzVal_eq h.a, runInt_gives (fun _ => rfl) fun h => brevVal_eq h.a⟩

end

section
/-! Compares, select and immediates (04_integer_bit.md R98, R99), and the uniform forms (R104). -/

namespace Sys2Proof.Machine

/-! ## Compares (R98) -/

/-- A compare writes 1 where the relation holds and 0 otherwise. -/
theorem bit_decide (p : Prop) [Decidable p] : bit (decide p) = if p then 1 else 0 := by
  simp only [bit, decide_eq_true_eq]

theorem iltVal_eq (o : Opnds) : iltVal o = if o.wa.toInt < o.wb.toInt then 1 else 0 := by
  rw [iltVal, bit_decide, s32_a, s32_b]
theorem ileVal_eq (o : Opnds) : ileVal o = if o.wa.toInt ≤ o.wb.toInt then 1 else 0 := by
  rw [ileVal, bit_decide, s32_a, s32_b]

section
variable {o : Opnds} (ha : o.a < 2 ^ 32) (hb : o.b < 2 ^ 32)
include ha hb

theorem wa_eq_wb_iff : o.wa = o.wb ↔ o.a = o.b := by
  rw [← BitVec.toNat_inj, toNat_wa ha, toNat_wb hb]
theorem ieqVal_eq : ieqVal o = if o.wa = o.wb then 1 else 0 := by
  simp only [ieqVal, bit, beq_iff_eq, wa_eq_wb_iff ha hb]
theorem ineVal_eq : ineVal o = if o.wa = o.wb then 0 else 1 := by
  simp only [ineVal, bit, bne_iff_ne, ite_not, wa_eq_wb_iff ha hb]
theorem nltVal_eq : nltVal o = if o.wa < o.wb then 1 else 0 := by
  simp only [nltVal, bit_decide, BitVec.lt_def, toNat_wa ha, toNat_wb hb]
theorem nleVal_eq : nleVal o = if o.wa ≤ o.wb then 1 else 0 := by
  simp only [nleVal, bit_decide, BitVec.le_def, toNat_wa ha, toNat_wb hb]

/-! ## Select (R98) -/

theorem selVal_eq (hc : o.c < 2 ^ 32) : selVal o = if o.wc = 0#32 then o.wb.toNat else o.wa.toNat := by
  have zero : o.wc = 0#32 ↔ o.c = 0 := by
    rw [← BitVec.toNat_inj, toNat_wc hc]
    rfl
  simp only [selVal, bne_iff_ne, ite_not, zero, toNat_wa ha, toNat_wb hb]
theorem uselVal_eq (hd : o.d < 2 ^ 32) : uselVal o = if o.wd = 0#32 then o.wb.toNat else o.wa.toNat := by
  have zero : o.wd = 0#32 ↔ o.d = 0 := by
    rw [← BitVec.toNat_inj, toNat_wd hd]
    rfl
  simp only [uselVal, bne_iff_ne, ite_not, zero, toNat_wa ha, toNat_wb hb]

end

/-! ## Immediates and RNDC (R99, R101) -/

theorem liVal_eq (imm : BitVec 16) : liVal imm = (imm.signExtend 32).toNat := wrap_eq imm.toInt 32
theorem lihVal_eq (imm : BitVec 16) (o : Opnds) : lihVal imm o = (imm ++ o.wd.extractLsb' 0 16).toNat := by
  have low : (o.wd.extractLsb' 0 16).toNat = o.d % 2 ^ 16 := by
    rw [BitVec.extractLsb'_toNat, Nat.shiftRight_zero, Opnds.wd, BitVec.toNat_ofNat, Nat.mod_mod_of_dvd _ (by decide)]
  rw [BitVec.toNat_append, ← Nat.shiftLeft_add_eq_or_of_lt (BitVec.isLt _), low, Nat.shiftLeft_eq]
  rfl
theorem rndcVal_eq {o : Opnds} (ha : o.a < 2 ^ 64) (hb : o.b < 2 ^ 64) : rndcVal o = rndc o.xa.toNat o.xb.toNat := by
  rw [toNat_xa ha, toNat_xb hb]
  rfl

end Sys2Proof.Machine

open Sys2Proof Sys2Proof.Machine

/-- Settles O4: a relation of two words is that of their values, and the immediates are extended and joined as words. -/
theorem comparesSelectAndImmediatesComplete : Obligations.ComparesSelectAndImmediatesComplete :=
  ⟨fun _ _ _ =>
    ⟨runInt_gives (fun _ => rfl) fun h => ieqVal_eq h.a h.b, runInt_gives (fun _ => rfl) fun h => ineVal_eq h.a h.b,
      runInt_gives (fun _ => rfl) fun _ => iltVal_eq _, runInt_gives (fun _ => rfl) fun _ => ileVal_eq _,
      runInt_gives (fun _ => rfl) fun h => nltVal_eq h.a h.b, runInt_gives (fun _ => rfl) fun h => nleVal_eq h.a h.b,
      runInt_gives (fun _ => rfl) fun h => selVal_eq h.a h.b h.c, runInt_gives (fun _ => rfl) fun h => rndcVal_eq h.a h.b⟩,
    fun _ imm => ⟨runInt_gives (fun _ => rfl) fun _ => liVal_eq imm, runInt_gives (fun _ => rfl) fun _ => lihVal_eq imm _⟩⟩

/-- Settles O5: a uniform form computes the value of its lane form, of operands of the same widths. -/
theorem uniformIntegersComplete : Obligations.UniformIntegersComplete :=
  ⟨fun _ _ _ =>
    ⟨runUni_gives (fun _ => rfl) fun _ => iaddVal_eq _, runUni_gives (fun _ => rfl) fun _ => isubVal_eq _,
      runUni_gives (fun _ => rfl) fun _ => iadd64Val_eq _, runUni_gives (fun _ => rfl) fun _ => imulVal_eq _,
      runUni_gives (fun _ => rfl) fun _ => umadVal_eq _, runUni_gives (fun _ => rfl) fun h => andVal_eq h.a h.b,
      runUni_gives (fun _ => rfl) fun h => orVal_eq h.a h.b, runUni_gives (fun _ => rfl) fun h => xorVal_eq h.a h.b,
      runUni_gives (fun _ => rfl) fun h => shlVal_eq h.a h.b, runUni_gives (fun _ => rfl) fun h => shrVal_eq h.a h.b,
      runUni_gives (fun _ => rfl) fun h => sraVal_eq h.a h.b, runUni_gives (fun _ => rfl) fun h => popcVal_eq h.a,
      runUni_gives (fun _ => rfl) fun h => clzVal_eq h.a, runUni_gives (fun _ => rfl) fun h => ieqVal_eq h.a h.b,
      runUni_gives (fun _ => rfl) fun h => ineVal_eq h.a h.b, runUni_gives (fun _ => rfl) fun _ => iltVal_eq _,
      runUni_gives (fun _ => rfl) fun _ => ileVal_eq _, runUni_gives (fun _ => rfl) fun h => nltVal_eq h.a h.b,
      runUni_gives (fun _ => rfl) fun h => nleVal_eq h.a h.b, runUni_gives (fun _ => rfl) fun h => uselVal_eq h.a h.b h.d,
      runUni_gives (fun _ => rfl) fun h => iminVal_eq h.a h.b, runUni_gives (fun _ => rfl) fun h => imaxVal_eq h.a h.b⟩,
    fun _ imm => ⟨runUni_gives (f := fun _ => liVal imm) (fun _ => rfl) fun _ => liVal_eq imm,
      runUni_gives (fun _ => rfl) fun _ => lihVal_eq imm _⟩⟩

end

section
/-! Bit fields, deposit, extract, permute and bit-matrix multiply (04_integer_bit.md R94 to R97), bit by bit. -/

namespace Sys2Proof.Machine

/-! ## Fields of a number -/

theorem fld_toNat {n : Nat} (x : BitVec n) (lo len : Nat) : fld x.toNat lo len = (x.extractLsb' lo len).toNat := by
  rw [BitVec.extractLsb'_toNat, Nat.shiftRight_eq_div_pow]
  rfl
theorem testBit_fld (r lo len i : Nat) : (fld r lo len).testBit i = (decide (i < len) && r.testBit (lo + i)) := by
  rw [fld, Nat.testBit_mod_two_pow, Nat.testBit_div_two_pow, Nat.add_comm]
/-- A number is what lies below a field, the field, and what lies above it. -/
theorem fld_parts (r lo len : Nat) : 2 ^ lo * (2 ^ len * (r / 2 ^ lo / 2 ^ len) + fld r lo len) + r % 2 ^ lo = r := by
  rw [fld, Nat.div_add_mod, Nat.div_add_mod]
/-- A field replaced: its bits come from x, the others stay. -/
theorem testBit_setFld (r lo len x i : Nat) :
    (setFld r lo len x).testBit i = if lo ≤ i ∧ i < lo + len then x.testBit (i - lo) else r.testBit i := by
  have replaced : setFld r lo len x = 2 ^ lo * (2 ^ len * (r / 2 ^ lo / 2 ^ len) + x % 2 ^ len) + r % 2 ^ lo := by
    have parts := fld_parts r lo len
    rw [Nat.mul_add] at parts ⊢
    rw [setFld, Nat.mul_comm (fld r lo len), Nat.mul_comm (x % 2 ^ len)]
    omega
  have below : r % 2 ^ lo < 2 ^ lo := Nat.mod_lt _ (Nat.two_pow_pos _)
  have field : x % 2 ^ len < 2 ^ len := Nat.mod_lt _ (Nat.two_pow_pos _)
  rw [replaced, Nat.testBit_two_pow_mul_add _ below, Nat.testBit_two_pow_mul_add _ field]
  by_cases low : i < lo
  · rw [if_pos low, if_neg (by omega), Nat.testBit_mod_two_pow]
    simp [low]
  · by_cases inside : i - lo < len
    · rw [if_neg low, if_pos inside, if_pos (by omega), Nat.testBit_mod_two_pow]
      simp [inside]
    · rw [if_neg low, if_neg inside, if_neg (by omega), Nat.testBit_div_two_pow, Nat.testBit_div_two_pow]
      congr 1
      omega
/-- A sign-extended number repeats its highest bit. -/
theorem testBit_wrap_sint {x n i : Nat} (h : i < 32) :
    (wrap (sint x n) 32).testBit i = if i < n then x.testBit i else decide (0 < n) && x.testBit (n - 1) := by
  have extended : (wrap (sint x n) 32).testBit i = ((BitVec.ofNat n x).signExtend 32).getLsbD i := by
    rw [sint_eq, wrap_eq]
    rfl
  rw [extended, BitVec.getLsbD_signExtend, BitVec.msb_eq_getLsbD_last, BitVec.getLsbD_ofNat, BitVec.getLsbD_ofNat]
  by_cases inside : i < n
  · simp [h, inside]
  · simp [h, inside]

/-! ## BFX and BFI (R94) -/

theorem fieldLen_toNat (ctl : Word) : fieldLen ctl.toNat = fieldBits ctl := by
  simp only [fieldLen, fieldBits, fld_toNat]
/-- A field that is not empty ends within the word. -/
theorem fieldBits_le (ctl : Word) : fieldBits ctl = 0 ∨ (ctl.extractLsb' 0 8).toNat + fieldBits ctl ≤ 32 := by
  unfold fieldBits
  split
  · exact .inl rfl
  · omega

theorem bfxVal_eq {o : Opnds} (ha : o.a < 2 ^ 32) (hb : o.b < 2 ^ 32) :
    bfxVal o = bitsWhere 32 fun i =>
      if i < fieldBits o.wb then o.wa.getLsbD ((o.wb.extractLsb' 0 8).toNat + i)
      else o.wb.getLsbD 16 && 0 < fieldBits o.wb && o.wa.getLsbD ((o.wb.extractLsb' 0 8).toNat + fieldBits o.wb - 1) := by
  have ends := fieldBits_le o.wb
  rw [bfxVal, ← toNat_wa ha, ← toNat_wb hb, fieldLen_toNat, fld_toNat o.wb, bitOf_toNat]
  generalize (o.wb.extractLsb' 0 8).toNat = pos at ends ⊢
  generalize fieldBits o.wb = n at ends ⊢
  have field : fld o.wa.toNat pos n < 2 ^ n := Nat.mod_lt _ (Nat.two_pow_pos _)
  have bit (i : Nat) : (fld o.wa.toNat pos n).testBit i = (decide (i < n) && o.wa.getLsbD (pos + i)) := testBit_fld ..
  by_cases empty : n = 0
  · subst empty
    exact eq_bitsWhere (Nat.two_pow_pos _) (by simp)
  have nonempty : 0 < n := Nat.pos_of_ne_zero empty
  simp only [beq_iff_eq, empty, if_false]
  cases o.wb.getLsbD 16 with
  | false =>
    refine eq_bitsWhere (field.trans_le (Nat.pow_le_pow_right (by decide) (by omega))) fun i _ => ?_
    by_cases inside : i < n <;> simp [bit, inside]
  | true =>
    have word : wrap (sint (fld o.wa.toNat pos n) n) 32 < 2 ^ 32 := wrap_eq _ 32 ▸ BitVec.isLt _
    refine eq_bitsWhere word fun i hi => ?_
    have last : pos + (n - 1) = pos + n - 1 := by omega
    by_cases inside : i < n <;> simp [testBit_wrap_sint hi, bit, inside, nonempty, last]

theorem bfiVal_eq {o : Opnds} (ha : o.a < 2 ^ 32) (hb : o.b < 2 ^ 32) (hc : o.c < 2 ^ 32) :
    bfiVal o = bitsWhere 32 fun i =>
      if (o.wc.extractLsb' 0 8).toNat ≤ i && i < (o.wc.extractLsb' 0 8).toNat + fieldBits o.wc then
        o.wb.getLsbD (i - (o.wc.extractLsb' 0 8).toNat)
      else o.wa.getLsbD i := by
  have ends := fieldBits_le o.wc
  rw [bfiVal, ← toNat_wa ha, ← toNat_wb hb, ← toNat_wc hc, fieldLen_toNat, fld_toNat]
  generalize (o.wc.extractLsb' 0 8).toNat = pos at ends ⊢
  generalize fieldBits o.wc = n at ends ⊢
  have whole : (if n == 0 then o.wa.toNat else setFld o.wa.toNat pos n o.wb.toNat) = setFld o.wa.toNat pos n o.wb.toNat := by
    by_cases empty : n = 0 <;> simp [empty, setFld, fld, Nat.mod_one]
  have word : setFld o.wa.toNat pos n o.wb.toNat < 2 ^ 32 := by
    refine Nat.lt_pow_two_of_testBit _ fun i hi => ?_
    rw [testBit_setFld, if_neg (by omega), BitVec.testBit_toNat, BitVec.getLsbD_of_ge _ _ hi]
  rw [whole]
  exact eq_bitsWhere word fun i _ => by simp [testBit_setFld, BitVec.testBit_toNat]

/-! ## BDEP and BEXT (R95) -/

/-- The deposit from place i on: a place where m is 1 takes the bit of a that follows those of the lower such places. -/
theorem bdepFrom_eq (a m n i k : Nat) : bdepFrom a m n i k = ((List.range' i n).map fun j =>
    if bitOf m j && bitOf a (k + (List.range' i n).countP fun t => t < j && bitOf m t) then 2 ^ j else 0).sum := by
  induction n generalizing i k with
  | zero => rfl
  | succ n ih =>
    have first : (List.range' i (n + 1)).countP (fun t => t < i && bitOf m t) = 0 := by
      simp only [List.countP_eq_zero, List.mem_range'_1]
      intro t ht
      simp [ht.1]
    have rest {j : Nat} (hj : j ∈ List.range' (i + 1) n) : (List.range' i (n + 1)).countP (fun t => t < j && bitOf m t) =
        (List.range' (i + 1) n).countP (fun t => t < j && bitOf m t) + if bitOf m i then 1 else 0 := by
      have lower : i < j := (List.mem_range'_1.1 hj).1
      rw [List.range'_succ, List.countP_cons]
      simp [lower]
    rw [List.range'_succ (n := n), List.map_cons, List.sum_cons, ← List.range'_succ, first,
      List.map_congr_left fun j hj => by rw [rest hj], bdepFrom]
    cases bitOf m i
    · simp [ih]
    · simp [ih, Nat.add_assoc, Nat.add_comm 1]

/-- The extract from place i on: bit k and those above it are the bits of a at the places where m is 1, in order. -/
theorem bextFrom_eq (a m n i k : Nat) : bextFrom a m n i k = ((List.range' k n).map fun j =>
    if (((List.range' i n).filter (bitOf m))[j - k]?).any (bitOf a) then 2 ^ j else 0).sum := by
  induction n generalizing i k with
  | zero => rfl
  | succ n ih =>
    rw [bextFrom, List.range'_succ (s := i), List.filter_cons]
    cases bitOf m i with
    | false =>
      have beyond : ((List.range' (i + 1) n).filter (bitOf m))[n]? = none :=
        List.getElem?_eq_none ((List.length_filter_le ..).trans_eq List.length_range')
      simp only [Bool.false_eq_true, if_false]
      rw [List.range'_1_concat, List.map_append, List.sum_append, ← ih]
      simp [beyond]
    | true =>
      have rest : ∀ j ∈ List.range' (k + 1) n, (i :: (List.range' (i + 1) n).filter (bitOf m))[j - k]? =
          ((List.range' (i + 1) n).filter (bitOf m))[j - (k + 1)]? := by
        intro j hj
        have above := (List.mem_range'_1.1 hj).1
        rw [show j - k = j - (k + 1) + 1 by omega, List.getElem?_cons_succ]
      simp only [if_true]
      rw [List.range'_succ, List.map_cons, List.sum_cons, ih, Nat.sub_self,
        List.map_congr_left (l := List.range' (k + 1) n) fun j hj => by rw [← rest j hj]]
      rfl

section
variable {o : Opnds} (ha : o.a < 2 ^ 64) (hb : o.b < 2 ^ 64)
include ha

theorem bitOf_xa : bitOf o.a = o.xa.getLsbD := by
  funext i
  rw [← bitOf_toNat, toNat_xa ha]

include hb

omit ha in
theorem bitOf_xb : bitOf o.b = o.xb.getLsbD := by
  funext i
  rw [← bitOf_toNat, toNat_xb hb]
theorem bdepVal_eq : bdepVal o =
    bitsWhere 64 fun i => o.xb.getLsbD i && o.xa.getLsbD ((onesOf o.xb).filter (· < i)).length := by
  rw [bdepVal, bdepFrom_eq, bitOf_xa ha, bitOf_xb hb, ← List.range_eq_range']
  simp only [onesOf, List.filter_filter, ← List.countP_eq_length_filter, Nat.zero_add]
  rfl
theorem bextVal_eq : bextVal o = bitsWhere 64 fun k => ((onesOf o.xb)[k]?).any fun i => o.xa.getLsbD i := by
  rw [bextVal, bextFrom_eq, bitOf_xa ha, bitOf_xb hb, ← List.range_eq_range']
  rfl

/-! ## BMM8 (R97) -/

omit ha hb in
/-- Exclusive or along a list is the parity of the number of elements that hold. -/
theorem foldl_bne {α : Type} (p : α → Bool) (l : List α) (r : Bool) :
    l.foldl (fun r k => r != p k) r = (r != ((l.filter p).length % 2 == 1)) := by
  induction l generalizing r with
  | nil => simp
  | cons k l ih =>
    rw [List.foldl_cons, ih, List.filter_cons]
    cases p k
    · simp
    · rcases Nat.mod_two_eq_zero_or_one (l.filter p).length with h | h <;> cases r <;> simp [Nat.add_mod, h]
theorem bmm8Val_eq : bmm8Val o = bitsWhere 64 fun n =>
    (((List.range 8).filter fun k => o.xa.getLsbD (8 * (n / 8) + k) && o.xb.getLsbD (8 * k + n % 8)).length % 2 == 1) := by
  simp only [bmm8Val, ofBits_eq, foldl_bne, bitOf_xa ha, bitOf_xb hb, Bool.false_bne]
  rfl

end

/-! ## BPERM (R96) -/

/-- A thread of a group whose instruction of registers gives a value and nothing else (01 R25, 03 R68). -/
theorem aluThread_val {cx : Cx} {op : View → Opnds → LaneRes} {ref k x : Nat} (inside : cx.atEnd = false)
    (h : op (cx.view ref k) (cx.opnds (cx.view ref k)) = .val x 0 0) (lats : Bool) (t : Thread) :
    cx.aluThread lats op ref k t = (if cx.enabled k then (cx.gives lats x t).jump cx.npc else cx.masked lats t, none) := by
  cases he : cx.enabled k with
  | true => cases lats <;> simp [Cx.aluThread, he, h, advance_inside inside, Cx.gives, Thread.orFlags, Thread.jump, Thread.setLat]
  | false =>
    cases hz : cx.p.z <;> cases lats <;> simp [Cx.aluThread, he, hz, advance_inside inside, Cx.masked, Cx.gives]

/-- Words joined, the first lowest: bit i is bit i mod 32 of word i / 32. -/
theorem testBit_joined {f : Nat → Nat} (word : ∀ k, f k < 2 ^ 32) (n i : Nat) (h : i < 32 * n) :
    ((upTo n).foldl (fun x k => x + 2 ^ (32 * k) * f k) 0).testBit i = (f (i / 32)).testBit (i % 32) := by
  have join (n : Nat) : (upTo (n + 1)).foldl (fun x k => x + 2 ^ (32 * k) * f k) 0 =
      2 ^ (32 * n) * f n + (upTo n).foldl (fun x k => x + 2 ^ (32 * k) * f k) 0 := by
    rw [upTo, List.range_succ, List.foldl_append, Nat.add_comm]
    rfl
  have short (n : Nat) : (upTo n).foldl (fun x k => x + 2 ^ (32 * k) * f k) 0 < 2 ^ (32 * n) := by
    induction n with
    | zero => exact Nat.one_pos
    | succ n ih =>
      rw [join, Nat.mul_succ, Nat.pow_add]
      have := Nat.mul_le_mul_left (2 ^ (32 * n)) (Nat.le_sub_one_of_lt (word n))
      omega
  induction n with
  | zero => omega
  | succ n ih =>
    rw [join, Nat.testBit_two_pow_mul_add _ (short n)]
    split
    · next low => exact ih low
    · next high =>
      have top : i / 32 = n := by omega
      have place : i - 32 * n = i % 32 := by omega
      rw [top, place]

/-- The index that BPERM reads for bit i of its result, from the twelve registers from w n up. -/
theorem fld_bpermCtl (v : View) (n i : Nat) (h : i < 64) : fld (bpermCtl v (.w n)) (6 * i) 6 =
    ((List.range 6).map fun j =>
      if (v.party.w.getD (n + (6 * i + j) / 32) 0#32).getLsbD ((6 * i + j) % 32) then 2 ^ j else 0).sum := by
  refine eq_bitsWhere (Nat.mod_lt _ (Nat.two_pow_pos _)) fun j hj => ?_
  rw [testBit_fld, decide_eq_true hj, Bool.true_and]
  exact testBit_joined (fun k => readWord_lt v ((Reg.w n).up k)) 12 _ (by omega)

theorem execBperm_gives {s : State} {cx : Cx} {d a b : BitVec 8} (hr : Runs s (.bperm d a b) cx) {n : Nat}
    (hn : cx.breg = .w n) (top : n ≤ 148) (aligned : n % 4 = 0) :
    let x := fun k => bpermBits (cx.operands s k).a (bpermCtl (cx.view s.ref k) (.w n))
    exec (.bperm d a b) s = .next (cx.goes s (cx.takes x) fun k t =>
      if cx.enabled k then (cx.gives false (x k) t).jump cx.npc else cx.masked false t) := by
  have good : bpermCheck cx.breg = none := by
    simp [hn, bpermCheck, aligned, Nat.not_lt.2 top]
  show execBperm d a b s = _
  rw [execBperm, runWord_issues hr.toIssues]
  simp only [good]
  rw [hn]
  exact congrArg _ (mapGroup_takes (fun _ _ => rfl) fun _ _ t => aluThread_val hr.inside rfl false t)

end Sys2Proof.Machine

open Sys2Proof Sys2Proof.Machine

/-- Settles O3: fields by the bits of the number that is read or replaced, deposit and extract by induction on the places of the
mask, BMM8 by parity, and BPERM's indices by the bits of its twelve joined registers. -/
theorem bitFieldsAndMatricesComplete : Obligations.BitFieldsAndMatricesComplete := by
  refine fun d a b => ⟨runInt_gives (fun _ => rfl) fun h => bfxVal_eq h.a h.b,
    runInt_gives (fun _ => rfl) fun h => bfiVal_eq h.a h.b h.c, runInt_gives (fun _ => rfl) fun h => bdepVal_eq h.a h.b,
    runInt_gives (fun _ => rfl) fun h => bextVal_eq h.a h.b, runInt_gives (fun _ => rfl) fun h => bmm8Val_eq h.a h.b, ?_⟩
  intro s cx hr n hn top aligned x
  have pair (k : Nat) : (cx.operands s k).a < 2 ^ 64 := (cx_form hr.context ▸ operands_fit cx s k).a
  have value (k : Nat) : bpermBits (cx.operands s k).a (bpermCtl (cx.view s.ref k) (.w n)) = x k := by
    rw [bpermBits, ofBits_eq, bitOf_xa (pair k)]
    exact bitsWhere_congr fun i hi => congrArg _ (fld_bpermCtl (cx.view s.ref k) n i hi)
  simpa only [value] using execBperm_gives hr hn top aligned

end

section
/-! Floating-point instructions that complete (05_float.md R110 to R120, R124): what a group does in which no thread takes
FP_INVALID (02 R48). -/

namespace Sys2Proof.Machine

/-! ## Results held to R48 -/

/-- An instruction whose results are all held to R48 completes where none of them traps. -/
theorem runAlu_completes {lats : Bool} {i : Instr} {g : Cx → View → Opnds → LaneRes} {op : Nat}
    {elem : Cx → View → Opnds → Nat} {f : FpOp} (hx : ∀ s, exec i s = runAlu s i lats g)
    (hg : ∀ cx, AnswersFp cx g op elem f) : FpCompletes lats i f :=
  runAlu_floats hx fun cx v o valid => (hg cx v o).trans (if_neg (Bool.eq_false_iff.1 valid))

/-- One rounded result draws once under SR (R110, 02 R44). -/
theorem runFp_completes {i : Instr} {op : Nat} {f : FpEnv → Opnds → Nat × Nat} (hx : ∀ s, exec i s = runFp s i op f) :
    FpCompletes true i (rounded f) :=
  runAlu_completes hx fun cx v _ => congrArg (fpResult op _ 0 _ _) ((cx.fpEnv v).draws_eq 1)
/-- What rounds nothing draws nothing (R116, R117). -/
theorem runFpPlain_completes {i : Instr} {op : Nat} {f : Nat → Opnds → Nat × Nat}
    (hx : ∀ s, exec i s = runFpPlain s i op f) : FpCompletes true i (unrounded f) :=
  runAlu_completes hx fun _ _ _ => rfl
/-- A packed multiply-add draws once for each of its elements (R112). -/
theorem runPacked_completes {i : Instr} {op : Nat} {m : Fmt} (hx : ∀ s, exec i s = runPacked s i op m) :
    FpCompletes true i (packedOp m) :=
  runAlu_completes hx fun cx v _ => congrArg (fpResult op _ (packedElem m cx v _) _ _) ((cx.fpEnv v).draws_eq 2)

/-! ## CVTS (R124, R125) -/

/-- A group in whose context an instruction holds its results to R48, as CVTS does for a slot that fits: no thread takes a
cause, so nothing is asked of the launch's handler. -/
theorem AnswersFp.completes {lats : Bool} {i : Instr} {g : Cx → View → Opnds → LaneRes} {op : Nat}
    {elem : Cx → View → Opnds → Nat} {f : FpOp} {s : State} {cx : Cx} (h : AnswersFp cx g op elem f)
    (hx : exec i s = runAlu s i lats g) (hr : Runs s i cx) (valid : ∀ k ∈ cx.tids, cx.invalid s f k = false) :
    exec i s = .next (cx.goes s (cx.takes fun k => (f cx (cx.view s.ref k) (cx.operands s k)).1) (cx.floats s lats f)) := by
  have gives (k : Nat) (hk : k ∈ cx.tids) :
      cx.aluGives (g cx) s.ref k = cx.offers (fun k => (f cx (cx.view s.ref k) (cx.operands s k)).1) k := by
    rw [h.gives, valid k hk]
    rfl
  rw [hx, runAlu, runWord_issues hr.toIssues]
  exact congrArg _ (mapGroup_takes gives fun k hk t => h.thread_floats (valid k hk) hr.inside lats t)

/-- A plane count that the slot has passes the check of it. -/
theorem SlotFits.planes {cx : Cx} {b : BitVec 8} (h : SlotFits cx b) :
    (b.toNat / 8 % 8 != 0 && (slotEfmt (cx.launch.fmtSlot (b.toNat % 8)) != 0x0D ||
      decide (slotPlanes (cx.launch.fmtSlot (b.toNat % 8)) ≤ b.toNat / 8 % 8))) = false := by
  obtain ⟨-, whole | ⟨nested, fewer⟩, -⟩ := h
  · simp [whole]
  · simp [nested, fewer]
/-- And so does the register of a binary64 element. -/
theorem SlotFits.element {cx : Cx} {b : BitVec 8} (h : SlotFits cx b) :
    (slotEfmt (cx.launch.fmtSlot (b.toNat % 8)) == 1 &&
      !elemRegOk (if b.getLsbD 7 then cx.areg else cx.dreg)) = false := by
  obtain ⟨-, -, suits⟩ := h
  simpa using suits

theorem execCvts_completes {d a b : BitVec 8} {s : State} {cx : Cx} (hr : Runs s (.cvts d a b) cx) (hf : SlotFits cx b)
    (valid : ∀ k ∈ cx.tids, cx.invalid s (slotOp b) k = false) :
    exec (.cvts d a b) s = .next (cx.goes s (cx.takes fun k => (slotOp b cx (cx.view s.ref k) (cx.operands s k)).1)
      (cx.floats s true (slotOp b))) := by
  refine AnswersFp.completes (op := 0x47) (elem := fun _ _ _ => 0) (fun v o => ?_) rfl hr valid
  have slot : (cx.launch.fmtSlot (b.toNat % 8) == 0) = false := by simpa using hf.1
  simp only [bitOf_toNat, slot, hf.planes, hf.element, FpEnv.draws_eq]
  rfl

end Sys2Proof.Machine

open Sys2Proof Sys2Proof.Machine

/-- Settles O6: each of these instructions holds one rounded result to R48, which traps for NV under NVT alone. -/
theorem floatArithmeticCompletes : Obligations.FloatArithmeticCompletes := fun _ _ _ =>
  ⟨runFp_completes fun _ => rfl, runFp_completes fun _ => rfl, runFp_completes fun _ => rfl, runFp_completes fun _ => rfl,
    runFp_completes fun _ => rfl, runFp_completes fun _ => rfl, runFp_completes fun _ => rfl, runFp_completes fun _ => rfl,
    runFp_completes fun _ => rfl, runFp_completes fun _ => rfl, runFp_completes fun _ => rfl, runFp_completes fun _ => rfl,
    runFp_completes fun _ => rfl, runFp_completes fun _ => rfl, runFp_completes fun _ => rfl⟩

/-- Settles O7: as O6, of results that are not rounded and of two rounded elements; FCLASS cannot trap, and a slot and
registers that fit pass the checks of CVTS. -/
theorem floatComparesAndConversionsComplete : Obligations.FloatComparesAndConversionsComplete := fun _ _ _ =>
  ⟨runFpPlain_completes fun _ => rfl, runFpPlain_completes fun _ => rfl, runFpPlain_completes fun _ => rfl,
    runFpPlain_completes fun _ => rfl, runFpPlain_completes fun _ => rfl, runFpPlain_completes fun _ => rfl,
    runFpPlain_completes fun _ => rfl, runFpPlain_completes fun _ => rfl, runFpPlain_completes fun _ => rfl,
    runFpPlain_completes fun _ => rfl, runFpPlain_completes fun _ => rfl, runFpPlain_completes fun _ => rfl,
    runAlu_completes (op := 0x42) (elem := fun _ _ _ => 0) (fun _ => rfl) fun _ _ _ => rfl,
    runPacked_completes fun _ => rfl, runPacked_completes fun _ => rfl,
    runAlu_floats (fun _ => rfl) fun _ _ _ _ => rfl,
    fun _ _ hr hf valid => execCvts_completes hr hf valid⟩

end

section
/-! Branches and fenced jumps (06_control_wait_crosslane.md R130 to R133): where each thread of a group goes, and what it traps. -/

namespace Sys2Proof.Machine

/-! ## Control transfers of a group -/

theorem wd_eq_zero_iff {o : Opnds} (h : o.d < 2 ^ 32) : o.wd = 0#32 ↔ o.d = 0 := by
  rw [← BitVec.toNat_inj, toNat_wd h]
  rfl
/-- A group that stands at the last word of its segment takes FLOW_END (R130). -/
theorem advance_atEnd {cx : Cx} (h : cx.atEnd = true) (k : Nat) (t : Thread) :
    cx.advance k t = deliver cx.hpc cx.pc k { cause := 0x10, tinfo := 1 } t := by
  simp [Cx.advance, h, Cause.flowEnd]
/-- A thread in normal mode enters the handler of a launch that has one. -/
theorem deliver_normal {hpc : Pc} (entry : hpc ≠ 0#16) {t : Thread} (normal : t.handler = false) (tpc : Pc) (k : Nat) (tr : Trap) :
    deliver hpc tpc k tr t = (t.enter hpc tpc tr, none) := by
  simp [deliver, normal, entry]

/-- What becomes of the threads of the group is all that counts. -/
theorem goes_congr {cx : Cx} {s : State} {p : Party} {f g : Nat → Thread → Thread} (h : ∀ k ∈ cx.tids, ∀ t, f k t = g k t) :
    cx.goes s p f = cx.goes s p g := by
  unfold Cx.goes
  rw [mapI_congr fun k t _ => ?_]
  split
  · next hk => exact h _ (by simpa using hk) t
  · rfl

/-! ## Branches (R131) -/

/-- A branch within its segment transfers control or goes on. -/
theorem branch_within {cx : Cx} {imm : BitVec 16} (within : segOf imm = segOf cx.pc) (inside : cx.atEnd = false) (taken : Bool)
    (k : Nat) (t : Thread) : cx.branch taken imm k t = (t.jump (if taken then imm else cx.npc), none) := by
  cases taken <;> simp [Cx.branch, within, advance_inside inside]
/-- A branch out of its segment raises BR_SEG, taken or not. -/
theorem branch_out {cx : Cx} {imm : BitVec 16} (out : segOf imm ≠ segOf cx.pc) (taken : Bool) (k : Nat) (t : Thread) :
    cx.branch taken imm k t = deliver cx.hpc cx.pc k { cause := 0x11, tinfo := segOf imm } t := by
  simp [Cx.branch, out, Cx.raise, Cause.brSeg]

section
variable {i : Instr} {onNonzero : Bool} {imm : BitVec 16} {s : State} {cx : Cx}

/-- The register that a branch tests is one word. -/
theorem branch_operand (h : Issues s i cx) (hd : ∀ {slots p}, (formOf slots p i).d.bits = 32) (k : Nat) :
    (((cx.operands s k).d != 0) == onNonzero) = decide ((cx.operands s k).wd ≠ 0#32 ↔ onNonzero = true) := by
  have word : (cx.operands s k).d < 2 ^ 32 := by
    have fit := (operands_fit cx s k).d
    rwa [cx_form h.context, hd] at fit
  have zero := wd_eq_zero_iff word
  by_cases h0 : (cx.operands s k).d = 0 <;> cases onNonzero <;> simp [h0, zero]

theorem runBranch_within (hx : ∀ s, exec i s = runBranch s i onNonzero imm) (hd : ∀ {slots p}, (formOf slots p i).d.bits = 32)
    (hr : Runs s i cx) (within : segOf imm = segOf cx.pc) :
    exec i s = .next (cx.goes s cx.party fun k t =>
      t.jump (if cx.enabled k ∧ ((cx.operands s k).wd ≠ 0#32 ↔ onNonzero = true) then imm else cx.npc)) := by
  rw [hx, runBranch, runWord_issues hr.toIssues]
  refine congrArg _ (mapGroup_goes fun k _ t => ?_)
  cases he : cx.enabled k with
  | true =>
    show cx.branch (((cx.operands s k).d != 0) == onNonzero) imm k t = _
    rw [branch_operand hr.toIssues hd, branch_within within hr.inside]
    simp only [true_and, decide_eq_true_eq]
  | false => simp [advance_inside hr.inside]
theorem runUBranch_within (hx : ∀ s, exec i s = runUBranch s i onNonzero imm) (hd : ∀ {slots p}, (formOf slots p i).d.bits = 32)
    (hr : Runs s i cx) (within : segOf imm = segOf cx.pc) :
    exec i s = .next (cx.goes s cx.party fun _ t =>
      t.jump (if (cx.uniOperands s).wd ≠ 0#32 ↔ onNonzero = true then imm else cx.npc)) := by
  rw [hx, runUBranch, runWord_issues hr.toIssues]
  refine congrArg _ (mapGroup_goes fun k _ t => ?_)
  show cx.branch (((cx.uniOperands s).d != 0) == onNonzero) imm k t = _
  rw [Cx.uniOperands, branch_operand hr.toIssues hd, branch_within within hr.inside]
  simp only [decide_eq_true_eq]

theorem runBranch_out (hx : ∀ s, exec i s = runBranch s i onNonzero imm) (hr : Runs s i cx) (hc : CanTrap cx)
    (out : segOf imm ≠ segOf cx.pc) : exec i s = .next (cx.goes s cx.party fun k t =>
      if cx.enabled k then t.enter cx.hpc cx.pc { cause := 0x11, tinfo := segOf imm } else t.jump cx.npc) := by
  rw [hx, runBranch, runWord_issues hr.toIssues]
  simp only [branch_out out]
  exact congrArg _ (mapGroup_enabled_enter hc hr.inside s cx.pc fun _ => { cause := 0x11, tinfo := segOf imm })
theorem runUBranch_out (hx : ∀ s, exec i s = runUBranch s i onNonzero imm) (hr : Issues s i cx) (hc : CanTrap cx)
    (out : segOf imm ≠ segOf cx.pc) : exec i s = .next (cx.goes s cx.party fun _ t =>
      t.enter cx.hpc cx.pc { cause := 0x11, tinfo := segOf imm }) := by
  rw [hx, runUBranch, runWord_issues hr]
  exact congrArg _ (mapGroup_goes_at fun k hk => (branch_out out ..).trans (deliver_enters hc hk ..))

end

/-! ## The last word of a segment (R130) -/

/-- A result that raises no flag and takes no draw. -/
theorem orFlags_nothing (t : Thread) : { t.orFlags 0 with draw := t.draw + BitVec.ofNat 64 0 } = t := by
  simp [Thread.orFlags]
/-- A lane instruction of registers at word 1023 gives its value and then takes FLOW_END. -/
theorem runInt_atEnd {i : Instr} {lats : Bool} {f : Opnds → Nat} (hx : ∀ s, exec i s = runInt s i lats f) {s : State} {cx : Cx}
    (hr : Issues s i cx) (last : cx.atEnd = true) (hc : CanTrap cx) :
    exec i s = .next (cx.goes s (cx.takes fun k => f (cx.operands s k)) fun k t =>
      (if cx.enabled k then cx.gives lats (f (cx.operands s k)) t else if cx.p.z then cx.gives lats 0 t else t).enter
        cx.hpc cx.pc { cause := 0x10, tinfo := 1 }) := by
  obtain ⟨entry, normal⟩ := hc
  rw [hx, runInt, runAlu, runWord_issues hr]
  refine congrArg _ (mapGroup_takes_at (fun _ _ => rfl) fun k hk => ?_)
  simp only [Cx.aluThread, advance_atEnd last, orFlags_nothing]
  rw [← deliver_normal (k := k) entry]
  · cases cx.enabled k <;> cases cx.p.z <;> rfl
  · cases cx.enabled k <;> cases cx.p.z <;> cases lats <;> simp [Cx.gives, Thread.setLat, normal k hk]

end Sys2Proof.Machine

open Sys2Proof Sys2Proof.Machine

/-- Settles O19: the register tested is one word, a target's segment is compared before the branch is decided, and past word 1023
every thread takes FLOW_END as it stands after its result. -/
theorem branchesStayInTheirSegment : Obligations.BranchesStayInTheirSegment := by
  refine ⟨fun d imm => ⟨fun s cx hr within => ?_, fun s cx hr within => ?_, fun s cx hr within => ?_, fun s cx hr within => ?_⟩,
    fun d imm => ⟨?_, ?_⟩, fun d a b => ⟨fun s cx hr last hc => ?_, fun s cx hr last hc => ?_⟩⟩
  · simpa using runBranch_within (fun _ => rfl) rfl hr within
  · simpa using runBranch_within (fun _ => rfl) rfl hr within
  · simpa using runUBranch_within (fun _ => rfl) rfl hr within
  · simpa using runUBranch_within (fun _ => rfl) rfl hr within
  · simp only [List.forall_mem_cons]
    exact ⟨fun s cx => runBranch_out fun _ => rfl, fun s cx => runBranch_out fun _ => rfl, nofun⟩
  · simp only [List.forall_mem_cons]
    exact ⟨fun s cx => runUBranch_out fun _ => rfl, fun s cx => runUBranch_out fun _ => rfl, nofun⟩
  · simpa only [iaddVal_eq] using runInt_atEnd (fun _ => rfl) hr last hc
  · show execNop d a b s = _
    rw [execNop, runWord_issues hr]
    exact congrArg _ (mapGroup_goes_at fun k hk => (advance_atEnd last k _).trans (deliver_enters hc hk ..))

end

section
/-! Fenced jumps, calls and returns (06_control_wait_crosslane.md R132, R133): a target's segment is checked, and the next PC is
written to the destination, which only a call has. -/

namespace Sys2Proof.Machine

/-! ## The segment of a target -/

/-- The model's check of a target's segment is the rule's. -/
theorem segCheck_eq_jumpCause (s : State) (cx : Cx) (a : Nat) :
    segCheck s cx.core cx.launch (segOf (BitVec.ofNat 16 a)) = jumpCause s cx a := by
  have seg : segOf (BitVec.ofNat 16 a) = a / 1024 % 64 := by
    rw [segOf, BitVec.toNat_ofNat]
    omega
  rw [seg, segCheck, jumpCause]
  rcases Nat.mod_two_eq_zero_or_one (cx.launch.segMap / 2 ^ (a / 1024 % 64)) with h | h
  · simp [bitOf, h, Cause.segRange]
  · simp only [bitOf, h, beq_self_eq_true, Bool.not_true, Bool.false_eq_true, if_false, Nat.one_ne_zero]
    cases (segAt s cx.core cx.launch.lid (a / 1024 % 64)).st <;> rfl
theorem jumpOk_iff {s : State} {cx : Cx} {a : Nat} : JumpOk s cx a ↔ jumpCause s cx a = none := by
  rw [JumpOk, segCheck_eq_jumpCause]

/-- A form without a destination names z. -/
theorem dreg_eq_z {s : State} {i : Instr} {cx : Cx} (h : cx? s i = some cx) (hd : ∀ {slots p}, (formOf slots p i).d = .zero) :
    cx.dreg = .z := by
  have bare : cx.form.d = .zero := by rw [cx_form h, hd]
  rw [Cx.dreg, bare]
  rfl
theorem dwidth_eq_one {s : State} {i : Instr} {cx : Cx} (h : cx? s i = some cx)
    (hd : ∀ {slots p}, (formOf slots p i).d.width?.getD .one = .one) : cx.dwidth = .one := by
  rw [Cx.dwidth, cx_form h, hd]

/-! ## What a fenced jump does -/

/-- A thread of a group that jumps: it traps where its target's segment cannot be entered, and else writes the next PC to D. -/
def Cx.jumps (cx : Cx) (s : State) (k : Nat) (t : Thread) : Thread :=
  if cx.enabled k then
    match jumpCause s cx (cx.operands s k).a with
    | some tr => t.enter cx.hpc cx.pc tr
    | none => (t.write cx.dreg .one cx.npc.toNat).jump (BitVec.ofNat 16 (cx.operands s k).a)
  else t.jump cx.npc

section
variable {i : Instr} {s : State} {cx : Cx}

/-- JMPF, CALLF and RET, where every thread that traps can take its cause. -/
theorem runJump_goes (hx : ∀ s, exec i s = runJump s i) (hd : ∀ {slots p}, (formOf slots p i).d.width?.getD .one = .one)
    (hr : Runs s i cx)
    (can : ∀ k ∈ cx.tids, cx.enabled k = true → (jumpCause s cx (cx.operands s k).a).isSome = true →
      cx.hpc ≠ 0#16 ∧ (cx.party.thread k).handler = false) :
    exec i s = .next (cx.goes s (cx.party.takeG cx.dreg .one cx.tids fun k =>
      if cx.enabled k ∧ jumpCause s cx (cx.operands s k).a = none then some cx.npc.toNat else none) (cx.jumps s)) := by
  rw [hx, runJump, runWord_issues hr.toIssues]
  simp only [segCheck_eq_jumpCause]
  rw [← dwidth_eq_one hr.context hd]
  refine congrArg _ (mapGroup_takes_at (fun k _ => ?_) fun k hk => ?_)
  · show (if cx.enabled k && (jumpCause s cx (cx.operands s k).a).isNone then _ else _) = _
    simp only [Bool.and_eq_true, Option.isNone_iff_eq_none]
  · rw [dwidth_eq_one hr.context hd, Cx.jumps]
    cases he : cx.enabled k with
    | false => exact advance_inside hr.inside k _
    | true =>
      show (match jumpCause s cx (cx.operands s k).a with | some tr => _ | none => _) = _
      cases hj : jumpCause s cx (cx.operands s k).a with
      | none => rfl
      | some tr =>
        obtain ⟨entry, normal⟩ := can k hk he (by rw [hj]; rfl)
        exact deliver_normal entry normal cx.pc k tr

/-- They take no cause where every target can be entered. -/
theorem runJump_enters (hx : ∀ s, exec i s = runJump s i) (hd : ∀ {slots p}, (formOf slots p i).d.width?.getD .one = .one)
    (hr : Runs s i cx) (ok : ∀ k ∈ cx.tids, cx.enabled k = true → JumpOk s cx (cx.operands s k).a) :
    exec i s = .next (cx.goes s
      (cx.party.takeG cx.dreg .one cx.tids fun k => if cx.enabled k then some cx.npc.toNat else none) fun k t =>
        if cx.enabled k then (t.write cx.dreg .one cx.npc.toNat).jump (BitVec.ofNat 16 (cx.operands s k).a)
        else t.jump cx.npc) := by
  have free (k : Nat) (hk : k ∈ cx.tids) (he : cx.enabled k = true) : jumpCause s cx (cx.operands s k).a = none :=
    jumpOk_iff.1 (ok k hk he)
  rw [runJump_goes hx hd hr fun k hk he hj => absurd hj (by simp [free k hk he])]
  refine congrArg _ ((congrArg (cx.goes s · _) (takeG_congr fun k hk => ?_)).trans (goes_congr fun k hk t => ?_))
  · by_cases he : cx.enabled k = true <;> simp [he, free k hk]
  · by_cases he : cx.enabled k = true <;> simp [Cx.jumps, he, free k hk]

/-- UJMPF, UCALLF and URET go where the target can be entered. -/
theorem runUJump_enters (hx : ∀ s, exec i s = runUJump s i) (hr : Runs s i cx) (ok : JumpOk s cx (cx.uniOperands s).a) :
    exec i s = .next (cx.goes s (cx.party.write cx.dreg .one cx.npc.toNat) fun _ t =>
      t.jump (BitVec.ofNat 16 (cx.uniOperands s).a)) := by
  rw [hx, runUJump, runWord_issues hr.toIssues]
  show Host.Outcome.next (match segCheck s cx.core cx.launch (segOf (BitVec.ofNat 16 (cx.uniOperands s).a)) with
    | some tr => _ | none => _) = _
  rw [ok]
  exact congrArg _ (mapGroup_goes (cx := { cx with party := cx.party.write cx.dreg .one cx.npc.toNat }) fun _ _ _ => rfl)
/-- And every thread of their group traps where it cannot. -/
theorem runUJump_traps (hx : ∀ s, exec i s = runUJump s i) (tr : Trap) (hr : Runs s i cx) (hc : CanTrap cx)
    (hj : jumpCause s cx (cx.uniOperands s).a = some tr) :
    exec i s = .next (cx.goes s cx.party fun _ t => t.enter cx.hpc cx.pc tr) := by
  rw [hx, runUJump, runWord_issues hr.toIssues]
  show Host.Outcome.next (match segCheck s cx.core cx.launch (segOf (BitVec.ofNat 16 (cx.uniOperands s).a)) with
    | some tr => cx.trapAll s tr | none => _) = _
  rw [segCheck_eq_jumpCause, hj]
  exact congrArg _ (trapAll_enters hc s tr)

end

end Sys2Proof.Machine

open Sys2Proof Sys2Proof.Machine

/-- Settles O20: the model writes the next PC to D in all six instructions, and those that are no calls name z. -/
theorem fencedJumpsGoToUsableSegments : Obligations.FencedJumpsGoToUsableSegments := by
  refine ⟨fun d a b => ?_, fun d a b => ?_⟩ <;> simp only [List.forall_mem_cons]
  · refine ⟨⟨fun s cx hr ok => ?_, fun s cx hr ok => ?_, fun s cx hr ok => ?_, nofun⟩,
      fun s cx hr ok => ?_, fun s cx hr ok => ?_, fun s cx hr ok => ?_, nofun⟩
    · simpa [dreg_eq_z hr.context rfl] using runJump_enters (fun _ => rfl) rfl hr ok
    · simpa using runJump_enters (fun _ => rfl) rfl hr ok
    · simpa [dreg_eq_z hr.context rfl] using runJump_enters (fun _ => rfl) rfl hr ok
    · simpa [dreg_eq_z hr.context rfl, Party.write] using runUJump_enters (fun _ => rfl) hr ok
    · simpa using runUJump_enters (fun _ => rfl) hr ok
    · simpa [dreg_eq_z hr.context rfl, Party.write] using runUJump_enters (fun _ => rfl) hr ok
  · refine ⟨⟨fun s cx hr hc => ?_, fun s cx hr hc => ?_, fun s cx hr hc => ?_, nofun⟩,
      fun s cx tr => runUJump_traps (fun _ => rfl) tr, fun s cx tr => runUJump_traps (fun _ => rfl) tr,
      fun s cx tr => runUJump_traps (fun _ => rfl) tr, nofun⟩
    all_goals
      refine (runJump_goes (fun _ => rfl) rfl hr fun k hk _ _ => ⟨hc.1, hc.2 k hk⟩).trans ?_
      refine congrArg _ (goes_congr fun k _ t => ?_)
      rw [Cx.jumps]
    · cases jumpCause s cx (cx.operands s k).a <;> simp [dreg_eq_z hr.context rfl]
    · cases jumpCause s cx (cx.operands s k).a <;> simp
    · cases jumpCause s cx (cx.operands s k).a <;> simp [dreg_eq_z hr.context rfl]

end

section
/-! Waits and no-ops (06_control_wait_crosslane.md R137 to R141, R155): thresholds of counters, and a WAITC whose one condition
is of kind COUNT. -/

namespace Sys2Proof.Machine

/-! ## A party written to its slot -/

theorem State.setParty_setParty (s : State) (k : Nat) (p q : Party) : (s.setParty k p).setParty k q = s.setParty k q := by
  simp [State.setParty, State.setSlot, State.slot, aset_aset]
theorem State.setParty_self {s : State} {k : Nat} {p : Party} (h : s.party? k = some p) : s.setParty k p = s := by
  have slots := setParty_same h
  show { s with slots := (s.setParty k p).slots } = s
  rw [slots]

/-- One thread's result for D, in the party that stands there. -/
theorem State.putG_eq {s : State} {slot : Nat} {p : Party} (h : s.party? slot = some p) (k : Nat) (d : Reg) (w : Width) (x : Nat) :
    s.putG slot k d w x = s.setParty slot (p.takeG d w [k] fun _ => some x) := by
  unfold State.putG
  rw [h]
  cases d with
  | g n => rfl
  | _ => exact (State.setParty_self h).symm

/-! ## One thread's turn -/

/-- A group of one thread that takes no cause: what its turn leaves, with the thread as it leaves it. -/
theorem each_single {cx : Cx} {s s' : State} {k : Nat} {p : Party} {u : Thread}
    {g : State → Nat → View → Thread → State × (Thread × Option Esc)} (single : cx.tids = [k])
    (party : s.party? cx.slot = some cx.party) (turn : g s k (cx.view s.ref k) (cx.party.thread k) = (s', u, none))
    (after : s'.party? cx.slot = some p) : cx.each s g = s'.setParty cx.slot (p.setThread k u) := by
  rw [each_turns, single]
  show cx.turn g s k = _
  unfold Cx.turn
  have turn' :
      g s k { party := { cx.party with g := cx.party.g }, thread := cx.party.thread k, tid := k, tids := cx.tids, ref := s.ref }
        (cx.party.thread k) = (s', u, none) := turn
  simp only [party, turn', after]
  rfl

/-- The next PC is one or two words on, the second behind a prefix. -/
theorem cx_next {s : State} {i : Instr} {cx : Cx} (h : cx? s i = some cx) :
    ∃ n, (n = 1 ∨ n = 2) ∧ cx.npc = cx.pc + BitVec.ofNat 16 n ∧ cx.atEnd = (wordOf cx.pc + n == 1024) := by
  unfold cx? at h
  repeat (split at h <;> try cases h)
  exact ⟨_, by split <;> simp, rfl, rfl⟩
/-- It stands in the segment where the instruction is not the segment's last. -/
theorem wordOf_npc_ne_zero {s : State} {i : Instr} {cx : Cx} (h : cx? s i = some cx) (inside : cx.atEnd = false) :
    wordOf cx.npc ≠ 0 := by
  obtain ⟨n, hn, npc, last⟩ := cx_next h
  rw [inside, eq_comm, beq_eq_false_iff_ne] at last
  have := cx.pc.isLt
  rw [npc, wordOf, BitVec.toNat_add, BitVec.toNat_ofNat]
  unfold wordOf at last
  omega
/-- A wait that ends goes on to such a PC. -/
theorem pass_within {npc : Pc} (h : wordOf npc ≠ 0) (t : Thread) (hpc : Pc) (k : Nat) :
    t.pass hpc k npc = (t.jump npc, none) := by
  simp [Thread.pass, h, Thread.jump]

/-! ## Thresholds (R137) -/

/-- A class stands above its threshold, of 4 bits, where that is not 15. -/
theorem thresholdsHold_eq (c : Counters) (v : Nat) : thresholdsHold c v =
    !([(0, c.ld), (1, c.st), (2, c.cp), (3, c.tl), (4, c.bk), (5, c.gx), (6, c.cf)] : List (Nat × Nat)).any fun e =>
      fld v (4 * e.1) 4 ≠ 15 ∧ fld v (4 * e.1) 4 < e.2 := by
  have classes : mapI (fun i k => (i, k)) 0 Cls.all =
      [(0, .ld), (1, .st), (2, .cp), (3, .tl), (4, .bk), (5, .gx), (6, .cf)] := rfl
  rw [Bool.eq_iff_iff]
  simp only [thresholdsHold, classes, List.all_eq_true, Bool.or_eq_true, beq_iff_eq, decide_eq_true_eq, List.forall_mem_cons]
  simp [Counters.get, or_iff_not_imp_left]

/-! ## A WAITC whose one condition counts (R138 to R141) -/

/-- What a WAITC of one condition of kind COUNT without a time limit reads: a header that says so, and a record that the checks of
R159 pass, that no access of the thread is still to reach, and whose entry is good. -/
structure ReadsCount (s s' : State) (cx : Cx) (k blk : Nat) : Prop where
  ordinary : cx.launch.isDet = false
  header : (cx.operands s k).b = 0xC0
  aligned : (cx.operands s k).a % 32 = 0
  outside : isAcc (cx.operands s k).a = false
  allowed : checkEa s cx.launch { size := 32, r := true } (cx.operands s k).a = none
  settled : openAccesses s cx.slot [k] cx.issue.handler = []
  read : readEa s (cx.ag s k) (cx.operands s k).a 32 = .ok blk s'
  count : (condOf blk 0).kind = 2
  good : condBad blk 0 = false
  scope : (condOf blk 0).scope = 0

/-- A COUNT condition latches where the counters are at or below the thresholds, and is evaluated either way. -/
theorem evalConds_count (g : Ag) (slot : Nat) (p : Party) (t : Thread) (s : State) {c : Cond} (h : c.kind = 2) :
    evalConds g slot p t false 0 s [c] 0 =
      .ok (s, [{ c with seen := true, heldSince := none }], if thresholdsHold t.cnt c.value then 1 else 0) := by
  by_cases ht : thresholdsHold t.cnt c.value = true <;> simp [evalConds, evalCond, h, ht, bitOf]

section
variable {s s' : State} {cx : Cx} {k blk : Nat}

/-- Such a WAITC is evaluated once at its start. -/
theorem ReadsCount.waitcOne_eq (h : ReadsCount s s' cx k blk) (t : Thread) :
    waitcOne cx s k (cx.view s.ref k) t = waitStep s' cx.slot cx.hpc k { t with hold := none } cx.dreg
      [{ condOf blk 0 with seen := true, heldSince := none }] false none
      (if thresholdsHold t.cnt (condOf blk 0).value then 1 else 0) cx.npc := by
  obtain ⟨ordinary, header, aligned, outside, allowed, settled, read, count, good, scope⟩ := h
  have entry : entryCheck s' cx blk 0 = none := by simp [entryCheck, scope, good, count]
  rw [Cx.operands] at header aligned outside allowed read
  simp [waitcOne, header, ordinary, aligned, outside, allowed, settled, read, entry, fld, bitOf, upTo, List.range_succ,
    evalConds_count, count]

/-- It completes with the latched set 1 where the counters are low enough, and else waits with its condition captured. -/
theorem ReadsCount.exec_waitc {d a b : BitVec 8} (h : ReadsCount s s' cx k blk) (hr : RunsOne s (.waitc d a b) cx k)
    (party : s'.party? cx.slot = some cx.party) :
    let p := if thresholdsHold (cx.party.thread k).cnt (condOf blk 0).value
      then cx.party.takeG cx.dreg .one [k] (fun _ => some 1) else cx.party
    exec (.waitc d a b) s = .next (s'.setParty cx.slot (p.setThread k
      (let t := { cx.party.thread k with hold := none }
       if thresholdsHold t.cnt (condOf blk 0).value then (t.write cx.dreg .one 1).jump cx.npc
       else { t with hold := some (.waitc cx.dreg [{ condOf blk 0 with seen := true, heldSince := none }] false none 0 cx.npc) }))) := by
  show execWaitc d a b s = _
  have next := pass_within (wordOf_npc_ne_zero hr.context hr.inside)
  have turn := h.waitcOne_eq (cx.party.thread k)
  rw [execWaitc, runWord_issues hr.toIssues]
  refine congrArg _ ?_
  by_cases low : thresholdsHold (cx.party.thread k).cnt (condOf blk 0).value = true
  · simp only [low, if_true] at turn ⊢
    simp only [waitStep, waitDone, waitEnd, Cond.tried, next, State.putG_eq party] at turn
    exact (each_single hr.single (cx_party hr.context) ((if_pos hr.enabled).trans turn)
      (State.party_setParty_same ..)).trans (State.setParty_setParty ..)
  · simp only [low] at turn ⊢
    exact each_single hr.single (cx_party hr.context) ((if_pos hr.enabled).trans turn) party

end

/-! ## No-ops and WAITN (R137, R155) -/

theorem mapGroup_advance {cx : Cx} (inside : cx.atEnd = false) (s : State) :
    cx.mapGroup s cx.advance = cx.goes s cx.party fun _ t => t.jump cx.npc :=
  mapGroup_goes fun k _ t => advance_inside inside k t

theorem exec_waitn {s : State} {cx : Cx} {d : BitVec 8} {imm : BitVec 16} (hr : Runs s (.waitn d imm) cx) :
    exec (.waitn d imm) s = .next (cx.goes s cx.party fun k t =>
      if cx.enabled k && !thresholdsHold t.cnt (waitnThresholds d imm cx.p.c) then t else t.jump cx.npc) := by
  show execWaitn d imm s = _
  rw [execWaitn, runWord_issues hr.toIssues]
  refine congrArg _ (mapGroup_goes fun k _ t => ?_)
  split
  · rfl
  · exact advance_inside hr.inside k t

end Sys2Proof.Machine

open Sys2Proof Sys2Proof.Machine

/-- Settles O21: a threshold test is one of each class, and the one condition of the WAITC is evaluated once at its start. -/
theorem waitsAndNopsComplete : Obligations.WaitsAndNopsComplete := by
  refine ⟨⟨fun d a b => ⟨fun s cx hr => ?_, fun s cx hr => ?_⟩, fun d imm s cx hr => ?_⟩, ?_⟩
  · show execNop d a b s = _
    rw [execNop, runWord_issues hr.toIssues, mapGroup_advance hr.inside]
  · show execUnop d a b s = _
    rw [execUnop, runWord_issues hr.toIssues, mapGroup_advance hr.inside]
  · rw [exec_waitn hr]
    simp only [thresholdsHold_eq, Bool.not_not]
    rfl
  · intro s s' d a b cx k blk hr single _ enabled ordinary header aligned outside allowed settled read party count good scope
    exact ReadsCount.exec_waitc ⟨ordinary, header, aligned, outside, allowed, settled, read, count, good, scope⟩
      ⟨hr, single, enabled⟩ party

end

section
/-! Status registers (06_control_wait_crosslane.md R154; 01_thread.md R27 to R29; 09_traps.md R223, R227): what SRD and USRD read,
and what SWR writes or refuses. -/

namespace Sys2Proof.Machine

/-! ## Reading (R27, R154) -/

/-- The numbers that R27 lists are those of its table. -/
theorem statusOf_numbers (cx : Cx) (s : State) (k : Nat) : (cx.statusOf s k).map (·.1) = statusNumbers := rfl

section
variable {s : State} {cx : Cx} {k n : Nat}

theorem srRead_listed {x : Nat} (h : (n, x) ∈ cx.statusOf s k) : srRead s cx k (cx.party.thread k) n = some x := by
  have table : ∀ e ∈ cx.statusOf s k, srRead s cx k (cx.party.thread k) e.1 = some e.2 := by
    simp only [Cx.statusOf, List.forall_mem_cons]
    exact ⟨rfl, rfl, rfl, rfl, rfl, rfl, rfl, rfl, rfl, rfl, rfl, rfl, rfl, rfl, rfl, rfl, nofun⟩
  exact table _ h
theorem srRead_unlisted (h : n ∉ statusNumbers) (t : Thread) : srRead s cx k t n = none := by
  unfold srRead
  split
  case h_17 => rfl
  all_goals exact absurd (by decide) h
theorem srRead_of_mem (h : n ∈ statusNumbers) : ∃ x, srRead s cx k (cx.party.thread k) n = some x := by
  rw [← statusOf_numbers cx s k, List.mem_map] at h
  obtain ⟨⟨m, x⟩, listed, rfl⟩ := h
  exact ⟨x, srRead_listed listed⟩

/-- sr.clk and sr.ref are open to a launch that is not deterministic. -/
theorem detSr_false (h : cx.launch.isDet = true → n ≠ 0x09 ∧ n ≠ 0x0A) : detSr cx n = false := by
  cases hd : cx.launch.isDet with
  | false => simp [detSr, hd]
  | true => simp [detSr, h hd]

end

/-! ## SRD -/

section
variable {s : State} {cx : Cx} {d a b : BitVec 8}

theorem exec_srd_reads (hr : Runs s (.srd d a b) cx) (open_ : detSr cx b.toNat = false) {f : Nat → Nat}
    (listed : ∀ k ∈ cx.tids, (b.toNat, f k) ∈ cx.statusOf s k) :
    exec (.srd d a b) s = .next (cx.goes s (cx.takes f) fun k t =>
      Thread.jump (if cx.enabled k then t.write cx.dreg cx.dwidth (f k)
        else if cx.p.z then t.write cx.dreg cx.dwidth 0 else t) cx.npc) := by
  show execSrd d a b s = _
  rw [execSrd, runWord_issues hr.toIssues]
  refine congrArg _ (mapGroup_takes_at (fun k hk => ?_) fun k hk => ?_)
  · simp [Cx.srdGives, Cx.offers, open_, srRead_listed (listed k hk)]
  · cases he : cx.enabled k with
    | true => simp [srRead_listed (listed k hk), open_, advance_inside hr.inside]
    | false => simp [advance_inside hr.inside]
theorem exec_srd_traps (hr : Runs s (.srd d a b) cx) (hc : CanTrap cx) (unlisted : b.toNat ∉ statusNumbers) :
    exec (.srd d a b) s = .next (cx.goes s (cx.zeroes cx.dwidth) fun k t =>
      if cx.enabled k then t.enter cx.hpc cx.pc { cause := 0x0D }
      else Thread.jump (if cx.p.z then t.write cx.dreg cx.dwidth 0 else t) cx.npc) := by
  show execSrd d a b s = _
  rw [execSrd, runWord_issues hr.toIssues]
  refine congrArg _ (mapGroup_takes_at (fun k hk => ?_) fun k hk => ?_)
  · simp [Cx.srdGives, srRead_unlisted unlisted]
  · cases he : cx.enabled k with
    | true =>
      simp only [if_true, srRead_unlisted unlisted]
      exact raise_enters hc hk _
    | false => simp [advance_inside hr.inside]

end

/-! ## USRD -/

/-- The field-wise maximum over a group is the maximum of each field. -/
theorem foldl_maxCounters (f : Nat → Counters) (ks : List Nat) (c : Counters) :
    ks.foldl (fun c k => maxCounters c (f k)) c =
      { ld := (ks.map fun k => (f k).ld).foldl max c.ld, st := (ks.map fun k => (f k).st).foldl max c.st,
        cp := (ks.map fun k => (f k).cp).foldl max c.cp, tl := (ks.map fun k => (f k).tl).foldl max c.tl,
        bk := (ks.map fun k => (f k).bk).foldl max c.bk, gx := (ks.map fun k => (f k).gx).foldl max c.gx,
        cf := (ks.map fun k => (f k).cf).foldl max c.cf } := by
  induction ks generalizing c with
  | nil => rfl
  | cons k ks ih => exact ih _

section
variable {s : State} {cx : Cx} {d a b : BitVec 8}

/-- A register that is the same for the group, or the greatest counters in it. -/
theorem exec_usrd_reads (hr : Runs s (.usrd d a b) cx) (open_ : detSr cx b.toNat = false) {x : Nat}
    (uniform : b.toNat ≠ 0x01 ∧ b.toNat < 0x10)
    (read : srRead s cx (cx.tids.headD 0) (cx.party.thread (cx.tids.headD 0)) b.toNat = some x) :
    exec (.usrd d a b) s = .next (cx.goes s (cx.party.write cx.dreg cx.dwidth (if b.toNat = 0x08
      then cntWord (cx.tids.foldl (fun c k => maxCounters c (cx.party.thread k).cnt) {}) else x)) fun _ t => t.jump cx.npc) := by
  show execUsrd d a b s = _
  rw [execUsrd, runWord_issues hr.toIssues]
  have readable : (b.toNat == 0x01 || decide (0x10 ≤ b.toNat) || detSr cx b.toNat) = false := by simp [uniform, open_]
  simp only [read, readable, Bool.false_eq_true, if_false, beq_iff_eq]
  exact congrArg _ (mapGroup_goes fun k _ t => advance_inside hr.inside k t)
theorem exec_usrd_traps (hr : Runs s (.usrd d a b) cx) (hc : CanTrap cx)
    (closed : b.toNat ∉ [0x00, 0x02, 0x03, 0x04, 0x05, 0x06, 0x08, 0x09, 0x0A]) :
    exec (.usrd d a b) s = .next (cx.goes s cx.party fun _ t =>
      t.enter cx.hpc cx.pc { cause := if b.toNat ∈ statusNumbers then 0x0E else 0x0D }) := by
  show execUsrd d a b s = _
  rw [execUsrd, runWord_issues hr.toIssues]
  by_cases listed : b.toNat ∈ statusNumbers
  · obtain ⟨x, read⟩ := srRead_of_mem (s := s) (cx := cx) (k := cx.tids.headD 0) listed
    have refused : (b.toNat == 0x01 || decide (0x10 ≤ b.toNat) || detSr cx b.toNat) = true := by
      simp only [statusNumbers, List.mem_cons, List.not_mem_nil, or_false] at listed closed
      simp only [Bool.or_eq_true, beq_iff_eq, decide_eq_true_eq]
      omega
    simp only [read, refused, if_true, if_pos listed]
    exact congrArg _ (trapAll_enters hc s _)
  · simp only [srRead_unlisted listed, if_neg listed]
    exact congrArg _ (trapAll_enters hc s _)

end

/-! ## Writing (R227, R29, R223) -/

/-- A field below bit 32 is that of the word. -/
theorem fld_wa (o : Opnds) {lo len : Nat} (h : lo + len ≤ 32) : fld o.a lo len = fld o.wa.toNat lo len := by
  refine Nat.eq_of_testBit_eq fun i => ?_
  rw [testBit_fld, testBit_fld, Opnds.wa, BitVec.toNat_ofNat, Nat.testBit_mod_two_pow]
  by_cases hi : i < len
  · simp [show lo + i < 32 by omega]
  · simp [hi]
/-- A word masked to a field. -/
theorem and_field (x : Word) (lo len : Nat) :
    x &&& BitVec.ofNat 32 ((2 ^ len - 1) * 2 ^ lo) = BitVec.ofNat 32 (fld x.toNat lo len * 2 ^ lo) := by
  refine BitVec.eq_of_getLsbD_eq fun i hi => ?_
  rw [BitVec.getLsbD_and, BitVec.getLsbD_ofNat, BitVec.getLsbD_ofNat, Nat.testBit_mul_two_pow, Nat.testBit_mul_two_pow,
    testBit_fld, Nat.testBit_two_pow_sub_one]
  by_cases h : lo ≤ i
  · simp [h, hi, BitVec.getLsbD, Bool.and_comm]
  · simp [h]
theorem ofNat_mod_a (o : Opnds) {n : Nat} (h : n ≤ 32) :
    BitVec.ofNat 32 (o.a % 2 ^ n) = o.wa &&& BitVec.ofNat 32 (2 ^ n - 1) := by
  have low := and_field o.wa 0 n
  rw [← fld_wa o (by omega)] at low
  simpa [fld] using low.symm
/-- A masked word is what lies in another one and what lies outside it. -/
theorem masked_parts (x y m : Word) : (x &&& m &&& (y &&& m)) + (x &&& ~~~y &&& m) = x &&& m := by
  rw [BitVec.add_eq_or_of_and_eq_zero] <;>
  · ext i hi
    simp only [BitVec.getElem_and, BitVec.getElem_or, BitVec.getElem_not, BitVec.getElem_zero]
    cases x[i] <;> cases y[i] <;> cases m[i] <;> rfl
/-- sr.fpcsr takes RND and the FZ bits, clears the flags that the word names, and keeps NVT (R29, R227). -/
theorem fpcsrWrite_eq (old : Word) (o : Opnds) : BitVec.ofNat 32 (fpcsrWrite old.toNat o.a) =
    (old &&& 0x800#32) ||| (o.wa &&& 0x7E0#32) ||| (old &&& ~~~o.wa &&& 0x1F#32) := by
  have kept : BitVec.ofNat 32 (fld old.toNat 11 1 * 2 ^ 11) = old &&& 0x800#32 := (and_field old 11 1).symm
  have taken : BitVec.ofNat 32 (fld o.a 5 6 * 2 ^ 5) = o.wa &&& 0x7E0#32 := by
    rw [fld_wa o (by decide)]
    exact (and_field o.wa 5 6).symm
  have cleared : BitVec.ofNat 32 (fld old.toNat 0 5 - Nat.land (fld old.toNat 0 5) (fld o.a 0 5)) =
      old &&& ~~~o.wa &&& 0x1F#32 := by
    have named : BitVec.ofNat 32 (Nat.land (fld old.toNat 0 5) (fld o.a 0 5)) = old &&& 0x1F#32 &&& (o.wa &&& 0x1F#32) := by
      have flags (x : Word) : x &&& 0x1F#32 = BitVec.ofNat 32 (fld x.toNat 0 5) := by simpa using and_field x 0 5
      rw [fld_wa o (by decide), flags, flags, ← BitVec.ofNat_and]
      rfl
    have all : BitVec.ofNat 32 (fld old.toNat 0 5) = old &&& 0x1F#32 := by simpa using (and_field old 0 5).symm
    refine add_left_cancel (a := old &&& 0x1F#32 &&& (o.wa &&& 0x1F#32)) ?_
    rw [masked_parts, ← named, ← all, ← BitVec.ofNat_add, Nat.add_sub_cancel' (show Nat.land _ _ ≤ _ from Nat.and_le_left)]
  have apart (x y m n : Word) (h : m &&& n = 0#32) : (x &&& m) &&& (y &&& n) = 0#32 := by
    rw [show (x &&& m) &&& (y &&& n) = (x &&& y) &&& (m &&& n) by ac_rfl, h, BitVec.and_zero]
  have flags : ((old &&& 0x800#32) ||| (o.wa &&& 0x7E0#32)) &&& (old &&& ~~~o.wa &&& 0x1F#32) = 0#32 := by
    rw [BitVec.and_or_distrib_right, apart _ _ _ _ (by decide), apart _ _ _ _ (by decide), BitVec.or_zero]
  rw [fpcsrWrite, BitVec.ofNat_add, BitVec.ofNat_add, kept, taken, cleared,
    BitVec.add_eq_or_of_and_eq_zero _ _ (apart _ _ _ _ (by decide)), BitVec.add_eq_or_of_and_eq_zero _ _ flags]

section
variable {s : State} {cx : Cx} {d a b : BitVec 8}

/-- SWR where every enabled thread may write the value. -/
theorem exec_swr_sets (hr : Runs s (.swr d a b) cx) {f : Nat → Thread → Thread}
    (writes : ∀ k ∈ cx.tids, cx.enabled k = true →
      srWrite (cx.party.thread k) b.toNat (cx.operands s k).a = .ok (f k (cx.party.thread k))) :
    exec (.swr d a b) s = .next (cx.goes s cx.party fun k t => Thread.jump (if cx.enabled k then f k t else t) cx.npc) := by
  show execSwr d a b s = _
  rw [execSwr, runWord_issues hr.toIssues]
  refine congrArg _ (mapGroup_goes_at fun k hk => ?_)
  cases he : cx.enabled k with
  | true =>
    have written := writes k hk he
    rw [Cx.operands] at written
    simp only [if_true, written]
    exact advance_inside hr.inside k _
  | false => exact advance_inside hr.inside k _
/-- SWR where no enabled thread may. -/
theorem exec_swr_traps (hr : Runs s (.swr d a b) cx) (hc : CanTrap cx) {c : Nat}
    (refuses : ∀ k ∈ cx.tids, srWrite (cx.party.thread k) b.toNat (cx.operands s k).a = .error c) :
    exec (.swr d a b) s = .next (cx.goes s cx.party fun k t =>
      if cx.enabled k then t.enter cx.hpc cx.pc { cause := c } else t.jump cx.npc) := by
  show execSwr d a b s = _
  rw [execSwr, runWord_issues hr.toIssues]
  refine congrArg _ (mapGroup_goes_at fun k hk => ?_)
  have refused := refuses k hk
  rw [Cx.operands] at refused
  simp only [refused]
  split
  · exact raise_enters hc hk _
  · exact advance_inside hr.inside k _

end

/-! ## A cause in handler mode (09 R222) -/

/-- The one thread of a group escalates, and is as it was. -/
theorem mapGroup_escalates {cx : Cx} {s : State} {k : Nat} {e : Esc} {g : Nat → Thread → Thread × Option Esc}
    (single : cx.tids = [k]) (hk : k < cx.party.threads.length) (first : cx.party.esc = none)
    (hg : g k (cx.party.thread k) = (cx.party.thread k, some e)) :
    cx.mapGroup s g = s.setParty cx.slot { cx.party with esc := some e } := by
  have results : mapI (fun j t => if cx.tids.contains j then g j t else (t, none)) 0 cx.party.threads =
      (cx.party.threads.map (·, none)).set k (cx.party.thread k, some e) := by
    refine List.ext_getElem? fun j => ?_
    rw [mapI_getElem?, Nat.zero_add, single]
    by_cases hj : j = k
    · subst hj
      have here : cx.party.threads[j] = cx.party.thread j := by simp [Party.thread, hk]
      simp [hk, here, hg]
    · simp [hj, List.getElem?_set_ne (Ne.symm hj)]
  have threads : ((cx.party.threads.map (·, (none : Option Esc))).set k (cx.party.thread k, some e)).map (·.1) =
      cx.party.threads := by
    simp [List.map_set, Party.thread, List.getD_eq_getElem?_getD, hk, Function.comp_def]
  have causes : ((cx.party.threads.map (·, none)).set k (cx.party.thread k, some e)).filterMap (·.2) = [e] := by
    simp [List.set_eq_take_append_cons_drop, hk, List.filterMap_append, ← List.map_take, ← List.map_drop,
      List.filterMap_map]
  unfold Cx.mapGroup groupResult
  simp only [results, threads, causes, Party.escalateAll, Party.escalate, first]

/-- A write that a thread in handler mode may not make stops its party. -/
theorem exec_swr_escalates {s : State} {cx : Cx} {d a b : BitVec 8} {k c : Nat} (hr : RunsOne s (.swr d a b) cx k)
    (handler : (cx.party.thread k).handler = true) (hk : k < cx.party.threads.length) (first : cx.party.esc = none)
    (refuses : srWrite (cx.party.thread k) b.toNat (cx.operands s k).a = .error c) :
    exec (.swr d a b) s = .next (s.setParty cx.slot { cx.party with
      esc := some { cause := c, faddr := 0, pc := (cx.party.thread k).pc.toNat, tid := k } }) := by
  show execSwr d a b s = _
  rw [Cx.operands] at refuses
  rw [execSwr, runWord_issues hr.toIssues]
  refine congrArg _ (mapGroup_escalates hr.single hk first ?_)
  simp [hr.enabled, refuses, Cx.raise, deliver, handler]

/-! ## What may be written -/

section
variable {t : Thread} {o : Opnds}

/-- RND of the word written. -/
theorem fld_rnd (o : Opnds) (v : BitVec 3) : fld o.a 5 3 = v.toNat ↔ o.wa.extractLsb' 5 3 = v := by
  rw [fld_wa o (by decide), fld_toNat, BitVec.toNat_inj]
theorem srWrite_fpcsr (h : o.wa.extractLsb' 5 3 ≠ 0#3 ∧ o.wa.extractLsb' 5 3 ≠ 7#3) : srWrite t 0x10 o.a =
    .ok { t with fpcsr := (t.fpcsr &&& 0x800#32) ||| (o.wa &&& 0x7E0#32) ||| (t.fpcsr &&& ~~~o.wa &&& 0x1F#32) } := by
  rw [Ne, ← fld_rnd, Ne, ← fld_rnd] at h
  simpa [srWrite, fpcsrWrite_eq] using h
theorem srWrite_fpcsr_bad (h : o.wa.extractLsb' 5 3 = 0#3 ∨ o.wa.extractLsb' 5 3 = 7#3) : srWrite t 0x10 o.a = .error 0x0E := by
  rw [← fld_rnd, ← fld_rnd] at h
  simpa [srWrite, Cause.srAccess, or_iff_not_imp_left] using h
theorem srWrite_ver : srWrite t 0x11 o.a = .ok { t with ver := o.wa &&& 0xFFFFFF#32 } := by
  rw [srWrite, ofNat_mod_a o (by decide)]
  rfl
/-- In handler mode the trap-state registers take what the word holds for them (R223). -/
theorem srWrite_trapState (handler : t.handler = true) :
    srWrite t 0x19 o.a = .ok { t with tpc := o.wa &&& 0xFFFF#32 } ∧ srWrite t 0x1A o.a = .ok { t with taddr := o.xa } ∧
      srWrite t 0x1B o.a = .ok { t with tinfo := o.wa } ∧
      (o.a % 256 < 0xC0 → srWrite t 0x18 o.a = .ok { t with cause := o.wa &&& 0xFF#32 }) := by
  have tpc : BitVec.ofNat 32 (o.a % 65536) = o.wa &&& 0xFFFF#32 := ofNat_mod_a o (n := 16) (by decide)
  have cause : BitVec.ofNat 32 (o.a % 256) = o.wa &&& 0xFF#32 := ofNat_mod_a o (n := 8) (by decide)
  refine ⟨?_, ?_, ?_, fun low => ?_⟩
  · simp [srWrite, handler, tpc]
  · simp [srWrite, handler, Opnds.xa]
  · simp [srWrite, handler, Opnds.wa]
  · simp [srWrite, handler, Nat.not_le.2 low, cause]
/-- The trap-state registers are read-only in normal mode, as the identity, counter and clock registers are in any (R28, R223). -/
theorem srWrite_readOnly {n : Nat} (normal : t.handler = false)
    (h : n ∈ [0x00, 0x01, 0x02, 0x03, 0x04, 0x05, 0x06, 0x08, 0x09, 0x0A, 0x18, 0x19, 0x1A, 0x1B]) (x : Nat) :
    srWrite t n x = .error 0x0E := by
  have each : ∀ n ∈ [0x00, 0x01, 0x02, 0x03, 0x04, 0x05, 0x06, 0x08, 0x09, 0x0A, 0x18, 0x19, 0x1A, 0x1B],
      srWrite t n x = .error 0x0E := by
    simp only [List.forall_mem_cons]
    simp [srWrite, normal, Cause.srAccess]
  exact each n h
theorem srWrite_unlisted {n : Nat} (h : n ∉ statusNumbers) (x : Nat) : srWrite t n x = .error 0x0D := by
  unfold srWrite
  split
  case h_17 => rfl
  all_goals exact absurd (by decide) h

end

end Sys2Proof.Machine

open Sys2Proof Sys2Proof.Machine

/-- Settles O22: R27's table read entry by entry; a written word's fields as masks of the word; and what a thread may not write
is a cause, which stops the party of a thread in handler mode. -/
theorem statusRegistersAreReadAndWritten : Obligations.StatusRegistersAreReadAndWritten := by
  refine ⟨fun d a b => ⟨fun s cx hr det => ⟨fun f listed => ?_, fun hc unlisted => ?_⟩, fun s cx hr det => ⟨fun x hx => ?_, ?_⟩⟩, ?_⟩
  · exact exec_srd_reads hr (detSr_false det) listed
  · exact exec_srd_traps hr hc unlisted
  · rcases hx with ⟨same, listed⟩ | ⟨rfl, rfl⟩
    · simp only [List.mem_cons, List.not_mem_nil, or_false] at same
      rw [exec_usrd_reads hr (detSr_false det) (by omega) (srRead_listed listed), if_neg (by omega)]
    · obtain ⟨y, read⟩ := srRead_of_mem (s := s) (cx := cx) (k := cx.tids.headD 0) (n := 8) (by decide)
      rw [exec_usrd_reads hr (detSr_false det) (by decide) read, if_pos (by decide), foldl_maxCounters]
      rfl
  · exact fun hc closed => exec_usrd_traps hr hc closed
  intro d a b s cx hr x sets traps
  refine ⟨?_, ?_, ?_, ?_, ?_⟩
  · rintro rfl
    exact ⟨fun ok => exec_swr_sets hr fun k hk he => srWrite_fpcsr (ok k hk he),
      fun hc bad => exec_swr_traps hr hc fun k hk => srWrite_fpcsr_bad (bad k hk)⟩
  · rintro rfl
    exact exec_swr_sets hr fun k hk he => srWrite_ver
  · intro handler
    have written (k : Nat) (hk : k ∈ cx.tids) := srWrite_trapState (o := cx.operands s k) (handler k hk)
    refine ⟨?_, ?_, ?_, ?_⟩ <;> rintro rfl
    · exact exec_swr_sets hr fun k hk _ => (written k hk).1
    · exact exec_swr_sets hr fun k hk _ => (written k hk).2.1
    · exact exec_swr_sets hr fun k hk _ => (written k hk).2.2.1
    · exact fun low => exec_swr_sets hr fun k hk he => (written k hk).2.2.2 (low k hk he)
  · rintro k single enabled handler hk first rfl high
    refine exec_swr_escalates ⟨hr, single, enabled⟩ handler hk first ?_
    simp [srWrite, high, Cause.srAccess]
  · exact fun hc => ⟨fun readOnly => exec_swr_traps hr hc fun k hk => srWrite_readOnly (hc.2 k hk) readOnly _,
      fun unlisted => exec_swr_traps hr hc fun k _ => srWrite_unlisted unlisted _⟩

end

section
/-! Cross-lane instructions (06_control_wait_crosslane.md R144 to R149): the last arrival of a participation set, the one
execution for the whole set, and its values. -/

namespace Sys2Proof.Machine

/-! ## What the checks of R78 say of a destination -/

/-- A check that did not fail, and those after it. -/
theorem check_none {c : Bool} {x : Nat} {rest : Option Nat} (h : (if c = true then some x else rest) = none) :
    c = false ∧ rest = none := by
  cases c
  · exact ⟨rfl, h⟩
  · cases h

/-- Where no check fails, no code is reserved, and D is no handler register in normal mode and no w register of a lane form that
gives each thread its own result. -/
theorem encCheck_none {f : Form} {p : Pfx} {i : Instr} {d a b : BitVec 8} {nv : Nat} (h : encCheck f p i d a b nv false = none) :
    codeRsvd p i = false ∧ ∀ w x, f.d.width? = some w → fieldReg f f.d p.hd d = some x →
      x.isHandler = false ∧ (f.d.writes = true → f.uni = false → f.group = false → x.isW = false) := by
  obtain ⟨_, h⟩ := check_none h
  obtain ⟨_, h⟩ := check_none h
  obtain ⟨_, h⟩ := check_none h
  obtain ⟨code, h⟩ := check_none h
  obtain ⟨_, h⟩ := check_none h
  obtain ⟨handler, h⟩ := check_none h
  obtain ⟨_, h⟩ := check_none h
  obtain ⟨_, h⟩ := check_none h
  obtain ⟨lane, _⟩ := check_none h
  rw [Bool.or_eq_false_iff] at code
  refine ⟨code.1, fun w x hw hx => ⟨?_, fun writes uni group => ?_⟩⟩
  · simpa [hw] using List.any_eq_false.1 handler (f.d, some x) (by simp [operandRegs, hx])
  · simpa [hw, writes, uni, group] using List.any_eq_false.1 lane (f.d, some x) (by simp [operandRegs, hx])

/-- The same of the destination of an instruction that passes the checks in normal mode. -/
theorem Issues.dest {s : State} {i : Instr} {cx : Cx} (h : Issues s i cx) (normal : cx.issue.handler = false) {w : Width}
    (hw : cx.form.d.width? = some w) : cx.dreg.isHandler = false ∧
      (cx.form.d.writes = true → cx.form.uni = false → cx.form.group = false → cx.dreg.isW = false) := by
  have check := h.encoding
  rw [normal] at check
  cases hx : fieldReg cx.form cx.form.d cx.p.hd cx.d with
  | none => simp [Cx.dreg, hx, Reg.isHandler, Reg.isW]
  | some x =>
    rw [Cx.dreg, hx]
    exact (encCheck_none check).2 w x hw hx
theorem Issues.code {s : State} {i : Instr} {cx : Cx} (h : Issues s i cx) (normal : cx.issue.handler = false) :
    codeRsvd cx.p i = false := by
  have check := h.encoding
  rw [normal] at check
  exact (encCheck_none check).1

/-! ## The held participation set (R144, R145) -/

/-- The threads ps of a whole party are held at pc by mask m, and no other thread is held or waits. -/
structure HeldAll (p : Party) (pc : Pc) (m : Nat) (ps : List Nat) : Prop where
  set : ps = (List.range 64).filter fun t => bitOf m t && !(p.thread t).exited
  nonempty : ps ≠ []
  held : ∀ t ∈ ps, (p.thread t).hold = some (.xl m) ∧ (p.thread t).pc = pc
  free : ∀ t < 64, t ∉ ps → (p.thread t).hold = none

section
variable {p : Party} {pc : Pc} {m : Nat} {ps : List Nat}

theorem HeldAll.lt (h : HeldAll p pc m ps) {t : Nat} (ht : t ∈ ps) : t < 64 := by
  rw [h.set] at ht
  exact List.mem_range.1 (List.mem_filter.1 ht).1
/-- The set is in ascending order, each thread once. -/
theorem HeldAll.filter_mem (h : HeldAll p pc m ps) : (upTo 64).filter (fun t => decide (t ∈ ps)) = ps := by
  conv_rhs => rw [h.set]
  refine List.filter_congr fun t ht => ?_
  rw [h.set]
  have : t < 64 := mem_upTo.1 ht
  simp [List.mem_filter, this]
/-- What a list made of the held threads is. -/
theorem HeldAll.filterMap_eq {α : Type} (h : HeldAll p pc m ps) {f : Nat → Option α} {g : Nat → α}
    (held : ∀ t ∈ ps, f t = some (g t)) (free : ∀ t < 64, t ∉ ps → f t = none) : (upTo 64).filterMap f = ps.map g := by
  have split : ∀ t ∈ upTo 64, f t = if decide (t ∈ ps) = true then some (g t) else none := by
    intro t ht
    by_cases mem : t ∈ ps
    · simp [mem, held t mem]
    · simp [mem, free t (mem_upTo.1 ht) mem]
  rw [List.filterMap_congr split, ← List.filterMap_eq_map]
  conv_rhs => rw [← h.filter_mem]
  rw [List.filterMap_filter]
  rfl
theorem HeldAll.heldAt_eq (h : HeldAll p pc m ps) : heldAt p pc = ps.map fun t => (t, m) := by
  refine h.filterMap_eq (fun t ht => ?_) fun t ht hn => ?_
  · simp [h.held t ht]
  · simp [h.free t ht hn]
theorem HeldAll.holdPcs_eq (h : HeldAll p pc m ps) : holdPcs p = [pc] := by
  rw [holdPcs, h.filterMap_eq (g := fun _ => pc) (fun t ht => by simp [h.held t ht]) fun t ht hn => by simp [h.free t ht hn]]
  obtain ⟨t, ts, rfl⟩ := List.exists_cons_of_ne_nil h.nonempty
  rw [List.map_const', List.length_cons, List.replicate_succ, List.eraseDups_cons]
  simp
theorem HeldAll.holdSet_eq (h : HeldAll p pc m ps) : holdSet p pc = ps := by
  obtain ⟨t, ts, cons⟩ := List.exists_cons_of_ne_nil h.nonempty
  have first : heldAt p pc = (t, m) :: ts.map fun t => (t, m) := by rw [h.heldAt_eq, cons]; rfl
  rw [holdSet, first]
  exact h.set.symm
theorem HeldAll.full (h : HeldAll p pc m ps) (unpending : ∀ t ∈ ps, (p.thread t).deliverable = false) :
    holdFull p pc = true := by
  rw [holdFull, h.holdSet_eq, h.heldAt_eq]
  simp +contextual [unpending]

end

/-! ## Execution for the whole set (R144) -/

/-- The context in which a set executes a word whose context one group of it read. -/
theorem cx?_of {s s' : State} {i : Instr} {cx : Cx} {p : Party} {ps : List Nat} (h : cx? s i = some cx)
    (launches : s'.launches = s.launches) (party : s'.party? cx.slot = some p) (lid : p.lid = cx.party.lid) :
    cx? { s' with issue := some { cx.issue with tids := ps } } i = some { cx.of ps with party := p } := by
  unfold cx? at h
  split at h
  · cases h
  next g issue =>
  split at h
  · cases h
  next q hq =>
  split at h
  · next l f d a b hl hf =>
    cases h
    have found : State.launch? { s' with issue := some { g with tids := ps } } p.lid = some l := by
      rw [← hl, lid]
      unfold State.launch?
      rw [← launches]
    have party' : State.party? { s' with issue := some { g with tids := ps } } g.slot = some p := party
    simp only [cx?, party', found, hf]
    rfl
  · cases h

/-- What a register holds does not depend on the holds of the party's threads. -/
theorem opnds_hold (cx : Cx) (v : View) (ts : List Thread) (x : Option Hold) :
    cx.opnds { v with party := { v.party with threads := ts }, thread := { v.thread with hold := x } } = cx.opnds v := by
  have same (w : Width) (r : Reg) :
      readReg { v with party := { v.party with threads := ts }, thread := { v.thread with hold := x } } w r = readReg v w r := by
    cases r <;> cases w <;> rfl
  simp only [Cx.opnds, same]
/-- The hold of a thread that goes on is no part of its result. -/
theorem jump_hold (t : Thread) (x : Option Hold) (r : Reg) (w : Width) (v flags : Nat) (pc : Pc) :
    Thread.jump ((Thread.write { t with hold := x } r w v).orFlags flags) pc = Thread.jump ((t.write r w v).orFlags flags) pc := by
  cases r <;> rfl
/-- The party once a result for one register of it is written. -/
def Cx.once (cx : Cx) (p : Party) (x : Nat) : Party := if cx.dreg.isW then p.write cx.dreg cx.dwidth x else p
theorem once_threads (cx : Cx) (p : Party) (x : Nat) : (cx.once p x).threads = p.threads := by
  unfold Cx.once
  split
  · cases cx.dreg <;> rfl
  · rfl
theorem once_with (cx : Cx) (p : Party) (ts us : List Thread) (x : Nat) :
    { cx.once { p with threads := ts } x with threads := us } = { cx.once p x with threads := us } := by
  unfold Cx.once
  split
  · cases cx.dreg <;> rfl
  · rfl
theorem takeG_id {r : Reg} (h : r.isHandler = false) (p : Party) (w : Width) (ks : List Nat) (val : Nat → Option Nat) :
    p.takeG r w ks val = p := by
  cases r with
  | g n => cases h
  | _ => rfl

/-- A of the threads of a set. -/
def Cx.setValue (cx : Cx) (s : State) (ps : List Nat) (t : Nat) : Option Nat :=
  if ps.contains t then some ((cx.of ps).operands s t).a else none
/-- What a thread of a set is given. -/
def Cx.setResult (cx : Cx) (s : State) (ps : List Nat) (t : Nat) : Nat :=
  xlValue cx ps (cx.setValue s ps) ((cx.of ps).operands s t).b t
/-- The state in which a set is held. -/
def Cx.holds (cx : Cx) (s : State) : State :=
  cx.goes s cx.party fun _ t => { t with hold := some (.xl cx.xlMask) }

/-- The party of that state. -/
def Cx.heldParty (cx : Cx) : Party :=
  { cx.party with
    threads := mapI (fun k t => if cx.tids.contains k then { t with hold := some (.xl cx.xlMask) } else t) 0 cx.party.threads }

theorem holds_eq (cx : Cx) (s : State) : cx.holds s = s.setParty cx.slot cx.heldParty := rfl
theorem thread_heldParty {cx : Cx} {t : Nat} (h : t < cx.party.threads.length) : cx.heldParty.thread t =
    if t ∈ cx.tids then { cx.party.thread t with hold := some (.xl cx.xlMask) } else cx.party.thread t := by
  simp only [Cx.heldParty, Party.thread, List.getD_eq_getElem?_getD, mapI_getElem?, Nat.zero_add]
  simp [h]

section
variable {s : State} {i : Instr} {cx : Cx} {ps : List Nat}

theorem bitOf_eq_testBit (x i : Nat) : bitOf x i = x.testBit i := by
  rw [bitOf, Nat.testBit_eq_decide_div_mod_eq]
  rfl
/-- The mask that the group reads enables the threads that its context does. -/
theorem xlMask_bit (cx : Cx) {t : Nat} (h : t < 64) : bitOf cx.xlMask t = cx.enabled t := by
  unfold Cx.xlMask Cx.enabled enabledBy
  split
  · next me => simp [me]
  · next me =>
    rw [bitOf_eq_testBit, Nat.testBit_two_pow_sub_one]
    simp [me, h]

theorem ArrivesLast.lt (h : ArrivesLast s i cx ps) {t : Nat} (ht : t ∈ ps) : t < 64 := by
  rw [h.set] at ht
  exact List.mem_range.1 (List.mem_filter.1 ht).1
theorem ArrivesLast.enabled (h : ArrivesLast s i cx ps) {t : Nat} (ht : t ∈ cx.tids) : cx.enabled t = true := by
  have mem := h.mine t ht
  rw [h.set] at mem
  exact (Bool.and_eq_true_iff.1 (List.mem_filter.1 mem).2).1
/-- A thread of a whole party, held or not. -/
theorem ArrivesLast.thread_held (h : ArrivesLast s i cx ps) {t : Nat} (ht : t < 64) : cx.heldParty.thread t =
    { cx.party.thread t with hold := if t ∈ ps then some (.xl cx.xlMask) else none } := by
  rw [thread_heldParty (by rw [h.full]; exact ht)]
  by_cases mine : t ∈ cx.tids
  · simp [mine, h.mine t mine]
  by_cases mem : t ∈ ps
  · simp [mine, mem, ← h.waits t mem mine]
  · simp [mine, mem, ← h.free t ht (.inr mem)]
theorem ArrivesLast.heldAll (h : ArrivesLast s i cx ps) : HeldAll cx.heldParty cx.pc cx.xlMask ps where
  set := h.set.trans (List.filter_congr fun t ht => by
    have lt : t < 64 := List.mem_range.1 ht
    rw [xlMask_bit cx lt, h.thread_held lt])
  nonempty e := by
    obtain ⟨t, ts, cons⟩ := List.exists_cons_of_ne_nil h.someone
    have mem := h.mine t (by rw [cons]; exact List.mem_cons_self)
    rw [e] at mem
    cases mem
  held t ht := by
    rw [h.thread_held (h.lt ht)]
    exact ⟨if_pos ht, h.here t ht⟩
  free t lt ht := by
    rw [h.thread_held lt]
    exact if_neg ht

/-- The context of the execution. -/
theorem ArrivesLast.cxAt_eq (h : ArrivesLast s i cx ps) :
    cxAt (cx.holds s) cx.slot cx.pc ps = some { cx.of ps with party := cx.heldParty } := by
  have party : (cx.holds s).party? cx.slot = some cx.heldParty := State.party_setParty_same ..
  have word : fetchInstr (cx.holds s) (coreOf cx.slot) cx.heldParty.lid cx.pc = some (cx.issue.pfx, i) := h.word
  have issue : ({ slot := cx.slot, pc := cx.pc, tids := ps, handler := false, pfx := cx.issue.pfx } : Issue) =
      { cx.issue with tids := ps } := by
    rw [← h.normal, (cx_names h.context).2.1]
    rfl
  simp only [cxAt, party, word, issue]
  exact cx?_of h.context rfl party rfl
theorem ArrivesLast.setOperands (h : ArrivesLast s i cx ps) {t : Nat} (ht : t < 64) :
    ({ cx.of ps with party := cx.heldParty } : Cx).opnds (Cx.view { cx.of ps with party := cx.heldParty } (cx.holds s).ref t) =
      (cx.of ps).operands s t := by
  have view : Cx.view { cx.of ps with party := cx.heldParty } (cx.holds s).ref t =
      { (cx.of ps).view s.ref t with
        party := { ((cx.of ps).view s.ref t).party with threads := cx.heldParty.threads }
        thread := { ((cx.of ps).view s.ref t).thread with hold := if t ∈ ps then some (.xl cx.xlMask) else none } } := by
    rw [Cx.view, h.thread_held ht]
    rfl
  rw [view]
  exact opnds_hold (cx.of ps) ..

/-- What a set does from the state in which it is held, in which only its holds differ. -/
theorem ArrivesLast.goes_holds (h : ArrivesLast s i cx ps) (val : Nat → Nat) (flags once : Nat) :
    Cx.goes (cx.of ps) (cx.holds s) (cx.once cx.heldParty once)
        (fun k t => Thread.jump ((Thread.write t cx.dreg cx.dwidth (val k)).orFlags flags) cx.npc) =
      Cx.goes (cx.of ps) s (cx.once cx.party once)
        (fun k t => Thread.jump ((Thread.write t cx.dreg cx.dwidth (val k)).orFlags flags) cx.npc) := by
  refine (State.setParty_setParty s cx.slot cx.heldParty _).trans (congrArg (s.setParty cx.slot) ?_)
  rw [once_threads cx cx.heldParty, once_threads cx cx.party]
  refine (once_with cx cx.party ..).trans (congrArg (fun ts => { cx.once cx.party once with threads := ts }) ?_)
  refine List.ext_getElem? fun k => ?_
  simp only [Cx.heldParty, mapI_getElem?, Nat.zero_add, Option.map_map]
  congr 1
  funext t
  by_cases mine : k ∈ cx.tids
  · have member : k ∈ (cx.of ps).tids := h.mine k mine
    simp [mine, member, jump_hold]
  · simp [mine]

/-- The one execution gives every thread of the set its result. -/
theorem ArrivesLast.xlExecute_eq (h : ArrivesLast s i cx ps) (normal : cx.dreg.isHandler = false)
    (quiet : cx.launch.nvt = false ∨ bitOf (xlFlags cx (cx.setValue s ps)) 4 = false) :
    xlExecute (cx.holds s) cx.slot cx.pc ps = (cx.of ps).goes s
      (cx.once cx.party (xlValue cx ps (cx.setValue s ps) 0 (ps.headD 0))) fun k t =>
        Thread.jump ((t.write cx.dreg cx.dwidth (cx.setResult s ps k)).orFlags (xlFlags cx (cx.setValue s ps))) cx.npc := by
  have values : (fun t => if ps.contains t then some (({ cx.of ps with party := cx.heldParty } : Cx).opnds
      (Cx.view { cx.of ps with party := cx.heldParty } (cx.holds s).ref t)).a else none) = cx.setValue s ps := by
    funext t
    by_cases mem : t ∈ ps
    · simp [Cx.setValue, mem, h.setOperands (h.lt mem)]
    · simp [Cx.setValue, mem]
  have unquiet : (cx.launch.nvt && bitOf (xlFlags cx (cx.setValue s ps)) 4) = false := by
    rcases quiet with nvt | flag
    · rw [nvt, Bool.false_and]
    · rw [flag, Bool.and_false]
  rw [xlExecute, h.cxAt_eq]
  dsimp only
  rw [values]
  show (if (cx.launch.nvt && bitOf (xlFlags cx (cx.setValue s ps)) 4) = true then _ else _) = _
  rw [unquiet, if_neg Bool.false_ne_true]
  refine (mapGroup_goes (f := fun k t => Thread.jump ((t.write cx.dreg cx.dwidth (cx.setResult s ps k)).orFlags
    (xlFlags cx (cx.setValue s ps))) cx.npc) fun k hk t => ?_).trans ?_
  · rw [h.setOperands (h.lt hk)]
    exact advance_inside h.inside k _
  · exact (congrArg (fun q => Cx.goes (cx.of ps) (cx.holds s) q _) (takeG_id normal ..)).trans (h.goes_holds ..)

/-- The group's arrival holds its threads. -/
theorem ArrivesLast.arrival (h : ArrivesLast s i cx ps) (hx : exec i s = runXl s i) :
    exec i s = .next (xlSettle (cx.holds s) cx.slot) := by
  have clash : ((heldAt cx.party cx.pc).any fun e => e.2 != cx.xlMask) = false := by
    refine List.any_eq_false.2 fun e he => ?_
    obtain ⟨t, ht, he⟩ := List.mem_filterMap.1 he
    have lt := mem_upTo.1 ht
    by_cases waits : t ∈ ps ∧ t ∉ cx.tids
    · simp only [h.waits t waits.1 waits.2, h.here t waits.1, beq_self_eq_true, if_true, Option.some.injEq] at he
      simp [← he]
    · have free := h.free t lt (by tauto)
      simp [free] at he
  rw [hx, runXl, runWord_issues h.toIssues]
  refine congrArg (fun s => Host.Outcome.next (xlSettle s cx.slot)) (mapGroup_goes fun k hk t => ?_)
  show (if (!cx.enabled k) = true then _ else if ((heldAt cx.party cx.pc).any fun e => e.2 != cx.xlMask) = true then _ else _) = _
  rw [h.enabled hk, clash]
  rfl

theorem thread_mem {p : Party} {k : Nat} (h : k < p.threads.length) : p.thread k ∈ p.threads := by
  simp [Party.thread, h]
/-- Whether the waits of a slot's threads may end does not depend on the threads. -/
theorem waitsGo_setParty {s : State} {slot : Nat} {p q : Party} (party : s.party? slot = some p) (esc : q.esc = p.esc) :
    waitsGo (s.setParty slot q) slot = waitsGo s slot := by
  simp only [waitsGo, slotLive, State.party_setParty_same, party, esc]
  simp [slotRuns, State.setParty]

/-- The holds of a party settle at once where their execution leaves no thread held. -/
theorem xlSettle_eq {s s' : State} {slot : Nat} {p q : Party} (party : s.party? slot = some p) (goes : waitsGo s slot = true)
    (full : ((holdPcs p).filter (holdFull p)).foldl (fun s pc => xlExecute s slot pc (holdSet p pc)) s = s')
    (after : s'.party? slot = some q) (free : ∀ t ∈ q.threads, t.hold = none) : xlSettle s slot = s' := by
  unfold xlSettle
  simp only [party, goes, full, after]
  refine if_pos (Bool.not_eq_true' _ ▸ List.any_eq_false.2 fun t ht => ?_)
  simp [free t ht]
/-- A party none of whose threads is held has nothing to settle. -/
theorem xlSettle_free {s : State} {slot : Nat} {p : Party} (party : s.party? slot = some p)
    (free : ∀ t ∈ p.threads, t.hold = none) : xlSettle s slot = s := by
  cases goes : waitsGo s slot with
  | false => simp [xlSettle, party, goes]
  | true =>
    have pcs : holdPcs p = [] := by
      have none : ∀ k, (p.thread k).hold = none := fun k => by
        rw [Party.thread, List.getD_eq_getElem?_getD]
        cases hk : p.threads[k]? with
        | none => rfl
        | some t => exact free t (List.mem_of_getElem? hk)
      simp [holdPcs, none]
    exact xlSettle_eq party goes (by rw [pcs]; rfl) party free

/-- The last arrival of a set gives every thread of it its result. -/
theorem ArrivesLast.gives (h : ArrivesLast s i cx ps) (hx : exec i s = runXl s i) (normal : cx.dreg.isHandler = false)
    (quiet : cx.launch.nvt = false ∨ bitOf (xlFlags cx (cx.setValue s ps)) 4 = false) :
    exec i s = .next ((cx.of ps).goes s (cx.once cx.party (xlValue cx ps (cx.setValue s ps) 0 (ps.headD 0))) fun k t =>
      Thread.jump ((t.write cx.dreg cx.dwidth (cx.setResult s ps k)).orFlags (xlFlags cx (cx.setValue s ps))) cx.npc) := by
  rw [h.arrival hx]
  have held := h.heldAll
  have party : (cx.holds s).party? cx.slot = some cx.heldParty := State.party_setParty_same ..
  have goes : waitsGo (cx.holds s) cx.slot = true :=
    (waitsGo_setParty (q := cx.heldParty) (cx_party h.context) rfl).trans h.goes
  have unpending (t : Nat) (ht : t ∈ ps) : (cx.heldParty.thread t).deliverable = false := by
    rw [h.thread_held (h.lt ht)]
    exact h.unpending (cx.party.thread t) (thread_mem (h.full ▸ h.lt ht))
  refine congrArg _ (xlSettle_eq party goes ?_ (State.party_setParty_same ..) ?_)
  · rw [held.holdPcs_eq, List.filter_singleton, held.full unpending]
    simp only [cond_true, List.foldl_cons, List.foldl_nil, held.holdSet_eq]
    exact h.xlExecute_eq normal quiet
  · intro t ht
    obtain ⟨k, hk⟩ := List.mem_iff_getElem?.1 ht
    rw [mapI_getElem?, once_threads, Nat.zero_add] at hk
    obtain ⟨u, hu, rfl⟩ := Option.map_eq_some_iff.1 hk
    by_cases mem : k ∈ ps
    · exact congrArg Thread.hold (if_pos (List.contains_iff_mem.2 mem))
    · have lt : k < 64 := h.full ▸ (List.getElem?_eq_some_iff.1 hu).1
      have free := h.free k lt (.inr mem)
      rw [Party.thread, List.getD_eq_getElem?_getD, hu] at free
      exact (congrArg Thread.hold (if_neg (mt List.contains_iff_mem.1 mem))).trans free

/-- Which values those are. -/
theorem ArrivesLast.crossLaneGives (h : ArrivesLast s i cx ps) (hx : exec i s = runXl s i) (normal : cx.dreg.isHandler = false)
    {flags : Nat} {f : Nat → Nat} (raised : xlFlags cx (cx.setValue s ps) = flags)
    (quiet : cx.launch.nvt = false ∨ bitOf flags 4 = false)
    (results : ∀ k ∈ ps, ∀ t : Thread, t.write cx.dreg cx.dwidth (cx.setResult s ps k) = t.write cx.dreg cx.dwidth (f k))
    (once : cx.dreg.isW = true → xlValue cx ps (cx.setValue s ps) 0 (ps.headD 0) = f (ps.headD 0)) :
    CrossLaneGives s i cx ps flags f := by
  subst raised
  rw [CrossLaneGives, h.gives hx normal quiet]
  refine congrArg _ ((goes_congr fun k hk t => by rw [results k hk]).trans (congrArg (Cx.goes (cx.of ps) s · _) ?_))
  unfold Cx.once
  split
  · next w => rw [once w]
  · rfl

end

/-! ## Values (R146 to R149) -/

/-- The source of XLN: a thread's place in its group of 32 decides, not the group's in the party (R146). -/
theorem xlnSource_eq {mode k t : Nat} (b : Nat) (ht : t < 64) : xlnSource mode k b t =
    match mode with
    | 0 => b % 64
    | 1 => if t % 32 < 32 / 2 ^ k then t else t - 32 / 2 ^ k
    | 2 => if 32 ≤ t % 32 + 32 / 2 ^ k then t else t + 32 / 2 ^ k
    | _ => if 32 / 2 ^ k = 32 then t else t ^^^ (32 / 2 ^ k) := by
  have offset : 32 / 2 ^ k ≤ 32 := Nat.div_le_self ..
  unfold xlnSource
  rw [show min Config.lanes 64 = 32 from rfl]
  generalize ho : 32 / 2 ^ k = o at offset
  match mode with
  | 0 => rfl
  | 1 =>
    simp only [Bool.and_eq_true, Bool.or_eq_true, decide_eq_true_eq, bne_iff_ne]
    split_ifs <;> omega
  | 2 =>
    simp only [Bool.and_eq_true, Bool.or_eq_true, decide_eq_true_eq, bne_iff_ne]
    split_ifs <;> omega
  | n + 3 =>
    have inside : t ^^^ o < 64 := Nat.xor_lt_two_pow (n := 6) ht (by omega)
    have apart : (t ^^^ o) / 32 ≠ t / 32 ↔ o = 32 := by
      rw [show (t ^^^ o) / 32 = t / 32 ^^^ o / 32 from Nat.xor_div_two_pow (n := 5)]
      by_cases whole : o = 32
      · have group : t / 32 < 2 := by omega
        simp only [whole, iff_true]
        interval_cases t / 32 <;> decide
      · have low : o / 32 = 0 := by omega
        simp [low, whole]
    have source : Nat.xor t (32 / 2 ^ k) = t ^^^ o := by rw [ho]; rfl
    simp only [source, Bool.and_eq_true, Bool.or_eq_true, decide_eq_true_eq, bne_iff_ne]
    generalize t ^^^ o = x at inside apart
    split_ifs <;> omega

/-- The bits of a mask are its threads. -/
theorem testBit_tidMask (l : List Nat) (i : Nat) : (tidMask l).testBit i = decide (i ∈ l) := by
  have bits : ∀ m, (l.foldl (fun m t => Nat.lor m (2 ^ t)) m).testBit i = (m.testBit i || decide (i ∈ l)) := by
    induction l with
    | nil => simp
    | cons t l ih =>
      intro m
      rw [List.foldl_cons, ih]
      show ((m ||| 2 ^ t).testBit i || _) = _
      rw [Nat.testBit_or, Nat.testBit_two_pow]
      simp [Bool.or_assoc, eq_comm]
  exact (bits 0).trans (by simp)

section
variable {s : State} {i : Instr} {cx : Cx} {ps : List Nat}

theorem cx_instr (h : cx? s i = some cx) : cx.i = i := by
  unfold cx? at h
  repeat (split at h <;> try cases h)
  rfl
theorem setValue_mem {t : Nat} (h : t ∈ ps) : cx.setValue s ps t = some ((cx.of ps).operands s t).a := by
  simp [Cx.setValue, h]
theorem setValue_eq : cx.setValue s ps = fun t => if t ∈ ps then some ((cx.of ps).operands s t).a else none := by
  funext t
  simp [Cx.setValue]

/-- XLN (R146). -/
theorem setResult_xln {d a b : BitVec 8} (hi : cx.i = .xln d a b) {t : Nat} (ht : t ∈ ps) (lt : t < 64) :
    cx.setResult s ps t =
      let src := match cx.p.c % 8 with
        | 0 => ((cx.of ps).operands s t).b % 64
        | 1 => if t % 32 < 32 / 2 ^ (cx.p.c / 8 % 8) then t else t - 32 / 2 ^ (cx.p.c / 8 % 8)
        | 2 => if 32 ≤ t % 32 + 32 / 2 ^ (cx.p.c / 8 % 8) then t else t + 32 / 2 ^ (cx.p.c / 8 % 8)
        | _ => if 32 / 2 ^ (cx.p.c / 8 % 8) = 32 then t else t ^^^ (32 / 2 ^ (cx.p.c / 8 % 8))
      if src ∈ ps then ((cx.of ps).operands s src).a else ((cx.of ps).operands s t).a := by
  rw [Cx.setResult, xlValue, hi]
  have source := xlnSource_eq (mode := cx.p.c % 8) (k := cx.p.c / 8 % 8) ((cx.of ps).operands s t).b lt
  dsimp only
  rw [← source]
  show ((cx.setValue s ps (xlnSource (cx.p.c % 8) (cx.p.c / 8 % 8) _ t)).orElse _).getD 0 = _
  generalize xlnSource (cx.p.c % 8) (cx.p.c / 8 % 8) ((cx.of ps).operands s t).b t = src
  rw [setValue_mem ht]
  by_cases mem : src ∈ ps
  · simp [mem, setValue_mem mem]
  · simp [mem, Cx.setValue]

/-- ELECT (R149): the lowest thread, or whether a thread is that. -/
theorem write_elect {d a b : BitVec 8} (hi : cx.i = .elect d a b) (normal : cx.dreg.isHandler = false) (val : Nat → Option Nat)
    (x k : Nat) (t : Thread) : t.write cx.dreg cx.dwidth (xlValue cx ps val x k) =
      t.write cx.dreg cx.dwidth (if cx.dreg.isW then ps.headD 0 else if k = ps.headD 0 then 1 else 0) := by
  rw [xlValue, hi]
  cases hd : cx.dreg with
  | v n => simp [Reg.isW, bit]
  | o n => simp [Reg.isW, bit]
  | h n => rw [hd] at normal; cases normal
  | _ => rfl

/-- VOTE (R148). -/
theorem xlValue_vote {d a kind : BitVec 8} (hi : cx.i = .vote d a kind) (someone : ps ≠ []) (inside : ∀ t ∈ ps, t < 64)
    (b t : Nat) :
    let x := fun t => ((cx.of ps).operands s t).a
    xlValue cx ps (cx.setValue s ps) b t = match kind.toNat with
      | 0 => bitsWhere 64 fun t => t ∈ ps ∧ x t ≠ 0
      | 1 => if ∃ t ∈ ps, x t ≠ 0 then 1 else 0
      | 2 => if ∀ t ∈ ps, x t ≠ 0 then 1 else 0
      | 3 => (ps.filter fun t => x t ≠ 0).length
      | _ => if ∀ t ∈ ps, ∀ u ∈ ps, x t = x u then 1 else 0 := by
  intro x
  have yes : (ps.filter fun t => (cx.setValue s ps t).getD 0 != 0) = ps.filter fun t => decide (x t ≠ 0) :=
    List.filter_congr fun t ht => by
      rw [setValue_mem ht]
      simp [x, bne, decide_not, beq_eq_decide]
  rw [xlValue, hi]
  dsimp only
  rw [yes]
  generalize kind.toNat = n
  match n with
  | 0 =>
    refine eq_bitsWhere (Nat.lt_pow_two_of_testBit _ fun i hi => ?_) fun i hi => ?_
    · refine (testBit_tidMask ..).trans (decide_eq_false fun mem => ?_)
      exact absurd (inside i (List.mem_filter.1 mem).1) (Nat.not_lt.2 hi)
    · simp [testBit_tidMask, List.mem_filter]
  | 1 =>
    have any : (!(ps.filter fun t => decide (x t ≠ 0)).isEmpty) = decide (∃ t ∈ ps, x t ≠ 0) := by
      rw [Bool.eq_iff_iff]
      simp [List.filter_eq_nil_iff]
    exact (congrArg bit any).trans (bit_decide _)
  | 2 =>
    have all : ((ps.filter fun t => decide (x t ≠ 0)).length == ps.length) = decide (∀ t ∈ ps, x t ≠ 0) := by
      rw [Bool.eq_iff_iff]
      simp [List.length_filter_eq_length_iff]
    exact (congrArg bit all).trans (bit_decide _)
  | 3 => rfl
  | n + 4 =>
    have first : ps.headD 0 ∈ ps := by
      obtain ⟨u, us, rfl⟩ := List.exists_cons_of_ne_nil someone
      exact List.mem_cons_self
    have equal : (ps.all fun t => cx.setValue s ps t == cx.setValue s ps (ps.headD 0)) =
        decide (∀ t ∈ ps, ∀ u ∈ ps, x t = x u) := by
      rw [Bool.eq_iff_iff, List.all_eq_true, decide_eq_true_iff]
      have same (t : Nat) (ht : t ∈ ps) :
          (cx.setValue s ps t == cx.setValue s ps (ps.headD 0)) = true ↔ x t = x (ps.headD 0) := by
        rw [setValue_mem ht, setValue_mem first, beq_iff_eq, Option.some_inj]
      exact ⟨fun h t ht u hu => ((same t ht).1 (h t ht)).trans ((same u hu).1 (h u hu)).symm,
        fun h t ht => (same t ht).2 (h t ht _ first)⟩
    exact (congrArg bit equal).trans (bit_decide _)

end

end Sys2Proof.Machine

open Sys2Proof Sys2Proof.Machine

/-- Settles O28: the last arrival makes one hold of the whole set, which executes once. -/
theorem crossLaneOperationsComplete : Obligations.CrossLaneOperationsComplete := by
  intro s d a b cx ps x
  refine ⟨fun h => ?_, fun h => ?_, fun h => ?_, fun h => ?_⟩
  · have form := cx_form h.context
    obtain ⟨normal, lane⟩ := h.toIssues.dest h.normal (by rw [form]; rfl)
    have notW : cx.dreg.isW = false := lane (by rw [form]; rfl) (by rw [form]; rfl) (by rw [form]; rfl)
    have hi := cx_instr h.context
    refine h.crossLaneGives rfl normal (by rw [xlFlags, hi]) (.inr rfl) (fun k hk t => ?_) (by simp [notW])
    exact congrArg (t.write cx.dreg cx.dwidth) (setResult_xln hi hk (h.lt hk))
  · intro n node flags quiet
    have form := cx_form h.context
    obtain ⟨normal, lane⟩ := h.toIssues.dest h.normal (by rw [form]; rfl)
    have notW : cx.dreg.isW = false := lane (by rw [form]; rfl) (by rw [form]; rfl) (by rw [form]; rfl)
    have hi := cx_instr h.context
    refine h.crossLaneGives rfl normal ?_ quiet (fun k hk t => ?_) (by simp [notW])
    · rw [xlFlags, hi, setValue_eq]
      simp only [flags, List.foldl_map]
      rfl
    · rw [Cx.setResult, xlValue, hi, setValue_eq]
      rfl
  · have hi := cx_instr h.context
    obtain ⟨normal, _⟩ := h.toIssues.dest h.normal (by rw [cx_form h.context]; rfl)
    refine h.crossLaneGives rfl normal (by rw [xlFlags, hi]) (.inr rfl) (fun k hk t => write_elect hi normal ..) fun w => ?_
    rw [if_pos w, xlValue, hi]
    cases hd : cx.dreg with
    | v n | o n => rw [hd] at w; cases w
    | _ => rfl
  · have hi := cx_instr h.context
    obtain ⟨normal, _⟩ := h.toIssues.dest h.normal (by rw [cx_form h.context]; rfl)
    have vote := xlValue_vote (s := s) hi h.heldAll.nonempty fun t => h.lt
    refine h.crossLaneGives rfl normal (by rw [xlFlags, hi]) (.inr rfl) (fun k hk t => ?_) fun w => vote ..
    exact congrArg (t.write cx.dreg cx.dwidth) (vote ..)

end

section
/-! Barriers (06_control_wait_crosslane.md R150 to R153, 14_cluster.md R308): what an arrival, a phase change and an EXIT change,
and what they leave. -/

namespace Sys2Proof.Machine

/-! ## What a phase change leaves -/

/-- The operations, DRAM, the launches and the blocks are the same. -/
structure Keeps (s t : State) : Prop where
  ops : t.ops = s.ops
  dram : t.dram = s.dram
  launches : t.launches = s.launches
  blocks : t.blocks = s.blocks

theorem Keeps.refl (s : State) : Keeps s s := ⟨rfl, rfl, rfl, rfl⟩
theorem Keeps.trans {s t u : State} (h : Keeps s t) (h' : Keeps t u) : Keeps s u :=
  ⟨h'.ops.trans h.ops, h'.dram.trans h.dram, h'.launches.trans h.launches, h'.blocks.trans h.blocks⟩
theorem Keeps.setParty {s t : State} (h : Keeps s t) (k : Nat) (p : Party) : Keeps s (t.setParty k p) :=
  h.trans ⟨rfl, rfl, rfl, rfl⟩

/-- An acquire reaches caches only. -/
theorem acquire_eq (s : State) (core scope : Nat) :
    ∃ l2 dies cores, acquire s core scope = { s with l2 := l2, dies := dies, cores := cores } := by
  have dropped : ∀ (lines : List Nat) (t : State),
      ∃ l2, lines.foldl (fun s line => s.delL2 (dieOf core) line) t = { t with l2 := l2 } := by
    intro lines
    induction lines with
    | nil => exact fun t => ⟨t.l2, rfl⟩
    | cons line lines ih =>
      intro t
      obtain ⟨l2, h⟩ := ih (t.delL2 (dieOf core) line)
      exact ⟨l2, h⟩
  have applied : ∃ l2 dies, (if 6 ≤ scope then applyInvs s (dieOf core) else s) = { s with l2 := l2, dies := dies } := by
    obtain ⟨l2, h⟩ := dropped (s.die (dieOf core)).invs s
    split
    · rw [applyInvs, h]
      exact ⟨l2, _, rfl⟩
    · exact ⟨s.l2, s.dies, rfl⟩
  obtain ⟨l2, dies, h⟩ := applied
  rw [acquire, h]
  split
  · exact ⟨l2, dies, _, rfl⟩
  · exact ⟨l2, dies, s.cores, rfl⟩
theorem acquire_keeps (s : State) (core scope : Nat) : Keeps s (acquire s core scope) := by
  obtain ⟨l2, dies, cores, h⟩ := acquire_eq s core scope
  rw [h]
  exact ⟨rfl, rfl, rfl, rfl⟩
@[simp] theorem acquire_slots (s : State) (core scope : Nat) : (acquire s core scope).slots = s.slots := by
  obtain ⟨l2, dies, cores, h⟩ := acquire_eq s core scope
  rw [h]
@[simp] theorem acquire_bars (s : State) (core scope : Nat) : (acquire s core scope).bars = s.bars := by
  obtain ⟨l2, dies, cores, h⟩ := acquire_eq s core scope
  rw [h]
theorem party?_of_slots {s t : State} (h : t.slots = s.slots) (k : Nat) : t.party? k = s.party? k := by
  rw [State.party?, State.party?, State.slot, State.slot, h]

/-! ## Threads that leave (R152) -/

/-- All of a party but its threads' states, its escalation, and its w registers and copies, which no barrier reads. -/
structure SameBlock (p q : Party) : Prop where
  lid : q.lid = p.lid
  blin : q.blin = p.blin
  g : q.g = p.g
  bars : q.bars = p.bars
  length : q.threads.length = p.threads.length

theorem SameBlock.refl (p : Party) : SameBlock p p := ⟨rfl, rfl, rfl, rfl, rfl⟩
theorem SameBlock.trans {p q r : Party} (h : SameBlock p q) (h' : SameBlock q r) : SameBlock p r :=
  ⟨h'.lid.trans h.lid, h'.blin.trans h.blin, h'.g.trans h.g, h'.bars.trans h.bars, h'.length.trans h.length⟩
theorem escalateAll_same (p : Party) (es : List Esc) :
    SameBlock p (p.escalateAll es) ∧ (p.escalateAll es).threads = p.threads := by
  cases es with
  | nil => exact ⟨.refl p, rfl⟩
  | cons e es =>
    unfold Party.escalateAll Party.escalate
    cases p.esc <;> exact ⟨⟨rfl, rfl, rfl, rfl, rfl⟩, rfl⟩

/-- A thread at the phase change of a barrier, go where the waits of its party may end: one that stands nowhere stays, and one
that waits for the phase goes on, where its next PC is in the segment. -/
structure Passes (go : Bool) (scope idx phase : Nat) (t u : Thread) : Prop where
  stays : t.hold = none → u.pc = t.pc ∧ u.hold = none
  leaves : ∀ n, t.hold = some (.bar scope idx phase n) → t.deliverable = false → go = true → wordOf n ≠ 0 →
    u.pc = n ∧ u.hold = none

theorem Passes.stay {go : Bool} {scope idx phase : Nat} {t : Thread}
    (h : ∀ n, t.hold = some (.bar scope idx phase n) → t.deliverable = false → go = false) : Passes go scope idx phase t t :=
  ⟨fun free => ⟨rfl, free⟩, fun n hold calm going => absurd going (by simp [h n hold calm])⟩

/-- A thread that a phase change of a barrier lets go. -/
def Thread.waitsAt (scope idx phase : Nat) (t : Thread) : Bool :=
  match t.hold with
  | some (.bar c i ph _) => c == scope && i == idx && ph == phase && !t.deliverable
  | _ => false
/-- What the phase change does to it, and to any other. -/
def Thread.leaveAt (scope idx phase : Nat) (hpc : Pc) (k : Nat) (t : Thread) : Thread × Option Esc :=
  match t.hold with
  | some (.bar _ _ _ npc) => if t.waitsAt scope idx phase then t.pass hpc k npc else (t, none)
  | _ => (t, none)
/-- The party whose threads leave. -/
def Party.leaveAt (p : Party) (scope idx phase : Nat) (hpc : Pc) : Party :=
  let rs := mapI (Thread.leaveAt scope idx phase hpc) 0 p.threads
  Party.escalateAll { p with threads := rs.map (·.1) } (rs.filterMap (·.2))

theorem leaveBar_eq {s : State} {slot : Nat} {p : Party} (party : s.party? slot = some p) (scope idx phase : Nat) :
    leaveBar s slot scope idx phase = if !p.threads.any (Thread.waitsAt scope idx phase) || !waitsGo s slot then s
      else acquire (s.setParty slot (p.leaveAt scope idx phase (hpcOf s p.lid))) (coreOf slot) scope := by
  unfold leaveBar
  rw [party]
  rfl
theorem waitsAt_of_hold {scope idx phase : Nat} {t : Thread} {n : Pc} (hold : t.hold = some (.bar scope idx phase n))
    (calm : t.deliverable = false) : t.waitsAt scope idx phase = true := by
  simp [Thread.waitsAt, hold, calm]
theorem leaveAt_passes (go : Bool) (scope idx phase : Nat) (hpc : Pc) (k : Nat) (t : Thread) :
    Passes go scope idx phase t (t.leaveAt scope idx phase hpc k).1 where
  stays free := by simp [Thread.leaveAt, free]
  leaves n hold calm _ inside := by simp [Thread.leaveAt, hold, waitsAt_of_hold hold calm, Thread.pass, inside]
theorem leaveAt_same (p : Party) (scope idx phase : Nat) (hpc : Pc) : SameBlock p (p.leaveAt scope idx phase hpc) :=
  (show SameBlock p { p with threads := (mapI (Thread.leaveAt scope idx phase hpc) 0 p.threads).map (·.1) } from
    ⟨rfl, rfl, rfl, rfl, by simp⟩).trans (escalateAll_same ..).1
theorem thread_leaveAt {p : Party} {j : Nat} (h : j < p.threads.length) (scope idx phase : Nat) (hpc : Pc) :
    (p.leaveAt scope idx phase hpc).thread j = ((p.thread j).leaveAt scope idx phase hpc j).1 := by
  rw [Party.thread, Party.leaveAt, (escalateAll_same ..).2]
  simp only [Party.thread, List.getD_eq_getElem?_getD, List.getElem?_map, mapI_getElem?, Nat.zero_add]
  simp [h]

/-- A slot's threads leave a barrier. -/
theorem leaveBar_spec {s : State} {slot : Nat} {p : Party} (party : s.party? slot = some p) (scope idx phase : Nat) :
    ∃ q, Keeps s (leaveBar s slot scope idx phase) ∧ (leaveBar s slot scope idx phase).bars = s.bars ∧
      (leaveBar s slot scope idx phase).slots = (s.setParty slot q).slots ∧ SameBlock p q ∧
      ∀ j < p.threads.length, Passes (waitsGo s slot) scope idx phase (p.thread j) (q.thread j) := by
  rw [leaveBar_eq party]
  split
  · next none =>
    refine ⟨p, .refl s, rfl, (setParty_same party).symm, .refl p, fun j hj => .stay fun n hold calm => ?_⟩
    have some : p.threads.any (Thread.waitsAt scope idx phase) = true :=
      List.any_eq_true.2 ⟨_, thread_mem hj, waitsAt_of_hold hold calm⟩
    simpa [some] using none
  · refine ⟨_, (Keeps.setParty (.refl s) slot _).trans (acquire_keeps ..), acquire_bars .., acquire_slots .., leaveAt_same ..,
      fun j hj => ?_⟩
    rw [thread_leaveAt hj]
    exact leaveAt_passes ..

/-- A party whose barrier's marks are gone. -/
theorem thread_clearArrivals {p : Party} {j : Nat} (h : j < p.threads.length) (scope idx : Nat) :
    (p.clearArrivals scope idx).thread j = { p.thread j with
      arrivals := (p.thread j).arrivals.filter fun a => !(a.1 == scope && a.2.1 == idx) } := by
  simp [Party.clearArrivals, Party.thread, h]
/-- A phase change at a party: its marks go and its waiting threads leave. -/
theorem phaseChange_spec {s : State} {slot : Nat} {p₀ p : Party} (party : s.party? slot = some p₀) (esc : p.esc = p₀.esc)
    (scope idx phase : Nat) :
    ∃ q, let t := leaveBar (s.setParty slot (p.clearArrivals scope idx)) slot scope idx phase
      Keeps s t ∧ t.bars = s.bars ∧ t.slots = (s.setParty slot q).slots ∧ SameBlock p q ∧
      ∀ j < p.threads.length, Passes (waitsGo s slot) scope idx phase (p.thread j) (q.thread j) := by
  obtain ⟨q, keeps, bars, slots, same, passes⟩ :=
    leaveBar_spec (State.party_setParty_same s slot (p.clearArrivals scope idx)) scope idx phase
  refine ⟨q, (Keeps.setParty (.refl s) slot _).trans keeps, bars, ?_, SameBlock.trans ?_ same, fun j hj => ?_⟩
  · rw [slots, State.setParty_setParty]
  · exact ⟨rfl, rfl, rfl, rfl, by simp [Party.clearArrivals]⟩
  · have pass := passes j (by simpa [Party.clearArrivals] using hj)
    rw [thread_clearArrivals hj, waitsGo_setParty (q := p.clearArrivals scope idx) party esc] at pass
    exact ⟨pass.stays, pass.leaves⟩

/-! ## The phase of a barrier advances (R151) -/

theorem barOf_setParty {s : State} {slot : Nat} {p q : Party} (party : s.party? slot = some p) (bars : q.bars = p.bars)
    (l : BarLoc) : barOf (s.setParty slot q) slot l = barOf s slot l := by
  cases l with
  | party idx => simp [barOf, party, Party.bar, bars]
  | wide k => rfl
theorem barOf_acquire (s : State) (core scope slot : Nat) (l : BarLoc) :
    barOf (acquire s core scope) slot l = barOf s slot l := by
  cases l with
  | party idx => simp only [barOf, party?_of_slots (acquire_slots s core scope)]
  | wide k => simp only [barOf, barAt, acquire_bars]
theorem next_phase_ne (n : Nat) : (n + 1) % 256 ≠ n := by omega

/-- What the last arrival at a barrier leaves: the next phase with no arrival, and the threads of the party gone on. -/
structure Advanced (s t : State) (slot : Nat) (p : Party) (scope idx : Nat) (l : BarLoc) : Prop where
  keeps : Keeps s t
  bar : barOf t slot l = { phase := ((barOf s slot l).phase + 1) % 256, arrived := 0 }
  party : ∃ q, t.party? slot = some q ∧ q.g = p.g ∧ q.threads.length = p.threads.length ∧
    ∀ j < p.threads.length, Passes (waitsGo s slot) scope idx (barOf s slot l).phase (p.thread j) (q.thread j)

/-- A barrier in its next phase. -/
def Bar.next (b : Bar) : Bar := { phase := (b.phase + 1) % 256, arrived := 0 }
def Party.nextBar (p : Party) (idx : Nat) : Party := { p with bars := p.bars.set idx (p.bar idx).next }

theorem bar_nextBar {p : Party} {idx : Nat} (listed : idx < p.bars.length) : (p.nextBar idx).bar idx = (p.bar idx).next := by
  simp [Party.nextBar, Party.bar, listed]
theorem partyBarNext_eq {s : State} {slot : Nat} {p : Party} (party : s.party? slot = some p) (idx : Nat) :
    partyBarNext s slot idx =
      leaveBar (s.setParty slot ((p.nextBar idx).clearArrivals 2 idx)) slot 2 idx (p.bar idx).phase := by
  rw [partyBarNext, party]
  rfl

/-- A party barrier. -/
theorem partyBarNext_advances {s : State} {slot idx : Nat} {p : Party} (party : s.party? slot = some p)
    (listed : idx < p.bars.length) : Advanced s (partyBarNext s slot idx) slot p 2 idx (.party idx) := by
  have old : barOf s slot (.party idx) = p.bar idx := by simp [barOf, party]
  obtain ⟨q, keeps, -, slots, same, passes⟩ := phaseChange_spec (p := p.nextBar idx) party rfl 2 idx (p.bar idx).phase
  rw [← partyBarNext_eq party] at keeps slots
  have party' := (party?_of_slots slots slot).trans (State.party_setParty_same s slot q)
  refine ⟨keeps, ?_, q, party', same.g, same.length, by rw [old]; exact passes⟩
  rw [old]
  simp only [barOf, party']
  rw [Party.bar, same.bars]
  exact bar_nextBar listed

/-! ## A barrier of many parties (14 R308) -/

/-- The party of a slot takes part in the phase change of a wider barrier. -/
def passSlot (scope idx phase : Nat) (s : State) (slot : Nat) : State :=
  match s.party? slot with
  | none => s
  | some p => leaveBar (s.setParty slot (p.clearArrivals scope idx)) slot scope idx phase
/-- The slots whose parties are members of a barrier. -/
def barSlots (s : State) (k : Nat × Nat × Nat × Nat × Nat) : List Nat :=
  (s.slots.filter fun e =>
    match e.2.party with
    | some p => barInst s e.1 p k.1 (keyIdx k) == some (keyInst k)
    | none => false).map (·.1)

theorem wideBarNext_eq {s : State} {k : Nat × Nat × Nat × Nat × Nat}
    (ordinary : ∀ l, s.launch? k.2.1 = some l → isClosure l k.1 = false) :
    wideBarNext s k = (barSlots s k).foldl (passSlot k.1 (keyIdx k) (barAt s k).phase) (setBar s k (barAt s k).next) := by
  have merges : (State.launch? (setBar s k { phase := ((barAt s k).phase + 1) % 256, arrived := 0 }) k.2.1).filter
      (fun l => isClosure l k.1) = none := by
    show (s.launch? k.2.1).filter _ = none
    cases hl : s.launch? k.2.1 with
    | none => rfl
    | some l => simp [ordinary l hl]
  simp only [wideBarNext, merges, Option.isSome_none, Bool.false_eq_true, if_false]
  rfl

/-- A party in front of the phase change of its barrier, in which only other slots may have changed. -/
structure Before (s t : State) (slot : Nat) : Prop where
  keeps : Keeps s t
  bars : t.bars = s.bars
  slot : t.slot slot = s.slot slot

/-- The party past that phase change. -/
structure After (s t : State) (slot : Nat) (p : Party) (scope idx phase : Nat) : Prop where
  keeps : Keeps s t
  bars : t.bars = s.bars
  party : ∃ q, t.party? slot = some q ∧ SameBlock p q ∧
    ∀ j < p.threads.length, Passes (waitsGo s slot) scope idx phase (p.thread j) (q.thread j)

section
variable {s t : State} {slot slot' : Nat} {p : Party} {scope idx phase : Nat}

/-- A slot's part in a phase change. -/
theorem passSlot_none (h : s.party? slot = none) : passSlot scope idx phase s slot = s := by
  simp [passSlot, h]
theorem passSlot_spec (party : s.party? slot = some p) : ∃ q,
    Keeps s (passSlot scope idx phase s slot) ∧ (passSlot scope idx phase s slot).bars = s.bars ∧
      (passSlot scope idx phase s slot).slots = (s.setParty slot q).slots ∧ SameBlock p q ∧
      ∀ j < p.threads.length, Passes (waitsGo s slot) scope idx phase (p.thread j) (q.thread j) := by
  have spec := phaseChange_spec party rfl scope idx phase
  simpa only [passSlot, party] using spec
/-- It reaches no other slot. -/
theorem passSlot_other (h : slot ≠ slot') : Keeps s (passSlot scope idx phase s slot') ∧
    (passSlot scope idx phase s slot').bars = s.bars ∧ (passSlot scope idx phase s slot').slot slot = s.slot slot := by
  cases party : s.party? slot' with
  | none =>
    rw [passSlot_none party]
    exact ⟨.refl s, rfl, rfl⟩
  | some p =>
    obtain ⟨q, keeps, bars, slots, -, -⟩ := passSlot_spec (scope := scope) (idx := idx) (phase := phase) party
    refine ⟨keeps, bars, ?_⟩
    rw [State.slot, slots]
    exact State.slot_setSlot_ne h ..

theorem Before.passSlot (h : Before s t slot) (ne : slot ≠ slot') : Before s (passSlot scope idx phase t slot') slot := by
  obtain ⟨keeps, bars, same⟩ := passSlot_other (s := t) (scope := scope) (idx := idx) (phase := phase) ne
  exact ⟨h.keeps.trans keeps, bars.trans h.bars, same.trans h.slot⟩
/-- The party's own turn. -/
theorem Before.after (h : Before s t slot) (party : s.party? slot = some p) :
    After s (Machine.passSlot scope idx phase t slot) slot p scope idx phase := by
  have party' : t.party? slot = some p := by rw [State.party?, h.slot]; exact party
  obtain ⟨q, keeps, bars, slots, same, passes⟩ := passSlot_spec (scope := scope) (idx := idx) (phase := phase) party'
  refine ⟨h.keeps.trans keeps, bars.trans h.bars, q, ?_, same, fun j hj => ?_⟩
  · exact (party?_of_slots slots slot).trans (State.party_setParty_same ..)
  · have go : waitsGo t slot = waitsGo s slot := by
      simp only [waitsGo, slotLive, slotRuns, party, party', h.slot]
    exact go ▸ passes j hj
/-- A thread that has gone on stays so, were its party to have two turns. -/
theorem After.passSlot (h : After s t slot p scope idx phase) (slot' : Nat) :
    After s (Machine.passSlot scope idx phase t slot') slot p scope idx phase := by
  obtain ⟨keeps, bars, q, party, same, passes⟩ := h
  by_cases own : slot = slot'
  · subst own
    obtain ⟨r, keeps', bars', slots, same', passes'⟩ := passSlot_spec (scope := scope) (idx := idx) (phase := phase) party
    refine ⟨keeps.trans keeps', bars'.trans bars, r, ?_, same.trans same', fun j hj => ?_⟩
    · exact (party?_of_slots slots slot).trans (State.party_setParty_same ..)
    · have again := (passes' j (same.length ▸ hj)).stays
      refine ⟨fun free => ?_, fun n hold calm go inside => ?_⟩
      · obtain ⟨pc, hold⟩ := (passes j hj).stays free
        exact ⟨(again hold).1.trans pc, (again hold).2⟩
      · obtain ⟨pc, hold⟩ := (passes j hj).leaves n hold calm go inside
        exact ⟨(again hold).1.trans pc, (again hold).2⟩
  · obtain ⟨keeps', bars', same'⟩ := passSlot_other (s := t) (scope := scope) (idx := idx) (phase := phase) own
    refine ⟨keeps.trans keeps', bars'.trans bars, q, ?_, same, passes⟩
    rw [State.party?, same']
    exact party

/-- The turns of all member slots. -/
theorem After.foldl (slots : List Nat) : ∀ {t : State}, After s t slot p scope idx phase →
    After s (slots.foldl (Machine.passSlot scope idx phase) t) slot p scope idx phase := by
  induction slots with
  | nil => exact fun h => h
  | cons slot' slots ih => exact fun h => ih (h.passSlot slot')
theorem Before.foldl (party : s.party? slot = some p) (slots : List Nat) (own : slot ∈ slots) :
    ∀ {t : State}, Before s t slot →
      After s (slots.foldl (Machine.passSlot scope idx phase) t) slot p scope idx phase := by
  induction slots with
  | nil => cases own
  | cons slot' slots ih =>
    intro t h
    by_cases turn : slot = slot'
    · subst turn
      exact (h.after party).foldl slots
    · exact ih ((List.mem_cons.1 own).resolve_left turn) (h.passSlot turn)

/-- A wider barrier, of which the party is a member. -/
theorem wideBarNext_advances {k : Nat × Nat × Nat × Nat × Nat} (party : s.party? slot = some p)
    (member : barInst s slot p k.1 (keyIdx k) = some (keyInst k))
    (ordinary : ∀ l, s.launch? k.2.1 = some l → isClosure l k.1 = false) :
    Advanced s (wideBarNext s k) slot p k.1 (keyIdx k) (.wide k) := by
  have own : slot ∈ barSlots s k := by
    have listed : (slot, s.slot slot) ∈ s.slots := by
      unfold State.party? State.slot aget at party
      unfold State.slot aget
      cases h : aget? slot s.slots with
      | none => rw [h] at party; cases party
      | some x => exact aget?_mem h
    refine List.mem_map.2 ⟨_, List.mem_filter.2 ⟨listed, ?_⟩, rfl⟩
    have party' : (s.slot slot).party = some p := party
    simp [party', member]
  have after := Before.foldl (s := setBar s k (barAt s k).next) (scope := k.1) (idx := keyIdx k) (phase := (barAt s k).phase)
    (p := p) party (barSlots s k) own ⟨.refl _, rfl, rfl⟩
  rw [← wideBarNext_eq ordinary] at after
  obtain ⟨keeps, bars, q, party', same, passes⟩ := after
  have set : Keeps s (setBar s k (barAt s k).next) := ⟨rfl, rfl, rfl, rfl⟩
  refine ⟨set.trans keeps, ?_, q, party', same.g, same.length, passes⟩
  rw [barOf, barAt, bars]
  simp [setBar, barOf, Bar.next]

end

/-! ## An arrival (R151) -/

theorem barPhase_eq (s : State) (slot : Nat) (l : BarLoc) : barPhase s slot l = (barOf s slot l).phase := by
  cases l with
  | wide k => rfl
  | party idx => cases h : s.party? slot <;> simp [barPhase, barOf, h, Bar.init]

/-- The phase of a barrier advances. -/
def barNext (s : State) (slot : Nat) : BarLoc → State
  | .party idx => partyBarNext s slot idx
  | .wide k => wideBarNext s k
theorem checkBar_eq (s : State) (slot : Nat) (l : BarLoc) : checkBar s slot l =
    if (barOf s slot l).arrived != 0 && (barOf s slot l).arrived == barMembers s slot l then barNext s slot l else s := by
  cases l with
  | wide k => rfl
  | party idx => cases h : s.party? slot <;> simp [checkBar, barOf, barMembers, barNext, h, Bar.init]

/-- A barrier with one more arrival. -/
def Bar.arrive (b : Bar) : Bar := { b with arrived := b.arrived + 1 }

theorem arrive_eq (b : Bar) : ({ b with arrived := ((b.arrived : Int) + 1).toNat } : Bar) = b.arrive := rfl

/-- The state once thread k's arrival is marked and counted: the party with the thread as given, and nothing else of it but its
barriers. -/
structure Counted (s t : State) (slot : Nat) (p q : Party) (k : Nat) (u : Thread) (l : BarLoc) : Prop where
  keeps : Keeps s t
  party : t.party? slot = some q
  rest : q = { p.setThread k u with bars := q.bars }
  bars : q.bars.length = p.bars.length
  bar : barOf t slot l = (barOf s slot l).arrive
  members : barMembers t slot l = barMembers s slot l
  goes : waitsGo t slot = waitsGo s slot
  others : ∀ j, j ≠ slot → t.slot j = s.slot j

/-- Marks are no part of the count of threads. -/
theorem running_setThread {p : Party} {k : Nat} (h : k < p.threads.length) {u : Thread} (exited : u.exited = (p.thread k).exited) :
    (p.setThread k u).running = p.running := by
  have running (ts : List Thread) : (ts.filter fun t => !t.exited).length = ((ts.map (·.exited)).filter (!·)).length := by
    rw [List.filter_map, List.length_map]
    rfl
  have same : (p.threads.set k u).map (·.exited) = p.threads.map (·.exited) := by
    have at_k : (p.thread k).exited = (p.threads.map (·.exited))[k]'(by simpa using h) := by simp [Party.thread, h]
    rw [List.map_set, exited, at_k, List.set_getElem_self]
  rw [Party.running, Party.running, running, running]
  exact congrArg (fun es => (es.filter (!·)).length) same

theorem tellPod_eq (s : State) (l : BarLoc) : ∃ outbox, tellPod s l = { s with outbox := outbox } := by
  unfold tellPod
  split
  · split
    · exact ⟨_, rfl⟩
    · exact ⟨s.outbox, rfl⟩
  · exact ⟨s.outbox, rfl⟩

theorem counted {s : State} {slot k : Nat} {p : Party} {u : Thread} {l : BarLoc} (party : s.party? slot = some p)
    (thread : k < p.threads.length) (exited : u.exited = (p.thread k).exited) (listed : ∀ i, l = .party i → i < p.bars.length) :
    ∃ q, Counted s (tellPod (addArrival (s.setParty slot (p.setThread k u)) slot l 1) l) slot p q k u l := by
  obtain ⟨outbox, told⟩ := tellPod_eq (addArrival (s.setParty slot (p.setThread k u)) slot l 1) l
  rw [told]
  cases l with
  | wide key =>
    refine ⟨p.setThread k u, ⟨⟨rfl, rfl, rfl, rfl⟩, State.party_setParty_same .., rfl, rfl, ?_, rfl, ?_, ?_⟩⟩
    · simp [barOf, barAt, addArrival, setBar]
      rfl
    · exact waitsGo_setParty (q := p.setThread k u) party rfl
    · exact fun j hj => State.slot_setSlot_ne hj ..
  | party idx =>
    have added : addArrival (s.setParty slot (p.setThread k u)) slot (.party idx) 1 =
        s.setParty slot { p.setThread k u with bars := p.bars.set idx (p.bar idx).arrive } := by
      simp only [addArrival, State.party_setParty_same, arrive_eq]
      exact State.setParty_setParty ..
    rw [added]
    refine ⟨_, ⟨⟨rfl, rfl, rfl, rfl⟩, State.party_setParty_same .., rfl, by simp, ?_, ?_, ?_, ?_⟩⟩
    · show (match State.party? (s.setParty slot _) slot with | some p => p.bar idx | none => Bar.init) = _
      rw [State.party_setParty_same]
      simp [barOf, party, Party.bar, listed idx rfl]
    · show (match State.party? (s.setParty slot _) slot with | some p => p.running | none => 0) = _
      rw [State.party_setParty_same]
      simp only [barMembers, party]
      exact running_setThread thread exited
    · exact waitsGo_setParty (q := { p.setThread k u with bars := p.bars.set idx (p.bar idx).arrive }) party rfl
    · exact fun j hj => State.slot_setSlot_ne hj ..

/-! ## What an arrival names (R150, 14 R308) -/

/-- The members that a barrier has depend on the launch and the block of the party. -/
theorem barInst_congr {s t : State} {p q : Party} (h : Keeps s t) (lid : q.lid = p.lid) (blin : q.blin = p.blin)
    (slot scope idx : Nat) : barInst t slot q scope idx = barInst s slot p scope idx := by
  simp only [barInst, State.launch?, State.block?, h.launches, h.blocks, lid, blin]
/-- The members at a scope: of the party's launch, or at .pod of its context, which ends no block's phase (24 R430). -/
theorem barInst_level {s : State} {slot scope idx : Nat} {p : Party} {e : BarInst} (h : barInst s slot p scope idx = some e) :
    e.1 = scope ∧ (e.2.1 = p.lid ∨ scope = 7) := by
  unfold barInst at h
  repeat' split at h
  all_goals cases h
  all_goals exact ⟨rfl, by simp⟩
theorem cx_launch {s : State} {i : Instr} {cx : Cx} (h : cx? s i = some cx) : s.launch? cx.party.lid = some cx.launch := by
  unfold cx? at h
  repeat (split at h <;> try cases h)
  assumption

/-- The mark of an arrival. -/
def Cx.marked (cx : Cx) (k scope idx phase : Nat) : Thread :=
  { cx.party.thread k with arrivals := (cx.party.thread k).arrivals ++ [(scope, idx, phase)] }
/-- The state once it is counted. -/
def Cx.arrived (cx : Cx) (s : State) (k : Nat) (u : Thread) (l : BarLoc) : State :=
  tellPod (addArrival (s.setParty cx.slot (cx.party.setThread k u)) cx.slot l 1) l

/-- One thread's result in the registers g of a party is made of these alone. -/
theorem takeG_only_g {p q : Party} (h : q.g = p.g) (r : Reg) (w : Width) (k x : Nat) :
    (q.takeG r w [k] fun _ => some x).g = (p.takeG r w [k] fun _ => some x).g := by
  cases r <;> simp [Party.takeG, Party.offer, Party.write, h]

section
variable {s : State} {i : Instr} {cx : Cx} {k idx : Nat} {l : BarLoc}

/-- The two kinds of place. -/
theorem Arrives.place (h : Arrives s i cx k idx l) : (barScope (cx.p.c % 16) = 2 ∧ l = .party idx) ∨
    ∃ key, l = .wide key ∧ key.1 = barScope (cx.p.c % 16) ∧ keyIdx key = idx ∧
      barInst s cx.slot cx.party key.1 (keyIdx key) = some (keyInst key) ∧
      ∀ launch, s.launch? key.2.1 = some launch → isClosure launch key.1 = false := by
  have place := h.exists_
  unfold barLoc at place
  split at place
  · next own => exact .inl ⟨by simpa using own, (Option.some.inj place).symm⟩
  · obtain ⟨⟨x, id, m, n⟩, inst, rfl⟩ := Option.map_eq_some_iff.1 place
    obtain ⟨level, home⟩ := barInst_level inst
    have level : x = barScope (cx.p.c % 16) := level
    refine .inr ⟨_, rfl, level, rfl, level ▸ inst, fun launch found => ?_⟩
    rcases home with home | pod
    · have same : launch = cx.launch := by
        have found' : s.launch? cx.party.lid = some launch := home ▸ found
        rw [cx_launch h.context] at found'
        exact (Option.some.inj found').symm
      simp [isClosure, same, h.ordinary]
    · simp [isClosure, level, pod]

theorem Arrives.counted (h : Arrives s i cx k idx l) (phase : Nat) :
    ∃ q, Counted s (cx.arrived s k (cx.marked k (barScope (cx.p.c % 16)) idx phase) l) cx.slot cx.party q k
      (cx.marked k (barScope (cx.p.c % 16)) idx phase) l := by
  refine Machine.counted (cx_party h.context) h.thread rfl fun j hj => ?_
  rcases h.place with ⟨-, own⟩ | ⟨key, wide, -⟩
  · rw [own] at hj
    cases hj
    exact h.listed
  · rw [wide] at hj
    cases hj

/-- The phase change that the last arrival brings. -/
theorem Arrives.advances (h : Arrives s i cx k idx l) {t : State} {q : Party} {u : Thread}
    (c : Counted s t cx.slot cx.party q k u l) :
    Advanced t (barNext t cx.slot l) cx.slot q (barScope (cx.p.c % 16)) idx l := by
  rcases h.place with ⟨scope, own⟩ | ⟨key, wide, scope, index, member, ordinary⟩
  · subst own
    rw [scope]
    exact partyBarNext_advances c.party (c.bars ▸ h.listed)
  · subst wide
    rw [← scope, ← index]
    refine wideBarNext_advances c.party ((barInst_congr c.keeps ?_ ?_ ..).trans member) fun launch found => ordinary launch ?_
    · rw [c.rest]
      rfl
    · rw [c.rest]
      rfl
    · rw [← found, State.launch?, State.launch?, c.keeps.launches]

/-- One thread's arrival, which has or has not moved the phase. -/
theorem Arrives.barOne_eq (h : Arrives s i cx k idx l) (d : Option Reg) {s' : State} {moved : Bool}
    (checked : checkBar (cx.arrived s k (cx.marked k (barScope (cx.p.c % 16)) idx (barOf s cx.slot l).phase) l) cx.slot l = s')
    (phase : ((barOf s' cx.slot l).phase != (barOf s cx.slot l).phase) = moved) :
    let scope := barScope (cx.p.c % 16)
    let p := (barOf s cx.slot l).phase
    let u := if moved then cx.party.thread k else cx.marked k scope idx p
    barOne cx s k (cx.party.thread k) (cx.p.c % 16) idx d = match d with
      | some r => (cx.putG s' k .one p, cx.advance k (u.write r .one p))
      | none => if moved && !mergePending s' cx.party scope idx p then (acquire s' cx.core scope, cx.advance k u)
        else (s', ({ u with hold := some (.bar scope idx p cx.npc) }, none)) := by
  subst checked phase
  intro scope p u
  have fresh : ((cx.party.thread k).arrivals.any fun a => a.1 == scope && a.2.1 == idx) = false := by
    refine List.any_eq_false.2 fun a ha => ?_
    obtain ⟨c, j, n⟩ := a
    simp only [Bool.and_eq_true, beq_iff_eq, not_and]
    rintro rfl rfl
    exact h.fresh n ha
  have settled : Machine.released s cx.slot k cx.issue.handler = true := by simp [Machine.released, h.released]
  have kept : (if (d.isSome || (cx.party.thread k).handler) = true then none else (cx.party.thread k).barKept.bind fun e =>
      if (e.1 == cx.pc && e.2.1 == barScope (cx.p.c % 16) && e.2.2.1 == idx) = true then some e.2.2.2 else none) =
        (none : Option Nat) := by
    rw [h.unkept, Option.bind_none, ite_self]
  simp only [barOne, h.exists_, kept, settled, cx_party h.context, barPhase_eq, Bool.not_true, Bool.false_eq_true, if_false]
  rw [fresh, if_neg Bool.false_ne_true]
  rfl

/-- An instruction of one thread's arrival, from that thread's turn. -/
theorem Arrives.exec_eq (h : Arrives s i cx k idx l) {d : Cx → Option Reg}
    (hx : exec i s = runWord s i fun cx s => cx.each s fun s tid _ t =>
      if cx.enabled tid then barOne cx s tid t (cx.p.c % 16) idx (d cx) else (s, cx.advance tid t))
    {s' : State} {p : Party} {u : Thread}
    (turn : barOne cx s k (cx.party.thread k) (cx.p.c % 16) idx (d cx) = (s', u, none)) (after : s'.party? cx.slot = some p) :
    exec i s = .next (s'.setParty cx.slot (p.setThread k u)) := by
  rw [hx, runWord_issues h.toIssues]
  exact congrArg _ (each_single h.single (cx_party h.context) ((if_pos h.enabled).trans turn) after)

/-! ## An arrival that does not fill the barrier -/

theorem Counted.few {s t : State} {slot k : Nat} {p q : Party} {u : Thread} {l : BarLoc} (c : Counted s t slot p q k u l)
    (few : (barOf s slot l).arrived + 1 ≠ barMembers s slot l) : checkBar t slot l = t := by
  rw [checkBar_eq, c.bar, c.members]
  simp [Bar.arrive, few]
theorem Counted.last {s t : State} {slot k : Nat} {p q : Party} {u : Thread} {l : BarLoc} (c : Counted s t slot p q k u l)
    (last : (barOf s slot l).arrived + 1 = barMembers s slot l) : checkBar t slot l = barNext t slot l := by
  rw [checkBar_eq, c.bar, c.members]
  have some : barMembers s slot l ≠ 0 := last ▸ Nat.succ_ne_zero _
  simp [Bar.arrive, last, some]

/-- The thread of a counted arrival has its registers and its place written. -/
theorem Counted.becomes {t : State} {q : Party} {u v : Thread} (c : Counted s t cx.slot cx.party q k u l) (gs : List Word) :
    let t' := t.setParty cx.slot (Party.setThread { q with g := gs } k v)
    barOf t' cx.slot l = (barOf s cx.slot l).arrive ∧ PartyBecomes s t' cx (cx.party.threads.set k v) gs := by
  refine ⟨(barOf_setParty (q := Party.setThread { q with g := gs } k v) c.party rfl l).trans c.bar,
    ⟨_, State.party_setParty_same .., ?_, rfl, ?_, ?_⟩, c.keeps.ops, c.keeps.dram,
    fun j hj => (State.slot_setSlot_ne hj ..).trans (c.others j hj)⟩
  · rw [c.rest]
    exact List.set_set ..
  · rw [c.rest]
    rfl
  · rw [c.rest]
    rfl

theorem bar_waits {d a b : BitVec 8} (h : Arrives s (.bar d a b) cx k b.toNat l)
    (few : (barOf s cx.slot l).arrived + 1 ≠ barMembers s cx.slot l) :
    let scope := barScope (cx.p.c % 16)
    let old := barOf s cx.slot l
    ∃ t, exec (.bar d a b) s = .next t ∧ barOf t cx.slot l = { old with arrived := old.arrived + 1 } ∧
      PartyBecomes s t cx (cx.party.threads.set k
        { cx.marked k scope b.toNat old.phase with hold := some (.bar scope b.toNat old.phase cx.npc) }) cx.party.g := by
  intro scope old
  obtain ⟨q, c⟩ := h.counted old.phase
  have turn := h.barOne_eq none (c.few few) (moved := false) (by rw [c.bar]; exact bne_self_eq_false _)
  refine ⟨_, h.exec_eq (d := fun _ => none) rfl turn c.party, ?_⟩
  have g : q.g = cx.party.g := by rw [c.rest]; rfl
  rw [← g]
  exact c.becomes q.g
theorem bara_waits {d a b : BitVec 8} (h : Arrives s (.bara d a b) cx k b.toNat l)
    (few : (barOf s cx.slot l).arrived + 1 ≠ barMembers s cx.slot l) :
    let scope := barScope (cx.p.c % 16)
    let old := barOf s cx.slot l
    ∃ t, exec (.bara d a b) s = .next t ∧ barOf t cx.slot l = { old with arrived := old.arrived + 1 } ∧
      PartyBecomes s t cx
        (cx.party.threads.set k (((cx.marked k scope b.toNat old.phase).write cx.dreg .one old.phase).jump cx.npc))
        (cx.party.takeG cx.dreg .one [k] fun _ => some old.phase).g := by
  intro scope old
  obtain ⟨q, c⟩ := h.counted old.phase
  have turn := h.barOne_eq (some cx.dreg) (c.few few) (moved := false) (by rw [c.bar]; exact bne_self_eq_false _)
  dsimp only at turn
  rw [Cx.putG, State.putG_eq c.party, advance_inside h.inside] at turn
  refine ⟨_, h.exec_eq (d := fun cx => some cx.dreg) rfl turn (State.party_setParty_same ..), ?_⟩
  rw [State.setParty_setParty, takeG_g]
  have g : (q.takeG cx.dreg .one [k] fun _ => some old.phase).g = (cx.party.takeG cx.dreg .one [k] fun _ => some old.phase).g :=
    takeG_only_g (by rw [c.rest]; rfl) ..
  rw [← g]
  exact c.becomes _

/-! ## The last arrival (R151, R152) -/

/-- The phase has moved, and no merge is to come. -/
theorem Arrives.passed (h : Arrives s i cx k idx l) {t t' : State} {p q : Party} {u : Thread} (c : Counted s t cx.slot p q k u l)
    (a : Advanced t t' cx.slot q (barScope (cx.p.c % 16)) idx l) :
    ((barOf t' cx.slot l).phase != (barOf s cx.slot l).phase) = true ∧
      mergePending t' cx.party (barScope (cx.p.c % 16)) idx (barOf s cx.slot l).phase = false := by
  constructor
  · rw [a.bar, c.bar]
    exact bne_iff_ne.2 (next_phase_ne _)
  · rw [← h.unmerged (barOf s cx.slot l).phase]
    simp only [mergePending, State.block?, a.keeps.blocks, c.keeps.blocks]

/-- What the last arrival leaves: the next phase, the registers of g and the thread's own as given, and the party's waiting
threads gone on. -/
def LastLeaves (s t : State) (p : Party) (cx : Cx) (k idx : Nat) (l : BarLoc) (gs : List Word) (v : Thread) : Prop :=
  barOf t cx.slot l = (barOf s cx.slot l).next ∧ t.party? cx.slot = some p ∧ t.ops = s.ops ∧ t.dram = s.dram ∧ p.g = gs ∧
  p.thread k = v ∧
  ∀ j n, j ≠ k → j < cx.party.threads.length →
    (cx.party.thread j).hold = some (.bar (barScope (cx.p.c % 16)) idx (barOf s cx.slot l).phase n) → wordOf n ≠ 0 →
    waitsGo s cx.slot = true → (cx.party.thread j).deliverable = false → (p.thread j).pc = n ∧ (p.thread j).hold = none

/-- So it is where the thread's registers are written last, and the party's stand in r. -/
theorem Counted.leaves {t t' t'' : State} {p q r : Party} {u : Thread} (c : Counted s t cx.slot cx.party p k u l)
    (a : Advanced t t' cx.slot p (barScope (cx.p.c % 16)) idx l) (thread : k < cx.party.threads.length) (keeps : Keeps t' t'')
    (bar : barOf t'' cx.slot l = barOf t' cx.slot l) (party' : t'.party? cx.slot = some q) (party : t''.party? cx.slot = some r)
    (threads : r.threads = q.threads) (v : Thread) :
    LastLeaves s (t''.setParty cx.slot (r.setThread k v)) (r.setThread k v) cx k idx l r.g v := by
  obtain ⟨q', own, -, length, passes⟩ := a.party
  rw [party'] at own
  cases own
  have all : p.threads.length = cx.party.threads.length := by
    rw [c.rest]
    exact List.length_set ..
  have kept := (c.keeps.trans a.keeps).trans keeps
  refine ⟨?_, State.party_setParty_same .., kept.ops, kept.dram, rfl,
    Party.thread_setThread_same _ _ _ (by rw [threads, length, all]; exact thread), fun j n ne lt hold inside going calm => ?_⟩
  · rw [barOf_setParty (q := r.setThread k v) party rfl, bar, a.bar, c.bar]
    rfl
  · have before : p.thread j = cx.party.thread j := by
      rw [c.rest]
      exact Party.thread_setThread_ne ne ..
    have pass := passes j (all ▸ lt)
    rw [before, c.bar, c.goes] at pass
    have gone := pass.leaves n hold calm going inside
    rwa [Party.thread_setThread_ne ne, show r.thread j = q.thread j by rw [Party.thread, Party.thread, threads]]

theorem bar_last {d a b : BitVec 8} (h : Arrives s (.bar d a b) cx k b.toNat l)
    (last : (barOf s cx.slot l).arrived + 1 = barMembers s cx.slot l) :
    ∃ t p, exec (.bar d a b) s = .next t ∧ LastLeaves s t p cx k b.toNat l cx.party.g ((cx.party.thread k).jump cx.npc) := by
  obtain ⟨q, c⟩ := h.counted (barOf s cx.slot l).phase
  have adv := h.advances c
  obtain ⟨moved, unmerged⟩ := h.passed c adv
  have turn := h.barOne_eq none (c.last last) moved
  simp only [unmerged, Bool.not_false, Bool.and_self, if_true, advance_inside h.inside] at turn
  obtain ⟨r, party, g, -, -⟩ := adv.party
  have party' := (party?_of_slots (acquire_slots _ cx.core (barScope (cx.p.c % 16))) cx.slot).trans party
  have g' : r.g = cx.party.g := g.trans (by rw [c.rest]; rfl)
  rw [← g']
  exact ⟨_, _, h.exec_eq (d := fun _ => none) rfl turn party',
    c.leaves adv h.thread (acquire_keeps ..) (barOf_acquire ..) party party' rfl _⟩
theorem bara_last {d a b : BitVec 8} (h : Arrives s (.bara d a b) cx k b.toNat l)
    (last : (barOf s cx.slot l).arrived + 1 = barMembers s cx.slot l) :
    ∃ t p, exec (.bara d a b) s = .next t ∧ LastLeaves s t p cx k b.toNat l
      (cx.party.takeG cx.dreg .one [k] fun _ => some (barOf s cx.slot l).phase).g
      (((cx.party.thread k).write cx.dreg .one (barOf s cx.slot l).phase).jump cx.npc) := by
  obtain ⟨q, c⟩ := h.counted (barOf s cx.slot l).phase
  have adv := h.advances c
  obtain ⟨moved, -⟩ := h.passed c adv
  obtain ⟨r, party, g, -, -⟩ := adv.party
  have turn := h.barOne_eq (some cx.dreg) (c.last last) moved
  simp only [if_true, advance_inside h.inside, Cx.putG, State.putG_eq party] at turn
  have same := takeG_g cx.dreg .one (fun _ => some (barOf s cx.slot l).phase) [k] r
  have bars : (r.takeG cx.dreg .one [k] fun _ => some (barOf s cx.slot l).phase).bars = r.bars := by rw [same]
  have threads : (r.takeG cx.dreg .one [k] fun _ => some (barOf s cx.slot l).phase).threads = r.threads := by rw [same]
  rw [← takeG_only_g (g.trans (by rw [c.rest]; rfl) : r.g = cx.party.g)]
  exact ⟨_, _, h.exec_eq (d := fun cx => some cx.dreg) rfl turn (State.party_setParty_same ..),
    c.leaves adv h.thread (Keeps.setParty (.refl _) cx.slot _) (barOf_setParty party bars l) party
      (State.party_setParty_same ..) threads _⟩

end

/-! ## EXIT (R153) -/

/-- The state with other member counts, and messages sent. -/
def State.counting (s : State) (members : List (BarInst × Nat × Nat)) (outbox : List Message) : State :=
  { s with members := members, outbox := outbox }

/-- Where no barrier is in use, a thread that leaves the members of one is counted, and other packages are told. -/
theorem leaveInst_eq {s : State} (none : s.bars = []) (e : BarInst) (n : Nat) :
    ∃ members outbox, leaveInst s e n = s.counting members outbox := by
  have quiet (t : State) (h : t.bars = []) : checkInst t e = t := by simp [checkInst, h]
  unfold leaveInst
  dsimp only
  split
  · exact ⟨_, _, quiet _ none⟩
  · exact ⟨_, s.outbox, quiet _ none⟩
theorem leaveInsts_eq (es : List BarInst) (n : Nat) : ∀ {s : State}, s.bars = [] →
    ∃ members outbox, es.foldl (fun s e => leaveInst s e n) s = s.counting members outbox := by
  induction es with
  | nil => exact fun {s} _ => ⟨s.members, s.outbox, rfl⟩
  | cons e es ih =>
    intro s none
    obtain ⟨members, outbox, h⟩ := leaveInst_eq none e n
    obtain ⟨members', outbox', h'⟩ := ih (s := s.counting members outbox) none
    exact ⟨members', outbox', by rw [List.foldl_cons, h, h']; rfl⟩

/-- A thread that has ended. -/
def Thread.ended (t : Thread) : Thread := { t with exited := true, hold := none, arrivals := [], barKept := none }
/-- The state in which thread k of a party has ended. -/
def State.endThread (s : State) (slot : Nat) (p : Party) (k : Nat) : State :=
  s.setParty slot (p.setThread k (p.thread k).ended)

/-- Where no barrier of the party has arrivals, none of them advances. -/
theorem checkBars_unused {s : State} {slot : Nat} {p : Party} (party : s.party? slot = some p)
    (unused : ∀ e ∈ p.bars, e.arrived = 0) (is : List Nat) : is.foldl (fun s i => checkBar s slot (.party i)) s = s := by
  have still (i : Nat) : checkBar s slot (.party i) = s := by
    have count : (p.bar i).arrived = 0 := by
      rw [Party.bar, List.getD_eq_getElem?_getD]
      cases h : p.bars[i]? with
      | none => rfl
      | some e => exact unused e (List.mem_of_getElem? h)
    simp [checkBar, party, count]
  induction is with
  | nil => rfl
  | cons i is ih => rw [List.foldl_cons, still, ih]

/-- A thread that is in no barrier ends, where no barrier of its party has arrivals and no wider one is in use. -/
theorem exitThread_eq {s : State} {slot k : Nat} {p : Party} (party : s.party? slot = some p)
    (nowhere : (p.thread k).arrivals = []) (unused : ∀ e ∈ p.bars, e.arrived = 0) (none : s.bars = []) :
    ∃ members outbox, exitThread s slot k = (s.endThread slot p k).counting members outbox := by
  obtain ⟨members, outbox, h⟩ := leaveInsts_eq (instancesOf (s.endThread slot p k) slot p) 1 (s := s.endThread slot p k) none
  have checks := checkBars_unused (s := s.endThread slot p k) (State.party_setParty_same ..) unused (upTo 16)
  refine ⟨members, outbox, ?_⟩
  rw [exitThread, party]
  simp only [dropArrivals, nowhere, List.foldl_nil, party]
  show (instancesOf ((upTo 16).foldl (fun s i => checkBar s slot (.party i)) (s.endThread slot p k)) slot p).foldl
    (fun s e => leaveInst s e 1) ((upTo 16).foldl (fun s i => checkBar s slot (.party i)) (s.endThread slot p k)) = _
  rw [checks, h]

/-- A group that does nothing. -/
theorem mapGroup_nothing {cx : Cx} {s : State} (party : s.party? cx.slot = some cx.party)
    {g : Nat → Thread → Thread × Option Esc} (h : ∀ k ∈ cx.tids, ∀ t, g k t = (t, none)) : cx.mapGroup s g = s := by
  rw [mapGroup_goes (f := fun _ t => t) h, Cx.goes]
  have threads : mapI (fun k (t : Thread) => if cx.tids.contains k then t else t) 0 cx.party.threads = cx.party.threads := by
    refine List.ext_getElem? fun j => ?_
    simp [mapI_getElem?]
  rw [threads]
  exact State.setParty_self party

theorem exec_exit {s : State} {d a b : BitVec 8} {cx : Cx} {k : Nat} (h : RunsOne s (.exit d a b) cx k)
    (thread : k < cx.party.threads.length) (idle : ∀ t ∈ cx.party.threads, t.hold = none ∧ t.arrivals = [])
    (unused : ∀ e ∈ cx.party.bars, e.arrived = 0) (none : s.bars = []) :
    ∃ members outbox, exec (.exit d a b) s = .next ((s.endThread cx.slot cx.party k).counting members outbox) := by
  have party := cx_party h.context
  have active : cx.active = [k] := by simp [Cx.active, h.single, h.enabled]
  obtain ⟨members, outbox, left⟩ := exitThread_eq party (idle _ (thread_mem thread)).2 unused none
  refine ⟨members, outbox, ?_⟩
  show execExit d a b s = _
  rw [execExit, runWord_issues h.toIssues]
  dsimp only
  rw [mapGroup_nothing party fun j hj t => ?_, active, List.foldl_cons, List.foldl_nil, left]
  · refine congrArg _ (xlSettle_free (p := cx.party.setThread k (cx.party.thread k).ended) (State.party_setParty_same ..)
      fun t ht => ?_)
    rcases List.mem_or_eq_of_mem_set ht with old | new
    · exact (idle t old).1
    · rw [new]
      rfl
  · rw [h.single, List.mem_singleton] at hj
    rw [hj, if_pos h.enabled]

end Sys2Proof.Machine

open Sys2Proof Sys2Proof.Machine

/-- Settles O29: an arrival is marked and counted before the barrier is examined, and the last one gives each party that
takes part one turn to go on. -/
theorem barriersCountArrivalsAndExits : Obligations.BarriersCountArrivalsAndExits := by
  refine ⟨?_, ?_, ?_⟩
  · intro s d a b cx k l idx scope old u few
    exact ⟨fun h => bar_waits h few, fun h => bara_waits h few⟩
  · intro s d a b cx k l idx scope old last
    simp only [List.forall_mem_cons]
    refine ⟨fun h => ?_, fun h => ?_, nofun⟩
    · obtain ⟨t, p, run, left⟩ := bar_last h last
      refine ⟨t, p, run, ?_⟩
      simp only [reduceCtorEq, if_false]
      exact left
    · obtain ⟨t, p, run, left⟩ := bara_last h last
      refine ⟨t, p, run, ?_⟩
      simp only [if_true]
      exact left
  · intro s d a b cx k h thread idle unused none
    obtain ⟨members, outbox, run⟩ := exec_exit h thread idle unused none
    obtain ⟨hold, arrivals⟩ := idle _ (thread_mem thread)
    refine ⟨_, run, rfl, rfl, rfl, ?_⟩
    have ended : (cx.party.thread k).ended = { cx.party.thread k with exited := true, barKept := Option.none } := by
      rw [Thread.ended, ← hold, ← arrivals]
    rw [← ended]
    rfl

end

section
/-! Loads, stores and atomics at their issue (07_memory_access.md R158 to R169, R179; 20_versioned_memory.md R399, R400): what the
threads of a group issue one after another, and what each instruction's access is. -/

namespace Sys2Proof.Machine

/-! ## Accesses of a group's threads, one after another (R164) -/

section
variable {cx : Cx} {s : State} {cls : Cls} {zw : Width} {kind : Nat → OpKind} {val : Nat → Option Nat}
  {f : Nat → Thread → Thread} {g : State → Nat → View → Thread → State × (Thread × Option Esc)} {k : Nat}

/-- What the threads ks have issued, numbered from q up: an access of each enabled one. -/
def Cx.issuedBy (cx : Cx) (cls : Cls) (kind : Nat → OpKind) (q : Nat) (ks : List Nat) : List Issued :=
  mapI (fun j k => { id := q + j, slot := cx.slot, tids := [k], live := [k], cls := some cls, kind := kind k, phase := .issued })
    0 (ks.filter cx.enabled)

theorem mapI_append {α β : Type} (f : Nat → α → β) : ∀ (i : Nat) (l m : List α),
    mapI f i (l ++ m) = mapI f i l ++ mapI f (i + l.length) m
  | _, [], _ => rfl
  | i, a :: l, m => by
    rw [List.cons_append, mapI, mapI_append f (i + 1) l m, List.length_cons, Nat.add_right_comm, Nat.add_assoc]
    rfl
theorem issuedBy_append (cx : Cx) (cls : Cls) (kind : Nat → OpKind) (q : Nat) (ks ms : List Nat) :
    cx.issuedBy cls kind q (ks ++ ms) =
      cx.issuedBy cls kind q ks ++ cx.issuedBy cls kind (q + (ks.filter cx.enabled).length) ms := by
  unfold Cx.issuedBy
  rw [List.filter_append, mapI_append, mapI_from _ _ 0]
  simp only [Nat.add_assoc, Nat.add_comm (List.length _)]

/-- Before its first thread's turn an instruction's state is the one it issued in. -/
theorem stands_start (party : s.party? cx.slot = some cx.party) :
    cx.stands s s.ops cx.party.g cx.party.threads s.seq = s := by
  have slots : (s.setParty cx.slot { cx.party with g := cx.party.g, threads := cx.party.threads }).slots = s.slots :=
    setParty_same party
  unfold Cx.stands
  rw [slots]

/-- What thread k, whose operands are read from the state it stands in, is given by `Cx.each`. -/
def Cx.turnView (cx : Cx) (s : State) (ts : List Thread) (k : Nat) : View :=
  { party := { cx.party with threads := ts }, thread := cx.party.thread k, tid := k, tids := cx.tids, ref := s.ref }

theorem opnds_turnView (cx : Cx) (s : State) (ts : List Thread) (k : Nat) :
    cx.opnds (cx.turnView s ts k) = cx.operands s k :=
  opnds_threads cx (cx.view s.ref k) ts

/-- In its turn thread k changes by f, offers val k for D and, if it is enabled, issues its access; it takes no cause. -/
def TurnIssues (cx : Cx) (s : State) (cls : Cls) (zw : Width) (kind : Nat → OpKind) (val : Nat → Option Nat)
    (f : Nat → Thread → Thread) (g : State → Nat → View → Thread → State × (Thread × Option Esc)) (k : Nat) : Prop :=
  ∀ ops gs ts q, ∃ ops',
    g (cx.stands s ops gs ts q) k (cx.turnView s ts k) (cx.party.thread k) =
      (cx.stands s ops' (Party.takeG { cx.party with g := gs } cx.dreg zw [k] val).g ts (q + ([k].filter cx.enabled).length),
        f k (cx.party.thread k), none) ∧
    ops'.map Op.issued = ops.map Op.issued ++ cx.issuedBy cls kind q [k]

/-- An instruction each of whose threads does that in its turn. -/
theorem each_issues (party : s.party? cx.slot = some cx.party) (distinct : cx.tids.Nodup)
    (turns : ∀ k ∈ cx.tids, TurnIssues cx s cls zw kind val f g k) :
    AgreeButOps (cx.each s g) s ∧ (cx.each s g).seq = s.seq + cx.active.length ∧
      (cx.each s g).slots = (cx.goes s (cx.party.takeG cx.dreg zw cx.tids val) f).slots ∧
      (cx.each s g).ops.map Op.issued = s.ops.map Op.issued ++ cx.issuedBy cls kind s.seq cx.tids := by
  have prefixes : ∀ ks : List Nat, ks.Nodup → (∀ k ∈ ks, k ∈ cx.tids) →
      ∃ ops', ks.foldl (cx.turn g) s =
          cx.stands s ops' (cx.party.takeG cx.dreg zw ks val).g (cx.after f ks) (s.seq + (ks.filter cx.enabled).length) ∧
        ops'.map Op.issued = s.ops.map Op.issued ++ cx.issuedBy cls kind s.seq ks := by
    intro ks
    induction ks using List.reverseRecOn with
    | nil =>
      intro _ _
      have g_nil : (cx.party.takeG cx.dreg zw [] val).g = cx.party.g := by cases cx.dreg <;> rfl
      refine ⟨s.ops, ?_, by simp [Cx.issuedBy, mapI]⟩
      rw [g_nil, after_none]
      exact (stands_start party).symm
    | append_singleton ks k ih =>
      intro hn hm
      obtain ⟨hks, -, disjoint⟩ := List.nodup_append.1 hn
      obtain ⟨ops, before, listed⟩ := ih hks fun j hj => hm j (by simp [hj])
      have untouched : (cx.after f ks).getD k Thread.zero = cx.party.thread k :=
        after_before fun h => disjoint k h k (by simp) rfl
      obtain ⟨ops', turn, joined⟩ := turns k (hm k (by simp)) ops (cx.party.takeG cx.dreg zw ks val).g (cx.after f ks)
        (s.seq + (ks.filter cx.enabled).length)
      refine ⟨ops', ?_, by rw [joined, listed, issuedBy_append, List.append_assoc]⟩
      unfold Cx.turnView at turn
      rw [← untouched] at turn
      rw [List.foldl_append, before, List.foldl_cons, List.foldl_nil, turn_goes turn, untouched, after_turn, takeG_snoc,
        takeG_g cx.dreg zw val ks cx.party, List.filter_append, List.length_append, Nat.add_assoc]
  obtain ⟨ops', run, joined⟩ := prefixes cx.tids distinct fun _ h => h
  rw [each_turns, run]
  refine ⟨rfl, rfl, ?_, joined⟩
  unfold Cx.goes
  rw [takeG_g]
  rfl

end

section
variable {cx : Cx} {s : State} {seq0 k : Nat}

/-- An access that the checks pass joins the operations, and its thread goes on. -/
theorem issueOne_stands (ordinary : cx.launch.isDet = false) (inside : cx.atEnd = false) {r : Req}
    (passes : accessCause s cx.launch r.need r.ea r.kind = none) (t : Thread) (ops : List Op) (gs : List Word)
    (ts : List Thread) (q : Nat) :
    ∃ ops', cx.issueOne (cx.stands s ops gs ts q) seq0 k t r = (cx.stands s ops' gs ts (q + 1), cx.issuedOne r.cls t, none) ∧
      ops'.map Op.issued = ops.map Op.issued ++
        [{ id := q, slot := cx.slot, tids := [k], live := [k], cls := some r.cls, kind := r.kind, phase := .issued }] := by
  obtain ⟨ops', added, joined⟩ := issueAccess_adds (cx.stands s ops gs ts q) cx [k] r.cls seq0 r.kind
  have passes' : accessCause (cx.stands s ops gs ts q) cx.launch r.need r.ea r.kind = none := passes
  refine ⟨ops', ?_, joined⟩
  simp only [Cx.issueOne, passes', ordinary, Bool.false_and, Bool.false_eq_true, if_false, added, advance_inside inside]
  rfl

/-- One thread's turn: an enabled thread comes to its access; a masked one goes on, in zero mode with zero in D. -/
def Cx.accessTurn (cx : Cx) (s : State) (seq0 : Nat) (z : Bool) (zw : Width) (r : Nat → Req) (k : Nat) (t : Thread) :
    State × (Thread × Option Esc) :=
  if cx.enabled k then cx.issueOne s seq0 k t (r k)
  else (if z then cx.putG s k zw 0 else s, cx.advance k (if z then t.write cx.dreg zw 0 else t))
/-- What thread k offers for D in that turn. -/
def Cx.accessOffer (cx : Cx) (z : Bool) (k : Nat) : Option Nat := if cx.enabled k then none else if z then some 0 else none
/-- What becomes of thread k in that turn. -/
def Cx.accessGoes (cx : Cx) (cls : Cls) (z : Bool) (zw : Width) (k : Nat) (t : Thread) : Thread :=
  if cx.enabled k then cx.issuedOne cls t else (if z then t.write cx.dreg zw 0 else t).jump cx.npc

theorem accessTurn_issues (ordinary : cx.launch.isDet = false) (inside : cx.atEnd = false) {cls : Cls} {z : Bool} {zw : Width}
    {r : Nat → Req} (counts : (r k).cls = cls)
    (passes : cx.enabled k = true → accessCause s cx.launch (r k).need (r k).ea (r k).kind = none) :
    TurnIssues cx s cls zw (fun k => (r k).kind) (cx.accessOffer z) (cx.accessGoes cls z zw)
      (fun s k _ => cx.accessTurn s seq0 z zw r k) k := by
  intro ops gs ts q
  cases enabled : cx.enabled k with
  | true =>
    obtain ⟨ops', issued, joined⟩ :=
      issueOne_stands (k := k) (seq0 := seq0) ordinary inside (passes enabled) (cx.party.thread k) ops gs ts q
    have keeps : (Party.takeG { cx.party with g := gs } cx.dreg zw [k] (cx.accessOffer z)).g = gs := by
      cases cx.dreg <;> simp [Party.takeG, Party.offer, Cx.accessOffer, enabled]
    refine ⟨ops', ?_, by simp [joined, Cx.issuedBy, enabled, mapI, counts]⟩
    simp [Cx.accessTurn, Cx.accessGoes, enabled, issued, keeps, counts]
  | false =>
    refine ⟨ops, ?_, by simp [Cx.issuedBy, enabled, mapI]⟩
    cases z with
    | true =>
      have zero : cx.accessOffer true k = some 0 := by simp [Cx.accessOffer, enabled]
      simp [Cx.accessTurn, Cx.accessGoes, enabled, putG_stands cx s ops gs ts q k zw 0 zero, advance_inside inside]
    | false =>
      have keeps : (Party.takeG { cx.party with g := gs } cx.dreg zw [k] (cx.accessOffer false)).g = gs := by
        cases cx.dreg <;> simp [Party.takeG, Party.offer, Cx.accessOffer]
      simp [Cx.accessTurn, Cx.accessGoes, enabled, keeps, advance_inside inside]

/-- An instruction whose threads have such turns. -/
theorem each_accessTurns (party : s.party? cx.slot = some cx.party) (distinct : cx.tids.Nodup)
    (ordinary : cx.launch.isDet = false) (inside : cx.atEnd = false) {cls : Cls} {z : Bool} {zw : Width} {r : Nat → Req}
    (counts : ∀ k, (r k).cls = cls)
    (passes : ∀ k ∈ cx.active, accessCause s cx.launch (r k).need (r k).ea (r k).kind = none)
    {g : State → Nat → View → Thread → State × (Thread × Option Esc)}
    (turns : ∀ k ∈ cx.tids, ∀ ops gs ts q, g (cx.stands s ops gs ts q) k (cx.turnView s ts k) (cx.party.thread k) =
      cx.accessTurn (cx.stands s ops gs ts q) s.seq z zw r k (cx.party.thread k)) :
    AgreeButOps (cx.each s g) s ∧ (cx.each s g).seq = s.seq + cx.active.length ∧
      (cx.each s g).slots =
        (cx.goes s (cx.party.takeG cx.dreg zw cx.tids (cx.accessOffer z)) (cx.accessGoes cls z zw)).slots ∧
      (cx.each s g).ops.map Op.issued = s.ops.map Op.issued ++ cx.issuedBy cls (fun k => (r k).kind) s.seq cx.tids := by
  refine each_issues party distinct fun k hk ops gs ts q => ?_
  rw [turns k hk]
  exact accessTurn_issues ordinary inside (counts k) (fun enabled => passes k (by simp [Cx.active, hk, enabled])) ops gs ts q

end

/-! ## Versioned loads (20 R399, R400) -/

section
variable {cx : Cx} {s : State} {d a b : BitVec 8}

/-- Outside a deterministic launch a load passes its checks where R159 does not refuse it. -/
theorem accessCause_load (ordinary : cx.launch.isDet = false) (need : Need) (addr ea n : Nat) (dst : Reg) (attr scope : Nat)
    (acq uni : Bool) (ver : Option Nat) :
    accessCause s cx.launch need addr (.load ea n dst attr scope acq uni ver) = checkEa s cx.launch need addr := by
  unfold accessCause
  cases checkEa s cx.launch need addr <;> simp [detCheck, ordinary, rangeBad]

/-- The version that sr.ver less a count names, modulo 2^24. -/
theorem version_eq (ver : Word) (k : Nat) :
    wrap ((ver.toNat % 2 ^ 24 : Nat) - (k : Int)) 24 = (ver.extractLsb' 0 24 - BitVec.ofNat 24 k).toNat := by
  rw [wrap_sub]
  congr 2
  simp [← BitVec.toNat_inj]

/-- The access of a versioned load for thread k. -/
def Cx.verReqOf (cx : Cx) (s : State) (n count : Nat) (k : Nat) : Req :=
  verReq n count (cx.party.thread k).ver.toNat false cx (cx.operands s k).a

theorem runVer_issues {i : Instr} {n count : Nat} (hr : Runs s i cx) (distinct : cx.tids.Nodup)
    (ordinary : cx.launch.isDet = false)
    (passes : ∀ k ∈ cx.active, verKind s cx.launch (cx.operands s k).a = false ∧
      checkEa s cx.launch { size := n, align := n, r := true, scr := false, acc := false } (cx.operands s k).a = none) :
    ∃ t, runVer s i n count = .next t ∧ AgreeButOps t s ∧ t.seq = s.seq + cx.active.length ∧
      t.slots = (cx.goes s (cx.zeroes cx.dwidth) (cx.accessGoes .ld cx.p.z cx.dwidth)).slots ∧
      t.ops.map Op.issued = s.ops.map Op.issued ++
        cx.issuedBy .ld (fun k => (cx.verReqOf s n count k).kind) s.seq cx.tids := by
  unfold runVer
  rw [runWord_issues hr.toIssues]
  refine ⟨_, rfl, each_accessTurns (r := cx.verReqOf s n count) (cx_party hr.context) distinct ordinary hr.inside (fun _ => rfl)
    (fun k hk => (accessCause_load ordinary ..).trans (passes k hk).2) fun k hk ops gs ts q => ?_⟩
  unfold Cx.accessTurn
  cases enabled : cx.enabled k with
  | true =>
    obtain ⟨versioned, allowed⟩ := passes k (by simp [Cx.active, hk, enabled])
    have versioned' : verKind (cx.stands s ops gs ts q) cx.launch (cx.operands s k).a = false := versioned
    have allowed' : checkEa (cx.stands s ops gs ts q) cx.launch
      { size := n, align := n, r := true, scr := false, acc := false } (cx.operands s k).a = none := allowed
    simp only [if_true, opnds_turnView, verReq, allowed', versioned', Bool.false_eq_true, if_false]
    rfl
  | false => rfl

theorem exec_uldv (hr : Runs s (.uldv d a b) cx) (ordinary : cx.launch.isDet = false)
    (versioned : verKind s cx.launch (cx.uniOperands s).a = false)
    (allowed : checkEa s cx.launch { size := 2 ^ (b.toNat % 8), align := 2 ^ (b.toNat % 8), r := true, scr := false, acc := false }
      (cx.uniOperands s).a = none) :
    exec (.uldv d a b) s = .next (cx.goes (s.issueAccess cx cx.tids .ld s.seq
      (.load (cx.uniOperands s).a (2 ^ (b.toNat % 8)) cx.dreg 0 6 false true (some
        ((cx.party.thread (cx.tids.headD 0)).ver.extractLsb' 0 24 - BitVec.ofNat 24 (b.toNat / 8)).toNat)))
      cx.party fun _ u => cx.issuedOne .ld u) := by
  show execUldv d a b s = _
  rw [execUldv, runWord_issues hr.toIssues, ← version_eq]
  unfold Cx.uniOperands Cx.operands at versioned allowed ⊢
  simp only [verReq, allowed, versioned, accessCause_load ordinary, Bool.false_eq_true, if_false, if_true]
  exact congrArg _ (mapGroup_goes fun k _ t => advance_inside hr.inside k _)

end

/-! ## An access of a whole group (R179) -/

/-- What a group that has issued one access leaves. -/
theorem issueAccess_goes (s : State) (cx : Cx) (cls : Cls) (kind : OpKind) (f : Nat → Thread → Thread) :
    let t := cx.goes (s.issueAccess cx cx.tids cls s.seq kind) cx.party f
    AgreeButOps t s ∧ t.seq = s.seq + 1 ∧ t.slots = (cx.goes s cx.party f).slots ∧
      t.ops.map Op.issued = s.ops.map Op.issued ++
        [{ id := s.seq, slot := cx.slot, tids := cx.tids, live := cx.tids, cls := some cls, kind := kind, phase := .issued }] := by
  obtain ⟨ops', added, joined⟩ := issueAccess_adds s cx cx.tids cls s.seq kind
  rw [added]
  exact ⟨rfl, rfl, rfl, joined⟩

/-! ## Loads and stores (R158 to R164, R179) -/

/-- The scope of an access (R162). -/
theorem scopeOr_eq (dflt c : Nat) : scopeOr dflt c = if c % 16 = 0 then dflt else c % 16 := by simp [scopeOr]

section
variable {i : Instr} {n : Nat}

theorem load_issues {w : Width} (hx : ∀ s, exec i s = runMem s i w (loadReq n)) :
    LaneIssues i .ld w (fun _ _ => { size := n, align := n, r := true }) (fun cx o => eaAdd o.a (cx.b.toInt * n))
      fun cx o => .load (eaAdd o.a (cx.b.toInt * n)) n cx.dreg cx.p.c (if cx.p.c % 16 = 0 then 6 else cx.p.c % 16)
        (cx.p.rm == 1) false none := by
  simp only [← scopeOr_eq]
  exact runMem_issues hx fun _ _ _ => ⟨rfl, rfl, rfl, rfl⟩
theorem uniLoad_issues (hx : ∀ s, exec i s = runUniMem s i (uloadReq n)) :
    UniIssues i .ld (fun _ => { size := n, align := n, r := true }) (fun cx o => eaAdd o.a (cx.b.toInt * n))
      fun cx o => .load (eaAdd o.a (cx.b.toInt * n)) n cx.dreg 0 6 false true none :=
  runUniMem_issues hx fun _ _ _ => ⟨rfl, rfl, rfl, rfl⟩
theorem store_issues (hx : ∀ s, exec i s = runMem s i .one (storeReq n)) :
    LaneIssues i .st .one (fun _ _ => { size := n, align := n, w := true }) (fun cx o => eaAdd o.a (cx.b.toInt * n))
      fun cx o => .store (eaAdd o.a (cx.b.toInt * n)) n (o.d % 2 ^ (8 * n)) cx.p.c
        (if cx.p.c % 16 = 0 then 6 else cx.p.c % 16) cx.p.rm false := by
  simp only [← scopeOr_eq]
  exact runMem_issues hx fun _ _ _ => ⟨rfl, rfl, rfl, rfl⟩
theorem uniStore_issues (hx : ∀ s, exec i s = runUniMem s i (ustoreReq n)) :
    UniIssues i .st (fun _ => { size := n, align := n, w := true }) (fun cx o => eaAdd o.a (cx.b.toInt * n))
      fun cx o => .store (eaAdd o.a (cx.b.toInt * n)) n (o.d % 2 ^ (8 * n)) 0 6 0 true :=
  runUniMem_issues hx fun _ _ _ => ⟨rfl, rfl, rfl, rfl⟩

end

end Sys2Proof.Machine

open Sys2Proof Sys2Proof.Machine

/-- Settles O23: each load is the one access that its size names; a versioned load's checks let it come to its access. -/
theorem loadsIssue : Obligations.LoadsIssue := by
  refine ⟨fun d a b => ⟨?_, ?_⟩, fun d a b => ⟨?_, ?_⟩⟩
  · simp only [List.forall_mem_cons]
    exact ⟨load_issues fun _ => rfl, load_issues fun _ => rfl, load_issues fun _ => rfl, load_issues fun _ => rfl,
      load_issues fun _ => rfl, List.forall_mem_nil _⟩
  · simp only [List.forall_mem_cons]
    exact ⟨uniLoad_issues fun _ => rfl, uniLoad_issues fun _ => rfl, uniLoad_issues fun _ => rfl, List.forall_mem_nil _⟩
  · simp only [List.forall_mem_cons, ← version_eq]
    exact ⟨fun s cx hr ordinary distinct passes => runVer_issues hr distinct ordinary passes,
      fun s cx hr ordinary distinct passes => runVer_issues hr distinct ordinary passes, List.forall_mem_nil _⟩
  · intro s cx hr ordinary n ea versioned allowed
    exact ⟨_, exec_uldv hr ordinary versioned allowed, issueAccess_goes ..⟩

/-- Settles O24: each store is the one access that its size names. -/
theorem storesIssue : Obligations.StoresIssue := by
  refine fun d a b => ⟨?_, ?_⟩
  · simp only [List.forall_mem_cons]
    exact ⟨store_issues fun _ => rfl, store_issues fun _ => rfl, store_issues fun _ => rfl, store_issues fun _ => rfl,
      store_issues fun _ => rfl, List.forall_mem_nil _⟩
  · simp only [List.forall_mem_cons]
    exact ⟨uniStore_issues fun _ => rfl, uniStore_issues fun _ => rfl, List.forall_mem_nil _⟩

/-- Settles O25: R168's operands are the two parts of D, and the class and the destination are those of the form. -/
theorem atomicsIssue : Obligations.AtomicsIssue := by
  intro d a b
  simp only [← scopeOr_eq]
  exact ⟨runMem_issues (req := atomReq b.toNat false false) (fun _ => rfl) fun _ _ _ => ⟨rfl, rfl, rfl, rfl⟩,
    runMem_issues (req := atomReq b.toNat true false) (fun _ => rfl) fun _ _ _ => ⟨rfl, rfl, rfl, rfl⟩,
    runUniMem_issues (req := atomReq b.toNat true true) (fun _ => rfl) fun _ _ _ => ⟨rfl, rfl, rfl, rfl⟩⟩

end

section
/-! Cleans and barrier set-ups at their issue (07_memory_access.md R173; 11_scratchpad_copies.md R253 to R256): the checks of a
range's ends, and the registration of a transaction barrier. -/

namespace Sys2Proof.Machine

/-! ## Cleans and invalidations (R173) -/

section
variable {cx : Cx} {s : State}

/-- An access that passes every check passes that of R159. -/
theorem checkEa_of_accessCause {l : Launch} {need : Need} {ea : Nat} {kind : OpKind}
    (passes : accessCause s l need ea kind = none) : checkEa s l need ea = none := by
  unfold accessCause at passes
  cases h : checkEa s l need ea with
  | none => rfl
  | some c => simp [h] at passes

/-- Where no thread offers a value, D takes none. -/
theorem takeG_none (p : Party) (r : Reg) (w : Width) (ks : List Nat) {val : Nat → Option Nat} (h : ∀ k, val k = none) :
    p.takeG r w ks val = p := by
  cases r <;> try rfl
  simp only [Party.takeG, Party.offer, h]
  exact List.foldl_fixed ks

/-- The operation of a clean or an invalidation for thread k. -/
def Cx.cleanReq (cx : Cx) (s : State) (mode : Nat) (write : Bool) (k : Nat) : Req :=
  { need := { size := 1, r := !write, w := write, scr := false, acc := false }, ea := (cx.operands s k).a, cls := .st,
    write := write, kind := .clean (cx.operands s k).a (cx.operands s k).d mode }

/-- A clean whose range begins and ends where its thread may reach issues one operation. -/
theorem runClean_issues {i : Instr} {mode : Nat} {write : Bool} (hr : Runs s i cx) (distinct : cx.tids.Nodup)
    (ordinary : cx.launch.isDet = false)
    (passes : ∀ k ∈ cx.active, let r := cx.cleanReq s mode write k
      accessCause s cx.launch r.need r.ea r.kind = none ∧ ((cx.operands s k).d ≠ 0 →
        checkEa s cx.launch r.need (eaAdd (cx.operands s k).a (((cx.operands s k).d : Int) - 1)) = none)) :
    ∃ t, runClean s i mode write = .next t ∧ AgreeButOps t s ∧ t.seq = s.seq + cx.active.length ∧
      t.slots = (cx.goes s cx.party (cx.accessGoes .st false cx.dwidth)).slots ∧
      t.ops.map Op.issued = s.ops.map Op.issued ++
        cx.issuedBy .st (fun k => (cx.cleanReq s mode write k).kind) s.seq cx.tids := by
  unfold runClean
  rw [runWord_issues hr.toIssues,
    ← takeG_none cx.party cx.dreg cx.dwidth cx.tids (val := cx.accessOffer false) fun k => by simp [Cx.accessOffer]]
  refine ⟨_, rfl, each_accessTurns (r := cx.cleanReq s mode write) (cx_party hr.context) distinct ordinary hr.inside
    (fun _ => rfl) (fun k hk => (passes k hk).1) fun k hk ops gs ts q => ?_⟩
  unfold Cx.accessTurn
  cases enabled : cx.enabled k with
  | true =>
    obtain ⟨first, last⟩ := passes k (by simp [Cx.active, hk, enabled])
    have first' : checkEa (cx.stands s ops gs ts q) cx.launch (cx.cleanReq s mode write k).need (cx.operands s k).a = none :=
      checkEa_of_accessCause first
    have last' : (if (cx.operands s k).d == 0 then none else checkEa (cx.stands s ops gs ts q) cx.launch
        (cx.cleanReq s mode write k).need (eaAdd (cx.operands s k).a (((cx.operands s k).d : Int) - 1))) = none := by
      split
      · rfl
      · next h => exact last (by simpa using h)
    unfold Cx.cleanReq at first' last'
    simp only [if_true, opnds_turnView, first', last', Option.orElse]
    rfl
  | false => rfl

end

/-! ## Barrier set-ups (11 R253, R256) -/

/-- Reserved bits of TBINIT's word. -/
theorem fld_reserved {x : Nat} (h : x < 2 ^ 25) : fld x 25 7 = 0 := by
  unfold fld
  omega
theorem fld_low (x n : Nat) : fld x 0 n = x % 2 ^ n := by simp [fld]

section
variable {cx : Cx} {s : State} {d a b : BitVec 8}

/-- The barrier that TBINIT names is to be registered, and is not yet (R253). -/
def Cx.registers (cx : Cx) (o : Opnds) : Bool := bitOf o.b 24 && !cx.launch.tbars.contains o.a
/-- The launch with that barrier in its list. -/
def Cx.registered (cx : Cx) (o : Opnds) (s : State) : State :=
  if cx.registers o then s.setLaunch { cx.launch with tbars := cx.launch.tbars ++ [o.a] } else s
/-- TBINIT's write, with the place that the launch gives a newly registered barrier's address (R253). -/
def tbinitKind (o : Opnds) (down : Option Nat) : OpKind := .tbinit o.a (o.b % 2 ^ 24) (bitOf o.b 24) down

theorem seq_registered (cx : Cx) (o : Opnds) (s : State) : (cx.registered o s).seq = s.seq := by
  unfold Cx.registered
  split <;> rfl
theorem ops_registered (cx : Cx) (o : Opnds) (s : State) : (cx.registered o s).ops = s.ops := by
  unfold Cx.registered
  split <;> rfl
theorem slots_goes_registered (cx : Cx) (o : Opnds) (s : State) (p : Party) (f : Nat → Thread → Thread) :
    (cx.goes (cx.registered o s) p f).slots = (cx.goes s p f).slots := by
  unfold Cx.registered
  split <;> rfl

/-- A TBINIT that names a count, sets no reserved bit and finds room registers its barrier and issues its write. -/
theorem exec_tbinit {o : Opnds} (hr : Runs s (.tbinit d a b) cx) (operands : cx.uniOperands s = o)
    (passes : accessCause s cx.launch { size := 16, align := 16, w := true, scr := false, acc := false } o.a
      (tbinitKind o none) = none)
    (count : o.b % 2 ^ 24 ≠ 0) (unreserved : o.b < 2 ^ 25)
    (room : bitOf o.b 24 = true → o.a ∉ cx.launch.tbars → cx.launch.tbars.length < 256) :
    exec (.tbinit d a b) s = .next (cx.goes
      ((cx.registered o s).issueAccess cx cx.tids .st (cx.registered o s).seq
        (tbinitKind o (if cx.registers o then cx.launch.downAt else none)))
      cx.party fun _ u => cx.issuedOne .st u) := by
  have operands' : cx.opnds (cx.view s.ref (cx.tids.headD 0)) = o := operands
  have good : (o.b % 2 ^ 24 == 0 || fld o.b 25 7 != 0 ||
      (bitOf o.b 24 && !cx.launch.tbars.contains o.a && decide (256 ≤ cx.launch.tbars.length))) = false := by
    rw [fld_reserved unreserved, beq_eq_false_iff_ne.2 count]
    simpa using room
  show execTbinit d a b s = _
  rw [execTbinit, runWord_issues hr.toIssues]
  unfold tbinitKind at passes
  simp only [operands', fld_low, passes, good, Bool.false_eq_true, if_false]
  exact congrArg _ (mapGroup_goes fun k _ t => advance_inside hr.inside k _)

/-- That place is the next of the launch's list at TDOWN, where it has one. -/
theorem down_eq (cx : Cx) (o : Opnds) : (if cx.registers o then cx.launch.downAt else none) =
    if cx.registers o = false ∨ cx.launch.tdown = 0 then none
    else some (eaAdd cx.launch.tdown (8 * cx.launch.tbars.length : Nat)) := by
  cases cx.registers o <;> simp [Launch.downAt]

theorem tbinit_issues {o : Opnds} (hr : Runs s (.tbinit d a b) cx) (operands : cx.uniOperands s = o)
    (passes : accessCause s cx.launch { size := 16, align := 16, w := true, scr := false, acc := false } o.a
      (tbinitKind o none) = none)
    (count : o.b % 2 ^ 24 ≠ 0) (unreserved : o.b < 2 ^ 25)
    (room : bitOf o.b 24 = true → o.a ∉ cx.launch.tbars → cx.launch.tbars.length < 256) :
    ∃ t, exec (.tbinit d a b) s = .next t ∧ AgreeButOps t (cx.registered o s) ∧ t.seq = s.seq + 1 ∧
      t.slots = (cx.goes s cx.party fun _ u => cx.issuedOne .st u).slots ∧
      t.ops.map Op.issued = s.ops.map Op.issued ++
        [{ id := s.seq, slot := cx.slot, tids := cx.tids, live := cx.tids, cls := some .st,
           kind := tbinitKind o (if cx.registers o = false ∨ cx.launch.tdown = 0 then none
             else some (eaAdd cx.launch.tdown (8 * cx.launch.tbars.length : Nat))), phase := .issued }] := by
  rw [← down_eq, ← seq_registered cx o s, ← ops_registered cx o s, ← slots_goes_registered cx o s]
  exact ⟨_, exec_tbinit hr operands passes count unreserved room, issueAccess_goes ..⟩

end

end Sys2Proof.Machine

open Sys2Proof Sys2Proof.Machine

/-- Settles O26: a clean's checks let it come to its operation, and TBINIT's set-up is registered before its write is issued. -/
theorem cleansAndSignalsIssue : Obligations.CleansAndSignalsIssue := by
  refine fun d a b => ⟨?_, ?_, ?_, ?_⟩
  · simp only [List.forall_mem_cons]
    exact ⟨fun s cx hr distinct ordinary passes => runClean_issues hr distinct ordinary passes,
      fun s cx hr distinct ordinary passes => runClean_issues hr distinct ordinary passes, List.forall_mem_nil _⟩
  · simp only [← scopeOr_eq, ← bitOf_toNat]
    refine runMem_issues (fun s => show execArrv d a b s = _ from rfl) ?_
    exact fun _ _ _ => ⟨rfl, rfl, rfl, rfl⟩
  · refine runUniMem_issues (fun s => show execAbinit d a b s = _ from rfl) ?_
    exact fun _ _ _ => ⟨rfl, rfl, rfl, rfl⟩
  · intro s cx hr o kind passes count unreserved room
    exact tbinit_issues hr rfl passes count unreserved room

end

section
/-! A prefetch of a line that DRAM shows under another cipher than its buffer's (07_memory_access.md R180, 19_package_memory.md
R390): the model's DRAM shows a sector as the cipher of its last access reads it, so that this use of the place changes its bytes. -/

namespace Sys2Proof.Machine

/-- An entry of an encrypted buffer of context 0: valid, readable, of 2 MiB, under key slot 1. -/
def encryptedEntry : Nat := 2 ^ 31 + 2 ^ 16 + 2 ^ 32 + 2 ^ 21 * 2 ^ 64

/-- Sector k of the buffer's first line: 1 was written under the buffer's cipher, and the last access, without a cipher, was
shown 0, which the free value Config.cipherText permits. -/
def rawShown (k : Nat) : Seal :=
  { base := some { key := 7, bver := 0, buf := 1, unit := k }, text := 1, now := none, shown := 0 }

/-- Thread 0 of a small launch issues, with w4:w5 at the first byte of that buffer, which is buffer 1; the die's TLB holds its
first page, in frame 16 of stack 0, and no L2 holds a line. -/
def beforePrefetch : State :=
  let s := installWord State.reset 0
  let s := { s with
    agenda := []
    issue := some { slot := 0, pc := 0, tids := [0], handler := false, pfx := none }
    bufs := [((0, 1), encryptedEntry)]
    keys := [(1, 7)]
    seals := (upTo 4).map fun k => (32768 + k, rawShown k) }
  let s := s.setDie 0 { s.die 0 with tlb := [({ ctx := 0, buf := 1, page := 0 }, mkLeaf 0 0 0 16)] }
  match s.party? 0 with
  | some p => s.setParty 0 { p with w := [0, 0, 0, 0, 0, 4096] }
  | none => s

theorem beforePrefetch_runs : ∃ cx, Runs beforePrefetch (.upref 0 4 0) cx := by
  have checks : ((cx? beforePrefetch (.upref 0 4 0)).any fun cx =>
      (encCheck cx.form cx.p (.upref 0 4 0) cx.d cx.a cx.b cx.party.nv cx.issue.handler).isNone && !cx.detReflo &&
        !cx.atEnd) = true := by decide +kernel
  obtain ⟨cx, context, rest⟩ := Option.any_eq_true _ _ |>.1 checks
  simp only [Bool.and_eq_true, Option.isNone_iff_eq_none, Bool.not_eq_true'] at rest
  obtain ⟨⟨encoding, time⟩, inside⟩ := rest
  exact ⟨cx, ⟨context, encoding, time⟩, inside⟩

/-- A byte of DRAM after an instruction that goes on. -/
def dramByteAfter (i : Instr) (s : State) (a : Nat) : Option Byte :=
  match exec i s with
  | .next t => some (Memory.get t.dram a)
  | .fault _ | .refused _ => none

/-- UPREF leaves the text where the raw bytes stood. -/
theorem prefetch_changes_dram : dramByteAfter (.upref 0 4 0) beforePrefetch (16 * 2 ^ 16) = some 1 ∧
    Memory.get beforePrefetch.dram (16 * 2 ^ 16) = 0 := by decide +kernel

theorem beforePrefetch_l2 : beforePrefetch.l2 = [] := by decide +kernel

end Sys2Proof.Machine

open Sys2Proof Sys2Proof.Machine

/-- Refutes O27: the slices have room, but the prefetched line is shown under no cipher and its buffer is encrypted, so that the
prefetch rewrites DRAM (State.reach, State.unsealLine). The statement lacks the premise that the line is shown under its buffer's
cipher. -/
theorem not_fencesAndPrefetchesComplete : ¬ Obligations.FencesAndPrefetchesComplete := by
  intro h
  obtain ⟨cx, runs⟩ := beforePrefetch_runs
  obtain ⟨t, run, -, dram, -⟩ := (h 0 4 0).2 beforePrefetch cx runs
  obtain ⟨after, before⟩ := prefetch_changes_dram
  rw [dramByteAfter, run] at after
  simp only [Option.some.injEq] at after
  have room (line : Nat) : (l2SliceOf beforePrefetch cx.die line).length + 4 ≤ 2 ^ 15 := by simp [l2SliceOf, beforePrefetch_l2]
  rw [dram room, before] at after
  exact absurd after (by decide)

end

section
/-! The launch's tables (08_ordering.md R201, R202; 15_die_memory.md R326, R330): what a uniform operation on tables completes
with, the entry that a search of a table finds, and what combining the lines of a range leaves. -/

namespace Sys2Proof.Machine

/-! ## Uniform operations on tables (01 R17) -/

section
variable {s t : State} {i : Instr} {cx : Cx} {f : Cx → State → Opnds → State × UniRes} {x : Nat}

/-- A word for D is taken on the party, and the group goes on. -/
theorem tableGives_of_val (hx : exec i s = runTable s i f) (hr : Runs s i cx)
    (h : f cx s (cx.uniOperands s) = (t, .val x)) : TableGives s i cx t x := by
  unfold Cx.uniOperands Cx.operands at h
  rw [TableGives, hx, runTable, runWord_issues hr.toIssues, h]
  exact congrArg _ (mapGroup_goes fun k _ u => advance_inside hr.inside k u)

/-- Without a result the group goes on. -/
theorem tableDone_of_none (hx : exec i s = runTable s i f) (hr : Runs s i cx)
    (h : f cx s (cx.uniOperands s) = (t, .none)) : TableDone s i cx t := by
  unfold Cx.uniOperands Cx.operands at h
  rw [TableDone, hx, runTable, runWord_issues hr.toIssues, h]
  exact congrArg _ (mapGroup_goes fun k _ u => advance_inside hr.inside k u)

end

/-! ## Entries and handles -/

/-- A search of a table from entry 0 finds the lowest entry with a property. -/
theorem find_upTo_eq_some {n e : Nat} {p : Nat → Bool} : (upTo n).find? p = some e ↔ Lowest n e fun f => p f = true := by
  simp only [upTo, Lowest, List.find?_range_eq_some, List.mem_range, Bool.not_eq_true', Bool.not_eq_true]
  exact and_left_comm
theorem find_upTo_eq_none {n : Nat} {p : Nat → Bool} : (upTo n).find? p = none ↔ ∀ f < n, p f = false := by
  simp [List.find?_eq_none]

/-- A handle without reserved bits is an entry and a generation. -/
theorem fld_handle {x : Nat} (h : x < 2 ^ 24) : fld x 0 8 = x % 256 ∧ fld x 8 16 = x / 256 ∧ fld x 24 8 = 0 := by
  unfold fld
  omega

/-! ## Binding (08 R201, R202) -/

/-- A live entry of the binding table binds the region and the object that RBIND's operands name. -/
def Binding.Binds (x : Binding) (o : Opnds) : Prop := x.live = true ∧ x.base = o.a ∧ x.len = o.d ∧ x.obj = o.b

/-- RBIND's test of an entry. -/
theorem binds_iff (x : Binding) (o : Opnds) :
    (x.live && x.base == o.a && x.len == o.d && x.obj == o.b) = true ↔ x.Binds o := by
  simp only [Binding.Binds, Bool.and_eq_true, beq_iff_eq, and_assoc]

section
variable {s : State} {cx : Cx} {d a b : BitVec 8} {e : Nat} {o : Opnds}

/-- RBIND of a pair that stands in the table (R201). -/
theorem rbind_bound (hr : Runs s (.rbind d a b) cx) (operands : cx.uniOperands s = o)
    (passes : rbindCheck s cx.launch o.d o.a o.b = none) (lowest : Lowest 256 e fun f => (cx.launch.bindAt f).Binds o) :
    TableGives s (.rbind d a b) cx s (handleOf (cx.launch.bindAt e).gen e) := by
  simp only [← binds_iff, ← find_upTo_eq_some] at lowest
  refine tableGives_of_val (show execRbind d a b s = _ from rfl) hr ?_
  simp only [operands, passes, lowest]

/-- RBIND of a pair that no entry binds takes the lowest free entry (R201). -/
theorem rbind_free (hr : Runs s (.rbind d a b) cx) (operands : cx.uniOperands s = o)
    (passes : rbindCheck s cx.launch o.d o.a o.b = none) (unbound : ∀ f < 256, ¬(cx.launch.bindAt f).Binds o)
    (lowest : Lowest 256 e fun f => (cx.launch.bindAt f).live = false) :
    let gen := ((cx.launch.bindAt e).gen + 1) % 2 ^ 16
    TableGives s (.rbind d a b) cx
      (s.setLaunch { cx.launch with
        binds := setAt {} cx.launch.binds e { base := o.a, len := o.d, obj := o.b, live := true, gen := gen } })
      (handleOf gen e) := by
  simp only [← binds_iff, Bool.not_eq_true, ← find_upTo_eq_none] at unbound
  simp only [← Bool.not_eq_true', ← find_upTo_eq_some] at lowest
  refine tableGives_of_val (show execRbind d a b s = _ from rfl) hr ?_
  simp only [operands, passes, unbound, lowest]

/-- RUNBIND of a handle of the entry's generation (R202). -/
theorem runbind_done (hr : Runs s (.runbind d a b) cx) (operands : cx.uniOperands s = o) (unreserved : o.a < 2 ^ 24)
    (current : (cx.launch.bindAt (o.a % 256)).gen = o.a / 256) :
    TableDone s (.runbind d a b) cx
      (if (cx.launch.bindAt (o.a % 256)).live then
        s.setLaunch { cx.launch with
          binds := setAt {} cx.launch.binds (o.a % 256) { cx.launch.bindAt (o.a % 256) with live := false } }
      else s) := by
  obtain ⟨entry, gen, reserved⟩ := fld_handle unreserved
  refine tableDone_of_none (show execRunbind d a b s = _ from rfl) hr ?_
  simp only [operands, entry, gen, reserved, current, bne_self_eq_false, Bool.false_eq_true, if_false]
  exact (apply_ite (·, UniRes.none) _ _ _).symm

end

/-! ## What combining a line leaves (15 R328, R329) -/

/-- Steps that leave the launches leave them one after another. -/
theorem launches_foldl {α : Type} {f : State → α → State} (h : ∀ s x, (f s x).launches = s.launches) (xs : List α)
    (s : State) : (xs.foldl f s).launches = s.launches :=
  List.foldlRecOn (motive := fun t => t.launches = s.launches) xs f rfl fun t same x _ => (h t x).trans same

section
variable (s : State) (die line ppa n x : Nat)

@[simp] theorem launches_putL2 (l : L2Line) : (s.putL2 die line l).launches = s.launches := rfl
@[simp] theorem launches_dropInv : (dropInv s die line).launches = s.launches := rfl
@[simp] theorem launches_writeBack : (writeBack s die line).launches = s.launches := by
  unfold writeBack
  split <;> rfl
@[simp] theorem launches_l2Evict : (l2Evict s die line).launches = s.launches := by
  unfold l2Evict
  split
  · split <;> simp
  · rfl
@[simp] theorem launches_l2Make : (l2Make s die line).launches = s.launches := by
  unfold l2Make
  split
  · rfl
  · split <;> simp
@[simp] theorem launches_l2Own (mask : Nat) : (l2Own s die line mask).launches = s.launches := by
  simp only [l2Own, launches_putL2, launches_dropInv]
  refine (launches_foldl (fun t d => ?_) allDies _).trans (by simp)
  split
  · rfl
  · split <;> rfl
@[simp] theorem launches_l2Write : (l2Write s die ppa n x).launches = s.launches := by
  simp only [l2Write]
  split <;> simp
@[simp] theorem launches_dirWrite : (dirWrite s ppa n x).launches = s.launches := by
  simp only [dirWrite]
  refine launches_foldl (fun t d => ?_) allDies s
  split <;> simp
@[simp] theorem launches_freshen : (freshen s die line).launches = s.launches := by
  unfold freshen
  split <;> rfl
@[simp] theorem launches_freshenAll : (freshenAll s line).launches = s.launches := by
  unfold freshenAll
  refine (launches_foldl (fun t core => ?_) _ _).trans (launches_foldl (fun t d => launches_freshen t d line) _ s)
  split <;> rfl
@[simp] theorem launches_applyPartial (p : Partial) : (applyPartial s p).launches = s.launches := by
  rw [applyPartial, launches_freshenAll]
  split <;> simp
@[simp] theorem launches_combine (lid : Nat) : (combine s lid line).launches = s.launches := by
  unfold combine
  exact (launches_foldl (fun t core => State.launches_setCore t core _) _ _).trans (launches_foldl launches_applyPartial _ s)
@[simp] theorem launches_combineRange (lid : Nat) (r : Range) : (combineRange s lid r).launches = s.launches :=
  launches_foldl (fun t line => launches_combine t line lid) _ s

end

/-! ## Commutative ranges (15 R326, R330) -/

section
variable {s : State} {cx : Cx} {d a b : BitVec 8} {e : Nat} {o : Opnds}

/-- CRDECL takes the lowest free entry (R326). -/
theorem crdecl_free (hr : Runs s (.crdecl d a b) cx) (operands : cx.uniOperands s = o)
    (passes : crdeclCheck s cx.launch o.d o.a o.b = none)
    (lowest : Lowest 16 e fun f => (cx.launch.rangeEntry f).live = false) :
    let gen := ((cx.launch.rangeEntry e).gen + 1) % 2 ^ 16
    TableGives s (.crdecl d a b) cx
      (s.setLaunch { cx.launch with
        ranges := setAt {} cx.launch.ranges e
          { base := o.a, len := o.d, op := o.b % 4, ty := o.b / 16 % 8, die := cx.die, live := true, gen := gen } })
      (handleOf gen e) := by
  simp only [← Bool.not_eq_true', ← find_upTo_eq_some] at lowest
  have type : fld o.b 4 3 = o.b / 16 % 8 := rfl
  refine tableGives_of_val (show execCrdecl d a b s = _ from rfl) hr ?_
  simp only [operands, passes, lowest, Option.getD_some, fld_low, type, Nat.reducePow]

/-- CREND of a live handle for which nothing waits (R329, R330). -/
theorem crend_done (hr : Runs s (.crend d a b) cx) (operands : cx.uniOperands s = o) (unreserved : o.a < 2 ^ 24)
    (entry : o.a % 256 = e) (listed : e < 16) (live : (cx.launch.rangeEntry e).live = true)
    (current : (cx.launch.rangeEntry e).gen = o.a / 256)
    (accepted : ∀ x ∈ openAccesses s cx.slot cx.tids cx.issue.handler, x.updates (cx.launch.rangeEntry e) = false)
    (unheld : (rangeLines s cx.launch.lid (cx.launch.rangeEntry e)).any (combineBusy s cx.launch.lid) = false) :
    TableDone s (.crend d a b) cx (endRange s cx.launch e) := by
  obtain ⟨low, gen, reserved⟩ := fld_handle unreserved
  have settled : ((openAccesses s cx.slot cx.tids cx.issue.handler).any fun x => x.updates (cx.launch.rangeEntry e)) = false :=
    List.any_eq_false.2 fun x hx => by simp [accepted x hx]
  refine tableDone_of_none (show execCrend d a b s = _ from rfl) hr ?_
  simp only [operands, low, gen, reserved, entry, live, current, settled, unheld, Nat.not_le.2 listed, bne_self_eq_false,
    Bool.not_true, Bool.or_false, Bool.false_eq_true, decide_false, if_false]

/-- Once a range has ended its entry is free, and nothing else of the launch differs. -/
theorem launch_endRange {l : Launch} (found : s.launch? l.lid = some l) :
    (endRange s l e).launch? l.lid =
      some { l with ranges := setAt {} l.ranges e { l.rangeEntry e with live := false } } := by
  have kept : (combineRange s l.lid (l.rangeEntry e)).launch? l.lid = some l := by
    rw [State.launch?, launches_combineRange]
    exact found
  simp [endRange, State.launch_setLaunch, kept]

end

end Sys2Proof.Machine

open Sys2Proof Sys2Proof.Machine

/-- Settles O31: each instruction's checks pass, its search finds the lowest entry, and combining lines leaves the launches. -/
theorem bindingsAndRangesAreKept : Obligations.BindingsAndRangesAreKept := by
  refine ⟨fun s d a b cx e => ⟨fun hr passes => ⟨rbind_bound hr rfl passes, rbind_free hr rfl passes⟩, ?_⟩,
    fun s d a b cx e => ⟨fun hr passes => crdecl_free hr rfl passes, ?_⟩⟩
  · rintro hr unreserved rfl current
    exact runbind_done hr rfl unreserved current
  · intro hr unreserved entry listed live current found accepted unheld
    exact ⟨crend_done hr rfl unreserved entry.symm listed live current accepted unheld, launch_endRange found⟩

end

section
/-! Causes that no thread can handle (09_traps.md R222) and the return from a handler (09_traps.md R216, R228;
19_package_memory.md R389). -/

namespace Sys2Proof.Machine

/-! ## Escalation (R222) -/

/-- A cause for a thread in handler mode, or of a launch without a handler, leaves the thread as it is and stops its party. -/
theorem deliver_escalates {hpc : Pc} {t : Thread} (h : hpc = 0#16 ∨ t.handler = true) (tpc : Pc) (k : Nat) (tr : Trap) :
    deliver hpc tpc k tr t = (t, some { cause := tr.cause, faddr := tr.taddr, pc := t.pc.toNat, tid := k }) := by
  rcases h with h | h <;> simp [deliver, h]

/-- No thread of a party that escalates may join a group. -/
theorem eligible_of_escalates {s : State} {slot : Nat} {p : Party} (party : s.party? slot = some p) (esc : p.esc.isSome = true)
    (k : Nat) : eligible s slot p k = false := by
  have stopped : slotLive s slot = false := by simp [slotLive, party, Option.isNone_eq_false_iff.2 esc]
  simp [eligible, stopped]
theorem groupOk_of_escalates {s : State} {slot : Nat} {p : Party} (party : s.party? slot = some p) (esc : p.esc.isSome = true)
    (pc : Pc) (handler : Bool) (tids : List Nat) : groupOk s slot pc handler tids = false := by
  unfold groupOk
  rw [party]
  cases tids <;> simp [eligible_of_escalates party esc]

/-! ## TRET (R228) -/

/-- The segment of the PC that sr.tpc names. -/
theorem tpc_segment (tpc : Word) : tpc.toNat % 2 ^ 16 / 1024 = (tpc.extractLsb' 10 6).toNat := by
  rw [BitVec.extractLsb'_toNat, Nat.shiftRight_eq_div_pow]
  omega

/-- A thread that returns is in normal mode at the PC that its sr.tpc names, and keeps a BAR's arrival only for that PC
(R216). -/
theorem Thread.leave_eq (t : Thread) : t.leave = { t with
    handler := false, pc := t.tpc.extractLsb' 0 16,
    barKept := Option.filter (fun k => k.1 == t.tpc.extractLsb' 0 16) t.barKept } := rfl

/-- Every thread of the group is in handler mode, and may enter the segment that its sr.tpc names. -/
def Cx.Returns (cx : Cx) (s : State) : Prop :=
  ∀ k ∈ cx.tids, (cx.party.thread k).handler = true ∧
    segCheck s cx.core cx.launch ((cx.party.thread k).tpc.extractLsb' 10 6).toNat = none

section
variable {s : State} {cx : Cx} (h : cx.Returns s)
include h

theorem Cx.Returns.tretOne {k : Nat} (hk : k ∈ cx.tids) :
    cx.tretOne s k (cx.party.thread k) = ((cx.party.thread k).leave, none) := by
  obtain ⟨handler, enters⟩ := h k hk
  simp only [Cx.tretOne, handler, tpc_segment, enters]
  rfl

/-- The operations whose handlers are left are those that the group's threads serve. -/
theorem Cx.Returns.mem_tretServed {id : Nat} :
    id ∈ cx.tretServed s ↔ ∃ k ∈ cx.tids, (cx.party.thread k).serving = some id := by
  simp only [Cx.tretServed, List.mem_filterMap]
  refine exists_congr fun k => and_congr_right fun hk => ?_
  obtain ⟨handler, enters⟩ := h k hk
  simp only [handler, tpc_segment, enters]
  simp

/-- An operation goes on that waited for the return from a handler that a thread of the group leaves (19 R389). -/
theorem Cx.Returns.untilTret_iff {o : Op} :
    o.untilTret.any (cx.tretServed s).contains = true ↔
      ∃ id, o.untilTret = some id ∧ ∃ k ∈ cx.tids, (cx.party.thread k).serving = some id := by
  simp [Option.any_eq_true, h.mem_tretServed]

end

end Sys2Proof.Machine

open Sys2Proof Sys2Proof.Machine

/-- Settles O17: BKPT and a word that fails a check deliver one cause to the one thread, which cannot take it; and an
escalation makes every thread of its party ineligible. -/
theorem escalationStopsTheParty : Obligations.EscalationStopsTheParty := by
  refine ⟨fun s d a b cx k hi single enabled stuck hk first => ?_,
    fun s i cx k c hcx notPrefix assigned hc single stuck hk first => ?_,
    fun s slot pc handler tids p party esc => groupOk_of_escalates party esc pc handler tids⟩
  · show execBkpt d a b s = _
    rw [execBkpt, runWord_issues hi]
    refine congrArg _ (mapGroup_escalates single hk first ((if_pos enabled).trans ?_))
    exact deliver_escalates stuck cx.pc k _
  · obtain ⟨-, -, encoded⟩ := cx_names hcx
    obtain ⟨body, hbody⟩ := exec_word i encoded notPrefix assigned
    rw [hbody, runWord_fails hcx hc]
    exact congrArg _ (mapGroup_escalates single hk first (deliver_escalates stuck cx.pc k { cause := c }))

/-- Settles O18: each thread leaves its handler, and the operations that the group's TRET releases are those that wait for a
handler which one of its threads serves. -/
theorem tretReturns : Obligations.TretReturns := by
  intro s d a b cx hi returns
  have goes : cx.mapGroup s (cx.tretOne s) = cx.goes s cx.party fun _ u => u.leave :=
    mapGroup_goes_at fun _ => Cx.Returns.tretOne returns
  refine ⟨_, (show execTret d a b s = _ by rw [execTret, runWord_issues hi, goes]), ?_, ?_⟩
  · simp only [← Thread.leave_eq]
    rfl
  · refine List.map_congr_left fun o _ => ?_
    simp only [Bool.and_eq_true, beq_iff_eq, Cx.Returns.untilTret_iff returns]

end

section
/-! What an access to memory leaves: the slots and the reference time (07_memory_access.md R157 to R170, 15_die_memory.md R316 to
R330, 19_package_memory.md R384 to R390), and with them what a record posted to a ring leaves (11_scratchpad_copies.md R272). -/

namespace Sys2Proof.Machine

/-! ## The slots and the time -/

/-- What no access to memory changes: the slots, and the reference time. -/
def State.standing (s : State) : List (Nat × Slot) × Nat := (s.slots, s.ref)

theorem standing_of_eq {s t : State} (slots : t.slots = s.slots) (ref : t.ref = s.ref) : t.standing = s.standing :=
  congrArg₂ Prod.mk slots ref
/-- What each of some steps leaves, they leave one after another. -/
theorem foldl_keeps {α σ τ : Type} (read : σ → τ) {f : σ → α → σ} (h : ∀ s x, read (f s x) = read s) (xs : List α) (s : σ) :
    read (xs.foldl f s) = read s :=
  List.foldlRecOn (motive := fun t => read t = read s) xs f rfl fun t same x _ => (h t x).trans same

/-- The state that an access leaves, whatever came of it. -/
def Got.state : Got → State
  | .ok _ s | .hold _ s | .busy s | .fault _ _ s => s

/-! ## Copies of lines (15 R316 to R321) -/

section
variable (s : State) (die line ppa n x : Nat)

@[simp] theorem standing_setDie (d : Die) : (s.setDie die d).standing = s.standing := rfl
@[simp] theorem standing_setCore (core : Nat) (c : Core) : (s.setCore core c).standing = s.standing := rfl
@[simp] theorem standing_delL2 : (s.delL2 die line).standing = s.standing := rfl
@[simp] theorem standing_setL2 (l : L2Line) : (s.setL2 die line l).standing = s.standing := rfl
@[simp] theorem standing_putL2 (l : L2Line) : (s.putL2 die line l).standing = s.standing := rfl
@[simp] theorem standing_track : (s.track line).standing = s.standing := rfl
@[simp] theorem standing_dropInv : (dropInv s die line).standing = s.standing := rfl
@[simp] theorem standing_l1DropLine (core : Nat) : (l1DropLine s core line).standing = s.standing := rfl
@[simp] theorem standing_writeBack : (writeBack s die line).standing = s.standing := by
  unfold writeBack
  split <;> rfl
@[simp] theorem standing_snoopRead : (snoopRead s die line).standing = s.standing := by
  unfold snoopRead
  split
  · split <;> rfl
  · rfl
@[simp] theorem standing_l2Evict : (l2Evict s die line).standing = s.standing := by
  unfold l2Evict
  split
  · split <;> simp
  · rfl
@[simp] theorem standing_l2Make : (l2Make s die line).standing = s.standing := by
  unfold l2Make
  split
  · rfl
  · split <;> simp
@[simp] theorem standing_l2Fill (mask : Nat) : (l2Fill s die line mask).standing = s.standing := by
  simp only [l2Fill, standing_setL2, standing_dropInv]
  exact (foldl_keeps State.standing (fun t d => standing_snoopRead t d line) _ _).trans (standing_l2Make s die line)
@[simp] theorem standing_l2Fetch (mask : Nat) : (l2Fetch s die line mask).standing = s.standing := by
  unfold l2Fetch
  split
  · split
    · rfl
    · split <;> simp
  · simp
@[simp] theorem standing_l2Read : (l2Read s die ppa n).2.standing = s.standing := standing_l2Fetch ..
@[simp] theorem standing_l2Own (mask : Nat) : (l2Own s die line mask).standing = s.standing := by
  simp only [l2Own, standing_putL2, standing_dropInv]
  refine (foldl_keeps State.standing (fun t d => ?_) allDies _).trans (by simp)
  split
  · rfl
  · split <;> rfl
@[simp] theorem standing_l2Write : (l2Write s die ppa n x).standing = s.standing := by
  simp only [l2Write]
  split <;> simp
@[simp] theorem standing_dirRead : (dirRead s ppa n).2.standing = s.standing :=
  foldl_keeps State.standing (fun t d => by split <;> simp) allDies s
@[simp] theorem standing_dirWrite : (dirWrite s ppa n x).standing = s.standing := by
  refine (show (dirWrite s ppa n x).standing = State.standing (List.foldl _ s allDies) from rfl).trans ?_
  refine foldl_keeps State.standing (fun t d => ?_) allDies s
  split <;> simp
@[simp] theorem standing_flushLine (keep : Bool) : (flushLine s line keep).standing = s.standing := by
  refine foldl_keeps State.standing (fun t d => ?_) allDies s
  split
  · rfl
  · extract_lets u
    have back : u.standing = t.standing := by unfold u; split <;> simp
    split <;> simp [back]
@[simp] theorem standing_l1Update (core : Nat) : (l1Update s core ppa n).standing = s.standing := by
  unfold l1Update
  split <;> rfl
@[simp] theorem standing_freshen : (freshen s die line).standing = s.standing := by
  unfold freshen
  split <;> simp
@[simp] theorem standing_storeThrough (core : Nat) : (storeThrough s core ppa n x).standing = s.standing := by
  simp [storeThrough]

/-! ## Encrypted sectors (19 R390) -/

@[simp] theorem standing_reseal (sector : Nat) (c : Option Cipher) : (s.reseal sector c).standing = s.standing := by
  unfold State.reseal
  exact standing_of_eq rfl rfl
@[simp] theorem standing_dropCopies : (dropCopies s line).standing = s.standing :=
  (foldl_keeps State.standing (fun t c => standing_l1DropLine t line c) _ _).trans (standing_flushLine s line false)
@[simp] theorem standing_unsealLine (c : Nat → Option Cipher) : (s.unsealLine line c).standing = s.standing := by
  unfold State.unsealLine
  split
  · rfl
  · exact (foldl_keeps State.standing (fun t k => standing_reseal t _ _) _ _).trans (standing_dropCopies s line)

end

/-! ## Translation (19 R384 to R386) -/

section
variable (s : State) (g : Ag) (ea n x : Nat)

@[simp] theorem standing_noteSpread (e ppa : Nat) : (s.noteSpread e ppa).standing = s.standing := by
  unfold State.noteSpread
  extract_lets k
  split <;> rfl
@[simp] theorem standing_noteUse (idx e y ppa : Nat) : (s.noteUse idx e y ppa).standing = s.standing := by
  simp [State.noteUse]
@[simp] theorem standing_enterTlb (die : Nat) (k : PageKey) (leaf : Nat) : (enterTlb s die k leaf).standing = s.standing :=
  standing_setDie ..
@[simp] theorem standing_walkDone (die : Nat) (k : PageKey) (e y : Nat) : (walkDone s die k e y).standing = s.standing := by
  rw [show @walkDone = delta% @walkDone from rfl]
  beta_reduce
  extract_lets t
  have read : t.standing = s.standing := foldl_keeps State.standing (fun u a => by split <;> simp) _ s
  split
  · split
    · exact read
    · exact (standing_enterTlb ..).trans read
  · exact read
@[simp] theorem standing_translated (die : Nat) (k : PageKey) (e y : Nat) : (s.translated die k e y).standing = s.standing := by
  unfold State.translated
  extract_lets t
  have walked : t.standing = s.standing := by unfold t; split <;> simp
  split
  · simp [walked]
  · exact walked
@[simp] theorem standing_reach : (s.reach g ea).standing = s.standing := by
  unfold State.reach
  split
  · split <;> simp
  · rfl
@[simp] theorem standing_startCow (k : PageKey) : (startCow s k).standing = s.standing := by
  unfold startCow
  split <;> rfl

/-! ## Combining (15 R328, R329) -/

@[simp] theorem standing_freshenAll (line : Nat) : (freshenAll s line).standing = s.standing :=
  (foldl_keeps State.standing (fun t c => by split <;> simp) _ _).trans
    (foldl_keeps State.standing (fun t d => standing_freshen t d line) _ s)
@[simp] theorem standing_applyPartial (p : Partial) : (applyPartial s p).standing = s.standing := by
  simp only [applyPartial, standing_freshenAll]
  split <;> simp
@[simp] theorem standing_combine (lid line : Nat) : (combine s lid line).standing = s.standing :=
  (foldl_keeps State.standing (fun t c => standing_setCore t c _) _ _).trans
    (foldl_keeps State.standing standing_applyPartial _ s)

/-! ## Places (07 R170, 15 R320) -/

@[simp] theorem standing_readPlace (p : Place) : (readPlace s g p n).2.standing = s.standing := by
  unfold readPlace
  split
  · rfl
  · rfl
  · extract_lets t
    have combined : t.standing = s.standing := by simp [t]
    split <;> simp [combined]
  · rfl
@[simp] theorem standing_writePlace (p : Place) : (writePlace s g p n x).standing = s.standing := by
  unfold writePlace
  split
  · rfl
  · rfl
  · split <;> simp
  · rfl
@[simp] theorem standing_singlePoint (core ppa : Nat) (f : Nat → Nat) :
    (singlePoint s core ppa n f).2.standing = s.standing := by
  unfold singlePoint
  extract_lets die line old
  split
  · split <;> simp
  · split <;> simp
@[simp] theorem standing_rmwPlace (p : Place) (f : Nat → Nat) : (rmwPlace s g p n f).2.standing = s.standing := by
  unfold rmwPlace
  split
  · rfl
  · rfl
  · simp
  · rfl

/-! ## Addresses (07 R158, 28 R470) -/

@[simp] theorem standing_peerGot (pkg ridx : Nat) (a : PeerAct) :
    (peerGot s g pkg ridx ea n a).state.standing = s.standing := by
  unfold peerGot
  extract_lets +onlyGivenNames m
  split
  · rfl
  · split
    · rfl
    · split
      · rfl
      · extract_lets +onlyGivenNames answered u waiting
        have sent : answered.standing = s.standing := by unfold answered; split <;> rfl
        have asked : waiting.standing = s.standing := by unfold waiting; split <;> rfl
        split
        · exact sent
        · exact sent
        · split
          · exact sent
          · exact asked
        · exact asked
@[simp] theorem standing_busyGot (loc : State → Loc) : (busyGot s ea loc).state.standing = s.standing := by
  unfold busyGot
  split <;> rfl
@[simp] theorem standing_readLine : (readLine s g ea n).state.standing = s.standing := by
  unfold readLine
  extract_lets view d m len seen
  split
  · rfl
  · rfl
  · rfl
  · exact standing_busyGot ..
  · split
    · rename_i answer
      exact (congrArg (fun r => r.state.standing) answer).symm.trans (standing_peerGot ..)
    · exact standing_peerGot ..
  · split
    · rfl
    · split
      rename_i placed
      exact (congrArg (fun r => r.2.standing) placed).symm.trans ((standing_readPlace ..).trans (standing_reach ..))
  · rfl
  · rfl
theorem standing_readEaFrom (f : Nat) : (readEaFrom g f s ea n).state.standing = s.standing := by
  induction f generalizing s ea n with
  | zero => rfl
  | succ f ih =>
    rw [readEaFrom]
    have first := standing_readLine s g ea (min n (32 - ea % 32))
    split
    · rename_i y t line
      rw [line] at first
      split
      · exact first
      · have rest := ih t (ea + min n (32 - ea % 32)) (n - min n (32 - ea % 32))
        split
        · rename_i others
          rw [others] at rest
          exact rest.trans first
        · exact rest.trans first
    · exact first
@[simp] theorem standing_readEa : (readEa s g ea n).state.standing = s.standing := by
  unfold readEa
  split
  · rfl
  · exact standing_readEaFrom ..
theorem standing_writeEaFrom (f : Nat) : (writeEaFrom g f s ea n x).state.standing = s.standing := by
  induction f generalizing s ea n x with
  | zero => rfl
  | succ f ih =>
    rw [writeEaFrom]
    split
    · rfl
    · split
      · rfl
      · rfl
      · exact standing_busyGot ..
      · exact standing_startCow ..
      · split
        · rename_i t answer
          have sent : t.standing = s.standing :=
            (congrArg (fun r => r.state.standing) answer).symm.trans (standing_peerGot ..)
          split
          · exact sent
          · exact (ih ..).trans sent
        · exact standing_peerGot ..
      · extract_lets t
        have written : t.standing = s.standing := (standing_writePlace ..).trans (standing_reach ..)
        split
        · exact written
        · exact (ih ..).trans written
@[simp] theorem standing_writeEa : (writeEa s g ea n x).state.standing = s.standing := by
  unfold writeEa
  split
  · rfl
  · exact standing_writeEaFrom ..
@[simp] theorem standing_rmwEa (a : PeerAct) : (rmwEa s g ea n a).state.standing = s.standing := by
  unfold rmwEa
  extract_lets f
  split
  · rfl
  · split
    · rfl
    · rfl
    · exact standing_busyGot ..
    · exact standing_startCow ..
    · exact standing_peerGot ..
    · split
      · rfl
      · exact (standing_rmwPlace ..).trans (standing_reach ..)

end

/-! ## Rings (11 R272) -/

/-- An access that ended well left them. -/
theorem standing_of_ok {s t : State} {r : Got} {y : Nat} (h : r.state.standing = s.standing) (ok : r = .ok y t) :
    t.standing = s.standing := by
  rw [ok] at h
  exact h

section
variable (s : State) (g : Ag) (ring : Nat)

@[simp] theorem standing_reserveSlot : (reserveSlot s g ring).state.standing = s.standing := by
  have read := standing_readEa s g ring 20
  unfold reserveSlot
  split
  · rename_i ok
    have block := standing_of_ok read ok
    split
    · exact block
    · exact (standing_rmwEa ..).trans block
  · exact read
@[simp] theorem standing_writePieces (ps : List (Nat × Nat × Nat)) : (writePieces g ps s).state.standing = s.standing := by
  induction ps generalizing s with
  | nil => rfl
  | cons p ps ih =>
    obtain ⟨ea, n, x⟩ := p
    have piece := standing_writeEa s g ea n x
    rw [writePieces]
    split
    · rename_i ok
      exact (ih _).trans (standing_of_ok piece ok)
    · exact piece
@[simp] theorem standing_writeRecord (c record : Nat) : (writeRecord s g ring c record).state.standing = s.standing := by
  rw [show @writeRecord = delta% @writeRecord from rfl]
  beta_reduce
  have read := standing_readEa
  have pieces := standing_writePieces
  revert read pieces
  induction @readEa using of_forall with | _ readEa
  induction @writePieces using of_forall with | _ writePieces
  intro read pieces
  split
  · rename_i t ok
    have block : t.standing = s.standing := standing_of_ok (read ..) ok
    extract_lets a
    split
    · rename_i written
      exact (standing_of_ok (pieces ..) written).trans block
    · exact (pieces ..).trans block
  · exact read ..
@[simp] theorem standing_postFrom (reserved : Option Nat) (faddr bytes tag status cause : Nat) :
    (postFrom s g ring reserved faddr bytes tag status cause).2.state.standing = s.standing := by
  unfold postFrom
  have count : (match reserved with | some c => Got.ok c s | none => reserveSlot s g ring).state.standing = s.standing := by
    cases reserved with
    | some c => rfl
    | none => exact standing_reserveSlot ..
  split
  · rename_i ok
    exact (standing_writeRecord ..).trans (standing_of_ok count ok)
  · exact count
@[simp] theorem standing_postLater (core ctx : Nat) (at_ : RingAt) (reserved : Option Nat) (faddr bytes tag status cause : Nat)
    (via : Option (Nat × Nat)) :
    (postLater s core ctx at_ reserved faddr bytes tag status cause via).standing = s.standing := rfl
theorem standing_postKept {t : State} (h : t.standing = s.standing) (reserved : Option Nat) :
    (postKept s t reserved).standing = s.standing := by
  unfold postKept
  split
  · exact h
  · rfl
@[simp] theorem standing_ringBlock (at_ : RingAt) : (ringBlock s g at_).state.standing = s.standing := by
  cases at_ with
  | block ea => rfl
  | named ea => exact standing_readEa ..
@[simp] theorem standing_postReport (at_ : RingAt) (reserved : Option Nat) (faddr bytes tag status cause : Nat) :
    (postReport s g at_ reserved faddr bytes tag status cause).2.state.standing = s.standing := by
  unfold postReport
  split
  · rename_i ok
    exact (standing_postFrom ..).trans (standing_of_ok (standing_ringBlock ..) ok)
  · exact standing_ringBlock ..
@[simp] theorem standing_sendReport (via : Option (Nat × Nat)) (count record : Nat) :
    (sendReport s via count record).standing = s.standing := by
  unfold sendReport
  split <;> rfl
/-- A record on a ring, written at once or to be posted later. -/
@[simp] theorem standing_post (core ctx : Nat) (at_ : RingAt) (faddr bytes tag status cause : Nat) (via : Option (Nat × Nat)) :
    (post s core ctx at_ faddr bytes tag status cause via).standing = s.standing := by
  have done := standing_postReport s (plainAg core ctx) at_ none faddr bytes tag status cause
  unfold post
  split
  · rfl
  · split
    · rfl
    · split <;> rename_i outcome <;> rw [outcome] at done
      · exact (standing_sendReport ..).trans done
      · exact (standing_postLater ..).trans (standing_postKept s done _)
      · exact (standing_postLater ..).trans (standing_postKept s done _)
      · exact done
@[simp] theorem standing_postRing (core lid k faddr bytes tag status cause : Nat) :
    (postRing s core lid k faddr bytes tag status cause).standing = s.standing := by
  unfold postRing
  split
  · exact standing_post ..
  · rfl

end

end Sys2Proof.Machine
end

section
/-! Pending causes that are delivered, WAITCs that end and parties that freeze (09_traps.md R216, R217, R222,
06_control_wait_crosslane.md R141, 16_launch_scheduling.md R345). -/

namespace Sys2Proof.Machine

/-! ## Pending causes (09 R216, R217) -/

section
variable {hpc : Pc} {t : Thread} (entry : hpc ≠ 0#16) (normal : t.handler = false) (tid : Nat)
include entry normal

/-- A thread takes its oldest deferred cause, and its handler serves the operation that failed. -/
theorem deliverPending_deferred {x : Pend} {rest : List Pend} (oldest : t.pend = x :: rest) :
    deliverPending hpc tid t = ({ Thread.enter { t with pend := rest } hpc t.pc
      { cause := x.cause, taddr := x.taddr, tinfo := x.tinfo } with serving := some x.op }, none) := by
  simp [deliverPending, oldest, deliver_normal entry, normal]
/-- Else the oldest asynchronous one. -/
theorem deliverPending_async {c : Nat} {rest : List Nat} (calm : t.pend = []) (oldest : t.async = c :: rest) :
    deliverPending hpc tid t = (Thread.enter { t with async := rest } hpc t.pc { cause := c }, none) := by
  simp [deliverPending, calm, oldest, deliver_normal entry, normal]

end

/-- No failed operation of the thread is left to retire. -/
theorem retireFailed_of_none {s : State} {slot tid : Nat} (h : ∀ o ∈ s.ops, o.slot = slot → tid ∉ o.live) :
    retireFailed s slot tid = s := by
  have none : (s.ops.filter fun o => o.slot == slot && o.live.contains tid && canRetire s o tid) = [] :=
    List.filter_eq_nil_iff.2 fun o ho => by
      by_cases here : o.slot = slot
      · simp [here, h o ho here]
      · simp [here]
  rw [retireFailed, none]
  rfl

/-- A thread that can take a pending cause takes it, where the waits of its party may end. -/
theorem exec_deliverPendingCause_next {s : State} {slot tid : Nat} {p : Party} {u : Thread} (party : s.party? slot = some p)
    (go : waitsGo s slot = true) (can : (p.thread tid).deliverable = true)
    (idle : ∀ o ∈ s.ops, o.slot = slot → tid ∉ o.live)
    (taken : deliverPending (hpcOf s p.lid) tid (p.thread tid) = (u, none)) :
    exec (.deliverPendingCause slot tid) s = .next (s.setParty slot (p.setThread tid u)) := by
  show execDeliverPendingCause slot tid s = _
  simp only [execDeliverPendingCause, party, taken, go, can, Bool.and_self, whenEnabled_true]
  exact congrArg _ (retireFailed_of_none idle)

/-! ## WAITCs that end (06 R141) -/

/-- A thread that writes its result and goes on leaves its wait, whether it left it before or not. -/
theorem jump_write_free (t : Thread) (d : Reg) (w : Width) (x : Nat) (npc : Pc) :
    ({ t with hold := none }.write d w x).jump npc = (t.write d w x).jump npc := by
  cases d <;> rfl

section
variable {s : State} {slot : Nat} {p : Party} (party : s.party? slot = some p) (tid : Nat) (t : Thread) (d : Reg) (x : Nat)
  {npc : Pc} (inside : wordOf npc ≠ 0)
include party inside

/-- The end of a WAITC: the party takes the set for a register of g, the thread for its own, and goes on. -/
theorem waitEnd_eq : waitEnd s slot (hpcOf s p.lid) tid t d x npc =
    (s.setParty slot (p.takeG d .one [tid] fun _ => some x), ((t.write d .one x).jump npc, none)) := by
  rw [waitEnd, State.putG_eq party, pass_within inside]

end

section
variable {s : State} {slot tid : Nat} {p : Party} {d : Reg} {dl : Option Nat} {npc : Pc} (party : s.party? slot = some p)
  (go : waitsGo s slot = true) (calm : (p.thread tid).deliverable = false) (inside : wordOf npc ≠ 0)
include party go calm inside

/-- A repeated evaluation of a WAITC's only condition, of kind COUNT, that holds. -/
theorem exec_waitcReadReturn_count {c : Cond} (hold : (p.thread tid).hold = some (.waitc d [c] false dl 0 npc))
    (count : c.kind = 2) (holds : thresholdsHold (p.thread tid).cnt c.value = true) :
    exec (.waitcReadReturn slot tid 0 none) s = .next (s.setParty slot
      ((p.takeG d .one [tid] fun _ => some 1).setThread tid (((p.thread tid).write d .one 1).jump npc))) := by
  have latched : evalCond s (threadAg s slot p tid) slot p (p.thread tid) c = .yes s := by simp [evalCond, count, holds]
  have wanted : c.wanted [c] = true := by cases seen : c.seen <;> simp [Cond.wanted, seen]
  have ends : waitStep s slot (hpcOf s p.lid) tid { p.thread tid with hold := none } d
      [{ c with seen := true, heldSince := none }] false dl 1 npc =
        (s.setParty slot (p.takeG d .one [tid] fun _ => some 1), ((p.thread tid).write d .one 1).jump npc, none) := by
    rw [← jump_write_free, ← waitEnd_eq party tid { p.thread tid with hold := none } d 1 inside]
    rfl
  show execWaitcReadReturn slot tid 0 none s = _
  refine Eq.trans (b := .next { s.setParty slot _ with input := s.input }) ?_ rfl
  simp [execWaitcReadReturn, party, hold, latched, wanted, go, calm, ends, bitOf, State.setParty_setParty, Party.escalateAll]

/-- A WAITC at its limit, each of whose conditions has been evaluated. -/
theorem exec_waitcTimeout_next {conds : List Cond} {all : Bool} {latched : Nat}
    (hold : (p.thread tid).hold = some (.waitc d conds all dl latched npc)) (late : timeUp s dl = true)
    (seen : ∀ c ∈ conds, c.seen = true) :
    exec (.waitcTimeout slot tid) s = .next (s.setParty slot
      ((p.takeG d .one [tid] fun _ => some (latched + 256)).setThread tid
        (((p.thread tid).write d .one (latched + 256)).jump npc))) := by
  have evaluated : conds.all (·.seen) = true := List.all_eq_true.2 seen
  show execWaitcTimeout slot tid s = _
  simp [execWaitcTimeout, party, hold, late, evaluated, go, calm, waitEnd_eq party tid _ d _ inside, State.setParty_setParty,
    Party.escalateAll]

end

/-! ## Parties that freeze (09 R222, 16 R345) -/

section
variable (s : State) (slot : Nat)

theorem ref_acquire (core scope : Nat) : (acquire s core scope).ref = s.ref := by
  obtain ⟨l2, dies, cores, h⟩ := acquire_eq s core scope
  rw [h]
theorem ref_leaveBar (scope idx phase : Nat) : (leaveBar s slot scope idx phase).ref = s.ref := by
  cases party : s.party? slot with
  | none => simp [leaveBar, party]
  | some p =>
    rw [leaveBar_eq party]
    split
    · rfl
    · exact ref_acquire ..
theorem ref_wideBarNext (k : Nat × Nat × Nat × Nat × Nat) : (wideBarNext s k).ref = s.ref := by
  simp only [wideBarNext]
  refine (foldl_keeps State.ref (fun t slot => ?_) _ _).trans ?_
  · split
    · rfl
    · split
      · rfl
      · exact ref_leaveBar ..
  · split <;> rfl
/-- Where threads leave, the barriers that they shared are examined. -/
theorem ref_leaveInst (i : BarInst) (n : Nat) : (leaveInst s i n).ref = s.ref := by
  refine (foldl_keeps State.ref (fun t k => ?_) _ _).trans ?_
  · simp only [checkBar]
    split
    · exact ref_wideBarNext ..
    · rfl
  · split <;> rfl
theorem ref_withdraw (l : BarLoc) : (withdraw s slot l).ref = s.ref := by
  cases l with
  | party idx =>
    simp only [withdraw, addArrival]
    split <;> rfl
  | wide k =>
    simp only [withdraw, addArrival]
    split <;> rfl
theorem ref_dropArrivals (p : Party) (t : Thread) (wide : Bool) : (dropArrivals s slot p t wide).ref = s.ref := by
  refine foldl_keeps State.ref (fun u a => ?_) _ _
  split
  · split
    · rfl
    · exact ref_withdraw ..
  · exact ref_withdraw ..
  · rfl
theorem ref_leaveWide (tid : Nat) : (leaveWide s slot tid).ref = s.ref := by
  unfold leaveWide
  split
  · rfl
  · refine (foldl_keeps State.ref (fun t i => ref_leaveInst t i 1) _ _).trans ?_
    split
    · exact ref_dropArrivals ..
    · exact ref_dropArrivals ..
theorem ref_dropMigr : (dropMigr s slot).ref = s.ref := by
  unfold dropMigr
  split
  · rfl
  · dsimp only
    split <;> rfl

end

/-- A slot whose party freezes is FROZEN, and its hold time runs from now. -/
theorem freeze_frozen (s : State) (slot : Nat) (p : Party) (e : Esc) :
    ((freeze s slot p e).slot slot).st = .frozen ∧ ((freeze s slot p e).slot slot).preq = false ∧
      (slot, s.ref) ∈ (freeze s slot p e).escHolds := by
  unfold freeze
  extract_lets left free held frozen noted posted
  have time : free.ref = s.ref := by
    refine (ref_dropMigr left slot).trans (foldl_keeps State.ref (fun t k => ?_) (upTo 64) s)
    split
    · rfl
    · exact ref_leaveWide ..
  have rest : posted.standing = frozen.standing := by
    refine (standing_postRing ..).trans ?_
    unfold noted
    split <;> rfl
  obtain ⟨slots, ref⟩ := Prod.mk.inj rest
  clear_value posted
  have here : posted.slot slot = frozen.slot slot := congrArg (aget Slot.init slot) slots
  refine ⟨?_, ?_, ?_⟩
  · show (posted.slot slot).st = _
    rw [here, State.slot_setSlot_same]
  · show (posted.slot slot).preq = _
    rw [here, State.slot_setSlot_same]
  · show (slot, s.ref) ∈ posted.escHolds ++ [(slot, posted.ref)]
    rw [ref.trans time]
    simp

theorem orphanOps_slot (s : State) (slot k : Nat) : (orphanOps s slot).slot k = s.slot k := rfl
theorem orphanOps_escHolds (s : State) (slot : Nat) : (orphanOps s slot).escHolds = s.escHolds := rfl

section
variable {s : State} {slot : Nat} (idle : ∀ o ∈ s.ops, o.slot ≠ slot)
include idle

theorem slotOps_of_idle : slotOps s slot = [] :=
  List.filter_eq_nil_iff.2 fun o ho => by simp [idle o ho]
/-- There are no copies to cancel. -/
theorem cancelCopies_of_idle (which : Op → Bool) : cancelCopies s slot which = s := by
  have kept : { s with ops := s.ops.filter fun _ => true } = s := by rw [List.filter_true]
  simp only [cancelCopies, slotOps_of_idle idle, List.filter_nil, List.any_nil, Bool.not_false, kept, List.foldl_nil]
  split
  · exact State.setParty_self ‹_›
  · rfl
/-- A party that escalates with nothing in flight becomes frozen. -/
theorem exec_partyFrozen_next {p : Party} {e : Esc} (party : s.party? slot = some p) (runs : (s.slot slot).st = .run)
    (esc : p.esc = some e) :
    ∃ t, exec (.partyFrozen slot) s = .next t ∧ (t.slot slot).st = .frozen ∧ (t.slot slot).preq = false ∧
      (slot, s.ref) ∈ t.escHolds := by
  refine ⟨orphanOps (freeze s slot p e) slot, ?_, ?_⟩
  · show execPartyFrozen slot s = _
    simp [execPartyFrozen, party, esc, runs, slotOps_of_idle idle, cancelCopies_of_idle idle]
  · rw [orphanOps_slot, orphanOps_escHolds]
    exact freeze_frozen s slot p e

end

end Sys2Proof.Machine
end

section
/-! Segments that land, fail and drop, and the CFETCHes that wait for them (06_control_wait_crosslane.md R135, R136,
19_package_memory.md R387). -/

namespace Sys2Proof.Machine

/-! ## An operation that completes -/

theorem AgreeButOps.refl (s : State) : AgreeButOps s s := rfl
theorem AgreeButOps.trans {s t u : State} (h : AgreeButOps t s) (h' : AgreeButOps u t) : AgreeButOps u s := by
  unfold AgreeButOps at h h' ⊢
  rw [← h, ← h']
theorem AgreeButOps.segAt {s t : State} (h : AgreeButOps t s) (core lid seg : Nat) :
    Machine.segAt t core lid seg = Machine.segAt s core lid seg := by
  rw [AgreeButOps] at h
  rw [← h]
  rfl
theorem AgreeButOps.dram {s t : State} (h : AgreeButOps t s) : t.dram = s.dram := by
  rw [AgreeButOps] at h
  rw [← h]

theorem agreeButOps_foldl {α : Type} {f : State → α → State} (h : ∀ s x, AgreeButOps (f s x) s) (xs : List α) (s : State) :
    AgreeButOps (xs.foldl f s) s :=
  List.foldlRecOn (motive := fun t => AgreeButOps t s) xs f (.refl s) fun t same x _ => same.trans (h t x)

/-- An operation that is complete leaves a thread's counter, and makes no cause pending. -/
theorem agreeButOps_retireThread {o : Op} (done : o.phase = .done) (s : State) (tid : Nat) :
    AgreeButOps (retireThread s o tid) s := by
  unfold retireThread
  split
  · simp only [done]
    rfl
  · rfl
theorem completeOp_listed {s : State} {o : Op} {id : Nat} (h : s.op? id = some o) :
    completeOp s id = retire (s.setPhase o .done) id := by
  simp [completeOp, h]
/-- The retirement of an operation that is complete changes operations and counters only. -/
theorem agreeButOps_retire {s : State} {o : Op} {id : Nat} (listed : s.op? id = some o) (done : o.phase = .done) :
    AgreeButOps (retire s id) s := by
  unfold retire
  split
  · rfl
  · rename_i o' found
    obtain rfl : o' = o := Option.some.inj (found.symm.trans listed)
    extract_lets go left live
    have counted : AgreeButOps left s := agreeButOps_foldl (agreeButOps_retireThread done) go s
    exact iteInduction (motive := (AgreeButOps · s)) (fun _ => counted.trans rfl) fun _ => counted.trans rfl
theorem agreeButOps_completeOp (s : State) (id : Nat) : AgreeButOps (completeOp s id) s := by
  cases h : s.op? id with
  | none => simp [completeOp, h, AgreeButOps]
  | some o =>
    obtain rfl : o.id = id := by simpa using List.find?_some h
    rw [completeOp_listed h]
    exact (show AgreeButOps (s.setPhase o .done) s from rfl).trans
      (agreeButOps_retire (State.op_setOp_same (o := { o with phase := .done }) h) rfl)

/-! ## CFETCHes that wait for a segment (06 R135) -/

theorem OldestOf.of_same {s t : State} {o : Op} {p : Party} {k : Nat} {c : Cls} (h : OldestOf s o p k c) (ops : t.ops = s.ops)
    (slots : t.slots = s.slots) : OldestOf t o p k c where
  listed := by rw [State.op?, ops]; exact h.listed
  party := (party?_of_slots slots o.slot).trans h.party
  tids := h.tids
  live := h.live
  cls := h.cls
  thread := h.thread
  oldest := by rw [olderThan, ops]; exact h.oldest

/-- What becomes of the operations that waited: none, or the one of a thread, which retires. -/
def WaitingRetire (s t : State) (waiting : List Op) : Prop :=
  (waiting = [] → t.ops = s.ops) ∧
  ∀ o p k, waiting = [o] → OldestOf s o p k .cf → Retired t o p k ((p.thread k).uncount .cf)

section
variable {s t : State} (ops : t.ops = s.ops) (slots : t.slots = s.slots)
include ops slots

theorem completeOp_retires {o : Op} {p : Party} {k : Nat} (oldest : OldestOf s o p k .cf) :
    Retired (completeOp t o.id) o p k ((p.thread k).uncount .cf) := by
  have there := oldest.of_same ops slots
  rw [completeOp_listed there.listed]
  exact there.complete.1
theorem completeOps_retire (waiting : List Op) : WaitingRetire s (waiting.foldl (fun s o => completeOp s o.id) t) waiting := by
  refine ⟨?_, ?_⟩
  · rintro rfl
    exact ops
  · rintro o p k rfl oldest
    exact completeOp_retires ops slots oldest

end

theorem segOps_of_ops {s t : State} (ops : t.ops = s.ops) (core lid seg : Nat) : segOps t core lid seg = segOps s core lid seg := by
  rw [segOps, segOps, ops]
@[simp] theorem segAt_setSeg (s : State) (core lid seg : Nat) (g : Seg) : segAt (setSeg s core lid seg g) core lid seg = g := by
  simp [segAt, setSeg]
theorem handlerSeg_of_launches {s t : State} (launches : t.launches = s.launches) (lid seg : Nat) :
    handlerSeg t lid seg = handlerSeg s lid seg := by
  rw [handlerSeg, handlerSeg, State.launch?, State.launch?, launches]

/-- Once a read of a segment has ended, fetches that joined it complete. -/
theorem segEnd_fetches {s : State} {core lid seg : Nat} (fetches : ∀ o ∈ segOps s core lid seg, o.kind.isDrop = false) :
    segEnd s core lid seg = (segOps s core lid seg).foldl (fun s o => completeOp s o.id) s := by
  have all : ∀ o ∈ segOps s core lid seg, (!o.kind.isDrop) = true := fun o ho => by simp [fetches o ho]
  simp [segEnd, List.takeWhile_eq_self_iff.2 all, List.dropWhile_eq_nil_iff.2 all]
/-- A drop that waited behind it takes effect. -/
theorem segEnd_drop {s : State} {core lid seg : Nat} {o : Op} (waiting : segOps s core lid seg = [o]) (drop : o.kind.isDrop = true) :
    segEnd s core lid seg = segApply s core lid seg o.id true := by
  simp [segEnd, waiting, drop]

/-! ## The read of a segment's image ends (06 R136) -/

section
variable {s s' : State} {core lid seg : Nat} (same : SameThreads s s') (st : SegSt) (image : List (Nat × Word))
include same

/-- Where only fetches wait, they complete, and the segment is as the read has ended. -/
theorem segRead_fetches (fetches : ∀ o ∈ segOps s core lid seg, o.kind.isDrop = false) :
    let t := segRead s' core lid seg st image
    segAt t core lid seg = { st := st, image := image } ∧ WaitingRetire s t (segOps s core lid seg) ∧ t.dram = s'.dram := by
  obtain ⟨ops, slots, -⟩ := same
  let u := setSeg s' core lid seg { st := st, image := image }
  have waiting : segOps u core lid seg = segOps s core lid seg := segOps_of_ops ops core lid seg
  have ended : segRead s' core lid seg st image = (segOps s core lid seg).foldl (fun s o => completeOp s o.id) u := by
    rw [← waiting] at fetches ⊢
    exact segEnd_fetches fetches
  have only := agreeButOps_foldl (fun s (o : Op) => agreeButOps_completeOp s o.id) (segOps s core lid seg) u
  dsimp only
  rw [ended]
  exact ⟨(only.segAt core lid seg).trans (segAt_setSeg ..), completeOps_retire (t := u) ops slots _, only.dram⟩

/-- Where one drop waits, it takes effect. -/
theorem segRead_drop {o : Op} (waiting : segOps s core lid seg = [o]) (drop : o.kind.isDrop = true) :
    segRead s' core lid seg st image = segApply (setSeg s' core lid seg { st := st, image := image }) core lid seg o.id true :=
  segEnd_drop ((segOps_of_ops same.1 core lid seg).trans waiting) drop

/-- It begins where the segment has landed and is not the handler's. -/
theorem segRead_landed_drop {o : Op} (waiting : segOps s core lid seg = [o]) (drop : o.kind.isDrop = true)
    (handler : handlerSeg s lid seg = false) :
    let t := segRead s' core lid seg .landed image
    (segAt t core lid seg).st = .dropping ∧ t.ops = s.ops := by
  have ⟨ops, _, launches⟩ := same
  have droppable : handlerSeg (setSeg s' core lid seg { st := .landed, image := image }) lid seg = false :=
    (handlerSeg_of_launches (s := s) launches lid seg).trans handler
  simp only [segRead_drop same .landed image waiting drop, segApply, segAt_setSeg, droppable]
  exact ⟨by simp [setSegSt], ops⟩
/-- It leaves the segment ABSENT where the read has failed. -/
theorem segRead_failed_drop {o : Op} (waiting : segOps s core lid seg = [o]) (drop : o.kind.isDrop = true) (ea : Nat) :
    let t := segRead s' core lid seg (.failed ea) image
    (segAt t core lid seg).st = .absent ∧ WaitingRetire s t (segOps s core lid seg) := by
  have ⟨ops, slots, _⟩ := same
  simp only [segRead_drop same (.failed ea) image waiting drop, segApply, segAt_setSeg, if_true]
  refine ⟨?_, ?_⟩
  · rw [(agreeButOps_completeOp _ o.id).segAt, segAt_setSeg]
  · rw [waiting]
    exact completeOps_retire (t := setSeg (setSeg s' core lid seg _) core lid seg _) ops slots [o]

end

/-! ## The words of an image (06 R129, R136) -/

/-- A table made from a list of indices, of those that have a value. -/
theorem aget?_filterMap {α : Type} (f : Nat → Option α) (l : List Nat) (i : Nat) :
    aget? i (l.filterMap fun j => (f j).map (Prod.mk j)) = if i ∈ l then f i else none := by
  induction l with
  | nil => rfl
  | cons j l ih =>
    cases hj : f j with
    | none =>
      simp only [List.filterMap_cons, hj, Option.map_none, ih, List.mem_cons]
      by_cases h : i = j <;> simp [h, hj]
    | some a =>
      simp only [List.filterMap_cons, hj, Option.map_some, aget?, ih, List.mem_cons]
      by_cases h : i = j
      · simp [h, hj]
      · simp [h, Ne.symm h]
/-- The word of an image at an index, unless it is zero. -/
def imageWord? (x i : Nat) : Option Word := if fld x (32 * i) 32 = 0 then none else some (BitVec.ofNat 32 (fld x (32 * i) 32))
theorem imageWords_eq (x : Nat) : imageWords x = (upTo 1024).filterMap fun i => (imageWord? x i).map (Prod.mk i) := by
  unfold imageWords imageWord?
  refine List.filterMap_congr fun i _ => ?_
  by_cases zero : fld x (32 * i) 32 = 0 <;> simp [zero]
/-- Word i of an image, read back. -/
theorem aget_imageWords (x : Nat) {i : Nat} (h : i < 1024) :
    aget 0#32 i (imageWords x) = BitVec.ofNat 32 (x / 2 ^ (32 * i)) := by
  have low : BitVec.ofNat 32 (fld x (32 * i) 32) = BitVec.ofNat 32 (x / 2 ^ (32 * i)) := by
    apply BitVec.eq_of_toNat_eq
    simp [fld]
  rw [aget, imageWords_eq, aget?_filterMap, if_pos (mem_upTo.2 h), ← low]
  by_cases zero : fld x (32 * i) 32 = 0 <;> simp [imageWord?, zero]

/-! ## The events of a segment

The read of the image stays folded (`of_forall`): the kernel would run it. -/

/-- The read of the image has failed at an address: it faults there, or has been held there past its limit. -/
def ReadFails (s s' : State) (core seg : Nat) (l : Launch) (since : Option Nat) (ea : Nat) : Prop :=
  (∃ c, readBuf s l (coreAg l core) (imageEa l seg) 4096 = .fault c ea s') ∨
  (readBuf s l (coreAg l core) (imageEa l seg) 4096 = .hold ea s' ∧
    ∃ x, since = some x ∧ x + waitLimit s l.ctx ea < s.ref)
theorem ReadFails.address {s s' : State} {core seg : Nat} {l : Launch} {since : Option Nat} {ea ea' c : Nat}
    (h : ReadFails s s' core seg l since ea)
    (named : readBuf s l (coreAg l core) (imageEa l seg) 4096 = .fault c ea' s' ∨
      readBuf s l (coreAg l core) (imageEa l seg) 4096 = .hold ea' s') : ea' = ea := by
  rcases h with ⟨c, read⟩ | ⟨read, -⟩ <;> simp only [read, Got.fault.injEq, Got.hold.injEq, reduceCtorEq] at named <;> tauto

section
variable {s s' : State} {core lid seg : Nat} {l : Launch} (listed : s.launch? lid = some l)
  (fetching : (segAt s core lid seg).st = .fetching)
include listed fetching

theorem exec_segmentLanded_next {x : Nat} (read : readBuf s l (coreAg l core) (imageEa l seg) 4096 = .ok x s') :
    exec (.segmentLanded core lid seg) s = .next (segRead s' core lid seg .landed (imageWords x)) := by
  show execSegmentLanded core lid seg s = _
  unfold execSegmentLanded
  revert read
  induction @readBuf using of_forall with | _ readBuf
  intro read
  simp only [listed, read, fetching, beq_self_eq_true, whenEnabled_true]

theorem exec_segmentFetchFault_next {ea : Nat} (fails : ReadFails s s' core seg l (segAt s core lid seg).since ea) :
    exec (.segmentFetchFault core lid seg) s = .next (segRead s' core lid seg (.failed ea) []) := by
  show execSegmentFetchFault core lid seg s = _
  unfold execSegmentFetchFault
  unfold ReadFails at fails
  revert fails
  induction @readBuf using of_forall with | _ readBuf
  rintro (⟨c, read⟩ | ⟨read, x, since, late⟩)
  · simp only [listed, read, fetching, beq_self_eq_true, whenEnabled_true]
  · simp [listed, read, fetching, since, pastLimit, late]

end

/-- A segment that drops is ABSENT once no thread stands in it, and what waited for that completes. -/
theorem exec_segmentDropComplete_next {s : State} {core lid seg : Nat} (dropping : (segAt s core lid seg).st = .dropping)
    (empty : segEmpty s core lid seg = true) :
    ∃ t, exec (.segmentDropComplete core lid seg) s = .next t ∧ segAt t core lid seg = { st := .absent, image := [] } ∧
      WaitingRetire s t (segOps s core lid seg) := by
  let u := setSeg s core lid seg { st := .absent, image := [] }
  have only := agreeButOps_foldl (fun s (o : Op) => agreeButOps_completeOp s o.id) (segOps s core lid seg) u
  refine ⟨(segOps s core lid seg).foldl (fun s o => completeOp s o.id) u, ?_, (only.segAt core lid seg).trans (segAt_setSeg ..),
    completeOps_retire (s := s) (t := u) rfl rfl _⟩
  show execSegmentDropComplete core lid seg s = _
  exact whenEnabled_next.2 ⟨by simp [dropping, empty], rfl⟩

end Sys2Proof.Machine

open Sys2Proof Sys2Proof.Machine

/-- Settles O36: a delivery, the end of a WAITC and a freezing each change one party, which stands in its slot afterwards; and
an image's read, or a drop, ends with the segment's state written before the operations that waited for it complete. -/
theorem causesWaitsAndSegmentsEnd : Obligations.CausesWaitsAndSegmentsEnd := by
  refine ⟨fun s slot tid p party listed => ⟨?_, ?_, ?_, ?_⟩, fun s s' core lid seg l launch => ⟨?_, ?_, ?_⟩⟩
  · intro go normal alive entry idle
    refine ⟨fun x rest oldest => ?_, fun rest calm oldest => ?_⟩
    · refine ⟨_, exec_deliverPendingCause_next party go ?_ idle (deliverPending_deferred entry normal tid oldest),
        State.party_setParty_same ..⟩
      simp [Thread.deliverable, normal, alive, oldest]
    · refine ⟨_, exec_deliverPendingCause_next party go ?_ idle (deliverPending_async entry normal tid calm oldest),
        State.party_setParty_same ..⟩
      simp [Thread.deliverable, normal, alive, oldest]
  · intro d c dl npc go calm hold count holds inside
    exact ⟨_, exec_waitcReadReturn_count party go calm inside hold count holds, State.party_setParty_same ..⟩
  · intro d conds all dl latched npc go calm hold late seen inside
    exact ⟨_, exec_waitcTimeout_next party go calm inside hold (decide_eq_true late) seen, State.party_setParty_same ..⟩
  · intro e runs esc _ idle
    exact exec_partyFrozen_next idle party runs esc
  · intro x fetching read same
    refine ⟨fun fetches => ?_, fun o waiting drop handler => ?_⟩
    · obtain ⟨landed, retire, dram⟩ := segRead_fetches same .landed (imageWords x) fetches
      refine ⟨_, exec_segmentLanded_next launch fetching read, by rw [landed], retire, dram, fun i hi => ?_⟩
      simp only [landed, aget_imageWords x hi]
    · exact ⟨_, exec_segmentLanded_next launch fetching read, segRead_landed_drop same _ waiting drop handler⟩
  · intro ends fetching same
    obtain ⟨ea, fails⟩ : ∃ ea, ReadFails s s' core seg l (segAt s core lid seg).since ea := by
      rcases ends with ⟨c, ea, read⟩ | ⟨ea, since, read, held, late⟩
      · exact ⟨ea, .inl ⟨c, read⟩⟩
      · exact ⟨ea, .inr ⟨read, since, held, late⟩⟩
    refine ⟨fun fetches => ?_, fun o waiting drop => ?_⟩
    · obtain ⟨failed, retire, -⟩ := segRead_fetches same (.failed ea) [] fetches
      refine ⟨_, exec_segmentFetchFault_next launch fetching fails, fun c ea' named => ?_, retire⟩
      rw [failed, fails.address named]
    · exact ⟨_, exec_segmentFetchFault_next launch fetching fails, segRead_failed_drop same [] waiting drop ea⟩
  · intro dropping empty
    obtain ⟨t, next, absent, retire⟩ := exec_segmentDropComplete_next dropping empty
    exact ⟨t, next, by rw [absent], by rw [absent], retire⟩

end

section
/-! Slot commands, saves and the ends of parties (10_core.md R236 to R240, 06_control_wait_crosslane.md R153,
25_resilience.md R450): what leaves the slots as they are, what a slot that its party leaves holds, and the copies that a save
cancels. -/

namespace Sys2Proof.Machine

/-! ## Reports and ends of blocks leave the slots -/

section
variable (s : State)

theorem slots_dirWrite (ppa n x : Nat) : (dirWrite s ppa n x).slots = s.slots :=
  congrArg Prod.fst (standing_dirWrite s ppa n x)
theorem slots_dropReports (n : Nat) : (dropReports s n).slots = s.slots := by
  unfold dropReports
  split
  · rfl
  · exact slots_dirWrite ..
theorem slots_stageReport (r : Report) : (stageReport s r).slots = s.slots := by
  simp only [stageReport]
  split
  · exact slots_dropReports ..
  · rfl
theorem slots_reportEvent (ch kind code adrk addr unit : Nat) :
    (reportEvent s ch kind code adrk addr unit).slots = s.slots := slots_stageReport ..
theorem slots_leaveCore (core lid : Nat) : (leaveCore s core lid).slots = s.slots := by
  simp only [leaveCore]
  split <;> rfl
theorem slots_freePortions (b : Block) : (freePortions s b).slots = s.slots := by
  refine foldl_keeps State.slots (fun t e => ?_) _ s
  dsimp only
  split <;> rfl
theorem slots_endBlock (lid blin : Nat) : (endBlock s lid blin).slots = s.slots := by
  unfold endBlock
  split
  · extract_lets freed merges ended counted dropped
    have kept : dropped.slots = s.slots := slots_freePortions ..
    split
    · exact kept
    · exact kept
  · rfl

end

/-! ## A slot that its party leaves (10 R236, R237, 06 R153) -/

theorem SlotEmptied.of_slots {t u : State} {slot : Nat} (h : SlotEmptied u slot) (slots : t.slots = u.slots) :
    SlotEmptied t slot := by
  have same : t.slot slot = u.slot slot := congrArg (aget Slot.init slot) slots
  simpa only [SlotEmptied, State.party?, same] using h

section
variable {s : State} {slot : Nat}

/-- A slot that no repair waits for keeps nothing but its deadline and its save address. -/
theorem slots_clearSlot (sound : (s.slot slot).repair = false) : (clearSlot s slot).slots =
    (s.setSlot slot { Slot.init with
      st := .free, deadline := (s.slot slot).deadline, saveAddr := (s.slot slot).saveAddr }).slots := by
  simp only [clearSlot, sound, Bool.false_eq_true, if_false]
  split
  · exact (slots_leaveCore ..).trans rfl
  · rfl
theorem clearSlot_empties (sound : (s.slot slot).repair = false) : SlotEmptied (clearSlot s slot) slot := by
  refine SlotEmptied.of_slots ?_ (slots_clearSlot sound)
  simp [SlotEmptied, State.party?, Slot.init]
/-- The end of its block, and its launch's leaving of a core, change no slot. -/
theorem slots_freeSlot (s : State) (slot : Nat) : (freeSlot s slot).slots = (clearSlot s slot).slots := by
  unfold freeSlot
  split
  · rfl
  · dsimp only
    split
    · split
      · exact (foldl_keeps State.slots (fun t r => slots_leaveCore t _ _) _ _).trans (slots_endBlock ..)
      · rfl
    · rfl
theorem freeSlot_empties (sound : (s.slot slot).repair = false) : SlotEmptied (freeSlot s slot) slot :=
  (clearSlot_empties sound).of_slots (slots_freeSlot s slot)

end

/-! ## Copies outstanding at a deadline (10 R239) -/

/-- The copies of a slot's party that have not reached their signal. -/
def outstanding (s : State) (slot : Nat) : List Op := (slotOps s slot).filter fun o => o.kind.isCopy && o.unsignalled
/-- A copy as a context image keeps it (10 R242). -/
def Op.savedCopy? (o : Op) : Option SavedCopy :=
  match o.kind with
  | .copy _ desc pfx ins seq .. => some { tid := o.tids.headD 0, cpc := o.pc, seq, pfx, ins, desc }
  | _ => none

section
variable {s : State} {slot : Nat} {o : Op}

theorem mem_outstanding : o ∈ outstanding s slot ↔
    o ∈ s.ops ∧ o.slot = slot ∧ o.kind.isCopy = true ∧ o.unsignalled = true := by
  cases kind : o.kind <;> simp [outstanding, slotOps, OpKind.isCopy, kind, and_comm]
/-- What a cancellation leaves has none of them. -/
theorem not_unsignalled_of_cancelCopies (left : o ∈ (cancelCopies s slot Op.unsignalled).ops) (own : o.slot = slot)
    (copy : o.kind.isCopy = true) : o.unsignalled = false := by
  have ops : (cancelCopies s slot Op.unsignalled).ops =
      s.ops.filter fun o => !(outstanding s slot).any fun g => g.id == o.id := by
    simp only [cancelCopies]
    split <;> rfl
  obtain ⟨listed, kept⟩ := List.mem_filter.1 (ops ▸ left)
  by_contra unsignalled
  have gone : o ∈ outstanding s slot := mem_outstanding.2 ⟨listed, own, copy, by simpa using unsignalled⟩
  simp only [Bool.not_eq_true', List.any_eq_false, beq_iff_eq] at kept
  exact kept o gone rfl

end

/-! ## Saves (10 R238 to R240) -/

section
variable {s : State} {slot : Nat}

theorem slotLive_of_run {p : Party} (party : s.party? slot = some p) (runs : (s.slot slot).st = .run) (esc : p.esc = none) :
    slotLive s slot = true := by
  simp [slotLive, slotRuns, party, runs, esc]

theorem exec_saveBegin_next {p : Party} (party : s.party? slot = some p) (live : slotLive s slot = true)
    (asked : (s.slot slot).preq = true) (still : (s.slot slot).migr = none)
    (calm : ∀ u ∈ p.threads, (u.handler = true → u.exited = true) ∧ u.deliverable = false) :
    exec (.saveBegin slot) s = .next (s.setSlot slot { s.slot slot with st := .saving, saveStep := 2 }) := by
  have quiet : (p.threads.any fun t => (t.handler && !t.exited) || t.deliverable) = false :=
    List.any_eq_false.2 fun u hu => by
      obtain ⟨handled, nothing⟩ := calm u hu
      by_cases handler : u.handler = true
      · simp [handled handler, nothing]
      · simp [handler, nothing]
  change (s.slot slot).party = some p at party
  show execSaveBegin slot s = _
  simp [execSaveBegin, party, live, asked, still, quiet]

/-- A drain has nothing left to wait for. -/
theorem exec_saveDrained_next (idle : ∀ o ∈ s.ops, o.slot ≠ slot) (saving : (s.slot slot).st = .saving)
    (step : (s.slot slot).saveStep = 2) : exec (.saveDrained slot) s =
      .next (cutShadows (s.setSlot slot { s.slot slot with saveStep := 3 }) slot fun _ => true) := by
  show execSaveDrained slot s = _
  simp [execSaveDrained, saveWaits, slotOps_of_idle idle, saving, step]

/-- At its deadline the copies outstanding leave the operations, and the slot keeps them. -/
theorem exec_saveDeadlineExpiry_next {o : Op} (copy : o ∈ outstanding s slot) (saving : (s.slot slot).st = .saving)
    (step : (s.slot slot).saveStep = 3) (late : (s.slot slot).saveFrom + 1024 * (s.slot slot).deadline ≤ s.ref) :
    exec (.saveDeadlineExpiry slot) s = .next ((cancelCopies s slot Op.unsignalled).setSlot slot
      { (cancelCopies s slot Op.unsignalled).slot slot with
        cancelled := (s.slot slot).cancelled ++ (outstanding s slot).filterMap Op.savedCopy? }) := by
  have goes : ((s.slot slot).st == .saving && (s.slot slot).saveStep == 3 &&
      ((s.slot slot).saveFrom + 1024 * (s.slot slot).deadline ≤ s.ref : Bool) && !(outstanding s slot).isEmpty) = true := by
    simp [saving, step, late, List.ne_nil_of_mem copy]
  exact if_pos goes

/-- An image that is written leaves its slot empty. -/
theorem exec_saveComplete_next {p : Party} {l : Launch} {b : Block} {s' : State} (party : s.party? slot = some p)
    (launch : s.launch? p.lid = some l) (block : s.block? p.lid p.blin = some b) (idle : ∀ o ∈ s.ops, o.slot ≠ slot)
    (saving : (s.slot slot).st = .saving) (step : (s.slot slot).saveStep = 3)
    (checked : imageCheck s l (s.slot slot).saveAddr (4 * (imageOf s slot p (s.slot slot).cancelled).length) true = none)
    (written : writeWords (plainAg (coreOf slot) l.ctx) (imageOf s slot p (s.slot slot).cancelled).length s
      (s.slot slot).saveAddr (imageOf s slot p (s.slot slot).cancelled) = .ok 0 s') :
    ∃ c : Block, exec (.saveComplete slot) s = .next (clearSlot (s'.setBlock c) slot) := by
  change (s.slot slot).party = some p at party
  refine ⟨{ b with images := savedParty p (s.slot slot).saveAddr :: b.images.filter fun e => e.pidx ≠ p.pidx }, ?_⟩
  show execSaveComplete slot s = _
  simp only [execSaveComplete, party, launch, block, checked, written, slotOps_of_idle idle]
  simp [saving, step]

/-- A party whose threads have exited and that waits for no operation leaves its slot. -/
theorem exec_partySlotFree_next {p : Party} (party : s.party? slot = some p) (live : slotLive s slot = true)
    (exited : ∀ u ∈ p.threads, u.exited = true) (idle : ∀ o ∈ s.ops, o.slot ≠ slot) :
    exec (.partySlotFree slot) s = .next (freeSlot s slot) := by
  have all : (p.threads.all fun t => t.exited) = true := List.all_eq_true.2 exited
  show execPartySlotFree slot s = _
  simp [execPartySlotFree, party, live, all, slotOps_of_idle idle]

end

/-! ## Commands to a slot (10 R236) -/

/-- HALT is pending in a thread that has not exited, once. -/
def Thread.halted (t : Thread) : Thread :=
  if t.exited || t.async.contains Cause.halt then t else { t with async := t.async ++ [Cause.halt] }

theorem Thread.halt_mem_halted {t : Thread} (running : t.halted.exited = false) : Cause.halt ∈ t.halted.async := by
  unfold Thread.halted at running ⊢
  split
  · next already =>
    rw [if_pos already] at running
    simpa [running] using already
  · simp

section
variable {s : State} {slot : Nat} {p : Party} (party : s.party? slot = some p)
include party

/-- PRE of a slot whose launch is not deterministic is accepted. -/
theorem acceptPre_ordinary (ordinary : ((s.launch? p.lid).any fun l => l.isDet) = false) :
    acceptPre s slot = s.setSlot slot { s.slot slot with preq := true, heldPre := false, saveFrom := s.ref } := by
  change (s.slot slot).party = some p at party
  simp only [acceptPre, party, ordinary, Bool.false_and, Bool.false_eq_true, if_false]

theorem party_deliverHalt : (deliverHalt s slot).party? slot = some { p with threads := p.threads.map Thread.halted } := by
  rw [deliverHalt, party?_of_slots (slots_reportEvent ..), haltParty, party]
  exact State.party_setParty_same ..

/-- A party that runs and does not escalate yet takes the cause of a kill. -/
theorem killParty_escalates (runs : (s.slot slot).st = .run) (esc : p.esc = none) (cause faddr : Nat) :
    ∃ e : Esc, e.cause = cause ∧ killParty s slot cause faddr = s.setParty slot { p with esc := some e } := by
  simp only [killParty, party, Party.escalate, esc]
  refine ⟨_, ?_, abandonSave_of_not_saving ?_⟩
  · rfl
  · simp [State.setParty, runs]

end

end Sys2Proof.Machine

open Sys2Proof Sys2Proof.Machine

/-- Settles O37: a running slot accepts PRE, delivers HALT to its threads and escalates at KILL, and a RELEASE frees the slot. -/
theorem slotCommandsTakeEffect : Obligations.SlotCommandsTakeEffect := by
  refine fun s slot => ⟨?_, ?_, ?_, ?_⟩
  · intro dl addr p input runs party ordinary
    let asked := s.setSlot slot { s.slot slot with deadline := dl % 2 ^ 16, saveAddr := addr }
    have here : asked.party? slot = some p := by simpa [asked, State.party?] using party
    refine ⟨acceptPre asked slot, ?_, ?_⟩
    · show execSlotPre s = _
      simp [execSlotPre, input, slotPre, runs, asked]
    · rw [acceptPre_ordinary here ordinary]
      simp [asked]
  · intro p input runs party
    refine ⟨deliverHalt s slot, _, ?_, party_deliverHalt party, List.length_map .., ?_⟩
    · show execSlotHalt s = _
      simp [execSlotHalt, input, slotHalt, runs]
    · simp only [List.mem_map, forall_exists_index, and_imp]
      rintro _ t - rfl running
      exact Thread.halt_mem_halted running
  · intro p input runs party esc
    obtain ⟨e, cause, killed⟩ := killParty_escalates party runs esc Cause.kill 0
    refine ⟨killParty s slot Cause.kill 0, { p with esc := some e }, e, ?_, ?_, rfl, cause, rfl⟩
    · show execSlotKill s = _
      simp [execSlotKill, input, slotKill, runs]
    · rw [killed]
      exact State.party_setParty_same ..
  · intro input frozen sound
    refine ⟨freeSlot s slot, ?_, freeSlot_empties sound⟩
    show execSlotRelease s = _
    simp [execSlotRelease, input, slotRelease, frozen]

/-- Settles O39: each event of a save goes on where R238 lets it, and neither the image's write nor the end of a block touches
the slot that is emptied. -/
theorem savesAndEndsEmptySlots : Obligations.SavesAndEndsEmptySlots := by
  refine fun s slot p party => ⟨?_, ?_, ?_, ?_, ?_⟩
  · intro runs esc asked still calm
    exact exec_saveBegin_next party (slotLive_of_run party runs esc) asked still calm
  · intro saving step idle
    exact exec_saveDrained_next idle saving step
  · intro o opc desc pfx ins seq lay tgts saving step listed own kind running late
    have copy : o ∈ outstanding s slot := mem_outstanding.2 ⟨listed, own, by rw [kind]; rfl, by rw [Op.unsignalled, running]⟩
    refine ⟨_, exec_saveDeadlineExpiry_next copy saving step late, ?_, fun q left => not_unsignalled_of_cancelCopies left⟩
    rw [State.slot_setSlot_same]
    exact ⟨_, List.mem_append_right _ (List.mem_filterMap.2 ⟨o, copy, by rw [Op.savedCopy?, kind]⟩), rfl, rfl, rfl, rfl, rfl⟩
  · intro l b s' launch block saving step idle sound _ checked written slots
    obtain ⟨c, next⟩ := exec_saveComplete_next party launch block idle saving step checked written
    have same : (s'.setBlock c).slot slot = s.slot slot := congrArg (aget Slot.init slot) slots
    exact ⟨_, next, clearSlot_empties (by rw [same, sound])⟩
  · intro runs esc exited idle sound
    exact ⟨_, exec_partySlotFree_next party (slotLive_of_run party runs esc) exited idle, freeSlot_empties sound⟩

end

section
/-! What the package holds right after reset (27 R460, 01 R27, 25 R442, R451, 28 R472, 15 R322). -/

namespace Sys2Proof.Machine

/-- The memories of the package after reset list nothing. -/
theorem memoriesCanonical_reset : MemoriesCanonical State.reset :=
  ⟨rfl, fun _ listed => nomatch listed⟩

end Sys2Proof.Machine

open Sys2Proof Sys2Proof.Machine

/-- Settles O59: every table is empty after reset, so that an entry reads as the default of its table. -/
theorem resetHoldsWhatTheSpecSays : Obligations.ResetHoldsWhatTheSpecSays := by
  refine ⟨memoriesCanonical_reset, ?_⟩
  have die : ∀ d, State.reset.die d = Die.init := fun _ => rfl
  have slot : ∀ k, State.reset.slot k = Slot.init := fun _ => rfl
  simp only [State.party?, die, slot]
  simp [State.reset, Die.init, Slot.init]

end

section
/-! The bits of byte lists and of coherent lines (15_die_memory.md R316, R319, 00_scope.md R7). A number read from memory or from
a line is compared bit by bit: bit i stands in byte i / 8, and in sector i / 256 of its line. -/

namespace Sys2Proof.Machine

/-! ## Byte lists, bit by bit -/

theorem testBit_read (m : List Host.Cell) (a n i : Nat) :
    (Memory.read m a n).testBit i = (decide (i < 8 * n) && (Memory.get m (a + i / 8)).getLsbD (i % 8)) := by
  induction n generalizing a i with
  | zero => simp [Memory.read]
  | succ n ih =>
    have split : Memory.read m a (n + 1) = 2 ^ 8 * Memory.read m (a + 1) n + (Memory.get m a).toNat := by
      rw [Memory.read]
      omega
    rw [split, Nat.testBit_two_pow_mul_add _ (Memory.get m a).isLt]
    by_cases low : i < 8
    · have first : i / 8 = 0 ∧ i % 8 = i := ⟨by omega, by omega⟩
      simp only [low, first, if_true, Nat.add_zero, ← BitVec.testBit_toNat]
      simp [show i < 8 * (n + 1) by omega]
    · have later : a + 1 + (i - 8) / 8 = a + i / 8 ∧ (i - 8) % 8 = i % 8 := ⟨by omega, by omega⟩
      rw [if_neg low, ih, later.1, later.2]
      congr 1
      simp only [decide_eq_decide]
      omega

/-- A byte inside a write is the byte of the number written. -/
theorem Memory.get_write_inside {m : List Host.Cell} (h : Memory.wf m = true) (a n x i : Nat) (hi : i < n) :
    Memory.get (Memory.write m a n x) (a + i) = BitVec.ofNat 8 (x / 256 ^ i) := by
  induction n generalizing m a x i with
  | zero => omega
  | succ n ih =>
    rw [Memory.write]
    cases i with
    | zero =>
      rw [Memory.get_write_outside (Memory.wf_put h _ _) _ _ _ _ (by omega), Memory.get_put h]
      simp
    | succ i =>
      rw [show a + (i + 1) = a + 1 + i by omega, ih (Memory.wf_put h _ _) _ _ _ (by omega), Nat.div_div_eq_div_mul,
        ← Nat.pow_succ']

theorem testBit_read_write {m : List Host.Cell} (h : Memory.wf m = true) (a n x b k i : Nat) :
    (Memory.read (Memory.write m a n x) b k).testBit i =
      if i < 8 * k ∧ 8 * a ≤ 8 * b + i ∧ 8 * b + i < 8 * (a + n) then x.testBit (8 * b + i - 8 * a)
      else (Memory.read m b k).testBit i := by
  simp only [testBit_read]
  by_cases inside : a ≤ b + i / 8 ∧ b + i / 8 < a + n
  · obtain ⟨j, place⟩ := Nat.exists_eq_add_of_le inside.1
    rw [place, Memory.get_write_inside h _ _ _ _ (by omega), BitVec.getLsbD_ofNat, show 256 = 2 ^ 8 from rfl, ← Nat.pow_mul,
      Nat.testBit_div_two_pow, show i % 8 + 8 * j = 8 * b + i - 8 * a by omega]
    by_cases low : i < 8 * k
    · rw [if_pos (by omega)]
      simp [low, Nat.mod_lt]
    · simp [low]
  · rw [Memory.get_write_outside h _ _ _ _ (by omega), if_neg (by omega)]

theorem read_lt (m : List Host.Cell) (a n : Nat) : Memory.read m a n < 2 ^ (8 * n) :=
  Nat.lt_pow_two_of_testBit _ fun i hi => by simp [testBit_read, Nat.not_lt.2 hi]

/-- Bytes written are the bytes read. -/
theorem Memory.read_write_same {m : List Host.Cell} (h : Memory.wf m = true) (a n x : Nat) :
    Memory.read (Memory.write m a n x) a n = x % 2 ^ (8 * n) := by
  refine Nat.eq_of_testBit_eq fun i => ?_
  rw [testBit_read_write h, Nat.testBit_mod_two_pow]
  by_cases inside : i < 8 * n
  · rw [if_pos (by omega)]
    simp [inside]
  · rw [if_neg (by omega), testBit_read]
    simp [inside]

/-! ## Sectors and lines, bit by bit -/

theorem testBit_sectorOf (data k i : Nat) : (sectorOf data k).testBit i = (decide (i < 256) && data.testBit (256 * k + i)) :=
  testBit_fld ..
theorem sectorOf_lt (data k : Nat) : sectorOf data k < 2 ^ 256 := Nat.mod_lt _ (Nat.two_pow_pos _)

/-- Fields of w bits joined, the first lowest. -/
theorem testBit_joinFields {f : Nat → Nat} {w : Nat} (field : ∀ k, f k < 2 ^ w) (n i : Nat) :
    ((upTo n).foldl (fun x k => x + f k * 2 ^ (w * k)) 0).testBit i = (decide (i < w * n) && (f (i / w)).testBit (i % w)) := by
  have join (n : Nat) : (upTo (n + 1)).foldl (fun x k => x + f k * 2 ^ (w * k)) 0 =
      2 ^ (w * n) * f n + (upTo n).foldl (fun x k => x + f k * 2 ^ (w * k)) 0 := by
    rw [upTo, List.range_succ, List.foldl_append, Nat.add_comm, Nat.mul_comm (2 ^ (w * n))]
    rfl
  have short (n : Nat) : (upTo n).foldl (fun x k => x + f k * 2 ^ (w * k)) 0 < 2 ^ (w * n) := by
    induction n with
    | zero => exact Nat.one_pos
    | succ n ih =>
      rw [join, Nat.mul_succ, Nat.pow_add]
      exact Nat.lt_of_lt_of_le (Nat.add_lt_add_left ih _) (Nat.mul_le_mul_left (2 ^ (w * n)) (field n))
  induction n with
  | zero => simp [upTo]
  | succ n ih =>
    rw [join, Nat.testBit_two_pow_mul_add _ (short n), Nat.mul_succ]
    split
    · next low =>
      rw [ih]
      simp [low, Nat.lt_add_right w low]
    · next high =>
      obtain ⟨j, place⟩ := Nat.exists_eq_add_of_le (Nat.not_lt.1 high)
      rw [place, Nat.add_sub_cancel_left]
      by_cases inside : j < w
      · rw [Nat.mul_add_div (by omega), Nat.mul_add_mod, Nat.div_eq_of_lt inside, Nat.mod_eq_of_lt inside]
        simp [inside]
      · rw [Nat.testBit_lt_two_pow (Nat.lt_of_lt_of_le (field n) (Nat.pow_le_pow_right (by decide) (Nat.not_lt.1 inside)))]
        simp [inside]

end Sys2Proof.Machine
end

section
/-! Coherent lines (15_die_memory.md R316, R318, R319, R321): what the directory's operations leave of a line's coherent value.
A line's value is its owner's valid sectors over DRAM's; so it stays where owner and DRAM stay, and where an owner gives its copy
up it stays because the owner's sectors have been written back first. -/

namespace Sys2Proof.Machine

variable {s t u : State} {line die : Nat}

/-! ## The owner of a line -/

/-- A die holds a line modified or owned. -/
def Owns (s : State) (line d : Nat) : Prop := heldAs s line d = some .m ∨ heldAs s line d = some .o
/-- At most one die owns a line. -/
def OneOwner (s : State) (line : Nat) : Prop := ∀ d < 4, ∀ e < 4, Owns s line d → Owns s line e → d = e

theorem mem_allDies {d : Nat} : d ∈ allDies ↔ d < 4 := by
  simp [allDies]
  omega

theorem owns_of_ownerOf {d : Nat} (h : ownerOf s line = some d) : d < 4 ∧ Owns s line d := by
  refine ⟨mem_allDies.1 (List.mem_of_find?_eq_some h), ?_⟩
  simpa [Owns] using List.find?_some h
theorem OneOwner.ownerOf_eq {d : Nat} (one : OneOwner s line) (inside : d < 4) (owns : Owns s line d) : ownerOf s line = some d := by
  cases h : ownerOf s line with
  | none =>
    have := List.find?_eq_none.1 h d (mem_allDies.2 inside)
    exact absurd owns (by simpa [Owns] using this)
  | some e => rw [one e (owns_of_ownerOf h).1 d inside (owns_of_ownerOf h).2 owns]
theorem ownerOf_none (h : ∀ d < 4, ¬Owns s line d) : ownerOf s line = none := by
  cases e : ownerOf s line with
  | none => rfl
  | some d => exact absurd (owns_of_ownerOf e).2 (h d (owns_of_ownerOf e).1)

theorem heldAs_eq_some {d : Nat} {x : Moesi} :
    heldAs s line d = some x ↔ ∃ l, s.l2? d line = some l ∧ l.st = x ∧ line ∉ (s.die d).invs := by
  cases h : s.l2? d line <;> simp [heldAs, holds, h, and_comm]
theorem heldAs_of_holds {d : Nat} {l : L2Line} (h : holds s line d = true) (entry : s.l2? d line = some l) :
    heldAs s line d = some l.st := by
  simp [heldAs, h, entry]
theorem dirty_iff {x : Moesi} : x.dirty = true ↔ x = .m ∨ x = .o := by cases x <;> simp [Moesi.dirty]

/-- The copy of the die that owns a line. -/
def ownCopy (s : State) (line : Nat) : Option L2Line := (ownerOf s line).bind fun d => s.l2? d line

theorem coherentSector_eq (s : State) (line k : Nat) : coherentSector s line k =
    match ownCopy s line with
    | some l => if bitOf l.sect k then sectorOf l.data k else sectorOf (dramLine s line) k
    | none => sectorOf (dramLine s line) k := by
  unfold coherentSector ownCopy
  rfl
theorem coherentSector_lt (s : State) (line k : Nat) : coherentSector s line k < 2 ^ 256 := by
  rw [coherentSector_eq]
  split
  · split <;> exact sectorOf_lt ..
  · exact sectorOf_lt ..
theorem testBit_coherentLine (s : State) (line i : Nat) :
    (coherentLine s line).testBit i = (decide (i < 1024) && (coherentSector s line (i / 256)).testBit (i % 256)) :=
  testBit_joinFields (coherentSector_lt s line) 4 i
theorem coherentLine_of_sectors (h : ∀ k < 4, coherentSector t line k = coherentSector s line k) :
    coherentLine t line = coherentLine s line := by
  refine Nat.eq_of_testBit_eq fun i => ?_
  rw [testBit_coherentLine, testBit_coherentLine]
  by_cases inside : i < 1024
  · rw [h _ (by omega)]
  · simp [inside]

/-- The owner, its copy and DRAM say what a line holds. -/
theorem coherentSector_congr (owners : ∀ d, Owns t line d ↔ Owns s line d)
    (entries : ∀ d, Owns s line d → t.l2? d line = s.l2? d line) (dram : dramLine t line = dramLine s line) (k : Nat) :
    coherentSector t line k = coherentSector s line k := by
  have owner : ownerOf t line = ownerOf s line := by
    refine congrArg (fun p => allDies.find? p) (funext fun d => ?_)
    rw [Bool.eq_iff_iff]
    simpa only [Bool.or_eq_true, beq_iff_eq, Owns] using owners d
  have copy : ownCopy t line = ownCopy s line := by
    rw [ownCopy, ownCopy, owner]
    cases h : ownerOf s line with
    | none => rfl
    | some d => exact entries d (owns_of_ownerOf h).2
  rw [coherentSector_eq, coherentSector_eq, copy, dram]

/-! ## What does not touch a line -/

/-- t has the copies, the queued invalidations and the DRAM of a line that s has. -/
structure SameLine (s t : State) (line : Nat) : Prop where
  l2 : ∀ d, t.l2? d line = s.l2? d line
  invs : ∀ d, line ∈ (t.die d).invs ↔ line ∈ (s.die d).invs
  dram : dramLine t line = dramLine s line

theorem SameLine.refl (s : State) (line : Nat) : SameLine s s line := ⟨fun _ => rfl, fun _ => Iff.rfl, rfl⟩
theorem SameLine.trans (h : SameLine s t line) (h' : SameLine t u line) : SameLine s u line :=
  ⟨fun d => (h'.l2 d).trans (h.l2 d), fun d => (h'.invs d).trans (h.invs d), h'.dram.trans h.dram⟩
theorem SameLine.foldl {α : Type} {f : State → α → State} (h : ∀ s x, SameLine s (f s x) line) (xs : List α) (s : State) :
    SameLine s (xs.foldl f s) line := by
  induction xs generalizing s with
  | nil => exact .refl ..
  | cons x xs ih => exact (h s x).trans (ih _)
theorem SameLine.heldAs (h : SameLine s t line) (d : Nat) : heldAs t line d = heldAs s line d := by
  simp [Machine.heldAs, holds, h.l2, h.invs]
theorem SameLine.owns (h : SameLine s t line) (d : Nat) : Owns t line d ↔ Owns s line d := by simp only [Owns, h.heldAs]
theorem SameLine.oneOwner (h : SameLine s t line) (one : OneOwner s line) : OneOwner t line :=
  fun d hd e he od oe => one d hd e he ((h.owns d).1 od) ((h.owns e).1 oe)
theorem SameLine.coherentSector (h : SameLine s t line) (k : Nat) : coherentSector t line k = coherentSector s line k :=
  coherentSector_congr h.owns (fun d _ => h.l2 d) h.dram k

theorem l2?_putL2 (s : State) (die line : Nat) (x : L2Line) (d k : Nat) :
    (s.putL2 die line x).l2? d k = if d = die ∧ k = line then some x else s.l2? d k := by
  simp [State.l2?, State.putL2, aget?_aset]
theorem l2?_setL2 (s : State) (die line : Nat) (x : L2Line) (d k : Nat) :
    (s.setL2 die line x).l2? d k = if d = die ∧ k = line then some x else s.l2? d k := l2?_putL2 (s.track line) ..
theorem l2?_delL2 (s : State) (die line d k : Nat) :
    (s.delL2 die line).l2? d k = if d = die ∧ k = line then none else s.l2? d k := by
  simp only [State.l2?, State.delL2]
  split
  · next same => rw [same.1, same.2, aget?_adel_same]
  · next other => exact aget?_adel_ne (by simpa using other) _
theorem invs_dropInv (s : State) (die line d k : Nat) :
    k ∈ ((dropInv s die line).die d).invs ↔ k ∈ (s.die d).invs ∧ ¬(d = die ∧ k = line) := by
  unfold dropInv
  by_cases same : d = die
  · subst same
    simp
  · simp [State.die_setDie_ne same, same]

theorem sameLine_track (s : State) (k line : Nat) : SameLine s (s.track k) line := ⟨fun _ => rfl, fun _ => Iff.rfl, rfl⟩
theorem sameLine_putL2 {k : Nat} (other : line ≠ k) (s : State) (d : Nat) (x : L2Line) : SameLine s (s.putL2 d k x) line :=
  ⟨fun e => by simp [l2?_putL2, other], fun _ => Iff.rfl, rfl⟩
theorem sameLine_setL2 {k : Nat} (other : line ≠ k) (s : State) (d : Nat) (x : L2Line) : SameLine s (s.setL2 d k x) line :=
  (sameLine_track s k line).trans (sameLine_putL2 other _ d x)
theorem sameLine_delL2 {k : Nat} (other : line ≠ k) (s : State) (d : Nat) : SameLine s (s.delL2 d k) line :=
  ⟨fun e => by simp [l2?_delL2, other], fun _ => Iff.rfl, rfl⟩
theorem sameLine_dropInv {k : Nat} (other : line ≠ k) (s : State) (d : Nat) : SameLine s (dropInv s d k) line :=
  ⟨fun _ => rfl, fun e => by simp [invs_dropInv, other], rfl⟩
theorem sameLine_invalidate {k : Nat} (other : line ≠ k) (s : State) (d : Nat) :
    SameLine s (s.setDie d { s.die d with invs := (s.die d).invs ++ [k] }) line := by
  refine ⟨fun _ => rfl, fun e => ?_, rfl⟩
  by_cases same : e = d
  · subst same
    simp [other]
  · simp [State.die_setDie_ne same]

/-! ## A write-back (R316) -/

/-- The valid sectors of a copy put into a byte list. -/
def putSectors (l : L2Line) (line : Nat) (m : List Host.Cell) : List Host.Cell :=
  (upTo 4).foldl (fun m k => if bitOf l.sect k then Memory.write m (line * 128 + 32 * k) 32 (sectorOf l.data k) else m) m

theorem writeBack_eq {l : L2Line} (entry : s.l2? die line = some l) :
    writeBack s die line = { s with dram := putSectors l line s.dram } := by
  simp only [writeBack, entry]
  rfl

/-- The bits of a line once some of a copy's sectors stand in it. -/
theorem testBit_putFrom {l : L2Line} {ks : List Nat} {m : List Host.Cell} (canonical : Memory.wf m = true) (inside : ∀ k ∈ ks, k < 4)
    (k i : Nat) :
    let put := fun m k => if bitOf l.sect k then Memory.write m (line * 128 + 32 * k) 32 (sectorOf l.data k) else m
    Memory.wf (ks.foldl put m) = true ∧ (Memory.read (ks.foldl put m) (k * 128) 128).testBit i =
      if k = line ∧ i < 1024 ∧ i / 256 ∈ ks ∧ bitOf l.sect (i / 256) = true then l.data.testBit i
      else (Memory.read m (k * 128) 128).testBit i := by
  intro put
  induction ks generalizing m with
  | nil => exact ⟨canonical, by simp⟩
  | cons j ks ih =>
    have step : Memory.wf (put m j) = true := by
      simp only [put]
      split
      · exact Memory.wf_write canonical ..
      · exact canonical
    obtain ⟨wf, bits⟩ := ih step (fun k hk => inside k (List.mem_cons_of_mem _ hk))
    refine ⟨wf, bits.trans ?_⟩
    have j4 := inside j (List.mem_cons_self ..)
    by_cases valid : bitOf l.sect j = true
    · have write : put m j = Memory.write m (line * 128 + 32 * j) 32 (sectorOf l.data j) := if_pos valid
      rw [write, testBit_read_write canonical]
      by_cases here : k = line ∧ i < 1024 ∧ i / 256 = j
      · obtain ⟨rfl, low, rfl⟩ := here
        rw [if_pos (c := _ ∧ _ ∧ _ ∈ _ :: _ ∧ _) ⟨rfl, low, List.mem_cons_self .., valid⟩, if_pos (c := _ < 8 * 128 ∧ _) (by omega),
          testBit_sectorOf, show 8 * (k * 128) + i - 8 * (k * 128 + 32 * (i / 256)) = i % 256 by omega]
        simp [Nat.mod_lt, Nat.div_add_mod]
      · rw [if_neg (c := _ < 8 * 128 ∧ _) (by omega)]
        exact if_congr (by simp only [List.mem_cons]; tauto) rfl rfl
    · have skip : put m j = m := if_neg valid
      have other : bitOf l.sect (i / 256) = true → i / 256 ≠ j := fun bit same => valid (same ▸ bit)
      rw [skip]
      exact if_congr (by simp only [List.mem_cons]; tauto) rfl rfl


theorem testBit_writeBack {l : L2Line} (entry : s.l2? die line = some l) (canonical : Memory.wf s.dram = true) (k i : Nat) :
    (dramLine (writeBack s die line) k).testBit i =
      if k = line ∧ i < 1024 ∧ bitOf l.sect (i / 256) = true then l.data.testBit i else (dramLine s k).testBit i := by
  rw [writeBack_eq entry, dramLine, putSectors, (testBit_putFrom canonical (by simp) k i).2]
  exact if_congr (and_congr_right fun _ => and_congr_right fun low => and_iff_right (mem_upTo.2 (by omega))) rfl rfl
theorem wf_writeBack (canonical : Memory.wf s.dram = true) (die line : Nat) : Memory.wf (writeBack s die line).dram = true := by
  cases entry : s.l2? die line with
  | none => simpa only [writeBack, entry] using canonical
  | some l =>
    rw [writeBack_eq entry]
    exact (testBit_putFrom canonical (by simp) 0 0).1
theorem sameLine_writeBack {k : Nat} (other : line ≠ k) (canonical : Memory.wf s.dram = true) (d : Nat) :
    SameLine s (writeBack s d k) line := by
  cases entry : s.l2? d k with
  | none =>
    simp only [writeBack, entry]
    exact .refl ..
  | some l =>
    refine ⟨fun e => by rw [writeBack_eq entry]; rfl, fun e => by rw [writeBack_eq entry]; rfl, Nat.eq_of_testBit_eq fun i => ?_⟩
    rw [testBit_writeBack entry canonical, if_neg (by simp [other])]

/-! ## Copies given up (R319) -/

/-- A state in which nobody of a list holds a line, and its coherent value is that of s. -/
theorem coherentSector_of_none (none : ∀ d < 4, ¬Owns s line d) (k : Nat) : coherentSector s line k = sectorOf (dramLine s line) k := by
  rw [coherentSector_eq, ownCopy, ownerOf_none none]
  rfl
theorem coherentSector_of_owner {l : L2Line} {d : Nat} (one : OneOwner s line) (inside : d < 4) (owns : Owns s line d)
    (entry : s.l2? d line = some l) (k : Nat) :
    coherentSector s line k = if bitOf l.sect k then sectorOf l.data k else sectorOf (dramLine s line) k := by
  rw [coherentSector_eq, ownCopy, one.ownerOf_eq inside owns]
  simp only [Option.bind_some, entry]

theorem heldAs_delL2 (s : State) (d k e line : Nat) :
    heldAs (s.delL2 d k) line e = if e = d ∧ line = k then none else heldAs s line e := by
  simp only [heldAs, holds, l2?_delL2]
  split
  · simp
  · rfl
theorem heldAs_writeBack (s : State) (d k line e : Nat) : heldAs (writeBack s d k) line e = heldAs s line e := by
  unfold writeBack
  split
  · rfl
  · rfl
theorem heldAs_invalidate (s : State) (d k e line : Nat) :
    heldAs (s.setDie d { s.die d with invs := (s.die d).invs ++ [k] }) line e = if e = d ∧ line = k then none else heldAs s line e := by
  by_cases same : e = d
  · subst same
    by_cases here : line = k
    · simp [heldAs, holds, here]
    · simp only [heldAs, holds, State.die_setDie_same, here, and_false, if_false]
      simp [here, State.l2?]
  · rw [if_neg (by simp [same])]
    simp only [heldAs, holds, State.die_setDie_ne same]
    rfl

/-- An owner writes back and gives its copy up: memory has what only that copy had. -/
theorem coherentSector_release {d : Nat} (canonical : Memory.wf s.dram = true) (one : OneOwner s line) (inside : d < 4)
    (owns : Owns s line d) {k : Nat} (sector : k < 4) :
    coherentSector ((writeBack s d line).delL2 d line) line k = coherentSector s line k := by
  obtain ⟨l, entry⟩ : ∃ l, s.l2? d line = some l := by
    rcases owns with h | h <;> exact (heldAs_eq_some.1 h).imp fun l h => h.1
  have gone : ∀ e < 4, ¬Owns ((writeBack s d line).delL2 d line) line e := fun e he oe => by
    simp only [Owns, heldAs_delL2, heldAs_writeBack, and_true] at oe
    by_cases same : e = d
    · simp [same] at oe
    · exact same (one e he d inside (by simpa [same, Owns] using oe) owns)
  have dram : dramLine ((writeBack s d line).delL2 d line) line = dramLine (writeBack s d line) line := rfl
  rw [coherentSector_of_none gone, coherentSector_of_owner one inside owns entry, dram]
  refine Nat.eq_of_testBit_eq fun i => ?_
  by_cases low : i < 256
  · have place : (256 * k + i) / 256 = k := by omega
    rw [testBit_sectorOf, testBit_writeBack entry canonical, place]
    split
    · next valid => rw [if_pos valid.2.2, testBit_sectorOf]
    · next invalid => rw [if_neg fun valid => invalid ⟨rfl, by omega, valid⟩, testBit_sectorOf]
  · split <;> simp [testBit_sectorOf, low]

/-- A copy that owns nothing goes: the line keeps its value. -/
theorem coherentSector_drop {d : Nat} (other : ¬Owns s line d) (k : Nat) :
    coherentSector (s.delL2 d line) line k = coherentSector s line k := by
  refine coherentSector_congr (fun e => ?_) (fun e owns => ?_) (by rfl) k
  · by_cases same : e = d
    · subst same
      simpa [Owns, heldAs_delL2] using other
    · simp [Owns, heldAs_delL2, same]
  · rw [l2?_delL2, if_neg]
    rintro ⟨rfl, -⟩
    exact other owns
/-- An invalidation towards a die that owns nothing: the line keeps its value. -/
theorem coherentSector_invalidate {d : Nat} (other : ¬Owns s line d) (k : Nat) :
    coherentSector (s.setDie d { s.die d with invs := (s.die d).invs ++ [line] }) line k = coherentSector s line k := by
  refine coherentSector_congr (fun e => ?_) (fun e _ => by rfl) (by rfl) k
  by_cases same : e = d
  · subst same
    simpa [Owns, heldAs_invalidate] using other
  · simp [Owns, heldAs_invalidate, same]

/-! ## Every die gives a line up (R319, R321) -/

/-- Die d gives up a line, of which it may write back first (R319). -/
def giveUp (back : Bool) (line : Nat) (s : State) (d : Nat) : State :=
  match heldAs s line d with
  | some .m | some .o => (if back then writeBack s d line else s).delL2 d line
  | some .e => s.delL2 d line
  | some .s => s.setDie d { s.die d with invs := (s.die d).invs ++ [line] }
  | none => s

theorem heldAs_giveUp (back : Bool) (s : State) (line d e : Nat) :
    heldAs (giveUp back line s d) line e = if e = d then none else heldAs s line e := by
  have written : heldAs ((if back then writeBack s d line else s).delL2 d line) line e = if e = d then none else heldAs s line e := by
    rw [heldAs_delL2]
    cases back <;> simp [heldAs_writeBack]
  unfold giveUp
  split
  · exact written
  · exact written
  · simp [heldAs_delL2]
  · simp [heldAs_invalidate]
  · next nobody =>
    split
    · next same => rw [same, nobody]
    · rfl

theorem sameLine_giveUp {k : Nat} (other : line ≠ k) (back : Bool) (canonical : Memory.wf s.dram = true) (d : Nat) :
    SameLine s (giveUp back k s d) line := by
  have written : SameLine s (if back then writeBack s d k else s) line := by
    cases back
    · exact .refl ..
    · exact sameLine_writeBack other canonical d
  unfold giveUp
  split
  · exact written.trans (sameLine_delL2 other ..)
  · exact written.trans (sameLine_delL2 other ..)
  · exact sameLine_delL2 other ..
  · exact sameLine_invalidate other ..
  · exact .refl ..
theorem wf_giveUp (canonical : Memory.wf s.dram = true) (back : Bool) (line d : Nat) : Memory.wf (giveUp back line s d).dram = true := by
  have written : Memory.wf (if back then writeBack s d line else s).dram = true := by
    cases back
    · exact canonical
    · exact wf_writeBack canonical ..
  unfold giveUp
  split
  · exact written
  · exact written
  · exact canonical
  · exact canonical
  · exact canonical
theorem OneOwner.giveUp (one : OneOwner s line) (back : Bool) (d : Nat) : OneOwner (giveUp back line s d) line :=
    fun e he' f hf' oe of => by
  simp only [Owns, heldAs_giveUp] at oe of
  by_cases he : e = d
  · simp [he] at oe
  by_cases hf : f = d
  · simp [hf] at of
  exact one e he' f hf' (by simpa only [he, if_false, Owns] using oe) (by simpa only [hf, if_false, Owns] using of)
theorem coherentSector_giveUp {d : Nat} (canonical : Memory.wf s.dram = true) (one : OneOwner s line) (inside : d < 4) {k : Nat}
    (sector : k < 4) : coherentSector (giveUp true line s d) line k = coherentSector s line k := by
  unfold giveUp
  split
  · next m => exact coherentSector_release canonical one inside (.inl m) sector
  · next o => exact coherentSector_release canonical one inside (.inr o) sector
  · next e => exact coherentSector_drop (by simp [Owns, e]) k
  · next sh => exact coherentSector_invalidate (by simp [Owns, sh]) k
  · rfl

/-- Dies give a line up one after another: none of them holds it then, and where they write back it keeps its value. -/
theorem giveUps (canonical : Memory.wf s.dram = true) (one : OneOwner s line) (ds : List Nat) (inside : ∀ d ∈ ds, d < 4) :
    let t := ds.foldl (giveUp true line) s
    Memory.wf t.dram = true ∧ ∀ k < 4, coherentSector t line k = coherentSector s line k := by
  induction ds generalizing s with
  | nil => exact ⟨canonical, fun _ _ => rfl⟩
  | cons d ds ih =>
    obtain ⟨wf, value⟩ := ih (wf_giveUp canonical true line d) (one.giveUp true d) (fun e he => inside e (List.mem_cons_of_mem _ he))
    exact ⟨wf, fun k hk => (value k hk).trans (coherentSector_giveUp canonical one (inside d (List.mem_cons_self ..)) hk)⟩
theorem heldAs_giveUps (back : Bool) (s : State) (line e : Nat) (ds : List Nat) :
    heldAs (ds.foldl (giveUp back line) s) line e = if e ∈ ds then none else heldAs s line e := by
  induction ds generalizing s with
  | nil => rfl
  | cons d ds ih =>
    rw [List.foldl_cons, ih, heldAs_giveUp]
    by_cases later : e ∈ ds <;> simp [later]
theorem sameLine_giveUps {k : Nat} (other : line ≠ k) (back : Bool) (canonical : Memory.wf s.dram = true) (ds : List Nat) :
    SameLine s (ds.foldl (giveUp back k) s) line := by
  induction ds generalizing s with
  | nil => exact .refl ..
  | cons d ds ih => exact (sameLine_giveUp other back canonical d).trans (ih (wf_giveUp canonical back k d))

/-! ## Bytes of the coherent value -/

/-- In t the coherent memory is that of s with n bytes of one line, from ppa up, as x. -/
structure LineWritten (s t : State) (ppa n x : Nat) : Prop where
  line : ∀ i < 1024, (coherentLine t (lineOf ppa)).testBit i =
    if 8 * (ppa % 128) ≤ i ∧ i < 8 * (ppa % 128) + 8 * n then x.testBit (i - 8 * (ppa % 128))
    else (coherentLine s (lineOf ppa)).testBit i
  others : ∀ k, k ≠ lineOf ppa → coherentLine t k = coherentLine s k

theorem LineWritten.read {ppa n x : Nat} (h : LineWritten s t ppa n x) (inside : ppa % 128 + n ≤ 128) :
    coherentRead t ppa n = x % 2 ^ (8 * n) := by
  refine Nat.eq_of_testBit_eq fun i => ?_
  rw [coherentRead, testBit_fld, Nat.testBit_mod_two_pow]
  by_cases low : i < 8 * n
  · rw [h.line _ (by omega), if_pos (by omega), Nat.add_sub_cancel_left]
  · simp [low]
theorem LineWritten.byte {ppa n x b : Nat} (h : LineWritten s t ppa n x) (outside : b < ppa ∨ ppa + n ≤ b) :
    coherentByte t b = coherentByte s b := by
  unfold coherentByte coherentRead
  by_cases same : lineOf b = lineOf ppa
  · refine Nat.eq_of_testBit_eq fun i => ?_
    rw [testBit_fld, testBit_fld, same]
    by_cases low : i < 8 * 1
    · unfold lineOf at same
      rw [h.line _ (by omega), if_neg (by omega)]
    · simp [low]
  · rw [h.others _ same]

/-- A write to the bytes of DRAM under a line that nobody owns. -/
theorem dram_writes {ppa n : Nat} (x : Nat) (canonical : Memory.wf s.dram = true) (inside : ppa % 128 + n ≤ 128)
    (free : ∀ d < 4, ¬Owns s (lineOf ppa) d) : LineWritten s { s with dram := Memory.write s.dram ppa n x } ppa n x := by
  refine ⟨fun i low => ?_, fun k other => coherentLine_of_sectors fun j _ => ?_⟩
  · have bits (m : List Host.Cell) : (coherentLine { s with dram := m } (lineOf ppa)).testBit i =
        (Memory.read m (lineOf ppa * 128) 128).testBit i := by
      rw [testBit_coherentLine, coherentSector_of_none (s := { s with dram := m }) free, testBit_sectorOf]
      simp [low, Nat.mod_lt, Nat.div_add_mod, dramLine]
    rw [bits, bits s.dram, testBit_read_write canonical]
    unfold lineOf
    refine ite_congr (by simp only [eq_iff_iff]; omega) (fun within => ?_) (fun _ => rfl)
    congr 1
    omega
  · have apart : Memory.read (Memory.write s.dram ppa n x) (k * 128) 128 = Memory.read s.dram (k * 128) 128 := by
      refine Memory.read_write_outside canonical _ _ _ _ _ ?_
      unfold lineOf at other
      omega
    have same : SameLine s { s with dram := Memory.write s.dram ppa n x } k := ⟨fun _ => rfl, fun _ => Iff.rfl, by simpa only [dramLine] using apart⟩
    exact same.coherentSector j

theorem LineWritten.of_same {ppa n x : Nat} (h : LineWritten t u ppa n x) (same : ∀ k, coherentLine t k = coherentLine s k) :
    LineWritten s u ppa n x :=
  ⟨fun i low => by rw [h.line i low, same], fun k other => (h.others k other).trans (same k)⟩

theorem dirWrite_writes {ppa n : Nat} (x : Nat) (canonical : Memory.wf s.dram = true) (inside : ppa % 128 + n ≤ 128)
    (one : OneOwner s (lineOf ppa)) : LineWritten s (dirWrite s ppa n x) ppa n x := by
  obtain ⟨wf, value⟩ := giveUps canonical one allDies (fun d => mem_allDies.1)
  refine (dram_writes x wf inside fun d hd => ?_).of_same fun k => ?_
  · simp [Owns, heldAs_giveUps, mem_allDies.2 hd]
  · by_cases other : k = lineOf ppa
    · rw [other]
      exact coherentLine_of_sectors value
    · exact coherentLine_of_sectors fun j _ => (sameLine_giveUps other true canonical allDies).coherentSector j

/-! ## A slice makes room (R316) -/

/-- Nothing that a line reads as, and no owner, has come: DRAM is canonical, the lines that one die owned are still such, and
every coherent value is as it was. -/
structure SameValues (s t : State) : Prop where
  canonical : Memory.wf t.dram = true
  one : ∀ k, OneOwner s k → OneOwner t k
  value : ∀ k, OneOwner s k → ∀ j < 4, coherentSector t k j = coherentSector s k j

theorem OneOwner.of_owns (one : OneOwner s line) (owns : ∀ d, Owns t line d → Owns s line d) : OneOwner t line :=
  fun d hd e he od oe => one d hd e he (owns d od) (owns e oe)

/-- A line leaves an L2: where its copy was the owner's, memory has it. -/
theorem sameValues_l2Evict (canonical : Memory.wf s.dram = true) (inside : die < 4) (line : Nat) : SameValues s (l2Evict s die line) := by
  have owns (u : State) (same : ∀ k d, Machine.heldAs u k d = Machine.heldAs s k d) (k : Nat) (one : OneOwner s k) :
      OneOwner (u.delL2 die line) k := by
    refine one.of_owns fun d owns => ?_
    simp only [Owns, heldAs_delL2, same] at owns
    split at owns
    · simp at owns
    · exact owns
  unfold l2Evict
  split
  · next x st =>
    by_cases dirty : x.dirty = true
    · have mine : Owns s line die := by
        rcases dirty_iff.1 dirty with rfl | rfl
        · exact .inl st
        · exact .inr st
      rw [if_pos dirty]
      refine ⟨wf_writeBack canonical .., owns _ fun k d => heldAs_writeBack .., fun k one j hj => ?_⟩
      by_cases same : k = line
      · rw [same] at one ⊢
        exact coherentSector_release canonical one inside mine hj
      · exact ((sameLine_writeBack same canonical die).trans (sameLine_delL2 same ..)).coherentSector j
    · have other : ¬Owns s line die := by
        rw [Owns, st]
        simpa [dirty_iff] using dirty
      rw [if_neg dirty]
      refine ⟨canonical, owns _ fun _ _ => rfl, fun k _ j _ => ?_⟩
      by_cases same : k = line
      · rw [same]
        exact coherentSector_drop other j
      · exact (sameLine_delL2 same ..).coherentSector j
  · next nobody =>
    refine ⟨canonical, owns _ fun _ _ => rfl, fun k _ j _ => ?_⟩
    by_cases same : k = line
    · rw [same]
      exact coherentSector_drop (by simp [Owns, nobody]) j
    · exact (sameLine_delL2 same ..).coherentSector j
theorem sameValues_l2Make (canonical : Memory.wf s.dram = true) (inside : die < 4) (line : Nat) : SameValues s (l2Make s die line) := by
  have same : SameValues s s := ⟨canonical, fun _ one => one, fun _ _ _ _ => rfl⟩
  unfold l2Make
  split
  · exact same
  · split
    · exact sameValues_l2Evict canonical inside _
    · exact same

/-! ## A die owns a line and writes it (R319) -/

theorem bitOf_lor (a b k : Nat) : bitOf (Nat.lor a b) k = (bitOf a k || bitOf b k) := by
  simp only [bitOf_eq_testBit]
  exact Nat.testBit_or ..
theorem bitOf_sectorMask (off n : Nat) {k : Nat} (h : k < 4) :
    bitOf (sectorMask off n) k = (decide (off < 32 * k + 32) && decide (32 * k < off + n)) := by
  have mask (p : Nat → Bool) : bitOf ((upTo 4).foldl (fun m k => if p k then m + 2 ^ k else m) 0) k = p k := by
    simp only [upTo, List.range, List.range.loop, List.foldl]
    have : k = 0 ∨ k = 1 ∨ k = 2 ∨ k = 3 := by omega
    rcases this with rfl | rfl | rfl | rfl <;> cases p 0 <;> cases p 1 <;> cases p 2 <;> cases p 3 <;> rfl
  exact mask fun k => decide (off < 32 * k + 32) && decide (32 * k < off + n)

/-- The sectors of a mask are those of the coherent value, the others are as they were. -/
theorem testBit_fillFrom (s : State) (line old mask i : Nat) (ks : List Nat) (inside : ∀ k ∈ ks, k < 4) :
    (ks.foldl (fun x k => if bitOf mask k then setFld x (256 * k) 256 (coherentSector s line k) else x) old).testBit i =
      if i / 256 ∈ ks ∧ bitOf mask (i / 256) = true then (coherentSector s line (i / 256)).testBit (i % 256) else old.testBit i := by
  induction ks generalizing old with
  | nil => simp
  | cons j ks ih =>
    rw [List.foldl_cons, ih _ fun k hk => inside k (List.mem_cons_of_mem _ hk)]
    by_cases filled : bitOf mask j = true
    · rw [if_pos filled, testBit_setFld]
      by_cases here : i / 256 = j
      · have place : i - 256 * j = i % 256 := by omega
        rw [if_pos (c := 256 * j ≤ i ∧ _) (by omega), place]
        simp [here, filled]
      · rw [if_neg (c := 256 * j ≤ i ∧ _) (by omega)]
        exact if_congr (by simp only [List.mem_cons]; tauto) rfl rfl
    · have other : bitOf mask (i / 256) = true → i / 256 ≠ j := fun bit same => filled (same ▸ bit)
      rw [if_neg filled]
      exact if_congr (by simp only [List.mem_cons]; tauto) rfl rfl
theorem sectorOf_fillSectors (s : State) (line old mask : Nat) {k : Nat} (h : k < 4) (filled : bitOf mask k = true) :
    sectorOf (fillSectors s line old mask) k = coherentSector s line k := by
  refine Nat.eq_of_testBit_eq fun i => ?_
  rw [testBit_sectorOf, fillSectors, testBit_fillFrom _ _ _ _ _ _ (by simp)]
  by_cases low : i < 256
  · have place : (256 * k + i) / 256 = k ∧ (256 * k + i) % 256 = i := ⟨by omega, by omega⟩
    rw [place.1, place.2, if_pos ⟨mem_upTo.2 h, filled⟩]
    simp [low]
  · rw [Nat.testBit_lt_two_pow (Nat.lt_of_lt_of_le (coherentSector_lt s line k) (Nat.pow_le_pow_right (by decide) (Nat.not_lt.1 low)))]
    simp [low]

/-- Every other die gives the line up to die (R319, R321). -/
def takeLine (s : State) (die line : Nat) : State :=
  allDies.foldl (fun s d => if d = die then s else giveUp false line s d) s
theorem takeLine_eq (s : State) (die line : Nat) : takeLine s die line = (allDies.filter (· ≠ die)).foldl (giveUp false line) s := by
  rw [takeLine, List.foldl_filter]
  refine congrArg (fun f => allDies.foldl f s) (funext fun s => funext fun d => ?_)
  by_cases same : d = die <;> simp [same]
theorem dram_giveUps (s : State) (line : Nat) (ds : List Nat) : (ds.foldl (giveUp false line) s).dram = s.dram :=
  foldl_keeps State.dram (fun s d => by unfold giveUp; split <;> rfl) ds s

/-- What a die's L2 holds of a line that it takes. -/
def takenLine (s : State) (die line mask : Nat) : L2Line :=
  let sect := Nat.lor mask (validSectors s die line)
  { st := .m, sect := sect, data := fillSectors s line 0 sect, mark := ((s.l2? die line).map (·.mark)).getD 0 }

theorem l2Own_eq (s : State) (die line mask : Nat) : l2Own s die line mask =
    let s1 := (l2Make s die line).track line
    (dropInv (takeLine s1 die line) die line).putL2 die line (takenLine s1 die line mask) := rfl

theorem heldAs_taken {d : Nat} (other : d ≠ die) (s : State) (line : Nat) (x : L2Line) :
    heldAs ((dropInv s die line).putL2 die line x) line d = heldAs s line d := by
  have entry : ((dropInv s die line).putL2 die line x).l2? d line = s.l2? d line := by
    rw [l2?_putL2, if_neg (by simp [other])]
    rfl
  have queue : ((dropInv s die line).putL2 die line x).die d = s.die d := State.die_setDie_ne other ..
  simp only [heldAs, holds, entry, queue]
  rfl

/-- A die takes a line that nobody's copy needs any more: it is the owner, of the sectors of mask and of all that its own or the
owner's copy held. -/
theorem takeLine_owns (s : State) (die line : Nat) (canonical : Memory.wf s.dram = true) (x : L2Line) (st : x.st = .m) :
    let t := (dropInv (takeLine s die line) die line).putL2 die line x
    t.dram = s.dram ∧ OneOwner t line ∧ Owns t line die ∧ t.l2? die line = some x ∧ ∀ k, k ≠ line → SameLine s t k := by
  intro t
  have entry : t.l2? die line = some x := by simp [t, l2?_putL2]
  have mine : Owns t line die := .inl (heldAs_eq_some.2 ⟨x, entry, st, fun queued => ((invs_dropInv ..).1 queued).2 ⟨rfl, rfl⟩⟩)
  have alone : ∀ d < 4, Owns t line d → d = die := fun d hd owns => by
    by_contra other
    have gone : heldAs t line d = none := by
      have taken : heldAs (takeLine s die line) line d = none := by
        rw [takeLine_eq, heldAs_giveUps, if_pos (by simp [mem_allDies, hd, other])]
      exact (heldAs_taken other ..).trans taken
    simp [Owns, gone] at owns
  refine ⟨?_, fun d hd e he od oe => (alone d hd od).trans (alone e he oe).symm, mine, entry, fun k other => ?_⟩
  · show (takeLine s die line).dram = _
    rw [takeLine_eq, dram_giveUps]
  · have taken : SameLine s (takeLine s die line) k := by
      rw [takeLine_eq]
      exact sameLine_giveUps other false canonical _
    exact (taken.trans (sameLine_dropInv other ..)).trans (sameLine_putL2 other ..)

/-- Ownership leaves every coherent value as it is, and the die owns the line, with the sectors of mask. -/
theorem l2Own_owns (s : State) (die line mask : Nat) (canonical : Memory.wf s.dram = true) (inside : die < 4) (one : ∀ k, OneOwner s k) :
    let t := l2Own s die line mask
    SameValues s t ∧ Owns t line die ∧ ∃ l, t.l2? die line = some l ∧ ∀ k, bitOf mask k = true → bitOf l.sect k = true := by
  intro t
  have made := sameValues_l2Make canonical inside line
  let s1 := (l2Make s die line).track line
  have same (k : Nat) : SameLine (l2Make s die line) s1 k := sameLine_track ..
  obtain ⟨dram, only, mine, entry, others⟩ := takeLine_owns s1 die line made.canonical (takenLine s1 die line mask) rfl
  have value (k : Nat) : ∀ j < 4, coherentSector s1 k j = coherentSector s k j := fun j hj =>
    ((same k).coherentSector j).trans (made.value k (one k) j hj)
  refine ⟨⟨?_, fun k _ => ?_, fun k _ j hj => ?_⟩, mine, _, entry, fun k bit => ?_⟩
  · exact (congrArg Memory.wf dram).trans made.canonical
  · by_cases here : k = line
    · exact here ▸ only
    · exact (others k here).oneOwner ((same k).oneOwner (made.one k (one k)))
  · by_cases here : k = line
    · subst here
      refine Eq.trans ?_ (value k j hj)
      refine (coherentSector_of_owner only inside mine entry j).trans ?_
      by_cases taken : bitOf (takenLine s1 die k mask).sect j = true
      · rw [if_pos taken]
        exact sectorOf_fillSectors s1 k 0 _ hj taken
      · have lacks : ∀ l, ownCopy s1 k = some l → bitOf l.sect j = false := fun l copy => by
          have sects : bitOf (validSectors s1 die k) j = false := by
            simp only [takenLine, bitOf_lor, Bool.or_eq_true, not_or] at taken
            exact Bool.eq_false_iff.2 taken.2
          simp only [validSectors, bitOf_lor, Bool.or_eq_false_iff] at sects
          have := sects.2
          rw [ownCopy] at copy
          simpa [copy] using this
        rw [if_neg taken, coherentSector_eq]
        have dramSame : dramLine t k = dramLine s1 k := congrArg (fun m => Memory.read m (k * 128) 128) dram
        cases copy : ownCopy s1 k with
        | none => exact congrArg (fun x => sectorOf x j) dramSame
        | some l =>
          simp only [lacks l copy]
          exact congrArg (fun x => sectorOf x j) dramSame
    · exact ((others k here).coherentSector j).trans (value k j hj)
  · show bitOf (Nat.lor mask _) k = true
    rw [bitOf_lor, bit, Bool.true_or]

/-- The owner's copy is written: sectors that it holds take the data, the others stay DRAM's. -/
theorem coherentSector_setL2 {l : L2Line} (one : OneOwner s line) (inside : die < 4) (mine : Owns s line die) (entry : s.l2? die line = some l)
    (data k : Nat) : coherentSector (s.setL2 die line { l with data := data }) line k =
      if bitOf l.sect k then sectorOf data k else sectorOf (dramLine s line) k := by
  have states (d : Nat) : heldAs (s.setL2 die line { l with data := data }) line d = heldAs s line d := by
    by_cases same : d = die
    · subst same
      simp only [heldAs, holds, l2?_setL2, entry]
      rfl
    · simp only [heldAs, holds, l2?_setL2, same, false_and, if_false]
      rfl
  have owns (d : Nat) : Owns (s.setL2 die line { l with data := data }) line d ↔ Owns s line d := by simp only [Owns, states]
  have entry' : (s.setL2 die line { l with data := data }).l2? die line = some { l with data := data } := by simp [l2?_setL2]
  exact coherentSector_of_owner (one.of_owns fun d => (owns d).1) inside ((owns die).2 mine) entry' k

theorem l2Write_writes {ppa n : Nat} (x : Nat) (canonical : Memory.wf s.dram = true) (below : die < 4)
    (one : ∀ k, OneOwner s k) : LineWritten s (l2Write s die ppa n x) ppa n x := by
  obtain ⟨same, mine, l, entry, touched⟩ := l2Own_owns s die (lineOf ppa) (sectorMask (ppa % 128) n) canonical below one
  generalize owned : l2Own s die (lineOf ppa) (sectorMask (ppa % 128) n) = t at same mine entry
  have written : l2Write s die ppa n x = t.setL2 die (lineOf ppa) { l with data := setFld l.data (8 * (ppa % 128)) (8 * n) x } := by
    simp only [l2Write, owned, entry]
  have values (k : Nat) : coherentLine t k = coherentLine s k := coherentLine_of_sectors (same.value k (one k))
  refine LineWritten.of_same (t := t) ⟨fun i low => ?_, fun k other => coherentLine_of_sectors fun j _ => ?_⟩ values
  · have only := same.one (lineOf ppa) (one _)
    rw [written, testBit_coherentLine, testBit_coherentLine, coherentSector_setL2 only below mine entry,
      coherentSector_of_owner only below mine entry]
    by_cases held : bitOf l.sect (i / 256) = true
    · simp only [if_pos held, testBit_sectorOf, testBit_setFld, Nat.div_add_mod]
      simp [low, Nat.mod_lt]
    · rw [if_neg held, if_neg held, if_neg]
      rintro ⟨low', high⟩
      refine held (touched _ ?_)
      rw [bitOf_sectorMask _ _ (by omega)]
      simp
      omega
  · rw [written]
    exact (sameLine_setL2 other ..).coherentSector j

end Sys2Proof.Machine

open Sys2Proof Sys2Proof.Machine

/-- Settles O60: a byte list is compared byte by byte, and a coherent line bit by bit. A die that writes takes the line with every
sector that its owner had; an agent outside the dies writes DRAM once every die has given the line up. -/
theorem memoryReadsWhatWasWritten : Obligations.MemoryReadsWhatWasWritten := by
  refine ⟨fun m a n x canonical => ⟨Memory.wf_write canonical .., Memory.read_write_same canonical .., fun b outside =>
    Memory.get_write_outside canonical _ _ _ _ outside⟩, fun s ppa n x canonical inside alone => ?_⟩
  have one (k : Nat) : OneOwner s k := fun d _ e _ => alone k d e
  refine ⟨fun die below => ?_, ?_⟩
  · have writes : LineWritten s (l2Write s die ppa n x) ppa n x := l2Write_writes x canonical below one
    exact ⟨writes.read inside, fun b => writes.byte⟩
  · have writes := dirWrite_writes x canonical inside (one _)
    exact ⟨writes.read inside, fun b => writes.byte⟩

end

section
/-! The directory and the L2s between accesses (15_die_memory.md R316, R318, R319, R321, R329): snoops, evictions,
back-invalidations, the invalidations queued towards a die, and the combining of a line's partials. -/

namespace Sys2Proof.Machine

variable {s t u : State} {line die : Nat}

/-! ## What moving lines leaves -/

/-- t differs from s in DRAM, in the L2s with what the directory tracks, and in the invalidations queued towards dies. -/
structure LinesOnly (s t : State) : Prop where
  rest : { t with dram := s.dram, l2 := s.l2, tracked := s.tracked, dies := s.dies } = s
  dies : ∀ d, { t.die d with invs := (s.die d).invs } = s.die d

theorem LinesOnly.refl (s : State) : LinesOnly s s := ⟨rfl, fun _ => rfl⟩
theorem LinesOnly.trans (h : LinesOnly s t) (h' : LinesOnly t u) : LinesOnly s u := by
  refine ⟨?_, fun d => ?_⟩
  · have inner := congrArg (fun x : State => { x with dram := s.dram, l2 := s.l2, tracked := s.tracked, dies := s.dies }) h'.rest
    exact inner.trans h.rest
  · have inner := congrArg (fun x : Die => { x with invs := (s.die d).invs }) (h'.dies d)
    exact inner.trans (h.dies d)
theorem LinesOnly.foldl {α : Type} {f : State → α → State} (h : ∀ s x, LinesOnly s (f s x)) (xs : List α) (s : State) :
    LinesOnly s (xs.foldl f s) := by
  induction xs generalizing s with
  | nil => exact .refl s
  | cons x xs ih => exact (h s x).trans (ih _)
theorem LinesOnly.cores (h : LinesOnly s t) : t.cores = s.cores := (congrArg State.cores h.rest :)

theorem linesOnly_setInvs (s : State) (d : Nat) (invs : List Nat) : LinesOnly s (s.setDie d { s.die d with invs := invs }) := by
  refine ⟨rfl, fun e => ?_⟩
  by_cases same : e = d
  · rw [same, State.die_setDie_same]
  · rw [State.die_setDie_ne same]
theorem linesOnly_putL2 (s : State) (d k : Nat) (x : L2Line) : LinesOnly s (s.putL2 d k x) := ⟨rfl, fun _ => rfl⟩
theorem linesOnly_track (s : State) (k : Nat) : LinesOnly s (s.track k) := ⟨rfl, fun _ => rfl⟩
theorem linesOnly_setL2 (s : State) (d k : Nat) (x : L2Line) : LinesOnly s (s.setL2 d k x) := ⟨rfl, fun _ => rfl⟩
theorem linesOnly_delL2 (s : State) (d k : Nat) : LinesOnly s (s.delL2 d k) := ⟨rfl, fun _ => rfl⟩
theorem linesOnly_dropInv (s : State) (d k : Nat) : LinesOnly s (dropInv s d k) := linesOnly_setInvs ..
theorem linesOnly_dram (s : State) (m : List Host.Cell) : LinesOnly s { s with dram := m } := ⟨rfl, fun _ => rfl⟩
theorem linesOnly_writeBack (s : State) (d k : Nat) : LinesOnly s (writeBack s d k) := by
  unfold writeBack
  split
  · exact .refl s
  · exact linesOnly_dram ..
theorem linesOnly_giveUp (back : Bool) (k : Nat) (s : State) (d : Nat) : LinesOnly s (giveUp back k s d) := by
  have written : LinesOnly s (if back then writeBack s d k else s) := by
    cases back
    · exact .refl s
    · exact linesOnly_writeBack ..
  unfold giveUp
  split
  · exact written.trans (linesOnly_delL2 ..)
  · exact written.trans (linesOnly_delL2 ..)
  · exact linesOnly_delL2 ..
  · exact linesOnly_setInvs ..
  · exact .refl s
theorem linesOnly_l2Evict (s : State) (d k : Nat) : LinesOnly s (l2Evict s d k) := by
  unfold l2Evict
  split
  · split
    · exact (linesOnly_writeBack ..).trans (linesOnly_delL2 ..)
    · exact linesOnly_delL2 ..
  · exact linesOnly_delL2 ..
theorem linesOnly_l2Make (s : State) (d k : Nat) : LinesOnly s (l2Make s d k) := by
  unfold l2Make
  split
  · exact .refl s
  · split
    · exact linesOnly_l2Evict ..
    · exact .refl s
theorem linesOnly_takeLine (s : State) (d k : Nat) : LinesOnly s (takeLine s d k) := by
  rw [takeLine_eq]
  exact .foldl (linesOnly_giveUp false k) ..
theorem linesOnly_l2Own (s : State) (d k mask : Nat) : LinesOnly s (l2Own s d k mask) := by
  rw [l2Own_eq]
  exact ((((linesOnly_l2Make s d k).trans (linesOnly_track ..)).trans (linesOnly_takeLine ..)).trans
    (linesOnly_dropInv ..)).trans (linesOnly_putL2 ..)
theorem linesOnly_l2Write (s : State) (d ppa n x : Nat) : LinesOnly s (l2Write s d ppa n x) := by
  have owned : LinesOnly s (l2Own s d (lineOf ppa) (sectorMask (ppa % 128) n)) := linesOnly_l2Own ..
  unfold l2Write
  dsimp only
  split
  · exact owned.trans (linesOnly_setL2 ..)
  · exact owned
theorem linesOnly_dirWrite (s : State) (ppa n x : Nat) : LinesOnly s (dirWrite s ppa n x) :=
  (LinesOnly.foldl (linesOnly_giveUp true (lineOf ppa)) allDies s).trans (linesOnly_dram ..)
theorem linesOnly_freshen (s : State) (d k : Nat) : LinesOnly s (freshen s d k) := by
  unfold freshen
  split
  · exact (linesOnly_delL2 ..).trans (linesOnly_dropInv ..)
  · exact .refl s

/-! ## A line's copies are flushed (R318, R319) -/

/-- Die d writes a line back where it owns it, and drops its copy. -/
def flushDie (line : Nat) (s : State) (d : Nat) : State :=
  match s.l2? d line with
  | none => s
  | some l => dropInv ((if holds s line d && (l.st == .m || l.st == .o) then writeBack s d line else s).delL2 d line) d line

theorem flushLine_drops (s : State) (line : Nat) : flushLine s line false = allDies.foldl (flushDie line) s := rfl

theorem l2?_flushDie (s : State) (line d e : Nat) :
    (flushDie line s d).l2? e line = if e = d then none else s.l2? e line := by
  unfold flushDie
  split
  · next nobody =>
    split
    · next same => rw [same, nobody]
    · rfl
  · have dropped (u : State) (same : u.l2 = s.l2) :
        (dropInv (u.delL2 d line) d line).l2? e line = if e = d then none else s.l2? e line := by
      have entry : (dropInv (u.delL2 d line) d line).l2? e line = (u.delL2 d line).l2? e line := rfl
      rw [entry, l2?_delL2, State.l2?, same]
      simp [State.l2?]
    refine dropped _ ?_
    split
    · simp only [writeBack]
      split <;> rfl
    · rfl
theorem l2?_flushes (s : State) (line e : Nat) (ds : List Nat) :
    (ds.foldl (flushDie line) s).l2? e line = if e ∈ ds then none else s.l2? e line := by
  induction ds generalizing s with
  | nil => rfl
  | cons d ds ih =>
    rw [List.foldl_cons, ih, l2?_flushDie]
    by_cases later : e ∈ ds <;> simp [later]

/-- Once a die's copy has gone, a queued invalidation of it says nothing. -/
theorem owns_dropInv {d : Nat} (gone : s.l2? d line = none) (e : Nat) : Owns (dropInv s d line) line e ↔ Owns s line e := by
  have states : heldAs (dropInv s d line) line e = heldAs s line e := by
    by_cases same : e = d
    · subst same
      have entry : (dropInv s e line).l2? e line = none := gone
      simp [heldAs, entry, gone]
    · have queue : (dropInv s d line).die e = s.die e := State.die_setDie_ne same ..
      simp only [heldAs, holds, queue]
      rfl
  simp only [Owns, states]

theorem sameValue_flushDie {d : Nat} (canonical : Memory.wf s.dram = true) (one : OneOwner s line) (inside : d < 4) :
    Memory.wf (flushDie line s d).dram = true ∧ OneOwner (flushDie line s d) line ∧
      ∀ k < 4, coherentSector (flushDie line s d) line k = coherentSector s line k := by
  unfold flushDie
  split
  · exact ⟨canonical, one, fun _ _ => rfl⟩
  · next l entry =>
    have gone (u : State) : (u.delL2 d line).l2? d line = none := by simp [l2?_delL2]
    have dropped (u : State) (k : Nat) : coherentSector (dropInv (u.delL2 d line) d line) line k = coherentSector (u.delL2 d line) line k :=
      coherentSector_congr (owns_dropInv (gone u)) (fun _ _ => by rfl) (by rfl) k
    have fewer (u : State) (same : ∀ e, heldAs u line e = heldAs s line e) : OneOwner (dropInv (u.delL2 d line) d line) line := by
      refine one.of_owns fun e owns => ?_
      have owns := (owns_dropInv (gone u) e).1 owns
      simp only [Owns, heldAs_delL2, same] at owns
      split at owns
      · simp at owns
      · exact owns
    split
    · next back =>
      simp only [Bool.and_eq_true, Bool.or_eq_true, beq_iff_eq] at back
      have mine : Owns s line d := by simpa [Owns, heldAs_of_holds back.1 entry] using back.2
      exact ⟨wf_writeBack canonical .., fewer _ fun e => heldAs_writeBack .., fun k hk =>
        (dropped _ k).trans (coherentSector_release canonical one inside mine hk)⟩
    · next clean =>
      have other : ¬Owns s line d := fun owns => by
        obtain ⟨x, st, dirty⟩ : ∃ x, heldAs s line d = some x ∧ (x = .m ∨ x = .o) := by
          rcases owns with h | h
          · exact ⟨_, h, .inl rfl⟩
          · exact ⟨_, h, .inr rfl⟩
        obtain ⟨l', entry', rfl, -⟩ := heldAs_eq_some.1 st
        have listed : holds s line d = true := by
          by_contra nobody
          simp [heldAs, nobody] at st
        rw [entry] at entry'
        injection entry' with same
        subst same
        exact clean (by simp [listed, dirty])
      exact ⟨canonical, fewer _ fun _ => rfl, fun k _ => (dropped _ k).trans (coherentSector_drop other k)⟩

/-- No L2 keeps a copy of a flushed line, and memory has what its owner had. -/
theorem flushLine_drop (canonical : Memory.wf s.dram = true) (one : OneOwner s line) :
    Memory.wf (flushLine s line false).dram = true ∧ (∀ d < 4, (flushLine s line false).l2? d line = none) ∧
      coherentLine (flushLine s line false) line = coherentLine s line := by
  have values : ∀ (ds : List Nat), (∀ d ∈ ds, d < 4) → ∀ t : State, Memory.wf t.dram = true → OneOwner t line →
      Memory.wf (ds.foldl (flushDie line) t).dram = true ∧
        ∀ k < 4, coherentSector (ds.foldl (flushDie line) t) line k = coherentSector t line k := by
    intro ds
    induction ds with
    | nil => exact fun _ t canonical _ => ⟨canonical, fun _ _ => rfl⟩
    | cons d ds ih =>
      intro inside t canonical one
      obtain ⟨wf, only, value⟩ := sameValue_flushDie canonical one (inside d (List.mem_cons_self ..))
      obtain ⟨wf', value'⟩ := ih (fun e he => inside e (List.mem_cons_of_mem _ he)) _ wf only
      exact ⟨wf', fun k hk => (value' k hk).trans (value k hk)⟩
  obtain ⟨wf, value⟩ := values allDies (fun d => mem_allDies.1) s canonical one
  rw [flushLine_drops]
  exact ⟨wf, fun d hd => by rw [l2?_flushes, if_pos (mem_allDies.2 hd)], coherentLine_of_sectors value⟩

/-! ## Partials of a line (R328, R329) -/

theorem LinesOnly.parts (h : LinesOnly s t) (c : Nat) : (t.core c).parts = (s.core c).parts := by rw [State.core, h.cores]; rfl
theorem parts_l1DropLine (s : State) (k line c : Nat) : ((l1DropLine s k line).core c).parts = (s.core c).parts := by
  rw [l1DropLine]
  by_cases same : c = k
  · rw [same, State.core_setCore_same]
  · rw [State.core_setCore_ne same]
theorem parts_freshenAll (s : State) (line c : Nat) : ((freshenAll s line).core c).parts = (s.core c).parts := by
  have dropped (cs : List Nat) (t : State) : ((cs.foldl
      (fun s c => if (aget? line (s.core c).l1).isSome then l1DropLine s c line else s) t).core c).parts = (t.core c).parts := by
    refine foldl_keeps (fun t : State => (t.core c).parts) (fun t k => ?_) cs t
    split
    · exact parts_l1DropLine ..
    · rfl
  simp only [freshenAll]
  rw [dropped]
  have fresh := LinesOnly.foldl (fun s d => linesOnly_freshen s d line) allDies s
  generalize allDies.foldl (fun s d => freshen s d line) s = t at fresh ⊢
  exact fresh.parts c
theorem parts_applyPartial (s : State) (p : Partial) (c : Nat) : ((applyPartial s p).core c).parts = (s.core c).parts := by
  simp only [applyPartial]
  rw [parts_freshenAll]
  split
  · exact (linesOnly_l2Write ..).parts c
  · exact (linesOnly_dirWrite ..).parts c

/-- Cores of a list whose partials are filtered one after another. -/
theorem parts_filtered (keep : Partial → Bool) (cs : List Nat) (s : State) (c : Nat) :
    ((cs.foldl (fun s c => s.setCore c { s.core c with parts := (s.core c).parts.filter keep }) s).core c).parts =
      if c ∈ cs then (s.core c).parts.filter keep else (s.core c).parts := by
  induction cs generalizing s with
  | nil => rfl
  | cons k cs ih =>
    rw [List.foldl_cons, ih]
    by_cases same : c = k
    · subst same
      simp
    · simp [State.core_setCore_ne same, same]

theorem combine_clears (s : State) (lid line : Nat) {c : Nat} (inside : c < 128) {p : Partial}
    (left : p ∈ ((combine s lid line).core c).parts) : ¬(p.lid = lid ∧ lineOf p.ppa = line) := by
  have applied (ps : List Partial) (s : State) (c : Nat) : ((ps.foldl applyPartial s).core c).parts = (s.core c).parts :=
    foldl_keeps (fun t : State => (t.core c).parts) (fun t p => parts_applyPartial t p c) ps s
  simp only [combine] at left
  rw [parts_filtered, applied] at left
  rintro ⟨rfl, rfl⟩
  split at left
  · simp at left
  · next none => exact none (by simp only [List.mem_filter, mem_upTo, List.any_eq_true]; exact ⟨inside, p, left, by simp⟩)

end Sys2Proof.Machine

open Sys2Proof Sys2Proof.Machine

/-- Settles O45: a copy that goes was the owner's or owned nothing; in the first case its sectors have been written back, so that
DRAM shows what the line held. -/
theorem coherenceKeepsTheLine : Obligations.CoherenceKeepsTheLine := by
  refine fun s die line l => ⟨?_, ?_, ?_, ?_⟩
  · intro up listed entry
    have next : exec (.snoopForRead die line) s = .next (snoopRead s die line) := by
      show execSnoopForRead die line s = _
      simp [execSnoopForRead, up, listed]
    refine ⟨_, next, ?_⟩
    obtain ⟨st, sect, data, mark⟩ := l
    simp only [snoopRead, entry]
    cases st with
    | m => exact ⟨rfl, by simp [l2?_setL2]⟩
    | e => exact ⟨rfl, by simp [l2?_setL2]⟩
    | o => exact ⟨rfl, entry⟩
    | s => exact ⟨rfl, entry⟩
  · intro below listed entry open_ alone canonical
    have st := heldAs_of_holds listed entry
    have one : OneOwner s line := fun d _ e _ od oe => by
      have only (k : Nat) (owns : Owns s line k) : k = die := by
        by_contra other
        simp [Owns, heldAs, alone k other] at owns
      rw [only d od, only e oe]
    have goes : canWriteBack s line (some l.st) = true := by simp [canWriteBack, open_]
    have owner (dirty : l.st = .m ∨ l.st = .o) : Owns s line die := by simpa [Owns, st] using dirty
    have gone : ((writeBack s die line).delL2 die line).l2? die line = none := by simp [l2?_delL2]
    have kept (dirty : l.st = .m ∨ l.st = .o) : coherentLine ((writeBack s die line).delL2 die line) line = coherentLine s line :=
      coherentLine_of_sectors fun k => coherentSector_release canonical one below (owner dirty)
    refine ⟨fun dirty up => ?_, fun dirty prefers => ?_, fun dirty room oldest => ?_⟩
    · refine ⟨_, ?_, gone, kept dirty⟩
      show execSnoopForOwnership die line s = _
      simp [execSnoopForOwnership, st, up, goes, dirty_iff.2 dirty]
    · refine ⟨_, ?_, gone, kept dirty⟩
      show execL2Eviction die line s = _
      simp [execL2Eviction, st, prefers, goes, l2Evict, dirty_iff.2 dirty]
    · obtain ⟨-, gone, kept⟩ := flushLine_drop canonical one
      refine ⟨_, ?_, gone die below, kept⟩
      show execDirectoryBackInvalidate line s = _
      simp [execDirectoryBackInvalidate, one.ownerOf_eq below (owner dirty), st, goes, room, oldest]
  · intro before rest input queue others up
    have oldest : (s.die die).invs.find? (fun k => dirSlice k == dirSlice line) = some line := by
      rw [queue, List.find?_append, List.find?_eq_none.2 fun k hk => by simpa using others k hk]
      simp
    have fresh : line ∉ before := fun listed => others line listed rfl
    let t := s.delL2 die line
    refine ⟨t.setDie die { t.die die with invs := (t.die die).invs.erase line }, ?_, by simp [State.l2?, State.setDie, t, State.delL2], ?_, rfl⟩
    · show execInvalidationApply die s = _
      simp [execInvalidationApply, input, oldest, up, t]
    · have same : (t.die die).invs = (s.die die).invs := rfl
      rw [State.die_setDie_same, same, queue, List.erase_append_right _ fresh, List.erase_cons_head]
  · intro lid e la input launch live listed idle
    refine ⟨combine s lid line, ?_, fun c inside p left => combine_clears s lid line inside left⟩
    show execCombineLine s = _
    simp [execCombineLine, input, launch, live, listed, idle]

end

section
/-! Power and cooling (27_bringup_power.md R465 to R468): the clocks and windows that a revision sets, and what a trip's report
leaves. -/

namespace Sys2Proof.Machine

variable {s t : State}

/-! ## Reports (25 R448) -/

/-- DROPPED is a word of memory, so that its write moves lines. -/
theorem linesOnly_dropReports (s : State) (n : Nat) : LinesOnly s (dropReports s n) := by
  unfold dropReports
  split
  · exact .refl s
  · exact linesOnly_dirWrite ..
/-- A report changes the staging queue and, for those that it drops, a word of memory. -/
theorem stageReport_lines (s : State) (r : Report) :
    ∃ staging n, LinesOnly { s with staging := staging, reportSeq := n } (stageReport s r) := by
  simp only [stageReport]
  split
  · exact ⟨_, _, linesOnly_dropReports ..⟩
  · exact ⟨_, _, .refl _⟩
theorem LinesOnly.freq (h : LinesOnly s t) (d : Nat) : (t.die d).freq = (s.die d).freq := (congrArg Die.freq (h.dies d) :)
theorem LinesOnly.stack (h : LinesOnly s t) (k : Nat) : t.stack k = s.stack k := by
  have table : t.stackTab = s.stackTab := (congrArg State.stackTab h.rest :)
  rw [State.stack, table]
  rfl
theorem tripPackage_trips (s : State) (channel : Nat) : (tripPackage s channel).tripped = true ∧
    (∀ d, ((tripPackage s channel).die d).freq = (s.die d).freq) ∧ ∀ k, (tripPackage s channel).stack k = s.stack k := by
  obtain ⟨staging, n, lines⟩ := stageReport_lines s (mkReport channel 2 0 0 0 0)
  exact ⟨rfl, lines.freq, lines.stack⟩

/-! ## A revision (R465, R466) -/

/-- A powered die takes its clock. -/
def setClock (clocks : List Nat) (s : State) (d : Nat) : State :=
  if powered s d then s.setDie d { s.die d with freq := clocks.getD d 12 } else s
theorem setClocks_eq (s : State) (clocks : List Nat) : setClocks s clocks = allDies.foldl (setClock clocks) s := rfl

theorem die_setClock_ne {d e : Nat} (other : d ≠ e) (clocks : List Nat) (s : State) : (setClock clocks s e).die d = s.die d := by
  unfold setClock
  split
  · exact State.die_setDie_ne other ..
  · rfl
theorem die_setClock_same (clocks : List Nat) (s : State) (d : Nat) : (setClock clocks s d).die d =
    { s.die d with freq := if (s.die d).cond = .gated then (s.die d).freq else clocks.getD d 12 } := by
  unfold setClock
  by_cases off : (s.die d).cond = .gated
  · rw [if_neg (by simpa [powered] using off), if_pos off]
  · rw [if_pos (by simpa [powered] using off), State.die_setDie_same, if_neg off]
/-- Each die of a list without repetition takes its clock once. -/
theorem freq_setClocks {d : Nat} (clocks : List Nat) (inside : d < 4) :
    ((setClocks s clocks).die d).freq = if (s.die d).cond = .gated then (s.die d).freq else clocks.getD d 12 := by
  have once (ds : List Nat) (distinct : ds.Nodup) (s : State) : ((ds.foldl (setClock clocks) s).die d).freq =
      if d ∈ ds ∧ (s.die d).cond ≠ .gated then clocks.getD d 12 else (s.die d).freq := by
    induction ds generalizing s with
    | nil => simp
    | cons e ds ih =>
      obtain ⟨fresh, distinct⟩ := List.nodup_cons.1 distinct
      rw [List.foldl_cons, ih distinct]
      by_cases same : d = e
      · subst same
        simp [die_setClock_same, fresh]
      · simp [die_setClock_ne same, same]
  rw [setClocks_eq, once allDies (by decide)]
  by_cases off : (s.die d).cond = .gated <;> simp [mem_allDies, inside, off]

theorem stack_setWindows (ws : List (Nat × Nat)) (i : Nat) (s : State) (k : Nat) :
    ((mapI (fun i w => (i, w)) i ws).foldl (fun s (i, (a, t)) => s.setStack i { s.stack i with actmax := a, twin := t }) s).stack k =
      if i ≤ k ∧ k < i + ws.length then { s.stack k with actmax := (ws.getD (k - i) (0, 0)).1, twin := (ws.getD (k - i) (0, 0)).2 }
      else s.stack k := by
  induction ws generalizing i s with
  | nil =>
    rw [if_neg (by simp)]
    rfl
  | cons w ws ih =>
    rw [mapI, List.foldl_cons, ih]
    by_cases same : k = i
    · subst same
      simp
    · have other : (s.setStack i { s.stack i with actmax := w.1, twin := w.2 }).stack k = s.stack k := State.stack_setStack_ne same ..
      simp only [other, List.length_cons]
      by_cases later : i + 1 ≤ k ∧ k < i + 1 + ws.length
      · rw [if_pos later, if_pos (by omega), show k - i = k - (i + 1) + 1 by omega, List.getD_cons_succ]
      · rw [if_neg later, if_neg (by omega)]

theorem setClocks_keeps {τ : Type} (read : State → τ) (h : ∀ s d x, read (State.setDie s d x) = read s) (s : State) (clocks : List Nat) :
    read (setClocks s clocks) = read s := by
  refine foldl_keeps read (fun s d => ?_) allDies s
  split
  · exact h ..
  · rfl
theorem setWindows_keeps {τ : Type} (read : State → τ) (h : ∀ s k x, read (State.setStack s k x) = read s) (s : State)
    (windows : List (Nat × Nat)) : read (setWindows s windows) = read s :=
  foldl_keeps read (fun s _ => h s ..) _ s

theorem die_setWindows (s : State) (windows : List (Nat × Nat)) (d : Nat) : (setWindows s windows).die d = s.die d := by
  have table : (setWindows s windows).dies = s.dies := setWindows_keeps State.dies (fun _ _ _ => rfl) s windows
  rw [State.die, table]
  rfl

/-- A revision in range is taken where no clock rises above what the all-bank count allows (R466). -/
theorem exec_powerManagerRevision_next {clocks : List Nat} {windows : List (Nat × Nat)}
    (input : s.input = .powerManagerRevision clocks windows) (served : managed s = true) (four : clocks.length = 4)
    (inRange : ∀ c ∈ clocks, 12 ≤ c ∧ c ≤ 36) (twelve : windows.length = 12)
    (inWindow : ∀ w ∈ windows, 64 ≤ w.1 ∧ w.1 ≤ 65535 ∧ 64 ≤ w.2 ∧ w.2 ≤ 4096)
    (allowed : (∃ d < 4, (s.die d).cond ≠ .gated ∧ (s.die d).freq < clocks.getD d 12) →
      allBankCount s ≤ limitOf (topClock (setClocks s clocks))) :
    exec .powerManagerRevision s = .next { setWindows (setClocks s clocks) windows with
      allBankLimit := limitOf (max (topClock s) (topClock (setClocks s clocks))) } := by
  have waits : (!(allDies.any fun d => powered s d && decide ((s.die d).freq < clocks.getD d 12)) ||
      decide (allBankCount s ≤ limitOf (topClock (setClocks s clocks)))) = true := by
    by_cases rises : ∃ d < 4, (s.die d).cond ≠ .gated ∧ (s.die d).freq < clocks.getD d 12
    · simp [allowed rises]
    · simp only [Bool.or_eq_true, Bool.not_eq_true', List.any_eq_false, mem_allDies]
      refine .inl fun d hd up => rises ⟨d, hd, ?_⟩
      simpa [powered] using up
  have clocked : clocks.all (fun c => decide (12 ≤ c) && decide (c ≤ 36)) = true := by simpa using inRange
  have windowed : (windows.all fun w => decide (64 ≤ w.1) && decide (w.1 ≤ 65535) && decide (64 ≤ w.2) && decide (w.2 ≤ 4096)) = true := by
    simpa [and_assoc] using inWindow
  show execPowerManagerRevision s = _
  simp only [execPowerManagerRevision, input]
  rw [waits, served, four, twelve, clocked, windowed]
  rfl

end Sys2Proof.Machine

open Sys2Proof Sys2Proof.Machine

/-- Settles O54: a revision sets each powered die and each stack once; a trip only reports and stops the part. -/
theorem powerAndCoolingFollowTheirRules : Obligations.PowerAndCoolingFollowTheirRules := by
  refine fun s => ⟨?_, ?_, ?_, ?_, ?_, ?_⟩
  · intro clocks windows input served four inRange twelve inWindow allowed
    refine ⟨_, exec_powerManagerRevision_next input served four inRange twelve inWindow allowed, fun d hd => ?_, fun k hk => ?_, ?_, ?_, ?_⟩
    · exact (congrArg Die.freq (die_setWindows _ windows d)).trans (freq_setClocks clocks hd)
    · have set := stack_setWindows windows 0 (setClocks s clocks) k
      rw [if_pos (by omega)] at set
      exact ⟨congrArg Stack.actmax set, congrArg Stack.twin set⟩
    · have top : topClock (setWindows (setClocks s clocks) windows) = topClock (setClocks s clocks) := by
        simp only [topClock, powered, die_setWindows]
        rfl
      exact congrArg (fun c => limitOf (max (topClock s) c)) top.symm
    · exact (setWindows_keeps State.dram (fun _ _ _ => rfl) _ _).trans (setClocks_keeps State.dram (fun _ _ _ => rfl) _ _)
    · exact (setWindows_keeps State.slots (fun _ _ _ => rfl) _ _).trans (setClocks_keeps State.slots (fun _ _ _ => rfl) _ _)
  · intro d c input booted inside
    let t := if 105 ≤ c then tripPackage s (dieChannel d)
      else if 95 ≤ c then s.setDie d { s.die d with freq := max 12 ((s.die d).freq - 1) } else s
    have next : exec .temperatureReport s = .next t := by
      show execTemperatureReport s = _
      simp [execTemperatureReport, input, booted, inside, t]
    obtain ⟨trips, clock, -⟩ := tripPackage_trips s (dieChannel d)
    refine ⟨t, next, ?_⟩
    by_cases hot : 105 ≤ c
    · simp [t, hot, trips, clock, Nat.not_lt.2 hot]
    · by_cases warm : 95 ≤ c
      · simp [t, hot, warm, Nat.lt_of_not_le hot]
      · simp [t, hot, warm]
  · intro k c input booted inside
    let t := if 100 ≤ c then tripPackage s (portChannel k 0)
      else if 90 ≤ c then s.setStack k { s.stack k with actmax := max 64 ((s.stack k).actmax / 2) } else s
    have next : exec .temperatureReport s = .next t := by
      show execTemperatureReport s = _
      simp [execTemperatureReport, input, booted, inside, t]
    obtain ⟨trips, -, window⟩ := tripPackage_trips s (portChannel k 0)
    refine ⟨t, next, ?_⟩
    by_cases hot : 100 ≤ c
    · simp [t, hot, trips, window, Nat.not_lt.2 hot]
    · by_cases warm : 90 ≤ c
      · simp [t, hot, warm, Nat.lt_of_not_le hot]
      · simp [t, hot, warm]
  · intro booted
    show execFlowLowTimeout s = _
    simp [execFlowLowTimeout, booted]
  · intro c input booted
    show execTemperatureReport s = _
    simp [execTemperatureReport, input, booted, budgetAt]
  · intro tripped k rest agenda dead
    have idle : k.revives = false := by
      unfold Pick.revives
      split
      · next i => exact absurd rfl (dead i).1
      · next i => exact absurd rfl (dead i).2
      · rfl
    simp [step, nextPick, agenda, tripped, idle]

end

section
/-! Counted errors, the actions at a threshold, and the error log (25_resilience.md R442 to R449), and management registers
(00_scope.md R8). -/

namespace Sys2Proof.Machine

variable {s t : State}

theorem LinesOnly.slots (h : LinesOnly s t) : t.slots = s.slots := (congrArg State.slots h.rest :)
theorem LinesOnly.stackTab (h : LinesOnly s t) : t.stackTab = s.stackTab := (congrArg State.stackTab h.rest :)
theorem LinesOnly.due (h : LinesOnly s t) : t.due = s.due := (congrArg State.due h.rest :)
theorem LinesOnly.damaged (h : LinesOnly s t) : t.damaged = s.damaged := (congrArg State.damaged h.rest :)

theorem LinesOnly.reportSeq (h : LinesOnly s t) : t.reportSeq = s.reportSeq := (congrArg State.reportSeq h.rest :)

/-- What a report of a unit keeps. -/
theorem reportUnit_keeps (s : State) (u : ErrUnit) (kind code addr : Nat) :
    let t := reportUnit s u kind code addr
    t.cores = s.cores ∧ t.slots = s.slots ∧ t.stackTab = s.stackTab ∧ t.due = s.due ∧ t.damaged = s.damaged := by
  obtain ⟨staging, n, lines⟩ := stageReport_lines s (mkReport (unitChannel u) kind code (if unitIsMemory u then 1 else 0)
    (if unitIsMemory u then addr else 0) (unitIndex u))
  exact ⟨lines.cores, lines.slots, lines.stackTab, lines.due, lines.damaged⟩

/-! ## A corrected error (R442) -/

/-- A unit's event counted in its window. -/
def State.counts (s : State) (u : ErrUnit) (k : Nat) : State :=
  { countRegs s u with events := aset u (recentEvents s u (s.windows.getD k 0)) (countRegs s u).events }

theorem length_recentEvents (s : State) (u : ErrUnit) (w : Nat) :
    (recentEvents s u w).length = 1 + ((aget [] u s.events).filter fun t => decide (s.ref < t + w)).length := Nat.add_comm ..

theorem core_reported (s : State) (u : ErrUnit) (kind code addr c : Nat) : (reportUnit s u kind code addr).core c = s.core c := by
  rw [State.core, (reportUnit_keeps s u kind code addr).1]
  rfl
theorem slot_reported (s : State) (u : ErrUnit) (kind code addr k : Nat) : (reportUnit s u kind code addr).slot k = s.slot k := by
  rw [State.slot, (reportUnit_keeps s u kind code addr).2.1]
  rfl
theorem stack_reported (s : State) (u : ErrUnit) (kind code addr k : Nat) : (reportUnit s u kind code addr).stack k = s.stack k := by
  rw [State.stack, (reportUnit_keeps s u kind code addr).2.2.1]
  rfl
theorem core_counts_sram (s : State) (c w k : Nat) :
    (s.counts (.sramWord c w) k).core c = { s.core c with sramce := satCount (s.core c).sramce } := State.core_setCore_same ..
theorem core_counts_slot (s : State) (n k : Nat) :
    (s.counts (.regSlot n) k).core (n / 16) = { s.core (n / 16) with regfce := satCount (s.core (n / 16)).regfce } :=
  State.core_setCore_same ..

/-! ## The actions of a slot and of a row (R443, R237) -/

theorem repairSlot_free {k : Nat} (free : (s.slot k).st = .free) : (repairSlot s k).cores = s.cores ∧
    if (s.slot k).reserved = false then ((repairSlot s k).slot k).st = .disabled
    else ((repairSlot s k).slot k).st = .free ∧ ((repairSlot s k).slot k).repair = true := by
  cases reserved : (s.slot k).reserved
  · rw [repairSlot, if_pos (by simp [free, reserved])]
    exact ⟨rfl, (congrArg Slot.st (State.slot_setSlot_same ..) :)⟩
  · rw [repairSlot, if_neg (by simp [reserved]), State.slot_setSlot_same]
    exact ⟨rfl, free, by rw [free]; rfl⟩

theorem retireRow_spares {stack pc bank : Nat} (row addr : Nat)
    (spares : ((s.stack stack).spared.filter fun r => r.1 == pc && r.2.1 == bank).length < 32) :
    let t := retireRow s stack pc bank row addr
    (t.stack stack).spared = (s.stack stack).spared ++ [(pc, bank, row)] ∧
      t.due = s.due ++ [mkReport (64 * stack + pc) 3 1 1 addr (bank * 49152 + row)] ∧ t.damaged = s.damaged := by
  simp only [retireRow, if_pos spares]
  exact ⟨congrArg Stack.spared (State.stack_setStack_same ..), rfl, rfl⟩

/-! ## An uncorrectable error of a row (R445) -/

/-- A unit's data lost, and its event counted. -/
def State.loses (s : State) (u : ErrUnit) (addr k : Nat) : State :=
  { loseData s u addr with events := aset u (recentEvents s u (s.windows.getD k 0)) (loseData s u addr).events }

theorem mem_damaged_loses (s : State) (stack pc bank row addr k : Nat) :
    addr / 128 ∈ (s.loses (.row stack pc bank row) addr k).damaged := by
  show lineOf addr ∈ if s.damaged.contains (lineOf addr) then s.damaged else s.damaged ++ [lineOf addr]
  split
  · next listed => simpa using listed
  · simp
theorem exec_uncorrectableError_row {stack pc bank row addr : Nat} {spare : Bool}
    (input : s.input = .uncorrectableError (.row stack pc bank row) addr spare .nothing) (unit : unitOk (.row stack pc bank row) = true)
    (booted : s.booted = true) (idle : s.migrations = []) : exec .uncorrectableError s = .next
      (retireRow (reportUnit (s.loses (.row stack pc bank row) addr 0) (.row stack pc bank row) 1 Cause.memUncorr addr)
        stack pc bank row addr) := by
  have kept : abortMigrations (loseData s (.row stack pc bank row) addr) = loseData s (.row stack pc bank row) addr := by
    have none : (loseData s (.row stack pc bank row) addr).migrations = [] := idle
    rw [abortMigrations, none]
    rfl
  show execUncorrectableError s = _
  simp only [execUncorrectableError, input, consume, kept, unit, booted]
  rfl

/-! ## What an error leaves of its unit (R442, R443, R445) -/

/-- A corrected error's state once its unit is counted, reported and, at the threshold, acted on. -/
def State.corrects (s : State) (u : ErrUnit) (k addr : Nat) (spare : Bool) : State :=
  if 1 + ((aget [] u s.events).filter fun t => decide (s.ref < t + s.windows.getD k 0)).length = s.thresholds.getD k 0
  then takeAction (reportUnit (s.counts u k) u 2 0 addr) u addr spare else reportUnit (s.counts u k) u 0 0 addr

theorem corrects_sram (s : State) (c w addr : Nat) (spare : Bool) :
    let t := s.corrects (.sramWord c w) 3 addr spare
    let n := 1 + ((aget [] (.sramWord c w) s.events).filter fun t => decide (s.ref < t + s.windows.getD 3 0)).length
    (t.core c).sramce = min ((s.core c).sramce + 1) (2 ^ 32 - 1) ∧
      (t.core c).disable = if n = s.thresholds.getD 3 0 then (s.core c).disable || !spare else (s.core c).disable := by
  intro t n
  unfold t State.corrects
  by_cases full : 1 + ((aget [] (.sramWord c w) s.events).filter fun t => decide (s.ref < t + s.windows.getD 3 0)).length =
    s.thresholds.getD 3 0
  · have counted := core_reported (s.counts (.sramWord c w) 3) (.sramWord c w) 2 0 addr c
    rw [if_pos full, if_pos full]
    cases spare <;> simp [takeAction, repairWord, counted, core_counts_sram, satCount]
  · have counted := core_reported (s.counts (.sramWord c w) 3) (.sramWord c w) 0 0 addr c
    rw [if_neg full, if_neg full, counted, core_counts_sram]
    exact ⟨rfl, rfl⟩
theorem corrects_slot {k : Nat} (addr : Nat) (spare : Bool) (free : (s.slot k).st = .free) :
    let t := s.corrects (.regSlot k) 2 addr spare
    let n := 1 + ((aget [] (.regSlot k) s.events).filter fun t => decide (s.ref < t + s.windows.getD 2 0)).length
    (t.core (k / 16)).regfce = min ((s.core (k / 16)).regfce + 1) (2 ^ 32 - 1) ∧
      if n = s.thresholds.getD 2 0 ∧ (s.slot k).reserved = false then (t.slot k).st = .disabled
      else (t.slot k).st = .free ∧ (n = s.thresholds.getD 2 0 → (t.slot k).repair = true) := by
  intro t n
  unfold t State.corrects
  by_cases full : 1 + ((aget [] (.regSlot k) s.events).filter fun t => decide (s.ref < t + s.windows.getD 2 0)).length =
    s.thresholds.getD 2 0
  · have counted := core_reported (s.counts (.regSlot k) 2) (.regSlot k) 2 0 addr (k / 16)
    have slot : (reportUnit (s.counts (.regSlot k) 2) (.regSlot k) 2 0 addr).slot k = s.slot k := slot_reported ..
    rw [if_pos full]
    generalize reportUnit (s.counts (.regSlot k) 2) (.regSlot k) 2 0 addr = t at counted slot
    obtain ⟨cores, action⟩ := repairSlot_free (s := t) (k := k) (slot.symm ▸ free)
    have counts : ((repairSlot t k).core (k / 16)).regfce = satCount (s.core (k / 16)).regfce := by
      rw [State.core, cores]
      exact congrArg Core.regfce (counted.trans (core_counts_slot ..))
    rw [slot] at action
    refine ⟨counts, ?_⟩
    by_cases open_ : (s.slot k).reserved = false
    · rw [if_pos open_] at action
      rwa [if_pos ⟨full, open_⟩]
    · rw [if_neg open_] at action
      rw [if_neg fun both => open_ both.2]
      exact ⟨action.1, fun _ => action.2⟩
  · have counted := core_reported (s.counts (.regSlot k) 2) (.regSlot k) 0 0 addr (k / 16)
    have slot : (reportUnit (s.counts (.regSlot k) 2) (.regSlot k) 0 0 addr).slot k = s.slot k := slot_reported ..
    rw [if_neg full, if_neg fun both => full both.1, counted, core_counts_slot, slot]
    exact ⟨rfl, free, fun reached => absurd reached full⟩
theorem corrects_row {stack pc bank row : Nat} (addr : Nat) (spare : Bool)
    (spares : ((s.stack stack).spared.filter fun r => r.1 == pc && r.2.1 == bank).length < 32) :
    let t := s.corrects (.row stack pc bank row) 0 addr spare
    let n := 1 + ((aget [] (.row stack pc bank row) s.events).filter fun t => decide (s.ref < t + s.windows.getD 0 0)).length
    if n = s.thresholds.getD 0 0 then
      (t.stack stack).spared = (s.stack stack).spared ++ [(pc, bank, row)] ∧
        t.due = s.due ++ [mkReport (64 * stack + pc) 3 1 1 addr (bank * 49152 + row)]
    else (t.stack stack).spared = (s.stack stack).spared ∧ t.due = s.due := by
  intro t n
  unfold t State.corrects
  by_cases full : 1 + ((aget [] (.row stack pc bank row) s.events).filter fun t => decide (s.ref < t + s.windows.getD 0 0)).length =
    s.thresholds.getD 0 0
  · rw [if_pos full, if_pos full]
    have rows : (reportUnit (s.counts (.row stack pc bank row) 0) (.row stack pc bank row) 2 0 addr).stack stack = s.stack stack :=
      stack_reported ..
    have due := (reportUnit_keeps (s.counts (.row stack pc bank row) 0) (.row stack pc bank row) 2 0 addr).2.2.2.1
    generalize reportUnit (s.counts (.row stack pc bank row) 0) (.row stack pc bank row) 2 0 addr = t at rows due
    obtain ⟨spared, reported, -⟩ := retireRow_spares (s := t) row addr (rows.symm ▸ spares)
    rw [rows] at spared
    rw [due] at reported
    exact ⟨spared, reported⟩
  · rw [if_neg full, if_neg full]
    have rows : (reportUnit (s.counts (.row stack pc bank row) 0) (.row stack pc bank row) 0 0 addr).stack stack = s.stack stack :=
      stack_reported ..
    exact ⟨congrArg Stack.spared rows, (reportUnit_keeps ..).2.2.2.1⟩

/-- The event is counted; the one that reaches the threshold also takes its unit's action. -/
theorem exec_correctedError_next {u : ErrUnit} {addr : Nat} {spare : Bool} {k : Nat} (input : s.input = .correctedError u addr spare)
    (unit : unitOk u = true) (booted : s.booted = true) (kind : unitKind u = some k) : exec .correctedError s = .next
      (s.corrects u k addr spare) := by
  show execCorrectedError s = _
  simp only [execCorrectedError, input, kind, unit, booted, Bool.and_true, whenEnabled_true, beq_iff_eq, State.corrects,
    ← length_recentEvents]
  rfl

/-! ## The log (R448) -/

theorem wrap_lt {x : Int} {n b : Nat} (h : x % (2 ^ n : Nat) < b) : wrap x n < b := by
  have := Int.emod_nonneg x (b := (2 ^ n : Nat)) (by exact_mod_cast (Nat.two_pow_pos n).ne')
  unfold wrap
  omega

/-- The oldest entry goes to the log while it has room and its lines can be written. -/
theorem exec_errorLogMove_next {r : Report} {rest : List Report} (queue : queuedReports s = r :: rest) (booted : s.booted = true)
    (up : s.out .monument = false) (earlier : r.early = true ∨ r.time ≠ s.ref)
    (room : ((coherentRead s s.logAddr 8 : Int) - coherentRead s (s.logAddr + 8) 8) % 2 ^ 64 < 2 ^ s.logN)
    (control : inAllBank s s.logAddr = false)
    (record : inAllBank s (s.logAddr + 64 + 32 * (coherentRead s s.logAddr 8 % 2 ^ s.logN)) = false) :
    exec .errorLogMove s = .next { dirWrite (dirWrite s (s.logAddr + 64 + 32 * (coherentRead s s.logAddr 8 % 2 ^ s.logN)) 32 (logRecord r))
      s.logAddr 8 (coherentRead s s.logAddr 8 + 1) with staging := rest } := by
  have before : r.earlier s = true := by simpa [Report.earlier] using earlier
  have fits : wrap ((coherentRead s s.logAddr 8 : Int) - coherentRead s (s.logAddr + 8) 8) 64 < 2 ^ s.logN :=
    wrap_lt (by exact_mod_cast room)
  show execErrorLogMove s = _
  simp [execErrorLogMove, queue, booted, up, before, fits, control, record]

end Sys2Proof.Machine

open Sys2Proof Sys2Proof.Machine

/-- Settles O50: the count of a unit is one more than what its window keeps, and a report changes no core, slot or row. -/
theorem errorsAreCountedAndActedOn : Obligations.ErrorsAreCountedAndActedOn := by
  refine fun s u addr spare => ⟨?_, ?_, ?_, ?_, ?_⟩
  · intro input unit booted n
    refine ⟨?_, ?_, ?_, ?_⟩
    · cases kind : unitKind u with
      | some k => exact ⟨_, exec_correctedError_next input unit booted kind⟩
      | none =>
        refine ⟨reportUnit (countRegs s u) u 0 0 addr, ?_⟩
        show execCorrectedError s = _
        simp [execCorrectedError, input, kind, unit, booted]
    · rintro c w - rfl
      have next := exec_correctedError_next input unit booted rfl
      refine ⟨_, next, ?_⟩
      exact corrects_sram s c w addr spare
    · rintro k - rfl free
      have next := exec_correctedError_next input unit booted rfl
      refine ⟨_, next, ?_⟩
      exact corrects_slot addr spare free
    · rintro stack pc bank row - rfl spares
      have next := exec_correctedError_next input unit booted rfl
      refine ⟨_, next, ?_⟩
      exact corrects_row addr spare spares
  · rintro stack pc bank row input rfl unit booted idle - spares
    refine ⟨_, exec_uncorrectableError_row input unit booted idle, ?_⟩
    have rows : (reportUnit (s.loses (.row stack pc bank row) addr 0) (.row stack pc bank row) 1 Cause.memUncorr addr).stack stack =
      s.stack stack := stack_reported ..
    have lost := (reportUnit_keeps (s.loses (.row stack pc bank row) addr 0) (.row stack pc bank row) 1 Cause.memUncorr addr).2.2.2.2
    generalize reportUnit (s.loses (.row stack pc bank row) addr 0) (.row stack pc bank row) 1 Cause.memUncorr addr = t at rows lost
    obtain ⟨spared, -, damaged⟩ := retireRow_spares (s := t) row addr (rows.symm ▸ spares)
    rw [rows] at spared
    refine ⟨?_, spared⟩
    rw [damaged, lost]
    exact mem_damaged_loses ..
  · intro c input retraining
    refine ⟨{ s with lanes := aset c { aget {} c s.lanes with retraining := false } s.lanes }, ?_, aget_aset_same ..⟩
    show execLaneRetrainDone s = _
    simp [execLaneRetrainDone, input, retraining]
  · intro r rest queue booted up earlier room open_ open'
    refine ⟨_, exec_errorLogMove_next queue booted up earlier room open_ open', rfl, ?_⟩
    have moved := (linesOnly_dirWrite s (s.logAddr + 64 + 32 * (coherentRead s s.logAddr 8 % 2 ^ s.logN)) 32 (logRecord r)).trans
      (linesOnly_dirWrite _ s.logAddr 8 (coherentRead s s.logAddr 8 + 1))
    dsimp only
    exact moved.reportSeq
  · intro r v input served
    have next : exec .registerWrite s = .next (writeReg s r v) := by
      show execRegisterWrite s = _
      simp [execRegisterWrite, input, served]
    refine ⟨⟨_, next⟩, ?_, ?_, ?_, ?_⟩
    · rintro k rfl
      rw [next]
      simp [writeReg, ranged]
    · rintro rfl
      rw [next]
      simp [writeReg, ranged]
    · rintro k rfl inside
      rw [next]
      simp only [writeReg, Nat.not_le.2 inside, decide_false, Bool.or_false, beq_iff_eq]
    · rintro k (rfl | rfl)
      · exact next
      · exact next

end

section
/-! Launch records at the head of their queues (16_launch_scheduling.md R332, R333, R335) and dependences (R336). -/

namespace Sys2Proof.Machine

variable {s s1 s2 : State}

/-! ## What the checks of R335 leave -/

theorem except_bind_ok {ε α β : Type} {x : Except ε α} {f : α → Except ε β} {b : β} (h : x >>= f = .ok b) :
    ∃ a, x = .ok a ∧ f a = .ok b := by
  cases x with
  | error e => cases h
  | ok a => exact ⟨a, rfl, h⟩

/-- A check that has passed. -/
theorem except_check_ok {ε β : Type} {c : Prop} [Decidable c] {e : ε} {x : Except ε β} {b : β} (h : (if c then .error e else x) = .ok b) :
    ¬c ∧ x = .ok b := by
  split at h
  · cases h
  · next passed => exact ⟨passed, h⟩

/-- A record that fails a check of its bits alone has status 1 (R335). -/
theorem validate_recBad {l : Launch} {pmax : Nat} (bad : recBad l pmax = true) : validate s l pmax = .error (1, s) := by
  rw [validate, if_pos bad]

/-- What an accepted launch takes from its record and its tables (R335). -/
structure Accepts (l m : Launch) (pmax : Nat) : Prop where
  record : m.record = l.record
  lid : m.lid = l.lid
  eligible : m.eligible = l.eligible
  pending : m.pending = List.range l.nclusters
  held : m.held = List.replicate l.ndep false
  args : m.args.length = 32
  ring : 0 < m.rings.getD 0 0
  prio : l.prio ≤ pmax

theorem length_wordsOf (n x : Nat) : (wordsOf n x).length = n := by
  induction n generalizing x with
  | zero => rfl
  | succ n ih => rw [wordsOf, List.length_cons, ih]

theorem validate_ok {l m : Launch} {pmax : Nat} {t : State} (h : validate s l pmax = .ok (m, t)) : Accepts l m pmax := by
  unfold validate at h
  obtain ⟨sound, h⟩ := except_check_ok h
  obtain ⟨-, h⟩ := except_check_ok h
  obtain ⟨-, h⟩ := except_check_ok h
  obtain ⟨-, h⟩ := except_check_ok h
  obtain ⟨-, h⟩ := except_check_ok h
  obtain ⟨-, h⟩ := except_check_ok h
  obtain ⟨-, h⟩ := except_check_ok h
  obtain ⟨⟨table, u⟩, -, h⟩ := except_bind_ok h
  obtain ⟨ring, h⟩ := except_check_ok h
  obtain ⟨u, -, h⟩ := except_bind_ok h
  obtain ⟨-, h⟩ := except_check_ok h
  obtain ⟨⟨lays, u⟩, -, h⟩ := except_bind_ok h
  obtain ⟨-, h⟩ := except_check_ok h
  obtain ⟨⟨args, u⟩, -, h⟩ := except_bind_ok h
  obtain ⟨⟨d, cs, u⟩, -, h⟩ := except_bind_ok h
  cases h
  simp only [Bool.or_eq_true, not_or, beq_iff_eq] at ring
  simp only [recBad, Bool.or_eq_true, not_or, decide_eq_true_eq, Nat.not_lt] at sound
  exact ⟨rfl, rfl, rfl, rfl, rfl, by simp [length_wordsOf], Nat.pos_of_ne_zero ring.1, sound.2⟩

/-! ## The record at the head of a queue (R333) -/

theorem depHolds_eq (w v : Nat) : depHolds w v = decide (((w : Int) - v) % 2 ^ 64 < 2 ^ 63) := by
  have low := Int.emod_nonneg ((w : Int) - v) (b := 2 ^ 64) (by decide)
  unfold depHolds wrap
  rw [decide_eq_decide]
  omega

theorem queueCb_eq (x : Nat) : queueCb x =
    { tail := x % 2 ^ 64, head := x / 2 ^ 64 % 2 ^ 64, n := x / 2 ^ 128 % 2 ^ 4, dev := bitOf x 135, pmax := x / 2 ^ 132 % 2 ^ 3 } := by
  simp [queueCb, fld]

section
variable {k x record : Nat} {q : Queue} {cb : QueueCb}

/-- The states in which the bind core has read a queue's control block, and then the record at its head. -/
structure HeadRead (s s1 s2 : State) (k : Nat) (q : Queue) (x record : Nat) (cb : QueueCb) : Prop where
  queue : aget? k s.queues = some q
  up : bindUp s q.die = true
  link : linkDown s q.die = false
  control : readEa (acquire s (bindCore q.die) 8) (queueAg q) q.base 24 = .ok x s1
  block : queueCb x = cb
  waiting : cb.tail ≠ cb.head
  record : readEa s1 (queueAg q) (eaAdd q.base (64 + 256 * (cb.head % 2 ^ cb.n) : Nat)) 256 = .ok record s2

variable (h : HeadRead s s1 s2 k q x record cb)
include h

/-- The record is validated, and taken with its status: 9 and the failing check's code, or 8. -/
theorem HeadRead.exec {rs : List (Nat × PeerReply)} (input : s.input = .launchRecordValidate k rs) :
    (∀ c y t u, validate s2 (headLaunch s k q cb.head record) cb.pmax = .error (c, u) → c ≠ 0 → c ≠ 256 →
      takeRecord s2 k q cb.head (headLaunch s k q cb.head record).lid = .ok y t →
      Machine.exec .launchRecordValidate s = .next (refreshEligible (reportLaunch t (headLaunch s k q cb.head record) 9 c))) ∧
    (∀ m s3 y t, validate s2 (headLaunch s k q cb.head record) cb.pmax = .ok (m, s3) →
      takeRecord s3 k q cb.head (headLaunch s k q cb.head record).lid = .ok y t →
      Machine.exec .launchRecordValidate s =
        .next (refreshEligible (reportLaunch { t with launches := t.launches ++ [m] } m 8 0))) := by
  obtain ⟨queue, up, link, control, rfl, waiting, read⟩ := h
  have go : (bindUp s q.die && !linkDown s q.die && (queueCb x).tail != (queueCb x).head) = true := by simp [up, link, waiting]
  change (∀ c y t u, _ → _ → _ → _ → execLaunchRecordValidate s = _) ∧ ∀ m s3 y t, _ → _ → execLaunchRecordValidate s = _
  unfold execLaunchRecordValidate
  revert control read
  induction @readEa using of_forall with | _ readEa
  induction @validate using of_forall with | _ validate
  induction @takeRecord using of_forall with | _ takeRecord
  intro control read
  split
  case h_2 other => exact absurd input (other _ _)
  case h_1 _ _ same =>
    cases input.symm.trans same
    split
    case h_1 none => exact nomatch queue.symm.trans none
    case h_2 _ some =>
      cases queue.symm.trans some
      extract_lets up
      split
      case h_1 e | h_2 e | h_3 e => exact nomatch control.symm.trans e
      case h_4 e =>
        cases control.symm.trans e
        extract_lets cb go
        split
        case h_1 e | h_2 e | h_3 e => exact nomatch read.symm.trans e
        case h_4 e =>
          cases read.symm.trans e
          extract_lets l take
          have take_ok : ∀ {u y t} {f : State → State}, takeRecord u k q (queueCb x).head l.lid = .ok y t →
              take u f = .next (refreshEligible (f t)) := by
            intro u y t f taken
            unfold take
            split
            case h_1 e =>
              cases taken.symm.trans e
              exact if_pos ‹_›
            case h_2 e | h_3 e | h_4 e => exact nomatch taken.symm.trans e
          constructor
          · intro c y t u refused c0 c256 taken
            split
            case h_1 e => exact nomatch refused.symm.trans e
            case h_2 e => cases refused.symm.trans e; exact absurd rfl c0
            case h_3 e => cases refused.symm.trans e; exact absurd rfl c256
            case h_4 e => cases refused.symm.trans e; exact take_ok taken
          · intro m s3 y t accepted taken
            split
            case h_1 e => cases accepted.symm.trans e; exact take_ok taken
            case h_2 e | h_3 e | h_4 e => exact nomatch accepted.symm.trans e

end

end Sys2Proof.Machine

open Sys2Proof Sys2Proof.Machine

/-- Settles O46: the outcome of the checks decides with which status the record is taken; what is accepted is the record's launch
with what its tables hold. -/
theorem launchRecordsAreValidated : Obligations.LaunchRecordsAreValidated := by
  refine fun s s1 s2 => ⟨?_, ?_, ?_⟩
  · intro k rs q x record input queue up link control head waiting read l pmax
    have headRead : HeadRead s s1 s2 k q x record _ := ⟨queue, up, link, control, queueCb_eq x, waiting, read⟩
    exact headRead.exec input
  · refine fun l pmax => ⟨validate_recBad, fun m t accepted => ?_⟩
    have h := validate_ok accepted
    have prio : m.prio = l.prio := by rw [Launch.prio, Launch.f, h.record]; rfl
    exact ⟨h.record, h.lid, h.eligible, h.pending, h.held, h.args, h.ring, prio ▸ h.prio⟩
  · intro l i rs input launch inside waits fresh up
    have go : (decide (i < l.ndep) && !l.eligible && !l.held.getD i true && bindUp s l.die) = true := by
      rw [waits, fresh, up, decide_eq_true inside]
      rfl
    refine ⟨fun w read => ?_, fun c ea read => ?_⟩
    · show execDependenceRead s = _
      simp only [execDependenceRead, input, launch, read, go, whenEnabled_true, depHolds_eq, decide_eq_true_eq]
    · show execDependenceRead s = _
      simp only [execDependenceRead, input, launch, read, go, whenEnabled_true]

end

section
/-! What an access to memory changes (07_memory_access.md R157 to R170, 15_die_memory.md R316 to R330, 19_package_memory.md R384
to R390), and what a record posted to a ring does (11_scratchpad_copies.md R272): the memories, the copies of their lines, what
the dies and the cores hold, and what has been sent; the operations only where a record waits. -/

namespace Sys2Proof.Machine

/-- A state but for what an access to memory changes. -/
def State.still (s : State) : State :=
  { s with dram := [], l2 := [], tracked := [], seals := [], spread := [], cows := [], dies := [], cores := [] }
/-- The same but for what an access to a peer changes too. -/
def State.calm (s : State) : State := { s.still with outbox := [], asking := [] }
theorem calm_of_still {s t : State} (h : t.still = s.still) : t.calm = s.calm :=
  congrArg (fun x : State => { x with outbox := [], asking := [] }) h

/-! ## Copies of lines (15 R316 to R321) -/

section
variable (s : State) (die line ppa n x : Nat)

@[simp] theorem still_setDie (d : Die) : (s.setDie die d).still = s.still := rfl
@[simp] theorem still_setCore (core : Nat) (c : Core) : (s.setCore core c).still = s.still := rfl
@[simp] theorem still_delL2 : (s.delL2 die line).still = s.still := rfl
@[simp] theorem still_setL2 (l : L2Line) : (s.setL2 die line l).still = s.still := rfl
@[simp] theorem still_putL2 (l : L2Line) : (s.putL2 die line l).still = s.still := rfl
@[simp] theorem still_track : (s.track line).still = s.still := rfl
@[simp] theorem still_dropInv : (dropInv s die line).still = s.still := rfl
@[simp] theorem still_l1DropLine (core : Nat) : (l1DropLine s core line).still = s.still := rfl
@[simp] theorem still_writeBack : (writeBack s die line).still = s.still := by
  unfold writeBack
  split <;> rfl
@[simp] theorem still_snoopRead : (snoopRead s die line).still = s.still := by
  unfold snoopRead
  split
  · split <;> rfl
  · rfl
@[simp] theorem still_l2Evict : (l2Evict s die line).still = s.still := by
  unfold l2Evict
  split
  · split <;> simp
  · rfl
@[simp] theorem still_l2Make : (l2Make s die line).still = s.still := by
  unfold l2Make
  split
  · rfl
  · split <;> simp
@[simp] theorem still_l2Fill (mask : Nat) : (l2Fill s die line mask).still = s.still := by
  simp only [l2Fill, still_setL2, still_dropInv]
  exact (foldl_keeps State.still (fun t d => still_snoopRead t d line) _ _).trans (still_l2Make s die line)
@[simp] theorem still_l2Fetch (mask : Nat) : (l2Fetch s die line mask).still = s.still := by
  unfold l2Fetch
  split
  · split
    · rfl
    · split <;> simp
  · simp
@[simp] theorem still_l2Read : (l2Read s die ppa n).2.still = s.still := still_l2Fetch ..
@[simp] theorem still_l2Own (mask : Nat) : (l2Own s die line mask).still = s.still := by
  simp only [l2Own, still_putL2, still_dropInv]
  refine (foldl_keeps State.still (fun t d => ?_) allDies _).trans (by simp)
  split
  · rfl
  · split <;> rfl
@[simp] theorem still_l2Write : (l2Write s die ppa n x).still = s.still := by
  simp only [l2Write]
  split <;> simp
@[simp] theorem still_dirRead : (dirRead s ppa n).2.still = s.still :=
  foldl_keeps State.still (fun t d => by split <;> simp) allDies s
@[simp] theorem still_dirWrite : (dirWrite s ppa n x).still = s.still := by
  refine (show (dirWrite s ppa n x).still = State.still (List.foldl _ s allDies) from rfl).trans ?_
  refine foldl_keeps State.still (fun t d => ?_) allDies s
  split <;> simp
@[simp] theorem still_flushLine (keep : Bool) : (flushLine s line keep).still = s.still := by
  refine foldl_keeps State.still (fun t d => ?_) allDies s
  split
  · rfl
  · extract_lets u
    have back : u.still = t.still := by unfold u; split <;> simp
    split <;> simp [back]
@[simp] theorem still_l1Update (core : Nat) : (l1Update s core ppa n).still = s.still := by
  unfold l1Update
  split <;> rfl
@[simp] theorem still_freshen : (freshen s die line).still = s.still := by
  unfold freshen
  split <;> simp
@[simp] theorem still_storeThrough (core : Nat) : (storeThrough s core ppa n x).still = s.still := by
  simp [storeThrough]

/-! ## Encrypted sectors (19 R390) -/

theorem still_sealed (dram : List Host.Cell) (seals : List (Nat × Seal)) : { s with dram := dram, seals := seals }.still = s.still := rfl
@[simp] theorem still_reseal (sector : Nat) (c : Option Cipher) : (s.reseal sector c).still = s.still := by
  unfold State.reseal
  exact still_sealed ..
@[simp] theorem still_dropCopies : (dropCopies s line).still = s.still :=
  (foldl_keeps State.still (fun t c => still_l1DropLine t line c) _ _).trans (still_flushLine s line false)
@[simp] theorem still_unsealLine (c : Nat → Option Cipher) : (s.unsealLine line c).still = s.still := by
  unfold State.unsealLine
  split
  · rfl
  · exact (foldl_keeps State.still (fun t k => still_reseal t _ _) _ _).trans (still_dropCopies s line)

end

/-! ## Translation (19 R384 to R386) -/

section
variable (s : State) (g : Ag) (ea n x : Nat)

@[simp] theorem still_noteSpread (e ppa : Nat) : (s.noteSpread e ppa).still = s.still := by
  unfold State.noteSpread
  extract_lets k
  split <;> rfl
@[simp] theorem still_noteUse (idx e y ppa : Nat) : (s.noteUse idx e y ppa).still = s.still := by
  simp [State.noteUse]
@[simp] theorem still_enterTlb (die : Nat) (k : PageKey) (leaf : Nat) : (enterTlb s die k leaf).still = s.still :=
  still_setDie ..
@[simp] theorem still_walkDone (die : Nat) (k : PageKey) (e y : Nat) : (walkDone s die k e y).still = s.still := by
  rw [show @walkDone = delta% @walkDone from rfl]
  beta_reduce
  extract_lets t
  have read : t.still = s.still := foldl_keeps State.still (fun u a => by split <;> simp) _ s
  split
  · split
    · exact read
    · exact (still_enterTlb ..).trans read
  · exact read
@[simp] theorem still_translated (die : Nat) (k : PageKey) (e y : Nat) : (s.translated die k e y).still = s.still := by
  unfold State.translated
  extract_lets t
  have walked : t.still = s.still := by unfold t; split <;> simp
  split
  · simp [walked]
  · exact walked
@[simp] theorem still_reach : (s.reach g ea).still = s.still := by
  unfold State.reach
  split
  · split <;> simp
  · rfl
@[simp] theorem still_startCow (k : PageKey) : (startCow s k).still = s.still := by
  unfold startCow
  split <;> rfl

/-! ## Combining (15 R328, R329) -/

@[simp] theorem still_freshenAll (line : Nat) : (freshenAll s line).still = s.still :=
  (foldl_keeps State.still (fun t c => by split <;> simp) _ _).trans
    (foldl_keeps State.still (fun t d => still_freshen t d line) _ s)
@[simp] theorem still_applyPartial (p : Partial) : (applyPartial s p).still = s.still := by
  simp only [applyPartial, still_freshenAll]
  split <;> simp
@[simp] theorem still_combine (lid line : Nat) : (combine s lid line).still = s.still :=
  (foldl_keeps State.still (fun t c => still_setCore t c _) _ _).trans
    (foldl_keeps State.still still_applyPartial _ s)

/-! ## Places (07 R170, 15 R320) -/

@[simp] theorem still_readPlace (p : Place) : (readPlace s g p n).2.still = s.still := by
  unfold readPlace
  split
  · rfl
  · rfl
  · extract_lets t
    have combined : t.still = s.still := by simp [t]
    split <;> simp [combined]
  · rfl
@[simp] theorem still_writePlace (p : Place) : (writePlace s g p n x).still = s.still := by
  unfold writePlace
  split
  · rfl
  · rfl
  · split <;> simp
  · rfl
@[simp] theorem still_singlePoint (core ppa : Nat) (f : Nat → Nat) :
    (singlePoint s core ppa n f).2.still = s.still := by
  unfold singlePoint
  extract_lets die line old
  split
  · split <;> simp
  · split <;> simp
@[simp] theorem still_rmwPlace (p : Place) (f : Nat → Nat) : (rmwPlace s g p n f).2.still = s.still := by
  unfold rmwPlace
  split
  · rfl
  · rfl
  · simp
  · rfl

/-! ## Addresses (07 R158, 28 R470) -/

@[simp] theorem calm_peerGot (pkg ridx : Nat) (a : PeerAct) :
    (peerGot s g pkg ridx ea n a).state.calm = s.calm := by
  unfold peerGot
  extract_lets +onlyGivenNames m
  split
  · rfl
  · split
    · rfl
    · split
      · rfl
      · extract_lets +onlyGivenNames answered u waiting
        have sent : answered.calm = s.calm := by unfold answered; split <;> rfl
        have asked : waiting.calm = s.calm := by unfold waiting; split <;> rfl
        split
        · exact sent
        · exact sent
        · split
          · exact sent
          · exact asked
        · exact asked
@[simp] theorem calm_busyGot (loc : State → Loc) : (busyGot s ea loc).state.calm = s.calm := by
  unfold busyGot
  split <;> rfl
@[simp] theorem calm_readLine : (readLine s g ea n).state.calm = s.calm := by
  unfold readLine
  extract_lets view d m len seen
  split
  · rfl
  · rfl
  · rfl
  · exact calm_busyGot ..
  · split
    · rename_i answer
      exact (congrArg (fun r => r.state.calm) answer).symm.trans (calm_peerGot ..)
    · exact calm_peerGot ..
  · split
    · rfl
    · split
      rename_i placed
      exact calm_of_still ((congrArg (fun r => r.2.still) placed).symm.trans ((still_readPlace ..).trans (still_reach ..)))
  · rfl
  · rfl
theorem calm_readEaFrom (f : Nat) : (readEaFrom g f s ea n).state.calm = s.calm := by
  induction f generalizing s ea n with
  | zero => rfl
  | succ f ih =>
    rw [readEaFrom]
    have first := calm_readLine s g ea (min n (32 - ea % 32))
    split
    · rename_i y t line
      rw [line] at first
      split
      · exact first
      · have rest := ih t (ea + min n (32 - ea % 32)) (n - min n (32 - ea % 32))
        split
        · rename_i others
          rw [others] at rest
          exact rest.trans first
        · exact rest.trans first
    · exact first
@[simp] theorem calm_readEa : (readEa s g ea n).state.calm = s.calm := by
  unfold readEa
  split
  · rfl
  · exact calm_readEaFrom ..
theorem calm_writeEaFrom (f : Nat) : (writeEaFrom g f s ea n x).state.calm = s.calm := by
  induction f generalizing s ea n x with
  | zero => rfl
  | succ f ih =>
    rw [writeEaFrom]
    split
    · rfl
    · split
      · rfl
      · rfl
      · exact calm_busyGot ..
      · exact calm_of_still (still_startCow ..)
      · split
        · rename_i t answer
          have sent : t.calm = s.calm :=
            (congrArg (fun r => r.state.calm) answer).symm.trans (calm_peerGot ..)
          split
          · exact sent
          · exact (ih ..).trans sent
        · exact calm_peerGot ..
      · extract_lets t
        have written : t.calm = s.calm := calm_of_still ((still_writePlace ..).trans (still_reach ..))
        split
        · exact written
        · exact (ih ..).trans written
@[simp] theorem calm_writeEa : (writeEa s g ea n x).state.calm = s.calm := by
  unfold writeEa
  split
  · rfl
  · exact calm_writeEaFrom ..
@[simp] theorem calm_rmwEa (a : PeerAct) : (rmwEa s g ea n a).state.calm = s.calm := by
  unfold rmwEa
  extract_lets f
  split
  · rfl
  · split
    · rfl
    · rfl
    · exact calm_busyGot ..
    · exact calm_of_still (still_startCow ..)
    · exact calm_peerGot ..
    · split
      · rfl
      · exact calm_of_still ((still_rmwPlace ..).trans (still_reach ..))

end

/-! ## Rings (11 R272) -/

/-- An access that ended well left them. -/
theorem calm_of_ok {s t : State} {r : Got} {y : Nat} (h : r.state.calm = s.calm) (ok : r = .ok y t) :
    t.calm = s.calm := by
  rw [ok] at h
  exact h

section
variable (s : State) (g : Ag) (ring : Nat)

@[simp] theorem calm_reserveSlot : (reserveSlot s g ring).state.calm = s.calm := by
  have read := calm_readEa s g ring 20
  unfold reserveSlot
  split
  · rename_i ok
    have block := calm_of_ok read ok
    split
    · exact block
    · exact (calm_rmwEa ..).trans block
  · exact read
@[simp] theorem calm_writePieces (ps : List (Nat × Nat × Nat)) : (writePieces g ps s).state.calm = s.calm := by
  induction ps generalizing s with
  | nil => rfl
  | cons p ps ih =>
    obtain ⟨ea, n, x⟩ := p
    have piece := calm_writeEa s g ea n x
    rw [writePieces]
    split
    · rename_i ok
      exact (ih _).trans (calm_of_ok piece ok)
    · exact piece
@[simp] theorem calm_writeRecord (c record : Nat) : (writeRecord s g ring c record).state.calm = s.calm := by
  rw [show @writeRecord = delta% @writeRecord from rfl]
  beta_reduce
  have read := calm_readEa
  have pieces := calm_writePieces
  revert read pieces
  induction @readEa using of_forall with | _ readEa
  induction @writePieces using of_forall with | _ writePieces
  intro read pieces
  split
  · rename_i t ok
    have block : t.calm = s.calm := calm_of_ok (read ..) ok
    extract_lets a
    split
    · rename_i written
      exact (calm_of_ok (pieces ..) written).trans block
    · exact (pieces ..).trans block
  · exact read ..
@[simp] theorem calm_postFrom (reserved : Option Nat) (faddr bytes tag status cause : Nat) :
    (postFrom s g ring reserved faddr bytes tag status cause).2.state.calm = s.calm := by
  unfold postFrom
  have count : (match reserved with | some c => Got.ok c s | none => reserveSlot s g ring).state.calm = s.calm := by
    cases reserved with
    | some c => rfl
    | none => exact calm_reserveSlot ..
  split
  · rename_i ok
    exact (calm_writeRecord ..).trans (calm_of_ok count ok)
  · exact count
theorem calm_postKept {t : State} (h : t.calm = s.calm) (reserved : Option Nat) :
    (postKept s t reserved).calm = s.calm := by
  unfold postKept
  split
  · exact h
  · rfl
@[simp] theorem calm_ringBlock (at_ : RingAt) : (ringBlock s g at_).state.calm = s.calm := by
  cases at_ with
  | block ea => rfl
  | named ea => exact calm_readEa ..
@[simp] theorem calm_postReport (at_ : RingAt) (reserved : Option Nat) (faddr bytes tag status cause : Nat) :
    (postReport s g at_ reserved faddr bytes tag status cause).2.state.calm = s.calm := by
  unfold postReport
  split
  · rename_i ok
    exact (calm_postFrom ..).trans (calm_of_ok (calm_ringBlock ..) ok)
  · exact calm_ringBlock ..
@[simp] theorem calm_sendReport (via : Option (Nat × Nat)) (count record : Nat) :
    (sendReport s via count record).calm = s.calm := by
  unfold sendReport
  split <;> rfl

end

/-- A state but for what a record posted to a ring changes. -/
def State.quiet (s : State) : State := { s.calm with ops := [], seq := 0 }

/-- Posting changes what an access does, and may add the record as an operation that belongs to no launch. -/
structure Posts (s t : State) : Prop where
  quiet : t.quiet = s.quiet
  ops : ∃ os, t.ops = s.ops ++ os ∧ ∀ o ∈ os, o.lid = 2 ^ 64

theorem Posts.refl (s : State) : Posts s s := ⟨rfl, [], (List.append_nil _).symm, fun _ h => nomatch h⟩
theorem Posts.of_calm {s t : State} (h : t.calm = s.calm) : Posts s t :=
  ⟨congrArg (fun x : State => { x with ops := [], seq := 0 }) h, [], (congrArg State.ops h).trans (List.append_nil _).symm,
    fun _ h => nomatch h⟩
theorem Posts.trans {s t u : State} (h : Posts s t) (h' : Posts t u) : Posts s u := by
  obtain ⟨os, added, outside⟩ := h.ops
  obtain ⟨os', added', outside'⟩ := h'.ops
  refine ⟨h'.quiet.trans h.quiet, os ++ os', by rw [added', added, List.append_assoc], fun o listed => ?_⟩
  exact (List.mem_append.mp listed).elim (outside o) (outside' o)

section
variable (s : State)

theorem posts_postLater (core ctx : Nat) (at_ : RingAt) (reserved : Option Nat) (faddr bytes tag status cause : Nat)
    (via : Option (Nat × Nat)) : Posts s (postLater s core ctx at_ reserved faddr bytes tag status cause via) :=
  ⟨rfl, _, rfl, fun _ listed => List.mem_singleton.mp listed ▸ rfl⟩

/-- A record on a ring, written at once or to be posted later. -/
theorem posts_post (core ctx : Nat) (at_ : RingAt) (faddr bytes tag status cause : Nat) (via : Option (Nat × Nat)) :
    Posts s (post s core ctx at_ faddr bytes tag status cause via) := by
  have done := calm_postReport s (plainAg core ctx) at_ none faddr bytes tag status cause
  unfold post
  split
  · exact .refl s
  · split
    · exact posts_postLater ..
    · split <;> rename_i outcome <;> rw [outcome] at done
      · exact .of_calm ((calm_sendReport ..).trans done)
      · exact (Posts.of_calm (calm_postKept s done _)).trans (posts_postLater ..)
      · exact (Posts.of_calm (calm_postKept s done _)).trans (posts_postLater ..)
      · exact .of_calm done
theorem posts_postRing (core lid k faddr bytes tag status cause : Nat) :
    Posts s (postRing s core lid k faddr bytes tag status cause) := by
  unfold postRing
  split
  · exact posts_post ..
  · exact .refl s
theorem posts_reportLaunch (l : Launch) (status cause : Nat) : Posts s (reportLaunch s l status cause) := by
  unfold reportLaunch
  split
  · exact posts_post ..
  · exact .refl s

end

end Sys2Proof.Machine
end

section
/-! The ends of launches (16_launch_scheduling.md R345 to R347), pod groups (28_fabric.md R473) and moved blocks (14_cluster.md
R311). -/

namespace Sys2Proof.Machine

variable {s t : State} {l : Launch} {lid : Nat}

theorem LinesOnly.still (h : LinesOnly s t) : t.still = s.still := (congrArg State.still h.rest :)

/-! ## What teardown leaves of a launch (R346) -/

/-- No launch, block or operation names the launch. -/
structure Forgotten (s : State) (lid : Nat) : Prop where
  launches : ∀ m ∈ s.launches, m.lid ≠ lid
  blocks : ∀ b ∈ s.blocks, b.lid ≠ lid
  ops : ∀ o ∈ s.ops, o.lid ≠ lid

theorem launch?_mem {lid : Nat} (h : s.launch? lid = some l) : l ∈ s.launches ∧ l.lid = lid :=
  ⟨List.mem_of_find?_eq_some h, by simpa using List.find?_some h⟩

theorem Forgotten.posts (h : Forgotten s lid) (posted : Posts s t) (small : lid < 2 ^ 64) : Forgotten t lid := by
  obtain ⟨os, added, outside⟩ := posted.ops
  refine ⟨(congrArg State.launches posted.quiet :).symm ▸ h.launches, (congrArg State.blocks posted.quiet :).symm ▸ h.blocks,
    fun o listed => ?_⟩
  rw [added] at listed
  rcases List.mem_append.mp listed with listed | listed
  · exact h.ops o listed
  · exact outside o listed ▸ small.ne'

theorem Forgotten.setLaunch (h : Forgotten s lid) (other : l.lid ≠ lid) : Forgotten (s.setLaunch l) lid := by
  refine ⟨fun m listed => ?_, h.blocks, h.ops⟩
  obtain ⟨m', listed', rfl⟩ := List.mem_map.mp listed
  split
  · exact other
  · exact h.launches m' listed'

theorem Forgotten.makeEligible (h : Forgotten s lid) (other : l.lid ≠ lid) (small : lid < 2 ^ 64) :
    Forgotten (makeEligible s l) lid := by
  unfold Machine.makeEligible
  extract_lets l'
  split
  · exact (h.setLaunch (l := { l' with placed := true }) other).posts (posts_reportLaunch ..) small
  · exact h.setLaunch (l := l') other

theorem Forgotten.refreshEligible (h : Forgotten s lid) (small : lid < 2 ^ 64) : Forgotten (refreshEligible s) lid := by
  refine List.foldlRecOn (motive := (Forgotten · lid)) _ _ h fun t ht m _ => ?_
  split
  · rename_i l found
    split
    · exact ht.makeEligible (ht.launches l (launch?_mem found).1) small
    · exact ht
  · exact ht

theorem Forgotten.dropPod (h : Forgotten s lid) (l : Launch) : Forgotten (dropPod s l) lid := by
  unfold Machine.dropPod
  split
  · exact h
  · exact ⟨h.launches, h.blocks, h.ops⟩

theorem forgotten_dropLaunch (s : State) (lid : Nat) : Forgotten (dropLaunch s lid) lid := by
  unfold dropLaunch
  extract_lets t u
  clear_value u
  exact ⟨fun m listed => bne_iff_ne.mp (List.mem_filter.mp listed).2, fun b listed => bne_iff_ne.mp (List.mem_filter.mp listed).2,
    fun o listed => bne_iff_ne.mp (List.mem_filter.mp listed).2⟩

theorem teardown_of_plain (barriers : l.tbars = []) (signal : l.csig = 0) (small : l.lid < 2 ^ 64) :
    ∃ t, teardown s l = .done t ∧ Forgotten t l.lid := by
  unfold teardown
  simp only [barriers, breakBarriers, signalLaunch, signal]
  exact ⟨_, rfl, ((forgotten_dropLaunch _ _).dropPod l).refreshEligible small⟩

/-! ## Moved blocks (14 R311) -/

/-- t differs from s in its cores only. -/
def CoresOnly (s t : State) : Prop := { t with cores := s.cores } = s

theorem CoresOnly.trans {u : State} (h : CoresOnly s t) (h' : CoresOnly t u) : CoresOnly s u :=
  (congrArg (fun x : State => { x with cores := s.cores }) h' :).trans h
theorem coresOnly_setCore (s : State) (core : Nat) (c : Core) : CoresOnly s (s.setCore core c) := rfl
theorem CoresOnly.foldl {α : Type} {f : State → α → State} (h : ∀ s x, CoresOnly s (f s x)) (xs : List α) (s : State) :
    CoresOnly s (xs.foldl f s) :=
  List.foldlRecOn (motive := CoresOnly s) xs f rfl fun _ ht x _ => ht.trans (h _ x)

theorem coresOnly_freePortions (b : Block) : CoresOnly s (freePortions s b) := by
  refine .foldl (fun t e => ?_) _ s
  obtain ⟨r, e⟩ := e
  dsimp only
  split
  · exact (coresOnly_setCore ..).trans (coresOnly_setCore ..)
  · rfl

theorem coresOnly_takePortion (blin core : Nat) : CoresOnly s (takePortion s l blin core).2 := by
  unfold takePortion
  extract_lets base region c t c' q u
  change CoresOnly s u
  unfold u
  split
  · exact coresOnly_setCore ..
  · exact (coresOnly_setCore ..).trans ((coresOnly_setCore ..).trans (coresOnly_setCore ..))

theorem coresOnly_takePortions (blin n core : Nat) : CoresOnly s (takePortions l blin n core s).2 := by
  induction n generalizing core s with
  | zero => rfl
  | succ n ih => exact (coresOnly_takePortion blin core).trans (ih _)

theorem length_takePortions (blin n core : Nat) : (takePortions l blin n core s).1.length = n := by
  induction n generalizing core s with
  | zero => rfl
  | succ n ih => exact congrArg (· + 1) (ih _)

theorem coresOnly_leaveCore (core lid : Nat) : CoresOnly s (leaveCore s core lid) := by
  unfold leaveCore
  extract_lets named held c
  split
  · rfl
  · exact coresOnly_setCore ..

theorem coresOnly_layBlock (b : Block) (x : List (List Host.Cell) × List (List Host.Cell)) : CoresOnly s (layBlock s l b x) :=
  .foldl (fun _ _ => coresOnly_setCore ..) _ s

theorem block?_setBlock {b b' : Block} {blin : Nat} (found : s.block? lid blin = some b) (lid_eq : b'.lid = lid) (blin_eq : b'.blin = blin) :
    (s.setBlock b').block? lid blin = some b' := by
  subst lid_eq blin_eq
  unfold State.block? at found ⊢
  simp only [State.setBlock]
  revert found
  induction s.blocks with
  | nil => exact nofun
  | cons c cs ih =>
    rw [List.map_cons]
    by_cases same : (c.lid == b'.lid && c.blin == b'.blin) = true
    · simp [same]
    · simpa [same] using ih

theorem CoresOnly.block? (h : CoresOnly s t) (lid blin : Nat) : t.block? lid blin = s.block? lid blin := by
  rw [State.block?, State.block?, (congrArg State.blocks h :)]

/-- The state in which a block stands on other cores with what its portions and accumulators held. -/
def movedBlock (s : State) (l : Launch) (b : Block) (core0 : Nat) : State :=
  let x := blockBytes s l b
  let e := takePortions l b.blin l.cores core0 (freePortions s b)
  let b' := { b with core := core0, map := e.1 }
  layBlock ((upTo b.map.length).foldl (fun s r => leaveCore s (b.core + r) l.lid) (e.2.setBlock b')) l b' x

theorem movedBlock_stands {b : Block} (block : s.block? l.lid b.blin = some b) (core0 : Nat) :
    ∃ m, (movedBlock s l b core0).block? l.lid b.blin = some { b with core := core0, map := m } ∧ m.length = l.cores ∧
      (movedBlock s l b core0).slots = s.slots ∧ (movedBlock s l b core0).dram = s.dram := by
  unfold movedBlock
  extract_lets x e b'
  have taken : CoresOnly s e.2 := (coresOnly_freePortions b).trans (coresOnly_takePortions ..)
  have laid := (CoresOnly.foldl (fun s r => coresOnly_leaveCore (b.core + r) l.lid) (upTo b.map.length) (e.2.setBlock b')).trans
    (coresOnly_layBlock (l := l) b' x)
  have lid_eq : b.lid = l.lid ∧ b.blin = b.blin := by simpa using List.find?_some block
  refine ⟨e.1, ?_, length_takePortions .., (congrArg State.slots laid :).trans (congrArg State.slots taken :),
    (congrArg State.dram laid :).trans (congrArg State.dram taken :)⟩
  exact (laid.block? ..).trans (block?_setBlock ((taken.block? ..).trans block) lid_eq.1 rfl)

end Sys2Proof.Machine

open Sys2Proof Sys2Proof.Machine

/-- Settles O48: each event's guard holds, and what is left names the launch no more; a moved block changes cores only. -/
theorem launchesEnd : Obligations.LaunchesEnd := by
  refine fun s l found small => ⟨?_, ?_, ?_, ?_, ?_⟩
  · intro slot since input holds due frozen sound
    refine ⟨_, ?_, freeSlot_empties sound⟩
    have go : (decide (since + s.escHold ≤ s.ref) && (s.slot slot).st == .frozen) = true := by simp [due, frozen]
    show execEscalatedHoldExpiry s = _
    simp only [execEscalatedHoldExpiry, input, holds, go, whenEnabled_true]
  · intro rs input torn barriers signal
    obtain ⟨t, done, h⟩ := teardown_of_plain (s := s) barriers signal small
    refine ⟨t, ?_, h.launches, h.blocks, h.ops⟩
    show execLaunchTeardown s = _
    simp only [execLaunchTeardown, input, found, done, torn, whenEnabled_true]
  · intro ms input pod ungrouped eligible placed alive count distinct self
    have go : (l.pgn != 0 && l.group.isNone && l.eligible && l.pending.isEmpty && !l.killed && (ms.map (·.1)).length == l.pgn &&
        (ms.map (·.1)).eraseDups == ms.map (·.1) && ms.contains (s.pkg, 64 * l.ppb * l.nblocks)) = true := by
      simp only [ungrouped, eligible, placed, alive, count, distinct, List.contains_iff_mem.mpr self, bne_iff_ne.mpr pod,
        Option.isNone_none, List.isEmpty_nil, Bool.not_false, Bool.and_self, beq_self_eq_true]
    show execPodGroupForm s = _
    simp only [execPodGroupForm, input, found, go, whenEnabled_true]
  · intro b core0 input block saved fits
    have go : (blockSaved s l b && moveFits s l b core0) = true := by rw [saved, fits]; rfl
    obtain ⟨m, moved, length, slots, dram⟩ := movedBlock_stands block core0
    refine ⟨_, m, ?_, moved, length, slots, dram⟩
    show execBlockMove s = _
    simp only [execBlockMove, input, found, block, go, whenEnabled_true]
    rfl
  · intro input up
    have go : (!s.out .monument) = true := by rw [up]; rfl
    refine ⟨fun eligible => ?_, fun waiting => ?_⟩
    · show execManagementKillLaunch s = _
      simp only [execManagementKillLaunch, input, found, go, whenEnabled_true, eligible, if_true]
    · show execManagementKillLaunch s = _
      simp only [execManagementKillLaunch, input, found, go, whenEnabled_true, waiting, Bool.false_eq_true, if_false]
      have others : (fun m : Launch => m.lid != l.lid) = fun m => decide (m.lid ≠ l.lid) := by
        funext m
        exact Bool.eq_iff_iff.mpr (by simp)
      rw [others]
      rfl
end

section
/-! Scheduler passes, placements and reservations (16_launch_scheduling.md R338, R339; 14_cluster.md R306). -/

namespace Sys2Proof.Machine

variable {s t u : State} {l : Launch} {die : Nat}

/-! ## Whole clusters on aligned groups (R338, 14 R306) -/

theorem cores_dvd (l : Launch) : l.cores ∣ 32 :=
  pow_dvd_pow 2 (show l.f 8 0 2 ≤ 5 from (Nat.mod_lt _ (by decide)).le.trans (by decide))

theorem group_aligned {core0 cores : Nat} (dvd : cores ∣ 32) (group : core0 ∈ groupsOn die cores) :
    core0 / 32 = die ∧ core0 % cores = 0 := by
  obtain ⟨g, low, rfl⟩ := List.mem_map.mp group
  have below : g * cores < 32 := by
    have step := Nat.mul_le_mul_right cores (Nat.succ_le_of_lt (mem_upTo.mp low))
    rw [Nat.div_mul_cancel dvd, Nat.succ_mul] at step
    have := Nat.pos_of_dvd_of_pos dvd (by decide)
    omega
  refine ⟨by omega, Nat.mod_eq_zero_of_dvd (Nat.dvd_add (dvd.mul_right die) (Nat.dvd_mul_left ..))⟩

/-- A block of a launch's cluster as it is placed on a die. -/
structure PlacedOn (l : Launch) (die c : Nat) (b : Block) : Prop where
  lid : b.lid = l.lid
  cluster : b.clin = c
  onDie : b.core / 32 = die
  aligned : b.core % l.cores = 0
  ranks : b.map.length = l.cores
  runs : b.ended = false
  unbound : b.bound = []

theorem placeBlock_appends {c r : Nat} (h : placeBlock s l die c r = some t) : ∃ b, t.blocks = s.blocks ++ [b] ∧ PlacedOn l die c b := by
  unfold placeBlock at h
  split at h
  · cases h
  · rename_i core0 found
    obtain ⟨onDie, aligned⟩ := group_aligned (cores_dvd l) (List.mem_of_find?_eq_some found)
    cases h
    have kept := congrArg State.blocks (coresOnly_takePortions (s := s) (l := l) (l.linear (l.blockAt c r)) l.cores core0)
    exact ⟨_, congrArg (· ++ _) kept, rfl, rfl, onDie, aligned, length_takePortions .., rfl, rfl⟩

theorem placeRanks_appends {c n r : Nat} (h : placeRanks l die c n r s = some t) :
    ∃ bs, t.blocks = s.blocks ++ bs ∧ bs.length = n ∧ ∀ b ∈ bs, PlacedOn l die c b := by
  induction n generalizing r s with
  | zero =>
    cases h
    exact ⟨[], (List.append_nil _).symm, rfl, fun _ h => nomatch h⟩
  | succ n ih =>
    obtain ⟨u, first, rest⟩ := Option.bind_eq_some_iff.mp h
    obtain ⟨b, one, placed⟩ := placeBlock_appends first
    obtain ⟨bs, others, length, all⟩ := ih rest
    exact ⟨b :: bs, by simp [others, one], congrArg (· + 1) length, by simpa using ⟨placed, all⟩⟩

theorem placeCluster_appends {c : Nat} (h : placeCluster s l die c = some t) :
    l.dieOk die = true ∧ ∃ bs, t.blocks = s.blocks ++ bs ∧ bs.length = l.clSize ∧ ∀ b ∈ bs, PlacedOn l die c b := by
  unfold placeCluster at h
  split at h
  · cases h
  · rename_i allowed
    simp only [Bool.or_eq_true, not_or, Bool.not_eq_true, Bool.not_eq_false'] at allowed
    exact ⟨allowed.1.1.2, placeRanks_appends h⟩

/-! ## Passes (R339) -/

theorem dieTakes_of (cond : (s.die die).cond = .running) (on : (s.die die).stopped = false) (up : bindUp s die = true) :
    dieTakes s die = true := by
  rw [dieTakes, cond, on, up]
  rfl

theorem exec_schedulerPass {rs : List (Nat × PeerReply)} (input : s.input = .schedulerPass die rs) (inside : die < 4)
    (takes : dieTakes s die = true) : exec .schedulerPass s = .next (schedule s die) := by
  have go : (decide (die < 4) && dieTakes s die) = true := by rw [takes, decide_eq_true inside]; rfl
  show execSchedulerPass s = _
  simp only [execSchedulerPass, input, go, whenEnabled_true]

theorem reserver_of (reserved : (s.die die).reserve = some l.lid) (found : s.launch? l.lid = some l) (alive : l.killed = false)
    (waits : l.pending ≠ []) : reserver s die = some l := by
  simp [reserver, reserved, found, alive, waits]
theorem reserver_none (free : (s.die die).reserve = none) : reserver s die = none := by
  simp [reserver, free]

theorem schedule_reserver (holds : reserver s die = some l) : schedule s die = (place? s die l).getD (askV0 s l) := by
  simp only [schedule, holds]

theorem askV0_of_ready (ready : ∀ t, startDet s l ≠ .error t) : askV0 s l = s := by
  unfold askV0
  split
  · rename_i t e
    exact absurd e (ready t)
  · rfl
theorem askV0_of_held (held : startDet s l = .error t) : askV0 s l = s.keepHold t := by simp only [askV0, held]
theorem place?_of_held (held : startDet s l = .error t) : place? s die l = none := by simp only [place?, held]

theorem servePrio_nil (n : Nat) : servePrio s die [] n = s := by
  induction n with
  | zero => rfl
  | succ n ih => exact ih

theorem schedule_idle (free : reserver s die = none) (idle : ∀ l ∈ s.launches, candidate s die l = false) : schedule s die = s := by
  have none : s.launches.filter (candidate s die) = [] := List.filter_eq_nil_iff.mpr fun l listed => by simp [idle l listed]
  simp only [schedule, free, none, List.foldl_nil, List.filterMap_nil, servePrio_nil]
  rfl

theorem effPrio_eq_seven (h : 7 ≤ l.prio + (s.ref - aget l.since die l.placedAt) / max 1 s.age) : effPrio s die l = 7 :=
  Nat.min_eq_left h

end Sys2Proof.Machine
open Sys2Proof Sys2Proof.Machine

/-- Settles O47: a pass is its reservation's placement or, without a candidate, nothing; each block of a placed cluster is appended
on a group of cores of its die. -/
theorem clustersArePlaced : Obligations.ClustersArePlaced := by
  refine fun s die => ⟨?_, ?_, ?_⟩
  · intro rs input inside cond on up
    have pass := exec_schedulerPass input inside (dieTakes_of cond on up)
    refine ⟨⟨_, pass⟩, fun l reserved found alive waits => ?_, fun free idle => ?_⟩
    · rw [pass, schedule_reserver (reserver_of reserved found alive waits)]
      refine ⟨fun none ready => ?_, fun t held => ?_, fun t placed => ?_⟩
      · rw [none, Option.getD_none, askV0_of_ready ready]
      · rw [place?_of_held held, Option.getD_none, askV0_of_held held]
      · rw [placed, Option.getD_some]
    · rw [pass, schedule_idle (reserver_none free) idle]
  · intro l c t placed
    obtain ⟨allowed, bs, added, length, all⟩ := placeCluster_appends placed
    refine ⟨allowed, bs, added, length, fun b listed => ?_⟩
    obtain ⟨lid, cluster, onDie, aligned, ranks, runs, unbound⟩ := all b listed
    exact ⟨lid, cluster, onDie, aligned, ranks, runs, unbound⟩
  · intro l t0 input found waits urgent failing due free
    have go : (candidate s die l && effPrio s die l == 7 &&
        (match aget? die l.failing with | some t => decide (t + s.resInterval ≤ s.ref) | none => false) &&
        (reserver s die).isNone) = true := by
      simp [waits, effPrio_eq_seven urgent, failing, due, reserver_none free]
    show execReservationIntervalExpiry s = _
    simp only [execReservationIntervalExpiry, input, found]
    exact if_pos go
end

section
/-! Buffer tables and launch queues as they are set up (19_package_memory.md R379 to R381, R390; 20_versioned_memory.md R394;
16_launch_scheduling.md R332). -/

namespace Sys2Proof.Machine

variable {s t : State} {ctx idx e : Nat}

/-! ## What writing entries leaves -/

@[simp] theorem still_writeEntry (s : State) (ppa x : Nat) : (writeEntry s ppa x).still = s.still := by
  rw [writeEntry, still_dirWrite, still_unsealLine]
theorem bufs_of_still (h : t.still = s.still) : t.bufs = s.bufs := (congrArg State.bufs h :)
theorem snaps_of_still (h : t.still = s.still) : t.snaps = s.snaps := (congrArg State.snaps h :)
@[simp] theorem still_shootdown (s : State) (page : PageKey) : (shootdown s page).still = s.still :=
  foldl_keeps State.still (fun _ _ => still_setDie ..) allDies s
@[simp] theorem still_mapLeaves (s : State) (ctx buf e : Nat) (f : Nat → Nat) : (mapLeaves s ctx buf e f).still = s.still := by
  refine foldl_keeps State.still (fun t p => ?_) (pagesOf e) s
  split
  · rfl
  · extract_lets leaf
    split
    · rw [still_shootdown, still_writeEntry]
    · rfl
@[simp] theorem still_clearHistory (s : State) (e : Nat) : (clearHistory s e).still = s.still := by
  refine foldl_keeps State.still (fun t p => foldl_keeps State.still (fun u i => ?_) (upTo 15) t) (pagesOf e) s
  split
  · split
    · rfl
    · exact still_writeEntry ..
  · rfl

theorem unsealLine_of_plain (plain : s.seals = []) (line : Nat) : s.unsealLine line (fun _ => none) = s := by
  unfold State.unsealLine
  refine if_pos (List.all_eq_true.mpr fun k _ => ?_)
  simp [State.shownAs, plain]

/-! ## Entries (19 R379, R380, 20 R394) -/

theorem entry_ne_zero (valid : bitOf e 31 = true) : e ≠ 0 := by
  rintro rfl
  exact absurd valid (by decide)

theorem putEntry_valid (s : State) (ctx idx : Nat) (valid : bitOf e 31 = true) :
    aget? (ctx, idx) (putEntry s ctx idx e).bufs = some e := by
  simp [putEntry, entry_ne_zero valid]
theorem putEntry_zero (s : State) (ctx idx : Nat) : aget? (ctx, idx) (putEntry s ctx idx 0).bufs = none := by
  simp [putEntry]

theorem wrap_pred (opn : Nat) : wrap ((opn : Int) - 1) 24 = (opn + (2 ^ 24 - 1)) % 2 ^ 24 := by
  unfold wrap
  omega

theorem installVersioned_bufs (s : State) (ctx idx e opn : Nat) :
    (installVersioned s ctx idx e opn).bufs = (putEntry s ctx idx e).bufs := by
  unfold installVersioned
  extract_lets pub t u v
  change v.bufs = t.bufs
  exact bufs_of_still ((still_clearHistory u e).trans (still_mapLeaves ..))
theorem installVersioned_snaps (s : State) (ctx idx e opn : Nat) :
    let pub := (opn + (2 ^ 24 - 1)) % 2 ^ 24
    (installVersioned s ctx idx e opn).snaps = (s.snaps.filter fun v => !(v.ctx == ctx && v.buf == idx)) ++
      [{ ctx := ctx, buf := idx, opn := opn % 2 ^ 24, pub := pub, base := pub, holds := [], owners := [] }] := by
  unfold installVersioned
  extract_lets pub' pub t u v
  have kept : v.snaps = t.snaps := snaps_of_still ((still_clearHistory u e).trans (still_mapLeaves ..))
  have pub_eq : pub = pub' := wrap_pred opn
  rw [← pub_eq]
  exact congrArg (· ++ _) kept

/-! ## Shootdown (R381) -/

theorem replayHeld_of_none (unheld : ∀ o ∈ s.ops, ∀ since, o.phase ≠ .held since) (page : PageKey) : replayHeld s page = s := by
  unfold replayHeld
  extract_lets ids
  have none : ids = [] := by
    refine List.map_eq_nil_iff.mpr (List.filter_eq_nil_iff.mpr fun o listed => ?_)
    have := unheld o listed
    split
    · rename_i since held
      exact absurd held (this since)
    · simp
  rw [none]
  rfl

theorem replayHeld_foldl_of_none (unheld : ∀ o ∈ s.ops, ∀ since, o.phase ≠ .held since) (pages : List PageKey) :
    pages.foldl replayHeld s = s := by
  induction pages with
  | nil => rfl
  | cons page pages ih => rw [List.foldl_cons, replayHeld_of_none unheld, ih]

theorem shootBuffer_drops (unheld : ∀ o ∈ s.ops, ∀ since, o.phase ≠ .held since) {d : Nat × Die}
    (die : d ∈ (shootBuffer s ctx idx).dies) {x : PageKey × Nat} (listed : x ∈ d.2.tlb) : ¬(x.1.ctx = ctx ∧ x.1.buf = idx) := by
  unfold shootBuffer at die
  extract_lets t pages at die
  rw [replayHeld_foldl_of_none (s := t) unheld] at die
  obtain ⟨d', -, rfl⟩ := List.mem_map.mp die
  simpa [imp_iff_not_or] using (List.mem_filter.mp listed).2

end Sys2Proof.Machine
open Sys2Proof Sys2Proof.Machine

/-- Settles O57: each request passes its checks; the entries that tables take leave the buffers and snapshots as written. -/
theorem tablesAndQueuesAreSetUp : Obligations.TablesAndQueuesAreSetUp := by
  refine fun s t ctx up => ⟨?_, ?_, ?_, ?_, ?_⟩
  · intro idx e input idle ok
    have go : (managed s && !bufferBusy s ctx idx && (!bitOf e 31 || (entryOk idx e && bufDepth e == 0 && tablesOk s e))) = true := by
      cases valid : bitOf e 31 with
      | false => simp [up, idle]
      | true =>
        obtain ⟨entry, depth, tables⟩ := ok valid
        simp [up, idle, entry, depth, tables]
    refine ⟨putEntry s ctx idx (if bitOf e 31 = true then e else 0), ?_, ?_, rfl, rfl⟩
    · show execBufferTableEntryWrite s = _
      simp only [execBufferTableEntryWrite, input, go, whenEnabled_true]
    · split
      · next valid => exact putEntry_valid s ctx idx valid
      · exact putEntry_zero s ctx idx
  · intro idx e opn input idle valid entry depth tables leaves others room unheld pub
    have go : (managed s && !bufferBusy s ctx idx && bitOf e 31 && entryOk idx e && bufDepth e != 0 && tablesOk s e &&
        leafTablesOk s e && decide (others.length < 4096) && !pagesHeld s e) = true := by
      simp [up, idle, valid, entry, depth, tables, leaves, unheld, room]
    refine ⟨installVersioned s ctx idx e opn, ?_, ?_, installVersioned_snaps ..⟩
    · show execBufferTableEntryWrite s = _
      simp only [execBufferTableEntryWrite, input]
      exact if_pos go
    · rw [installVersioned_bufs, putEntry_valid s ctx idx valid]
  · intro idx e ppa input idle aligned place open_ word
    refine ⟨writeEntry s ppa (e % 2 ^ 64), ?_, bufs_of_still (still_writeEntry ..), rfl, fun plain => ?_⟩
    · show execBufferTableEntryWrite s = _
      simp only [execBufferTableEntryWrite, input]
      revert word
      generalize e % 2 ^ 64 = x
      intro word
      have go : (managed s && !bufferBusy s ctx idx && ppa % 8 == 0 && ppaOk ppa && !inAllBank s ppa &&
          tableWordOk (writeEntry s ppa x) x) = true := by
        simp [up, idle, aligned, place, open_, word]
      exact if_pos go
    · rw [writeEntry, unsealLine_of_plain plain]
  · exact fun idx unheld d die x listed => shootBuffer_drops unheld die listed
  · intro k die base control y input queue onDie context fresh aligned block part room written
    obtain ⟨e, buffer, fits⟩ := room
    have go : (managed s && decide (k < 256) && decide (die < 4) && decide (ctx < 2 ^ 16) && (aget? k s.queues).isNone &&
        base % 64 == 0 && queueBlockOk control &&
        (match bufOf s ctx (eaIdx base) with
        | some e => !isWin base && decide (eaOff base + 64 + 256 * 2 ^ fld control 128 4 ≤ bufLen e)
        | none => false)) = true := by
      simp only [up, queue, onDie, context, fresh, aligned, block, part, buffer, decide_true, Option.isNone_none, beq_self_eq_true,
        Bool.and_self, Bool.true_and, Bool.not_false, decide_eq_true_eq]
      exact fits
    show execLaunchQueueCreate s = _
    simp only [execLaunchQueueCreate, input, written]
    exact if_pos go
end

section
/-! Accesses of peer packages (28_fabric.md R470, R471) and launch packets (R478, R479). -/

namespace Sys2Proof.Machine

variable {s t : State} {r : PeerReq} {e ppa : Nat}

theorem outbox_of_still (h : t.still = s.still) : t.outbox = s.outbox := (congrArg State.outbox h :)

theorem dram_snoopRead (s : State) (die line : Nat) : (snoopRead s die line).dram = s.dram := by
  unfold snoopRead
  split
  · split <;> rfl
  · rfl
theorem dram_dirRead (s : State) (ppa n : Nat) : (dirRead s ppa n).2.dram = s.dram :=
  foldl_keeps State.dram (fun t d => by split <;> simp only [dram_snoopRead]) allDies s

/-! ## Accesses within a sector (R470) -/

/-- A request for bytes of one sector, to a package that runs. -/
structure PeerAsks (s : State) (r : PeerReq) : Prop where
  input : s.input = .peerAccess r
  booted : s.booted = true
  op : r.op < 4
  nonempty : 1 ≤ r.size
  sector : r.offset % 32 + r.size ≤ 32

theorem PeerAsks.exec_refused (h : PeerAsks s r) (refused : peerCheck s r = none) :
    exec .peerAccess s = .next (s.send 6 r.pkg 1) := by
  obtain ⟨input, booted, op, nonempty, sector⟩ := h
  have pod : isPodReq r = false := by simp [isPodReq]; omega
  have go : (s.booted && decide (r.op ≤ 13) && (isCleanReq r || (decide (1 ≤ r.size) && decide (r.offset % 32 + r.size ≤ 32)))) = true := by
    simp [booted, nonempty, sector, op.le.trans (by decide : 4 ≤ 13)]
  show execPeerAccess s = _
  simp only [execPeerAccess, input, pod, Bool.false_eq_true, if_false, refused]
  exact if_pos go

theorem outAccess_at {ctx idx off : Nat} {write : Bool} {f : State → Nat → Nat × State}
    (place : outLoc s ctx idx e off write = .at (.mem ppa)) :
    outAccess s ctx idx e off write f = .ok (f (s.noteUse idx e off ppa) ppa).1 (f (s.noteUse idx e off ppa) ppa).2 := by
  rw [show @outAccess = delta% @outAccess from rfl]
  beta_reduce
  rw [place]

theorem PeerAsks.exec_done (h : PeerAsks s r) (granted : peerCheck s r = some e)
    (place : outLoc s r.ctx r.buf e r.offset (r.op != 0) = .at (.mem ppa)) :
    exec .peerAccess s = .next (answerPeer (peerDo r (s.noteUse r.buf e r.offset ppa) ppa).2 r 0
      (peerDo r (s.noteUse r.buf e r.offset ppa) ppa).1) := by
  obtain ⟨input, booted, op, nonempty, sector⟩ := h
  have pod : isPodReq r = false := by simp [isPodReq]; omega
  have plain : isCleanReq r = false := by simp [isCleanReq]; omega
  have go : (s.booted && decide (r.op ≤ 13) && (isCleanReq r || (decide (1 ≤ r.size) && decide (r.offset % 32 + r.size ≤ 32)))) = true := by
    simp [booted, nonempty, sector, op.le.trans (by decide : 4 ≤ 13)]
  have access := outAccess_at (f := peerDo r) place
  show execPeerAccess s = _
  simp only [execPeerAccess, input, pod, Bool.false_eq_true, if_false, granted]
  revert access
  generalize @outAccess = outAccess
  generalize @peerClean = peerClean
  intro access
  rw [if_neg (by rw [plain]; decide), access]
  exact if_pos go

/-- The answer follows what has been sent before. -/
theorem answerPeer_outbox (kept : t.outbox = s.outbox) (x : Nat) :
    (answerPeer t r 0 x).outbox = s.outbox ++ [{ kind := 6, dest := r.pkg, body := 4 * x }] := by
  simp [answerPeer, State.send, kept]

/-- An answer changes no memory. -/
theorem dram_answerPeer (x : Nat) : (answerPeer t r 0 x).dram = t.dram := rfl

theorem peerDo_read (op : r.op = 0) : peerDo r s ppa = dirRead s ppa r.size := by simp only [peerDo, op]
theorem peerDo_write (op : r.op = 1) : peerDo r s ppa = (0, dirWrite s ppa r.size r.data) := by simp only [peerDo, op]
theorem peerDo_atomic (op : r.op = 2 ∨ r.op = 3) :
    peerDo r s ppa = (if r.op = 3 then coherentRead s ppa r.size else 0,
      dirWrite s ppa r.size (atomNew r.code (coherentRead s ppa r.size) r.data r.data2)) := by
  rcases op with op | op <;> simp [peerDo, op, PeerAct.update]

/-! ## Launch packets (R478) -/

section
variable {conn h record x : Nat} {q : Queue}

/-- A launch packet that names a queue whose control block has been read. -/
structure PacketArrives (s t : State) (conn h record x : Nat) (q : Queue) : Prop where
  input : s.input = .launchPacket conn h record
  booted : s.booted = true
  path : 8192 ≤ conn ∨ (ethUp s = true ∧ (aget? conn s.conns).isSome = true)
  queue : aget? (h / 2 ^ 32 % 2 ^ 8) s.queues = some q
  control : readEa s (outAg q.ctx) q.base 24 = .ok x t

theorem PacketArrives.exec (a : PacketArrives s t conn h record x q) :
    (∀ nst tail, packetNack t conn h (some q) (some (queueCb x)) = some (nst, tail) →
      Machine.exec .launchPacket s =
        .next (t.send 4 conn (residency 1 (h / 2 ^ 32 % 2 ^ 8 + 2 ^ 16 * (h / 2 ^ 48 % 2 ^ 16)) tail nst 0))) ∧
    ∀ y u, packetNack t conn h (some q) (some (queueCb x)) = none →
      placePacket t conn (h / 2 ^ 32 % 2 ^ 8) q (queueCb x) record = .ok y u → Machine.exec .launchPacket s = .next u := by
  obtain ⟨input, booted, path, queue, control⟩ := a
  have up : (s.booted && (decide (8192 ≤ conn) || (ethUp s && (aget? conn s.conns).isSome))) = true := by
    rcases path with local_ | ⟨eth, known⟩
    · simp [booted, local_]
    · simp [booted, eth, known]
  change (∀ nst tail, _ → execLaunchPacket s = _) ∧ ∀ y u, _ → _ → execLaunchPacket s = _
  unfold execLaunchPacket
  revert control
  induction @readEa using of_forall with | _ readEa
  induction @placePacket using of_forall with | _ placePacket
  induction @packetNack using of_forall with | _ packetNack
  intro control
  split
  case h_2 other => exact absurd input (other _ _ _)
  case h_1 _ _ _ same =>
    cases input.symm.trans same
    extract_lets k word up nack
    split
    case h_1 none => exact nomatch queue.symm.trans none
    case h_2 _ some =>
      cases queue.symm.trans some
      split
      case h_1 e | h_2 e | h_3 e => exact nomatch control.symm.trans e
      case h_4 e =>
        cases control.symm.trans e
        extract_lets cb
        constructor
        · intro nst tail nacked
          split
          case h_1 e =>
            cases nacked.symm.trans e
            exact if_pos ‹_›
          case h_2 e => exact nomatch nacked.symm.trans e
        · intro y u passes placed
          split
          case h_1 e => exact nomatch passes.symm.trans e
          case h_2 e =>
            split
            case h_1 e =>
              cases placed.symm.trans e
              exact if_pos ‹_›
            case h_2 e | h_3 e | h_4 e => exact nomatch placed.symm.trans e

end

end Sys2Proof.Machine
open Sys2Proof Sys2Proof.Machine

/-- Settles O56: the access is done at its place, and its answer follows what was sent; a packet is placed or answered. -/
theorem peersAndPacketsAreAnswered : Obligations.PeersAndPacketsAreAnswered := by
  refine fun s t => ⟨?_, ?_⟩
  · intro r input booted op nonempty sector
    have asks : PeerAsks s r := ⟨input, booted, op, nonempty, sector⟩
    refine ⟨asks.exec_refused, fun e ppa granted place => ?_⟩
    intro s1 old answered
    have done := asks.exec_done granted place
    have sent : s1.outbox = s.outbox := outbox_of_still (still_noteUse ..)
    refine ⟨fun op => ?_, fun op => ?_, fun op => ?_⟩
    · rw [peerDo_read op] at done
      exact ⟨_, done, (dram_answerPeer _).trans (dram_dirRead ..), answerPeer_outbox ((outbox_of_still (still_dirRead ..)).trans sent) _⟩
    · rw [peerDo_write op] at done
      exact ⟨_, done, dram_answerPeer _, answerPeer_outbox ((outbox_of_still (still_dirWrite ..)).trans sent) _⟩
    · rw [peerDo_atomic op] at done
      exact ⟨_, done, dram_answerPeer _, answerPeer_outbox ((outbox_of_still (still_dirWrite ..)).trans sent) _⟩
  · intro conn h record q x input booted path queue control
    exact PacketArrives.exec ⟨input, booted, path, queue, control⟩
end

section
/-! Messages of the host (28_fabric.md R474 to R477). -/

namespace Sys2Proof.Machine

variable {s t : State} {conn : Nat} {c : Conn} {m : HostMsg}

theorem fld_zero (x n : Nat) : fld x 0 n = x % 2 ^ n := by rw [fld, pow_zero, Nat.div_one]

/-! ## A message's turn (R475) -/

theorem hostTurn_refused {key va len : Nat} {rights : Nat → Bool} (aligned : m.misaligned = false) (names : m.names = (key, va, len, rights))
    (refused : hostCheck s c key va len rights = none) : hostTurn s conn c m = .ok 0 (s.send 1 conn 0) := by
  simp only [hostTurn, aligned, names, refused]
  rfl

theorem hostTurn_done {key va len idx e x : Nat} {rights : Nat → Bool} (aligned : m.misaligned = false)
    (names : m.names = (key, va, len, rights)) (passes : hostCheck s c key va len rights = some (idx, e))
    (run : m.run s c.ctx idx e = .ok x t) : hostTurn s conn c m = .ok 0 (m.answer t conn x) := by
  rw [show @hostTurn = delta% @hostTurn from rfl]
  beta_reduce
  rw [if_neg (by rw [aligned]; decide), names]
  dsimp only
  rw [passes]
  dsimp only
  rw [run]

/-! ## A message that arrives (R476, R477) -/

theorem hostArrive_turn {name : String} {x : Nat} (known : aget? conn s.conns = some c) (up : ethUp s = true)
    (first : hostBehind s.hostHeld conn c = false) (turn : hostTurn s conn c m = .ok x t) : hostArrive name s conn m = .next t := by
  rw [show @hostArrive = delta% @hostArrive from rfl]
  beta_reduce
  extract_lets keep
  rw [known]
  dsimp only
  rw [if_neg (by rw [first]; decide), turn]
  exact if_pos up

theorem hostArrive_behind {name : String} (known : aget? conn s.conns = some c) (up : ethUp s = true)
    (behind : hostBehind s.hostHeld conn c = true) :
    hostArrive name s conn m = .next { s with hostHeld := s.hostHeld ++ [{ conn := conn, msg := m, since := none }] } := by
  rw [show @hostArrive = delta% @hostArrive from rfl]
  beta_reduce
  extract_lets keep
  rw [known]
  dsimp only
  rw [if_pos behind]
  exact if_pos up

theorem hostBehind_of {l : List HeldMsg} (ordered : c.kind ≠ .uetRud) (waits : ∃ h ∈ l, h.conn = conn) : hostBehind l conn c = true := by
  simpa [hostBehind, ordered] using waits

theorem hostRetry_turn {name : String} {i x : Nat} {mine : HostMsg → Bool} {h : HeldMsg} (held : s.hostHeld[i]? = some h)
    (known : aget? h.conn s.conns = some c) (up : ethUp s = true) (first : hostBehind (s.hostHeld.take i) h.conn c = false)
    (own : mine h.msg = true) (turn : hostTurn s h.conn c h.msg = .ok x t) :
    hostRetry name s i mine = .next { t with hostHeld := t.hostHeld.eraseIdx i } := by
  have go : (mine h.msg && ethUp s && !hostBehind (s.hostHeld.take i) h.conn c) = true := by rw [own, up, first]; rfl
  rw [show @hostRetry = delta% @hostRetry from rfl]
  beta_reduce
  rw [held]
  dsimp only
  rw [known]
  dsimp only
  rw [turn]
  exact if_pos go

theorem exec_event {i : Nat} (input : s.input = .hostRetry i) (m : HostMsg) :
    ∃ name, exec m.event s = hostRetry name s i fun m' => m'.event == m.event := by
  cases m with
  | write key va len x imm =>
    cases imm with
    | none => exact ⟨_, show execHostRdmaWrite s = _ by simp only [execHostRdmaWrite, input]; rfl⟩
    | some imm => exact ⟨_, show execHostRdmaWriteImm s = _ by simp only [execHostRdmaWriteImm, input]; rfl⟩
  | read key va len => exact ⟨_, show execHostRdmaRead s = _ by simp only [execHostRdmaRead, input]; rfl⟩
  | cas key va x y => exact ⟨_, show execHostAtomicCas s = _ by simp only [execHostAtomicCas, input]; rfl⟩
  | add key va x => exact ⟨_, show execHostAtomicFetchAdd s = _ by simp only [execHostAtomicFetchAdd, input]; rfl⟩

/-! ## Atomics (R475) -/

theorem atomNew_swap (m x y : Nat) : atomNew (codeU64 7) m x y = if m = x then y else m := by
  show (if m == x then y else m) = _
  simp only [beq_iff_eq]
theorem atomNew_add (m x y : Nat) : atomNew (codeU64 0) m (x % 2 ^ 64) y = (m + x) % 2 ^ 64 := by
  show (m + x % 2 ^ 64) % 2 ^ 64 = _
  rw [Nat.add_mod_mod]

/-- An atomic of the host acts at its location and finds the coherent value. -/
theorem hostAtomic_at {ctx idx e va ppa : Nat} (place : outLoc s ctx idx e (va % 2 ^ 44) true = .at (.mem ppa)) (code x y : Nat) :
    let s1 := s.noteUse idx e (va % 2 ^ 44) ppa
    hostAtomic s ctx idx e va code x y =
      .ok (coherentRead s1 ppa 8) (dirWrite s1 ppa 8 (atomNew code (coherentRead s1 ppa 8) x y)) := by
  rw [show @hostAtomic = delta% @hostAtomic from rfl]
  beta_reduce
  rw [fld_zero]
  exact outAccess_at place

/-- A message is an atomic that gives its 8 bytes the value f of the old one. -/
structure HostMsg.UpdatesBy (m : HostMsg) (key va : Nat) (f : Nat → Nat) : Prop where
  misaligned : m.misaligned = (va % 8 != 0)
  names : m.names = (key, va, 8, bufHA)
  run : ∃ code x y, (∀ s ctx idx e, m.run s ctx idx e = hostAtomic s ctx idx e va code x y) ∧ ∀ old, atomNew code old x y = f old
  answer : ∀ t conn x, m.answer t conn x = t.send 3 conn x

theorem updatesBy_cas (key va x y : Nat) :
    (HostMsg.cas key va x y).UpdatesBy key va fun old => if old = x % 2 ^ 64 then y % 2 ^ 64 else old :=
  ⟨rfl, rfl, ⟨_, _, _, fun _ _ _ _ => rfl, fun _ => atomNew_swap ..⟩, fun _ _ _ => rfl⟩
theorem updatesBy_add (key va x : Nat) : (HostMsg.add key va x).UpdatesBy key va fun old => (old + x) % 2 ^ 64 :=
  ⟨rfl, rfl, ⟨_, _, _, fun _ _ _ _ => rfl, fun _ => atomNew_add ..⟩, fun _ _ _ => rfl⟩

theorem hostTurn_misaligned (misaligned : m.misaligned = true) : hostTurn s conn c m = .ok 0 (s.send 9 conn 0) := by
  rw [show @hostTurn = delta% @hostTurn from rfl]
  exact if_pos misaligned

theorem HostMsg.UpdatesBy.turn {key va idx e ppa : Nat} {f : Nat → Nat} (h : m.UpdatesBy key va f) (aligned : va % 8 = 0)
    (passes : hostCheck s c key va 8 bufHA = some (idx, e)) (place : outLoc s c.ctx idx e (va % 2 ^ 44) true = .at (.mem ppa)) :
    let s1 := s.noteUse idx e (va % 2 ^ 44) ppa
    hostTurn s conn c m =
      .ok 0 ((dirWrite s1 ppa 8 (f (coherentRead s1 ppa 8))).send 3 conn (coherentRead s1 ppa 8)) := by
  obtain ⟨misaligned, names, ⟨code, x, y, run, new⟩, answer⟩ := h
  have done := hostAtomic_at place code x y
  rw [← run] at done
  intro s1
  rw [hostTurn_done (misaligned.trans (by rw [aligned]; rfl)) names passes done, answer, new]

/-- What is sent follows what was sent before. -/
theorem outbox_send (kept : t.outbox = s.outbox) (kind dest body : Nat) :
    (t.send kind dest body).outbox = s.outbox ++ [{ kind := kind, dest := dest, body := body }] :=
  congrArg (· ++ _) kept
theorem dram_send (kind dest body : Nat) : (t.send kind dest body).dram = t.dram := rfl

end Sys2Proof.Machine
open Sys2Proof Sys2Proof.Machine

/-- Settles O55: a message that has its turn is checked, performed and answered; one behind another of its connection waits. -/
theorem hostMessagesAreServed : Obligations.HostMessagesAreServed := by
  refine fun s t conn => ⟨?_, ?_, ?_, ?_, ?_, ?_⟩
  · intro c key va len x body i known up first which
    obtain ⟨imm, arrives, body_eq⟩ : ∃ imm, (∃ name, exec i s = hostArrive name s conn (.write key va len x imm)) ∧
        body = match imm with | some k => 1 + 2 * (k % 2 ^ 32) | none => 0 := by
      rcases which with ⟨rfl, input, rfl⟩ | ⟨rfl, imm, input, rfl⟩
      · exact ⟨none, ⟨"HOST_RDMA_WRITE", show execHostRdmaWrite s = _ by simp only [execHostRdmaWrite, input]⟩, rfl⟩
      · exact ⟨some imm, ⟨"HOST_RDMA_WRITE_IMM", show execHostRdmaWriteImm s = _ by simp only [execHostRdmaWriteImm, input]⟩, rfl⟩
    obtain ⟨name, arrives⟩ := arrives
    rw [arrives]
    refine ⟨fun refused => hostArrive_turn known up first (hostTurn_refused rfl rfl refused), fun idx e y passes run => ?_⟩
    have run : (HostMsg.write key va len x imm).run s c.ctx idx e = .ok y t := by
      rw [← run, HostMsg.run, fld_zero]
    refine ⟨_, hostArrive_turn known up first (hostTurn_done rfl rfl passes run), rfl, rfl, ?_⟩
    rw [body_eq]
    rfl
  · intro c key va len known up input
    have arrives : exec .hostRdmaRead s = hostArrive "HOST_RDMA_READ" s conn (.read key va len) :=
      show execHostRdmaRead s = _ by simp only [execHostRdmaRead, input]
    rw [arrives]
    refine ⟨fun ordered waits => hostArrive_behind known up (hostBehind_of ordered waits),
      fun first refused => hostArrive_turn known up first (hostTurn_refused rfl rfl refused), fun idx e x first passes run => ?_⟩
    have run : (HostMsg.read key va len).run s c.ctx idx e = .ok x t := by
      rw [← run, HostMsg.run, fld_zero]
    exact ⟨_, hostArrive_turn known up first (hostTurn_done rfl rfl passes run), rfl, rfl⟩
  · intro i h c x input held known up first turn
    obtain ⟨name, event⟩ := exec_event input h.msg
    rw [event]
    exact hostRetry_turn held known up first (beq_self_eq_true _) turn
  · intro c key va x y i f known up first which
    obtain ⟨m, ⟨name, arrives⟩, updates⟩ : ∃ m : HostMsg, (∃ name, exec i s = hostArrive name s conn m) ∧ m.UpdatesBy key va f := by
      rcases which with ⟨rfl, input, rfl⟩ | ⟨rfl, input, rfl⟩
      · exact ⟨_, ⟨"HOST_ATOMIC_CAS", show execHostAtomicCas s = _ by simp only [execHostAtomicCas, input]⟩, updatesBy_cas ..⟩
      · exact ⟨_, ⟨"HOST_ATOMIC_FETCH_ADD", show execHostAtomicFetchAdd s = _ by simp only [execHostAtomicFetchAdd, input]⟩, updatesBy_add ..⟩
    rw [arrives]
    refine ⟨fun odd => ?_, fun aligned refused => ?_, fun idx e ppa aligned passes place => ?_⟩
    · exact hostArrive_turn known up first (hostTurn_misaligned (updates.misaligned.trans (bne_iff_ne.mpr odd)))
    · exact hostArrive_turn known up first
        (hostTurn_refused (updates.misaligned.trans (by rw [aligned]; rfl)) updates.names refused)
    · exact ⟨_, hostArrive_turn known up first (updates.turn aligned passes place), dram_send ..,
        outbox_send (outbox_of_still ((still_dirWrite ..).trans (still_noteUse ..))) ..⟩
  · intro ctx kind input up low context
    have go : (managed s && decide (conn < 8192) && decide (ctx < 2 ^ 16)) = true := by
      rw [up, decide_eq_true low, decide_eq_true context]
      rfl
    refine ⟨{ s with conns := aset conn { ctx := ctx, kind := kind } s.conns }, ?_, aget?_aset_same ..⟩
    show execConnectionSetup s = _
    simp only [execConnectionSetup, input, go, whenEnabled_true]
  · intro n input booted lanes
    have go : (s.booted && (n == 4 || n == 2 || n == 1)) = true := by
      rcases lanes with rfl | rfl | rfl <;> rw [booted] <;> rfl
    show execLinkPartnerFallback s = _
    simp only [execLinkPartnerFallback, input, go, whenEnabled_true]
end

section
/-! Parties bound to slots, started and restored (16_launch_scheduling.md R340, R341; 01_thread.md R35; 10_core.md R243, R244). -/

namespace Sys2Proof.Machine

variable {s t : State} {slot : Nat} {l : Launch} {b : Block}

/-! ## Bound parties (16 R340) -/

theorem slots_reportLaunch (s : State) (l : Launch) (status cause : Nat) : (reportLaunch s l status cause).slots = s.slots :=
  (congrArg State.slots (posts_reportLaunch s l status cause).quiet :)

theorem slots_makeEligible (s : State) (l : Launch) : (makeEligible s l).slots = s.slots := by
  unfold makeEligible
  extract_lets l'
  split
  · rw [slots_reportLaunch, State.slots_setLaunch]
  · rfl

theorem slots_refreshEligible (s : State) : (refreshEligible s).slots = s.slots := by
  refine foldl_keeps State.slots (fun t lid => ?_) _ s
  split
  · split
    · exact slots_makeEligible ..
    · rfl
  · rfl

/-- A bind record that is right for its slot makes the slot LOADING. -/
theorem exec_bindDispatch {record : Nat} (input : s.input = .bindDispatch slot l.lid record) (launch : s.launch? l.lid = some l)
    (block : bindBlock s l.lid record = some b)
    (go : (bindOk s slot record 1 l b && fld record 128 64 == 0 && !b.bound.contains (bindPidx record)) = true) :
    ∃ t u, exec .bindDispatch s = .next t ∧ t.slots = (State.setSlot u slot
      { u.slot slot with st := .loading, bind := some { lid := l.lid, record := record }, imageHold := none }).slots := by
  show ∃ t u, execBindDispatch s = _ ∧ _
  unfold execBindDispatch
  rw [input]
  dsimp only
  rw [launch, block]
  dsimp only
  generalize fetchResident (joinTable s (coreOf slot) l.lid) slot l = u
  refine ⟨_, u, if_pos go, ?_⟩
  have first : ∀ v : State, (if l.started then v else reportLaunch (v.setLaunch { l with started := true }) l 10 0).slots = v.slots := by
    intro v
    split
    · rfl
    · rw [slots_reportLaunch, State.slots_setLaunch]
  have last : ∀ v : State, (match v.launch? l.lid with
      | some m =>
        if allBound v m && !m.placed then refreshEligible (reportLaunch (v.setLaunch { m with placed := true }) m 11 0) else v
      | none => v).slots = v.slots := by
    intro v
    split
    · split
      · rw [slots_refreshEligible, slots_reportLaunch, State.slots_setLaunch]
      · rfl
    · rfl
  refine (last _).trans ((first _).trans ?_)
  rfl

/-! ## Started parties (16 R341, 01 R35) -/

theorem enterRun_of_free (pre : (s.slot slot).heldPre = false) (halt : (s.slot slot).heldHalt = false)
    (kill : (s.slot slot).heldKill = false) :
    enterRun s slot = s.setSlot slot { s.slot slot with st := .run, heldHalt := false, heldKill := false } := by
  unfold enterRun
  extract_lets k t u v
  rw [if_neg (show ¬k.heldKill = true by rw [kill]; decide)]
  unfold v
  rw [if_neg (show ¬k.heldHalt = true by rw [halt]; decide)]
  unfold u
  rw [if_neg (show ¬k.heldPre = true by rw [pre]; decide)]

theorem slot_of_slots (h : t.slots = s.slots) (k : Nat) : t.slot k = s.slot k := by
  rw [State.slot, State.slot, h]

/-- A slot whose threads start runs its party. -/
theorem enterRun_runs {k : Slot} (set : s.slots = (t.setSlot slot k).slots) (pre : k.heldPre = false) (halt : k.heldHalt = false)
    (kill : k.heldKill = false) : ((enterRun s slot).slot slot).st = .run ∧ (enterRun s slot).party? slot = k.party := by
  have here : s.slot slot = k := (slot_of_slots set slot).trans (State.slot_setSlot_same ..)
  rw [enterRun_of_free (by rw [here, pre]) (by rw [here, halt]) (by rw [here, kill]), State.party?, State.slot_setSlot_same, here]
  exact ⟨rfl, rfl⟩

/-! ## Restored parties (10 R243, R244) -/

/-- A thread but for its marks of arrivals. -/
def Thread.bare (t : Thread) : Thread := { t with arrivals := [], barKept := none }
/-- A party but for its threads' marks. -/
def Party.bare (p : Party) : Party := { p with threads := p.threads.map Thread.bare }

/-- The slot is as k, but that its party is p with other marks. -/
def Restores (s : State) (slot : Nat) (k : Slot) (p : Party) : Prop := ∃ q, s.slot slot = { k with party := some q } ∧ q.bare = p.bare

variable {k : Slot} {p : Party}

theorem Restores.setSlot (u : State) (slot : Nat) (party : k.party = some p) : Restores (u.setSlot slot k) slot k p := by
  refine ⟨p, ?_, rfl⟩
  rw [State.slot_setSlot_same, ← party]

theorem Restores.of_slots (h : Restores s slot k p) (same : t.slots = s.slots) : Restores t slot k p := by
  rwa [Restores, slot_of_slots same]

theorem Restores.other (h : Restores s slot k p) {j : Nat} (ne : j ≠ slot) (q : Party) : Restores (s.setParty j q) slot k p := by
  rwa [Restores, State.setParty, State.slot_setSlot_ne (Ne.symm ne)]

theorem Restores.marks (h : Restores s slot k p) {q : Party} (q' : Party) (party : s.party? slot = some q) (same : q'.bare = q.bare) :
    Restores (s.setParty slot q') slot k p := by
  obtain ⟨r, here, bare⟩ := h
  rw [State.party?, here] at party
  cases party
  exact ⟨q', by rw [State.setParty, State.slot_setSlot_same, here], same.trans bare⟩

theorem bare_clearArrivals (q : Party) (scope idx : Nat) : (q.clearArrivals scope idx).bare = q.bare := by
  simp [Party.clearArrivals, Party.bare, Thread.bare]

theorem bare_setThread_arrive (q : Party) (n scope idx phase : Nat) :
    (q.setThread n ((q.thread n).arrive scope idx phase)).bare = q.bare := by
  have marks : Thread.bare ((q.thread n).arrive scope idx phase) = Thread.bare (q.thread n) := rfl
  simp only [Party.bare, Party.setThread, List.map_set, marks, Party.mk.injEq, true_and, and_true]
  by_cases inside : n < q.threads.length
  · have same : Thread.bare (q.thread n) = (q.threads.map Thread.bare)[n]'(by simpa using inside) := by
      simp [Party.thread, inside]
    rw [same, List.set_getElem_self]
  · rw [List.set_eq_of_length_le (by simpa using inside)]

theorem free_of_bare {q : Party} (bare : q.bare = p.bare) (free : ∀ u ∈ p.threads, u.hold = none) : ∀ u ∈ q.threads, u.hold = none := by
  intro u listed
  have same : q.threads.map Thread.bare = p.threads.map Thread.bare := congrArg Party.threads bare
  obtain ⟨v, there, eq⟩ := List.mem_map.mp (same ▸ List.mem_map_of_mem (f := Thread.bare) listed)
  exact (congrArg Thread.hold eq).symm.trans (free v there)

/-- Threads that wait nowhere do not leave a barrier. -/
theorem Restores.leaveBar (h : Restores s slot k p) (free : ∀ u ∈ p.threads, u.hold = none) (j scope idx phase : Nat) :
    Restores (leaveBar s j scope idx phase) slot k p := by
  by_cases mine : j = slot
  · subst mine
    obtain ⟨q, here, bare⟩ := h
    have party : s.party? j = some q := by rw [State.party?, here]
    have still : q.threads.any (Thread.waitsAt scope idx phase) = false := by
      refine List.any_eq_false.mpr fun u listed => ?_
      simp [Thread.waitsAt, free_of_bare bare free u listed]
    rw [leaveBar_eq party, still]
    exact ⟨q, here, bare⟩
  · cases party : s.party? j with
    | none => simpa only [Machine.leaveBar, party] using h
    | some r =>
      rw [leaveBar_eq party]
      split
      · exact h
      · exact (h.other mine _).of_slots (acquire_slots ..)

section
variable (free : ∀ u ∈ p.threads, u.hold = none)
include free

theorem Restores.wideBarNext (h : Restores s slot k p) (key : Nat × Nat × Nat × Nat × Nat) :
    Restores (wideBarNext s key) slot k p := by
  unfold Machine.wideBarNext
  extract_lets b scope idx s1 closing s2 slots
  have first : Restores s2 slot k p := h.of_slots (by unfold s2; clear_value closing; cases closing <;> rfl)
  refine List.foldlRecOn (motive := (Restores · slot k p)) slots _ first fun t ht j _ => ?_
  split
  · exact ht
  · rename_i q party
    have marked : Restores (t.setParty j (q.clearArrivals scope idx)) slot k p := by
      by_cases mine : j = slot
      · subst mine
        exact ht.marks _ party (bare_clearArrivals ..)
      · exact ht.other mine _
    split
    · exact marked
    · exact marked.leaveBar free ..

theorem Restores.checkWide (h : Restores s slot k p) (j : Nat) (key : Nat × Nat × Nat × Nat × Nat) :
    Restores (checkBar s j (.wide key)) slot k p := by
  unfold checkBar
  dsimp only
  split
  · exact h.wideBarNext free key
  · exact h

theorem Restores.leaveInst (h : Restores s slot k p) (i : BarInst) (n : Nat) : Restores (leaveInst s i n) slot k p := by
  unfold Machine.leaveInst checkInst
  refine List.foldlRecOn (motive := (Restores · slot k p)) _ _ ?_ fun t ht key _ => ht.checkWide free 0 key
  exact h.of_slots (by split <;> rfl)

theorem Restores.moveMembers (h : Restores s slot k p) (old new : Nat) (q r : Party) :
    Restores (moveMembers s old new q r) slot k p := by
  refine List.foldlRecOn (motive := (Restores · slot k p)) _ _ h fun t ht c _ => ?_
  split
  · split
    · exact ht
    · exact Restores.leaveInst free (ht.of_slots (t := joinInst ..) rfl) ..
  · exact ht

end

/-- A mark at a barrier of the party names the same one on every core. -/
theorem markLocs_wide {old : Nat} {q : Party} {m : Nat × Nat × Nat × Nat} {i j : BarLoc} (wide : barScope m.2.1 ≠ 2)
    (locs : markLocs s old slot q m = some (i, j)) : (∃ key, i = .wide key) ∧ ∃ key, j = .wide key := by
  have named : ∀ (c : Nat) (x : BarLoc), barLoc s c q m.2.1 m.2.2.1 = some x → ∃ key, x = .wide key := by
    intro c x h
    rw [barLoc, if_neg (by simpa using wide)] at h
    obtain ⟨i, -, rfl⟩ := Option.map_eq_some_iff.mp h
    exact ⟨_, rfl⟩
  unfold markLocs at locs
  split at locs
  · rename_i i' j' first second
    cases locs
    exact ⟨named _ _ first, named _ _ second⟩
  · cases locs

theorem scope_of_moved {old : Nat} {q : Party} {m : Nat × Nat × Nat × Nat} {i j : BarLoc}
    (locs : markLocs s old slot q m = some (i, j)) (moved : i ≠ j) : barScope m.2.1 ≠ 2 := by
  intro party
  simp only [markLocs, barLoc, party, beq_self_eq_true, if_true, Option.some.injEq, Prod.mk.injEq] at locs
  exact moved (locs.1.symm.trans locs.2)

theorem Restores.addWide (h : Restores s slot k p) (j : Nat) (key : Nat × Nat × Nat × Nat × Nat) (d : Int) :
    Restores (addArrival s j (.wide key) d) slot k p := h.of_slots rfl

theorem Restores.withdrawWide (h : Restores s slot k p) (j : Nat) (key : Nat × Nat × Nat × Nat × Nat) :
    Restores (withdraw s j (.wide key)) slot k p := by
  unfold withdraw
  dsimp only
  split
  · exact h.of_slots rfl
  · exact h.addWide j key _

theorem Restores.rejoin (h : Restores s slot k p) (free : ∀ u ∈ p.threads, u.hold = none) (old : Nat)
    (marks : List (Nat × Nat × Nat × Nat)) : Restores (rejoin s old slot marks) slot k p := by
  unfold Machine.rejoin
  split
  · exact h
  · rename_i q party
    extract_lets live moves s1 s2 s3
    have wide : ∀ m ∈ moves, barScope m.2.1 ≠ 2 := by
      intro m listed
      have moved := (List.mem_filter.mp listed).2
      split at moved
      · rename_i i j locs
        exact scope_of_moved locs (bne_iff_ne.mp moved)
      · cases moved
    have h1 : Restores s1 slot k p := by
      refine List.foldlRecOn (motive := (Restores · slot k p)) moves _ h fun t ht m listed => ?_
      split
      · rename_i i j locs
        obtain ⟨⟨key, rfl⟩, -⟩ := markLocs_wide (wide m listed) locs
        exact ht.withdrawWide slot key
      · exact ht
    have h2 : Restores s2 slot k p := h1.moveMembers free ..
    have h3 : Restores s3 slot k p := by
      refine List.foldlRecOn (motive := (Restores · slot k p)) live _ h2 fun t ht m _ => ?_
      split
      · rename_i i j r locs party
        extract_lets u v
        have arrived : Restores v slot k p := ht.marks _ party (bare_setThread_arrive ..)
        split
        · exact arrived
        · rename_i moved
          obtain ⟨-, key, rfl⟩ := markLocs_wide (scope_of_moved locs (by simpa using moved)) locs
          exact arrived.addWide slot key 1
      · exact ht
    refine List.foldlRecOn (motive := (Restores · slot k p)) moves _ h3 fun t ht m listed => ?_
    split
    · rename_i i j locs
      obtain ⟨-, key, rfl⟩ := markLocs_wide (wide m listed) locs
      exact ht.checkWide free slot key
    · exact ht

theorem hold_partyOf (ws : List Nat) (pidx rank nv : Nat) : ∀ u ∈ (partyOf ws l b pidx rank nv).threads, u.hold = none := by
  intro u listed
  obtain ⟨n, -, rfl⟩ := List.mem_map.mp listed
  rfl

theorem restoreParty_restores (record : Nat) (e : SavedParty) (copies : List SavedCopy) (mask : Nat)
    (free : ∀ u ∈ p.threads, u.hold = none) :
    ∃ k : Slot, k.st = .restoring ∧ k.cancelled = copies ∧ Restores (restoreParty s slot record b e p copies mask) slot k p := by
  unfold restoreParty
  extract_lets s1
  unfold installRestore
  extract_lets s2 old
  have set := Restores.setSlot (p := p) s2 slot (k := { old with
    st := .restoring, bind := some { lid := b.lid, record := record }, party := some p, cancelled := copies, imageHold := none }) rfl
  exact ⟨_, rfl, rfl, set.rejoin free ..⟩

theorem exec_bindRestore_good {record : Nat} {rs : List (Nat × PeerReply)} {e : SavedParty} {ws : List Nat}
    (input : s.input = .bindRestore slot l.lid record rs) (launch : s.launch? l.lid = some l)
    (block : bindBlock s l.lid record = some b) (found : (b.images.find? fun e => e.pidx == bindPidx record) = some e)
    (ok : restoreOk s slot record l b = true)
    (read : readImage s l (plainAg (coreOf slot) l.ctx) (record / 2 ^ 128 % 2 ^ 64) (8 * bindNv8 record) = .good ws t) :
    exec .bindRestore s = .next (restoreParty t slot record b e
      (partyOf ws l b e.pidx (coreOf slot - b.core) (8 * bindNv8 record)) (copiesOf ws (8 * bindNv8 record)) (dwd ws 6)) := by
  show execBindRestore s = _
  unfold execBindRestore
  revert read
  induction @readImage using of_forall with | _ readImage
  intro read
  split
  case h_2 other => exact absurd input (other _ _ _ _)
  case h_1 _ _ _ _ same =>
    cases input.symm.trans same
    split
    case h_2 none => exact absurd block (none _ _ launch)
    case h_1 _ _ launch' block' =>
      cases launch.symm.trans launch'
      cases block.symm.trans block'
      split
      case h_1 none => exact nomatch found.symm.trans none
      case h_2 _ found' =>
        cases found.symm.trans found'
        extract_lets image rank nv ok' lost
        split
        case h_1 read' =>
          cases read.symm.trans read'
          exact if_pos ok
        case h_2 read' | h_3 read' | h_4 read' => exact nomatch read.symm.trans read'

end Sys2Proof.Machine
open Sys2Proof Sys2Proof.Machine

/-- Settles O38: the bind core's record makes the slot LOADING, and it runs once nothing held is left; the barriers that a restored
party takes up again change no more than its threads' marks. -/
theorem partiesAreBoundAndStart : Obligations.PartiesAreBoundAndStart := by
  refine fun s slot l b => ⟨?_, ?_, ?_, ?_, ?_⟩
  · intro record input launch block ok image fresh started waits
    have go : (bindOk s slot record 1 l b && fld record 128 64 == 0 && !b.bound.contains (bindPidx record)) = true := by
      have image : fld record 128 64 = 0 := image
      simp [ok, image, fresh]
    obtain ⟨t, u, next, slots⟩ := exec_bindDispatch input launch block go
    have here := (slot_of_slots slots slot).trans (State.slot_setSlot_same ..)
    exact ⟨t, next, congrArg Slot.st here, congrArg Slot.bind here⟩
  · intro bd bind loading kind launch block sound landed pre halt kill
    have go : ((s.slot slot).st == .loading && fld bd.record 28 4 == 1 && residentLanded s (coreOf slot) l) = true := by
      have kind : fld bd.record 28 4 = 1 := kind
      simp [loading, kind, landed]
    have runs := enterRun_runs (s := acquire (s.setSlot slot { s.slot slot with party := some (startParty l b (bindPidx bd.record)) })
      (coreOf slot) 8) (acquire_slots ..) pre halt kill
    refine ⟨_, ?_, runs⟩
    show execDispatchStart slot s = _
    unfold execDispatchStart
    simp only [bind, launch, block, sound, go, whenEnabled_true]
  · refine fun n => ⟨List.length_replicate, fun u listed => ?_⟩
    obtain rfl := List.eq_of_mem_replicate listed
    exact ⟨rfl, rfl, rfl, rfl, rfl, rfl, rfl, rfl, rfl⟩
  · intro record rs ws s' input launch block ok saved nv read bare
    obtain ⟨e, listed, same⟩ := saved
    obtain ⟨e, found⟩ : ∃ e, (b.images.find? fun e => e.pidx == bindPidx record) = some e :=
      Option.isSome_iff_exists.mp (List.find?_isSome.mpr ⟨e, listed, beq_iff_eq.mpr same⟩)
    have pidx : e.pidx = bindPidx record := by simpa using List.find?_some found
    obtain ⟨k, restoring, cancelled, q, here, marks⟩ := restoreParty_restores (s := s') (slot := slot) (b := b) record e
      (copiesOf ws nv) (dwd ws 6) (hold_partyOf (l := l) (b := b) ws (bindPidx record) (coreOf slot - b.core) nv)
    refine ⟨_, q, ?_, (congrArg Slot.st here).trans restoring, (congrArg Slot.cancelled here).trans cancelled,
      congrArg Slot.party here, marks⟩
    rw [← pidx]
    exact exec_bindRestore_good input launch block found ok read
  · intro p party restoring esc cancelled pre halt kill fetched
    have ready : ((upTo 64).all fun g => !restoreNeeds s p g || (segAt s (coreOf slot) p.lid g).st.fetchable ||
        (match (segAt s (coreOf slot) p.lid g).st with | .failed _ => true | _ => false)) = true := by
      refine List.all_eq_true.mpr fun g inside => ?_
      cases need : restoreNeeds s p g with
      | false => rfl
      | true => simp [fetched g (mem_upTo.mp inside) need]
    have go : ((s.slot slot).st == .restoring && p.esc.isNone && (upTo 64).all fun g => !restoreNeeds s p g ||
        (segAt s (coreOf slot) p.lid g).st.fetchable ||
        (match (segAt s (coreOf slot) p.lid g).st with | .failed _ => true | _ => false)) = true := by
      rw [ready, restoring, esc]
      rfl
    have runs := enterRun_runs (s := acquire (s.setSlot slot { s.slot slot with cancelled := [] }) (coreOf slot) 6)
      (acquire_slots ..) pre halt kill
    refine ⟨_, ?_, runs.1, runs.2.trans party⟩
    show execRestoreStart slot s = _
    unfold execRestoreStart
    have party : (s.slot slot).party = some p := party
    simp only [party, cancelled]
    exact if_pos go
end

section
/-! A party that moves while a shadow reference of it runs (14_cluster.md R314, 12_tile_engine.md R296, 19_package_memory.md R390):
the reference is cut off and reported on the telemetry ring, and that use of the ring's place changes the bytes that the model's
DRAM shows where the ring's buffer is encrypted. -/

namespace Sys2Proof.Machine

/-- An entry of an encrypted buffer of context 0: valid, readable and writable, of 2 MiB, under key slot 1. -/
def ringEntry : Nat := 2 ^ 31 + 2 ^ 16 + 2 ^ 17 + 2 ^ 32 + 2 ^ 21 * 2 ^ 64

/-- Sector k of the ring, written under the buffer's cipher, with a control block of which TAIL and HEAD are 1; the last access,
without a cipher, was shown 0. -/
def ringShown (k : Nat) : Seal :=
  { base := some { key := 7, bver := 0, buf := 1, unit := k }, text := if k = 0 then 1 + 2 ^ 64 else 0, now := none, shown := 0 }

/-- Thread 0 of a small launch issues MIGR; its party has a reservation of slot 1, and a shadow reference of it runs on its core.
The launch's telemetry ring stands at the first byte of buffer 1. -/
def beforeMove : State :=
  let s := installWord State.reset 0
  let s := { s with
    agenda := []
    issue := some { slot := 0, pc := 0, tids := [0], handler := false, pfx := none }
    bufs := [((0, 1), ringEntry)]
    keys := [(1, 7)]
    seals := (upTo 16).map fun k => (32768 + k, ringShown k)
    launches := s.launches.map fun (l : Launch) => { l with rings := [0, 0, 0, 0, 2 ^ 44] } }
  let s := s.setDie 0 { s.die 0 with tlb := [({ ctx := 0, buf := 1, page := 0 }, mkLeaf 0 0 0 16)] }
  let s := s.setCore 0
    { s.core 0 with shadows := [{ op := 0, lid := 0, blin := 0, pidx := 0, tag := 0, count := 0, devs := [] }] }
  s.setSlot 0 { s.slot 0 with migr := some { tids := [0], d := .z, rank := 0, slot := 1, npc := 1 } }

theorem beforeMove_runs : ∃ cx, Runs beforeMove (.migr 0 4 0) cx ∧ cx.slot = 0 ∧ cx.party.causePending = false ∧ cx.party.drained = true := by
  have checks : ((cx? beforeMove (.migr 0 4 0)).any fun cx =>
      (encCheck cx.form cx.p (.migr 0 4 0) cx.d cx.a cx.b cx.party.nv cx.issue.handler).isNone && !cx.detReflo &&
        !cx.atEnd && cx.slot == 0 && !cx.party.causePending && cx.party.drained) = true := by decide +kernel
  obtain ⟨cx, context, rest⟩ := Option.any_eq_true _ _ |>.1 checks
  simp only [Bool.and_eq_true, Option.isNone_iff_eq_none, Bool.not_eq_true', beq_iff_eq] at rest
  obtain ⟨⟨⟨⟨⟨encoding, time⟩, inside⟩, slot⟩, calm⟩, drained⟩ := rest
  exact ⟨cx, ⟨⟨context, encoding, time⟩, inside⟩, slot, calm, drained⟩

theorem beforeMove_reserved : (beforeMove.slot 0).migr.map Migr.slot = some 1 ∧ (beforeMove.slot 0).repair = false ∧
    beforeMove.bars = [] := by decide +kernel

/-- The move leaves the text where the raw bytes stood. -/
theorem move_changes_dram : dramByteAfter (.migr 0 4 0) beforeMove (16 * 2 ^ 16) = some 1 ∧
    Memory.get beforeMove.dram (16 * 2 ^ 16) = 0 := by decide +kernel

end Sys2Proof.Machine

open Sys2Proof Sys2Proof.Machine

/-- Refutes O33: the party that moves has a shadow reference under way, which the move cuts off (cutShadows) and reports on the
telemetry ring in an encrypted buffer, so that DRAM changes. The statement lacks the premise that no shadow reference of the party
runs on its core. -/
theorem not_partiesMigrateAndLaunch : ¬ Obligations.PartiesMigrateAndLaunch := by
  intro h
  obtain ⟨cx, runs, slot, calm, drained⟩ := beforeMove_runs
  obtain ⟨reserved, sound, unused⟩ := beforeMove_reserved
  obtain ⟨m, reservation, target⟩ := Option.map_eq_some_iff.mp reserved
  obtain ⟨t, -, run, -, -, -, -, dram, -⟩ :=
    (h.1 beforeMove 0 4 0 cx runs).2 m (slot ▸ reservation) calm drained (by rw [target, slot]; decide) unused
  obtain ⟨after, before⟩ := move_changes_dram
  rw [dramByteAfter, run] at after
  simp only [Option.some.injEq] at after
  rw [dram (slot ▸ sound), before] at after
  exact absurd after (by decide)
end

section
/-! Boot, reset, firmware updates and attestation (27_bringup_power.md R460 to R464, 25_resilience.md R453). -/

namespace Sys2Proof.Machine

variable {s t : State} {b : BootInputs}

/-! ## Boot (R460, R461) -/

theorem bootPast_of_none (whole : bootStop b = none) (k : Nat) : bootPast b k = true := by rw [bootPast, whole]; rfl
theorem bootPast_of_some {j : Nat} (stops : bootStop b = some j) (k : Nat) : bootPast b k = decide (k < j) := by rw [bootPast, stops]; rfl

theorem bootStop_le {j : Nat} (stops : bootStop b = some j) : j ≤ 6 := by
  have := List.mem_of_find?_eq_some stops
  simp at this
  omega

/-- A step that is done or not leaves what it leaves when done. -/
theorem ite_keeps {σ τ : Type} (read : σ → τ) {c : Prop} [Decidable c] {u v : σ} (h : read u = read v) : read (if c then u else v) = read v := by
  split
  · exact h
  · rfl

/-- What every step of a boot keeps of a state. -/
def sameStart (s : State) : Bool × List Op × List Launch × List (Nat × Slot) := (s.tripped, s.ops, s.launches, s.slots)

theorem boot_keeps (s : State) (b : BootInputs) : sameStart (boot s b) = sameStart (fuseSlots (poweredOff s) b.fused) := by
  unfold boot
  extract_lets s0 past s1 s2 s3 s4 die s5 s6
  have h2 : sameStart s2 = sameStart s1 := ite_keeps sameStart rfl
  have h3 : sameStart s3 = sameStart s2 := ite_keeps sameStart rfl
  have h4 : sameStart s4 = sameStart s3 := ite_keeps sameStart rfl
  have h5 : sameStart s5 = sameStart s4 := ite_keeps sameStart rfl
  have h6 : sameStart s6 = sameStart s5 := ite_keeps sameStart rfl
  exact h6.trans (h5.trans (h4.trans (h3.trans h2)))

theorem boot_firmware (s : State) (b : BootInputs) : (boot s b).firmware = bootFirmware b := by
  unfold boot
  extract_lets s0 past s1 s2 s3 s4 die s5 s6
  have h2 : s2.firmware = s1.firmware := ite_keeps State.firmware rfl
  have h3 : s3.firmware = s2.firmware := ite_keeps State.firmware rfl
  have h4 : s4.firmware = s3.firmware := ite_keeps State.firmware rfl
  have h5 : s5.firmware = s4.firmware := ite_keeps State.firmware rfl
  have h6 : s6.firmware = s5.firmware := ite_keeps State.firmware rfl
  exact h6.trans (h5.trans (h4.trans (h3.trans h2)))

theorem fuseSlots_keeps (s : State) (ks : List Nat) : { fuseSlots s ks with slots := s.slots } = s := by
  induction ks generalizing s with
  | nil => rfl
  | cons k ks ih =>
    unfold fuseSlots at ih ⊢
    rw [List.foldl_cons]
    have rest := ih (if k < 2048 then s.setSlot k { Slot.init with st := .disabled } else s)
    exact (congrArg (fun x : State => { x with slots := s.slots }) rest :).trans (by split <;> rfl)

theorem fuseSlots_disables {ks : List Nat} {k : Nat} (fused : k ∈ ks) (inside : k < 2048) : ((fuseSlots s ks).slot k).st = .disabled := by
  have step : ∀ (u : State) (j : Nat), (u.slot k).st = .disabled →
      ((if j < 2048 then u.setSlot j { Slot.init with st := .disabled } else u).slot k).st = .disabled := by
    intro u j done
    split
    · by_cases same : k = j
      · rw [same, State.slot_setSlot_same]
      · rwa [State.slot_setSlot_ne same]
    · exact done
  unfold fuseSlots
  induction ks generalizing s with
  | nil => cases fused
  | cons j ks ih =>
    rw [List.foldl_cons]
    rcases List.mem_cons.mp fused with rfl | later
    · refine List.foldlRecOn (motive := fun u => (u.slot k).st = .disabled) ks _ ?_ fun u done j _ => step u j done
      rw [if_pos inside, State.slot_setSlot_same]
    · exact ih later

theorem fuseSlots_dies (s : State) (ks : List Nat) : (fuseSlots s ks).dies = s.dies := (congrArg State.dies (fuseSlots_keeps s ks) :)
theorem fuseSlots_booted (s : State) (ks : List Nat) : (fuseSlots s ks).booted = s.booted :=
  (congrArg State.booted (fuseSlots_keeps s ks) :)

/-- A package whose boot stops has not booted, and step 5 is what starts its dies. -/
theorem boot_dies (s : State) (b : BootInputs) : (boot s b).dies = if bootPast b 5 then
    allDies.map fun d => (d, if dieStops b d then Die.init else { Die.init with cond := .running }) else [] := by
  unfold boot
  extract_lets s0 past s1 s2 s3 s4 die s5 s6
  have h2 : s2.dies = s1.dies := ite_keeps State.dies rfl
  have h3 : s3.dies = s2.dies := ite_keeps State.dies rfl
  have h4 : s4.dies = s3.dies := ite_keeps State.dies rfl
  have h6 : s6.dies = s5.dies := ite_keeps State.dies rfl
  have off : s4.dies = [] := h4.trans (h3.trans (h2.trans (fuseSlots_dies (poweredOff s) b.fused)))
  refine h6.trans ((apply_ite State.dies _ _ _).trans ?_)
  rw [off]

theorem boot_booted (s : State) (b : BootInputs) : (boot s b).booted = bootPast b 6 := by
  unfold boot
  extract_lets s0 past s1 s2 s3 s4 die s5 s6
  have h2 : s2.booted = s1.booted := ite_keeps State.booted rfl
  have h3 : s3.booted = s2.booted := ite_keeps State.booted rfl
  have h4 : s4.booted = s3.booted := ite_keeps State.booted rfl
  have h5 : s5.booted = s4.booted := ite_keeps State.booted rfl
  have off : s5.booted = false := h5.trans (h4.trans (h3.trans (h2.trans (fuseSlots_booted (poweredOff s) b.fused))))
  refine (apply_ite State.booted _ _ _).trans ?_
  rw [off]
  change (if bootPast b 6 = true then true else false) = _
  cases bootPast b 6 <;> rfl

theorem bootPast_six (b : BootInputs) : bootPast b 6 = (bootStop b).isNone := by
  cases stops : bootStop b with
  | none => rw [bootPast_of_none stops]; rfl
  | some j =>
    rw [bootPast_of_some stops, decide_eq_false (Nat.not_lt.mpr (bootStop_le stops))]
    rfl

theorem boot_status {k : Nat} (stops : bootStop b = some k) : (boot s b).bootStatus = k := by
  show bootWord b = k
  rw [bootWord, stops]

/-- The steps before the one that stops a boot have passed. -/
theorem imageBad_of_past {k : Nat} (step : k ∈ [1, 2, 3, 4, 6]) (past : bootPast b k = true) :
    imageBad b (fun c => bootStep c == k) = false := by
  have passes : (b.failsAt == some k || imageBad b fun c => bootStep c == k) = false := by
    cases stops : bootStop b with
    | none => simpa using List.find?_eq_none.mp stops k step
    | some j =>
      rw [bootPast_of_some stops, decide_eq_true_eq] at past
      obtain ⟨-, before, after, split, others⟩ := List.find?_eq_some_iff_append.mp stops
      have sorted : (before ++ j :: after).Pairwise (· < ·) := split ▸ (by decide)
      rw [split] at step
      rcases List.mem_append.mp step with earlier | later
      · simpa using others k earlier
      · have := (List.pairwise_cons.mp (List.pairwise_append.mp sorted).2.1).1
        rcases List.mem_cons.mp later with rfl | later
        · exact absurd past (lt_irrefl _)
        · exact absurd past (this k later).asymm
  exact (Bool.or_eq_false_iff.mp passes).2

theorem imageOk_of_good {which : Component → Bool} {c : Component} {i : Image} (good : imageBad b which = false)
    (listed : (c, some i) ∈ bootImages b) (own : which c = true) : imageOk b.rootDigest b.rollback c i = true := by
  have := List.any_eq_false.mp good _ listed
  simpa [own] using this

/-- A component that runs after a boot has an image that R461 accepts. -/
theorem bootFirmware_accepted {c : Component} {f : Firm} (runs : (c, f) ∈ bootFirmware b) :
    ∃ i, (c, some i) ∈ bootImages b ∧ imageOk b.rootDigest b.rollback c i = true ∧ f.version = i.version ∧ f.digest = i.digest := by
  obtain ⟨⟨c', i?⟩, listed, started⟩ := List.mem_filterMap.mp runs
  obtain ⟨passes, started⟩ := Option.ite_none_left_eq_some.mp started
  obtain ⟨i, rfl, eq⟩ := Option.map_eq_some_iff.mp started
  cases eq
  simp only [Bool.or_eq_true, not_or, Bool.not_eq_true, Bool.not_eq_false'] at passes
  obtain ⟨stops, past⟩ := passes
  refine ⟨i, listed, ?_, rfl, rfl⟩
  cases c with
  | bind d => exact imageOk_of_good (Bool.or_eq_false_iff.mp stops).2 listed (beq_self_eq_true _)
  | monument => exact imageOk_of_good (imageBad_of_past (k := 2) (by decide) past) listed rfl
  | port n => exact imageOk_of_good (imageBad_of_past (k := 3) (by decide) past) listed rfl
  | link n => exact imageOk_of_good (imageBad_of_past (k := 6) (by decide) past) listed rfl

/-! ## Reset (25 R453) -/

/-- No slot of a package without power holds a party. -/
theorem party?_poweredOff (s : State) (k : Nat) : (poweredOff s).party? k = none := by
  show (aget Slot.init k (poweredOff s).slots).party = none
  rcases aget_mem_or (d := Slot.init) (k := k) (m := (poweredOff s).slots) with listed | default
  · obtain ⟨e, -, eq⟩ := List.mem_map.mp listed
    rw [← (Prod.mk.inj eq).2]
    rfl
  · rw [default]
    rfl

/-! ## Dies and slots after a boot -/

theorem aget_allDies {d : Nat} (low : d < 4) (g : Nat → Die) : aget Die.init d (allDies.map fun d => (d, g d)) = g d := by
  interval_cases d <;> rfl

theorem die_boot {d : Nat} (whole : bootStop b = none) (low : d < 4) :
    ((boot s b).die d).cond = if dieStops b d = true then .gated else .running := by
  show (aget Die.init d (boot s b).dies).cond = _
  rw [boot_dies, if_pos (bootPast_of_none whole 5), aget_allDies low]
  split <;> rfl

theorem die_boot_stopped {k : Nat} (stops : bootStop b = some k) (early : k ≤ 4) (d : Nat) : (boot s b).die d = Die.init := by
  show aget Die.init d (boot s b).dies = _
  rw [boot_dies, if_neg]
  · rfl
  · rw [bootPast_of_some stops, decide_eq_true_eq]
    omega

theorem slots_boot (s : State) (b : BootInputs) : (boot s b).slots = (fuseSlots (poweredOff s) b.fused).slots :=
  (Prod.mk.inj (Prod.mk.inj (Prod.mk.inj (boot_keeps s b)).2).2).2

/-- A booted package runs nothing yet. -/
theorem boot_empty (s : State) (b : BootInputs) : (boot s b).tripped = false ∧ (boot s b).ops = [] ∧ (boot s b).launches = [] := by
  have kept := boot_keeps s b
  have fused := fuseSlots_keeps (poweredOff s) b.fused
  simp only [sameStart, Prod.mk.injEq] at kept
  obtain ⟨tripped, ops, launches, -⟩ := kept
  exact ⟨tripped.trans (congrArg State.tripped fused :), ops.trans (congrArg State.ops fused :),
    launches.trans (congrArg State.launches fused :)⟩

/-! ## Updates (R461, R463) -/

theorem imageOk_iff {root : Nat} {rollback : List Nat} {c : Component} {i : Image} : imageOk root rollback c i = true ↔
    (i.key = root ∨ i.certifiedBy = some root) ∧ i.signed = true ∧ rollback.getD (rollbackAt c) 0 ≤ i.version := by
  simp [imageOk, and_assoc]

section
variable {c : Component} {image : Image} {starts : Bool} {f : Firm}

/-- A component that restarts with an image. -/
def started (image : Image) (now : Nat) (f : Firm) : Firm :=
  { version := image.version, digest := image.digest, running := false, restart := some (f.restart.getD now), down := false }

/-- An image for a component that works: it restarts the component where it is accepted. -/
theorem exec_firmwareUpdate_begin (input : s.input = .firmwareUpdate c image starts) (now : aget {} c s.firmware = f)
    (rests : (f.restart.isSome && !f.down) = false)
    (go : (s.booted && (c == .monument || !s.out .monument) && !updating s c && allComponents.contains c) = true) :
    exec .firmwareUpdate s = .next (
      if imageOk s.rootDigest s.rollback c image then { s with firmware := aset c (started image s.ref f) s.firmware }
      else s.send 8 0 2) := by
  show execFirmwareUpdate s = _
  simp only [execFirmwareUpdate, input, now, rests, Bool.false_eq_true, if_false]
  exact if_pos go

/-- A restart ends, with its start check passed or failed. -/
theorem exec_firmwareUpdate_end (input : s.input = .firmwareUpdate c image starts) (now : aget {} c s.firmware = f)
    (works : (f.restart.isSome && !f.down) = true)
    (go : (s.booted && f.version == image.version && f.digest == image.digest) = true) :
    exec .firmwareUpdate s = .next (
      if starts then { s with firmware := aset c { f with running := true, restart := none } s.firmware }
      else State.send { s with firmware := aset c { f with down := true } s.firmware } 8 0 5) := by
  show execFirmwareUpdate s = _
  simp only [execFirmwareUpdate, input, now, works, if_true]
  exact if_pos go

end

/-! ## Restarts that last (R463) -/

theorem exec_firmwareHoldTimeout {c : Component} {ids : List Nat} (input : s.input = .firmwareHoldTimeout c ids)
    (late : outLong s c = true) : exec .firmwareHoldTimeout s = .next ((match c with
      | .port stack => s.ops.filter fun o => heldAtPort s o stack || blockAtPort o stack
      | .link _ => s.ops.filter fun o => ids.contains o.id && heldAtLink s o
      | .monument | .bind _ => []).foldl linkLost s) := by
  show execFirmwareHoldTimeout s = _
  simp only [execFirmwareHoldTimeout, input]
  exact if_pos late

/-- A load takes its failure where it stands. -/
theorem linkLost_load {o : Op} {ea size : Nat} {dst : Reg} {attr scope : Nat} {acq uni : Bool} (listed : s.op? o.id = some o)
    (load : o.kind = .load ea size dst attr scope acq uni none) :
    StandsAt (linkLost s o) o (.failed 0xA5 ea (o.info o.kind.info)) := by
  have lost : linkLost s o = s.setPhase o (.failed Cause.hwLink ea (o.info o.kind.info)) := by
    simp [linkLost, Op.atPort, load, OpKind.bankBlk?, OpKind.bytes, failOp, failWith, OpKind.orderedAtomic]
  rw [lost]
  exact State.op_setOp_same (o := { o with phase := .failed Cause.hwLink ea (o.info o.kind.info) }) listed

/-! ## Attestation (R464) -/

theorem attestReport_nonce (s : State) (nonce : Nat) : attestReport s nonce % 2 ^ 256 = nonce % 2 ^ 256 := by
  unfold attestReport
  extract_lets run
  rw [List.foldl_append, List.foldl_cons, List.foldl_nil]
  omega

end Sys2Proof.Machine
open Sys2Proof Sys2Proof.Machine

/-- Settles O53: each step of a boot changes its own fields, and what an update or a lasting restart does is its guard's branch. -/
theorem packageBootsAndIsUpdated : Obligations.PackageBootsAndIsUpdated := by
  refine fun s => ⟨?_, ?_, ?_, ?_, ?_⟩
  · intro b input off
    have go : (!s.booted || s.tripped) = true := by rcases off with off | off <;> simp [off]
    have next : exec .powerOn s = .next (boot s b) := show execPowerOn s = _ by
      simp only [execPowerOn, input]
      exact if_pos go
    obtain ⟨tripped, ops, launches⟩ := boot_empty s b
    refine ⟨_, next, tripped, ops, launches, (boot_booted s b).trans (bootPast_six b), fun k stops => ?_, fun whole d low => ?_,
      fun c f runs => ?_, fun k fused inside => ?_⟩
    · exact ⟨boot_status stops, fun early d => die_boot_stopped stops early d⟩
    · exact die_boot whole low
    · exact bootFirmware_accepted (boot_firmware s b ▸ runs)
    · rw [slot_of_slots (slots_boot s b)]
      exact fuseSlots_disables fused inside
  · exact ⟨_, rfl, rfl, rfl, rfl, rfl, rfl, party?_poweredOff s⟩
  · intro c image starts input booted f
    refine ⟨fun rests served alone known => ?_, fun restarts works version digest => ?_⟩
    · have rests : (f.restart.isSome && !f.down) = false := by rcases rests with rests | rests <;> simp [rests]
      have go : (s.booted && (c == .monument || !s.out .monument) && !updating s c && allComponents.contains c) = true := by
        have served : (c == .monument || !s.out .monument) = true := by rcases served with served | served <;> simp [served]
        simp [booted, served, alone, known]
      refine ⟨_, exec_firmwareUpdate_begin input rfl rests go, ?_⟩
      simp only [← imageOk_iff]
      split
      · exact aget_aset_same ..
      · rfl
    · have works : (f.restart.isSome && !f.down) = true := by simp [Option.isSome_iff_ne_none.mpr restarts, works]
      have go : (s.booted && f.version == image.version && f.digest == image.digest) = true := by simp [booted, version, digest]
      refine ⟨_, exec_firmwareUpdate_end input rfl works go, ?_⟩
      split
      · exact aget_aset_same ..
      · exact aget_aset_same ..
  · intro c ids since input restart late
    have due : outLong s c = true := by simp [outLong, restart, late]
    have next := exec_firmwareHoldTimeout input due
    refine ⟨⟨_, next⟩, fun core => ?_, ?_⟩
    · rcases core with rfl | ⟨d, rfl⟩
      · exact next
      · exact next
    · rintro o n ea size dst attr scope acq uni rfl held ops named waits load
      refine ⟨_, next, ?_⟩
      have lost : (s.ops.filter fun o => ids.contains o.id && heldAtLink s o) = [o] := by
        simp [ops, named, heldAtLink, held, waits]
      simp only [lost, List.foldl_cons, List.foldl_nil]
      exact linkLost_load (by simp [State.op?, ops]) load
  · intro nonce input up
    refine ⟨(s.send 5 0 (attestReport s nonce)).send 5 1 (Config.attestSignature (attestReport s nonce)), ?_, ?_, attestReport_nonce s nonce⟩
    · show execAttestationRequest s = _
      simp only [execAttestationRequest, input, up, whenEnabled_true]
    · exact List.append_assoc ..
end

section
/-! Die resets, saved clusters, and power gating (25_resilience.md R451 to R454; 15_die_memory.md R322). -/

namespace Sys2Proof.Machine

variable {s t u : State} {die : Nat} {l : Launch}

/-! ## What slots are bound to -/

/-- What each slot is bound to. -/
def binds (s : State) (k : Nat) : Option Bind := (s.slot k).bind

theorem binds_of_slots (h : t.slots = s.slots) : binds t = binds s := funext fun k => congrArg Slot.bind (slot_of_slots h k)
theorem binds_setSlot {k : Nat} {x : Slot} (same : x.bind = (s.slot k).bind) : binds (s.setSlot k x) = binds s := by
  funext j
  rw [binds, binds]
  by_cases mine : j = k
  · rw [mine, State.slot_setSlot_same, same]
  · rw [State.slot_setSlot_ne mine]
theorem binds_setParty (s : State) (k : Nat) (p : Party) : binds (s.setParty k p) = binds s := binds_setSlot rfl

/-- In t one slot is bound to nothing, and every other to what it was. -/
def Unbinds (s t : State) (slot : Nat) : Prop := binds t = fun k => if k = slot then none else binds s k

/-! ### Barriers that a lost party leaves (14 R309) -/

section
variable (s : State) (slot : Nat)

theorem binds_leaveBar (scope idx phase : Nat) : binds (leaveBar s slot scope idx phase) = binds s := by
  cases party : s.party? slot with
  | none => simp only [leaveBar, party]
  | some p =>
    rw [leaveBar_eq party]
    split
    · rfl
    · exact (binds_of_slots (acquire_slots ..)).trans (binds_setParty ..)
theorem binds_wideBarNext (k : Nat × Nat × Nat × Nat × Nat) : binds (wideBarNext s k) = binds s := by
  simp only [wideBarNext]
  refine (foldl_keeps binds (fun t slot => ?_) _ _).trans ?_
  · split
    · rfl
    · split
      · exact binds_setParty ..
      · exact (binds_leaveBar ..).trans (binds_setParty ..)
  · split <;> rfl
theorem binds_leaveInst (i : BarInst) (n : Nat) : binds (leaveInst s i n) = binds s := by
  refine (foldl_keeps binds (fun t k => ?_) _ _).trans ?_
  · simp only [checkBar]
    split
    · exact binds_wideBarNext ..
    · rfl
  · split <;> rfl
theorem binds_withdraw (l : BarLoc) : binds (withdraw s slot l) = binds s := by
  cases l with
  | party idx =>
    simp only [withdraw, addArrival]
    split
    · exact binds_setParty ..
    · rfl
  | wide k =>
    simp only [withdraw, addArrival]
    split <;> rfl
theorem binds_dropArrivals (p : Party) (t : Thread) (wide : Bool) : binds (dropArrivals s slot p t wide) = binds s := by
  refine foldl_keeps binds (fun u a => ?_) _ _
  split
  · split
    · rfl
    · exact binds_withdraw ..
  · exact binds_withdraw ..
  · rfl
theorem binds_leaveWide (tid : Nat) : binds (leaveWide s slot tid) = binds s := by
  unfold leaveWide
  split
  · rfl
  · refine (foldl_keeps binds (fun t i => binds_leaveInst t i 1) _ _).trans ?_
    split
    · exact (binds_setParty ..).trans (binds_dropArrivals ..)
    · exact binds_dropArrivals ..
theorem binds_dropMigr : binds (dropMigr s slot) = binds s := by
  unfold dropMigr
  split
  · rfl
  · extract_lets k u v old
    have first : binds u = binds s := binds_setSlot rfl
    have second : binds v = binds u := by unfold v; split <;> rfl
    refine (binds_setSlot ?_).trans (second.trans first)
    rfl

/-! ### Parties that are lost (16 R345) -/

theorem slots_postRing (core lid k faddr bytes tag status cause : Nat) :
    (postRing s core lid k faddr bytes tag status cause).slots = s.slots :=
  (congrArg State.slots (posts_postRing s core lid k faddr bytes tag status cause).quiet :)

theorem binds_freeze (p : Party) (e : Esc) : binds (freeze s slot p e) = binds s := by
  unfold freeze
  extract_lets s1 s2 old s3 s4 s5
  have h1 : binds s1 = binds s := foldl_keeps binds (fun t k => by split; exacts [rfl, binds_leaveWide ..]) _ s
  have h2 : binds s2 = binds s1 := binds_dropMigr ..
  have h3 : binds s3 = binds s2 := by
    refine binds_setSlot ?_
    rfl
  have h4 : binds s4 = binds s3 := by unfold s4; split <;> rfl
  have h5 : binds s5 = binds s4 := binds_of_slots (slots_postRing ..)
  refine (binds_of_slots (s := s5) rfl).trans ?_
  rw [h5, h4, h3, h2, h1]

theorem clearSlot_unbinds : Unbinds s (clearSlot s slot) slot := by
  unfold clearSlot
  extract_lets k s1 init s2 s3
  have h2 : Unbinds s s2 slot := by
    funext j
    rw [binds]
    by_cases mine : j = slot
    · rw [if_pos mine, mine, State.slot_setSlot_same]
      rfl
    · rw [if_neg mine, State.slot_setSlot_ne mine]
      rfl
  have h3 : binds s3 = binds s2 := by
    unfold s3
    split
    · exact binds_of_slots (slots_reportEvent ..)
    · rfl
  split
  · exact (binds_of_slots (slots_leaveCore ..)).trans (h3.trans h2)
  · exact h3.trans h2

theorem freeSlot_unbinds : Unbinds s (freeSlot s slot) slot :=
  (binds_of_slots (slots_freeSlot s slot)).trans (clearSlot_unbinds s slot)

theorem losePartyAt_unbinds : Unbinds s (losePartyAt s slot) slot := by
  unfold losePartyAt
  extract_lets k s1
  have h1 : binds s1 = binds s := by
    unfold s1
    split
    · split
      · exact binds_setSlot rfl
      · rfl
    · rfl
  have through : ∀ {v w : State}, Unbinds v w slot → binds v = binds s → Unbinds s w slot := by
    intro v w h same
    rwa [Unbinds, ← same]
  split
  · exact through (clearSlot_unbinds ..) h1
  · split
    · exact through (freeSlot_unbinds ..) h1
    · exact through (freeSlot_unbinds ..) ((binds_freeze ..).trans h1)

theorem binds_loseParty (l : Launch) (b : Block) (q : SavedParty) : binds (loseParty s l b q) = binds s := by
  unfold loseParty
  extract_lets slot start p live s1
  refine (foldl_keeps binds (fun t i => binds_leaveInst t i _) _ _).trans (foldl_keeps binds (fun t m => ?_) live s)
  split
  · exact binds_withdraw ..
  · rfl

theorem binds_loseParties (l : Launch) (b : Block) (qs : List SavedParty) : binds (loseParties s l b qs) = binds s := by
  unfold loseParties
  extract_lets s1
  have h1 : binds s1 = binds s := foldl_keeps binds (fun t q => binds_loseParty t l b q) qs s
  split
  · exact h1
  · extract_lets gone b'
    split
    · refine (binds_of_slots ?_).trans h1
      exact (foldl_keeps State.slots (fun t r => slots_leaveCore t _ _) _ _).trans (slots_endBlock ..)
    · exact h1

theorem binds_loseAbsent (b : Block) : binds (loseAbsent s b) = binds s := by
  unfold loseAbsent
  split
  · split
    · rfl
    · extract_lets s1 s2
      have h1 : binds s1 = binds s := binds_of_slots (foldl_keeps State.slots (fun t q => slots_postRing ..) _ s)
      have h2 : binds s2 = binds s1 := by unfold s2; split <;> rfl
      exact (binds_loseParties ..).trans (h2.trans h1)
  · rfl

end

/-- No slot of a die that is lost is bound. -/
theorem loseDie_unbinds {k : Nat} (used : k ∈ usedSlots s die) : binds (loseDie s die) k = none := by
  unfold loseDie
  extract_lets bs s1
  have absent : binds (bs.foldl loseAbsent s1) = binds s1 := foldl_keeps binds binds_loseAbsent bs s1
  rw [absent]
  have step : ∀ (t : State) (j : Nat), k = j ∨ binds t k = none →
      binds (if (t.slot j).bind.isSome then losePartyAt t j else t) k = none := by
    intro t j h
    split
    · have lost := congrFun (losePartyAt_unbinds t j) k
      rw [lost]
      split
      · rfl
      · exact h.resolve_left ‹_›
    · rename_i none
      rcases h with rfl | h
      · exact Option.not_isSome_iff_eq_none.mp none
      · exact h
  have after : ∀ (ks : List Nat) (t : State), k ∈ ks ∨ binds t k = none →
      binds (ks.foldl (fun s k => if (s.slot k).bind.isSome then losePartyAt s k else s) t) k = none := by
    intro ks
    induction ks with
    | nil => exact fun t h => h.resolve_left List.not_mem_nil
    | cons j ks ih =>
      intro t h
      refine ih _ ?_
      rcases h with listed | none
      · exact (List.mem_cons.mp listed).symm.imp_right fun mine => step t j (.inl mine)
      · exact .inr (step t j (.inr none))
  exact after _ s (.inl used)

/-! ## The request (R451 step 1) -/

section
variable (images : List (Nat × Nat)) (s : State) (k : Nat)

/-- What a pass over the slots of a die keeps: the dies, the time, and each slot's state. -/
def PassesSlots (s t : State) : Prop := t.dies = s.dies ∧ t.ref = s.ref ∧ ∀ j, (t.slot j).st = (s.slot j).st

theorem st_setSlot {x : Slot} (same : x.st = (s.slot k).st) (j : Nat) : ((s.setSlot k x).slot j).st = (s.slot j).st := by
  by_cases mine : j = k
  · rw [mine, State.slot_setSlot_same, same]
  · rw [State.slot_setSlot_ne mine]

/-- The die of a slot is being reset, so that even a deterministic launch's party is asked to be saved. -/
theorem acceptPre_resets (resets : (s.die (dieOf (coreOf k))).reset ≠ none) :
    acceptPre s k = s.setSlot k { s.slot k with preq := true, heldPre := false, saveFrom := s.ref } := by
  have none : (s.die (dieOf (coreOf k))).reset.isNone = false := Option.isNone_eq_false_iff.mpr (Option.isSome_iff_ne_none.mpr resets)
  simp only [acceptPre, none, Bool.and_false, Bool.false_eq_true, if_false]

theorem setSlot_setSlot (x y : Slot) : (s.setSlot k x).setSlot k y = s.setSlot k y := by
  simp only [State.setSlot, aset_aset]

/-- A slot with the deadline and the save address of the request. -/
def askedSlot (images : List (Nat × Nat)) (s : State) (k : Nat) : Slot :=
  { s.slot k with deadline := 0, saveAddr := aget (s.slot k).saveAddr k images }

theorem preSlot_run (runs : (s.slot k).st = .run) (resets : (s.die (dieOf (coreOf k))).reset ≠ none) : preSlot images s k =
    s.setSlot k { askedSlot images s k with preq := true, heldPre := false, saveFrom := s.ref } := by
  have pre := acceptPre_resets (s.setSlot k (askedSlot images s k)) k resets
  rw [State.slot_setSlot_same, setSlot_setSlot] at pre
  refine Eq.trans ?_ pre
  unfold preSlot
  extract_lets src x
  split
  case h_1 => rfl
  all_goals
    rename_i st
    exact nomatch runs.symm.trans st
theorem preSlot_waits (waits : (s.slot k).st = .loading ∨ (s.slot k).st = .restoring) :
    preSlot images s k = s.setSlot k { askedSlot images s k with heldPre := true } := by
  unfold preSlot
  extract_lets src x
  split
  case h_2 | h_3 => rfl
  all_goals
    rename_i st
    rcases waits with waits | waits <;> exact nomatch waits.symm.trans st
theorem preSlot_rests (idle : (s.slot k).st ≠ .run) (settled : ¬((s.slot k).st = .loading ∨ (s.slot k).st = .restoring)) :
    preSlot images s k = s := by
  unfold preSlot
  extract_lets old x
  split
  · rename_i st
    exact absurd st idle
  · rename_i st
    exact absurd (.inl st) settled
  · rename_i st
    exact absurd (.inr st) settled
  all_goals rfl

/-- What the request asks of a slot. -/
structure Asked (s t : State) (k : Nat) : Prop where
  runs : (s.slot k).st = .run → (t.slot k).preq = true ∧ (t.slot k).deadline = 0 ∧ (t.slot k).saveFrom = s.ref
  waits : (s.slot k).st = .loading ∨ (s.slot k).st = .restoring → (t.slot k).heldPre = true

/-- One slot is asked; the others stand. -/
theorem preSlot_asks (resets : (s.die (dieOf (coreOf k))).reset ≠ none) : PassesSlots s (preSlot images s k) ∧
    Asked s (preSlot images s k) k ∧ ∀ j, j ≠ k → (preSlot images s k).slot j = s.slot j := by
  by_cases runs : (s.slot k).st = .run
  · rw [preSlot_run images s k runs resets]
    refine ⟨⟨rfl, rfl, st_setSlot s k rfl⟩, ?_, fun j ne => State.slot_setSlot_ne ne ..⟩
    constructor <;> rw [State.slot_setSlot_same]
    · exact fun _ => ⟨rfl, rfl, rfl⟩
    · exact fun waits => by simp [runs] at waits
  · by_cases waits : (s.slot k).st = .loading ∨ (s.slot k).st = .restoring
    · rw [preSlot_waits images s k waits]
      refine ⟨⟨rfl, rfl, st_setSlot s k rfl⟩, ?_, fun j ne => State.slot_setSlot_ne ne ..⟩
      constructor <;> rw [State.slot_setSlot_same]
      · exact fun now => absurd now runs
      · exact fun _ => rfl
    · rw [preSlot_rests images s k runs waits]
      exact ⟨⟨rfl, rfl, fun _ => rfl⟩, ⟨fun now => absurd now runs, fun now => absurd now waits⟩, fun _ _ => rfl⟩

end

theorem PassesSlots.trans (h : PassesSlots s t) (h' : PassesSlots t u) : PassesSlots s u :=
  ⟨h'.1.trans h.1, h'.2.1.trans h.2.1, fun j => (h'.2.2 j).trans (h.2.2 j)⟩
theorem Asked.of_passed {k : Nat} (h : Asked t u k) (passed : PassesSlots s t) : Asked s u k :=
  ⟨fun runs => passed.2.1 ▸ h.runs ((passed.2.2 k).trans runs), fun waits => h.waits (by rwa [passed.2.2 k])⟩

/-- Every slot of a die that is asked has been asked at the end. -/
theorem preSlots_ask (images : List (Nat × Nat)) (ks : List Nat) (resets : ∀ k ∈ ks, (s.die (dieOf (coreOf k))).reset ≠ none) :
    PassesSlots s (ks.foldl (preSlot images) s) ∧ ∀ k ∈ ks, Asked s (ks.foldl (preSlot images) s) k := by
  have all : ∀ (ks : List Nat) (t : State) (done : List Nat), PassesSlots s t → (∀ k ∈ done, Asked s t k) →
      (∀ k ∈ ks, (s.die (dieOf (coreOf k))).reset ≠ none) →
      PassesSlots s (ks.foldl (preSlot images) t) ∧ ∀ k, k ∈ done ∨ k ∈ ks → Asked s (ks.foldl (preSlot images) t) k := by
    intro ks
    induction ks with
    | nil => exact fun t done passed asked _ => ⟨passed, fun k h => asked k (h.resolve_right List.not_mem_nil)⟩
    | cons j ks ih =>
      intro t done passed asked resets
      have now : (t.die (dieOf (coreOf j))).reset ≠ none := by
        rw [State.die, passed.1]
        exact resets j List.mem_cons_self
      obtain ⟨step, mine_asked, others⟩ := preSlot_asks images t j now
      have next := passed.trans step
      have after : ∀ k ∈ j :: done, Asked s (preSlot images t j) k := by
        intro k h
        by_cases mine : k = j
        · subst mine
          exact mine_asked.of_passed passed
        · have before := asked k ((List.mem_cons.mp h).resolve_left mine)
          exact ⟨by rw [others k mine]; exact before.runs, by rw [others k mine]; exact before.waits⟩
      obtain ⟨kept, all⟩ := ih _ (j :: done) next after fun k h => resets k (List.mem_cons_of_mem _ h)
      exact ⟨kept, fun k h => all k (by simp only [List.mem_cons] at h ⊢; tauto)⟩
  obtain ⟨passed, asked⟩ := all ks s [] ⟨rfl, rfl, fun _ => rfl⟩ nofun resets
  exact ⟨passed, fun k h => asked k (.inr h)⟩

/-! ## Clusters (R452) -/

theorem inTurn_keeps {α τ : Type} {f : State → α → Got} (read : State → τ)
    (h : ∀ s a x t, f s a = .ok x t → read t = read s) (as : List α) {x : Nat} (ok : inTurn f as s = .ok x t) : read t = read s := by
  induction as generalizing s with
  | nil =>
    cases ok
    rfl
  | cons a as ih =>
    rw [inTurn] at ok
    split at ok
    · rename_i u first
      exact (ih ok).trans (h _ _ _ _ first)
    · rename_i other
      exact absurd ok (other _ _)

theorem blocks_of_calm (h : t.calm = s.calm) : t.blocks = s.blocks := (congrArg State.blocks h :)

theorem blocks_saveRank {area : Nat} {b : Block} {r x : Nat} (ok : saveRank l area b s r = .ok x t) : t.blocks = s.blocks := by
  rw [saveRank] at ok
  split at ok
  · rename_i portion
    have first := blocks_of_calm (calm_of_ok (calm_writeEa ..) portion)
    exact (blocks_of_calm (calm_of_ok (calm_writeEa ..) ok)).trans first
  · rename_i other
    exact absurd ok (other _ _)

/-- In t nothing but blocks and cores differs. -/
def BlocksOnly (s t : State) : Prop := { t with blocks := s.blocks, cores := s.cores } = s

theorem keepBlock_keeps (area : Nat) (s : State) (b : Block) : BlocksOnly s (keepBlock l area s b) ∧
    (keepBlock l area s b).blocks = (s.setBlock { b with saved := some area }).blocks := by
  have freed := coresOnly_freePortions (s := s) b
  have left := CoresOnly.foldl (fun t r => coresOnly_leaveCore (b.core + r) l.lid) (upTo b.map.length)
    ((freePortions s b).setBlock { b with saved := some area })
  rw [keepBlock]
  generalize (upTo b.map.length).foldl _ _ = t at left ⊢
  generalize freePortions s b = u at freed left
  constructor
  · refine Eq.trans ?_ freed
    exact (congrArg (fun x : State => { x with blocks := s.blocks, cores := s.cores }) left :).trans (by
      have blocks := (congrArg State.blocks freed :)
      rw [← blocks]
      rfl)
  · refine (congrArg State.blocks left :).trans ?_
    rw [State.setBlock, State.setBlock, (congrArg State.blocks freed :)]

/-- A block that stands in a list of blocks is the one laid there, or one of those before that is another. -/
theorem mem_setBlock {b b' c : Block} (keyed : b'.lid = b.lid ∧ b'.blin = b.blin) (h : c ∈ (s.setBlock b').blocks) :
    c = b' ∨ c ∈ s.blocks ∧ c ≠ b := by
  obtain ⟨old, mem, eq⟩ := List.mem_map.mp h
  split at eq
  · exact .inl eq.symm
  · rename_i other
    refine .inr (eq ▸ ⟨mem, ?_⟩)
    rintro rfl
    simp [keyed] at other

theorem keepBlocks_keep (area : Nat) (bs : List Block) (s : State) : BlocksOnly s (bs.foldl (keepBlock l area) s) ∧
    ∀ c ∈ (bs.foldl (keepBlock l area) s).blocks, c.saved = some area ∨ c ∈ s.blocks ∧ c ∉ bs := by
  induction bs generalizing s with
  | nil => exact ⟨rfl, fun c h => .inr ⟨h, List.not_mem_nil⟩⟩
  | cons b bs ih =>
    obtain ⟨rest, saved⟩ := ih (keepBlock l area s b)
    obtain ⟨only, blocks⟩ := keepBlock_keeps (l := l) area s b
    refine ⟨(congrArg (fun x : State => { x with blocks := s.blocks, cores := s.cores }) rest :).trans only, fun c h => ?_⟩
    rcases saved c h with now | ⟨before, out⟩
    · exact .inl now
    · rcases mem_setBlock (b := b) (by exact ⟨rfl, rfl⟩) (blocks ▸ before) with rfl | ⟨mem, ne⟩
      · exact .inl rfl
      · exact .inr ⟨mem, fun h => (List.mem_cons.mp h).elim ne out⟩

/-- The open blocks of a cluster are all among those that a pass over them has changed. -/
theorem openBlocks_changed {clin : Nat} {P : Block → Prop} (changed : ∀ c ∈ t.blocks, P c ∨ c ∈ s.blocks ∧ c ∉ openBlocks s l.lid clin) :
    ∀ c ∈ openBlocks t l.lid clin, P c := by
  intro c h
  simp only [openBlocks, clusterBlocks, List.mem_filter] at h changed
  exact (changed c h.1.1).resolve_right fun ⟨mem, out⟩ => out ⟨⟨mem, h.1.2⟩, h.2⟩

/-- CLUSTER_SAVE. -/
theorem clusterSave_keeps {clin area x : Nat} {u : State} (input : s.input = .clusterSave l.lid clin area)
    (launch : s.launch? l.lid = some l) (some_open : openBlocks s l.lid clin ≠ [])
    (ready : ∀ b ∈ openBlocks s l.lid clin, (s.die (dieOf b.core)).reset ≠ none ∧ bindUp s (dieOf b.core) = true ∧
      blockSaved s l b = true)
    (ok : inTurn (fun s b => inTurn (saveRank l area b) (upTo b.map.length) s) (openBlocks s l.lid clin) s = .ok x u) :
    ∃ t, exec .clusterSave s = .next t ∧ t.slots = u.slots ∧ t.dram = u.dram ∧ t.l2 = u.l2 ∧
      ∀ b ∈ openBlocks t l.lid clin, b.saved = some area := by
  have same : u.blocks = s.blocks := inTurn_keeps State.blocks
    (fun s b x t ok => inTurn_keeps State.blocks (fun s r x t ok => blocks_saveRank ok) _ ok) _ ok
  obtain ⟨only, saved⟩ := keepBlocks_keep (l := l) area (openBlocks s l.lid clin) u
  have nonempty : (!(openBlocks s l.lid clin).isEmpty) = true := by simpa using some_open
  have resetting : ((openBlocks s l.lid clin).all fun b => (s.die (dieOf b.core)).reset.isSome && bindUp s (dieOf b.core)) = true :=
    List.all_eq_true.mpr fun b h => by
      obtain ⟨reset, up, _⟩ := ready b h
      rw [up, Option.isSome_iff_ne_none.mpr reset]
      rfl
  have all_saved : (openBlocks s l.lid clin).all (blockSaved s l) = true :=
    List.all_eq_true.mpr fun b h => (ready b h).2.2
  refine ⟨(openBlocks s l.lid clin).foldl (keepBlock l area) u, ?_, (congrArg State.slots only :), (congrArg State.dram only :),
    (congrArg State.l2 only :), openBlocks_changed fun c h => (saved c h).imp_right fun ⟨mem, out⟩ => ⟨same ▸ mem, out⟩⟩
  change execClusterSave s = _
  unfold execClusterSave
  simp only [input, launch, ok, nonempty, resetting, all_saved, Bool.and_self]
  exact whenEnabled_true ..

theorem blocks_loadRank {area : Nat} {b : Block} {r x : Nat} (ok : loadRank l area b s r = .ok x t) : t.blocks = s.blocks := by
  rw [loadRank] at ok
  split at ok
  · rename_i portion
    have first := blocks_of_calm (calm_of_ok (calm_readEa ..) portion)
    split at ok
    · rename_i acc
      have second := blocks_of_calm (calm_of_ok (calm_readEa ..) acc)
      cases ok
      exact second.trans first
    · rename_i other
      exact absurd ok (other _ _)
  · rename_i other
    exact absurd ok (other _ _)

/-- One block placed again stands on a group of the die, and no other block has changed. -/
theorem replaceBlock_places {b : Block} {x : Nat} (ok : replaceBlock l die s b = .ok x t) :
    ∀ c ∈ t.blocks, (c.saved = none ∧ c.core ∈ groupsOn die l.cores) ∨ c ∈ s.blocks ∧ c ≠ b := by
  rw [replaceBlock] at ok
  split at ok
  · rename_i area core0 _ found
    have taken := coresOnly_takePortions (s := s) (l := l) b.blin l.cores core0
    generalize takePortions l b.blin l.cores core0 s = e at ok taken
    obtain ⟨map, u⟩ := e
    have loaded : t.blocks = _ := inTurn_keeps State.blocks (fun s r x t ok => blocks_loadRank ok) _ ok
    intro c h
    have blocks : u.blocks = s.blocks := (congrArg State.blocks taken :)
    rw [loaded] at h
    rcases mem_setBlock (b := b) (by exact ⟨rfl, rfl⟩) h with rfl | before
    · exact .inl ⟨rfl, List.mem_of_find?_eq_some found⟩
    · exact .inr (blocks ▸ before)
  · cases ok

theorem replaceBlocks_place (bs : List Block) {x : Nat} (ok : inTurn (replaceBlock l die) bs s = .ok x t) :
    ∀ c ∈ t.blocks, (c.saved = none ∧ c.core ∈ groupsOn die l.cores) ∨ c ∈ s.blocks ∧ c ∉ bs := by
  induction bs generalizing s with
  | nil =>
    cases ok
    exact fun c h => .inr ⟨h, List.not_mem_nil⟩
  | cons b bs ih =>
    rw [inTurn] at ok
    split at ok
    · rename_i u first
      intro c h
      rcases ih ok c h with now | ⟨before, out⟩
      · exact .inl now
      · exact (replaceBlock_places first c before).imp_right fun ⟨mem, ne⟩ =>
          ⟨mem, fun h => (List.mem_cons.mp h).elim ne out⟩
    · rename_i other
      exact absurd ok (other _ _)

/-- CLUSTER_RESTORE. -/
theorem clusterRestore_places {clin x : Nat} (input : s.input = .clusterRestore l.lid clin die) (launch : s.launch? l.lid = some l)
    (some_open : openBlocks s l.lid clin ≠ []) (lt : die < 4) (allowed : l.dieOk die = true) (takes : dieTakes s die = true)
    (unreserved : reservedFrom s die l = false) (ok : inTurn (replaceBlock l die) (openBlocks s l.lid clin) s = .ok x t) :
    exec .clusterRestore s = .next t ∧ ∀ b ∈ openBlocks t l.lid clin, b.saved = none ∧ b.core ∈ groupsOn die l.cores := by
  refine ⟨?_, openBlocks_changed (replaceBlocks_place _ ok)⟩
  have nonempty : (!(openBlocks s l.lid clin).isEmpty) = true := by simpa using some_open
  change execClusterRestore s = _
  unfold execClusterRestore
  simp only [input, launch, ok, nonempty, lt, allowed, takes, unreserved, decide_true, Bool.and_self, Bool.not_false]
  exact whenEnabled_true ..

/-! ## What goes with a die (R453) -/

/-- In t only operations and messages differ. -/
def OpsOut (s t : State) : Prop := { t with ops := s.ops, outbox := s.outbox } = s

theorem OpsOut.trans (h : OpsOut s t) (h' : OpsOut t u) : OpsOut s u :=
  (congrArg (fun x : State => { x with ops := s.ops, outbox := s.outbox }) h' :).trans h
theorem OpsOut.foldl {α : Type} {f : State → α → State} (h : ∀ s x, OpsOut s (f s x)) (xs : List α) (s : State) :
    OpsOut s (xs.foldl f s) :=
  List.foldlRecOn (motive := OpsOut s) xs f rfl fun _ ht x _ => ht.trans (h _ x)

theorem opsOut_failOp (o : Op) (cause ea : Nat) : OpsOut s (failOp s o cause ea) := by
  unfold failOp failWith
  split <;> rfl
theorem opsOut_loseForwarded (s : State) (die : Nat) : OpsOut s (loseForwarded s die) := .foldl (fun _ _ => opsOut_failOp ..) _ s
theorem opsOut_loseColl (c : CollCmd) : OpsOut s (loseColl s c) := by
  have told : OpsOut s (tellRanks s c 4 0) := .foldl (f := fun s p => s.send 11 p (c.word 4 0 0)) (fun _ _ => rfl) _ s
  refine told.trans (.foldl (fun t k => ?_) _ _)
  split <;> rfl
theorem opsOut_dropOps (s : State) (die : Nat) : OpsOut s (dropOps s die) := by
  have colls : OpsOut s (loseColls s die) := .foldl (fun _ _ => opsOut_loseColl ..) _ s
  exact colls.trans rfl

theorem lost_markLost (s : State) (ls : List Nat) : (∀ l ∈ s.lost, l ∈ (markLost s ls).lost) ∧ ∀ l ∈ ls, l ∈ (markLost s ls).lost := by
  refine ⟨fun l h => List.mem_append_left _ h, fun l h => ?_⟩
  by_cases before : l ∈ s.lost
  · exact List.mem_append_left _ before
  · exact List.mem_append_right _ (List.mem_filter.mpr ⟨List.mem_eraseDups.mpr h, by simpa using before⟩)

/-- The directory of a lost die lists nothing of it, and the lines that it owned are LOST. -/
theorem loseLines_lose (s : State) (die : Nat) : (∀ x ∈ (loseLines s die).l2, x.1.1 ≠ die) ∧
    (∀ l ∈ s.lost, l ∈ (loseLines s die).lost) ∧
    ∀ line, heldAs s line die = some .m ∨ heldAs s line die = some .o → line ∈ (loseLines s die).lost := by
  unfold loseLines
  extract_lets dirty v
  obtain ⟨kept, marked⟩ := lost_markLost s dirty
  have after : ∀ l ∈ (markLost s dirty).lost, l ∈ v.lost := (lost_markLost (markLost s dirty) _).1
  refine ⟨fun x h => by simpa using (List.mem_filter.mp h).2, fun l h => after l (kept l h), fun line owns => after line (marked line ?_)⟩
  obtain ⟨l, entry⟩ : ∃ l, s.l2? die line = some l := by
    rcases owns with h | h <;> exact (heldAs_eq_some.mp h).imp fun l h => h.1
  refine List.mem_map.mpr ⟨_, List.mem_filter.mpr ⟨aget?_mem entry, ?_⟩, rfl⟩
  simpa using owns

/-- QUIESCE_DEADLINE_EXPIRY. -/
theorem quiesceDeadlineExpiry_fences {step due : Nat} (input : s.input = .quiesceDeadlineExpiry die)
    (reset : (s.die die).reset = some (step, due)) (past : due ≤ s.ref) (quiesces : (s.die die).cond = .quiescing) :
    ∃ u, exec .quiesceDeadlineExpiry s = .next (loseDie u die) ∧
      (u.die die).cond = .fenced ∧ (∀ x ∈ u.l2, x.1.1 ≠ die) ∧ (∀ l ∈ s.lost, l ∈ u.lost) ∧
      (∀ line, heldAs s line die = some .m ∨ heldAs s line die = some .o → line ∈ u.lost) ∧
      ∀ k ∈ usedSlots s die, ((loseDie u die).slot k).bind = none := by
  have forwarded := opsOut_loseForwarded (loseLines s die) die
  generalize loses : loseForwarded (loseLines s die) die = v at forwarded
  have dropped := opsOut_dropOps (v.setDie die { v.die die with cond := .fenced, reset := some (4, due) }) die
  refine ⟨dropOps (v.setDie die { v.die die with cond := .fenced, reset := some (4, due) }) die, ?_, ?_⟩
  · change execQuiesceDeadlineExpiry s = _
    unfold execQuiesceDeadlineExpiry
    simp only [input, reset, loses, past, quiesces, decide_true, Bool.true_and]
    exact whenEnabled_true ..
  · generalize dropOps (v.setDie die { v.die die with cond := .fenced, reset := some (4, due) }) die = u at dropped
    obtain ⟨gone, kept, owned⟩ := loseLines_lose s die
    have l2 : u.l2 = (loseLines s die).l2 := (congrArg State.l2 dropped :).trans (congrArg State.l2 forwarded :)
    have lost : u.lost = (loseLines s die).lost := (congrArg State.lost dropped :).trans (congrArg State.lost forwarded :)
    have slots : u.slots = s.slots := (congrArg State.slots dropped :).trans (congrArg State.slots forwarded :)
    refine ⟨?_, l2 ▸ gone, lost ▸ kept, lost ▸ owned, fun k used => loseDie_unbinds (by rwa [usedSlots, slots])⟩
    rw [State.die, (congrArg State.dies dropped :)]
    exact congrArg Die.cond (State.die_setDie_same ..)

/-! ## The reset (R451 step 5) -/

theorem aget?_map_keep {κ α : Type} [DecidableEq κ] (f : κ → α → α) (m : List (κ × α)) (k : κ) :
    aget? k (m.map fun e => (e.1, f e.1 e.2)) = (aget? k m).map (f k) := by
  induction m with
  | nil => rfl
  | cons e m ih =>
    obtain ⟨j, a⟩ := e
    rw [List.map_cons, aget?, aget?]
    split
    · rename_i eq
      rw [eq]
      rfl
    · exact ih

theorem mem_coresOf {c : Nat} : c ∈ coresOf die ↔ c / 32 = die := by
  simp only [coresOf, upTo, List.mem_map, List.mem_range]
  constructor
  · rintro ⟨a, lt, rfl⟩
    omega
  · exact fun h => ⟨c % 32, by omega, by omega⟩
theorem nodup_coresOf : (coresOf die).Nodup := List.nodup_range.map fun _ _ h => by omega

/-- Each core of a list without repetition is reset once. -/
theorem core_resetCores {cs : List Nat} (distinct : cs.Nodup) (s : State) (c : Nat) :
    (cs.foldl (fun s c => s.setCore c (resetCore s.seq c (s.core c))) s).core c =
      if c ∈ cs then resetCore s.seq c (s.core c) else s.core c := by
  induction cs generalizing s with
  | nil => rfl
  | cons a cs ih =>
    obtain ⟨fresh, distinct⟩ := List.nodup_cons.mp distinct
    rw [List.foldl_cons, ih distinct]
    by_cases mine : c = a
    · subst mine
      rw [if_neg fresh, if_pos List.mem_cons_self, State.core_setCore_same]
    · rw [State.core_setCore_ne mine]
      simp only [List.mem_cons, mine, false_or]
      rfl

/-- What a die holds right after its reset. -/
structure DieReset (s t : State) (d : Nat) : Prop where
  die : t.die d = { Die.init with cond := .running, freq := (s.die d).freq }
  core : ∀ c, c / 32 = d → t.core c = resetCore s.seq c (s.core c)
  slot : ∀ k ∈ usedSlots s d, (t.slot k).st = .free ∨ (t.slot k).st = .disabled

theorem core_setDie (s : State) (d c : Nat) (x : Die) : (s.setDie d x).core c = s.core c := rfl
theorem seq_resetSlots (s : State) (die : Nat) : (resetSlots s die).seq = s.seq := rfl
theorem core_resetSlots (s : State) (die c : Nat) : (resetSlots s die).core c = s.core c := rfl
theorem resetDie_resets (s : State) (die : Nat) : DieReset s (resetDie s die) die := by
  have cores := core_resetCores (nodup_coresOf (die := die)) (resetSlots s die)
  have keeps : CoresOnly (resetSlots s die)
      ((coresOf die).foldl (fun s c => s.setCore c (resetCore s.seq c (s.core c))) (resetSlots s die)) :=
    .foldl (fun _ _ => coresOnly_setCore ..) ..
  rw [resetDie]
  dsimp only
  generalize (coresOf die).foldl (fun s c => s.setCore c (resetCore s.seq c (s.core c))) (resetSlots s die) = u at cores keeps ⊢
  have dies : u.dies = s.dies := (congrArg State.dies keeps :)
  refine ⟨?_, fun c mine => ?_, fun k used => ?_⟩
  · rw [State.die_setDie_same, State.die, dies]
    rfl
  · have here := cores c
    rw [if_pos (mem_coresOf.mpr mine), seq_resetSlots, core_resetSlots] at here
    rwa [core_setDie]
  · obtain ⟨listed, mine⟩ := List.mem_filter.mp used
    have slots : u.slots = (resetSlots s die).slots := (congrArg State.slots keeps :)
    have settles (e : Nat × Slot) (h : e ∈ (resetSlots s die).slots) (on : dieOf (coreOf e.1) = die) :
        e.2.st = .free ∨ e.2.st = .disabled := by
      obtain ⟨old, _, rfl⟩ := List.mem_map.mp h
      split at on
      · rename_i here
        rw [if_pos here]
        dsimp only
        split
        · exact .inr rfl
        · exact .inl rfl
      · rename_i away
        exact absurd (beq_iff_eq.mpr on) away
    change (aget Slot.init k u.slots).st = _ ∨ (aget Slot.init k u.slots).st = _
    rw [slots]
    rcases aget_mem_or (d := Slot.init) (k := k) (m := (resetSlots s die).slots) with mem | none
    · exact settles _ mem (beq_iff_eq.mp mine)
    · rw [none]
      exact .inl rfl

/-- A die whose lines are written back keeps its slots and cores. -/
theorem drainL2_keeps (s : State) (die : Nat) : (drainL2 s die).slots = s.slots ∧ (drainL2 s die).cores = s.cores := by
  have written := LinesOnly.foldl (fun s line => linesOnly_writeBack s die line)
    ((s.l2.filter fun e => e.1.1 == die && (heldAs s e.1.2 die == some .m || heldAs s e.1.2 die == some .o)).map (·.1.2)) s
  exact ⟨written.slots, written.cores⟩

/-- A report changes no slot, and of cores and dies only what it invalidates. -/
theorem reportEvent_keeps (s : State) (ch kind code adrk addr unit : Nat) :
    let t := reportEvent s ch kind code adrk addr unit
    t.slots = s.slots ∧ t.cores = s.cores ∧ ∀ d, { t.die d with invs := (s.die d).invs } = s.die d := by
  obtain ⟨staging, n, lines⟩ := stageReport_lines s (mkReport ch kind code adrk addr unit)
  exact ⟨lines.slots, lines.cores, lines.dies⟩

/-- What a core lists after its reset. -/
theorem resetCore_lists (n c : Nat) (x : Core) : (resetCore n c x).scr = [] ∧ (resetCore n c x).portions = [] ∧
    (resetCore n c x).segs = [] ∧ (resetCore n c x).table = [] ∧ (resetCore n c x).disabled = (x.disabled || x.disable) :=
  ⟨rfl, rfl, rfl, rfl, rfl⟩

/-- A core after the partial stores of a die are lost. -/
def withoutPartials (die c : Nat) (x : Core) : Core := if dieOf c == die then { x with parts := [] } else x

/-- A core whose partial stores are lost is disabled where it was. -/
theorem losePartials_disabled (s : State) (die c : Nat) : ((losePartials s die).core c).disabled = (s.core c).disabled ∧
    ((losePartials s die).core c).disable = (s.core c).disable := by
  have cores : (losePartials s die).cores = s.cores.map fun c => (c.1, withoutPartials die c.1 c.2) := by
    refine List.map_congr_left fun c _ => ?_
    unfold withoutPartials
    split <;> rfl
  rw [State.core, State.core, cores, aget, aget, aget?_map_keep]
  cases aget? c s.cores with
  | none => exact ⟨rfl, rfl⟩
  | some x =>
    dsimp only [Option.map_some, Option.getD_some, withoutPartials]
    split <;> exact ⟨rfl, rfl⟩

/-- DIE_RESET_COMPLETE. -/
theorem dieResetComplete_resets (input : s.input = .dieResetComplete die) (reset : (s.die die).reset ≠ none)
    (up : s.out (.bind die) = false)
    (ready : (s.die die).cond = .fenced ∨ ((s.die die).cond = .quiescing ∧ dieDrained s die = true)) :
    ∃ t, exec .dieResetComplete s = .next t ∧ (t.die die).cond = .running ∧ (t.die die).clk = 0 ∧ (t.die die).tlb = [] ∧
      (∀ c, c / 32 = die → (t.core c).scr = [] ∧ (t.core c).portions = [] ∧ (t.core c).segs = [] ∧ (t.core c).table = [] ∧
        (t.core c).disabled = ((s.core c).disabled || (s.core c).disable)) ∧
      ∀ k ∈ usedSlots s die, (t.slot k).st = .free ∨ (t.slot k).st = .disabled := by
  have go : ((s.die die).reset.isSome && !s.out (.bind die) &&
      ((s.die die).cond == .fenced || ((s.die die).cond == .quiescing && dieDrained s die))) = true := by
    rw [Option.isSome_iff_ne_none.mpr reset, up]
    rcases ready with fenced | ⟨quiesces, drained⟩
    · rw [fenced]
      rfl
    · rw [quiesces, drained]
      rfl
  have drained := drainL2_keeps s die
  have dropped := opsOut_dropOps (losePartials (drainL2 s die) die) die
  have report := reportEvent_keeps (resetDie (dropOps (losePartials (drainL2 s die) die) die) die) (dieChannel die) 3 6 0 0 0
  have ran : exec .dieResetComplete s = .next (reportEvent (resetDie (dropOps (losePartials (drainL2 s die) die) die) die)
      (dieChannel die) 3 6 0 0 0) := by
    change execDieResetComplete s = _
    unfold execDieResetComplete
    simp only [input]
    exact if_pos go
  have resets := resetDie_resets (dropOps (losePartials (drainL2 s die) die) die) die
  refine ⟨_, ran, ?_⟩
  generalize reportEvent (resetDie (dropOps (losePartials (drainL2 s die) die) die) die) (dieChannel die) 3 6 0 0 0 = t at report
  generalize resetDie (dropOps (losePartials (drainL2 s die) die) die) die = u at report resets
  generalize dropOps (losePartials (drainL2 s die) die) die = v at dropped resets
  obtain ⟨slots, cores, dies⟩ := report
  have die_eq := dies die
  rw [resets.die] at die_eq
  refine ⟨(congrArg Die.cond die_eq :), (congrArg Die.clk die_eq :), (congrArg Die.tlb die_eq :), fun c mine => ?_, fun k used => ?_⟩
  · have core : t.core c = resetCore v.seq c (v.core c) := by
      rw [State.core, cores]
      exact resets.core c mine
    obtain ⟨disabled, disable⟩ := losePartials_disabled (drainL2 s die) die c
    have before : v.core c = (losePartials (drainL2 s die) die).core c := congrArg (aget Core.init c) (congrArg State.cores dropped :)
    have first : (drainL2 s die).core c = s.core c := congrArg (aget Core.init c) drained.2
    rw [core, ← first, ← disabled, ← disable, ← before]
    exact resetCore_lists ..
  · rw [State.slot, slots]
    refine resets.slot k ?_
    rwa [usedSlots, (congrArg State.slots dropped :), show (losePartials (drainL2 s die) die).slots = _ from drained.1]

/-- A write of an agent outside the dies, and with it a report, brings no line to an L2. -/
theorem l2_dirWrite (s : State) (ppa n x : Nat) : ∀ e ∈ (dirWrite s ppa n x).l2, e ∈ s.l2 := by
  have step (t : State) (d : Nat) : ∀ e ∈ (giveUp true (lineOf ppa) t d).l2, e ∈ t.l2 := by
    have gone : ∀ e ∈ adel (d, lineOf ppa) t.l2, e ∈ t.l2 := fun _ => mem_adel
    have written : (if true then writeBack t d (lineOf ppa) else t).l2 = t.l2 := by
      rw [if_pos rfl, writeBack]
      split <;> rfl
    unfold giveUp
    split
    · rw [State.delL2, written]
      exact gone
    · rw [State.delL2, written]
      exact gone
    · exact gone
    · exact fun _ h => h
    · exact fun _ h => h
  have all : ∀ e ∈ (allDies.foldl (giveUp true (lineOf ppa)) s).l2, e ∈ s.l2 :=
    List.foldlRecOn (motive := fun t => ∀ e ∈ t.l2, e ∈ s.l2) _ _ (fun _ h => h) fun t kept d _ e h => kept e (step t d e h)
  exact all
theorem l2_dropReports (s : State) (n : Nat) : ∀ e ∈ (dropReports s n).l2, e ∈ s.l2 := by
  unfold dropReports
  split
  · exact fun _ h => h
  · exact l2_dirWrite _ _ _ _
theorem l2_reportEvent (s : State) (ch kind code adrk addr unit : Nat) : ∀ e ∈ (reportEvent s ch kind code adrk addr unit).l2, e ∈ s.l2 := by
  unfold reportEvent stageReport
  extract_lets old tick first now t
  split
  · exact l2_dropReports t _
  · exact fun _ h => h

/-- DIE_POWER_GATE. -/
theorem diePowerGate_gates (input : s.input = .diePowerGate die) (manages : managed s = true) (lt : die < 4)
    (runs : (s.die die).cond = .running) (unreset : (s.die die).reset = none) (drained : dieDrained s die = true)
    (empty : ∀ c ∈ coresOf die, (s.core c).table = [] ∧ (s.core c).parts = []) :
    ∃ t, exec .diePowerGate s = .next t ∧ (t.die die).cond = .gated ∧ (∀ x ∈ t.l2, x.1.1 ≠ die) := by
  have empties : ((coresOf die).all fun c => (s.core c).table.isEmpty && (s.core c).parts.isEmpty) = true :=
    List.all_eq_true.mpr fun c h => by
      obtain ⟨table, parts⟩ := empty c h
      rw [table, parts]
      rfl
  have gone : ∀ x ∈ (drainL2 s die).l2, x.1.1 ≠ die := fun x h => by simpa using (List.mem_filter.mp h).2
  refine ⟨reportEvent ((drainL2 s die).setDie die { (drainL2 s die).die die with cond := .gated, served := [], reserve := none })
    (dieChannel die) 3 7 0 0 0, ?_, ?_⟩
  · change execDiePowerGate s = _
    unfold execDiePowerGate
    simp only [input, manages, lt, runs, unreset, drained, empties, decide_true]
    exact whenEnabled_true ..
  · generalize drainL2 s die = v at gone
    obtain ⟨_, _, dies⟩ := reportEvent_keeps (v.setDie die { v.die die with cond := .gated, served := [], reserve := none })
      (dieChannel die) 3 7 0 0 0
    have here := dies die
    rw [State.die_setDie_same] at here
    exact ⟨(congrArg Die.cond here :), fun x h => gone x (l2_reportEvent (v.setDie die _) _ _ _ _ _ _ x h)⟩

/-- DIE_POWER_UP. -/
theorem diePowerUp_starts (input : s.input = .diePowerUp die) (manages : managed s = true) (lt : die < 4)
    (gated : (s.die die).cond = .gated) (runs : (aget? (.bind die) s.firmware).any (fun f => f.running) = true) :
    ∃ t, exec .diePowerUp s = .next t ∧ (t.die die).cond = .running ∧ (t.die die).clk = 0 ∧
      (t.die die).freq = clockFor s.allBankLimit := by
  have resets := (resetDie_resets s die).die
  refine ⟨(resetDie s die).setDie die { (resetDie s die).die die with freq := clockFor s.allBankLimit }, ?_, ?_⟩
  · change execDiePowerUp s = _
    unfold execDiePowerUp
    simp only [input, manages, lt, gated, runs, decide_true]
    exact whenEnabled_true ..
  · rw [State.die_setDie_same, resets]
    exact ⟨rfl, rfl, rfl⟩

/-- DIE_RESET_REQUEST. -/
theorem dieResetRequest_quiesces {images : List (Nat × Nat)} (input : s.input = .dieResetRequest die images)
    (manages : managed s = true) (lt : die < 4) (runs : (s.die die).cond = .running) (unreset : (s.die die).reset = none) :
    ∃ t, exec .dieResetRequest s = .next t ∧ (t.die die).cond = .quiescing ∧ (t.die die).stopped = true ∧
      (t.die die).reset = some (1, s.ref + s.qdl) ∧ ∀ k ∈ usedSlots s die, ((s.slot k).st = .run →
        (t.slot k).preq = true ∧ (t.slot k).deadline = 0 ∧ (t.slot k).saveFrom = s.ref) ∧
        ((s.slot k).st = .loading ∨ (s.slot k).st = .restoring → (t.slot k).heldPre = true) := by
  let t := s.setDie die { s.die die with cond := .quiescing, stopped := true, reserve := none, reset := some (1, s.ref + s.qdl) }
  have resets : ∀ k ∈ usedSlots t die, (t.die (dieOf (coreOf k))).reset ≠ none := by
    intro k used
    rw [show dieOf (coreOf k) = die from beq_iff_eq.mp (List.mem_filter.mp used).2, State.die_setDie_same]
    exact nofun
  obtain ⟨⟨dies, _, _⟩, asked⟩ := preSlots_ask images (usedSlots t die) resets
  refine ⟨(usedSlots t die).foldl (preSlot images) t, ?_, ?_⟩
  · change execDieResetRequest s = _
    unfold execDieResetRequest
    simp only [input, manages, lt, runs, unreset, decide_true]
    exact whenEnabled_true ..
  · have die_eq : ((usedSlots t die).foldl (preSlot images) t).die die = t.die die := congrArg (aget Die.init die) dies
    rw [die_eq, State.die_setDie_same]
    exact ⟨rfl, rfl, rfl, fun k used => ⟨(asked k used).runs, (asked k used).waits⟩⟩

end Sys2Proof.Machine

open Sys2Proof Sys2Proof.Machine

/-- Settles O52: the request asks every slot of the die; a saved cluster's open blocks are all changed in turn; at the deadline
what goes with the die is operations, messages, lines and bindings; the reset writes each core and slot of the die once. -/
theorem diesResetAndGate : Obligations.DiesResetAndGate := by
  unfold Obligations.DiesResetAndGate
  intro s die
  refine ⟨?_, ?_, ?_, ?_, ?_, ?_, ?_⟩
  · exact fun images input manages lt runs unreset => dieResetRequest_quiesces input manages lt runs unreset
  · exact fun l clin area x u input launch some_open ready ok => clusterSave_keeps input launch some_open ready ok
  · exact fun l clin x t input launch some_open lt allowed takes unreserved ok =>
      clusterRestore_places input launch some_open lt allowed takes unreserved ok
  · exact fun step due input reset past quiesces => quiesceDeadlineExpiry_fences input reset past quiesces
  · exact fun input reset up _ ready => dieResetComplete_resets input reset up ready
  · exact diePowerGate_gates
  · exact diePowerUp_starts
end

section
/-! Bank commands (21_bank_arithmetic.md R405, R412 to R416; 19_package_memory.md R391). -/

namespace Sys2Proof.Machine

variable {s t v : State} {o : Op} {b c e : Nat}

/-! ## The next command of a block -/

/-- A bank's place: its stack, its pseudo-channel and its number. -/
def bankKey (o : Op) (c : Nat) : Nat × Nat × Nat := (o.bankAt.2.1, o.bankAt.2.2, bcBank c)

theorem nextBankCmd_listed {id code : Nat} (next : nextBankCmd s id code = some (o, b, c)) : s.op? id = some o ∧ bcOp c = code := by
  unfold nextBankCmd at next
  split at next
  · cases next
  · rename_i listed
    split at next
    · extract_lets cmd at next
      obtain ⟨go, eq⟩ := Option.ite_none_right_eq_some.mp next
      obtain ⟨rfl, rfl, rfl⟩ : _ ∧ _ ∧ _ := by simpa only [Option.some.injEq, Prod.mk.injEq] using eq
      simp only [Bool.and_eq_true, beq_iff_eq] at go
      exact ⟨listed, go.1.2⟩
    · cases next

/-- The block goes on where it stands among the operations. -/
theorem op_stepBank {w : Op} (listed : t.op? o.id = some w) : (t.setOp o.stepBank).op? o.id = some o.stepBank := by
  have same : w.id = o.id := by simpa using List.find?_some listed
  rw [State.op_setOp, listed, Option.map_some, if_pos (by rw [same]; exact beq_self_eq_true o.id)]

/-! ## A column command at a bank that is ready -/

/-- In v the command stands delivered in its bank's queue, and nothing else of s has changed but the operations. -/
structure Delivered (s v : State) (key : Nat × Nat × Nat) (c : Nat) : Prop where
  only : { v with banks := s.banks, ops := s.ops } = s
  unit : v.bank key = { s.bank key with queue := [c] }
  others : ∀ k, k ≠ key → v.bank k = s.bank k

theorem coherentRead_of_same (dram : t.dram = s.dram) (l2 : t.l2 = s.l2) (dies : t.dies = s.dies) (ppa n : Nat) :
    coherentRead t ppa n = coherentRead s ppa n := by
  have line : SameLine s t (lineOf ppa) :=
    ⟨fun d => congrArg (aget? (d, lineOf ppa)) l2, fun d => by rw [State.die, State.die, dies], by rw [dramLine, dramLine, dram]⟩
  rw [coherentRead, coherentRead, coherentLine_of_sectors fun k _ => line.coherentSector k]
theorem walk_of_same (dram : t.dram = s.dram) (l2 : t.l2 = s.l2) (dies : t.dies = s.dies) (e x : Nat) : walk t e x = walk s e x := by
  simp only [walk, leafAddr, coherentRead_of_same dram l2 dies]

theorem bankPageBad_of_delivered {key : Nat × Nat × Nat} (h : Delivered s v key c) (ctx k : Nat) :
    bankPageBad v ctx b c k = bankPageBad s ctx b c k := by
  have walks : ∀ e x, walk v e x = walk s e x :=
    walk_of_same (congrArg State.dram h.only :) (congrArg State.l2 h.only :) (congrArg State.dies h.only :)
  have bufs : ∀ idx, bufOf v ctx idx = bufOf s ctx idx := fun idx => by rw [bufOf, bufOf, (congrArg State.bufs h.only :)]
  have damaged : v.damaged = s.damaged := (congrArg State.damaged h.only :)
  simp only [bankPageBad, bufs, walks, damaged]

theorem deliverNext_delivers {op : Nat} (ready : BankReady s o op b c e) :
    Delivered s (deliverNext s o o.bankAt.2.1 o.bankAt.2.2 c [bcBank c]) (bankKey o c) c ∧
      ∃ w, (deliverNext s o o.bankAt.2.1 o.bankAt.2.2 c [bcBank c]).op? o.id = some w := by
  have listed := (nextBankCmd_listed ready.next).1
  have queued := ready.queued
  unfold deliverNext
  split at queued
  · rename_i delivered
    rw [if_pos delivered]
    refine ⟨⟨rfl, ?_, fun _ _ => rfl⟩, o, listed⟩
    rw [← queued]
    rfl
  · rename_i fresh
    rw [if_neg fresh]
    refine ⟨⟨rfl, ?_, fun k other => State.bank_setBank_ne other ..⟩, ?_⟩
    · refine (State.bank_setBank_same ..).trans ?_
      rw [queued]
      rfl
    · refine ⟨{ o with work := { o.work with count := o.work.next + 1 } }, ?_⟩
      exact State.op_setOp_same (s := [bcBank c].foldl (fun s k => deliverCmd s (o.bankAt.2.1, o.bankAt.2.2, k) c) s)
        (o := { o with work := { o.work with count := o.work.next + 1 } }) listed

/-- A column command whose bank is ready acts there, leaves the bank's queue, and the block goes on. -/
theorem runColumn_ready {op : Nat} (ready : BankReady s o op b c e) (name : String)
    (act : State → (e stack pc bank c : Nat) → State)
    (queue : ∀ v, ((act v e o.bankAt.2.1 o.bankAt.2.2 (bcBank c) c).bank (bankKey o c)).queue = (v.bank (bankKey o c)).queue)
    (ops : ∀ v, (act v e o.bankAt.2.1 o.bankAt.2.2 (bcBank c) c).ops = v.ops) :
    ∃ v, Delivered s v (bankKey o c) c ∧
      let t := (popCmd (act v e o.bankAt.2.1 o.bankAt.2.2 (bcBank c) c) (bankKey o c)).setOp o.stepBank
      runColumn name o.id op s act = .next t ∧ t.op? o.id = some o.stepBank := by
  obtain ⟨delivered, w, listed⟩ := deliverNext_delivers ready
  have banks : bcBanks e c = [bcBank c] := by simp [bcBanks, ready.one]
  generalize reached : deliverNext s o o.bankAt.2.1 o.bankAt.2.2 c [bcBank c] = v at delivered listed
  refine ⟨v, delivered, ?_⟩
  extract_lets t
  have stands : t.op? o.id = some o.stepBank := by
    refine op_stepBank (w := w) ?_
    rw [State.op?, show (popCmd _ _).ops = _ from ops v]
    exact listed
  refine ⟨?_, stands⟩
  have waits : (v.bank (o.bankAt.2.1, o.bankAt.2.2, bcBank c)).queue = [c] := congrArg BankUnit.queue delivered.unit
  have row : (v.bank (o.bankAt.2.1, o.bankAt.2.2, bcBank c)).row = some (bankRow e c) := (congrArg BankUnit.row delivered.unit).trans ready.row
  have good := (bankPageBad_of_delivered (b := b) delivered o.bankAt.1 (bcBank c)).trans ready.page
  have opened : activate v o.bankAt.2.1 o.bankAt.2.2 (bcBank c) (bankRow e c) = v := by
    simp only [activate, row, beq_self_eq_true, Bool.true_or, if_true]
  have popped : ((popCmd (act v e o.bankAt.2.1 o.bankAt.2.2 (bcBank c) c) (bankKey o c)).bank (o.bankAt.2.1, o.bankAt.2.2, bcBank c)).queue = [] := by
    refine (congrArg BankUnit.queue (State.bank_setBank_same ..)).trans ?_
    refine (congrArg List.tail (queue v)).trans ?_
    exact congrArg List.tail waits
  unfold runColumn
  rw [ready.next]
  dsimp only
  rw [ready.buffer]
  dsimp only
  have open_now : ((v.bank (o.bankAt.2.1, o.bankAt.2.2, bcBank c)).row == some (bankRow e c)) = true := by
    rw [row]
    exact beq_self_eq_true _
  have waiting : (!(v.bank (o.bankAt.2.1, o.bankAt.2.2, bcBank c)).queue.isEmpty) = true := by rw [waits]; rfl
  simp only [banks, reached, List.filter_cons, waiting, if_true, List.filter_nil, List.findSome?_cons, good, List.findSome?_nil,
    List.foldl_cons, List.foldl_nil, opened, open_now, List.any_cons, List.any_nil]
  exact congrArg _ (if_neg (by rw [← bankKey] at popped ⊢; rw [popped]; decide))

/-! ## What a command does at its bank -/

section
variable {key : Nat × Nat × Nat}

theorem Delivered.dram (h : Delivered s v key c) : v.dram = s.dram := (congrArg State.dram h.only :)
theorem Delivered.column (h : Delivered s v key c) (k : Nat) : v.rawSector k = s.rawSector k := by
  refine Eq.trans ?_ (congrArg (fun x : State => x.rawSector k) h.only)
  rfl

/-- A register set with one of its operand registers written. -/
def withBv (u : BankUnit) (opr x : Nat) : BankUnit := if opr == 0 then { u with bv0 := x } else { u with bv1 := x }
theorem getBv_withBv (u : BankUnit) (opr x : Nat) : getBv (withBv u opr x) opr = x := by
  unfold getBv withBv
  split <;> rfl
theorem withBv_keeps (u : BankUnit) (opr x : Nat) :
    (withBv u opr x).queue = u.queue ∧ (withBv u opr x).ba = u.ba ∧ (withBv u opr x).row = u.row := by
  unfold withBv
  split <;> exact ⟨rfl, rfl, rfl⟩
theorem bank_setBv (s : State) (k j : Nat × Nat × Nat) (opr x : Nat) :
    (setBv s k opr x).bank j = if j = k then withBv (s.bank k) opr x else s.bank j := by
  by_cases mine : j = k
  · rw [if_pos mine, mine]
    exact State.bank_setBank_same ..
  · rw [if_neg mine]
    exact State.bank_setBank_ne mine ..
theorem popCmd_keeps (s : State) (k j : Nat × Nat × Nat) (opr : Nat) :
    ((popCmd s k).bank j).ba = (s.bank j).ba ∧ getBv ((popCmd s k).bank j) opr = getBv (s.bank j) opr := by
  by_cases mine : j = k
  · rw [mine, show (popCmd s k).bank k = _ from State.bank_setBank_same ..]
    exact ⟨rfl, rfl⟩
  · rw [show (popCmd s k).bank j = _ from State.bank_setBank_ne mine ..]
    exact ⟨rfl, rfl⟩

/-- A value broadcast to the banks of a list. -/
theorem broadcast_gives (s : State) (st pc opr x : Nat) (ks : List Nat) (j : Nat × Nat × Nat) :
    let t := ks.foldl (fun s k => setBv s (st, pc, k) opr x) s
    (t.bank j).queue = (s.bank j).queue ∧
      ((∃ k ∈ ks, j = (st, pc, k)) ∨ getBv (s.bank j) opr = x → getBv (t.bank j) opr = x) := by
  induction ks generalizing s with
  | nil => exact ⟨rfl, fun h => h.resolve_left fun ⟨k, h, _⟩ => nomatch h⟩
  | cons k ks ih =>
    obtain ⟨queue, given⟩ := ih (setBv s (st, pc, k) opr x)
    rw [bank_setBv] at queue given
    refine ⟨queue.trans ?_, fun h => given ?_⟩
    · split
      · rename_i mine
        rw [mine, (withBv_keeps ..).1]
      · rfl
    · split
      · exact .inr (getBv_withBv ..)
      · rename_i other
        exact h.imp_left fun ⟨i, mem, eq⟩ => ⟨i, (List.mem_cons.mp mem).resolve_left fun same => other (same ▸ eq), eq⟩

/-- Accumulators a, a + 1, … written in turn. -/
theorem accumulators_take (s : State) (a : Nat) (f : Nat → Nat) (n : Nat) :
    ((upTo n).foldl (fun s i => setBa s key (a + i) (f i)) s).bank key =
      { s.bank key with ba := (upTo n).foldl (fun l i => l.set (a + i) (BitVec.ofNat 32 (f i))) (s.bank key).ba } := by
  induction n with
  | zero => rfl
  | succ n ih =>
    rw [upTo, List.range_succ, List.foldl_concat, List.foldl_concat]
    refine (State.bank_setBank_same ..).trans ?_
    rw [← upTo, ih]
theorem getElem?_taken (l : List Word) (a : Nat) (f : Nat → Word) (n : Nat) (room : a + n ≤ l.length) {i : Nat} (lt : i < n) :
    ((upTo n).foldl (fun l i => l.set (a + i) (f i)) l)[a + i]? = some (f i) := by
  have length (n : Nat) : ((upTo n).foldl (fun l i => l.set (a + i) (f i)) l).length = l.length :=
    foldl_keeps List.length (fun l i => List.length_set) (upTo n) l
  induction n with
  | zero => omega
  | succ n ih =>
    rw [upTo, List.range_succ, List.foldl_concat, ← upTo]
    by_cases last : i = n
    · rw [last, List.getElem?_set_self (by rw [length]; omega)]
    · rw [List.getElem?_set_ne (by omega), ih (by omega) (by omega)]

end

/-! ## Column commands (R412) -/

/-- What every column command at a ready bank leaves: the block at its next command. -/
abbrev GoesOn (o : Op) (t : State) : Prop := t.op? o.id = some o.stepBank

/-- What BK.BCAST does at its bank. -/
def broadcastColumn (s : State) (e stack pc bank c : Nat) : State :=
  (upTo (2 ^ bufBkLog e)).foldl (fun t k => setBv t (stack, pc, k) (bcOpr c) (colRead s e stack pc bank c)) s

theorem bkBcast_gives (ready : BankReady s o 1 b c e) : ∃ t, exec (.bkBcast o.id) s = .next t ∧ GoesOn o t ∧ t.dram = s.dram ∧
    ∀ k < 2 ^ bufBkLog e, getBv (t.bank (o.bankAt.2.1, o.bankAt.2.2, k)) (bcOpr c) =
      s.rawSector (colAddr e o.bankAt.2.1 o.bankAt.2.2 (bcBank c) c / 32) := by
  have give (v : State) := broadcast_gives v o.bankAt.2.1 o.bankAt.2.2 (bcOpr c)
    (colRead v e o.bankAt.2.1 o.bankAt.2.2 (bcBank c) c) (upTo (2 ^ bufBkLog e))
  have keeps {τ : Type} (read : State → τ) (same : ∀ s k opr x, read (setBv s k opr x) = read s) (v : State) :
      read (broadcastColumn v e o.bankAt.2.1 o.bankAt.2.2 (bcBank c) c) = read v :=
    foldl_keeps read (fun _ _ => same ..) (upTo (2 ^ bufBkLog e)) v
  obtain ⟨v, delivered, ran, on⟩ := runColumn_ready ready "BK_BCAST" broadcastColumn
    (fun v => (give v (bankKey o c)).1) (keeps State.ops fun _ _ _ _ => rfl)
  refine ⟨_, ran, on, (keeps State.dram (fun _ _ _ _ => rfl) v).trans delivered.dram, fun k lt => ?_⟩
  refine (popCmd_keeps _ (bankKey o c) (o.bankAt.2.1, o.bankAt.2.2, k) (bcOpr c)).2.trans ?_
  exact ((give v _).2 (.inl ⟨k, List.mem_range.mpr lt, rfl⟩)).trans (delivered.column _)

/-- A column command that changes the registers of its bank only, by the column that it reads. -/
theorem runColumn_computes {op : Nat} (ready : BankReady s o op b c e) (name : String)
    (act : State → (e stack pc bank c : Nat) → State) (f : BankUnit → Nat → BankUnit)
    (queue : ∀ u x, (f u x).queue = u.queue)
    (gives : ∀ v st pc k, (act v e st pc k c).bank (st, pc, k) = f (v.bank (st, pc, k)) (v.rawSector (colAddr e st pc k c / 32)))
    (ops : ∀ v st pc k, (act v e st pc k c).ops = v.ops) (dram : ∀ v st pc k, (act v e st pc k c).dram = v.dram) :
    ∃ t, runColumn name o.id op s act = .next t ∧ GoesOn o t ∧ t.dram = s.dram ∧
      t.bank (bankKey o c) = { f { s.bank (bankKey o c) with queue := [c] }
        (s.rawSector (colAddr e o.bankAt.2.1 o.bankAt.2.2 (bcBank c) c / 32)) with queue := [] } := by
  have here (v : State) := gives v o.bankAt.2.1 o.bankAt.2.2 (bcBank c)
  obtain ⟨v, delivered, ran, on⟩ := runColumn_ready ready name act (fun v => (congrArg BankUnit.queue (here v)).trans (queue ..))
    fun v => ops v _ _ _
  refine ⟨_, ran, on, (dram v _ _ _).trans delivered.dram, ?_⟩
  have unit : (act v e o.bankAt.2.1 o.bankAt.2.2 (bcBank c) c).bank (bankKey o c) = _ := here v
  have old : v.bank (o.bankAt.2.1, o.bankAt.2.2, bcBank c) = _ := delivered.unit
  rw [delivered.column, old] at unit
  refine (State.bank_setBank_same ..).trans ?_
  rw [unit, queue]
  rfl

theorem bkLdv_gives (ready : BankReady s o 2 b c e) : ∃ t, exec (.bkLdv o.id) s = .next t ∧ GoesOn o t ∧ t.dram = s.dram ∧
    getBv (t.bank (bankKey o c)) (bcOpr c) = s.rawSector (colAddr e o.bankAt.2.1 o.bankAt.2.2 (bcBank c) c / 32) ∧
    (t.bank (bankKey o c)).ba = (s.bank (bankKey o c)).ba := by
  obtain ⟨t, ran, on, dram, unit⟩ := runColumn_computes ready "BK_LDV"
    (fun s e stack pc bank c => setBv s (stack, pc, bank) (bcOpr c) (colRead s e stack pc bank c))
    (fun u x => withBv u (bcOpr c) x) (fun u x => (withBv_keeps ..).1) (fun _ _ _ _ => (bank_setBv ..).trans (if_pos rfl))
    (fun _ _ _ _ => rfl) fun _ _ _ _ => rfl
  refine ⟨t, ran, on, dram, ?_, ?_⟩
  · rw [unit]
    exact getBv_withBv ..
  · rw [unit]
    exact (withBv_keeps ..).2.1

/-- What BK.MAC does at its bank, and the accumulator that it gives. -/
def macValue (u : BankUnit) (c column : Nat) : Nat :=
  floatChunk .f32 (baOf u (bcAcc c)) ((upTo 16).map fun i =>
    mulVals (laneVal (bcFmt c) column i) (laneVal (bcFmt c) (getBv u (bcOpr c)) i))
def macColumn (s : State) (e stack pc bank c : Nat) : State :=
  setBa s (stack, pc, bank) (bcAcc c) (macValue (s.bank (stack, pc, bank)) c (colRead s e stack pc bank c))

theorem bkMac_gives (ready : BankReady s o 3 b c e) : ∃ t, exec (.bkMac o.id) s = .next t ∧ GoesOn o t ∧ t.dram = s.dram ∧
    (t.bank (bankKey o c)).ba = (s.bank (bankKey o c)).ba.set (bcAcc c) (BitVec.ofNat 32
      (macValue (s.bank (bankKey o c)) c (s.rawSector (colAddr e o.bankAt.2.1 o.bankAt.2.2 (bcBank c) c / 32)))) := by
  obtain ⟨t, ran, on, dram, unit⟩ := runColumn_computes ready "BK_MAC" macColumn
    (fun u x => { u with ba := u.ba.set (bcAcc c) (BitVec.ofNat 32 (macValue u c x)) }) (fun _ _ => rfl)
    (fun _ _ _ _ => State.bank_setBank_same ..) (fun _ _ _ _ => rfl) fun _ _ _ _ => rfl
  exact ⟨t, ran, on, dram, congrArg BankUnit.ba unit⟩

/-- What BK.EADD does at its bank, and the accumulator that it gives for lane i. -/
def eaddValue (u : BankUnit) (c column i : Nat) : Nat :=
  floatChunk .f32 (baOf u (bcAcc c + i)) [laneVal (bcFmt c) column i]
theorem eaddValue_queue (u : BankUnit) (q : List Nat) (c x i : Nat) : eaddValue { u with queue := q } c x i = eaddValue u c x i := rfl
def eaddColumn (s : State) (e stack pc bank c : Nat) : State :=
  (upTo 16).foldl (fun t i => setBa t (stack, pc, bank) (bcAcc c + i)
    (eaddValue (s.bank (stack, pc, bank)) c (colRead s e stack pc bank c) i)) s

/-- A bank whose sixteen accumulators have taken their sums. -/
def eaddUnit (u : BankUnit) (c column : Nat) : BankUnit :=
  { u with ba := (upTo 16).foldl (fun l i => l.set (bcAcc c + i) (BitVec.ofNat 32 (eaddValue u c column i))) u.ba }
theorem bank_eaddColumn (s : State) (e st pc k c : Nat) :
    (eaddColumn s e st pc k c).bank (st, pc, k) = eaddUnit (s.bank (st, pc, k)) c (s.rawSector (colAddr e st pc k c / 32)) :=
  accumulators_take (key := (st, pc, k)) s (bcAcc c) (eaddValue (s.bank (st, pc, k)) c (colRead s e st pc k c)) 16
theorem eaddColumn_keeps {τ : Type} (read : State → τ) (same : ∀ s k i x, read (setBa s k i x) = read s) (s : State) (e st pc k c : Nat) :
    read (eaddColumn s e st pc k c) = read s :=
  foldl_keeps read (fun _ _ => same ..) (upTo 16) s

theorem bkEadd_gives (ready : BankReady s o 4 b c e) (room : bcAcc c + 16 ≤ (s.bank (bankKey o c)).ba.length) :
    ∃ t, exec (.bkEadd o.id) s = .next t ∧ GoesOn o t ∧ t.dram = s.dram ∧
    ∀ i < 16, (t.bank (bankKey o c)).ba[bcAcc c + i]? = some (BitVec.ofNat 32
      (eaddValue (s.bank (bankKey o c)) c (s.rawSector (colAddr e o.bankAt.2.1 o.bankAt.2.2 (bcBank c) c / 32)) i)) := by
  obtain ⟨t, ran, on, dram, unit⟩ := runColumn_computes ready "BK_EADD" eaddColumn (fun u x => eaddUnit u c x)
    (fun _ _ => rfl) (fun v st pc k => bank_eaddColumn v e st pc k c)
    (fun v st pc k => eaddColumn_keeps State.ops (fun _ _ _ _ => rfl) v e st pc k c)
    fun v st pc k => eaddColumn_keeps State.dram (fun _ _ _ _ => rfl) v e st pc k c
  refine ⟨t, ran, on, dram, fun i lt => ?_⟩
  have taken := getElem?_taken (s.bank (bankKey o c)).ba (bcAcc c) (fun j => BitVec.ofNat 32
    (eaddValue (s.bank (bankKey o c)) c (s.rawSector (colAddr e o.bankAt.2.1 o.bankAt.2.2 (bcBank c) c / 32)) j)) 16 room lt
  rw [unit]
  dsimp only [eaddUnit]
  simp only [eaddValue_queue]
  exact taken

/-- What BK.STA does at its bank. -/
def staColumn (s : State) (e stack pc bank c : Nat) : State :=
  colWrite s e stack pc bank c (packBits 32 ((upTo 8).map fun i => baOf (s.bank (stack, pc, bank)) (bcAcc c + i)))

theorem bank_colWrite (s : State) (e st pc k c x : Nat) (j : Nat × Nat × Nat) : (colWrite s e st pc k c x).bank j = s.bank j := by
  unfold colWrite
  generalize Memory.write s.dram (colAddr e st pc k c) 32 x = m
  rfl
theorem ops_colWrite (s : State) (e st pc k c x : Nat) : (colWrite s e st pc k c x).ops = s.ops := by
  unfold colWrite
  generalize Memory.write s.dram (colAddr e st pc k c) 32 x = m
  rfl

theorem bank_staColumn (s : State) (e st pc k c : Nat) (j : Nat × Nat × Nat) : (staColumn s e st pc k c).bank j = s.bank j := bank_colWrite ..
theorem ops_staColumn (s : State) (e st pc k c : Nat) : (staColumn s e st pc k c).ops = s.ops := ops_colWrite ..

theorem bank_popCmd (s : State) (k : Nat × Nat × Nat) : (popCmd s k).bank k = { s.bank k with queue := (s.bank k).queue.tail } :=
  State.bank_setBank_same ..

theorem bkSta_stores (ready : BankReady s o 5 b c e) : ∃ t, exec (.bkSta o.id) s = .next t ∧ GoesOn o t ∧
    t.bank (bankKey o c) = { s.bank (bankKey o c) with queue := [] } ∧
    t.dram = Memory.write s.dram (colAddr e o.bankAt.2.1 o.bankAt.2.2 (bcBank c) c) 32
      (packBits 32 ((List.range 8).map fun i => baOf (s.bank (bankKey o c)) (bcAcc c + i))) := by
  obtain ⟨v, delivered, ran, on⟩ := runColumn_ready ready "BK_STA" staColumn
    (fun v => congrArg BankUnit.queue (bank_staColumn ..)) fun v => ops_staColumn ..
  have bank := bank_staColumn v e o.bankAt.2.1 o.bankAt.2.2 (bcBank c) c (bankKey o c)
  have dram : (staColumn v e o.bankAt.2.1 o.bankAt.2.2 (bcBank c) c).dram = Memory.write s.dram
      (colAddr e o.bankAt.2.1 o.bankAt.2.2 (bcBank c) c) 32
      (packBits 32 ((upTo 8).map fun i => baOf (s.bank (bankKey o c)) (bcAcc c + i))) := by
    have unit : v.bank (o.bankAt.2.1, o.bankAt.2.2, bcBank c) = _ := delivered.unit
    rw [staColumn, colWrite]
    dsimp only
    rw [delivered.dram, unit]
    rfl
  generalize staColumn v e o.bankAt.2.1 o.bankAt.2.2 (bcBank c) c = w at ran on bank dram
  refine ⟨_, ran, on, (bank_popCmd w (bankKey o c)).trans ?_, dram⟩
  rw [bank, delivered.unit]
  rfl

theorem bkClr_clears (next : nextBankCmd s o.id 6 = some (o, b, c)) (one : bcAll c = false) : ∃ t, exec (.bkClr o.id) s = .next t ∧
    GoesOn o t ∧ t.dram = s.dram ∧ t.bank (bankKey o c) = clearUnit (s.bank (bankKey o c)) c := by
  have listed := (nextBankCmd_listed next).1
  have banks : (match bufOf s o.bankAt.1 (eaIdx (bkBuf b)) with | some e => bcBanks e c | none => [bcBank c]) = [bcBank c] := by
    split
    · simp [bcBanks, one]
    · rfl
  refine ⟨(s.setBank (bankKey o c) (clearUnit (s.bank (bankKey o c)) c)).setOp o.stepBank, ?_, ?_, rfl, ?_⟩
  · change execBkClr o.id s = _
    unfold execBkClr
    rw [next]
    dsimp only
    refine congrArg _ ?_
    exact congrArg (fun ks : List Nat => (ks.foldl (fun s k => s.setBank (o.bankAt.2.1, o.bankAt.2.2, k)
      (clearUnit (s.bank (o.bankAt.2.1, o.bankAt.2.2, k)) c)) s).setOp o.stepBank) banks
  · exact op_stepBank (t := s.setBank (bankKey o c) _) listed
  · exact State.bank_setBank_same ..

theorem bkSync_goes (next : nextBankCmd s o.id 7 = some (o, b, c)) : exec (.bkSync o.id) s = .next (s.setOp o.stepBank) := by
  change execBkSync o.id s = _
  rw [execBkSync, next]

/-! ## Ports (R414 to R416) -/

theorem bankBlockArrive_queues {ctx st pc ea : Nat} (listed : s.op? o.id = some o) (kind : o.kind = .bank b ea)
    (dest : bankDest s o b = some (ctx, st, pc)) (issued : o.phase = .issued) (turn : bankTurn s o (ctx, st, pc) = true)
    (up : linkDown s (dieOf (coreOf o.slot)) = false) : ∃ t v, exec (.bankBlockArrive o.id) s = .next t ∧
      (t.port (st, pc)).blocks = (s.port (st, pc)).blocks ++ [o.id] ∧ t.op? o.id = some v ∧ v.phase = .queued := by
  let v : Op := { o with phase := .queued, work := { o.work with vals := [ctx, st, pc] } }
  refine ⟨(s.setOp v).setPort (st, pc) { s.port (st, pc) with blocks := (s.port (st, pc)).blocks ++ [o.id] }, v, ?_,
    congrArg Port.blocks (State.port_setPort_same ..), State.op_setOp_same (o := v) listed, rfl⟩
  change execBankBlockArrive o.id s = _
  unfold execBankBlockArrive
  rw [listed]
  dsimp only
  split
  · rename_i b' ea' kind'
    cases kind.symm.trans kind'
    rw [dest]
    dsimp only
    rw [up, if_neg Bool.false_ne_true, issued, turn]
    exact whenEnabled_true ..
  · rename_i other
    exact absurd kind (other _ _)

/-- The registers of a pseudo-channel's sixteen banks are cleared. -/
theorem clearBanks_clears (s : State) (st pc : Nat) {k : Nat} (lt : k < 16) :
    ((clearBanks s st pc).bank (st, pc, k)).ba = List.replicate 32 0#32 ∧ ((clearBanks s st pc).bank (st, pc, k)).bv0 = 0 := by
  have all (n : Nat) (lt : k < n) : ∃ row, ((upTo n).foldl (fun s b => s.setBank (st, pc, b)
      { ({} : BankUnit) with row := (s.bank (st, pc, b)).row }) s).bank (st, pc, k) = { row := row } := by
    induction n with
    | zero => omega
    | succ n ih =>
      rw [upTo, List.range_succ, List.foldl_concat, ← upTo]
      by_cases last : k = n
      · rw [last]
        exact ⟨_, State.bank_setBank_same ..⟩
      · rw [State.bank_setBank_ne (by simpa using last)]
        exact ih (by omega)
  obtain ⟨row, unit⟩ := all 16 lt
  rw [clearBanks, unit]
  exact ⟨rfl, rfl⟩

theorem ops_clearBanks (s : State) (st pc : Nat) : (clearBanks s st pc).ops = s.ops := by
  unfold clearBanks
  refine foldl_keeps State.ops (fun _ _ => ?_) _ s
  rfl

theorem bankBlockStart_runs {ea : Nat} (listed : s.op? o.id = some o) (kind : o.kind = .bank b ea) (queued : o.phase = .queued)
    (first : (s.port o.portKey).blocks.head? = some o.id) (up : s.out (.port o.portKey.1) = false) :
    ∃ t, exec (.bankBlockStart o.id) s = .next t ∧ StandsAt t o .running ∧
      ((s.port o.portKey).lastCtx ≠ some o.bankAt.1 → ∀ k < 16,
        (t.bank (o.bankAt.2.1, o.bankAt.2.2, k)).ba = List.replicate 32 0#32 ∧
        (t.bank (o.bankAt.2.1, o.bankAt.2.2, k)).bv0 = 0) := by
  let u := if (s.port o.portKey).lastCtx == some o.bankAt.1 then s else clearBanks s o.bankAt.2.1 o.bankAt.2.2
  have ops : u.ops = s.ops := by
    unfold u
    split
    · rfl
    · exact ops_clearBanks ..
  have stands : u.op? o.id = some o := by rwa [State.op?, ops]
  refine ⟨(u.setPort o.portKey { s.port o.portKey with lastCtx := some o.bankAt.1 }).setPhase o .running, ?_,
    State.op_setOp_same (o := { o with phase := .running }) (s := u.setPort _ _) stands, fun other k lt => ?_⟩
  · change execBankBlockStart o.id s = _
    unfold execBankBlockStart
    rw [listed]
    dsimp only
    refine if_pos ?_
    rw [kind, queued, show s.port (o.bankAt.2.1, o.bankAt.2.2) = s.port o.portKey from rfl, first,
      show s.out (.port o.bankAt.2.1) = s.out (.port o.portKey.1) from rfl, up]
    simp [OpKind.bankBlk?]
  · change (u.bank _).ba = _ ∧ (u.bank _).bv0 = _
    rw [show u = clearBanks s o.bankAt.2.1 o.bankAt.2.2 from if_neg (by simpa using other)]
    exact clearBanks_clears s _ _ lt

theorem bkMode_sets (next : nextBankCmd s o.id 0 = some (o, b, c)) : ∃ t, exec (.bkMode o.id) s = .next t ∧
    (bcEnter c = false → (t.port o.portKey).allBank = false ∧ GoesOn o t) ∧
    (bcEnter c = true → allBankCount s < s.allBankLimit → (t.port o.portKey).allBank = true ∧ GoesOn o t) := by
  have listed := (nextBankCmd_listed next).1
  have set (on : Bool) : (((setAllBank s o.portKey on).setOp o.stepBank).port o.portKey).allBank = on ∧
      GoesOn o ((setAllBank s o.portKey on).setOp o.stepBank) :=
    ⟨congrArg Port.allBank (State.port_setPort_same s ..), op_stepBank (t := setAllBank s o.portKey on) listed⟩
  refine ⟨_, (by change execBkMode o.id s = _; rw [execBkMode, next]), fun leaves => ?_, fun enters room => ?_⟩
  · rw [if_pos (by rw [leaves]; rfl)]
    exact set false
  · rw [if_neg (by rw [enters]; decide), if_pos room]
    exact set true

theorem allBankAdmit_enters {ea : Nat} (listed : s.op? o.id = some o) (kind : o.kind = .bank b ea) (runs : o.phase = .running)
    (waits : o.work.flag = true) (room : allBankCount s < s.allBankLimit) (up : s.out (.port o.portKey.1) = false) :
    ∃ t, exec (.allBankAdmit o.id) s = .next t ∧ (t.port o.portKey).allBank = true ∧ GoesOn o t := by
  refine ⟨(setAllBank s o.portKey true).setOp o.stepBank, ?_, congrArg Port.allBank (State.port_setPort_same s ..),
    op_stepBank (t := setAllBank s o.portKey true) listed⟩
  change execAllBankAdmit o.id s = _
  unfold execAllBankAdmit
  simp only [listed, kind, runs, waits, room, up, OpKind.bankBlk?, decide_true]
  exact whenEnabled_true ..

theorem flushQueues_keeps {τ : Type} (read : State → τ) (same : ∀ s k x, read (s.setBank k x) = read s) (s : State) (k : Nat × Nat) :
    read (flushQueues s k) = read s := by
  unfold flushQueues
  refine foldl_keeps read (fun t b => ?_) _ s
  dsimp only
  split
  · rfl
  · exact same ..
theorem leavePort_eq (s : State) (o : Op) : leavePort s o = (flushQueues s o.portKey).setPort o.portKey
    { s.port o.portKey with allBank := false, blocks := (s.port o.portKey).blocks.filter (· ≠ o.id) } := rfl

theorem port_of_agree (h : AgreeButOps t s) (k : Nat × Nat) : t.port k = s.port k := by
  rw [State.port, State.port, (congrArg State.ports h :)]

theorem bankBlockDone_retires {ea k : Nat} {p : Party} (oldest : OldestOf s o p k .bk) (kind : o.kind = .bank b ea)
    (runs : o.phase = .running) (all : bkN b ≤ o.work.next) (up : s.out (.port o.portKey.1) = false) :
    ∃ t, exec (.bankBlockDone o.id) s = .next t ∧ Retired t o p k ((p.thread k).uncount .bk) ∧
      (t.port o.portKey).allBank = false ∧ o.id ∉ (t.port o.portKey).blocks := by
  have ops := flushQueues_keeps State.ops (fun _ _ _ => rfl) s o.portKey
  have slots := flushQueues_keeps State.slots (fun _ _ _ => rfl) s o.portKey
  have left : OldestOf (leavePort s o) o p k .bk ∧ (leavePort s o).port o.portKey =
      { s.port o.portKey with allBank := false, blocks := (s.port o.portKey).blocks.filter (· ≠ o.id) } := by
    rw [leavePort_eq]
    generalize flushQueues s o.portKey = v at ops slots
    exact ⟨oldest.of_same ops slots, State.port_setPort_same ..⟩
  obtain ⟨left, port⟩ := left
  have same := port_of_agree (agreeButOps_completeOp (leavePort s o) o.id) o.portKey
  refine ⟨completeOp (leavePort s o) o.id, ?_, ?_, ?_, ?_⟩
  · change execBankBlockDone o.id s = _
    unfold execBankBlockDone
    simp only [oldest.listed, kind, runs, all, up, decide_true]
    exact whenEnabled_true ..
  · rw [completeOp_listed left.listed]
    exact left.complete.1
  · rw [same, port]
  · rw [same, port]
    simp

theorem activateAdmit_opens {st pc bank row : Nat} {rest : List (Nat × Nat × Nat)} (waits : (s.stack st).waiting = (pc, bank, row) :: rest)
    (room : ((s.stack st).admitted.filter fun x => s.ref < x + (s.stack st).twin).length < (s.stack st).actmax) :
    ∃ t, exec (.activateAdmit st) s = .next t ∧ (t.stack st).waiting = rest ∧ (t.bank (st, pc, bank)).row = some row ∧
      s.ref ∈ (t.stack st).admitted ∧ t.dram = s.dram := by
  let k : Stack := { s.stack st with waiting := rest, admitted := (s.stack st).inWindow s.ref ++ [s.ref] }
  have stack : (openRow (s.setStack st k) st pc bank row).stack st = k := State.stack_setStack_same ..
  refine ⟨openRow (s.setStack st k) st pc bank row, ?_, congrArg Stack.waiting stack,
    congrArg BankUnit.row (State.bank_setBank_same ..), ?_, rfl⟩
  · change execActivateAdmit st s = _
    unfold execActivateAdmit
    dsimp only
    rw [waits]
    exact if_pos (decide_eq_true room)
  · rw [stack]
    exact List.mem_append_right _ (List.mem_singleton_self _)

end Sys2Proof.Machine

open Sys2Proof Sys2Proof.Machine

/-- Settles O43: a column command at a ready bank finds itself delivered there alone, acts on that bank's registers and leaves
its queue; the events of a port change the port, the block's phase and the banks that they name. -/
theorem bankCommandsExecute : Obligations.BankCommandsExecute := by
  unfold Obligations.BankCommandsExecute
  intro s o b c e key u column goesOn
  refine ⟨?_, ?_, bkMode_sets, ?_, bkBcast_gives, bkLdv_gives, bkMac_gives, bkEadd_gives, ?_, ?_, bkSync_goes, ?_, ?_⟩
  · exact fun ctx st pc ea listed kind dest issued turn up => bankBlockArrive_queues listed kind dest issued turn up
  · exact fun ea listed kind queued first up => bankBlockStart_runs listed kind queued first up
  · exact fun ea listed kind runs waits room up => allBankAdmit_enters listed kind runs waits room up
  · exact fun ready => bkSta_stores ready
  · intro next one
    obtain ⟨t, ran, on, dram, unit⟩ := bkClr_clears next one
    exact ⟨t, ran, on, dram, congrArg BankUnit.ba unit, congrArg BankUnit.bv0 unit, congrArg BankUnit.bv1 unit⟩
  · exact fun ea p k oldest kind runs all up => bankBlockDone_retires oldest kind runs all up
  · exact fun st pc bank row rest waits room => activateAdmit_opens waits room
end

section
/-! Engine commands that end (11_scratchpad_copies.md R270, R272; 12_tile_engine.md R285; 17_geometry.md R363; 28_fabric.md R486):
a command whose work has gone on, and one that completes or fails without a record. -/

namespace Sys2Proof.Machine

variable {s t : State} {o : Op} {p : Party} {k : Nat} {c : Cls}

/-- The oldest operation of its class stays so as its phase and its work go on. -/
theorem OldestOf.setOp (h : OldestOf s o p k c) (ph : Phase) (w : Work) :
    OldestOf (s.setOp { o with phase := ph, work := w }) { o with phase := ph, work := w } p k c where
  listed := State.op_setOp_same (o := { o with phase := ph, work := w }) h.listed
  party := h.party
  tids := h.tids
  live := h.live
  cls := h.cls
  thread := h.thread
  oldest := (congrArg (List.filter _) (takeWhile_setOp { o with phase := ph, work := w } s.ops) :).trans h.oldest

theorem OldestOf.work (h : OldestOf s o p k c) (w : Work) : OldestOf (s.setOp { o with work := w }) { o with work := w } p k c :=
  h.setOp o.phase w

/-- The threads, the launches and the operations of a state that keeps them. -/
theorem OldestOf.of_threads (h : OldestOf s o p k c) (same : SameThreads s t) : OldestOf t o p k c :=
  h.of_same same.1 same.2.1
theorem SameThreads.op? (same : SameThreads s t) (id : Nat) : t.op? id = s.op? id := by rw [State.op?, same.1]; rfl

/-- A command without a ring that has done its work retires. -/
theorem OldestOf.toPost_done (h : OldestOf s o p k c) (done : o.work.fail = none) (status cause faddr : Nat) :
    Retired (toPost s o 0 status cause faddr) o p k ((p.thread k).uncount c) ∧ (toPost s o 0 status cause faddr).dram = s.dram := by
  have post : toPost s o 0 status cause faddr = retire (s.setPhase o .done) o.id := by
    rw [toPost, if_pos (beq_self_eq_true 0), done]
  rw [post]
  exact h.complete

/-- A command without a ring that has failed retires with its cause. -/
theorem OldestOf.toPost_failed (h : OldestOf s o p k c) {e a i : Nat} (failed : o.work.fail = some (e, a, i)) (can : CanPend s o p k c)
    (unordered : o.kind.orderedAtomic = false) (status cause faddr : Nat) :
    RetiredWith (toPost s o 0 status cause faddr) o p k c e a (o.info i) := by
  have post : toPost s o 0 status cause faddr = retire (s.setPhase o (.failed e a (o.info i))) o.id := by
    have fails : elemFail s o e a i = s.setPhase o (.failed e a (o.info i)) := if_neg (by rw [unordered]; decide)
    rw [toPost, if_pos (beq_self_eq_true 0), failed]
    exact congrArg (retire · o.id) fails
  rw [post]
  exact (h.setPhase (.failed e a (o.info i))).retire_failed rfl can

/-- A memory cause below 0xA0 is reported as the element cause of its engine. -/
theorem engineCause_elem {e : Nat} (low : e < 0xA0) (elem info : Nat) : engineCause elem e info = (elem, info) := by
  have out : (Cause.hwRegf ≤ e && e ≤ Cause.hwLink) = false := by
    rw [Bool.and_eq_false_iff]
    exact .inl (decide_eq_false (Nat.not_le.mpr low))
  rw [engineCause, if_neg (by rw [out]; decide)]

end Sys2Proof.Machine
end

section
/-! Collectives (28_fabric.md R483, R486). -/

namespace Sys2Proof.Machine

variable {s s' t : State} {o : Op} {l : Launch} {d g seg start : Nat}

/-- A command as the collective engine sees it. -/
abbrev collCmd (o : Op) (d g seg start : Nat) : CollCmd := { op := o, desc := d, group := g, segs := segsOf d seg, start := start }

theorem coll?_listed (listed : s.op? o.id = some o) (kind : o.kind = .coll d g seg start) :
    (s.op? o.id).bind Op.coll? = some (collCmd o d g seg start) := by
  rw [listed, Option.bind_some, Op.coll?, kind]

/-! ## Moving -/

/-- Messages of a command change neither the operations nor the time. -/
def Sends (s t : State) : Prop := t.ops = s.ops ∧ t.ref = s.ref
theorem Sends.foldl {α : Type} {f : State → α → State} (h : ∀ s x, Sends s (f s x)) (xs : List α) (s : State) : Sends s (xs.foldl f s) :=
  List.foldlRecOn (motive := Sends s) xs f ⟨rfl, rfl⟩ fun _ ht x _ => ⟨(h _ x).1.trans ht.1, (h _ x).2.trans ht.2⟩

theorem collMove_runs (here : List (CollCmd × CollRead)) (peers : List CollPeer) (out : Option Nat) {c : CollCmd} (ds : List Nat)
    (listed : s.op? c.op.id = some c.op) : ∃ u, (collMove s here peers out (c, .ok ds)).op? c.op.id = some u ∧
      u.phase = .running ∧ u.work.begun = s.ref := by
  have told : Sends s (tellRanks s c 1 (ds.headD 0)) := .foldl (f := fun s p => s.send 11 p (c.word 1 0 (ds.headD 0))) (fun _ _ => ⟨rfl, rfl⟩) _ s
  unfold collMove
  dsimp -zeta only
  extract_lets c' w v w' src
  have sent : Sends s v := by
    unfold v
    split
    · exact told
    · refine .foldl (fun t x => ?_) _ s
      split <;> exact ⟨rfl, rfl⟩
  have stands : v.op? c.op.id = some c.op := by rwa [State.op?, sent.1]
  exact ⟨_, State.op_setOp_same (o := { c.op with phase := .running, work := { w' with begun := v.ref } }) stands, rfl, sent.2⟩

theorem collMatched_runs {peers : List CollPeer} {ds : List Nat} (listed : s.op? o.id = some o) (kind : o.kind = .coll d g seg start)
    (same : SameThreads s s') (here : collHere s (collCmd o d g seg start) = [collCmd o d g seg start])
    (all : collAll s (collCmd o d g seg start) peers = true) (heard : collHeard s (collCmd o d g seg start) = true)
    (matched : collMismatch [collCmd o d g seg start] peers = false)
    (reads : collReads [collCmd o d g seg start] s = .ok ([.ok ds], s')) :
    ∃ t u, exec (.collMatched o.id peers) s = .next t ∧ t.op? o.id = some u ∧ u.phase = .running ∧ u.work.begun = s'.ref := by
  have listed' : s'.op? o.id = some o := (same.op? o.id).trans listed
  have move (out : Option Nat) := collMove_runs [(collCmd o d g seg start, .ok ds)] peers out (c := collCmd o d g seg start) ds listed'
  have ran : ∃ out, exec (.collMatched o.id peers) s =
      .next (collMove s' [(collCmd o d g seg start, .ok ds)] peers out (collCmd o d g seg start, .ok ds)) := by
    change ∃ out, execCollMatched o.id peers s = _
    unfold execCollMatched
    rw [coll?_listed listed kind]
    dsimp only
    rw [here, if_neg (by rw [matched]; decide), reads]
    have go : (collAll s (collCmd o d g seg start) peers &&
        ([collCmd o d g seg start].any fun k => k.op.id == o.id) && [collCmd o d g seg start].all (collHeard s)) = true := by
      simp [all, heard]
    exact ⟨_, if_pos go⟩
  obtain ⟨out, ran⟩ := ran
  obtain ⟨u, listed, phase, begun⟩ := move out
  exact ⟨_, u, ran, listed, phase, begun⟩

/-! ## A halo segment lands -/

/-- The acknowledgement of a segment leaves the memory, and what has landed of every command. -/
theorem ackSender_keeps (s : State) (c : CollCmd) (x : HaloSeg) (o : Op) (listed : s.op? o.id = some o)
    (once : ∀ p ∈ s.ops, p.id = o.id → p = o) : (ackSender s c x).dram = s.dram ∧
    ∃ u, (ackSender s c x).op? o.id = some u ∧ u.work.packets = o.work.packets ∧ u.work.moved = o.work.moved := by
  unfold ackSender
  split
  · exact ⟨rfl, o, listed, rfl, rfl⟩
  · split
    · rename_i k found
      refine ⟨rfl, ?_⟩
      have mem := List.mem_of_find?_eq_some found
      obtain ⟨q, mem, coll⟩ := List.mem_filterMap.mp mem
      have op : k.op = q := by
        unfold Op.coll? at coll
        split at coll
        · cases coll
          rfl
        · cases coll
      by_cases mine : q.id = o.id
      · have eq := once q mem mine
        refine ⟨{ k.op with work := { k.op.work with count := k.op.work.count + 1 } }, ?_, ?_, ?_⟩
        · have id : k.op.id = o.id := by rw [op, mine]
          rw [← id] at listed ⊢
          exact State.op_setOp_same (o := { k.op with work := { k.op.work with count := k.op.work.count + 1 } }) listed
        · rw [op, eq]
        · rw [op, eq]
      · refine ⟨o, ?_, rfl, rfl⟩
        rw [State.op_setOp_ne (by rw [op]; exact fun h => mine h.symm)]
        exact listed
    · exact ⟨rfl, o, listed, rfl, rfl⟩

theorem setOp_once (s : State) (o : Op) : ∀ p ∈ (s.setOp o).ops, p.id = o.id → p = o := by
  intro p mem mine
  obtain ⟨q, _, rfl⟩ := List.mem_map.mp mem
  split
  · rfl
  · rename_i other
    rw [if_neg other] at mine
    exact absurd (beq_iff_eq.mpr mine) other

theorem haloReceive_lands {i segment dst n x y : Nat} {p : Packet} (listed : s.op? o.id = some o) (launch : s.launch? o.lid = some l)
    (kind : o.kind = .coll d g seg start) (same : SameThreads s s') (runs : o.phase = .running) (halo : coKind d = 0)
    (found : o.work.packets.findIdx? (fun p => p.tgt == segment) = some i) (packet : o.work.packets[i]? = some p) (fate : p.fate = 0)
    (local_ : p.gen = none) (part : p.parts = [(dst, n, x)]) (heard : collHeard s (collCmd o d g seg start) = true)
    (written : engWrite s l (opAg s o) dst n x = .ok y s') :
    ∃ t u, exec (.haloReceive o.id segment 0) s = .next t ∧ t.dram = s'.dram ∧ t.op? o.id = some u ∧
      u.work.packets = o.work.packets.set i { p with fate := 1 } ∧ u.work.moved = o.work.moved + n := by
  let v : Op := { o with work := o.work.fated i 1 p }
  have listed' : s'.op? o.id = some o := (same.op? o.id).trans listed
  obtain ⟨dram, u, op, packets, moved⟩ := ackSender_keeps (s'.setOp v) (collCmd o d g seg start)
    ((collCmd o d g seg start).segs.getD segment { src := 0, dst := 0, len := 0, peer := 0, slot := 0 }) v
    (State.op_setOp_same (o := v) listed') (setOp_once s' v)
  refine ⟨_, u, ?_, dram, op, packets, moved.trans ?_⟩
  · change execHaloReceive o.id segment 0 s = _
    unfold execHaloReceive
    rw [coll?_listed listed kind]
    dsimp only
    rw [found, launch]
    dsimp only
    rw [packet]
    dsimp only
    rw [part, local_]
    dsimp only [List.headD_cons, Option.any_none]
    rw [if_neg Bool.false_ne_true, written]
    dsimp only
    refine if_pos ?_
    rw [runs, halo, fate, heard]
    rfl
  · change (if (1 : Nat) == 1 then o.work.moved + p.bytes else o.work.moved) = _
    rw [if_pos (beq_self_eq_true 1), Packet.bytes, part]
    simp

/-! ## Ends -/

section
variable {p : Party} {k : Nat}

theorem collDone_retires (oldest : OldestOf s o p k .cp) (launch : s.launch? o.lid = some l) (kind : o.kind = .coll d g seg start)
    (ring : coRing d = 0) (unstalled : collStalled s o = false) (runs : o.phase = .running) (halo : coKind d = 0)
    (landed : ∀ x ∈ o.work.packets, x.fate = 1) (unflagged : o.work.flag = false) (sent : o.work.next ≤ o.work.count)
    (acks : ∀ i ∈ o.work.aux, i ∈ s.acks) (unsignalled : coSig d = 0) (fine : o.work.fail = none) :
    ∃ t, exec (.collDone o.id) s = .next t ∧ Retired t o p k ((p.thread k).uncount .cp) ∧ t.dram = s.dram := by
  let w : Work := { o.work with packets := o.work.packets, moved := o.work.moved + 0, since := none }
  have retires := (oldest.work w).toPost_done fine 0 0 0
  refine ⟨toPost (s.setOp { o with work := w }) { o with work := w } 0 0 0 0, ?_, retires.1, retires.2⟩
  have signal (n : Nat) : signalOne s l (opAg s o) (coTb d) 0 n = .ok 0 s := if_pos rfl
  have go : (o.phase == .running && !o.work.flag && o.work.next ≤ o.work.count &&
      (!(coKind d == 0) || o.work.packets.all fun p => p.fate == 1) && o.work.aux.all s.acks.contains && !collStalled s o) = true := by
    have packets : (o.work.packets.all fun p => p.fate == 1) = true := List.all_eq_true.mpr fun x h => beq_iff_eq.mpr (landed x h)
    have heard : o.work.aux.all s.acks.contains = true := List.all_eq_true.mpr fun i h => List.contains_iff_mem.mpr (acks i h)
    rw [runs, unflagged, decide_eq_true sent, packets, heard, unstalled, Bool.or_true]
    rfl
  change execCollDone o.id s = _
  unfold execCollDone
  rw [coll?_listed oldest.listed kind]
  dsimp only
  rw [launch]
  dsimp only
  rw [if_pos (by rw [halo]; rfl), unsignalled, ring]
  dsimp only
  rw [signal]
  exact if_pos go

theorem collElem_retires (oldest : OldestOf s o p k .cp) (kind : o.kind = .coll d g seg start) (ring : coRing d = 0)
    (can : CanPend s o p k .cp) {e : Nat} (low : e < 0xA0) (a r : Nat) :
    RetiredWith (collElem s (collCmd o d g seg start) e a r) o p k .cp 0x87 a (o.info (e * 256 + r)) := by
  unfold collElem
  dsimp only
  rw [engineCause_elem low, ring]
  exact (oldest.work { o.work.clear with fail := some (0x87, a, e * 256 + r) }).toPost_failed rfl can (by rw [kind]; rfl) 1 _ a

theorem collTimeout_retires (oldest : OldestOf s o p k .cp) (kind : o.kind = .coll d g seg start) (ring : coRing d = 0)
    (can : CanPend s o p k .cp) (unstalled : collStalled s o = false) (limited : coTmo d ≠ 0) (past : start + 1024 * coTmo d ≤ s.ref)
    (live : o.phase = .issued ∨ o.phase = .running) :
    ∃ t, exec (.collTimeout o.id) s = .next t ∧ RetiredWith t o p k .cp 0x87 0 (o.info 4) := by
  refine ⟨_, ?_, collElem_retires oldest kind ring can (e := 0) (by decide) 0 4⟩
  change execCollTimeout o.id s = _
  unfold execCollTimeout
  rw [coll?_listed oldest.listed kind]
  refine if_pos ?_
  have phase : (o.phase == .issued || o.phase == .running) = true := by
    rcases live with live | live <;> rw [live] <;> rfl
  rw [phase, unstalled, decide_eq_true past, show (coTmo d != 0) = true by simpa using limited]
  rfl

theorem collFault_retires (oldest : OldestOf s o p k .cp) (kind : o.kind = .coll d g seg start) (ring : coRing d = 0)
    (can : CanPend s o p k .cp) (unstalled : collStalled s o = false) {e a r : Nat} (fails : o.phase = .failing e a r) (low : e < 0xA0) :
    ∃ t, exec (.collFault o.id) s = .next t ∧ RetiredWith t o p k .cp 0x87 a (o.info (e * 256 + r)) := by
  refine ⟨_, ?_, collElem_retires oldest kind ring can low a r⟩
  change execCollFault o.id s = _
  unfold execCollFault
  rw [coll?_listed oldest.listed kind]
  dsimp only
  rw [fails]
  exact if_pos (by rw [unstalled]; rfl)

end

end Sys2Proof.Machine

open Sys2Proof Sys2Proof.Machine

/-- Settles O44: a matched command's messages leave its operation to be set moving; an acknowledgement changes only how many its
sender has; the ends go through the engines' common end. -/
theorem collectivesMoveAndRetire : Obligations.CollectivesMoveAndRetire := by
  unfold Obligations.CollectivesMoveAndRetire
  intro s s' o l d g seg start listed launch kind same c
  refine ⟨?_, ?_, fun p k oldest ring unstalled => ⟨?_, fun can => ⟨?_, ?_⟩⟩⟩
  · exact fun peers ds here all heard matched reads => collMatched_runs listed kind same here all heard matched reads
  · exact fun i segment dst n x y p runs halo found packet fate local_ part heard written =>
      haloReceive_lands listed launch kind same runs halo found packet fate local_ part heard written
  · exact fun runs halo landed unflagged sent acks unsignalled fine =>
      collDone_retires oldest launch kind ring unstalled runs halo landed unflagged sent acks unsignalled fine
  · exact fun limited past live => collTimeout_retires oldest kind ring can unstalled limited past live
  · exact fun e a r fails low => collFault_retires oldest kind ring can unstalled fails low
end

section
/-! Geometry commands (17_geometry.md R363, R365, R366, R368, R370). -/

namespace Sys2Proof.Machine

variable {s s1 s' : State} {o : Op} {l : Launch} {opc d lay : Nat}

/-! ## The start -/

theorem geometryStart_runs {w : Work} (listed : s.op? o.id = some o) (launch : s.launch? o.lid = some l) (kind : o.kind = .geom opc d lay)
    (unstalled : geomStalled s o opc = false) (issued : o.phase = .issued) (ready : o.ready s = true)
    (starts : geomStart s o l opc d lay = .ok w s') :
    exec (.geometryStart o.id) s = .next (s'.setOp { o with phase := .running, work := w }) := by
  change execGeometryStart o.id s = _
  unfold execGeometryStart
  rw [listed]
  dsimp only
  split
  · rename_i opc' d' lay' l' kind' launch'
    cases kind.symm.trans kind'
    cases launch.symm.trans launch'
    rw [starts]
    dsimp only
    rw [unstalled, ready, issued]
    exact whenEnabled_true ..
  · rename_i other
    exact absurd launch (other _ _ _ _ kind)

/-- Which engine starts a command. -/
theorem geomStart_eq (s : State) (o : Op) (l : Launch) (opc d lay : Nat) :
    let g : GeoCx := { launch := l, ag := opAg s o, version := geVersion opc d }
    geomStart s o l opc d lay = match opc with | 0x72 => cutStart g s d | 0x73 => rastStart g s d lay | _ => rayStart g s d := by
  unfold geomStart
  induction @cutStart using of_forall with | _ cutStart
  induction @rastStart using of_forall with | _ rastStart
  induction @rayStart using of_forall with | _ rayStart
  dsimp only
  by_cases cut : opc = 0x72
  · subst cut
    rfl
  · by_cases rast : opc = 0x73
    · subst rast
      rfl
    · rw [if_neg (show ¬(opc == opCutsel) = true by rw [beq_iff_eq]; exact cut),
        if_neg (show ¬(opc == opRast) = true by rw [beq_iff_eq]; exact rast)]
      split
      · exact absurd rfl cut
      · exact absurd rfl rast
      · rfl

/-! ## Ends -/

section
variable {p : Party} {k : Nat}

/-- A geometry command without a signal and without a ring retires once its results stand. -/
theorem geomEnd_retires (oldest : OldestOf s o p k .gx) (ring : geRing opc d = 0) (unsignalled : geSig opc d = 0)
    (w : Work) (fine : w.fail = none) (name : String) : ∃ t,
    geomEnd name s { o with work := w } l opc d true = .next t ∧ Retired t o p k ((p.thread k).uncount .gx) ∧ t.dram = s.dram := by
  have retires := (oldest.work w.clear).toPost_done fine 0 0 0
  refine ⟨_, ?_, retires.1, retires.2⟩
  have signal (g : Ag) (n : Nat) : signalOne s l g (geTb opc d) 0 n = .ok 0 s := if_pos rfl
  rw [geomEnd, unsignalled, ring, signal]
  exact whenEnabled_true ..

/-- The header of a cut list is that of the work's entries, whatever the request that comes next. -/
theorem cutHeader_of_same {w v : Work} (aux : v.aux = w.aux) (packets : v.packets = w.packets) (s : State) (l : Launch) (g : Ag) (d : Nat) :
    cutHeader s l g d v = cutHeader s l g d w := by
  rw [show @cutHeader = delta% @cutHeader from rfl]
  beta_reduce
  rw [aux, packets]
theorem geomStep_ok (name : String) (o : Op) (go : Bool) (reason x : Nat) (t : State) (next : State → Host.Outcome State Fault Refusal) :
    geomStep name o go reason (.ok x t) next = next t := rfl

theorem cutselDone_retires {x y n : Nat} {ps : List Packet} (oldest : OldestOf s o p k .gx) (launch : s.launch? o.lid = some l)
    (kind : o.kind = .geom 0x72 d lay) (same : SameThreads s s') (unstalled : geomStalled s o 0x72 = false) (ring : geRing 0x72 d = 0)
    (runs : o.phase = .running) (fine : o.work.fail = none) (unsignalled : geSig 0x72 d = 0) (requests : geSring d = 0)
    (units : writeUnits l (opAg s o) o.work.packets s = (ps, n, .ok x s1))
    (header : cutHeader s1 l (opAg s o) d { o.work with packets := ps, moved := o.work.moved + n } = .ok y s') :
    ∃ t, exec (.cutselDone o.id) s = .next t ∧ Retired t o p k ((p.thread k).uncount .gx) ∧ t.dram = s'.dram := by
  let w : Work := { o.work with next := o.work.next, reserved := none, packets := ps, moved := 64 + 16 * ps.length }
  obtain ⟨t, ends, retired⟩ := geomEnd_retires (l := l) (oldest.of_threads same) ring unsignalled w fine "CUTSEL_DONE"
  refine ⟨t, ?_, retired⟩
  have written := (cutHeader_of_same (v := { o.work with next := o.work.next, reserved := none, packets := ps, moved := o.work.moved + n })
    (w := { o.work with packets := ps, moved := o.work.moved + n }) rfl rfl s1 l (opAg s o) d).trans header
  have go : (o.phase == .running && (0x72 : Nat) == opCutsel && !geomStalled s o 0x72) = true := by
    rw [runs, unstalled]
    rfl
  change execCutselDone o.id s = _
  unfold execCutselDone
  rw [oldest.listed]
  dsimp only
  split
  · rename_i opc' d' lay' l' kind' launch'
    cases kind.symm.trans kind'
    cases launch.symm.trans launch'
    rw [go, if_pos (by rw [requests]; rfl), postReqs]
    dsimp only
    rw [geomStep_ok, units]
    dsimp only
    rw [geomStep_ok, written, geomStep_ok]
    exact ends
  · rename_i other
    exact absurd launch (other _ _ _ _ kind)

theorem rastDone_retires {y n : Nat} (oldest : OldestOf s o p k .gx) (launch : s.launch? o.lid = some l)
    (kind : o.kind = .geom 0x73 d lay) (same : SameThreads s s') (unstalled : geomStalled s o 0x73 = false) (ring : geRing 0x73 d = 0)
    (runs : o.phase = .running) (fine : o.work.fail = none) (unsignalled : geSig 0x73 d = 0)
    (mins : pixelMins l (opAg s o) (geTbase d) ((o.work.vals.zip o.work.aux).drop o.work.next) o.work.next s = (n, .ok y s')) :
    ∃ t, exec (.rastDone o.id) s = .next t ∧ Retired t o p k ((p.thread k).uncount .gx) ∧ t.dram = s'.dram := by
  obtain ⟨t, ends, retired⟩ := geomEnd_retires (l := l) (oldest.of_threads same) ring unsignalled
    { o.work with next := n, moved := 8 * n } fine "RAST_DONE"
  refine ⟨t, ?_, retired⟩
  have go : (o.phase == .running && (0x73 : Nat) == opRast && !geomStalled s o 0x73) = true := by
    rw [runs, unstalled]
    rfl
  change execRastDone o.id s = _
  unfold execRastDone
  rw [oldest.listed]
  dsimp only
  split
  · rename_i opc' d' lay' l' kind' launch'
    cases kind.symm.trans kind'
    cases launch.symm.trans launch'
    rw [go, mins]
    exact ends
  · rename_i other
    exact absurd launch (other _ _ _ _ kind)

theorem rayqDone_retires {y : Nat} (oldest : OldestOf s o p k .gx) (launch : s.launch? o.lid = some l)
    (kind : o.kind = .geom 0x74 d lay) (same : SameThreads s s') (runs : o.phase = .running)
    (hit : engWrite s l (opAg s o) (geHit d) 32 (o.work.vals.headD 0) = .ok y s') :
    ∃ t, exec (.rayqDone o.id) s = .next t ∧ Retired t o p k ((p.thread k).uncount .gx) ∧ t.dram = s'.dram := by
  have retires := (oldest.of_threads same).complete
  refine ⟨_, ?_, retires.1, retires.2⟩
  change execRayqDone o.id s = _
  unfold execRayqDone
  rw [oldest.listed]
  dsimp only
  split
  · rename_i opc' d' lay' l' kind' launch'
    cases kind.symm.trans kind'
    cases launch.symm.trans launch'
    rw [hit]
    dsimp only
    rw [runs, completeOp_listed (oldest.of_threads same).listed]
    exact whenEnabled_true ..
  · rename_i other
    exact absurd launch (other _ _ _ _ kind)

theorem geomStalled_work (s : State) (o : Op) (w : Work) (opc : Nat) : geomStalled s { o with work := w } opc = geomStalled s o opc := rfl

theorem geometryFault_retires {e a r : Nat} (oldest : OldestOf s o p k .gx) (kind : o.kind = .geom 0x73 d lay)
    (unstalled : geomStalled s o 0x73 = false) (ring : geRing 0x73 d = 0) (fails : o.phase = .failing e a r) (low : e < 0xA0)
    (can : CanPend s o p k .gx) :
    ∃ t, exec (.geometryFault o.id) s = .next t ∧ RetiredWith t o p k .gx 0x8D a (o.info (e * 256 + r)) := by
  refine ⟨_, ?_, (oldest.work { o.work.clear with fail := some (0x8D, a, e * 256 + r) }).toPost_failed rfl can (by rw [kind]; rfl) 1 0x8D a⟩
  change execGeometryFault o.id s = _
  unfold execGeometryFault
  rw [oldest.listed]
  dsimp only
  split
  · rename_i opc' d' lay' e' a' r' kind' fails'
    cases kind.symm.trans kind'
    cases fails.symm.trans fails'
    rw [engineCause_elem low, geomStalled_work, unstalled, ring]
    exact whenEnabled_true ..
  · rename_i other
    exact absurd fails (other _ _ _ _ _ _ kind)

end

end Sys2Proof.Machine

open Sys2Proof Sys2Proof.Machine

/-- Settles O42: a start's reads give the work that runs; each end writes its results in order, then meets no signal and no ring. -/
theorem geometryCommandsRunAndRetire : Obligations.GeometryCommandsRunAndRetire := by
  unfold Obligations.GeometryCommandsRunAndRetire
  intro s s1 s' o l opc d lay listed launch kind same unstalled g
  refine ⟨fun w issued ready starts => ?_, fun p k oldest ring => ⟨fun runs fine unsignalled => ⟨?_, ?_, ?_⟩, ?_⟩⟩
  · refine geometryStart_runs listed launch kind unstalled issued ready ?_
    exact (geomStart_eq s o l opc d lay).trans starts
  · rintro x y ps n rfl requests units header
    exact cutselDone_retires oldest launch kind same unstalled ring runs fine unsignalled requests units header
  · rintro y n rfl mins
    exact rastDone_retires oldest launch kind same unstalled ring runs fine unsignalled mins
  · rintro y rfl hit
    exact rayqDone_retires oldest launch kind same runs hit
  · rintro e a r fails low rfl can
    exact geometryFault_retires oldest kind unstalled ring fails low can
end

section
/-! Copies, layout loads and gathers (11_scratchpad_copies.md R268 to R273; 07_memory_access.md R176, R178). -/

namespace Sys2Proof.Machine

variable {s s' : State} {o : Op} {l : Launch}

/-! ## Copies run (R270, R271) -/

section
variable {opc d q lay : Nat} {pfx ins : Word} {tgts : List Target}

theorem copyStart_runs {ps : List Packet} (listed : s.op? o.id = some o) (launch : s.launch? o.lid = some l)
    (kind : o.kind = .copy opc d pfx ins q lay tgts) (unstalled : copyStalled s o = false) (issued : o.phase = .issued)
    (ready : o.ready s = true) (party : (s.party? o.slot).isSome = true) (starts : cpStart s o l opc d lay tgts = .ok ps s') :
    exec (.copyStart o.id) s = .next (s'.setOp { o with phase := .running, work := { o.work.clear with packets := ps } }) := by
  change execCopyStart o.id s = _
  unfold execCopyStart
  rw [listed]
  dsimp only
  split
  · rename_i kind' launch'
    cases kind.symm.trans kind'
    cases launch.symm.trans launch'
    rw [starts]
    dsimp only
    rw [unstalled, ready, issued, party]
    exact whenEnabled_true ..
  · rename_i other
    exact absurd launch (other _ _ _ _ _ _ _ _ kind)

/-- A packet of one part has the bytes of that part. -/
theorem bytes_of_part {p : Packet} {a n x : Nat} (part : p.parts = [(a, n, x)]) : p.bytes = n := by
  rw [Packet.bytes, part]
  exact Nat.zero_add n

variable {i core a n x : Nat} {p : Packet}

theorem copyWritePacket_writes (listed : s.op? o.id = some o) (launch : s.launch? o.lid = some l)
    (kind : o.kind = .copy opc d pfx ins q lay tgts) (unstalled : copyStalled s o = false) (runs : o.phase = .running)
    (packet : o.work.packets[i]? = some p) (fate : p.fate = 0) (target : p.core = some core) (part : p.parts = [(a, n, x)])
    (live : packetLive s p = true) : ∃ t u, exec (.copyWritePacket o.id i) s = .next t ∧
      (t.core core).scr = Memory.write (s.core core).scr a n x ∧ t.op? o.id = some u ∧
      u.work.packets = o.work.packets.set i { p with fate := 1 } ∧ u.work.moved = o.work.moved + n := by
  let u : Op := { o with work := o.work.fated i 1 p }
  refine ⟨(scrWrite s core a n x).setOp u, u, ?_, congrArg Core.scr (State.core_setCore_same ..),
    State.op_setOp_same (o := u) (s := scrWrite s core a n x) listed, rfl, ?_⟩
  · change execCopyWritePacket o.id i s = _
    unfold execCopyWritePacket
    rw [listed]
    dsimp only
    split
    · rename_i kind' launch' packet'
      cases launch.symm.trans launch'
      cases packet.symm.trans packet'
      rw [live, if_neg (by decide), part, target]
      dsimp only [writeParts]
      refine if_pos ?_
      rw [unstalled, runs, fate]
      rfl
    · rename_i other
      exact absurd packet (other _ _ _ _ _ _ _ _ _ kind launch)
  · rw [← bytes_of_part part]
    change (if (1 : Nat) == 1 then o.work.moved + p.bytes else o.work.moved) = _
    exact if_pos (beq_self_eq_true 1)

theorem copyWritePacket_drops (listed : s.op? o.id = some o) (launch : s.launch? o.lid = some l)
    (kind : o.kind = .copy opc d pfx ins q lay tgts) (unstalled : copyStalled s o = false) (runs : o.phase = .running)
    (packet : o.work.packets[i]? = some p) (fate : p.fate = 0) (target : p.core = some core) (late : packetLive s p = false) :
    ∃ t u, exec (.copyWritePacket o.id i) s = .next t ∧
      (t.core core).scr = (s.core core).scr ∧ (t.core core).latew = min ((s.core core).latew + 1) (2 ^ 32 - 1) ∧
      t.op? o.id = some u ∧ u.work.packets = o.work.packets.set i { p with fate := 2 } ∧ u.work.moved = o.work.moved := by
  let u : Op := { o with work := o.work.fated i 2 p }
  have counted : ((lateWrite s core).setOp u).core core = { s.core core with latew := min ((s.core core).latew + 1) (2 ^ 32 - 1) } :=
    State.core_setCore_same ..
  refine ⟨(lateWrite s core).setOp u, u, ?_, by rw [counted], by rw [counted],
    State.op_setOp_same (o := u) (s := lateWrite s core) listed, rfl,
    show (if (2 : Nat) == 1 then o.work.moved + p.bytes else o.work.moved) = _ from if_neg (by decide)⟩
  change execCopyWritePacket o.id i s = _
  unfold execCopyWritePacket
  rw [listed]
  dsimp only
  split
  · rename_i kind' launch' packet'
    cases launch.symm.trans launch'
    cases packet.symm.trans packet'
    rw [late, if_pos (by decide), target]
    refine if_pos ?_
    rw [unstalled, runs, fate]
    rfl
  · rename_i other
    exact absurd packet (other _ _ _ _ _ _ _ _ _ kind launch)

/-! ## Copies end (R268, R270, R272, R273) -/

variable {party : Party} {k : Nat}

theorem copyDone_retires (oldest : OldestOf s o party k .cp) (launch : s.launch? o.lid = some l)
    (kind : o.kind = .copy opc d pfx ins q lay tgts) (unstalled : copyStalled s o = false) (ring : cpRing d = 0) (runs : o.phase = .running)
    (settled : ∀ x ∈ o.work.packets, x.fate ≠ 0) (unsignalled : cpSig d = 0) (fine : o.work.fail = none) :
    ∃ t, exec (.copyDone o.id) s = .next t ∧ Retired t o party k ((party.thread k).uncount .cp) := by
  refine ⟨_, ?_, ((oldest.work o.work.clear).toPost_done fine (if o.work.dropped.isEmpty then 0 else 2) 0 0).1⟩
  have signal : cpSignal s o l opc d tgts = (o.work, .ok 0 s) := by
    have one (n : Nat) : signalOne s l (opAg s o) (cpTb d) 0 n = .ok 0 s := if_pos rfl
    rw [cpSignal, unsignalled, one]
    exact if_neg (by simp)
  have all : (o.work.packets.all fun p => p.fate != 0) = true := List.all_eq_true.mpr fun x h => by simpa using settled x h
  change execCopyDone o.id s = _
  unfold execCopyDone
  rw [oldest.listed]
  dsimp only
  split
  · rename_i kind' launch'
    cases kind.symm.trans kind'
    cases launch.symm.trans launch'
    rw [signal]
    dsimp only
    rw [all, unstalled, runs, ring]
    exact whenEnabled_true ..
  · rename_i other
    exact absurd launch (other _ _ _ _ _ _ _ _ kind)

theorem copyFault_retires {e ea r : Nat} (oldest : OldestOf s o party k .cp) (kind : o.kind = .copy opc d pfx ins q lay tgts)
    (unstalled : copyStalled s o = false) (ring : cpRing d = 0) (fails : o.phase = .failing e ea r) (low : e < 0xA0)
    (can : CanPend s o party k .cp) :
    ∃ t, exec (.copyFault o.id) s = .next t ∧ RetiredWith t o party k .cp 0x81 ea (o.info (e * 256 + r)) := by
  refine ⟨_, ?_, (oldest.work { o.work.clear with fail := some (0x81, ea, e * 256 + r) }).toPost_failed rfl can (by rw [kind]; rfl) 1 0x81 ea⟩
  have same (w : Work) : copyStalled s { o with work := w } = copyStalled s o := rfl
  change execCopyFault o.id s = _
  unfold execCopyFault
  rw [oldest.listed]
  dsimp only
  split
  · rename_i kind' fails'
    cases kind.symm.trans kind'
    cases fails.symm.trans fails'
    rw [engineCause_elem low, same, unstalled, ring]
    exact whenEnabled_true ..
  · rename_i other
    exact absurd fails (other _ _ _ _ _ _ _ _ _ _ kind)

theorem ringPost_retires {st c fa m : Nat} {r : Option Nat} (oldest : OldestOf s o party k .cp)
    (kind : o.kind = .copy opc d pfx ins q lay tgts) (same : SameThreads s s') (posts : o.phase = .post st c fa) (fine : o.work.fail = none)
    (unstalled : o.work.reserved = none → postStalled s o = false)
    (posted_ : postFrom s (postAg s o) (ringOf s o) o.work.reserved fa o.work.moved o.tag st c = (r, .ok m s')) :
    ∃ t, exec (.ringPost o.id) s = .next t ∧ Retired t o party k ((party.thread k).uncount .cp) ∧ t.dram = s'.dram := by
  have retires := (oldest.of_threads same).complete
  have post : postOp s o st c fa = (r, .ok m s') := by
    have tags : o.tagBytes = (o.tag, o.work.moved) := by rw [Op.tagBytes, kind]
    rw [← posted_, postOp, tags]
    simp only [kind]
  have ends : posted s' o = retire (s'.setPhase o .done) o.id := by
    rw [posted, kind, if_neg (show ¬(OpKind.copy opc d pfx ins q lay tgts).isReport = true from nofun), fine]
  have go : (!reportBefore s o && (o.work.reserved.isSome || !postStalled s o)) = true := by
    have first : reportBefore s o = false := by rw [reportBefore, kind]
    rw [first]
    cases room : o.work.reserved with
    | none => rw [unstalled room]; rfl
    | some n => rfl
  refine ⟨_, ?_, retires.1, retires.2⟩
  change execRingPost o.id s = _
  unfold execRingPost
  rw [oldest.listed]
  dsimp only
  split
  · rename_i posts'
    cases posts.symm.trans posts'
    rw [post]
    dsimp only
    rw [go, kind]
    dsimp only
    rw [ends]
    exact whenEnabled_true ..
  · rename_i other
    exact absurd posts (other _ _ _)

end

/-! ## Layout loads (R260) and gathers (07 R176, R178) -/

section
variable {party : Party} {k : Nat}

theorem lrldReadDone_loads {h ea r : Nat} (oldest : OldestOf s o party k .cp) (launch : s.launch? o.lid = some l)
    (kind : o.kind = .lrld h ea) (same : SameThreads s s') (issued : o.phase = .issued) (ready : o.ready s = true)
    (read : readEa s (opAg s o) ea 128 = .ok r s') (good : layOk l.fmtSlot r = true) :
    ∃ t, exec (.lrldReadDone o.id) s = .next t ∧ Retired t o party k ((party.thread k).uncount .cp) ∧
      t.launch? o.lid = some { l with layouts := setAt none l.layouts h (some r) } := by
  let m : Launch := { l with layouts := setAt none l.layouts h (some r) }
  have here : s'.launch? o.lid = some l := by
    rw [State.launch?, same.2.2]
    exact launch
  have loaded : OldestOf (s'.setLaunch m) o party k .cp := (oldest.of_threads same).of_same rfl rfl
  have agrees : (completeOp (s'.setLaunch m) o.id).launches = (s'.setLaunch m).launches :=
    (congrArg State.launches (agreeButOps_completeOp (s'.setLaunch m) o.id) :)
  refine ⟨completeOp (s'.setLaunch m) o.id, ?_, ?_, ?_⟩
  · change execLrldReadDone o.id s = _
    unfold execLrldReadDone
    revert read
    induction @readEa using of_forall with | _ readEa
    intro read
    rw [oldest.listed]
    dsimp only
    split
    · rename_i kind' launch'
      cases kind.symm.trans kind'
      cases launch.symm.trans launch'
      rw [issued]
      dsimp only
      rw [read]
      dsimp only
      rw [if_pos good, ready]
      exact whenEnabled_true ..
    · rename_i other
      exact absurd launch (other _ _ _ kind)
  · rw [completeOp_listed loaded.listed]
    exact loaded.complete.1
  · refine Eq.trans (by rw [State.launch?, agrees]; rfl) ((State.launch_setLaunch s' m o.lid).trans ?_)
    rw [here, Option.map_some, if_pos (beq_self_eq_true l.lid)]

/-- A gather without an arrival word advances none. -/
theorem gatArrive_nothing {d : Nat} (s : State) (kind : o.kind = .gather d none) : gatArrive s o = s := by
  rw [show @gatArrive = delta% @gatArrive from rfl]
  beta_reduce
  induction @rmwEa using of_forall with | _ rmwEa
  split
  · rename_i kind' _
    cases kind.symm.trans kind'
  · rfl

theorem gatherDone_retires {d : Nat} (oldest : OldestOf s o party k .gx) (kind : o.kind = .gather d none)
    (same : SameThreads s s') (ready : gatReady s o = true) (ran : gatExec s o = some (.done s')) :
    ∃ t, exec (.gatherDone o.id) s = .next t ∧ Retired t o party k ((party.thread k).uncount .gx) ∧ t.dram = s'.dram := by
  have retires := (oldest.of_threads same).complete
  have arrived := gatArrive_nothing s' kind
  refine ⟨_, ?_, retires.1, retires.2⟩
  change execGatherDone o.id s = _
  unfold execGatherDone
  rw [oldest.listed]
  dsimp only
  rw [ran]
  dsimp only
  rw [arrived, ready, completeOp_listed (oldest.of_threads same).listed]
  exact whenEnabled_true ..

theorem gatherFault_retires {d e ea i : Nat} (oldest : OldestOf s o party k .gx) (kind : o.kind = .gather d none)
    (same : SameThreads s s') (ready : gatReady s o = true) (ran : gatExec s o = some (.fault e ea i s')) (low : e < 0xA0)
    (can : CanPend s o party k .gx) :
    ∃ t, exec (.gatherFault o.id) s = .next t ∧ RetiredWith t o party k .gx 0x89 ea (o.info i) := by
  have there := oldest.of_threads same
  have fails : elemFail s' o 0x89 ea i = s'.setPhase o (.failed 0x89 ea (o.info i)) := if_neg (by rw [kind]; exact nofun)
  have issued : o.phase = .issued := by
    simp only [gatReady, Bool.and_eq_true, beq_iff_eq] at ready
    exact ready.1.1
  have pend : CanPend s' o party k .gx := ⟨can.1, by rw [State.slot, same.2.1]; exact can.2⟩
  refine ⟨retire (elemFail s' o 0x89 ea i) o.id, ?_, ?_⟩
  · change execGatherFault o.id s = _
    unfold execGatherFault
    rw [oldest.listed]
    dsimp only
    split
    · rename_i fails' _
      cases issued.symm.trans fails'
    · rw [ran]
      dsimp only
      rw [engineCause_elem low, ready]
      exact whenEnabled_true ..
  · rw [fails]
    exact (there.setPhase (.failed 0x89 ea (o.info i))).retire_failed rfl pend

end

end Sys2Proof.Machine

open Sys2Proof Sys2Proof.Machine

/-- Settles O40: a copy's packets meet their fates one by one; a command whose reads and writes are done goes through the engines'
common end. -/
theorem copiesRunAndRetire : Obligations.CopiesRunAndRetire := by
  unfold Obligations.CopiesRunAndRetire
  intro s s' o l listed launch same
  refine ⟨fun opc d pfx ins q lay tgts kind => ⟨?_, ?_, ?_, ?_⟩, ?_, ?_⟩
  · exact fun ps unstalled issued ready party starts => copyStart_runs listed launch kind unstalled issued ready party starts
  · exact fun i p core a n x unstalled runs packet fate target part =>
      ⟨copyWritePacket_writes listed launch kind unstalled runs packet fate target part,
        copyWritePacket_drops listed launch kind unstalled runs packet fate target⟩
  · exact fun p k unstalled oldest ring =>
      ⟨fun runs settled unsignalled fine => copyDone_retires oldest launch kind unstalled ring runs settled unsignalled fine,
        fun c ea r fails low can => copyFault_retires oldest kind unstalled ring fails low can⟩
  · exact fun p k st c fa n r oldest posts fine unstalled post => ringPost_retires oldest kind same posts fine unstalled post
  · exact fun h ea r p k kind issued ready oldest read good => lrldReadDone_loads oldest launch kind same issued ready read good
  · exact fun d p k kind ready oldest =>
      ⟨fun ran => gatherDone_retires oldest kind same ready ran, fun c ea i ran low can => gatherFault_retires oldest kind same ready ran low can⟩
end

section
/-! Tile commands and shadow references (12_tile_engine.md R276, R283 to R285, R290 to R296). -/

namespace Sys2Proof.Machine

variable {s t : State} {o : Op} {l : Launch} {opc b ea ov : Nat}

/-! ## The queue (R276) -/

theorem tileAccept_queues (listed : s.op? o.id = some o) (launch : s.launch? o.lid = some l) (kind : o.kind = .tile opc b ea ov)
    (issued : o.phase = .issued) (turn : tileTurn s o = true) (room : (s.core (coreOf o.slot)).tileQ.length < 4)
    (charge : (s.core (coreOf o.slot)).tileT.sum + tileCharge l opc b ov ≤ 4096) :
    ∃ t u, exec (.tileAccept o.id) s = .next t ∧
      (t.core (coreOf o.slot)).tileQ = (s.core (coreOf o.slot)).tileQ ++ [o.id] ∧
      (t.core (coreOf o.slot)).tileT = (s.core (coreOf o.slot)).tileT ++ [tileCharge l opc b ov] ∧
      t.op? o.id = some u ∧ u.phase = .queued := by
  let c := s.core (coreOf o.slot)
  let counted := shadowCount s (coreOf o.slot) l opc b
  let c' : Core := { c with
    tileQ := c.tileQ ++ [o.id]
    tileT := c.tileT ++ [tileCharge l opc b ov]
    shadow := if counted.1 == 0 then c.shadow else aset l.lid counted.1 c.shadow }
  let u : Op := { o with phase := .queued, work := { o.work with count := counted.2 } }
  have core : ((s.setCore (coreOf o.slot) c').setOp u).core (coreOf o.slot) = c' := State.core_setCore_same ..
  refine ⟨(s.setCore (coreOf o.slot) c').setOp u, u, ?_, by rw [core], by rw [core],
    State.op_setOp_same (o := u) (s := s.setCore (coreOf o.slot) c') listed, rfl⟩
  have sum : c.tileT.foldl (· + ·) (tileCharge l opc b ov) ≤ 4096 := by
    have total (xs : List Nat) (x : Nat) : xs.foldl (· + ·) x = xs.sum + x := by
      induction xs generalizing x with
      | nil => exact (Nat.zero_add x).symm
      | cons y xs ih => rw [List.foldl_cons, ih, List.sum_cons]; omega
    rw [total]
    exact charge
  change execTileAccept o.id s = _
  unfold execTileAccept
  rw [listed]
  dsimp only
  split
  · rename_i kind' launch'
    cases kind.symm.trans kind'
    cases launch.symm.trans launch'
    refine if_pos ?_
    rw [issued, turn, decide_eq_true room, decide_eq_true sum]
    rfl
  · rename_i other
    exact absurd launch (other _ _ _ _ _ kind)

/-! ## The start (R290, R291) -/

theorem tileStart_takes (listed : s.op? o.id = some o) (launch : s.launch? o.lid = some l) (kind : o.kind = .tile opc b ea ov)
    (unstalled : tileStalled s o = false) (queued : o.phase = .queued) (head : (s.core (coreOf o.slot)).tileQ.head? = some o.id)
    (ready : o.ready s = true) : exec (.tileStart o.id) s = .next (match tileFailure s o l opc b ov with
      | some (c, a) => s.setOp { o with phase := .failing c a 1, work := o.work.clear }
      | none => if opc == opMdrn then runDrain s o l b else runMul s o l opc b ov) := by
  change execTileStart o.id s = _
  unfold execTileStart
  induction @tileFailure using of_forall with | _ tileFailure
  induction @runDrain using of_forall with | _ runDrain
  induction @runMul using of_forall with | _ runMul
  rw [listed]
  dsimp only
  split
  · rename_i kind' launch'
    cases kind.symm.trans kind'
    cases launch.symm.trans launch'
    refine if_pos ?_
    rw [queued, head, ready, unstalled]
    simp
  · rename_i other
    exact absurd launch (other _ _ _ _ _ kind)

/-- A multiply that no shadow counts puts C in part into the accumulator memory, its result into the operation. -/
theorem runMul_eq {m : Mul} (unshadowed : o.work.count = 0) (mul : mulOf? s o l opc b ov = some m) : runMul s o l opc b ov =
    (accWrite s (coreOf o.slot) (tbCoff b) (tbM b * tbN b * accSize (tbAcc b))
      (packBits (8 * accSize (tbAcc b)) (m.partialResult s (coreOf o.slot) b))).setOp
      { o with phase := .running, work := { o.work with moved := tbM b * tbN b * accSize (tbAcc b), vals := m.result s (coreOf o.slot) b } } := by
  have none : (o.work.count == 0) = true := by rw [unshadowed]; rfl
  unfold runMul
  rw [mul]
  dsimp only
  rw [if_pos none]

theorem tileStart_runs {m : Mul} (listed : s.op? o.id = some o) (launch : s.launch? o.lid = some l) (kind : o.kind = .tile opc b ea ov)
    (multiplies : opc ≠ 0x6F) (unstalled : tileStalled s o = false) (queued : o.phase = .queued)
    (head : (s.core (coreOf o.slot)).tileQ.head? = some o.id) (ready : o.ready s = true) (unshadowed : o.work.count = 0)
    (sound : tileFailure s o l opc b ov = none) (mul : mulOf? s o l opc b ov = some m) :
    ∃ t u, exec (.tileStart o.id) s = .next t ∧ (t.core (coreOf o.slot)).tileQ = (s.core (coreOf o.slot)).tileQ ∧
      t.op? o.id = some u ∧ u.phase = .running ∧ u.work.vals = m.result s (coreOf o.slot) b ∧
      (t.core (coreOf o.slot)).acc = Memory.write (s.core (coreOf o.slot)).acc (tbCoff b) (tbM b * tbN b * accSize (tbAcc b))
        (packBits (8 * accSize (tbAcc b)) (m.partialResult s (coreOf o.slot) b)) := by
  have ran := tileStart_takes listed launch kind unstalled queued head ready
  have other : ¬(opc == opMdrn) = true := by rw [beq_iff_eq]; exact multiplies
  rw [sound] at ran
  dsimp only at ran
  rw [if_neg other, runMul_eq unshadowed mul] at ran
  generalize packBits (8 * accSize (tbAcc b)) (m.partialResult s (coreOf o.slot) b) = part at ran ⊢
  generalize m.result s (coreOf o.slot) b = whole at ran ⊢
  let u : Op := { o with phase := .running, work := { o.work with moved := tbM b * tbN b * accSize (tbAcc b), vals := whole } }
  let t := accWrite s (coreOf o.slot) (tbCoff b) (tbM b * tbN b * accSize (tbAcc b)) part
  have core : t.core (coreOf o.slot) = _ := State.core_setCore_same ..
  refine ⟨t.setOp u, u, ran, (congrArg Core.tileQ core :), State.op_setOp_same (o := u) (s := t) listed, rfl, rfl, (congrArg Core.acc core :)⟩

/-! ## The end (R285, R291, R293, R296) -/

/-- A core without shadow references has none to cut off. -/
theorem cutShadow_nothing (none : (s.core (coreOf o.slot)).shadows = []) : cutShadow s o = s := by
  rw [cutShadow]
  split
  · rw [cutShadows]
    split
    · rfl
    · rw [none]
      rfl
  · rfl

/-- What leaves the engine's queue. -/
theorem leaveTile_eq {core op : Nat} (head : (s.core core).tileQ.head? = some op) :
    leaveTile s core op = s.setCore core { s.core core with tileQ := (s.core core).tileQ.tail, tileT := (s.core core).tileT.tail } := by
  rw [leaveTile, head]
  exact if_pos (beq_self_eq_true _)
theorem leaveTile_keeps (s : State) (core op : Nat) : (leaveTile s core op).ops = s.ops ∧ (leaveTile s core op).slots = s.slots ∧
    ((leaveTile s core op).core core).shadows = (s.core core).shadows := by
  rw [leaveTile]
  split
  · exact ⟨rfl, rfl, by rw [State.core_setCore_same]⟩
  · exact ⟨rfl, rfl, rfl⟩

section
variable {p : Party} {k : Nat}

/-- A multiply without a signal has nothing left to do once C stands. -/
theorem tileEnd_multiply (multiplies : opc ≠ 0x6F) (written : o.work.packets = []) (unsignalled : tbSig b = 0) (s : State) (l : Launch) :
    tileEnd s o l opc b = ({ o with work := { o.work with packets := [], moved := o.work.moved + 0, flag := true } }, 2, .ok 0 s) := by
  have other : (opc == opMdrn) = false := beq_eq_false_iff_ne.mpr multiplies
  have ea : tileSigEa opc b = 0 := by
    rw [tileSigEa, unsignalled]
    exact if_neg (by rw [other]; exact Bool.false_ne_true)
  have merge (g : Ag) (o : Op) : tileMerge s g l o opc b = .ok 0 s := if_pos (by rw [bne, other]; rfl)
  have signal (g : Ag) (n : Nat) : signalOne s l g (tbSigTb b) 0 n = .ok 0 s := if_pos rfl
  rw [tileEnd, written, writeUnits]
  dsimp only
  rw [merge, ea]
  dsimp only
  rw [signal]

/-- A completed command without a ring changes nothing but operations and threads. -/
theorem OldestOf.toPost_agrees {c : Cls} (h : OldestOf s o p k c) (done : o.work.fail = none) (status cause faddr : Nat) :
    AgreeButOps (toPost s o 0 status cause faddr) s := by
  have post : toPost s o 0 status cause faddr = completeOp s o.id := by
    rw [toPost, if_pos (beq_self_eq_true 0), done, completeOp_listed h.listed]
  rw [post]
  exact agreeButOps_completeOp s o.id

/-- The result of a multiply stands in C, and the engine's queue moves on. -/
structure Finished (s v : State) (core b : Nat) (vals : List Nat) : Prop where
  only : CoresOnly s v
  queue : (v.core core).tileQ = (s.core core).tileQ.tail
  acc : (v.core core).acc = Memory.write (s.core core).acc (tbCoff b) (tbM b * tbN b * accSize (tbAcc b))
    (packBits (8 * accSize (tbAcc b)) vals)
  shadows : (v.core core).shadows = (s.core core).shadows

theorem finishMul_finishes (result : o.work.vals ≠ []) (head : (s.core (coreOf o.slot)).tileQ.head? = some o.id) :
    Finished s (finishMul s o b) (coreOf o.slot) b o.work.vals := by
  rw [finishMul, if_neg (by simpa using result)]
  dsimp only
  generalize result_eq : packBits (8 * accSize (tbAcc b)) o.work.vals = x
  have written : (accWrite s (coreOf o.slot) (tbCoff b) (tbM b * tbN b * accSize (tbAcc b)) x).core (coreOf o.slot) = _ :=
    State.core_setCore_same ..
  rw [leaveTile_eq (by rw [written]; exact head)]
  refine ⟨(coresOnly_setCore s ..).trans (coresOnly_setCore ..), ?_, ?_, ?_⟩
  · rw [State.core_setCore_same, written]
  · rw [State.core_setCore_same, written, result_eq]
  · rw [State.core_setCore_same, written]

theorem tileRunDone_retires (oldest : OldestOf s o p k .tl) (launch : s.launch? o.lid = some l) (kind : o.kind = .tile opc b ea ov)
    (ring : tbRing b = 0) (unshadowed : (s.core (coreOf o.slot)).shadows = []) (multiplies : opc ≠ 0x6F)
    (unstalled : tileStalled s o = false) (runs : o.phase = .running) (written : o.work.packets = []) (unsignalled : tbSig b = 0)
    (fine : o.work.fail = none) (result : o.work.vals ≠ []) (head : (s.core (coreOf o.slot)).tileQ.head? = some o.id) :
    ∃ t, exec (.tileRunDone o.id) s = .next t ∧ Retired t o p k ((p.thread k).uncount .tl) ∧ t.dram = s.dram ∧
      (t.core (coreOf o.slot)).tileQ = (s.core (coreOf o.slot)).tileQ.tail ∧
      (t.core (coreOf o.slot)).acc = Memory.write (s.core (coreOf o.slot)).acc (tbCoff b) (tbM b * tbN b * accSize (tbAcc b))
        (packBits (8 * accSize (tbAcc b)) o.work.vals) := by
  obtain ⟨only, queue, acc, shadows⟩ := finishMul_finishes (b := b) result head
  let o1 : Op := { o with work := { o.work with vals := [] } }
  have ends := tileEnd_multiply (o := o1) multiplies written unsignalled ((finishMul s o b).setOp o1) l
  have left : OldestOf (finishMul s o b) o p k .tl := oldest.of_same (congrArg State.ops only :) (congrArg State.slots only :)
  let w : Work := { o1.work with packets := [], moved := o1.work.moved + 0, flag := true, since := none }
  have there : OldestOf (((finishMul s o b).setOp o1).setOp { o1 with work := w }) { o1 with work := w } p k .tl :=
    (left.work o1.work).work w
  have uncut : cutShadow (((finishMul s o b).setOp o1).setOp { o1 with work := w }) { o1 with work := w } =
      ((finishMul s o b).setOp o1).setOp { o1 with work := w } :=
    cutShadow_nothing (o := { o1 with work := w }) (shadows.trans unshadowed)
  have retires := there.toPost_done fine 0 0 0
  have agrees := there.toPost_agrees fine 0 0 0
  have core : (toPost (((finishMul s o b).setOp o1).setOp { o1 with work := w }) { o1 with work := w } 0 0 0 0).core (coreOf o.slot) =
      (finishMul s o b).core (coreOf o.slot) := by
    rw [State.core, (congrArg State.cores agrees :)]
    rfl
  refine ⟨_, ?_, retires.1, retires.2.trans (congrArg State.dram only :), by rw [core]; exact queue, by rw [core]; exact acc⟩
  change execTileRunDone o.id s = _
  unfold execTileRunDone
  rw [oldest.listed]
  dsimp only
  split
  · rename_i kind' launch'
    cases kind.symm.trans kind'
    cases launch.symm.trans launch'
    rw [if_neg (by rw [beq_iff_eq]; exact multiplies)]
    dsimp only
    rw [ends]
    dsimp only
    rw [unstalled, ring]
    refine (if_pos (by rw [runs]; rfl)).trans ?_
    exact congrArg (fun s => Host.Outcome.next (toPost s { o1 with work := w } 0 0 0 0)) uncut
  · rename_i other
    exact absurd launch (other _ _ _ _ _ kind)

theorem tileFault_retires {e a r : Nat} (oldest : OldestOf s o p k .tl) (kind : o.kind = .tile opc b ea ov)
    (ring : tbRing b = 0) (unshadowed : (s.core (coreOf o.slot)).shadows = []) (fails : o.phase = .failing e a r) (low : e < 0xA0)
    (unstalled : tileStalled s o = false) (can : CanPend s o p k .tl) :
    ∃ t, exec (.tileFault o.id) s = .next t ∧ RetiredWith t o p k .tl 0x83 a (o.info (e * 256 + r)) := by
  obtain ⟨ops, slots, shadows⟩ := leaveTile_keeps s (coreOf o.slot) o.id
  let w : Work := { o.work.clear with fail := some (0x83, a, e * 256 + r) }
  have left : OldestOf (leaveTile s (coreOf o.slot) o.id) o p k .tl := oldest.of_same ops slots
  have pend : CanPend (leaveTile s (coreOf o.slot) o.id) o p k .tl := ⟨can.1, by rw [State.slot, slots]; exact can.2⟩
  have uncut : cutShadow ((leaveTile s (coreOf o.slot) o.id).setOp { o with work := w }) { o with work := w } =
      (leaveTile s (coreOf o.slot) o.id).setOp { o with work := w } :=
    cutShadow_nothing (o := { o with work := w }) (shadows.trans unshadowed)
  refine ⟨_, ?_, (left.work w).toPost_failed rfl pend (by rw [kind]; rfl) 1 0x83 a⟩
  change execTileFault o.id s = _
  unfold execTileFault
  rw [oldest.listed]
  dsimp only
  split
  · rename_i kind' fails'
    cases kind.symm.trans kind'
    cases fails.symm.trans fails'
    rw [engineCause_elem low]
    dsimp only
    rw [unstalled, ring]
    refine (if_pos rfl).trans ?_
    exact congrArg (fun s => Host.Outcome.next (toPost s { o with work := w } 0 1 0x83 a)) uncut
  · rename_i other
    exact absurd fails (other _ _ _ _ _ _ _ kind)

end

/-! ## Shadow references (R293, R294) -/

theorem shadowReferenceDone_reports {core : Nat} {x : Shadow} (inside : core < 128) (listed : x ∈ (s.core core).shadows)
    (only : ∀ c < 128, ∀ y ∈ (s.core c).shadows, y.op = x.op → c = core ∧ y = x) :
    exec (.shadowReferenceDone x.op) s = .next (postRing
      (s.setCore core { s.core core with shadows := (s.core core).shadows.filter fun y => y.op ≠ x.op })
      core x.lid 4 (x.devs.foldl max 0) x.count x.tag 4 0) := by
  have found : ((upTo 128).findSome? fun c => ((s.core c).shadows.find? fun y => y.op == x.op).map fun y => (c, y)) = some (core, x) := by
    cases search : (upTo 128).findSome? fun c => ((s.core c).shadows.find? fun y => y.op == x.op).map fun y => (c, y) with
    | none =>
      have here := List.findSome?_eq_none_iff.mp search core (List.mem_range.mpr inside)
      have nowhere := List.find?_eq_none.mp (Option.map_eq_none_iff.mp here) x listed
      exact absurd (beq_self_eq_true _) nowhere
    | some e =>
      obtain ⟨c, mem, here⟩ := List.exists_of_findSome?_eq_some search
      obtain ⟨y, found, rfl⟩ := Option.map_eq_some_iff.mp here
      obtain ⟨rfl, rfl⟩ := only c (List.mem_range.mp mem) y (List.mem_of_find?_eq_some found) (by simpa using List.find?_some found)
      rfl
  change execShadowReferenceDone x.op s = _
  rw [execShadowReferenceDone, found]
  rfl

end Sys2Proof.Machine

open Sys2Proof Sys2Proof.Machine

/-- Settles O41: a start either fails or puts C in part; the end finishes C, leaves the queue and goes through the engines' common
end, where no shadow reference is there to be cut off. -/
theorem tileCommandsRunAndRetire : Obligations.TileCommandsRunAndRetire := by
  unfold Obligations.TileCommandsRunAndRetire
  intro s o l opc b ea ov listed launch kind core c
  refine ⟨?_, ?_, ?_, fun p k oldest ring unshadowed => ⟨?_, ?_⟩, ?_⟩
  · exact fun issued turn room charge => tileAccept_queues listed launch kind issued turn room charge
  · exact fun m multiplies unstalled queued head ready unshadowed sound mul =>
      tileStart_runs listed launch kind multiplies unstalled queued head ready unshadowed sound mul
  · intro e a fails unstalled queued head ready
    have ran := tileStart_takes listed launch kind unstalled queued head ready
    rw [fails] at ran
    exact ran
  · exact fun multiplies unstalled runs written unsignalled fine result head =>
      tileRunDone_retires oldest launch kind ring unshadowed multiplies unstalled runs written unsignalled fine result head
  · exact fun e a r fails low unstalled can => tileFault_retires oldest kind ring unshadowed fails low unstalled can
  · exact fun core x inside listed only => shadowReferenceDone_reports inside listed only
end

section
/-! Engine commands at their issue (11_scratchpad_copies.md R260, R262, R266; 12_tile_engine.md R277, R278; 17_geometry.md R363,
R365, R368; 07_memory_access.md R175; 21_bank_arithmetic.md R407, R408; 28_fabric.md R481; 06_control_wait_crosslane.md R134). -/

namespace Sys2Proof.Machine

variable {s s' : State} {i : Instr} {cx : Cx} {k : Nat} {cls : Cls} {kind : OpKind}

/-! ## One thread issues a command -/

/-- Its group does not change an operation but in its work. -/
theorem engineOp_issued (cx : Cx) (s : State) (tids : List Nat) (cls : Cls) (kind : OpKind) :
    AgreeButOps (cx.engineOp s tids cls kind) s ∧ (cx.engineOp s tids cls kind).seq = s.seq + 1 ∧
    (cx.engineOp s tids cls kind).slots = s.slots ∧ (cx.engineOp s tids cls kind).ops.map Op.issued = s.ops.map Op.issued ++
      [{ id := s.seq, slot := cx.slot, tids := tids, live := tids, cls := some cls, kind := kind, phase := .issued }] := by
  refine ⟨rfl, rfl, rfl, ?_⟩
  have same (o : Op) : Op.issued (if o.id == s.seq then { o with work := { o.work with group := cx.tids } } else o) = o.issued := by
    split <;> rfl
  rw [Cx.engineOp]
  dsimp only
  rw [List.map_map]
  exact (List.map_congr_left fun o _ => same o).trans List.map_append

theorem slots_setParty_of {t : State} (same : t.slots = s.slots) (k : Nat) (q : Party) : (t.setParty k q).slots = (s.setParty k q).slots := by
  rw [State.setParty, State.setParty, State.setSlot, State.setSlot, State.slot, State.slot, same]

theorem RunsOne.party (h : RunsOne s i cx k) : s.party? cx.slot = some cx.party := cx_party h.context

/-- A lane engine command of one thread that its checks pass. -/
theorem engineEach_issues {f : Cx → State → Nat → View → Thread → Opnds → State × EngRes} {p : Party} (h : RunsOne s i cx k)
    (turn : f cx s k (cx.view s.ref k) (cx.party.thread k) (cx.operands s k) = (s', .go kind)) (after : s'.party? cx.slot = some p)
    (thread : p.thread k = cx.party.thread k) : CommandIssued s' (cx.engineEach s cls f) { cx with party := p } k cls kind := by
  obtain ⟨agrees, seq, slots, ops⟩ := engineOp_issued cx s' [k] cls kind
  have each : cx.engineEach s cls f =
      (cx.engineOp s' [k] cls kind).setParty cx.slot (p.setThread k (cx.issuedOne cls (cx.party.thread k))) := by
    refine each_single h.single h.party ?_ (by rw [party?_of_slots slots]; exact after)
    have turn' : f cx s k (cx.view s.ref k) (cx.party.thread k) (cx.opnds (cx.view s.ref k)) = (s', .go kind) := turn
    rw [if_pos h.enabled, turn']
    dsimp only
    rw [advance_inside h.inside]
    rfl
  rw [each]
  refine ⟨agrees, seq, ?_, ops⟩
  rw [thread]
  exact slots_setParty_of slots cx.slot _

theorem runEngine_issues {f : Cx → State → Nat → View → Thread → Opnds → State × EngRes} {p : Party} (h : RunsOne s i cx k)
    (turn : f cx s k (cx.view s.ref k) (cx.party.thread k) (cx.operands s k) = (s', .go kind)) (after : s'.party? cx.slot = some p)
    (thread : p.thread k = cx.party.thread k) :
    ∃ t, runEngine s i cls f = .next t ∧ CommandIssued s' t { cx with party := p } k cls kind :=
  ⟨_, runWord_issues h.toIssues _, engineEach_issues h turn after thread⟩

/-- The same, where its reads leave the slots as they were. -/
theorem runEngine_commands {f : Cx → State → Nat → View → Thread → Opnds → State × EngRes} (h : RunsOne s i cx k)
    (slots : s'.slots = s.slots)
    (turn : f cx s k (cx.view s.ref k) (cx.party.thread k) (cx.operands s k) = (s', .go kind)) :
    ∃ t, runEngine s i cls f = .next t ∧ CommandIssued s' t cx k cls kind :=
  runEngine_issues (p := cx.party) h turn ((party?_of_slots slots cx.slot).trans h.party) rfl

/-! ## Copies, layout loads and segments -/

/-- The fields of a context are those of its instruction. -/
theorem cx_fields (h : cx? s i = some cx) : ∃ opc, fieldsOf i = some (opc, cx.d, cx.a, cx.b) := by
  unfold cx? at h
  repeat (split at h <;> try cases h)
  exact ⟨_, by assumption⟩

section
variable {x : Nat}

/-- The word of an instruction is its four bytes. -/
theorem word_of_bytes (opc d a b : BitVec 8) :
    BitVec.ofNat 32 (opc.toNat * 2 ^ 24 + d.toNat * 2 ^ 16 + a.toNat * 2 ^ 8 + b.toNat) = opc ++ d ++ a ++ b := by
  apply BitVec.eq_of_toNat_eq
  rw [BitVec.toNat_append, BitVec.toNat_append, BitVec.toNat_append, ← Nat.shiftLeft_add_eq_or_of_lt b.isLt,
    ← Nat.shiftLeft_add_eq_or_of_lt a.isLt, ← Nat.shiftLeft_add_eq_or_of_lt d.isLt, BitVec.toNat_ofNat]
  simp only [Nat.shiftLeft_eq]
  have := opc.isLt
  have := d.isLt
  have := a.isLt
  have := b.isLt
  omega

theorem agreeButOps_setParty (s : State) (k : Nat) (p : Party) : AgreeButOps (s.setParty k p) s := rfl

theorem runCopy_issues {opc : BitVec 8} {d a b : BitVec 8} (h : Captures s i cx k (cx.ea (cx.operands s k).a 16) 48 16 s' x)
    (fields : fieldsOf i = some (opc, d, a, b)) (good : cpBad cx.launch opc.toNat x = none)
    (ranges : (if cpLinear opc.toNat x then cpLinRanges s' cx.launch opc.toNat x else cpTileRanges s' cx.launch opc.toNat x) = none) :
    ∃ t, runCopy s i opc.toNat = .next t ∧
      CommandIssued s' t { cx with party := { cx.party with copySeq := (cx.party.copySeq + 1) % 2 ^ 32 } } k .cp
        (copyKind s' cx.launch.lid cx.party.blin opc.toNat x (cx.issue.pfx.getD 0#32) (opc ++ d ++ a ++ b) cx.party.copySeq) := by
  obtain ⟨opc', same⟩ := cx_fields h.context
  obtain ⟨rfl, rfl, rfl, rfl⟩ : opc = opc' ∧ d = cx.d ∧ a = cx.a ∧ b = cx.b := by
    simpa using fields.symm.trans same
  have party : s'.party? cx.slot = some cx.party := (party?_of_slots h.slots cx.slot).trans h.toRunsOne.party
  have read := h.read
  obtain ⟨t, ran, agrees, seq, slots, ops⟩ : ∃ t, runCopy s i opc.toNat = .next t ∧ CommandIssued
      (s'.setParty cx.slot { cx.party with copySeq := (cx.party.copySeq + 1) % 2 ^ 32 }) t
      { cx with party := { cx.party with copySeq := (cx.party.copySeq + 1) % 2 ^ 32 } } k .cp
      (copyKind s' cx.launch.lid cx.party.blin opc.toNat x (cx.issue.pfx.getD 0#32) (opc ++ cx.d ++ cx.a ++ cx.b)
        cx.party.copySeq) := by
    rw [← word_of_bytes]
    refine runEngine_issues h.toRunsOne ?_ (State.party_setParty_same ..) rfl
    rw [read]
    simp only [good, ranges, party]
  refine ⟨t, ran, (agreeButOps_setParty ..).trans agrees, seq, slots.trans ?_, ops⟩
  rw [State.setParty_setParty]

end

theorem execLrld_issues {d a b : BitVec 8} (h : RunsOne s (.lrld d a b) cx k) (above : cx.launch.nstat ≤ (cx.operands s k).d)
    (below : (cx.operands s k).d < cx.launch.nstat + cx.launch.ndyn)
    (allowed : checkEa s cx.launch { size := 128, align := 128, r := true, acc := false } (cx.operands s k).a = none) :
    ∃ t, execLrld d a b s = .next t ∧ CommandIssued s t cx k .cp (.lrld (cx.operands s k).d (cx.operands s k).a) := by
  refine runEngine_commands h rfl ?_
  rw [if_neg (by simp; omega), allowed]

/-! ### CFETCH -/

theorem setSegSt_slots (s : State) (core lid seg : Nat) (st : SegSt) : (setSegSt s core lid seg st).slots = s.slots := rfl

theorem segApply_absent {core lid seg : Nat} (absent : (segAt s core lid seg).st = .absent) (id : Nat) :
    segApply s core lid seg id false = setSegSt s core lid seg .fetching := by
  rw [segApply, absent]
  rfl

theorem execCfetch_issues {d a : BitVec 8} (h : RunsOne s (.cfetch d a 0#8) cx k) (thread : k < cx.party.threads.length)
    (below : (cx.operands s k).a < 64) (resides : bitOf cx.launch.segMap (cx.operands s k).a = true)
    (absent : (segAt s cx.core cx.party.lid (cx.operands s k).a).st = .absent)
    (room : segUse s cx.core cx.party.lid < cx.launch.segBud) :
    ∃ t, execCfetch d a 0#8 s = .next t ∧ CommandIssued (setSegSt s cx.core cx.party.lid (cx.operands s k).a .fetching) t cx k .cf
      (.cfetch (cx.operands s k).a false) := by
  let u := (cx.party.thread k).count .cf
  let s1 := s.setParty cx.slot (cx.party.setThread k u)
  let s2 := s1.addOp cx.slot cx.party.lid [k] (some .cf) cx.pc (.cfetch (cx.operands s k).a false) []
  let s3 := setSegSt s2 cx.core cx.party.lid (cx.operands s k).a .fetching
  have party : s3.party? cx.slot = some (cx.party.setThread k u) := State.party_setParty_same ..
  have inRange : (decide (64 ≤ (cx.operands s k).a) || !bitOf cx.launch.segMap (cx.operands s k).a) = false := by
    simp [resides]; omega
  have operands : cx.opnds (cx.view s.ref k) = cx.operands s k := rfl
  refine ⟨_, (runWord_issues h.toIssues _).trans
    (congrArg _ (each_single (s' := s3) (u := u.jump cx.npc) h.single h.party ?_ party)), ?_, rfl, ?_, ?_⟩
  · rw [if_pos h.enabled, operands]
    extract_lets segment drop fresh counted id listed applied left
    rw [if_neg (by rw [inRange]; exact Bool.false_ne_true), if_neg (by simp [Nat.not_le.mpr room])]
    have counts : counted = s1 := by
      rw [show counted = match s.party? cx.slot with | some p => s.setParty cx.slot (p.setThread k u) | none => s from rfl, h.party]
    have applies : applied = s3 := by
      rw [show applied = segApply (counted.addOp cx.slot cx.party.lid [k] (some .cf) cx.pc (.cfetch segment drop) [])
        cx.core cx.party.lid segment counted.seq drop from rfl, counts]
      exact segApply_absent (s := s2) absent _
    have leaves : left = u := by
      rw [show left = match applied.party? cx.slot with | some p => p.thread k | none => u from rfl, applies, party]
      exact Party.thread_setThread_same _ _ _ thread
    rw [applies, leaves, advance_inside h.inside]
  · rfl
  · rw [Party.setThread_setThread, slots_setParty_of (show s3.slots = s1.slots from rfl), State.setParty_setParty]
    exact slots_setParty_of (setSegSt_slots ..).symm ..
  · exact List.map_append

/-! ## Tile commands -/

section
variable {x : Nat}

theorem runTile_issues {opc : Nat} (h : Captures s i cx k (cx.ea (cx.operands s k).a 64) 64 64 s' x)
    (good : tileCheck s' cx.launch opc x (cx.ea (cx.operands s k).a 64) 0 = none) :
    ∃ t, runTile s i opc = .next t ∧ CommandIssued s' t cx k .tl (.tile opc x (cx.ea (cx.operands s k).a 64) 0) := by
  have read := h.read
  refine runEngine_commands h.toRunsOne h.slots ?_
  extract_lets ea
  rw [show cx.record s k (cx.party.thread k) ea 64 64 = _ from read]
  simp only [ea, good]

theorem execPlane_issues {d a b : BitVec 8} (h : Runs s (.plane d a b) cx)
    (allowed : checkEa s cx.launch { size := 64, align := 64, r := true, acc := false } (cx.operands s (cx.tids.headD 0)).a = none)
    (read : cx.readRecord s cx.tids (cx.tids.headD 0) (cx.party.thread (cx.tids.headD 0)) (cx.operands s (cx.tids.headD 0)).a 64 true =
      (s', .ok x))
    (good : tileCheck s' cx.launch opPlane x (cx.operands s (cx.tids.headD 0)).a (cx.operands s (cx.tids.headD 0)).b = none) :
    ∃ t, execPlane d a b s = .next t ∧ AgreeButOps t s' ∧ t.seq = s'.seq + 1 ∧
      t.slots = (cx.goes s' cx.party fun _ u => cx.issuedOne .tl u).slots ∧
      t.ops.map Op.issued = s'.ops.map Op.issued ++
        [{ id := s'.seq, slot := cx.slot, tids := cx.tids, live := cx.tids, cls := some .tl,
           kind := .tile opPlane x (cx.operands s (cx.tids.headD 0)).a (cx.operands s (cx.tids.headD 0)).b, phase := .issued }] := by
  obtain ⟨agrees, seq, same, ops⟩ := engineOp_issued cx s' cx.tids .tl
    (.tile opPlane x (cx.operands s (cx.tids.headD 0)).a (cx.operands s (cx.tids.headD 0)).b)
  refine ⟨_, (runWord_issues h.toIssues _).trans (congrArg _ (?_ : _ = cx.goes (cx.engineOp s' cx.tids .tl _) cx.party
    fun _ u => cx.issuedOne .tl u)), agrees, seq, slots_setParty_of same .., ops⟩
  extract_lets o tid
  rw [show checkEa s cx.launch { size := 64, align := 64, r := true, acc := false } o.a = _ from allowed]
  dsimp only
  rw [show cx.readRecord s cx.tids tid (cx.party.thread tid) o.a 64 true = _ from read]
  dsimp only
  rw [show tileCheck s' cx.launch opPlane x o.a o.b = _ from good]
  exact mapGroup_goes fun k _ u => advance_inside h.inside k _

/-! ## Geometry commands and gathers -/

theorem runGeom_issues {opc n : Nat} (h : Captures s i cx k (cx.ea (cx.operands s k).a n) n 64 s' x)
    (good : geBad cx.launch opc x = none) (ranges : geRanges s' cx.launch opc x = none) :
    ∃ t, runGeom s i opc n = .next t ∧ CommandIssued s' t cx k .gx
      (.geom opc x (if opc = opRast then (cx.launch.layout (geHandle x)).getD 0 else 0)) := by
  have read := h.read
  refine runEngine_commands h.toRunsOne h.slots ?_
  rw [read]
  dsimp only
  rw [good, ranges]
  simp only [beq_iff_eq]

theorem execGath_issues {d a b : BitVec 8} (h : Captures s (.gath d a b) cx k (cx.ea (cx.operands s k).a 32) 32 32 s' x)
    (good : gatCheck s' cx x (if cx.dreg = .z then none else some (cx.operands s k).d) = none) :
    ∃ t, execGath d a b s = .next t ∧
      CommandIssued s' t cx k .gx (.gather x (if cx.dreg = .z then none else some (cx.operands s k).d)) := by
  have read := h.read
  refine runEngine_commands h.toRunsOne h.slots ?_
  clear h
  revert read
  induction @Cx.record using of_forall with | _ record
  intro read
  extract_lets ea arrival
  rw [show record cx s k (cx.party.thread k) ea 32 32 = _ from read]
  have same : arrival = if cx.dreg = Reg.z then none else some (cx.operands s k).d := by simp only [arrival, beq_iff_eq]
  rw [same]
  dsimp only
  rw [good]

/-! ## Bank blocks -/

theorem execBkq_issues {d a b : BitVec 8} {s2 : State} {y : Nat} {e : Nat}
    (h : Captures s (.bkq d a b) cx k (cx.ea (cx.operands s k).a 16) 16 16 s' x)
    (head : bkHeadBad s' cx.launch x (cx.ea (cx.operands s k).a 16) = none)
    (read : cx.record s' k (cx.party.thread k) (eaAdd (cx.ea (cx.operands s k).a 16) 16) (16 * bkN x) 16 = (s2, .ok y))
    (slots : s2.slots = s.slots) (entry : bufOf s2 cx.launch.ctx (eaIdx (bkBuf x)) = some e)
    (body : bkBodyBad e (x + 2 ^ 128 * y) (cx.ea (cx.operands s k).a 16) = none) :
    ∃ t, execBkq d a b s = .next t ∧
      CommandIssued s2 t cx k .bk (.bank (x + 2 ^ 128 * y) (cx.ea (cx.operands s k).a 16)) := by
  have headRead := h.read
  refine runEngine_commands h.toRunsOne slots ?_
  clear h
  revert read headRead
  induction @Cx.record using of_forall with | _ record
  intro read headRead
  extract_lets ea
  rw [show record cx s k (cx.party.thread k) ea 16 16 = _ from headRead]
  simp only [ea, head, read, entry, body]

/-! ## Collectives -/

/-- A halo's segment count that R481 allows. -/
theorem haloCount_of_halo (halo : coKind x = 0 → 1 ≤ coCount x ∧ coCount x ≤ 64) :
    (coKind x == 0 && (coCount x == 0 || decide (64 < coCount x))) = false := by
  by_cases kind : coKind x = 0
  · obtain ⟨least, most⟩ := halo kind
    simp [kind]
    omega
  · simp [kind]

/-- The segment table of a halo whose signals are placed as R481 asks; another collective has none. -/
theorem segTable_of_halo {s2 s3 : State} {z : Nat} {t : Thread}
    (halo : coKind x = 0 → 1 ≤ coCount x ∧ coCount x ≤ 64 ∧ collSigBad cx.launch x = false)
    (table : (if coKind x = 0 then cx.record s2 k t (coSrc x) (32 * coCount x) 1 else (s2, .ok 0)) = (s3, .ok z)) :
    cx.segTable s2 k t x = (s3, .ok z) := by
  rw [Cx.segTable]
  by_cases kind : coKind x = 0
  · obtain ⟨-, -, signals⟩ := halo kind
    rw [if_pos kind] at table
    rw [if_neg (by simp [kind]), if_neg (by simp [signals])]
    exact table
  · rw [if_neg kind] at table
    rw [if_pos (by simp [kind])]
    exact table

theorem execColl_issues {d a b : BitVec 8} {s2 s3 : State} {y z : Nat}
    (h : Captures s (.coll d a b) cx k (cx.ea (cx.operands s k).a 64) 64 64 s' x) (word : collRsvd x = false)
    (group : cx.groupRecord s' k (cx.party.thread k) x = (s2, .ok y)) (members : groupBad s2 cx.launch x y = false)
    (halo : coKind x = 0 → 1 ≤ coCount x ∧ coCount x ≤ 64 ∧ collSigBad cx.launch x = false)
    (table : (if coKind x = 0 then cx.record s2 k (cx.party.thread k) (coSrc x) (32 * coCount x) 1 else (s2, .ok 0)) = (s3, .ok z))
    (slots : s3.slots = s.slots) (good : collCheck s3 cx.launch x y z = none) :
    ∃ t, CommandIssued s3 t cx k .cp (.coll x y z s3.ref) ∧ execColl d a b s = .next (startColls t s.seq) := by
  have turn : collIssue cx s k (cx.party.thread k) (cx.operands s k) = (s3, .go (.coll x y z s3.ref)) := by
    have headRead := h.read
    have table' : cx.segTable s2 k (cx.party.thread k) x = (s3, .ok z) := segTable_of_halo halo table
    clear h table
    rw [show @collIssue = delta% @collIssue from rfl]
    revert group headRead table'
    induction @Cx.record using of_forall with | _ record
    induction @Cx.groupRecord using of_forall with | _ groupRecord
    induction @Cx.segTable using of_forall with | _ segTable
    intro group headRead table'
    beta_reduce
    rw [headRead]
    dsimp only
    rw [word, group]
    dsimp only
    rw [members, haloCount_of_halo fun kind => ⟨(halo kind).1, (halo kind).2.1⟩, table']
    dsimp only
    rw [good]
    rfl
  exact ⟨_, engineEach_issues (p := cx.party) h.toRunsOne turn ((party?_of_slots slots cx.slot).trans h.toRunsOne.party) rfl,
    runWord_issues h.toIssues _⟩

end

end Sys2Proof.Machine

open Sys2Proof Sys2Proof.Machine

/-- Settles O30: each command is the engine command that its thread issues once its record is read and its checks pass. -/
theorem commandsIssue : Obligations.CommandsIssue := by
  refine ⟨fun s s' d a b cx k x => ⟨?_, fun one _ above below allowed => execLrld_issues one above below allowed,
    fun one thread below resides absent room => execCfetch_issues one thread below resides absent room⟩,
    fun s s' d a b cx k x => ⟨?_, ?_⟩, fun s s' s2 s3 d a b cx k x y z => ⟨?_, ?_, ?_, ?_⟩⟩
  · intro e listed captures _ good ranges
    simp only [List.mem_cons, List.not_mem_nil, or_false] at listed
    rcases listed with rfl | rfl | rfl
    · exact runCopy_issues (i := .cpyt d a b) (opc := 0x6A#8) captures rfl good ranges
    · exact runCopy_issues (i := .cpyl d a b) (opc := 0x6B#8) captures rfl good ranges
    · exact runCopy_issues (i := .cpym d a b) (opc := 0x6C#8) captures rfl good ranges
  · intro e listed captures good
    simp only [List.mem_cons, List.not_mem_nil, or_false] at listed
    rcases listed with rfl | rfl
    · exact runTile_issues captures good
    · exact runTile_issues captures good
  · rintro runs rfl allowed read _ good
    exact execPlane_issues runs allowed read good
  · intro e listed captures good ranges
    simp only [List.mem_cons, List.not_mem_nil, or_false] at listed
    rcases listed with rfl | rfl | rfl
    · exact runGeom_issues captures good ranges
    · exact runGeom_issues captures good ranges
    · exact runGeom_issues captures good ranges
  · intro captures arrival good
    exact execGath_issues captures good
  · intro e captures head read slots entry body
    exact execBkq_issues captures head read slots entry body
  · intro captures word group members halo table slots good
    exact execColl_issues captures word group members halo table slots good

end

section
/-! Published versions and held plats (20_versioned_memory.md R401, R402). -/

namespace Sys2Proof.Machine

variable {s : State} {d a b : BitVec 8} {cx : Cx} {e : Nat} {sn : Snap}

/-! ## VPOST (R401) -/

theorem snap?_setSnap {s : State} {ctx buf : Nat} {old sn : Snap} (listed : s.snap? ctx buf = some old) (ctxOf : sn.ctx = ctx)
    (bufOf : sn.buf = buf) : (s.setSnap sn).snap? ctx buf = some sn := by
  subst ctxOf bufOf
  rw [State.snap?] at listed ⊢
  rw [State.setSnap, List.find?_map]
  have same : (fun v : Snap => v.ctx == sn.ctx && v.buf == sn.buf) ∘
      (fun u : Snap => if u.ctx == sn.ctx && u.buf == sn.buf then sn else u) = fun v => v.ctx == sn.ctx && v.buf == sn.buf := by
    funext u
    by_cases h : u.ctx == sn.ctx && u.buf == sn.buf
    · simp only [Function.comp_apply, h, if_true, BEq.rfl, Bool.and_self]
    · simp only [Function.comp_apply, if_neg h]
  rw [same, listed]
  exact congrArg some (if_pos (by simpa using List.find?_some listed))

theorem snap?_fields {ctx buf : Nat} (listed : s.snap? ctx buf = some sn) : sn.ctx = ctx ∧ sn.buf = buf := by
  simpa using List.find?_some listed

/-- A page of the published version is no longer to come back in STATE 0. -/
theorem publishLeaf_state {v leaf : Nat} (version : leafVer (publishLeaf v leaf) = v) : leafState (publishLeaf v leaf) ≠ 0 := by
  unfold publishLeaf at version ⊢
  split
  · simp only [leafState, withState, setFld, fld]
    have : leaf / 2 ^ 38 % 2 ^ 2 = 0 := by simp_all [leafState, fld]
    omega
  · simp_all

@[simp] theorem still_combineBuffer (s : State) (ctx buf : Nat) : (combineBuffer s ctx buf).still = s.still := by
  unfold combineBuffer
  exact foldl_keeps State.still (fun _ _ => still_combine ..) _ s

theorem publish_snaps (s : State) (ctx buf e v : Nat) (sn : Snap) (listed : s.snap? ctx buf = some sn) :
    (publish s ctx buf e v sn).snap? ctx buf = some { sn with opn := (v + 1) % 2 ^ 24, pub := v } := by
  obtain ⟨ctxOf, bufOf⟩ := snap?_fields listed
  have same : (mapLeaves (combineBuffer s ctx buf) ctx buf e (publishLeaf v)).snaps = s.snaps := snaps_of_still (by simp)
  refine snap?_setSnap (old := sn) ?_ ctxOf bufOf
  exact (congrArg (List.find? _) same :).trans listed

theorem publish_quars {ctx buf v : Nat} {q : PageKey × Nat} (listed : q ∈ (publish s ctx buf e v sn).quars) (ctxOf : q.1.ctx = ctx)
    (bufOf : q.1.buf = buf) (version : leafVer q.2 = v) : leafState q.2 ≠ 0 := by
  obtain ⟨old, -, rfl⟩ := List.mem_map.mp listed
  by_cases same : (old.1.ctx == ctx && old.1.buf == buf) = true
  · rw [if_pos same] at version ⊢
    exact publishLeaf_state version
  · rw [if_neg same] at ctxOf bufOf
    simp [ctxOf, bufOf] at same

theorem publish_migrations {ctx buf v : Nat} {m : Migration} (listed : m ∈ (publish s ctx buf e v sn).migrations)
    (ctxOf : m.page.ctx = ctx) (bufOf : m.page.buf = buf) (version : leafVer m.old = v) : leafState m.old ≠ 0 := by
  obtain ⟨old, -, rfl⟩ := List.mem_map.mp listed
  by_cases same : (old.page.ctx == ctx && old.page.buf == buf) = true
  · rw [if_pos same] at version ⊢
    exact publishLeaf_state version
  · rw [if_neg same] at ctxOf bufOf
    simp [ctxOf, bufOf] at same

theorem execVpost_published (entry : bufOf s cx.launch.ctx (eaIdx (cx.uniOperands s).a) = some e)
    (listed : s.snap? cx.launch.ctx (eaIdx (cx.uniOperands s).a) = some sn) (runs : Runs s (.vpost d a b) cx)
    (good : verCheck s cx.launch (fld (cx.uniOperands s).b 24 8 != 0) (cx.uniOperands s).a true = none)
    (again : fld (cx.uniOperands s).b 0 24 = sn.pub) : TableGives s (.vpost d a b) cx s 1 := by
  refine tableGives_of_val (show execVpost d a b s = _ from rfl) runs ?_
  dsimp only
  rw [good]
  dsimp only
  rw [entry, listed]
  dsimp only
  rw [if_pos (beq_iff_eq.mpr again)]

theorem execVpost_publishes (entry : bufOf s cx.launch.ctx (eaIdx (cx.uniOperands s).a) = some e)
    (listed : s.snap? cx.launch.ctx (eaIdx (cx.uniOperands s).a) = some sn) (runs : Runs s (.vpost d a b) cx)
    (good : verCheck s cx.launch (fld (cx.uniOperands s).b 24 8 != 0) (cx.uniOperands s).a true = none)
    (new : fld (cx.uniOperands s).b 0 24 ≠ sn.pub) (opn : fld (cx.uniOperands s).b 0 24 = sn.opn)
    (writes : openWritesTo s cx (eaIdx (cx.uniOperands s).a) = false)
    (busy : versionBusy s e (fld (cx.uniOperands s).b 0 24) = false)
    (leaves : ∀ p ∈ pagesOf e, leafHeld s e (pageBase e p) = false)
    (partials : ∀ k ∈ bufferPartials s cx.launch.ctx (eaIdx (cx.uniOperands s).a), combineBusy s k.1 k.2 = false) :
    TableGives s (.vpost d a b) cx
      (publish s cx.launch.ctx (eaIdx (cx.uniOperands s).a) e (fld (cx.uniOperands s).b 0 24) sn) 0 := by
  have free : (openWritesTo s cx (eaIdx (cx.uniOperands s).a) || versionBusy s e (fld (cx.uniOperands s).b 0 24) ||
      ((pagesOf e).any fun p => leafHeld s e (pageBase e p)) ||
      (bufferPartials s cx.launch.ctx (eaIdx (cx.uniOperands s).a)).any fun k => combineBusy s k.1 k.2) = false := by
    rw [writes, busy, List.any_eq_false.mpr (by simpa using leaves), List.any_eq_false.mpr (by simpa using partials)]
    rfl
  refine tableGives_of_val (show execVpost d a b s = _ from rfl) runs ?_
  dsimp only
  rw [good]
  dsimp only
  rw [entry, listed]
  dsimp only
  rw [if_neg (by simpa using new), if_neg (by simpa using opn), free]
  rfl

/-! ## VOPEN (R402) -/

theorem dropFirst_append {f : Nat × Nat → Bool} {before after : List (Nat × Nat)} {x : Nat × Nat} (first : ∀ y ∈ before, f y = false)
    (hit : f x = true) : dropFirst f (before ++ x :: after) = before ++ after := by
  induction before with
  | nil => simp [dropFirst, hit]
  | cons y ys ih =>
    have rest : ∀ z ∈ ys, f z = false := fun z m => first z (List.mem_cons_of_mem _ m)
    simp [dropFirst, first y List.mem_cons_self, ih rest]

theorem execVopen_gives {sn' : Snap} {x : Nat} (entry : bufOf s cx.launch.ctx (eaIdx (cx.uniOperands s).a) = some e)
    (listed : s.snap? cx.launch.ctx (eaIdx (cx.uniOperands s).a) = some sn) (runs : Runs s (.vopen d a b) cx)
    (good : verCheck s cx.launch (fld (cx.uniOperands s).b 25 7 != 0) (cx.uniOperands s).a false = none)
    (gives : (if bitOf (cx.uniOperands s).b 24 then sn.release cx.launch.lid (fld (cx.uniOperands s).b 0 24)
      else sn.hold (bufDepth e) cx.launch.lid (fld (cx.uniOperands s).b 0 24)) = (sn', x)) :
    TableGives s (.vopen d a b) cx (s.setSnap sn') x := by
  refine tableGives_of_val (show execVopen d a b s = _ from rfl) runs ?_
  dsimp only
  rw [good]
  dsimp only
  rw [entry, listed]
  dsimp only
  rw [gives]

section
variable {depth lid p : Nat}

theorem hold_after (late : verLe p sn.pub = false) : sn.hold depth lid p = (sn, 1) := by
  simp [Snap.hold, late]

theorem hold_lost (early : verLe p sn.pub = true) (lost : sn.kept depth p = false) : sn.hold depth lid p = (sn, 2) := by
  simp [Snap.hold, early, lost]

theorem hold_full (early : verLe p sn.pub = true) (kept : sn.kept depth p = true)
    (full : aget 0 p sn.holds = 0 ∧ sn.outside depth + depth = 15 ∨ aget 0 p sn.holds = 65535) : sn.hold depth lid p = (sn, 3) := by
  rw [Snap.hold]
  simp [early, kept, full]

theorem hold_held (early : verLe p sn.pub = true) (kept : sn.kept depth p = true)
    (room : ¬(aget 0 p sn.holds = 0 ∧ sn.outside depth + depth = 15)) (below : aget 0 p sn.holds ≠ 65535) :
    sn.hold depth lid p =
      ({ sn with holds := aset p (aget 0 p sn.holds + 1) sn.holds, owners := sn.owners ++ [(lid, p)] }, 0) := by
  have notFull : ¬(aget 0 p sn.holds = 0 ∧ sn.outside depth + depth = 15 ∨ aget 0 p sn.holds = 65535) := by tauto
  rw [Snap.hold]
  simp [early, kept, notFull]

theorem release_free (none : aget 0 p sn.holds = 0) : sn.release lid p = (sn, 4) := by
  simp [Snap.release, none]

/-- The launch's own hold goes first, else the oldest of another launch. -/
theorem release_held {before after : List (Nat × Nat)} {x : Nat × Nat} (held : 0 < aget 0 p sn.holds)
    (owners : sn.owners = before ++ x :: after) (plat : x.2 = p)
    (first : if (lid, p) ∈ sn.owners then x.1 = lid ∧ (lid, p) ∉ before else ∀ y ∈ before, y.2 ≠ p) :
    sn.release lid p = ({ sn with
      holds := if aget 0 p sn.holds = 1 then adel p sn.holds else aset p (aget 0 p sn.holds - 1) sn.holds,
      owners := before ++ after }, 0) := by
  have dropped : (if sn.owners.contains (lid, p) then dropFirst (fun x => x == (lid, p)) sn.owners
      else dropFirst (fun x => x.2 == p) sn.owners) = before ++ after := by
    by_cases own : (lid, p) ∈ sn.owners
    · obtain ⟨mine, fresh⟩ := (if_pos own).mp first
      rw [if_pos (List.contains_iff_mem.mpr own), owners]
      refine dropFirst_append (fun y m => ?_) (beq_iff_eq.mpr (Prod.ext mine plat))
      exact beq_eq_false_iff_ne.mpr fun eq => fresh (eq ▸ m)
    · have other := (if_neg own).mp first
      rw [if_neg (by simpa using own), owners]
      exact dropFirst_append (fun y m => beq_eq_false_iff_ne.mpr (other y m)) (beq_iff_eq.mpr plat)
  rw [Snap.release]
  dsimp only
  rw [dropped, if_neg (by simpa using held.ne')]
  simp only [beq_iff_eq]

end

end Sys2Proof.Machine

open Sys2Proof Sys2Proof.Machine

/-- Settles O32: VPOST is `publish` of the open version, and VOPEN the hold or the release of its plat. -/
theorem versionsArePublishedAndHeld : Obligations.VersionsArePublishedAndHeld := by
  refine ⟨fun s d a b cx e sn => ?_, fun s d a b cx e sn => ?_⟩
  · intro o l buf v entry listed runs good
    have version : fld (cx.uniOperands s).b 0 24 = v := by simp [fld, v, o]
    refine ⟨fun again => execVpost_published entry listed runs good (version.trans again),
      fun new opn writes busy leaves partials => ⟨?_, publish_snaps s _ _ e v sn listed,
        fun q m ctxOf bufOf ver => publish_quars m ctxOf bufOf ver, fun m listed ctxOf bufOf ver => publish_migrations listed ctxOf bufOf ver⟩⟩
    rw [← version] at new opn busy ⊢
    exact execVpost_publishes entry listed runs good new opn writes busy leaves partials
  · intro o l p n gives entry listed runs good
    have plat : fld (cx.uniOperands s).b 0 24 = p := by simp [fld, p, o]
    have turn {sn' : Snap} {x : Nat} := execVopen_gives (sn' := sn') (x := x) entry listed runs good
    rw [plat] at turn
    refine ⟨fun bit => ?_, fun bit => ?_⟩
    · have clear : bitOf (cx.uniOperands s).b 24 = false := by simpa [bitOf] using bit
      rw [clear] at turn
      exact ⟨fun late => turn (hold_after late), fun early lost => turn (hold_lost early lost),
        fun early kept full => turn (hold_full early kept full),
        fun early kept room below => turn (hold_held early kept room below)⟩
    · have set : bitOf (cx.uniOperands s).b 24 = true := by simpa [bitOf] using bit
      rw [set] at turn
      exact ⟨fun none => turn (release_free none),
        fun held before after x owners isPlat first => turn (release_held held owners isPlat first)⟩

end

section
/-! Deterministic clusters: the merge of a block, its retirement, and a full write buffer (24_determinism.md R428, R432, R434,
R435). -/

namespace Sys2Proof.Machine

/-! ## Logical order (R428) -/

theorem WbOp.le_total (a b : WbOp) : a.le b = true ∨ b.le a = true := by
  simp only [WbOp.le, Bool.or_eq_true, Bool.and_eq_true, decide_eq_true_eq, beq_iff_eq]
  omega

theorem WbOp.le_trans {a b c : WbOp} (h : a.le b = true) (h' : b.le c = true) : a.le c = true := by
  simp only [WbOp.le, Bool.or_eq_true, Bool.and_eq_true, decide_eq_true_eq, beq_iff_eq] at h h' ⊢
  omega

theorem insertWb_eq_orderedInsert (o : WbOp) (os : List WbOp) : insertWb o os = os.orderedInsert (fun a b => a.le b = true) o := by
  induction os with
  | nil => rfl
  | cons p ps ih => rw [insertWb, List.orderedInsert_cons, ih]

theorem insertWb_perm (o : WbOp) (os : List WbOp) : (insertWb o os).Perm (o :: os) := by
  rw [insertWb_eq_orderedInsert]
  exact List.perm_orderedInsert _ o os

theorem insertWb_sorted {os : List WbOp} (sorted : os.Pairwise fun a b => a.le b = true) (o : WbOp) :
    (insertWb o os).Pairwise fun a b => a.le b = true := by
  have : Std.Total fun a b : WbOp => a.le b = true := ⟨WbOp.le_total⟩
  have : IsTrans WbOp fun a b => a.le b = true := ⟨fun _ _ _ => WbOp.le_trans⟩
  rw [insertWb_eq_orderedInsert]
  exact List.Pairwise.orderedInsert o os sorted

theorem foldl_insertWb_perm (os sorted : List WbOp) : (os.foldl (fun l o => insertWb o l) sorted).Perm (os ++ sorted) := by
  induction os generalizing sorted with
  | nil => exact .refl _
  | cons o os ih => exact (ih _).trans (((insertWb_perm o sorted).append_left os).trans List.perm_middle)

theorem sortWb_perm (os : List WbOp) : (sortWb os).Perm os := by
  simpa [sortWb] using foldl_insertWb_perm os []

theorem sortWb_sorted (os : List WbOp) : (sortWb os).Pairwise fun a b => a.le b = true :=
  List.foldlRecOn (motive := fun l : List WbOp => l.Pairwise fun a b => a.le b = true) os (fun l o => insertWb o l) .nil
    fun _ sorted o _ => insertWb_sorted sorted o

/-! ## The order of a cluster's retirement (R434) -/

section
variable {strict : Bool} {all before os : List WbOp} {o : WbOp}

theorem pickRetired_mem (h : pickRetired strict all before os = some o) : o ∈ os := by
  induction os generalizing before with
  | nil => simp [pickRetired] at h
  | cons p ps ih =>
    rw [pickRetired] at h
    split at h
    · exact List.mem_cons_of_mem _ (ih h)
    · exact Option.some.inj h ▸ List.mem_cons_self

/-- A first operation is always found: the first of the list has none before it. -/
theorem pickRetired_isSome (first : os ≠ []) :
    ∃ o ∈ os, ((pickRetired true os [] os).orElse fun _ => pickRetired false os [] os) = some o := by
  obtain ⟨p, ps, rfl⟩ := List.exists_cons_of_ne_nil first
  cases found : pickRetired true (p :: ps) [] (p :: ps) with
  | some o => exact ⟨o, pickRetired_mem found, rfl⟩
  | none => exact ⟨p, List.mem_cons_self, by simp [pickRetired]⟩

theorem retireFrom_perm (os : List WbOp) : (retireFrom os.length os).Perm os := by
  generalize size : os.length = n
  induction n generalizing os with
  | zero => exact .refl _
  | succ n ih =>
    obtain ⟨o, listed, found⟩ := pickRetired_isSome (os := os) (by rintro rfl; cases size)
    rw [retireFrom, found]
    exact ((ih (os.erase o) (by rw [List.length_erase_of_mem listed]; omega)).cons o).trans (List.perm_cons_erase listed).symm

/-- Among atomics only, an operation is taken once every other that shares a byte with it stands after it. -/
theorem pickRetired_atomics (atomics : ∀ p ∈ all, p.code.isSome = true) (inBefore : before ⊆ all) (inOs : os ⊆ all)
    (least : ∃ p ∈ os, ∀ q ∈ all, p.le q = true) :
    ∃ o, pickRetired true all before os = some o ∧ ∀ q ∈ all, overlap o.ea o.size q.ea q.size = true → o.le q = true := by
  induction os generalizing before with
  | nil => simp at least
  | cons o os ih =>
    obtain ⟨listed, rest⟩ := List.cons_subset.mp inOs
    have free : before.any (·.keeps o) = false := List.any_eq_false.mpr fun p mem => by
      simp [WbOp.keeps, Option.isNone_eq_false_iff.mpr (atomics p (inBefore mem)), Option.isNone_eq_false_iff.mpr (atomics o listed)]
    rw [pickRetired, free]
    cases yields : all.any o.yields with
    | false =>
      refine ⟨o, rfl, fun q mem overlaps => ?_⟩
      have first := List.any_eq_false.mp yields q mem
      simp only [WbOp.yields, overlaps, atomics o listed, atomics q mem, Bool.true_and, Bool.and_eq_true, not_and,
        Bool.not_eq_true', Bool.not_eq_false] at first
      exact (WbOp.le_total o q).elim id first
    | true =>
      obtain ⟨q, mem, after⟩ := List.any_eq_true.mp yields
      obtain ⟨p, inTail, least⟩ := least
      refine ih (List.cons_subset.mpr ⟨listed, inBefore⟩) rest ⟨p, (List.mem_cons.mp inTail).resolve_left ?_, least⟩
      rintro rfl
      simp [WbOp.yields, least q mem] at after

theorem exists_least (first : os ≠ []) : ∃ p ∈ os, ∀ q ∈ os, p.le q = true := by
  induction os with
  | nil => exact absurd rfl first
  | cons p ps ih =>
    have self : p.le p = true := (WbOp.le_total p p).elim id id
    by_cases rest : ps = []
    · subst rest
      exact ⟨p, List.mem_cons_self, by simpa using self⟩
    · obtain ⟨m, listed, least⟩ := ih rest
      rcases WbOp.le_total p m with h | h
      · exact ⟨p, List.mem_cons_self, List.forall_mem_cons.mpr ⟨self, fun q mem => WbOp.le_trans h (least q mem)⟩⟩
      · exact ⟨m, List.mem_cons_of_mem _ listed, List.forall_mem_cons.mpr ⟨h, least⟩⟩

theorem retireFrom_sorted (os : List WbOp) (atomics : ∀ p ∈ os, p.code.isSome = true) :
    (retireFrom os.length os).Pairwise fun a b => overlap a.ea a.size b.ea b.size = true → a.le b = true := by
  generalize size : os.length = n
  induction n generalizing os with
  | zero => exact List.length_eq_zero_iff.mp size ▸ .nil
  | succ n ih =>
    obtain ⟨o, found, precedes⟩ := pickRetired_atomics (before := []) atomics (List.nil_subset _) (List.Subset.refl _)
      (exists_least (by rintro rfl; cases size))
    have listed := pickRetired_mem found
    have left : (os.erase o).length = n := by rw [List.length_erase_of_mem listed]; omega
    rw [retireFrom, found]
    refine List.pairwise_cons.mpr ⟨fun q mem => precedes q ?_, ih _ (fun p mem => atomics p (List.mem_of_mem_erase mem)) left⟩
    have perm := retireFrom_perm (os.erase o)
    rw [left] at perm
    exact List.mem_of_mem_erase (perm.mem_iff.mp mem)

end

/-! ## The cluster of least traverse index (R434) -/

section
variable {l : Launch}

theorem foldl_least (f : Nat → Nat) (cs : List Nat) (c : Nat) :
    ∃ d, cs.foldl (fun b c => match b with | some x => if f c < f x then some c else some x | none => some c) (some c) = some d ∧
      d ∈ c :: cs ∧ ∀ e ∈ c :: cs, f d ≤ f e := by
  induction cs generalizing c with
  | nil => exact ⟨c, rfl, by simp⟩
  | cons e es ih =>
    rw [List.foldl_cons]
    dsimp only
    split
    · rename_i less
      obtain ⟨d, found, mem, least⟩ := ih e
      have := least e List.mem_cons_self
      refine ⟨d, found, List.mem_cons_of_mem _ mem, List.forall_mem_cons.mpr ⟨by omega, least⟩⟩
    · rename_i more
      obtain ⟨d, found, mem, least⟩ := ih c
      have := least c List.mem_cons_self
      refine ⟨d, found, ?_, ?_⟩
      · simp only [List.mem_cons] at mem ⊢
        tauto
      · simp only [List.forall_mem_cons] at least ⊢
        exact ⟨this, by omega, least.2⟩

theorem firstTraverse_nil : firstTraverse l [] = none := rfl

theorem firstTraverse_least {cs : List Nat} {c : Nat} (found : firstTraverse l cs = some c) :
    c ∈ cs ∧ ∀ d ∈ cs, l.traverse c ≤ l.traverse d := by
  rw [firstTraverse] at found
  generalize l.traverse = f at found ⊢
  cases cs with
  | nil => cases found
  | cons e es =>
    obtain ⟨d, found', mem, least⟩ := foldl_least f es e
    rw [List.foldl_cons] at found
    obtain rfl : c = d := Option.some.inj (found.symm.trans found')
    exact ⟨mem, least⟩

end

/-! ## The merge of a block (R432) -/

section
variable {s u : State} {l : Launch} {b : Block}

/-- Stores join the view as they are. -/
theorem viewAll_stores {lid : Nat} (lid_eq : b.lid = lid) {os : List WbOp} (stores : ∀ o ∈ os, o.code = none)
    (found : s.block? lid b.blin = some b) : ∃ t, viewAll l lid b.blin os s = .ok t ∧ t.dram = s.dram ∧ t.slots = s.slots ∧
      t.block? lid b.blin = some { b with view := b.view ++ os } := by
  induction os generalizing s b with
  | nil => exact ⟨s, rfl, rfl, rfl, by simpa using found⟩
  | cons o os ih =>
    obtain ⟨isStore, rest⟩ := List.forall_mem_cons.mp stores
    let b1 := { b with view := b.view ++ [o] }
    obtain ⟨t, viewed, dram, slots, block⟩ := ih (s := s.setBlock b1) (b := b1) lid_eq rest (block?_setBlock found lid_eq rfl)
    refine ⟨t, ?_, dram, slots, ?_⟩
    · have joins : viewOp s l b o = .ok (o, s) := by rw [viewOp, isStore]
      rw [viewAll, found]
      dsimp only
      rw [joins]
      exact viewed
    · simpa [b1] using block

/-- One atomic joins the view as the value that it leaves. -/
theorem viewAll_atomic {lid c v : Nat} {o : WbOp} (lid_eq : b.lid = lid) (code : o.code = some c)
    (found : s.block? lid b.blin = some b) (read : readEa s (blockAg l b) o.ea o.size = .ok v u) (blocks : u.blocks = s.blocks) :
    ∃ t, viewAll l lid b.blin [o] s = .ok t ∧ t.slots = u.slots ∧
      t.block? lid b.blin = some { b with view := b.view ++ [{ o with code := none, x := atomNew c v o.x o.y }] } := by
  have joins : viewOp s l b o = .ok ({ o with code := none, x := atomNew c v o.x o.y }, u) := by
    rw [show @viewOp = delta% @viewOp from rfl]
    beta_reduce
    rw [code]
    dsimp only
    rw [read]
  have found' : u.block? lid b.blin = some b := (congrArg (List.find? _) blocks :).trans found
  refine ⟨u.setBlock { b with view := b.view ++ [{ o with code := none, x := atomNew c v o.x o.y }] }, ?_, rfl,
    block?_setBlock found' lid_eq rfl⟩
  rw [viewAll, found]
  dsimp only
  rw [joins]
  rfl

/-- A block that reserves nothing merges by its view. -/
theorem mergeBlock_plain {lid : Nat} {m : Nat × Nat × Nat × Nat} (lid_eq : b.lid = lid) (plain : ∀ o ∈ b.wbuf, o.resv = none) :
    mergeBlock s l b m = viewAll l lid b.blin (sortWb (b.wbuf.filter (inEpoch m)))
      (s.setBlock { b with wbuf := b.wbuf.filter (fun o => !inEpoch m o), log := b.log ++ sortWb (b.wbuf.filter (inEpoch m)),
                           merges := b.merges.drop 1 }) := by
  have now : ∀ o ∈ sortWb (b.wbuf.filter (inEpoch m)), o.resv = none := fun o mem =>
    plain o (List.mem_filter.mp ((sortWb_perm _).mem_iff.mp mem)).1
  have all : (sortWb (b.wbuf.filter (inEpoch m))).filter (fun o => o.resv.isNone) = sortWb (b.wbuf.filter (inEpoch m)) :=
    List.filter_eq_self.mpr fun o mem => by simp [now o mem]
  have reserved : (sortWb (b.wbuf.filter (inEpoch m))).filter (fun o => o.resv.isSome) = [] :=
    List.filter_eq_nil_iff.mpr fun o mem => by simp [now o mem]
  subst lid_eq
  rw [mergeBlock, List.partition_eq_filter_filter]
  dsimp only
  rw [all, reserved]
  exact congrFun Except.map_id _

theorem execClosureMerge_end {t : State} {replies : List (Nat × PeerReply)} {m : Nat × Nat × Nat × Nat} {rest : List (Nat × Nat × Nat × Nat)}
    (input : s.input = .closureMerge l.lid b.blin replies) (launch : s.launch? l.lid = some l) (here : b.saved = none)
    (found : s.block? l.lid b.blin = some b) (merges : b.merges = m :: rest) (last : m.1 = 0) (merged : mergeBlock s l b m = .ok t) :
    execClosureMerge s = .next { t with waits := adel l.lid t.waits } := by
  revert merged
  rw [show @execClosureMerge = delta% @execClosureMerge from rfl]
  induction @mergeBlock using of_forall with | _ mergeBlock
  intro merged
  beta_reduce
  rw [input]
  dsimp only
  rw [launch, found]
  dsimp only
  rw [merges]
  dsimp only
  rw [merged]
  dsimp only
  rw [here, last]
  rfl

end

/-! ## Retirement and a full write buffer (R434, R435) -/

section
variable {s u : State} {l : Launch} {b : Block}

theorem execClusterRetire_retires {c : Nat} (input : s.input = .clusterRetire l.lid) (launch : s.launch? l.lid = some l)
    (det : l.isDet = true) (going : l.aborted = false) (first : firstTraverse l (unretired s l) = some c)
    (done : clusterDone s l c = true)
    (retired : (byRank (clusterBlocks s l.lid c)).foldl (fun s b => s.bind (retireBlock l b)) (some s) = some u) :
    execClusterRetire s = .next { u.setLaunch { l with retired := l.retired ++ [c] } with
      waits := adel l.lid s.waits
      blocks := u.blocks.map fun b => if b.lid == l.lid && b.clin == c then { b with view := [], log := [] } else b } := by
  revert retired
  rw [show @execClusterRetire = delta% @execClusterRetire from rfl]
  induction @retireBlock using of_forall with | _ retireBlock
  induction @retireCows using of_forall with | _ retireCows
  intro retired
  beta_reduce
  rw [input]
  dsimp only
  rw [launch]
  dsimp only
  rw [first]
  dsimp only
  rw [retired, det, going, done]
  rfl

theorem wbufFull_of (det : l.isDet = true) (full : l.det / 2 ^ 80 % 2 ^ 16 * 65536 ≤ 64 * (b.wbuf.length + b.log.length + 1)) :
    wbufFull l b = true := by
  simp only [wbufFull, wbufRoom, det, Bool.true_and, beq_iff_eq, fld]
  omega

/-- A stopped launch holds no die's reservation, and nothing else but its own record changes. -/
theorem stopLaunch_keeps (s : State) (l : Launch) : (stopLaunch s l).slots = s.slots ∧ (stopLaunch s l).dram = s.dram ∧
    (stopLaunch s l).launches = (s.setLaunch { l with pending := [], failing := [] }).launches := by
  unfold stopLaunch
  generalize stopped : s.setLaunch { l with pending := [], failing := [] } = u
  have slots : u.slots = s.slots := stopped ▸ rfl
  have dram : u.dram = s.dram := stopped ▸ rfl
  refine List.foldlRecOn (motive := fun t : State => t.slots = s.slots ∧ t.dram = s.dram ∧ t.launches = u.launches) allDies _
    ⟨slots, dram, rfl⟩ fun t kept d _ => ?_
  split
  · exact kept
  · exact kept

/-- The state in which a launch whose write buffer is full is killed. -/
def bufferStopped (s : State) (l : Launch) : State :=
  let t := stopLaunch s { l with aborted := true, firstCause := some Cause.kill }
  { t with blocks := t.blocks.map fun b => if b.lid == l.lid then { b with wbuf := [], view := [], log := [] } else b }

theorem bufferStopped_keeps (s : State) (l : Launch) : (bufferStopped s l).slots = s.slots ∧ (bufferStopped s l).dram = s.dram := by
  obtain ⟨slots, dram, -⟩ := stopLaunch_keeps s { l with aborted := true, firstCause := some Cause.kill }
  unfold bufferStopped
  generalize stopLaunch _ _ = t at slots dram ⊢
  exact ⟨slots, dram⟩

theorem execWriteBufferFull_kills (input : s.input = .writeBufferFull l.lid b.blin) (launch : s.launch? l.lid = some l)
    (found : s.block? l.lid b.blin = some b) (full : wbufFull l b = true) (going : l.aborted = false) (running : b.ended = false) :
    execWriteBufferFull s = .next (killParties (bufferStopped s l) l.lid) := by
  rw [show @execWriteBufferFull = delta% @execWriteBufferFull from rfl, show @bufferStopped = delta% @bufferStopped from rfl]
  induction @killParties using of_forall with | _ killParties
  beta_reduce
  rw [input]
  dsimp only
  rw [launch, found]
  dsimp only
  rw [full, going, running]
  rfl

theorem launch_of_stopped (launch : s.launch? l.lid = some l) : (bufferStopped s l).launch? l.lid =
    some { l with aborted := true, firstCause := some 0xB0, pending := [], failing := [] } := by
  obtain ⟨-, -, launches⟩ := stopLaunch_keeps s { l with aborted := true, firstCause := some Cause.kill }
  have same := State.launch_setLaunch s { l with aborted := true, firstCause := some Cause.kill, pending := [], failing := [] } l.lid
  rw [launch] at same
  refine (congrArg (List.find? _) launches :).trans (same.trans ?_)
  rw [Option.map_some]
  exact congrArg some (if_pos (by simp))

theorem blocks_of_stopped {b' : Block} (listed : b' ∈ (bufferStopped s l).blocks) (mine : b'.lid = l.lid) :
    b'.wbuf = [] ∧ b'.view = [] ∧ b'.log = [] := by
  obtain ⟨old, -, rfl⟩ := List.mem_map.mp listed
  by_cases same : (old.lid == l.lid) = true
  · simp [same]
  · rw [if_neg same] at mine
    exact absurd (beq_iff_eq.mpr mine) same

theorem blocks_of_retired {c : Nat} {bs : List Block} {b' : Block}
    (listed : b' ∈ bs.map fun b => if b.lid == l.lid && b.clin == c then { b with view := [], log := [] } else b)
    (mine : b'.lid = l.lid) (cluster : b'.clin = c) : b'.view = [] ∧ b'.log = [] := by
  obtain ⟨old, -, rfl⟩ := List.mem_map.mp listed
  by_cases same : (old.lid == l.lid && old.clin == c) = true
  · simp [same]
  · rw [if_neg same] at mine cluster
    simp [mine, cluster] at same

end

end Sys2Proof.Machine

open Sys2Proof Sys2Proof.Machine

/-- Settles O49: a merge sorts its epoch into the view, a retirement applies the log in its order, and a full buffer is
discarded. -/
theorem deterministicClustersMergeAndRetire : Obligations.DeterministicClustersMergeAndRetire := by
  refine ⟨fun os => ⟨sortWb_perm os, sortWb_sorted os⟩, fun os => ⟨retireFrom_perm os, retireFrom_sorted os⟩,
    fun l cs => ⟨fun none => none ▸ firstTraverse_nil, fun c => firstTraverse_least⟩, fun s u l launch => ⟨?_, ?_, ?_⟩⟩
  · intro b scope idx phase seq rest replies input here found lid_eq merges plain last now b1
    have merge := mergeBlock_plain (s := s) (l := l) (m := (scope, idx, phase, seq)) lid_eq plain
    rw [merges] at merge
    have found1 : (s.setBlock b1).block? l.lid b1.blin = some b1 := block?_setBlock found lid_eq rfl
    refine ⟨fun stores => ?_, fun o c v one code read blocks => ?_⟩
    · have sorted : ∀ o ∈ sortWb (b.wbuf.filter now), o.code = none := fun o mem =>
        stores o (List.mem_filter.mp ((sortWb_perm _).mem_iff.mp mem)).1
      obtain ⟨t, viewed, dram, slots, block⟩ := viewAll_stores (l := l) (b := b1) lid_eq sorted found1
      exact ⟨_, execClosureMerge_end input launch here found merges last (merge.trans viewed), dram, slots, block⟩
    · obtain ⟨t, viewed, slots, block⟩ := viewAll_atomic (b := b1) lid_eq code found1 read blocks
      have single : sortWb (b.wbuf.filter now) = [o] := by rw [one]; rfl
      rw [← single] at viewed
      exact ⟨_, execClosureMerge_end input launch here found merges last (merge.trans viewed), slots, block⟩
  · intro c input det going first done retired launches
    refine ⟨_, execClusterRetire_retires input launch det going first done retired, rfl, ?_,
      fun b listed mine cluster => blocks_of_retired listed mine cluster⟩
    have listed : u.launch? l.lid = some l := (congrArg (List.find? _) launches :).trans launch
    refine (State.launch_setLaunch u { l with retired := l.retired ++ [c] } l.lid).trans ?_
    rw [listed, Option.map_some]
    exact congrArg some (if_pos (by simp))
  · intro b input found det going running full
    obtain ⟨slots, dram⟩ := bufferStopped_keeps s l
    exact ⟨bufferStopped s l, execWriteBufferFull_kills input launch found (wbufFull_of det full) going running, slots, dram,
      launch_of_stopped launch, fun b listed mine => blocks_of_stopped listed mine⟩

end

section
/-! Frames and table entries: what a copy of a frame moves, what a flush leaves, and that writing an entry reads nothing but the
lines, their seals and the dies (19_package_memory.md R388, 20_versioned_memory.md R398). -/

namespace Sys2Proof.Machine

variable {s t : State} {e : Nat} {page : PageKey} {leaf : Nat}

/-! ## Bytes moved -/

section
variable {m cs : List Host.Cell} {i src dst n b : Nat}

theorem Memory.get_filter (f : Host.Cell → Bool) (keep : ∀ x, f (i, x) = true) : Memory.get (m.filter f) i = Memory.get m i := by
  induction m with
  | nil => rfl
  | cons c m ih =>
    obtain ⟨j, x⟩ := c
    by_cases here : j = i
    · subst here
      rw [List.filter_cons_of_pos (keep x)]
      simp [Memory.get]
    · by_cases kept : f (j, x) = true
      · rw [List.filter_cons_of_pos kept]
        simp [Memory.get, here, ih]
      · rw [List.filter_cons_of_neg kept]
        simp [Memory.get, here, ih]

theorem Memory.get_unlisted (absent : ∀ c ∈ m, c.1 ≠ i) : Memory.get m i = unlisted := by
  induction m with
  | nil => rfl
  | cons c m ih =>
    obtain ⟨other, rest⟩ := List.forall_mem_cons.mp absent
    obtain ⟨j, x⟩ := c
    simpa [Memory.get, show j ≠ i from other] using ih rest

/-- A moved byte that none of the later cells moves to stays. -/
theorem Memory.get_moved_other {r : List Host.Cell} (canonical : Memory.wf r = true)
    (others : ∀ c ∈ cs, src ≤ c.1 ∧ c.1 ≠ src + b) :
    Memory.get (cs.foldl (fun r c => Memory.put r (c.1 - src + dst) c.2) r) (dst + b) = Memory.get r (dst + b) := by
  induction cs generalizing r with
  | nil => rfl
  | cons c cs ih =>
    obtain ⟨⟨above, other⟩, rest⟩ := List.forall_mem_cons.mp others
    rw [List.foldl_cons, ih (Memory.wf_put canonical _ _) rest, Memory.get_put canonical, if_neg (by omega)]

theorem Memory.lt_of_wfFrom {lo : Nat} (canonical : Memory.wfFrom (some lo) m = true) : ∀ c ∈ m, lo < c.1 := by
  induction m generalizing lo with
  | nil => simp
  | cons c m ih =>
    obtain ⟨j, x⟩ := c
    obtain ⟨above, -, rest⟩ := (Memory.wfFrom_cons ..).mp canonical
    rw [Memory.above_some] at above
    exact List.forall_mem_cons.mpr ⟨above, fun c listed => above.trans (ih rest c listed)⟩

/-- Cells of a canonical list, moved to a place where a byte is unlisted, give the byte as it stood. -/
theorem Memory.get_moved {r : List Host.Cell} (canonical : Memory.wf cs = true) (into : Memory.wf r = true)
    (above : ∀ c ∈ cs, src ≤ c.1) (free : Memory.get r (dst + b) = unlisted) :
    Memory.get (cs.foldl (fun r c => Memory.put r (c.1 - src + dst) c.2) r) (dst + b) = Memory.get cs (src + b) := by
  induction cs generalizing r with
  | nil => exact free
  | cons c cs ih =>
    obtain ⟨j, x⟩ := c
    obtain ⟨least, rest⟩ := List.forall_mem_cons.mp above
    obtain ⟨-, -, tail⟩ := (Memory.wfFrom_cons ..).mp canonical
    have next := Memory.wf_put into (j - src + dst) x
    have least : src ≤ j := least
    rw [List.foldl_cons, Memory.get]
    by_cases here : j = src + b
    · rw [if_pos here, Memory.get_moved_other next fun c listed => ⟨rest c listed, ?_⟩, Memory.get_put into, if_pos (by omega)]
      have := Memory.lt_of_wfFrom tail c listed
      omega
    · rw [if_neg here]
      exact ih (Memory.wf_of_wfFrom tail) next rest (by rw [Memory.get_put into, if_neg (by omega), free])

theorem Memory.get_copy (canonical : Memory.wf m = true) (inside : b < n) :
    Memory.get (Memory.copy m src dst n) (dst + b) = Memory.get m (src + b) := by
  rw [Memory.copy, Memory.get_moved (Memory.wf_filter canonical _) (Memory.wf_filter canonical _)]
  · exact Memory.get_filter _ fun x => by simp; omega
  · intro c listed
    have := (List.mem_filter.mp listed).2
    simp only [Bool.and_eq_true, decide_eq_true_eq] at this
    omega
  · refine Memory.get_unlisted fun c listed => ?_
    have := (List.mem_filter.mp listed).2
    simp only [Bool.or_eq_true, decide_eq_true_eq] at this
    omega

end

/-! ## Entries written blindly -/

/-- The state without its cores, pools and migrations, which a write of a table entry does not read. -/
def State.beneath (s : State) : State := { s with cores := [], pools := [], migrations := [] }

/-- A step that leaves the same beneath whatever the cores, the pools and the migrations are. -/
def Blind (f : State → State) : Prop := ∀ s, (f s.beneath).beneath = (f s).beneath

theorem Blind.congr {f : State → State} (h : Blind f) (same : s.beneath = t.beneath) : (f s).beneath = (f t).beneath := by
  rw [← h s, same, h t]
theorem Blind.comp {f g : State → State} (hf : Blind f) (hg : Blind g) : Blind fun s => g (f s) := fun s => hg.congr (hf s)
theorem Blind.foldl {α : Type} {f : State → α → State} (h : ∀ x, Blind fun s => f s x) (xs : List α) : Blind fun s => xs.foldl f s := by
  induction xs with
  | nil => exact fun _ => rfl
  | cons x xs ih => exact (h x).comp ih
theorem Blind.ite {c : State → Bool} {f g : State → State} (reads : ∀ s, c s.beneath = c s) (hf : Blind f) (hg : Blind g) :
    Blind fun s => if c s then f s else g s := by
  intro s
  dsimp only
  rw [reads]
  split
  · exact hf s
  · exact hg s

theorem blind_id : Blind fun s => s := fun _ => rfl
theorem blind_delL2 (d line : Nat) : Blind fun s => s.delL2 d line := fun _ => rfl
theorem blind_dropInv (d line : Nat) : Blind fun s => dropInv s d line := fun _ => rfl
theorem blind_l1DropLine (core line : Nat) : Blind fun s => l1DropLine s core line := fun _ => rfl
theorem blind_writeBack (d line : Nat) : Blind fun s => writeBack s d line := by
  intro s
  beta_reduce
  unfold writeBack
  rw [show s.beneath.l2? d line = s.l2? d line from rfl]
  split
  · rfl
  · rfl

theorem blind_flushLine (line : Nat) : Blind fun s => flushLine s line false := by
  refine .foldl (fun d s => ?_) allDies
  dsimp only
  rw [show s.beneath.l2? d line = s.l2? d line from rfl]
  split
  · rfl
  · rename_i l _
    have written : Blind fun s => if (holds s line d && (l.st == .m || l.st == .o)) = true then writeBack s d line else s :=
      .ite (fun _ => rfl) (blind_writeBack d line) blind_id
    exact (written.comp (.comp (blind_delL2 d line) (blind_dropInv d line))) s

theorem blind_dropCopies (line : Nat) : Blind fun s => dropCopies s line := by
  unfold dropCopies
  generalize upTo 128 = cores
  have caches : Blind fun s => cores.foldl (fun s c => l1DropLine s c line) s := .foldl (fun c => blind_l1DropLine c line) _
  exact (blind_flushLine line).comp caches
theorem blind_reseal (sector : Nat) (c : Option Cipher) : Blind fun s => s.reseal sector c := by
  intro s
  beta_reduce
  unfold State.reseal
  rw [show s.beneath.sealAt sector = s.sealAt sector from rfl]
  rfl
theorem blind_unsealLine (line : Nat) (c : Nat → Option Cipher) : Blind fun s => s.unsealLine line c := by
  have resealed : Blind fun s => (upTo 4).foldl (fun s k => s.reseal (4 * line + k) (c k)) (dropCopies s line) :=
    (blind_dropCopies line).comp (.foldl (fun k => blind_reseal (4 * line + k) (c k)) (upTo 4))
  exact blind_id.ite (c := fun s => (upTo 4).all fun k => s.shownAs (4 * line + k) == c k) (fun _ => rfl) resealed

theorem blind_dirWrite (ppa n x : Nat) : Blind fun s => dirWrite s ppa n x := by
  refine Blind.comp (.foldl (fun d s => ?_) allDies) (g := fun s => { s with dram := Memory.write s.dram ppa n x }) fun _ => rfl
  dsimp only
  rw [show heldAs s.beneath (lineOf ppa) d = heldAs s (lineOf ppa) d from rfl]
  split
  · exact ((blind_writeBack d _).comp (blind_delL2 d _)) s
  · exact ((blind_writeBack d _).comp (blind_delL2 d _)) s
  · rfl
  · rfl
  · rfl

theorem blind_writeEntry (ppa x : Nat) : Blind fun s => writeEntry s ppa x := by
  have shown : Blind fun s => s.unsealLine (lineOf ppa) fun _ => none := blind_unsealLine _ _
  have written : Blind fun s => dirWrite s ppa 8 x := blind_dirWrite _ _ _
  exact shown.comp written

/-! ## Shootdown and leaf entries -/

theorem lines_of_shootdown (s : State) (page : PageKey) : (shootdown s page).dram = s.dram ∧ (shootdown s page).l2 = s.l2 :=
  ⟨foldl_keeps State.dram (fun _ _ => rfl) allDies s, foldl_keeps State.l2 (fun _ _ => rfl) allDies s⟩

theorem die_setDie (s : State) (k : Nat) (x : Die) (d : Nat) : (s.setDie k x).die d = if d = k then x else s.die d := by
  by_cases same : d = k
  · subst same
    simp [State.setDie, State.die]
  · simp [State.setDie, State.die, aget_aset_ne, same]

theorem foldl_drops (ds : List Nat) (s : State) (page : PageKey) {d : Nat} (here : d ∈ ds ∨ aget? page (s.die d).tlb = none) :
    aget? page ((ds.foldl (fun s d => s.setDie d { s.die d with tlb := adel page (s.die d).tlb }) s).die d).tlb = none := by
  induction ds generalizing s with
  | nil => simpa using here
  | cons k ks ih =>
    refine ih _ ?_
    rw [die_setDie]
    by_cases same : d = k
    · subst same
      exact .inr (by simp)
    · simpa [same] using here

theorem tlb_of_shootdown (s : State) (page : PageKey) {d : Nat} (inside : d < 4) : aget? page ((shootdown s page).die d).tlb = none :=
  foldl_drops allDies s page (.inl (by simp [allDies]; omega))

theorem leafAddr_of_beneath (same : s.beneath = t.beneath) (e x : Nat) : leafAddr s e x = leafAddr t e x := by
  have dram : s.dram = t.dram := (congrArg State.dram same :)
  have l2 : s.l2 = t.l2 := (congrArg State.l2 same :)
  have dies : s.dies = t.dies := (congrArg State.dies same :)
  have read := coherentRead_of_same dram l2 dies
  simp only [leafAddr, read]

theorem setLeaf_at {a : Nat} (place : leafAddr s e (pageBase e page.page) = some a) (leaf : Nat) :
    setLeaf s e page leaf = shootdown (writeEntry s a leaf) page := by
  rw [show @setLeaf = delta% @setLeaf from rfl]
  beta_reduce
  rw [place]
theorem setLeaf_none (place : leafAddr s e (pageBase e page.page) = none) (leaf : Nat) : setLeaf s e page leaf = s := by
  rw [show @setLeaf = delta% @setLeaf from rfl]
  beta_reduce
  rw [place]

/-- An entry that is written and shot down is what its table then holds, whatever the pools and migrations are. -/
theorem entryBecomes_setLeaf (same : s.beneath = t.beneath) (e : Nat) (page : PageKey) (leaf : Nat) :
    EntryBecomes t (setLeaf s e page leaf) e page leaf := by
  intro a place
  have place' : leafAddr s e (pageBase e page.page) = some a := (leafAddr_of_beneath same ..).trans place
  have written := (blind_writeEntry a leaf).congr same
  rw [setLeaf_at place']
  beta_reduce at written
  generalize writeEntry s a leaf = u at written ⊢
  generalize writeEntry t a leaf = v at written ⊢
  obtain ⟨dram, l2⟩ := lines_of_shootdown u page
  exact ⟨dram.trans (congrArg State.dram written :), l2.trans (congrArg State.l2 written :), fun d => tlb_of_shootdown u page⟩

theorem EntryBecomes.of_same {u : State} (h : EntryBecomes s t e page leaf) (dram : u.dram = t.dram) (l2 : u.l2 = t.l2)
    (dies : u.dies = t.dies) : EntryBecomes s u e page leaf := by
  intro a place
  obtain ⟨dram', l2', tlb⟩ := h a place
  refine ⟨dram.trans dram', l2.trans l2', fun d inside => ?_⟩
  rw [State.die, dies]
  exact tlb d inside

@[simp] theorem still_setLeaf (s : State) (e : Nat) (page : PageKey) (leaf : Nat) : (setLeaf s e page leaf).still = s.still := by
  cases place : leafAddr s e (pageBase e page.page) with
  | none => rw [setLeaf_none place]
  | some a => rw [setLeaf_at place, still_shootdown, still_writeEntry]

/-! ## Purged lines -/

theorem l2_writeBack (s : State) (d line : Nat) : (writeBack s d line).l2 = s.l2 := by
  unfold writeBack
  split
  · rfl
  · rfl

/-- One die's copy of a line is written back and goes. -/
def flushOne (s : State) (line d : Nat) : State :=
  match s.l2? d line with
  | none => s
  | some l =>
    let s := if holds s line d && (l.st == .m || l.st == .o) then writeBack s d line else s
    dropInv (s.delL2 d line) d line

theorem flushLine_eq (s : State) (line : Nat) : flushLine s line false = allDies.foldl (fun s d => flushOne s line d) s := rfl

theorem l2?_flushOne (s : State) (line k d line' : Nat) :
    (flushOne s line k).l2? d line' = if (d, line') = (k, line) then none else s.l2? d line' := by
  unfold flushOne
  split
  · rename_i absent
    by_cases same : (d, line') = (k, line)
    · rw [if_pos same]
      obtain ⟨rfl, rfl⟩ := Prod.mk.inj same
      exact absent
    · rw [if_neg same]
  · rename_i l _
    extract_lets u
    have l2 : u.l2 = s.l2 := by
      simp only [u]
      split
      · exact l2_writeBack ..
      · rfl
    refine (l2?_delL2 u k line d line').trans ?_
    rw [State.l2?, State.l2?, l2]
    simp only [Prod.mk.injEq]

theorem foldl_flushOne (ds : List Nat) (s : State) (line d line' : Nat) : (ds.foldl (fun s d => flushOne s line d) s).l2? d line' =
    if d ∈ ds ∧ line' = line then none else s.l2? d line' := by
  induction ds generalizing s with
  | nil => simp
  | cons k ks ih =>
    rw [List.foldl_cons, ih, l2?_flushOne]
    simp only [Prod.mk.injEq, List.mem_cons]
    split_ifs <;> tauto

theorem l2?_flushLine (s : State) (line : Nat) {d : Nat} (inside : d < 4) (line' : Nat) :
    (flushLine s line false).l2? d line' = if line' = line then none else s.l2? d line' := by
  have listed : d ∈ allDies := by simp [allDies]; omega
  rw [flushLine_eq, foldl_flushOne]
  simp [listed]

theorem l2?_flushLines (lines : List Nat) (s : State) {d : Nat} (inside : d < 4) (line' : Nat) :
    (lines.foldl (fun s line => flushLine s line false) s).l2? d line' = if line' ∈ lines then none else s.l2? d line' := by
  induction lines generalizing s with
  | nil => simp
  | cons line lines ih =>
    rw [List.foldl_cons, ih, l2?_flushLine s line inside]
    simp only [List.mem_cons]
    split_ifs <;> tauto

theorem purgeLines_l2 (s : State) {hit : Nat → Bool} {line : Nat} (inside : hit line = true) {d : Nat} (die : d < 4) :
    (purgeLines s hit).l2? d line = none := by
  unfold purgeLines
  extract_lets u
  have l2 : ((upTo 128).foldl (fun s core =>
      let c := s.core core
      if c.l1.any fun x => hit x.1 then s.setCore core { c with l1 := c.l1.filter fun x => !hit x.1 } else s) u).l2 = u.l2 := by
    refine foldl_keeps State.l2 (fun t core => ?_) _ u
    extract_lets c
    split
    · rfl
    · rfl
  refine (congrArg (aget? (d, line)) l2).trans ((l2?_flushLines _ s die line).trans ?_)
  by_cases listed : line ∈ (((s.l2.map fun x => x.1.2).filter hit).eraseDups)
  · exact if_pos listed
  · rw [if_neg listed]
    cases found : s.l2? d line with
    | none => rfl
    | some l =>
      refine absurd (List.mem_eraseDups.mpr (List.mem_filter.mpr ⟨List.mem_map.mpr ⟨_, aget?_mem found, rfl⟩, inside⟩)) listed

@[simp] theorem still_flushLines (lines : List Nat) (keep : Bool) (s : State) :
    (lines.foldl (fun s line => flushLine s line keep) s).still = s.still := foldl_keeps State.still (fun _ _ => still_flushLine ..) lines s

@[simp] theorem still_flushRange (s : State) (a n : Nat) (keep : Bool) : (flushRange s a n keep).still = s.still := still_flushLines ..

@[simp] theorem still_purgeLines (s : State) (hit : Nat → Bool) : (purgeLines s hit).still = s.still := by
  unfold purgeLines
  extract_lets u
  have flushed : u.still = s.still := still_flushLines ..
  refine (foldl_keeps State.still (fun t core => ?_) _ u).trans flushed
  extract_lets c
  split
  · rfl
  · rfl

end Sys2Proof.Machine
end

section
/-! Pages that migrate, are quarantined and restored, and copy on write (19_package_memory.md R388, 20_versioned_memory.md R396 to
R398, 25_resilience.md R446). -/

namespace Sys2Proof.Machine

variable {s : State} {e : Nat} {page : PageKey} {m : Migration} {leaf home frame : Nat}

theorem migration?_page (found : s.migration? page = some m) : m.page = page := by simpa using List.find?_some found

theorem migration?_delMigration (s : State) (page : PageKey) : (s.delMigration page).migration? page = none :=
  List.find?_eq_none.mpr fun m listed => by simpa using (List.mem_filter.mp listed).2

/-! ## Pools of frames -/

theorem poolOf_useFrame (s : State) (home frame n f : Nat) :
    f ∈ poolOf (useFrame s home frame n) home ↔ f ∈ poolOf s home ∧ ¬(frame ≤ f ∧ f < frame + n) := by
  simp only [useFrame, poolOf, aget_aset_same, List.mem_filter, Bool.or_eq_true, decide_eq_true_eq]
  rw [show (f < frame ∨ frame + n ≤ f) ↔ ¬(frame ≤ f ∧ f < frame + n) by omega]

theorem poolOf_freeFrame (s : State) (home frame n g : Nat) : g ∈ poolOf (freeFrame s home frame n) home ↔
    g ∈ poolOf s home ∨ (frame ≤ g ∧ g < frame + n ∧ wornUnit s home g = false) := by
  simp only [freeFrame, poolOf, aget_aset_same, List.mem_append, List.mem_filter, List.mem_map, Bool.not_eq_true']
  refine or_congr_right ⟨?_, ?_⟩
  · rintro ⟨⟨i, below, rfl⟩, good⟩
    have : i < n := by simpa using below
    exact ⟨by omega, by omega, good⟩
  · rintro ⟨above, below, good⟩
    exact ⟨⟨g - frame, by simp; omega, by omega⟩, good⟩

theorem poolOf_of_still {t : State} (still : t.still = s.still) (k : Nat) : poolOf t k = poolOf s k := by
  have pools : t.pools = s.pools := (congrArg State.pools still :)
  rw [poolOf, poolOf, pools]
theorem wornUnit_of_still {t : State} (still : t.still = s.still) (k f : Nat) : wornUnit t k f = wornUnit s k f := by
  have table : t.stackTab = s.stackTab := (congrArg State.stackTab still :)
  rw [wornUnit, wornUnit, State.stack, State.stack, table]

theorem migrations_of_still {t : State} (still : t.still = s.still) : t.migrations = s.migrations := (congrArg State.migrations still :)

theorem poolOf_setLeaf (s : State) (e : Nat) (page : PageKey) (leaf k : Nat) : poolOf (setLeaf s e page leaf) k = poolOf s k :=
  poolOf_of_still (still_setLeaf ..) k
theorem wornUnit_setLeaf (s : State) (e : Nat) (page : PageKey) (leaf k f : Nat) :
    wornUnit (setLeaf s e page leaf) k f = wornUnit s k f := wornUnit_of_still (still_setLeaf ..) k f
theorem migrations_setLeaf (s : State) (e : Nat) (page : PageKey) (leaf : Nat) :
    (setLeaf s e page leaf).migrations = s.migrations :=
  migrations_of_still (still_setLeaf s e page leaf)

theorem beneath_useFrame (s : State) (home frame n : Nat) : (useFrame s home frame n).beneath = s.beneath := rfl
theorem beneath_freeFrame (s : State) (home frame n : Nat) : (freeFrame s home frame n).beneath = s.beneath := rfl
theorem beneath_delMigration (s : State) (page : PageKey) : (s.delMigration page).beneath = s.beneath := rfl
theorem beneath_rebasePartials (s : State) (e old new : Nat) : (rebasePartials s e old new).beneath = s.beneath := rfl

/-! ## Migration (19 R388) -/

/-- A migration that has begun. -/
def State.addMigration (s : State) (m : Migration) : State := { s with migrations := s.migrations ++ [m] }

section
variable {t : State}

theorem poolOf_addMigration (t : State) (m : Migration) (k : Nat) : poolOf (t.addMigration m) k = poolOf t k := rfl
theorem migrations_addMigration (t : State) (m : Migration) : (t.addMigration m).migrations = t.migrations ++ [m] := rfl
theorem poolOf_delMigration (t : State) (page : PageKey) (k : Nat) : poolOf (t.delMigration page) k = poolOf t k := rfl
theorem EntryBecomes.addMigration (h : EntryBecomes s t e page leaf) (m : Migration) : EntryBecomes s (t.addMigration m) e page leaf :=
  h.of_same rfl rfl rfl
theorem EntryBecomes.delMigration (h : EntryBecomes s t e page leaf) (k : PageKey) : EntryBecomes s (t.delMigration k) e page leaf :=
  h.of_same rfl rfl rfl
theorem EntryBecomes.freeFrame (h : EntryBecomes s t e page leaf) (home frame n : Nat) :
    EntryBecomes s (Machine.freeFrame t home frame n) e page leaf := h.of_same rfl rfl rfl

end

/-- The state in which a page's migration has begun. -/
def migrationBegun (s : State) (e : Nat) (page : PageKey) (leaf home frame : Nat) : State :=
  (setLeaf (useFrame s home frame (pageUnits e)) e page (withState leaf 2)).addMigration
    { page := page, old := leaf, home := home, frame := frame, step := 1 }

theorem execMigrationBegin_begins (entry : bufOf s page.ctx page.buf = some e) (input : s.input = .migrationBegin page home frame)
    (walks : walk s e (pageBase e page.page) = some leaf) (good : leafBad e leaf = false) (own : bufPeer e = false)
    (booted : s.booted = true) (up : s.out .monument = false) (free : leafHeld s e (pageBase e page.page) = false)
    (interleave : bufIlv e ≠ 2) (state : leafState leaf ≤ 1) (still : s.migration? page = none) (uncopied : page ∉ s.cows)
    (fits : frameGood s e home frame = true) : execMigrationBegin s = .next (migrationBegun s e page leaf home frame) := by
  have go : (s.booted && !s.out .monument && !bufPeer e && bufIlv e != 2 && !leafBad e leaf && decide (leafState leaf ≤ 1) &&
      (s.migration? page).isNone && !s.cows.contains page && frameGood s e home frame &&
      !leafHeld s e (pageBase e page.page)) = true := by
    simp [booted, up, own, interleave, good, state, still, uncopied, fits, free]
  rw [show @execMigrationBegin = delta% @execMigrationBegin from rfl, migrationBegun]
  clear fits still
  revert walks go
  induction @setLeaf using of_forall with | _ setLeaf
  induction @walk using of_forall with | _ walk
  intro walks go
  beta_reduce
  rw [input]
  dsimp only
  rw [entry]
  dsimp only
  rw [walks]
  exact if_pos go

theorem migrationBegun_keeps (s : State) (e : Nat) (page : PageKey) (leaf home frame : Nat) :
    EntryBecomes s (migrationBegun s e page leaf home frame) e page (withState leaf 2) ∧
    (∀ f, f ∈ poolOf (migrationBegun s e page leaf home frame) home ↔
      f ∈ poolOf s home ∧ ¬(frame ≤ f ∧ f < frame + pageUnits e)) ∧
    (migrationBegun s e page leaf home frame).migrations =
      s.migrations ++ [{ page := page, old := leaf, home := home, frame := frame, step := 1 }] := by
  refine ⟨(entryBecomes_setLeaf (beneath_useFrame ..) _ _ _).addMigration _, fun f => ?_, ?_⟩
  · rw [migrationBegun, poolOf_addMigration, poolOf_setLeaf, poolOf_useFrame]
  · rw [migrationBegun, migrations_addMigration, migrations_setLeaf]
    rfl

/-- The state in which a migration has ended for an error, its held accesses still to replay. -/
def migrationAborted (s : State) (e : Nat) (m : Migration) : State :=
  (setLeaf (freeFrame s m.home m.frame (pageUnits e)) e m.page m.old).delMigration m.page

theorem abortMigration_eq (s : State) (e : Nat) (m : Migration) : abortMigration s e m = replayHeld (migrationAborted s e m) m.page := rfl

theorem migrationAborted_keeps (s : State) (e : Nat) (m : Migration) :
    EntryBecomes s (migrationAborted s e m) e m.page m.old ∧ (migrationAborted s e m).migration? m.page = none := by
  exact ⟨(entryBecomes_setLeaf (beneath_freeFrame ..) _ _ _).delMigration _, migration?_delMigration ..⟩

/-- A page's migration may be copied. -/
def State.drainMigration (s : State) (page : PageKey) : State :=
  { s with migrations := s.migrations.map fun n => if n.page == page then { n with step := 2 } else n }

theorem drainMigration_keeps (s : State) (page : PageKey) : (s.drainMigration page).migrations =
    (s.migrations.map fun n => if n.page = page then { n with step := 2 } else n) ∧
    ∀ d line, (s.drainMigration page).l2? d line = s.l2? d line := by
  refine ⟨?_, fun d line => rfl⟩
  simp only [State.drainMigration, beq_iff_eq]

theorem execMigrationDrained_eq (entry : bufOf s page.ctx page.buf = some e) (found : s.migration? page = some m)
    (input : s.input = .migrationDrained page) (step : m.step = 1) (idle : pageBusy s e m.old = false)
    (ports : frameBusy s e m.old = false) (free : leafHeld s e (pageBase e page.page) = false) :
    execMigrationDrained s = .next (if pageDamaged s e m.old page then abortMigration s e m
      else (purgeRange s (frameBytes e m.old).1 (frameBytes e m.old).2).drainMigration page) := by
  have go : (m.step == 1 && !pageBusy s e m.old && !frameBusy s e m.old && !leafHeld s e (pageBase e page.page)) = true := by
    simp [step, idle, ports, free]
  rw [show @execMigrationDrained = delta% @execMigrationDrained from rfl]
  beta_reduce
  rw [input]
  dsimp only
  rw [entry, found]
  exact if_pos go

/-- The state in which a page stands in its new frame, its held accesses still to replay. -/
def migrationMoved (s : State) (e : Nat) (m : Migration) (page : PageKey) : State :=
  let new := moveLeaf m.old m.home m.frame
  let t := rebasePartials (copyFrame s e m.old new) e m.old new
  (freeFrame (setLeaf t e page new) (leafHome m.old) (leafFrame m.old) (pageUnits e)).delMigration page

theorem execMigrationCopyDone_eq (entry : bufOf s page.ctx page.buf = some e) (found : s.migration? page = some m)
    (input : s.input = .migrationCopyDone page) (step : m.step = 2) (ports : frameBusy s e m.old = false)
    (target : frameBusy s e (moveLeaf m.old m.home m.frame) = false) (free : leafHeld s e (pageBase e page.page) = false) :
    execMigrationCopyDone s = .next (if pageDamaged s e m.old page then abortMigration s e m
      else replayHeld (migrationMoved s e m page) page) := by
  have go : (m.step == 2 && !frameBusy s e m.old && !frameBusy s e (moveLeaf m.old m.home m.frame) &&
      !leafHeld s e (pageBase e page.page)) = true := by simp [step, ports, target, free]
  rw [show @execMigrationCopyDone = delta% @execMigrationCopyDone from rfl]
  beta_reduce
  rw [input]
  dsimp only
  rw [entry, found]
  exact if_pos go

theorem still_rebasePartials (s : State) (e old new : Nat) : (rebasePartials s e old new).still = s.still := rfl

theorem wornUnit_moved (s : State) (e old new e' old' new' k f : Nat) :
    wornUnit (rebasePartials (copyFrame s e old new) e' old' new') k f = wornUnit s k f := rfl

theorem migrationMoved_keeps (s : State) (e : Nat) (m : Migration) (page : PageKey) :
    EntryBecomes (rebasePartials (copyFrame s e m.old (moveLeaf m.old m.home m.frame)) e m.old (moveLeaf m.old m.home m.frame))
      (migrationMoved s e m page) e page (moveLeaf m.old m.home m.frame) ∧
    (migrationMoved s e m page).migration? page = none ∧
    ∀ i < pageUnits e, wornUnit s (leafHome m.old) (leafFrame m.old + i) = false →
      leafFrame m.old + i ∈ poolOf (migrationMoved s e m page) (leafHome m.old) := by
  refine ⟨((entryBecomes_setLeaf rfl _ _ _).freeFrame _ _ _).delMigration _, migration?_delMigration .., fun i below good => ?_⟩
  rw [migrationMoved, poolOf_delMigration, poolOf_freeFrame, wornUnit_setLeaf, wornUnit_moved]
  exact .inr ⟨by omega, by omega, good⟩

/-! ## Quarantine and restoration (25 R446) -/

/-- A migration of a page given up, its new frame freed. -/
def migrationDropped (s : State) (e : Nat) (page : PageKey) : State :=
  match s.migration? page with
  | some m => (freeFrame s m.home m.frame (pageUnits e)).delMigration page
  | none => s

/-- A page is noted as quarantined, and its copy on write forgotten. -/
def State.noteQuarantine (s : State) (page : PageKey) (old : Nat) : State :=
  { s with cows := s.cows.filter (· ≠ page), quars := aset page old s.quars }

/-- The state in which a page is quarantined, its held accesses still to replay. -/
def quarantined (s : State) (e : Nat) (page : PageKey) (leaf : Nat) : State :=
  (setLeaf (migrationDropped s e page) e page (withState (earlierLeaf s page leaf) 3)).noteQuarantine page (earlierLeaf s page leaf)

/-- The error channel of a page (25 R442). -/
def pageChannel (s : State) (e : Nat) (page : PageKey) (leaf : Nat) : Nat :=
  let k := s.ppaPc (leafPpa e leaf (pageBase e page.page))
  portChannel k.1 k.2

theorem quarantine_eq (s : State) (e : Nat) (page : PageKey) (leaf : Nat) :
    quarantine s e page leaf = reportEvent (replayHeld (quarantined s e page leaf) page)
      (pageChannel (quarantined s e page leaf) e page (earlierLeaf s page leaf)) 3 5 2 (page.buf * 2 ^ 44 + pageBase e page.page) 0 := rfl

theorem execPageQuarantine_eq (entry : bufOf s page.ctx page.buf = some e) (input : s.input = .pageQuarantine page)
    (walks : walk s e (pageBase e page.page) = some leaf) (good : leafBad e leaf = false) (own : bufPeer e = false)
    (booted : s.booted = true) (up : s.out .monument = false) (free : leafHeld s e (pageBase e page.page) = false)
    (state : leafState leaf ≠ 3) : execPageQuarantine s = .next (quarantine s e page leaf) := by
  have go : (s.booted && !s.out .monument && !bufPeer e && !leafBad e leaf && leafState leaf != 3 &&
      !leafHeld s e (pageBase e page.page)) = true := by simp [booted, up, own, good, state, free]
  rw [show @execPageQuarantine = delta% @execPageQuarantine from rfl]
  revert walks
  induction @walk using of_forall with | _ walk
  intro walks
  beta_reduce
  rw [input]
  dsimp only
  rw [entry]
  dsimp only
  rw [walks]
  exact if_pos go

theorem EntryBecomes.noteQuarantine {t : State} (h : EntryBecomes s t e page leaf) (k : PageKey) (old : Nat) :
    EntryBecomes s (t.noteQuarantine k old) e page leaf := h.of_same rfl rfl rfl
theorem noteQuarantine_keeps (s : State) (page : PageKey) (old : Nat) : aget? page (s.noteQuarantine page old).quars = some old ∧
    page ∉ (s.noteQuarantine page old).cows ∧ (s.noteQuarantine page old).migrations = s.migrations :=
  ⟨aget?_aset_same .., fun listed => by simpa using (List.mem_filter.mp listed).2, rfl⟩

theorem beneath_migrationDropped (s : State) (e : Nat) (page : PageKey) : (migrationDropped s e page).beneath = s.beneath := by
  unfold migrationDropped
  split
  · rfl
  · rfl
theorem migration?_migrationDropped (s : State) (e : Nat) (page : PageKey) : (migrationDropped s e page).migration? page = none := by
  unfold migrationDropped
  split
  · exact migration?_delMigration ..
  · assumption

theorem quarantined_keeps (s : State) (e : Nat) (page : PageKey) (leaf : Nat) :
    EntryBecomes s (quarantined s e page leaf) e page (withState (earlierLeaf s page leaf) 3) ∧
    aget? page (quarantined s e page leaf).quars = some (earlierLeaf s page leaf) ∧ page ∉ (quarantined s e page leaf).cows ∧
    (quarantined s e page leaf).migration? page = none := by
  obtain ⟨noted, forgotten, migrations⟩ := noteQuarantine_keeps
    (setLeaf (migrationDropped s e page) e page (withState (earlierLeaf s page leaf) 3)) page (earlierLeaf s page leaf)
  rw [migrations_setLeaf] at migrations
  refine ⟨(entryBecomes_setLeaf (beneath_migrationDropped ..) _ _ _).noteQuarantine _ _, noted, forgotten, ?_⟩
  exact (congrArg (List.find? _) migrations :).trans (migration?_migrationDropped s e page)

/-! ## Frees of history frames (20 R397) -/

theorem execHistoryFrameFree_frees {sn : Snap} {slot ha h : Nat} (entry : bufOf s page.ctx page.buf = some e)
    (listed : s.snap? page.ctx page.buf = some sn) (inside : slot < 15) (walks : walk s e (pageBase e page.page) = some leaf)
    (place : histAddr s e (pageBase e page.page) slot = some ha) (history : histEntry s e (pageBase e page.page) slot = h)
    (used : leafV h = true) (ports : frameBusy s e h = false) (free : leafHeld s e (pageBase e page.page) = false)
    (bank : inAllBank s ha = false) (kept : ∀ p ∈ keptPlats sn (bufDepth e), platEntry s e (pageBase e page.page) leaf p ≠ some h) :
    execHistoryFrameFree page slot s = .next (freeFrame
      (writeEntry (purgeRange s (frameBytes e h).1 (frameBytes e h).2) ha 0) (leafHome h) (leafFrame h) (pageUnits e)) := by
  have unkept : ((keptPlats sn (bufDepth e)).any fun p => platEntry s e (pageBase e page.page) leaf p == some h) = false :=
    List.any_eq_false.mpr fun p mem => by simpa using kept p mem
  rw [show @execHistoryFrameFree = delta% @execHistoryFrameFree from rfl]
  clear kept
  revert walks place history unkept
  induction @writeEntry using of_forall with | _ writeEntry
  induction @purgeRange using of_forall with | _ purgeRange
  induction @walk using of_forall with | _ walk
  induction @histAddr using of_forall with | _ histAddr
  induction @histEntry using of_forall with | _ histEntry
  induction @platEntry using of_forall with | _ platEntry
  intro walks place history unkept
  beta_reduce
  rw [entry, listed]
  dsimp only
  rw [walks, place, history]
  dsimp only
  rw [unkept]
  exact if_pos (by simp [inside, used, ports, free, bank])

theorem historyFreed_keeps (s : State) (e ha h : Nat) :
    let u := writeEntry (purgeRange s (frameBytes e h).1 (frameBytes e h).2) ha 0
    let t := freeFrame u (leafHome h) (leafFrame h) (pageUnits e)
    t.bufs = s.bufs ∧ t.snaps = s.snaps ∧ t.dram = u.dram ∧ t.l2 = u.l2 ∧
      ∀ g, g ∈ poolOf t (leafHome h) ↔ g ∈ poolOf s (leafHome h) ∨
        (leafFrame h ≤ g ∧ g < leafFrame h + pageUnits e ∧ wornUnit s (leafHome h) g = false) := by
  intro u
  have still : u.still = s.still := (still_writeEntry ..).trans (still_purgeLines ..)
  clear_value u
  refine ⟨(show _ = u.bufs from rfl).trans (bufs_of_still still), (show _ = u.snaps from rfl).trans (snaps_of_still still), rfl, rfl,
    fun g => ?_⟩
  rw [poolOf_freeFrame, poolOf_of_still still, wornUnit_of_still still]

/-! ## Copy on write (20 R396, R398) -/

/-- A page whose copy on write is done. -/
def State.forgetCow (s : State) (page : PageKey) : State := { s with cows := s.cows.filter (· ≠ page) }

/-- The frame of a page copied to another, every cached line of both written back. -/
def frameCopied (s : State) (e leaf new : Nat) : State :=
  copyFrame (purgeRange (flushRange s (frameBytes e leaf).1 (frameBytes e leaf).2 true) (frameBytes e new).1 (frameBytes e leaf).2)
    e leaf new

/-- The entries of a page and of its history written. -/
def entriesWritten (s : State) (leaf new la ha : Nat) : State :=
  writeEntry (writeEntry s ha (mkLeaf (leafVer leaf) 0 (leafHome leaf) (leafFrame leaf))) la new

/-- The state in which a page's copy stands in its table, its held accesses still to replay. -/
def copiedOnWrite (s' : State) (e : Nat) (page : PageKey) (leaf new la ha : Nat) : State :=
  (shootdown (entriesWritten (rebasePartials (frameCopied s' e leaf new) e leaf new) leaf new la ha) page).forgetCow page

theorem execCowComplete_copies {sn : Snap} {la ha i f : Nat} {s' : State} (entry : bufOf s page.ctx page.buf = some e)
    (listed : s.snap? page.ctx page.buf = some sn) (place : leafAddr s e (pageBase e page.page) = some la)
    (cow : page ∈ s.cows) (read : coherentRead s la 8 = leaf) (valid : leafV leaf = true) (state : leafState leaf = 1)
    (ports : frameBusy s e leaf = false) (free : leafHeld s e (pageBase e page.page) = false) (bank : inAllBank s ha = false)
    (slot : Lowest 15 i fun j => leafV (histEntry s e (pageBase e page.page) j) = false)
    (history : histAddr s e (pageBase e page.page) i = some ha) (taken : takeFrame s (leafHome leaf) (pageUnits e) = some (f, s')) :
    execCowComplete page s =
      .next (replayHeld (copiedOnWrite s' e page leaf (mkLeaf sn.opn 0 (leafHome leaf) f) la ha) page) := by
  have found : ((upTo 15).find? fun i => !leafV (histEntry s e (pageBase e page.page) i)) = some i :=
    find_upTo_eq_some.mpr (by simpa using slot)
  clear slot
  rw [show @execCowComplete = delta% @execCowComplete from rfl, show @copiedOnWrite = delta% @copiedOnWrite from rfl,
    show @frameCopied = delta% @frameCopied from rfl, show @entriesWritten = delta% @entriesWritten from rfl]
  revert place read history taken found
  induction @leafAddr using of_forall with | _ leafAddr
  induction @coherentRead using of_forall with | _ coherentRead
  induction @histEntry using of_forall with | _ histEntry
  induction @histAddr using of_forall with | _ histAddr
  induction @takeFrame using of_forall with | _ takeFrame
  induction @replayHeld using of_forall with | _ replayHeld
  induction @shootdown using of_forall with | _ shootdown
  induction @writeEntry using of_forall with | _ writeEntry
  intro place read history taken found
  beta_reduce
  rw [entry, listed]
  dsimp only
  rw [place]
  dsimp only
  rw [read, found, taken]
  dsimp only
  rw [history]
  exact if_pos (by simp [cow, valid, state, ports, free, bank])

theorem takeFrame_keeps {s' : State} {k n f : Nat} (taken : takeFrame s k n = some (f, s')) : s'.bufs = s.bufs ∧ s'.snaps = s.snaps := by
  unfold takeFrame at taken
  extract_lets pool at taken
  split at taken
  · cases taken
  · cases taken
    exact ⟨rfl, rfl⟩

theorem forgetCow_keeps (s : State) (page : PageKey) : page ∉ (s.forgetCow page).cows ∧ (s.forgetCow page).still = s.still ∧
    (s.forgetCow page).dram = s.dram ∧ (s.forgetCow page).l2 = s.l2 ∧ (s.forgetCow page).dies = s.dies :=
  ⟨fun listed => by simpa using (List.mem_filter.mp listed).2, rfl, rfl, rfl, rfl⟩

theorem copyFrame_keeps (s : State) (e old new : Nat) : (copyFrame s e old new).bufs = s.bufs ∧ (copyFrame s e old new).snaps = s.snaps :=
  ⟨rfl, rfl⟩

theorem frameCopied_keeps (s : State) (e leaf new : Nat) :
    (frameCopied s e leaf new).bufs = s.bufs ∧ (frameCopied s e leaf new).snaps = s.snaps := by
  have still : (purgeRange (flushRange s (frameBytes e leaf).1 (frameBytes e leaf).2 true) (frameBytes e new).1
      (frameBytes e leaf).2).still = s.still := (still_purgeLines ..).trans (still_flushRange ..)
  obtain ⟨bufs, snaps⟩ := copyFrame_keeps (purgeRange (flushRange s (frameBytes e leaf).1 (frameBytes e leaf).2 true)
    (frameBytes e new).1 (frameBytes e leaf).2) e leaf new
  exact ⟨bufs.trans (bufs_of_still still), snaps.trans (snaps_of_still still)⟩

@[simp] theorem still_entriesWritten (s : State) (leaf new la ha : Nat) : (entriesWritten s leaf new la ha).still = s.still := by
  rw [entriesWritten, still_writeEntry, still_writeEntry]

theorem blind_entriesWritten (leaf new la ha : Nat) : Blind fun s => entriesWritten s leaf new la ha := by
  have history : Blind fun s => writeEntry s ha (mkLeaf (leafVer leaf) 0 (leafHome leaf) (leafFrame leaf)) := blind_writeEntry _ _
  have current : Blind fun s => writeEntry s la new := blind_writeEntry _ _
  intro s
  exact current.congr (history s)

theorem lines_of_beneath {t : State} (same : s.beneath = t.beneath) : s.dram = t.dram ∧ s.l2 = t.l2 :=
  ⟨(congrArg State.dram same :), (congrArg State.l2 same :)⟩

theorem copiedOnWrite_keeps (s' : State) (e : Nat) (page : PageKey) (leaf new la ha : Nat) :
    let v := entriesWritten (frameCopied s' e leaf new) leaf new la ha
    let t := copiedOnWrite s' e page leaf new la ha
    page ∉ t.cows ∧ t.bufs = s'.bufs ∧ t.snaps = s'.snaps ∧ t.dram = v.dram ∧ t.l2 = v.l2 ∧
      ∀ d < 4, aget? page (t.die d).tlb = none := by
  intro v
  obtain ⟨bufs, snaps⟩ := frameCopied_keeps s' e leaf new
  have written : Blind fun s => entriesWritten s leaf new la ha := blind_entriesWritten _ _ _ _
  have same := written.congr (beneath_rebasePartials (frameCopied s' e leaf new) e leaf new)
  have still : (shootdown (entriesWritten (rebasePartials (frameCopied s' e leaf new) e leaf new) leaf new la ha) page).still =
      (frameCopied s' e leaf new).still :=
    (still_shootdown ..).trans ((still_entriesWritten ..).trans (still_rebasePartials ..))
  have tlb {d : Nat} := tlb_of_shootdown (d := d) (entriesWritten (rebasePartials (frameCopied s' e leaf new) e leaf new) leaf new la ha)
    page
  obtain ⟨dram, l2⟩ := lines_of_shootdown (entriesWritten (rebasePartials (frameCopied s' e leaf new) e leaf new) leaf new la ha) page
  obtain ⟨dram', l2'⟩ := lines_of_beneath same
  rw [copiedOnWrite]
  generalize entriesWritten (rebasePartials (frameCopied s' e leaf new) e leaf new) leaf new la ha = x at *
  generalize shootdown x page = y at *
  obtain ⟨gone, kept, dram'', l2'', dies⟩ := forgetCow_keeps y page
  have still' := kept.trans still
  refine ⟨gone, (bufs_of_still still').trans bufs, (snaps_of_still still').trans snaps, dram''.trans (dram.trans dram'),
    l2''.trans (l2.trans l2'), fun d inside => ?_⟩
  rw [State.die, dies]
  exact tlb inside

/-! ## Restoration (25 R446) -/

@[simp] theorem still_discardLine (s : State) (line : Nat) : (discardLine s line).still = s.still := by
  refine foldl_keeps State.still (fun t d => ?_) allDies s
  rw [still_dropInv, still_delL2]

theorem still_setDram (s : State) (m : List Host.Cell) : { s with dram := m }.still = s.still := rfl

theorem zeroLost_fold (s : State) (e leaf : Nat) (page : PageKey) (bad : List Nat) : (bad.foldl (fun s line =>
    let x := pageBase e page.page + (128 * line - leafPpa e leaf (pageBase e page.page))
    let s := (discardLine s line).noteUse page.buf e x (128 * line)
    { s with dram := Memory.write s.dram (128 * line) 128 0 }) s).still = s.still := by
  refine foldl_keeps State.still (fun t line => ?_) bad s
  extract_lets x u
  have used : u.still = t.still := (still_noteUse ..).trans (still_discardLine ..)
  clear_value u
  exact (still_setDram u _).trans used

theorem lost_of_still {t : State} (still : t.still = s.still) : t.lost = s.lost ∧ t.damaged = s.damaged :=
  ⟨(congrArg State.lost still :), (congrArg State.damaged still :)⟩

/-- No line of a page is lost once its lost lines are zero. -/
theorem mem_zeroLost (s : State) (e leaf : Nat) (page : PageKey) (l : Nat) :
    (l ∈ (zeroLost s e leaf page).lost ↔ l ∈ s.lost ∧ pageHas e leaf page l = false) ∧
    (l ∈ (zeroLost s e leaf page).damaged ↔ l ∈ s.damaged ∧ pageHas e leaf page l = false) := by
  unfold zeroLost
  extract_lets bad u
  obtain ⟨lost, damaged⟩ := lost_of_still (zeroLost_fold s e leaf page bad)
  have lost : u.lost = s.lost := lost
  have damaged : u.damaged = s.damaged := damaged
  clear_value u
  have isBad : bad.contains l = true ↔ (l ∈ s.lost ∨ l ∈ s.damaged) ∧ pageHas e leaf page l = true := by
    simp only [bad, List.contains_iff_mem, List.mem_eraseDups, List.mem_filter, List.mem_append]
  simp only [List.mem_filter, lost, damaged, Bool.not_eq_true', ← Bool.not_eq_true, isBad]
  constructor <;> tauto

theorem mem_purgeLines (s : State) (hit : Nat → Bool) : (purgeLines s hit).lost = s.lost ∧ (purgeLines s hit).damaged = s.damaged :=
  lost_of_still (still_purgeLines s hit)

/-- A copy of a frame with no unreadable line leaves the unreadable lines as they were. -/
theorem copyFrame_lost (s : State) (e old new : Nat) : (copyFrame s e old new).lost = s.lost ∧
    ((∀ l ∈ s.lost ++ s.damaged, lineIn (frameBytes e old).1 (frameBytes e old).2 l = false) →
      (copyFrame s e old new).damaged = s.damaged) := by
  refine ⟨rfl, fun clean => ?_⟩
  have none : (s.lost ++ s.damaged).filter (lineIn (frameBytes e old).1 (frameBytes e old).2) = [] :=
    List.filter_eq_nil_iff.mpr fun l mem => by simp [clean l mem]
  show s.damaged ++ List.map _ ((s.lost ++ s.damaged).filter (lineIn (frameBytes e old).1 (frameBytes e old).2)) = s.damaged
  rw [none, List.map_nil, List.append_nil]

theorem useFrame_lost (s : State) (home frame n : Nat) : (useFrame s home frame n).lost = s.lost ∧
    (useFrame s home frame n).damaged = s.damaged := ⟨rfl, rfl⟩
theorem rebasePartials_lost (s : State) (e old new : Nat) : (rebasePartials s e old new).lost = s.lost ∧
    (rebasePartials s e old new).damaged = s.damaged := ⟨rfl, rfl⟩

/-- A page without its lost lines, written back, in a good frame where it is not bound to banks. -/
def frameRestored (s : State) (e : Nat) (page : PageKey) (old home frame : Nat) : State :=
  let t := purgeLines (zeroLost s e old page) (pageHas e old page)
  if bufIlv e == 2 then t
  else rebasePartials (copyFrame (useFrame t home frame (pageUnits e)) e old (moveLeaf old home frame)) e old (moveLeaf old home frame)

theorem frameRestored_lost (s : State) (e : Nat) (page : PageKey) (old home frame l : Nat) :
    (l ∈ (frameRestored s e page old home frame).lost ↔ l ∈ s.lost ∧ pageHas e old page l = false) ∧
    (l ∈ (frameRestored s e page old home frame).damaged ↔ l ∈ s.damaged ∧ pageHas e old page l = false) := by
  unfold frameRestored
  extract_lets t
  obtain ⟨lost, damaged⟩ := mem_purgeLines (zeroLost s e old page) (pageHas e old page)
  have lost : t.lost = (zeroLost s e old page).lost := lost
  have damaged : t.damaged = (zeroLost s e old page).damaged := damaged
  have members := mem_zeroLost s e old page
  rw [← lost, ← damaged] at members
  clear_value t
  split
  · exact members l
  · rename_i interleave
    have has : pageHas e old page = lineIn (frameBytes e old).1 (frameBytes e old).2 := by
      funext line
      exact if_neg interleave
    obtain ⟨usedLost, usedDamaged⟩ := useFrame_lost t home frame (pageUnits e)
    obtain ⟨copiedLost, copiedDamaged⟩ := copyFrame_lost (useFrame t home frame (pageUnits e)) e old (moveLeaf old home frame)
    obtain ⟨movedLost, movedDamaged⟩ := rebasePartials_lost
      (copyFrame (useFrame t home frame (pageUnits e)) e old (moveLeaf old home frame)) e old (moveLeaf old home frame)
    have clean : ∀ l ∈ t.lost ++ t.damaged, lineIn (frameBytes e old).1 (frameBytes e old).2 l = false := by
      intro l mem
      rw [← has]
      rcases List.mem_append.mp mem with mem | mem
      · exact ((members l).1.mp mem).2
      · exact ((members l).2.mp mem).2
    rw [usedLost, usedDamaged] at copiedDamaged
    rw [movedLost, movedDamaged, copiedLost, copiedDamaged clean, usedLost]
    exact members l

/-- A page that is no longer quarantined. -/
def State.unquarantine (s : State) (page : PageKey) : State := { s with quars := adel page s.quars }
theorem unquarantine_keeps (s : State) (page : PageKey) : aget? page (s.unquarantine page).quars = none ∧
    (s.unquarantine page).lost = s.lost ∧ (s.unquarantine page).damaged = s.damaged := ⟨aget?_adel_same .., rfl, rfl⟩

theorem execPageRestore_restores {old : Nat} (entry : bufOf s page.ctx page.buf = some e) (input : s.input = .pageRestore page home frame)
    (quarantine : aget? page s.quars = some old) (booted : s.booted = true) (up : s.out .monument = false)
    (free : leafHeld s e (pageBase e page.page) = false) (ports : frameBusy s e old = false)
    (good : bufIlv e ≠ 2 → frameGood s e home frame = true ∧ frameBusy s e (moveLeaf old home frame) = false) {new : Nat}
    (leaf : new = if bufIlv e = 2 then old else moveLeaf old home frame) :
    execPageRestore s =
      .next (reportRestored (setLeaf ((frameRestored s e page old home frame).unquarantine page) e page new) e page new) := by
  have leaf : (if (bufIlv e == 2) = true then old else moveLeaf old home frame) = new := by simp only [leaf, beq_iff_eq]
  have fits : (bufIlv e == 2 || (frameGood s e home frame && !frameBusy s e new)) = true := by
    by_cases bank : bufIlv e = 2
    · simp [bank]
    · obtain ⟨fit, idle⟩ := good bank
      rw [← leaf, if_neg (by simpa using bank)]
      simp [fit, idle]
  have place : (if (bufIlv e == 2) = true then purgeLines (zeroLost s e old page) (pageHas e old page) else
      rebasePartials (copyFrame (useFrame (purgeLines (zeroLost s e old page) (pageHas e old page)) home frame (pageUnits e)) e old new)
        e old new) = frameRestored s e page old home frame := by
    rw [frameRestored, ← leaf]
    split
    · rfl
    · rfl
  clear good
  rw [show @execPageRestore = delta% @execPageRestore from rfl]
  revert place
  generalize frameRestored s e page old home frame = t
  induction @purgeLines using of_forall with | _ purgeLines
  induction @zeroLost using of_forall with | _ zeroLost
  induction @reportRestored using of_forall with | _ reportRestored
  induction @setLeaf using of_forall with | _ setLeaf
  intro place
  beta_reduce
  rw [input]
  dsimp only
  rw [entry, quarantine]
  dsimp only
  rw [leaf, place]
  exact if_pos (by simp [booted, up, ports, free, fits])

end Sys2Proof.Machine

open Sys2Proof Sys2Proof.Machine

/-- Settles O51: each step of a page is its entry written and shot down on the state that the step leaves. -/
theorem pagesMoveAndAreCopied : Obligations.PagesMoveAndAreCopied := by
  intro s page e entry x
  refine ⟨?_, ?_, ?_, ?_, ?_, ?_, ?_, ?_⟩
  · intro leaf home frame input walks good own booted up free interleave state still uncopied fits
    exact ⟨_, execMigrationBegin_begins entry input walks good own booted up free interleave state still uncopied fits,
      migrationBegun_keeps ..⟩
  · intro m found input step idle ports free
    have runs := execMigrationDrained_eq entry found input step idle ports free
    obtain rfl := migration?_page found
    refine ⟨fun whole => ?_, fun damaged => ?_⟩
    · rw [whole] at runs
      obtain ⟨migrations, l2⟩ := drainMigration_keeps (purgeRange s (frameBytes e m.old).1 (frameBytes e m.old).2) m.page
      have purged : (purgeRange s (frameBytes e m.old).1 (frameBytes e m.old).2).still = s.still := still_purgeLines ..
      rw [migrations_of_still purged] at migrations
      exact ⟨_, runs, migrations, fun d inside line hit => (l2 d line).trans (purgeLines_l2 s hit inside)⟩
    · rw [damaged] at runs
      exact ⟨migrationAborted s e m, runs, migrationAborted_keeps ..⟩
  · intro m found input step ports new target free
    have runs := execMigrationCopyDone_eq entry found input step ports target free
    refine ⟨fun whole => ?_, fun damaged => ?_⟩
    · rw [whole] at runs
      exact ⟨migrationMoved s e m page, runs, migrationMoved_keeps ..⟩
    · rw [damaged] at runs
      obtain rfl := migration?_page found
      exact ⟨migrationAborted s e m, runs, migrationAborted_keeps ..⟩
  · intro leaf input walks good own booted up free state old
    refine ⟨quarantined s e page leaf, _, (execPageQuarantine_eq entry input walks good own booted up free state).trans
      (congrArg _ (quarantine_eq ..)), quarantined_keeps ..⟩
  · intro old home frame input quarantine booted up free ports good
    obtain ⟨gone, lost, damaged⟩ := unquarantine_keeps (frameRestored s e page old home frame) page
    have members := frameRestored_lost s e page old home frame
    rw [← lost, ← damaged] at members
    exact ⟨_, entryBecomes_setLeaf rfl _ _ _, execPageRestore_restores entry input quarantine booted up free ports good rfl, gone,
      fun l => (members l).1, fun l => (members l).2⟩
  · intro sn la ha i f s' listed place cow leaf valid state ports free bank slot history taken new u v
    obtain ⟨bufs, snaps⟩ := takeFrame_keeps taken
    obtain ⟨gone, bufs', snaps', dram, l2, tlb⟩ := copiedOnWrite_keeps s' e page leaf new la ha
    exact ⟨copiedOnWrite s' e page leaf new la ha,
      execCowComplete_copies entry listed place cow rfl valid state ports free bank slot history taken, gone, bufs'.trans bufs,
      snaps'.trans snaps, dram, l2, tlb⟩
  · intro sn slot leaf ha listed inside walks place h used ports free bank kept u
    exact ⟨_, execHistoryFrameFree_frees entry listed inside walks place rfl used ports free bank kept, historyFreed_keeps ..⟩
  · exact fun old new canonical b inside => Memory.get_copy canonical inside

end
